-- ==== Sys2Proof/Machine/Num.lean ====
section
/-!
DEFINITION. Exact values and FP32 arithmetic: the encodings of Tables 2.2 and 2.3, one rounding of an exact value
(R40 to R44), exact sums (R55), the operators of Table 2.6 (R56) and the reference functions (R59, R60).
-/
namespace Sys2Proof.Machine

open Sys2Proof

/-! ### Exact values -/

/-- An exact value of an element: NaN, an infinity, or `(-1)^neg * m * 2^e` (zeros keep their sign, R49). -/
inductive Val where
  | nan
  | inf (neg : Bool)
  | fin (neg : Bool) (m : Nat) (e : Int)
  deriving DecidableEq, Repr

/-- A signed dyadic number `m * 2^e`. -/
structure Dy where
  m : Int
  e : Int
  deriving DecidableEq, Repr

/-- `v * 2^k` as an integer, for `k` not negative. -/
def shlInt (v : Int) (k : Nat) : Int := v * ((2 ^ k : Nat) : Int)

/-- Exact sum of two dyadics. -/
def Dy.add (a b : Dy) : Dy :=
  if a.m = 0 then b else if b.m = 0 then a else
  let e := min a.e b.e
  ⟨shlInt a.m (a.e - e).toNat + shlInt b.m (b.e - e).toNat, e⟩

/-- Exact product of two dyadics. -/
def Dy.mul (a b : Dy) : Dy := ⟨a.m * b.m, a.e + b.e⟩

/-- Exact negation. -/
def Dy.neg (a : Dy) : Dy := ⟨-a.m, a.e⟩

/-- `a < b`, exactly. -/
def Dy.lt (a b : Dy) : Bool :=
  let e := min a.e b.e
  decide (shlInt a.m (a.e - e).toNat < shlInt b.m (b.e - e).toNat)

/-- `a ≤ b`, exactly. -/
def Dy.le (a b : Dy) : Bool := !(b.lt a)

/-- `a = b` as numbers. -/
def Dy.eq (a b : Dy) : Bool := a.le b && b.le a

/-- The magnitude. -/
def Dy.abs (a : Dy) : Dy := ⟨a.m.natAbs, a.e⟩

/-- `ec(x)` of R68: the smallest integer `e` with `|x| < 2^e`, for `x` not zero. -/
def Dy.ec (a : Dy) : Int := a.e + (a.m.natAbs.log2 : Int) + 1

/-- `floor(a / 2^k)`. -/
def Dy.floorAt (a : Dy) (k : Int) : Int :=
  if k ≤ a.e then shlInt a.m (a.e - k).toNat
  else a.m / ((2 ^ (k - a.e).toNat : Nat) : Int)

/-- True when `a` is a whole multiple of `2^k`. -/
def Dy.multOf (a : Dy) (k : Int) : Bool :=
  if k ≤ a.e then true else a.m % ((2 ^ (k - a.e).toNat : Nat) : Int) == 0

/-- Nearest integer to `n / d`, ties to the even integer (rne of R85), for `d` positive. -/
def rneDiv (n : Int) (d : Nat) : Int :=
  let q := n / (d : Int)
  let r := n % (d : Int)
  if 2 * r < d then q else if (d : Int) < 2 * r then q + 1 else if q % 2 = 0 then q else q + 1

/-- Nearest integer to `a / 2^k`, ties to even. -/
def Dy.rneAt (a : Dy) (k : Int) : Int :=
  if k ≤ a.e then shlInt a.m (a.e - k).toNat else rneDiv a.m (2 ^ (k - a.e).toNat)

/-- The finite value as a signed dyadic; non-finite values give zero. -/
def Val.dy : Val → Dy
  | .fin neg m e => ⟨if neg then -(m : Int) else m, e⟩
  | _ => ⟨0, 0⟩

/-- True for a finite value. -/
def Val.isFin : Val → Bool
  | .fin _ _ _ => true
  | _ => false

/-- True for NaN. -/
def Val.isNan : Val → Bool
  | .nan => true
  | _ => false

/-- True for either zero. -/
def Val.isZero : Val → Bool
  | .fin _ m _ => m == 0
  | _ => false

/-- The sign bit of a value; NaN counts as positive (R32). -/
def Val.sign : Val → Bool
  | .nan => false
  | .inf s => s
  | .fin s _ _ => s

/-- A signed dyadic as a value; zero takes the sign given. -/
def Dy.toVal (a : Dy) (zeroNeg : Bool := false) : Val :=
  if a.m = 0 then .fin zeroNeg 0 0 else .fin (decide (a.m < 0)) a.m.natAbs a.e

/-! ### Floating-point formats (Table 2.2) -/

/-- Parameters of a floating-point format. -/
structure FpParams where
  ebits : Nat
  fbits : Nat
  bias : Nat
  /-- Largest finite value: `maxT * 2^maxK`. -/
  maxT : Nat
  maxK : Int
  /-- Canonical NaN of Table 2.3. -/
  nan : Nat
  /-- E4M3 has no infinities (R31). -/
  hasInf : Bool
  deriving DecidableEq, Repr

/-- Table 2.2, FP32. -/
def fpFP32 : FpParams := ⟨8, 23, 127, 2 ^ 24 - 1, 104, 0x7FC00000, true⟩
/-- Table 2.2, BF16. -/
def fpBF16 : FpParams := ⟨8, 7, 127, 2 ^ 8 - 1, 120, 0x7FC0, true⟩
/-- Table 2.2, FP16. -/
def fpFP16 : FpParams := ⟨5, 10, 15, 2 ^ 11 - 1, 5, 0x7E00, true⟩
/-- Table 2.2, E4M3. -/
def fpE4M3 : FpParams := ⟨4, 3, 7, 14, 5, 0x7F, false⟩
/-- Table 2.2, E5M2. -/
def fpE5M2 : FpParams := ⟨5, 2, 15, 7, 13, 0x7E, true⟩
/-- Table 2.2, E2M1, the element of FP4B. -/
def fpE2M1 : FpParams := ⟨2, 1, 1, 3, 1, 0, false⟩

/-- Total bits of a format. -/
def FpParams.width (p : FpParams) : Nat := 1 + p.ebits + p.fbits

/-- R30, R31: the value an encoding stands for. -/
def FpParams.decode (p : FpParams) (bits : Nat) : Val :=
  let neg := bits.testBit (p.ebits + p.fbits)
  let ef := bitsOf bits p.fbits p.ebits
  let fr := bitsOf bits 0 p.fbits
  let top := 2 ^ p.ebits - 1
  if p.hasInf ∧ ef = top then (if fr = 0 then .inf neg else .nan)
  else if p.nan = 0x7F ∧ ef = top ∧ fr = 7 then .nan
  else if ef = 0 then .fin neg fr (1 - (p.bias : Int) - p.fbits)
  else .fin neg (2 ^ p.fbits + fr) ((ef : Int) - p.bias - p.fbits)

/-- Rounding: to nearest even (R43), or stochastic with the 16-bit draw of the element (R44). -/
inductive Rnd where
  | near
  | stoch (r : Nat)
  deriving DecidableEq, Repr

/-- The rounded quotient `N / D` as a whole number of quanta (R43, R44). -/
def roundQuot (rnd : Rnd) (N D : Nat) : Nat :=
  let t := N / D
  let r := N % D
  match rnd with
  | .near => if 2 * r < D then t else if D < 2 * r then t + 1 else if t % 2 = 0 then t else t + 1
  | .stoch draw => if 65536 ≤ r * 65536 / D + draw then t + 1 else t

/-- `floor(log2 (m / d))` for positive `m` and `d`. -/
def ilog2Q (m d : Nat) : Int :=
  let l : Int := (m.log2 : Int) - (d.log2 : Int)
  let ge : Bool := if 0 ≤ l then decide (d * 2 ^ l.toNat ≤ m) else decide (d ≤ m * 2 ^ (-l).toNat)
  if ge then l else l - 1

/-- The fraction `(m / d) * 2^(e - k)` as numerator and denominator. -/
def scaleQ (m d : Nat) (e k : Int) : Nat × Nat :=
  if k ≤ e then (m * 2 ^ (e - k).toNat, d) else (m, d * 2 ^ (k - e).toNat)

/-- One rounding of the magnitude `(m / d) * 2^e` to the format: `(t, k)` for `t * 2^k` (R40, R43, R44). -/
def FpParams.roundMag (p : FpParams) (rnd : Rnd) (m d : Nat) (e : Int) : Nat × Int :=
  if m = 0 then (0, 1 - (p.bias : Int) - p.fbits) else
  let k := max (ilog2Q m d + e - p.fbits) (1 - (p.bias : Int) - p.fbits)
  let nd := scaleQ m d e k
  (roundQuot rnd nd.1 nd.2, k)

/-- True when `t * 2^k` exceeds the largest finite value (R45). -/
def FpParams.beyond (p : FpParams) (t : Nat) (k : Int) : Bool :=
  Dy.lt ⟨(p.maxT : Int), p.maxK⟩ ⟨(t : Int), k⟩

/-- The sign bit in place. -/
def FpParams.signBit (p : FpParams) (neg : Bool) : Nat := if neg then 2 ^ (p.ebits + p.fbits) else 0

/-- The fields of the representable magnitude `t * 2^k`. -/
def FpParams.encodeMag (p : FpParams) (neg : Bool) (t : Nat) (k : Int) : Nat :=
  if t < 2 ^ p.fbits then p.signBit neg + t
  else
    let tk : Nat × Int := if t = 2 ^ (p.fbits + 1) then (2 ^ p.fbits, k + 1) else (t, k)
    p.signBit neg + (tk.2 + p.fbits + p.bias).toNat * 2 ^ p.fbits + (tk.1 - 2 ^ p.fbits)

/-- Largest finite value of a sign. -/
def FpParams.maxFin (p : FpParams) (neg : Bool) : Nat := p.encodeMag neg p.maxT p.maxK

/-- An infinity of a format; a format without infinities gives its NaN (Table 2.5, E4M3 row). -/
def FpParams.infBits (p : FpParams) (neg : Bool) : Nat :=
  if p.hasInf then p.signBit neg + (2 ^ p.ebits - 1) * 2 ^ p.fbits else p.nan

/-- Result of a conversion: the bits, a non-finite indication (R45) and a saturation report (R47). -/
structure Cvt where
  bits : Nat
  nf : Bool
  sat : Bool
  deriving DecidableEq, Repr

/-- Conversion of the exact magnitude `(m / d) * 2^e` to FP32, BF16, FP16, E4M3 or E5M2 (R40 to R47, Table 2.5). -/
def FpParams.cvtQ (p : FpParams) (sat : Bool) (rnd : Rnd) (neg : Bool) (m d : Nat) (e : Int) : Cvt :=
  let tk := p.roundMag rnd m d e
  if p.beyond tk.1 tk.2 then
    if p.hasInf && !sat then ⟨p.infBits neg, true, false⟩
    else ⟨p.maxFin neg, false, true⟩
  else ⟨p.encodeMag neg tk.1 tk.2, false, false⟩

/-- Conversion of a value to FP32, BF16, FP16, E4M3 or E5M2 (Table 2.5). -/
def FpParams.cvt (p : FpParams) (sat : Bool) (rnd : Rnd) : Val → Cvt
  | .nan => ⟨p.nan, true, false⟩
  | .inf s => ⟨p.infBits s, true, false⟩
  | .fin s m e => p.cvtQ sat rnd s m 1 e

/-! ### FP32 operators (Table 2.6) -/

/-- Canonical FP32 NaN (Table 2.3). -/
def nan32 : F32 := 0x7FC00000#32
/-- FP32 infinity. -/
def inf32 (neg : Bool) : F32 := if neg then 0xFF800000#32 else 0x7F800000#32
/-- FP32 zero. -/
def zero32 (neg : Bool := false) : F32 := if neg then 0x80000000#32 else 0#32
/-- FP32 one. -/
def one32 : F32 := 0x3F800000#32

/-- The value of an FP32 word. -/
def val32 (x : F32) : Val := fpFP32.decode x.toNat

/-- round32 of `(-1)^neg * (m / d) * 2^e`; overflow gives an infinity (Table 2.6). -/
def round32Q (neg : Bool) (m d : Nat) (e : Int) : F32 :=
  BitVec.ofNat 32 (fpFP32.cvtQ false .near neg m d e).bits

/-- round32 of an exact dyadic; an exact zero takes the sign given. -/
def round32 (a : Dy) (zeroNeg : Bool := false) : F32 :=
  if a.m = 0 then zero32 zeroNeg else round32Q (decide (a.m < 0)) a.m.natAbs 1 a.e

/-- round32 of a value, by which a source element enters a vector operation (R48). No control field goes with it, so a 4-bit
element whose magnitude reaches 2^128 takes the infinity of the row SAT = 0 of Table 2.5 (DESIGN CHOICE: log entry 106). -/
def round32V : Val → F32
  | .nan => nan32
  | .inf s => inf32 s
  | .fin s m e => round32Q s m 1 e

/-- Sign of an exact zero sum of two addends under IEEE 754, round to nearest. -/
def zeroSumSign (sa sb : Bool) (za zb : Bool) : Bool := sa && sb && za && zb

/-- Exact sum of two values, as IEEE 754 addition before rounding. -/
def Val.add : Val → Val → Val
  | .nan, _ => .nan
  | _, .nan => .nan
  | .inf a, .inf b => if a = b then .inf a else .nan
  | .inf a, _ => .inf a
  | _, .inf b => .inf b
  | .fin sa ma ea, .fin sb mb eb =>
    ((Val.fin sa ma ea).dy.add (Val.fin sb mb eb).dy).toVal (zeroSumSign sa sb (ma == 0) (mb == 0))

/-- Exact product of two values, as IEEE 754 multiplication before rounding. -/
def Val.mul : Val → Val → Val
  | .nan, _ => .nan
  | _, .nan => .nan
  | .inf a, .inf b => .inf (a != b)
  | .inf a, .fin sb mb _ => if mb = 0 then .nan else .inf (a != sb)
  | .fin sa ma _, .inf b => if ma = 0 then .nan else .inf (sa != b)
  | .fin sa ma ea, .fin sb mb eb => .fin (sa != sb) (ma * mb) (ea + eb)

/-- The value with its sign bit inverted; NaN stays NaN. -/
def Val.neg : Val → Val
  | .nan => .nan
  | .inf s => .inf (!s)
  | .fin s m e => .fin (!s) m e

/-- `a ⊕ b`. -/
def fadd (a b : F32) : F32 := round32V ((val32 a).add (val32 b))
/-- `−(a)`: the sign bit inverted exactly (R214, R332). -/
def fneg (a : F32) : F32 := a ^^^ 0x80000000#32
/-- `a ⊖ b`. -/
def fsub (a b : F32) : F32 := round32V ((val32 a).add (val32 b).neg)
/-- `a ⊗ b`. -/
def fmul (a b : F32) : F32 := round32V ((val32 a).mul (val32 b))
/-- `fma(a, b, c)`: one rounding of `a * b + c`. -/
def ffma (a b c : F32) : F32 := round32V (((val32 a).mul (val32 b)).add (val32 c))

/-- `a ⊘ b`. -/
def fdiv (a b : F32) : F32 :=
  match val32 a, val32 b with
  | .nan, _ => nan32
  | _, .nan => nan32
  | .inf _, .inf _ => nan32
  | .inf s, .fin t _ _ => inf32 (s != t)
  | .fin s _ _, .inf t => zero32 (s != t)
  | .fin s m e, .fin t n f =>
    if n = 0 then (if m = 0 then nan32 else inf32 (s != t))
    else round32Q (s != t) m n (e - f)

/-- `a > b` on values that are not NaN. -/
def Val.gt : Val → Val → Bool
  | .nan, _ => false
  | _, .nan => false
  | .inf a, .inf b => !a && b
  | .inf a, _ => !a
  | _, .inf b => b
  | a, b => b.dy.lt a.dy

/-! ### Exact sums (R55, R64) -/

/-- The flags and the exact sum of the terms seen so far (R55, R64). -/
structure Acc where
  nan : Bool
  pinf : Bool
  ninf : Bool
  /-- Every term so far is −0 (vacuously true with none). -/
  allNegZero : Bool
  /-- At least one term has been seen. -/
  any : Bool
  sum : Dy
  deriving DecidableEq, Repr

/-- An accumulator with no terms. -/
def Acc.empty : Acc := ⟨false, false, false, true, false, ⟨0, 0⟩⟩

/-- A term enters the sum (R64). -/
def Acc.push (a : Acc) (v : Val) : Acc :=
  match v with
  | .nan => { a with nan := true, allNegZero := false, any := true }
  | .inf s => { a with pinf := a.pinf || !s, ninf := a.ninf || s, allNegZero := false, any := true }
  | .fin s m _ => { a with allNegZero := a.allNegZero && s && m == 0, any := true, sum := a.sum.add v.dy }

/-- The accumulator of a list of terms. -/
def Acc.ofList (l : List Val) : Acc := l.foldl Acc.push Acc.empty

/-- The value of R55: one rounding of `c * sum / n`, with the special cases. -/
def Acc.result (a : Acc) (c : Dy := ⟨1, 0⟩) (n : Nat := 1) : F32 :=
  if a.nan || (a.pinf && a.ninf) then nan32
  else if a.pinf then inf32 (decide (c.m < 0))
  else if a.ninf then inf32 (decide (0 ≤ c.m))
  else
    let s := a.sum.mul c
    if s.m = 0 then zero32 (a.any && a.allNegZero)
    else round32Q (decide (s.m < 0)) s.m.natAbs n s.e

/-- `exact_sum` of Table 2.6 over values. -/
def exactSum (l : List Val) (n : Nat := 1) : F32 := (Acc.ofList l).result ⟨1, 0⟩ n

/-- `max(x)` of Table 2.6: the largest term; −Infinity when there are none. NaN terms are skipped here. Of zeros of opposite
sign, which compare equal, the first stays (DESIGN CHOICE: log entry 107). -/
def maxVal (l : List F32) : F32 :=
  l.foldl (fun m x => if (val32 x).gt (val32 m) then x else m) (inf32 true)

/-! ### Reference functions (R59, R60) -/

/-- Integer square root by binary digits, from bit `k` down. -/
def isqrtGo : Nat → Nat → Nat → Nat
  | 0, _, r => r
  | k + 1, n, r => let r' := r + 2 ^ k; isqrtGo k n (if r' * r' ≤ n then r' else r)

/-- `floor(sqrt n)`. -/
def isqrt (n : Nat) : Nat := isqrtGo (n.log2 / 2 + 1) n 0

/-- recip (R59, Table 2.7). -/
def frecip (x : F32) : F32 :=
  match val32 x with
  | .nan => nan32
  | .inf s => zero32 s
  | .fin s m e => if m = 0 then inf32 s else round32Q s 1 m (-e)

/-- rsqrt (R59, Table 2.7): 1/√x is formed to 64 significant bits with a sticky bit and rounded once. -/
def frsqrt (x : F32) : F32 :=
  match val32 x with
  | .nan => nan32
  | .inf s => if s then nan32 else zero32 false
  | .fin s m e =>
    if m = 0 then inf32 s
    else if s then nan32
    else
      let me : Nat × Int := if e % 2 = 0 then (m, e) else (2 * m, e - 1)
      -- 1/√(m·2^e) = √(2^192 / m) · 2^(-96 - e/2)
      let q := 2 ^ 192 / me.1
      let exact : Bool := 2 ^ 192 % me.1 == 0
      let r := isqrt q
      let st : Nat := if exact && r * r == q then 2 * r else 2 * r + 1
      round32Q false st 1 (-97 - me.2 / 2)

/-- ln 2 to 60 decimal digits, as a numerator over 10^60; it fixes the constants of Table 2.8. -/
def ln2Num : Nat := 693147180559945309417232121458176568075500134360255254120680

/-- Table 2.8, L. -/
def expL : F32 := round32Q false (64 * 10 ^ 60) ln2Num 0
/-- Table 2.8, C_HI. -/
def expCHi : F32 := round32Q false ln2Num (64 * 10 ^ 60) 0
/-- Table 2.8, C_LO: ln 2 / 64 − C_HI, rounded once. -/
def expCLo : F32 :=
  let h := (val32 expCHi).dy
  -- ln2/64 − h.m·2^h.e over the common denominator 64·10^60·2^(−h.e)
  let n : Int := shlInt (ln2Num : Int) (-h.e).toNat - h.m * (64 * 10 ^ 60)
  round32Q (decide (n < 0)) n.natAbs (64 * 10 ^ 60) h.e
/-- Table 2.8, C3. -/
def expC3 : F32 := round32Q false 1 6 0

/-- Largest `r` with `r^64 ≤ n`, by binary digits. -/
def root64Go : Nat → Nat → Nat → Nat
  | 0, _, r => r
  | k + 1, n, r => let r' := r + 2 ^ k; root64Go k n (if r' ^ 64 ≤ n then r' else r)

/-- Table 2.8, T[j] = round32(2^(j/64)): the 64th root of 2^j to 48 fraction bits with a sticky bit. -/
def expT (j : Nat) : F32 :=
  let n := 2 ^ (j + 64 * 48)
  let r := root64Go 50 n 0
  let st := if r ^ 64 = n then 2 * r else 2 * r + 1
  round32Q false st 1 (-49)

/-- 0.5 in FP32. -/
def half32 : F32 := 0x3F000000#32

/-- The FP32 value of a whole number. -/
def ofInt32 (k : Int) : F32 := round32 ⟨k, 0⟩

/-- exp (R60). -/
def fexp (x : F32) : F32 :=
  match val32 x with
  | .nan => nan32
  | .inf s => if s then zero32 false else inf32 false
  | v =>
    if (v.dy).lt ⟨-150, 0⟩ then zero32 false
    else if (Dy.mk 128 0).lt v.dy then inf32 false
    else
      let k : Int := (val32 (fmul x expL)).dy.rneAt 0
      let n : Int := k / 64
      let j : Nat := (k - 64 * n).toNat
      let nk := fneg (ofInt32 k)
      let r0 := ffma nk expCHi x
      let r := ffma nk expCLo r0
      let q0 := ffma expC3 r half32
      let q := fmul q0 r
      let p := ffma q r r
      let t := expT j
      let s := ffma t p t
      match val32 s with
      | .fin sg m e => round32Q sg m 1 (e + n)
      | w => round32V w

/-! ### The rounding stream (R50) -/

/-- `mix64` of R50. -/
def mix64 (x : W64) : W64 :=
  let x := x ^^^ (x >>> 31)
  let x := x * 0xD6E8FEB86659FD93#64
  let x := x ^^^ (x >>> 29)
  let x := x * 0xA0761D6478BD642F#64
  x ^^^ (x >>> 32)

/-- `draw16` of R50: the 16-bit draw of an element. -/
def draw16 (seed : W64) (tensor step index : Nat) : Nat :=
  let k := mix64 (seed ^^^ 0x5851F42D4C957F2D#64)
  let a := mix64 (k ^^^ BitVec.ofNat 64 (tensor * 2 ^ 32 + step))
  let w := mix64 (a ^^^ BitVec.ofNat 64 (index / 4) ^^^ 0x2545F4914F6CDD1D#64)
  (w.toNat >>> (16 * (index % 4))) % 65536

end Sys2Proof.Machine
end

