-- ==== Sys2Proof/Syntax.lean ====
section
/-!
DEFINITION. The commands of the module as a block: one constructor of `Instr` per row of spec/opcode_table.json, with
the row's operands. A row of the command set names its command by the issue sequence number it received (R318); its
fields are read from the descriptor it was fetched with. A row that reports an event of the outside world (a
measurement, an arriving message, a pin) carries what the outside world supplied.
-/
namespace Sys2Proof

/-- The three masters of "Ownership" (R417). -/
inductive Master where
  | host
  | bmc
  | debug
  deriving DecidableEq, Repr

/-- A function with a ready bit (Table 16.4). -/
inductive Func where
  | trust
  | hostLink
  | firmware
  | hubStore
  | exchange
  | wstore (d : Fin 4)
  | stack (s : Fin 8)
  | port (p : Fin 12)
  | bank (d : Fin 4) (b : Fin 32)
  | cluster (d : Fin 4) (c : Fin 32)
  deriving DecidableEq, Repr

/-- A coordinate of an array (Table 0.4): `array` runs to 263, spares from 256. -/
structure ArrayId where
  die : Fin 4
  bank : Fin 32
  array : Fin 264
  deriving DecidableEq, Repr

/-- A bank of a compute die. -/
structure BankId where
  die : Fin 4
  bank : Fin 32
  deriving DecidableEq, Repr

/-- A cluster of a compute die. -/
structure ClusterId where
  die : Fin 4
  cluster : Fin 32
  deriving DecidableEq, Repr

/-- A core of a cluster: the corner of a gang (R164). -/
structure Corner where
  row : Fin 8
  col : Fin 8
  deriving DecidableEq, Repr

/-- A Vector and Numerics engine of a die. -/
structure EngineId where
  die : Fin 4
  engine : Fin 16
  deriving DecidableEq, Repr

/-- Cycles of a ramp: those that have passed at its present stage, and fillers issued in them (R171, R172). -/
structure RampCycles where
  passed : Nat
  fillers : Nat
  deriving DecidableEq, Repr

/-- An element of a tile, or a line of a resolution, and what a check of the residue shadow looks at there (R80): the block
for a block check; the rounded value and the discarded remainder that the output stage gives, both in floor units, for a
rounding check; the shadow's own copies of T, e_max and the anchor for a test check. -/
structure CheckPlace where
  elem : Nat
  block : Nat
  rounded : Int
  rest : Int
  truncated : Nat
  emax : Int
  anchor : Int
  deriving DecidableEq, Repr

/-- One of a command's operation residue checks, and the element that it reports (R280, R285). -/
structure CheckId where
  index : Nat
  elem : Nat
  deriving DecidableEq, Repr

/-- The bytes of a register access (R472). -/
inductive AccessSize where
  | four
  | eight
  | other (bytes : Nat)
  deriving DecidableEq, Repr

/-- A read of a register address (R8). -/
structure RegRead where
  off : Nat
  size : AccessSize
  deriving DecidableEq, Repr

/-- Which read of a spanned tensor a message is about: its input vector and row segment, its column group, and the coordinate
of the array that read (R119; R119 lists the last two only, the others tell the reads of one array apart, DESIGN CHOICE:
log entry 146). -/
structure SpanPlace where
  vec : Nat
  seg : Nat
  group : Nat
  coord : Nat
  deriving DecidableEq, Repr

/-- A piece of an input vector of a spanned read: the vector, and the segment or column group that it drives (R120). -/
structure SpanPiece where
  vec : Nat
  index : Nat
  deriving DecidableEq, Repr

/-- Where a message goes, and the virtual channel that it came on (R276). -/
structure MsgRoute where
  dest : Nat
  vc : Fin 5
  deriving DecidableEq, Repr

/-- A message of another module about the partial sums of one of its arrays (R119): the sums m × 2^e by line; their checks
have passed; they are retracted. -/
inductive SpanNote where
  | sums (e : Int) (ms : List Int)
  | passed
  | retracted
  deriving DecidableEq, Repr

/-- What returns to nominal: a cluster's rail or clock, or a bank's rail (R302). -/
inductive NominalUnit where
  | cluster (x : ClusterId)
  | bank (x : BankId)
  deriving DecidableEq, Repr

/-- A lane of a bucket part (step, bucket, rank of its shard) that fails its residue check with a predicted and an observed
residue; `again` says that the lane fails once more when it has been rebuilt (R282). -/
structure LaneFault where
  step : Nat
  bucket : Nat
  owner : Nat
  predicted : Fin 256
  observed : Fin 256
  again : Bool
  deriving DecidableEq, Repr

/-- What the outside world has done to memory since the last such report: bytes the host stored to its own memory,
the host address ranges whose accesses fail from now on with the PCIe cause of MV_CH_FAIL_INFO (1 to 4, 6),
symbol errors that have struck codewords (codeword number = address / 32, and a pattern whose byte i is added to
symbol c_i of Table 13.3), and errors in the lanes of bucket parts. -/
structure Env where
  stores : List (Nat × List Byte)
  hostBad : List (Nat × Nat × Nat)
  upsets : List (Nat × Nat)
  lanes : List LaneFault
  deriving DecidableEq, Repr

/-- How a critical command arrives (R334, R417): on a host ring, or as the two slots and the structure that follows
them in an MCTP message or in the debug port's data register. -/
inductive Crit where
  | ring (seq : Nat)
  | mctp (slots extra : List Byte)
  | debug (slots extra : List Byte)
  deriving DecidableEq, Repr

/-- The register bank a write to a mask or pending register names: normal register k, or the fast bank (R455). -/
inductive IcBank where
  | normal (k : Fin 16)
  | fast
  deriving DecidableEq, Repr

/-- The SPDM transport: DOE for the host, MCTP for the BMC (R413). -/
inductive SpdmPath where
  | doe
  | mctp
  deriving DecidableEq, Repr

/-- A measured quantity, `num / den` of its unit (a `den` of 0 stands for 1). -/
structure Reading where
  num : Int
  den : Nat
  deriving DecidableEq, Repr

/-- What one governed subsystem reports at a sample, in 1/8 W: its measured draw, and the draw that its queued work would
take at full rate (R441). -/
structure Load where
  draw : Nat
  queued : Nat
  deriving DecidableEq, Repr

/-- One 10 µs sample of the governor (R441, Table 16.8): the hottest sensor of each die and the coolant in °C, voltages in
V, power in W, the hub die's draw in 1/8 W, and the four governed subsystems. -/
structure GovSample where
  tj0 : Reading
  tj1 : Reading
  tj2 : Reading
  tj3 : Reading
  tjHub : Reading
  coolIn : Reading
  coolOut : Reading
  vin : Reading
  pin : Reading
  ppkg : Reading
  vaux : Reading
  hub : Nat
  mc : Load
  af : Load
  ms : Load
  vn : Load
  deriving DecidableEq, Repr

/-- The clock domains Dawn starts (Table 16.1). -/
inductive Domain where
  | hub
  | dieBase (d : Fin 4)
  | cluster (d : Fin 4) (c : Fin 32)
  | bank (d : Fin 4) (b : Fin 32)
  deriving DecidableEq, Repr

/-- How the BMC gives an I3C target its dynamic address (R487). -/
inductive I3cAssign where
  | entdaa (addr : Fin 128)
  | setdasa (static addr : Fin 128)
  deriving DecidableEq, Repr

/-- A configuration-space write of function 0 (R440, R491, Table 19.8). -/
inductive CfgWrite where
  | bar4Size (gibLog2 : Fin 7)
  | memorySpace (on : Bool)
  | ptmRequester (on : Bool)
  | aspm (on : Bool)
  | other (offset : Nat) (value : W32)
  deriving DecidableEq, Repr

/-- A host write to the MSI-X capability or table (R453). -/
inductive MsixWrite where
  | enable (on : Bool)
  | functionMask (on : Bool)
  | vectorMask (v : Fin 512) (on : Bool)
  | vectorEntry (v : Fin 512) (addr : W64) (data : W32)
  deriving DecidableEq, Repr

/-- A die-to-die connection of Table 1.2: compute die to hub, or compute die d to (d+1) mod 4. -/
inductive D2D where
  | hub (d : Fin 4)
  | ring (d : Fin 4)
  deriving DecidableEq, Repr

/-- A source of requests (R467). -/
inductive Source where
  | cluster (d : Fin 4) (c : Fin 32)
  /-- The converter path of a bank. -/
  | bank (d : Fin 4) (b : Fin 32)
  | engine (d : Fin 4) (e : Fin 16)
  /-- The scrub of a stack controller. -/
  | scrub (stack : Fin 8)
  /-- A Mover channel. -/
  | channel (c : Fin 64)
  /-- The receive path of a Farpinen port. -/
  | port (p : Fin 12)
  /-- A command processor, by the ring that it serves. -/
  | processor (ring : Fin 64)
  deriving DecidableEq, Repr

/-- One direction of a connection: away from the hub, or up the ring, or back. -/
structure D2DWay where
  link : D2D
  away : Bool
  deriving DecidableEq, Repr

/-- A die-to-die flit as it arrives: its virtual channel, sequence number and codewords (R370). -/
structure D2DArrival where
  vc : Fin 4
  seq : Nat
  bytes : List Byte
  deriving DecidableEq, Repr

/-- A request that reaches its first arbiter: its source, the last arbiter that it crosses, and the cycles of the arbiter's
clock that it has waited. -/
structure Arrival where
  source : Source
  last : Nat
  waited : Nat
  deriving DecidableEq, Repr

/-- Requests that arrive, and the grants that the arbiter then makes (R467). -/
structure ArbiterEvent where
  arrivals : List Arrival
  grants : Nat
  deriving DecidableEq, Repr

/-- The commands of the block: one constructor per row of spec/opcode_table.json. -/
inductive Instr where
  /-- MOVE (R347). Copies each transfer's source bytes to its destination on the named Mover channel. -/
  | move (q : Nat)
  /-- FILL (R348). Writes the 8-byte pattern repeatedly over each transfer's destination. -/
  | fill (q : Nat)
  /-- CMPR (R349). Compares two regions per transfer and reports the lowest differing offset with COMPARE_MISMATCH. -/
  | cmpr (q : Nat)
  /-- WAIT (R326). Holds later commands of its ring until an event counter reaches VALUE or the timeout passes. -/
  | wait (q : Nat)
  /-- SGNL (R327). Adds VALUE to, or with SET writes VALUE into, an event counter once every earlier command of its ring is
  delivered, or clear with CLEAR. -/
  | sgnl (q : Nat)
  /-- FENC (R328). Starts when every earlier command of its ring is clear or failed. -/
  | fenc (q : Nat)
  /-- FENC_ALL (R328). Starts when every command accepted earlier on any ring is clear or failed, and holds later commands of
  other rings until it completes. -/
  | fencAll (q : Nat)
  /-- FENC_RESTART (R328). Acts as FENC with ALL, then releases the journal, every Hamper entry and all exchange state, so that
  no newest step remains. -/
  | fencRestart (q : Nat)
  /-- FENC_REPLAY (R298). Performs a whole-step replay of an incomplete step n and step n + 1 from the journal. -/
  | fencReplay (q : Nat)
  /-- AMVM (R91). Converts input segments to INT8 and reads the tensor's arrays forward, adding the partial sums and companion
  terms exactly at each output group's home cluster. -/
  | amvm (q : Nat)
  /-- AMVT (R100). Drives gradients into the arrays in transpose, or computes them digitally for TDIG tensors, to form input
  gradients. -/
  | amvt (q : Nat)
  /-- PROG (R135). Checks and applies a level-change list to a summer tensor, and completes when every array holds version n. -/
  | prog (q : Nat)
  /-- LOAD (R137). Derives levels from master weights, writes the level image and programmes the named free arrays for a new
  array-resident tensor. -/
  | load (q : Nat)
  /-- MMUL (R177). Computes C := A × B, optionally plus C, on the Matrix Cores with exact accumulation. -/
  | mmul (q : Nat)
  /-- ATTN (R180). Computes streaming attention forward for one head and writes the outputs and the statistics m and D. -/
  | attn (q : Nat)
  /-- ATTN_BWD (R184). Computes the attention gradients dq, dk and dv from q, k, v, y, dy and the statistics. -/
  | attnBwd (q : Nat)
  /-- VECT (R332). Computes an elementwise or row operation selected by OP, by its reference computation. -/
  | vect (q : Nat)
  /-- NORM (R58). Computes layer or root-mean-square normalisation over each row. -/
  | norm (q : Nat)
  /-- SMAX (R57). Computes softmax over each row. -/
  | smax (q : Nat)
  /-- STSH (R229). Converts a block input to the stash format and keeps, drops or spills it in the Hamper under the coarse-keep
  rule. -/
  | stsh (q : Nat)
  /-- RECL (R226). Restores a Hamper entry to its block input address, or reports reach-back when the entry was not kept. -/
  | recl (q : Nat)
  /-- RECOMP (R221). Restores the nearest stashed block input and replays the journalled forward commands up to the named
  block. -/
  | recomp (q : Nat)
  /-- XCHG (R248). Encodes a gradient bucket with error memory and sends its parts to their owners. -/
  | xchg (q : Nat)
  /-- GATH (R269). Sends the module's level-change list to every rank and concatenates the received lists at the destination. -/
  | gath (q : Nat)
  /-- UPDT (R214). Applies the optimizer to the module's shard after the commit fence clears, writing master weights,
  remainders, state and a level-change list. -/
  | updt (q : Nat)
  /-- SCAL_APPLY (R194). Scales a tensor by 2^k, with k taken from EXP or a history record, and writes the result. -/
  | scalApply (q : Nat)
  /-- SCAL_CLOSE (R190). Pushes the open step's maximum of each listed history record, combined across the group with GROUP
  set. -/
  | scalClose (q : Nat)
  /-- SCAL_RESET (R186). Initialises one history record with MARGIN, SPAN and OTH and zeroes every other field. -/
  | scalReset (q : Nat)
  /-- SCAL_CLRFLAG (R206). Writes 0 to RECIPE in one history record. -/
  | scalClrflag (q : Nat)
  /-- SNAP (R399). Writes a Postcard at DEST and triggers the Logbooks. -/
  | snap (q : Nat)
  /-- CNTR_SELECT (R387). Sets the event codes of the ring's 16 counter slots and zeroes the slot counters. -/
  | cntrSelect (q : Nat)
  /-- CNTR_DUMP (R392). Writes all IM_EVT_TOTAL_e global counters, sampled in one cycle, to DEST. -/
  | cntrDump (q : Nat)
  /-- CNTR_LOGREAD (R397). Copies all five Logbooks with their headers to DEST. -/
  | cntrLogread (q : Nat)
  /-- MAINT_SELFCAL (R143). Runs converter self-calibration of every bank, eight banks per die at a time. -/
  | maintSelfcal (q : Nat)
  /-- MAINT_CONVCAL (R160). Runs converter self-calibration of the named banks. -/
  | maintConvcal (q : Nat)
  /-- MAINT_SWEEP (R138). Runs verify sweeps on the named arrays, followed by drift refresh of the rows they queue. -/
  | maintSweep (q : Nat)
  /-- MAINT_GAINCAL (R146). Runs gain closures on the named arrays whose strata meet MIN_READS. -/
  | maintGaincal (q : Nat)
  /-- MAINT_LINETEST (R147). Runs line tests on the named arrays. -/
  | maintLinetest (q : Nat)
  /-- MAINT_LEVELS (R129). Checks and applies a level-change list to a winter tensor. -/
  | maintLevels (q : Nat)
  /-- CLAIM (R419). Makes a master owner on a valid claim and forms a new session with the module's ephemeral key. -/
  | claim (x : Crit)
  /-- HAND (R424). Ends the owner's session and leaves ownership pending for the named successor for 10 s. -/
  | hand (x : Crit)
  /-- LEAS (R422). Renews the owner's lease. -/
  | leas (x : Crit)
  /-- FWLD (R405). Reads, hashes and verifies a firmware image, and starts the firmware when every check passes. -/
  | fwld (x : Crit)
  /-- CFGC_CERTIFICATE (R408). Verifies and installs a configuration certificate in boot state 1. -/
  | cfgcCertificate (x : Crit)
  /-- CFGC_SPARE_MAP (R412). Restores the spare map from 8-byte entries and reapplies it to the named banks and clusters. -/
  | cfgcSpareMap (x : Crit)
  /-- QOVR (R316). Sets a ring's fetch quota until module reset. -/
  | qovr (x : Crit)
  /-- PLIM (R337). Sets the input power limit and the arrays-reading cap. -/
  | plim (x : Crit)
  /-- DBGU (R426). Verifies an unlock token and unlocks the debug port within its scope. -/
  | dbgu (x : Crit)
  /-- DBGU_LOCK (R426). A DBGU with address zero locks the debug port again and ends its ownership. -/
  | dbguLock (x : Crit)
  /-- SANI (R428). Erases the selected scopes: memory, arrays, observation and ownership. -/
  | sani (x : Crit)
  /-- SPDM_GET_VERSION (R413). Answers the SPDM GET_VERSION request. -/
  | spdmGetVersion (p : SpdmPath) (r : List Byte)
  /-- SPDM_GET_CAPABILITIES (R413). Answers the SPDM GET_CAPABILITIES request. -/
  | spdmGetCapabilities (p : SpdmPath) (r : List Byte)
  /-- SPDM_NEGOTIATE_ALGORITHMS (R413). Answers the SPDM NEGOTIATE_ALGORITHMS request with P-521, SHA-512, secp521r1 and
  AES-256-GCM. -/
  | spdmNegotiateAlgorithms (p : SpdmPath) (r : List Byte)
  /-- SPDM_GET_DIGESTS (R413). Answers the SPDM GET_DIGESTS request. -/
  | spdmGetDigests (p : SpdmPath) (r : List Byte)
  /-- SPDM_GET_CERTIFICATE (R413). Returns the vendor certificate chain of slot 0. -/
  | spdmGetCertificate (p : SpdmPath) (r : List Byte)
  /-- SPDM_CHALLENGE (R413). Answers an SPDM CHALLENGE with a signature under the identity key. -/
  | spdmChallenge (p : SpdmPath) (r : List Byte)
  /-- SPDM_GET_MEASUREMENTS (R414). Reports the five measurement blocks, computed when the request is answered. -/
  | spdmGetMeasurements (p : SpdmPath) (r : List Byte)
  /-- SPDM_KEY_EXCHANGE (R413). Performs the SPDM KEY_EXCHANGE that opens a secured session. -/
  | spdmKeyExchange (p : SpdmPath) (r : List Byte)
  /-- SPDM_FINISH (R413). Completes the SPDM secured-session handshake. -/
  | spdmFinish (p : SpdmPath) (r : List Byte)
  /-- SPDM_END_SESSION (R413). Ends an SPDM secured session. -/
  | spdmEndSession (p : SpdmPath) (r : List Byte)
  /-- DOORBELL_POLL (R314). Reads a ring's doorbell record when its poll interval expires, and takes the record when SEQ has
  changed. -/
  | doorbellPoll (n : Fin 64) (e : Env)
  /-- HINT_WINDOW_WRITE (R315). A write to the BAR2 hint window brings the next poll of every enabled ring within 1 µs, and
  ends Doze in A2. -/
  | hintWindowWrite (off : Fin 4096) (v : W32)
  /-- COMMAND_FETCH (R318). Fetches a command in its ring's turn, when the completion ring has room, and checks it for
  acceptance and an issue sequence number. -/
  | commandFetch (n : Fin 64)
  /-- STEP_HOLD_RELEASE (R217). Accepts a command held for step N + 1 once step N − 1 is resolved. -/
  | stepHoldRelease (n : Fin 64)
  /-- COMMAND_START (R450). Starts an accepted command once its ring order, its dependencies and every ready bit it needs
  permit it. -/
  | commandStart (q : Nat)
  /-- BRINGUP_HOLD_TIMEOUT (R450). Completes a command held for ready bits with NOT_READY_TIMEOUT when HOLD_MS expires. -/
  | bringupHoldTimeout (q : Nat)
  /-- COMMAND_CLEAR (R283). Marks a command clear once every check of its results has passed and every command it depends on is
  clear. -/
  | commandClear (q : Nat)
  /-- COMPLETION_RECORD_WRITE (R338). Writes a command's completion record in fetch order, once a record slot is free, and
  raises the completion interrupt on IRQ. -/
  | completionRecordWrite (n : Fin 64)
  /-- COMPLETION_GRACE_EXPIRY (R317). Sets OVERDUE and raises the ring's error interrupt when a record has waited longer than
  GRACE_MS. -/
  | completionGraceExpiry (n : Fin 64)
  /-- WAIT_SATISFIED (R326). A WAIT is satisfied when its counter reaches VALUE. -/
  | waitSatisfied (q : Nat)
  /-- WAIT_TIMEOUT_EXPIRY (R326). Completes a WAIT with WAIT_TIMEOUT at its timeout and halts its ring. -/
  | waitTimeoutExpiry (q : Nat)
  /-- VERSION_WAIT_TIMEOUT (R134). Completes a command whose read waited for a newer version for WAIT_US with WAIT_TIMEOUT. -/
  | versionWaitTimeout (q : Nat)
  /-- RING_ENABLE (R310). A write of 1 to ENABLE enables the ring, zeroes its counts and schedules its first poll, or is
  refused on bad addresses or size. -/
  | ringEnable (m : Master) (n : Fin 64) (v : W32)
  /-- RING_DISABLE (R311). A write of 0 to ENABLE stops fetching and drains the ring's commands to completion. -/
  | ringDisable (m : Master) (n : Fin 64) (v : W32)
  /-- RING_RESUME (R341). A write of 1 to RESUME continues a halted ring at its next unfetched slot. -/
  | ringResume (m : Master) (n : Fin 64) (v : W32)
  /-- MOVER_RESTART (R358). A write of 1 to RESTART zeroes the consecutive-error count and resumes a halted channel. -/
  | moverRestart (m : Master) (c : Fin 64) (v : W32)
  /-- MOVER_FLUSH (R358). A write of 1 to FLUSH completes every item queued on a halted channel without moving bytes, and
  leaves the channel idle. -/
  | moverFlush (m : Master) (c : Fin 64) (v : W32)
  /-- PORT_RETRAIN (R273). A write of 1 to RETRAIN retrains a Farpinen port with all lanes and clears FAILS. -/
  | portRetrain (m : Master) (p : Fin 12) (v : W32)
  /-- LOGBOOK_ARM (R394). A write of 1 to ARM, when TRACE is granted, clears a Logbook and starts capture in its mode. -/
  | logbookArm (m : Master) (u : Fin 5) (v : W32)
  /-- LOGBOOK_MANUAL_TRIGGER (R395). A write of 1 to TRIG triggers every Logbook with cause 2 when TRIGEN is 1. -/
  | logbookManualTrigger (m : Master) (v : W32)
  /-- POSTCARD_REQUEST (R399). A write of 1 to REQ, or a BMC request, starts a Postcard capture into slot 1. -/
  | postcardRequest (m : Master) (v : W32)
  /-- MODULE_RESET_WRITE (R447). A write of 1 to MODULE in LD_RESET by an allowed master requests a module reset. -/
  | moduleResetWrite (m : Master) (v : W32)
  /-- HAMPER_REGION_WRITE (R380). Accepts or discards a new Hamper region placement and holds it pending until the Hamper is
  empty. -/
  | hamperRegionWrite (m : Master) (v : W32)
  /-- IC_PEND_SET (R452). A write of 1 to a pending-set bit adds one arrival to the source. -/
  | icPendSet (m : Master) (b : IcBank) (v : W32)
  /-- IC_PEND_CLR (R454). A write of 1 to a pending-clear bit sets the source's count to 0 and clears SAT. -/
  | icPendClr (m : Master) (b : IcBank) (v : W32)
  /-- IC_ACK (R454). Subtracts COUNT from a source's count, and sends a new message when the source is still pending and
  unmasked. -/
  | icAck (m : Master) (v : W32)
  /-- IC_MASK_SET (R454). A write of 1 to a mask-set bit masks the source. -/
  | icMaskSet (m : Master) (b : IcBank) (v : W32)
  /-- IC_MASK_CLR (R453). A write of 1 to a mask-clear bit unmasks the source, which sends a message when it is pending. -/
  | icMaskClr (m : Master) (b : IcBank) (v : W32)
  /-- REGISTER_WRITE (R4). A write to a register without behaviour of its own acts on its fields by their access codes and
  ownership. -/
  | registerWrite (m : Master) (off : Nat) (size : AccessSize) (v : W64)
  /-- LOWER_HALF_READ (R8). A 32-bit read of the lower half of a 64-bit register latches its upper half for that master. -/
  | lowerHalfRead (m : Master) (r : RegRead)
  /-- APERTURE_READ (R383). A host read through BAR4 returns device memory at BASE plus offset, poisoned data, or zero. -/
  | apertureRead (m : Master) (off : W64) (len : Fin 4097)
  /-- APERTURE_WRITE (R383). A host write through BAR4 is merged into device memory, or discarded. -/
  | apertureWrite (m : Master) (off : W64) (data : List Byte)
  /-- MOVER_REQUEST_FAIL (R353). When a transfer request fails, the transfer stops issuing requests and is skipped or halts its
  channel. -/
  | moverRequestFail (c : Fin 64) (addr : W64) (dir : Fin 3) (cause : Fin 7) (issued : List (Nat × Nat))
  /-- MOVER_TRANSFER_END (R351). Ends a transfer once its writes are done, and for a host destination once its read-back
  completes, and writes STS. -/
  | moverTransferEnd (c : Fin 64)
  /-- MOVER_HALTED_WAIT_TIMEOUT (R359). Completes a command that has waited WAIT_US on a halted channel with HOST_BUS_ERROR. -/
  | moverHaltedWaitTimeout (q : Nat)
  /-- SPILL_TRANSFER_END (R228). When a spill transfer completes, the entry's region space becomes free. -/
  | spillTransferEnd (c : Fin 64)
  /-- HAMPER_REGION_APPLY (R381). Applies a pending Hamper region once the Hamper holds no entry. -/
  | hamperRegionApply
  /-- ARRAY_READ_START (R117). Starts an array read once the bank is ready, the array is open, its version is permitted and the
  read counts allow. -/
  | arrayReadStart (q r : Nat)
  /-- ARRAY_READ_CONVERSION_END (R96). At the end of conversion, confirms each column's measurement, delivers confirmed codes
  and detects saturation. -/
  | arrayReadConversionEnd (q r : Nat) (meas : List Int)
  /-- RESOLUTION_COMPLETE (R97). Delivers the codes of unconfirmed columns, or of a fully resolved read, computed exactly from
  the level image. -/
  | resolutionComplete (q r : Nat)
  /-- DIGITAL_QUARTER_COMPLETE (R104). Delivers a saturated quarter's exact partial sums computed on the digital path. -/
  | digitalQuarterComplete (q r : Nat)
  /-- CHECKSUM_TEST_COMPLETE (R110). Ends a read's checksum test, which makes its partial sums non-provisional or reports a
  failure. -/
  | checksumTestComplete (q r : Nat)
  /-- ALMANAC_CLAIM_GRANT (R151). Grants an activity's waiting claims in order, and starts the activity with its closure once
  all are held. -/
  | almanacClaimGrant (id : Nat)
  /-- TRANSITION_START (R132). Starts an array's transition once no issued command references its current version and its
  claims are granted. -/
  | transitionStart (x : ArrayId)
  /-- WRITE_WINDOW_END (R133). Ends a write window of row writes, updates the level image and column sums, and ends the
  transition after the last window. -/
  | writeWindowEnd (id : Nat) (cells : List (Nat × Nat × List Int))
  /-- ARRAY_PROGRAMMING_END (R137). Puts a fully programmed array into service at the version its level image holds. -/
  | arrayProgrammingEnd (id : Nat) (cells : List (Nat × Nat × List Int))
  /-- VERIFY_SWEEP_END (R138). Ends a verify sweep and queues the rows that have drifted for refresh. -/
  | verifySweepEnd (id : Nat) (meas : List (Nat × Nat × Int))
  /-- SELF_CALIBRATION_END (R141). Ends a converter self-calibration, installs the correction tables and fails converters that
  are out of tolerance. -/
  | selfCalibrationEnd (id : Nat) (hits : List (Nat × Nat × List Nat))
  /-- GAIN_CLOSURE_END (R146). Ends a gain closure, loads new gain and offset factors and restarts gathering. -/
  | gainClosureEnd (id : Nat)
  /-- LINE_TEST_END (R147). Ends a line test and holds, spares or retires on open or shorted lines. -/
  | lineTestEnd (id : Nat) (up down : List (Nat × Nat))
  /-- RAIL_STEP_END (R301). Ends a change of the bank rail by one step. -/
  | railStepEnd (id : Nat)
  /-- SWEEP_PERIOD_DUE (R140). Queues a verify sweep when the sweep period has passed since the array's last sweep. -/
  | sweepPeriodDue (x : ArrayId)
  /-- CONVERTER_PERIOD_DUE (R144). Queues a bank's converter self-calibration when the converter period has passed. -/
  | converterPeriodDue (x : BankId)
  /-- LINE_PERIOD_DUE (R148). Queues line tests when the line period has passed since the array's last test. -/
  | linePeriodDue (x : ArrayId)
  /-- GAIN_CLOSURE_DUE (R146). Queues a gain closure when INTERVAL has passed and both strata hold MIN_READS reads. -/
  | gainClosureDue (x : ArrayId)
  /-- ACTIVITY_AGING (R158). Moves an activity that has waited 100 ms to priority class 1. -/
  | activityAging (id : Nat)
  /-- GANG_ALLOCATE (R164). Allocates a free gang of the command's shape in issue order. -/
  | gangAllocate (q : Nat) (x : ClusterId) (corner : Corner)
  /-- TILE_PASS_END (R70). Ends a tile pass and tests it for overflow and cancellation. -/
  | tilePassEnd (q n issued : Nat)
  /-- SLOW_PATH_END (R73). Delivers a tile computed on the 640-bit slow path. -/
  | slowPathEnd (q n issued : Nat)
  /-- TILE_CHECK_COMPLETE (R81). Ends the residue shadow's checks of a delivered tile or resolution, which pass or report a
  mismatch. -/
  | tileCheckComplete (q idx : Nat) (ok : Bool) (core : Fin 66) (check : Fin 4) (place : CheckPlace) (observed : Fin 255)
  /-- OPERATION_RESIDUE_CHECK (R280). Ends the Vector and Numerics operation residue check of a written element. -/
  | operationResidueCheck (q : Nat) (check : CheckId) (ok : Bool) (engine : EngineId) (predicted observed : Fin 256)
  /-- RAMP_STAGE_CHANGE (R172). Raises or lowers a cluster's issue stage by one every U/8 or V/8 cycles toward its target. -/
  | rampStageChange (x : ClusterId) (cycles : RampCycles)
  /-- REPAIR_REPLAY_START (R287). Reruns a tainted command from the journal once its tainted predecessors have been delivered
  again. -/
  | repairReplayStart (q : Nat)
  /-- RETURN_TO_NOMINAL (R302). Returns a rail or clock one step to nominal after HOURS without a detected error. -/
  | returnToNominal (u : NominalUnit)
  /-- COMMIT_FENCE (R294). Clears the step's fence once its commands are clear and its exchange condition is met, or skips the
  update when the non-finite flag is set. -/
  | commitFence (n : Nat)
  /-- CONTRIBUTION_ARRIVAL (R256). Takes, holds or discards an arriving copy at the bucket part's owner, and delivers the part
  once every slot has a taken copy. -/
  | contributionArrival (rank step bucket owner : Nat) (nf : Bool) (mode : Fin 4) (bytes : List Byte)
  /-- BUCKET_DEADLINE (R256). At a part's deadline, takes held backups for slots whose primary has not arrived. -/
  | bucketDeadline (step bucket owner : Nat)
  /-- BUCKET_GIVEUP (R259). Makes a bucket part incomplete when its give-up time passes with a slot lacking a copy. -/
  | bucketGiveup (step bucket owner : Nat)
  /-- ALL_CLEAR_ARRIVAL (R258). Records a copy's all-clear and clears the part once every taken copy's all-clear has arrived. -/
  | allClearArrival (rank step bucket owner : Nat)
  /-- RETRACT_ARRIVAL (R265). Subtracts a retracted taken copy from the lanes and reopens its slot, or drops or remembers the
  retraction. -/
  | retractArrival (rank step bucket owner : Nat)
  /-- RETRACT_ACK_ARRIVAL (R292). Once every owner has acknowledged the RETRACT, lets the replayed XCHG send its replacement. -/
  | retractAckArrival (step bucket owner : Nat)
  /-- SUMMARY_SEND (R260). Sends the step summary to every rank once the contributions are sent, owned parts are cleared and
  buddy deliveries are acknowledged. -/
  | summarySend (step : Nat)
  /-- SUMMARY_ARRIVAL (R261). Records a rank's summary and evaluates the exchange condition and the global non-finite flag. -/
  | summaryArrival (rank step : Nat) (nf inc : Bool)
  /-- SUMMARY_GIVEUP (R262). Marks the step incomplete when a summary is still missing GIVEUP_MS after the first one. -/
  | summaryGiveup (step : Nat)
  /-- EXCLUDED_SET_ARRIVAL (R264). Adds a received excluded set to the union under POLICY 1. -/
  | excludedSetArrival (rank step : Nat) (set : List Nat)
  /-- EXCLUSION_WINDOW_END (R264). Applies the union of excluded sets and reforms the group, or stops exchanging when the
  module itself is excluded. -/
  | exclusionWindowEnd (step : Nat) (buddies : List (Nat × Nat))
  /-- CLOSE_MESSAGE_ARRIVAL (R190). Records a member's RUN_MAX and trouble bit for a group CLOSE, and pushes once all have
  arrived. -/
  | closeMessageArrival (rank step ordinal : Nat) (recs : List (F32 × Bool × Bool))
  /-- CLOSE_GIVEUP (R191). Completes a group CLOSE with WAIT_TIMEOUT when a contribution is still missing at the give-up time. -/
  | closeGiveup (q : Nat)
  /-- BUDDY_DELIVERY_ARRIVAL (R267). Writes delivered ward entries to the mirror and acknowledges them. -/
  | buddyDeliveryArrival (step bucket : Nat) (vals : List F32)
  /-- BUDDY_ACK_ARRIVAL (R260). Records the buddy's acknowledgement of a delivery. -/
  | buddyAckArrival (step bucket : Nat)
  /-- LIST_ARRIVAL (R269). Accepts or discards a received level-change list, and writes the gathered list once all have
  arrived. -/
  | listArrival (rank : Nat) (list : List Byte)
  /-- GATH_GIVEUP (R270). Writes a complemented header and completes GATH with WAIT_TIMEOUT when a list is still missing. -/
  | gathGiveup (q : Nat)
  /-- SPANNED_PARTIAL_SUM_ARRIVAL (R119). Adds a partial sum from another module's array exactly at the home cluster. -/
  | spannedPartialSumArrival (rank tensor step : Nat) (place : SpanPlace) (note : SpanNote)
  /-- SPANNED_INPUT_ARRIVAL (R120). Converts received spanned-model inputs by segment and reads this module's arrays. -/
  | spannedInputArrival (rank tensor step : Nat) (piece : SpanPiece) (transpose : Bool) (vals : List Machine.Val)
  /-- MESSAGE_FORWARD (R276). Forwards a message for a non-neighbour rank along its dimension-ordered route, or discards it
  when no route exists. -/
  | messageForward (p : Fin 12) (route : MsgRoute) (bytes : List Byte)
  /-- FLIT_RECEIVE (R277). Checks an arriving Farpinen flit, accepts it and returns credits, or rejects it with a NAK. -/
  | flitReceive (p : Fin 12) (bytes : List Byte)
  /-- NAK_RECEIVE (R277). Resends flits from the retry buffer starting after ACK. -/
  | nakReceive (p : Fin 12) (ack : Fin 65536) (lanes : List (Fin 8))
  /-- FLIT_RESEND_LIMIT (R277). After 8 resends of one flit, retrains the port without its worst lane, or takes the port down. -/
  | flitResendLimit (p : Fin 12)
  /-- TRAINING_STEP_TIMEOUT (R273). Fails a port training whose step misses its time, and takes the port down after three
  failures. -/
  | trainingStepTimeout (p : Fin 12) (step : Fin 7)
  /-- TRAINING_COMPLETE (R274). Ends port training: identity and digest are compared, and the port comes up or becomes
  incompatible. -/
  | trainingComplete (p : Fin 12) (group rank port : Nat) (version : Bool) (digest : W64) (good : Fin 256)
  /-- VC_AGING (R463). Sends a flit that has waited 4,096 flit times ahead of control flits. -/
  | vcAging (p : Fin 12)
  /-- ARBITER_AGING (R469). Serves a request that has waited 4,096 arbiter cycles ahead of the weighted order. -/
  | arbiterAging (arbiter : Nat) (x : ArbiterEvent)
  /-- D2D_FLIT_RESEND (R370). Resends a die-to-die flit that holds an uncorrectable codeword. -/
  | d2dFlitResend (x : D2DWay) (flit : D2DArrival)
  /-- D2D_RESEND_EXHAUSTED (R13). Takes a connection out of service when training fails or resends are exhausted; a hub
  connection instead delivers its codewords poisoned. -/
  | d2dResendExhausted (x : D2D) (training : Bool) (cws : List Nat)
  /-- PATROL_SCRUB (R376). Reads, corrects and writes back the next codeword of the patrol sweep. -/
  | patrolScrub (k : Fin 13) (e : Env)
  /-- TARGETED_SCRUB_END (R377). Ends the scrub of a suspect pseudo-channel and remaps the rows it corrected. -/
  | targetedScrubEnd (st : Fin 8) (pch : Fin 64)
  /-- ROW_REMAP_END (R378). Ends the copy of a row into a spare row and redirects the row. -/
  | rowRemapEnd (st : Fin 8) (pch : Fin 64) (row : Fin 1048576)
  /-- STACK_ZEROING_END (R365). Sets a stack's ready bit once it has trained and every codeword has been zeroed. -/
  | stackZeroingEnd (st : Fin 8)
  /-- STORE_ZEROING_END (R366). Sets a working store's or the hub store's ready bit once it has been zeroed. -/
  | storeZeroingEnd (k : Fin 5) (ok : Bool)
  /-- FUNCTION_READY (R449). Sets a function's ready or failed bit at the end of its bring-up and adds an arrival to the ready
  source. -/
  | functionReady (f : Func) (ok : Bool)
  /-- IDENTITY_REGENERATED (R402). Enters boot state 1 when the regenerated identity key matches its digest, or state 4
  otherwise. -/
  | identityRegenerated (ok : Bool)
  /-- FIRMWARE_VERIFY_END (R406). Ends image verification: the image runs and the boot state becomes 3, or FWLD fails and the
  state returns to 1. -/
  | firmwareVerifyEnd
  /-- CLAIM_RESPONSE_WRITE_END (R420). When the write of MEPUB and MSIG completes, ownership and the new session take effect,
  or revert if the write failed. -/
  | claimResponseWriteEnd (ok : Bool)
  /-- LEASE_EXPIRY (R422). Makes ownership vacant when the lease expires. -/
  | leaseExpiry
  /-- HANDOVER_EXPIRY (R424). Makes ownership vacant when a pending handover lapses after 10 s. -/
  | handoverExpiry
  /-- IDE_SECURE_EXIT (R416). Ends the host's ownership when the link IDE stream leaves the Secure state. -/
  | ideSecureExit
  /-- DAWN_PLL_LOCK (R431). Ungates a domain once its PLL, started by Dawn, has locked. -/
  | dawnPllLock (d : Domain)
  /-- PLL_IDLE_STOP (R432). Stops a domain's PLL after PLL_IDLE without work. -/
  | pllIdleStop (d : Domain)
  /-- IDLE_TIMEOUT (R435). Enters A1 after IDLE_US without command work. -/
  | idleTimeout
  /-- DOZE_ENTRY (R436). Enters A2 after DOZE_MS in A1 and saves the interrupt controller state. -/
  | dozeEntry
  /-- HUB_PLL_RELOCK (R438). After a wake from A2, restores the interrupt controller and enters A1 or A0 once the hub PLL has
  relocked. -/
  | hubPllRelock
  /-- GOVERNOR_SAMPLE (R441). Every 10 µs, samples rails and sensors, updates telemetry and the thermal budget, and recomputes
  the grants. -/
  | governorSample (g : GovSample)
  /-- THERMAL_TRIP (R445). A sensor at 115 °C asserts THERMTRIP#, switches the package rails off and enters A3. -/
  | thermalTrip (die : Fin 5)
  /-- PWRBRK_ASSERT (R444). Assertion of PWRBRK# limits input power to 450 W from the next sample. -/
  | pwrbrkAssert
  /-- PWRBRK_RELEASE (R24). Release of PWRBRK# restores the PLIM input limit. -/
  | pwrbrkRelease
  /-- AUX_POWER_APPLIED (R433). When auxiliary power comes up, Lantern starts with device time 0 and samples SLOT_ID. -/
  | auxPowerApplied (pins : Fin 16)
  /-- AUX_POWER_LOST (R480). Loss of auxiliary power clears every reset domain and switches the package rails off. -/
  | auxPowerLost
  /-- MAIN_INPUT_PRESENT (R480). The main input becomes present after 10 ms within 40–60 V. -/
  | mainInputPresent
  /-- MAIN_INPUT_ABSENT (R482). When the main input becomes absent, the module enters A3 and switches its package rails off. -/
  | mainInputAbsent
  /-- PERST_ASSERT (R446). Assertion of PERST# clears MODULE and FLR and holds the module in A3. -/
  | perstAssert
  /-- PERST_RELEASE (R483). Release of PERST#, with the main input present, ends A3, samples SLOT_ID and starts bring-up. -/
  | perstRelease (pins : Fin 16) (cool : Bool)
  /-- HOT_RESET (R446). A PCIe hot reset clears MODULE and FLR and retrains the link. -/
  | hotReset
  /-- MODULE_RESET (R449). A module reset takes effect, clearing MODULE and FLR while keeping the host link up. -/
  | moduleReset
  /-- FUNCTION_LEVEL_RESET (R448). A function-level reset disables every ring, stops host commands and acts as FENC with
  RESTART. -/
  | functionLevelReset
  /-- D3HOT_ENTRY (R440). Entry to D3hot stops fetching and polling, and the module enters A2 once no command runs. -/
  | d3hotEntry
  /-- D0_RETURN (R440). The return to D0 resumes fetching and releases held host accesses and messages. -/
  | d0Return
  /-- L2_L3_READY_ENTRY (R456). Reaching L2/L3 Ready in D3hot saves the interrupt controller and enters A3. -/
  | l2L3ReadyEntry
  /-- REFCLK_LOSS (R489). Loss of REFCLK while PERST# is released takes the host link down until REFCLK returns. -/
  | refclkLoss
  /-- PTM_DIALOGUE (R434). Every INTERVAL_MS, runs a PTM dialogue and steps or trims device time by the offset. -/
  | ptmDialogue (host : W64)
  /-- PTM_TIMEOUT (R434). Clears ALIGNED when no PTM dialogue has succeeded for 1 s. -/
  | ptmTimeout
  /-- WATCHDOG_EXPIRY (R399). When no command has been delivered for MS, writes a Postcard to slot 0, triggers the Logbooks and
  raises the watchdog interrupt. -/
  | watchdogExpiry
  /-- POSTCARD_CAPTURE_END (R398). Ends a Postcard capture and records its end time. -/
  | postcardCaptureEnd (k : Fin 2)
  /-- LOGBOOK_CAPTURE_FULL (R394). Stops capture when a stop-mode or post-trigger centred buffer is full. -/
  | logbookCaptureFull (u : Fin 5)
  /-- REFCLK_RETURN (R489). When REFCLK returns after stopping while PERST# is released, the host link retrains. -/
  | refclkReturn
  /-- CONFIGURATION_SPACE_WRITE (R491). A host write to function 0's configuration space, such as Resizable BAR control or the
  PTM requester enable, takes effect as PCIe defines. -/
  | configurationSpaceWrite (w : CfgWrite)
  /-- MSIX_MASK_WRITE (R453). A host write that releases the MSI-X function mask, a vector mask or the MSI-X enable sends the
  messages held in the pending bit array. -/
  | msixMaskWrite (w : MsixWrite)
  /-- IDE_KM_MESSAGE (R416). An IDE_KM message over a secured SPDM session on DOE programs the link IDE stream keys and brings
  the stream into the Secure state, setting IDE_ACTIVE. -/
  | ideKmMessage (keys : List Byte)
  /-- DYNAMIC_ADDRESS_ASSIGNMENT (R487). An I3C ENTDAA or SETDASA from the BMC gives the module its dynamic address. -/
  | dynamicAddressAssignment (how : I3cAssign)
  /-- L1_ENTRY (R440). After the host link has been idle for 10 µs in A1 or A2 with ASPM enabled, the module requests L1 or
  L1.2. -/
  | l1Entry (sub : Bool)
  deriving DecidableEq, Repr

end Sys2Proof
end

