-- ==== Sys2Proof/Config.lean ====
section
/-!
DEFINITION. What one module's silicon fixes and the specification leaves open, as constants without a body: nothing in
Lean can evaluate them, so every statement holds for every value of them.
-/
namespace Sys2Proof.Config

open Sys2Proof

/-- Byte `i` of fresh random draw number `n` (TB_NONCE, ephemeral keys, signature nonces; R420). A free value. -/
opaque freshByte (n i : Nat) : Byte

/-- A value the specification calls undefined or does not state: byte `i` of open value number `n`. A free value. -/
opaque freeByte (n i : Nat) : Byte

/-- Private scalar of the module's identity key (R401, R415). -/
opaque idScalar : Nat

/-- SHA-512 digest of the firmware-signing public key held in the boot ROM (Table 15.1), as a 512-bit number whose
octet i is bits 8i to 8i + 7. -/
opaque vendorKeyDigest : BitVec 512

/-- SHA-512 digest of the boot ROM contents (Table 15.7), octet i at bits 8i to 8i + 7. -/
opaque romDigest : BitVec 512

/-- Byte `i` of the vendor certificate chain in flash, and its length (R413). -/
opaque chainByte (i : Nat) : Byte
opaque chainLength : Nat

/-- GUID bytes and header fields of the UEFI record that the manual takes from UEFI without stating them (R309). -/
opaque cperHeaderByte (i : Nat) : Byte

/-- Start value, final value and bit order of the CRC-32 of Farpinen flits, whose polynomial alone is given (Table 9.6). -/
opaque crcInit : BitVec 32
opaque crcFinal : BitVec 32
opaque crcReflected : Bool

/-- The matrix-core frequency of a compute die in units of 100 MHz, at most 18 (R163). -/
opaque dieClock (d : Nat) : Nat

end Sys2Proof.Config
end

