-- ==== Sys2Proof/Machine/Crypto.lean ====
section
/-!
DEFINITION. The cryptographic operations that spec/15 names by their standards: SHA-512, HMAC-SHA-512 and HKDF
(FIPS 180-4, RFC 2104, RFC 5869), and ECDSA and ECDH on P-521 (FIPS 186-5, SEC 1). Scalars and coordinates are 66-octet
big-endian strings (R401). PRESUMED (assumption 9): the standards' texts, which the manual names and does not repeat.
-/
namespace Sys2Proof.Machine

open Sys2Proof

/-! ### SHA-512 -/

/-- Big-endian number of a string of octets. -/
def beNat (l : List Byte) : Nat := l.foldl (fun a b => 256 * a + b.toNat) 0

/-- `k` octets of `v`, most significant first. -/
def natBe (k v : Nat) : List Byte := (natLe k v).reverse

/-- The first `n` primes at or after `p`, by trial division. -/
def isPrime (p : Nat) : Bool := decide (2 ≤ p) && (List.range p).all fun d => decide (d < 2) || p % d != 0
def primes80 : List Nat := (List.range 410).filter isPrime

/-- `floor(n^(1/k))`, by binary digits below bit `b`. -/
def rootGo (k n : Nat) : Nat → Nat → Nat
  | 0, r => r
  | b + 1, r => rootGo k n b (if (r + 2 ^ b) ^ k ≤ n then r + 2 ^ b else r)

/-- First 64 bits of the fractional part of the k-th root of `p`. -/
def rootFrac (k p : Nat) : W64 := BitVec.ofNat 64 (rootGo k (p * 2 ^ (64 * k)) 70 0)

/-- The round constants: cube roots of the first 80 primes. -/
def shaK : List W64 := primes80.map (rootFrac 3)

/-- The initial hash value: square roots of the first 8 primes. -/
def shaInit : List W64 := (primes80.take 8).map (rootFrac 2)

def shaS0 (x : W64) : W64 := x.rotateRight 1 ^^^ x.rotateRight 8 ^^^ x >>> 7
def shaS1 (x : W64) : W64 := x.rotateRight 19 ^^^ x.rotateRight 61 ^^^ x >>> 6
def shaB0 (x : W64) : W64 := x.rotateRight 28 ^^^ x.rotateRight 34 ^^^ x.rotateRight 39
def shaB1 (x : W64) : W64 := x.rotateRight 14 ^^^ x.rotateRight 18 ^^^ x.rotateRight 41

/-- Message schedule, newest word first. -/
def shaExpand : Nat → List W64 → List W64
  | 0, l => l
  | n + 1, l =>
    shaExpand n ((shaS1 (l.getD 1 0) + l.getD 6 0 + shaS0 (l.getD 14 0) + l.getD 15 0) :: l)

/-- One round on the eight working variables. -/
def shaRound (h : List W64) (kw : W64) : List W64 :=
  match h with
  | [a, b, c, d, e, f, g, i] =>
    let t1 := i + shaB1 e + ((e &&& f) ^^^ (~~~e &&& g)) + kw
    let t2 := shaB0 a + ((a &&& b) ^^^ (a &&& c) ^^^ (b &&& c))
    [t1 + t2, a, b, c, d + t1, e, f, g]
  | l => l

/-- `n` big-endian 64-bit words of a string. -/
def wordsBe : Nat → List Byte → List W64
  | 0, _ => []
  | n + 1, l => BitVec.ofNat 64 (beNat (l.take 8)) :: wordsBe n (l.drop 8)

/-- The compression of one 128-byte block. -/
def shaBlock (ks : List W64) (h : List W64) (blk : List Byte) : List W64 :=
  let w := (shaExpand 64 (wordsBe 16 blk).reverse).reverse
  let r := (List.zipWith (· + ·) ks w).foldl shaRound h
  List.zipWith (· + ·) h r

/-- The compression over `n` blocks. -/
def shaBlocks (ks : List W64) : Nat → List W64 → List Byte → List W64
  | 0, h, _ => h
  | n + 1, h, l => shaBlocks ks n (shaBlock ks h (l.take 128)) (l.drop 128)

/-- SHA-512. -/
def sha512 (m : List Byte) : List Byte :=
  let z := (239 - m.length % 128) % 128
  let p := m ++ 0x80#8 :: List.replicate z 0 ++ natBe 16 (8 * m.length)
  (shaBlocks shaK (p.length / 128) shaInit p).flatMap fun w => natBe 8 w.toNat

/-- HMAC-SHA-512. -/
def hmac512 (key m : List Byte) : List Byte :=
  let k0 := if 128 < key.length then sha512 key else key
  let k := k0 ++ List.replicate (128 - k0.length) 0
  sha512 (k.map (· ^^^ 0x5C#8) ++ sha512 (k.map (· ^^^ 0x36#8) ++ m))

/-- HKDF-SHA-512 with an output of 64 octets: one block of expansion. -/
def hkdf64 (ikm salt info : List Byte) : List Byte := hmac512 (hmac512 salt ikm) (info ++ [1#8])

/-! ### P-521 -/

/-- The field prime, the curve constant b, the base point and its order. -/
def ecP : Nat := 2 ^ 521 - 1
def ecB : Nat := 0x51953eb9618e1c9a1f929a21a0b68540eea2da725b99b315f3b8b489918ef109e156193951ec7e937b1652c0bd3bb1bf073573df883d2c34f1ef451fd46b503f00
def ecGx : Nat := 0xc6858e06b70404e9cd9e3ecb662395b4429c648139053fb521f828af606b4d3dbaa14b5e77efe75928fe1dc127a2ffa8de3348b3c1856a429bf97e7e31c2e5bd66
def ecGy : Nat := 0x11839296a789a3bc0045c8a5fb42c7d1bd998f54449579b446817afbd17273e662c97ee72995ef42640c550b9013fad0761353c7086a272c24088be94769fd16650
def ecN : Nat := 0x1fffffffffffffffffffffffffffffffffffffffffffffffffffffffffffffffffa51868783bf2f966b7fcc0148f709a5d03bb5c9b8899c47aebb6fb71e91386409

/-- `a^e mod m` over `k` bits of `e`. -/
def powMod (m : Nat) : Nat → Nat → Nat → Nat
  | 0, _, _ => 1 % m
  | k + 1, a, e =>
    let h := powMod m k (a * a % m) (e / 2)
    if e % 2 = 1 then a * h % m else h

/-- Inverse modulo a prime of at most 521 bits. -/
def invMod (m a : Nat) : Nat := powMod m 521 (a % m) (m - 2)

/-- A point in Jacobian coordinates; z = 0 is the point at infinity. -/
structure Jac where
  x : Nat
  y : Nat
  z : Nat
  deriving DecidableEq, Repr

/-- `a - b` in the field. -/
def subP (a b : Nat) : Nat := (a + (ecP - b % ecP)) % ecP

/-- Doubling on y² = x³ − 3x + b. -/
def Jac.dbl (p : Jac) : Jac :=
  if p.z = 0 ∨ p.y = 0 then ⟨1, 1, 0⟩ else
  let zz := p.z * p.z % ecP
  let yy := p.y * p.y % ecP
  let s := 4 * p.x * yy % ecP
  let m := 3 * (subP p.x zz) * ((p.x + zz) % ecP) % ecP
  let x := subP (m * m % ecP) (2 * s)
  ⟨x, subP (m * subP s x % ecP) (8 * yy * yy), 2 * p.y * p.z % ecP⟩

/-- Addition. -/
def Jac.add (p q : Jac) : Jac :=
  if p.z = 0 then q else if q.z = 0 then p else
  let pz := p.z * p.z % ecP
  let qz := q.z * q.z % ecP
  let u1 := p.x * qz % ecP
  let u2 := q.x * pz % ecP
  let s1 := p.y * qz % ecP * q.z % ecP
  let s2 := q.y * pz % ecP * p.z % ecP
  if u1 = u2 then (if s1 = s2 then p.dbl else ⟨1, 1, 0⟩) else
  let h := subP u2 u1
  let r := subP s2 s1
  let hh := h * h % ecP
  let hhh := h * hh % ecP
  let v := u1 * hh % ecP
  let x := subP (subP (r * r % ecP) hhh) (2 * v)
  ⟨x, subP (r * subP v x % ecP) (s1 * hhh), h * p.z % ecP * q.z % ecP⟩

/-- `k * p` over `n` bits of `k`. -/
def Jac.mulGo : Nat → Nat → Jac → Jac
  | 0, _, _ => ⟨1, 1, 0⟩
  | n + 1, k, p =>
    let h := Jac.mulGo n (k / 2) p.dbl
    if k % 2 = 1 then p.add h else h

/-- The affine coordinates of `k * (x, y)`; none at infinity. -/
def ecMul (k x y : Nat) : Option (Nat × Nat) :=
  let q := Jac.mulGo 522 k ⟨x, y, 1⟩
  if q.z = 0 then none
  else
    let i := invMod ecP q.z
    let ii := i * i % ecP
    some (q.x * ii % ecP, q.y * ii % ecP * i % ecP)

/-- The point of a 132-octet public key X ∥ Y, when it lies on the curve (R418). -/
def ecPoint (pub : List Byte) : Option (Nat × Nat) :=
  let x := beNat (pub.take 66)
  let y := beNat ((pub.drop 66).take 66)
  if x < ecP ∧ y < ecP ∧ y * y % ecP = (x * x * x + (ecP - 3) * x + ecB) % ecP then some (x, y) else none

/-- The 132 octets of a point. -/
def ecOctets (p : Nat × Nat) : List Byte := natBe 66 p.1 ++ natBe 66 p.2

/-- The public key of a private scalar. -/
def ecPublic (d : Nat) : List Byte :=
  match ecMul d ecGx ecGy with
  | some p => ecOctets p
  | none => List.replicate 132 0

/-- ECDSA P-521 verification of the signature r ∥ s over a SHA-512 digest. -/
def ecdsaVerify (pub digest sig : List Byte) : Bool :=
  let r := beNat (sig.take 66)
  let s := beNat ((sig.drop 66).take 66)
  match ecPoint pub with
  | none => false
  | some (x, y) =>
    if r = 0 ∨ s = 0 ∨ ecN ≤ r ∨ ecN ≤ s then false
    else
      let w := invMod ecN s
      let p1 := Jac.mulGo 522 (beNat digest * w % ecN) ⟨ecGx, ecGy, 1⟩
      let p2 := Jac.mulGo 522 (r * w % ecN) ⟨x, y, 1⟩
      let q := p1.add p2
      if q.z = 0 then false
      else
        let i := invMod ecP q.z
        q.x * (i * i % ecP) % ecP % ecN == r

/-- ECDSA signature r ∥ s of a digest under private scalar `d` with the per-signature scalar `k`. -/
def ecdsaSign (d k : Nat) (digest : List Byte) : List Byte :=
  match ecMul k ecGx ecGy with
  | none => List.replicate 132 0
  | some (x, _) =>
    let r := x % ecN
    let s := invMod ecN k * ((beNat digest + r * d) % ecN) % ecN
    natBe 66 r ++ natBe 66 s

/-- The 66-octet x-coordinate of the shared point of a private scalar and a public key. -/
def ecdhX (d : Nat) (pub : List Byte) : List Byte :=
  match ecPoint pub with
  | none => List.replicate 66 0
  | some (x, y) =>
    match ecMul d x y with
    | some p => natBe 66 p.1
    | none => List.replicate 66 0

/-- The module's identity public key and its SHA-512 digest (R401). -/
def idPublic : List Byte := ecPublic (Config.idScalar % (ecN - 1) + 1)
def idDigest : List Byte := sha512 idPublic

/-- Octets of fresh draw number `n`. -/
def freshOctets (n k : Nat) : List Byte := (List.range k).map (Config.freshByte n)

/-- A fresh private scalar: draw `n` taken modulo the order less one, plus one. -/
def freshScalar (n : Nat) : Nat := beNat (freshOctets n 74) % (ecN - 1) + 1

/-- The octets of a constant held as a number, octet i at bits 8i. -/
def constOctets (k v : Nat) : List Byte := natLe k v

end Sys2Proof.Machine
end

