-- ==== Sys2Proof/Machine/Tab.lean ====
section
/-!
DEFINITION. Sparse tables in one canonical form: pairs of a key and a value, keys strictly rising, no entry equal to
what an unlisted key reads as. Memory, registers and every indexed unit of the module are held so.
-/
namespace Sys2Proof.Machine

/-- A table of `α` by number; an unlisted key reads as the table's default. -/
abbrev Tab (α : Type) := List (Nat × α)

variable {α : Type}

/-- The value at key `k`, with default `d`. -/
def Tab.get (d : Nat → α) : Tab α → Nat → α
  | [], k => d k
  | (k', v) :: t, k => if k' = k then v else Tab.get d t k

/-- Insert or replace the entry of `k` in a rising list, with no entry when `keep` is false. -/
def Tab.put (keep : Bool) (k : Nat) (v : α) : Tab α → Tab α
  | [] => if keep then [(k, v)] else []
  | (k', v') :: t =>
    if k' < k then (k', v') :: Tab.put keep k v t
    else if k' = k then (if keep then (k, v) :: t else t)
    else if keep then (k, v) :: (k', v') :: t else (k', v') :: t

/-- Write `v` at key `k`; writing the default removes the entry. -/
def Tab.set [DecidableEq α] (d : Nat → α) (t : Tab α) (k : Nat) (v : α) : Tab α :=
  Tab.put (decide (v ≠ d k)) k v t

/-- Change the value at `k` by `f`. -/
def Tab.upd [DecidableEq α] (d : Nat → α) (t : Tab α) (k : Nat) (f : α → α) : Tab α :=
  Tab.set d t k (f (Tab.get d t k))

/-- Keys strictly rising, all at or above `lo`. -/
def Tab.rising (lo : Nat) : Tab α → Bool
  | [] => true
  | (k, _) :: t => decide (lo ≤ k) && Tab.rising (k + 1) t

/-- No entry holds its key's default. -/
def Tab.noDefault [DecidableEq α] (d : Nat → α) : Tab α → Bool
  | [] => true
  | (k, v) :: t => decide (v ≠ d k) && Tab.noDefault d t

/-- The canonical form. -/
def Tab.wf [DecidableEq α] (d : Nat → α) (t : Tab α) : Bool := Tab.rising 0 t && Tab.noDefault d t

end Sys2Proof.Machine
end

