-- ==== Sys2Proof/Machine/StateCtl.lean ====
section
/-!
DEFINITION. The state of the module's control side as plain data: memories, rings and commands, the Mover Engine, the
Hamper, Lantern, the Trust Block, the interrupt controller, PCIe and the Integrity and Observation Unit.
-/
namespace Sys2Proof.Machine

open Sys2Proof

/-! ### Memory System (spec 13) -/

/-- One targeted scrub in progress (R377): stack, pseudo-channel. -/
structure TargetScrub where
  stack : Nat
  pch : Nat
  deriving DecidableEq, Repr

/-- A row remap in progress (R378): the row's data is being copied to spare row `spare`. -/
structure RowRemap where
  stack : Nat
  pch : Nat
  row : Nat
  spare : Nat
  /-- MECHANISM and SYNDROME of its record. -/
  mech : Nat
  syn : Nat
  deriving DecidableEq, Repr

/-- The memories and what guards them. -/
structure MemSys where
  /-- Bytes by device address (Table 13.1), bit 63 for host memory; an unlisted byte reads 0 (R365, R366). -/
  mem : List Host.Cell
  /-- POISON of each codeword (codeword number = address / 32), R373. -/
  poison : Tab Bool
  /-- ZONE of each codeword (R375). -/
  zone : Tab Nat
  /-- Symbol errors standing in a codeword: what its 36 symbols differ by from a valid codeword. -/
  upset : Tab Nat
  /-- Lanes of bucket parts that will fail their residue check (R282; the model's own field, from `Env`). -/
  lanes : List LaneFault
  /-- Host address ranges whose accesses fail, with their PCIe cause (the model's own field, from `Env`). -/
  hostBad : List (Nat × Nat × Nat)
  /-- Interleave mode in force, taken from MS_INTERLEAVE at a module reset (R363). -/
  interleave : Nat
  /-- Remapped rows of pseudo-channel `64 * stack + pch`, in the order of their spare rows (R378, R379; AUX). -/
  remap : Tab (List Nat)
  /-- Remaps whose copy has not ended. -/
  remapping : List RowRemap
  /-- Patrol scrub position of each stack: the offset of the next codeword (R376). -/
  scrubPos : Tab Nat
  /-- MS_SCRUB_TIME_s. -/
  scrubTime : Tab Nat
  /-- Scrub position in the working stores (0 to 3) and the hub store (4). -/
  storeScrubPos : Tab Nat
  /-- Targeted scrubs running (R377). -/
  targeted : List TargetScrub
  /-- SUSPECT_PCH of MS_STACK_STATUS_s. -/
  lastTarget : Tab Nat
  deriving DecidableEq, Repr

def MemSys.initial : MemSys :=
  { mem := [], poison := [], zone := [], upset := [], lanes := [], hostBad := [], interleave := 0, remap := [], remapping := [], scrubPos := []
    scrubTime := [], storeScrubPos := [], targeted := [], lastTarget := [] }

/-! ### Rings and commands (spec 11) -/

/-- The status codes of Table 11.12. -/
inductive Status where
  | ok
  | okReplayed
  | okFlagged
  | notReadyTimeout
  | authFail
  | notOwner
  | badDescriptor
  | hostBusError
  | compareMismatch
  | stashExhausted
  | digitalFallback
  | retracted
  | unitRetiredReplay
  | waitTimeout
  | uncorrectableMemory
  deriving DecidableEq, Repr

/-- How far a command has come. A RECOMP's replayed copies are numbered from 2^64 on (the model's own numbers). -/
inductive Stage where
  /-- Fetched and held under Table 8.1. -/
  | stepHeld
  /-- Accepted (R318), not started. -/
  | accepted
  /-- Started; its row may run. -/
  | started
  /-- Its work is under way on a unit that finishes it by events of its own. -/
  | running
  /-- R283. -/
  | delivered
  /-- R283. -/
  | clear
  /-- Completed without being delivered, or failed after delivery (R500). -/
  | failed
  /-- Completed with AUTH_FAIL or NOT_OWNER, with no effect (R340). -/
  | refused
  deriving DecidableEq, Repr

/-- A fetched command. -/
structure Cmd where
  /-- The model's own number, in fetch order over all rings. -/
  id : Nat
  ring : Nat
  /-- Slot count of the first slot (Table 11.10). -/
  index : Nat
  /-- The 64 bytes of the slot, and of the second slot of a critical command. -/
  slot : List Byte
  slot2 : List Byte
  /-- Issue sequence number, once accepted (R318). -/
  seq : Option Nat
  stage : Stage
  /-- Conditions that arose (R340). -/
  conds : List Status
  /-- IND bits (Table 11.11). -/
  ind : BitVec 16
  detail : Nat
  /-- VN_JOB_SEED latched at acceptance (R53). -/
  seed : W64
  /-- Device time at which it was first held for ready bits (R450). -/
  heldSince : Option Nat
  startedAt : Nat
  /-- Checks of results it has written that have not passed yet (R283). -/
  checks : Nat
  /-- Commands it waited for beyond its ring's rules: the signallers of a WAIT's counter, what a FENC waited for. -/
  deps : List Nat
  /-- Device time since which its record has been ready to write (R317). -/
  recordReady : Option Nat
  /-- The record has been written. -/
  recorded : Bool
  /-- Tainted (R287), and waiting for its repair replay. -/
  tainted : Bool
  /-- A unit it used was retired in a repair (R288). -/
  unitRetired : Bool
  /-- Its repair has run at least once. -/
  repaired : Bool
  /-- Retractions of its contribution (Table 11.13). -/
  retractions : Nat
  /-- Version an array read requires (R235), fixed at start. -/
  version : Option Nat
  /-- Counter deltas taken at delivery (R389). -/
  deltas : List Nat
  /-- It has started, and `seed` holds the value of VN_JOB_SEED that it latched then (R51, R53). -/
  seeded : Bool
  /-- It has been delivered, and its event signalled (R288: no event is signalled a second time). -/
  signalled : Bool
  /-- It is a replayed copy under a RECOMP (R222): the RECOMP it belongs to. It writes no record and signals nothing. -/
  parent : Option Nat
  /-- For a RECOMP, the journalled commands still to be replayed (R221). -/
  children : List Nat
  /-- The record of a clear XCHG waits until the part that the module owns is cleared (R248). -/
  hold : Bool
  deriving DecidableEq, Repr

/-- The state of one ring beyond its registers. -/
structure Ring where
  /-- Free-running 32-bit count of slots fetched, and of records written (R311). -/
  fetched : Nat
  completed : Nat
  /-- SQ_TAIL and CQ_HEAD last taken (R312). -/
  sqTail : Nat
  cqHead : Nat
  /-- SEQ last taken; none before the first record is taken. -/
  seqTaken : Option Nat
  /-- Polling interval and the time of the next poll (R314), in ns. -/
  interval : Nat
  nextPoll : Nat
  halted : Bool
  haltStatus : Nat
  /-- ENABLE was cleared with commands in flight (R311). -/
  draining : Bool
  /-- Stopped fetching under R320. -/
  refusedStop : Bool
  /-- OVERDUE (R317). -/
  overdue : Bool
  /-- Commands fetched in the current round (R316). -/
  inRound : Nat
  /-- A failed record write waits for RESUME (R341). -/
  rewrite : Bool
  /-- Number of the first command fetched since the ring was enabled. -/
  sinceId : Nat
  /-- Codes and counters of the 16 slots (R387, R388). -/
  codes : List Nat
  slots : List Nat
  /-- End latches of commands whose records are not yet written: the cycle of each, its command, and what its slots counted in
  that cycle behind the latch; and the last start latch: its cycle and what it sampled (R389, R390). -/
  latch : List (Nat × Nat × List Nat)
  sample : Option (Nat × List Nat)
  deriving DecidableEq, Repr

/-- A ring as it is when it is enabled or after reset. -/
def Ring.initial : Ring :=
  { fetched := 0, completed := 0, sqTail := 0, cqHead := 0, seqTaken := none, interval := 1000, nextPoll := 0,
    halted := false, haltStatus := 0, draining := false, refusedStop := false, overdue := false, inRound := 0, rewrite := false, sinceId := 0,
    codes := List.replicate 16 0, slots := List.replicate 16 0
    latch := [], sample := none }

/-- How a step stands on this module (R294). -/
inductive StepMark where
  | open
  | cleared
  | skipped
  | incomplete
  deriving DecidableEq, Repr

/-- What the module knows of one step. -/
structure StepInfo where
  mark : StepMark
  /-- Some accepted command named it (Table 8.1). -/
  named : Bool
  /-- Marked under R231. -/
  stashOut : Bool
  /-- Its journal memory met an uncorrectable error (R22). -/
  unreplayable : Bool
  /-- Commands accepted (R297). -/
  accepted : Nat
  deriving DecidableEq, Repr

def StepInfo.initial : StepInfo :=
  { mark := .open, named := false, stashOut := false, unreplayable := false, accepted := 0 }

/-- A whole-step replay in progress (R298): the FENC, the steps' commands still to be delivered again. -/
structure WholeReplay where
  fenc : Nat
  step : Nat
  todo : List Nat
  deriving DecidableEq, Repr

/-- The Host Gate. -/
structure HostGate where
  rings : Tab Ring
  /-- Fetch quota of each ring (R316); MODULE domain. -/
  quota : Tab Nat
  /-- Ring whose turn comes first in the present round. -/
  roundStart : Nat
  /-- Ring that fetched last in this round. -/
  turn : Nat
  /-- Every command fetched since the last reset, in fetch order. -/
  cmds : List Cmd
  nextId : Nat
  /-- HG_ISSUE_SEQ. -/
  nextSeq : Nat
  /-- The 4,096 event counters (R325), and who signalled each (R324). -/
  events : Tab W64
  signallers : Tab (List Nat)
  /-- Newest step (R216) and the steps. -/
  newest : Option Nat
  steps : Tab StepInfo
  /-- Issue sequence numbers of the journalled commands (R220, R296). -/
  journal : List Nat
  replay : Option WholeReplay
  deriving DecidableEq, Repr

def HostGate.initial : HostGate :=
  { rings := [], quota := [], roundStart := 0, turn := 0, cmds := [], nextId := 0, nextSeq := 0, events := [], signallers := []
    newest := none, steps := [], journal := [], replay := none }

/-! ### Mover Engine (spec 12) -/

/-- A transfer descriptor (Table 12.1). -/
structure Transfer where
  src : Nat
  dst : Nat
  length : Nat
  swrap : Nat
  dwrap : Nat
  skip : Bool
  deriving DecidableEq, Repr

/-- What a queued item of a channel is. -/
inductive MoverKind where
  | move
  | fill
  | cmpr
  /-- A Hamper spill of an entry, or its recall (R342). -/
  | spill (entry : Nat)
  | recall (entry : Nat)
  deriving DecidableEq, Repr

/-- An item of a channel's queue (R342). -/
structure MoverItem where
  kind : MoverKind
  /-- Issue sequence number; none for a spill transfer or a recall, which the command `asker` has caused. -/
  seq : Option Nat
  asker : Option Nat
  /-- Address of the list, when LIST is 1. -/
  listAddr : Option Nat
  transfers : List Transfer
  /-- Transfers ended. -/
  done : Nat
  /-- The current transfer's requests have all succeeded and its writes are issued. -/
  issued : Bool
  /-- Host bytes that the current transfer wrote over, kept while its read-back is outstanding (R353). -/
  before : List Byte
  /-- First failing address and whether any failure was an uncorrectable codeword (R357). -/
  failAddr : Option Nat
  failUncorr : Bool
  queuedAt : Nat
  deriving DecidableEq, Repr

/-- A Mover channel. -/
structure Channel where
  current : Option MoverItem
  queue : List MoverItem
  halted : Bool
  haltedAt : Nat
  consec : Nat
  skipped : Nat
  failAddr : W64
  failIndex : Nat
  failCause : Nat
  failDir : Nat
  failReason : Nat
  failSeq : W64
  deriving DecidableEq, Repr

def Channel.initial : Channel :=
  { current := none, queue := [], halted := false, haltedAt := 0, consec := 0, skipped := 0, failAddr := 0,
    failIndex := 0, failCause := 0, failDir := 0, failReason := 0, failSeq := 0 }

/-! ### Hamper (spec 08) -/

/-- What R187 reads of a record, or of a descriptor that names none, when a command starts: Z, MARGIN, SPAN and OTH. -/
structure TopRange where
  z : Int
  margin : Nat
  span : Nat
  oth : Nat
  deriving DecidableEq, Repr

/-- Where a Hamper entry is. -/
inductive EntryPlace where
  | resident
  | spilling
  | spilled
  deriving DecidableEq, Repr

/-- An entry of the Hamper (R225, R380). -/
structure HamperEntry where
  number : Nat
  step : Nat
  mb : Nat
  block : Nat
  place : EntryPlace
  /-- Stash format code and the converted bytes' size. -/
  fmt : Nat
  size : Nat
  /-- The block input as STSH read it: the 64 bytes of its tensor descriptor (R226). -/
  src : List Byte
  /-- 4 KiB units in the region: device addresses, in order. -/
  units : List Nat
  /-- Host address of its place in the spill window, when spilled or spilling. -/
  window : Nat
  /-- A RECL or RECOMP is reading it (R228). -/
  reading : Bool
  deriving DecidableEq, Repr

/-- The Hamper. -/
structure Hamper where
  entries : List HamperEntry
  /-- (step, micro-batch, block) named by an STSH that was not kept or has been released (R226, R227). -/
  gone : List (Nat × Nat × Nat)
  stored : Nat
  stride : Nat
  newestStash : Option Nat
  /-- Region in force and the pending one (R381): OFFSET, SIZE. -/
  offset : Nat
  size : Nat
  pending : Option (Nat × Nat)
  /-- Spill settings in force, taken at the first STSH of a step: base, enable, channel, high, size. -/
  spillBase : Nat
  spillOn : Bool
  spillChannel : Nat
  spillHigh : Nat
  spillSize : Nat
  /-- R21: spilling is suspended until the first STSH of a later step. -/
  suspended : Option Nat
  /-- The ranges of the conversions of RECL and RECOMP commands that have started, by command (R187). -/
  ranges : List (Nat × TopRange)
  deriving DecidableEq, Repr

/-- OFFSET 416 and SIZE 96 (R380). -/
def Hamper.initial : Hamper :=
  { entries := [], gone := [], stored := 0, stride := 1, newestStash := none, offset := 0x1A0, size := 0x60, pending := none
    spillBase := 0, spillOn := false, spillChannel := 0, spillHigh := 0, spillSize := 0, suspended := none, ranges := [] }

/-! ### Lantern (spec 16, 19) -/

/-- Power states (Table 16.2). -/
inductive Power where
  | a0
  | a1
  | a2
  | a3
  deriving DecidableEq, Repr

/-- State of the host link. -/
inductive LinkState where
  | l0
  | l0p
  | l1
  | l12
  | l23
  | down
  deriving DecidableEq, Repr

/-- A clock domain (R431, R432). -/
structure DomState where
  running : Bool
  /-- Device time at which it last had work. -/
  idleSince : Nat
  deriving DecidableEq, Repr

def DomState.initial : DomState := { running := false, idleSince := 0 }

/-- The Lantern Domain. -/
structure Lantern where
  aux : Bool
  main : Bool
  /-- Device time at which the main input became present (R483). -/
  mainAt : Nat
  perst : Bool
  refclk : Bool
  /-- SLOT_ID pins as sampled (R486). -/
  slot : Nat
  /-- Device time in ns (R433). -/
  time : Nat
  pwr : Power
  /-- A3 was entered through L2/L3 Ready (R456). -/
  a3ByLink : Bool
  a1Since : Nat
  /-- Device time of the last command work (R435), and of the last host-link activity (R440). -/
  lastWork : Nat
  lastLink : Nat
  wake : Nat
  /-- A2 has ended and the hub PLL has not relocked yet (R438). -/
  waking : Bool
  d3hot : Bool
  link : LinkState
  ready : Tab Bool
  failed : Tab Bool
  domains : Tab DomState
  /-- Domains waiting for a Dawn, in arrival order, with their arrival times (R431). -/
  dawnQueue : List (Nat × Nat)
  /-- PLIM settings (R24, R28) and the pins and steps of the governor. -/
  inputLimit : Nat
  cap : Nat
  pwrbrk : Bool
  /-- The 450 W limit of an asserted PWRBRK# is in force (R444). -/
  limited : Bool
  alert : Bool
  /-- The last sample met one of the first three conditions of ALERT# (R444). -/
  warm : Bool
  thermalW : Nat
  grantMC : Nat
  grantAF : Nat
  /-- Array reads that the Array Field's grant allows while it lies below the demand (R27, R28). -/
  limitAF : Option Nat := none
  /-- The issue ceiling that meets the Matrix Cores' grant, in eighths (R27, R173). -/
  ceilingMC : Nat := 8
  grantMS : Nat
  grantVN : Nat
  /-- Subsystems that exceeded their grant in the last sample, and steps lowered (R442). -/
  overMC : Bool
  overAF : Bool
  overMS : Bool
  overVN : Bool
  stepsMC : Nat
  stepsAF : Nat
  stepsMS : Nat
  stepsVN : Nat
  lastSample : Nat
  /-- Telemetry as the 32-bit registers hold it (Table 16.8). -/
  sensTj : Tab Nat
  coolIn : Nat
  coolOut : Nat
  vin : Nat
  pin : Nat
  ppkg : Nat
  vaux : Nat
  tripped : Bool
  tripDie : Nat
  tripUs : Nat
  thermtrip : Bool
  /-- The arrival of a trip comes at the next bring-up (R445). -/
  tripNotice : Bool
  ptmEnabled : Bool
  ptmAligned : Bool
  ptmBehind : Bool
  ptmOffset : Nat
  ptmLast : Nat
  /-- Rate trim in ppm (R434), and the fraction of a nanosecond it has accumulated, in units of 1/1,000,000 ns. -/
  ptmPpm : Int
  ptmFrac : Nat
  /-- A reset requested by LD_RESET has not taken effect yet (R447). -/
  resetPending : Bool
  /-- I3C dynamic address (R487). -/
  i3cAddr : Option Nat
  /-- Device time of the last wake event of R438, whatever the power state (R436). -/
  lastWake : Option Nat
  /-- The entry into A2 that a wake event of the same cycle still undoes (R436): its device time, the state left and its clock
  domains. -/
  entered : Option (Nat × Power × Tab DomState)
  /-- The stacks are in self-refresh (A2). -/
  selfRefresh : Bool
  deriving DecidableEq, Repr

/-- Lantern without power: PERST# is undriven, which holds the module in reset (R485). Thermal budget 910 W, input limit
1000 W, cap 2,048 (R24, R28, R443). -/
def Lantern.initial : Lantern :=
  { aux := false, main := false, mainAt := 0, perst := true, refclk := false, slot := 0, time := 0, pwr := .a3, a3ByLink := false
    a1Since := 0, lastWork := 0, lastLink := 0, wake := 0, waking := false, d3hot := false, link := .down
    ready := [], failed := [], domains := [], dawnQueue := [], inputLimit := 1000, cap := 2048, pwrbrk := false, limited := false
    alert := false, warm := false, thermalW := 910, grantMC := 0, grantAF := 0, grantMS := 0, grantVN := 0, overMC := false
    overAF := false, overMS := false, overVN := false, stepsMC := 0, stepsAF := 0, stepsMS := 0, stepsVN := 0, lastSample := 0
    sensTj := [], coolIn := 0, coolOut := 0, vin := 0, pin := 0, ppkg := 0, vaux := 0, tripped := false, tripDie := 0, tripUs := 0
    thermtrip := false, tripNotice := false, ptmEnabled := false, ptmAligned := false, ptmBehind := false, ptmOffset := 0, ptmLast := 0, ptmPpm := 0
    ptmFrac := 0, resetPending := false, i3cAddr := none, lastWake := none, entered := none, selfRefresh := false }

/-! ### Trust Block (spec 15) -/

/-- OWN_PHASE with its data. -/
inductive OwnPhase where
  | vacant
  | owned (m : Master)
  | handover (m : Master) (until_ : Nat)
  deriving DecidableEq, Repr

/-- A session (R420). -/
structure Session where
  master : Master
  key : List Byte
  /-- Largest COUNTER accepted; none when it lies below every value. -/
  counter : Option Nat
  deriving DecidableEq, Repr

/-- A CLAIM decided and waiting for the write of MEPUB and MSIG (R420). -/
structure ClaimPending where
  master : Master
  /-- Issue sequence number of a ring CLAIM. -/
  seq : Option Nat
  /-- Block address, and the response bytes 512 to 1,023. -/
  addr : Nat
  response : List Byte
  key : List Byte
  decidedAt : Nat
  deriving DecidableEq, Repr

/-- A firmware image under verification (R405, R406). -/
structure FwPending where
  seq : Nat
  /-- Number of the check of Table 15.4 that fails; none when every check passes. -/
  failing : Option Nat
  failAddr : Nat
  digest : List Byte
  svn : Nat
  deriving DecidableEq, Repr

/-- An SPDM connection of one transport (R413). -/
structure SpdmConn where
  versionDone : Bool
  capsDone : Bool
  algsDone : Bool
  /-- Messages so far that later signatures cover: of version, capabilities and algorithms; of digests and certificates since
  the last challenge; of measurements since the last signed ones; of the key exchange. -/
  vca : List Byte
  chal : List Byte
  meas : List Byte
  keyx : List Byte
  handshake : Bool
  secured : Bool
  /-- The handshake secret of the session that is being opened. -/
  secret : List Byte
  deriving DecidableEq, Repr

def SpdmConn.initial : SpdmConn :=
  { versionDone := false, capsDone := false, algsDone := false, vca := [], chal := [], meas := [], keyx := []
    handshake := false, secured := false, secret := [] }

/-- States of the TAP controller (IEEE 1149.1, log entry 104). -/
inductive TapState where
  | reset | idle | selectDR | captureDR | shiftDR | exit1DR | pauseDR | exit2DR | updateDR
  | selectIR | captureIR | shiftIR | exit1IR | pauseIR | exit2IR | updateIR
  deriving DecidableEq, Repr

/-- The instructions that the debug port offers while it is locked (R427). Boundary scan is none of them. -/
inductive TapInstr where
  | bypass | idcode
  deriving DecidableEq, Repr

/-- The IEEE 1149.1 port (R488): its controller's state and the instruction in force. -/
structure Tap where
  state : TapState
  instr : TapInstr
  deriving DecidableEq, Repr

/-- Test-Logic-Reset, where IDCODE is in force. -/
def Tap.initial : Tap := { state := .reset, instr := .idcode }

/-- One TCK cycle with TMS as given. -/
def TapState.next (t : TapState) (tms : Bool) : TapState := match t with
  | .reset => if tms then .reset else .idle
  | .idle | .updateDR | .updateIR => if tms then .selectDR else .idle
  | .selectDR => if tms then .selectIR else .captureDR
  | .captureDR | .shiftDR => if tms then .exit1DR else .shiftDR
  | .exit1DR => if tms then .updateDR else .pauseDR
  | .pauseDR => if tms then .exit2DR else .pauseDR
  | .exit2DR => if tms then .updateDR else .shiftDR
  | .selectIR => if tms then .reset else .captureIR
  | .captureIR | .shiftIR => if tms then .exit1IR else .shiftIR
  | .exit1IR => if tms then .updateIR else .pauseIR
  | .pauseIR => if tms then .exit2IR else .pauseIR
  | .exit2IR => if tms then .updateIR else .shiftIR

/-- One TCK cycle of the port; `instr` is the instruction that Update-IR takes. -/
def Tap.clock (t : Tap) (tms : Bool) (instr : TapInstr) : Tap :=
  match t.state.next tms with
  | .reset => Tap.initial
  | .updateIR => { state := .updateIR, instr := instr }
  | st => { t with state := st }

/-- The Trust Block. -/
structure Trust where
  boot : Nat
  lastFwld : Nat
  /-- Installed configuration certificate. -/
  cert : Option (List Byte)
  fwDigest : List Byte
  svn : Nat
  fw : Option FwPending
  /-- FWLD whose record waits for the firmware ready bit. -/
  fwWaiting : Option Nat
  own : OwnPhase
  leaseFrom : Nat
  session : Option Session
  claim : Option ClaimPending
  /-- CLAIMs that came as messages and wait for the firmware (R404): their masters, and since when each is held. -/
  claimHeld : List (Master × Nat)
  /-- The debug port's TAP controller (R488). -/
  tap : Tap
  debugUnlocked : Bool
  debugScope : Nat
  ideActive : Bool
  ideKeys : List Byte
  /-- Counter of fresh random values drawn (the model's own field): TB_NONCE is draw number `nonceDraw`. -/
  nonceDraw : Nat
  draws : Nat
  spdmDoe : SpdmConn
  spdmMctp : SpdmConn
  /-- The identity key is present (R415). -/
  identity : Bool
  deriving DecidableEq, Repr

/-- The Trust Block as a reset leaves it; `draw` is the draw that TB_NONCE takes. -/
def Trust.initial (draw : Nat) : Trust :=
  { boot := 0, lastFwld := 0, cert := none, fwDigest := [], svn := 0, fw := none, fwWaiting := none, own := .vacant
    leaseFrom := 0, session := none, claim := none, claimHeld := [], tap := Tap.initial, debugUnlocked := false, debugScope := 0, ideActive := false, ideKeys := []
    nonceDraw := draw, draws := draw + 1, spdmDoe := SpdmConn.initial, spdmMctp := SpdmConn.initial, identity := false }

/-! ### Interrupt controller and PCIe (spec 16, 19) -/

/-- The interrupt controller (R451 to R456). -/
structure Irq where
  count : Tab Nat
  sat : Tab Bool
  unmasked : Tab Bool
  /-- A cycle of device time with, in that cycle, the arrivals and the sources that a write has masked (R454, R7). -/
  cycle : Nat
  arrived : List Nat
  masked : List Nat
  deriving DecidableEq, Repr

def Irq.initial : Irq := { count := [], sat := [], unmasked := [], cycle := 0, arrived := [], masked := [] }

/-- Configuration space that commands act through. -/
structure Pcie where
  msixEnable : Bool
  functionMask : Bool
  /-- Vectors whose mask bit is clear. -/
  vecOpen : Tab Bool
  vecAddr : Tab W64
  vecData : Tab W32
  /-- Pending bit array. -/
  pba : Tab Bool
  bar4Log2 : Nat
  memorySpace : Bool
  aspm : Bool
  other : Tab W32
  deriving DecidableEq, Repr

/-- Configuration space as a reset leaves it: BAR4 is 1 GiB (Table 19.9). -/
def Pcie.initial : Pcie :=
  { msixEnable := false, functionMask := false, vecOpen := [], vecAddr := [], vecData := [], pba := [], bar4Log2 := 0
    memorySpace := false, aspm := false, other := [] }

/-! ### Integrity and Observation (spec 10, 14) -/

/-- A unit to which errors are attributed (R281): UNIT and COORD of Table 10.5. -/
structure UnitId where
  kind : Nat
  coord : Nat
  deriving DecidableEq, Repr

/-- What is known of one unit's errors. -/
structure UnitErrors where
  unit : UnitId
  /-- Device times of detected errors, newest first. -/
  times : List Nat
  suspect : Bool
  /-- It has been retired and no spare was left (R303). -/
  spent : Bool
  deriving DecidableEq, Repr

/-- A Logbook (R393 to R396). -/
structure Logbook where
  /-- 0 not armed; 1 capturing; 2 post-trigger; 3 stopped. -/
  state : Nat
  mode : Nat
  triggered : Bool
  /-- Records, newest first, and their number when frozen. -/
  records : List (List Byte)
  kept : Nat
  lost : Nat
  wrptr : Nat
  firstMarker : Option Nat
  /-- Capture slots of 2 ns are numbered by device time (R396): the next free one, and the last in which a record was lost. -/
  nextSlot : Nat := 0
  lossSlot : Nat := 0
  /-- The pending-loss count and the device time of the first record in it (R396). -/
  pendingLoss : Nat := 0
  firstLost : Nat := 0
  /-- Triggers that have reached the Logbook: the cycle of each and its cause; those of earlier cycles are dropped (R394). -/
  trigs : List (Nat × Nat) := []
  deriving DecidableEq, Repr

def Logbook.initial : Logbook :=
  { state := 0, mode := 0, triggered := false, records := [], kept := 0, lost := 0,
    wrptr := 0, firstMarker := none }

/-- A Postcard slot (R399, R400). -/
structure PostSlot where
  captures : Nat
  valid : Bool
  busy : Bool
  cause : Nat
  /-- The 2 MiB page sections that are not zero: (offset, bytes); and the bytes hidden from an unprivileged reader. -/
  page : List (Nat × List Byte)
  started : Nat
  deriving DecidableEq, Repr

def PostSlot.initial : PostSlot :=
  { captures := 0, valid := false, busy := false, cause := 0, page := [], started := 0 }

/-- A failed checksum test as reported (R110): the array's COORD, the direction and the half (0 for a transpose read). -/
structure CksReport where
  coord : Nat
  transpose : Bool
  half : Nat
  deriving DecidableEq, Repr

/-- The Integrity and Observation Unit. -/
structure Integrity where
  errors : List UnitErrors
  /-- Failed checks in a row of one computation on one unit (R289): command, which computation, unit, count. -/
  repeats : List (Nat × List Nat × UnitId × Nat)
  /-- Who wrote device memory (R290): command, address, length; newest first. -/
  written : List (Nat × Nat × Nat)
  /-- Spare map (R305; AUX): pairs (retired COORD, spare COORD). -/
  spareMap : List (Nat × Nat)
  /-- Spare cores that have been retired themselves, by COORD. -/
  lostSpares : List Nat
  /-- Arrays reported as worn, by COORD (R125), and failed checksum tests, newest first (R110). -/
  worn : List Nat
  cksReports : List CksReport
  /-- Rail steps above nominal of cluster `32 d + c` and bank `32 d + b`, and lowered clocks (R301). -/
  clusterRail : Tab Nat
  bankRail : Tab Nat
  clusterSlow : Tab Bool
  /-- CPER queue (R308; AUX): slot number and record bytes; WRITE; the BMC's own read index. -/
  cper : Tab (List Byte)
  cperWrite : Nat
  cperBmcRead : Nat
  logs : Tab Logbook
  slot0 : PostSlot
  slot1 : PostSlot
  watchFired : Bool
  /-- Device time at which the watchdog last fired (R7). -/
  watchFiredAt : Option Nat
  /-- The watchdog may fire again (R399), and the time from which it counts: the last delivery, or an acceptance with no command
undelivered. -/
  watchArmed : Bool
  lastDelivery : Nat
  deriving DecidableEq, Repr

def Integrity.initial : Integrity :=
  { errors := [], repeats := [], written := [], spareMap := [], lostSpares := [], worn := [], cksReports := [], clusterRail := [], bankRail := [], clusterSlow := []
    cper := [], cperWrite := 0, cperBmcRead := 0, logs := [], slot0 := PostSlot.initial, slot1 := PostSlot.initial
    watchFired := false, watchFiredAt := none, watchArmed := true, lastDelivery := 0 }

/-! ### Register access (spec 00, 18) -/

/-- The latch of one 64-bit register for one master (R8). -/
structure HalfLatch where
  master : Master
  offset : Nat
  /-- True for a held lower half of a write, false for a latched upper half of a read. -/
  write : Bool
  value : W32
  deriving DecidableEq, Repr

/-! ### What leaves the module -/

/-- A message or an answer that leaves the module. -/
inductive OutMsg where
  /-- MSI-X vector (R453). -/
  | msix (vector : Nat)
  /-- Notice of a source to the BMC over MCTP (R453). -/
  | mctpNotice (source : Nat)
  /-- I3C in-band interrupt (R487). -/
  | inBand
  /-- Answer to a register read. -/
  | regRead (m : Master) (offset : Nat) (value : W64)
  /-- Answer to an aperture read of a master; poisoned data under R383. -/
  | aperture (m : Master) (data : List Byte) (poisoned : Bool)
  /-- Completion record and response of a critical command over MCTP or the debug port (R417). -/
  | critical (m : Master) (record response : List Byte)
  /-- SPDM response. -/
  | spdm (path : SpdmPath) (bytes : List Byte)
  /-- A Farpinen message: destination rank, kind and payload words. -/
  | farpinen (dest : Nat) (kind : Nat) (words : List Nat)
  /-- A flit on a port: 0 with payload, 1 NAK, 2 NULL with credits, 3 training pattern. -/
  | flit (port : Nat) (kind : Nat) (seq : Nat) (words : List Nat)
  /-- A die-to-die flit resent (R370). -/
  | d2d (link : D2D) (seq : Nat)
  /-- An arbiter serves an aged request of an input (R469). -/
  | grant (arbiter : Nat) (input : Nat)
  deriving DecidableEq, Repr

end Sys2Proof.Machine
end

