-- ==== Sys2Proof/Machine/StateData.lean ====
section
/-!
DEFINITION. The state of the module's data side as plain data: tensors being written, the Matrix Cores' tiles and gangs,
the Array Field and its upkeep, and the Exchange Engine with its ports.
-/
namespace Sys2Proof.Machine

open Sys2Proof

/-! ### Tensors -/

/-- A tensor descriptor (Table 11.3). -/
structure Td where
  addr : Nat
  aux : Nat
  rows : Nat
  cols : Nat
  tensor : Nat
  base : Nat
  fmt : Nat
  rm : Bool
  sat : Bool
  perRow : Bool
  lanes : Bool
  top : Int
  hist : Nat
  oplane : Nat
  stride : Nat
  deriving DecidableEq, Repr

/-- A fold that waits for its command to be clear (R189, R285): record, largest finite magnitude as FP32 bits, trouble,
and the die on which the conversion was made. -/
structure Fold where
  seq : Nat
  hist : Nat
  max : Nat
  trouble : Bool
  die : Nat
  deriving DecidableEq, Repr

/-! ### Matrix Cores (spec 03, 06) -/

/-- One output element of a tile: its terms (R62), its flags (R64) and its factored scale (R63). -/
structure Elem where
  row : Nat
  col : Nat
  /-- Finite products by K-partition and block, which c multiplies; and the terms that are not products of the two
  operands, which it does not. -/
  parts : List (List (List Dy))
  /-- The flags and the sum of each K-partition's products. -/
  partFlags : List Acc
  extra : List Dy
  flags : Acc
  c : Dy
  /-- The exact sum: c times the products, plus the other terms. -/
  sum : Dy
  deriving DecidableEq, Repr

/-- A long accumulator (R66, R67): N, the truncation count T, ec of the largest term that entered, and the first overflow
of the pass: its time in block times and e_o (R69). -/
structure LongAcc where
  n : Int
  t : Nat
  emax : Option Int
  above : Option (Nat × Int)
  deriving DecidableEq, Repr

def LongAcc.empty : LongAcc := ⟨0, 0, none, none⟩

/-- One of the two accumulator sets of a cell (R162): a long accumulator and the element flags of R64. -/
structure CellAcc where
  acc : LongAcc
  nan : Bool
  pinf : Bool
  ninf : Bool
  allNegZero : Bool
  deriving DecidableEq, Repr

def CellAcc.empty : CellAcc := ⟨LongAcc.empty, false, false, false, true⟩

/-- How far a tile has come. -/
inductive TileStage where
  | waiting
  | slow
  | delivered
  | checked
  deriving DecidableEq, Repr

/-- A tile (R67, R165): its elements and its anchor. -/
structure Tile where
  seq : Nat
  index : Nat
  /-- Query block of attention; 0 for other commands. -/
  block : Nat
  /-- Its values are operands of further work of the command, and no output elements. -/
  inner : Bool
  die : Nat
  cluster : Nat
  wide : Bool
  /-- Partitions of K-fold; 0 or 1 without (R167). -/
  p : Nat
  /-- Row and column of the core at which its gang begins (R164). -/
  corner : Nat × Nat
  anchor : Int
  moves : Nat
  stage : TileStage
  /-- Its pass was abandoned because the tile before it failed its test (R168). -/
  abandoned : Bool
  elems : List Elem
  /-- The two accumulator sets of the cells that hold the elements, one cell for each K-partition of each element: of the pass
  in progress, and of the last completed pass, which is tested and rounded (R162). -/
  running : List (List CellAcc)
  testing : List (List CellAcc)
  /-- Spares at work among the cluster's cores when the tile was delivered: retired core and spare (R305). -/
  spares : List (Nat × Nat)
  deriving DecidableEq, Repr

/-- A gang in use (R164). -/
structure Gang where
  seq : Nat
  block : Nat
  die : Nat
  cluster : Nat
  row : Nat
  col : Nat
  side : Nat
  deriving DecidableEq, Repr

/-- One output of an attention command: its rows are query rows, or key rows, which every query block adds to. -/
structure AttnOut where
  td : Td
  range : TopRange
  byQuery : Bool
  vals : List Val
  deriving DecidableEq, Repr

/-- What an attention command writes when its last tile has been delivered, and what it counts for each query block:
its outputs with their ranges and values, its statistics, key blocks streamed again, rows with no visible key, and
E4M3 clips of its internal conversions. -/
structure AttnEnd where
  outs : List AttnOut
  stats : List (Nat × List Byte)
  replays : List Nat
  empties : List Nat
  clips : List Nat
  deriving DecidableEq, Repr

/-- A command whose output elements are formed by tiles: where they go and which values have been delivered. -/
structure Work where
  seq : Nat
  out : Td
  /-- The range of its output conversion, read when it started (R187). -/
  range : TopRange
  tiles : Nat
  /-- Side of the gang that each of its blocks needs, 0 for tiles that gather at a home cluster; number of blocks. -/
  side : Nat
  blocks : Nat
  /-- (row, column, value) of delivered elements. -/
  values : List (Nat × Nat × F32)
  /-- The values that the command accumulates into, row by row, as its first run read them. -/
  prior : List Val
  die : Nat
  cluster : Nat
  /-- Cluster `32 d + c` of each block's gang, once allocated. -/
  homes : Tab Nat
  attn : Option AttnEnd
  deriving DecidableEq, Repr

/-- An operation residue check that is outstanding (R280): the command, the number of the check, and the engine (die,
number) where R501 fixes it. -/
structure VnCheck where
  seq : Nat
  index : Nat
  engine : Option (Nat × Nat)
  deriving DecidableEq, Repr

/-- The RECIPE of a record was set (R206): at what time, by which command, and the die that counted it. -/
structure RecipeRaise where
  hist : Nat
  time : Nat
  seq : Nat
  die : Nat
  deriving DecidableEq, Repr

/-- The Matrix Cores and the Vector and Numerics Unit. -/
structure Compute where
  tiles : List Tile
  gangs : List Gang
  works : List Work
  folds : List Fold
  vnChecks : List VnCheck
  /-- Raises of the newest cycle in which a command set some RECIPE. -/
  raises : List RecipeRaise
  /-- Ramp stage and issue-credit counter of cluster `32 d + c` (R171, R172). -/
  stage : Tab Nat
  credit : Tab Nat
  /-- The ramp in progress of a cluster: upward or not, and U/8 or V/8 as MC_RAMP held it when the ramp began. -/
  ramp : Tab (Option (Bool × Nat))
  deriving DecidableEq, Repr

def Compute.initial : Compute :=
  { tiles := [], gangs := [], works := [], folds := [], vnChecks := [], raises := [], stage := [], credit := [], ramp := [] }

/-! ### Array Field (spec 04) -/

/-- A change set of a tensor (R128 to R130): its step, the command that brought it, and its last entries
(flat weight index, level), in ascending index order. -/
structure ChangeSet where
  step : Nat
  seq : Nat
  entries : List (Nat × Int)
  deriving DecidableEq, Repr

/-- An array-resident tensor (Table 11.6). -/
structure Resident where
  id : Nat
  /-- Its LOAD, until every array is in service. -/
  loading : Option Nat
  /-- The LOAD that placed it. -/
  loader : Nat
  v0 : Nat
  h : Nat
  nu : Nat
  limg : Nat
  /-- (rank, array key) of each pair (s, g), s-major, as LOAD named them. -/
  map : List (Nat × Nat)
  k : Nat
  n : Nat
  omega : Int
  rho : Nat
  rhoT : Nat
  summer : Bool
  log2r : Nat
  fine : Bool
  tdig : Bool
  span : Bool
  lag : Nat
  remBits : Nat
  /-- Announced versions (R233), newest first, and the change sets not yet applied by every array. -/
  announced : List Nat
  sets : List ChangeSet
  deriving DecidableEq, Repr

/-- What a transition still has to do (R132, R133). -/
structure Transition where
  step : Nat
  /-- Rows not yet written: row, and the changed cells (physical column, level). -/
  rows : List (Nat × List (Nat × Int))
  started : Bool
  deriving DecidableEq, Repr

/-- Statistics of one direction of an array (R145): the draw number of its sign vector, read counts of strata A and B,
input sums by line, raw-measurement sums by line. -/
structure GainStat where
  draw : Nat
  nA : Nat
  nB : Nat
  mA : Tab Int
  mB : Tab Int
  rA : Tab Int
  rB : Tab Int
  deriving DecidableEq, Repr

def GainStat.initial : GainStat := { draw := 0, nA := 0, nB := 0, mA := [], mB := [], rA := [], rB := [] }

/-- One array (key `264 (32 d + b) + a`). -/
structure Arr where
  /-- The tensor and the pair number it works on. -/
  tensor : Option Nat
  pair : Nat
  /-- Programmed and in service. -/
  inService : Bool
  retired : Bool
  /-- The active array whose work a spare holds; the spare that holds an active array's work. -/
  replaces : Option Nat
  spare : Option Nat
  version : Nat
  transition : Option Transition
  /-- Programmed levels by `528 row + column`, spare and checksum columns among them. -/
  cells : Tab Int
  rowWrites : Tab Nat
  /-- Sanitizations of the whole Array Field that passed this array over, because it was retired (R428). -/
  missed : Nat
  /-- Weight column of each spare column 0 to 13 in service, and spare columns that are unusable. -/
  colMap : Tab (Option Nat)
  unusable : List Nat
  /-- Columns held after a write failure or an open line (R126, R127). -/
  held : List Nat
  /-- Converter lines held by R142: physical columns, and 528 + row. -/
  gain : Tab Nat
  offset : Tab Int
  /-- Rows queued for refresh (R139). -/
  refresh : List Nat
  gainCal : Nat
  gainTime : Nat
  sweepCount : Nat
  sweepTime : Nat
  lineTime : Nat
  fwd : GainStat
  bwd : GainStat
  /-- Device time at which the last closure ended (R156). -/
  closureEnd : Option Nat
  /-- Correction tables of converters 0 to 65 (columns) and 66 to 193 (rows), R141; an unlisted one is ideal. -/
  tables : Tab (List Int)
  deriving DecidableEq, Repr

def Arr.initial : Arr :=
  { tensor := none, pair := 0, inService := false, retired := false, replaces := none, spare := none, version := 0
    transition := none, cells := [], rowWrites := [], missed := 0, colMap := [], unusable := [], held := [], gain := [], offset := []
    refresh := [], gainCal := 0, gainTime := 0, sweepCount := 0, sweepTime := 0, lineTime := 0
    fwd := GainStat.initial, bwd := GainStat.initial, closureEnd := none, tables := [] }

/-- How far an array read has come. -/
inductive ReadStage where
  | waiting
  | reading
  /-- Codes of unconfirmed lines are being computed. -/
  | resolving
  /-- A quarter is computed on the digital path. -/
  | digital
  /-- It has been replaced by its parts. -/
  | split
  | delivered
  deriving DecidableEq, Repr

/-- A read of one array, or of one part of a split read (R92, R103, R104). -/
structure Read where
  seq : Nat
  index : Nat
  /-- Input vector, row segment and column group. -/
  vec : Nat
  s : Nat
  g : Nat
  transpose : Bool
  /-- First driven line and number of lines of this part; 0 for a whole read, 1 for a half, 2 for a quarter. -/
  lo : Nat
  len : Nat
  part : Nat
  sigma : Int
  /-- Driven INT8 values by line, the others 0. -/
  inputs : List Int
  stage : ReadStage
  array : Nat
  /-- Served by the digital stand-in (R304). -/
  standIn : Bool
  version : Nat
  /-- Codes by output line; none where not confirmed. -/
  codes : List (Option Int)
  /-- Delivered partial sums by output line (R99, R104), in units of 2^(ω + σ), or of a quarter or half of it where the fine
  LSB is below 1. -/
  sums : List Int
  full : Bool
  /-- A quarter that went to the digital path. -/
  isDigital : Bool
  /-- Checksum test outstanding, and the sums D of its halves (none where skipped). -/
  testing : Bool
  dsum : List (Option Dy)
  /-- A residue check of a resolution is outstanding (R97). -/
  shadow : Bool
  waitSince : Option Nat
  /-- Device time since which it has waited for a version that its array does not hold yet (R134). -/
  versionSince : Option Nat
  startedAt : Nat
  /-- A confirmed line saturates (R96); and the measurements of a whole read until its lines are resolved (R145). -/
  railed : Bool
  meas : List Int
  /-- AF_MARGIN.MARGIN when the read started. -/
  margin : Nat
  /-- Spares at work among the home cluster's cores when its sums were formed: retired core and spare (R305). -/
  spares : List (Nat × Nat)
  deriving DecidableEq, Repr

/-- A reference of a command to a version of a tensor (R131). -/
structure VerRef where
  seq : Nat
  tensor : Nat
  version : Nat
  deriving DecidableEq, Repr

/-- What AMVM or AMVT does besides its reads: where its outputs go, its companion terms and its digital terms. -/
structure Matvec where
  seq : Nat
  tensor : Nat
  transpose : Bool
  out : Td
  vecs : Nat
  home : Nat
  spread : Bool
  /-- What E of the input operand is for each vector (R68): its own E, and the largest valid scale among those that it uses,
  which decides when `byScale`; E of the stored operand and of the companion's first factor, each plus 8. -/
  exps : List (Int × Nat)
  byScale : Bool
  rest : Int
  compRest : Int
  wide : Bool
  /-- The output elements with the terms that need no read: companion and digital products, accumulated values. -/
  elems : List Elem
  /-- The exact dots û or v̂ of the companion path before their conversion (R174, R175). -/
  comp : List Elem
  /-- Parts of spanned reads that other modules have still to send, and parts received whose checks those modules have still
  to report: (vector, s, g). -/
  remote : List (Nat × Nat × Nat)
  unchecked : List (Nat × Nat × Nat)
  /-- Partial sums received: vector, column group, output line, value. -/
  received : List (Nat × Nat × Nat × Dy)
  /-- The 32 bytes of the window block, none without one. -/
  window : List Byte
  deriving DecidableEq, Repr

/-- The Array Field. -/
structure ArrayField where
  tensors : List Resident
  arrays : Tab Arr
  reads : List Read
  refs : List VerRef
  matvecs : List Matvec
  /-- Reads for other modules' commands (R120): the model's number, the asking rank, tensor, step. -/
  spanned : List (Nat × Nat × Nat × Nat)
  /-- Self-calibrations of bank `32 d + b` since power-up, and the time of the last. -/
  bankCal : Tab Nat
  bankCalTime : Tab Nat
  /-- Sanitizations that have programmed every array that is not retired, which adds one to each row's writes (AUX). -/
  whole : Nat
  deriving DecidableEq, Repr

def ArrayField.initial : ArrayField := { tensors := [], arrays := [], reads := [], refs := [], matvecs := [], spanned := [], bankCal := [], bankCalTime := [], whole := 0 }

/-! ### Upkeep (spec 05) -/

/-- The activities of Table 5.1. -/
inductive ActKind where
  | window
  | program
  | sweep
  | selfCal
  | gain
  | line
  | rail
  deriving DecidableEq, Repr

/-- What a write window writes, and which way a rail step goes. -/
inductive ActWork where
  | transition
  /-- Spare column `spare` takes weight column `col`; window `next` of 16 (R126). -/
  | spareColumn (spare col next : Nat)
  | refresh
  | plain
  | raise
  | lower
  deriving DecidableEq, Repr

/-- An activity of the Almanac (R149 to R158). -/
structure Activity where
  id : Nat
  kind : ActKind
  work : ActWork
  /-- Bank `32 d + b` and, but for bank activities, the array's key. -/
  bank : Nat
  array : Nat
  cls : Nat
  queuedAt : Nat
  /-- Commands that wait for it (R160). -/
  seqs : List Nat
  /-- Device time at which it asked for the claim it waits for; none before it has been taken. -/
  asked : Option Nat
  /-- Claims acquired, of rail, converter bank, array and allowance share in that order. -/
  held : Nat
  running : Bool
  startedAt : Nat
  deriving DecidableEq, Repr

/-- The Upkeep Controller. -/
structure Upkeep where
  acts : List Activity
  nextId : Nat
  deriving DecidableEq, Repr

def Upkeep.initial : Upkeep := { acts := [], nextId := 0 }

/-! ### Exchange Engine (spec 09) -/

/-- States of a bucket part at its owner (Table 9.4). -/
inductive PartState where
  | collecting
  | delivered
  | cleared
  deriving DecidableEq, Repr

/-- A copy of a contribution to a bucket part: its rank, the exact values of its entries as FP32 bits, its contributor
flag (R208). -/
structure Copy where
  rank : Nat
  vals : List Nat
  nf : Bool
  /-- Device time at which it was taken (R257). -/
  at_ : Nat
  deriving DecidableEq, Repr

/-- A bucket part at its owner (R252 to R258). The lanes are the exact sums of the taken copies, which are retained until
the part is cleared (R254); `owner` is this module's rank, or that of a shard it took over in a reform (R264). -/
structure Part where
  step : Nat
  bucket : Nat
  owner : Nat
  state : PartState
  /-- Device time of the first arrival (R255); none while only a RETRACT has arrived. -/
  first : Option Nat
  /-- The deadline has passed. -/
  late : Bool
  taken : List Copy
  held : List Copy
  /-- Ranks whose copy has arrived; ranks whose RETRACT came first (R265); ranks whose all-clear has arrived. -/
  seen : List Nat
  retracted : List Nat
  clears : List Nat
  /-- Slots that a retraction has reopened (R265). -/
  reopened : List Nat
  /-- Device time at which each rank's last copy arrived, and copies that gave way to another of their slot, with that time: a
  RETRACT in the same cycle undoes the arrival (R265). -/
  seenAt : List (Nat × Nat)
  displaced : List (Copy × Nat)
  /-- A delivered entry was not finite (R253). -/
  nf : Bool
  deriving DecidableEq, Repr

/-- What an XCHG has done (R248, R291 to R293). -/
structure Sent where
  seq : Nat
  step : Nat
  bucket : Nat
  shardBase : Nat
  mirrorBase : Nat
  errmem : Nat
  /-- Owners to which the present copy went. -/
  owners : List Nat
  nf : Bool
  /-- Owners whose acknowledgement of a RETRACT is outstanding (R292). -/
  waiting : List Nat
  /-- The all-clear has been sent (R293). -/
  cleared : Bool
  deriving DecidableEq, Repr

/-- What a module knows of a step's summaries (R260 to R264). -/
structure XeStep where
  step : Nat
  /-- (rank, NF, INC). -/
  got : List (Nat × Bool × Bool)
  firstAt : Option Nat
  sent : Bool
  /-- Excluded sets received, and the time at which the window of R264 opened. -/
  sets : List (Nat × List Nat)
  windowAt : Option Nat
  deriving DecidableEq, Repr

/-- A group CLOSE in progress (R191): the ordinal of the CLOSE in its step, and the listed records. -/
structure CloseX where
  seq : Nat
  step : Nat
  ordinal : Nat
  recs : List Nat
  deriving DecidableEq, Repr

/-- A GATH in progress. -/
structure GathX where
  seq : Nat
  step : Nat
  tensor : Nat
  dest : Nat
  deriving DecidableEq, Repr

/-- A level-change list (R269): the rank whose shard it covers, step, tensor, the entries' bytes, arrival time. -/
structure ListX where
  rank : Nat
  step : Nat
  tensor : Nat
  entries : List Byte
  at_ : Nat
  deriving DecidableEq, Repr

/-- What a member contributes to one record of a group CLOSE: RUN_MAX, bit 0 of TROUBLE, and whether it is open. -/
structure CloseRec where
  max : Nat
  trouble : Bool
  isOpen : Bool
  deriving DecidableEq, Repr

/-- A message of a group CLOSE. -/
structure CloseMsg where
  rank : Nat
  step : Nat
  ordinal : Nat
  recs : List CloseRec
  at_ : Nat
  deriving DecidableEq, Repr

/-- A delivery to the mirror that waits for the module's own XCHG (R267). -/
structure MirrorX where
  step : Nat
  bucket : Nat
  vals : List Nat
  deriving DecidableEq, Repr

/-- The Exchange Engine. -/
structure Exchange where
  /-- XE_GROUP, XE_TOPO, XE_PORT_DIR, XE_SPACE, XE_EXCH_CFG, XE_DEADLINE, XE_BUDDY, XE_LANE_BASE and XE_LANE_SIZE as taken at
  the last start of a port's training (R245); none before the first. -/
  taken : Option (List Nat)
  parts : List Part
  sends : List Sent
  steps : List XeStep
  closes : List CloseX
  closeMsgs : List CloseMsg
  gaths : List GathX
  lists : List ListX
  mirrors : List MirrorX
  /-- Buddy deliveries without an acknowledgement: (step, bucket), one entry each. -/
  unacked : List (Nat × Nat)
  /-- Copies of parts for which 16 others leave no room (R254): they stay in the channel's buffers. -/
  waiting : List (Nat × Nat × Nat × Copy)
  /-- Ranks excluded by reforms, whether this module is one, and the buddies of ranks that a reform used. -/
  excluded : List Nat
  stopped : Bool
  buddies : List (Nat × Nat)
  reformed : Bool
  lastStep : Nat
  lastOutcome : Nat
  deriving DecidableEq, Repr

def Exchange.initial : Exchange := { taken := none, parts := [], sends := [], steps := [], closes := [], closeMsgs := [], gaths := [], lists := [], mirrors := [], unacked := [], waiting := [], excluded := [], stopped := false, buddies := [], reformed := false, lastStep := 0, lastOutcome := 0 }

/-! ### Farpinen ports and die-to-die connections (R271 to R279, R460 to R463) -/

/-- States of a port (XE_PORT_STATUS_p). -/
inductive PortState where
  | disabled
  | training
  | up
  | down
  | incompatible
  deriving DecidableEq, Repr

/-- Where an arbiter stands in its round (R467): the grants left to each input that was active when the round began, and the
input served last. -/
structure Round where
  left : List (Nat × Nat)
  last : Nat
  deriving DecidableEq, Repr

/-- A flit that waits or stands in the retry buffer: sequence number, virtual channel with dateline class (0 to 2, 3 control,
4 data class 1), the data units of its payload with their metadata bytes, the source behind it (R467: 0 the module's own, 1 + p the receive path of port p),
the credits that it returns, resends. -/
structure FlitTx where
  seq : Nat
  vc : Nat
  data : List Byte
  source : Nat
  credits : List Nat
  resends : Nat
  /-- Device time at which it was queued, and whether aging lets it go first (R463). -/
  queuedAt : Nat
  aged : Bool
  deriving DecidableEq, Repr

/-- A Farpinen port. -/
structure Port where
  state : PortState
  step : Nat
  startedAt : Nat
  fails : Nat
  trained : Nat
  peerRank : Nat
  peerPort : Nat
  /-- Lanes in use, and lanes taken out until a RETRAIN (R278), as bit masks. -/
  lanes : Nat
  out_ : Nat
  /-- XE_GROUP, XE_TOPO, XE_PORT_DIR, XE_SPACE, XE_EXCH_CFG and XE_DEADLINE as taken at the last training (R245). -/
  settings : List Nat
  nextTx : Nat
  nextRx : Nat
  /-- Flits that wait for a credit, and flits sent but not acknowledged (at most 256). -/
  queue : List FlitTx
  retry : List FlitTx
  /-- Credits of request, response, data class 0, control, data class 1. -/
  credits : List Nat
  /-- Errors attributed to each lane in the attempts of the flit being resent. -/
  laneErrors : List Nat
  /-- Buffers freed whose credit has not been returned, of each virtual channel (R460). -/
  owed : List Nat
  /-- Flits that arrived in A2 or during the wake, oldest first: they stay in the receive buffers (R438). -/
  inbox : List (List Byte)
  /-- Buffers of exchange data that are not free, because copies of a seventeenth part wait in the channel (R254). -/
  held : Nat
  /-- Symbols in error that the port has received, by the lane that carried them (R272, R281). -/
  rxErrors : List Nat
  /-- The arbitration of the three channels below the control channel (R275, R467). -/
  turn : Round
  deriving DecidableEq, Repr

/-- Initial credits (Table 9.9). -/
def initialCredits : List Nat := [32, 32, 64, 16, 64]

def Port.initial : Port := { state := .disabled, step := 0, startedAt := 0, fails := 0, trained := 0, peerRank := 0, peerPort := 0, lanes := 0, out_ := 0, settings := [], nextTx := 0, nextRx := 0, queue := [], retry := [], credits := initialCredits, laneErrors := List.replicate 8 0, owed := [0, 0, 0, 0], inbox := [], held := 0, rxErrors := List.replicate 8 0, turn := ⟨[], 0⟩ }

/-- A request that waits at an arbiter (R467 to R469): its source, the arbiter and its input, the count that it carries, the
cycles of the arbiter's clock that it has waited, and the last arbiter that it crosses. -/
structure ArbReq where
  source : Source
  arbiter : Nat
  input : Nat
  count : Nat
  waited : Nat
  last : Nat
  deriving DecidableEq, Repr

/-- A die-to-die flit that the sending bridge keeps because it arrived with an uncorrectable codeword (R370): its virtual
channel, sequence number, codewords as they last arrived, and its arrivals: the first and up to 8 resends. -/
structure D2DFlit where
  vc : Nat
  seq : Nat
  bytes : List Byte
  resends : Nat
  deriving DecidableEq, Repr

/-- One direction of a die-to-die connection (R11, R460): the credits of its four virtual channels, and the retry buffer. -/
structure D2DLink where
  credits : List Nat
  retry : List D2DFlit
  deriving DecidableEq, Repr

/-- Credits of a die-to-die connection, each direction (Table 17.2). -/
def d2dCredits : List Nat := [128, 128, 128, 32]

def D2DLink.initial : D2DLink := { credits := d2dCredits, retry := [] }

/-- Ports, die-to-die connections (0 to 3 to the hub, 4 to 7 the ring; entry 2 k + 1 of `d2d` is the direction away from the
hub, or up the ring) and arbiters. -/
structure Fabric where
  ports : Tab Port
  d2d : Tab D2DLink
  /-- Connections out of service (R13). -/
  d2dOut : Tab Bool
  arb : List ArbReq
  turns : Tab Round
  deriving DecidableEq, Repr

def Fabric.initial : Fabric := { ports := [], d2d := [], d2dOut := [], arb := [], turns := [] }

end Sys2Proof.Machine
end

