-- ==== Sys2Proof/Machine/State.lean ====
section
/-!
DEFINITION. The state of the machine, its faults and refusals, and the state right after reset.
-/
namespace Sys2Proof.Machine

open Sys2Proof

/-- Everything the specification gives the module, the commands that wait, and what has left the module. -/
structure State where
  /-- Commands waiting, first in first out. -/
  pending : List Instr
  ms : MemSys
  hg : HostGate
  /-- Mover channels 0 to 63. -/
  mv : Tab Channel
  ham : Hamper
  ld : Lantern
  tb : Trust
  irq : Irq
  pcie : Pcie
  im : Integrity
  mc : Compute
  af : ArrayField
  uk : Upkeep
  xe : Exchange
  fab : Fabric
  /-- Stored fields of the registers, by BAR0 offset; an unlisted register holds its reset value. -/
  regs : Tab W64
  /-- Global counters, by BAR0 offset (Table 18.4). -/
  ctrs : Tab W64
  latches : List HalfLatch
  /-- Number of the next open value (the model's own field, see `Config.freeByte`). -/
  free : Nat
  /-- Messages that have left the module, oldest first. -/
  out : List OutMsg
  deriving DecidableEq, Repr

/-- The machine right after reset: no supply is present, no command waits, and every field holds its reset value. -/
def State.reset : State :=
  { pending := [], ms := MemSys.initial, hg := HostGate.initial, mv := [], ham := Hamper.initial, ld := Lantern.initial
    tb := Trust.initial 0, irq := Irq.initial, pcie := Pcie.initial, im := Integrity.initial, mc := Compute.initial
    af := ArrayField.initial, uk := Upkeep.initial, xe := Exchange.initial, fab := Fabric.initial, regs := [], ctrs := []
    latches := [], free := 0, out := [] }

/-- Why the machine stops. No command of this block stops the module, so one reason suffices. -/
inductive Fault where
  /-- Raised by no row: the block goes on after every command. Safe. -/
  | illFormed
  deriving DecidableEq, Repr

/-- Why a command has no meaning. -/
inductive Refusal where
  /-- Raised by the arms of `exec` whose row has no meaning yet. Safe. -/
  | notModelled (mnemonic : String)
  deriving DecidableEq, Repr

end Sys2Proof.Machine
end

