-- ==== Sys2Proof/Machine/Regs.lean ====
section
/-!
DEFINITION. The registers that hold what software writes: their BAR0 offsets, widths, reset domains, reset values, the
bits that a write sets, and who may write them (Tables 18.3, 0.5, 15.9); their named fields. Status registers are
computed from the state where they are read (Machine/Bus.lean).
-/
namespace Sys2Proof.Machine

open Sys2Proof

/-- Reset domains ("Register conventions"). -/
inductive Domain3 where
  | aux
  | module
  | flr
  deriving DecidableEq, Repr

/-- Who may write a register (Table 15.9). -/
inductive Writer where
  | owner
  | any
  /-- The host whether or not it owns the module, and the owner. -/
  | host
  deriving DecidableEq, Repr

/-- One row of the table of stored registers: `n` registers at `base + stride * i`. -/
structure RegRow where
  base : Nat
  stride : Nat
  n : Nat
  wide : Bool
  dom : Domain3
  reset : Nat
  /-- Added to `reset` for each index (VECTOR of IC_SRC_s is s). -/
  step : Nat
  /-- Bits with access RW. -/
  rw : Nat
  writer : Writer
  deriving DecidableEq, Repr

/-- The stored registers of LD, HG, MV and MS. -/
def regRowsA : List RegRow := [
  ⟨0x0000018, 0, 1, true, .module, 0x000A_0000_0000, 0, 0xFFFF_0000_0000, .owner⟩,
  ⟨0x0000028, 0, 1, false, .module, 0x32, 0, 0xFFFF_FFFF, .owner⟩,
  ⟨0x0000030, 0, 1, false, .module, 0x0010_0014, 0, 0x001F_03FF, .owner⟩,
  ⟨0x0000050, 0, 1, false, .module, 0x2864, 0, 0xFFFF, .owner⟩,
  ⟨0x0000110, 0, 1, false, .module, 0x03E8, 0, 0xFFFF, .owner⟩,
  ⟨0x0800010, 0, 1, false, .module, 0x000F_4240, 0, 0xFFFF_FFFF, .owner⟩,
  ⟨0x0800014, 0, 1, false, .module, 0x000A, 0, 0xFFFF, .owner⟩,
  ⟨0x0801000, 0x40, 64, true, .flr, 0, 0, 0xFFFF_FFFF_FFFF_FFC0, .host⟩,
  ⟨0x0801008, 0x40, 64, true, .flr, 0, 0, 0xFFFF_FFFF_FFFF_FFF0, .host⟩,
  ⟨0x0801010, 0x40, 64, true, .flr, 0, 0, 0xFFFF_FFFF_FFFF_FFF0, .host⟩,
  ⟨0x0801018, 0x40, 64, true, .flr, 0, 0, 0xFFFF_FFFF_FFFF_FF80, .host⟩,
  ⟨0x0801020, 0x40, 64, false, .flr, 0x2004_0000, 0, 0xA01F_0000, .host⟩,
  ⟨0x0C01000, 0x40, 64, false, .module, 0x1, 0, 0xF, .owner⟩,
  ⟨0x1000010, 0, 1, false, .aux, 0, 0, 0x3, .owner⟩,
  ⟨0x1000020, 0, 1, false, .module, 0x18, 0, 0xFF, .owner⟩,
  ⟨0x1000030, 0, 1, true, .flr, 0, 0, 0x8000_007F_C000_0000, .owner⟩,
  ⟨0x1000100, 0x8, 8, false, .module, 0, 0, 0xFF03_FFFF, .owner⟩,
  ⟨0x1000400, 0, 1, true, .module, 0, 0, 0xFFFF_FFFF_FFFF_F000, .owner⟩,
  ⟨0x1000408, 0, 1, false, .module, 0x3FE0_0000, 0, 0xBFF0_1FFF, .owner⟩]

/-- The stored registers of AF, MC, VN, UK and IC. -/
def regRowsB : List RegRow := [
  ⟨0x1400010, 0, 1, false, .module, 0x0040_0010, 0, 0x00FF_00FF, .owner⟩,
  ⟨0x1400018, 0, 1, false, .module, 0x0020_0100, 0, 0xFFFF_FFFF, .owner⟩,
  ⟨0x1400020, 0, 1, false, .flr, 0, 0, 0x031F_01FF, .owner⟩,
  ⟨0x1400080, 0, 1, false, .flr, 0, 0, 0x7FF, .owner⟩,
  ⟨0x1800010, 0, 1, false, .module, 0x404, 0, 0xF0F, .owner⟩,
  ⟨0x1C00100, 0, 1, true, .module, 0, 0, 0xFFFF_FFFF_FFFF_FFFF, .owner⟩,
  ⟨0x1C00110, 0, 1, false, .module, 3, 0, 0x1F, .owner⟩,
  ⟨0x2400010, 0, 1, false, .module, 0x1806_0168, 0, 0xFFFF_FFFF, .owner⟩,
  ⟨0x2400018, 0, 1, false, .module, 0x0020_101E, 0, 0xFFFF_FFFF, .owner⟩,
  ⟨0x0A00280, 0x4, 32, false, .module, 0, 0, 0x8000_01FF, .owner⟩,
  ⟨0x0A01000, 0x4, 512, false, .module, 0, 0x1_0000, 0x11FF_0000, .owner⟩]

/-- The stored registers of XE and IM. -/
def regRowsC : List RegRow := [
  ⟨0x2000010, 0, 1, true, .module, 0x1_0000, 0, 0xFFFF_0300_07FF_03FF, .owner⟩,
  ⟨0x2000018, 0, 1, false, .module, 0, 0, 0xFFFF_FFFF, .owner⟩,
  ⟨0x2000020, 0, 1, true, .module, 0, 0, 0xFFFF_FFFF_FFFF, .owner⟩,
  ⟨0x2000028, 0, 1, true, .module, 0, 0, 0xFFFF_FFFF_FFFF, .owner⟩,
  ⟨0x2000030, 0, 1, false, .module, 0x0020_0000, 0, 0x01FF_0000, .owner⟩,
  ⟨0x2000038, 0, 1, true, .module, 0x0064_0000_07D0, 0, 0xFFFF_000F_FFFF, .owner⟩,
  ⟨0x2000040, 0, 1, false, .module, 0, 0, 0x83FF_03FF, .owner⟩,
  ⟨0x2000048, 0, 1, true, .module, 0, 0, 0xFFFF_FFFF_FFFF_F000, .owner⟩,
  ⟨0x2000050, 0, 1, false, .module, 0, 0, 0xFFFF, .owner⟩,
  ⟨0x2001008, 0x40, 12, false, .module, 0x8000_0000, 0, 0x8000_0000, .owner⟩,
  ⟨0x2800010, 0, 1, true, .module, 0x0401_5180_0209_27C0, 0, 0xFFFF_FFFF_FFFF_FFFF, .owner⟩,
  ⟨0x2800018, 0, 1, true, .module, 0x0600_0E10_0300_EA60, 0, 0xFFFF_FFFF_FFFF_FFFF, .owner⟩,
  ⟨0x2800020, 0, 1, true, .module, 0x0000_0000_4009_27C0, 0, 0xFFFF_FFFF_FFFF_FFFF, .owner⟩,
  ⟨0x2800028, 0, 1, true, .module, 0x0000_0000_0800_03E8, 0, 0xFFFF_FFFF_FFFF_FFFF, .owner⟩,
  ⟨0x2800030, 0, 1, false, .module, 0x18, 0, 0xFF, .owner⟩,
  ⟨0x2800050, 0, 1, false, .aux, 0, 0, 0xFF, .owner⟩,
  ⟨0x2800060, 0, 1, false, .module, 0x07D0, 0, 0xFFFF, .owner⟩,
  ⟨0x2800090, 0, 1, false, .flr, 0, 0, 0x1_01FF, .any⟩,
  ⟨0x28000A0, 0, 1, false, .flr, 0, 0, 0x3F, .owner⟩,
  ⟨0x2800800, 0x40, 5, false, .module, 0x1032_0001, 0, 0x707F_01FF, .owner⟩]

/-- Every stored register. -/
def regRows : List RegRow := regRowsA ++ regRowsB ++ regRowsC

/-- The index of `off` in a row, when it names one of its registers (R471). -/
def RegRow.index (r : RegRow) (off : Nat) : Option Nat :=
  if off < r.base then none
  else if r.n = 1 then (if off = r.base then some 0 else none)
  else
    let d := off - r.base
    if d % r.stride = 0 ∧ d / r.stride < r.n then some (d / r.stride) else none

/-- The row and index of a stored register. -/
def findRow : List RegRow → Nat → Option (RegRow × Nat)
  | [], _ => none
  | r :: rs, off =>
    match r.index off with
    | some i => some (r, i)
    | none => findRow rs off

/-- Reset value of the stored register at `off` (0 where there is none). -/
def regReset (off : Nat) : W64 :=
  match findRow regRows off with
  | some (r, i) => BitVec.ofNat 64 (r.reset + r.step * i)
  | none => 0

/-- Reset domain of the stored register at `off`. -/
def regDomain (off : Nat) : Domain3 :=
  match findRow regRows off with
  | some (r, _) => r.dom
  | none => .module

/-- The stored value of the register at `off`. -/
def State.reg (s : State) (off : Nat) : Nat := (Tab.get regReset s.regs off).toNat

/-- Store `v` at `off`, whole. -/
def State.setReg (s : State) (off : Nat) (v : Nat) : State :=
  { s with regs := Tab.set regReset s.regs off (BitVec.ofNat 64 v) }

/-- Bits `[lo + w - 1 : lo]` of the stored register at `off`. -/
def State.fld (s : State) (off lo w : Nat) : Nat := bitsOf (s.reg off) lo w

/-- Keep the entries of the domains that `keep` names; the others take their reset values. -/
def clearRegs (keep : Domain3 → Bool) (t : Tab W64) : Tab W64 := t.filter fun e => keep (regDomain e.1)

/-! ### Offsets -/

def rRingBase (n : Nat) : Nat := 0x0801000 + 0x40 * n
def rCqBase (n : Nat) : Nat := 0x0801008 + 0x40 * n
def rDbAddr (n : Nat) : Nat := 0x0801010 + 0x40 * n
def rExtBase (n : Nat) : Nat := 0x0801018 + 0x40 * n
def rRingCtrl (n : Nat) : Nat := 0x0801020 + 0x40 * n
def rChCtrl (c : Nat) : Nat := 0x0C01000 + 0x40 * c
def rZone (n : Nat) : Nat := 0x1000100 + 0x8 * n
def rFastSlot (k : Nat) : Nat := 0x0A00280 + 0x4 * k
def rSrc (n : Nat) : Nat := 0x0A01000 + 0x4 * n
def rPortCtrl (p : Nat) : Nat := 0x2001008 + 0x40 * p
def rLogCfg (u : Nat) : Nat := 0x2800800 + 0x40 * u

/-! ### Named fields, with "acts as" limits applied -/

/-- HG_WAIT_TIMEOUT.WAIT_US; 0 acts as 1. -/
def State.waitUs (s : State) : Nat := max 1 (s.fld 0x0800010 0 32)
/-- HG_GRACE.GRACE_MS; 0 acts as 1. -/
def State.graceMs (s : State) : Nat := max 1 (s.fld 0x0800014 0 16)
/-- LD_BRINGUP.HOLD_MS; 0 acts as 1. -/
def State.holdMs (s : State) : Nat := max 1 (s.fld 0x0000110 0 16)
/-- LD_PWR_CTRL.IDLE_US; 0 acts as 1. -/
def State.idleUs (s : State) : Nat := max 1 (s.fld 0x0000028 0 16)
/-- LD_PWR_CTRL.DOZE_MS. -/
def State.dozeMs (s : State) : Nat := s.fld 0x0000028 16 16
/-- LD_DAWN.START_MAX; 0 acts as 1. -/
def State.startMax (s : State) : Nat := max 1 (s.fld 0x0000030 16 5)
/-- LD_DAWN.PLL_IDLE, in units of 100 µs. -/
def State.pllIdle (s : State) : Nat := s.fld 0x0000030 0 10
/-- LD_THERMAL.THROTTLE_C, limited to 85 to 105. -/
def State.throttleC (s : State) : Nat := clampNat (s.fld 0x0000050 0 8) 85 105
/-- LD_THERMAL.COOL_WARN_C. -/
def State.coolWarnC (s : State) : Nat := s.fld 0x0000050 8 8
/-- LD_PTM.INTERVAL_MS; 0 acts as 1. -/
def State.ptmIntervalMs (s : State) : Nat := max 1 (s.fld 0x0000018 32 16)
/-- HG_RING_CTRL_n.ENABLE. -/
def State.ringEnabled (s : State) (n : Nat) : Bool := s.fld (rRingCtrl n) 31 1 == 1
/-- HG_RING_CTRL_n.STOP_ON_ERROR. -/
def State.ringStop (s : State) (n : Nat) : Bool := s.fld (rRingCtrl n) 29 1 == 1
/-- HG_RING_CTRL_n.LOG2_SIZE. -/
def State.ringLog2 (s : State) (n : Nat) : Nat := s.fld (rRingCtrl n) 16 5
/-- Slots of ring n. -/
def State.ringSize (s : State) (n : Nat) : Nat := 2 ^ s.ringLog2 n
/-- IM_WATCHDOG.MS. -/
def State.watchMs (s : State) : Nat := s.fld 0x2800060 0 16
/-- VN_JOB_SEED. -/
def State.jobSeed (s : State) : W64 := Tab.get regReset s.regs 0x1C00100
/-- AF_MARGIN.MARGIN, limited to 0x04 to 0x40. -/
def State.margin (s : State) : Nat := clampNat (s.fld 0x1400010 0 8) 0x04 0x40
/-- AF_MARGIN.RESOLVE_LIMIT. -/
def State.resolveLimit (s : State) : Nat := s.fld 0x1400010 16 8
/-- AF_CKS_TOL.BASE and SLOPE. -/
def State.cksBase (s : State) : Nat := s.fld 0x1400018 0 16
def State.cksSlope (s : State) : Nat := s.fld 0x1400018 16 16
/-- MC_RAMP.UP and DOWN, limited to 2 to 8, in units of 8 cycles. -/
def State.rampUp (s : State) : Nat := clampNat (s.fld 0x1800010 0 4) 2 8
def State.rampDown (s : State) : Nat := clampNat (s.fld 0x1800010 8 4) 2 8
/-- VN_RECIPE_CFG.COUNT; above 16 acts as 16. -/
def State.recipeCount (s : State) : Nat := min 16 (s.fld 0x1C00110 0 5)
/-- The registers of the Exchange Engine whose writes take effect at a training (R245). -/
def xeSettings : List Nat :=
  [0x2000010, 0x2000018, 0x2000020, 0x2000028, 0x2000030, 0x2000038, 0x2000040, 0x2000048, 0x2000050]

/-- What such a register holds in force: the value taken at the last training, or, before the first, the register's. -/
def State.setting (s : State) (r : Nat) : Nat :=
  match s.xe.taken with
  | some l => l.getD ((r - 0x2000010) / 8) 0
  | none => s.reg r

def State.sfld (s : State) (r i n : Nat) : Nat := bitsOf (s.setting r) i n

/-- XE_GROUP: M (R243), RANK, redundancy f, POLICY, GROUP_ID. -/
def State.groupSize (s : State) : Nat := clampNat (s.sfld 0x2000010 16 11) 1 1024
def State.rank (s : State) : Nat := s.sfld 0x2000010 0 10
def State.redund (s : State) : Nat := if s.sfld 0x2000010 40 1 = 1 then 2 else 1
def State.policy (s : State) : Nat := s.sfld 0x2000010 41 1
def State.groupId (s : State) : Nat := s.sfld 0x2000010 48 16
/-- XE_SPACE.ENTRIES. -/
def State.spaceEntries (s : State) : Nat := s.sfld 0x2000028 0 48
/-- XE_EXCH_CFG.BUCKET_MIB, limited to 4 to 256. -/
def State.bucketMib (s : State) : Nat := clampNat (s.sfld 0x2000030 16 9) 4 256
/-- XE_DEADLINE. -/
def State.deadlineUs (s : State) : Nat := clampNat (s.sfld 0x2000038 0 20) 50 1000000
def State.giveupMs (s : State) : Nat := max 1 (s.sfld 0x2000038 32 16)
/-- XE_BUDDY. -/
def State.buddyOn (s : State) : Bool := s.sfld 0x2000040 31 1 == 1
def State.ward (s : State) : Nat := s.sfld 0x2000040 16 10
def State.buddy (s : State) : Nat := s.sfld 0x2000040 0 10
/-- XE_LANE_BASE and XE_LANE_SIZE: a base with bit 63 set gives a lane area of size zero. -/
def State.laneBase (s : State) : Nat := s.setting 0x2000048
def State.laneBytes (s : State) : Nat := if s.sfld 0x2000048 63 1 = 1 then 0 else s.sfld 0x2000050 0 16 * 2 ^ 20
/-- UK_PERIODS. -/
def State.sweepMin (s : State) : Nat :=
  let v := s.fld 0x2400010 0 16
  if v = 0 then 0 else max 15 v
def State.conv10Min (s : State) : Nat := s.fld 0x2400010 16 8
def State.lineH (s : State) : Nat := s.fld 0x2400010 24 8
/-- UK_GCAL_CFG. -/
def State.gcalInterval (s : State) : Nat := s.fld 0x2400018 0 8
def State.gcalMaxStep (s : State) : Nat := s.fld 0x2400018 8 8
def State.gcalMinReads (s : State) : Nat := 256 * max 1 (s.fld 0x2400018 16 16)
/-- IM_QUIET.HOURS; 0 acts as 1. -/
def State.quietHours (s : State) : Nat := max 1 (s.fld 0x2800030 0 8)
/-- IM_CPER_PTR.READ. -/
def State.cperRead (s : State) : Nat := s.fld 0x2800050 0 8

/-! ### Global counters (R83, R384, R385) -/

/-- The counter at BAR0 offset `off`. -/
def State.ctr (s : State) (off : Nat) : Nat := (Tab.get (fun _ => (0 : W64)) s.ctrs off).toNat

/-- Add `n` to the 64-bit counter at `off`. -/
def State.bump (s : State) (off : Nat) (n : Nat := 1) : State :=
  { s with ctrs := Tab.upd (fun _ => (0 : W64)) s.ctrs off (· + BitVec.ofNat 64 n) }

/-- Per-die counters: the die stride is 0x1_0000. -/
def dieCtr (base d : Nat) : Nat := base + 0x10000 * d

/-- IM_EVT_TOTAL_e (Table 14.1). -/
def evtTotal (e : Nat) : Nat := 0x2802000 + 8 * e

end Sys2Proof.Machine
end

