-- ==== Sys2Proof/Machine/Symbol.lean ====
section
/-!
DEFINITION. The symbol code of R367 and R368: GF(2^8), the check bytes of a codeword, and what a receiver makes of one.
-/
namespace Sys2Proof.Machine

open Sys2Proof

/-- Multiply by x in GF(2^8) with polynomial x^8 + x^4 + x^3 + x^2 + 1. -/
def gfDouble (a : Nat) : Nat := if a < 128 then 2 * a else (2 * a) ^^^ 0x11D

/-- `a * b` in GF(2^8), over `k` bits of `b`. -/
def gfMulGo : Nat → Nat → Nat → Nat
  | 0, _, _ => 0
  | k + 1, a, b => (if b % 2 = 1 then a else 0) ^^^ gfMulGo k (gfDouble a) (b / 2)

/-- The product in GF(2^8). -/
def gfMul (a b : Nat) : Nat := gfMulGo 8 a b

/-- α^k with α = 0x02. -/
def gfPow : Nat → Nat
  | 0 => 1
  | k + 1 => gfDouble (gfPow k)

/-- Division step: the remainder after one more symbol, with g(x) = x^3 + 0x07 x^2 + 0x0E x + 0x08 (R367). -/
def checkStep (r : Nat × Nat × Nat) (c : Nat) : Nat × Nat × Nat :=
  let f := r.1 ^^^ c
  (r.2.1 ^^^ gfMul f 0x07, r.2.2 ^^^ gfMul f 0x0E, gfMul f 0x08)

/-- The check bytes c_33, c_34, c_35 of 32 data bytes and the metadata byte (R367). -/
def checkBytes (l : List Byte) : List Byte :=
  let r := l.foldl (fun r c => checkStep r c.toNat) (0, 0, 0)
  [BitVec.ofNat 8 r.1, BitVec.ofNat 8 r.2.1, BitVec.ofNat 8 r.2.2]

/-- Syndrome S_j = c(α^j) of the symbols, by Horner's rule (R368). -/
def syndrome (j : Nat) (l : List Nat) : Nat := l.foldl (fun acc c => gfMul acc (gfPow j) ^^^ c) 0

/-- What a receiver makes of a codeword (R368). -/
inductive CwState where
  | good
  /-- Symbol `pos` is corrected by adding `value`. -/
  | corrected (pos value : Nat)
  | bad
  deriving DecidableEq, Repr

/-- The position `i` below 36 with S_1 = S_0 α^(35 − i), if any. -/
def findPos (s0 s1 : Nat) : Nat → Option Nat
  | 0 => none
  | k + 1 => if gfMul s0 (gfPow (35 - k)) = s1 then some k else findPos s0 s1 k

/-- R368 on the three syndromes. -/
def decodeSyn (s0 s1 s2 : Nat) : CwState :=
  if s0 = 0 ∧ s1 = 0 ∧ s2 = 0 then .good
  else if s0 ≠ 0 ∧ s1 ≠ 0 ∧ s2 ≠ 0 ∧ gfMul s1 s1 = gfMul s0 s2 then
    match findPos s0 s1 36 with
    | some i => .corrected i s0
    | none => .bad
  else .bad

/-- The 36 symbols of a pattern, byte i at bits 8i. -/
def patSyms (p : Nat) : List Nat := (List.range 36).map fun i => bitsOf p (8 * i) 8

/-- R368 on 36 symbols. -/
def decodeCw (l : List Nat) : CwState := decodeSyn (syndrome 0 l) (syndrome 1 l) (syndrome 2 l)

/-- The code is linear, so an error pattern has the syndromes of the codeword that it has struck. -/
def decodePattern (p : Nat) : CwState := if p = 0 then .good else decodeCw (patSyms p)

/-- What is left of a pattern after the receiver's correction (0 when the right symbol was corrected). -/
def residual (p : Nat) : Nat :=
  match decodePattern p with
  | .corrected i v => p ^^^ (v * 2 ^ (8 * i))
  | _ => p

end Sys2Proof.Machine
end

