-- ==== Sys2Proof/Machine/Mem.lean ====
section
/-!
DEFINITION. The device address space (Table 13.1), interleaving (R363, R364), and reads and writes of bytes with the
symbol code, poison and zones (R367 to R375).
-/
namespace Sys2Proof.Machine

open Sys2Proof

/-- What every unlisted byte reads as: stacks and stores are zeroed at reset (R365, R366). -/
def memDefault : Nat → Byte := fun _ => 0

/-- The memory's canonical form. -/
def Memory.wf (m : List Host.Cell) : Bool := Tab.wf memDefault m

/-- Bit 63 names host memory (R361). -/
def isHost (a : Nat) : Bool := bitsOf a 63 1 == 1

/-- What an address names (Table 13.1). -/
inductive Place where
  | host
  | stack (s o : Nat)
  | wstore (d : Nat)
  | hub
  | journal
  | outside
  deriving DecidableEq, Repr

/-- Stack and offset of a stack address in an interleave mode (Table 13.2). -/
def stackOf (mode a : Nat) : Nat × Nat :=
  if mode = 1 then (2 * bitsOf a 37 2 + bitsOf a 12 1, bitsOf a 13 24 * 4096 + a % 4096)
  else if mode = 2 then (bitsOf a 12 3, bitsOf a 15 24 * 4096 + a % 4096)
  else (bitsOf a 36 3, a % 2 ^ 36)

/-- The stack address of an offset: the inverse of `stackOf`. -/
def stackAddr (mode s o : Nat) : Nat :=
  if mode = 1 then (s / 2) * 2 ^ 37 + (o / 4096) * 2 ^ 13 + (s % 2) * 4096 + o % 4096
  else if mode = 2 then (o / 4096) * 2 ^ 15 + s * 4096 + o % 4096
  else s * 2 ^ 36 + o

/-- The device address in mode `n` of the stack byte that mode `m` names by `a`; other addresses stay. -/
def movedAddr (m n a : Nat) : Nat :=
  if a < 2 ^ 39 then stackAddr n (stackOf m a).1 (stackOf m a).2 else a

/-- A table under new keys. -/
def rekey {α : Type} [DecidableEq α] (d : Nat → α) (f : Nat → Nat) (t : Tab α) : Tab α :=
  t.foldl (fun u p => Tab.set d u (f p.1) p.2) []

/-- A mode takes effect (R363): data does not move, so each stack byte gets the device address that the new mode gives its
offset. -/
def MemSys.setMode (m : MemSys) (n : Nat) : MemSys :=
  if n = m.interleave then m
  else
    let cw (k : Nat) : Nat := movedAddr m.interleave n (32 * k) / 32
    { m with
      interleave := n
      mem := rekey memDefault (movedAddr m.interleave n) m.mem
      poison := rekey (fun _ => false) cw m.poison
      zone := rekey (fun _ => 0) cw m.zone
      upset := rekey (fun _ => 0) cw m.upset }

/-- Table 13.1. -/
def placeOf (mode a : Nat) : Place :=
  if isHost a then .host
  else if a < 2 ^ 39 then .stack (stackOf mode a).1 (stackOf mode a).2
  else if 0x80_0000_0000 ≤ a ∧ a < 0x80_4000_0000 then
    (if (a - 0x80_0000_0000) % 0x1000_0000 < 0xC00_0000 then .wstore ((a - 0x80_0000_0000) / 0x1000_0000) else .outside)
  else if 0x80_4000_0000 ≤ a ∧ a < 0x80_4500_0000 then .hub
  else if 0x80_4500_0000 ≤ a ∧ a < 0x80_4800_0000 then .journal
  else .outside

/-- Pseudo-channel and row of a stack offset (R364). -/
def pchOf (o : Nat) : Nat := bitsOf o 8 6 ^^^ bitsOf o 14 6
def rowOf (o : Nat) : Nat := o / 2 ^ 16

/-- Offset o is inside a Hamper region of OFFSET, SIZE (R380). -/
def inRegion (offset size o : Nat) : Bool := decide (offset * 2 ^ 27 ≤ o) && decide (o < (offset + size) * 2 ^ 27)

/-- Offset `o` of a stack lies in the Hamper region, or in a pending one (R381). -/
def State.inHamper (s : State) (o : Nat) : Bool :=
  inRegion s.ham.offset s.ham.size o || s.ham.pending.any fun p => inRegion p.1 p.2 o

/-- An address that no command may name (R362), with R381 for a pending region. -/
def State.forbidden (s : State) (a : Nat) : Bool :=
  match placeOf s.ms.interleave a with
  | .host => false
  | .wstore _ => false
  | .hub => false
  | .journal => true
  | .outside => true
  | .stack _ o => s.inHamper o

/-- The 4 KiB blocks that `n` bytes from `a` touch, by their first addresses: interleaving and the Hamper region keep
4 KiB blocks whole, so it is enough to look at one address of each. -/
def blocksOf (a n : Nat) : List Nat :=
  if n = 0 then [] else (List.range ((a + n - 1) / 4096 + 1 - a / 4096)).map fun i => (a / 4096 + i) * 4096

/-- `n` bytes from `a` name something that R362 refuses, or cross bit 63. -/
def State.rangeBad (s : State) (a n : Nat) : Bool :=
  if n = 0 then false
  else if isHost a then decide (2 ^ 64 < a + n)
  else decide (2 ^ 63 < a + n) || (blocksOf a n).any s.forbidden

/-- Zone of an address (R375). -/
def State.zoneGo (s : State) (gib : Nat) : Nat → Nat
  | 0 => 0
  | k + 1 =>
    let n := 7 - k
    let r := rZone n
    if s.fld r 31 1 = 1 ∧ s.fld r 0 9 ≤ gib ∧ gib ≤ s.fld r 9 9 then s.fld r 24 7 else s.zoneGo gib k

def State.zoneOf (s : State) (a : Nat) : Nat := if a < 2 ^ 39 then s.zoneGo (a / 2 ^ 30) 8 else 0

/-! ### Bytes -/

/-- The stored byte at `a`. -/
def State.byte (s : State) (a : Nat) : Byte := Tab.get memDefault s.ms.mem a

/-- The pattern of symbol errors standing in codeword `cw`. -/
def State.upset (s : State) (cw : Nat) : Nat := Tab.get (fun _ => 0) s.ms.upset cw

/-- POISON of codeword `cw`. -/
def State.poisoned (s : State) (cw : Nat) : Bool := Tab.get (fun _ => false) s.ms.poison cw

/-- ZONE of codeword `cw`. -/
def State.zoneTag (s : State) (cw : Nat) : Nat := Tab.get (fun _ => 0) s.ms.zone cw

/-- The byte that a read of `a` delivers, after correction (R368, R369). -/
def State.rdByte (s : State) (a : Nat) : Byte :=
  if isHost a then s.byte a
  else
    let p := s.upset (a / 32)
    if p = 0 then s.byte a else s.byte a ^^^ BitVec.ofNat 8 (bitsOf (residual p) (8 * (a % 32)) 8)

/-- `n` bytes from `a`, as a read delivers them. -/
def State.rd (s : State) (a : Nat) : Nat → List Byte
  | 0 => []
  | n + 1 => s.rdByte a :: s.rd (a + 1) n

/-- Little-endian number of `n` bytes at `a` (R2). -/
def State.rdNat (s : State) (a n : Nat) : Nat := leNat (s.rd a n)

/-- A zone mismatch of codeword `cw` (R375). -/
def State.zoneClash (s : State) (cw : Nat) : Bool :=
  let z := s.zoneTag cw
  let w := s.zoneOf (cw * 32)
  z != 0 && w != 0 && z != w

/-- A read of codeword `cw` finds it uncorrectable, poisoned or of another zone (R368, R374, R375). -/
def State.cwBad (s : State) (cw : Nat) : Bool :=
  s.poisoned cw || decodePattern (s.upset cw) == .bad || s.zoneClash cw

/-- The codewords of `n` bytes from `a`. -/
def cwsOf (a n : Nat) : List Nat :=
  if n = 0 then [] else (List.range ((a + n - 1) / 32 + 1 - a / 32)).map fun i => a / 32 + i

/-- The PCIe cause with which an access of host bytes `[a, a + n)` fails, and its first failing address. -/
def hostFail (bad : List (Nat × Nat × Nat)) (a n : Nat) : Option (Nat × Nat) :=
  match bad with
  | [] => none
  | (lo, hi, c) :: t =>
    if lo < a + n ∧ a < hi ∧ 0 < n then some (max lo a, c) else hostFail t a n

/-- Why a read or a write of `n` bytes at `a` fails: the first failing address, and whether by an uncorrectable
codeword (else by the host). -/
def State.rdFail (s : State) (a n : Nat) : Option (Nat × Bool) :=
  if isHost a then (hostFail s.ms.hostBad a n).map fun p => (p.1, false)
  else
    match (cwsOf a n).find? s.cwBad with
    | some cw => some (max a (cw * 32), true)
    | none => none

/-- The first failing access among several ranges. -/
def State.rdFails (s : State) : List (Nat × Nat) → Option (Nat × Bool)
  | [] => none
  | (a, n) :: t =>
    match s.rdFail a n with
    | some f => some f
    | none => s.rdFails t

/-! ### Writes -/

/-- Store one byte. -/
def State.putByte (s : State) (a : Nat) (v : Byte) : State :=
  { s with ms := { s.ms with mem := Tab.set memDefault s.ms.mem a v } }

/-- Store bytes from `a` on. -/
def State.putBytes (s : State) (a : Nat) : List Byte → State
  | [] => s
  | v :: vs => (s.putByte a v).putBytes (a + 1) vs

/-- Give codeword `cw` its metadata, with valid check bytes. -/
def State.setMeta (s : State) (cw : Nat) (poison : Bool) (zone : Nat) : State :=
  { s with ms := { s.ms with
      poison := Tab.set (fun _ => false) s.ms.poison cw poison
      zone := Tab.set (fun _ => 0) s.ms.zone cw zone
      upset := Tab.set (fun _ => 0) s.ms.upset cw 0 } }

/-- The data bytes of a codeword take what a read of them delivers (the merge of R371 writes the codeword back). -/
def State.settle (s : State) (cw : Nat) : State :=
  if s.upset cw = 0 then s else s.putBytes (cw * 32) (s.rd (cw * 32) 32)

/-- Write codeword `cw` of the destination of a failed copy with its poison bit set (R353, R373), and with its zone (R375). -/
def State.poisonCw (s : State) (cw : Nat) : State := (s.settle cw).setMeta cw true (s.zoneOf (cw * 32))

/-- An access to these ranges waits: in D3hot one to host memory (R440), and one to a row that is being copied to a spare row
(R378). -/
def State.heldBack (s : State) (l : List (Nat × Nat)) : Bool :=
  (s.ld.d3hot && l.any fun p => isHost p.1) || !s.ms.remapping.isEmpty && l.any fun p => !isHost p.1 && (cwsOf p.1 p.2).any fun cw =>
    match placeOf s.ms.interleave (cw * 32) with
    | .stack st o => s.ms.remapping.any fun r => r.stack == st && r.pch == pchOf o && r.row == rowOf o
    | _ => false

/-- A connection's number: 0 to 3 a compute die's to the hub, 4 + d that of compute die d to (d + 1) mod 4 (Table 1.2). -/
def d2dKey : D2D → Nat
  | .hub d => d.val
  | .ring d => 4 + d.val

/-- The connections between two dies, 4 being the hub die (R12): neighbours on the ring use their own, unless it is out of
service (R13), and other compute dies the hub's. -/
def dieRoute (out : Nat → Bool) (a b : Nat) : List Nat :=
  if a = b then []
  else if a = 4 then [b]
  else if b = 4 then [a]
  else if (a + 1) % 4 = b ∧ ¬ out (4 + a) then [4 + a]
  else if (b + 1) % 4 = a ∧ ¬ out (4 + b) then [4 + b]
  else [a, b]

/-- The die on which a place lies: the hub die also for host memory (R12). -/
def Place.die : Place → Nat
  | .stack k _ => k / 2
  | .wstore d => d
  | _ => 4

/-- What the outside world has done to memory. -/
def State.applyEnv (s : State) (e : Env) : State :=
  let s1 := e.stores.foldl (fun s p => if isHost p.1 then s.putBytes p.1 p.2 else s) s
  { s1 with ms := { s1.ms with
      hostBad := e.hostBad
      lanes := s1.ms.lanes ++ e.lanes
      upset := e.upsets.foldl (fun t p => Tab.upd (fun _ => 0) t p.1 (· ^^^ (p.2 % 2 ^ 288))) s1.ms.upset } }

end Sys2Proof.Machine
end

