-- ==== Sys2Proof/Machine/Net.lean ====
section
/-!
DEFINITION. Farpinen ports as the Exchange Engine uses them: topology and routes (R244, R276), virtual channels and
credits (R275, R460), and the start of a port's training (R245, R273).
-/
namespace Sys2Proof.Machine

open Sys2Proof

def State.port (s : State) (p : Nat) : Port := Tab.get (fun _ => Port.initial) s.fab.ports p
def State.setPort (s : State) (p : Nat) (x : Port) : State :=
  { s with fab := { s.fab with ports := Tab.set (fun _ => Port.initial) s.fab.ports p x } }

/-! ### Topology (R244) -/

/-- Sizes of the dimensions X, Y and Z. -/
def State.dims (s : State) : List Nat := [s.sfld 0x2000018 0 10 + 1, s.sfld 0x2000018 10 10 + 1, s.sfld 0x2000018 20 10 + 1]

/-- Coordinates of a rank. -/
def coordsOf (d : List Nat) (i : Nat) : List Nat :=
  let x := d.getD 0 1
  let y := d.getD 1 1
  [i % x, i / x % y, i / (x * y)]

/-- Rank of coordinates. -/
def rankOf (d c : List Nat) : Nat := c.getD 0 0 + d.getD 0 1 * (c.getD 1 0 + d.getD 1 1 * c.getD 2 0)

/-- The neighbour of this rank in a direction 1 to 6 (+X, -X, +Y, -Y, +Z, -Z). -/
def State.neighbour (s : State) (dir : Nat) : Nat :=
  let d := s.dims
  let k := (dir - 1) / 2
  let n := d.getD k 1
  let c := coordsOf d s.rank
  let v := c.getD k 0
  rankOf d (c.set k (if dir % 2 = 1 then (v + 1) % n else (v + n - 1) % n))

/-- The topology lets ports train (XE_GROUP.RANK, XE_TOPO). -/
def State.topoGood (s : State) : Bool :=
  decide (s.rank < s.groupSize) && s.sfld 0x2000018 30 2 != 3 && (s.dims.foldl (· * ·) 1) == s.groupSize

/-! ### Routes (R276) -/

/-- The settings that a port takes at its training (R245). -/
def State.portSettings (s : State) : List Nat := (xeSettings.take 6).map s.setting

/-- Direction of a port: 0 unused; values 7 to 15 act as 0. -/
def dirOf (settings : List Nat) (p : Nat) : Nat :=
  let v := bitsOf (settings.getD 2 0) (4 * p) 4
  if 6 < v then 0 else v

/-- Ports of a direction that are up, in ascending order. -/
def State.upPorts (s : State) (dir : Nat) : List Nat :=
  (List.range 12).filter fun p => (s.port p).state == .up && dirOf (s.port p).settings p == dir

/-- The dimension to correct first, the shorter direction in it, and the place reached. -/
def State.hop (s : State) (dest : Nat) : Option (Nat × Bool × Nat × Nat) :=
  let d := s.dims
  let c := coordsOf d s.rank
  let t := coordsOf d dest
  match (List.range 3).find? fun k => c.getD k 0 != t.getD k 0 with
  | none => none
  | some k =>
    let n := d.getD k 1
    let up := (t.getD k 0 + n - c.getD k 0) % n
    some (k, decide (2 * up ≤ n), c.getD k 0, n)

/-- The port for a message to a rank, and whether the hop crosses between coordinates D - 1 and 0: of the shorter
direction's ports, else of the opposite one's, the one given by the rank modulo their number. -/
def State.route (s : State) (dest : Nat) : Option (Nat × Bool) :=
  match s.hop dest with
  | none => none
  | some (k, pos, v, n) =>
    let a := s.upPorts (2 * k + if pos then 1 else 2)
    let b := s.upPorts (2 * k + if pos then 2 else 1)
    let way := if a.isEmpty then !pos else pos
    let l := if a.isEmpty then b else a
    match l[dest % l.length]? with
    | none => none
    | some p => some (p, if way then v + 1 == n else v == 0)

/-! ### Virtual channels and credits (R275, R460) -/

/-- Virtual channel of a message kind (Table 9.9): 0 request, 1 response, 2 data in class 0, 3 control, 4 data in class 1. -/
def channelOf (kind : Nat) : Nat :=
  match kind with
  | 0x41 => 0
  | 4 => 1
  | 9 => 1
  | 1 => 2
  | 8 => 2
  | 10 => 2
  | 0x40 => 2
  | _ => 3

/-- The next input that a weighted arbiter serves (R467), among the active inputs with their counts, in ascending order: the
next one in the round with grants left. When none has any, a round begins with the counts as they are now. -/
def Round.next (t : Round) (active : List (Nat × Nat)) : Option (Nat × Round) :=
  let grants (l : List (Nat × Nat)) (i : Nat) : Nat := ((l.find? fun p => p.1 == i).map Prod.snd).getD 0
  let serve (l : List (Nat × Nat)) (i : Nat) : Nat × Round :=
    (i, ⟨l.map fun p => if p.1 = i then (i, p.2 - 1) else p, i⟩)
  let open_ := (active.map Prod.fst).filter fun i => decide (0 < grants t.left i)
  match (open_.find? fun i => decide (t.last < i)).or open_.head? with
  | some i => some (serve t.left i)
  | none => (active.find? fun p => decide (0 < p.2)).map fun p => serve active p.1

/-- The input of a flit at its port's arbiter: its virtual channel. -/
def FlitTx.input (f : FlitTx) : Nat := if f.vc = 4 then 2 else f.vc

/-- The flit that a port sends next, by its place in the queue: an aged one in order of age, then control, then those of the
other channels by weighted arbitration among the sources behind each (R275, R463, R467). -/
def Port.pick (x : Port) : Option (Nat × Round) :=
  let ids := (List.range x.queue.length).filter fun i =>
    (x.queue[i]?).any fun f => decide (0 < x.credits.getD f.vc 0)
  let by_ (g : FlitTx → Bool) : Option Nat := ids.find? fun i => (x.queue[i]?).any g
  let sources (k : Nat) : List Nat := ((x.queue.filter fun f => f.input == k).map fun f => f.source).eraseDups
  let active := ((List.range 3).filter fun k => (by_ fun f => f.input == k).isSome).map fun k => (k, (sources k).length)
  match (by_ fun f => f.aged).or (by_ fun f => f.vc == 3) with
  | some i => some (i, x.turn)
  | none => (x.turn.next active).bind fun p => (by_ fun f => f.input == p.1).map fun i => (i, p.2)

/-! ### Flits as they travel (R271) -/

/-- One step of a CRC-32 with polynomial 0x04C11DB7 on the bits of a byte. -/
def crcByte (reflected : Bool) (r : Nat) (b : Byte) : Nat :=
  (List.range 8).foldl (fun r i =>
    let bit := bitsOf b.toNat (if reflected then i else 7 - i) 1
    let top := (r / 2 ^ 31 + bit) % 2
    (r * 2 % 2 ^ 32) ^^^ (if top = 1 then 0x04C11DB7 else 0)) r

/-- The CRC-32 of a flit: polynomial 0x04C11DB7, with the start, final value and bit order that the manual leaves open. -/
def crc32 (l : List Byte) : Nat :=
  let r := l.foldl (crcByte Config.crcReflected) Config.crcInit.toNat
  let r1 := if Config.crcReflected then (List.range 32).foldl (fun a i => a + bitsOf r i 1 * 2 ^ (31 - i)) 0 else r
  r1 ^^^ Config.crcFinal.toNat

/-- What the CRC covers: data and metadata bytes of the 17 codewords, the CRC field as zero (R271). -/
def crcInput (l : List Byte) : List Byte :=
  (List.range 17).flatMap fun k =>
    let c := (l.drop (36 * k)).take 33
    if k = 0 then c.take 28 ++ [0, 0, 0, 0] ++ c.drop 32 else c

/-- A codeword of 32 data bytes and a metadata byte (R367); what is missing is zero. -/
def codeword (l : List Byte) : List Byte :=
  let d := (l ++ List.replicate 33 0).take 33
  d ++ checkBytes d

/-- The header codeword's data bytes (Table 9.6); the dateline class is bit 2 of VC. -/
def flitHeader (seq ack vc flags : Nat) (credits : List Nat) (crc : Nat) : List Byte :=
  natLe 2 seq ++ natLe 2 ack ++ natLe 1 (if vc = 4 then 6 else vc) ++ natLe 1 flags ++
    ((List.range 4).flatMap fun i => natLe 2 (credits.getD i 0)) ++ List.replicate 14 0 ++ natLe 4 crc

/-- The 612 bytes of a flit: the header and 16 data units with their metadata bytes, in 17 codewords. -/
def flitBytes (seq ack vc flags : Nat) (credits : List Nat) (data : List Byte) : List Byte :=
  let body := (List.range 16).flatMap fun k => codeword ((data.drop (33 * k)).take 33)
  let crc := crc32 (crcInput (codeword (flitHeader seq ack vc flags credits 0) ++ body))
  codeword (flitHeader seq ack vc flags credits crc) ++ body

/-- Sequence number of the last flit received in good order. -/
def Port.ack (x : Port) : Nat := (x.nextRx + 65535) % 65536

/-- A flit leaves a port: with payload (kind 0), a NAK (1), or a NULL flit (2). NAK and NULL flits are not numbered (log
entry 57). -/
def State.sendFlit (s : State) (p : Nat) (kind : Nat) (f : FlitTx) : State :=
  let flags := if kind = 0 then 0 else if kind = 1 then 3 else 1
  { s with out := s.out ++ [.flit p kind f.seq ((flitBytes f.seq (s.port p).ack f.vc flags f.credits f.data).map BitVec.toNat)] }

/-- A flit without payload. -/
def bareFlit (credits : List Nat) : FlitTx :=
  { seq := 0, vc := 0, data := [], source := 0, credits := credits, resends := 0, queuedAt := 0, aged := false }

/-- Send what credits and the retry buffer of 256 flits allow; nothing while the hub core does not run (R438). -/
def State.pumpGo (s : State) (p : Nat) : Nat → State
  | 0 => s
  | n + 1 =>
    let x := s.port p
    if s.ld.pwr = .a2 ∨ x.state ≠ .up ∨ 256 ≤ x.retry.length then s
    else
      match x.pick with
      | none => s
      | some (i, t) =>
        match x.queue[i]? with
        | none => s
        | some f =>
          let g := { f with seq := x.nextTx, credits := x.owed }
          let s1 := s.setPort p { x with
            queue := x.queue.eraseIdx i, retry := x.retry ++ [g], nextTx := (x.nextTx + 1) % 65536, turn := t
            owed := [0, 0, 0, 0], credits := x.credits.set f.vc (x.credits.getD f.vc 0 - 1) }
          State.pumpGo (s1.sendFlit p 0 g) p n

/-- Send the flits that may go; credits that none of them returns travel in a NULL flit (R460). -/
def State.pump (s : State) (p : Nat) : State :=
  let s1 := s.pumpGo p (s.port p).queue.length
  let x := s1.port p
  if s.ld.pwr ≠ .a2 ∧ x.state = .up ∧ x.owed.any (fun n => n != 0) then (s1.setPort p { x with owed := [0, 0, 0, 0] }).sendFlit p 2 (bareFlit x.owed)
  else s1

/-- Payloads of flits: 16 data units of 32 bytes, each with its metadata byte. -/
def chunks : Nat → List Byte → List (List Byte)
  | 0, _ => []
  | _, [] => []
  | n + 1, l => l.take 528 :: chunks n (l.drop 528)

/-- Data units with a metadata byte of zero each. -/
def plainUnits (l : List Byte) : List Byte :=
  (List.range ((l.length + 31) / 32)).flatMap fun k => (l.drop (32 * k)).take 32 ++ [0]

/-- Queue the data units of a message of channel `vc`, each with its metadata byte (R370), on port `p` for a source, and send. -/
def State.queueMsg (s : State) (p source vc : Nat) (units : List Byte) : State :=
  let x := s.port p
  let fs := (chunks (units.length + 1) units).map fun l =>
    ({ seq := 0, vc := vc, data := l, source := source, credits := [], resends := 0, queuedAt := s.ld.time, aged := false } : FlitTx)
  (s.setPort p { x with queue := x.queue ++ fs }).pump p

/-! ### Messages (R271; the layout of a message's header unit is the model's: log entry 126) -/

/-- Widths in bytes of a kind's leading fields, which travel in the header unit; the other words are its payload. -/
def headWidths (kind : Nat) : List Nat :=
  match kind with
  | 1 => [4, 4, 2, 2, 1, 1]
  | 4 => [4, 4, 2]
  | 5 => [4, 2, 1, 1]
  | 6 => [4, 2]
  | 7 => [4, 4, 2]
  | 8 => [4, 4, 2]
  | 9 => [4, 4, 2]
  | 10 => [2, 8, 4, 4]
  | 0x40 => [4, 4, 4, 2, 2, 4, 2]
  | 0x41 => [4, 4, 4, 1, 4]
  | 0x42 => [4, 4, 4, 2, 2, 4]
  | 0x43 => [4, 4, 4, 2, 2, 4]
  | _ => [4, 4, 2, 2]

/-- Width in bytes of a kind's payload words: bytes of encoded contributions and lists, FP32 entries, numbers. -/
def wordWidth (kind : Nat) : Nat :=
  match kind with
  | 1 => 1
  | 10 => 1
  | 7 => 4
  | 8 => 4
  | 6 => 2
  | _ => 8

/-- Data units of a message: each piece of at most 128 units of payload behind a header unit. -/
def messageUnits (dest src kind : Nat) (words : List Nat) : List Byte :=
  let w := headWidths kind
  let head := (words.zip w).flatMap fun p => natLe p.2 p.1
  let body := (words.drop w.length).flatMap (natLe (wordWidth kind))
  let pieces := (body.length + 4095) / 4096
  (List.range (max 1 pieces)).flatMap fun i =>
    let l := (body.drop (4096 * i)).take 4096
    let units := (l.length + 31) / 32
    let h := natLe 1 kind ++ natLe 1 units ++ natLe 2 dest ++ natLe 2 src ++ natLe 2 i ++ head
    (h ++ List.replicate 32 0).take 32 ++ (l ++ List.replicate 32 0).take (32 * units)

/-- Exchange data moves to dateline class 1 when it crosses a dateline (R276). -/
def classAfter (vc : Nat) (crosses : Bool) : Nat := if vc = 2 && crosses then 4 else vc

/-- A message leaves for a rank; without a route it is discarded (R276). -/
def State.sendMsg (s : State) (dest kind : Nat) (words : List Nat) : State :=
  match s.route dest with
  | none => s
  | some (p, crosses) =>
    State.queueMsg { s with out := s.out ++ [.farpinen dest kind words] } p 0 (classAfter (channelOf kind) crosses)
      (plainUnits (messageUnits dest s.rank kind words))

/-! ### Start of training (R245, R273) -/

/-- Groups of lanes from the widest down (R274). -/
def laneGroups : List Nat := [0xFF, 0x0F, 0xF0, 0x03, 0x0C, 0x30, 0xC0]

/-- The widest group within the good lanes, the lowest-numbered first. -/
def laneGroup (good : Nat) : Option Nat := laneGroups.find? fun g => g &&& good == g

/-- A port starts to train: the settings in the registers take effect (R245), and its ready bit is cleared. A port that is not
enabled, has no direction, or stands in a topology that forbids training, does not train. -/
def State.trainPort (s : State) (p : Nat) : State :=
  let s0 : State := { s with ld := { s.ld with ready := Tab.set (fun _ => false) s.ld.ready (18 + p) false } }
  let x := s.port p
  if s.fld (rPortCtrl p) 31 1 = 0 then s0.setPort p { x with state := .disabled, lanes := 0 }
  else
    let s1 : State := { s0 with xe := { s0.xe with taken := some (xeSettings.map s.reg) } }
    let st := s1.portSettings
    if dirOf st p = 0 ∨ ¬ s1.topoGood then s1.setPort p { x with state := .disabled, lanes := 0, settings := st }
    else
      let s2 := s1.setPort p { x with
        state := .training, step := 1, startedAt := s.ld.time, trained := x.trained + 1, lanes := 0, settings := st
        laneErrors := List.replicate 8 0, owed := [0, 0, 0, 0], inbox := [], held := 0 }
      let s3 := { s2 with out := s2.out ++ [.flit p 3 0 []] }
      if 0 < x.trained then s3.bump (0x2001020 + 0x40 * p) else s3

end Sys2Proof.Machine
end

