-- ==== Sys2Proof/Machine/Ops.lean ====
section
/-!
DEFINITION. The shared operations: time, open values, interrupts (R451 to R456), Logbook records and triggers (R393 to
R395), CPER records (R308, R309), and what happens to a command: its status (R340), delivery (R283, R325), failure
(R500) and the marks of a step (R294).
-/
namespace Sys2Proof.Machine

open Sys2Proof

/-- What `exec` answers. -/
abbrev Out := Host.Outcome State Fault Refusal

/-- Device time in ns (R433). -/
def State.now (s : State) : Nat := s.ld.time

/-- An MCTP response, and the notice of a source, raise an in-band interrupt (R487). -/
def OutMsg.toBmc (m : OutMsg) : Bool :=
  match m with
  | .mctpNotice _ => true
  | .regRead .bmc _ _ => true
  | .critical .bmc _ _ => true
  | .spdm .mctp _ => true
  | _ => false

/-- A message leaves the module; one for another rank takes its route over the Farpinen ports (R276). -/
def State.emit (s : State) (m : OutMsg) : State :=
  match m with
  | .farpinen dest kind words => s.sendMsg dest kind words
  | m => { s with out := s.out ++ if m.toBmc then [.inBand, m] else [m] }

/-- `n` bytes of the next open value. -/
def State.freeBytes (s : State) (n : Nat) : List Byte := (List.range n).map (Config.freeByte s.free)

/-- The next open value has been used. -/
def State.freeStep (s : State) : State := { s with free := s.free + 1 }

/-- The next open value as a number of `n` bytes. -/
def State.freeNat (s : State) (n : Nat) : Nat := leNat (s.freeBytes n)

/-! ### Interrupts -/

/-- Lowest valid fast slot that names source `n` (R455), among slots `32 - k` on. -/
def State.fastSlotGo (s : State) (n : Nat) : Nat → Option Nat
  | 0 => none
  | k + 1 =>
    let i := 31 - k
    if s.fld (rFastSlot i) 31 1 = 1 ∧ s.fld (rFastSlot i) 0 9 = n then some i else s.fastSlotGo n k

/-- The fast slot of a source. -/
def State.fastSlot (s : State) (n : Nat) : Option Nat := s.fastSlotGo n 32

/-- The source that bit k of the fast bank acts on: none while the slot is not valid or inert (R455). -/
def State.fastSource (s : State) (k : Nat) : Option Nat :=
  if s.fld (rFastSlot k) 31 1 = 1 ∧ s.fastSlot (s.fld (rFastSlot k) 0 9) = some k then some (s.fld (rFastSlot k) 0 9)
  else none

/-- Arrival count of a source (R452). -/
def State.irqCount (s : State) (n : Nat) : Nat := Tab.get (fun _ => 0) s.irq.count n

/-- Sources are masked after reset (IC_MASK_SET_k). -/
def State.irqOpen (s : State) (n : Nat) : Bool := Tab.get (fun _ => false) s.irq.unmasked n

/-- MSI-X lets vector `v` go: enable set, function and vector masks clear, D0, and the controller awake (R440, R453). -/
def State.msixGo (s : State) (v : Nat) : Bool :=
  s.pcie.msixEnable && !s.pcie.functionMask && Tab.get (fun _ => false) s.pcie.vecOpen v && !s.ld.d3hot &&
    s.ld.pwr != .a2 && s.ld.pwr != .a3

/-- The host link carries an access: a link in L0p, L1 or L1.2 returns to L0 (R440). -/
def State.linkUse (s : State) : State :=
  { s with ld := { s.ld with
      lastLink := s.now
      link := match s.ld.link with
        | .down => .down
        | .l23 => .l23
        | _ => .l0 } }

/-- Send the message of vector `v`, or mark it in the pending bit array (R453). -/
def State.sendVector (s : State) (v : Nat) : State :=
  if s.msixGo v then (s.emit (.msix v)).linkUse
  else { s with pcie := { s.pcie with pba := Tab.set (fun _ => false) s.pcie.pba v true } }

/-- The message of source `n`: to the on-die manager with MGR set, else its MSI-X vector (R453). -/
def State.sendSource (s : State) (n : Nat) : State :=
  if s.fld (rSrc n) 28 1 = 1 then s.emit (.mctpNotice n) else s.sendVector (s.fld (rSrc n) 16 9)

/-- A wake event ends A2 (R438), and in its cycle A2 is not entered (R436): an entry of the same cycle is undone. -/
def State.wakeA2 (s : State) (cause : Nat) : State :=
  let s1 : State := { s with ld := { s.ld with lastWake := some s.now } }
  if s.ld.pwr ≠ .a2 ∨ s.ld.waking then s1
  else
    match s.ld.entered.filter fun e => e.1 == s.now with
    | some e => { s1 with ld := { s1.ld with pwr := e.2.1, domains := e.2.2, entered := none, selfRefresh := false } }
    | none => { s1 with ld := { s1.ld with waking := true, wake := cause } }

/-- What is noted of this cycle: earlier ones are past. -/
def State.ofCycle (s : State) (l : List Nat) : List Nat := if s.irq.cycle = s.now then l else []

/-- Note an arrival of this cycle. -/
def State.noteArrival (s : State) (n : Nat) : State :=
  { s with irq := { s.irq with cycle := s.now, arrived := n :: s.ofCycle s.irq.arrived, masked := s.ofCycle s.irq.masked } }

/-- Note a source that a write masks in this cycle. -/
def State.noteMasked (s : State) (n : Nat) : State :=
  { s with irq := { s.irq with cycle := s.now, arrived := s.ofCycle s.irq.arrived, masked := n :: s.ofCycle s.irq.masked } }

/-- Arrivals at source `n` in this cycle (R454). -/
def State.arrivedNow (s : State) (n : Nat) : Nat := (s.ofCycle s.irq.arrived).count n

/-- A write has masked source `n` in this cycle (R454). -/
def State.maskedNow (s : State) (n : Nat) : Bool := (s.ofCycle s.irq.masked).contains n

/-- One arrival at source `n` (R452, R453); in A2 it is added to the saved count and wakes the module (R438, R456). Reserved
sources receive none (R451). -/
def State.arrive (s0 : State) (n : Nat) : State :=
  if 213 ≤ n then s0
  else
    let s := s0.noteArrival n
    let c := s.irqCount n
    let s1 : State :=
      if c = 255 then { s with irq := { s.irq with sat := Tab.set (fun _ => false) s.irq.sat n true } }
      else { s with irq := { s.irq with count := Tab.set (fun _ => 0) s.irq.count n (c + 1) } }
    let s2 := if s.irqOpen n then s1.wakeA2 3 else s1
    if c = 0 ∧ s.irqOpen n then s2.sendSource n else s2

/-- The message of vector `v` is of the fast class: a pending source of that class sends it (R455). -/
def State.fastVector (s : State) (v : Nat) : Bool :=
  (List.range 32).any fun k => (s.fastSource k).any fun n =>
    s.fld (rSrc n) 28 1 == 0 && s.fld (rSrc n) 16 9 == v && s.irqCount n != 0

/-- A vector held in the pending bit array goes when it may. -/
def State.flushVector (s : State) (v : Nat) : State :=
  if s.msixGo v then
    (({ s with pcie := { s.pcie with pba := Tab.set (fun _ => false) s.pcie.pba v false } }).emit (.msix v)).linkUse
  else s

/-- Vectors held in the pending bit array go when they may (R453), those of the fast class first (R455). -/
def State.flushPba (s : State) : State :=
  let l := s.pcie.pba.map Prod.fst
  (l.filter s.fastVector ++ l.filter fun v => !s.fastVector v).foldl State.flushVector s

/-! ### Logbook -/

/-- Records a Logbook holds: 262,144 on a compute die, 524,288 on the hub die. -/
def logSize (u : Nat) : Nat := if u = 4 then 524288 else 262144

def State.log (s : State) (u : Nat) : Logbook := Tab.get (fun _ => Logbook.initial) s.im.logs u

def State.setLog (s : State) (u : Nat) (l : Logbook) : State :=
  { s with im := { s.im with logs := Tab.set (fun _ => Logbook.initial) s.im.logs u l } }

/-- The buffer of a Logbook has no slot left for its mode (R394). -/
def Logbook.full (l : Logbook) (n : Nat) : Bool :=
  match l.state with
  | 1 => l.mode == 1 && decide (n ≤ l.records.length)
  | 2 => decide (n ≤ l.records.length)
  | _ => true

/-- A record enters a Logbook: wrap and untriggered centred modes overwrite the oldest (R394). -/
def Logbook.push (l : Logbook) (n : Nat) (r : List Byte) : Logbook :=
  if l.full n then l
  else { l with records := (r :: l.records).take n, wrptr := (l.wrptr + 1) % n }

/-- The 32 bytes of a record (Table 14.4). -/
def logBytes (time coord kind ring seq data : Nat) : List Byte :=
  natLe 8 time ++ natLe 4 coord ++ natLe 1 kind ++ [0] ++ natLe 2 ring ++ natLe 8 seq ++ natLe 8 data

/-- The COORD of a Logbook's own records: its die (Table 10.5). -/
def logCoord (u : Nat) : Nat := if u = 4 then 0xF0000000 else u * 2 ^ 28

/-- Class bit of a record kind (Table 14.5); none for the kinds always captured. -/
def logClass (kind : Nat) : Option Nat :=
  if kind < 0x10 then some 0 else if kind = 0x10 then some 1 else if kind = 0x11 then some 2
  else if kind = 0x20 then some 3 else if kind = 0x30 ∨ kind = 0x31 then some 4 else if kind = 0x40 then some 5
  else if kind = 0x60 then some 6 else if kind = 0x70 then some 7 else if kind = 0x80 then some 8 else none

/-- The gap record of the pending-loss count, which then starts again from zero (R396). -/
def Logbook.pushGap (l : Logbook) (u now : Nat) : Logbook :=
  { l.push (logSize u) (logBytes now (logCoord u) 0xFF 0xFFFF l.firstLost l.pendingLoss) with pendingLoss := 0, firstLost := 0 }

/-- The capture slots in which a record of device time `now` can enter: those of 2 ns in one 40 ns cycle of device time
(spec/14, one record every 2 ns; DESIGN CHOICE, assumption 89). -/
def captureSlots : Nat := 20

/-- Slot `k` is reached: the gap record has taken the first slot after one in which no record was lost (R396), at the time of
that slot. -/
def Logbook.settle (l : Logbook) (u k : Nat) : Logbook :=
  if 0 < l.pendingLoss ∧ (l.state = 1 ∨ l.state = 2) ∧ l.lossSlot + 2 ≤ k then
    { l.pushGap u (2 * (l.lossSlot + 2)) with nextSlot := max l.nextSlot (l.lossSlot + 3) }
  else l

/-- The first slot that a record of device time `now` could take. -/
def Logbook.slotAt (l : Logbook) (now : Nat) : Nat := max (now / 2) l.nextSlot

/-- A record is discarded and counted (R396). -/
def Logbook.lose (l : Logbook) (now : Nat) : Logbook :=
  { l with
    lost := l.lost + 1
    lossSlot := max (now / 2 + captureSlots) l.nextSlot - 1
    pendingLoss := l.pendingLoss + 1
    firstLost := if l.pendingLoss = 0 then now else l.firstLost }

/-- The slot a record would take is the last before capture stops (R394). -/
def Logbook.lastFree (l : Logbook) (n : Nat) : Bool :=
  (l.state == 2 || l.mode == 1) && l.records.length + 1 == n

/-- A record arrives at device time `now` (R396): it takes the next free slot, or is lost where none is left; the last slot
before capture stops goes to the gap record while a loss is pending. -/
def Logbook.record (l : Logbook) (u now : Nat) (r : List Byte) : Logbook :=
  let l1 := l.settle u (l.slotAt now)
  if l1.full (logSize u) then l1
  else if now / 2 + captureSlots ≤ l1.nextSlot then l1.lose now
  else if 0 < l1.pendingLoss ∧ l1.lastFree (logSize u) then (l1.lose now).pushGap u now
  else { l1.push (logSize u) r with nextSlot := l1.slotAt now + 1 }

/-- An event of the catalogue of Table 14.5 on Logbook `u`. -/
def State.logRec (s : State) (u coord kind : Nat) (ring seq : Option Nat) (data : Nat) : State :=
  let l := s.log u
  let on : Bool := match logClass kind with
    | none => true
    | some c => s.fld (rLogCfg u) c 1 == 1
  if (l.state = 1 ∨ l.state = 2) ∧ on then
    s.setLog u (l.record u s.now (logBytes s.now coord kind (ring.getD 0xFFFF) (seq.getD 0) data))
  else s

/-- A trigger reaches Logbook `u` (R394, R395): a marker, and in centred mode the freeze of the pre-trigger part, in which a
gap record takes the last slot while a loss is pending (R396). The marker takes the next free slot: a trigger reaches a
Logbook within 64 ns, so a cycle whose slots are taken loses no marker. -/
def State.triggerLog (s : State) (u cause : Nat) : State :=
  let l00 := (s.log u).settle u ((s.log u).slotAt s.now)
  let l0 := { l00 with trigs := (l00.trigs.filter fun p => p.1 == s.now) ++ [(s.now, cause)] }
  let freezes : Bool := l0.state == 1 && l0.mode == 2 && !l0.triggered
  let l := if freezes ∧ 0 < l0.pendingLoss then l0.pushGap u s.now else l0
  if l.state = 1 ∨ l.state = 2 then
    let n := logSize u
    let l1 : Logbook :=
      if l.state = 1 ∧ l.mode = 2 ∧ ¬ l.triggered then
        let keep := min 100 (s.fld (rLogCfg u) 16 7) * n / 100
        { l with state := 2, records := l.records.take keep, kept := (l.records.take keep).length }
      else l
    let gap : Bool := decide (0 < l1.pendingLoss) && l1.lastFree n
    let first := if l1.full n || gap then l1.firstMarker else l1.firstMarker.or (some l1.wrptr)
    let l2 :=
      if gap then (l1.lose s.now).pushGap u s.now
      else l1.push n (logBytes s.now (logCoord u) 0xF0 0xFFFF 0 cause)
    s.setLog u { l2 with triggered := true, firstMarker := first, nextSlot := l2.slotAt s.now + 1 }
  else s.setLog u l0

/-- A trigger with a cause of Table 14.6 acts on all five Logbooks; TRIGEN gates the manual causes. -/
def State.trigger (s : State) (cause : Nat) : State :=
  let gated (u : Nat) : Bool := (cause == 2 || cause == 3 || cause == 5) && s.fld (rLogCfg u) 28 1 == 0
  let l := (List.range 5).filter fun u => !gated u
  let s1 := l.foldl (fun s u => s.triggerLog u cause) s
  if l.isEmpty then s1 else s1.arrive 194

/-! ### CPER records -/

/-- What a record body states (Table 10.5). -/
structure CperBody where
  unit : Nat
  coord : Nat
  mechanism : Nat
  action : Nat
  rail : Nat := 0
  clock : Nat := 0
  short : Nat := 0
  long : Nat := 0
  syndrome : Nat := 0
  step : Nat := 0
  spare : Nat := 0
  /-- Severity, when the action does not give it. -/
  sev : Option Nat := none
  /-- The command concerned, for the Logbook's record (R393). -/
  seq : Option Nat := none
  deriving DecidableEq, Repr

/-- Severity of an action (R309). -/
def severityOf (action : Nat) : Nat :=
  if action = 0 ∨ action = 3 then 2 else if action = 4 ∨ action = 5 then 0 else 3

/-- Section type 7c1e0b52-93a4-4d6f-b8e0-2f15c9a7d304 as UEFI stores a GUID. -/
def cperType : List Byte :=
  natLe 4 0x7c1e0b52 ++ natLe 2 0x93a4 ++ natLe 2 0x4d6f ++ natBe 8 0xb8e02f15c9a7d304

/-- The 64 bytes of Table 10.5. -/
def CperBody.bytes (b : CperBody) (time : Nat) (fw : List Byte) : List Byte :=
  natLe 2 b.unit ++ natLe 2 0 ++ natLe 4 b.coord ++ natLe 1 b.mechanism ++ natLe 1 b.action ++ natLe 1 b.rail ++
    natLe 1 b.clock ++ natLe 2 b.short ++ natLe 2 b.long ++ natLe 8 b.syndrome ++ natLe 4 b.step ++ natLe 4 b.spare ++
    natLe 8 time ++ (fw ++ List.replicate 8 0).take 8 ++ List.replicate 16 0

/-- The record: UEFI header (128 bytes: signature "CPER", revision 1.1, section count 1, severity at 12, length at 20, time
stamp at 24), section descriptor (72 bytes: offset 200, length 64, type at 16, severity at 48), body. The layout is UEFI's
(PRESUMED, assumption 10); what UEFI leaves to the module is `Config.cperHeaderByte`. -/
def cperRecord (b : CperBody) (time : Nat) (fw : List Byte) : List Byte :=
  let sev := natLe 4 (b.sev.getD (severityOf b.action))
  let h (lo n : Nat) : List Byte := (List.range n).map fun i => Config.cperHeaderByte (lo + i)
  natLe 4 0x52455043 ++ natLe 2 0x0101 ++ natLe 4 0xFFFFFFFF ++ natLe 2 1 ++ sev ++ h 16 4 ++ natLe 4 264 ++ natLe 8 time ++
    h 32 84 ++ List.replicate 12 0 ++
    natLe 4 200 ++ natLe 4 64 ++ h 136 3 ++ [0] ++ h 140 4 ++ cperType ++ h 160 16 ++ sev ++ h 180 20 ++
    b.bytes time fw

/-- A record that concerns command `q`: its ring and issue sequence number, or those of the RECOMP that runs it again. -/
def State.logFor (s : State) (u coord kind : Nat) (q : Option Nat) (data : Nat) : State :=
  let find (q : Option Nat) : Option Cmd := q.bind fun n => s.hg.cmds.find? fun c => c.seq == some n
  let c := (find q).map fun c => (find c.parent).getD c
  s.logRec u coord kind (c.map Cmd.ring) (c.bind Cmd.seq) data

/-- A Hamper event (Table 8.11, by the index of its counter) on entry `n`. -/
def State.logHamper (s : State) (q : Option Nat) (i n : Nat) : State := s.logFor 4 0xF0000000 0x80 q (i + n % 2 ^ 56 * 2 ^ 8)

/-- Write a CPER record, or count it as lost when the queue is full (R308); it raises the integrity source and is an
integrity event of the Logbook (R395). -/
def State.cper (s : State) (b : CperBody) : State :=
  let w := s.im.cperWrite
  let s1 : State :=
    if (w + 1) % 256 = s.cperRead then s.bump 0x2800430
    else
      ({ s with im := { s.im with
          cper := Tab.set (fun _ => []) s.im.cper w (cperRecord b s.now s.tb.fwDigest)
          cperWrite := (w + 1) % 256 } }).arrive 192
  let u := if b.coord / 2 ^ 28 < 4 then b.coord / 2 ^ 28 else 4
  (s1.logFor u b.coord 0x50 b.seq (b.mechanism + 256 * b.action)).trigger 1

/-! ### Ownership -/

/-- The present owner (R417). -/
def State.owner (s : State) : Option Master :=
  match s.tb.own with
  | .owned m => some m
  | _ => none

/-- Register writes outside the LD window are discarded in boot states 0 and 4 (R402). -/
def State.writesLand (s : State) : Bool := s.tb.boot != 0 && s.tb.boot != 4

/-- Master `m` may reach registers: the debug port is a master only while it is unlocked, and reaches registers only when
its SCOPE grants it (Table 15.10, R427). -/
def State.regPath (s : State) (m : Master) : Bool := m != .debug || (s.tb.debugUnlocked && bitAt s.tb.debugScope 0)

/-- A register write of master `m` outside the LD window is acted on. -/
def State.regLands (s : State) (m : Master) : Bool := s.writesLand && s.regPath m

/-- An access of master `m` reaches the module: the host uses its link (R440); the BMC's MCTP message ends A2 (R438). -/
def State.reachedBy (s : State) (m : Master) : State :=
  match m with
  | .host => s.linkUse
  | .bmc => s.wakeA2 4
  | .debug => s

def State.owns (s : State) (m : Master) : Bool := s.owner == some m

/-- PERMIT in force (R410, Table 15.6). -/
def State.permit (s : State) : Nat :=
  match s.tb.cert with
  | none => 1
  | some c => leNat ((c.drop 28).take 4) % 32

/-- EXPIRY_MS in force. -/
def State.expiryMs (s : State) : Nat :=
  match s.tb.cert with
  | none => 5000
  | some c => leNat ((c.drop 32).take 4)

/-- Privileged reads return values (R384). -/
def State.privileged (s : State) (m : Master) : Bool := s.owns m && bitAt s.permit 1

/-- Class U events (Table 14.1), whose counts are privileged. -/
def classU (code : Nat) : Bool := [0x02, 0x36, 0x41, 0x42, 0x44, 0x70, 0x71, 0x80].contains code

/-! ### Commands -/

/-- Byte `i` of the descriptor. -/
def Cmd.u8 (c : Cmd) (i : Nat) : Nat := (c.slot.getD i 0).toNat
/-- `n` bytes at `i`, little-endian. -/
def Cmd.u (c : Cmd) (i n : Nat) : Nat := leNat ((c.slot.drop i).take n)

/-- Header fields (Table 11.2). -/
def Cmd.opcode (c : Cmd) : Nat := c.u8 0
def Cmd.irq (c : Cmd) : Bool := bitAt (c.u8 1) 0
def Cmd.ext (c : Cmd) : Bool := bitAt (c.u8 1) 1
def Cmd.order (c : Cmd) : Bool := bitAt (c.u8 1) 2
def Cmd.step (c : Cmd) : Nat := c.u 4 4
def Cmd.tag (c : Cmd) : Nat := c.u 8 4
def Cmd.fwd (c : Cmd) : Bool := bitAt (c.tag) 31
def Cmd.mb (c : Cmd) : Nat := bitsOf c.tag 12 16
def Cmd.block (c : Cmd) : Nat := bitsOf c.tag 0 12
/-- The event counter named by SIG, when it is valid. -/
def Cmd.sig (c : Cmd) : Option Nat := if bitAt (c.u 12 2) 15 then some (bitsOf (c.u 12 2) 0 12) else none
/-- A critical command (Table 11.9). -/
def Cmd.critical (c : Cmd) : Bool := decide (0x60 ≤ c.opcode) && decide (c.opcode ≤ 0x68)
/-- The step the command belongs to, if any (R216, R319). -/
def Cmd.stepOf (c : Cmd) : Option Nat :=
  if c.critical || c.step == 0xFFFFFFFF || c.opcode == 0x0A then none else some c.step

/-- The command with issue sequence number `q`. -/
def State.cmd (s : State) (q : Nat) : Option Cmd := s.hg.cmds.find? fun c => c.seq == some q

/-- Change one command. -/
def State.updCmd (s : State) (q : Nat) (f : Cmd → Cmd) : State :=
  { s with hg := { s.hg with cmds := s.hg.cmds.map fun c => if c.seq == some q then f c else c } }

/-- Precedence of a status (Table 11.12); AUTH_FAIL and NOT_OWNER stand alone. -/
def Status.rank : Status → Nat
  | .authFail => 0
  | .notOwner => 0
  | .uncorrectableMemory => 1
  | .hostBusError => 2
  | .badDescriptor => 3
  | .stashExhausted => 4
  | .waitTimeout => 5
  | .notReadyTimeout => 6
  | .compareMismatch => 7
  | .retracted => 8
  | .unitRetiredReplay => 9
  | .okReplayed => 10
  | .okFlagged => 11
  | .digitalFallback => 12
  | .ok => 13

/-- Code of a status (Table 11.12). -/
def Status.code : Status → Nat
  | .ok => 0x00
  | .okReplayed => 0x01
  | .okFlagged => 0x02
  | .notReadyTimeout => 0x10
  | .authFail => 0x11
  | .notOwner => 0x12
  | .badDescriptor => 0x13
  | .hostBusError => 0x20
  | .compareMismatch => 0x21
  | .stashExhausted => 0x30
  | .digitalFallback => 0x31
  | .retracted => 0x40
  | .unitRetiredReplay => 0x41
  | .waitTimeout => 0x50
  | .uncorrectableMemory => 0x60

/-- A command with this status fails (R500). -/
def Status.fails (t : Status) : Bool := decide (1 ≤ t.rank) && decide (t.rank ≤ 6)

/-- The error statuses of R341. -/
def Status.isError (t : Status) : Bool :=
  match t with
  | .authFail => true
  | .notOwner => false
  | t => decide (t.rank ≤ 7)

/-- The condition of highest precedence (R340). -/
def worst (l : List Status) : Status := l.foldl (fun a b => if b.rank < a.rank then b else a) .ok

/-- Status of a command: its own conditions, with those of a repair (R288). -/
def Cmd.status (c : Cmd) : Status :=
  worst ((if c.unitRetired then [Status.unitRetiredReplay] else []) ++
    (if c.repaired then [Status.okReplayed] else []) ++ c.conds)

/-- Stages (R283). -/
def Stage.isDone (t : Stage) : Bool :=
  match t with
  | .delivered => true
  | .clear => true
  | .refused => true
  | _ => false
def Stage.isClear (t : Stage) : Bool :=
  match t with
  | .clear => true
  | .refused => true
  | _ => false
def Stage.hasStarted (t : Stage) : Bool :=
  match t with
  | .stepHeld => false
  | .accepted => false
  | _ => true

/-- Commands of a ring, in fetch order. -/
def State.ringCmds (s : State) (n : Nat) : List Cmd := s.hg.cmds.filter fun c => c.ring == n && c.parent == none && decide ((Tab.get (fun _ => Ring.initial) s.hg.rings n).sinceId ≤ c.id)

/-- Commands ahead of `c` on its ring, in fetch order. -/
def State.ahead (s : State) (c : Cmd) : List Cmd := (s.ringCmds c.ring).filter fun d => decide (d.id < c.id)

def State.ring (s : State) (n : Nat) : Ring := Tab.get (fun _ => Ring.initial) s.hg.rings n
def State.setRing (s : State) (n : Nat) (r : Ring) : State :=
  { s with hg := { s.hg with rings := Tab.set (fun _ => Ring.initial) s.hg.rings n r } }

/-- Commands of a ring whose records are not yet written (IN_FLIGHT). -/
def State.inFlight (s : State) (n : Nat) : Nat := ((s.ringCmds n).filter fun c => !c.recorded).length

def State.event (s : State) (e : Nat) : W64 := Tab.get (fun _ => 0) s.hg.events e

/-- Add `v` to event counter `e`, for the command `q` (R325). -/
def State.signal (s : State) (e : Nat) (v : W64) (q : Nat) : State :=
  { s with hg := { s.hg with
      events := Tab.set (fun _ => 0) s.hg.events e (s.event e + v)
      signallers := Tab.upd (fun _ => []) s.hg.signallers e (q :: ·) } }

def State.stepInfo (s : State) (n : Nat) : StepInfo := Tab.get (fun _ => StepInfo.initial) s.hg.steps n
def State.setStep (s : State) (n : Nat) (i : StepInfo) : State :=
  { s with hg := { s.hg with steps := Tab.set (fun _ => StepInfo.initial) s.hg.steps n i } }

/-- Step n is resolved on this module (R294). -/
def State.resolved (s : State) (n : Nat) : Bool := (s.stepInfo n).mark != .open

/-- `n` events of a code in counters of those codes. -/
def addEvents (codes l : List Nat) (code n : Nat) : List Nat :=
  List.zipWith (fun k v => if k = code then (v + n) % 2 ^ 64 else v) codes l

/-- `n` events of a code in a ring's slots, caused by a command or, when `q` is none, by a unit. In the cycle of an end latch they
still count toward the finished command, and where the next start latch falls in that cycle too, they enter the one sample and
not the slots, which are zero from then on (R390). A unit-wide delta is kept (`priv`) from an unprivileged owner (R384). -/
def Ring.addEvent (r : Ring) (now : Nat) (q : Option Nat) (priv : Bool) (code n : Nat) : Ring :=
  let here (p : Nat × Nat × List Nat) : Bool := p.1 == now && q.all (· == p.2.1)
  let r1 := { r with
    latch := r.latch.map fun p => if here p && !priv && code != 0 then (p.1, p.2.1, addEvents r.codes p.2.2 code n) else p }
  if r.latch.any here && r.sample.any (fun p => p.1 == now) then
    { r1 with sample := r.sample.map fun p => (p.1, addEvents r.codes p.2 code n) }
  else { r1 with slots := addEvents r.codes r.slots code n }

/-- The command runs again under R287 or R298. -/
def State.replays (s : State) (c : Cmd) : Bool := c.repaired || s.hg.replay.any fun w => c.seq.any w.todo.contains

/-- A catalogue event caused by command `q` (R385, R386, R388): the global counter, and the slots of its ring when the
command is not replayed. -/
def State.evt (s : State) (q : Option Nat) (code n : Nat) : State :=
  let s1 := s.bump (evtTotal code) n
  match q.bind s.cmd with
  | none => s1
  | some c =>
    let d := (c.parent.bind s.cmd).getD c
    if s.replays c || s.replays d then s1
    else
      s1.setRing d.ring ((s1.ring d.ring).addEvent s.now (d.seq.or (some 0)) false code n)

/-- A unit-wide event (class U) counts in every ring's slots (R388). -/
def State.evtU (s : State) (code n : Nat) : State :=
  let s1 := s.bump (evtTotal code) n
  let priv := !s.privileged .host
  { s1 with hg := { s1.hg with rings := s1.hg.rings.map fun p => (p.1, p.2.addEvent s.now none priv code n) } }

/-- The end latch of a command with EXT, and its extension bytes' values (R389, R391); a unit-wide delta is privileged
(R384). -/
def State.endLatch (s : State) (c : Cmd) : List Nat :=
  let r := s.ring c.ring
  List.zipWith (fun k v => if k = 0 ∨ (classU k ∧ ¬ s.privileged .host) then 0 else v) r.codes r.slots

/-- A ring halts (R341): its error source receives an arrival. -/
def State.haltRing (s : State) (n code : Nat) : State :=
  let r := s.ring n
  if r.halted then s else (s.setRing n { r with halted := true, haltStatus := code }).arrive (64 + n)

/-- An error status halts its ring while STOP_ON_ERROR is 1 (R341). -/
def State.haltOn (s : State) (c : Cmd) (t : Status) : State :=
  if t.isError ∧ c.parent.isNone ∧ s.ringStop c.ring then s.haltRing c.ring t.code else s

/-- Command `q` is delivered (R283): its event is signalled once (R288, R325). Its checks may still be outstanding. -/
def State.deliver (s : State) (q : Nat) : State :=
  match s.cmd q with
  | none => s
  | some c =>
    let once := !c.signalled && c.parent.isNone
    let s1 := s.updCmd q fun c => { c with
      stage := .delivered, signalled := true
      deltas := if c.signalled then c.deltas else s.endLatch c }
    let s2 := if once then (match c.sig with | some e => s1.signal e 1 q | none => s1) else s1
    let s2 := if c.ext && !c.signalled then s2.setRing c.ring { s2.ring c.ring with latch := (s2.ring c.ring).latch ++ [(s.now, q, List.replicate 16 0)] } else s2
    let s3 := s2.haltOn c (worst c.conds)
    ({ s3 with im := { s3.im with lastDelivery := s.now, watchArmed := true } }).logRec 4 0xF0000000 0x02
      (some c.ring) (some q) 0

/-- Conditions and indications that arose (R340, Table 11.11). -/
def State.addCond (s : State) (q : Nat) (l : List Status) (ind : BitVec 16) : State :=
  s.updCmd q fun c => { c with conds := c.conds ++ l, ind := c.ind ||| ind }

/-- Write DETAIL (Table 11.13). -/
def State.setDetail (s : State) (q v : Nat) : State := s.updCmd q fun c => { c with detail := v % 2 ^ 63 }

/-- Mark a step that no rule has resolved (R294). -/
def State.markStep (s : State) (n : Nat) (m : StepMark) : State :=
  let i := s.stepInfo n
  if i.mark = .open then s.setStep n { i with mark := m } else s

/-- Ranks in the group now, after reforms (R264). -/
def State.present (s : State) : List Nat := (List.range s.groupSize).filter fun r => !s.xe.excluded.contains r

/-- Send a message of the given kind to every other rank present. -/
def State.emitAll (s : State) (kind : Nat) (words : List Nat) : State :=
  (s.present.filter fun r => r != s.rank).foldl (fun (s : State) r => s.emit (.farpinen r kind words)) s

/-- Message kinds of the Exchange Engine (the model's own numbers). -/
def kContribution : Nat := 1
def kAllClear : Nat := 2
def kRetract : Nat := 3
def kRetractAck : Nat := 4
def kSummary : Nat := 5
def kExcluded : Nat := 6
def kClose : Nat := 7
def kBuddy : Nat := 8
def kBuddyAck : Nat := 9
def kList : Nat := 10

/-- What the module knows of the summaries of step `n`. -/
def State.xeStep (s : State) (n : Nat) : XeStep :=
  (s.xe.steps.find? fun x => x.step == n).getD { step := n, got := [], firstAt := none, sent := false, sets := [], windowAt := none }
def State.setXeStep (s : State) (x : XeStep) : State :=
  { s with xe := { s.xe with steps := x :: s.xe.steps.filter fun y => y.step != x.step } }

/-- A summary of step `n` from `rank` has arrived (R261, R262). -/
def State.noteSummary (s : State) (n rank : Nat) (nf inc : Bool) : State :=
  let x := s.xeStep n
  s.setXeStep { x with
    got := (rank, nf, inc) :: x.got.filter (fun p => p.1 != rank)
    firstAt := x.firstAt.or (some s.now) }

/-- The module sends its summary of step `n` to every rank, itself included (R260). -/
def State.sendSummary (s : State) (n : Nat) (nf inc : Bool) : State :=
  let s1 := (s.emitAll kSummary [n, s.rank, if nf then 1 else 0, if inc then 1 else 0]).noteSummary n s.rank nf inc
  s1.setXeStep { s1.xeStep n with sent := true }

/-- Entries of step `n` are released when it is resolved (R227). -/
def State.releaseStep (s : State) (n : Nat) : State :=
  { s with ham := { s.ham with
      gone := (s.ham.entries.filter fun e => e.step == n).map (fun e => (e.step, e.mb, e.block)) ++ s.ham.gone
      entries := s.ham.entries.filter fun e => e.step != n } }

/-- XCHG, GATH and UPDT end when their step is marked incomplete (R262, R294): XCHG also after its delivery, until its
record may be written (R248). -/
def Cmd.endsWithStep (c : Cmd) (n : Nat) : Bool :=
  c.stepOf == some n &&
  (match c.stage with
   | .started => c.opcode == 0x30 || c.opcode == 0x31 || c.opcode == 0x38
   | .running => c.opcode == 0x30 || c.opcode == 0x31 || c.opcode == 0x38
   | .delivered => c.opcode == 0x30
   | .clear => c.opcode == 0x30 && c.hold
   | _ => false)

/-- DETAIL of a command that completes with WAIT_TIMEOUT because its step is incomplete: the retractions of an XCHG
(Table 11.13). -/
def Cmd.lateDetail (c : Cmd) : Nat := if c.opcode = 0x30 then c.retractions % 65536 else 0

/-- The command completes with WAIT_TIMEOUT because its step is incomplete. -/
def State.timeOut (s : State) (c : Cmd) : State :=
  match c.seq with
  | none => s
  | some q =>
    (s.updCmd q fun c => { c with
      stage := .failed, conds := .waitTimeout :: c.conds, detail := c.lateDetail, tainted := false, hold := false }).haltOn c .waitTimeout

/-- What marking step `n` or the step before it does to step `n` (R262). -/
def State.dropStep (s : State) (n : Nat) : State :=
  if s.resolved n then s
  else
    let s1 := ((s.markStep n .incomplete).sendSummary n false true).releaseStep n
    let s2 : State := { s1 with xe := { s1.xe with
      parts := s1.xe.parts.filter fun p => p.step != n
      sends := s1.xe.sends.filter fun p => p.step != n
      gaths := s1.xe.gaths.filter fun p => p.step != n
      mirrors := s1.xe.mirrors.filter fun p => p.step != n
      unacked := s1.xe.unacked.filter fun p => p.1 != n
      waiting := s1.xe.waiting.filter fun p => p.1 != n } }
    (s2.hg.cmds.filter fun c => c.endsWithStep n).foldl State.timeOut s2

/-- The module marks step `n` incomplete, and step n + 1 with it (R262). A resolved step stays as it is. -/
def State.markIncomplete (s : State) (n : Nat) : State :=
  if s.resolved n then s
  else
    let s1 := (s.dropStep n).dropStep (n + 1)
    { s1 with xe := { s1.xe with lastStep := n, lastOutcome := 3 } }

/-- Command `q` fails with `t` (R500): it is not delivered, or keeps the event it has signalled (R325); its step is
marked incomplete. -/
def State.failCmd (s : State) (q : Nat) (t : Status) (detail : Nat) : State :=
  match s.cmd q with
  | none => s
  | some c =>
    let s1 := (s.updCmd q fun c => { c with stage := .failed, conds := t :: c.conds, detail := detail % 2 ^ 63, tainted := false, hold := false }).haltOn c t
    match c.stepOf with
    | some n => s1.markIncomplete n
    | none => s1

/-- A status that has no effect (R340): AUTH_FAIL or NOT_OWNER. -/
def State.refuseCmd (s : State) (q : Nat) (t : Status) : State :=
  match s.cmd q with
  | none => s
  | some c => (s.updCmd q fun c => { c with stage := .refused, conds := [t] }).haltOn c t

/-- BAD_DESCRIPTOR for a fault in a referenced structure (Table 11.13). -/
def State.badStruct (s : State) (q : Nat) : State := s.failCmd q .badDescriptor 0xFF

/-- The command that is repaired for command `q`: for a replayed copy, its RECOMP. -/
def State.repaired (s : State) (q : Nat) : Nat := ((s.cmd q).bind Cmd.parent).getD q

/-- Command `q` has written `n` bytes at `a` (R290). -/
def State.noteWrite (s : State) (q a n : Nat) : State :=
  { s with im := { s.im with written := (s.repaired q, a, n) :: s.im.written.filter fun w =>
      !(decide (a ≤ w.2.1) && decide (w.2.1 + w.2.2 ≤ a + n)) } }

/-- Command `q`, when it has been started with opcode `op` and is neither delivered nor tainted. -/
def State.runnable (s : State) (q op : Nat) : Option Cmd :=
  match s.cmd q with
  | some c => if c.stage = .started ∧ c.opcode = op ∧ ¬ c.tainted then some c else none
  | none => none

/-! ### Ending of ownership -/

/-- Device time at which the lease expires (R422). -/
def State.leaseEnd (s : State) : Nat := s.tb.leaseFrom + s.expiryMs * 1000000

/-- Change of OWNER or OWN_PHASE: one arrival at the ownership source (Table 16.6). -/
def State.setOwn (s : State) (p : OwnPhase) : State :=
  let s1 := { s with tb := { s.tb with own := p } }
  if p = s.tb.own then s1 else s1.arrive 199

/-- A master ceases to be owner (R421, R423): the session ends; everything else stays. -/
def State.vacate (s : State) : State := ({ s with tb := { s.tb with session := none } }).setOwn .vacant

/-! ### Ready bits -/

/-- The number of a function in the tables of ready and failed bits. -/
def funcKey : Func → Nat
  | .hostLink => 0
  | .trust => 1
  | .firmware => 2
  | .port p => 18 + p.val
  | .stack s => 30 + s.val
  | .wstore d => 38 + d.val
  | .hubStore => 42
  | .exchange => 43
  | .bank d b => 100 + 32 * d.val + b.val
  | .cluster d c => 300 + 32 * d.val + c.val

/-- The ready bit with this number (numbers below 64 are the bits of LD_READY). -/
def State.readyKey (s : State) (k : Nat) : Bool := Tab.get (fun _ => false) s.ld.ready k
def State.failedKey (s : State) (k : Nat) : Bool := Tab.get (fun _ => false) s.ld.failed k
def State.isReady (s : State) (f : Func) : Bool := s.readyKey (funcKey f)

/-- Set a ready bit; each setting adds one arrival to the ready source (R449). -/
def State.setReady (s : State) (k : Nat) : State :=
  ({ s with ld := { s.ld with ready := Tab.set (fun _ => false) s.ld.ready k true } }).arrive 198

/-- Clear a ready bit. -/
def State.clearReady (s : State) (k : Nat) : State :=
  { s with ld := { s.ld with ready := Tab.set (fun _ => false) s.ld.ready k false } }

/-- Set a failed bit (R449). -/
def State.setFailed (s : State) (k : Nat) : State :=
  ({ s with ld := { s.ld with failed := Tab.set (fun _ => false) s.ld.failed k true } }).arrive 198

/-- Clear a failed bit. -/
def State.clearFailed (s : State) (k : Nat) : State :=
  { s with ld := { s.ld with failed := Tab.set (fun _ => false) s.ld.failed k false } }

/-! ### Clock domains -/

/-- The number of a clock domain (Table 16.1). -/
def domKey : Domain → Nat
  | .hub => 0
  | .dieBase d => 1 + d.val
  | .bank d b => 100 + 32 * d.val + b.val
  | .cluster d c => 300 + 32 * d.val + c.val

def State.dom (s : State) (k : Nat) : DomState := Tab.get (fun _ => DomState.initial) s.ld.domains k
def State.setDom (s : State) (k : Nat) (d : DomState) : State :=
  { s with ld := { s.ld with domains := Tab.set (fun _ => DomState.initial) s.ld.domains k d } }

/-- A request for a Dawn takes its place: in arrival order, and by ascending coordinate within one cycle (R431). -/
def queueDawn (t k : Nat) : List (Nat × Nat) → List (Nat × Nat)
  | [] => [(t, k)]
  | (u, j) :: l => if u = t ∧ k < j then (t, k) :: (u, j) :: l else (u, j) :: queueDawn t k l

/-- Work reaches a domain (R431, R432): its PLL keeps running, or it waits for its Dawn. -/
def State.wantDom (s : State) (k : Nat) : State :=
  if (s.dom k).running then s.setDom k { running := true, idleSince := s.now }
  else if s.ld.dawnQueue.any fun p => p.2 == k then s
  else { s with ld := { s.ld with dawnQueue := queueDawn s.now k s.ld.dawnQueue } }

/-- Arrays that a compute die may have reading: its share of the lower of the cap and the grant (R28), lowered in sixteenths
(R442). -/
def State.readShare (s : State) : Nat :=
  min s.ld.cap (s.ld.limitAF.getD s.ld.cap) / 4 * (16 - min 15 s.ld.stepsAF) / 16

/-! ### Traffic -/

/-- Catalogue code of bytes read or written in a place (Table 14.1, 0x30 to 0x35). -/
def trafficCode (write : Bool) (p : Place) : Option Nat :=
  match p with
  | .stack _ _ => some (if write then 0x31 else 0x30)
  | .wstore _ => some (if write then 0x33 else 0x32)
  | .hub => some (if write then 0x33 else 0x32)
  | .journal => some (if write then 0x33 else 0x32)
  | .host => some (if write then 0x35 else 0x34)
  | .outside => none

/-- The die that works on a command's data: the hub die for transfers of the Mover Engine and lists of the
Exchange Engine; the home cluster's for MMUL, AMVM and AMVT; else the one that the module chooses (R501), an open value. -/
def State.workerOf (s : State) (q : Option Nat) : Nat :=
  match q.bind s.cmd with
  | none => 4
  | some c =>
    if [0x01, 0x02, 0x03, 0x31].contains c.opcode then 4
    else if c.opcode = 0x18 then c.u8 42 % 128 / 32
    else if c.opcode = 0x10 ∨ c.opcode = 0x11 then c.u8 52 % 128 / 32
    else (Config.freeByte s.free 0).toNat / 64

/-- `n` bytes from `a` in pieces that lie in one place each: interleaving keeps 4 KiB blocks whole. -/
def placePieces (a n : Nat) : List (Nat × Nat) :=
  if isHost a then [(a, n)] else (blocksOf a n).map fun b => (max a b, min (a + n) (b + 4096) - max a b)

/-- Count the bytes of one such piece, once more for each die-to-die connection that they cross (R12 to R14, event 0x37). -/
def State.countPiece (s : State) (die : Nat) (q : Option Nat) (write : Bool) (x : Nat × Nat) : State :=
  let p := placeOf s.ms.interleave x.1
  let out (k : Nat) : Bool := Tab.get (fun _ => false) s.fab.d2dOut k
  match trafficCode write p with
  | some k => (s.evt q k x.2).evt q 0x37 (x.2 * (dieRoute out die p.die).length)
  | none => s

/-- Count `n` bytes that a unit on `die` reads or writes at `a` for command `q`. How many die-network flits carry them is an
open value (event 0x80; DESIGN CHOICE, assumption 105). -/
def State.trafficOn (s : State) (die : Nat) (q : Option Nat) (write : Bool) (a n : Nat) : State :=
  (((placePieces a n).foldl (fun (u : State) x => u.countPiece die q write x) s).evtU 0x80
    (leNat ((s.freeBytes 5).drop 1))).freeStep

/-- The same for the unit that works on the command's data. -/
def State.traffic (s : State) (q : Option Nat) (write : Bool) (a n : Nat) : State := s.trafficOn (s.workerOf q) q write a n

/-- Input vectors or partial sums travel from die `a` to die `b`, 4 being the hub die (R12, R116). How many bytes they take is an
open value, counted once for each connection that they cross (event 0x37; DESIGN CHOICE, assumption 134). -/
def State.crossing (s : State) (q : Option Nat) (a b : Nat) : State :=
  let n := (dieRoute (fun k => Tab.get (fun _ => false) s.fab.d2dOut k) a b).length
  if n = 0 then s else (s.evt q 0x37 (leNat ((s.freeBytes 5).drop 1) * n)).freeStep

end Sys2Proof.Machine
end

