-- ==== Sys2Proof/Machine/Detect.lean ====
section
/-!
DEFINITION. Errors found in memory: counting against units (R281, R299, R300), corrections, suspect pseudo-channels and
row remaps (R369, R373 to R378), and the reads and writes that find them (R371).
-/
namespace Sys2Proof.Machine

open Sys2Proof

/-! ### Units and their errors (Table 10.5, R299) -/

def coreUnit (die cluster core : Nat) : UnitId := { kind := 1, coord := die * 2 ^ 28 + cluster * 2 ^ 16 + core }
/-- A pseudo-channel of a stack, which lies on compute die ⌊s / 2⌋; a lane of a Farpinen port. -/
def pchUnit (st pch : Nat) : UnitId := { kind := 3, coord := st / 2 * 2 ^ 28 + st * 2 ^ 16 + pch }
def portLane (p lane : Nat) : UnitId := { kind := 4, coord := 0xF0000000 + p * 2 ^ 16 + lane }
def engineUnit (die e : Nat) : UnitId := { kind := 6, coord := die * 2 ^ 28 + e * 2 ^ 16 }
def laneUnit : UnitId := { kind := 7, coord := 0xF0000000 }

def UnitId.die (u : UnitId) : Nat := u.coord / 2 ^ 28
def UnitId.mid (u : UnitId) : Nat := u.coord / 2 ^ 16 % 4096
def UnitId.low (u : UnitId) : Nat := u.coord % 2 ^ 16

/-- The threshold register of a kind of unit (Table 10.7). -/
def threshReg (kind : Nat) : Option Nat :=
  match kind with
  | 1 => some 0x2800010
  | 2 => some 0x2800018
  | 3 => some 0x2800020
  | 4 => some 0x2800028
  | _ => none

def State.unitErrors (s : State) (u : UnitId) : UnitErrors :=
  (s.im.errors.find? fun e => e.unit == u).getD { unit := u, times := [], suspect := false, spent := false }
def State.setErrors (s : State) (e : UnitErrors) : State :=
  { s with im := { s.im with errors := e :: s.im.errors.filter (·.unit ≠ e.unit) } }

/-- Errors at most `ns` old. -/
def countSince (now ns : Nat) (l : List Nat) : Nat := (l.filter fun t => decide (now - t ≤ ns)).length

/-- Errors of a unit within its suspect window and within its retirement window now (SHORT and LONG of its records). -/
def State.errorCounts (s : State) (u : UnitId) : Nat × Nat :=
  match threshReg u.kind with
  | none => (0, 0)
  | some r => (countSince s.now (s.fld r 0 24 * 1000000) (s.unitErrors u).times,
      countSince s.now (s.fld r 32 24 * 1000000000) (s.unitErrors u).times)

/-- What the thresholds say after one more error (R299, R300). -/
structure Verdict where
  short : Nat
  long : Nat
  suspect : Bool
  retire : Bool
  deriving DecidableEq, Repr

/-- Record the time of an error against its unit (R299). -/
def State.noteError (s : State) (u : UnitId) : State × Verdict :=
  let e := s.unitErrors u
  let l := s.now :: e.times
  match threshReg u.kind with
  | none => (s.setErrors { e with times := l },
      { short := 0, long := 0, suspect := false, retire := false })
  | some r =>
    let sw := s.fld r 0 24 * 1000000
    let sc := s.fld r 24 8
    let rw := s.fld r 32 24 * 1000000000
    let rc := s.fld r 56 8
    let sus : Bool := sc != 0 && decide (sc ≤ countSince s.now sw l)
    let was : Bool := sc != 0 && decide (sc ≤ countSince s.now sw e.times)
    (s.setErrors { e with times := l, suspect := sus },
      { short := countSince s.now sw l, long := countSince s.now rw l, suspect := sus && !was
        retire := rc != 0 && decide (rc ≤ countSince s.now rw l) })

/-! ### Row remapping (R377, R378) -/

/-- The pseudo-channel and row of a stack codeword: stack, pseudo-channel, row. -/
def State.rowOfCw (s : State) (cw : Nat) : Option (Nat × Nat × Nat) :=
  match placeOf s.ms.interleave (cw * 32) with
  | .stack st o => some (st, pchOf o, rowOf o)
  | _ => none

/-- SYNDROME of a symbol error: position, value, address bits [53:6] (Table 10.5). -/
def symbolSyn (pos value cw : Nat) : Nat := pos + value * 256 + bitsOf (cw * 32) 6 48 * 65536

/-- Rows of a pseudo-channel remapped now. -/
def State.remapped (s : State) (st pch : Nat) : List Nat := Tab.get (fun _ => []) s.ms.remap (64 * st + pch)

/-- A row is to be remapped (R378): the lowest-numbered free spare row takes its data; with none free the row stays in
place, and the record says so. A row whose copy is under way is left alone. -/
def State.startRemap (s : State) (st pch row mech syn : Nat) : State :=
  if s.ms.remapping.any fun r => r.stack == st && r.pch == pch && r.row == row then s
  else
    let spare := (s.remapped st pch).length + (s.ms.remapping.filter fun r => r.stack == st && r.pch == pch).length
    if 16 ≤ spare then
      let n := s.errorCounts (pchUnit st pch)
      s.cper { unit := 3, coord := (pchUnit st pch).coord, mechanism := mech, action := 4, short := n.1, long := n.2, syndrome := syn }
    else
      { s with ms := { s.ms with remapping := s.ms.remapping ++ [
          { stack := st, pch := pch, row := row, spare := spare, mech := mech, syn := syn }] } }

/-- A symbol was corrected in a stack, or a codeword of one found uncorrectable: it counts against the pseudo-channel
(R281, R300). A pseudo-channel that becomes suspect is scrubbed once (R377); the row of an uncorrectable codeword is
remapped at once. -/
def State.stackError (s : State) (cw : Nat) (bad : Bool) (syn : Nat) : State :=
  match s.rowOfCw cw with
  | none => s
  | some (st, pch, row) =>
    let u := pchUnit st pch
    let n := s.noteError u
    let s1 := if ¬ n.2.suspect then n.1
      else (n.1.bump 0x2800418).cper {
        unit := 3, coord := u.coord, mechanism := if bad then 8 else 7, action := 7, short := n.2.short, long := n.2.long
        syndrome := syn }
    let s2 : State := if ¬ n.2.suspect then s1
      else { s1 with ms := { s1.ms with
        targeted := if s1.ms.targeted.contains { stack := st, pch := pch } then s1.ms.targeted
          else s1.ms.targeted ++ [{ stack := st, pch := pch }]
        lastTarget := Tab.set (fun _ => 0) s1.ms.lastTarget st pch } }
    if bad then s2.startRemap st pch row 8 syn else s2

/-! ### Reads -/

/-- Add `n` to the correction counter of the memory that holds codeword `cw` (Table 13.4). -/
def State.countCorr (s : State) (cw : Nat) : State :=
  match placeOf s.ms.interleave (cw * 32) with
  | .stack st _ => s.bump (0x1000300 + 8 * st)
  | _ => s.bump 0x1000360

/-- What decoding codeword `cw` finds (R368, R369). -/
def State.noteMerge (s : State) (cw : Nat) : State :=
  match decodePattern (s.upset cw) with
  | .good => s
  | .corrected i v => ((s.countCorr cw).evtU 0x36 1).stackError cw false (symbolSyn i v cw)
  | .bad => (s.bump 0x1000340).stackError cw true (symbolSyn 0 0 cw)

/-- The counters that a read of codeword `cw` by a command moves (R369, R374, R375): its metadata is known once it has been
decoded. -/
def State.noteCw (s : State) (cw : Nat) : State :=
  let s1 := s.noteMerge cw
  if decodePattern (s.upset cw) = .bad then s1
  else if s.zoneClash cw then s1.bump 0x1000350
  else if s.poisoned cw then s1.bump 0x1000348
  else s1

/-- What reads of the ranges do to the counters. -/
def State.noteReads (s : State) : List (Nat × Nat) → State
  | [] => s
  | (a, n) :: t => (if isHost a then s else (cwsOf a n).foldl State.noteCw s).noteReads t

/-! ### Writes -/

/-- A partial write of codeword `cw` is about to be merged (R371): the codeword is corrected, or stays poisoned when it
was uncorrectable (R373). -/
def State.mergeCw (s : State) (cw : Nat) : State :=
  let bad := decodePattern (s.upset cw) == .bad
  let p := s.poisoned cw || bad
  let s1 := s.noteMerge cw
  (s1.settle cw).setMeta cw p (s1.zoneOf (cw * 32))

/-- Codeword `cw` lies wholly in `[a, a + n)`. -/
def wholeCw (a n cw : Nat) : Bool := decide (a ≤ cw * 32) && decide (cw * 32 + 32 ≤ a + n)

/-- Write bytes at `a`: device codewords wholly written lose their poison, the others are merged (R371, R373). -/
def State.wr (s : State) (a : Nat) (l : List Byte) : State :=
  if isHost a then s.putBytes a l
  else
    let s1 := (cwsOf a l.length).foldl (fun s cw =>
      if wholeCw a l.length cw then s.setMeta cw false (s.zoneOf (cw * 32)) else s.mergeCw cw) s
    s1.putBytes a l

/-- Write `n` bytes of a number, little-endian. -/
def State.wrNat (s : State) (a n v : Nat) : State := s.wr a (natLe n v)

end Sys2Proof.Machine
end

