-- ==== Sys2Proof/Machine/Depend.lean ====
section
/-!
DEFINITION. What a command waits for and depends on (R323, R324, R387, R388).
-/
namespace Sys2Proof.Machine

open Sys2Proof

def Cmd.isWait (c : Cmd) : Bool := c.opcode == 0x08
def Cmd.isFenc (c : Cmd) : Bool := c.opcode == 0x0A
/-- FENC with ALL or RESTART waits for and holds commands of every ring (R328); SANI acts in the same way (R428). -/
def Cmd.isFencAll (c : Cmd) : Bool := (c.isFenc && (bitAt (c.u8 16) 0 || bitAt (c.u8 16) 1)) || c.opcode == 0x68
/-- FENC with REPLAY and without ALL waits as R298 says, and for nothing before it starts. -/
def Cmd.isReplay (c : Cmd) : Bool := c.isFenc && !c.isFencAll && bitAt (c.u8 16) 2
/-- The command that runs alone on its ring: CNTR, or one that carries EXT (R387, R388). -/
def Cmd.isAlone (c : Cmd) : Bool := c.opcode == 0x41 || c.ext

/-- The previous command of the ring. -/
def State.predecessor (s : State) (c : Cmd) : List Cmd :=
  match (s.ahead c).getLast? with
  | some d => [d]
  | none => []

/-- The ring predecessor of a command with ORDER, and every WAIT and FENC ahead on the ring (R323, R324). -/
def State.ordered (s : State) (c : Cmd) : List Cmd :=
  (if c.order then s.predecessor c else []) ++ (s.ahead c).filter fun d => d.isWait || d.isFenc

/-- Commands whose delivery is a condition for `c` to start (R323, R387, R388). A critical command starts once those ahead
of it have started (R336), and after a WAIT once that is satisfied (R323; DEDUCED: log entry 137). -/
def State.needDelivered (s : State) (c : Cmd) : List Cmd :=
  if c.critical then (s.ahead c).filter Cmd.isWait
  else s.ordered c ++ (if c.isAlone then s.ahead c else (s.ahead c).filter Cmd.isAlone)

/-- Commands that R324 makes `c` depend on. A copy that a RECOMP replays starts after the copy before it has completed. -/
def State.dependsOn (s : State) (c : Cmd) : List Cmd :=
  if c.parent.isSome then [] else (if c.opcode == 0x09 then s.ahead c else s.ordered c) ++ c.deps.filterMap s.cmd

/-- `d` was accepted before `c` (R318). -/
def Cmd.before (d c : Cmd) : Bool := d.seq.any fun i => c.seq.any fun j => decide (i < j)

/-- Issue sequence numbers of the commands that depend on one of `l`, directly or in a chain, and are neither clear nor
failed; `l` itself comes first. At most `fuel` links are followed. -/
def State.dependants (s : State) (l : List Nat) : Nat → List Nat
  | 0 => l
  | k + 1 =>
    let more := s.hg.cmds.filterMap fun c =>
      match c.seq with
      | none => none
      | some q =>
        if ¬ l.contains q ∧ ¬ c.stage.isClear ∧ c.stage ≠ .failed ∧
            (s.dependsOn c).any (fun d => d.seq.any l.contains) then some q else none
    if more.isEmpty then l else s.dependants (l ++ more) k

/-- Issue sequence numbers of everything that the commands `l` depend on, directly or in a chain, `l` first. -/
def State.foundations (s : State) (l : List Nat) : Nat → List Nat
  | 0 => l
  | k + 1 =>
    let more := ((l.filterMap s.cmd).flatMap fun c => (s.dependsOn c).filterMap Cmd.seq).eraseDups.filter fun q => !l.contains q
    if more.isEmpty then l else s.foundations (l ++ more) k

end Sys2Proof.Machine
end

