-- ==== Sys2Proof/Machine/Parts.lean ====
section
/-!
DEFINITION. Bucket parts at their owner (R243 to R248, R252 to R258, R265, R267): shards, the taking of copies, delivery,
clearing and retraction.
-/
namespace Sys2Proof.Machine

open Sys2Proof

/-! ### Shards and slots -/

/-- Entries of a bucket (R246), and buckets of a step. -/
def State.bucketEntries (s : State) : Nat := s.bucketMib * 262144
def State.buckets (s : State) : Nat := (s.spaceEntries + s.bucketEntries - 1) / s.bucketEntries

/-- The first entry of rank i's shard; that of rank i + 1 is the end of rank i's (R247). -/
def State.shardLo (s : State) (i : Nat) : Nat := min (256 * (i * ((s.spaceEntries + 255) / 256) / s.groupSize)) s.spaceEntries

/-- Entries of bucket `b`, and the part of it that rank `i` owns. -/
def State.bucketRange (s : State) (b : Nat) : Nat × Nat :=
  (min (b * s.bucketEntries) s.spaceEntries, min ((b + 1) * s.bucketEntries) s.spaceEntries)
def State.partRange (s : State) (i b : Nat) : Nat × Nat :=
  (max (s.shardLo i) (s.bucketRange b).1, min (s.shardLo (i + 1)) (s.bucketRange b).2)
def State.ownsPart (s : State) (i b : Nat) : Bool := decide ((s.partRange i b).1 < (s.partRange i b).2)

/-- Contributor slots (R243), a rank's slot, and whether its copies are backups. -/
def State.slotCount (s : State) : Nat := max 1 (s.groupSize / s.redund)
def State.slotOf (s : State) (r : Nat) : Nat := r % s.slotCount
def State.isBackup (s : State) (r : Nat) : Bool := decide (1 ≤ r / s.slotCount)

/-- Slots of which some rank is present (R264). -/
def State.slotsPresent (s : State) : List Nat := (s.present.map s.slotOf).eraseDups

/-- Ranks for whose shards this module is the owner: its own, and excluded ranks whose buddy it is (R264). -/
def State.ownedRanks (s : State) : List Nat :=
  s.rank :: ((s.xe.buddies.filter fun p => p.2 == s.rank && s.xe.excluded.contains p.1).map Prod.fst)

/-- The owner of rank `i`'s shard now: its buddy after a reform that excluded it. -/
def State.ownerOf (s : State) (i : Nat) : Nat :=
  if s.xe.excluded.contains i then ((s.xe.buddies.find? fun p => p.1 == i).map Prod.snd).getD i else i

/-! ### Parts -/

def State.part (s : State) (n b o : Nat) : Option Part := s.xe.parts.find? fun p => p.step == n && p.bucket == b && p.owner == o
/-- A bucket part changed state (Table 9.4): a Logbook record on the hub die (R393). -/
def State.logPart (s : State) (n b : Nat) : State := s.logRec 4 0xF0000000 0x20 none none (n % 2 ^ 32 + b % 2 ^ 32 * 2 ^ 32)

/-- The state of a part once its first contribution has come. -/
def Part.shown (p : Part) : Option PartState := p.first.map fun _ => p.state

def State.setPart (s : State) (p : Part) : State :=
  let s1 : State := { s with xe := { s.xe with
      parts := p :: s.xe.parts.filter fun x => !(x.step == p.step && x.bucket == p.bucket && x.owner == p.owner) } }
  if (s.part p.step p.bucket p.owner).bind Part.shown = p.shown then s1 else s1.logPart p.step p.bucket

def newPart (n b o : Nat) : Part := {
  step := n, bucket := b, owner := o, state := .collecting, first := none, late := false, taken := [], held := [], seen := []
  retracted := [], clears := [], reopened := [], seenAt := [], displaced := [], nf := false }

/-- Parts whose contributions are retained (R254). -/
def State.retained (s : State) : Nat := (s.xe.parts.filter fun p => p.first.isSome && p.state != .cleared).length

def State.sentOf (s : State) (n b : Nat) : Option Sent := s.xe.sends.find? fun x => x.step == n && x.bucket == b
def State.setSent (s : State) (x : Sent) : State :=
  { s with xe := { s.xe with sends := s.xe.sends.map fun y => if y.seq = x.seq then x else y } }

/-- The own parts of bucket `b` of step `n` are all in one of the states that `f` accepts. -/
def State.ownParts (s : State) (n b : Nat) (f : PartState → Bool) : Bool :=
  (s.ownedRanks.filter fun o => s.ownsPart o b).all fun o => (s.part n b o).any fun p => f p.state

/-- Deadline and give-up time of a part (R255), in ns from its first arrival. -/
def State.deadlineNs (s : State) : Nat := s.deadlineUs * 1000
def State.giveupNs (s : State) : Nat := max (s.giveupMs * 1000000) s.deadlineNs

/-- Every present slot has a taken copy (R258, R264). -/
def State.partFull (s : State) (p : Part) : Bool :=
  s.slotsPresent.all fun k => p.taken.any fun c => s.slotOf c.rank == k

/-- The delivered value of entry `k` of a part: the exact sum of the taken copies, rounded once (R253, R55). -/
def partEntry (p : Part) (k : Nat) : F32 := exactSum (p.taken.map fun c => fpFP32.decode (c.vals.getD k 0))

/-! ### Lanes (R252, R254) -/

/-- A lane: 320 bits of two's complement in which bit i weighs 2^(i − 149), then the four flags of R64. -/
def laneBytes48 (p : Part) (k : Nat) : List Byte :=
  let a := Acc.ofList (p.taken.map fun c => fpFP32.decode (c.vals.getD k 0))
  natLe 40 (unsignedOf (a.sum.m * ((2 ^ (a.sum.e + 149).toNat : Nat) : Int)) 320) ++
    natLe 1 (a.nan.toNat + 2 * a.pinf.toNat + 4 * a.ninf.toNat + 8 * (a.any && a.allNegZero).toNat) ++ List.replicate 7 0

/-- Address of entry `x`'s lane for the shard of rank `o` (R254): the lanes of the module's own shard come first, then those of
the second (the places within the lane area are the model's: log entry 128). -/
def State.laneAddr (s : State) (o x : Nat) : Nat :=
  let own := s.shardLo (s.rank + 1) - s.shardLo s.rank
  s.laneBase + 48 * (x - s.shardLo o + if o = s.rank then 0 else own)

/-- The lane area lies in stack memory (R254). -/
def State.laneStack (s : State) (a n : Nat) : Bool :=
  match placeOf s.ms.interleave a, placeOf s.ms.interleave (a + n - 1) with
  | .stack _ _, .stack _ _ => decide (a - s.laneBase + n ≤ s.laneBytes)
  | _, _ => false

/-- A part whose taken copies have changed: its lanes are in the lane area. -/
def State.setLanes (s : State) (p : Part) : State :=
  let r := s.partRange p.owner p.bucket
  let a := s.laneAddr p.owner r.1
  let s1 := s.setPart p
  if r.1 < r.2 ∧ s.laneStack a (48 * (r.2 - r.1)) then s1.wr a ((List.range (r.2 - r.1)).flatMap (laneBytes48 p)) else s1

/-- The part is cleared once every taken copy's all-clear has arrived (R258); the module's XCHG may then write its record
(R248). -/
def State.clearPart (s : State) (n b o : Nat) : State :=
  match s.part n b o with
  | none => s
  | some p =>
    if p.state ≠ .delivered ∨ ¬ p.taken.all (fun c => p.clears.contains c.rank) then s
    else
      let s1 := s.setPart { p with state := .cleared, nf := p.nf || p.taken.any (fun c => c.nf), taken := [], held := [] }
      match s1.sentOf n b with
      | none => s1
      | some x => if s1.ownParts n b (· == .cleared) then s1.updCmd x.seq fun c => { c with hold := false } else s1

/-- The lane fault strikes this part. -/
def strikes (n b o : Nat) (f : LaneFault) : Bool := f.step == n && f.bucket == b && f.owner == o

/-- One lane fails its check (R281, R282): it is rebuilt from the retained contributions, which is counted and recorded; a
rebuilt lane that fails again makes the step incomplete, and is recorded too. -/
def State.laneFails (s : State) (f : LaneFault) : State :=
  let body : CperBody := {
    unit := 7, coord := laneUnit.coord, mechanism := 11, action := 0, syndrome := f.predicted.val + 256 * f.observed.val, step := f.step }
  let s1 := ((s.noteError laneUnit).1.bump 0x2800428).cper body
  if f.again then (s1.noteError laneUnit).1.cper { body with action := 5 } else s1

/-- The lane residue checks before a part is delivered (R282). -/
def State.checkLanes (s : State) (n b o : Nat) : State :=
  (s.ms.lanes.filter (strikes n b o)).foldl State.laneFails
    { s with ms := { s.ms with lanes := s.ms.lanes.filter fun f => !strikes n b o f } }

/-- A lane of the part fails again after it has been rebuilt. -/
def State.lanesLost (s : State) (n b o : Nat) : Bool := s.ms.lanes.any fun f => strikes n b o f && f.again

/-- No copy waits in the exchange-data channel any more: its buffers are free, and their credits return (R254, R460). -/
def State.freeBuffers (s : State) : State :=
  if s.xe.waiting.isEmpty then
    (List.range 12).foldl (fun (u : State) p =>
      let x := u.port p
      if x.held = 0 then u
      else (u.setPort p { x with held := 0, owed := (List.range 4).map fun i => x.owed.getD i 0 + if i = 2 then x.held else 0 }).pump p) s
  else s

/-- The entries of a complete part are written (R253, R258): entries go to SHARD_BASE, those of a shard taken over in a reform to
MIRROR_BASE; the buddy receives them too (R267). The addresses come with the module's own XCHG. -/
def State.writePart (s : State) (n b o : Nat) : State :=
  match s.part n b o, s.sentOf n b with
  | some p, some x =>
    let r := s.partRange o b
    let vals := (List.range (r.2 - r.1)).map fun k => (partEntry p k).toNat
    let a := (if o = s.rank then x.shardBase else x.mirrorBase) + 4 * (r.1 - s.shardLo o)
    let fail := if isHost a then s.rdFail a (4 * vals.length) else none
    match fail with
    | some f => s.failCmd x.seq .hostBusError f.1
    | none =>
      let s1 := ((s.wr a (vals.flatMap (natLe 4))).trafficOn 4 (some x.seq) true a (4 * vals.length)).noteWrite x.seq a (4 * vals.length)
      let s2 := s1.setPart { p with state := .delivered, nf := vals.any fun v => !(fpFP32.decode v).isFin }
      let s3 : State :=
        if o = s.rank ∧ s.buddyOn ∧ ¬ s.xe.excluded.contains s.buddy then
          { s2.emit (.farpinen s.buddy kBuddy ([n, b, s.rank] ++ vals)) with
            xe := { s2.xe with unacked := s2.xe.unacked ++ [(n, b)] } }
        else s2
      let done : Bool := (s3.cmd x.seq).any (fun c => c.stage == .running && !c.tainted) && x.waiting.isEmpty &&
        s3.ownParts n b (· != .collecting)
      (if done then s3.deliver x.seq else s3).clearPart n b o
  | _, _ => s

/-- Deliver a complete part (R253, R258), after the checks of its lanes (R282). -/
def State.deliverPart (s : State) (n b o : Nat) : State :=
  match s.part n b o, s.sentOf n b with
  | some p, some _ =>
    if p.state ≠ .collecting ∨ p.first.isNone ∨ ¬ s.partFull p then s
    else if s.lanesLost n b o then (s.checkLanes n b o).markIncomplete n
    else (s.checkLanes n b o).writePart n b o
  | _, _ => s

/-- A copy is discarded as a duplicate (R256). -/
def State.duplicate (s : State) : State := (s.bump 0x2000300).evtU 0x42 1

/-- A copy enters the lanes of its slot (R256). -/
def State.takeCopy (s : State) (p : Part) (c : Copy) : State :=
  let k := s.slotOf c.rank
  let gone := p.held.filter fun h => s.slotOf h.rank == k && h.rank != c.rank
  let s1 := s.setLanes { p with
    taken := p.taken ++ [{ c with at_ := s.now }], held := p.held.filter fun h => s.slotOf h.rank != k
    reopened := p.reopened.filter fun j => j != k, displaced := gone.map fun h => (h, s.now) }
  let s2 := if gone.isEmpty then s1 else s1.duplicate
  if s.isBackup c.rank then s2.bump 0x2000308 else s2

/-- A copy arrives at its owner (R254 to R257, R265). While 16 other parts are retained, a copy of a new part stays in the
channel's buffers. -/
def State.copyArrives (s : State) (n b o : Nat) (c : Copy) : State :=
  match (s.stepInfo n).mark with
  | .cleared => s.duplicate
  | .skipped => s.duplicate
  | _ =>
    let p0 := (s.part n b o).getD (newPart n b o)
    if p0.first.isNone ∧ 16 ≤ s.retained then { s with xe := { s.xe with waiting := s.xe.waiting ++ [(n, b, o, c)] } }
    else
      let first := p0.first.getD s.now
      let s1 := if s.now = first + s.deadlineNs ∧ p0.first.isSome then s.bump 0x2000310 else s
      if p0.state = .cleared then s1.duplicate
      else if p0.retracted.contains c.rank then s1.setPart { p0 with retracted := p0.retracted.erase c.rank, first := some first }
      else
        let p := { p0 with
          seen := c.rank :: p0.seen.erase c.rank, first := some first
          seenAt := (c.rank, s.now) :: p0.seenAt.filter fun x => x.1 != c.rank }
        let k := s.slotOf c.rank
        match p.taken.find? fun t => s.slotOf t.rank == k with
        | some t =>
          if s.isBackup t.rank ∧ ¬ s.isBackup c.rank ∧ t.at_ = s.now then
            (((s1.setLanes { p with
              taken := p.taken.filter (fun u => u.rank != t.rank) ++ [{ c with at_ := s.now }], displaced := [(t, s.now)] }).duplicate).bump
              0x2000308 (2 ^ 64 - 1)).deliverPart n b o
          else (s1.setPart p).duplicate
        | none =>
          if s.redund = 1 ∨ ¬ s.isBackup c.rank ∨ p.reopened.contains k ∨ p.late ∨ first + s.deadlineNs < s.now then
            (s1.takeCopy p c).deliverPart n b o
          else s1.setPart { p with held := p.held ++ [c] }

/-- Copies that waited for room are taken in the order of their arrival, once parts have been cleared (R254). -/
def State.admitCopies (s : State) : Nat → State
  | 0 => s
  | k + 1 =>
    match s.xe.waiting with
    | [] => s
    | (n, b, o, c) :: rest =>
      if (s.part n b o).all (fun p => p.first.isNone) ∧ 16 ≤ s.retained then s
      else State.admitCopies (({ s with xe := { s.xe with waiting := rest } }).copyArrives n b o c) k

def State.admitWaiting (s : State) : State := (s.admitCopies s.xe.waiting.length).freeBuffers

/-- The deadline of a part (R256) lies behind, so that every arrival in its cycle has come before it (R257): held backups are
taken for slots without a copy. -/
def State.partDeadline (s : State) (n b o : Nat) : State :=
  match s.part n b o with
  | none => s
  | some p =>
    match p.first with
    | none => s
    | some t =>
      if p.late ∨ s.now ≤ t + s.deadlineNs then s
      else
        let s1 := s.setPart { p with late := true }
        (p.held.foldl (fun (u : State) c =>
          match u.part n b o with
          | some p1 => if p1.taken.any (fun x => u.slotOf x.rank == u.slotOf c.rank) then u else u.takeCopy p1 c
          | none => u) s1).deliverPart n b o

/-- An all-clear from `rank` (R258). -/
def State.allClear (s : State) (n b o rank : Nat) : State :=
  match s.part n b o with
  | none => s
  | some p => (s.setPart { p with clears := if p.clears.contains rank then p.clears else rank :: p.clears }).clearPart n b o

/-- The module of the group whose rank is `r`, as a unit of the Integrity and Observation Unit (Table 10.5). -/
def memberUnit (r : Nat) : UnitId := { kind := 9, coord := 0xE * 2 ^ 28 + r * 2 ^ 16 }

/-- A counter takes back what an undone arrival had counted. -/
def State.uncount (s : State) (off : Nat) (on : Bool) : State := if on then s.bump off (2 ^ 64 - 1) else s

/-- A copy and its RETRACT have arrived in one cycle (R265): the arrival is undone, and the copy counts as discarded. One that
had been held or was a duplicate leaves the part as it stands; for a taken one the part collects again, and a copy that it
had displaced arrives anew. -/
def State.undoArrival (s : State) (p : Part) (rank : Nat) : State :=
  let k := s.slotOf rank
  let heldBack := p.held.any fun c => c.rank == rank
  if ¬ p.taken.any (fun c => c.rank == rank) then
    (s.setPart { p with
      seen := p.seen.filter (· != rank), held := p.held.filter fun c => c.rank != rank
      displaced := p.displaced.filter fun d => d.1.rank != rank }).uncount 0x2000300 (!heldBack)
  else
    let back := p.displaced.filter fun d => d.2 == s.now && s.slotOf d.1.rank == k
    let tie : Bool := p.first.any fun t => s.now == t + s.deadlineNs
    let s1 := s.setLanes { p with
      seen := p.seen.filter fun r => r != rank && !(back.any fun d => d.1.rank == r)
      taken := p.taken.filter fun c => c.rank != rank, state := .collecting, nf := false, displaced := [] }
    let s2 := (s1.uncount 0x2000300 (!back.isEmpty)).uncount 0x2000308 (s.isBackup rank)
    back.foldl (fun (u : State) d => (u.uncount 0x2000310 tie).copyArrives p.step p.bucket p.owner d.1) s2

/-- A RETRACT for a copy of a part (R265), which is acknowledged. -/
def State.retractFrom (s : State) (p : Part) (rank : Nat) : State :=
  if ¬ p.seen.contains rank then s.setPart { p with retracted := rank :: p.retracted.erase rank }
  else if p.seenAt.any (fun x => x.1 == rank && x.2 == s.now) ∧ ¬ p.reopened.contains (s.slotOf rank) then s.undoArrival p rank
  else
    let p1 := { p with seen := p.seen.erase rank, held := p.held.filter fun c => c.rank != rank }
    if p.taken.any (fun c => c.rank == rank) then
      s.setLanes { p1 with
        taken := p.taken.filter (fun c => c.rank != rank), reopened := s.slotOf rank :: p.reopened, state := .collecting, nf := false }
    else s.setPart p1

/-- A RETRACT for the copy of `rank` (R265, R266); the answer says whether it is acknowledged. One that names a copy whose
all-clear has been sent is ignored, and reported as an error of that module. For a part whose step has ended nothing is left
to change. -/
def State.retractCopy (s : State) (n b o rank : Nat) : State × Bool :=
  let s1 := s.bump 0x2000318
  match s.part n b o with
  | some p => if p.clears.contains rank then ((s1.noteError (memberUnit rank)).1, false) else (s1.retractFrom p rank, true)
  | none =>
    if (s.stepInfo n).mark = .cleared ∨ (s.stepInfo n).mark = .skipped then (s1, true)
    else (s1.retractFrom (newPart n b o) rank, true)

end Sys2Proof.Machine
end

