-- ==== Sys2Proof/Machine/Taint.lean ====
section
/-!
DEFINITION. Tainting (R287, R291, R292): a failed check, and data lost from memory (R290).
-/
namespace Sys2Proof.Machine

open Sys2Proof

/-- RETRACT for the copy that XCHG `x` has sent (R291, R292). The module's own parts are retracted at once. -/
def State.retractSent (s : State) (x : Sent) : State :=
  let mine (o : Nat) : Bool := s.ownedRanks.contains o
  let s1 := x.owners.foldl (fun (u : State) o =>
    let u1 := (u.bump 0x2800410).evt (some x.seq) 0x43 1
    if mine o then (u1.retractCopy x.step x.bucket o u1.rank).1
    else u1.emit (.farpinen (u1.ownerOf o) kRetract [x.step, x.bucket, o, u1.rank])) s
  (s1.setSent { x with owners := [], waiting := x.owners.filter fun o => !mine o }).updCmd x.seq fun c => { c with
    retractions := c.retractions + 1 }

/-- Command `q` is tainted: it stops, and its contribution is retracted (R287, R291). -/
def State.taintOne (s : State) (q : Nat) : State :=
  match s.cmd q with
  | none => s
  | some c =>
    if c.tainted ∨ c.stage = .failed ∨ c.stage = .refused then s
    else
      let s1 := (s.updCmd q fun c => { c with tainted := true }).bump 0x2800408
      match s1.xe.sends.find? fun x => x.seq == q && !x.owners.isEmpty && !x.cleared with
      | some x => s1.retractSent x
      | none => s1

/-- A repair begins, unless one is under way: tainted sets are joined (R287, R288). -/
def State.countRepair (s : State) : State := if s.hg.cmds.any (fun c => c.tainted) then s else s.bump 0x2800400

/-- Taint command `q` and every command that depends on it, directly or in a chain, and is not clear (R287). -/
def State.taint (s : State) (q : Nat) : State :=
  (s.dependants [s.repaired q] (s.hg.cmds.length + 1)).foldl State.taintOne s.countRepair

/-! ### The step journal in memory (R22) -/

/-- The journal is lost where an uncorrectable codeword lies in its memory: steps that are in progress or marked incomplete
cannot be replayed (R22). -/
def State.loseJournal (s : State) (cw : Nat) : State :=
  match placeOf s.ms.interleave (32 * cw) with
  | .journal =>
    { s with hg := { s.hg with steps := s.hg.steps.map fun (p : Nat × StepInfo) =>
        if p.2.mark = .open ∨ p.2.mark = .incomplete then (p.1, { p.2 with unreplayable := true }) else p } }
  | _ => s

/-- An uncorrectable codeword has been read where no command reads: it is written back with POISON (R373, R376). -/
def State.spoilCw (s : State) (cw : Nat) : State :=
  (((s.noteMerge cw).settle cw).setMeta cw true (s.zoneTag cw)).loseJournal cw

/-- The journal is read for a replay: every uncorrectable codeword in its memory is found. -/
def State.readJournal (s : State) : State :=
  ((s.ms.upset.filter fun p => decodePattern p.2 == .bad && placeOf s.ms.interleave (32 * p.1) == .journal).map Prod.fst).foldl
    State.spoilCw s

/-- The command that last wrote the byte at `a`, when its step is in progress and can be replayed (R22) and the journal
holds it. An XCHG whose all-clear has been sent is never retracted (R293). -/
def State.lostWriter (s : State) (a : Nat) : Option Nat :=
  match s.im.written.find? fun w => decide (w.2.1 ≤ a) && decide (a < w.2.1 + w.2.2) with
  | none => none
  | some w =>
    match s.cmd w.1 with
    | none => none
    | some c =>
      match c.stepOf with
      | none => none
      | some n =>
        if (s.stepInfo n).mark = .open ∧ ¬ (s.stepInfo n).unreplayable ∧ s.hg.journal.contains w.1 ∧ ¬ (c.opcode = 0x30 ∧ c.stage = .clear) ∧
            c.stage ≠ .failed ∧ c.stage ≠ .refused then some w.1 else none

/-- The record of an uncorrectable or poisoned codeword that leads to a repair or an incomplete step (R308). The unit is the
pseudo-channel; for a store, to which Table 10.5 gives no code, UNIT is 0 and COORD names the hub die (DESIGN CHOICE: log
entry 121). -/
def State.recordLoss (s : State) (q a action step : Nat) : State :=
  match s.rowOfCw (a / 32) with
  | some (st, pch, _) =>
    let n := s.errorCounts (pchUnit st pch)
    s.cper {
      unit := 3, coord := (pchUnit st pch).coord, mechanism := 8, action := action, short := n.1, long := n.2
      syndrome := symbolSyn 0 0 (a / 32), step := step, seq := some q }
  | none => s.cper {
      unit := 0, coord := 0xF0000000, mechanism := 8, action := action, syndrome := symbolSyn 0 0 (a / 32), step := step, seq := some q }

/-- Data at `a` is lost to command `q`, which fails; its step, if still open, becomes incomplete and a record says so. -/
def State.loseData (s : State) (q a : Nat) : State :=
  let s1 := s.failCmd q .uncorrectableMemory a
  match (s.cmd q).bind Cmd.stepOf with
  | some n => if s.resolved n then s1 else s1.recordLoss q a 5 n
  | none => s1

/-- A memory failure found by command `q` (R290): data that a command of a step in progress wrote is written again by a
replay of that command, and `q` runs again after it; otherwise `q` completes with UNCORRECTABLE_MEMORY, or with
HOST_BUS_ERROR for a host access, with the failing address. -/
def State.failMem (s : State) (q : Nat) (f : Nat × Bool) : State :=
  match if f.2 then s.lostWriter f.1 else none with
  | some w => if w = s.repaired q then s.loseData q f.1
    else (((s.taint w).taint q).recordLoss q f.1 0 (((s.cmd w).bind Cmd.stepOf).getD 0)).updCmd (s.repaired q) fun c => { c with
      deps := if c.deps.contains w then c.deps else c.deps ++ [w] }
  | none => if f.2 then s.loseData q f.1 else s.failCmd q .hostBusError f.1

end Sys2Proof.Machine
end

