-- ==== Sys2Proof/Machine/Fmt.lean ====
section
/-!
DEFINITION. Tensors: descriptors and their checks (R322), elements (R29 to R39), scale histories (R185 to R190) and
the conversion of a result into a named tensor (R40 to R51, R193 to R207).
-/
namespace Sys2Proof.Machine

open Sys2Proof

/-! ### Descriptors -/

/-- The fields of 64 descriptor bytes (Table 11.3). -/
def tdOf (l : List Byte) : Td :=
  let u (i n : Nat) : Nat := leNat ((l.drop i).take n)
  { addr := u 0 8, aux := u 8 8, rows := u 16 6, cols := u 24 4, tensor := u 28 4, base := u 32 6, fmt := bitsOf (u 38 1) 0 4,
    rm := bitAt (u 38 1) 4, sat := bitAt (u 38 1) 5, perRow := bitAt (u 38 1) 6, lanes := bitAt (u 38 1) 7,
    top := signedOf (u 39 1) 8, hist := u 40 8, oplane := u 48 8, stride := u 56 8 }

/-- FP4B and INT4B. -/
def Td.four (t : Td) : Bool := t.fmt == 5 || t.fmt == 6
/-- Bytes of one element of a format that is not 4-bit. -/
def fmtBytes (f : Nat) : Nat := if f = 0 then 4 else if f = 1 ∨ f = 2 then 2 else 1
/-- Bytes of a packed row. -/
def Td.packed (t : Td) : Nat := if t.four then t.cols / 2 else t.cols * fmtBytes t.fmt
/-- Bytes from one row to the next. -/
def Td.pitch (t : Td) : Nat := if t.stride = 0 then t.packed else t.stride
/-- Blocks of a 4-bit tensor. -/
def Td.blocks (t : Td) : Nat := t.rows * (t.cols / 32)

/-- Element plane. -/
def Td.elemRange (t : Td) : Nat × Nat := (t.addr, (t.rows - 1) * t.pitch + t.packed)
/-- Scale plane. -/
def Td.scaleRange (t : Td) : List (Nat × Nat) :=
  if t.fmt = 7 then [(t.aux, 4 * (if t.perRow then t.rows else 1))] else if t.four then [(t.aux, t.blocks)] else []
/-- Outlier plane. -/
def Td.laneRange (t : Td) : List (Nat × Nat) := if t.four && t.lanes then [(t.oplane, 4 * t.blocks)] else []
/-- Everything the tensor occupies. -/
def Td.ranges (t : Td) : List (Nat × Nat) := t.elemRange :: (t.scaleRange ++ t.laneRange)
/-- The record that the descriptor names. -/
def Td.histRange (t : Td) : List (Nat × Nat) := if t.hist = 0 then [] else [(t.hist, 128)]

/-- Two tensors have one shape. -/
def Td.sameShape (t u : Td) : Bool := t.rows == u.rows && t.cols == u.cols

/-- The format field of a descriptor, and the rules of R29, R36, R185 and R322. -/
def State.tdGood (s : State) (l : List Byte) : Bool :=
  let t := tdOf l
  leNat ((l.drop 22).take 2) == 0 && t.rows != 0 && t.cols != 0 && decide (t.fmt < 8) &&
  (t.stride == 0 || (!t.four && decide (t.packed ≤ t.stride))) &&
  (!t.lanes || (t.four && t.oplane % 64 == 0)) &&
  (if t.fmt == 7 || t.four then t.aux % 64 == 0 else t.aux == 0) &&
  (!t.four || (t.cols % 32 == 0 && t.addr % 64 == 0)) &&
  (t.hist == 0 || (t.hist % 64 == 0 && !isHost t.hist)) &&
  !(t.ranges ++ t.histRange).any fun r => s.rangeBad r.1 r.2

/-! ### Elements -/

/-- The parameters of a floating-point format code (Table 2.1). -/
def fpOf (f : Nat) : FpParams :=
  match f with
  | 0 => fpFP32
  | 1 => fpBF16
  | 2 => fpFP16
  | 3 => fpE4M3
  | _ => fpE5M2

/-- A valid INT8 scale: positive, finite, normal (R39). -/
def scaleOk (b : Nat) : Bool := decide (0x00800000 ≤ b) && decide (b < 0x7F800000)

/-- Product with a power of two. -/
def Val.scale2 (v : Val) (k : Int) : Val :=
  match v with
  | .fin n m e => .fin n m (e + k)
  | w => w

/-- Lane `k` of an outlier entry: index and value, when valid (R199). -/
def laneOf (e k : Nat) : Option (Nat × Nat) :=
  if bitAt e (16 * k + 15) then some (bitsOf e (16 * k + 8) 5, bitsOf e (16 * k) 8) else none

/-- A block whose lanes make it read as a NaN block (R200). -/
def laneBad (e : Nat) : Bool :=
  (match laneOf e 0, laneOf e 1 with
   | some a, some b => a.1 == b.1
   | _, _ => false) ||
  (match laneOf e 0 with
   | some a => (fpE4M3.decode a.2).isNan
   | none => false) ||
  (match laneOf e 1 with
   | some a => (fpE4M3.decode a.2).isNan
   | none => false)

/-- The outlier entry of block `b`. -/
def State.laneEntry (s : State) (t : Td) (b : Nat) : Nat := if t.lanes then s.rdNat (t.oplane + 4 * b) 4 else 0

/-- Value of a 4-bit element `i` of block `b` (R33, R34, R200). -/
def State.fourVal (s : State) (t : Td) (b i : Nat) : Val :=
  let sc := s.rdNat (t.aux + b) 1
  let ln := s.laneEntry t b
  if sc = 255 ∨ laneBad ln then .nan
  else
    let nib := bitsOf (s.rdNat (t.addr + 16 * b + i / 2) 1) (4 * (i % 2)) 4
    let v : Val := if t.fmt = 5 then fpE2M1.decode nib else
      .fin (decide (8 ≤ nib)) (if nib < 8 then nib else 16 - nib) 0
    let add (v : Val) (k : Nat) : Val := match laneOf ln k with
      | some a => if a.1 = i then v.add (fpE4M3.decode a.2) else v
      | none => v
    (add (add v 0) 1).scale2 ((sc : Int) - 127)

/-- The INT8 scale of row `r`, as FP32 bits (R37). -/
def State.int8Scale (s : State) (t : Td) (r : Nat) : Nat := s.rdNat (t.aux + (if t.perRow then 4 * r else 0)) 4

/-- The stored byte of an INT8 element. -/
def State.int8At (s : State) (t : Td) (r c : Nat) : Int := signedOf (s.rdNat (t.addr + r * t.pitch + c) 1) 8

/-- The exact value of element (r, c). -/
def State.elemVal (s : State) (t : Td) (r c : Nat) : Val :=
  if t.four then s.fourVal t ((r * t.cols + c) / 32) (c % 32)
  else if t.fmt = 7 then
    let sc := s.int8Scale t r
    if scaleOk sc then
      let q := s.int8At t r c
      (Val.fin (decide (q < 0)) q.natAbs 0).mul (fpFP32.decode sc)
    else .nan
  else (fpOf t.fmt).decode (s.rdNat (t.addr + r * t.pitch + c * fmtBytes t.fmt) (fmtBytes t.fmt))

/-- The elements of a tensor in row-major order. -/
def State.tensorVals (s : State) (t : Td) : List Val :=
  (List.range (t.rows * t.cols)).map fun i => s.elemVal t (i / t.cols) (i % t.cols)

/-- Some block of the tensor reads as a NaN block by its lanes (R200). -/
def State.lanesClash (s : State) (t : Td) : Bool :=
  t.four && t.lanes && (List.range t.blocks).any fun b => laneBad (s.laneEntry t b)

/-- A non-finite value. -/
def Val.nonFinite (v : Val) : Bool := !v.isFin

/-- Input conversion of a list (R48). -/
def toF32 (l : List Val) : List F32 := l.map round32V

/-- The input conversion sets the non-finite indication (R45). -/
def nfIn (l : List Val) : Bool := l.any fun v => v.nonFinite || !(val32 (round32V v)).isFin

/-- Split a list into `n` pieces of `k`. -/
def splitRows {α : Type} (k : Nat) : Nat → List α → List (List α)
  | 0, _ => []
  | n + 1, l => l.take k :: splitRows k n (l.drop k)

/-! ### Scale histories -/

/-- The record's fields (Table 7.1). -/
structure Hist where
  maxes : List Nat
  step : Nat
  runStep : Nat
  runMax : Nat
  trouble : Nat
  next : Nat
  count : Nat
  margin : Nat
  span : Nat
  oth : Nat
  isOpen : Bool
  recipe : Bool
  deriving DecidableEq, Repr

def State.histAt (s : State) (a : Nat) : Hist :=
  { maxes := (List.range 16).map fun i => s.rdNat (a + 4 * i) 4
    step := s.rdNat (a + 64) 4, runStep := s.rdNat (a + 68) 4, runMax := s.rdNat (a + 72) 4
    trouble := s.rdNat (a + 76) 2, next := s.rdNat (a + 78) 1 % 16, count := min 16 (s.rdNat (a + 79) 1)
    margin := s.rdNat (a + 80) 1 % 8, span := s.rdNat (a + 81) 1 % 32, oth := s.rdNat (a + 82) 1 % 16
    isOpen := bitAt (s.rdNat (a + 83) 1) 0, recipe := bitAt (s.rdNat (a + 83) 1) 1 }

/-- The 128 bytes of a record. -/
def Hist.bytes (h : Hist) : List Byte :=
  h.maxes.flatMap (natLe 4) ++ natLe 4 h.step ++ natLe 4 h.runStep ++ natLe 4 h.runMax ++ natLe 2 h.trouble ++
    natLe 1 h.next ++ natLe 1 h.count ++ natLe 1 h.margin ++ natLe 1 h.span ++ natLe 1 h.oth ++
    natLe 1 ((if h.isOpen then 1 else 0) + (if h.recipe then 2 else 0)) ++ List.replicate 44 0

def State.putHist (s : State) (a : Nat) (h : Hist) : State := s.wr a h.bytes

/-- The largest valid entry H; none when there is none or it is zero (R187). Finite non-negative FP32 values are ordered
as their bits. -/
def Hist.top (h : Hist) : Option Nat :=
  let m := (h.maxes.take h.count).foldl max 0
  if m = 0 then none else some m

/-- ec of a positive FP32 value. -/
def ec32 (b : Nat) : Int := (fpFP32.decode b).dy.ec

/-- Z, MARGIN, SPAN and OTH of a conversion (R187). -/
def State.rangeOf (s : State) (t : Td) : TopRange :=
  if t.hist = 0 then { z := t.top, margin := 1, span := 12, oth := 1 }
  else
    let h := s.histAt t.hist
    { z := match h.top with
        | some m => ec32 m + h.margin
        | none => t.top
      margin := h.margin, span := h.span, oth := h.oth }

/-- E of an operand with a record (R68, R188). -/
def State.histExp (s : State) (t : Td) : Int :=
  (s.rangeOf t).z - (s.rangeOf t).margin

/-- What the start of a conversion of step `n` makes of its record (R189): none when it is refused. -/
def State.openHist (s : State) (n a : Nat) : Option State :=
  let h := s.histAt a
  if (h.isOpen ∧ h.runStep ≠ n) ∨ (h.count ≠ 0 ∧ n ≤ h.step) then none
  else if h.isOpen then some s
  else some (s.putHist a { h with isOpen := true, runStep := n, runMax := 0, trouble := h.trouble / 2 * 2 })

/-- Open the record of an output, when it names one; a base index off the range tiles is refused (R196). -/
def State.openOut (s : State) (n : Nat) (t : Td) : Option State :=
  if t.four ∧ t.base % (32 * t.cols) ≠ 0 then none
  else if t.hist = 0 then some s else s.openHist n t.hist

/-- Largest finite magnitude of a list as FP32 bits (R189). A magnitude that FP32 does not hold exactly, of an INT8 or 4-bit source
of SCAL APPLY, enters rounded to nearest, at most the largest finite value (DESIGN CHOICE: log entry 150). -/
def maxMag (l : List Val) : Nat :=
  let m := l.foldl (fun (m : Dy) v => if v.isFin ∧ m.lt v.dy.abs then v.dy.abs else m) ⟨0, 0⟩
  min 0x7F7FFFFF (round32 m).toNat

/-! ### Conversion into a named tensor -/

/-- What a conversion produces: the bytes to write, its indications, and what Table 7.7 counts, by element, block or
range tile. -/
structure Conv where
  writes : List (Nat × List Byte)
  nf : Bool
  sat : Bool
  clips : List Nat
  vanished : List Nat
  overflow : List Nat
  trouble : List Nat
  after : List Nat
  deriving DecidableEq, Repr

/-- The rounding of element `i` (R44, R51). -/
def Td.rnd (t : Td) (seed : W64) (step i : Nat) : Rnd :=
  if t.rm then .stoch (draw16 seed t.tensor step (t.base + i)) else .near

/-- Conversion to an integer in `[lo, hi]` with scale 2^x (R43, R44, R49). -/
def intCvt (lo hi : Int) (rnd : Rnd) (v : Val) (x : Int) : Int × Bool :=
  match v with
  | .fin n m e =>
    let nd := scaleQ m 1 e x
    let q : Int := roundQuot rnd nd.1 nd.2
    let q := if n then -q else q
    (clampInt q lo hi, decide (q < lo) || decide (hi < q))
  | .inf n => (if n then lo else hi, false)
  | .nan => (0, false)

/-- Scale exponent of an INT8 destination (Table 7.2). -/
def int8Exp (z : Int) : Int := clampInt (z - 7) (-126) 127

/-- One converted 4-bit block. -/
structure Blk where
  bytes : List Byte
  scale : Nat
  lane : Nat
  nan : Bool
  above : Bool
  clips : List Nat
  vanished : Bool
  deriving DecidableEq, Repr

/-- The smallest integer e with `a ≤ lim * 2^e`, for positive `a` (R198). -/
def minExp (a : Dy) (lim : Nat) : Int :=
  let e := a.ec - (lim.log2 : Int) - 1
  if a.le ⟨lim, e⟩ then e else e + 1

/-- The largest of some magnitudes. -/
def maxDy (l : List Dy) : Dy := l.foldl (fun m a => if m.lt a then a else m) ⟨0, 0⟩

/-- Index of the largest magnitude in a list of (index, magnitude); ties to the lowest index (R197). -/
def largest (l : List (Nat × Dy)) : Option (Nat × Dy) :=
  l.foldl (fun b p => match b with
    | none => some p
    | some q => if q.2.lt p.2 then some p else b) none

/-- R197 to R199: a block of 32 values with top exponent z. `rnd i` is the rounding of element `i` of the block. -/
def blockCvt (fmt : Nat) (lanes : Bool) (z : Int) (span oth : Nat) (rnd : Nat → Rnd) (v : List Val) : Blk :=
  if v.any Val.nonFinite then
    { bytes := List.replicate 16 0, scale := 255, lane := 0, nan := true, above := false, clips := [], vanished := false }
  else
    let iv := (List.range 32).zip (v.map fun x => x.dy.abs)
    let cand := if lanes then iv.filter fun p => (Dy.mk 1 (z - oth)).lt p.2 else []
    let l0 := largest cand
    let l1 := largest (cand.filter fun p => some p.1 != l0.map Prod.fst)
    let taken := l0.toList ++ l1.toList
    let isTaken (i : Nat) : Bool := taken.any fun p => p.1 == i
    let a := maxDy ((iv.filter fun p => !isTaken p.1).map Prod.snd)
    let o := maxDy (taken.map Prod.snd)
    let smax := min (max (z - 3) (-127)) 127
    let smin := max (smax - span) (-127)
    let s1 := if a.m = 0 then smin else max smin (minExp a (if fmt = 5 then 6 else 7))
    let s2 := if o.m = 0 then s1 else max s1 (minExp o 448)
    let sb := min s2 smax
    let conv (i : Nat) : Nat × Bool :=
      if isTaken i then (0, false)
      else if fmt = 5 then
        let r := fpE2M1.cvt true (rnd i) ((v.getD i .nan).scale2 (-sb))
        (r.bits, r.sat)
      else
        let r := intCvt (-8) 7 (rnd i) (v.getD i .nan) sb
        (unsignedOf r.1 4, r.2)
    let el := (List.range 32).map conv
    let lv := taken.map fun p => (p.1, fpE4M3.cvt true (rnd p.1) ((v.getD p.1 .nan).scale2 (-sb)))
    let entry (k : Nat) : Nat := match lv[k]? with
      | some p => if p.2.bits % 128 = 0 then 0 else 0x8000 + p.1 * 256 + p.2.bits
      | none => 0
    { bytes := (List.range 16).map fun j => BitVec.ofNat 8 ((el.getD (2 * j) (0, false)).1 + 16 * (el.getD (2 * j + 1) (0, false)).1)
      scale := (sb + 127).toNat
      lane := entry 0 + 65536 * entry 1
      nan := false
      above := decide (2 < cand.length)
      clips := ((List.range 32).filter fun i => (el.getD i (0, false)).2) ++ (lv.filter fun p => p.2.sat).map Prod.fst
      vanished := iv.any (fun p => p.2.m != 0) &&
        el.all (fun p => if fmt = 5 then p.1 % 8 == 0 else p.1 == 0) && lv.all fun p => p.2.bits % 128 == 0 }

/-- Range tile of block `b` (R195), for `n` blocks in a row. -/
def tileOf (n b : Nat) : Nat := b / n / 32 * ((n + 31) / 32) + b % n / 32

/-- R202. -/
def inTrouble (l : List Blk) : Bool :=
  decide (l.length < 64 * (l.filter Blk.vanished).length) || l.any (fun b => !b.clips.isEmpty) ||
    decide (l.length < 32 * (l.filter Blk.above).length)

/-- Conversion of a whole tensor to a 4-bit format with range `r`, range tile by range tile (R202 to R204). The saturation
indication covers both conversions of a range tile that was replayed (DESIGN CHOICE: log entry 152). -/
def Td.convFour (t : Td) (r : TopRange) (seed : W64) (step : Nat) (vals : List Val) : Conv :=
  let n := t.cols / 32
  let vs := splitRows 32 t.blocks vals
  let cv (z : Int) (b : Nat) : Blk :=
    blockCvt t.fmt t.lanes z r.span r.oth (fun i => t.rnd seed step (32 * b + i)) (vs.getD b [])
  let ids := List.range t.blocks
  let first := ids.map (cv r.z)
  let tiles := (List.range ((t.rows + 31) / 32 * ((n + 31) / 32))).map fun k => (k, ids.filter fun b => tileOf n b == k)
  let bad := tiles.filter fun p => inTrouble (p.2.map fun b => first.getD b (cv r.z b))
  let again (k : Nat) (l : List Nat) : List (Nat × Blk) :=
    let m := maxDy (l.flatMap fun b => (vs.getD b []).map fun v => v.dy.abs)
    let z' := (if m.m = 0 then 0 else m.ec) + max r.margin 1
    l.map fun b => (b, if k = tileOf n b then cv z' b else cv r.z b)
  let second := bad.flatMap fun p => again p.1 p.2
  let final := ids.map fun b => match second.find? fun p => p.1 == b with
    | some p => p.2
    | none => first.getD b (cv r.z b)
  let both := (ids.zip first) ++ second
  { writes := (List.range t.rows).map (fun r =>
        (t.addr + r * t.pitch, ((final.drop (r * n)).take n).flatMap Blk.bytes)) ++
      [(t.aux, final.map fun b => BitVec.ofNat 8 b.scale)] ++
      (if t.lanes then [(t.oplane, final.flatMap fun b => natLe 4 b.lane)] else [])
    nf := final.any Blk.nan
    sat := both.any fun p => !p.2.clips.isEmpty
    clips := both.flatMap fun p => p.2.clips.map (32 * p.1 + ·)
    vanished := (both.filter fun p => p.2.vanished).map Prod.fst
    overflow := (both.filter fun p => p.2.above).map Prod.fst
    trouble := bad.map Prod.fst
    after := (bad.filter fun p => inTrouble ((again p.1 p.2).map Prod.snd)).map Prod.fst }

/-- Conversion of a whole tensor to a format of one value a field (Table 2.5, R193). -/
def Td.convPlain (t : Td) (r : TopRange) (seed : W64) (step : Nat) (vals : List Val) : Conv :=
  let x := int8Exp r.z
  let one (p : Nat × Val) : Nat × Bool × Bool :=
    if t.fmt = 7 then
      let r := intCvt (-127) 127 (t.rnd seed step p.1) p.2 x
      (unsignedOf r.1 8, p.2.nonFinite, r.2)
    else
      let r := (fpOf t.fmt).cvt t.sat (t.rnd seed step p.1) p.2
      (r.bits, r.nf, r.sat)
  let out := ((List.range vals.length).zip vals).map one
  let rows := splitRows t.cols t.rows out
  { writes := ((List.range t.rows).zip rows).map (fun p =>
        (t.addr + p.1 * t.pitch, p.2.flatMap fun e => natLe (fmtBytes t.fmt) e.1)) ++
      (if t.fmt = 7 then
        [(t.aux, (List.replicate (if t.perRow then t.rows else 1) (round32Q false 1 1 x).toNat).flatMap (natLe 4))] else [])
    nf := out.any fun e => e.2.1
    sat := out.any fun e => e.2.2
    clips := ((List.range out.length).zip out).filterMap fun p => if p.2.2.2 then some p.1 else none
    vanished := [], overflow := [], trouble := [], after := [] }

/-- The conversion of `vals` into tensor `t` with the range that its command read when it started (Table 2.5, R187,
R193). -/
def Td.conv (t : Td) (r : TopRange) (seed : W64) (step : Nat) (vals : List Val) : Conv :=
  if t.four then t.convFour r seed step vals else t.convPlain r seed step vals

/-- The die whose vector engine takes item `i` of the work number `n`, where the module divides the work as it chooses
(R501). -/
def freeDie (n i : Nat) : Nat := (Config.freeByte n i).toNat / 64

/-- The die on which each element of a tensor is converted, where the module chooses: a block of a 4-bit format is not
divided (R501). -/
def State.anyDie (s : State) (t : Td) (i : Nat) : Nat := freeDie s.free (if t.four then i / 32 else i)

/-- Count one per listed item on the die that ran it. -/
def State.countOn (s : State) (die : Nat → Nat) (base : Nat) (l : List Nat) : State :=
  l.foldl (fun (t : State) i => t.bump (dieCtr base (die i))) s

/-- Write the pieces of a result. -/
def State.writeAll (s : State) (q : Option Nat) : List (Nat × List Byte) → State
  | [] => s
  | (a, l) :: t => (q.elim ((s.wr a l).traffic q true a l.length) fun k => ((s.wr a l).traffic q true a l.length).noteWrite k a l.length).writeAll q t

/-- The first host destination of a result that fails. -/
def State.writeFail (s : State) (l : List (Nat × Nat)) : Option (Nat × Bool) :=
  s.rdFails (l.filter fun r => isHost r.1)

/-- Read operands: the counters and the traffic (R369, R374, R375). -/
def State.readOperands (s : State) (q : Nat) (l : List (Nat × Nat)) : State :=
  l.foldl (fun (t : State) r => (t.noteReads [r]).traffic (some q) false r.1 r.2) s

/-- Bit pattern of an indication (Table 11.11). -/
def indBit (k : Nat) (b : Bool) : BitVec 16 := if b then BitVec.ofNat 16 (2 ^ k) else 0

/-- An operation residue check of the command is outstanding (R280), on the engine that R501 fixes, if any. -/
def State.addVnCheck (s : State) (q : Nat) (engine : Option (Nat × Nat) := none) : State :=
  let n := (s.mc.vnChecks.filter fun v => v.seq == q).foldl (fun m v => max m (v.index + 1)) 0
  ({ s with mc := { s.mc with vnChecks := { seq := q, index := n, engine := engine } :: s.mc.vnChecks } }).updCmd q fun c =>
    { c with checks := c.checks + 1 }

/-- Operation residue checks of a command on the engines listed, or one on an engine of the module's choice. -/
def State.addVnChecks (s : State) (q : Nat) : List (Nat × Nat) → State
  | [] => s.addVnCheck q
  | l => l.foldl (fun (u : State) e => u.addVnCheck q (some e)) s

/-- First element of range tile `k` (R195). -/
def Td.tileStart (t : Td) (k : Nat) : Nat :=
  let w := (t.cols / 32 + 31) / 32
  k / w * 32 * t.cols + k % w * 1024

/-- The counters, events and indications of a conversion; `die i` is the die that converted element `i`. -/
def State.noteConv (s : State) (q : Nat) (t : Td) (die : Nat → Nat) (v : Conv) : State :=
  let s1 := ((((s.countOn die 0x1C00310 v.clips).countOn (fun b => die (32 * b)) 0x1C00308 v.vanished).countOn
    (fun b => die (32 * b)) 0x1C00318 v.overflow).countOn (fun k => die (t.tileStart k)) 0x1C00320 v.trouble).countOn
    (fun k => die (t.tileStart k)) 0x1C00328 v.after
  let s2 := ((((s1.freeStep.evt (some q) 0x20 (t.rows * t.cols)).evt (some q) 0x21 v.clips.length).evt (some q) 0x22
    v.vanished.length).evt (some q) 0x23 v.overflow.length).evt (some q) 0x24 v.trouble.length
  s2.addCond q (if v.trouble.isEmpty then [] else [.okReplayed])
    (indBit 0 v.nf ||| indBit 1 v.sat ||| indBit 7 (!v.trouble.isEmpty))

/-- Write `vals` to the named tensor `t` for command `q` (Table 2.5, R189, R193, R201 to R207), with the range that the
command read. `pre` are the source elements before any scaling; `die i` converts element `i`; `engines` are the engines
that the conversions run on, where R501 fixes them. A raise of RECIPE counts on the die of element 0 (R206; DESIGN CHOICE: log
entry 151). -/
def State.putTensor (s : State) (c : Cmd) (q : Nat) (t : Td) (r : TopRange) (vals pre : List Val) (die : Nat → Nat)
    (engines : List (Nat × Nat) := []) : State :=
  let v := t.conv r c.seed c.step vals
  let s1 := (((s.writeAll (some q) v.writes).noteConv q t die v).freeStep).addVnChecks q engines
  if t.hist = 0 then s1
  else { s1 with mc := { s1.mc with
    folds := s1.mc.folds ++ [{ seq := q, hist := t.hist, max := maxMag pre, trouble := !v.trouble.isEmpty, die := die 0 }] } }

/-! ### Folding (R189, R206) -/

/-- Number of bits set. -/
def popcount16 (v : Nat) : Nat := ((List.range 16).filter (bitAt v)).length

/-- A command sets RECIPE of the fold's record: OK_FLAGGED, the indication, the count and the note of the cycle. -/
def State.setRecipe (s : State) (f : Fold) : State :=
  let s1 := (s.addCond f.seq [.okFlagged] 4#16).bump (dieCtr 0x1C00330 f.die)
  { s1 with mc := { s1.mc with
    raises := { hist := f.hist, time := s.now, seq := f.seq, die := f.die } :: s1.mc.raises.filter fun x => x.time == s.now && x.hist != f.hist } }

/-- The command that set RECIPE of the record in this cycle gives it up: its count and its OK_FLAGGED go. -/
def State.unsetRecipe (s : State) (x : RecipeRaise) : State :=
  (s.updCmd x.seq fun c =>
    let l := c.conds.erase .okFlagged
    { c with conds := l, ind := if l.contains .okFlagged then c.ind else c.ind &&& 0xFFFB#16 }).bump (dieCtr 0x1C00330 x.die) (2 ^ 64 - 1)

/-- The raise of the fold's record that a command of higher issue number made in this cycle, while its completion record is not
yet written: the one of the lower number takes it over (R206). -/
def State.laterRaise (s : State) (f : Fold) : Option RecipeRaise :=
  s.mc.raises.find? fun x => x.hist == f.hist && x.time == s.now && decide (f.seq < x.seq) && (s.cmd x.seq).any fun c => c.stage == .clear

/-- One fold of a command that becomes clear (R189, R206), its record read; none when the record meets an uncorrectable
codeword. -/
def State.foldOne (s : State) (f : Fold) (step : Nat) : Option State :=
  match s.rdFail f.hist 128 with
  | some _ => none
  | none =>
    let s0 := s.noteReads [(f.hist, 128)]
    let h := s.histAt f.hist
    if ¬ h.isOpen ∨ h.runStep ≠ step then some s0
    else
      let tr := if f.trouble then h.trouble ||| 1 else h.trouble
      let full : Bool := f.trouble && s.recipeCount != 0 && decide (s.recipeCount ≤ popcount16 tr)
      let s1 := s0.putHist f.hist { h with runMax := max h.runMax f.max, trouble := tr, recipe := h.recipe || full }
      some (if ¬ full then s1
        else if ¬ h.recipe then (s1.setRecipe f).arrive 196
        else match s1.laterRaise f with
          | some x => (s1.unsetRecipe x).setRecipe f
          | none => s1)

/-- The folds of a command, one after another; the failing address when a record fails. -/
def State.foldGo (s : State) (step : Nat) : List Fold → State × Option Nat
  | [] => (s, none)
  | f :: t =>
    match s.foldOne f step with
    | some s1 => s1.foldGo step t
    | none =>
      let a := (s.rdFail f.hist 128).elim f.hist Prod.fst
      (s.noteReads [(a, 1)], some a)

/-- HISTORY_FOLD (R189, R285): the folds of command `q`; they are done with. -/
def State.foldAll (s : State) (q step : Nat) : State × Option Nat :=
  ({ s with mc := { s.mc with folds := s.mc.folds.filter (·.seq ≠ q) } }).foldGo step (s.mc.folds.filter (·.seq = q))

end Sys2Proof.Machine
end

