-- ==== Sys2Proof/Machine/Matrix.lean ====
section
/-!
DEFINITION. Exact accumulation (spec/03) and MMUL on the Matrix Cores (spec/06): terms, the block register, the long
accumulator and its tests, anchors, tiles and gangs.
-/
namespace Sys2Proof.Machine

open Sys2Proof

/-! ### Starting a command on its operands -/

/-- Read the structures a command names, check them, check that its operands can be read and its host destinations
written, count the reads, and go on (R290, R322, R333). Accesses to a row that is being copied to a spare row wait (R378). -/
def State.withOperands (s : State) (q : Nat) (structs : List (Nat × Nat)) (good : State → Bool)
    (ops outs : State → List (Nat × Nat)) (k : State → State) : State :=
  if s.heldBack structs then s
  else
  match s.rdFails structs with
  | some f => (s.noteReads [(f.1, 1)]).failMem q f
  | none =>
    if ¬ good s then s.badStruct q
    else if s.heldBack (ops s ++ outs s) then s
    else
      match s.rdFails (ops s) with
      | some f => (s.noteReads [(f.1, 1)]).failMem q f
      | none =>
        match s.writeFail (outs s) with
        | some f => s.failMem q f
        | none => k (s.readOperands q (structs ++ ops s))

/-- The tensor descriptor at an address. -/
def State.tdAt (s : State) (a : Nat) : Td := tdOf (s.rd a 64)
/-- It keeps the rules of R322. -/
def State.tdOk (s : State) (a : Nat) : Bool := s.tdGood (s.rd a 64)

/-! ### Terms -/

/-- The INT8 scale of an operand is factored (R63): it does not change along K. `along` says that stepping the
operand's rows is stepping along K. -/
def Td.factored (t : Td) (along : Bool) : Bool := t.fmt == 7 && (!t.perRow || !along)

/-- The value with which element (r, c) enters a product, its factored scale left out (R63). -/
def State.termVal (s : State) (t : Td) (along : Bool) (r c : Nat) : Val :=
  if t.factored along then
    (if scaleOk (s.int8Scale t r) then .fin (decide (s.int8At t r c < 0)) (s.int8At t r c).natAbs 0 else .nan)
  else s.elemVal t r c

/-- The factored scale of row r, or 1. -/
def State.factorOf (s : State) (t : Td) (along : Bool) (r : Nat) : Dy :=
  if t.factored along ∧ scaleOk (s.int8Scale t r) then (fpFP32.decode (s.int8Scale t r)).dy else ⟨1, 0⟩

/-- The finite non-zero products of a block. -/
def finiteTerms (l : List Val) : List Dy := (l.filter fun v => v.isFin && !v.isZero).map Val.dy

/-- An output element from its products, block by block and partition by partition, and its other terms. -/
def mkElem (row col : Nat) (parts : List (List (List Val))) (extra : List Val) (c : Dy) : Elem :=
  let prods := Acc.ofList (parts.flatMap fun p => p.flatMap id)
  { row := row, col := col, parts := parts.map fun p => p.map finiteTerms
    partFlags := parts.map fun p => Acc.ofList (p.flatMap id), extra := finiteTerms extra
    flags := extra.foldl Acc.push prods, c := c, sum := (c.mul prods.sum).add (Acc.ofList extra).sum }

/-- The blocks of partition `i` of `p` (R167); with no K-fold, one partition has them all. -/
def partition {α : Type} (p : Nat) (blocks : List α) : List (List α) :=
  if p ≤ 1 then [blocks]
  else (List.range p).map fun i =>
    (blocks.drop (i * blocks.length / p)).take ((i + 1) * blocks.length / p - i * blocks.length / p)

/-! ### The block register (R65) and the long accumulator (R66 to R70) -/

/-- Position of the lowest set bit of a positive number. -/
def lowBit (n : Nat) : Nat := (n ^^^ (n - 1)).log2
/-- Exponent of the least significant bit of a non-zero term. -/
def Dy.lsb (a : Dy) : Int := a.e + lowBit a.m.natAbs
/-- Exact sum of a list. -/
def sumDy (l : List Dy) : Dy := l.foldl Dy.add ⟨0, 0⟩

/-- The sub-blocks of one block, each with its low exponent L and its products, in a window of `w` bits (R65). When no product
of the rest lies below the window bound (two INT8 operands whose per-row scales run along K), those at the lowest bit
form the sub-block. -/
def subGroups (w : Int) : Nat → List Dy → List (Int × List Dy)
  | 0, _ => []
  | _, [] => []
  | k + 1, a :: l =>
    let lo := (a :: l).foldl (fun m x => min m x.lsb) a.lsb
    let fits (x : Dy) : Bool := x.abs.lt ⟨1, lo + w⟩
    let isIn (x : Dy) : Bool := fits x || (x.lsb == lo && !(a :: l).any fits)
    (lo, (a :: l).filter isIn) :: subGroups w k ((a :: l).filter fun x => !isIn x)

/-- The block results of one block, one of each sub-block. -/
def subBlocks (w : Int) (n : Nat) (l : List Dy) : List Dy := (subGroups w n l).map fun g => sumDy g.2

/-- N lies in the signed 160-bit range. -/
def in160 (n : Int) : Bool := decide (-(2 ^ 159 : Int) ≤ n) && decide (n < 2 ^ 159)

/-- ec of the quotient of a non-zero dyadic by a positive one. -/
def ecQ (x c : Dy) : Int := ilog2Q x.m.natAbs c.m.natAbs + x.e - c.e + 1
/-- `x / (c * 2^f)` as a numerator and a positive denominator. -/
def overQ (x c : Dy) (f : Int) : Int × Nat :=
  let k := x.e - c.e - f
  if 0 ≤ k then (shlInt x.m k.toNat, c.m.natAbs) else (x.m, c.m.natAbs * 2 ^ (-k).toNat)

/-- One term `x / c` enters at position `pos` (R67, R69); c is 1 but for a term that the factored scale does not
multiply. -/
def LongAcc.add (a : Int) (y : LongAcc) (pos : Nat) (x : Dy) (c : Dy := ⟨1, 0⟩) : LongAcc :=
  if y.above.isSome ∨ x.m = 0 then y
  else if a + 17 ≤ ecQ x c then { y with above := some (pos, ecQ x c) }
  else
    let nd := overQ x c (a - 128)
    let n := y.n + nd.1 / (nd.2 : Int)
    if ¬ in160 n then { y with above := some (pos, a + 31) }
    else
      { n := n, t := y.t + (if nd.1 % (nd.2 : Int) = 0 then 0 else 1),
        emax := some (match y.emax with | none => ecQ x c | some e => max e (ecQ x c)), above := none }

/-- Block times that each block of partition `k` takes on the tile's cores: every cell streams the same block, and a block
takes one block time for each sub-block of the element that needs most (R65, R165). -/
def blockTimes (w : Int) (es : List Elem) (k : Nat) : List Nat :=
  es.foldl (fun m e =>
    let l := (e.parts.getD k []).map fun b => max 1 (subBlocks w b.length b).length
    (List.range (max m.length l.length)).map fun i => max (m.getD i 0) (l.getD i 0)) []

/-- The block time at which each block of a partition begins. -/
def starts (l : List Nat) : List Nat := (List.range l.length).map fun i => (l.take i).sum

/-- One partition: its blocks in order, each through the block register, sub-block after sub-block; `st` are the block
times at which its blocks begin. -/
def runPart (a w : Int) (st : List Nat) (p : List (List Dy)) : LongAcc :=
  ((List.range p.length).zip p).foldl (fun x b =>
    let l := subBlocks w b.2.length b.2
    ((List.range l.length).zip l).foldl (fun x t => x.add a (st.getD b.1 0 + t.1) t.2) x) LongAcc.empty

/-- Two overflows: the earlier one stops the pass, at one time the larger exponent is taken (R77). -/
def worseOver (x y : Option (Nat × Int)) : Option (Nat × Int) :=
  match x, y with
  | none, y => y
  | x, none => x
  | some a, some b => if a.1 < b.1 then some a else if b.1 < a.1 then some b else some (a.1, max a.2 b.2)

/-- Combination at the home cluster (R76). -/
def LongAcc.join (a : Int) (pos : Nat) (x y : LongAcc) : LongAcc :=
  match worseOver x.above y.above with
  | some o => { x with above := some o }
  | none =>
    if ¬ in160 (x.n + y.n) then { x with above := some (pos, a + 31) }
    else
      { n := x.n + y.n, t := x.t + y.t
        emax := match x.emax, y.emax with
          | none, e => e
          | e, none => e
          | some e, some f => some (max e f)
        above := none }

/-- Block times of a pass: those of its longest partition. -/
def passTime (bt : List (List Nat)) : Nat := (bt.map List.sum).foldl max 0

/-- What the cells of an element hold after the last term of one pass at anchor `a`, partition by partition (R64, R67, R167).
`bt` are the block times of the tile's partitions. -/
def Elem.cells (e : Elem) (a w : Int) (bt : List (List Nat)) : List CellAcc :=
  ((List.range e.parts.length).zip (e.parts.zip e.partFlags)).map fun p => {
    acc := runPart a w (starts (bt.getD p.1 [])) p.2.1
    nan := p.2.2.nan, pinf := p.2.2.pinf, ninf := p.2.2.ninf, allNegZero := p.2.2.allNegZero }

/-- The combination of an element's cells at the home cluster (R76), in the order of the partitions, and then the terms that are
no products of the two operands, one by one (DESIGN CHOICE: log entries 108, 109). -/
def Elem.combine (e : Elem) (a : Int) (bt : List (List Nat)) (cs : List CellAcc) : LongAcc :=
  ((List.range e.extra.length).zip e.extra).foldl (fun x t => x.add a (passTime bt + 1 + t.1) t.2 e.c)
    ((cs.map CellAcc.acc).foldl (LongAcc.join a (passTime bt)) LongAcc.empty)

/-- R70 on a completed pass. -/
def Elem.cancelOk (e : Elem) (a : Int) (x : LongAcc) : Bool :=
  let lo := round32 (e.c.mul ⟨x.n, a - 128⟩)
  let hi := round32 (e.c.mul ⟨x.n + x.t, a - 128⟩)
  x.t == 0 || (lo == hi && !(val32 lo).isZero)

/-- Outcome of a tile pass; an overflow may come after the last term of the pass, in a combining addition. -/
inductive PassEnd where
  | good
  | overflow (eo : Int) (late : Bool)
  | cancel (emax : Int)
  deriving DecidableEq, Repr

/-- Width of the block register's window (R65). -/
def Tile.window (t : Tile) : Int := if t.wide then 58 else 42

/-- Block times of the tile's partitions. -/
def Tile.times (t : Tile) : List (List Nat) :=
  (List.range ((t.elems.map fun e => e.parts.length).foldl max 0)).map (blockTimes t.window t.elems)

/-- What the accumulator sets of the tile's cells hold at the end of a pass (R62, R64, R162). -/
def Tile.runPass (t : Tile) : List (List CellAcc) := t.elems.map fun e => e.cells t.anchor t.window t.times

/-- The long accumulators of a tile's elements, combined from its cells (R76). -/
def Tile.combined (t : Tile) (cs : List (List CellAcc)) : List LongAcc :=
  (t.elems.zip cs).map fun p => p.1.combine t.anchor t.times p.2

/-- R69, R70, R77 over the accumulator sets of a tile's cells. In K-fold an overflow at or after the pass's last block time lies
in a combining addition (R76). -/
def Tile.judge (t : Tile) (cs : List (List CellAcc)) : PassEnd :=
  let xs := t.combined cs
  match (xs.map LongAcc.above).foldl worseOver none with
  | some o => .overflow o.2 (decide (2 ≤ t.p) && decide (passTime t.times ≤ o.1))
  | none =>
    if (t.elems.zip xs).all fun p => p.1.cancelOk t.anchor p.2 then .good
    else match xs.filterMap LongAcc.emax with
      | [] => .cancel (t.anchor + 15)
      | e :: es => .cancel (es.foldl max e)

/-- Outcome of one pass of a tile. -/
def Tile.pass (t : Tile) : PassEnd := t.judge t.runPass

/-- A tile that waits for its first pass, its cells' accumulators cleared. -/
def newTile (seq index block die cluster p : Nat) (inner wide : Bool) (anchor : Int) (elems : List Elem) : Tile :=
  { seq := seq, index := index, block := block, inner := inner, die := die, cluster := cluster, wide := wide, p := p
    corner := (0, 0), anchor := anchor, moves := 0, stage := .waiting, abandoned := false, elems := elems
    running := elems.map fun e => e.parts.map fun _ => CellAcc.empty
    testing := elems.map fun e => e.parts.map fun _ => CellAcc.empty, spares := [] }

/-- The value of an element (R61): its flags and its exact sum decide. -/
def Elem.value (e : Elem) : F32 := ({ e.flags with sum := e.sum }).result

/-! ### Anchors (R68) -/

/-- Largest valid scale among those of the given rows of an INT8 operand, as FP32 bits; 0 when none is valid. -/
def State.maxScale (s : State) (t : Td) (rows : List Nat) : Nat :=
  (rows.map (s.int8Scale t)).foldl (fun m x => if scaleOk x then max m x else m) 0

/-- ec(127 × s_max), or 7 without a valid scale. -/
def scaleExp (m : Nat) : Int := if m = 0 then 7 else ((Dy.mk 127 0).mul (fpFP32.decode m).dy).ec

/-- E of an operand whose first element in the tile is (r, c); `ks` are its rows that the tile's range of K uses. -/
def State.operandExp (s : State) (t : Td) (along : Bool) (ks : List Nat) (r c : Nat) : Int :=
  if t.factored along then 7
  else if t.hist ≠ 0 then s.histExp t
  else
    match t.fmt with
    | 0 => 128
    | 1 => 128
    | 2 => 16
    | 3 => 9
    | 4 => 16
    | 5 => (s.rdNat (t.aux + (r * t.cols + c) / 32) 1 : Int) - 124
    | 6 => (s.rdNat (t.aux + (r * t.cols + c) / 32) 1 : Int) - 123
    | _ => scaleExp (s.maxScale t ks)

/-! ### MMUL (R177) -/

/-- An MMUL's operands and form (Table 11.4). -/
structure Mmul where
  a : Td
  b : Td
  c : Td
  ta : Bool
  tb : Bool
  acc : Bool
  side : Nat
  p : Nat
  home : Nat
  deriving DecidableEq, Repr

def State.mmul (s : State) (c : Cmd) : Mmul :=
  { a := s.tdAt (c.u 16 8), b := s.tdAt (c.u 24 8), c := s.tdAt (c.u 32 8), ta := bitAt (c.u8 43) 1, tb := bitAt (c.u8 43) 2,
    acc := bitAt (c.u8 43) 0, side := 2 ^ (c.u8 40 % 4), p := c.u8 41, home := c.u8 42 % 128 }

def Mmul.m (x : Mmul) : Nat := if x.ta then x.a.cols else x.a.rows
def Mmul.k (x : Mmul) : Nat := if x.ta then x.a.rows else x.a.cols
def Mmul.n (x : Mmul) : Nat := if x.tb then x.b.rows else x.b.cols

/-- The shapes agree. -/
def Mmul.shapeOk (x : Mmul) : Bool :=
  x.k == (if x.tb then x.b.cols else x.b.rows) && x.c.rows == x.m && x.c.cols == x.n

/-- Element (i, k) of A and (k, j) of B with their factored scales left out. -/
def State.mmulA (s : State) (x : Mmul) (i k : Nat) : Val := if x.ta then s.termVal x.a true k i else s.termVal x.a false i k
def State.mmulB (s : State) (x : Mmul) (k j : Nat) : Val := if x.tb then s.termVal x.b false j k else s.termVal x.b true k j
def State.factorA (s : State) (x : Mmul) (i : Nat) : Dy := if x.ta then s.factorOf x.a true 0 else s.factorOf x.a false i
def State.factorB (s : State) (x : Mmul) (j : Nat) : Dy := if x.tb then s.factorOf x.b false j else s.factorOf x.b true 0

/-- Element (i, j) of the product, with the existing value of C when it is accumulated: a term of the real sum, which
the factored scale does not multiply. -/
def State.mmulElem (s : State) (x : Mmul) (i j : Nat) (prior : List Val) : Elem :=
  let prods := (List.range x.k).map fun k => (s.mmulA x i k).mul (s.mmulB x k j)
  mkElem i j (partition x.p (splitRows 32 ((x.k + 31) / 32) prods)) prior ((s.factorA x i).mul (s.factorB x j))

/-- The tile shape (R165, R167). -/
def Mmul.tileSide (x : Mmul) : Nat := if 2 ≤ x.p then 8 else 8 * x.side

/-- The tiles of an MMUL, row by row of tiles. -/
def State.mmulTiles (s : State) (x : Mmul) (q : Nat) (prior : Nat → Nat → List Val) : List Tile :=
  let t := x.tileSide
  let tn := (x.n + t - 1) / t
  (List.range ((x.m + t - 1) / t * tn)).map fun n =>
    let i0 := n / tn * t
    let j0 := n % tn * t
    newTile q n 0 (x.home / 32) (x.home % 32) x.p false (x.a.fmt == 0 || x.b.fmt == 0)
      (s.operandExp x.a x.ta (List.range x.a.rows) (if x.ta then 0 else i0) (if x.ta then i0 else 0) +
        s.operandExp x.b (!x.tb) (List.range x.b.rows) (if x.tb then j0 else 0) (if x.tb then 0 else j0) + 8)
      ((List.range (min t (x.m - i0))).flatMap fun i =>
        (List.range (min t (x.n - j0))).map fun j => s.mmulElem x (i0 + i) (j0 + j) (prior (i0 + i) (j0 + j)))

/-- The existing values that a command accumulates into: those its first run read, when it is run again (R288). -/
def State.priorOf (s : State) (q : Nat) (acc : Bool) (t : Td) : List (List Val) :=
  if ¬ acc then []
  else
    match s.mc.works.find? fun w => w.seq == q with
    | some w => splitRows t.cols t.rows w.prior
    | none => splitRows t.cols t.rows (s.tensorVals t)

/-- The prior value of one element, as a list of terms. -/
def priorAt (l : List (List Val)) (i j : Nat) : List Val := ((l[i]?).bind fun r => r[j]?).toList

/-- Tiles of command `q` are set up, in place of those of an earlier run. -/
def State.setTiles (s : State) (w : Work) (l : List Tile) : State :=
  { s with mc := { s.mc with
    works := w :: s.mc.works.filter (·.seq ≠ w.seq)
    tiles := s.mc.tiles.filter (·.seq ≠ w.seq) ++ l } }

/-- MMUL: operands are read, and its tiles wait for a gang on the home cluster. -/
def State.runMmul (s : State) (q : Nat) : State :=
  match s.runnable q 0x18 with
  | none => s
  | some c =>
    let tds := [c.u 16 8, c.u 24 8, c.u 32 8]
    s.withOperands q (tds.map fun a => (a, 64))
      (fun s => tds.all s.tdOk && (s.mmul c).shapeOk && ((s.openOut c.step (s.mmul c).c).isSome))
      (fun s => let x := s.mmul c; x.a.ranges ++ x.b.ranges ++ (if x.acc then x.c.ranges else []) ++ x.a.histRange ++ x.b.histRange ++ x.c.histRange)
      (fun s => (s.mmul c).c.ranges)
      fun s =>
        let x := s.mmul c
        let prior := s.priorOf q x.acc x.c
        let tiles := s.mmulTiles x q (priorAt prior)
        let w : Work := {
          seq := q, out := x.c, range := s.rangeOf x.c, tiles := tiles.length, side := x.side, blocks := 1, values := []
          prior := prior.flatten, die := x.home / 32, cluster := x.home % 32, homes := [], attn := none }
        let nf := s.lanesClash x.a || s.lanesClash x.b || (x.acc && s.lanesClash x.c)
        ((((s.openOut c.step x.c).getD s).setTiles w tiles).addCond q [] (indBit 0 nf)).updCmd q
          fun c => { c with stage := .running }

def execMmul (q : Nat) (s : State) : Out := .next (s.runMmul q)

/-! ### Issue ramps (R171 to R173) -/

def clusterKey (die cluster : Nat) : Nat := 32 * die + cluster

/-- Stage of a cluster; the issue ceiling, which the governor sets alike for every cluster (R173, R442). -/
def State.stageOf (s : State) (k : Nat) : Nat := Tab.get (fun _ => 0) s.mc.stage k
def State.creditOf (s : State) (k : Nat) : Nat := Tab.get (fun _ => 0) s.mc.credit k
def State.rampOf (s : State) (k : Nat) : Option (Bool × Nat) := Tab.get (fun _ => none) s.mc.ramp k
def State.ceiling (s : State) : Nat := max 1 (s.ld.ceilingMC - s.ld.stepsMC)

/-- Stage, credit counter and ramp of cluster `k` after a change; the counter is 0 whenever the stage is (R171). -/
def State.putStage (s : State) (k stage credit : Nat) (ramp : Option (Bool × Nat)) : State :=
  { s with mc := { s.mc with
    stage := Tab.set (fun _ => 0) s.mc.stage k stage
    credit := Tab.set (fun _ => 0) s.mc.credit k (if stage = 0 then 0 else credit)
    ramp := Tab.set (fun _ => none) s.mc.ramp k ramp } }

/-- Work arrives at a cluster: a stage of 0 becomes 1 in that cycle (R172). -/
def State.workArrives (s : State) (k : Nat) : State :=
  if s.stageOf k = 0 then s.putStage k 1 0 (some (true, s.rampUp)) else s

/-! ### Gangs (R164) -/

/-- The block of command `q` that waits for a gang: its lowest one without (R164). -/
def State.wantsGang (s : State) (q : Nat) : Option (Work × Nat) :=
  match s.mc.works.find? fun w => w.seq == q, s.cmd q with
  | some w, some c =>
    if w.side = 0 ∨ c.stage ≠ .running ∨ c.tainted then none
    else ((List.range w.blocks).find? fun b => (Tab.get (fun _ => 128) w.homes b == 128) &&
      s.mc.tiles.any fun t => t.seq == q && t.block == b).map fun b => (w, b)
  | _, _ => none

/-- Two squares of cores share one. -/
def squaresMeet (r c n r' c' n' : Nat) : Bool :=
  decide (r < r' + n') && decide (r' < r + n) && decide (c < c' + n') && decide (c' < c + n)

/-- A square of `g` cores at (r, c) of a cluster is free: no gang of a command that still runs lies in it. -/
def State.squareFree (s : State) (die cluster r c g : Nat) : Bool :=
  decide (r + g ≤ 8) && decide (c + g ≤ 8) &&
    !s.mc.gangs.any fun h => (s.cmd h.seq).any (fun d => d.stage == .running) && h.die == die && h.cluster == cluster && squaresMeet r c g h.row h.col h.side

/-- A command may use a cluster: MMUL its home cluster, ATTN any whose ready bit is set. -/
def State.mayUse (s : State) (w : Work) (die cluster : Nat) : Bool :=
  if w.attn.isSome then s.readyKey (300 + clusterKey die cluster) else w.die == die && w.cluster == cluster

/-- GANG_ALLOCATE (R164): in issue order among the commands that wait for a gang of the cluster, at the free origin
(r, c) that the command processors choose. -/
def State.gangAllocate (s : State) (q die cluster r c : Nat) : State :=
  match s.wantsGang q with
  | none => s
  | some (w, b) =>
    let earlier := s.mc.works.any fun v => decide (v.seq < q) && (s.wantsGang v.seq).isSome && s.mayUse v die cluster
    if earlier ∨ ¬ s.mayUse w die cluster ∨ ¬ s.squareFree die cluster r c w.side then s
    else
      let g : Gang := { seq := q, block := b, die := die, cluster := cluster, row := r, col := c, side := w.side }
      let s1 : State := { s with mc := { s.mc with
        gangs := g :: s.mc.gangs
        works := s.mc.works.map fun v =>
          if v.seq = q then { v with homes := Tab.set (fun _ => 128) v.homes b (clusterKey die cluster) } else v
        tiles := s.mc.tiles.map fun t =>
          if t.seq = q ∧ t.block = b then { t with die := die, cluster := cluster, corner := (r, c) } else t } }
      s1.workArrives (clusterKey die cluster)

def execGangAllocate (q : Nat) (x : ClusterId) (corner : Corner) (s : State) : Out :=
  .next (s.gangAllocate q x.die.val x.cluster.val corner.row.val corner.col.val)

/-! ### Tile passes (R69 to R73) -/

def State.tile (s : State) (q n : Nat) : Option Tile := s.mc.tiles.find? fun t => t.seq == q && t.index == n

def State.setTile (s : State) (t : Tile) : State :=
  { s with mc := { s.mc with
    tiles := s.mc.tiles.map fun u => if u.seq = t.seq ∧ u.index = t.index then t else u } }

/-- The gang that a tile runs on. -/
def State.gangOf (s : State) (t : Tile) : Option Gang := s.mc.gangs.find? fun g => g.seq == t.seq && g.block == t.block

/-- The tile has left its cores. -/
def Tile.left (t : Tile) : Bool := t.stage == .delivered || t.stage == .checked

/-- The tile whose pass the cores run: its command is running, its cluster issues, and, when it needs a gang, its block
holds one on which every earlier tile has been delivered. -/
def State.tileRunning (s : State) (q n : Nat) : Option Tile :=
  match s.tile q n, s.cmd q, s.mc.works.find? fun w => w.seq == q with
  | some t, some c, some w =>
    let turn := (s.gangOf t).isSome &&
      s.mc.tiles.all fun u => u.seq != q || u.block != t.block || decide (n ≤ u.index) || u.left
    if c.stage = .running ∧ ¬ c.tainted ∧ 0 < s.stageOf (clusterKey t.die t.cluster) ∧ (w.side = 0 ∨ turn) then some t else none
  | _, _, _ => none

/-- Issue cycles that carried work (Table 6.4, Table 14.1). -/
def State.countIssue (s : State) (q die n : Nat) : State := (s.bump (dieCtr 0x1800310 die) n).evt (some q) 0x01 n

/-- Die and engine ⌊c/2⌋ of a cluster `32 d + c` (R501). -/
def engineOf (k : Nat) : Nat × Nat := (k / 32, k % 32 / 2)

/-- An output of attention is converted on the engines of its query blocks' clusters; key rows, to which every query block
adds, on that of the last one (R501; DESIGN CHOICE for the key rows: log entry 118). -/
def State.putAttn (s : State) (c : Cmd) (w : Work) (o : AttnOut) : State :=
  let home (b : Nat) : Nat := Tab.get (fun _ => 128) w.homes b
  let die (i : Nat) : Nat := home (if o.byQuery then i / o.td.cols / 256 else w.blocks - 1) / 32
  s.putTensor c w.seq o.td o.range o.vals o.vals die
    (if o.byQuery then (List.range w.blocks).map fun b => engineOf (home b) else [engineOf (home (w.blocks - 1))])

/-- The result of a command whose tiles are all delivered: conversion and write, and delivery (R61, R283). -/
def State.finishWork (s : State) (w : Work) : State :=
  match s.cmd w.seq with
  | none => s
  | some c =>
    match w.attn with
    | some x => ((x.outs.foldl (fun (u : State) o => u.putAttn c w o) s).writeAll (some w.seq) x.stats).deliver w.seq
    | none =>
      let at_ (i j : Nat) : Val := match w.values.find? fun v => v.1 == i && v.2.1 == j with
        | some v => val32 v.2.2
        | none => .fin false 0 0
      let vals := (List.range (w.out.rows * w.out.cols)).map fun i => at_ (i / w.out.cols) (i % w.out.cols)
      let engines := ((s.mc.tiles.filter fun t => t.seq == w.seq && !t.inner).map fun t =>
        engineOf (clusterKey t.die t.cluster)).eraseDups
      (s.putTensor c w.seq w.out w.range vals vals (fun _ => w.die) engines).deliver w.seq

/-- Every tile of a block has been delivered: its gang is free, and what attention counts for a query block is counted
(R181, R183, R47). -/
def State.endBlock (s : State) (w : Work) (t : Tile) : State :=
  let s1 : State := { s with mc := { s.mc with gangs := s.mc.gangs.filter fun g => g.seq ≠ t.seq ∨ g.block ≠ t.block } }
  match w.attn with
  | none => s1
  | some x =>
    let rep := x.replays.getD t.block 0
    let emp := x.empties.getD t.block 0
    let clip := x.clips.getD t.block 0
    let s2 := ((s1.bump (dieCtr 0x1800330 t.die) rep).bump (dieCtr 0x1800338 t.die) emp).bump (dieCtr 0x1C00310 t.die) clip
    ((s2.evt (some t.seq) 0x07 rep).evt (some t.seq) 0x08 emp).evt (some t.seq) 0x21 clip

/-- An entry of the spare map is an array's: spare arrays are numbered from 256, spare cores are 64 and 65. -/
def isArrayEntry (p : Nat × Nat) : Bool := decide (256 ≤ p.2 % 2 ^ 16)

/-- The spares at work among a cluster's cores: retired core and spare (R305). -/
def State.coreSpares (s : State) (die cluster : Nat) : List (Nat × Nat) :=
  s.im.spareMap.filter fun p => !isArrayEntry p && p.1 / 2 ^ 28 == die && p.1 / 2 ^ 16 % 4096 == cluster

/-- A tile delivers its result, which is provisional until its check (R81). A tile that was abandoned on the same cores
starts again from its first block (R168). -/
def State.deliverTile (s : State) (t : Tile) : State :=
  let s1 := (((s.setTile { t with stage := .delivered, spares := s.coreSpares t.die t.cluster }).bump (dieCtr 0x1800320 t.die)).evt (some t.seq) 0x03 1).updCmd t.seq
    fun c => { c with checks := c.checks + 1 }
  let s2 : State := { s1 with mc := { s1.mc with
    tiles := s1.mc.tiles.map fun u => if u.seq = t.seq ∧ u.block = t.block then { u with abandoned := false } else u
    works := s1.mc.works.map fun w =>
      if w.seq = t.seq ∧ ¬ t.inner then { w with values := w.values ++ t.elems.map fun e => (e.row, e.col, e.value) } else w } }
  match s2.mc.works.find? fun w => w.seq == t.seq with
  | some w =>
    let s3 := if s2.mc.tiles.all fun u => u.seq ≠ t.seq ∨ u.block ≠ t.block ∨ u.left then s2.endBlock w t else s2
    if s3.mc.tiles.all fun u => u.seq ≠ t.seq ∨ u.left then s3.finishWork w else s3
  | none => s2

/-- The next tile of the same gang, whose pass is running when a test fails after the last term, is abandoned, unless it
has been and waits for the failed tile's delivery (R168). -/
def State.abandonNext (s : State) (t : Tile) : State :=
  match (s.gangOf t).bind fun _ => s.mc.tiles.find? fun u => u.seq == t.seq && u.block == t.block && u.index == t.index + 1 with
  | some u =>
    if u.abandoned then s
    else ((s.setTile { u with abandoned := true }).bump (dieCtr 0x1800328 t.die)).evt (some t.seq) 0x06 1
  | none => s

/-- A failed pass: at most two anchor moves, then the slow path (R71, R72). -/
def State.moveAnchor (s : State) (t : Tile) (a : Int) : State :=
  if t.moves < 2 then
    ((s.setTile { t with anchor := a, moves := t.moves + 1 }).bump (dieCtr 0x1800300 t.die)).evt (some t.seq) 0x04 1
  else s.setTile { t with stage := .slow }

/-- A tile pass ended: a record in the Logbook of its die, with the outcome 0 delivered, 1 overflow, 2 cancellation (R393; log
entry 157). -/
def State.logPass (s : State) (t : Tile) (e : PassEnd) : State :=
  let o := match e with
    | .good => 0
    | .overflow _ _ => 1
    | .cancel _ => 2
  s.logFor t.die (t.die * 2 ^ 28 + t.cluster * 2 ^ 16 + 8 * t.corner.1 + t.corner.2) 0x11 (some t.seq)
    (unsignedOf t.anchor 16 + o * 2 ^ 16)

/-- TILE_PASS_END (R69 to R72): the accumulator sets of the pass change places with those under test, which are clear
again (R162). -/
def State.passEnd (s : State) (q n issued : Nat) : State :=
  match s.tileRunning q n with
  | none => s
  | some t =>
    if t.stage ≠ .waiting then s
    else
      let s0 := s.countIssue q t.die issued
      let u : Tile := { t with testing := t.runPass, running := t.elems.map fun e => e.parts.map fun _ => CellAcc.empty }
      let s1 := s0.logPass u (u.judge u.testing)
      match u.judge u.testing with
      | .good => s1.deliverTile u
      | .overflow eo late => (if late then s1.abandonNext u else s1).moveAnchor u eo
      | .cancel emax =>
        let s2 := s1.abandonNext u
        if emax - 15 < u.anchor then s2.moveAnchor u (emax - 15) else s2.setTile { u with stage := .slow }

def execTilePassEnd (q n issued : Nat) (s : State) : Out := .next (s.passEnd q n issued)

/-- SLOW_PATH_END (R73): the exact sum delivers. -/
def State.slowEnd (s : State) (q n issued : Nat) : State :=
  match s.tileRunning q n with
  | none => s
  | some t =>
    if t.stage ≠ .slow then s
    else (((s.countIssue q t.die issued).bump (dieCtr 0x1800308 t.die)).evt (some q) 0x05 1).deliverTile t

def execSlowPathEnd (q n issued : Nat) (s : State) : Out := .next (s.slowEnd q n issued)

end Sys2Proof.Machine
end

