-- ==== Sys2Proof/Machine/Vector.lean ====
section
/-!
DEFINITION. The Vector and Numerics Unit: VECT (R332), NORM (R58), SMAX (R57) and SCAL (R186, R190, R194, R206).
-/
namespace Sys2Proof.Machine

open Sys2Proof

/-! ### Sums in the unit (R79) -/

/-- The exact sum of `l` divided by `n` is recomputed on the slow path: an addition overflows, or the cancellation test
fails. -/
def vnSlow (l : List Val) (n : Nat := 1) : Bool :=
  let ts := finiteTerms l
  match ts with
  | [] => false
  | t :: _ =>
    let a := (ts.foldl (fun m x => max m x.ec) t.ec) - 15
    let x := ((List.range ts.length).zip ts).foldl (fun y p => y.add a p.1 p.2) LongAcc.empty
    let q (v : Int) : F32 := if v = 0 then zero32 else round32Q (decide (v < 0)) v.natAbs n (a - 128)
    x.above.isSome || (x.t != 0 && !(q x.n == q (x.n + x.t) && !(val32 (q x.n)).isZero))

/-- Counting of slow sums, row by row: the row's engine is the module's choice (R501). -/
def State.noteSlow (s : State) (q : Nat) (rows : List Nat) : State :=
  ((s.countOn (freeDie s.free) 0x1C00300 rows).freeStep).evt (some q) 0x25 rows.length

/-- The rows (numbered) for which some sum is slow. -/
def slowRows (l : List (List (List Val × Nat))) : List Nat :=
  ((List.range l.length).zip l).flatMap fun p => (p.2.filter fun x => vnSlow x.1 x.2).map fun _ => p.1

/-- Values of FP32 words. -/
def vals32 (l : List F32) : List Val := l.map val32
/-- Exact products of two lists. -/
def prods (a b : List F32) : List Val := List.zipWith (fun x y => (val32 x).mul (val32 y)) a b

/-! ### Elementwise operations (Table 11.5) -/

/-- MAX. -/
def vmax (a b : F32) : F32 :=
  let x := val32 a
  let y := val32 b
  if x.isNan || y.isNan then nan32
  else if x.isZero && y.isZero then (if x.sign && y.sign then a else zero32)
  else if x.gt y then a else b

/-- `a > 0`. -/
def positive (a : F32) : Bool := (val32 a).gt (.fin false 0 0)

/-- RELU and RELU_GRAD. -/
def vrelu (a y : F32) : F32 := if (val32 a).isNan then nan32 else if positive a then y else zero32

/-- σ of SILU. -/
def sigma (a : F32) : F32 := frecip (fadd one32 (fexp (fneg a)))

/-- An elementwise operation. -/
def vectElem (op : Nat) (al be a b : F32) : F32 :=
  match op with
  | 0x00 => round32V (val32 a)
  | 0x01 => fadd a b
  | 0x02 => fsub a b
  | 0x03 => fmul a b
  | 0x04 => ffma al a (fmul be b)
  | 0x05 => vmax a b
  | 0x06 => vrelu a a
  | 0x07 => vrelu a (round32V (val32 b))
  | 0x08 => fmul a (sigma a)
  | _ => fmul b (fmul (sigma a) (ffma a (fsub one32 (sigma a)) one32))

/-- One per row of n: the exact sum of `l` divided by n, rounded once. -/
def meanOf (l : List Val) (n : Nat) : F32 := exactSum l n

/-- inv of root-mean-square mode (R58). -/
def rmsInv (x : List F32) (eps : F32) : F32 := frsqrt (fadd (meanOf (prods x x) x.length) eps)

/-- d_i of layer mode (R58). -/
def centred (x : List F32) : List F32 := x.map fun v => fsub v (meanOf (vals32 x) x.length)
/-- inv of layer mode (R58). -/
def layerInv (x : List F32) (eps : F32) : F32 :=
  frsqrt (fadd (meanOf (prods (centred x) (centred x)) x.length) eps)

/-- RMSN_GRAD. -/
def rmsnGrad (x dy g : List F32) (eps : F32) : List F32 :=
  let inv := rmsInv x eps
  let t := List.zipWith fmul dy g
  let k := fmul (meanOf (prods t x) x.length) (fmul inv inv)
  List.zipWith (fun ti xi => fmul inv (fsub ti (fmul xi k))) t x

/-- LNORM_GRAD. -/
def lnormGrad (x dy g : List F32) (eps : F32) : List F32 :=
  let inv := layerInv x eps
  let d := centred x
  let t := List.zipWith fmul dy g
  let s1 := meanOf (vals32 t) x.length
  let k := fmul (meanOf (prods t d) x.length) (fmul inv inv)
  List.zipWith (fun ti di => fmul inv (fsub (fsub ti s1) (fmul di k))) t d

/-- RMAX. -/
def rowMax (a : List F32) : F32 := if a.any fun x => (val32 x).isNan then nan32 else maxVal (a.map fun x => round32V (val32 x))

/-- One output row. -/
def vectRow (op : Nat) (al be : F32) (a b c : List F32) : List F32 :=
  match op with
  | 0x0A => [exactSum (vals32 a)]
  | 0x0B => [rowMax a]
  | 0x0C => rmsnGrad a b c al
  | 0x0D => lnormGrad a b c al
  | _ => (List.range a.length).map fun i => vectElem op al be (a.getD i 0) (b.getD i 0)

/-- The exact sums that a row operation forms, with their divisors. -/
def vectSums (op : Nat) (a b c : List F32) : List (List Val × Nat) :=
  let n := a.length
  let t := List.zipWith fmul b c
  match op with
  | 0x0A => [(vals32 a, 1)]
  | 0x0C => [(prods a a, n), (prods t a, n)]
  | 0x0D => [(vals32 a, n), (prods (centred a) (centred a), n), (vals32 t, n), (prods t (centred a), n)]
  | _ => []

/-- VECT reads B, or C. -/
def usesB (op : Nat) : Bool := decide (1 ≤ op) && (decide (op ≤ 5) || op == 7 || op == 9 || op == 12 || op == 13)
def usesC (op : Nat) : Bool := op == 12 || op == 13
/-- Row operations write one element per row (R332). -/
def oneColumn (op : Nat) : Bool := op == 10 || op == 11

/-- Rows of a tensor as FP32 words. -/
def State.rows32 (s : State) (t : Td) : List (List F32) := splitRows t.cols t.rows (toF32 (s.tensorVals t))

/-- Row `r`, with a single row repeated (R332). -/
def rowAt (l : List (List F32)) (r : Nat) : List F32 := if l.length = 1 then l.getD 0 [] else l.getD r []

/-- A second operand that matches A: its shape, or one row of it. -/
def Td.repeats (a b : Td) : Bool := b.cols == a.cols && (b.rows == a.rows || b.rows == 1)

/-- Input conversions of a tensor set the non-finite indication (R45, R200). -/
def State.nfOf (s : State) (t : Td) : Bool := nfIn (s.tensorVals t) || s.lanesClash t

/-- Run a command that reads tensors `ins`, writes one tensor `out` of the given shape, and computes it row by row. -/
def State.rowCommand (s : State) (c : Cmd) (q : Nat) (ins : List Nat) (out : Nat)
    (shape : State → Bool) (f : State → List (List F32)) (sums : State → List (List (List Val × Nat))) : State :=
  let tds := ins ++ [out]
  s.withOperands q (tds.map fun a => (a, 64))
    (fun s => tds.all s.tdOk && shape s && (s.openOut c.step (s.tdAt out)).isSome)
    (fun s => ins.flatMap (fun a => (s.tdAt a).ranges) ++ (s.tdAt out).histRange)
    (fun s => (s.tdAt out).ranges)
    fun s =>
      let t := s.tdAt out
      let vals := (f s).flatten.map val32
      let s1 := ((s.openOut c.step t).getD s).noteSlow q (slowRows (sums s))
      ((s1.addCond q [] (indBit 0 (ins.any fun a => s.nfOf (s.tdAt a)))).putTensor c q t (s.rangeOf t) vals vals (s.anyDie t)).deliver q

/-- VECT (R332). -/
def State.runVect (s : State) (q : Nat) : State :=
  match s.runnable q 0x20 with
  | none => s
  | some c =>
    let op := c.u8 48
    let al := BitVec.ofNat 32 (c.u 52 4)
    let be := BitVec.ofNat 32 (c.u 56 4)
    let a := c.u 16 8
    let b := c.u 24 8
    let d := c.u 32 8
    let bs (s : State) : List (List F32) := if usesB op then s.rows32 (s.tdAt b) else []
    let cs (s : State) : List (List F32) := if usesC op then s.rows32 (s.tdAt d) else []
    s.rowCommand c q (a :: ((if usesB op then [b] else []) ++ (if usesC op then [d] else []))) (c.u 40 8)
      (fun s =>
        let ta := s.tdAt a
        let o := s.tdAt (c.u 40 8)
        o.rows == ta.rows && o.cols == (if oneColumn op then 1 else ta.cols) &&
        (!usesB op || ta.repeats (s.tdAt b)) && (!usesC op || ta.repeats (s.tdAt d)))
      (fun s =>
        let ra := s.rows32 (s.tdAt a)
        let rb := bs s
        let rc := cs s
        (List.range ra.length).map fun r => vectRow op al be (ra.getD r []) (rowAt rb r) (rowAt rc r))
      (fun s =>
        let ra := s.rows32 (s.tdAt a)
        let rb := bs s
        let rc := cs s
        (List.range ra.length).map fun r => vectSums op (ra.getD r []) (rowAt rb r) (rowAt rc r))

def execVect (q : Nat) (s : State) : Out := .next (s.runVect q)

/-! ### NORM and SMAX -/

/-- One row of NORM (R58); every b_i is −0 without a BIAS tensor. -/
def normRow (rms : Bool) (eps : F32) (x g b : List F32) : List F32 :=
  if rms then
    let inv := rmsInv x eps
    List.zipWith (fun xi gi => fmul (fmul xi inv) gi) x g
  else
    let inv := layerInv x eps
    let d := centred x
    (List.range x.length).map fun i => ffma (fmul (d.getD i 0) inv) (g.getD i 0) (b.getD i (zero32 true))

def normSums (rms : Bool) (x : List F32) : List (List Val × Nat) :=
  if rms then [(prods x x, x.length)] else [(vals32 x, x.length), (prods (centred x) (centred x), x.length)]

/-- NORM (R58). A BIAS tensor that root-mean-square mode names is read and checked as in layer mode, although its formula has no
b_i (DESIGN CHOICE: log entry 144). -/
def State.runNorm (s : State) (q : Nat) : State :=
  match s.runnable q 0x21 with
  | none => s
  | some c =>
    let rms := bitAt (c.u8 48) 0
    let eps := BitVec.ofNat 32 (c.u 52 4)
    let x := c.u 16 8
    let g := c.u 24 8
    let b := c.u 32 8
    let named : Bool := b != 0
    s.rowCommand c q ([x, g] ++ if named then [b] else []) (c.u 40 8)
      (fun s =>
        let tx := s.tdAt x
        (s.tdAt (c.u 40 8)).sameShape tx && tx.repeats (s.tdAt g) && (!named || tx.repeats (s.tdAt b)))
      (fun s =>
        let rx := s.rows32 (s.tdAt x)
        let rg := s.rows32 (s.tdAt g)
        let rb := if named then s.rows32 (s.tdAt b) else []
        (List.range rx.length).map fun r => normRow rms eps (rx.getD r []) (rowAt rg r) (rowAt rb r))
      (fun s => (s.rows32 (s.tdAt x)).map (normSums rms))

def execNorm (q : Nat) (s : State) : Out := .next (s.runNorm q)

/-- exp(x_i ⊖ m) over a row. -/
def expRow (x : List F32) : List F32 := x.map fun v => fexp (fsub v (maxVal x))

/-- One row of SMAX (R57). -/
def smaxRow (x : List F32) : List F32 :=
  let vs := vals32 x
  if vs.any (fun v => v.isNan || v == .inf false) || vs.all (fun v => v == .inf true) then x.map fun _ => nan32
  else
    let e := expRow x
    let inv := frecip (exactSum (vals32 e))
    e.map fun v => fmul v inv

/-- SMAX (R57). -/
def State.runSmax (s : State) (q : Nat) : State :=
  match s.runnable q 0x22 with
  | none => s
  | some c =>
    let x := c.u 16 8
    s.rowCommand c q [x] (c.u 24 8) (fun s => (s.tdAt (c.u 24 8)).sameShape (s.tdAt x))
      (fun s => (s.rows32 (s.tdAt x)).map smaxRow)
      (fun s => (s.rows32 (s.tdAt x)).map fun r => [(vals32 (expRow r), 1)])

def execSmax (q : Nat) (s : State) : Out := .next (s.runSmax q)

/-! ### SCAL (Table 7.5) -/

/-- A started SCAL with operation `op`. -/
def State.scal (s : State) (q op : Nat) : Option Cmd :=
  match s.runnable q 0x39 with
  | some c => if c.u8 16 = op then some c else none
  | none => none

/-- A record address that R185 refuses. -/
def State.recBad (s : State) (a : Nat) : Bool := a % 64 != 0 || isHost a || s.rangeBad a 128

/-- ec of the largest finite value of a format (Table 7.2). -/
def lfExp (f : Nat) : Int :=
  match f with
  | 2 => 16
  | 3 => 9
  | 4 => 16
  | _ => 128

/-- k of SCAL APPLY (R194). -/
def State.applyK (s : State) (c : Cmd) (dst : Td) : Int :=
  let rec_ := c.u 48 8
  if rec_ = 0 ∨ 5 ≤ dst.fmt then signedOf (c.u8 18) 8
  else clampInt (lfExp dst.fmt - (s.rangeOf { dst with hist := rec_ }).z) (-126) 127

/-- SCAL APPLY (R194). An output for 2^-k with k = -128 is +Infinity, which is what 2^128 rounds to (DESIGN CHOICE: log
entry 149). -/
def State.scalApply (s : State) (q : Nat) : State :=
  match s.scal q 0 with
  | none => s
  | some c =>
    let src := c.u 32 8
    let dst := c.u 40 8
    let rec_ := c.u 48 8
    let outk := c.u 56 8
    s.withOperands q [(src, 64), (dst, 64)]
      (fun s => s.tdOk src && s.tdOk dst && (s.tdAt src).sameShape (s.tdAt dst) && (rec_ == 0 || !s.recBad rec_) &&
        (outk == 0 || !s.rangeBad outk 4) && (s.openOut c.step (s.tdAt dst)).isSome)
      (fun s => (s.tdAt src).ranges ++ (s.tdAt dst).histRange ++ if rec_ = 0 then [] else [(rec_, 128)])
      (fun s => (s.tdAt dst).ranges ++ if outk = 0 then [] else [(outk, 4)])
      fun s =>
        let t := s.tdAt dst
        let k := s.applyK c t
        let x := s.tensorVals (s.tdAt src)
        let s1 := ((s.openOut c.step t).getD s).addCond q [] (indBit 0 (s.lanesClash (s.tdAt src)))
        let s2 := s1.putTensor c q t (s.rangeOf t) (x.map fun v => v.scale2 k) x (s.anyDie t)
        (if outk = 0 then s2 else s2.writeAll (some q) [(outk, natLe 4 (round32Q false 1 1 (-k)).toNat)]).deliver q

def execScalApply (q : Nat) (s : State) : Out := .next (s.scalApply q)

/-- The push of R190. -/
def Hist.push (h : Hist) (v n : Nat) (trouble : Bool) : Hist :=
  { h with
    maxes := h.maxes.set h.next v, next := (h.next + 1) % 16, count := min (h.count + 1) 16, step := n
    trouble := (h.trouble ||| (if trouble then 1 else 0)) * 2 % 65536, isOpen := false }

/-- The records of a CLOSE. -/
def State.closeList (s : State) (c : Cmd) : List Nat := (List.range (c.u 24 4)).map fun i => s.rdNat (c.u 48 8 + 8 * i) 8

/-- CLOSE on this module alone: each listed record that is open with RUN_STEP n pushes its RUN_MAX (R190). -/
def State.closeAlone (s : State) (n : Nat) (l : List Nat) : State :=
  l.foldl (fun (s : State) a =>
    let h := s.histAt a
    if h.isOpen ∧ h.runStep = n then s.putHist a (h.push h.runMax n false) else s) s

/-- The checks that CLOSE makes on its list before any record changes, then `k` with the list. -/
def State.closeWith (s : State) (c : Cmd) (q : Nat) (k : State → List Nat → State) : State :=
  let n := c.u 24 4
  if n ≠ 0 ∧ s.rangeBad (c.u 48 8) (8 * n) then s.failCmd q .badDescriptor 48
  else
    s.withOperands q (if n = 0 then [] else [(c.u 48 8, 8 * n)]) (fun s => !(s.closeList c).any s.recBad)
      (fun s => (s.closeList c).map fun a => (a, 128)) (fun _ => []) fun s => k s (s.closeList c)

/-- The record of RESET and CLRFLAG. -/
def State.recNamed (s : State) (c : Cmd) : Bool := c.u 48 8 != 0 && !s.recBad (c.u 48 8)

/-- SCAL RESET (R186). -/
def State.scalReset (s : State) (q : Nat) : State :=
  match s.scal q 2 with
  | none => s
  | some c =>
    if 7 < c.u8 19 then s.failCmd q .badDescriptor 19
    else if 31 < c.u8 20 then s.failCmd q .badDescriptor 20
    else if 15 < c.u8 21 then s.failCmd q .badDescriptor 21
    else if ¬ s.recNamed c then s.failCmd q .badDescriptor 48
    else if s.heldBack [(c.u 48 8, 128)] then s
    else
      let h : Hist := {
        maxes := List.replicate 16 0, step := 0, runStep := 0, runMax := 0, trouble := 0, next := 0, count := 0
        margin := c.u8 19, span := c.u8 20, oth := c.u8 21, isOpen := false, recipe := false }
      (s.writeAll (some q) [(c.u 48 8, h.bytes)]).deliver q

def execScalReset (q : Nat) (s : State) : Out := .next (s.scalReset q)

/-- SCAL CLRFLAG (Table 7.5, R186). -/
def State.scalClrflag (s : State) (q : Nat) : State :=
  match s.scal q 3 with
  | none => s
  | some c =>
    if ¬ s.recNamed c then s.failCmd q .badDescriptor 48
    else
      s.withOperands q [(c.u 48 8, 128)] (fun _ => true) (fun _ => []) (fun _ => []) fun s =>
        (s.putHist (c.u 48 8) { s.histAt (c.u 48 8) with recipe := false }).deliver q

def execScalClrflag (q : Nat) (s : State) : Out := .next (s.scalClrflag q)

end Sys2Proof.Machine
end

