-- ==== Sys2Proof/Machine/Attn.lean ====
section
/-!
DEFINITION. Streaming attention (R178 to R184): ATTN forward and backward.
-/
namespace Sys2Proof.Machine

open Sys2Proof

/-- The ATTN block (Table 11.8). -/
structure Attn where
  q : Td
  k : Td
  v : Td
  y : Td
  dy : Td
  dq : Td
  dk : Td
  dv : Td
  stats : Nat
  qpos : Nat
  kpos : Nat
  qbase : Nat
  kbase : Nat
  lo : Nat
  hi : Nat
  tau : F32
  lead : Nat
  pfmt : Nat
  gfmt : Nat
  deriving DecidableEq, Repr

/-- Addresses of the descriptors that a direction uses. -/
def State.attnTds (s : State) (a : Nat) (bwd : Bool) : List Nat :=
  (List.range (if bwd then 8 else 4)).map fun i => s.rdNat (a + 8 * i) 8

def State.attn (s : State) (a : Nat) : Attn :=
  let td (i : Nat) : Td := s.tdAt (s.rdNat (a + 8 * i) 8)
  { q := td 0, k := td 1, v := td 2, y := td 3, dy := td 4, dq := td 5, dk := td 6, dv := td 7
    stats := s.rdNat (a + 64) 8, qpos := s.rdNat (a + 72) 8, kpos := s.rdNat (a + 80) 8
    qbase := s.rdNat (a + 88) 6, kbase := s.rdNat (a + 96) 6, lo := s.rdNat (a + 104) 6, hi := s.rdNat (a + 112) 6
    tau := BitVec.ofNat 32 (s.rdNat (a + 120) 4), lead := s.rdNat (a + 124) 4
    pfmt := s.rdNat (a + 128) 1, gfmt := s.rdNat (a + 129) 1 }

/-- Number of key blocks of 512 rows. -/
def Attn.keyBlocks (x : Attn) : Nat := (x.k.rows + 511) / 512

/-- Position of row `i`: base plus index, or the table's entry (R178). -/
def State.position (s : State) (table base i : Nat) : Nat := if table = 0 then base + i else s.rdNat (table + 8 * i) 8

/-- Every position fits 48 bits (R178). -/
def State.positionsOk (s : State) (table base n : Nat) : Bool :=
  if table = 0 then decide (base + n ≤ 2 ^ 48) else (List.range n).all fun i => decide (s.position table base i < 2 ^ 48)

/-- A position table can be named. -/
def State.tableOk (s : State) (table n : Nat) : Bool := table == 0 || !s.rangeBad table (8 * n)

/-- Reserved bytes, formats and shapes of the block (R29, Table 11.8). A LEAD that names no key block is refused, in
either direction (DESIGN CHOICE: log entry 116). -/
def State.attnOk (s : State) (a : Nat) (bwd : Bool) : Bool :=
  let b := s.rd a 192
  let x := s.attn a
  let d := x.q.cols
  let z (i n : Nat) : Bool := leNat ((b.drop i).take n) == 0
  z 94 2 && z 102 2 && z 110 2 && z 118 2 && z 130 62 && (x.pfmt == 1 || x.pfmt == 3) &&
  (if bwd then x.gfmt == 1 || x.gfmt == 4 else decide (x.gfmt < 8)) &&
  (s.attnTds a bwd).all (fun t => t % 64 == 0 && !s.rangeBad t 64) &&
  d % 32 == 0 && decide (d ≤ 256) && x.k.cols == d && x.v.sameShape x.k && x.y.sameShape x.q &&
  decide (x.lead < x.keyBlocks) && s.tableOk x.qpos x.q.rows && s.tableOk x.kpos x.k.rows &&
  (if bwd then x.dy.sameShape x.q && x.dq.sameShape x.q && x.dk.sameShape x.k && x.dv.sameShape x.k && x.stats != 0 else true) &&
  (x.stats == 0 || !s.rangeBad x.stats (8 * x.q.rows))

/-- Key j is visible to query i (R179). -/
def State.visible (s : State) (x : Attn) (i j : Nat) : Bool :=
  let p := s.position x.qpos x.qbase i
  let k := s.position x.kpos x.kbase j
  decide (p ≤ k + x.lo) && decide (k ≤ p + x.hi)

/-- Keys visible to query i. -/
def State.visibleKeys (s : State) (x : Attn) (i : Nat) : List Nat := (List.range x.k.rows).filter (s.visible x i)

/-- A row of exact values. -/
def State.rowVals (s : State) (t : Td) (r : Nat) : List Val := (List.range t.cols).map (s.elemVal t r)

/-- Exact dot product of two rows, rounded once (R61). -/
def dot32 (a b : List Val) : F32 := exactSum (List.zipWith Val.mul a b)

/-- Score of query i and key j (R180). -/
def State.score (s : State) (x : Attn) (i j : Nat) : F32 := fmul (dot32 (s.rowVals x.q i) (s.rowVals x.k j)) x.tau

/-- Internal conversion to PFMT or GFMT, round to nearest (R41). No control field gives its SAT, which is taken as 0
(DESIGN CHOICE: log entry 106). -/
def inner (f : Nat) (v : F32) : Cvt := (fpOf f).cvt false .near (val32 v)
def innerVal (f : Nat) (v : F32) : Val := (fpOf f).decode (inner f v).bits

/-- What a query row of the forward direction gives: outputs, m, D, the special case of R181, and the converted
exponentials. `open_` is the value of m where the manual states none (a NaN score). -/
structure AttnRow where
  y : List F32
  e : List Val
  m : F32
  d : F32
  bad : Bool
  empty : Bool
  deriving DecidableEq, Repr

def State.attnRow (s : State) (x : Attn) (open_ : F32) (i : Nat) : AttnRow :=
  let js := s.visibleKeys x i
  let n := x.q.cols
  if js.isEmpty then { y := List.replicate n 0, e := [], m := inf32 true, d := 0, bad := false, empty := true }
  else
    let sc := js.map (s.score x i)
    let vs := vals32 sc
    let nan := vs.any Val.isNan
    let bad := nan || vs.any (· == .inf false) || vs.all (· == .inf true)
    let m := if nan then open_ else maxVal sc
    let e := sc.map fun v => innerVal x.pfmt (fexp (fsub v m))
    let d := if nan then nan32 else exactSum e
    let inv := frecip d
    let num (t : Nat) : F32 := exactSum (List.zipWith (fun ej j => ej.mul (s.elemVal x.v j t)) e js)
    { y := (List.range n).map fun t => if bad then nan32 else fmul (num t) inv, e := e, m := m, d := d, bad := bad, empty := false }

/-- Key blocks in stream order for query block `b`: LEAD first, then ascending, wrapping; blocks with no visible key
are not streamed (R179, R182). -/
def State.stream (s : State) (x : Attn) (b : Nat) : List Nat :=
  let n := x.keyBlocks
  let rows := (List.range (min 256 (x.q.rows - 256 * b))).map (256 * b + ·)
  ((List.range n).map fun i => (x.lead + i) % n).filter fun k =>
    rows.any fun i => (List.range (min 512 (x.k.rows - 512 * k))).any fun j => s.visible x i (512 * k + j)

/-- Stream position of the last block that raised the maximum of row i, one past it counted from 0 (R182). -/
def State.lastRaise (s : State) (x : Attn) (blocks : List Nat) (i : Nat) : Nat :=
  let step (a : Nat × Val) (p : Nat × Nat) : Nat × Val :=
    let js := ((List.range (min 512 (x.k.rows - 512 * p.2))).map (512 * p.2 + ·)).filter (s.visible x i)
    let m := val32 (maxVal (js.map (s.score x i)))
    if m.gt a.2 then (p.1, m) else a
  (((List.range blocks.length).zip blocks).foldl step (0, .inf true)).1

/-- Key blocks streamed again for a query block (R182, R183). -/
def State.replayed (s : State) (x : Attn) (b : Nat) : Nat :=
  let rows := (List.range (min 256 (x.q.rows - 256 * b))).map (256 * b + ·)
  (rows.map (s.lastRaise x (s.stream x b))).foldl max 0

/-! ### Tiles of attention

The manual runs a query block's products on one 8×8 gang, and does not say how they are cut into tiles of 64×64 (DESIGN
CHOICE: log entry 118). Scores of a key block come first; the sums over the keys follow. -/

/-- An output element of attention over blocks of 32 terms. -/
def attnElem (row col : Nat) (blocks : List (List Val)) (c : Dy) : Elem := mkElem row col [blocks] [] c

/-- The rows of query block `b`. -/
def Attn.rowsOf (x : Attn) (b : Nat) : List Nat := (List.range (min 256 (x.q.rows - 256 * b))).map (256 * b + ·)
/-- The rows of key block `k`. -/
def Attn.keysOf (x : Attn) (k : Nat) : List Nat := (List.range (min 512 (x.k.rows - 512 * k))).map (512 * k + ·)
/-- Query blocks. -/
def Attn.queryBlocks (x : Attn) : Nat := (x.q.rows + 255) / 256

/-- Pieces of at most `n` consecutive members of a list. -/
def cuts (n : Nat) (l : List Nat) : List (List Nat) := splitRows n ((l.length + n - 1) / n) l

/-- One tile before it is numbered: anchor, width of its block register, elements. -/
structure AttnTile where
  anchor : Int
  wide : Bool
  elems : List Elem
  deriving DecidableEq, Repr

/-- Tiles of 64 by 64 elements over rows `rs` and columns `cs`; those without an element are left out. -/
def tileGrid (rs cs : List Nat) (wide : Bool) (anchor : Nat → Nat → Int) (elem : Nat → Nat → Option Elem) : List AttnTile :=
  ((cuts 64 rs).flatMap fun r => (cuts 64 cs).map fun c => {
    anchor := anchor (r.headD 0) (c.headD 0), wide := wide
    elems := r.flatMap fun i => c.filterMap fun j => elem i j }).filter fun t => !t.elems.isEmpty

/-- Dot products of rows of `a` with rows of `b` along their columns: scores and dP (R180, R184). -/
def State.dotTiles (s : State) (x : Attn) (a b : Td) (rs cs : List Nat) : List AttnTile :=
  tileGrid rs cs (a.fmt == 0 || b.fmt == 0) (fun i j => s.operandExp a false [] i 0 + s.operandExp b false [] j 0 + 8) fun i j =>
    if s.visible x i j then
      some (attnElem i j (splitRows 32 (a.cols / 32) ((List.range a.cols).map fun t => (s.termVal a false i t).mul (s.termVal b false j t)))
        ((s.factorOf a false i).mul (s.factorOf b false j)))
    else none

/-- Sums over rows `ks` of `b`, each times a weight: N, dq, dk and dv (R180, R184). `ew` is the weights' E (R68, R183);
`w i k` is the weight of row k in the sum of row i. -/
def State.sumTiles (s : State) (b : Td) (ew : Int) (rs : List Nat) (ks : List (List Nat)) (w : Nat → Nat → Option Val) :
    List AttnTile :=
  tileGrid rs (List.range b.cols) (b.fmt == 0)
    (fun _ t => ew + s.operandExp b true ks.flatten ((ks.flatten).headD 0) t + 8) fun i t =>
      if ks.flatten.all fun k => (w i k).isNone then none
      else some (attnElem i t (ks.map fun l => l.filterMap fun k => (w i k).map fun v => v.mul (s.termVal b true k t))
        (s.factorOf b true 0))

/-- The blocks of 32 rows in which some key blocks, or query rows, stream. -/
def thirtyTwos (l : List (List Nat)) : List (List Nat) := l.flatMap (cuts 32)

/-- Number the tiles of a command, query block by query block. -/
def numberTiles (q : Nat) (l : List (Nat × AttnTile)) : List Tile :=
  ((List.range l.length).zip l).map fun p => newTile q p.1 p.2.1 0 0 0 true p.2.2.wide p.2.2.anchor p.2.2.elems

/-- Tiles of one query block of the forward direction: the scores of each streamed key block, those of the positions
streamed again (R182), and the sums N and D, for which ê has E = 1 (R183). `e i` are the ê of row i by key. -/
def State.fwdTiles (s : State) (x : Attn) (b rep : Nat) (e : Nat → List (Nat × Val)) : List AttnTile :=
  let rs := x.rowsOf b
  let st := s.stream x b
  let ks := thirtyTwos (st.map x.keysOf)
  let w (i k : Nat) : Option Val := ((e i).find? fun p => p.1 == k).map Prod.snd
  ((st ++ st.take rep).flatMap fun k => s.dotTiles x x.q x.k rs (x.keysOf k)) ++ s.sumTiles x.v 1 rs ks w ++
    (cuts 64 rs).map fun r => {
      anchor := 10, wide := false
      elems := (r.filter fun i => !(e i).isEmpty).map fun i => attnElem i 0 (ks.map fun l => l.filterMap (w i)) ⟨1, 0⟩ }

/-- ATTN in either direction: its block, its descriptors, and what it reads and writes. -/
def State.attnWith (s : State) (c : Cmd) (q : Nat) (bwd : Bool) (ins outs : Attn → List Td) (k : State → Attn → State) : State :=
  let a := c.u 16 8
  s.withOperands q [(a, 192)] (fun s => s.attnOk a bwd) (fun _ => []) (fun _ => []) fun s =>
    s.withOperands q ((s.attnTds a bwd).map fun t => (t, 64))
      (fun s => (s.attnTds a bwd).all s.tdOk && s.positionsOk (s.attn a).qpos (s.attn a).qbase (s.attn a).q.rows &&
        s.positionsOk (s.attn a).kpos (s.attn a).kbase (s.attn a).k.rows &&
        (outs (s.attn a)).all fun t => (s.openOut c.step t).isSome)
      (fun s =>
        let x := s.attn a
        (ins x).flatMap Td.ranges ++ (outs x).flatMap Td.histRange ++
          (if x.qpos = 0 then [] else [(x.qpos, 8 * x.q.rows)]) ++ (if x.kpos = 0 then [] else [(x.kpos, 8 * x.k.rows)]) ++
          (if bwd then [(x.stats, 8 * x.q.rows)] else []))
      (fun s =>
        let x := s.attn a
        (outs x).flatMap Td.ranges ++ (if !bwd && x.stats != 0 then [(x.stats, 8 * x.q.rows)] else []))
      fun s => k s (s.attn a)

/-- An attention command runs: each query block waits for a gang of 8×8 cores on one cluster (R164). -/
def State.startAttn (s : State) (c : Cmd) (q : Nat) (x : Attn) (outs : List Td) (tiles : List Tile) (e : AttnEnd) (nf : Bool) :
    State :=
  let w : Work := {
    seq := q, out := x.y, range := s.rangeOf x.y, tiles := tiles.length, side := 8, blocks := x.queryBlocks, values := []
    prior := [], die := 0, cluster := 0, homes := [], attn := some e }
  let s1 := outs.foldl (fun (u : State) t => (u.openOut c.step t).getD u) s
  ((s1.setTiles w tiles).addCond q [] (indBit 0 nf ||| indBit 1 (e.clips.any (· != 0)))).updCmd q fun c => { c with
    stage := .running }

/-- ATTN forward (R180 to R183). -/
def State.runAttn (s : State) (q : Nat) : State :=
  match s.runnable q 0x19 with
  | none => s
  | some c =>
    if bitAt (c.u8 24) 0 then s
    else
      s.attnWith c q false (fun x => [x.q, x.k, x.v]) (fun x => [x.y]) fun s x =>
        let rows := (List.range x.q.rows).map fun i =>
          s.attnRow x (BitVec.ofNat 32 (leNat ((List.range 4).map fun b => Config.freeByte s.free (4 * i + b)))) i
        let bs := List.range x.queryBlocks
        let rep := bs.map (s.replayed x)
        let tiles := numberTiles q (bs.flatMap fun b =>
          (s.fwdTiles x b (rep.getD b 0) fun i => (s.visibleKeys x i).zip ((rows.map AttnRow.e).getD i [])).map fun t => (b, t))
        s.freeStep.startAttn c q x [x.y] tiles {
          outs := [{ td := x.y, range := s.rangeOf x.y, byQuery := true, vals := rows.flatMap fun r => r.y.map val32 }]
          stats := if x.stats = 0 then [] else [(x.stats, rows.flatMap fun r => natLe 4 r.m.toNat ++ natLe 4 r.d.toNat)]
          replays := rep, clips := []
          empties := bs.map fun b => (((rows.drop (256 * b)).take 256).filter AttnRow.empty).length }
          (rows.any AttnRow.bad || [x.q, x.k, x.v].any s.lanesClash)

def execAttn (q : Nat) (s : State) : Out := .next (s.runAttn q)

/-! ### Backward (R184) -/

/-- What one visible pair gives: P̂ and dŜ, whether an internal conversion set the non-finite indication, and how many of
them clipped (R47). -/
structure AttnPair where
  i : Nat
  j : Nat
  p : Val
  ds : Val
  nf : Bool
  clips : Nat
  deriving DecidableEq, Repr

def State.attnPair (s : State) (x : Attn) (i j : Nat) : AttnPair :=
  let m : F32 := BitVec.ofNat 32 (s.rdNat (x.stats + 8 * i) 4)
  let d : F32 := BitVec.ofNat 32 (s.rdNat (x.stats + 8 * i + 4) 4)
  let e := inner x.pfmt (fexp (fsub (s.score x i j) m))
  let p := fmul (round32V ((fpOf x.pfmt).decode e.bits)) (frecip d)
  let ph := inner x.pfmt p
  let dy := s.rowVals x.dy i
  let delta := dot32 dy (s.rowVals x.y i)
  let dp := dot32 dy (s.rowVals x.v j)
  let ds := fmul (fmul p (fsub dp delta)) x.tau
  let dh := inner x.gfmt ds
  { i := i, j := j, p := (fpOf x.pfmt).decode ph.bits, ds := (fpOf x.gfmt).decode dh.bits, nf := e.nf || ph.nf || dh.nf
    clips := ([e.sat, ph.sat, dh.sat].filter id).length }

/-- Tiles of one query block of the backward direction: scores, δ, dP and dq; with the last block, which completes their
sums, those of dk and dv. -/
def State.bwdTiles (s : State) (x : Attn) (b : Nat) (ps : List AttnPair) : List AttnTile :=
  let rs := x.rowsOf b
  let st := s.stream x b
  let eg : Int := if x.gfmt = 4 then 16 else 128
  let ep : Int := if x.pfmt = 3 then 9 else 128
  let pair (i j : Nat) : Option AttnPair := ps.find? fun p => p.i == i && p.j == j
  let qs := thirtyTwos ((List.range x.queryBlocks).map x.rowsOf)
  let delta := (cuts 64 rs).map fun r => {
    anchor := s.operandExp x.dy false [] (r.headD 0) 0 + s.operandExp x.y false [] (r.headD 0) 0 + 8
    wide := x.dy.fmt == 0 || x.y.fmt == 0
    elems := r.map fun i => attnElem i 0 (splitRows 32 (x.q.cols / 32) ((List.range x.q.cols).map fun t =>
      (s.termVal x.dy false i t).mul (s.termVal x.y false i t))) ((s.factorOf x.dy false i).mul (s.factorOf x.y false i)) }
  delta ++ (st.flatMap fun k => s.dotTiles x x.q x.k rs (x.keysOf k) ++ s.dotTiles x x.dy x.v rs (x.keysOf k)) ++
    s.sumTiles x.k eg rs (thirtyTwos (st.map x.keysOf)) (fun i k => (pair i k).map AttnPair.ds) ++
    (if b + 1 = x.queryBlocks then
      s.sumTiles x.q eg (List.range x.k.rows) qs (fun j i => (pair i j).map AttnPair.ds) ++
      s.sumTiles x.dy ep (List.range x.k.rows) qs (fun j i => (pair i j).map AttnPair.p) else [])

/-- ATTN with BWD (R184). -/
def State.runAttnBwd (s : State) (q : Nat) : State :=
  match s.runnable q 0x19 with
  | none => s
  | some c =>
    if ¬ bitAt (c.u8 24) 0 then s
    else
      s.attnWith c q true (fun x => [x.q, x.k, x.v, x.y, x.dy]) (fun x => [x.dq, x.dk, x.dv]) fun s x =>
        let d := x.q.cols
        let bs := List.range x.queryBlocks
        let pairs := (List.range x.q.rows).flatMap fun i => (s.visibleKeys x i).map (s.attnPair x i)
        let sumQ (i t : Nat) : F32 := exactSum ((pairs.filter (·.i = i)).map fun p => p.ds.mul (s.elemVal x.k p.j t))
        let sumK (j t : Nat) : F32 := exactSum ((pairs.filter (·.j = j)).map fun p => p.ds.mul (s.elemVal x.q p.i t))
        let sumV (j t : Nat) : F32 := exactSum ((pairs.filter (·.j = j)).map fun p => p.p.mul (s.elemVal x.dy p.i t))
        let grid (n : Nat) (f : Nat → Nat → F32) : List Val :=
          (List.range n).flatMap fun r => (List.range d).map fun t => val32 (f r t)
        let vq := grid x.q.rows sumQ
        let vk := grid x.k.rows sumK
        let vv := grid x.k.rows sumV
        let nf := pairs.any AttnPair.nf || [x.q, x.k, x.v, x.y, x.dy].any s.lanesClash
        let tiles := numberTiles q (bs.flatMap fun b => (s.bwdTiles x b pairs).map fun t => (b, t))
        s.startAttn c q x [x.dq, x.dk, x.dv] tiles {
          outs := [{ td := x.dq, range := s.rangeOf x.dq, byQuery := true, vals := vq },
            { td := x.dk, range := s.rangeOf x.dk, byQuery := false, vals := vk },
            { td := x.dv, range := s.rangeOf x.dv, byQuery := false, vals := vv }]
          stats := [], replays := [], empties := []
          clips := bs.map fun b => ((pairs.filter fun p => p.i / 256 == b).map AttnPair.clips).sum } nf

def execAttnBwd (q : Nat) (s : State) : Out := .next (s.runAttnBwd q)

end Sys2Proof.Machine
end

