-- ==== Sys2Proof/Machine/Master.lean ====
section
/-!
DEFINITION. Master weights with remainders (R210 to R212) and the level of a master weight (R85).
-/
namespace Sys2Proof.Machine

open Sys2Proof

/-- The exponent of u(h) for a finite BF16 value: that of its least significant bit (R210). -/
def bf16Lsb (h : Nat) : Int :=
  match fpBF16.decode h with
  | .fin _ _ e => e
  | _ => -133

/-- W of R210; `br` is 8 or 16. -/
def masterW (h : Nat) (nu : Int) (br : Nat) : Val :=
  match fpBF16.decode h with
  | .fin n m e => ((Val.fin n m e).dy.add ⟨nu, e - br⟩).toVal n
  | v => v

/-- The level of a master weight (R85); `none` marks a non-finite weight, whose level is 0. -/
def levelOf (omega : Int) : Val → Option Int
  | .fin n m e => some (clampInt ((Val.fin n m e).dy.rneAt omega) (-31) 31)
  | _ => none

/-- The result of `apply_remainder`: h, ν, a non-finite indication and a saturation report. -/
structure NewMaster where
  h : Nat
  nu : Int
  nf : Bool
  sat : Bool
  deriving DecidableEq, Repr

/-- `apply_remainder` (R212) on the exact W and the update d. An x that is NaN or infinite is a non-finite source of the
conversion to BF16 (R45). -/
def applyRemainder (w : Val) (d : F32) (br : Nat) : NewMaster :=
  match w.add (val32 d) with
  | .nan => { h := 0x7FC0, nu := 0, nf := true, sat := false }
  | .inf n => { h := fpBF16.maxFin n, nu := 0, nf := true, sat := true }
  | .fin n m e =>
    let c := fpBF16.cvtQ false .near n m 1 e
    if c.nf then { h := fpBF16.maxFin n, nu := 0, nf := false, sat := true }
    else
      let x := (Val.fin n m e).dy
      let diff := x.add (fpBF16.decode c.bits).dy.neg
      let nu := diff.rneAt (bf16Lsb c.bits - br)
      { h := c.bits, nu := min nu (2 ^ (br - 1) - 1), nf := false, sat := false }

end Sys2Proof.Machine
end

