-- ==== Sys2Proof/Machine/Arrays.lean ====
section
/-!
DEFINITION. The Array Field (spec/04): resident tensors and versions (R115, R232 to R238), array reads from start to
delivery (R90 to R106, R117), AMVM and AMVT (R91, R100, R118, R174, R175, R330) and spanned reads (R119, R120).
-/
namespace Sys2Proof.Machine

open Sys2Proof

/-! ### Arrays and tensors -/

/-- Key of an array, of a COORD of Table 10.5, and the COORD of a key. -/
def arrKey (die bank a : Nat) : Nat := 264 * (32 * die + bank) + a
def keyOfCoord (c : Nat) : Nat := arrKey (c / 2 ^ 28) (c / 2 ^ 16 % 4096) (c % 2 ^ 16)
def coordOk (c : Nat) : Bool := decide (c / 2 ^ 28 < 4) && decide (c / 2 ^ 16 % 4096 < 32) && decide (c % 2 ^ 16 < 264)
def keyDie (k : Nat) : Nat := k / 264 / 32
def keyBank (k : Nat) : Nat := k / 264 % 32
def keyArray (k : Nat) : Nat := k % 264
def coordOfKey (k : Nat) : Nat := keyDie k * 2 ^ 28 + keyBank k * 2 ^ 16 + keyArray k
def arrIdKey (x : ArrayId) : Nat := arrKey x.die.val x.bank.val x.array.val

def State.arr (s : State) (k : Nat) : Arr := Tab.get (fun _ => Arr.initial) s.af.arrays k
def State.setArr (s : State) (k : Nat) (a : Arr) : State :=
  { s with af := { s.af with arrays := Tab.set (fun _ => Arr.initial) s.af.arrays k a } }

def State.resident (s : State) (id : Nat) : Option Resident := s.af.tensors.find? fun t => t.id == id
def State.setResident (s : State) (t : Resident) : State :=
  { s with af := { s.af with tensors := s.af.tensors.map fun u => if u.id = t.id then t else u } }

/-- Logical columns of an array (R112), column groups and row segments (R115). -/
def Resident.perGroup (t : Resident) : Nat := 512 / 2 ^ t.log2r
def Resident.groups (t : Resident) : Nat := (t.n + t.perGroup - 1) / t.perGroup
def Resident.segments (t : Resident) : Nat := (t.k + 1023) / 1024
/-- Number of pair (s, g). -/
def Resident.pair (t : Resident) (s g : Nat) : Nat := s * t.groups + g
/-- Used rows of segment s, and used logical columns of group g. -/
def Resident.rowsOf (t : Resident) (s : Nat) : Nat := min 1024 (t.k - 1024 * s)
def Resident.colsOf (t : Resident) (g : Nat) : Nat := min t.perGroup (t.n - t.perGroup * g)

/-- Follow the spares of an array: the array that does its work now, none when the digital stand-in does (R304). -/
def State.activeGo (s : State) : Nat → Nat → Option Nat
  | 0, _ => none
  | n + 1, k =>
    let a := s.arr k
    if ¬ a.retired then some k
    else match a.spare with
      | some j => s.activeGo n j
      | none => none

def State.active (s : State) (k : Nat) : Option Nat := s.activeGo 10 k

/-- The array that holds pair `p` of a tensor, when it is in service. -/
def State.arrayOf (s : State) (t : Resident) (p : Nat) : Option Nat :=
  match s.active ((t.map.getD p (0, 0)).2) with
  | some k => if (s.arr k).inService then some k else none
  | none => none

/-- Address of the level image of pair `p`, and the level of (row, physical weight column) (R86). -/
def Resident.image (t : Resident) (p : Nat) : Nat := t.limg + 0x80000 * p
def State.level (s : State) (t : Resident) (p row col : Nat) : Int :=
  signedOf (s.rdByte (t.image p + 1024 * col + row)).toNat 8

/-- ver(n) (R235). -/
def Resident.ver (t : Resident) (n : Nat) : Nat :=
  (t.announced.filter fun v => decide (v + 1 + t.lag ≤ n)).foldl max t.v0

/-- The physical column that does the work of weight column `j` (R89). -/
def Arr.phys (a : Arr) (j : Nat) : Nat :=
  match (List.range 14).find? fun k => Tab.get (fun _ => none) a.colMap k == some j with
  | some k => 512 + k
  | none => j

/-- Gain and offset of a line: physical columns, and 528 + row (R95). -/
def Arr.gainOf (a : Arr) (l : Nat) : Nat := Tab.get (fun _ => 0x4000) a.gain l
def Arr.offsetOf (a : Arr) (l : Nat) : Int := Tab.get (fun _ => 0) a.offset l
/-- Programmed level of a cell. -/
def Arr.cell (a : Arr) (row col : Nat) : Int := Tab.get (fun _ => 0) a.cells (528 * row + col)

/-- Ready bit and converter calibration of a bank (R117, R144). -/
def State.bankReady (s : State) (k : Nat) : Bool := s.readyKey (100 + k / 264)
def State.convCal (s : State) (b : Nat) : Nat := Tab.get (fun _ => 0) s.af.bankCal b

/-! ### Reads -/

def State.read (s : State) (q r : Nat) : Option Read := s.af.reads.find? fun x => x.seq == q && x.index == r
def State.setRead (s : State) (x : Read) : State :=
  { s with af := { s.af with reads := s.af.reads.map fun y => if y.seq = x.seq ∧ y.index = x.index then x else y } }

/-- Reads in progress on a die, and on a bank `32 d + b`. -/
def State.readingDie (s : State) (d : Nat) : Nat := (s.af.reads.filter fun x => x.stage == .reading && keyDie x.array == d).length
def State.readingBank (s : State) (b : Nat) : Nat := (s.af.reads.filter fun x => x.stage == .reading && x.array / 264 == b).length

/-- A read that may go on: of a running command that is not tainted, or for another module. -/
def State.readLive (s : State) (q : Nat) : Bool :=
  match s.cmd q with
  | some c => c.stage == .running && !c.tainted
  | none => s.af.spanned.any fun p => p.1 == q

/-- Range exponent of a direction (R93, R101). -/
def Resident.range (t : Resident) (tr : Bool) : Nat := if tr then t.rhoT else t.rho
/-- Exponent of one converter LSB in units of P. -/
def Resident.lsb (t : Resident) (tr : Bool) : Int := (t.range tr : Int) - (if t.fine then 2 else 0)
/-- Codes of this magnitude saturate (R93). -/
def Resident.rail (t : Resident) : Int := if t.fine then 507 else 127

/-- Output lines that the read delivers: logical columns, or rows. -/
def Read.lines (r : Read) (t : Resident) : Nat := if r.transpose then t.rowsOf r.s else t.colsOf r.g

/-- P of output line `l` over the driven lines `[lo, lo + len)`, from the level image (R93). -/
def State.idealP (s : State) (t : Resident) (r : Read) (lo len l : Nat) : Int :=
  let p := t.pair r.s r.g
  ((List.range len).map fun i =>
    let x := r.inputs.getD (lo + i) 0
    if x = 0 then 0
    else if r.transpose then s.level t p l ((lo + i) * 2 ^ t.log2r) * x
    else s.level t p (lo + i) (l * 2 ^ t.log2r) * x).foldl (· + ·) 0

/-- Ideal code of a P (R93). -/
def Resident.code (t : Resident) (tr : Bool) (p : Int) : Int := (Dy.mk p 0).rneAt (t.lsb tr)
def Resident.saturates (t : Resident) (k : Int) : Bool := decide (t.rail ≤ (k.natAbs : Int))
/-- Exponent of the unit in which the sums of a read are held: 0, or that of a fine LSB below 1 (R99). -/
def Resident.subExp (t : Resident) (tr : Bool) : Int := min 0 (t.lsb tr)
/-- k × 2^ρ, in fine mode k × 2^(ρ − 2), in that unit (R99). -/
def Resident.mOf (t : Resident) (tr : Bool) (k : Int) : Int := shlInt k (t.lsb tr - t.subExp tr).toNat
/-- An exact P in that unit (R104). -/
def Resident.mOfP (t : Resident) (tr : Bool) (p : Int) : Int := shlInt p (-(t.subExp tr)).toNat

/-- Level-image bytes that the read's exact values come from: its whole image. -/
def Resident.imageRange (t : Resident) (p : Nat) : Nat × Nat := (t.image p, 0x80000)

/-- The corrected measurement of a line in units of 2^-20 LSB (R95). -/
def Arr.mu (a : Arr) (fine : Bool) (line : Nat) (raw : Int) : Int :=
  raw * a.gainOf line * (if fine then 4 else 16) + a.offsetOf line * 1024

/-- Physical lines whose measurements make up output line `l`. -/
def State.physLines (t : Resident) (a : Arr) (tr : Bool) (l : Nat) : List Nat :=
  if tr then [528 + l] else (List.range (2 ^ t.log2r)).map fun i => a.phys (l * 2 ^ t.log2r + i)

/-- The converter that serves a line is held (R126, R127, R142), so it is unconfirmed in every read. -/
def Arr.isHeld (a : Arr) (line : Nat) : Bool := a.held.contains line

/-- The correction table of a converter from its hits per code (R141): `t` and the widths are in units of 1/64 of a
quarter LSB. -/
def tableGo (t : Int) : List Nat → List Int
  | [] => []
  | h :: hs => rneDiv (2 * t + h) 128 :: tableGo (t + h) hs
def tableOf (hits : List Nat) : List Int := tableGo (-32768) hits

/-- Converter that serves a line: 0 to 65 for columns, 66 to 193 for rows (Table 4.1). -/
def converterOf (line : Nat) : Nat := if line < 528 then line / 8 else 66 + (line - 528) / 8

/-- The raw measurement r of a physical line (R95): what the converter resolved, by column or row number; in normal mode
a raw code from 0 to 1,023 that the correction table turns into r (R141). What the calibration of the fine stage does to
a fine measurement is not stated; the model takes it as resolved (DESIGN CHOICE: log entry 114). -/
def Arr.raw (a : Arr) (fine : Bool) (meas : List Int) (line : Nat) : Int :=
  let x := meas.getD (if line < 528 then line else line - 528) 0
  if fine then x
  else (Tab.get (fun _ => tableOf (List.replicate 1024 64)) a.tables (converterOf line)).getD x.toNat 0

/-- The measurement of an output line: the mean over its replicas (R95, R113). -/
def lineMu (t : Resident) (a : Arr) (tr : Bool) (meas : List Int) (l : Nat) : Int :=
  let ls := State.physLines t a tr l
  (ls.map fun x => a.mu t.fine x (a.raw t.fine meas x)).foldl (· + ·) 0 / (ls.length : Int)

/-- R96: distance of μ to the nearest odd multiple of 1/2 is at least M. Units of 2^-20 LSB, M in 1/256 LSB. -/
def confirmedMu (m : Nat) (u : Int) : Bool :=
  let y := (u - 524288) % 1048576
  decide ((m : Int) * 4096 ≤ min y (1048576 - y))

/-- The nearest integer to μ. -/
def codeOfMu (u : Int) : Int := rneDiv u 1048576
/-- A confirmed line saturates (R96). -/
def satMu (fine : Bool) (m : Nat) (u : Int) : Bool :=
  decide ((if fine then 1013 else 253) * 524288 + (m : Int) * 4096 < (u.natAbs : Int))

/-! ### Checksum sums (R107 to R109) -/

/-- A measurement at a converter rail (R95): the lowest value and the highest value of r, which ends one step below the
positive rail (DESIGN CHOICE: log entry 112). -/
def atRail (fine : Bool) (raw : Int) : Bool := decide (raw ≤ (if fine then -8192 else -512)) || decide ((if fine then 8191 else 511) ≤ raw)

/-- Measurement of row `i` for the test: a held line takes its exact value (R127), which is 0 beyond the rows in use. -/
def State.testMu (s : State) (t : Resident) (a : Arr) (r : Read) (meas : List Int) (i : Nat) : Dy :=
  if a.isHeld (528 + i) then ⟨if i < t.rowsOf r.s then s.idealP t r r.lo r.len i else 0, -(t.lsb true)⟩
  else ⟨a.mu t.fine (528 + i) (a.raw t.fine meas (528 + i)), -20⟩

/-- D_h of the halves of a forward read (R108): every weight column of the half, in use or not, the spare column's
measurement in place of a replaced one. -/
def State.dForward (s : State) (t : Resident) (a : Arr) (r : Read) (meas : List Int) (h : Nat) : Option Dy :=
  if atRail t.fine (a.raw t.fine meas (526 + h)) then none
  else
    let rep := 2 ^ t.log2r
    let col (j : Nat) : Dy :=
      if a.isHeld (a.phys j) then ⟨if j / rep < t.colsOf r.g then s.idealP t r r.lo r.len (j / rep) else 0, -(t.lsb false)⟩
      else ⟨a.mu t.fine (a.phys j) (a.raw t.fine meas (a.phys j)), -20⟩
    let sum := sumDy ((List.range 256).map fun j => col (256 * h + j))
    let rc : Int := (max t.rho 4 : Int) - 4 - (if t.fine then 2 else 0)
    let ck : Dy := ⟨a.mu t.fine (526 + h) (a.raw t.fine meas (526 + h)), -20⟩
    some (((Dy.mk 1 (t.lsb false)).mul sum).add ((Dy.mk 256 rc).mul ck).neg)

/-- Range exponent of the test of a direction: a transpose read of a summer tensor senses r times the logical sum on
ρ_t + log2 r (R109, R114; DEDUCED: log entry 119). -/
def Resident.testRange (t : Resident) (tr : Bool) : Nat := t.range tr + if tr then t.log2r else 0

/-- D_t of a transpose read (R109): every row, and every driven physical column. -/
def State.dTranspose (s : State) (t : Resident) (a : Arr) (r : Read) (meas : List Int) : Dy :=
  let sum := sumDy ((List.range 1024).map (s.testMu t a r meas))
  let rep := 2 ^ t.log2r
  let colSum (j : Nat) : Int := ((List.range 1024).map fun i => a.cell i (a.phys j)).foldl (· + ·) 0
  let gs := (List.range r.len).map fun i =>
    let j := r.lo + i
    r.inputs.getD j 0 * ((List.range rep).map fun k => colSum (j * rep + k)).foldl (· + ·) 0
  ((Dy.mk 1 (t.lsb true + t.log2r)).mul sum).add (Dy.mk (gs.foldl (· + ·) 0) 0).neg

/-- Driven logical lines of the part (R90). -/
def Read.driven (r : Read) : Nat := (((r.inputs.drop r.lo).take r.len).filter (· ≠ 0)).length
/-- n of the test's tolerance: driven rows, or driven physical columns (R108, R109). -/
def Resident.drivenOf (t : Resident) (r : Read) : Nat := r.driven * if r.transpose then 2 ^ t.log2r else 1

/-! ### Delivery of reads -/

/-- Parts of a split read: (vector, s, g) name the read they belong to. -/
def State.partsOf (s : State) (r : Read) : List Read :=
  s.af.reads.filter fun x => x.seq == r.seq && x.vec == r.vec && x.s == r.s && x.g == r.g

/-- A read that has ended. -/
def Read.done (r : Read) : Bool := r.stage == .delivered || r.stage == .split

/-- The partial sum of output line `l` of read (v, s, g): the exact sum of its delivered parts (R105). -/
def partialM (l : Nat) (parts : List Read) : Int :=
  ((parts.filter fun x => x.stage == .delivered).map fun x => x.sums.getD l 0).foldl (· + ·) 0

/-- An activity closes the array now (R154, Table 5.1). -/
def State.closed (s : State) (k : Nat) : Bool :=
  (s.arr k).inService && s.uk.acts.any fun x => x.running &&
    (match x.kind with
     | .program => false
     | .selfCal => x.bank == k / 264
     | .rail => x.bank == k / 264
     | _ => x.array == k)

/-- Lines of a part of a read of `n` lines (R103 to R105): halves, then quarters. -/
def Read.halves (r : Read) : List (Nat × Nat) := [(r.lo, r.len / 2), (r.lo + r.len / 2, r.len - r.len / 2)]

/-- The exponent of a read's partial sums (R99). -/
def Resident.expOf (t : Resident) (r : Read) : Int := t.omega + r.sigma + t.subExp r.transpose

/-- A value of an exact partial sum. -/
def partialVal (m e : Int) : Val := .fin (decide (m < 0)) m.natAbs e

/-- The home cluster of output group `g` (R330): its number on the die. -/
def Matvec.homeOf (w : Matvec) (g : Nat) : Nat := (w.home % 32 + if w.spread then g else 0) % 32

end Sys2Proof.Machine
end

