-- ==== Sys2Proof/Machine/Matvec.lean ====
section
/-!
DEFINITION. AMVM and AMVT: their operands, window addressing (R118, R331), companion terms (R174, R175), segments (R91),
and the tiles that their terms become (R116, R330).
-/
namespace Sys2Proof.Machine

open Sys2Proof

/-! ### Window blocks (R118, R331) -/

/-- A window block's fields. -/
structure Win where
  h : Nat
  w : Nat
  c : Nat
  kh : Nat
  kw : Nat
  ty : Nat
  tx : Nat
  dy : Nat
  dx : Nat
  pt : Nat
  pb : Nat
  pl : Nat
  pr : Nat
  deriving DecidableEq, Repr

def winOf (l : List Byte) : Win :=
  let u (i n : Nat) : Nat := leNat ((l.drop i).take n)
  { h := u 0 4, w := u 4 4, c := u 8 4, kh := u 12 1, kw := u 13 1, ty := u 14 1, tx := u 15 1, dy := u 16 1, dx := u 17 1
    pt := u 18 1, pb := u 19 1, pl := u 20 1, pr := u 21 1 }

/-- Output positions along one axis (R331): none when the kernel does not fit. -/
def outPos (n p p' k d t : Nat) : Nat := if n + p + p' < d * (k - 1) + 1 then 0 else (n + p + p' - d * (k - 1) - 1) / t + 1

def Win.oy (w : Win) : Nat := outPos w.h w.pt w.pb w.kh w.dy w.ty
def Win.ox (w : Win) : Nat := outPos w.w w.pl w.pr w.kw w.dx w.tx

/-- Table 4.7, and the reserved bytes. -/
def winGood (l : List Byte) : Bool :=
  let w := winOf l
  let r (x lo hi : Nat) : Bool := decide (lo ≤ x) && decide (x ≤ hi)
  leNat ((l.drop 22).take 10) == 0 && r w.kh 1 16 && r w.kw 1 16 && r w.ty 1 16 && r w.tx 1 16 && r w.dy 1 16 && r w.dx 1 16 &&
    r w.pt 0 15 && r w.pb 0 15 && r w.pl 0 15 && r w.pr 0 15 && r w.c 1 65536 && r w.h 1 65536 && r w.w 1 65536 &&
    w.oy != 0 && w.ox != 0

/-- Map element (row, channel) that input row `k` of output position `p` takes; none outside the map (R118). -/
def Win.at_ (w : Win) (p k : Nat) : Option (Nat × Nat) :=
  let ky := k / w.c / w.kw
  let kx := k / w.c % w.kw
  let y : Int := (p / w.ox * w.ty : Nat) - (w.pt : Int) + (ky * w.dy : Nat)
  let x : Int := (p % w.ox * w.tx : Nat) - (w.pl : Int) + (kx * w.dx : Nat)
  if 0 ≤ y ∧ y < w.h ∧ 0 ≤ x ∧ x < w.w then some (y.toNat * w.w + x.toNat, k % w.c) else none

/-! ### Operands -/

/-- The operands of AMVM or AMVT (Table 11.4). -/
structure Mv where
  t : Resident
  tr : Bool
  inn : Td
  out : Td
  comp : Option (Td × Td)
  win : Option Win
  home : Nat
  acc : Bool
  spread : Bool

def State.mv_ (s : State) (c : Cmd) (t : Resident) : Mv :=
  { t := t, tr := c.opcode == 0x11, inn := s.tdAt (c.u 16 8), out := s.tdAt (c.u 24 8)
    comp := if c.u 32 8 = 0 then none else some (s.tdAt (c.u 32 8), s.tdAt (c.u 32 8 + 64))
    win := if c.u 40 8 = 0 then none else some (winOf (s.rd (c.u 40 8) 32))
    home := c.u8 52 % 128, acc := bitAt (c.u8 53) 0, spread := bitAt (c.u8 53) 1 }

/-- Input vectors. -/
def Mv.vecs (x : Mv) : Nat :=
  match x.win with
  | some w => w.oy * w.ox
  | none => x.inn.rows

/-- The shapes agree (R331, R174). -/
def Mv.shapeOk (x : Mv) : Bool :=
  let t := x.t
  (match x.comp with
   | none => true
   | some (a, b) => a.fmt == 1 && b.fmt == 1 && decide (a.rows ≤ 64) && a.cols == t.k && b.rows == t.n && b.cols == a.rows) &&
  (match x.win with
   | none => if x.tr then x.inn.cols == t.n && x.out.rows == x.inn.rows && x.out.cols == t.k
       else x.inn.cols == t.k && x.out.rows == x.inn.rows && x.out.cols == t.n
   | some w => t.k == w.kh * w.kw * w.c &&
       (if x.tr then x.inn.rows == w.oy * w.ox && x.inn.cols == t.n && x.out.rows == w.h * w.w && x.out.cols == w.c
        else x.inn.rows == w.h * w.w && x.inn.cols == w.c && x.out.rows == w.oy * w.ox && x.out.cols == t.n))

/-- An input element; a stored −128 acts as −127 (R38, R90). -/
def State.mvElem (s : State) (t : Td) (r c : Nat) : Val :=
  if t.fmt = 7 ∧ s.int8At t r c = -128 ∧ scaleOk (s.int8Scale t r) then (Val.fin true 127 0).mul (fpFP32.decode (s.int8Scale t r))
  else s.elemVal t r c

/-- Input vector `v`, each element as `el` reads it: K elements for AMVM, N for AMVT. -/
def Mv.vecOf (x : Mv) (el : Td → Nat → Nat → Val) (v : Nat) : List Val :=
  match x.win, x.tr with
  | some w, false => (List.range x.t.k).map fun k =>
      match w.at_ v k with
      | some p => el x.inn p.1 p.2
      | none => .fin false 0 0
  | _, _ => (List.range x.inn.cols).map fun j => el x.inn v j

/-- Input vector `v` as the arrays take it. -/
def State.mvVec (s : State) (x : Mv) (v : Nat) : List Val := x.vecOf s.mvElem v
/-- Input vector `v` in its source format, as the Matrix Cores take it (R38, R174, R175). -/
def State.srcVec (s : State) (x : Mv) (v : Nat) : List Val := x.vecOf s.elemVal v

/-- The exact dots u[i] or v[i] of vector `v`, before their conversion (R174, R175; R61 with c = 1). -/
def State.compDots (s : State) (x : Mv) (v : Nat) : List Elem :=
  match x.comp with
  | none => []
  | some (a, b) => (List.range a.rows).map fun i =>
      let vec := s.srcVec x v
      let prods := ((List.range vec.length).zip vec).map fun p =>
        (if x.tr then s.elemVal b p.1 i else s.elemVal a i p.1).mul p.2
      mkElem i v [splitRows 32 ((prods.length + 31) / 32) prods] [] ⟨1, 0⟩

/-- û or v̂ of a vector: the dots converted to BF16 (R41; SAT is taken as 0, DESIGN CHOICE: log entry 106). -/
def convDots (l : List Elem) : List Val := l.map fun e => fpBF16.decode (fpBF16.cvt false .near (val32 e.value)).bits

/-- Companion products of output `o` of a vector whose û is `u`. -/
def State.compTerms (s : State) (x : Mv) (u : List Val) (o : Nat) : List Val :=
  match x.comp with
  | none => []
  | some (a, b) => ((List.range u.length).zip u).map fun p => (if x.tr then s.elemVal a p.1 o else s.elemVal b o p.1).mul p.2

/-- Products of the digital transpose (R102): gradients, their factored scale left out, and BF16 master weights. With a
window an output element takes terms of several vectors, so that per-row scales change along its sum (R63, R331). -/
def State.digTerms (s : State) (x : Mv) (v k : Nat) : List Val :=
  (List.range x.t.n).map fun j =>
    (s.termVal x.inn x.win.isSome v j).mul (fpBF16.decode (s.rdNat (x.t.h + 2 * (k * x.t.n + j)) 2))

/-- The terms of (vector, output) that need no read: products that the factored scale multiplies, and the others. -/
def State.mvTerms (s : State) (x : Mv) (us : List (List Val)) (v o : Nat) : List Val × List Val :=
  (if x.tr && x.t.tdig then s.digTerms x v o else [], s.compTerms x (us.getD v []) o)

/-- (vector, input row) pairs that map to element (row, col) of a window's map (R331). -/
def Win.sources (w : Win) (row col : Nat) : List (Nat × Nat) :=
  (List.range (w.oy * w.ox)).flatMap fun v =>
    ((List.range (w.kh * w.kw)).map fun i => i * w.c + col).filterMap fun k =>
      if w.at_ v k = some (row, col) then some (v, k) else none

/-- The output elements before any read. -/
def State.mvElems (s : State) (x : Mv) (us : List (List Val)) (prior : Nat → Nat → List Val) : List Elem :=
  (List.range (x.out.rows * x.out.cols)).map fun i =>
    let row := i / x.out.cols
    let col := i % x.out.cols
    let src : List (Nat × Nat) := match x.win, x.tr with
      | some w, true => w.sources row col
      | _, _ => [(row, col)]
    let ts := src.map fun p => s.mvTerms x us p.1 p.2
    let prods := ts.flatMap Prod.fst
    let c := if x.tr && x.t.tdig then s.factorOf x.inn x.win.isSome row else ⟨1, 0⟩
    mkElem row col [splitRows 32 ((prods.length + 31) / 32) prods] (prior row col ++ ts.flatMap Prod.snd) c

/-! ### Segments (R91) -/

/-- σ of a segment and its driven values; NaN gives 0, an infinity ±127 (Table 2.5). -/
def segment (l : List Val) : Int × List Int :=
  let m := l.foldl (fun (m : Dy) v => if v.isFin ∧ m.lt v.dy.abs then v.dy.abs else m) ⟨0, 0⟩
  let sg : Int := if m.m = 0 then 0 else m.ec - 7
  (sg, l.map fun v => match v with
    | .nan => 0
    | .inf n => if n then -127 else 127
    | .fin n a e => clampInt ((Val.fin n a e).dy.rneAt sg) (-127) 127)

/-- Piece `i` of a vector: what drives segment `i` forward, or column group `i` in transpose. -/
def Mv.piece (x : Mv) (vec : List Val) (i : Nat) : List Val :=
  let n := if x.tr then x.t.perGroup else 1024
  (vec.drop (n * i)).take n
def Mv.pieces (x : Mv) : Nat := if x.tr then x.t.groups else x.t.segments

/-- A read that waits. -/
def newRead (q i v sg g : Nat) (tr : Bool) (n : Nat) (sigma : Int) (inputs : List Int) (version now : Nat) : Read :=
  { seq := q, index := i, vec := v, s := sg, g := g, transpose := tr, lo := 0, len := n, part := 0, sigma := sigma
    inputs := inputs, stage := .waiting, array := 0, standIn := false, version := version, codes := [], sums := [], full := false
    isDigital := false, testing := false, dsum := [], shadow := false, waitSince := some now, versionSince := none, startedAt := 0
    railed := false, meas := [], margin := 0, spares := [] }

/-- Rank and array of pair (s, g). -/
def Resident.placeOf (t : Resident) (sg g : Nat) : Nat × Nat := t.map.getD (t.pair sg g) (0, 0)
/-- The pair lies on this module. -/
def State.isLocal (s : State) (t : Resident) (sg g : Nat) : Bool := !t.span || (t.placeOf sg g).1 == s.rank

/-- Pairs that piece `i` drives. -/
def Resident.pairsOf (t : Resident) (tr : Bool) (i : Nat) : List (Nat × Nat) :=
  if tr then (List.range t.segments).map fun sg => (sg, i) else (List.range t.groups).map fun g => (i, g)

/-- Number of lines that a read of the pair may drive. -/
def Resident.lineCount (t : Resident) (tr : Bool) : Nat := if tr then t.perGroup else 1024

/-- Number the reads of a command. -/
def number (l : List Read) : List Read := ((List.range l.length).zip l).map fun p => { p.2 with index := p.1 }

/-! ### Finishing -/

/-- Add terms that arrived after an element was set up. -/
def Elem.addTerms (e : Elem) (l : List Val) : Elem :=
  { e with extra := e.extra ++ finiteTerms l, flags := l.foldl Acc.push e.flags, sum := e.sum.add (Acc.ofList l).sum }

/-- The partial sums of output `o` of vector `v`: one for each piece, zero for one that was not driven (R91, R105). -/
def State.partialTerms (s : State) (w : Matvec) (t : Resident) (v o : Nat) : List Val :=
  let n := if w.transpose then 1024 else t.perGroup
  let grp := o / n
  let line := o % n
  (List.range (if w.transpose then t.groups else t.segments)).map fun i =>
    let sg := if w.transpose then grp else i
    let g := if w.transpose then i else grp
    match w.received.find? fun p => p.1 == v && p.2.1 == t.pair sg g && p.2.2.1 == line with
    | some p => p.2.2.2.toVal
    | none =>
      let parts := s.af.reads.filter fun r => r.seq == w.seq && r.vec == v && r.s == sg && r.g == g
      match parts with
      | [] => .fin false 0 0
      | r :: _ => partialVal (partialM line parts) (t.expOf r)

/-- Input vectors that an output element takes terms of (R331). -/
def Matvec.vecsOf (w : Matvec) (e : Elem) : List Nat :=
  if w.transpose && !w.window.isEmpty then ((winOf w.window).sources e.row e.col).map Prod.fst else [e.row]

/-- E of the input operand of a tile that takes terms of the given vectors (R68). -/
def Matvec.inE (w : Matvec) (vs : List Nat) : Int :=
  if w.byScale then scaleExp ((vs.map fun v => (w.exps.getD v (7, 0)).2).foldl max 0)
  else (w.exps.getD (vs.headD 0) (7, 0)).1

/-- Pieces of at most 64 by 64 of some elements: the array of a whole cluster (Table 6.1). -/
def cutTiles (l : List Elem) : List (List Elem) :=
  ((l.map fun e => (e.row / 64, e.col / 64)).eraseDups).map fun k => l.filter fun e => (e.row / 64, e.col / 64) == k

/-- Every partial sum of the command has been delivered: its output elements become tiles on the home clusters of their
output groups (R116, R330). The manual does not cut them into tiles: the model takes tiles of 64 by 64 vectors and outputs,
which fill the array of a cluster's 64 cores (R165), and the same for a window's input-gradient map and, on the home cluster
of group 0, for the dots of the companion path (R176; DESIGN CHOICE: log entry 110). -/
def State.finishMatvec (s : State) (w : Matvec) (t : Resident) : State :=
  let digital := w.transpose && t.tdig
  let win := winOf w.window
  let elems := w.elems.map fun e =>
    if digital then e
    else
      let src : List (Nat × Nat) := if w.transpose && !w.window.isEmpty then win.sources e.row e.col else [(e.row, e.col)]
      e.addTerms (src.flatMap fun p => s.partialTerms w t p.1 p.2)
  let n := if w.transpose then 1024 else t.perGroup
  let groups := if w.transpose && !w.window.isEmpty then 1 else if w.transpose then t.segments else t.groups
  let outs := (List.range groups).flatMap fun g =>
    (cutTiles (if groups = 1 then elems else elems.filter fun e => e.col / n == g)).map fun l =>
      (w.homeOf g, false, w.inE (l.flatMap w.vecsOf) + w.rest, l)
  let comps := (cutTiles w.comp).map fun l => (w.homeOf 0, true, w.inE (l.map Elem.col) + w.compRest, l)
  let tiles := ((List.range (outs.length + comps.length)).zip (outs ++ comps)).map fun p =>
    newTile w.seq p.1 0 (w.home / 32) p.2.1 0 p.2.2.1 w.wide p.2.2.2.1 p.2.2.2.2
  match s.mc.works.find? fun k => k.seq == w.seq with
  | some k => tiles.foldl (fun (u : State) x => u.workArrives (clusterKey x.die x.cluster)) (s.setTiles { k with tiles := tiles.length } tiles)
  | none => s

/-- Has every read of the command ended, and has every other module answered? -/
def State.matvecDone (s : State) (q : Nat) : State :=
  match s.af.matvecs.find? fun w => w.seq == q with
  | none => s
  | some w =>
    match s.resident w.tensor with
    | none => s
    | some t =>
      if s.readLive q ∧ w.remote.isEmpty ∧ (s.af.reads.all fun r => r.seq != q || r.done) ∧ ¬ s.mc.tiles.any (·.seq = q) then
        s.finishMatvec w t
      else s

/-! ### AMVM and AMVT -/

/-- Rows of the input tensor that vector `v` takes elements of, and its first element there. -/
def Mv.rowsUsed (x : Mv) (v : Nat) : List Nat :=
  match x.win, x.tr with
  | some w, false => (((List.range x.t.k).filterMap fun k => w.at_ v k).map Prod.fst).eraseDups
  | _, _ => [v]
def Mv.firstElem (x : Mv) (v : Nat) : Nat × Nat :=
  match x.win, x.tr with
  | some w, false => ((List.range x.t.k).filterMap fun k => w.at_ v k).headD (0, 0)
  | _, _ => (v, 0)

/-- The INT8 scales of the input decide E (R68): those of an input that is encoded again are not factored; the digital transpose
factors them where they do not change along K. -/
def Mv.byScale (x : Mv) (digital : Bool) : Bool :=
  x.inn.fmt == 7 && x.inn.hist == 0 && !(digital && x.inn.factored x.win.isSome)

/-- What E of the input operand is for vector `v` (R68). -/
def State.vecExp (s : State) (x : Mv) (digital : Bool) (v : Nat) : Int × Nat :=
  let f := x.firstElem v
  (if digital then s.operandExp x.inn x.win.isSome [] f.1 f.2
   else if x.inn.hist ≠ 0 then s.histExp x.inn
   else if x.inn.fmt = 7 then 7 else s.operandExp x.inn false [] f.1 f.2,
   if x.inn.fmt = 7 then s.maxScale x.inn (x.rowsUsed v) else 0)

/-- The words of a spanned input message (R120): tensor, step, vector, direction, piece, and each element as sign and
kind, significand and exponent. -/
def valWords : Val → List Nat
  | .nan => [2, 0, 0]
  | .inf n => [if n then 5 else 4, 0, 0]
  | .fin n m e => [if n then 1 else 0, m, unsignedOf e 16]

/-- R120: inputs go to every other module that holds a pair of the piece. -/
def State.sendInputs (s : State) (x : Mv) (step v i : Nat) (vals : List Val) : State :=
  let ranks := (((x.t.pairsOf x.tr i).filter fun p => !s.isLocal x.t p.1 p.2).map fun p => (x.t.placeOf p.1 p.2).1).eraseDups
  ranks.foldl (fun (s : State) r =>
    (s.emit (.farpinen r 0x41 ([x.t.id, step, v, if x.tr then 1 else 0, i] ++ vals.flatMap valWords))).crossing none (x.home / 32) 4) s

/-- Set up the reads and terms of a command. The BF16 master weights of the digital transpose take E = 128, as operands of
that format do; R68 also gives the stored operand of AMVT another E (DESIGN CHOICE: log entry 111). -/
def State.setupMatvec (s : State) (q : Nat) (c : Cmd) (x : Mv) : State :=
  let vs := List.range x.vecs
  let vecs := vs.map (s.mvVec x)
  let prior := s.priorOf q x.acc x.out
  let dots := vs.map (s.compDots x)
  let elems := s.mvElems x (dots.map convDots) (priorAt prior)
  let digital := x.tr && x.t.tdig
  let segs : List (Nat × Nat × List Val) := if digital then [] else
    vs.flatMap fun v => (List.range x.pieces).map fun i => (v, i, x.piece (vecs.getD v []) i)
  let live := segs.filter fun p => !p.2.2.all Val.isZero
  let version := c.version.getD 0
  let reads := number (live.flatMap fun p =>
    let sg := segment p.2.2
    ((x.t.pairsOf x.tr p.2.1).filter fun pr => s.isLocal x.t pr.1 pr.2).map fun pr =>
      { newRead q 0 p.1 pr.1 pr.2 x.tr (x.t.lineCount x.tr) sg.1 sg.2 version s.now with array := (x.t.placeOf pr.1 pr.2).2 })
  let remote := live.flatMap fun p => ((x.t.pairsOf x.tr p.2.1).filter fun pr => !s.isLocal x.t pr.1 pr.2).map fun pr => (p.1, pr.1, pr.2)
  let w : Matvec := {
    seq := q, tensor := x.t.id, transpose := x.tr, out := x.out, vecs := x.vecs, home := x.home, spread := x.spread
    exps := vs.map (s.vecExp x digital), byScale := x.byScale digital, rest := (if digital then 128 else x.t.omega + 5) + 8
    compRest := (match x.comp with
      | none => 0
      | some (a, b) => s.operandExp (if x.tr then b else a) x.tr [] 0 0) + 8
    wide := x.inn.fmt == 0, elems := elems, comp := dots.flatten
    remote := remote, unchecked := [], received := [], window := match x.win with | some _ => s.rd (c.u 40 8) 32 | none => [] }
  let work : Work := {
    seq := q, out := x.out, range := s.rangeOf x.out, tiles := 0, side := 0, blocks := 0, values := [], prior := prior.flatten
    die := x.home / 32, cluster := x.home % 32, homes := [], attn := none }
  let nf := (vecs.any fun v => v.any Val.nonFinite) || s.lanesClash x.inn || (x.acc && s.lanesClash x.out)
  let s1 : State := (s.openOut c.step x.out).getD s
  let s2 : State := { s1 with af := { s1.af with
    matvecs := w :: s1.af.matvecs.filter (·.seq ≠ q), reads := (s1.af.reads.filter fun (r : Read) => r.seq != q) ++ reads } }
  let s3 := (((s2.setTiles work []).addCond q [] (indBit 0 nf)).setDetail q version).updCmd q fun c => { c with stage := .running }
  (live.foldl (fun (s : State) p => if remote.isEmpty then s else s.sendInputs x c.step p.1 p.2.1 p.2.2) s3).matvecDone q

/-- AMVM or AMVT on its operands (R91, R100, R102, R235, R237). -/
def State.runMatvec (s : State) (q op : Nat) : State :=
  match s.runnable q op with
  | none => s
  | some c =>
    match s.resident (c.u 48 4) with
    | none => s.failCmd q .badDescriptor 48
    | some t =>
      let v := c.version.getD (t.ver c.step)
      if c.step ≤ t.v0 then s.failCmd q .badDescriptor 4
      else if op = 0x11 ∧ c.u 56 4 ≠ 0xFFFFFFFF ∧ c.u 56 4 ≠ v then s.failCmd q .badDescriptor 56
      else
        let tds := [c.u 16 8, c.u 24 8] ++ (if c.u 32 8 = 0 then [] else [c.u 32 8, c.u 32 8 + 64])
        let win := if c.u 40 8 = 0 then [] else [(c.u 40 8, 32)]
        s.withOperands q (tds.map (fun a => (a, 64)) ++ win)
          (fun s => tds.all s.tdOk && (win.all fun p => winGood (s.rd p.1 p.2)) && (s.mv_ c t).shapeOk &&
            (s.openOut c.step (s.mv_ c t).out).isSome)
          (fun s =>
            let x := s.mv_ c t
            x.inn.ranges ++ x.inn.histRange ++ x.out.histRange ++ (match x.comp with | none => [] | some p => p.1.ranges ++ p.2.ranges) ++
              (if x.acc then x.out.ranges else []) ++ (if x.tr && t.tdig then [(t.h, 2 * t.k * t.n)] else []))
          (fun s => (s.mv_ c t).out.ranges)
          fun s => s.setupMatvec q { c with version := some v } (s.mv_ c t)

/-- AMVM (R91). -/
def execAmvm (q : Nat) (s : State) : Out := .next (s.runMatvec q 0x10)
/-- AMVT (R100, R102). -/
def execAmvt (q : Nat) (s : State) : Out := .next (s.runMatvec q 0x11)

end Sys2Proof.Machine
end

