-- ==== Sys2Proof/Machine/Reads.lean ====
section
/-!
DEFINITION. Array reads from start to delivery (R92 to R106, R117), the digital stand-in (R304), gain statistics (R145),
and spanned reads (R119, R120).
-/
namespace Sys2Proof.Machine

open Sys2Proof

/-! ### Start (R117) -/

/-- Nanoseconds from one device time to a later one. -/
def since (t : Option Nat) (now : Nat) : Nat := now - t.getD now

/-- Command behind a read; none for a read for another module. -/
def State.readSeq (s : State) (q : Nat) : Option Nat := if (s.cmd q).isSome then some q else none

/-- The tensor that a read's command or message names. -/
def State.readTensor (s : State) (q : Nat) : Option Resident :=
  match s.af.matvecs.find? fun w => w.seq == q with
  | some w => s.resident w.tensor
  | none =>
    match s.af.spanned.find? fun p => p.1 == q with
    | some p => s.resident p.2.2.1
    | none => none

/-- Where a read of pair (s, g) goes. -/
inductive Server where
  | array (k : Nat)
  | standIn
  /-- The array is being programmed by its LOAD. -/
  | loading
  deriving DecidableEq, Repr

/-- R304: between an array's retirement and the end of its spare's programming, and for good with no spare left, the
stand-in serves. -/
def State.server (s : State) (t : Resident) (sg g : Nat) : Server :=
  let k0 := (t.placeOf sg g).2
  match s.active k0 with
  | none => .standIn
  | some k => if (s.arr k).inService then .array k else if k = k0 then .loading else .standIn

/-- The version that the levels of a pair have: that of the array that serves it, or of the pair's first array, which
keeps it while the stand-in serves (the level image holds that version). -/
def State.pairVersion (s : State) (t : Resident) (sg g : Nat) : Nat :=
  match s.server t sg g with
  | .array k => (s.arr k).version
  | _ => (s.arr (t.placeOf sg g).2).version

/-- The array of a pair is in transition, and so leaves its version (R134). -/
def State.leaving (s : State) (t : Resident) (sg g : Nat) : Bool :=
  match s.server t sg g with
  | .array k => (s.arr k).transition.any fun x => x.started
  | _ => false

/-- A message to the module that asked for a read of pair (r.s, r.g): its partial sums (0x40), their checks passed (0x42) or
they are retracted (0x43), with the coordinate of the array that read, a spare's its own (R3, R119; the kinds of the
messages are the model's: log entry 122). -/
def State.spanMsg (s : State) (r : Read) (kind : Nat) (words : List Nat) : State :=
  match s.af.spanned.find? fun p => p.1 == r.seq with
  | some (_, rank, id, step) => s.emit (.farpinen rank kind ([id, step, r.vec, r.s, r.g, coordOfKey r.array] ++ words))
  | none => s

/-- A read for another module ends without a result that stands: the sums are retracted, and the read is dropped. -/
def State.retractRead (s : State) (r : Read) : State :=
  let parts := s.partsOf r
  let s1 := s.spanMsg r 0x43 []
  { s1 with af := { s1.af with reads := s1.af.reads.filter fun x => !parts.contains x } }

/-- The command of a read fails, or a read for another module is dropped. -/
def State.failRead (s : State) (r : Read) (t : Status) (d : Nat) : State :=
  if (s.cmd r.seq).isSome then s.failCmd r.seq t d else s.retractRead r

/-! ### Where exact sums are formed (R97, R110, R330) -/

/-- The cluster on which the exact sums of a read are computed: its output group's home cluster; for a read for another
module, the cluster with the bank's number. -/
def State.readHome (s : State) (r : Read) : Nat × Nat :=
  match s.af.matvecs.find? fun w => w.seq == r.seq with
  | some w => (w.home / 32, w.homeOf (if ¬ r.transpose then r.g else if w.window.isEmpty then r.s else 0))
  | none => (keyDie r.array, keyBank r.array)

/-- The die that a read's inputs come from and its partial sums go to: the home cluster's, or the hub die with the Farpinen
ports (R12, R116). -/
def State.readDie (s : State) (r : Read) : Nat := if (s.cmd r.seq).isSome then (s.readHome r).1 else 4

/-- The core whose cell holds the long accumulator of the output element to which line `l` contributes, in tiles of 64 by 64
(R97; log entry 110). -/
def State.resolveCore (s : State) (t : Resident) (r : Read) (l : Nat) : Nat :=
  let o := if r.transpose then 1024 * r.s + l else t.perGroup * r.g + l
  let p := match s.af.matvecs.find? fun w => w.seq == r.seq with
    | some w => if w.transpose && !w.window.isEmpty then ((winOf w.window).at_ r.vec o).getD (0, 0) else (r.vec, o)
    | none => (r.vec, o)
  8 * (p.1 % 64 / 8) + p.2 % 64 / 8

/-- The home cluster takes up the exact sums of a read (R172). -/
def State.homeWork (s : State) (r : Read) : State := s.workArrives (clusterKey (s.readHome r).1 (s.readHome r).2)

/-- The array that serves a waiting read, when one does. -/
def State.arrayFor (s : State) (r : Read) : Option Nat :=
  match s.readTensor r.seq with
  | some t => match s.server t r.s r.g with
    | .array k => some k
    | _ => none
  | none => none

/-- The version rules let the read start now (R134). -/
def State.versionMet (s : State) (r : Read) : Bool :=
  (s.readTensor r.seq).any fun t => r.version == s.pairVersion t r.s r.g && !s.leaving t r.s r.g

/-- Array `k` could start the read but for the counts of arrays reading (R117, R144). -/
def State.couldRun (s : State) (r : Read) (k : Nat) : Bool :=
  s.versionMet r && s.bankReady k && s.convCal (k / 264) != 0 && !s.closed k &&
    !s.af.reads.any fun x => x.stage == .reading && x.array == k

/-- A read issued earlier goes first (R117, R156): on the same array one that it can serve; of the same command one for
the same pair, or one that waits for the same count of arrays reading. -/
def State.readBehind (s : State) (r : Read) : Bool :=
  let k := s.arrayFor r
  s.af.reads.any fun x => x.stage == .waiting && s.readLive x.seq &&
    (decide (x.seq < r.seq) || (x.seq == r.seq && decide (x.index < r.index))) &&
    ((x.seq == r.seq && x.s == r.s && x.g == r.g) ||
      match s.arrayFor x, k with
      | some j, some k => (j == k && s.versionMet x) ||
          (x.seq == r.seq && s.couldRun x j && (j / 264 == k / 264 || (keyDie j == keyDie k && decide (s.readingBank (j / 264) < 64))))
      | _, _ => false)

/-- Waiting times of a read that starts on array `k` (Table 14.1). -/
def State.noteStart (s : State) (r : Read) (k : Nat) : State :=
  let q := s.readSeq r.seq
  let wait := since r.waitSince s.now
  let closedFor := match (s.arr k).closureEnd with
    | some t => if r.waitSince.getD s.now < t then min wait (t - r.waitSince.getD s.now) else 0
    | none => 0
  (s.evt q 0x17 closedFor).evt q 0x18 (since r.versionSince s.now)

/-- A read starts on array `k`. -/
def State.startOn (s : State) (r : Read) (k : Nat) : State :=
  (((s.setRead { r with
    stage := .reading, array := k, startedAt := s.now, waitSince := none, versionSince := none, margin := s.margin }).evt
    (s.readSeq r.seq) 0x10 1).noteStart r k).crossing (s.readSeq r.seq) (s.readDie r) (keyDie k)

/-- A read that the stand-in serves starts (R304). -/
def State.startStandIn (s : State) (r : Read) : State :=
  let k := match s.readTensor r.seq with
    | some t => (t.placeOf r.s r.g).2
    | none => 0
  ((((s.setRead { r with
    stage := .resolving, array := k, standIn := true, startedAt := s.now, waitSince := none, versionSince := none }).bump
    (dieCtr 0x2800318 (keyDie k))).evt (s.readSeq r.seq) 0x16 1).noteStart r k).homeWork { r with array := k }

/-- The tensor and step of a PROG, or of the LEVELS operation of MAINT. -/
def Cmd.levels (c : Cmd) : Option (Nat × Nat) :=
  if c.opcode = 0x12 then some (c.u 16 4, c.step)
  else if c.opcode = 0x48 ∧ c.u8 16 = 5 then some (c.u 20 4, c.step) else none

/-- Every PROG or LEVELS that announced version `v` has completed with BAD_DESCRIPTOR (R235). -/
def State.announcerFailed (s : State) (t : Resident) (v : Nat) : Bool :=
  let l := s.hg.cmds.filter fun c => c.seq.isSome && c.levels == some (t.id, v)
  !l.isEmpty && l.all fun c => c.stage == .failed && c.conds.contains .badDescriptor

/-- ARRAY_READ_START (R117, R134, R144). -/
def State.readStart (s : State) (q i : Nat) : State :=
  match s.read q i, s.readTensor q with
  | some r, some t =>
    if r.stage ≠ .waiting ∨ ¬ s.readLive q ∨ s.readBehind r then s
    else
      let v := s.pairVersion t r.s r.g
      if r.version < v ∨ (r.version = v ∧ s.leaving t r.s r.g) ∨ (v < r.version ∧ s.announcerFailed t r.version) then
        s.failRead r .badDescriptor 0xFF
      else if v < r.version then s.setRead { r with versionSince := r.versionSince.or (some s.now) }
      else
        match s.server t r.s r.g with
        | .loading => s
        | .standIn => s.startStandIn r
        | .array k =>
          if s.couldRun r k ∧ s.readingDie (keyDie k) < s.readShare ∧ s.readingBank (k / 264) < 64 then s.startOn r k else s
  | _, _ => s

def execArrayReadStart (q r : Nat) (s : State) : Out := .next (s.readStart q r)

/-! ### Ends of reads -/

/-- A finished read for another module sends its partial sums to the home cluster over Farpinen (R119): m and e with
the tensor id, the step, the column group and the coordinate of the array that read. -/
def State.sendSpanned (s : State) (r : Read) : State :=
  match s.readTensor r.seq with
  | some t =>
    let parts := s.partsOf r
    if parts.all Read.done then
      s.spanMsg r 0x40 (unsignedOf (t.expOf r) 16 :: (List.range (r.lines t)).map fun l => unsignedOf (partialM l parts) 64)
    else s
  | none => s

/-- What follows the end of a read. -/
def State.readEnded (s : State) (r : Read) : State := (s.sendSpanned r).matvecDone r.seq

/-- A check of the read's command is outstanding. -/
def State.addCheck (s : State) (q : Nat) : State := s.updCmd q fun c => { c with checks := c.checks + 1 }

/-- A read delivers partial sums. -/
def State.readDeliver (s : State) (r : Read) (sums : List Int) : State :=
  let r1 := { r with stage := .delivered, sums := sums }
  let s1 := s.setRead r1
  (if r.standIn || r.isDigital then s1 else s1.crossing (s.readSeq r.seq) (keyDie r.array) (s.readDie r)).readEnded r1

/-- Next free number of a read of the command. -/
def State.nextRead (s : State) (q : Nat) : Nat :=
  (s.af.reads.filter fun (r : Read) => r.seq == q).foldl (fun m r => max m (r.index + 1)) 0

/-- A saturated read is repeated in parts (R103, R104): a quarter goes to the digital path. -/
def State.readSplit (s : State) (r : Read) : State :=
  let q := s.readSeq r.seq
  let d := keyDie r.array
  if 2 ≤ r.part then
    ((((s.setRead { r with stage := .digital, isDigital := true }).bump (dieCtr 0x1400310 d)).evt q 0x13 1).addCond r.seq
      [.digitalFallback] 0x40#16).homeWork r
  else
    let n := s.nextRead r.seq
    let parts := ((List.range 2).zip r.halves).map fun p =>
      { newRead r.seq (n + p.1) r.vec r.s r.g r.transpose p.2.2 r.sigma r.inputs r.version s.now with
        lo := p.2.1, part := r.part + 1, array := r.array }
    let s1 := s.setRead { r with stage := .split }
    let s2 : State := { s1 with af := { s1.af with reads := s1.af.reads ++ parts } }
    if r.part = 0 then (s2.bump (dieCtr 0x1400300 d)).evt q 0x11 1 else (s2.bump (dieCtr 0x1400308 d)).evt q 0x12 1

/-! ### Gain statistics (R145) -/

/-- Entry `i` of the sign vector of draw `n` is −1. -/
def signNeg (n i : Nat) : Bool := bitAt (Config.freeByte n (i / 8)).toNat (i % 8)

/-- Add to sums by line. -/
def addSums (t : Tab Int) (l : List (Nat × Int)) : Tab Int :=
  l.foldl (fun t p => Tab.upd (fun _ => 0) t p.1 (· + p.2)) t

/-- An unsplit read enters the statistics. -/
def GainStat.gather (g : GainStat) (x : List (Nat × Int)) (raw : List (Nat × Int)) : GainStat :=
  let z := (x.map fun p => if signNeg g.draw p.1 then -p.2 else p.2).foldl (· + ·) 0
  if 0 ≤ z then { g with nA := g.nA + 1, mA := addSums g.mA x, rA := addSums g.rA raw }
  else { g with nB := g.nB + 1, mB := addSums g.mB x, rB := addSums g.rB raw }

/-- The statistics of a read on its array. -/
def State.gatherGain (s : State) (t : Resident) (r : Read) (meas : List Int) : State :=
  let a := s.arr r.array
  let x := (List.range r.len).filterMap fun i =>
    let v := r.inputs.getD (r.lo + i) 0
    if v = 0 then none else some (r.lo + i, v)
  if r.transpose then
    s.setArr r.array { a with bwd := a.bwd.gather x ((List.range 1024).map fun i => (i, a.raw t.fine meas (528 + i))) }
  else s.setArr r.array { a with fwd := a.fwd.gather x ((List.range 528).map fun i => (i, a.raw t.fine meas i)) }

/-- An array read: a record in the Logbook of its die, with the split outcome 0 whole, 1 halves, 2 quarters, 3 the digital path
(R393; log entry 157). A read by the stand-in is none. -/
def State.logRead (s : State) (t : Resident) (r : Read) (outcome : Nat) : State :=
  if r.standIn then s
  else s.logFor (keyDie r.array) (coordOfKey r.array) 0x10 (s.readSeq r.seq) (t.id % 2 ^ 32 + outcome * 2 ^ 32)

/-- Deliver or split, once every line is resolved (R94, R103): the codes `known` from confirmed lines, the others from the
level image. A whole read that is not split enters the statistics. -/
def State.readExact (s : State) (t : Resident) (r : Read) (known : List (Option Int)) (railed : Bool) : State :=
  let ks := (List.range (r.lines t)).map fun l => match known.getD l none with
    | some k => k
    | none => t.code r.transpose (s.idealP t r r.lo r.len l)
  let sat := railed || (List.range (r.lines t)).any fun l => known.getD l none == none && t.saturates (ks.getD l 0)
  let r1 := { r with meas := [] }
  let s := s.logRead t r (if sat then r.part + 1 else 0)
  if sat then s.readSplit r1
  else (if r.part = 0 ∧ ¬ r.standIn then s.gatherGain t r r.meas else s).readDeliver r1 (ks.map (t.mOf r.transpose))

/-! ### Conversion (R95 to R98, R108, R109) -/

/-- One line of a read: its code when confirmed, and whether it saturates. -/
structure LineEnd where
  code : Option Int
  sat : Bool
  deriving DecidableEq, Repr

def lineEnd (t : Resident) (a : Arr) (r : Read) (meas : List Int) (l : Nat) : LineEnd :=
  let u := lineMu t a r.transpose meas l
  if (State.physLines t a r.transpose l).any a.isHeld ∨ ¬ confirmedMu r.margin u then { code := none, sat := false }
  else { code := some (codeOfMu u), sat := satMu t.fine r.margin u }

/-- The sums D of a read for its checksum test (R108, R109). -/
def State.testSums (s : State) (t : Resident) (a : Arr) (r : Read) (meas : List Int) : List (Option Dy) :=
  if r.transpose then [some (s.dTranspose t a r meas)] else [s.dForward t a r meas 0, s.dForward t a r meas 1]

/-- ARRAY_READ_CONVERSION_END (R96): `meas` is what the converters resolved, by column or by row. -/
def State.conversionEnd (s : State) (q i : Nat) (meas : List Int) : State :=
  match s.read q i, s.readTensor q with
  | some r, some t =>
    if r.stage ≠ .reading ∨ s.now < r.startedAt + (if t.fine then 128 else 80) then s
    else
      let a := s.arr r.array
      let d := keyDie r.array
      let c := s.readSeq q
      let ends := (List.range (r.lines t)).map (lineEnd t a r meas)
      let sums := s.testSums t a r meas
      let skipped := (sums.filter Option.isNone).length
      let r1 := { r with
        testing := true, dsum := sums, codes := ends.map LineEnd.code, railed := ends.any LineEnd.sat, meas := meas }
      let s1 := (((s.setRead r1).addCheck q).bump (dieCtr 0x1400328 d) skipped).evt c 0x19 skipped
      let u := (ends.filter fun e => e.code.isNone).length
      if u = 0 then s1.readExact t r1 r1.codes r1.railed
      else if u ≤ s.resolveLimit then
        (((s1.setRead { r1 with stage := .resolving }).bump (dieCtr 0x1400318 d) u).evt c 0x14 u).homeWork r
      else
        (((s1.setRead { r1 with stage := .resolving, full := true, codes := [] }).bump (dieCtr 0x1400320 d)).evt c 0x15 1).homeWork r
  | _, _ => s

def execArrayReadConversionEnd (q r : Nat) (meas : List Int) (s : State) : Out := .next (s.conversionEnd q r meas)

/-! ### Resolution and the digital path (R97, R98, R104) -/

/-- The level-image bytes from which P of line `l` is formed (R97, R101, R104): the column of the line, or its row's bytes,
strided by 1,024; for a digital quarter those of the quarter's lines only. -/
def Resident.imageParts (t : Resident) (r : Read) (l : Nat) : List (Nat × Nat) :=
  let a := t.image (t.pair r.s r.g)
  let rep := 2 ^ t.log2r
  let all := r.stage != .digital
  if ¬ r.transpose then [(a + 1024 * (l * rep) + if all then 0 else r.lo, if all then 1024 else r.len)]
  else (List.range (if all then 512 else r.len * rep)).map fun j => (a + 1024 * (j + if all then 0 else r.lo * rep) + l, 1)

/-- The level-image bytes that the sums of a read still to be formed need: of every line that is not confirmed. -/
def Resident.imageNeeds (t : Resident) (r : Read) : List (Nat × Nat) :=
  ((List.range (r.lines t)).filter fun l => r.full || r.standIn || r.stage == .digital || r.codes.getD l none == none).flatMap
    (t.imageParts r)

/-- The level-image bytes that the read needs cannot be read. -/
def State.imageFail (s : State) (t : Resident) (r : Read) : Option (Nat × Bool) := s.rdFails (t.imageNeeds r)

/-- The home cluster reads the level image (R97). -/
def State.imageRead (s : State) (t : Resident) (r : Read) : State :=
  (t.imageNeeds r).foldl (fun (u : State) p => u.trafficOn (s.readHome r).1 (s.readSeq r.seq) false p.1 p.2) s

/-- The level image is lost (R290): what wrote it is replayed, or the command fails; a read for another module is dropped. -/
def State.imageLost (s : State) (r : Read) (f : Nat × Bool) : State :=
  let s1 := s.noteReads [(f.1, 1)]
  if (s.cmd r.seq).isSome then s1.failMem r.seq f else s1.retractRead r

/-- RESOLUTION_COMPLETE (R97, R98, R304): codes come from the level image, and the shadow checks them. A full resolution
takes code and saturation of every line from it. -/
def State.resolved_ (s : State) (q i : Nat) : State :=
  match s.read q i, s.readTensor q with
  | some r, some t =>
    if r.stage ≠ .resolving then s
    else
      if s.heldBack (t.imageNeeds r) then s
      else
      match s.imageFail t r with
      | some f => s.imageLost r f
      | none =>
        let r1 := { r with shadow := true, spares := s.coreSpares (s.readHome r).1 (s.readHome r).2 }
        (((s.imageRead t r).setRead r1).addCheck q).readExact t r1 (if r.full || r.standIn then [] else r.codes) (r.railed && !r.full)
  | _, _ => s

def execResolutionComplete (q r : Nat) (s : State) : Out := .next (s.resolved_ q r)

/-- DIGITAL_QUARTER_COMPLETE (R104): the quarter's exact sums P. -/
def State.digitalEnd (s : State) (q i : Nat) : State :=
  match s.read q i, s.readTensor q with
  | some r, some t =>
    if r.stage ≠ .digital then s
    else
      if s.heldBack (t.imageNeeds r) then s
      else
      match s.imageFail t r with
      | some f => s.imageLost r f
      | none =>
        let r1 := { r with shadow := true, spares := s.coreSpares (s.readHome r).1 (s.readHome r).2 }
        (((s.imageRead t r).setRead r1).addCheck q).readDeliver r1 ((List.range (r.lines t)).map fun l =>
          t.mOfP r.transpose (s.idealP t r r.lo r.len l))
  | _, _ => s

def execDigitalQuarterComplete (q r : Nat) (s : State) : Out := .next (s.digitalEnd q r)

/-! ### Spanned reads (R119, R120) -/

def State.setMatvec (s : State) (w : Matvec) : State :=
  { s with af := { s.af with matvecs := s.af.matvecs.map fun (x : Matvec) => if x.seq = w.seq then w else x } }

/-- The oldest command that has an input vector out for the read that a spanned message names: `among` says which of a
command's reads count. The array of the message lies in the bank of the pair's array, which a spare does not leave (R89).
Messages do not name the command, so that of commands of one step on one tensor the oldest takes it (log entry 146). -/
def State.spanCmd (s : State) (rank id step : Nat) (pl : SpanPlace) (among : Matvec → List (Nat × Nat × Nat)) : Option Matvec :=
  (s.resident id).bind fun t =>
    if (t.placeOf pl.seg pl.group).1 = rank ∧ (t.placeOf pl.seg pl.group).2 / 264 = keyOfCoord pl.coord / 264 then
      s.af.matvecs.reverse.find? fun w => w.tensor == id && (s.cmd w.seq).any (fun c => c.step == step) &&
        (among w).contains (pl.vec, pl.seg, pl.group)
    else none

/-- The partial sums m × 2^e of an array on another module, by line, enter the home cluster and are provisional until their
checks are reported. -/
def State.spannedSum (s : State) (rank id step : Nat) (pl : SpanPlace) (e : Int) (ms : List Int) : State :=
  match s.resident id, s.spanCmd rank id step pl Matvec.remote with
  | some t, some w =>
    let got := ((List.range ms.length).zip ms).map fun x => (pl.vec, t.pair pl.seg pl.group, x.1, (Dy.mk x.2 e))
    let p := (pl.vec, pl.seg, pl.group)
    let w1 := { w with remote := w.remote.erase p, unchecked := w.unchecked ++ [p], received := w.received ++ got }
    (((s.setMatvec w1).addCheck w.seq).crossing (some w.seq) 4 (w.home / 32)).matvecDone w.seq
  | _, _ => s

/-- Another module's checks of partial sums that this one received have passed. -/
def State.spannedPassed (s : State) (rank id step : Nat) (pl : SpanPlace) : State :=
  match s.spanCmd rank id step pl Matvec.unchecked with
  | some w =>
    (s.setMatvec { w with unchecked := w.unchecked.erase (pl.vec, pl.seg, pl.group) }).updCmd w.seq fun c => { c with checks := c.checks - 1 }
  | none => s

/-- Another module retracts partial sums, received or still to come: the command is tainted. -/
def State.spannedRetracted (s : State) (rank id step : Nat) (pl : SpanPlace) : State :=
  match s.spanCmd rank id step pl fun w => w.unchecked ++ w.remote with
  | some w => (s.setMatvec { w with unchecked := w.unchecked.erase (pl.vec, pl.seg, pl.group) }).taint w.seq
  | none => s

/-- SPANNED_PARTIAL_SUM_ARRIVAL (R119). -/
def State.spannedNote (s : State) (rank id step : Nat) (pl : SpanPlace) (note : SpanNote) : State :=
  match note with
  | .sums e ms => s.spannedSum rank id step pl e ms
  | .passed => s.spannedPassed rank id step pl
  | .retracted => s.spannedRetracted rank id step pl

def execSpannedPartialSumArrival (rank tensor step : Nat) (place : SpanPlace) (note : SpanNote) (s : State) : Out :=
  .next (s.spannedNote rank tensor step place note)

/-- A check of a read for another module has ended. When every part of the read has passed, its home cluster learns that the
sums stand; a failure retracts them, and the read is dropped (R119). -/
def State.spannedEnd (s : State) (r : Read) (ok : Bool) : State :=
  if ¬ ok then s.retractRead r
  else if (s.partsOf r).all fun x => x.done && !x.testing && !x.shadow then s.spanMsg r 0x42 []
  else s

/-- SPANNED_INPUT_ARRIVAL (R120): rank `rank` sends a piece of an input vector; this module converts it and reads the
pairs it holds at the version that the step requires. -/
def State.spannedInput (s : State) (rank id step : Nat) (x : SpanPiece) (tr : Bool) (vals : List Val) : State :=
  match s.resident id with
  | none => s
  | some t =>
    if vals.all Val.isZero ∨ ¬ t.span then s
    else
      let q := 2 ^ 65 + s.af.spanned.length
      let sg := segment vals
      let reads := number (((t.pairsOf tr x.index).filter fun p => s.isLocal t p.1 p.2).map fun p =>
        { newRead q 0 x.vec p.1 p.2 tr (t.lineCount tr) sg.1 sg.2 (t.ver step) s.now with array := (t.placeOf p.1 p.2).2 })
      { s with af := { s.af with
        spanned := s.af.spanned ++ [(q, rank, id, step)], reads := s.af.reads ++ reads } }

def execSpannedInputArrival (rank tensor step : Nat) (piece : SpanPiece) (transpose : Bool) (vals : List Val) (s : State) : Out :=
  .next (s.spannedInput rank tensor step piece transpose vals)

/-! ### Steps of the ramps -/

/-- A cluster has work: a tile of a running command waits for its pass there, on its gang when it needs one, or exact sums of
a read are formed there (R97, R104, R304). -/
def State.clusterBusy (s : State) (die cluster : Nat) : Bool :=
  (s.mc.tiles.any fun t => t.die == die && t.cluster == cluster && !t.left &&
    (s.cmd t.seq).elim false (fun c => c.stage == .running && !c.tainted) &&
    ((s.gangOf t).isSome || s.mc.works.any fun w => w.seq == t.seq && w.side == 0)) ||
  s.af.reads.any fun r => (r.stage == .resolving || r.stage == .digital) && s.readLive r.seq && s.readHome r == (die, cluster)

/-- RAMP_STAGE_CHANGE (R171 to R173): one step toward the target, when U/8 or V/8 cycles have passed. `cycles` have passed
since the last change; the credit counter gave its issue slots in them, of which `filler` carried filler operations. -/
def State.rampStep (s : State) (die cluster cycles filler : Nat) : State :=
  let k := clusterKey die cluster
  let target := if s.clusterBusy die cluster then s.ceiling else 0
  let st := s.stageOf k
  let up := decide (st < target)
  let len := match s.rampOf k with
    | some r => if r.1 = up then r.2 else if up then s.rampUp else s.rampDown
    | none => if up then s.rampUp else s.rampDown
  if st = target ∨ cycles < len then s
  else
    let sum := s.creditOf k + st * cycles
    let st' := if up then st + 1 else st - 1
    let s1 := s.putStage k st' (sum % 8) (if st' = target then none else some (up, len))
    let n := min filler (sum / 8)
    (s1.bump (dieCtr 0x1800318 die) n).evtU 0x02 n

def execRampStageChange (x : ClusterId) (cycles : RampCycles) (s : State) : Out :=
  .next (s.rampStep x.die.val x.cluster.val cycles.passed cycles.fillers)

end Sys2Proof.Machine
end

