-- ==== Sys2Proof/Machine/Versions.lean ====
section
/-!
DEFINITION. Level-change lists, versions and transitions (R128 to R136, R232 to R238, R242): PROG and the LEVELS
operation of MAINT; LOAD (R85, R86, R137, Table 11.6); and the queue of Almanac activities.
-/
namespace Sys2Proof.Machine

open Sys2Proof

/-! ### Activities -/

/-- A new activity waits for the Almanac (R158). -/
def State.queueAct (s : State) (kind : ActKind) (work : ActWork) (bank array cls : Nat) (seqs : List Nat) : State :=
  let a : Activity := {
    id := s.uk.nextId, kind := kind, work := work, bank := bank, array := array, cls := cls, queuedAt := s.now
    seqs := seqs, asked := none, held := 0, running := false, startedAt := 0 }
  { s with uk := { s.uk with acts := s.uk.acts ++ [a], nextId := s.uk.nextId + 1 } }

/-- An activity on array `k`. -/
def State.queueOn (s : State) (kind : ActKind) (work : ActWork) (k cls : Nat) (seqs : List Nat) : State :=
  s.queueAct kind work (k / 264) k cls seqs

/-! ### References (R131) -/

/-- Command `q` still holds its references to pair `p`: it has started, and some partial sum of the pair is provisional
or still to come. A RECOMP holds the references of R224 until it is clear. -/
def State.holdsRef (s : State) (q : Nat) (t : Resident) (p : Nat) : Bool :=
  match s.cmd q with
  | none => false
  | some c =>
    let open_ := s.af.reads.any fun r => r.seq == q && t.pair r.s r.g == p && (!r.done || r.testing || r.shadow)
    if c.opcode = 0x2A then c.stage.hasStarted && !c.stage.isClear && c.stage != .failed
    else match c.stage with
    | .started => true
    | .running => c.tainted || open_
    | .delivered => c.tainted || open_
    | _ => c.tainted

/-- Some issued command, or another module's read, refers to version `v` of pair `p`. -/
def State.referred (s : State) (t : Resident) (p v : Nat) : Bool :=
  (s.af.refs.any fun r => r.tensor == t.id && r.version == v && s.holdsRef r.seq t p) ||
    s.af.reads.any fun r => decide (2 ^ 65 ≤ r.seq) && r.version == v && t.pair r.s r.g == p && (!r.done || r.testing || r.shadow)

/-! ### Change sets -/

/-- Bytes of the level image of a pair that hold the weight (row, logical column). -/
def Resident.imageBytes (t : Resident) (p row col : Nat) : List Nat :=
  (List.range (2 ^ t.log2r)).map fun i => t.image p + 1024 * (col * 2 ^ t.log2r + i) + row

/-- What a change set holds for a pair: (row, logical column, level). -/
def Resident.entriesOf (t : Resident) (p : Nat) (cs : ChangeSet) : List (Nat × Nat × Int) :=
  cs.entries.filterMap fun e =>
    let k := e.1 / t.n
    let n := e.1 % t.n
    if t.pair (k / 1024) (n / t.perGroup) = p then some (k % 1024, n % t.perGroup, e.2) else none

/-- What it does to the pair: the weights whose level changes (R130). -/
def State.changesOf (s : State) (t : Resident) (p : Nat) (cs : ChangeSet) : List (Nat × Nat × Int) :=
  (t.entriesOf p cs).filter fun e => s.level t p e.1 (e.2.1 * 2 ^ t.log2r) != e.2.2

/-- Rows of a change set in ascending order, with the levels of their weights by logical column. -/
def rowsOfChanges (l : List (Nat × Nat × Int)) : List (Nat × List (Nat × Int)) :=
  ((List.range 1024).map fun r => (r, (l.filter fun e => e.1 == r).map Prod.snd)).filter fun p => !p.2.isEmpty

/-- Write levels into the level image (R86, R133). -/
def State.imageRow (s : State) (q : Nat) (t : Resident) (p row : Nat) (l : List (Nat × Int)) : State :=
  l.foldl (fun (s : State) e =>
    (t.imageBytes p row e.1).foldl (fun (s : State) a => (s.wr a [BitVec.ofNat 8 (unsignedOf e.2 8)]).noteWrite q a 1) s) s

/-- The rows of a list that command `q` brought (R290: it wrote them). -/
def State.imageRows (s : State) (q : Nat) (t : Resident) (p : Nat) (rows : List (Nat × List (Nat × Int))) : State :=
  rows.foldl (fun (s : State) r => s.imageRow q t p r.1 r.2) s

/-- R236: with LAG 1, version n is taken only after step n + 1 has been resolved. -/
def State.lagOk (s : State) (t : Resident) (n : Nat) : Bool := t.lag == 0 || s.resolved (n + 1)

/-- A pair takes a version. -/
def State.setPairVersion (s : State) (t : Resident) (sg g v : Nat) : State :=
  let k0 := (t.placeOf sg g).2
  let s1 := s.setArr k0 { s.arr k0 with version := v }
  match s1.server t sg g with
  | .array k => s1.setArr k { s1.arr k with version := v }
  | _ => s1

/-- The next change set of a pair (R236). -/
def State.nextSet (s : State) (t : Resident) (sg g : Nat) : Option ChangeSet :=
  t.sets.find? fun c => decide (s.pairVersion t sg g < c.step)

/-- Bring a pair as far as it goes without a write window: an empty change set is taken at once (R132), another waits for
its transition, which goes over to the change set of an earlier step accepted before it starts (R236); while the stand-in
serves, the level image alone changes (assumption 31). -/
def State.settlePair (s : State) (t : Resident) (sg g : Nat) : Nat → State
  | 0 => s
  | n + 1 =>
    match s.nextSet t sg g with
    | none => s
    | some cs =>
      if ¬ s.lagOk t cs.step then s
      else
        let p := t.pair sg g
        let ch := s.changesOf t p cs
        match s.server t sg g with
        | .loading => s
        | .standIn =>
          if ch.isEmpty ∨ ¬ s.referred t p (s.pairVersion t sg g) then
            ((s.imageRows cs.seq t p (rowsOfChanges ch)).setPairVersion t sg g cs.step).settlePair t sg g n
          else s
        | .array k =>
          match (s.arr k).transition with
          | some x =>
            if x.started ∨ x.step ≤ cs.step then s
            else s.setArr k { s.arr k with transition := some { x with step := cs.step } }
          | none =>
          if ch.isEmpty then (s.setPairVersion t sg g cs.step).settlePair t sg g n
          else
            (s.setArr k { s.arr k with transition := some { step := cs.step, rows := [], started := false } }).queueOn .window
              .transition k 2 []

/-- The pairs that this module holds. -/
def State.localPairs (s : State) (t : Resident) : List (Nat × Nat) :=
  ((List.range t.segments).flatMap fun sg => (List.range t.groups).map fun g => (sg, g)).filter fun p => s.isLocal t p.1 p.2

/-- An array does the work of a pair at version `n` or a later one, or no array is left to do it (R135, R304). -/
def State.pairHolds (s : State) (t : Resident) (n sg g : Nat) : Bool :=
  match s.server t sg g with
  | .array k => decide (n ≤ (s.arr k).version)
  | .standIn => (s.active (t.placeOf sg g).2).isNone && decide (n ≤ s.pairVersion t sg g)
  | .loading => false

/-- R135, R238: a running PROG or LEVELS whose version every array holds is delivered. -/
def State.progEnds (s : State) : State :=
  s.hg.cmds.foldl (fun (s : State) c =>
    match c.levels, c.seq with
    | some (id, n), some q =>
      if (s.cmd q).any (fun d => d.stage == .running && !d.tainted) then
        match s.resident id with
        | some t => if s.lagOk t n ∧ (s.localPairs t).all (fun p => s.pairHolds t n p.1 p.2) then s.deliver q else s
        | none => s
      else s
    | _, _ => s) s

/-- Commands that wait for a version whose announcement has failed complete with BAD_DESCRIPTOR (R235). -/
def State.failOrphans (s : State) : State :=
  (s.af.reads.filter fun r => r.stage == .waiting).foldl (fun (s : State) r =>
    match s.readTensor r.seq with
    | some t => if s.readLive r.seq ∧ s.pairVersion t r.s r.g < r.version ∧ s.announcerFailed t r.version then
        s.failRead r .badDescriptor 0xFF else s
    | none => s) s

/-- Every pair of every tensor goes as far as it can. -/
def State.settleAll (s : State) : State :=
  (s.af.tensors.foldl (fun (s : State) t =>
    (s.localPairs t).foldl (fun (s : State) p => s.settlePair t p.1 p.2 (t.sets.length + 1)) s) s).failOrphans.progEnds

/-! ### PROG and LEVELS -/

/-- An entry of a level-change list (Table 5.2): index and level; none when R129 rejects it. -/
def listEntry (t : Resident) (b : List Byte) : Option (Nat × Int) :=
  let v := leNat b
  let l := signedOf (bitsOf v 0 6) 6
  if bitsOf v 6 10 ≠ 0 ∨ l = -32 ∨ t.k * t.n ≤ bitsOf v 16 48 then none else some (bitsOf v 16 48, l)

/-- The last entry of each weight (R130), in ascending order. -/
def lastEntries (l : List (Nat × Int)) : List (Nat × Int) := l.foldl (fun t e => Tab.put true e.1 e.2 t) []

/-- A list is rejected: the command completes with BAD_DESCRIPTOR, and so does every command that waits for a version
that no other command has announced (R235). -/
def State.rejectList (s : State) (q field : Nat) : State := (s.failCmd q .badDescriptor field).failOrphans

/-- A checked list is accepted: it becomes the change set of step `n`. -/
def State.acceptList (s : State) (q n : Nat) (t : Resident) (entries : List (Nat × Int)) : State :=
  let cs : ChangeSet := { step := n, seq := q, entries := entries }
  let t1 := { t with
    sets := t.sets.filter (·.step < n) ++ [cs] ++ t.sets.filter (n < ·.step)
    announced := if t.announced.contains n then t.announced else n :: t.announced }
  ((s.setResident t1).updCmd q fun c => { c with stage := .running }).settleAll

/-- The list at `addr` of `count` entries is read and checked (R129). -/
def State.takeChanges (s : State) (q n : Nat) (t : Resident) (addr count : Nat) : State :=
  if s.rangeBad addr (8 * count) then s.rejectList q 0xFF
  else if s.heldBack [(addr, 8 * count)] then s
  else
    match s.rdFail addr (8 * count) with
    | some f => (s.noteReads [(f.1, 1)]).failMem q f
    | none =>
      let l := (List.range count).map fun i => listEntry t (s.rd (addr + 8 * i) 8)
      if l.all Option.isSome then
        (s.readOperands q [(addr, 8 * count)]).acceptList q n t (lastEntries (l.filterMap id))
      else s.rejectList q 0xFF

/-- A PROG or LEVELS is repaired after its version has begun to be taken (R288, R290): it writes the levels of its list again
in the images of the pairs that hold its version. -/
def State.rewriteLevels (s : State) (q n : Nat) (t : Resident) : State :=
  match t.sets.find? fun x => x.step == n with
  | none => s
  | some cs =>
    ((s.localPairs t).foldl (fun (s : State) p =>
      if s.pairVersion t p.1 p.2 = n then
        s.imageRows q t (t.pair p.1 p.2) (rowsOfChanges (t.entriesOf (t.pair p.1 p.2) cs)) else s)
      (s.updCmd q fun c => { c with stage := .running })).settleAll

/-- PROG and LEVELS (R128, R129, R242): fields that name the tensor and the list. -/
def State.runLevels (s : State) (q op id idField addr addrField count : Nat) : State :=
  match s.runnable q op with
  | none => s
  | some c =>
    let n := c.step
    match s.resident id with
    | none => s.rejectList q idField
    | some t =>
      if t.summer ≠ (op == 0x12) then s.rejectList q idField
      else if c.repaired ∧ t.sets.any (fun x => x.step = n ∧ x.seq = q) ∧ (s.localPairs t).any (fun p => decide (n ≤ s.pairVersion t p.1 p.2)) then
        s.rewriteLevels q n t
      else if (s.localPairs t).any (fun p => decide (n ≤ s.pairVersion t p.1 p.2)) ∨ t.sets.any (fun x => x.step = n ∧ x.seq ≠ q) then
        s.rejectList q 4
      else if op = 0x12 ∧ (s.stepInfo n).mark = .skipped then s.acceptList q n t []
      else if count ≠ 2 ^ 64 - 1 then s.takeChanges q n t addr count
      else if addr % 64 ≠ 0 ∨ s.rangeBad addr 64 then s.rejectList q addrField
      else if s.heldBack [(addr, 64), (addr + 64, 8 * s.rdNat addr 8)] then s
      else
        match s.rdFail addr 64 with
        | some f => s.failMem q f
        | none =>
          if s.rdNat (addr + 8) 4 ≠ n ∨ s.rdNat (addr + 12) 4 ≠ id then s.rejectList q 0xFF
          else (s.readOperands q [(addr, 64)]).takeChanges q n t (addr + 64) (s.rdNat addr 8)

/-- PROG (R128 to R135, R242). -/
def State.runProg (s : State) (q : Nat) : State :=
  match s.cmd q with
  | some c => s.runLevels q 0x12 (c.u 16 4) 16 (c.u 24 8) 24 (c.u 32 8)
  | none => s

def execProg (q : Nat) (s : State) : Out := .next (s.runProg q)

/-- LEVELS of MAINT (Table 5.5): its target is a tensor. -/
def State.runMaintLevels (s : State) (q : Nat) : State :=
  match s.runnable q 0x48 with
  | some c =>
    if c.u8 16 ≠ 5 then s
    else if c.u8 17 ≠ 3 then s.rejectList q 17
    else s.runLevels q 0x48 (c.u 20 4) 20 (c.u 40 8) 40 (c.u 48 8)
  | none => s

def execMaintLevels (q : Nat) (s : State) : Out := .next (s.runMaintLevels q)

/-! ### LOAD -/

/-- A LOAD block's fields (Table 11.6); `map` is the address of its MAP. -/
structure LoadBlock where
  t : Resident
  map : Nat
  deriving DecidableEq, Repr

def loadBlock (l : List Byte) (q : Nat) : LoadBlock :=
  let u (i n : Nat) : Nat := leNat ((l.drop i).take n)
  let cls := u 50 1
  { map := u 32 8
    t := {
      id := u 0 4, loading := some q, loader := q, v0 := u 4 4, h := u 8 8, nu := u 16 8, limg := u 24 8, map := [], k := u 40 4
      n := u 44 4, omega := signedOf (u 48 1) 8, rho := u 49 1 % 16, rhoT := u 49 1 / 16, summer := bitAt cls 0
      log2r := bitsOf cls 1 2, fine := bitAt cls 3, tdig := bitAt cls 4, span := bitAt cls 5, lag := bitsOf cls 6 1
      remBits := if u 51 1 = 0 then 8 else 16, announced := [], sets := [] } }

/-- The block's own rules (R84, R111, R119, Table 11.6). -/
def loadGood (l : List Byte) : Bool :=
  let u (i n : Nat) : Nat := leNat ((l.drop i).take n)
  let b := (loadBlock l 0).t
  u 52 76 == 0 && b.k != 0 && b.n != 0 && decide (-64 ≤ b.omega) && decide (b.omega ≤ 63) && !bitAt (u 50 1) 7 &&
    decide (u 51 1 < 2) && (if b.summer then b.log2r == 1 || b.log2r == 2 else b.log2r == 0) && !(b.span && b.summer) &&
    b.h % 64 == 0 && b.nu % 64 == 0

/-- Entries of the MAP. -/
def State.loadMap (s : State) (b : LoadBlock) : List Nat :=
  (List.range (b.t.segments * b.t.groups)).map fun i => s.rdNat (b.map + 8 * i) 8

/-- No two entries are equal. -/
def distinct : List Nat → Bool
  | [] => true
  | a :: l => !l.contains a && distinct l

/-- The MAP names free arrays (R89, R115), at most 16 modules with SPAN (R119). An array that a spare replaces (R305) is
named by its own coordinate. -/
def State.mapGood (s : State) (b : LoadBlock) (m : List Nat) : Bool :=
  let mine := m.filter fun e => !b.t.span || bitsOf e 32 10 == s.rank
  let free (c : Nat) : Bool :=
    coordOk c && decide (keyArray (keyOfCoord c) < 256) && (s.arr (keyOfCoord c)).tensor.isNone
  m.all (fun e => decide (e < 2 ^ 42)) && (mine.all fun e => free (bitsOf e 0 32)) && distinct (m.map fun e => if b.t.span then e else bitsOf e 0 32) &&
    (!b.t.span || decide ((m.map fun e => bitsOf e 32 10).eraseDups.length ≤ 16))

/-- The master weight of index `i`. -/
def State.weightAt (s : State) (t : Resident) (i : Nat) : Val :=
  masterW (s.rdNat (t.h + 2 * i) 2) (signedOf (s.rdNat (t.nu + t.remBits / 8 * i) (t.remBits / 8)) t.remBits) t.remBits

/-- The level image of a pair, column by column (R86). -/
def State.imageOf (s : State) (t : Resident) (sg g : Nat) : List Byte :=
  (List.range 0x80000).map fun i =>
    let row := i % 1024
    let col := i / 1024 / 2 ^ t.log2r
    if row < t.rowsOf sg ∧ col < t.colsOf g then
      BitVec.ofNat 8 (unsignedOf ((levelOf t.omega (s.weightAt t ((1024 * sg + row) * t.n + t.perGroup * g + col))).getD 0) 8)
    else 0

/-- A checked LOAD (R85, R86, R137): level images are written, and each array waits for its programming. -/
def State.placeTensor (s : State) (q : Nat) (t : Resident) : State :=
  let nf := (List.range (t.k * t.n)).any fun i => (levelOf t.omega (s.weightAt t i)).isNone
  let s1 := ({ s with af := { s.af with tensors := s.af.tensors ++ [t] } }).addCond q [] (indBit 0 nf)
  (s1.localPairs t).foldl (fun (u : State) p =>
    let k := (t.placeOf p.1 p.2).2
    let pr := t.pair p.1 p.2
    let u1 := ((u.wr (t.image pr) (s.imageOf t p.1 p.2)).noteWrite q (t.image pr) 0x80000).traffic (some q) true (t.image pr) 0x80000
    let u2 := u1.setArr k { u1.arr k with tensor := some t.id, pair := pr, version := t.v0 }
    match u2.active k with
    | none => u2
    | some j => (u2.setArr j { u2.arr j with tensor := some t.id, pair := pr, version := t.v0 }).queueOn .program .plain j 2 [q]) s1

/-- A LOAD that is run again (R288) starts from free arrays. -/
def State.unload (s : State) (q : Nat) : State :=
  match s.af.tensors.find? fun t => t.loader == q with
  | none => s
  | some t =>
    let s1 := { s with af := { s.af with tensors := s.af.tensors.filter (·.loader ≠ q) }, uk := { s.uk with
      acts := s.uk.acts.filter fun a => !a.seqs.contains q } }
    (s.localPairs t).foldl (fun (u : State) p =>
      let k := (t.placeOf p.1 p.2).2
      let u1 := u.setArr k { u.arr k with tensor := none, inService := false }
      match u1.active k with
      | none => u1
      | some j => u1.setArr j { u1.arr j with tensor := none, inService := false }) s1

/-- LOAD (Table 11.6). Versions that commands accepted before it announced count as announced (R233). -/
def State.runLoad (s : State) (q : Nat) : State :=
  match s.runnable q 0x13 with
  | none => s
  | some c =>
    let a := c.u 16 8
    if s.heldBack [(a, 128)] then s
    else
    let s := s.unload q
    match s.rdFail a 128 with
    | some f => (s.noteReads [(f.1, 1)]).failMem q f
    | none =>
      let raw := s.rd a 128
      let b := loadBlock raw q
      let n := b.t.segments * b.t.groups
      if ¬ loadGood raw ∨ (s.resident b.t.id).isSome ∨ b.map % 8 ≠ 0 ∨ s.rangeBad b.map (8 * n) ∨ s.rangeBad b.t.limg (0x80000 * n) ∨
          isHost b.t.limg ∨ s.rangeBad b.t.h (2 * b.t.k * b.t.n) ∨ s.rangeBad b.t.nu (b.t.remBits / 8 * b.t.k * b.t.n) then s.badStruct q
      else
        let planes := [(b.map, 8 * n), (b.t.h, 2 * b.t.k * b.t.n), (b.t.nu, b.t.remBits / 8 * b.t.k * b.t.n)]
        if s.heldBack ((b.t.limg, 0x80000 * n) :: planes) then s
        else
        match s.rdFails planes with
        | some f => (s.noteReads [(f.1, 1)]).failMem q f
        | none =>
          let m := s.loadMap b
          if ¬ s.mapGood b m then s.badStruct q
          else
            let ann := s.hg.cmds.filterMap fun d => if d.seq.isNone then none else
              match d.levels with
              | some (id, v) => if id = b.t.id then some v else none
              | none => none
            let t := { b.t with map := m.map (fun e => (bitsOf e 32 10, keyOfCoord (bitsOf e 0 32))), announced := ann }
            ((s.readOperands q ((a, 128) :: planes)).placeTensor q t).updCmd q fun c => { c with stage := .running }

def execLoad (q : Nat) (s : State) : Out := .next (s.runLoad q)

/-- A LOAD completes when every array of its tensor is in service (Table 11.6). -/
def State.loadEnds (s : State) (id : Nat) : State :=
  match s.resident id with
  | none => s
  | some t =>
    match t.loading with
    | none => s
    | some q =>
      let ready := (s.localPairs t).all fun p => match s.server t p.1 p.2 with
        | .loading => false
        | .array _ => true
        | .standIn => (s.active (t.placeOf p.1 p.2).2).isNone
      if ready then (s.setResident { t with loading := none }).deliver q else s

end Sys2Proof.Machine
end

