-- ==== Sys2Proof/Machine/Update.lean ====
section
/-!
DEFINITION. UPDT (R209 to R215, R239 to R241, Table 11.7).
-/
namespace Sys2Proof.Machine

open Sys2Proof

/-- The fields of an UPDT block (Table 11.7). -/
structure Updt where
  opt : Nat
  mfmt : Nat
  rem : Nat
  cc : Nat
  mId : Nat
  vId : Nat
  eta : F32
  lambda : F32
  gamma : F32
  mu : F32
  beta1 : F32
  beta2 : F32
  eps : F32
  grad : Nat
  h : Nat
  nu : Nat
  state : Nat
  m : Nat
  v : Nat
  list : Nat
  lcap : Nat
  count : Nat
  base : Nat
  wtid : Nat
  deriving DecidableEq, Repr

def updtOf (l : List Byte) : Updt :=
  let u (i n : Nat) : Nat := leNat ((l.drop i).take n)
  let f (i : Nat) : F32 := BitVec.ofNat 32 (u i 4)
  { opt := u 0 1, mfmt := u 1 1, rem := u 2 1, cc := u 3 1, mId := u 4 4, vId := u 8 4, eta := f 12, lambda := f 16, gamma := f 20
    mu := f 24, beta1 := f 28, beta2 := f 32, eps := f 36, grad := u 40 8, h := u 48 8, nu := u 56 8, state := u 64 8
    m := u 72 8, v := u 80 8, list := u 88 8, lcap := u 96 8, count := u 104 8, base := u 112 6, wtid := u 120 4 }

/-- b_r (R210) and bytes of a state element. -/
def Updt.br (p : Updt) : Nat := if p.rem = 0 then 8 else 16
def Updt.width (p : Updt) : Nat := if p.mfmt = 0 then 4 else 2
/-- The m plane is stored (R213). -/
def Updt.hasM (p : Updt) : Bool := p.opt == 1 || p.m != 0

/-- Planes of the shard that UPDT reads and writes. -/
def Updt.planes (p : Updt) : List (Nat × Nat) :=
  [(p.h, 2 * p.count), (p.nu, p.br / 8 * p.count), (p.state, 16)] ++ (if p.hasM then [(p.m, p.width * p.count)] else []) ++
    (if p.opt = 1 then [(p.v, p.width * p.count)] else [])

/-- The block's rules (R210, R213, R241, R333, Table 11.7), and those of the tensor whose levels the list follows. -/
def State.updtGood (s : State) (l : List Byte) : Bool :=
  let u (i n : Nat) : Nat := leNat ((l.drop i).take n)
  let p := updtOf l
  decide (p.opt < 2) && decide (p.mfmt < 2) && decide (p.rem < 2) && decide (p.cc < 4) && u 118 2 == 0 && u 124 4 == 0 &&
  (p.planes.all fun r => r.1 % 64 == 0 && !s.rangeBad r.1 r.2) && !s.rangeBad p.grad (4 * p.count) &&
  (p.list == 0 || (p.list % 64 == 0 && decide (p.count ≤ p.lcap) && !s.rangeBad p.list (64 + 8 * p.lcap) &&
    (s.resident p.wtid).any fun t => t.summer && decide (p.base + p.count ≤ t.k * t.n)))

/-- One element before and after the update (R214). -/
structure NewElem where
  w : Val
  new : NewMaster
  m : F32
  v : F32
  deriving DecidableEq, Repr

/-- P1' and P2' (R214). -/
def State.updtP (s : State) (p : Updt) : F32 × F32 :=
  (fmul (BitVec.ofNat 32 (s.rdNat (p.state + 8) 4)) p.beta1, fmul (BitVec.ofNat 32 (s.rdNat (p.state + 12) 4)) p.beta2)

/-- A state value as FP32 (R48). -/
def State.stateVal (s : State) (p : Updt) (a k : Nat) : F32 :=
  round32V ((if p.mfmt = 0 then fpFP32 else fpBF16).decode (s.rdNat (a + p.width * k) p.width))

/-- R214 for element `k`. -/
def State.updtElem (s : State) (p : Updt) (k : Nat) : NewElem :=
  let g0 := fmul p.gamma (BitVec.ofNat 32 (s.rdNat (p.grad + 4 * k) 4))
  let x := masterW (s.rdNat (p.h + 2 * k) 2) (signedOf (s.rdNat (p.nu + p.br / 8 * k) (p.br / 8)) p.br) p.br
  let w := round32V x
  if p.opt = 0 then
    let g := ffma p.lambda w g0
    let m := if p.hasM then ffma p.mu (s.stateVal p p.m k) g else g
    { w := x, new := applyRemainder x (fneg (fmul p.eta m)) p.br, m := m, v := 0 }
  else
    let pp := s.updtP p
    let m := ffma p.beta1 (s.stateVal p p.m k) (fmul (fsub one32 p.beta1) g0)
    let v := ffma p.beta2 (s.stateVal p p.v k) (fmul (fmul (fsub one32 p.beta2) g0) g0)
    let mh := fmul m (frecip (fsub one32 pp.1))
    let vh := fmul v (frecip (fsub one32 pp.2))
    let d := fneg (fmul p.eta (ffma p.lambda w (fmul mh (frsqrt (fadd vh p.eps)))))
    { w := x, new := applyRemainder x d p.br, m := m, v := v }

/-- The conversion of a state value into MFMT, with the draw of its plane (R51, R214). -/
def updtCvt (p : Updt) (seed : W64) (step id k : Nat) (x : F32) : Cvt :=
  (if p.mfmt = 0 then fpFP32 else fpBF16).cvt (bitAt p.cc 1)
    (if bitAt p.cc 0 then .stoch (draw16 seed id step (p.base + k)) else .near) (val32 x)

/-- The entry of a changed level (R239, Table 5.2). -/
def levelEntry (t : Resident) (p : Updt) (k : Nat) (e : NewElem) : Option (List Byte) :=
  let old := (levelOf t.omega e.w).getD 0
  let new := (levelOf t.omega (masterW e.new.h e.new.nu p.br)).getD 0
  if old = new then none else some (natLe 8 (unsignedOf new 6 + (p.base + k) * 65536))

/-- A weight whose level is taken from a non-finite value (R85). -/
def levelNf (t : Resident) (p : Updt) (e : NewElem) : Bool :=
  (levelOf t.omega e.w).isNone || (levelOf t.omega (masterW e.new.h e.new.nu p.br)).isNone

/-- A list in header form (R241). -/
def headerList (step id : Nat) (entries : List (List Byte)) : List Byte :=
  natLe 8 entries.length ++ natLe 4 step ++ natLe 4 id ++ List.replicate 48 0 ++ entries.flatten

/-- The update is written (R215): every element's operation residue check has passed. The state header comes last. -/
def State.updtWrite (s : State) (c : Cmd) (q : Nat) : State :=
  let p := updtOf (s.rd (c.u 16 8) 128)
  let ids := List.range p.count
  let es := ids.map (s.updtElem p)
  let ke := ids.zip es
  let ms := if p.hasM then ke.map fun x => updtCvt p c.seed c.step p.mId x.1 x.2.m else []
  let vs := if p.opt = 1 then ke.map fun x => updtCvt p c.seed c.step p.vId x.1 x.2.v else []
  let t := if p.list = 0 then none else s.resident p.wtid
  let entries := match t with
    | some t => ke.filterMap fun x => levelEntry t p x.1 x.2
    | none => []
  let pp := s.updtP p
  let header := natLe 4 ((s.rdNat p.state 4 + 1) % 2 ^ 32) ++ natLe 4 0 ++
    (if p.opt = 1 then natLe 4 pp.1.toNat ++ natLe 4 pp.2.toNat else s.rd (p.state + 8) 8)
  let nf := es.any (fun e => e.new.nf) || (ms ++ vs).any (fun x => x.nf) || t.any fun t => es.any (levelNf t p)
  let sats := (es.filter fun e => e.new.sat).length + ((ms ++ vs).filter fun x => x.sat).length
  let s1 := s.writeAll (some q) ([
    (p.h, es.flatMap fun e => natLe 2 e.new.h), (p.nu, es.flatMap fun e => natLe (p.br / 8) (unsignedOf e.new.nu p.br))] ++
    (if p.hasM then [(p.m, ms.flatMap fun x => natLe p.width x.bits)] else []) ++
    (if p.opt = 1 then [(p.v, vs.flatMap fun x => natLe p.width x.bits)] else []) ++
    (if t.isSome then [(p.list, headerList c.step p.wtid entries)] else []) ++ [(p.state, header)])
  let s2 := ((s1.countOn (freeDie s1.free) 0x1C00310 (List.range sats)).freeStep.evt (some q) 0x20 (ms ++ vs).length).evt (some q) 0x21 sats
  (s2.addCond q [] (indBit 0 nf ||| indBit 1 (decide (0 < sats)))).deliver q

/-- UPDT: it waits until its step is resolved (R209, R294). After the fence it computes, and its results wait for the
operation residue check (R285). -/
def State.runUpdt (s : State) (q : Nat) : State :=
  match s.runnable q 0x38 with
  | none => s
  | some c =>
    let n := c.step
    let a := c.u 16 8
    if s.heldBack [(a, 128)] then s
    else
    match s.rdFail a 128 with
    | some f => (s.noteReads [(f.1, 1)]).failMem q f
    | none =>
      let raw := s.rd a 128
      let p := updtOf raw
      if ¬ s.updtGood raw then s.badStruct q
      else if (s.stepInfo n).mark = .incomplete then s.failCmd q .waitTimeout 0
      else if (s.stepInfo n).mark = .open ∨ ¬ (s.dependsOn c).all (fun d => d.stage.isClear || d.stage == .failed) then s
      else if (s.stepInfo n).mark = .skipped then
        ((s.bump 0x1C00200).addCond q [.okFlagged] 8#16).deliver q
      else
        let reads := (a, 128) :: (p.grad, 4 * p.count) :: p.planes
        let outs := p.planes ++ if p.list = 0 then [] else [(p.list, 64 + 8 * p.count)]
        if s.heldBack (reads ++ outs) then s
        else
        match s.rdFails reads with
        | some f => (s.noteReads [(f.1, 1)]).failMem q f
        | none =>
          match s.writeFail outs with
          | some f => s.failMem q f
          | none => ((s.readOperands q reads).addVnCheck q).updCmd q fun c => { c with stage := .running }

def execUpdt (q : Nat) (s : State) : Out := .next (s.runUpdt q)

end Sys2Proof.Machine
end

