-- ==== Sys2Proof/Machine/Retire.lean ====
section
/-!
DEFINITION. Counting of detected errors, suspect actions and retirement (R281, R299 to R305), and the records they leave
(R308, R309).
-/
namespace Sys2Proof.Machine

open Sys2Proof

/-! ### Units (Table 10.5) -/

def arrayUnit (k : Nat) : UnitId := { kind := 2, coord := coordOfKey k }

/-! ### Rails and clocks (R301) -/

def State.clusterRail (s : State) (k : Nat) : Nat := Tab.get (fun _ => 0) s.im.clusterRail k
def State.bankRail (s : State) (k : Nat) : Nat := Tab.get (fun _ => 0) s.im.bankRail k
def State.clusterSlow (s : State) (k : Nat) : Bool := Tab.get (fun _ => false) s.im.clusterSlow k

/-- Rail steps and clock of the unit, for its record. -/
def State.unitRail (s : State) (u : UnitId) : Nat × Nat :=
  if u.kind = 1 then (s.clusterRail (32 * u.die + u.mid), if s.clusterSlow (32 * u.die + u.mid) then 1 else 0)
  else if u.kind = 2 then (s.bankRail (32 * u.die + u.mid), 0) else (0, 0)

/-- The action of a unit that becomes suspect (Table 10.2): the new state and ACTION. Pseudo-channels and lanes have
actions of their own (R377, R278). -/
def State.suspectAct (s : State) (u : UnitId) : State × Nat :=
  let s1 := s.bump 0x2800418
  let k := 32 * u.die + u.mid
  if u.kind = 1 then
    if ¬ s.clusterSlow k then ({ s1 with im := { s1.im with clusterSlow := Tab.set (fun _ => false) s1.im.clusterSlow k true } }, 2)
    else if s.clusterRail k < 4 then
      ({ s1 with im := { s1.im with clusterRail := Tab.set (fun _ => 0) s1.im.clusterRail k (s.clusterRail k + 1) } }, 1)
    else (s1, 8)
  else if u.kind = 2 then
    let a := keyOfCoord u.coord
    if s.bankRail k < 4 then ((s1.queueAct .rail .raise (a / 264) 0 1 []).queueOn .sweep .plain a 1 [], 1)
    else (s1, 8)
  else (s1, 7)

/-! ### Retirement (R303 to R305) -/

/-- MAINT commands whose activities have all ended are delivered (R160). -/
def State.maintEnds (s : State) (seqs : List Nat) : State :=
  seqs.foldl (fun (s : State) q =>
    if s.uk.acts.any (fun a => a.seqs.contains q) then s
    else
      match s.cmd q with
      | some c => if c.opcode = 0x48 ∧ c.stage = .running ∧ ¬ c.tainted then s.deliver q else s
      | none => s) s

/-- The array whose work array `k` does. -/
def State.rootOf (s : State) (k : Nat) : Nat := (s.arr k).replaces.getD k

/-- The spare map gets an entry: the spare that holds the work of `root` now (R305). -/
def State.mapSpare (s : State) (root spare : Nat) : State :=
  { s with im := { s.im with
      spareMap := s.im.spareMap.filter (fun p => p.1 != root || isArrayEntry p != isArrayEntry (root, spare)) ++ [(root, spare)] } }

/-- The lowest-numbered spare array of the bank that is not in service. -/
def State.freeSpare (s : State) (bank : Nat) : Option Nat :=
  ((List.range 8).map fun i => 264 * bank + 256 + i).find? fun k => (s.arr k).replaces.isNone && !(s.arr k).retired

/-- An array is retired (R303): its work goes to the stand-in until a spare is programmed. Activities that wait for it
end, and with them the MAINT commands that had started nothing else; a change set goes on with the pair, and a LOAD waits
for the spare, or for nothing more when there is none. -/
def State.retireArray (s : State) (k : Nat) : State × Option Nat :=
  let a := s.arr k
  let root := s.rootOf k
  if a.retired then (s, none)
  else
    let spare := s.freeSpare (k / 264)
    let s1 := s.setArr k { a with retired := true, inService := false, transition := none, spare := spare }
    let s2 := if root = k then s1 else s1.setArr root { s1.arr root with version := a.version }
    let gone := s2.uk.acts.filter fun x => x.array == k && !x.running && x.kind != .selfCal && x.kind != .rail
    let s3 : State := { s2 with uk := { s2.uk with acts := s2.uk.acts.filter fun x => !gone.contains x } }
    let seqs := (gone.flatMap Activity.seqs).eraseDups
    let ofLoad (q : Nat) : Bool := (s3.cmd q).any fun c => c.opcode == 0x13
    match spare with
    | none =>
      let s4 := s3.maintEnds seqs
      (match a.tensor with
       | some id => s4.loadEnds id
       | none => s4, none)
    | some j =>
      let b := s3.arr j
      let s4 := (s3.maintEnds seqs).setArr j { b with tensor := a.tensor, pair := a.pair, replaces := some root, version := a.version }
      (if a.tensor.isSome then s4.queueOn .program .plain j 1 (seqs.filter ofLoad)
       else s4.mapSpare (coordOfKey root) (coordOfKey j), some j)

/-- Spare cores 64 and 65 of a cluster that are in service. -/
def State.freeCore (s : State) (u : UnitId) : Option Nat :=
  ([64, 65].map fun c => u.coord / 2 ^ 16 * 2 ^ 16 + c).find? fun c =>
    !(s.im.spareMap.any fun p => p.2 == c) && !s.im.lostSpares.contains c

/-- A core is retired to the lowest-numbered spare core of its cluster (R303), at once. -/
def State.retireCore (s : State) (u : UnitId) : State × Option Nat :=
  match s.freeCore u with
  | none => (s, none)
  | some c =>
    match s.im.spareMap.find? fun p => p.2 == u.coord with
    | some p => (({ s with im := { s.im with lostSpares := u.coord :: s.im.lostSpares } }).mapSpare p.1 c, some c)
    | none => (s.mapSpare u.coord c, some c)

/-- The unit has been retired without a spare and stays in service (R303). -/
def State.isSpent (s : State) (u : UnitId) : Bool :=
  (s.unitErrors u).spent || (u.kind == 2 && (s.arr (keyOfCoord u.coord)).retired && (s.arr (keyOfCoord u.coord)).spare.isNone)

/-- The unit has been retired to a spare, which does its work (R303). -/
def State.isReplaced (s : State) (u : UnitId) : Bool :=
  if u.kind = 1 then (s.im.spareMap.any fun p => p.1 == u.coord && !isArrayEntry p) || s.im.lostSpares.contains u.coord
  else u.kind == 2 && (s.arr (keyOfCoord u.coord)).retired && (s.arr (keyOfCoord u.coord)).spare.isSome

/-- Retirement of a unit: the COORD of its spare. A unit already retired is not retired again. -/
def State.retireUnit (s : State) (u : UnitId) : State × Option Nat :=
  if s.isSpent u ∨ s.isReplaced u then (s, none)
  else
  let s1 := s.bump 0x2800420
  if u.kind = 1 then
    match s1.freeCore u with
    | none => (s1.setErrors { s1.unitErrors u with spent := true }, none)
    | some _ => s1.retireCore u
  else if u.kind = 2 then
    let r := s1.retireArray (keyOfCoord u.coord)
    (r.1.settleAll, r.2.map coordOfKey)
  else (s1, none)

/-- Mechanisms of Table 10.5 by which the Upkeep Controller asks for a retirement: 12 write failure, 13 line test, 14
converter calibration, 15 wear (R125 to R127, R142, R148). -/
def State.requestRetire (s : State) (k mech : Nat) : State :=
  if (s.arr k).retired then s
  else
    let u := arrayUnit k
    let n := s.errorCounts u
    let r := s.retireUnit u
    r.1.cper {
      unit := 2, coord := u.coord, mechanism := mech, action := if r.2.isSome then 3 else 4, rail := (s.unitRail u).1
      short := n.1, long := n.2, spare := r.2.getD 0 }

/-- What a detected error does beside tainting (R289, R299 to R303): the new state, whether its unit was retired, and
whether it was retired without a spare. One record states the strongest action (R308). `third` marks the third failure
in a row of one computation on the unit. A late error of a unit that a spare has replaced is repaired on the spare. -/
def State.countError (s : State) (u : UnitId) (mech syndrome step : Nat) (third : Bool) (q : Option Nat := none) :
    State × Bool × Bool :=
  let n := s.noteError u
  let rail := s.unitRail u
  let body (action spare : Nat) : CperBody := {
    unit := u.kind, coord := u.coord, mechanism := mech, action := action, rail := rail.1, clock := rail.2, short := n.2.short
    long := n.2.long, syndrome := syndrome, step := step, spare := spare, seq := q }
  if s.isReplaced u then (n.1.cper (body 0 0), false, false)
  else if s.isSpent u ∧ ¬ third then (n.1.cper (body 4 0), false, false)
  else if third ∨ n.2.retire then
    let r := n.1.retireUnit u
    let none_ := r.2.isNone
    (r.1.cper (body (if none_ then (if third then 5 else 4) else 3) (r.2.getD 0)), true, none_)
  else if n.2.suspect then
    let r := n.1.suspectAct u
    (r.1.cper (body r.2 0), false, false)
  else (n.1.cper (body 0 0), false, false)

end Sys2Proof.Machine
end

