-- ==== Sys2Proof/Machine/Upkeep.lean ====
section
/-!
DEFINITION. The Upkeep Controller and its Almanac (spec/05): claims, closures and scheduling (R149 to R160), row writes
(R123 to R127), transitions (R132 to R136), programming, sweeps, calibrations and line tests, and the MAINT operations.
-/
namespace Sys2Proof.Machine

open Sys2Proof

/-! ### Table 5.1 -/

/-- A claim on a rail or a converter bank (R150). -/
inductive ClaimKind where
  | none
  | shared
  | writer
  | exclusive
  deriving DecidableEq, Repr

def ActKind.railClaim : ActKind → ClaimKind
  | .window => .writer
  | .program => .writer
  | .sweep => .shared
  | .selfCal => .exclusive
  | .gain => .none
  | .line => .exclusive
  | .rail => .exclusive
def ActKind.convClaim : ActKind → ClaimKind
  | .selfCal => .exclusive
  | .rail => .exclusive
  | _ => .shared
def ActKind.wantsArray : ActKind → Bool
  | .selfCal => false
  | .rail => false
  | _ => true
/-- Allowance share in 1/8 W. -/
def ActKind.share : ActKind → Nat
  | .window => 4
  | .program => 4
  | .sweep => 2
  | .selfCal => 6
  | .gain => 1
  | .line => 2
  | .rail => 0

/-! ### Claims (R149 to R152) -/

/-- The claims of an activity: 0 rail, 1 converter bank, 2 array, 3 allowance. -/
def ActKind.wants (k : ActKind) (n : Nat) : Bool :=
  match n with
  | 0 => k.railClaim != .none
  | 1 => k.convClaim != .none
  | 2 => k.wantsArray
  | _ => k.share != 0

/-- Two activities contend for claim `n`. -/
def contend (n : Nat) (a b : Activity) : Bool :=
  a.kind.wants n && b.kind.wants n && (match n with
    | 0 => a.bank == b.bank
    | 1 => a.bank == b.bank
    | 2 => a.array == b.array
    | _ => true)

/-- The resource of claim `n` of `a` can accept it now, holders alone considered. -/
def State.accepts (s : State) (a : Activity) (n : Nat) : Bool :=
  let holders := s.uk.acts.filter fun b => b.id != a.id && decide (n < b.held) && contend n a b
  let fits (mine : ClaimKind) (theirs : Activity → ClaimKind) : Bool :=
    match mine with
    | .none => true
    | .exclusive => holders.all fun b => theirs b == .none
    | .shared => holders.all fun b => theirs b != .exclusive
    | .writer => (holders.all fun b => theirs b != .exclusive) && decide ((holders.filter fun b => theirs b == .writer).length < 8)
  match n with
  | 0 => fits a.kind.railClaim fun b => b.kind.railClaim
  | 1 => fits a.kind.convClaim fun b => b.kind.convClaim
  | 2 => !a.kind.wantsArray || holders.isEmpty
  | _ => decide ((holders.map fun b => b.kind.share).sum + a.kind.share ≤ 192)

/-- The issue sequence number of the earliest issued command that requires the version of a pending transition (R136). -/
def State.nextUse (s : State) (a : Activity) : Nat :=
  if a.work ≠ .transition then 0
  else
    let ar := s.arr a.array
    match ar.transition, ar.tensor.bind s.resident with
    | some x, some t =>
      let l := s.af.refs.filter fun r => r.tensor == t.id && r.version == x.step && s.holdsRef r.seq t ar.pair
      l.foldl (fun m r => min m r.seq) (2 ^ 64)
    | _, _ => 2 ^ 64

/-- Lexicographic order. -/
def lexLt : List Nat → List Nat → Bool
  | x :: xs, y :: ys => decide (x < y) || (x == y && lexLt xs ys)
  | _, _ => false

/-- Coordinate of an activity: die.bank.array, that of the bank's first array for a bank activity. -/
def Activity.place (x : Activity) : Nat := if x.kind.wantsArray then x.array else x.bank * 264

/-- Two transitions of one tensor. -/
def State.sameTensor (s : State) (a b : Activity) : Bool :=
  a.work == .transition && b.work == .transition && (s.arr a.array).tensor == (s.arr b.array).tensor

/-- The transition of `b` goes before that of `a` in the order of next use (R136). -/
def State.usedFirst (s : State) (b a : Activity) : Bool := lexLt [s.nextUse b, b.array] [s.nextUse a, a.array]

/-- Rising order. -/
def insertNat (n : Nat) : List Nat → List Nat
  | [] => [n]
  | m :: l => if n ≤ m then n :: m :: l else m :: insertNat n l
def sortNat (l : List Nat) : List Nat := l.foldr insertNat []

/-- The coordinate by which a request is ranked (R151). Requests that transitions of one tensor made together are ranked
among themselves by next use (R136): the i-th of them in that order takes the i-th of their coordinates. -/
def State.rankPlace (s : State) (x : Activity) : Nat :=
  if x.work ≠ .transition then x.place
  else
    let peers := s.uk.acts.filter fun b => s.sameTensor x b && b.asked == x.asked && b.held == x.held && b.cls == x.cls && b.queuedAt == x.queuedAt
    (sortNat (peers.map Activity.place)).getD (peers.filter fun b => s.usedFirst b x).length x.place

/-- Order in which requests for claim `n` came: by time; those made together by class and then by coordinate (R151). The
Almanac takes activities of a class in the order in which they were queued, so they make their first request in that order
(R158). -/
def State.before (s : State) (n : Nat) (a b : Activity) : Bool :=
  let k (x : Activity) : List Nat := [x.asked.getD 0, x.cls, if n = 0 then x.queuedAt else 0, s.rankPlace x, x.id]
  lexLt (k a) (k b)

/-- Claim `n` of `a` is exclusive. -/
def exclusiveClaim (n : Nat) (a : Activity) : Bool :=
  match n with
  | 0 => a.kind.railClaim == .exclusive
  | 1 => a.kind.convClaim == .exclusive
  | _ => false

/-- Claim `n` of `a` may be granted (R151): the resource accepts it, no waiting exclusive claim came before it, and no
earlier waiting claim could be accepted. -/
def State.grantable (s : State) (a : Activity) (n : Nat) : Bool :=
  !a.kind.wants n || s.accepts a n && !s.uk.acts.any fun b =>
    b.id != a.id && b.asked.isSome && b.held == n && contend n a b && s.before n b a && (exclusiveClaim n b || s.accepts b n)

def State.act (s : State) (id : Nat) : Option Activity := s.uk.acts.find? fun a => a.id == id
def State.setAct (s : State) (a : Activity) : State :=
  { s with uk := { s.uk with acts := s.uk.acts.map fun b => if b.id = a.id then a else b } }

/-- Activities go on while their bank is ready and its clock runs, in A0 and A1 (R159). -/
def State.bankServed (s : State) (b : Nat) : Bool := s.readyKey (100 + b) && (s.ld.pwr == .a0 || s.ld.pwr == .a1)

/-- A claim that the activity does not need is held at once; the others one after another (R149). -/
def State.claimGo (s : State) (id : Nat) : Nat → State
  | 0 => s
  | n + 1 =>
    match s.act id with
    | none => s
    | some a =>
      if a.asked.isNone ∨ 4 ≤ a.held ∨ ¬ s.bankServed a.bank ∨ ¬ (s.dom (100 + a.bank)).running ∨ ¬ s.grantable a a.held then s
      else (s.setAct { a with held := a.held + 1, asked := some s.now }).claimGo id n

/-- An activity may ask for its claims: its bank is ready, the module is in A0 or A1 (R159), and a transition has no
reference left to the version it leaves (R132). -/
def State.mayAsk (s : State) (a : Activity) : Bool :=
  s.bankServed a.bank &&
  (a.work != .transition ||
    (let ar := s.arr a.array
     match ar.tensor.bind s.resident with
     | some t => !s.referred t ar.pair ar.version
     | none => true))

/-- The Almanac takes what waits (R158, R159): an activity on a stopped bank clock waits for its Dawn first, also one that had
asked before the clock stopped. -/
def State.takeWaiting (s : State) : State :=
  s.uk.acts.foldl (fun (s : State) a =>
    if ¬ s.mayAsk a ∨ a.running then s
    else
      let s1 := (s.wantDom (1 + a.bank / 32)).wantDom (100 + a.bank)
      if ¬ (s.dom (100 + a.bank)).running ∨ a.asked.isSome then s1
      else s1.setAct { a with asked := some s.now }) s

/-! ### Closures and starts (R154, R156) -/

/-- A read that waited when the array's last closure ended, and that the array can serve, goes first (R156). -/
def State.readsFirst (s : State) (k : Nat) : Bool :=
  let a := s.arr k
  match a.closureEnd, a.tensor.bind s.resident with
  | some e, some t => s.af.reads.any fun r =>
      r.stage == .waiting && r.version == a.version && (r.waitSince.any fun w => decide (w ≤ e)) && t.pair r.s r.g == a.pair &&
        s.server t r.s r.g == .array k && s.readLive r.seq && (s.readTensor r.seq).any fun u => u.id == t.id
  | _, _ => false

/-- Arrays that an activity closes: in-service ones (Table 5.1). -/
def State.closes (s : State) (a : Activity) : List Nat :=
  let bank := (List.range 264).map fun i => 264 * a.bank + i
  let l := match a.kind with
    | .program => []
    | .selfCal => bank
    | .rail => bank
    | _ => [a.array]
  l.filter fun k => (s.arr k).inService

/-- Activities of a SELFCAL (R143). -/
def State.ofSelfcal (s : State) (a : Activity) : Bool :=
  a.seqs.any fun q => (s.cmd q).any fun c => c.opcode == 0x48 && c.u8 16 == 0

/-- The activities in the order of Table 5.1. -/
def ActKind.code (k : ActKind) : Nat := match k with
  | .window => 0
  | .program => 1
  | .sweep => 2
  | .selfCal => 3
  | .gain => 4
  | .line => 5
  | .rail => 6

/-- An activity started or ended: a record in the Logbook of its die (R393; DATA: log entry 157). -/
def State.logAct (s : State) (kind : Nat) (a : Activity) : State :=
  let coord := if a.kind = .selfCal ∨ a.kind = .rail then a.bank / 32 * 2 ^ 28 + a.bank % 32 * 2 ^ 16 + 0xFFFF else coordOfKey a.array
  s.logRec (a.bank / 32) coord kind none none (a.kind.code + coord * 2 ^ 32)

/-- A closure may begin, in A0 and A1 on a bank whose clock runs (R159). A converter self-calibration is one of at most
eight on its die, and those of SELFCAL begin in ascending bank order, also after one that waits for its Dawn (R143). -/
def State.mayStart (s : State) (a : Activity) : Bool :=
  s.bankServed a.bank && (s.dom (100 + a.bank)).running && !(s.closes a).any s.readsFirst &&
    (a.kind != .selfCal ||
      (decide ((s.uk.acts.filter fun b => b.kind == .selfCal && b.running && b.bank / 32 == a.bank / 32).length < 8) &&
        !(s.ofSelfcal a && s.uk.acts.any fun b => b.kind == .selfCal && !b.running && s.mayAsk b && b.bank / 32 == a.bank / 32 &&
          decide (b.bank < a.bank) && s.ofSelfcal b)))

def State.startAct (s : State) (a : Activity) : State :=
  ((s.setAct { a with running := true, startedAt := s.now }).evtU 0x70 1).logAct 0x30 a

/-- ALMANAC_CLAIM_GRANT (R151): the claims of activity `id`, in their order; with all of them it starts. A transition
starts by TRANSITION_START. -/
def State.claimGrant (s : State) (id : Nat) : State :=
  let s1 := (s.settleAll.takeWaiting).claimGo id 4
  match s1.act id with
  | none => s1
  | some a =>
    if a.held = 4 ∧ ¬ a.running ∧ a.work ≠ .transition ∧ s1.mayStart a then s1.startAct a else s1

def execAlmanacClaimGrant (id : Nat) (s : State) : Out := .next (s.claimGrant id)

/-- A pending transition could start now, with the claims that it holds and those that are free for it: no reference to its
array's version is left, and its change set is the next one (R132, R236). -/
def State.transitionReady (s : State) (a : Activity) : Bool :=
  let ar := s.arr a.array
  match ar.transition, ar.tensor.bind s.resident with
  | some x, some t => ((List.range 4).all fun n => decide (n < a.held) || !a.kind.wants n || s.accepts a n) && !a.running && s.mayStart a && !s.referred t ar.pair ar.version && s.lagOk t x.step &&
      (s.nextSet t (ar.pair / t.groups) (ar.pair % t.groups)).any fun c => c.step == x.step
  | _, _ => false

/-- TRANSITION_START (R132, R134): the rows of the change set are those whose levels still differ. A tensor's transitions start
in the order of next use (R136). -/
def State.transitionStart (s : State) (k : Nat) : State :=
  match s.uk.acts.find? fun a => a.array == k && a.work == .transition with
  | none => s
  | some a =>
    let ar := s.arr k
    match ar.transition, ar.tensor.bind s.resident with
    | some x, some t =>
      if a.held ≠ 4 ∨ ¬ s.transitionReady a ∨ s.uk.acts.any (fun b => b.id != a.id && s.sameTensor a b && s.transitionReady b && s.usedFirst b a) then s
      else
        match t.sets.find? fun c => c.step == x.step with
        | none => s
        | some cs =>
          (s.setArr k { ar with transition := some { x with
            rows := rowsOfChanges (s.changesOf t ar.pair cs), started := true } }).startAct a
    | _, _ => s

def execTransitionStart (x : ArrayId) (s : State) : Out := .next (s.transitionStart (arrIdKey x))

/-! ### Ends -/

/-- A closure ends: UK_CLOSED_NS counts it once for each array (R156, Table 5.7). -/
def State.closureEnds (s : State) (a : Activity) : State :=
  (s.closes a).foldl (fun (s : State) k =>
    (s.setArr k { s.arr k with closureEnd := some s.now }).bump (dieCtr 0x2400328 (keyDie k)) (s.now - a.startedAt)) s

/-- An activity ends: its claims are free. -/
def State.dropAct (s : State) (a : Activity) : State :=
  { s.closureEnds a with uk := { (s.closureEnds a).uk with acts := (s.closureEnds a).uk.acts.filter (·.id ≠ a.id) } }

def State.endAct (s : State) (a : Activity) : State := ((s.dropAct a).logAct 0x31 a).maintEnds a.seqs

/-- The running activity `id` of a kind, when it can end: reads that were in progress on the arrays that it closes have
completed (R154). -/
def State.running (s : State) (id : Nat) (kind : ActKind) : Option Activity :=
  match s.act id with
  | some a =>
    if a.running ∧ a.kind = kind ∧ ¬ s.af.reads.any (fun r => r.stage == .reading && (s.closes a).contains r.array) then some a else none
  | none => none

/-! ### Row writes (R123 to R127) -/

/-- The levels of the two checksum cells of a row (R107). -/
def Arr.checksums (a : Arr) (row : Nat) : List (Nat × Int) :=
  [0, 1].map fun h =>
    (526 + h, rneDiv (((List.range 256).map fun i => a.cell row (a.phys (256 * h + i))).foldl (· + ·) 0) 256)

def Arr.setCell (a : Arr) (row col : Nat) (v : Int) : Arr := { a with cells := Tab.set (fun _ => 0) a.cells (528 * row + col) v }

/-- One row write: the cells take their targets, the checksum cells follow, and the row's write count rises (R124,
R125). -/
def Arr.writeRow (a : Arr) (row : Nat) (l : List (Nat × Int)) : Arr :=
  let a1 := l.foldl (fun (a : Arr) e => a.setCell row e.1 e.2) a
  let a2 := (a1.checksums row).foldl (fun (a : Arr) e => a.setCell row e.1 e.2) a1
  { a2 with rowWrites := Tab.upd (fun _ => 0) a2.rowWrites row (· + 1) }

/-- The write count of the most-written row. -/
def Arr.writes (a : Arr) : Nat := (a.rowWrites.map Prod.snd).foldl max 0

/-- Program operations on the array's most-written row (AF_ARRAY_WRITES). -/
def State.arrayWrites (s : State) (k : Nat) : Nat := (s.arr k).writes + s.af.whole - (s.arr k).missed

/-- An array whose write count reaches 9 × 10^7 is reported as worn, and at 10^8 it is to be retired (R125). -/
def State.wear (s : State) (k : Nat) : State :=
  let n := s.arrayWrites k
  let s1 : State := if n < 90000000 ∨ s.im.worn.contains (coordOfKey k) then s
    else { s with im := { s.im with worn := s.im.worn ++ [coordOfKey k] } }
  if 100000000 ≤ n then s1.requestRetire k 15 else s1

/-- The measured level of a cell, in 1/16 level, lies within 1/4 level of its target after iteration `i` (R123). A cell
that reports fewer iterations stays where it is. -/
def verified (target : Int) (l : List Int) (i : Nat) : Bool := decide ((l.getD i (l.getLast?.getD (16 * target)) - 16 * target).natAbs ≤ 4)

/-- A row write has ended (R123): how many iterations it took, the first after which every cell of the row is within
tolerance, at most six. `cells` are the verified levels after each iteration, by row and physical column; a cell that is
not listed is within tolerance at once. -/
def Arr.iterations (a : Arr) (cells : List (Nat × Nat × List Int)) (row : Nat) : Nat :=
  ((List.range 5).find? fun i => cells.all fun x => x.1 != row || verified (a.cell row x.2.1) x.2.2 i).getD 5 + 1

/-- The cells (row, physical column) of the rows written that are outside tolerance after the sixth iteration (R126). -/
def Arr.writeFails (a : Arr) (rows : List Nat) (cells : List (Nat × Nat × List Int)) : List (Nat × Nat) :=
  (cells.filter fun x => rows.contains x.1 && a.iterations cells x.1 == 6 && !verified (a.cell x.1 x.2.1) x.2.2 5).map fun x => (x.1, x.2.1)

/-- The lowest-numbered spare column that is neither in service nor unusable nor being programmed. -/
def State.spareCol (s : State) (k : Nat) : Option Nat :=
  let a := s.arr k
  let busy := s.uk.acts.filterMap fun x => match x.work with
    | .spareColumn j _ _ => if x.array = k then some j else none
    | _ => none
  ((List.range 14).map (512 + ·)).find? fun j =>
    (Tab.get (fun _ => none) a.colMap (j - 512)).isNone && !a.unusable.contains j && !busy.contains j

/-- Weight column `j` of the array is held, and a spare column is programmed for it (R126). -/
def State.holdColumn (s : State) (k j mech : Nat) : State :=
  let a := s.arr k
  let s1 := s.setArr k { a with held := if a.held.contains j then a.held else j :: a.held }
  match s1.spareCol k with
  | some x => s1.queueOn .window (.spareColumn x j 0) k 1 []
  | none => s1.requestRetire k mech

/-- The weight column whose work spare column `x` does, or is to do. -/
def State.columnOfSpare (s : State) (k x : Nat) : Option Nat :=
  (Tab.get (fun _ => none) (s.arr k).colMap (x - 512)).or
    ((s.uk.acts.find? fun a => a.array == k && (match a.work with | .spareColumn y _ _ => y == x | _ => false)).bind fun a =>
      match a.work with
      | .spareColumn _ j _ => some j
      | _ => none)

/-- A spare column is unusable (R127, R148); a weight column that it served is held again. -/
def State.loseSpare (s : State) (k x mech : Nat) : State :=
  let j := s.columnOfSpare k x
  let a := s.arr k
  let s1 := s.setArr k { a with
    unusable := if a.unusable.contains x then a.unusable else x :: a.unusable
    colMap := Tab.set (fun _ => none) a.colMap (x - 512) none }
  let s2 : State := { s1 with uk := { s1.uk with acts := s1.uk.acts.filter fun b =>
    !(b.array == k && (match b.work with | .spareColumn y _ _ => y == x | _ => false)) } }
  match j with
  | some j => s2.holdColumn k j mech
  | none => s2

/-- A physical column fails: a cell that does not verify (R126, R127), or an open or shorted line (R148). -/
def State.columnFails (s : State) (k mech col : Nat) : State :=
  if col < 512 then
    (if (s.arr k).held.contains col ∨ (s.arr k).phys col ≠ col then s else s.holdColumn k col mech)
  else if col < 526 then s.loseSpare k col mech
  else s.requestRetire k mech

/-- The columns that failed, one after another. -/
def State.columnsFail (s : State) (k mech : Nat) (l : List Nat) : State :=
  l.eraseDups.foldl (fun (s : State) c => s.columnFails k mech c) s

/-- Counters of `rows` row writes with the failures (row, column). -/
def State.countRows (s : State) (k rows : Nat) (fails : List (Nat × Nat)) : State :=
  (s.bump (dieCtr 0x2400300 (keyDie k)) rows).bump (dieCtr 0x2400318 (keyDie k)) (fails.map Prod.fst).eraseDups.length

/-- Spare columns of an array that are being programmed, each with the weight column that it is to serve. -/
def State.coming (s : State) (k : Nat) : List (Nat × Nat) :=
  s.uk.acts.filterMap fun b => match b.work with
    | .spareColumn x j _ => if b.array = k then some (x, j) else none
    | _ => none

/-- Programmed levels of a row of a pair, by physical column. A spare column being programmed follows the column that it is
to serve. -/
def State.rowTargets (s : State) (t : Resident) (k : Nat) (a : Arr) (row : Nat) : List (Nat × Int) :=
  (List.range 512).map (fun j => (a.phys j, s.level t a.pair row j)) ++ (s.coming k).map fun c => (c.1, s.level t a.pair row c.2)

/-- The end of one window of a transition (R133). A spare column being programmed follows the column that it is to serve. -/
def State.transitionWindow (s : State) (a : Activity) (cells : List (Nat × Nat × List Int)) : State :=
  let k := a.array
  let ar := s.arr k
  match ar.transition, ar.tensor.bind s.resident with
  | some x, some t =>
    let now_ := x.rows.take 64
    let rest := x.rows.drop 64
    let q := ((t.sets.find? fun c => c.step == x.step).map ChangeSet.seq).getD (2 ^ 64)
    let s1 := s.imageRows q t ar.pair now_
    let coming := s.coming k
    let phys (l : List (Nat × Int)) : List (Nat × Int) := l.flatMap fun e =>
      (List.range (2 ^ t.log2r)).flatMap fun i =>
        let j := e.1 * 2 ^ t.log2r + i
        (ar.phys j, e.2) :: (coming.filter fun c => c.2 == j).map fun c => (c.1, e.2)
    let ar1 := now_.foldl (fun (b : Arr) r => b.writeRow r.1 (phys r.2)) { ar with transition := some { x with rows := rest } }
    let fails := ar1.writeFails (now_.map Prod.fst) cells
    let s2 := ((s1.setArr k ar1).countRows k now_.length fails).columnsFail k 12 (fails.map Prod.snd)
    if rest.isEmpty then
      let root := s2.rootOf k
      let s3 := (s2.setArr k { s2.arr k with transition := none, version := x.step })
      (((s3.setArr root { s3.arr root with version := x.step }).endAct a).wear k).settleAll
    else ((s2.closureEnds a).setAct { a with startedAt := s.now }).wear k
  | _, _ => s.endAct a

/-- The end of one window of a spare column (R126). On a free or spare array, whose cells hold no tensor's levels, the
column takes the levels that the weight column's cells hold (R148). -/
def State.spareWindow (s : State) (a : Activity) (spare j next : Nat) (cells : List (Nat × Nat × List Int)) : State :=
  let k := a.array
  let ar := s.arr k
  let lev (r : Nat) : Int := match ar.tensor.bind s.resident with
    | some t => s.level t ar.pair r j
    | none => ar.cell r (ar.phys j)
  let rows := (List.range 64).map (64 * next + ·)
  let ar1 := rows.foldl (fun (b : Arr) r => b.writeRow r [(spare, lev r)]) ar
  let fails := ar1.writeFails rows cells
  let s1 := (s.setArr k ar1).countRows k 64 fails
  let bad : Bool := fails.any fun f => f.2 == spare
  let s2 := if next = 15 ∧ ¬ bad then
      s1.setArr k { s1.arr k with
        colMap := Tab.set (fun _ => none) (s1.arr k).colMap (spare - 512) (some j), held := (s1.arr k).held.erase j }
    else s1
  let s3 := s2.endAct a
  let s4 :=
    if bad then (s3.setArr k { s3.arr k with unusable := spare :: (s3.arr k).unusable }).holdColumn k j 12
    else if next < 15 then s3.queueOn .window (.spareColumn spare j (next + 1)) k 1 a.seqs
    else s3
  (s4.columnsFail k 12 ((fails.map Prod.snd).filter (· ≠ spare))).wear k

/-- Class of drift-refresh windows (Tables 5.4 and 5.5). Table 10.2 puts a refresh after a sweep that the Integrity and
Observation Unit asked for in class 1, against Table 5.4; the model takes class 4 (DESIGN CHOICE: log entry 148). -/
def refreshClass (seqs : List Nat) : Nat := if seqs.isEmpty then 4 else 5

/-- The end of a refresh window (R139): levels, image and version stay. -/
def State.refreshWindow (s : State) (a : Activity) (cells : List (Nat × Nat × List Int)) : State :=
  let k := a.array
  let ar := s.arr k
  let rows := ar.refresh.take 64
  let ar1 := rows.foldl (fun (b : Arr) r => b.writeRow r []) { ar with refresh := ar.refresh.drop 64 }
  let fails := ar1.writeFails rows cells
  let s1 := ((s.setArr k ar1).countRows k rows.length fails).bump (dieCtr 0x2400310 (keyDie k)) rows.length
  let s2 := if ar1.refresh.isEmpty then s1 else s1.queueOn .window .refresh k (refreshClass a.seqs) a.seqs
  ((s2.endAct a).columnsFail k 12 (fails.map Prod.snd)).wear k

/-- WRITE_WINDOW_END (R123, R126, R133, R139): `cells` are the levels that the iterations verified. -/
def State.windowEnd (s : State) (id : Nat) (cells : List (Nat × Nat × List Int)) : State :=
  match s.running id .window with
  | none => s
  | some a =>
    if (s.arr a.array).retired then s.endAct a
    else
      let s1 := (s.bump (dieCtr 0x2400308 (keyDie a.array))).evtU 0x71 1
      match a.work with
      | .transition => s1.transitionWindow a cells
      | .spareColumn x j n => s1.spareWindow a x j n cells
      | _ => s1.refreshWindow a cells

def execWriteWindowEnd (id : Nat) (cells : List (Nat × Nat × List Int)) (s : State) : Out := .next (s.windowEnd id cells)

/-- A fresh gathering window: a new sign vector (R145). -/
def freshStat (draw : Nat) : GainStat := { GainStat.initial with draw := draw }

/-- ARRAY_PROGRAMMING_END (R123, R137): the array enters service at the version that the level image holds, and its first
gathering windows start (R145). -/
def State.programEnd (s : State) (id : Nat) (cells : List (Nat × Nat × List Int)) : State :=
  match s.running id .program with
  | none => s
  | some a =>
    let k := a.array
    let ar := s.arr k
    match ar.tensor.bind s.resident with
    | none => s.endAct a
    | some t =>
      if ar.retired then s.endAct a
      else
        let root := s.rootOf k
        let clean := { ar with cells := [] }
        let ar1 := (List.range 1024).foldl (fun (b : Arr) r => b.writeRow r (s.rowTargets t k clean r)) clean
        let fails := ar1.writeFails (List.range 1024) cells
        let s1 := ((s.setArr k { ar1 with
          inService := true, version := (s.arr root).version, fwd := freshStat s.free, bwd := freshStat (s.free + 1) }).freeStep.freeStep).countRows
          k 1024 fails
        let s2 : State := if root = k then s1 else s1.mapSpare (coordOfKey root) (coordOfKey k)
        ((((s2.endAct a).columnsFail k 12 (fails.map Prod.snd)).wear k).loadEnds t.id).settleAll

def execArrayProgrammingEnd (id : Nat) (cells : List (Nat × Nat × List Int)) (s : State) : Out := .next (s.programEnd id cells)

/-! ### Sweeps, calibrations, line tests -/

/-- Merge rows into a rising list. -/
def mergeRows (l m : List Nat) : List Nat := (List.range 1024).filter fun r => l.contains r || m.contains r

/-- The level with which physical column `x` enters row `i`: that of its weight column, that of the column that a spare
serves, or the checksum cell's C0 or C1 (R107). -/
def State.colLevel (s : State) (t : Resident) (a : Arr) (x i : Nat) : Int :=
  if x < 512 then s.level t a.pair i x
  else if x < 526 then
    (match Tab.get (fun _ => none) a.colMap (x - 512) with
     | some j => s.level t a.pair i j
     | none => 0)
  else rneDiv (((List.range 256).map fun j => s.level t a.pair i (256 * (x - 526) + j)).foldl (· + ·) 0) 256

/-- A physical column is in use: a weight column in place, held or not, a spare column that serves one, a checksum column. -/
def Arr.inUse (a : Arr) (x : Nat) : Bool :=
  if x < 512 then a.phys x == x else if x < 526 then (Tab.get (fun _ => none) a.colMap (x - 512)).isSome else decide (x < 528)

/-- A measured cell lies more than 1/2 level from its target (R138, R139). The row is driven at x = +127 and read in fine
mode; the range exponent of such a read, 5, makes the fine LSB 8 units of P, so that every level stays inside the
converter's range (DESIGN CHOICE: log entry 120). Checksum cells count (DESIGN CHOICE: log entry 115). -/
def State.cellOff (s : State) (t : Resident) (a : Arr) (row x : Nat) (raw : Int) : Bool :=
  a.inUse x && decide (127 * 1048576 < (16 * a.mu true x raw - 254 * 1048576 * s.colLevel t a x row).natAbs)

/-- VERIFY_SWEEP_END (R138, R139): `meas` are the fine-mode measurements of cells by row and physical column; a cell that is
not listed is at its target. A refresh that already waits for the array takes the rows with it. -/
def State.sweepEnd (s : State) (id : Nat) (meas : List (Nat × Nat × Int)) : State :=
  match s.running id .sweep with
  | none => s
  | some a =>
    let k := a.array
    let ar := s.arr k
    let off := match ar.tensor.bind s.resident with
      | some t => meas.filter fun (d : Nat × Nat × Int) => s.cellOff t ar d.1 d.2.1 d.2.2
      | none => []
    let rows := mergeRows ar.refresh (off.map Prod.fst)
    let s1 := s.setArr k { ar with refresh := rows, sweepCount := min 65535 (ar.sweepCount + 1), sweepTime := s.now }
    let s2 := if rows.isEmpty ∨ ar.retired then s1
      else match s1.uk.acts.find? fun b => b.array == k && b.work == .refresh with
        | some b => s1.setAct { b with seqs := b.seqs ++ a.seqs.filter fun q => !b.seqs.contains q }
        | none => s1.queueOn .window .refresh k (refreshClass a.seqs) a.seqs
    s2.endAct a

def execVerifySweepEnd (id : Nat) (meas : List (Nat × Nat × Int)) (s : State) : Out := .next (s.sweepEnd id meas)

/-- An entry of a table differs from its code's ideal centre by more than 8 quarter-LSB (R142). -/
def tableFails (t : List Int) : Bool :=
  ((List.range t.length).zip t).any fun p => decide (16 < (2 * p.2 - (2 * (p.1 : Int) - 1023)).natAbs)

/-- Lines that converter `c` serves. -/
def linesOf (c : Nat) : List Nat := (List.range 8).map fun i => if c < 66 then 8 * c + i else 528 + 8 * (c - 66) + i

/-- SELF_CALIBRATION_END (R141, R142): `hits` are the hits per raw code of converters (array, converter); a converter
that is not listed hit every code 64 times. -/
def State.selfCalEnd (s : State) (id : Nat) (hits : List (Nat × Nat × List Nat)) : State :=
  match s.running id .selfCal with
  | none => s
  | some a =>
    let base := 264 * a.bank
    let clear : State := (List.range 264).foldl (fun (s : State) i => s.setArr (base + i) { s.arr (base + i) with tables := [] }) s
    let s1 := hits.foldl (fun (s : State) h =>
      let k := base + h.1
      let t := tableOf h.2.2
      let ar := s.arr k
      let s2 := s.setArr k { ar with tables := Tab.set (fun _ => tableOf (List.replicate 1024 64)) ar.tables h.2.1 t }
      if tableFails t then
        let ar2 := s2.arr k
        (s2.setArr k { ar2 with held := ar2.held ++ (linesOf h.2.1).filter fun l => !ar2.held.contains l }).requestRetire k 14
      else s2) clear
    let s3 : State := { s1 with af := { s1.af with
      bankCal := Tab.upd (fun _ => 0) s1.af.bankCal a.bank (· + 1), bankCalTime := Tab.set (fun _ => 0) s1.af.bankCalTime a.bank s.now } }
    s3.endAct a

def execSelfCalibrationEnd (id : Nat) (hits : List (Nat × Nat × List Nat)) (s : State) : Out := .next (s.selfCalEnd id hits)

/-- Both strata hold MIN_READS reads (R146). -/
def GainStat.enough (g : GainStat) (n : Nat) : Bool := decide (n ≤ g.nA) && decide (n ≤ g.nB)

def sumAt (t : Tab Int) (i : Nat) : Int := Tab.get (fun _ => 0) t i

/-- New factors of a line (R146): `pa`, `pb` are Σ L·M of the strata, `rho` the exponent of the line's LSB in normal
mode. Returns g and o. -/
def newFactors (g : GainStat) (fine : Bool) (rho maxStep : Nat) (gain : Nat) (line : Nat) (pa pb : Int) : Nat × Int :=
  let f : Int := if fine then 4 else 1
  let d : Nat := if fine then 262144 else 65536
  let na : Int := g.nA
  let nb : Int := g.nB
  let dp := f * (pa * nb - pb * na)
  let dq := sumAt g.rA line * nb - sumAt g.rB line * na
  let new : Nat :=
    if 4 * g.nA * g.nB * 2 ^ rho ≤ dp.natAbs ∧ g.nA * g.nB ≤ dq.natAbs then
      let sgn : Int := if dq < 0 then -1 else 1
      let v := rneDiv (d * dp * sgn) (2 ^ rho * dq.natAbs)
      let step := gain * maxStep / 1024
      (clampInt (clampInt v ((gain : Int) - step) (gain + step)) 0x2000 0x7FFF).toNat
    else gain
  let n := g.nA + g.nB
  let o := rneDiv (1024 * (f * (pa + pb) * d - (sumAt g.rA line + sumAt g.rB line) * new * 2 ^ rho)) (2 ^ rho * n * d)
  (new, clampInt o (-32768) 32767)

/-- Σ over input lines of level × input sum. -/
def State.predict (level : Nat → Int) (m : Tab Int) : Int := (m.map fun p => level p.1 * p.2).foldl (· + ·) 0

/-- Load new gains and offsets for every column, and for every row when the transpose statistics allow it. -/
def State.newGains (s : State) (t : Resident) (a : Arr) (maxStep n : Nat) : Arr :=
  let cols := (List.range 528).map fun x =>
    let rho := if x < 526 then t.rho else max t.rho 4 - 4
    (x, newFactors a.fwd t.fine rho maxStep (a.gainOf x) x (State.predict (s.colLevel t a x) a.fwd.mA) (State.predict (s.colLevel t a x) a.fwd.mB))
  let rows := if ¬ a.bwd.enough n then [] else (List.range 1024).map fun i =>
    let level (j : Nat) : Int := s.level t a.pair i (j * 2 ^ t.log2r)
    (528 + i, newFactors a.bwd t.fine t.rhoT maxStep (a.gainOf (528 + i)) i (State.predict level a.bwd.mA) (State.predict level a.bwd.mB))
  (cols ++ rows).foldl (fun (a : Arr) p => { a with
    gain := Tab.set (fun _ => 0x4000) a.gain p.1 p.2.1, offset := Tab.set (fun _ => 0) a.offset p.1 p.2.2 }) a

/-- GAIN_CLOSURE_END (R146). -/
def State.gainEnd (s : State) (id : Nat) : State :=
  match s.running id .gain with
  | none => s
  | some a =>
    let k := a.array
    let ar := s.arr k
    match ar.tensor.bind s.resident with
    | none => s.endAct a
    | some t =>
      let ar1 := if ar.fwd.enough s.gcalMinReads then s.newGains t ar s.gcalMaxStep s.gcalMinReads else ar
      let s1 := s.setArr k { ar1 with
        gainCal := (ar.gainCal + 1) % 2 ^ 32, gainTime := s.now, fwd := freshStat s.free, bwd := freshStat (s.free + 1) }
      s1.freeStep.freeStep.endAct a

def execGainClosureEnd (id : Nat) (s : State) : Out := .next (s.gainEnd id)

/-- A line as a line test senses it (R147): columns by number and rows from 528, and where it ends with the pull-up and with
the pull-down, in 1/1000 of the way from the lower to the upper rail. -/
def lineOpen (l : Nat × Nat × Nat) : Bool := decide (950 ≤ l.2.1) && decide (l.2.2 ≤ 50)
def lineShorted (l : Nat × Nat × Nat) : Bool :=
  (decide (950 ≤ l.2.1) && decide (950 ≤ l.2.2)) || (decide (l.2.1 ≤ 50) && decide (l.2.2 ≤ 50))

/-- LINE_TEST_END (R147, R148): `lines` are the lines as sensed; one that is not listed is neither open nor shorted. -/
def State.lineEnd_ (s : State) (id : Nat) (lines : List (Nat × Nat × Nat)) : State :=
  match s.running id .line with
  | none => s
  | some a =>
    let k := a.array
    let bad := ((lines.filter fun l => lineOpen l || lineShorted l).map Prod.fst).eraseDups
    let s1 := (s.setArr k { s.arr k with lineTime := s.now }).bump (dieCtr 0x2400320 (keyDie k)) bad.length
    let s2 := s1.endAct a
    bad.foldl (fun (s : State) l => if l < 528 then s.columnFails k 13 l else s.requestRetire k 13) s2

/-- Lines of which both phases of a test report where they end. -/
def sensedLines (up down : List (Nat × Nat)) : List (Nat × Nat × Nat) :=
  up.filterMap fun u => (down.find? fun d => d.1 == u.1).map fun d => (u.1, u.2, d.2)

def execLineTestEnd (id : Nat) (up down : List (Nat × Nat)) (s : State) : Out := .next (s.lineEnd_ id (sensedLines up down))

/-- RAIL_STEP_END (R301, R302): one rail step returns the bank to nominal, whatever it was raised by, and leaves its record
(R308). -/
def State.railEnd (s : State) (id : Nat) : State :=
  match s.running id .rail with
  | none => s
  | some a =>
    let r := s.bankRail a.bank
    let new := if a.work = .raise then min 4 (r + 1) else 0
    let s1 : State := { s with im := { s.im with bankRail := Tab.set (fun _ => 0) s.im.bankRail a.bank new } }
    let s2 := s1.endAct a
    if a.work = .raise then s2
    else s2.cper { unit := 2, coord := a.bank / 32 * 2 ^ 28 + a.bank % 32 * 2 ^ 16 + 0xFFFF, mechanism := 0, action := 6, rail := new }

def execRailStepEnd (id : Nat) (s : State) : Out := .next (s.railEnd id)

/-! ### What falls due (R140, R144, R146, R148, R158) -/

/-- An activity of this kind waits or runs on the array. -/
def State.actOn (s : State) (kind : ActKind) (k : Nat) : Bool := s.uk.acts.any fun a => a.kind == kind && a.array == k

/-- SWEEP_PERIOD_DUE (R140). The period of an array that has not been swept runs from device time 0 (DESIGN CHOICE: log entry
113). -/
def State.sweepDue (s : State) (k : Nat) : State :=
  let a := s.arr k
  if a.inService ∧ s.sweepMin ≠ 0 ∧ a.sweepTime + s.sweepMin * 60000000000 ≤ s.now ∧ ¬ s.actOn .sweep k then
    s.queueOn .sweep .plain k 5 []
  else s

def execSweepPeriodDue (x : ArrayId) (s : State) : Out := .next (s.sweepDue (arrIdKey x))

/-- CONVERTER_PERIOD_DUE (R144). -/
def State.convDue (s : State) (b : Nat) : State :=
  if s.convCal b ≠ 0 ∧ s.conv10Min ≠ 0 ∧ Tab.get (fun _ => 0) s.af.bankCalTime b + s.conv10Min * 600000000000 ≤ s.now ∧
      ¬ s.uk.acts.any (fun a => a.kind = .selfCal ∧ a.bank = b) then
    s.queueAct .selfCal .plain b 0 5 []
  else s

def execConverterPeriodDue (x : BankId) (s : State) : Out := .next (s.convDue (32 * x.die.val + x.bank.val))

/-- LINE_PERIOD_DUE (R148): in-service, free and spare arrays alike, from device time 0 before the first test (DESIGN CHOICE:
log entry 113). -/
def State.lineDue (s : State) (k : Nat) : State :=
  let a := s.arr k
  if ¬ a.retired ∧ s.lineH ≠ 0 ∧ a.lineTime + s.lineH * 3600000000000 ≤ s.now ∧ ¬ s.actOn .line k then s.queueOn .line .plain k 5 []
  else s

def execLinePeriodDue (x : ArrayId) (s : State) : Out := .next (s.lineDue (arrIdKey x))

/-- GAIN_CLOSURE_DUE (R146), from device time 0 before the first closure (DESIGN CHOICE: log entry 113). -/
def State.gainDue (s : State) (k : Nat) : State :=
  let a := s.arr k
  if a.inService ∧ a.gainTime + s.gcalInterval * 60000000000 ≤ s.now ∧ a.fwd.enough s.gcalMinReads ∧ ¬ s.actOn .gain k then
    s.queueOn .gain .plain k 5 []
  else s

def execGainClosureDue (x : ArrayId) (s : State) : Out := .next (s.gainDue (arrIdKey x))

/-- ACTIVITY_AGING (R158): more than 100 ms. -/
def State.aging (s : State) (id : Nat) : State :=
  match s.act id with
  | some a => if ¬ a.running ∧ a.queuedAt + 100000000 < s.now then s.setAct { a with cls := 1 } else s
  | none => s

def execActivityAging (id : Nat) (s : State) : Out := .next (s.aging id)

/-! ### MAINT (R160, Table 5.5) -/

/-- The COORDs that a MAINT lists. -/
def State.maintList (s : State) (c : Cmd) : List Nat := (List.range (c.u 32 4)).map fun i => s.rdNat (c.u 24 8 + 4 * i) 4

/-- Targets of a MAINT: arrays by key, or banks; else the field of a fault, a failing read, or a list whose read waits (R378,
R440). -/
inductive Targets where
  | ok (l : List Nat)
  | bad (field : Nat)
  | mem (f : Nat × Bool)
  | held
  deriving Repr

/-- Read a MAINT's target list. -/
def State.listTargets (s : State) (c : Cmd) (good : Nat → Bool) (f : Nat → Nat) : Targets :=
  let n := 4 * c.u 32 4
  if s.rangeBad (c.u 24 8) n then .bad 24
  else if s.heldBack [(c.u 24 8, n)] then .held
  else
    match s.rdFail (c.u 24 8) n with
    | some e => .mem e
    | none => if (s.maintList c).all good then .ok (((s.maintList c).map f).eraseDups) else .bad 0xFF

/-- Arrays or a tensor (TKIND 2 or 3). -/
def State.arrayTargets (s : State) (c : Cmd) : Targets :=
  if c.u8 17 = 2 then s.listTargets c coordOk keyOfCoord
  else if c.u8 17 = 3 then
    (match s.resident (c.u 20 4) with
     | some t => .ok ((s.localPairs t).filterMap fun p => s.active (t.placeOf p.1 p.2).2)
     | none => .bad 20)
  else .bad 17

/-- Start a MAINT on its targets: those that qualify get an activity of the class; with none it is delivered at once. -/
def State.runMaint (s : State) (q op : Nat) (kind : ActKind) (cls : Nat) (targets : State → Cmd → Targets)
    (qualifies : State → Nat → Bool) : State :=
  match s.runnable q 0x48 with
  | none => s
  | some c =>
    if c.u8 16 ≠ op then s
    else
      match targets s c with
      | .bad f => s.failCmd q .badDescriptor f
      | .mem f => s.failMem q f
      | .held => s
      | .ok l =>
        let bankwide := kind == .selfCal
        let s1 := l.foldl (fun (s : State) k =>
          if ¬ qualifies s k then s
          else if bankwide then s.queueAct kind .plain k 0 cls [q] else s.queueOn kind .plain k cls [q])
          (s.updCmd q fun c => { c with stage := .running })
        s1.maintEnds [q]

/-- SELFCAL (R143): every bank of the module. -/
def execMaintSelfcal (q : Nat) (s : State) : Out :=
  .next (s.runMaint q 0 .selfCal 3 (fun _ c => if c.u8 17 = 0 then .ok (List.range 128) else .bad 17) fun _ _ => true)
/-- CONVCAL: the named banks; bits [15:0] of a COORD are not looked at. -/
def execMaintConvcal (q : Nat) (s : State) : Out :=
  .next (s.runMaint q 1 .selfCal 5 (fun s c => if c.u8 17 = 1 then
    s.listTargets c (fun v => decide (v / 2 ^ 28 < 4) && decide (v / 2 ^ 16 % 4096 < 32)) (fun v => 32 * (v / 2 ^ 28) + v / 2 ^ 16 % 4096)
    else .bad 17) fun _ _ => true)
/-- SWEEP (R138): in-service arrays. -/
def execMaintSweep (q : Nat) (s : State) : Out :=
  .next (s.runMaint q 2 .sweep 5 State.arrayTargets fun s k => (s.arr k).inService)
/-- GAINCAL (R146): arrays whose strata meet MIN_READS. -/
def execMaintGaincal (q : Nat) (s : State) : Out :=
  .next (s.runMaint q 3 .gain 5 State.arrayTargets fun s k => (s.arr k).inService && (s.arr k).fwd.enough s.gcalMinReads)
/-- LINETEST (R147). -/
def execMaintLinetest (q : Nat) (s : State) : Out :=
  .next (s.runMaint q 4 .line 5 State.arrayTargets fun s k => !(s.arr k).retired)

end Sys2Proof.Machine
end

