-- ==== Sys2Proof/Machine/Integrity.lean ====
section
/-!
DEFINITION. Ends of checks (R80, R81, R97, R108 to R110, R280 to R289), repair replays (R287, R288), the return to nominal
(R302) and the commit fence (R294).
-/
namespace Sys2Proof.Machine

open Sys2Proof

/-! ### Failed checks -/

/-- Failures in a row of one computation on a unit (R289). -/
def State.failsOf (s : State) (q : Nat) (key : List Nat) (u : UnitId) : Nat :=
  match s.im.repeats.find? fun r => r.1 == q && r.2.1 == key with
  | some r => if r.2.2.1 = u then r.2.2.2 else 0
  | none => 0

def State.setFails (s : State) (q : Nat) (key : List Nat) (u : UnitId) (n : Nat) : State :=
  let rest := s.im.repeats.filter fun r => !(r.1 == q && r.2.1 == key)
  { s with im := { s.im with repeats := (q, key, u, n) :: rest } }

/-- A check of command `q` has ended well: failures of the computation, or of its elements, are no longer in a row. -/
def State.checkPassed (s : State) (q : Nat) (key : List Nat) : State :=
  ({ s with im := { s.im with repeats := s.im.repeats.filter fun r => !(r.1 == q && key.isPrefixOf r.2.1) } }).updCmd q fun c =>
    { c with checks := c.checks - 1 }

/-- The command's step cannot be replayed, because its journal was lost (R22). -/
def State.unreplayable (s : State) (c : Cmd) : Bool := c.stepOf.any fun n => (s.stepInfo n).unreplayable

/-- The record of an uncorrectable codeword of the journal's memory, when it makes a step incomplete (R308): UNIT 8, the hub
store. -/
def State.recordJournal (s : State) (c : Cmd) : State :=
  if c.stepOf.any fun n => !s.resolved n then
    s.cper { unit := 8, coord := 0xF0000000, mechanism := 8, action := 5, step := c.stepOf.getD 0 }
  else s

/-- The unit whose check failed has been retired: its command used it (R288). Commands that depend on this one are asked when
they run again. -/
def State.markRetired (s : State) (q : Nat) : State := s.updCmd q fun c => { c with unitRetired := true }

/-- A check of command `q` has failed on unit `u` (R287, R289, R299 to R303): `ctr` counts it. Where the journal is lost,
the commands of the step that depended on the result complete with UNCORRECTABLE_MEMORY (R22). -/
def State.checkFailed (s : State) (c : Cmd) (q : Nat) (key : List Nat) (u : UnitId) (mech syn ctr : Nat) : State :=
  let n := s.failsOf q key u + 1
  let r := ((s.setFails q key u n).bump ctr).countError u mech syn (c.stepOf.getD 0) (decide (3 ≤ n)) (some q)
  let s1 := r.1.readJournal
  if s1.unreplayable c then
    (s1.dependants [q] (s1.hg.cmds.length + 1)).foldl (fun (v : State) i => v.failCmd i .uncorrectableMemory 0) (s1.recordJournal c)
  else
    let s2 := if c.stage = .failed ∨ c.stage = .refused then s1 else s1.taint q
    let s3 := if r.2.1 then s2.markRetired q else s2
    if 3 ≤ n ∧ r.2.2 then
      match c.stepOf with
      | some k => s3.markIncomplete k
      | none => s3
    else s3

/-- A residue syndrome: predicted and observed residue. -/
def residueSyn (predicted observed : Nat) : Nat := predicted % 256 + observed % 256 * 256

/-! ### The residue shadow (R80) -/

/-- What a check of the residue shadow observed (R80): where, with what the output stage and the shadow's copies give; the core
that the report names; the check; and the residue that the hardware shows. -/
structure CheckFault where
  place : CheckPlace
  core : Fin 66
  check : Fin 4
  observed : Fin 255
  deriving DecidableEq, Repr

/-- The report of a check that did not pass. -/
def checkFault (ok : Bool) (core : Fin 66) (check : Fin 4) (place : CheckPlace) (observed : Fin 255) : Option CheckFault :=
  if ok then none else some ⟨place, core, check, observed⟩

/-- ρ of an integer: its value mod 255. -/
def rho (n : Int) : Nat := (n % 255).toNat

/-- ρ of x / 2^l from the significand and the exponent mod 8 alone. -/
def rhoAt (x : Dy) (l : Int) : Nat := rho (x.m * 2 ^ ((x.e - l) % 8).toNat)

/-- Sub-blocks of an element, partition by partition. -/
def Elem.groups (e : Elem) (w : Int) : List (List (Int × List Dy)) := e.parts.map fun p => p.flatMap fun b => subGroups w b.length b

/-- What the shadow predicts for a block check: Σ ρ(m) × 2^((e − L) mod 8) over the products of sub-block `b`. -/
def Elem.blockRho (e : Elem) (w : Int) (b : Nat) : Option Nat :=
  ((e.groups w).flatten[b]?).map fun g => (g.2.map fun x => rhoAt x g.1).sum % 255

/-- What it predicts for the long accumulator with its floor at 2^f: the residues of the aligned, truncated block results and
of the other terms. -/
def Elem.accRho (e : Elem) (w f : Int) : Nat :=
  (((e.groups w).flatten.map fun g => rho ((sumDy g.2).floorAt f)).sum +
    (e.extra.map fun x => rho ((overQ x e.c f).1 / ((overQ x e.c f).2 : Int))).sum) % 255

/-- The floor of the pass that delivered a tile: that of its anchor, or bit 0 of the slow path (R73, R82). -/
def Tile.floor (t : Tile) : Int := if t.judge t.testing = .good then t.anchor - 128 else -320

/-- |D| is at most half a unit in the last place of the rounded value f, both in units of 2^fl (R80). -/
def halfUlpOk (fl f d : Int) : Bool :=
  let u : Int := max (if f = 0 then -149 else (Dy.mk f 0).ec + fl - 24) (-149)
  decide (2 * d.natAbs ≤ 2 ^ (u - fl).toNat)

/-- The overflow and cancellation tests of R69 and R70 again, on copies of T, e_max and the anchor: 0 both pass, 1 overflow,
2 cancellation. The slow path makes no test (R72). -/
def Elem.retest (e : Elem) (x : LongAcc) (tr : Nat) (emax a : Int) : Nat :=
  if a + 17 ≤ emax ∨ ¬ in160 x.n then 1
  else if e.cancelOk a { x with t := tr } then 0 else 2

/-- What the shadow predicts for a check and what the hardware shows: 0 block, 1 accumulator, 2 rounding, 3 test. The rounded
value and the remainder add up to the accumulator; a test that the delivered pass has passed has the code 0 (DESIGN CHOICE:
log entry 123). A check of an element or sub-block that the tile does not have predicts what it shows. -/
def Tile.shown (t : Tile) (f : CheckFault) : Nat × Nat :=
  match t.elems[f.place.elem]? with
  | none => (f.observed.val, f.observed.val)
  | some e =>
    let x := (t.combined t.testing).getD f.place.elem LongAcc.empty
    if f.check.val = 0 then ((e.blockRho t.window f.place.block).getD f.observed.val, f.observed.val)
    else if f.check.val = 1 then (e.accRho t.window t.floor, f.observed.val)
    else if f.check.val = 2 then (e.accRho t.window t.floor, (rho f.place.rounded + rho f.place.rest) % 255)
    else (0, if t.floor = -320 then 0 else e.retest x f.place.truncated f.place.emax f.place.anchor)

/-- The check fails (R80): the two differ, or the remainder is more than half a unit in the last place. -/
def Tile.faulty (t : Tile) (f : CheckFault) : Bool :=
  (t.shown f).1 != (t.shown f).2 ||
    (decide (f.check.val = 2 ∧ f.place.elem < t.elems.length) && !halfUlpOk t.floor f.place.rounded f.place.rest)

/-- Which of consecutive runs of the given lengths holds place `n`. -/
def runOf : List Nat → Nat → Nat
  | [], _ => 0
  | k :: l, n => if n < k then 0 else runOf l (n - k) + 1

/-- Core at gang row `a` and gang column `b` of a tile's gang. -/
def Tile.coreAt (t : Tile) (a b : Nat) : Nat := 8 * (t.corner.1 + a) + t.corner.2 + b

/-- The core that holds what a check looks at (R165, R167, R281): in normal mode by the element's place in the tile, which on
a home cluster fills all its cores; in K-fold the member that runs the sub-block's partition, and for the accumulator, which
R76 combines, the core that the report names (DESIGN CHOICE: log entry 123). -/
def State.checkedCore (s : State) (t : Tile) (f : CheckFault) : Nat :=
  match s.mc.works.find? fun w => w.seq == t.seq, t.elems[f.place.elem]? with
  | some w, some e =>
    let g := if w.side = 0 then 8 else w.side
    if 2 ≤ t.p then
      if f.check.val = 0 then
        let i := runOf ((e.groups t.window).map List.length) f.place.block
        t.coreAt (i % g) (i / g)
      else f.core.val
    else t.coreAt (e.row % (8 * g) / 8) (e.col % (8 * g) / 8)
  | _, _ => f.core.val

/-- The core that did the work of core `k`, with the spares that were at work: itself, or its spare (R305). -/
def workingCore (spares : List (Nat × Nat)) (die cluster k : Nat) : UnitId :=
  let u := coreUnit die cluster k
  match spares.find? fun p => p.1 == u.coord with
  | some p => { u with coord := p.2 }
  | none => u

/-- Cores on which a tile was computed: those of its gang, or of its home cluster (R164, R165). -/
def State.tileCores (s : State) (t : Tile) : List Nat :=
  let side := ((s.mc.works.find? fun w => w.seq == t.seq).map Work.side).getD 0
  let g := if side = 0 then 8 else side
  (List.range g).flatMap fun a => (List.range g).map fun b => t.coreAt a b

/-- Command `q` has used an array or a core that is retired now, in the run that its reads and tiles still show (R288). -/
def State.usedRetired (s : State) (q : Nat) : Bool :=
  (s.af.reads.any fun r => r.seq == q && r.stage != .waiting && (s.arr r.array).retired) ||
  s.mc.tiles.any fun t => t.seq == q && (t.stage == .delivered || t.stage == .checked) && (s.tileCores t).any fun k =>
    s.isReplaced (workingCore t.spares t.die t.cluster k)

/-! ### Tiles and resolutions -/

/-- TILE_CHECK_COMPLETE for a tile (R80, R81): the checks pass but for a fault that shows another residue than the shadow
predicts. -/
def State.tileChecked (s : State) (q i : Nat) (fault : Option CheckFault) : State :=
  match s.tile q i, s.cmd q with
  | some t, some c =>
    if t.stage ≠ .delivered then s
    else
      let s1 := s.setTile { t with stage := .checked }
      match fault.filter t.faulty with
      | none => s1.checkPassed q [0, i]
      | some f => s1.checkFailed c q [0, i] (workingCore t.spares t.die t.cluster (s.checkedCore t f)) (f.check.val + 1)
          (residueSyn (t.shown f).1 (t.shown f).2) (dieCtr 0x2800300 t.die)
  | _, _ => s

/-- TILE_CHECK_COMPLETE for a resolution, a digital quarter or a stand-in read (R97, R281, R304): the shadow predicts the
residue of the exact sum P of line `elem`. -/
def State.resolutionChecked (s : State) (q i : Nat) (fault : Option CheckFault) : State :=
  match s.read q i, s.readTensor q with
  | some r, some t =>
    if ¬ r.shadow then s
    else
      let h := s.readHome r
      let r1 := { r with shadow := false }
      let s1 := s.setRead r1
      let key := [1, r.vec, r.s, r.g, r.lo, r.len]
      let pred (f : CheckFault) : Nat :=
        if f.place.elem < r.lines t then rho (s.idealP t r r.lo r.len f.place.elem) else f.observed.val
      let unit (f : CheckFault) : UnitId := workingCore r.spares h.1 h.2 (s.resolveCore t r f.place.elem)
      (match fault.filter fun f => pred f != f.observed.val, s.cmd q with
       | none, some _ => s1.checkPassed q key
       | none, none => s1.spannedEnd r1 true
       | some f, some c => s1.checkFailed c q key (unit f) (f.check.val + 1)
           (residueSyn (pred f) f.observed.val) (dieCtr 0x2800300 h.1)
       | some f, none => ((s1.bump (dieCtr 0x2800300 h.1)).countError (unit f) (f.check.val + 1)
           (residueSyn (pred f) f.observed.val) 0 false).1.spannedEnd r1 false).settleAll
  | _, _ => s

/-- Numbers below 2^32 name tiles; 2^32 + i names read i. -/
def execTileCheckComplete (q idx : Nat) (ok : Bool) (core : Fin 66) (check : Fin 4) (place : CheckPlace) (observed : Fin 255)
    (s : State) : Out :=
  .next (if idx < 2 ^ 32 then s.tileChecked q idx (checkFault ok core check place observed)
    else s.resolutionChecked q (idx - 2 ^ 32) (checkFault ok core check place observed))

/-! ### Operation residue -/

/-- Step `n`, whose fence has cleared, is marked incomplete all the same: a check of its UPDT has failed for the third time
(R289). It is resolved anew, and so is step n + 1, as by any other mark (R262; DESIGN CHOICE: log entry 154). -/
def State.reopenIncomplete (s : State) (n : Nat) : State :=
  (s.setStep n { s.stepInfo n with mark := .open }).markIncomplete n

/-- An element of UPDT fails its check and is computed again (R285), the third time in a row with its engine retired, which
has no spare, so that the step is incomplete (R289). -/
def State.updtFails (s : State) (c : Cmd) (q : Nat) (key : List Nat) (u : UnitId) (syn : Nat) : State :=
  let n := s.failsOf q key u + 1
  let r := ((s.setFails q key u n).bump (dieCtr 0x2800310 u.die)).countError u 10 syn (c.stepOf.getD 0) (decide (3 ≤ n))
  if 3 ≤ n ∧ r.2.2 then
    match c.stepOf with
    | some k => r.1.reopenIncomplete k
    | none => r.1
  else r.1

/-- OPERATION_RESIDUE_CHECK (R280, R285, R501): check `idx` of command `q` has passed, or fails on element `elem`. The engine is
the one that R501 fixes for the check; only where it fixes none does the report name it. An UPDT whose check passes is
written. -/
def State.operationChecked (s : State) (q idx elem : Nat) (ok : Bool) (die engine syn : Nat) : State :=
  match s.cmd q, s.mc.vnChecks.find? fun v => v.seq == q && v.index == idx with
  | some c, some v =>
    let e := v.engine.getD (die, engine)
    let u := engineUnit e.1 e.2
    let s1 : State := { s with mc := { s.mc with vnChecks := s.mc.vnChecks.erase v } }
    if ok then
      let s2 := s1.checkPassed q [2, idx]
      if c.opcode = 0x38 ∧ c.stage = .running then s2.updtWrite c q else s2
    else if c.opcode = 0x38 then s.updtFails c q [2, idx, elem] u syn
    else s1.checkFailed c q [2, idx, elem] u 10 syn (dieCtr 0x2800310 e.1)
  | _, _ => s

def execOperationResidueCheck (q : Nat) (check : CheckId) (ok : Bool) (engine : EngineId) (predicted observed : Fin 256)
    (s : State) : Out :=
  .next (s.operationChecked q check.index check.elem ok engine.die.val engine.engine.val (residueSyn predicted.val observed.val))

/-! ### Checksum tests -/

/-- |D| > 2^ρ × (BASE + SLOPE × √n) / 16 (R108, R109), exactly. -/
def tolExceeded (base slope n : Nat) (rho : Int) (d : Dy) : Bool :=
  let x := (d.abs.mul ⟨1, 4 - rho⟩).add ⟨-(base : Int), 0⟩
  decide (0 < x.m) && (Dy.mk (slope * slope * n : Nat) 0).lt (x.mul x)

/-- D in units of 1/16 LSB, as a signed 32-bit number. -/
def dSyndrome (rho : Int) (d : Dy) : Nat := unsignedOf ((d.mul ⟨1, 4 - rho⟩).floorAt 0) 32

/-- CHECKSUM_TEST_COMPLETE (R108 to R110): a failed test is reported with the array, the direction and the half; one read
counts once. -/
def State.checksumEnd (s : State) (q i : Nat) : State :=
  match s.read q i, s.readTensor q with
  | some r, some t =>
    if ¬ r.testing then s
    else
      let u := arrayUnit r.array
      let rho : Int := t.testRange r.transpose
      let key := [3, r.vec, r.s, r.g, r.lo, r.len]
      let r1 := { r with testing := false }
      let s1 := s.setRead r1
      let bad := ((List.range r.dsum.length).zip r.dsum).filterMap fun p => match p.2 with
        | some d => if tolExceeded s.cksBase s.cksSlope (t.drivenOf r) rho d then some (p.1, d) else none
        | none => none
      let s2 : State := { s1 with im := { s1.im with cksReports := (bad.map fun p => {
        coord := coordOfKey r.array, transpose := r.transpose, half := p.1 }) ++ s1.im.cksReports } }
      let mech := if r.transpose then 6 else 5
      let ctr := dieCtr 0x2800308 (keyDie r.array)
      (match bad, s.cmd q with
       | [], some _ => s1.checkPassed q key
       | [], none => s1.spannedEnd r1 true
       | p :: _, some c => s2.checkFailed c q key u mech (dSyndrome rho p.2) ctr
       | p :: _, none => ((s2.bump ctr).countError u mech (dSyndrome rho p.2) 0 false).1.spannedEnd r1 false).settleAll
  | _, _ => s

def execChecksumTestComplete (q r : Nat) (s : State) : Out := .next (s.checksumEnd q r)

/-! ### Repair replays (R287, R288) -/

/-- What an earlier run of command `q` has under way is dropped; the recall of an entry goes on. -/
def State.dropRun (s : State) (q : Nat) : State :=
  let keep (h : Channel) : Channel := { h with
    queue := h.queue.filter fun it => it.seq != some q
    current := match h.current with
      | some it => if it.seq = some q then none else some it
      | none => none }
  let s1 : State := { s with
    mc := { s.mc with
      tiles := s.mc.tiles.filter fun t => t.seq != q
      gangs := s.mc.gangs.filter fun g => g.seq != q
      folds := s.mc.folds.filter fun f => f.seq != q
      vnChecks := s.mc.vnChecks.filter fun (v : VnCheck) => v.seq != q }
    af := { s.af with
      reads := s.af.reads.filter fun r => r.seq != q
      matvecs := s.af.matvecs.filter fun w => w.seq != q }
    mv := (s.mv.map fun p => (p.1, keep p.2)).filter fun p => p.2 != Channel.initial
    uk := { s.uk with acts := s.uk.acts.map fun a => { a with seqs := a.seqs.filter fun i => i != q } } }
  { s1 with
    hg := { s1.hg with cmds := s1.hg.cmds.filter fun c => c.parent != some q }
    xe := { s1.xe with closes := s1.xe.closes.filter fun x => x.seq != q, gaths := s1.xe.gaths.filter fun x => x.seq != q } }

/-- A tainted command may run again: the tainted commands that it depends on have been delivered again (R287). -/
def State.repairReady (s : State) (c : Cmd) : Bool :=
  (s.dependsOn c).all fun d => !d.tainted && (!d.repaired || d.stage.isDone || d.stage == .failed)

/-- REPAIR_REPLAY_START: of the tainted commands that may run again, the one accepted first does. One that had not started
waits no longer. A unit retired since the command used it gives it UNIT_RETIRED_REPLAY (R288). Where the journal is lost, the command of
the step completes with UNCORRECTABLE_MEMORY (R22). -/
def State.repairStart (s0 : State) (q : Nat) : State :=
  let s := s0.readJournal
  match s.cmd q with
  | none => s
  | some c =>
    let behind := s.hg.cmds.any fun d => d.tainted && d.before c && s.repairReady d
    if ¬ c.tainted ∨ behind ∨ ¬ s.repairReady c then s
    else if c.stage = .accepted then s.updCmd q fun c => { c with tainted := false }
    else if s.unreplayable c then (s.recordJournal c).failCmd q .uncorrectableMemory 0
    else
      (s.dropRun q).updCmd q fun c => { c with
        stage := .started, tainted := false, repaired := true, checks := 0, conds := [], ind := 0, detail := 0
        startedAt := s.now, children := [], unitRetired := c.unitRetired || s.usedRetired q }

def execRepairReplayStart (q : Nat) (s : State) : Out := .next (s.repairStart q)

/-! ### Return to nominal (R302) -/

/-- Device time of the newest error of the units that share a rail or clock: kind, die and bank or cluster. -/
def State.newestError (s : State) (kind die mid : Nat) : Nat :=
  ((s.im.errors.filter fun e => e.unit.kind == kind && e.unit.die == die && e.unit.mid == mid).map fun e =>
    e.times.headD 0).foldl max 0

/-- No unit behind it has had an error for HOURS. -/
def State.quiet (s : State) (kind die mid : Nat) : Bool :=
  decide (s.newestError kind die mid + s.quietHours * 3600000000000 ≤ s.now)

/-- A cluster's rail and clock go back to nominal by one change between tile passes; a bank's rail by a rail step of the
Almanac in the recovery class, whose end writes the record (R302, R309). -/
def State.toNominal (s : State) (u : NominalUnit) : State :=
  match u with
  | .cluster x =>
    let k := 32 * x.die.val + x.cluster.val
    if ¬ s.quiet 1 x.die.val x.cluster.val ∨ (s.clusterRail k = 0 ∧ ¬ s.clusterSlow k) then s
    else
      let s1 : State := { s with im := { s.im with
        clusterRail := Tab.set (fun _ => 0) s.im.clusterRail k 0, clusterSlow := Tab.set (fun _ => false) s.im.clusterSlow k false } }
      s1.cper {
        unit := 1, coord := x.die.val * 2 ^ 28 + x.cluster.val * 2 ^ 16 + 0xFFFF, mechanism := 0, action := 6 }
  | .bank x =>
    let k := 32 * x.die.val + x.bank.val
    if ¬ s.quiet 2 x.die.val x.bank.val ∨ s.bankRail k = 0 ∨ s.uk.acts.any (fun a => a.kind == .rail && a.bank == k && a.work == .lower)
    then s else s.queueAct .rail .lower k 0 1 []

def execReturnToNominal (u : NominalUnit) (s : State) : Out := .next (s.toNominal u)

/-! ### The commit fence (R294) -/

/-- UPDT commands of step `n`. -/
def State.updts (s : State) (n : Nat) : List Nat :=
  (s.hg.cmds.filter fun c => c.opcode == 0x38 && c.stepOf == some n).filterMap Cmd.seq

/-- Every command of step `n` on which its UPDT commands depend is clear. While none has been accepted, every accepted
command of the step counts. -/
def State.fenceLocal (s : State) (n : Nat) : Bool :=
  let u := s.updts n
  let l := if u.isEmpty then s.hg.cmds.filter fun c => c.seq.isSome && c.parent.isNone
    else ((s.foundations u (s.hg.cmds.length + 1)).filter fun q => !u.contains q).filterMap s.cmd
  l.all fun c => c.stepOf != some n || c.stage.isClear

/-- The exchange condition (R261): a summary from every rank, none with INC. -/
def State.exchangeMet (s : State) (n : Nat) : Bool :=
  let x := s.xeStep n
  s.present.all fun r => x.got.any fun p => p.1 == r && !p.2.2

/-- The global non-finite flag (R261). -/
def State.globalNf (s : State) (n : Nat) : Bool := (s.xeStep n).got.any fun p => p.2.1

/-- The error memories of step `n` flip to the plane that the step wrote (R251). -/
def State.flipErrors (s : State) (n : Nat) : State :=
  (s.xe.sends.filter fun x => x.step == n && x.errmem != 0).foldl (fun (u : State) x =>
    let cur := u.rdNat x.errmem 1 % 2
    (u.wr x.errmem [BitVec.ofNat 8 (1 - cur)]).wrNat (x.errmem + 4) 4 n) s

/-- What every resolution of a step by its fence releases (R227, R258, R296). -/
def State.closeStep (s : State) (n outcome : Nat) : State :=
  let s1 := s.releaseStep n
  let mine (q : Nat) : Bool := (s.cmd q).any fun c => c.stepOf == some n
  ({ s1 with
    hg := { s1.hg with journal := s1.hg.journal.filter fun q => !mine q }
    im := { s1.im with written := s1.im.written.filter fun w => !mine w.1, repeats := s1.im.repeats.filter fun r => !mine r.1 }
    xe := { s1.xe with
      parts := s1.xe.parts.filter fun p => p.step != n
      sends := s1.xe.sends.filter fun p => p.step != n
      mirrors := s1.xe.mirrors.filter fun p => p.step != n
      lastStep := n, lastOutcome := outcome } }).admitWaiting.settleAll

/-- COMMIT_FENCE: step `n` is cleared, or skipped on the global non-finite flag (R209). -/
def State.commitFence (s : State) (n : Nat) : State :=
  if s.resolved n ∨ ¬ s.fenceLocal n ∨ ¬ s.exchangeMet n then s
  else if s.globalNf n then (s.markStep n .skipped).closeStep n 2
  else ((s.flipErrors n).markStep n .cleared).closeStep n 1

def execCommitFence (n : Nat) (s : State) : Out := .next (s.commitFence n)

end Sys2Proof.Machine
end

