-- ==== Sys2Proof/Machine/Mover.lean ====
section
/-!
DEFINITION. The Mover Engine (spec/12): transfer descriptors, address patterns, MOVE, FILL and CMPR, and what a channel
does when a transfer ends or fails.
-/
namespace Sys2Proof.Machine

open Sys2Proof

/-- The fields of a transfer descriptor (Table 12.1). -/
def transferOf (l : List Byte) : Transfer :=
  { src := leNat (l.take 8), dst := leNat ((l.drop 8).take 8), length := leNat ((l.drop 16).take 6),
    swrap := leNat ((l.drop 22).take 1), dwrap := leNat ((l.drop 23).take 1),
    skip := bitAt (leNat ((l.drop 24).take 1)) 0 }

/-- Reserved bits of a transfer descriptor are zero (R344). -/
def transferReserved (l : List Byte) : Bool :=
  leNat ((l.drop 24).take 1) < 2 && leNat ((l.drop 26).take 6) == 0

/-- Address of byte t in a region of base A and wrap w (R346). -/
def wrapAddr (a w t : Nat) : Nat := if w = 0 then a + t else a / 2 ^ w * 2 ^ w + (a + t) % 2 ^ w

/-- The linear pieces of a region: (address, length), in byte order, for a region no longer than its wrap. -/
def pieces (a w n : Nat) : List (Nat × Nat) :=
  if w = 0 then [(a, n)]
  else
    let room := 2 ^ w - a % 2 ^ w
    if n ≤ room then [(a, n)] else [(a, room), (a / 2 ^ w * 2 ^ w, min (n - room) (2 ^ w))]

/-- The pieces of `n` bytes read from a region, one lap of a circular region after another. -/
def laps (a w n : Nat) : List (Nat × Nat) :=
  if w = 0 then [(a, n)]
  else (List.replicate (n / 2 ^ w) (pieces a w (2 ^ w))).flatMap id ++ (if n % 2 ^ w = 0 then [] else pieces a w (n % 2 ^ w))

/-- The bytes `t` below `n` of a region that lie at address `x` (R346). -/
def offsetsAt (a w n x : Nat) : List Nat :=
  if w = 0 then (if a ≤ x ∧ x < a + n then [x - a] else [])
  else if x / 2 ^ w ≠ a / 2 ^ w then []
  else
    let t := (x + 2 ^ w - a % 2 ^ w) % 2 ^ w
    (List.range ((n + 2 ^ w - 1 - t) / 2 ^ w)).map fun k => t + k * 2 ^ w

/-- Two sets of pieces intersect (R347). -/
def piecesMeet (l m : List (Nat × Nat)) : Bool :=
  l.any fun p => m.any fun r => decide (p.1 < r.1 + r.2) && decide (r.1 < p.1 + p.2) && decide (0 < p.2) && decide (0 < r.2)

def wrapOk (w : Nat) : Bool := w == 0 || (decide (12 ≤ w) && decide (w ≤ 40))

/-- A piece that R346 or R344 refuses: it crosses bit 63, passes 2^64, or names an address outside the map or one that
R362 refuses. -/
def State.pieceBad (s : State) (p : Nat × Nat) : Bool := s.rangeBad p.1 p.2

/-- The source of a transfer: a FILL has none, and that of a MOVE does not meet the destination (R346, R347). -/
def State.sourceOk (s : State) (k : MoverKind) (t : Transfer) : Bool :=
  match k with
  | .fill => true
  | .move => !(pieces t.src t.swrap t.length).any s.pieceBad &&
      !piecesMeet (pieces t.src t.swrap t.length) (pieces t.dst t.dwrap t.length)
  | _ => !(pieces t.src t.swrap t.length).any s.pieceBad

/-- Its destination (R346). -/
def State.destOk (s : State) (t : Transfer) : Bool := !(pieces t.dst t.dwrap t.length).any s.pieceBad

/-- R344 to R349: the checks of one transfer. -/
def State.transferOk (s : State) (k : MoverKind) (t : Transfer) : Bool :=
  decide (0 < t.length) && wrapOk t.swrap && wrapOk t.dwrap && (t.dwrap == 0 || decide (t.length ≤ 2 ^ t.dwrap)) &&
  s.destOk t && s.sourceOk k t && (match k with | .fill => t.swrap == 0 | _ => true)

def State.chan (s : State) (c : Nat) : Channel := Tab.get (fun _ => Channel.initial) s.mv c
def State.setChan (s : State) (c : Nat) (h : Channel) : State :=
  { s with mv := Tab.set (fun _ => Channel.initial) s.mv c h }

/-- Bytes `[lo, lo + n)` of the data that a transfer writes (R347, R348). -/
def State.transferData (s : State) (k : MoverKind) (t : Transfer) (lo : Nat) : Nat → List Byte
  | 0 => []
  | n + 1 =>
    (match k with
     | .fill => BitVec.ofNat 8 (t.src / 256 ^ (lo % 8))
     | _ => s.rdByte (wrapAddr t.src t.swrap lo)) :: s.transferData k t (lo + 1) n

/-- Write data to bytes `lo` on of the destination region, piece by piece. -/
def State.writePieces (s : State) : List (Nat × Nat) → List Byte → State
  | [], _ => s
  | (a, n) :: ps, l => (s.wr a (l.take n)).writePieces ps (l.drop n)

/-- The pieces of bytes `[lo, lo + n)` of a region. -/
def subPieces (a w lo n : Nat) : List (Nat × Nat) := pieces (wrapAddr a w lo) w n

/-- Why a request of the transfer fails: address, uncorrectable, direction (0 source read, 1 destination write). -/
def State.transferFail (s : State) (k : MoverKind) (t : Transfer) : Option (Nat × Bool × Nat) :=
  let src := match k with
    | .fill => none
    | _ => s.rdFails (pieces t.src t.swrap t.length)
  match src with
  | some f => some (f.1, f.2, 0)
  | none =>
    match k with
    | .cmpr => (s.rdFails (pieces t.dst t.dwrap t.length)).map fun f => (f.1, f.2, 0)
    | _ =>
      if isHost t.dst then (s.rdFails (pieces t.dst t.dwrap t.length)).map fun f => (f.1, f.2, 1) else none

/-- First `t` below `lo + n` at which two lists differ. -/
def firstDiff : List Byte → List Byte → Nat → Option Nat
  | a :: as, b :: bs, i => if a = b then firstDiff as bs (i + 1) else some i
  | _, _, _ => none

/-- Write STS of list entry `i`; none when the write fails (R345, R356, R357). -/
def State.writeSts (s : State) (it : MoverItem) (i v : Nat) : Option State :=
  match it.listAddr with
  | none => some s
  | some l =>
    let a := l + 32 * i + 25
    if isHost a ∧ (s.rdFail a 1).isSome then none else some (s.wr a [BitVec.ofNat 8 v])

/-- Count the bytes of a transfer (Table 12.4, Table 14.1). -/
def State.countMove (s : State) (k : MoverKind) (q : Option Nat) (t : Transfer) (n : Nat) : State :=
  let s1 := match k with
    | .fill => s
    | _ => ((laps t.src t.swrap n).foldl (fun (s : State) p => (s.noteReads [p]).traffic q false p.1 p.2) s).bump 0x0C00300 n
  match k with
  | .cmpr => ((laps t.dst t.dwrap n).foldl (fun (s : State) p => (s.noteReads [p]).traffic q false p.1 p.2) s1).bump 0x0C00300 n
  | _ => ((pieces t.dst t.dwrap n).foldl (fun (s : State) p =>
      (q.elim s fun k => s.noteWrite k p.1 p.2).traffic q true p.1 p.2) s1).bump 0x0C00308 n

/-- A Logbook record of a transfer's end (Table 14.5, 0x70). -/
def State.logTransfer (s : State) (c : Nat) (q : Option Nat) (sts : Nat) : State :=
  s.logRec 4 0xF0000000 0x70 ((q.bind s.cmd).map Cmd.ring) q (c + 256 * sts)

/-- A channel halts (R356): it latches the failure, the channel's error source receives an arrival, MV_HALTS counts. -/
def State.haltChan (s : State) (c : Nat) (addr cause dir reason : Nat) : State :=
  let h := s.chan c
  let (idx, q) : Nat × Nat := match h.current with
    | some it => (if it.listAddr.isSome then it.done else 0, (it.seq.map s.repaired).getD (2 ^ 64 - 1))
    | none => (0, 2 ^ 64 - 1)
  ((s.setChan c { h with
    current := none, halted := true, haltedAt := s.now, failAddr := BitVec.ofNat 64 addr, failIndex := idx,
    failCause := cause, failDir := dir, failReason := reason, failSeq := BitVec.ofNat 64 q }).bump 0x0C00320).arrive (128 + c)

/-- A failed spill leaves its entry resident, and its window space is free again (R228). -/
def State.spillFailed (s : State) (n : Nat) : State :=
  { s with ham := { s.ham with entries := s.ham.entries.map fun e =>
      if e.number = n ∧ e.place = .spilling then { e with place := .resident } else e } }

/-- The entry that a spill transfer moves: none when it has been released meanwhile. -/
def State.spillEntry (s : State) (n : Nat) : Option HamperEntry :=
  s.ham.entries.find? fun e => e.number == n && e.place == .spilling

/-- The entry that a recall brings back. -/
def State.recallEntry (s : State) (n : Nat) : Option HamperEntry :=
  s.ham.entries.find? fun e => e.number == n && e.place == .spilled && e.reading

/-- An entry is released and counts as not kept (R227). -/
def State.releaseEntry (s : State) (n : Nat) : State :=
  { s with ham := { s.ham with
    gone := (s.ham.entries.filter (·.number = n)).map (fun e => (e.step, e.mb, e.block)) ++ s.ham.gone
    entries := s.ham.entries.filter (·.number ≠ n) } }

/-- RECL and RECOMP commands that wait for entry `n` to be brought back; they hold the mark 2^64, which is no command's
number, and the entry's number in their list of children. -/
def State.recallWaiters (s : State) (n : Nat) : List Nat :=
  (s.hg.cmds.filter fun c => c.stage == .running && !c.tainted && c.children == [2 ^ 64, n]).filterMap Cmd.seq

/-- The entry that a command was to restore is not kept (R226): RECL completes with the reach-back indication; a RECOMP
selects its source again. -/
def State.notRestored (s : State) (q : Nat) : State :=
  match s.cmd q with
  | some c =>
    if c.opcode = 0x29 then (s.addCond q [] 0x20#16).deliver q
    else s.updCmd q fun c => { c with stage := .started }
  | none => s

/-- A failed recall releases the entry (R226), for command `q` and every other one that waits for it. -/
def State.recallFailed (s : State) (n : Nat) (q : Option Nat) : State :=
  (s.recallWaiters n ++ q.toList.filter fun i => !(s.recallWaiters n).contains i).foldl State.notRestored (s.releaseEntry n)

/-- A recall transfer that has failed, unless its entry has been released meanwhile. -/
def State.recallDropped (s : State) (n : Nat) : State :=
  if (s.recallEntry n).isSome then s.recallFailed n none else (s.recallWaiters n).foldl State.notRestored s

/-- The command of an item ends because its channel failed it (R357); one that lost its data to an uncorrectable codeword waits
for the writer's replay, where there is one (R290). A spill that met an uncorrectable codeword releases its entry (R382). -/
def State.endItemFailed (s : State) (it : MoverItem) : State :=
  match it.kind with
  | .spill n =>
    (match s.spillEntry n with
     | some _ => if it.failUncorr then s.releaseEntry n else s.spillFailed n
     | none => s)
  | .recall n => s.recallDropped n
  | _ =>
    match it.seq with
    | some q => s.failMem q (it.failAddr.getD 0, it.failUncorr)
    | none => s

/-- The last transfer of an item has ended (R352, R357, R325). -/
def State.endItem (s : State) (it : MoverItem) : State :=
  match it.seq with
  | none => s
  | some q =>
    match it.failAddr with
    | none => s.deliver q
    | some a =>
      match it.kind with
      | .cmpr => s.failMem q (a, it.failUncorr)
      | _ => (if it.failUncorr ∧ (s.lostWriter a).isSome then s else s.deliver q).failMem q (a, it.failUncorr)

/-- Read and check an item's list when the channel takes it (R344). -/
def State.takeList (s : State) (it : MoverItem) (count : Nat) : Option (Nat × Bool) ⊕ Option (List Transfer) :=
  match it.listAddr with
  | none => .inr (if it.transfers.all (s.transferOk it.kind) then some it.transfers else none)
  | some l =>
    match s.rdFail l (32 * count) with
    | some f => .inl (some f)
    | none =>
      if s.rangeBad l (32 * count) then .inr none
      else
      let raw := (List.range count).map fun i => s.rd (l + 32 * i) 32
      if raw.all (fun e => transferReserved e && s.transferOk it.kind (transferOf e)) then .inr (some (raw.map transferOf))
      else .inr none

/-- A transfer has ended without error, and its STS cannot be written: the channel halts (R354, R356). -/
def State.stsFail (s : State) (c : Nat) (it : MoverItem) : State :=
  let a := it.listAddr.getD 0 + 32 * it.done + 25
  ((s.setChan c { s.chan c with consec := 0 }).haltChan c a 6 3 2).endItemFailed { it with failAddr := it.failAddr.or (some a) }

/-- The ranges of a transfer's source and destination. -/
def Transfer.ranges (t : Transfer) (k : MoverKind) : List (Nat × Nat) :=
  (match k with
   | .fill => []
   | _ => pieces t.src t.swrap (if t.swrap = 0 then t.length else min t.length (2 ^ t.swrap))) ++ pieces t.dst t.dwrap t.length

/-- What one turn of a channel did. -/
inductive Turn where
  | again (s : State)
  | rest (s : State)

/-- One turn of a channel: take the next item, end a finished one, or run the current transfer as far as it goes
without an event of the outside world (a failing request, or the read-back of a host destination). -/
def State.chanTurn (s : State) (c : Nat) : Turn :=
  let h := s.chan c
  match h.current with
  | none =>
    match h.queue with
    | [] => .rest s
    | it :: rest =>
      if h.halted then .rest s
      else
        match it.kind with
        | .spill _ => .rest (s.setChan c { h with current := some it, queue := rest })
        | .recall _ => .rest (s.setChan c { h with current := some it, queue := rest })
        | _ =>
          let count := (it.seq.bind s.cmd).elim 0 fun cm => cm.u 20 4
          let list : List (Nat × Nat) := it.listAddr.toList.map fun l => (l, 32 * count)
          if s.heldBack list then .rest s
          else
          let s0 := s.noteReads list
          match s.takeList it count with
          | .inl f =>
            let s1 := s0.setChan c { h with current := some it, queue := rest }
            let f := f.getD (0, false)
            .rest ((s1.haltChan c f.1 (if f.2 then 5 else (hostFail s.ms.hostBad f.1 1).elim 1 Prod.snd) 3 2).endItemFailed { it with failAddr := some f.1, failUncorr := f.2 })
          | .inr none =>
            .again ((s0.setChan c { h with queue := rest }).badStruct (it.seq.getD 0))
          | .inr (some ts) => .again (s0.setChan c { h with current := some { it with transfers := ts }, queue := rest })
  | some it =>
    match it.kind with
    | .spill _ => .rest s
    | .recall _ => .rest s
    | _ =>
      match it.transfers[it.done]? with
      | none => .again ((s.setChan c { h with current := none }).endItem it)
      | some t =>
        if it.issued ∨ s.heldBack ((it.listAddr.toList.map fun l => (l, 32)) ++ t.ranges it.kind) then .rest s
        else
          match s.transferFail it.kind t with
          | some _ => .rest s
          | none =>
            let data := s.transferData it.kind t 0 t.length
            let s1 := s.countMove it.kind it.seq t t.length
            match it.kind with
            | .cmpr =>
              let other := s.transferData .move { t with src := t.dst, swrap := t.dwrap } 0 t.length
              match firstDiff data other 0 with
              | some i =>
                let off := ((it.transfers.take it.done).map Transfer.length).sum + i
                match s1.writeSts it it.done 4 with
                | none => .rest (s1.stsFail c it)
                | some s2 =>
                  let s3 := (s2.setChan c { h with current := none, consec := 0 }).logTransfer c it.seq 4
                  let q := it.seq.getD 0
                  .again (match it.failAddr with
                    | none => ((s3.addCond q [.compareMismatch] 0).setDetail q off).deliver q
                    | some _ => (s3.addCond q [.compareMismatch] 0).endItem it)
              | none =>
                match s1.writeSts it it.done 1 with
                | none => .rest (s1.stsFail c it)
                | some s2 => .again ((s2.setChan c { h with current := some { it with done := it.done + 1 }, consec := 0 }).logTransfer c it.seq 1)
            | _ =>
              if isHost t.dst then
                let before := s.transferData .move { t with src := t.dst, swrap := t.dwrap } 0 t.length
                let s2 := s1.writePieces (pieces t.dst t.dwrap t.length) data
                .rest (s2.setChan c { h with current := some { it with issued := true, before := before } })
              else
                let s2 := s1.writePieces (pieces t.dst t.dwrap t.length) data
                match s2.writeSts it it.done 1 with
                | none => .rest (s2.stsFail c it)
                | some s3 => .again ((s3.setChan c { h with current := some { it with done := it.done + 1 }, consec := 0 }).logTransfer c it.seq 1)

/-- Turns of a channel until it rests, at most `fuel`. -/
def State.chanRun (s : State) (c : Nat) : Nat → State
  | 0 => s
  | k + 1 =>
    match s.chanTurn c with
    | .rest s' => s'
    | .again s' => s'.chanRun c k

/-- A bound on the turns a channel can take: two for each item, one for each of its transfers. -/
def State.chanFuel (s : State) (c : Nat) : Nat :=
  let h := s.chan c
  let n (it : MoverItem) : Nat := 3 + it.transfers.length + (it.seq.bind s.cmd).elim 0 fun cm => cm.u 20 4
  (h.queue.map n).sum + (h.current.elim 0 n) + 1

def State.chanGo (s : State) (c : Nat) : State := s.chanRun c (s.chanFuel c)

/-- Queue position: commands in ascending issue sequence number, a spill where it arrives (R342). -/
def queueIn (it : MoverItem) : List MoverItem → List MoverItem
  | [] => [it]
  | x :: xs =>
    match it.seq, x.seq with
    | some a, some b => if a < b then it :: x :: xs else x :: queueIn it xs
    | _, _ => x :: queueIn it xs

/-- The item of a MOVE, FILL or CMPR descriptor (Table 11.4). -/
def moverItem (c : Cmd) (k : MoverKind) (now : Nat) : MoverItem :=
  let list := bitAt (c.u8 17) 0
  { kind := k, seq := c.seq, listAddr := if list then some (c.u 24 8) else none,
    transfers := if list then [] else [transferOf (c.slot.drop 32)], done := 0, issued := false, before := [],
    failAddr := none, failUncorr := false, queuedAt := now, asker := none }

/-- Body of MOVE, FILL and CMPR: the command takes its place on the named channel (R342), which runs its transfers
(R347 to R349) up to the first that ends by an event of the outside world. -/
def State.runMover (s : State) (q op : Nat) (k : MoverKind) : State :=
  match s.runnable q op with
  | none => s
  | some c =>
    let ch := c.u8 16
    let s1 := s.updCmd q fun c => { c with stage := .running }
    let h := s1.chan ch
    (s1.setChan ch { h with queue := queueIn (moverItem c k s.now) h.queue }).chanGo ch

/-- MOVE (R347). -/
def execMove (q : Nat) (s : State) : Out := .next (s.runMover q 0x01 .move)
/-- FILL (R348). -/
def execFill (q : Nat) (s : State) : Out := .next (s.runMover q 0x02 .fill)
/-- CMPR (R349). -/
def execCmpr (q : Nat) (s : State) : Out := .next (s.runMover q 0x03 .cmpr)

/-- The read-back of a host destination: the aligned 4 bytes that hold byte LENGTH − 1 (R351). -/
def Transfer.readBack (t : Transfer) : Nat := wrapAddr t.dst t.dwrap (t.length - 1) / 4 * 4

/-- The read-back of the transfer that an item runs fails. -/
def State.readBackFail (s : State) (it : MoverItem) : Bool :=
  (it.transfers[it.done]?).any fun t => (s.rdFail t.readBack 4).isSome

/-- MOVER_TRANSFER_END (R351): the read-back of a host destination has completed without error; STS 1, and the channel goes
on. A channel whose transfer had to wait tries again. -/
def State.transferEnd (s : State) (c : Nat) : State :=
  let h := s.chan c
  match h.current with
  | none => s.chanGo c
  | some it =>
    if ¬ it.issued then s.chanGo c
    else if s.ld.d3hot ∨ s.readBackFail it then s
    else
      let s1 := s.bump 0x0C00310
      match s1.writeSts it it.done 1 with
      | none => s1.stsFail c it
      | some s2 =>
        ((s2.setChan c { h with current := some { it with done := it.done + 1, issued := false, before := [] }, consec := 0 }).logTransfer
          c it.seq 1).chanGo c

def execMoverTransferEnd (c : Fin 64) (s : State) : Out := .next (s.transferEnd c.val)

/-- Destination bytes of a host write that failed hold either what they held or what was written (R353): an open value
decides for each byte. -/
def undefBytes (free : List Byte) (old new : List Byte) : List Byte :=
  List.zipWith (fun f on => if bitAt f.toNat 0 then on.1 else on.2) free (List.zip old new)

/-- Byte `i` of the source lies in a codeword that is lost. -/
def State.srcLost (s : State) (k : MoverKind) (t : Transfer) (i : Nat) : Bool :=
  match k with
  | .fill => false
  | _ => !isHost t.src && s.cwBad (wrapAddr t.src t.swrap i / 32)

/-- Write byte `i` of a transfer to host memory. -/
def State.putAt (s : State) (t : Transfer) (i : Nat) (v : Byte) : State := s.putByte (wrapAddr t.dst t.dwrap i) v

/-- What the requests already issued of a failing transfer write (R353): the byte ranges `issued` of the transfer. Data of a
lost codeword is poisoned in device memory, and is not written to host memory. -/
def State.partialMove (s : State) (k : MoverKind) (t : Transfer) : List (Nat × Nat) → State
  | [] => s
  | (lo, n) :: rest =>
    let n := min n (t.length - lo)
    let d := s.transferData k t lo n
    let s1 := match k with
      | .fill => s
      | _ => (s.noteReads (subPieces t.src t.swrap lo n)).bump 0x0C00300 n
    let lost := (List.range n).filter fun i => s.srcLost k t (lo + i)
    let s2 :=
      if isHost t.dst then
        ((List.range n).zip d).foldl (fun (u : State) p => if lost.contains p.1 then u else u.putAt t (lo + p.1) p.2) s1
      else lost.foldl (fun (u : State) i => u.poisonCw (wrapAddr t.dst t.dwrap (lo + i) / 32))
        (s1.writePieces (subPieces t.dst t.dwrap lo n) d)
    (s2.bump 0x0C00308 n).partialMove k t rest

/-- The destination codewords of the source bytes that lie in an uncorrectable codeword are poisoned (R353). -/
def State.poisonDst (s : State) (t : Transfer) (addr : Nat) : State :=
  if isHost t.dst then s
  else
    ((List.range 32).flatMap fun i => offsetsAt t.src t.swrap t.length (addr / 32 * 32 + i)).foldl
      (fun s k => s.poisonCw (wrapAddr t.dst t.dwrap k / 32)) s

/-- The pieces of bytes `[lo, lo + n)` of an entry that lies in the units `us`. -/
def unitPieces (us : List Nat) (lo n : Nat) : List (Nat × Nat) :=
  (blocksOf lo n).map fun b => (us.getD (b / 4096) 0 + max lo b % 4096, min (lo + n) (b + 4096) - max lo b)

/-- What the requests already issued of a failing spill or recall write: the byte ranges `issued` of the entry. -/
def State.partialSpill (s : State) (k : MoverKind) : List (Nat × Nat) → State
  | [] => s
  | (lo, n) :: rest =>
    (match k with
     | .spill i =>
       (match s.spillEntry i with
        | none => s
        | some e =>
          let n := min n (4096 * e.units.length - lo)
          let w (o : Nat) : Nat := e.window + lo + o
          let d := (unitPieces e.units lo n).flatMap fun (p : Nat × Nat) => (List.range p.2).map fun j => p.1 + j
          ((List.range n).zip d).foldl (fun (u : State) (p : Nat × Nat) => if s.cwBad (p.2 / 32) then u else u.putByte (w p.1) (s.rdByte p.2)) s)
     | .recall i =>
       (match s.recallEntry i with
        | none => s
        | some e =>
          let n := min n (4096 * e.units.length - lo)
          s.writePieces (unitPieces e.units lo n) (s.rd (e.window + lo) n))
     | _ => s).partialSpill k rest

/-- The bytes of a transfer's destination. -/
def State.dstBytes (s : State) (t : Transfer) : List Byte :=
  s.transferData .move { t with src := t.dst, swrap := t.dwrap } 0 t.length

/-- What a failing transfer leaves in its destination (R353). After every write has been issued, or when a write to host memory
fails, an open value decides for each byte of host memory whether it was written. -/
def State.failedWrites (s : State) (it : MoverItem) (t : Transfer) (addr dir cause : Nat) (issued : List (Nat × Nat)) : State :=
  match it.kind with
  | .spill _ => s.partialSpill it.kind issued
  | .recall _ => s.partialSpill it.kind issued
  | .cmpr => s
  | k =>
    if it.issued then
      (s.writePieces (pieces t.dst t.dwrap t.length) (undefBytes (s.freeBytes t.length) it.before (s.dstBytes t))).freeStep
    else
      let s1 := s.partialMove k t issued
      let s2 := if cause = 5 then s1.poisonDst t addr else s1
      if dir = 1 then
        (s2.writePieces (pieces t.dst t.dwrap t.length) (undefBytes (s.freeBytes t.length) (s.dstBytes t) (s2.dstBytes t))).freeStep
      else s2

/-- MOVER_REQUEST_FAIL (R353 to R357): a request of the current transfer fails at `addr`, in direction `dir` (0 source
read, 1 destination write, 2 read-back) with a cause of MV_CH_FAIL_INFO; the requests already issued are the byte
ranges `issued`. Once every write is issued, one of them or the read-back fails. -/
def State.requestFail (s : State) (c addr dir cause : Nat) (issued : List (Nat × Nat)) : State :=
  let h := s.chan c
  match h.current with
  | none => s
  | some it =>
    if (dir = 2 ∧ ¬ it.issued) ∨ (dir = 0 ∧ it.issued) then s
    else
      let t := (it.transfers[it.done]?).getD { src := 0, dst := 0, length := 0, swrap := 0, dwrap := 0, skip := true }
      let addr := if dir = 2 then t.readBack else addr
      let s := if cause = 5 then s.noteReads [(addr, 1)] else s
      let isSpill : Bool := match it.kind with
        | .spill _ => true
        | .recall _ => true
        | _ => false
      let s1 := s.failedWrites it t addr dir cause issued
      let n := min 3 (h.consec + 1)
      let it1 := { it with
        failAddr := it.failAddr.or (some addr), failUncorr := it.failUncorr || cause == 5, issued := false, before := [] }
      let skip := t.skip || isSpill
      if skip ∧ n < 3 then
        let s2 := s1.bump 0x0C00318
        let h2 := { h with consec := n, skipped := min 65535 (h.skipped + 1) }
        if isSpill then ((s2.setChan c { h2 with current := none }).endItemFailed it1).chanGo c
        else
          match s2.writeSts it it.done 2 with
          | none => ((s2.setChan c h2).haltChan c (it.listAddr.getD 0 + 32 * it.done + 25) 6 3 2).endItemFailed it1
          | some s3 =>
            ((s3.setChan c { h2 with current := some { it1 with done := it.done + 1 } }).logTransfer c it.seq 2).chanGo c
      else
        let s2 := if isSpill then s1 else (s1.writeSts it it.done 3).getD s1
        (((s2.setChan c { h with consec := n }).haltChan c addr cause dir (if skip then 3 else 1)).endItemFailed it1).logTransfer
          c it.seq 3

/-- A queued item that FLUSH completes without moving bytes (R358). -/
def State.flushItem (s : State) (addr : Nat) (it : MoverItem) : State :=
  match it.kind with
  | .spill n => s.spillFailed n
  | .recall n => s.recallDropped n
  | _ =>
    match it.seq with
    | some q => s.failCmd q .hostBusError addr
    | none => s

/-- A spill channel that has left the halted state lets the Hamper spill again from the first STSH of the next step
(R21). The next step is counted from the moment at which the channel leaves the halted state (DESIGN CHOICE, log entry 143). -/
def State.spillResume (s : State) (c : Nat) : State :=
  if s.ham.spillChannel = c then { s with ham := { s.ham with suspended := s.ham.newestStash } } else s

/-- FLUSH (R358): every item queued before this cycle completes without moving a byte, and the channel is not halted; what
arrived in this cycle runs. -/
def State.flushChan (s : State) (c : Nat) : State :=
  let h := s.chan c
  let late := h.queue.filter fun it => decide (s.now ≤ it.queuedAt)
  (((h.queue.filter fun it => decide (it.queuedAt < s.now)).foldl (fun s it => s.flushItem h.failAddr.toNat it)
    (s.setChan c { h with queue := late, halted := false, consec := 0 })).spillResume c).chanGo c

/-- A write to MV_CH_CTRL_c (R358): WEIGHT, then FLUSH, then RESTART. In the cycle of the halt neither has an effect. -/
def State.chCtrlWrite (s : State) (m : Master) (c v : Nat) : State :=
  if ¬ s.owns m ∨ ¬ s.regLands m then s
  else
    let s1 := s.setReg (rChCtrl c) (v % 16)
    let h := s1.chan c
    if ¬ h.halted ∨ s.now ≤ h.haltedAt then s1
    else if bitAt v 30 then s1.flushChan c
    else if bitAt v 31 then ((s1.setChan c { h with halted := false, consec := 0 }).spillResume c).chanGo c
    else s1

/-- Command `q` waits for item `it` of a queue: its own, or the recall of an entry. -/
def State.waitsFor (s : State) (q : Nat) (it : MoverItem) : Bool :=
  match it.kind with
  | .recall n => (s.recallWaiters n).contains q
  | _ => it.seq == some q

/-- The channel in whose queue the command waits. -/
def State.queuedOn (s : State) (q : Nat) : Option Nat :=
  (s.mv.find? fun p => p.2.queue.any (s.waitsFor q)).map Prod.fst

/-- MOVER_HALTED_WAIT_TIMEOUT (R359): WAIT_US on a halted channel. A recall stays queued: its entry is not lost. -/
def State.haltedTimeout (s : State) (q : Nat) : State :=
  match s.queuedOn q with
  | none => s
  | some c =>
    let h := s.chan c
    match h.queue.find? (s.waitsFor q) with
    | none => s
    | some it =>
      if h.halted ∧ max it.queuedAt h.haltedAt + s.waitUs * 1000 < s.now then
        (s.setChan c { h with queue := h.queue.filter fun it => it.seq != some q }).failCmd q .hostBusError h.failAddr.toNat
      else s

end Sys2Proof.Machine
end

