-- ==== Sys2Proof/Machine/Hamper.lean ====
section
/-!
DEFINITION. The Hamper (R221 to R231, R380 to R382): STSH, RECL, RECOMP, spill and the region.
-/
namespace Sys2Proof.Machine

open Sys2Proof

/-! ### The region (R380, R381) -/

/-- 4 KiB units of `size` bytes. -/
def unitsFor (size : Nat) : Nat := max 1 ((size + 4095) / 4096)

/-- Units of an entry on a stack: unit i of entry `number` lies on stack (number + i) mod 8. -/
def shareOf (number n st : Nat) : Nat := n / 8 + if (st + 8 - number % 8) % 8 < n % 8 then 1 else 0

/-- Offsets of the units in use on a stack, counted in units from the region's start. -/
def State.unitsOn (s : State) (st : Nat) : List Nat :=
  (s.ham.entries.flatMap fun e => e.units.filterMap fun a =>
    let x := stackOf s.ms.interleave a
    if x.1 = st then some ((x.2 - s.ham.offset * 2 ^ 27) / 4096) else none)

/-- fits of R229: room in every stack. -/
def State.fits (s : State) (number n : Nat) : Bool :=
  (List.range 8).all fun st => decide ((s.unitsOn st).length + shareOf number n st ≤ s.ham.size * 2 ^ 15)

/-- The lowest `n` free offsets of a stack. -/
def State.freeUnits (s : State) (st n : Nat) : List Nat :=
  let used := s.unitsOn st
  ((List.range (used.length + n)).filter fun u => !used.contains u).take n

/-- Device addresses of the units that an entry takes, in order. -/
def State.placeUnits (s : State) (number n : Nat) : List Nat :=
  let free := (List.range 8).map fun st => s.freeUnits st (shareOf number n st)
  (List.range n).map fun i =>
    let st := (number + i) % 8
    stackAddr s.ms.interleave st (s.ham.offset * 2 ^ 27 + 4096 * (free.getD st []).getD (i / 8) 0)

/-- A pending region takes effect while no entry is held (R381). -/
def State.applyRegion (s : State) : State :=
  match s.ham.pending with
  | some p =>
    if s.ham.entries.isEmpty then { s with ham := { s.ham with offset := p.1, size := p.2, pending := none } } else s
  | none => s

/-- HAMPER_REGION_APPLY (R381). -/
def execHamperRegionApply (s : State) : Out := .next s.applyRegion

/-- HAMPER_REGION_WRITE (R380, R381): a write that breaks a limit is discarded entirely. -/
def State.regionWrite (s : State) (m : Master) (v : Nat) : State :=
  let off := bitsOf v 16 9
  let size := bitsOf v 0 9
  if s.owns m ∧ s.regLands m ∧ 1 ≤ size ∧ size ≤ 448 ∧ off + size ≤ 512 then
    { s with ham := { s.ham with pending := some (off, size) } }
  else s

def execHamperRegionWrite (m : Master) (v : W32) (s : State) : Out := .next ((s.reachedBy m).regionWrite m v.toNat)

/-! ### Entries -/

/-- The entry (n, m, b). -/
def State.entry (s : State) (n m b : Nat) : Option HamperEntry :=
  s.ham.entries.find? fun e => e.step == n && e.mb == m && e.block == b

/-- The entry with a number. -/
def State.entryNo (s : State) (i : Nat) : Option HamperEntry := s.ham.entries.find? fun e => e.number == i

def State.setEntry (s : State) (e : HamperEntry) : State :=
  { s with ham := { s.ham with entries := s.ham.entries.map fun x => if x.number = e.number then e else x } }

/-- The oldest of the entries that no RECL or RECOMP is reading and `f` takes: the lowest number (R229). -/
def State.oldest (s : State) (f : HamperEntry → Bool) : Option HamperEntry :=
  (s.ham.entries.filter fun e => !e.reading && f e).foldl (fun b e => match b with
    | none => some e
    | some x => if e.number < x.number then some e else some x) none

/-- Bytes of the region in use. -/
def State.regionUsed (s : State) : Nat := (s.ham.entries.map fun e => 4096 * e.units.length).sum

/-! ### Spill (R21, R228) -/

/-- Host memory that spilled entries hold, in this spill window or an earlier one: address and length. -/
def State.windowParts (s : State) : List (Nat × Nat) :=
  (s.ham.entries.filter fun e => e.place != .resident).map fun e => (e.window, 4096 * unitsFor e.size)

/-- The lowest address of the window, at its start or behind a part in use, where `n` bytes are free (DESIGN CHOICE: log entry
153). -/
def State.windowRoom (s : State) (n : Nat) : Option Nat :=
  let l := s.windowParts
  let free (o : Nat) : Bool := decide (s.ham.spillBase ≤ o) && decide (o + n ≤ s.ham.spillBase + s.ham.spillSize) &&
    l.all fun p => decide (o + n ≤ p.1) || decide (p.1 + p.2 ≤ o)
  ((s.ham.spillBase :: l.map fun p => p.1 + p.2).filter free).foldl (fun b o => match b with
    | none => some o
    | some x => some (min x o)) none

/-- Where an entry can be spilled to, when spill is possible (R21, R228). -/
def State.spillTo (s : State) (e : HamperEntry) : Option Nat :=
  if s.ham.spillOn ∧ isHost s.ham.spillBase ∧ ¬ (s.chan s.ham.spillChannel).halted ∧ s.ham.suspended.isNone then
    s.windowRoom (4096 * unitsFor e.size)
  else none

/-- An item of the Mover Engine for the Hamper, which command `q` has caused. -/
def spillItem (k : MoverKind) (q : Option Nat) (now : Nat) : MoverItem :=
  { kind := k, seq := none, asker := q, listAddr := none, transfers := [], done := 0, issued := false, before := []
    failAddr := none, failUncorr := false, queuedAt := now }

/-- Queue an item on the spill channel, behind what is queued there (R342). -/
def State.queueSpill (s : State) (k : MoverKind) (q : Option Nat) : State :=
  let c := s.ham.spillChannel
  let h := s.chan c
  (s.setChan c { h with queue := queueIn (spillItem k q s.now) h.queue }).chanGo c

/-- Spill the oldest resident entry for command `q`, when that is possible; the number of the entry comes with it. -/
def State.spillOldest (s : State) (q : Option Nat) : Option (State × Nat) :=
  match s.oldest fun e => e.place == .resident with
  | none => none
  | some e =>
    match s.spillTo e with
    | none => none
    | some o => some ((s.setEntry { e with place := .spilling, window := o }).queueSpill (.spill e.number) q, e.number)

/-- A spill is under way. -/
def State.spilling (s : State) : Bool := s.ham.entries.any fun e => e.place == .spilling

/-- The spill of entry `n` is under way on a channel that is not halted (R21). -/
def State.spillMoves (s : State) (n : Nat) : Bool :=
  (s.spillEntry n).isSome &&
    s.mv.any fun p => !p.2.halted && (p.2.current.toList ++ p.2.queue).any fun it => it.kind == .spill n

/-- Above HIGH sixteenths, entries are spilled one after another (R228). -/
def State.spillHigh (s : State) (q : Option Nat) : State :=
  if s.spilling ∨ s.regionUsed * 16 ≤ s.ham.spillHigh * (s.ham.size * 2 ^ 30) then s
  else ((s.spillOldest q).map Prod.fst).getD s

/-- The first STSH of a step sets k to 1 and takes the spill settings; spilling resumes if the channel is no longer halted
(R21, R229). -/
def State.newStash (s : State) (n : Nat) : State :=
  if s.ham.newestStash.any fun m => decide (n ≤ m) then s
  else
    { s with ham := { s.ham with
      newestStash := some n, stride := 1
      spillBase := s.reg 0x1000400, spillOn := s.fld 0x1000408 31 1 == 1, spillChannel := s.fld 0x1000408 24 6
      spillHigh := max 1 (s.fld 0x1000408 20 4), spillSize := min 4096 (s.fld 0x1000408 0 13) * 2 ^ 30
      suspended := if (s.chan (s.fld 0x1000408 24 6)).halted then s.ham.suspended else none } }

/-! ### STSH (R225, R229) -/

/-- What the algorithm of R229 answers, with the state that it leaves. -/
inductive Stash where
  | kept (s : State)
  | dropped (s : State)
  | exhausted (s : State)
  /-- The spill of an entry is under way. -/
  | wait (s : State) (entry : Nat)

/-- Coarse keep may release an entry: it is resident, and no spill of it moves. -/
def State.releasable (s : State) (e : HamperEntry) : Bool :=
  e.place == .resident || (e.place == .spilling && !s.spillMoves e.number)

/-- The loop of R229 for an entry of block `b` with `size` bytes and the number it would take. While the spill channel is halted,
or spilling has not resumed, the window counts as full (R21). -/
def State.stashLoop (s : State) (q b number size : Nat) : Nat → Stash
  | 0 => .exhausted s
  | k + 1 =>
    if s.fits number (unitsFor size) then .kept s
    else
      match s.spillOldest (some q) with
      | some x => .wait x.1 x.2
      | none =>
        match s.oldest fun e => s.releasable e && e.block % s.ham.stride != 0 with
        | some e => (((s.releaseEntry e.number).bump 0x1000510).logHamper (some q) 2 e.number).stashLoop q b number size k
        | none =>
          if s.ham.stride < 64 then
            let s1 : State := (({ s with ham := { s.ham with stride := 2 * s.ham.stride } }).bump 0x1000518).logHamper (some q) 3 number
            if b % s1.ham.stride ≠ 0 then .dropped s1 else s1.stashLoop q b number size k
          else .exhausted s

/-- Write the converted bytes into the units of an entry. -/
def State.fillUnits (s : State) (q : Nat) : List Nat → List Byte → State
  | [], _ => s
  | a :: us, l =>
    let x := l.take 4096
    (((s.wr a x).noteWrite q a x.length).traffic (some q) true a x.length).fillUnits q us (l.drop 4096)

/-- The conversion of the block input to the stash format (R225). -/
structure StashData where
  bytes : List Byte
  sats : Nat
  nf : Bool
  deriving DecidableEq, Repr

/-- Stash format code of STSH. -/
def Cmd.stashFmt (c : Cmd) : Nat := c.u8 24

def State.stashData (s : State) (c : Cmd) : StashData :=
  let t := s.tdAt (c.u 16 8)
  let v := s.tensorVals t
  let x := ((List.range v.length).zip v).map fun p => (fpOf c.stashFmt).cvt (bitAt (c.u8 25) 1)
    (if bitAt (c.u8 25) 0 then .stoch (draw16 c.seed (c.u 28 4) c.step (t.base + p.1)) else .near) p.2
  { bytes := x.flatMap fun e => natLe (fmtBytes c.stashFmt) e.bits, sats := (x.filter fun e => e.sat).length
    nf := x.any (fun e => e.nf) || s.lanesClash t }

/-- (step, micro-batch, block) of STSH, RECL and RECOMP. -/
def Cmd.key (c : Cmd) : Nat × Nat × Nat := (c.step, c.mb, c.block)

/-- The conversion is counted and STSH delivered. -/
def State.endStash (s : State) (c : Cmd) (q : Nat) (d : StashData) (n : Nat) : State :=
  let s1 := ((s.countOn (freeDie s.free) 0x1C00310 (List.range d.sats)).freeStep.evt (some q) 0x20 n).evt (some q) 0x21 d.sats
  ((s1.addCond q [] (indBit 0 d.nf ||| indBit 1 (decide (0 < d.sats)))).addVnCheck q).deliver (c.seq.getD q)

/-- A dropped or exhausted STSH named its entry (R226). -/
def State.notKept (s : State) (c : Cmd) : State :=
  { s with ham := { s.ham with gone := c.key :: s.ham.gone.filter fun k => k != c.key } }

/-- STSH returns DROPPED (R229): its entry would have taken number `n`. -/
def State.drop (s : State) (c : Cmd) (q n : Nat) : State :=
  (((((s.notKept c).bump 0x1000508).logHamper (some q) 1 n).evt (some q) 0x51 1).addCond q [] 16#16).deliver q

/-- Store the entry under `number` (R380). -/
def State.store (s : State) (c : Cmd) (q number : Nat) (fresh : Bool) (d : StashData) : State :=
  let us := s.placeUnits number (unitsFor d.bytes.length)
  let e : HamperEntry := {
    number := number, step := c.step, mb := c.mb, block := c.block, place := .resident, fmt := c.stashFmt
    size := d.bytes.length, src := s.rd (c.u 16 8) 64, units := us, window := 0, reading := false }
  let s1 : State := { s with ham := { s.ham with
    entries := s.ham.entries ++ [e], stored := if fresh then (s.ham.stored + 1) % 2 ^ 32 else s.ham.stored
    gone := s.ham.gone.filter fun k => k != c.key } }
  ((s1.fillUnits q us d.bytes).evt (some q) 0x50 1).spillHigh (some q)

/-- STSH after its checks, or again when a spill it waited for has ended: `number` is that of the entry it replaces. -/
def State.stash (s : State) (c : Cmd) (q : Nat) (number : Option Nat) : State :=
  let d := s.stashData c
  let n := number.getD s.ham.stored
  match s.stashLoop q c.block n d.bytes.length (s.ham.entries.length + 8) with
  | .kept s1 => (s1.store c q n number.isNone d).endStash c q d (s.tensorVals (s.tdAt (c.u 16 8))).length
  | .dropped s1 => s1.drop c q n
  | .exhausted s1 =>
    let s2 := ((s1.notKept c).bump 0x1000528).logHamper (some q) 5 n
    (s2.setStep c.step { s2.stepInfo c.step with stashOut := true }).failCmd q .stashExhausted 0
  | .wait s1 e => s1.updCmd q fun c => { c with stage := .running, children := e :: number.toList }

/-- STSH (R225, R229). In a whole-step replay a held entry stays; a repaired STSH replaces it (R288). While it waits, the first
of its children is the entry whose spill it waits for, the second the number of the entry that it replaces. -/
def State.runStsh (s : State) (q : Nat) : State :=
  match s.cmd q with
  | none => s
  | some c =>
    if c.opcode ≠ 0x28 ∨ c.tainted then s
    else if c.stage = .running then
      if c.children.head?.any s.spillMoves then s else s.stash c q c.children[1]?
    else if c.stage ≠ .started then s
    else
      let a := c.u 16 8
      s.withOperands q [(a, 64)] (fun s => s.tdOk a) (fun s => (s.tdAt a).ranges) (fun _ => []) fun s =>
        let s1 := (s.newStash c.step).applyRegion
        match s1.entry c.step c.mb c.block with
        | some e =>
          if s.hg.replay.isSome ∧ ¬ c.repaired then s.deliver q
          else if ¬ c.repaired then s.failCmd q .badDescriptor 8
          else if e.place = .resident ∧ ¬ e.reading then
            let d := s1.stashData c
            ((s1.fillUnits q e.units d.bytes).setEntry { e with src := s1.rd a 64, fmt := c.stashFmt, size := d.bytes.length }).endStash
              c q d (s1.tensorVals (s1.tdAt a)).length
          else
            ({ s1 with ham := { s1.ham with entries := s1.ham.entries.filter fun x => x.number != e.number } }).stash c q
              (some e.number)
        | none =>
          if c.block % s1.ham.stride ≠ 0 then
            s1.drop c q s1.ham.stored
          else s1.stash c q none

def execStsh (q : Nat) (s : State) : Out := .next (s.runStsh q)

/-! ### Restoring an entry (R226, R382) -/

/-- The converted bytes of an entry, from the region or, when it is not there, from the window. -/
def State.entryBytes (s : State) (e : HamperEntry) : List Byte :=
  if e.units.isEmpty then s.rd e.window e.size
  else (e.units.flatMap fun a => s.rd a 4096).take e.size

/-- Element `i` of an entry was read from an uncorrectable or poisoned codeword. -/
def State.entryBad (s : State) (e : HamperEntry) (i : Nat) : Bool :=
  let o := i * fmtBytes e.fmt
  !e.units.isEmpty && s.cwBad ((e.units.getD (o / 4096) 0 + o % 4096) / 32)

/-- Address of element `i` of a tensor. -/
def Td.elemAddr (t : Td) (i : Nat) : Nat :=
  let r := i / t.cols
  let k := i % t.cols
  t.addr + r * t.pitch + if t.four then k / 2 else k * fmtBytes t.fmt

/-- Convert entry `e` back to the format of its block input, at the address that STSH read, with the range that the command read
when it started (R187). Codewords whose source was poisoned are poisoned (R382). -/
def State.restore (s : State) (c : Cmd) (q : Nat) (e : HamperEntry) : State :=
  let t := tdOf e.src
  let w := fmtBytes e.fmt
  let vals := (splitRows w (t.rows * t.cols) (s.entryBytes e)).map fun b => (fpOf e.fmt).decode (leNat b)
  let bad := (List.range vals.length).filter (s.entryBad e)
  let src := if e.units.isEmpty then [(e.window, e.size)] else e.units.map fun a => (a, 4096)
  let range := ((s.ham.ranges.find? fun p => p.1 == q).map Prod.snd).getD (s.rangeOf t)
  let s1 : State := { s with ham := { s.ham with ranges := s.ham.ranges.filter fun (p : Nat × TopRange) => p.1 != q } }
  let s2 := (s1.readOperands q src).putTensor c q t range vals vals (s.anyDie t)
  bad.foldl (fun (s : State) i => if isHost (t.elemAddr i) then s else s.poisonCw (t.elemAddr i / 32)) s2

/-- Begin to bring entry `e` back: into the region when it fits there, else it stays. Answers the state and whether the
command has to wait for the transfer (R226), which may be one that another command has begun. -/
def State.bringBack (s : State) (q : Nat) (e : HamperEntry) : State × Bool :=
  if e.place ≠ .spilled then (s, false)
  else
    let n := unitsFor e.size
    let s1 := s.updCmd q fun c => { c with stage := .running, children := [2 ^ 64, e.number] }
    if e.reading then (s1, true)
    else if s.fits e.number n then
      ((s1.setEntry { e with units := s.placeUnits e.number n, reading := true }).queueSpill (.recall e.number) (some q), true)
    else (s, false)

/-- What restoring an entry reads and writes: its data, or its spill window, and the tensor with its history record. -/
def HamperEntry.ranges (e : HamperEntry) : List (Nat × Nat) :=
  (if e.units.isEmpty then [(e.window, e.size)] else e.units.map fun a => (a, 4096)) ++ (tdOf e.src).ranges ++ (tdOf e.src).histRange

/-- The destination of a restored entry is checked, its history record opened and its range read before anything else is read
(R187, R189, R196). -/
def State.openBack (s : State) (c : Cmd) (q : Nat) (e : HamperEntry) (k : State → State) : State :=
  match s.openOut c.step (tdOf e.src) with
  | none => s.badStruct q
  | some s1 => k { s1 with ham := { s1.ham with
      ranges := (q, s1.rangeOf (tdOf e.src)) :: s1.ham.ranges.filter fun p => p.1 != q } }

/-- The first codeword of an entry that is lost and that its STSH can write again (R290). -/
def State.entryLost (s : State) (e : HamperEntry) : Option Nat :=
  (e.units.flatMap fun a => (cwsOf a 4096).filter s.cwBad).findSome? fun cw =>
    if (s.lostWriter (32 * cw)).isSome then some (32 * cw) else none

/-- Restore entry `e` for command `q`, then `k`; a failing read of the window releases the entry, and the command goes on
as after a failed transfer (R226). -/
def State.restoreThen (s : State) (c : Cmd) (q : Nat) (e : HamperEntry) (k : State → State) : State :=
  if e.units.isEmpty ∧ (s.rdFail e.window e.size).isSome then s.recallFailed e.number (some q)
  else
    match s.entryLost e, s.writeFail (tdOf e.src).ranges with
    | some a, _ => (s.noteReads [(a, 1)]).failMem q (a, true)
    | none, some f => s.failMem q f
    | none, none => k (s.restore c q e)

/-- RECL (R226). -/
def State.runRecl (s : State) (q : Nat) : State :=
  match s.runnable q 0x29 with
  | none => s
  | some c =>
    match s.entry c.step c.mb c.block with
    | none =>
      if s.ham.gone.contains c.key then (s.addCond q [] 0x20#16).deliver q else s.failCmd q .badDescriptor 8
    | some e =>
      if s.heldBack e.ranges then s
      else s.openBack c q e fun s =>
        let r := s.bringBack q e
        if r.2 then r.1 else s.restoreThen c q e fun s => s.deliver q

def execRecl (q : Nat) (s : State) : Out := .next (s.runRecl q)

/-! ### RECOMP (R221, R222, R224) -/

/-- AMVM or AMVT that reads arrays, and its tensor. -/
def State.readerOf (s : State) (c : Cmd) : Option Resident :=
  if c.opcode = 0x10 ∨ c.opcode = 0x11 then
    (s.resident (c.u 48 4)).bind fun t => if t.tdig && c.opcode == 0x11 then none else some t
  else none

/-- A reference of command `q` to the version that `d` reads (R131), `d` being `q` itself or one that it replays. -/
def State.takeRef (s : State) (q : Nat) (d : Cmd) : State :=
  match s.readerOf d with
  | none => s
  | some t =>
    let r : VerRef := { seq := q, tensor := t.id, version := d.version.getD (t.ver d.step) }
    if s.af.refs.contains r then s else { s with af := { s.af with refs := r :: s.af.refs } }

/-- References of RECOMP `q` to every version that the commands `l`, which it replays, require (R224). -/
def State.takeRefs (s : State) (q : Nat) (l : List Nat) : State := (l.filterMap s.cmd).foldl (fun (u : State) d => u.takeRef q d) s

/-- The source entry: the largest block not above b that is held. -/
def State.sourceEntry (s : State) (c : Cmd) : Option HamperEntry :=
  (s.ham.entries.filter fun e => e.step == c.step && e.mb == c.mb && decide (e.block ≤ c.block)).foldl (fun b e => match b with
    | none => some e
    | some x => if x.block < e.block then some e else some x) none

/-- The journalled commands that a RECOMP replays from block `lo` on, in the order of acceptance. -/
def State.replayList (s : State) (c : Cmd) (lo : Nat) : List Nat :=
  s.hg.journal.filter fun i => (s.cmd i).any fun d =>
    d.fwd && d.stepOf == some c.step && d.mb == c.mb && decide (lo ≤ d.block) && decide (d.block ≤ c.block) &&
      !(d.opcode == 0x28 || d.opcode == 0x29 || d.opcode == 0x2A)

/-- Copies that a RECOMP has replayed so far. -/
def State.copies (s : State) (q : Nat) : List Cmd := s.hg.cmds.filter fun d => d.parent == some q

/-- A copy of journalled command `d` starts under the RECOMP `q` with the seed that `d` latched, or latches one as `d` would
when `d` has not started (R222; DEDUCED: log entry 145). -/
def State.startCopy (s : State) (q : Nat) (d : Cmd) (start : State → Cmd → State) : State :=
  let id := s.hg.nextId
  let c : Cmd := { d with
    id := id, seq := some (2 ^ 64 + id), stage := .started, conds := [], ind := 0, detail := 0, startedAt := s.now
    checks := 0, deps := [], recordReady := none, recorded := true, tainted := false, unitRetired := false
    repaired := false, retractions := 0, version := none, deltas := [], seed := if d.seeded then d.seed else s.jobSeed, seeded := true, signalled := true
    parent := some q, children := [], hold := false, heldSince := none }
  start { s with hg := { s.hg with cmds := s.hg.cmds ++ [c], nextId := id + 1 } } c

/-- Every replayed command has ended: RECOMP takes the status of highest precedence and their indications. -/
def State.endRecomp (s : State) (c : Cmd) (q : Nat) : State :=
  let l := s.copies q
  let t := worst (l.map Cmd.status)
  let ind := l.foldl (fun (x : BitVec 16) d => x ||| d.ind) 0
  let reach := c.block - c.detail
  let s0 := if reach = 0 then s else s.logHamper (some q) 4 (((s.entry c.step c.mb c.block).map HamperEntry.number).getD 0)
  let s1 := ((s0.bump 0x1000520 reach).evt (some q) 0x53 reach).updCmd q fun c => { c with detail := 0 }
  let s2 := s1.addCond q [] ind
  if t.fails then
    let s3 := s2.failCmd q t ((l.find? fun d => d.status == t).elim 0 Cmd.detail)
    match s3.entry c.step c.mb c.block with
    | some e => s3.releaseEntry e.number
    | none => s3
  else (s2.addCond q (if t = .ok then [] else [t]) 0).deliver q

/-- The RECOMP goes on: the next command starts when the one before it has completed. `detail` keeps the source block
while it runs. -/
def State.recompNext (s : State) (q : Nat) (start : State → Cmd → State) : State :=
  match s.cmd q with
  | none => s
  | some c =>
    if c.opcode ≠ 0x2A ∨ c.stage ≠ .running ∨ c.tainted ∨ c.children.head? = some (2 ^ 64) then s
    else if (s.copies q).any fun d => !(d.stage.isClear || d.stage == .failed) then s
    else
      match c.children with
      | [] => s.endRecomp c q
      | i :: rest =>
        let s1 := s.updCmd q fun c => { c with children := rest }
        match s1.cmd i with
        | some d => s1.startCopy q d start
        | none => s1

/-- RECOMP (R221): restore the source entry, then replay. -/
def State.runRecomp (s : State) (q : Nat) (start : State → Cmd → State) : State :=
  match s.runnable q 0x2A with
  | none => s.recompNext q start
  | some c =>
    match s.sourceEntry c with
    | none => if (s.stepInfo c.step).stashOut then s.failCmd q .stashExhausted 0 else s.failCmd q .badDescriptor 8
    | some e =>
      if s.heldBack e.ranges then s
      else (s.takeRefs q (s.replayList c e.block)).openBack c q e fun s =>
        let r := s.bringBack q e
        if r.2 then r.1
        else
          s.restoreThen c q e fun s =>
            (s.updCmd q fun d => { d with stage := .running, children := s.replayList c e.block, detail := e.block }).recompNext q start

/-- The entry of its own block is released when a RECOMP completes (R227). -/
def State.recompClear (s : State) (c : Cmd) : State :=
  match s.entry c.step c.mb c.block with
  | some e => s.releaseEntry e.number
  | none => s

/-! ### End of a spill transfer or a recall (R228, R226) -/

/-- A command that waited for a recall goes on (R226). -/
def State.afterRecall (s : State) (q : Nat) (e : HamperEntry) (start : State → Cmd → State) : State :=
  match s.cmd q with
  | none => s
  | some c =>
    if c.stage ≠ .running ∨ c.tainted then s
    else if c.opcode = 0x29 then s.restoreThen c q e fun s => s.deliver q
    else
      s.restoreThen c q e fun s =>
        (s.updCmd q fun d => { d with children := s.replayList c e.block, detail := e.block }).recompNext q start

/-- STSH commands that wait go on, in the order of acceptance. -/
def State.wakeStash (s : State) : State :=
  ((s.hg.cmds.filter fun c => c.opcode == 0x28 && c.stage == .running).filterMap Cmd.seq).foldl State.runStsh s

/-- The Hamper's current item has ended, and the channel goes on. -/
def State.spillIdle (s : State) (c : Nat) : State := (s.setChan c { s.chan c with current := none, consec := 0 }).chanGo c

/-- Entry `e` has been copied to the spill window for command `q`. -/
def State.spillOut (s : State) (e : HamperEntry) (q : Option Nat) : State :=
  let data := e.units.flatMap fun a => s.rd a 4096
  let s1 := e.units.foldl (fun (s : State) a => (s.noteReads [(a, 4096)]).traffic q false a 4096) s
  let s2 := (((s1.wr e.window data).traffic q true e.window data.length).bump 0x0C00300 data.length).bump 0x0C00308 data.length
  ((((s2.setEntry { e with place := .spilled, units := [] }).bump 0x1000500).bump 0x0C00310).logHamper q 0 e.number).evt q 0x52 1

/-- Entry `e` has been copied back into its units for command `q`. -/
def State.spillIn (s : State) (e : HamperEntry) (q : Option Nat) : State :=
  let data := s.rd e.window (4096 * e.units.length)
  let s1 := e.units.zip (splitRows 4096 e.units.length data) |>.foldl (fun (s : State) p =>
    (s.wr p.1 p.2).traffic q true p.1 4096) s
  let s2 := ((s1.traffic q false e.window data.length).bump 0x0C00300 data.length).bump 0x0C00308 data.length
  s2.setEntry { e with place := .resident, reading := false }

/-- The host bytes of an entry's transfer: all of it, and for a spill also the read-back of its last 4 bytes (R351). -/
def State.windowFail (s : State) (e : HamperEntry) : Bool := (s.rdFail e.window (4096 * e.units.length)).isSome

/-- SPILL_TRANSFER_END on channel `c`: the data has reached host memory, and the entry's space is free; or a spilled
entry is back in the region, and every command that waits for it goes on. The transfer of an entry that has been released
moves nothing. A transfer that meets an uncorrectable codeword or a failing host access does not end so (MOVER_REQUEST_FAIL);
one that touches a row which is being remapped, or host memory in D3hot, waits. -/
def State.spillEnd (s : State) (c : Nat) (start : State → Cmd → State) : State :=
  match (s.chan c).current with
  | none => s
  | some it =>
    match it.kind with
    | .spill n =>
      (match s.spillEntry n with
       | none => s.spillIdle c
       | some e =>
         if (s.rdFails (e.units.map fun a => (a, 4096))).isSome ∨ s.windowFail e ∨ s.heldBack ((e.window, 4096 * e.units.length) :: e.units.map fun a => (a, 4096)) then s
         else (((s.spillOut e it.asker).spillIdle c).wakeStash).spillHigh it.asker)
    | .recall n =>
      (match s.recallEntry n with
       | none => (s.recallWaiters n).foldl State.notRestored (s.spillIdle c)
       | some e =>
         if s.windowFail e ∨ s.heldBack ((e.window, 4096 * e.units.length) :: e.units.map fun a => (a, 4096)) then s
         else
           (s.recallWaiters n).foldl (fun (s : State) q => s.afterRecall q { e with place := .resident, reading := false } start)
             ((s.spillIn e it.asker).spillIdle c))
    | _ => s

/-- Waiting STSH commands look again, and spilling above the mark goes on (R228). -/
def State.spillAgain (s : State) : State := s.wakeStash.spillHigh none

/-- The current item of a channel is the Hamper's. -/
def State.spillCurrent (s : State) (c : Nat) : Bool :=
  (s.chan c).current.any fun it => match it.kind with
    | .spill _ => true
    | .recall _ => true
    | _ => false

/-- MOVER_REQUEST_FAIL (R353 to R357); after a skipped spill others follow while spill is possible (R228). -/
def execMoverRequestFail (c : Fin 64) (addr : W64) (dir : Fin 3) (cause : Fin 7) (issued : List (Nat × Nat)) (s : State) :
    Out :=
  .next (
    let s1 := s.requestFail c.val addr.toNat dir.val cause.val issued
    if s.spillCurrent c.val then s1.spillAgain else s1)

/-- What a write to the control register of a channel leaves the Hamper to do. -/
def State.afterCtrl (s : State) (c : Nat) : State := if s.ham.spillChannel = c then s.spillAgain else s

/-- MOVER_RESTART (R358): a write of 1 to RESTART. -/
def execMoverRestart (m : Master) (c : Fin 64) (v : W32) (s : State) : Out :=
  .next (let s := s.reachedBy m
    if bitAt v.toNat 31 then (s.chCtrlWrite m c.val v.toNat).afterCtrl c.val else s)

/-- MOVER_FLUSH (R358): a write of 1 to FLUSH. -/
def execMoverFlush (m : Master) (c : Fin 64) (v : W32) (s : State) : Out :=
  .next (let s := s.reachedBy m
    if bitAt v.toNat 30 then (s.chCtrlWrite m c.val v.toNat).afterCtrl c.val else s)

/-- MOVER_HALTED_WAIT_TIMEOUT (R359). -/
def execMoverHaltedWaitTimeout (q : Nat) (s : State) : Out := .next (s.haltedTimeout q)

end Sys2Proof.Machine
end

