-- ==== Sys2Proof/Machine/IrqRows.lean ====
section
/-!
DEFINITION. The interrupt controller's register rows (R452 to R457) and the MSI-X masks (R453).
-/
namespace Sys2Proof.Machine

open Sys2Proof

/-- The source that bit `i` of a bank acts on: none for a fast-class source in the normal bank, and for a fast slot that
is not valid or inert (R455). -/
def State.bankSource (s : State) (b : IcBank) (i : Nat) : Option Nat :=
  match b with
  | .normal k => if (s.fastSlot (32 * k.val + i)).isSome then none else some (32 * k.val + i)
  | .fast => s.fastSource i

/-- The sources that a written word names. -/
def State.bankSources (s : State) (b : IcBank) (v : Nat) : List Nat :=
  ((List.range 32).filter (bitAt v)).filterMap (s.bankSource b)

/-- The count and SAT of a source of which only the arrivals of this cycle are left. -/
def State.keepArrivals (s : State) (n : Nat) : State :=
  { s with irq := { s.irq with
      count := Tab.set (fun _ => 0) s.irq.count n (min 255 (s.arrivedNow n))
      sat := Tab.set (fun _ => false) s.irq.sat n (decide (255 < s.arrivedNow n)) } }

/-- Set a source's count to 0 and clear SAT (R454). Arrivals of the same cycle are counted after the write: a source that was
pending before them is pending anew, and sends its message if unmasked (R453). -/
def State.clearSource (s : State) (n : Nat) : State :=
  if 0 < s.arrivedNow n ∧ s.arrivedNow n < s.irqCount n ∧ s.irqOpen n then (s.keepArrivals n).sendSource n else s.keepArrivals n

/-- Mask a source (R453). -/
def State.maskSource (s0 : State) (n : Nat) : State :=
  let s := s0.noteMasked n
  { s with irq := { s.irq with unmasked := Tab.set (fun _ => false) s.irq.unmasked n false } }

/-- Unmask a source; a pending one sends its message (R453). One that a write has masked in this cycle stays masked (R454). -/
def State.unmaskSource (s : State) (n : Nat) : State :=
  if s.irqOpen n ∨ s.maskedNow n then s
  else
    let s1 := { s with irq := { s.irq with unmasked := Tab.set (fun _ => false) s.irq.unmasked n true } }
    if 0 < s.irqCount n then s1.sendSource n else s1

/-- Apply an operation to every source that a write of `v` to a bank's register names. -/
def State.bankWrite (s : State) (m : Master) (f : State → Nat → State) (b : IcBank) (v : Nat) : State :=
  if s.regLands m then (s.bankSources b v).foldl f s else s

/-- IC_PEND_SET (R452): one arrival for each 1. -/
def execIcPendSet (m : Master) (b : IcBank) (v : W32) (s : State) : Out := 
  .next ((s.reachedBy m).bankWrite m State.arrive b v.toNat)
/-- IC_PEND_CLR (R454). -/
def execIcPendClr (m : Master) (b : IcBank) (v : W32) (s : State) : Out := 
  .next ((s.reachedBy m).bankWrite m State.clearSource b v.toNat)
/-- IC_MASK_SET (R454). -/
def execIcMaskSet (m : Master) (b : IcBank) (v : W32) (s : State) : Out := 
  .next ((s.reachedBy m).bankWrite m State.maskSource b v.toNat)
/-- IC_MASK_CLR (R453). -/
def execIcMaskClr (m : Master) (b : IcBank) (v : W32) (s : State) : Out := 
  .next ((s.reachedBy m).bankWrite m State.unmaskSource b v.toNat)

/-- The count of a source from which `k` has been subtracted, stopping at 0; arrivals of the same cycle are counted after the
write (R454). -/
def State.ackedCount (s : State) (n k : Nat) : Nat :=
  let new := min (s.irqCount n) (s.arrivedNow n)
  s.irqCount n - new - k + new

/-- A write to IC_ACK (R454, R457): subtract COUNT; a source still pending and unmasked sends again. -/
def State.icAck (s : State) (m : Master) (v : Nat) : State :=
  if s.owns m ∧ s.regLands m then
    let n := bitsOf v 0 9
    let c := s.ackedCount n (bitsOf v 16 8)
    let s1 := { s with irq := { s.irq with count := Tab.set (fun _ => 0) s.irq.count n c } }
    if 0 < c ∧ s.irqOpen n then s1.sendSource n else s1
  else s

def execIcAck (m : Master) (v : W32) (s : State) : Out := .next ((s.reachedBy m).icAck m v.toNat)

/-- MSIX_MASK_WRITE (R453): messages held in the pending bit array go when the write lets them. -/
def State.msixWrite (s : State) (w : MsixWrite) : State :=
  match w with
  | .enable b => ({ s with pcie := { s.pcie with msixEnable := b } }).flushPba
  | .functionMask b => ({ s with pcie := { s.pcie with functionMask := b } }).flushPba
  | .vectorMask v b =>
    ({ s with pcie := { s.pcie with vecOpen := Tab.set (fun _ => false) s.pcie.vecOpen v.val (!b) } }).flushPba
  | .vectorEntry v a d =>
    { s with pcie := { s.pcie with
        vecAddr := Tab.set (fun _ => 0) s.pcie.vecAddr v.val a, vecData := Tab.set (fun _ => 0) s.pcie.vecData v.val d } }

def execMsixMaskWrite (w : MsixWrite) (s : State) : Out := .next (s.linkUse.msixWrite w)

end Sys2Proof.Machine
end

