-- ==== Sys2Proof/Machine/MemRows.lean ====
section
/-!
DEFINITION. The BAR4 aperture (R383, R427), the patrol scrub (R376), targeted scrubs (R377) and row remaps (R378).
-/
namespace Sys2Proof.Machine

open Sys2Proof

/-! ### The aperture -/

/-- Master `m` has a path to the aperture: the host, and the debug port while it owns the module with SCOPE bit 1 (Table
15.9, Table 15.10, R427). -/
def State.aperturePath (s : State) (m : Master) : Bool :=
  match m with
  | .host => true
  | .bmc => false
  | .debug => s.tb.debugUnlocked && bitAt s.tb.debugScope 1 && s.owns .debug

/-- The device address of BAR4 offset `off` when the aperture serves `n` bytes there: enabled, the master owner, within the
BAR. A BASE that is no multiple of the BAR's size is rounded down. -/
def State.apertureAt (s : State) (m : Master) (off n : Nat) : Option Nat :=
  let size := 2 ^ (30 + s.pcie.bar4Log2)
  let base := s.fld 0x1000030 30 9 * 2 ^ 30
  if s.fld 0x1000030 63 1 = 1 ∧ s.aperturePath m ∧ s.owns m ∧ off + n ≤ size then some (base / size * size + off) else none

/-- APERTURE_READ (R383): the data, poisoned data, or zero. MS_POISON_READS counts the reads of commands only (R374). -/
def State.apertureRead (s : State) (m : Master) (off n : Nat) : State :=
  if ¬ s.aperturePath m then s
  else match s.apertureAt m off n with
  | none => (s.emit (.aperture m (List.replicate n 0) false)).reachedBy m
  | some a =>
    let s1 := (cwsOf a n).foldl (fun (u : State) cw => if s.poisoned cw && !s.zoneClash cw then u.noteMerge cw else u.noteCw cw) s
    if (s.rdFail a n).isSome then ((s1.emit (.aperture m (s1.freeBytes n) true)).freeStep).reachedBy m
    else (s1.emit (.aperture m (s.rd a n) false)).reachedBy m

def execApertureRead (m : Master) (off : W64) (len : Fin 4097) (s : State) : Out := .next (s.apertureRead m off.toNat len.val)

/-- The bytes at `a` that lie outside the Hamper region, the one in force and a pending one (R362, R381), are written, 4 KiB block
by block. -/
def State.apertureBytes (s : State) (a : Nat) (l : List Byte) : State :=
  (blocksOf a l.length).foldl (fun (u : State) b =>
    let lo := max a b
    let part := (l.drop (lo - a)).take (b + 4096 - lo)
    match placeOf s.ms.interleave b with
    | .stack _ o => if s.inHamper o then u else u.wr lo part
    | _ => u) s

/-- APERTURE_WRITE (R383): merged into device memory, or discarded. -/
def State.apertureWrite (s : State) (m : Master) (off : Nat) (l : List Byte) : State :=
  if ¬ s.aperturePath m then s
  else match s.apertureAt m off l.length with
  | none => s.reachedBy m
  | some a => (s.apertureBytes a l).reachedBy m

def execApertureWrite (m : Master) (off : W64) (data : List Byte) (s : State) : Out := .next (s.apertureWrite m off.toNat data)

/-! ### Scrubbing -/

/-- Codewords of what patrol unit `k` sweeps: stacks 0 to 7, then working stores 0 to 3 and the hub store. -/
def patrolLength (k : Nat) : Nat := if k < 8 then 2 ^ 31 else if k < 12 then 0xC00_0000 / 32 else 0x800_0000 / 32

/-- The codeword at position `p` of a sweep. -/
def State.patrolCw (s : State) (k p : Nat) : Nat :=
  if k < 8 then stackAddr s.ms.interleave k (32 * p) / 32
  else if k < 12 then (0x80_0000_0000 + 0x1000_0000 * (k - 8)) / 32 + p
  else 0x80_4000_0000 / 32 + p

/-- The scrub of one codeword (R371, R373, R376): a corrected one is written back; an uncorrectable one is written back
with POISON, and a command that wrote it and can still be replayed is tainted (R290). ZONE is not tested and stays. -/
def State.scrubCw (s : State) (cw : Nat) : State :=
  match decodePattern (s.upset cw) with
  | .good => s
  | .corrected _ _ => ((s.noteMerge cw).settle cw).setMeta cw (s.poisoned cw) (s.zoneTag cw)
  | .bad =>
    let s1 := s.spoilCw cw
    match (List.range 32).findSome? fun i => s1.lostWriter (32 * cw + i) with
    | some w => s1.taint w
    | none => s1

/-- Is the memory that patrol unit `k` sweeps in service? -/
def State.patrolReady (s : State) (k : Nat) : Bool := s.readyKey (if k < 8 then 30 + k else 38 + (k - 8))

/-- PATROL_SCRUB (R376): the next codeword of a sweep. What has struck memory arrives first. -/
def State.patrol (s : State) (k : Nat) : State :=
  if (s.ld.pwr = .a0 ∨ s.ld.pwr = .a1) ∧ s.patrolReady k ∧ s.fld 0x1000020 0 8 ≠ 0 then
    let p := if k < 8 then Tab.get (fun _ => 0) s.ms.scrubPos k else Tab.get (fun _ => 0) s.ms.storeScrubPos (k - 8)
    let s1 := s.scrubCw (s.patrolCw k p)
    let p1 := (p + 1) % patrolLength k
    if k < 8 then
      let s2 : State := { s1 with ms := { s1.ms with scrubPos := Tab.set (fun _ => 0) s1.ms.scrubPos k p1 } }
      if p1 = 0 then { s2 with ms := { s2.ms with scrubTime := Tab.set (fun _ => 0) s2.ms.scrubTime k s.now } } else s2
    else { s1 with ms := { s1.ms with storeScrubPos := Tab.set (fun _ => 0) s1.ms.storeScrubPos (k - 8) p1 } }
  else s

def execPatrolScrub (k : Fin 13) (e : Env) (s : State) : Out := .next ((s.applyEnv e).patrol k.val)

/-- TARGETED_SCRUB_END (R377): every row in which the scrub corrected a symbol is remapped. -/
def State.targetedEnd (s : State) (st pch : Nat) : State :=
  if ¬ s.ms.targeted.contains { stack := st, pch := pch } then s
  else
    let hit := (s.ms.upset.map Prod.fst).filter fun cw => match s.rowOfCw cw with
      | some (a, b, _) => a == st && b == pch
      | none => false
    let s1 := hit.foldl (fun (u : State) cw =>
      let u1 := u.scrubCw cw
      match decodePattern (u.upset cw), u.rowOfCw cw with
      | .corrected i v, some (_, _, row) => u1.startRemap st pch row 7 (symbolSyn i v cw)
      | _, _ => u1) s
    { s1 with ms := { s1.ms with targeted := s1.ms.targeted.filter fun (t : TargetScrub) => !(t.stack == st && t.pch == pch) } }

def execTargetedScrubEnd (st : Fin 8) (pch : Fin 64) (s : State) : Out := .next (s.targetedEnd st.val pch.val)

/-- ROW_REMAP_END (R378): the row's codewords lie in the spare row, corrected, the uncorrectable ones poisoned. -/
def State.remapEnd (s : State) (st pch row : Nat) : State :=
  match s.ms.remapping.find? fun r => r.stack == st && r.pch == pch && r.row == row with
  | none => s
  | some r =>
    let mine := (s.ms.upset.map Prod.fst).filter fun cw => s.rowOfCw cw == some (st, pch, row)
    let s1 := mine.foldl (fun (u : State) cw =>
      (u.settle cw).setMeta cw (u.poisoned cw || decodePattern (u.upset cw) == .bad) (u.zoneTag cw)) s
    let s2 : State := { s1 with ms := { s1.ms with
      remapping := s1.ms.remapping.filter fun (x : RowRemap) => x != r
      remap := Tab.upd (fun _ => []) s1.ms.remap (64 * st + pch) (· ++ [row]) } }
    let n := s.errorCounts (pchUnit st pch)
    (s2.bump 0x1000358).cper {
      unit := 3, coord := (pchUnit st pch).coord, mechanism := r.mech, action := 3, short := n.1, long := n.2, syndrome := r.syn }

def execRowRemapEnd (st : Fin 8) (pch : Fin 64) (row : Fin 1048576) (s : State) : Out :=
  .next (s.remapEnd st.val pch.val row.val)

end Sys2Proof.Machine
end

