-- ==== Sys2Proof/Machine/Lantern.lean ====
section
/-!
DEFINITION. Lantern: device time (R433, R434), Dawn (R431), the governor with its telemetry (R24, R25, R441 to R444,
R499), and PWRBRK#.
-/
namespace Sys2Proof.Machine

open Sys2Proof

/-! ### Device time -/

/-- One Lantern cycle passes: a nominal 40 ns at the rate in force (R433, R434). -/
def State.advance (s : State) : State :=
  let f : Nat := s.ld.ptmFrac + 40 * (1000000 + s.ld.ptmPpm).toNat
  { s with ld := { s.ld with time := (s.ld.time + f / 1000000) % 2 ^ 64, ptmFrac := f % 1000000 } }

/-- The low 32 bits of an offset that saturates at their limits. -/
def saturate32 (x : Int) : Nat := unsignedOf (clampInt x (-(2 ^ 31)) (2 ^ 31 - 1)) 32

/-- The time source has an arrival for each step and each clearing of ALIGNED (R434). -/
def State.dropAligned (s : State) : State :=
  if s.ld.ptmAligned then ({ s with ld := { s.ld with ptmAligned := false } }).arrive 212 else s

/-- PTM_DIALOGUE (R434): from the host's PTM time. The size of a trim within ±200 ppm is an open value. -/
def State.ptmDialogue (s : State) (host : Nat) : State :=
  if ¬ s.ld.ptmEnabled ∨ ¬ s.ld.aux ∨ s.now < s.ld.ptmLast + s.ptmIntervalMs * 1000000 then s
  else
    let o : Int := (host : Int) - (s.now : Int)
    let s1 : State := { s with ld := { s.ld with ptmOffset := saturate32 o, ptmLast := s.now } }
    if 1000000 < o then
      ({ s1 with ld := { s1.ld with time := host % 2 ^ 64, ptmLast := host % 2 ^ 64, ptmBehind := false } }).arrive 212
    else if o < -1000000 then
      { s1 with ld := { s1.ld with ptmPpm := -200, ptmBehind := true } }
    else if o.natAbs < 100 then
      { s1 with ld := { s1.ld with ptmPpm := 0, ptmAligned := true, ptmBehind := false } }
    else
      let k : Int := (s1.freeNat 1 % 201 : Nat)
      ({ s1 with ld := { s1.ld with ptmPpm := if o < 0 then -k else k, ptmBehind := false } }).freeStep

def execPtmDialogue (host : W64) (s : State) : Out := .next (s.ptmDialogue host.toNat)

/-- PTM_TIMEOUT (R434): no dialogue has succeeded for 1 s. -/
def execPtmTimeout (s : State) : Out := .next (if s.ld.ptmLast + 1000000000 < s.now then s.dropAligned else s)

/-! ### Dawn (R431) -/

/-- The compute die of a domain. -/
def domDie (k : Nat) : Nat := if k < 100 then k - 1 else if k < 300 then (k - 100) / 32 else (k - 300) / 32

/-- The domains whose PLLs are starting: on each compute die the first START_MAX requests. -/
def State.starting (s : State) : List Nat :=
  (List.range 4).flatMap fun d => (((s.ld.dawnQueue.map Prod.snd).filter fun k => domDie k == d).take s.startMax)

/-- DAWN_PLL_LOCK (R431): the PLL has locked, and its domain is ungated. -/
def State.dawnLock (s : State) (k : Nat) : State :=
  if (s.ld.pwr = .a0 ∨ s.ld.pwr = .a1) ∧ k ∈ s.starting then
    ({ s with ld := { s.ld with dawnQueue := s.ld.dawnQueue.filter fun (p : Nat × Nat) => p.2 != k } }).setDom k
      { running := true, idleSince := s.now }
  else s

def execDawnPllLock (d : Domain) (s : State) : Out := .next (s.dawnLock (domKey d))

/-! ### The governor -/

/-- Divisor of a reading. -/
def unitsDen (r : Reading) : Nat := max 1 r.den
/-- The reading is at least `c` units, or over them. -/
def atLeast (r : Reading) (c : Int) : Bool := decide (c * unitsDen r ≤ r.num)
def isAbove (r : Reading) (c : Int) : Bool := decide (c * unitsDen r < r.num)

/-- A telemetry word (R499): nearest unit, ties to even, saturating at the limits of the 32-bit range. -/
def telemetry (signed : Bool) (scale : Nat) (r : Reading) : Nat :=
  let v := rneDiv (r.num * scale) (unitsDen r)
  if signed then saturate32 v else (clampInt v 0 (2 ^ 32 - 1)).toNat

/-- Input power limit in force, in W (R24, R444). -/
def State.limitW (s : State) : Nat := if s.ld.limited then 450 else s.ld.inputLimit
/-- Package budget of R24, and the budget in force (R443). -/
def State.budget24 (s : State) : Nat := s.limitW * 91 / 100
def State.budgetW (s : State) : Nat := min s.budget24 s.ld.thermalW

/-- ALERT# follows its conditions (R444); each change is an arrival at the power source. -/
def State.alertNow (s : State) : State :=
  let on : Bool := s.ld.warm || decide (s.ld.thermalW < s.budget24)
  if on = s.ld.alert then s else ({ s with ld := { s.ld with alert := on } }).arrive 197

/-- Floors of Table 1.9, in 1/8 W: Matrix Cores, Array Field, Memory System, Vector and Numerics. -/
def floors : List Nat := [480, 320, 480, 120]

/-- R25: what each governed subsystem receives beside its floor, `rem` being what is left over the floors. -/
def shareAbove (rem total above : Nat) : Nat := if total ≤ rem then above else rem * above / total

/-- The division of R25, in 1/8 W, among demands `d`. While maintenance is pending its 24 W stay with the Array Field
(R18). -/
def divide (budget hub : Nat) (pending : Bool) (d : List Nat) : List Nat :=
  let want := d.mapIdx fun i x => if i = 1 ∧ pending then max 192 x else x
  let base := (want.zip floors).map fun p => min p.1 p.2
  let above := (want.zip base).map fun p => p.1 - p.2
  let rem := 8 * budget - 400 - min 1120 hub - base.sum
  (base.zip above).map fun p => p.1 + shareAbove rem above.sum p.2

/-- Demand: the larger of the measured draw and that of the queued work (R441). -/
def demandOf (l : Load) : Nat := max l.draw l.queued

/-- Steps lowered (R442): one more after a second sample in a row over the grant, one less when below it. -/
def stepsNext (steps : Nat) (was above below : Bool) (most : Nat) : Nat :=
  if above && was then min most (steps + 1) else if below then steps - 1 else steps

/-- Array reads that a grant in 1/8 W allows: 270 W carry the 2,048 of the default cap, and 24 W stay with the Upkeep
Controller while an activity is pending (spec/01, after Table 1.10). None where the whole demand is granted (DESIGN CHOICE,
assumption 125). -/
def readsGranted (grant demand : Nat) (upkeep : Bool) : Option Nat :=
  if grant < demand then some ((if upkeep then grant - 192 else grant) * 2048 / 2160) else none

/-- The issue ceiling nearest to the share of the full rate that the grant is of the demand (R27, R173; DESIGN CHOICE,
assumption 125). -/
def ceilingGranted (grant demand : Nat) : Nat :=
  if grant < demand then max 1 ((16 * grant + demand) / (2 * demand)) else 8

/-- GOVERNOR_SAMPLE: telemetry (R499), the thermal budget (R443), ALERT# (R444), throttling (R442) and the grants (R25). -/
def State.governor (s : State) (g : GovSample) : State :=
  let tjs := [g.tj0, g.tj1, g.tj2, g.tj3, g.tjHub]
  let hot := tjs.any fun r => atLeast r s.throttleC
  let cool := tjs.all fun r => !isAbove r ((s.throttleC : Int) - 3)
  let th := if hot then max 365 (s.ld.thermalW - 10) else if cool then min 910 (s.ld.thermalW + 5) else s.ld.thermalW
  let lim := if s.ld.pwrbrk then 450 else s.ld.inputLimit
  let gr := divide (min (lim * 91 / 100) th) g.hub (!s.uk.acts.isEmpty) ([g.mc, g.af, g.ms, g.vn].map demandOf)
  let oMC := decide (s.ld.grantMC < g.mc.draw)
  let oAF := decide (s.ld.grantAF < g.af.draw)
  let oMS := decide (s.ld.grantMS < g.ms.draw)
  let oVN := decide (s.ld.grantVN < g.vn.draw)
  let s1 : State := { s with ld := { s.ld with
    lastSample := s.now, limited := s.ld.pwrbrk, thermalW := th
    warm := hot || isAbove g.coolIn s.coolWarnC || !atLeast g.vin 40 || isAbove g.vin 60
    sensTj := (tjs.mapIdx fun i r => (i, telemetry true 16 r)).foldl (fun (t : Tab Nat) p => Tab.set (fun _ => 0) t p.1 p.2) []
    coolIn := telemetry true 16 g.coolIn, coolOut := telemetry true 16 g.coolOut
    vin := telemetry false 1000 g.vin, pin := telemetry false 1000 g.pin, ppkg := telemetry false 1000 g.ppkg
    vaux := telemetry false 1000 g.vaux
    stepsMC := stepsNext s.ld.stepsMC s.ld.overMC oMC (decide (g.mc.draw < s.ld.grantMC)) 7
    stepsAF := stepsNext s.ld.stepsAF s.ld.overAF oAF (decide (g.af.draw < s.ld.grantAF)) 15
    stepsMS := stepsNext s.ld.stepsMS s.ld.overMS oMS (decide (g.ms.draw < s.ld.grantMS)) 7
    stepsVN := stepsNext s.ld.stepsVN s.ld.overVN oVN (decide (g.vn.draw < s.ld.grantVN)) 7
    overMC := oMC, overAF := oAF, overMS := oMS, overVN := oVN
    limitAF := readsGranted (gr.getD 1 0) (demandOf g.af) (!s.uk.acts.isEmpty)
    ceilingMC := ceilingGranted (gr.getD 0 0) (demandOf g.mc)
    grantMC := gr.getD 0 0, grantAF := gr.getD 1 0, grantMS := gr.getD 2 0, grantVN := gr.getD 3 0 } }
  let old := [s.ld.grantMC, s.ld.grantAF, s.ld.grantMS, s.ld.grantVN]
  let s2 := ((gr.zip old).mapIdx fun i p => (i, p)).foldl (fun (u : State) p =>
    if p.2.1 = p.2.2 then u else u.logRec 4 0xF0000000 0x40 none none (p.1 + 256 * p.2.1)) s1
  ((s2.logRec 4 0xF0000000 0x60 none none (s2.freeNat 8)).freeStep).alertNow

def execGovernorSample (g : GovSample) (s : State) : Out :=
  .next (if s.ld.aux ∧ s.ld.lastSample + 10000 ≤ s.now then s.governor g else s)

/-- PWRBRK_ASSERT (R444): an arrival at the power source; the 450 W limit applies from the next sample. -/
def execPwrbrkAssert (s : State) : Out :=
  .next (if s.ld.pwrbrk then s else (({ s with ld := { s.ld with pwrbrk := true } }).arrive 197).alertNow)

/-- PWRBRK_RELEASE (R24, R444): the PLIM limit returns. -/
def execPwrbrkRelease (s : State) : Out :=
  .next (if s.ld.pwrbrk then (({ s with ld := { s.ld with pwrbrk := false, limited := false } }).arrive 197).alertNow else s)

end Sys2Proof.Machine
end

