-- ==== Sys2Proof/Machine/Links.lean ====
section
/-!
DEFINITION. Farpinen ports (R271 to R278, R463), forwarding (R276), arbiters (R467 to R469) and die-to-die
connections (R11, R13, R370, R460).
-/
namespace Sys2Proof.Machine

open Sys2Proof

/-! ### Port state -/

/-- A change of a port's state is one arrival at its source (Table 16.6). -/
def State.portChanged (s old : State) (p : Nat) : State := if (s.port p).state = (old.port p).state then s else s.arrive (200 + p)

/-- Training starts (R273). -/
def State.retrain (s : State) (p : Nat) : State := (s.trainPort p).portChanged s p

/-- The port is down, which sets its failed bit (Table 16.4), or disabled. Its ready bit stays: only the start of a training
clears it (R273, R449). -/
def State.portEnd (s : State) (p : Nat) (st : PortState) : State :=
  let s1 := (s.setPort p { s.port p with state := st, lanes := 0 }).portChanged s p
  if st = .down ∧ ¬ s1.failedKey (18 + p) then s1.setFailed (18 + p) else s1

/-- The port trains again without a lane, on the widest group left; with none of two good lanes it is down (R277). -/
def State.takeLane (s : State) (p lane : Nat) : State :=
  let x := s.port p
  let out := x.out_ ||| 2 ^ lane
  let s1 := s.setPort p { x with out_ := out }
  match laneGroup (255 - out % 256) with
  | none => s1.portEnd p .down
  | some _ => s1.retrain p

/-- A write to XE_PORT_CTRL_p by a master that may make it. -/
def State.portCtrlWrite (s : State) (m : Master) (p v : Nat) : State :=
  if ¬ s.owns m ∨ ¬ s.regLands m then s
  else
    let s1 := s.setReg (rPortCtrl p) (bitsOf v 31 1 * 2 ^ 31)
    if ¬ bitAt v 31 then s1.portEnd p .disabled
    else if bitAt v 30 then ((s1.setPort p { s1.port p with fails := 0, out_ := 0 }).clearFailed (18 + p)).retrain p
    else s1

/-- PORT_RETRAIN (R273): a write of 1 to RETRAIN. -/
def execPortRetrain (m : Master) (p : Fin 12) (v : W32) (s : State) : Out :=
  .next (let s := s.reachedBy m
    if bitAt v.toNat 30 then s.portCtrlWrite m p.val v.toNat else s)

/-! ### Training (Table 9.8, R274) -/

/-- Time from the start at which a step must end, in ns. -/
def stepLimit (k : Nat) : Nat :=
  match k with
  | 1 => 2000000
  | 2 => 2000000
  | 3 => 12000000
  | 4 => 14000000
  | 5 => 16000000
  | _ => 17000000

/-- TRAINING_STEP_TIMEOUT (R273): step `k` has not ended by its time. The third failure in a row takes the port down. -/
def State.trainingFails (s : State) (p k : Nat) : State :=
  let x := s.port p
  if x.state ≠ .training ∨ s.now ≤ x.startedAt + stepLimit k then s
  else
    let n := min 3 (x.fails + 1)
    let s1 := s.setPort p { x with fails := n, step := k }
    if 3 ≤ n then s1.portEnd p .down else s1.retrain p

def execTrainingStepTimeout (p : Fin 12) (step : Fin 7) (s : State) : Out := .next (s.trainingFails p.val step.val)

/-- The configuration digest (R274) of the settings that the port took; XE_GROUP enters without its RANK. -/
def configDigest (settings : List Nat) : Nat :=
  let r (i : Nat) : Nat := settings.getD i 0
  leNat ((sha512 (natLe 8 (r 0 / 1024 * 1024) ++ natLe 4 (r 1) ++ natLe 8 (r 3) ++ natLe 4 (r 4) ++ natLe 8 (r 5))).take 8)

/-- Credits left when the flits kept in the retry buffer have taken theirs. -/
def creditsFor (retry : List FlitTx) : List Nat :=
  (List.range 5).map fun k => initialCredits.getD k 0 - (retry.filter fun f => f.vc == k).length

/-- Flits of the retry buffer are sent again, which is counted (R277). -/
def State.resendFlits (s : State) (p : Nat) (l : List FlitTx) : State :=
  ((l.foldl (fun (u : State) f => u.sendFlit p 0 f) s).bump (0x2001010 + 0x40 * p) l.length).evtU 0x44 l.length

/-- TRAINING_COMPLETE (R273, R274): the peer's group id, rank, port, whether its protocol version is this module's, its
digest, and the good lanes. -/
def State.trainingEnds (s : State) (p group rank port : Nat) (version : Bool) (digest good : Nat) : State :=
  let x := s.port p
  if x.state ≠ .training ∨ x.startedAt + 17000000 < s.now then s
  else
    match laneGroup (good &&& (255 - x.out_ % 256)) with
    | none => s
    | some g =>
      let same : Bool := group == bitsOf (x.settings.getD 0 0) 48 16 && version && digest == configDigest x.settings &&
        rank == s.neighbour (dirOf x.settings p)
      let y := { x with fails := 0, step := 6, peerRank := rank, peerPort := port }
      if ¬ same then (s.setPort p { y with state := .incompatible }).portChanged s p
      else
        let kept := x.retry.map fun f => { f with resends := f.resends + 1 }
        let s1 := (s.setPort p { y with state := .up, lanes := g, credits := creditsFor kept, retry := kept }).setReady (18 + p)
        ((s1.resendFlits p kept).portChanged s p).pump p

def execTrainingComplete (p : Fin 12) (group rank port : Nat) (version : Bool) (digest : W64) (good : Fin 256) (s : State) : Out :=
  .next (s.trainingEnds p.val group rank port version digest.toNat good.val)

/-! ### Flits (R271, R272, R277) -/

/-- The lane that carries byte j of a flit on a port with the lanes `g` (R272). -/
def laneOfByte (g j : Nat) : Nat :=
  let l := (List.range 8).filter fun i => bitAt g i
  l.getD (j % max 1 l.length) 0

/-- The 17 codewords of a received flit, by R368. -/
def flitStates (l : List Byte) : List CwState := (List.range 17).map fun k => decodeCw (((l.drop (36 * k)).take 36).map BitVec.toNat)

/-- The flit's bytes, corrected. -/
def correctFlit (l : List Byte) : List Byte :=
  ((List.range 17).zip (flitStates l)).foldl (fun (l : List Byte) p =>
    match p.2 with
    | .corrected i v => l.modify (36 * p.1 + i) (· ^^^ BitVec.ofNat 8 v)
    | _ => l) l

/-- Places of the corrected symbols of a flit. -/
def fixedBytes (l : List Byte) : List Nat :=
  ((List.range 17).zip (flitStates l)).filterMap fun p =>
    match p.2 with
    | .corrected i _ => some (36 * p.1 + i)
    | _ => none

/-- Flits up to the acknowledged one leave the retry buffer. -/
def ackRetry (ack : Nat) (l : List FlitTx) : List FlitTx :=
  match l.findIdx? fun f => f.seq == ack with
  | some i => l.drop (i + 1)
  | none => l

/-- A retry is attributed to lane (R300): 8 within a second make it suspect, and the port trains without it (R278). -/
def State.laneError (s : State) (p lane : Nat) : State :=
  let u := portLane p lane
  let n := s.noteError u
  if ¬ n.2.suspect then n.1
  else
    ((((n.1.bump 0x2800418).cper {
      unit := 4, coord := u.coord, mechanism := 9, action := n.1.freeNat 1, short := n.2.short, long := n.2.long
      sev := some 3 }).freeStep).takeLane p lane)

/-- NAK_RECEIVE (R277): flits up to ACK have arrived; those behind it are sent again, at most 8 times. `lanes` are the
lanes to which the receiver attributed errors in the rejected attempt. -/
def State.nakArrives (s : State) (p ack : Nat) (lanes : List Nat) : State :=
  let x := s.port p
  if x.state ≠ .up then s
  else
    let rest := ackRetry ack x.retry
    let errs := (List.range 8).map fun i => x.laneErrors.getD i 0 + (lanes.filter (· == i)).length
    if rest.any fun f => 8 ≤ f.resends then s.setPort p { x with retry := rest, laneErrors := errs }
    else
      let again := rest.map fun f => { f with resends := f.resends + 1 }
      let s1 := s.setPort p { x with retry := again, laneErrors := if again.isEmpty then List.replicate 8 0 else errs }
      (s1.resendFlits p again).pump p

def execNakReceive (p : Fin 12) (ack : Fin 65536) (lanes : List (Fin 8)) (s : State) : Out :=
  .next (s.nakArrives p.val ack.val (lanes.map Fin.val))

/-- FLIT_RESEND_LIMIT (R277): one flit has been resent 8 times; the lane with most errors in those attempts, the lower
number on a tie, is taken out. -/
def State.resendLimit (s : State) (p : Nat) : State :=
  let x := s.port p
  if x.state = .up ∧ x.retry.any (fun f => 8 ≤ f.resends) then
    let used := (List.range 8).filter fun i => bitAt x.lanes i
    let worst := used.foldl (fun b i => if x.laneErrors.getD b 0 < x.laneErrors.getD i 0 then i else b) (used.headD 0)
    let s1 := s.setPort p { x with retry := x.retry.map fun f => { f with resends := 0 } }
    s1.takeLane p worst
  else s

def execFlitResendLimit (p : Fin 12) (s : State) : Out := .next (s.resendLimit p.val)

/-- Credits that come back (Table 9.6). Those of exchange data go to class 0 first. -/
def addCredits (c ret : List Nat) : List Nat :=
  let r (i : Nat) : Nat := ret.getD i 0
  let g (i : Nat) : Nat := c.getD i 0
  let back := min (r 2) (64 - g 2)
  [min 32 (g 0 + r 0), min 32 (g 1 + r 1), g 2 + back, min 16 (g 3 + r 3), min 64 (g 4 + (r 2 - back))]

/-- A buffer of virtual channel `vc` is free again: its credit is owed (R460). -/
def oweCredit (l : List Nat) (vc : Nat) : List Nat := (List.range 4).map fun i => l.getD i 0 + if i = vc then 1 else 0

/-- The lanes that carried symbols in error (R272): of each corrected symbol, and, for each uncorrectable codeword, whose symbols
the code does not place, one lane of the port (an open value). -/
def State.errorLanes (s : State) (g : Nat) (raw : List Byte) : List Nat :=
  let bad := ((flitStates raw).filter (· == CwState.bad)).length
  (fixedBytes raw).map (laneOfByte g) ++ (List.range bad).map fun k => laneOfByte g (Config.freeByte s.free k).toNat

/-- A flit that takes a buffer of virtual channel `vc`: it is free at once, but for exchange data while copies of a seventeenth
part wait in the channel (R254, R460; log entry 147). -/
def State.takeBuffer (s : State) (x : Port) (vc : Nat) : Port :=
  if vc = 2 ∧ ¬ s.xe.waiting.isEmpty then { x with held := x.held + 1 } else { x with owed := oweCredit x.owed vc }

/-- The 612 bytes of a flit are taken from the receive buffers of a port (R271, R272, R277). A NULL or NAK flit is not numbered
and takes no buffer (log entry 57). -/
def State.takeFlit (s : State) (p : Nat) (raw : List Byte) : State :=
  let x0 := s.port p
  if x0.state ≠ .up then s
  else
    let fixed := fixedBytes raw
    let blamed := s.errorLanes x0.lanes raw
    let x := { x0 with rxErrors := (List.range 8).map fun i => x0.rxErrors.getD i 0 + (blamed.filter (· == i)).length }
    let s0 := if blamed.isEmpty then s else (s.setPort p x).freeStep
    let s1 := if fixed.isEmpty then s0 else (s0.bump (0x2001018 + 0x40 * p) fixed.length).evtU 0x36 fixed.length
    let l := correctFlit raw
    let u (i n : Nat) : Nat := leNat ((l.drop i).take n)
    let flags := u 5 1
    let numbered : Bool := flags % 4 == 0
    let good : Bool := !(flitStates raw).contains .bad && u 28 4 == crc32 (crcInput l) && (!numbered || u 0 2 == x.nextRx)
    if ¬ good then
      (blamed.eraseDups).foldl (fun (v : State) lane => v.laneError p lane) (s1.sendFlit p 1 (bareFlit []))
    else
      let kept := ackRetry (u 2 2) x.retry
      let y := if numbered then s.takeBuffer { x with nextRx := (x.nextRx + 1) % 65536 } (u 4 1 % 4) else x
      let s2 := s1.setPort p { y with
        credits := addCredits x.credits ((List.range 4).map fun i => u (6 + 2 * i) 2)
        retry := kept
        laneErrors := if kept.length < x.retry.length then List.replicate 8 0 else x.laneErrors }
      if bitAt flags 1 then s2.nakArrives p (u 2 2) [] else s2.pump p

/-- FLIT_RECEIVE: a flit arrives on a port. In A2 it wakes the module, and it stays in the receive buffers until the hub core
runs (R438). -/
def State.flitArrives (s : State) (p : Nat) (raw : List Byte) : State :=
  let x := s.port p
  if x.state ≠ .up ∨ raw.length ≠ 612 then s
  else
    let s1 := s.wakeA2 2
    if s1.ld.pwr = .a2 then s1.setPort p { x with inbox := x.inbox ++ [raw] } else s1.takeFlit p raw

/-- The hub core runs again: the flits that waited are taken, and each port sends (R438). -/
def State.drainPorts (s : State) : State :=
  (List.range 12).foldl (fun (u : State) p =>
    ((u.port p).inbox.foldl (fun (v : State) raw => v.takeFlit p raw) (u.setPort p { u.port p with inbox := [] })).pump p) s

def execFlitReceive (p : Fin 12) (bytes : List Byte) (s : State) : Out := .next (s.flitArrives p.val bytes)

/-- VC_AGING (R463): a flit that has waited 4,096 flit times, each 612 bytes at 212.5 Gb/s a lane, goes ahead of control
flits. -/
def State.vcAging (s : State) (p : Nat) : State :=
  let x := s.port p
  let w := ((List.range 8).filter fun i => bitAt x.lanes i).length
  (s.setPort p { x with queue := x.queue.map fun f =>
    if f.vc ≠ 3 ∧ 4096 * 2304 ≤ (s.now - f.queuedAt) * w * 100 then { f with aged := true } else f }).pump p

def execVcAging (p : Fin 12) (s : State) : Out := .next (s.vcAging p.val)

/-- MESSAGE_FORWARD (R276): the data units of a message (channel 4 for exchange data in dateline class 1), received on
port `p0`, for another rank. Each is 32 bytes and its metadata byte, which goes on unchanged (R370). -/
def execMessageForward (p0 : Fin 12) (route : MsgRoute) (bytes : List Byte) (s : State) : Out :=
  .next (match s.route route.dest with
    | none => s
    | some (p, crosses) => s.queueMsg p (1 + p0.val) (classAfter route.vc.val crosses) bytes)

/-! ### Arbiters (R467 to R469)

Their four levels are numbered: the cluster arbiters 0 to 127, the die networks 128 to 131, the bridges 132 to 135, the hub
136 with the inputs of the Mover Engine 137, the port receive paths 138 and the Host Gate 139 (DESIGN CHOICE: log entry 127). -/

/-- The arbiter and input at which a source's requests wait first. -/
def firstArbiter : Source → Nat × Nat
  | .cluster d c => (32 * d.val + c.val, 0)
  | .bank d b => (32 * d.val + b.val, 1)
  | .engine d e => (128 + d.val, 32 + e.val)
  | .scrub k => (128 + k.val / 2, 48 + k.val % 2)
  | .channel c => (137, c.val)
  | .port p => (138, p.val)
  | .processor r => (139, r.val)

/-- The next arbiter toward the hub, and its input. -/
def upstream (a : Nat) : Option (Nat × Nat) :=
  if a < 128 then some (128 + a / 32, a % 32)
  else if a < 132 then some (a + 4, 0)
  else if a < 136 then some (136, a - 132)
  else if a = 136 then none
  else some (136, a - 133)

/-- Weight of a source: that of a Mover channel is its WEIGHT (R343); the others' is 1. -/
def State.sourceWeight (s : State) (x : Source) : Nat :=
  match x with
  | .channel c => max 1 (s.fld (rChCtrl c.val) 0 4)
  | _ => 1

/-- Active inputs of an arbiter in ascending order, each with the count that its latest request carries. -/
def State.activeInputs (s : State) (a : Nat) : List (Nat × Nat) :=
  let l := s.fab.arb.filter fun r => r.arbiter == a
  ((List.range 64).filter fun i => l.any fun r => r.input == i).map fun i =>
    (i, ((l.filter fun r => r.input == i).getLast?.map fun r => r.count).getD 1)

/-- The count that an arbiter passes upstream: the sum of its active inputs' counts, 1 to 4,095. -/
def State.countBehind (s : State) (a : Nat) : Nat := clampNat (((s.activeInputs a).map Prod.snd).sum) 1 4095

/-- An arbiter grants a request, which waits at the next arbiter toward its target. -/
def State.grantReq (s : State) (r : ArbReq) : State :=
  let n := s.countBehind r.arbiter
  let next := if r.arbiter = r.last then [] else
    (upstream r.arbiter).toList.map fun u => { r with arbiter := u.1, input := u.2, count := n, waited := 0 }
  ({ s with fab := { s.fab with arb := s.fab.arb.erase r ++ next } }).emit (.grant r.arbiter r.input)

/-- The oldest request of an arbiter among those `f` names; of equals the one of the lowest input. -/
def State.oldestReq (s : State) (f : ArbReq → Bool) : Option ArbReq :=
  (s.fab.arb.filter f).foldl (fun (b : Option ArbReq) r =>
    match b with
    | none => some r
    | some x => if x.waited < r.waited ∨ (x.waited = r.waited ∧ r.input < x.input) then some r else b) none

/-- The request that has waited 4,096 cycles and goes ahead of the weighted order (R469). -/
def State.agedReq (s : State) (a : Nat) : Option ArbReq := s.oldestReq fun r => r.arbiter == a && decide (4096 ≤ r.waited)

/-- Serve the aged requests of an arbiter. -/
def State.serveAged (s : State) (a : Nat) : Nat → State
  | 0 => s
  | n + 1 =>
    match s.agedReq a with
    | none => s
    | some r => State.serveAged (s.grantReq r) a n

/-- One grant of an arbiter: an aged request, else the next of the weighted round (R467, R469). -/
def State.grantOne (s : State) (a : Nat) : State :=
  match s.agedReq a with
  | some r => s.grantReq r
  | none =>
    match (Tab.get (fun _ => (⟨[], 0⟩ : Round)) s.fab.turns a).next (s.activeInputs a) with
    | none => s
    | some (i, t) =>
      match s.oldestReq fun r => r.arbiter == a && r.input == i with
      | none => s
      | some r => { s with fab := { s.fab with turns := Tab.set (fun _ => ⟨[], 0⟩) s.fab.turns a t } }.grantReq r

/-- A cycle of an arbiter's clock: a grant, and the requests that are left have waited longer. -/
def State.arbCycle (s : State) (a : Nat) : State :=
  let s1 := s.grantOne a
  { s1 with fab := { s1.fab with arb := s1.fab.arb.map fun (r : ArbReq) => if r.arbiter = a then { r with waited := r.waited + 1 } else r } }

def State.arbCycles (s : State) (a : Nat) : Nat → State
  | 0 => s
  | n + 1 => State.arbCycles (s.arbCycle a) a n

/-- ARBITER_AGING (R467, R469): requests arrive at their first arbiters; arbiter `arbiter` serves those that have aged there,
and then makes its grants in its order, for as long as requests wait. -/
def execArbiterAging (arbiter : Nat) (x : ArbiterEvent) (s : State) : Out :=
  .next (
    let l := x.arrivals.map fun w => ({
      source := w.source, arbiter := (firstArbiter w.source).1, input := (firstArbiter w.source).2, count := s.sourceWeight w.source
      waited := w.waited, last := w.last } : ArbReq)
    let s1 : State := { s with fab := { s.fab with arb := s.fab.arb ++ l } }
    let n := (s1.fab.arb.filter fun (r : ArbReq) => r.arbiter == arbiter).length
    (s1.serveAged arbiter n).arbCycles arbiter (min x.grants n))

/-! ### Die-to-die connections (R11, R13, R370, R460) -/

/-- Virtual channel `vc` of one direction of a connection. -/
def State.d2dLink (s : State) (k : Nat) : D2DLink := Tab.get (fun _ => D2DLink.initial) s.fab.d2d k
def State.setD2d (s : State) (k : Nat) (x : D2DLink) : State :=
  { s with fab := { s.fab with d2d := Tab.set (fun _ => D2DLink.initial) s.fab.d2d k x } }
def State.d2dIsOut (s : State) (k : Nat) : Bool := Tab.get (fun _ => false) s.fab.d2dOut k

/-- The unit of a connection; bit 0 tells a ring connection from the hub's. -/
def d2dUnit (k : Nat) : UnitId := { kind := 5, coord := k % 4 * 2 ^ 28 + k / 4 }

/-- Place of a direction of a connection in the table. -/
def d2dDir (x : D2D) (away : Bool) : Nat := 2 * d2dKey x + if away then 1 else 0

/-- The flit of channel `vc` numbered `seq` that a bridge keeps, and its arrivals so far, all of them bad. -/
def D2DLink.kept (x : D2DLink) (vc seq : Nat) : Option D2DFlit := x.retry.find? fun f => f.vc == vc && f.seq == seq
def D2DLink.resends (x : D2DLink) (vc seq : Nat) : Nat := ((x.kept vc seq).map fun f => f.resends).getD 0

/-- A flit has been delivered: its buffer is free and its credit returns (R460). -/
def D2DLink.release (x : D2DLink) (vc seq : Nat) : D2DLink :=
  if (x.kept vc seq).isSome then
    { credits := x.credits.set vc (x.credits.getD vc 0 + 1), retry := x.retry.filter fun f => !(f.vc == vc && f.seq == seq) }
  else x

/-- A flit is kept for a resend; its first attempt took a credit of its channel. -/
def D2DLink.keep (x : D2DLink) (f : D2DFlit) : D2DLink :=
  if (x.kept f.vc f.seq).isSome then
    { x with retry := x.retry.map fun g => if g.vc = f.vc ∧ g.seq = f.seq then f else g }
  else { credits := x.credits.set f.vc (x.credits.getD f.vc 0 - 1), retry := x.retry ++ [f] }

/-- Codewords of a die-to-die flit as the receiver finds them (R368). -/
def d2dStates (bytes : List Byte) : List CwState :=
  (List.range ((bytes.length + 35) / 36)).map fun k => decodeCw (((bytes.drop (36 * k)).take 36).map BitVec.toNat)

/-- D2D_FLIT_RESEND (R370): a flit of channel `vc` arrives. With an uncorrectable codeword it is resent, at most 8 times; else it
is delivered. A symbol in error counts against the connection (R281). Nothing can have arrived that had no credit. -/
def State.d2dResend (s : State) (x : D2D) (away : Bool) (vc seq : Nat) (bytes : List Byte) : State :=
  let k := d2dDir x away
  let l := s.d2dLink k
  let n := l.resends vc seq
  let states := d2dStates bytes
  if s.d2dIsOut (d2dKey x) ∨ 9 ≤ n ∨ ((l.kept vc seq).isNone ∧ l.credits.getD vc 0 = 0) then s
  else
    let s1 := if states.any (· != CwState.good) then (s.noteError (d2dUnit (d2dKey x))).1 else s
    if states.contains .bad then
      let s2 := s1.setD2d k (l.keep { vc := vc, seq := seq, bytes := bytes, resends := n + 1 })
      if n = 8 then s2 else (s2.bump 0x1000368).emit (.d2d x seq)
    else s1.setD2d k (l.release vc seq)

def execD2dFlitResend (x : D2DWay) (flit : D2DArrival) (s : State) : Out :=
  .next (s.d2dResend x.link x.away flit.vc.val flit.seq flit.bytes)

/-- A flit of the direction `k` whose eighth resend has arrived with an uncorrectable codeword too. -/
def State.d2dSpent (s : State) (k : Nat) : Option D2DFlit := (s.d2dLink k).retry.find? fun f => decide (9 ≤ f.resends)

/-- D2D_RESEND_EXHAUSTED (R13, R370): the bound is used up, or, with `training`, the connection failed its training. A ring
connection goes out of service until the next module reset, and what it kept goes through the hub; a hub connection delivers
the flit's uncorrectable codewords `cws` poisoned. -/
def State.d2dExhausted (s : State) (x : D2D) (training : Bool) (cws : List Nat) : State :=
  let k := d2dKey x
  let spent := (List.range 2).filterMap fun i => (s.d2dSpent (2 * k + i)).map fun f => (2 * k + i, f)
  if ¬ training ∧ spent.isEmpty then s
  else
    match x with
    | .ring _ =>
      if s.d2dIsOut k then s
      else
        let s1 := (s.setD2d (2 * k) D2DLink.initial).setD2d (2 * k + 1) D2DLink.initial
        ({ s1 with fab := { s1.fab with d2dOut := Tab.set (fun _ => false) s1.fab.d2dOut k true } }).cper {
          unit := 5, coord := (d2dUnit k).coord, mechanism := 8, action := 4 }
    | .hub _ =>
      if training then s
      else
        spent.foldl (fun (u : State) p => u.setD2d p.1 ((u.d2dLink p.1).release p.2.vc p.2.seq)) (cws.foldl State.poisonCw s)

def execD2dResendExhausted (x : D2D) (training : Bool) (cws : List Nat) (s : State) : Out := .next (s.d2dExhausted x training cws)

end Sys2Proof.Machine
end

