-- ==== Sys2Proof/Machine/Exchange.lean ====
section
/-!
DEFINITION. The Exchange Engine (spec/09): XCHG (R248 to R251), what arrives at an owner (R255 to R266), step summaries,
give-up and reform (R260 to R264), buddies (R267), GATH (R269, R270) and group CLOSE (R190, R191).
-/
namespace Sys2Proof.Machine

open Sys2Proof

/-! ### Encoding a contribution (R249, R250) -/

/-- The scale of a chunk in MODE 3: the exact mean magnitude, rounded once to BF16. -/
def signScale (l : List Val) : Cvt :=
  if l.any Val.isNan then { bits := 0x7FC0, nf := true, sat := false }
  else if l.any Val.nonFinite then { bits := 0x7F80, nf := true, sat := false }
  else
    let m := sumDy (l.map fun v => v.dy.abs)
    if m.m = 0 then { bits := 0, nf := false, sat := false } else fpBF16.cvtQ false .near false m.m.natAbs l.length m.e

/-- An encoded bucket: the contributions as FP32 bits, their bytes on the link by part, new error entries, flags. -/
structure Encoded where
  vals : List Nat
  bits : List Nat
  scales : List Nat
  err : List Cvt
  nf : Bool
  convNf : Bool
  /-- Chunk of each conversion that saturated. -/
  sats : List Nat
  deriving DecidableEq, Repr

/-- The chunk, of `n` conversions each, of every conversion that saturated. -/
def satsOf (l : List Cvt) (n : Nat) : List Nat := (((List.range l.length).zip l).filter fun p => p.2.sat).map fun p => p.1 / n

/-- The format of MODE 1 and 2. -/
def modeFmt (mode : Nat) : FpParams := if mode = 1 then fpBF16 else fpE5M2

/-- R249 for a bucket: gradients `g`, widened error entries `e`, entry numbers from `lo`. -/
def encode (mode cc : Nat) (seed : W64) (tensor step lo : Nat) (g e : List F32) (errs : Bool) : Encoded :=
  let a := List.zipWith fadd g e
  let av := a.map val32
  let n := a.length
  let nf := av.any Val.nonFinite
  let scales := if mode = 3 then (splitRows 256 ((n + 255) / 256) av).map signScale else []
  let cv := if mode = 1 ∨ mode = 2 then
      ((List.range n).zip av).map fun p => (modeFmt mode).cvt (bitAt cc 1)
        (if bitAt cc 0 then .stoch (draw16 seed tensor step (lo + p.1)) else .near) p.2
    else []
  let q : List F32 :=
    if mode = 0 then g
    else if mode = 3 then ((List.range n).zip a).map fun p =>
      let sc := round32V (fpBF16.decode ((scales.getD (p.1 / 256) { bits := 0, nf := false, sat := false }).bits))
      if bitAt p.2.toNat 31 then fneg sc else sc
    else cv.map fun c => round32V ((modeFmt mode).decode c.bits)
  let err := if errs then (List.zipWith fsub a q).map fun x => fpBF16.cvt true .near (val32 x) else []
  { vals := q.map fun x => x.toNat
    bits := if mode = 0 then g.map fun x => x.toNat else if mode = 3 then a.map fun x => if bitAt x.toNat 31 then 1 else 0
      else cv.map fun c => c.bits
    scales := scales.map fun c => c.bits, err := err, nf := nf
    convNf := mode != 0 && (nf || (cv ++ scales ++ err).any fun c => c.nf)
    sats := satsOf cv 256 ++ satsOf scales 1 ++ satsOf err 256 }

/-- The 32 sign bytes of a chunk (R250). -/
def signBytes (l : List Nat) : List Byte :=
  (List.range 32).map fun j => BitVec.ofNat 8 (((List.range 8).map fun i => l.getD (8 * j + i) 0 * 2 ^ i).foldl (· + ·) 0)

/-- Entries `[lo, hi)` of the bucket on the link (R250); a part starts on a chunk boundary. -/
def Encoded.wire (x : Encoded) (mode lo hi : Nat) : List Byte :=
  let b := (x.bits.drop lo).take (hi - lo)
  if mode = 0 then b.flatMap (natLe 4)
  else if mode = 1 then b.flatMap (natLe 2)
  else if mode = 2 then b.flatMap (natLe 1)
  else ((List.range ((hi - lo + 255) / 256)).zip (splitRows 256 ((hi - lo + 255) / 256) b)).flatMap fun p =>
    signBytes p.2 ++ natLe 2 (x.scales.getD (lo / 256 + p.1) 0)

/-- The values of `n` entries received on the link, as FP32 bits. -/
def unwire (mode n : Nat) (l : List Byte) : List Nat :=
  (List.range n).map fun k =>
    let u (i w : Nat) : Nat := leNat ((l.drop i).take w)
    if mode = 0 then u (4 * k) 4
    else if mode = 1 then (round32V (fpBF16.decode (u (2 * k) 2))).toNat
    else if mode = 2 then (round32V (fpE5M2.decode (u k 1))).toNat
    else
      let o := k / 256 * 34
      let sc := round32V (fpBF16.decode (u (o + 32) 2))
      (if bitAt (u (o + k % 256 / 8) 1) (k % 8) then fneg sc else sc).toNat

/-! ### XCHG -/

/-- The fields of an XCHG (Table 11.4). -/
structure Xchg where
  bucket : Nat
  mode : Nat
  cc : Nat
  tensor : Nat
  src : Nat
  errmem : Nat
  shardBase : Nat
  mirrorBase : Nat
  deriving DecidableEq, Repr

def Cmd.xchg (c : Cmd) : Xchg :=
  { bucket := c.u 16 4, mode := c.u8 20, cc := c.u8 21, tensor := c.u 24 4, src := c.u 32 8, errmem := c.u 40 8
    shardBase := c.u 48 8, mirrorBase := c.u 56 8 }

/-- Entries of bucket `b`, and bytes of one plane of its error memory (R251). -/
def State.bucketLen (s : State) (b : Nat) : Nat := (s.bucketRange b).2 - (s.bucketRange b).1
def planeBytes (n : Nat) : Nat := (2 * n + 63) / 64 * 64

/-- The lane area is large enough (R254). -/
def State.laneOk (s : State) : Bool :=
  let shard (r : Nat) : Nat := s.shardLo (r + 1) - s.shardLo r
  decide (48 * (shard s.rank + if s.buddyOn then shard s.ward else 0) + 64 * s.bucketEntries ≤ s.laneBytes)

/-- The field at which the descriptor breaks a rule (R248, R251, R254). -/
def State.xchgFault (s : State) (c : Cmd) (q : Nat) : Option Nat :=
  let x := c.xchg
  let n := s.bucketLen x.bucket
  let r := s.partRange s.rank x.bucket
  if s.spaceEntries = 0 ∨ s.buckets ≤ x.bucket ∨ (s.sentOf c.step x.bucket).any (fun y => y.seq != q) then some 16
  else if s.rangeBad x.src (4 * n) then some 32
  else if x.errmem ≠ 0 ∧ (x.mode = 0 ∨ x.errmem % 64 ≠ 0 ∨ s.rangeBad x.errmem (64 + 2 * planeBytes n)) then some 40
  else if r.1 < r.2 ∧ s.rangeBad (x.shardBase + 4 * (r.1 - s.shardLo s.rank)) (4 * (r.2 - r.1)) then some 48
  else if ¬ s.laneOk then some 0xFF
  else none

/-- The XCHG waits: for acknowledgements of its RETRACT (R292), for step n − 1 (R251), or for room to retain its own part
(R254). A step that no command named is not waited for. -/
def State.xchgWaits (s : State) (c : Cmd) : Bool :=
  let x := c.xchg
  (s.sentOf c.step x.bucket).any (fun y => !y.waiting.isEmpty) ||
  (x.errmem != 0 && c.step != 0 && (s.stepInfo (c.step - 1)).named && !s.resolved (c.step - 1)) ||
  (decide (16 ≤ s.retained) && (s.ownedRanks.any fun o => s.ownsPart o x.bucket && ((s.part c.step x.bucket o).all fun p => p.first.isNone)))

/-- What XCHG reads (R251): its source, and the header and plane CUR of its error memory. -/
def State.xchgReads (s : State) (x : Xchg) : List (Nat × Nat) :=
  let n := s.bucketLen x.bucket
  (x.src, 4 * n) :: if x.errmem = 0 then [] else
    [(x.errmem, 64), (x.errmem + 64 + (s.rdNat x.errmem 1 % 2) * planeBytes n, 2 * n)]

/-- What it writes (R251): the other plane. -/
def State.xchgOuts (s : State) (x : Xchg) : List (Nat × Nat) :=
  let n := s.bucketLen x.bucket
  if x.errmem = 0 then [] else [(x.errmem + 64 + (1 - s.rdNat x.errmem 1 % 2) * planeBytes n, 2 * n)]

/-- The part of rank `o` is sent, or taken when this module owns it (R248). -/
def State.sendPart (s : State) (c : Cmd) (q : Nat) (e : Encoded) (o : Nat) : State :=
  let x := c.xchg
  let r := s.partRange o x.bucket
  let lo := r.1 - (s.bucketRange x.bucket).1
  let hi := r.2 - (s.bucketRange x.bucket).1
  if s.ownedRanks.contains o then
    s.copyArrives c.step x.bucket o { rank := s.rank, vals := (e.vals.drop lo).take (hi - lo), nf := e.nf, at_ := s.now }
  else
    let w := e.wire x.mode lo hi
    (s.emit (.farpinen (s.ownerOf o) kContribution ([c.step, x.bucket, o, s.rank, if e.nf then 1 else 0, x.mode] ++
      w.map fun b => b.toNat))).evt (some q) 0x40 w.length

/-- A delivery of the ward is written to the mirror and acknowledged (R267). -/
def State.writeMirror (s : State) (y : Sent) (vals : List Nat) : State :=
  let r := s.partRange s.ward y.bucket
  let a := y.mirrorBase + 4 * (r.1 - s.shardLo s.ward)
  match if isHost a then s.rdFail a (4 * vals.length) else none with
  | some f => s.failCmd y.seq .hostBusError f.1
  | none =>
    (((s.wr a (vals.flatMap (natLe 4))).trafficOn 4 (some y.seq) true a (4 * vals.length)).noteWrite y.seq a (4 * vals.length)).emit
      (.farpinen s.ward kBuddyAck [y.step, y.bucket, s.rank])

/-- Ward deliveries that came before the module's own XCHG. -/
def State.flushMirrors (s : State) (y : Sent) : State :=
  let l := s.xe.mirrors.filter fun m => m.step == y.step && m.bucket == y.bucket
  l.foldl (fun (u : State) m => u.writeMirror y m.vals)
    { s with xe := { s.xe with mirrors := s.xe.mirrors.filter fun m => !(m.step == y.step && m.bucket == y.bucket) } }

/-- XCHG (R248 to R251). BAD_DESCRIPTOR comes before the WAIT_TIMEOUT of an incomplete step (R340). -/
def State.runXchg (s : State) (q : Nat) : State :=
  match s.runnable q 0x30 with
  | none => s
  | some c =>
    let x := c.xchg
    let n := s.bucketLen x.bucket
    match s.xchgFault c q with
    | some o => s.failCmd q .badDescriptor o
    | none =>
      if (s.stepInfo c.step).mark = .incomplete ∨ s.xe.stopped then s.failCmd q .waitTimeout c.lateDetail
      else
        if s.xchgWaits c then s
        else
          let reads := s.xchgReads x
          let cur := s.rdNat x.errmem 1 % 2
          let plane (k : Nat) : Nat := x.errmem + 64 + k * planeBytes n
          let outs := s.xchgOuts x
          if s.heldBack (reads ++ outs) then s
          else
          match s.rdFails reads with
          | some f => (s.noteReads [(f.1, 1)]).failMem q f
          | none =>
            match s.writeFail outs with
            | some f => s.failMem q f
            | none =>
              let g := (List.range n).map fun k => (BitVec.ofNat 32 (s.rdNat (x.src + 4 * k) 4) : F32)
              let old := (List.range n).map fun k =>
                if x.errmem = 0 then zero32 else round32V (fpBF16.decode (s.rdNat (plane cur + 2 * k) 2))
              let e := encode x.mode x.cc c.seed x.tensor c.step (s.bucketRange x.bucket).1 g old (x.errmem != 0)
              let owners := (List.range s.groupSize).filter fun o => s.ownsPart o x.bucket
              let sent : Sent := {
                seq := q, step := c.step, bucket := x.bucket, shardBase := x.shardBase, mirrorBase := x.mirrorBase
                errmem := x.errmem, owners := owners, nf := e.nf, waiting := [], cleared := false }
              let s1 := (s.readOperands q reads).writeAll (some q)
                (if x.errmem = 0 then [] else [(plane (1 - cur), e.err.flatMap fun c => natLe 2 c.bits)])
              let s2 := ((s1.countOn (freeDie s1.free) 0x1C00310 e.sats).freeStep.evt (some q) 0x20
                (if x.mode = 0 then 0 else n + e.err.length)).evt (some q) 0x21 e.sats.length
              let s3 := (s2.addCond q (if c.retractions = 0 then [] else [.retracted])
                (indBit 0 e.convNf ||| indBit 1 (!e.sats.isEmpty))).setDetail q (c.retractions % 65536)
              let s4 : State := { s3 with xe := { s3.xe with sends := sent :: s3.xe.sends.filter fun y => y.seq != q } }
              let s5 := (s4.addVnCheck q).updCmd q fun c => { c with stage := .running }
              let s6 := owners.foldl (fun (u : State) o => u.sendPart c q e o) s5
              let s7 := (s6.ownedRanks.foldl (fun (u : State) o => u.deliverPart c.step x.bucket o) s6).flushMirrors sent
              if (s7.cmd q).any (fun c => c.stage == .running) ∧ s7.ownParts c.step x.bucket (· != .collecting) then s7.deliver q
              else s7

def execXchg (q : Nat) (s : State) : Out := .next (s.runXchg q).admitWaiting

/-- What an XCHG does when it becomes clear (R248, R293): the all-clear for its copy goes to every owner, and its record
waits until the module's own part is cleared. -/
def State.xchgClear (s : State) (q : Nat) : State :=
  match s.xe.sends.find? fun x => x.seq == q with
  | none => s
  | some x =>
    let s1 := (s.setSent { x with cleared := true }).updCmd q fun c => { c with hold := true }
    let s2 := x.owners.foldl (fun (u : State) o =>
      if u.ownedRanks.contains o then u.allClear x.step x.bucket o u.rank
      else u.emit (.farpinen (u.ownerOf o) kAllClear [x.step, x.bucket, o, u.rank])) s1
    (if s2.ownParts x.step x.bucket (· == .cleared) then s2.updCmd q fun c => { c with hold := false } else s2).admitWaiting

/-! ### Arrivals at an owner -/

/-- The engine takes messages: it has not been excluded (R264). -/
def State.xeLive (s : State) (rank : Nat) : Bool := !s.xe.stopped && s.present.contains rank

/-- CONTRIBUTION_ARRIVAL (R254 to R257). -/
def execContributionArrival (rank step bucket owner : Nat) (nf : Bool) (mode : Fin 4) (bytes : List Byte) (s : State) : Out :=
  .next (
    let r := s.partRange owner bucket
    if s.xeLive rank ∧ s.ownedRanks.contains owner ∧ s.ownsPart owner bucket then
      ((s.evtU 0x41 bytes.length).copyArrives step bucket owner {
        rank := rank, vals := unwire mode.val (r.2 - r.1) bytes, nf := nf, at_ := s.now }).admitWaiting
    else s)

/-- BUCKET_DEADLINE (R255, R256). -/
def execBucketDeadline (step bucket owner : Nat) (s : State) : Out := .next (s.partDeadline step bucket owner).admitWaiting

/-- A record of a give-up for each rank waited for (Table 10.5, MECHANISM 16). -/
def State.giveupRecords (s : State) (step : Nat) (ranks : List Nat) : State :=
  ranks.foldl (fun (u : State) r => u.cper {
    unit := 9, coord := 0xE * 2 ^ 28 + r * 2 ^ 16, mechanism := 16, action := 5, step := step }) s

/-- BUCKET_GIVEUP (R255, R259): the give-up time has passed. An arrival in its cycle counts as before it (R257). -/
def State.partGiveup (s : State) (n b o : Nat) : State :=
  match s.part n b o with
  | none => s
  | some p =>
    match p.first with
    | none => s
    | some t =>
      if s.now ≤ t + s.giveupNs ∨ s.partFull p then s
      else
        let missing := s.slotsPresent.filter fun k => !p.taken.any fun c => s.slotOf c.rank == k
        let s1 := (((s.bump 0x2000320).logPart n b).giveupRecords n missing).markIncomplete n
        { s1 with xe := { s1.xe with
          parts := s1.xe.parts.filter fun x => !(x.step == n && x.bucket == b && x.owner == o) } }

def execBucketGiveup (step bucket owner : Nat) (s : State) : Out := .next (s.partGiveup step bucket owner).admitWaiting

/-- ALL_CLEAR_ARRIVAL (R258). -/
def execAllClearArrival (rank step bucket owner : Nat) (s : State) : Out :=
  .next (if s.xeLive rank then (s.allClear step bucket owner rank).admitWaiting else s)

/-- RETRACT_ARRIVAL (R265, R266). -/
def State.retractArrives (s : State) (rank step bucket owner : Nat) : State :=
  if s.xeLive rank ∧ s.ownedRanks.contains owner ∧ s.ownsPart owner bucket then
    let r := s.retractCopy step bucket owner rank
    if r.2 then r.1.emit (.farpinen rank kRetractAck [step, bucket, owner]) else r.1
  else s

def execRetractArrival (rank step bucket owner : Nat) (s : State) : Out := .next (s.retractArrives rank step bucket owner)

/-- RETRACT_ACK_ARRIVAL (R292). -/
def execRetractAckArrival (step bucket owner : Nat) (s : State) : Out :=
  .next (match s.sentOf step bucket with
    | some x => s.setSent { x with waiting := x.waiting.filter fun o => o != owner }
    | none => s)

/-! ### Buddies (R267) -/

/-- BUDDY_DELIVERY_ARRIVAL: the ward's entries of a bucket part, as FP32 bits. -/
def State.mirrorArrives (s : State) (step bucket : Nat) (vals : List Nat) : State :=
  if ¬ s.buddyOn ∨ ¬ s.xeLive s.ward ∨ ¬ s.ownsPart s.ward bucket then s
  else
    match s.sentOf step bucket with
    | some y => s.writeMirror y vals
    | none => { s with xe := { s.xe with mirrors := s.xe.mirrors ++ [{ step := step, bucket := bucket, vals := vals }] } }

def execBuddyDeliveryArrival (step bucket : Nat) (vals : List F32) (s : State) : Out :=
  .next (s.mirrorArrives step bucket (vals.map fun v => v.toNat))

/-- BUDDY_ACK_ARRIVAL. -/
def execBuddyAckArrival (step bucket : Nat) (s : State) : Out :=
  .next { s with xe := { s.xe with unacked := s.xe.unacked.erase (step, bucket) } }

/-! ### Summaries (R260 to R264) -/

/-- R260: every XCHG of the step has sent its contribution, the module's parts are cleared, and its buddy has acknowledged
every delivery. -/
def State.summaryDue (s : State) (n : Nat) : Bool :=
  ((List.range s.buckets).all fun b =>
    ((s.sentOf n b).any fun x => x.waiting.isEmpty && !(s.cmd x.seq).any fun c => c.tainted) && s.ownParts n b (· == .cleared)) &&
    !s.xe.unacked.any fun p => p.1 == n

/-- SUMMARY_SEND (R260). -/
def State.summarySend (s : State) (n : Nat) : State :=
  if s.resolved n ∨ (s.xeStep n).sent ∨ s.xe.stopped ∨ ¬ s.summaryDue n then s
  else s.sendSummary n ((s.xe.parts.filter fun p => p.step == n).any fun p => p.nf) false

def execSummarySend (step : Nat) (s : State) : Out := .next (s.summarySend step)

/-- SUMMARY_ARRIVAL (R261, R262). -/
def State.summaryArrives (s : State) (rank n : Nat) (nf inc : Bool) : State :=
  if ¬ s.xeLive rank ∨ (s.stepInfo n).mark = .cleared ∨ (s.stepInfo n).mark = .skipped then s
  else
    let s1 := s.noteSummary n rank nf inc
    if inc then s1.markIncomplete n else s1

def execSummaryArrival (rank step : Nat) (nf inc : Bool) (s : State) : Out := .next (s.summaryArrives rank step nf inc)

/-- Ranks whose summary of step `n` is missing. -/
def State.missingSummaries (s : State) (n : Nat) : List Nat :=
  s.present.filter fun r => !(s.xeStep n).got.any fun p => p.1 == r

/-- The window of R264 opens: this module's excluded set goes out. -/
def State.openWindow (s : State) (n : Nat) (missing : List Nat) : State :=
  let y := s.xeStep n
  (s.setXeStep { y with sets := (s.rank, missing) :: y.sets.filter (fun p => p.1 != s.rank), windowAt := some s.now }).emitAll kExcluded
    ([n, s.rank] ++ missing)

/-- SUMMARY_GIVEUP (R262, R264): GIVEUP_MS has passed after the first summary; a summary in that cycle counts as before it. Under
POLICY 1 the excluded set goes out: of a module that lacks no summary, an empty one, once it has received another's. -/
def State.summaryGiveup (s : State) (n : Nat) : State :=
  let x := s.xeStep n
  let missing := s.missingSummaries n
  match x.firstAt with
  | none => s
  | some t =>
    if s.now ≤ t + s.giveupMs * 1000000 ∨ (missing.isEmpty ∧ x.sets.isEmpty) then s
    else
      let s1 := if s.resolved n ∨ missing.isEmpty then s else (s.giveupRecords n missing).markIncomplete n
      if s.policy = 0 ∨ x.windowAt.isSome then s1 else s1.openWindow n missing

def execSummaryGiveup (step : Nat) (s : State) : Out := .next (s.summaryGiveup step)

/-- EXCLUDED_SET_ARRIVAL (R264). A module that lacks no summary has no give-up time to wait for: its window opens with the first
set. -/
def execExcludedSetArrival (rank step : Nat) (set : List Nat) (s : State) : Out :=
  .next (
    if s.policy = 1 ∧ s.xeLive rank then
      let x := s.xeStep step
      let s1 := s.setXeStep { x with sets := (rank, set) :: x.sets.filter fun p => p.1 != rank }
      if x.windowAt.isNone ∧ (s.missingSummaries step).isEmpty then s1.openWindow step [] else s1
    else s)

/-- The module stops exchanging (R264). -/
def State.stopExchange (s : State) : State :=
  let s1 : State := { s with xe := { s.xe with stopped := true } }
  ((s1.hg.cmds.filter fun c => (c.opcode == 0x30 || c.opcode == 0x31) && c.stepOf.any c.endsWithStep).foldl State.timeOut s1).arrive 195

/-- EXCLUSION_WINDOW_END (R264): a further GIVEUP_MS after the module's own set. `buddies` are the buddies of the excluded
ranks, as (rank, buddy); without one for each, itself present, the reform fails. -/
def State.exclusionEnd (s : State) (n : Nat) (buddies : List (Nat × Nat)) : State :=
  let x := s.xeStep n
  match x.windowAt with
  | none => s
  | some t =>
    if s.now ≤ t + s.giveupMs * 1000000 ∨ x.sets.isEmpty then s
    else
      let out := (x.sets.flatMap fun p => p.2).eraseDups
      let s1 := s.setXeStep { x with sets := [] }
      let ok := out.all fun r => buddies.any fun p => p.1 == r && !out.contains p.2 && s.present.contains p.2
      if out.contains s.rank then s1.stopExchange
      else if ¬ ok then s1
      else
        (({ s1 with xe := { s1.xe with
          excluded := s1.xe.excluded ++ out
          buddies := s1.xe.buddies ++ out.filterMap fun r => buddies.find? fun (p : Nat × Nat) => p.1 == r
          reformed := true } }).bump 0x2000328).arrive 195

def execExclusionWindowEnd (step : Nat) (buddies : List (Nat × Nat)) (s : State) : Out := .next (s.exclusionEnd step buddies)

/-! ### Group CLOSE (R190, R191) -/

/-- The messages of a CLOSE that count now: a primary's, or a backup's once the deadline has passed (R256). -/
def State.closeTaken (s : State) (x : CloseX) : List CloseMsg :=
  let l := s.xe.closeMsgs.filter fun m => m.step == x.step && m.ordinal == x.ordinal
  let first := l.foldl (fun a m => min a m.at_) s.now
  l.filter fun m => !s.isBackup m.rank || decide (first + s.deadlineNs < s.now)

/-- Every present slot has contributed. -/
def State.closeFull (s : State) (x : CloseX) : Bool :=
  s.slotsPresent.all fun k => (s.closeTaken x).any fun m => s.slotOf m.rank == k

/-- The push of a group CLOSE: record number `i` of the list at `a`. -/
def State.closePush (s : State) (x : CloseX) (taken : List CloseMsg) (i a : Nat) : State :=
  let l := taken.map fun m => m.recs.getD i { max := 0, trouble := false, isOpen := false }
  if l.any fun r => r.isOpen then
    s.putHist a ((s.histAt a).push ((l.filter fun r => r.isOpen).foldl (fun m r => max m r.max) 0) x.step (l.any fun r => r.trouble))
  else s

/-- The CLOSE ends when every slot has contributed (R190). -/
def State.closeEnds (s : State) (q : Nat) : State :=
  match s.xe.closes.find? fun x => x.seq == q with
  | none => s
  | some x =>
    if ¬ s.closeFull x ∨ ¬ (s.cmd q).any (fun c => c.stage == .running && !c.tainted) then s
    else
      let taken := s.closeTaken x
      let s1 := ((List.range x.recs.length).zip x.recs).foldl (fun (u : State) p => u.closePush x taken p.1 p.2) s
      ({ s1 with xe := { s1.xe with
        closes := s1.xe.closes.filter fun y => y.seq != q
        closeMsgs := s1.xe.closeMsgs.filter fun m => !(m.step == x.step && m.ordinal == x.ordinal) } }).deliver q

/-- Which group CLOSE of its step a command is: the members' CLOSE commands are matched in acceptance order. -/
def State.closeOrdinal (s : State) (c : Cmd) (q : Nat) : Nat :=
  (s.hg.cmds.filter fun d => d.opcode == 0x39 && d.u8 16 == 1 && bitAt (d.u8 17) 0 && d.stepOf == c.stepOf &&
    d.seq.any fun i => decide (i < q)).length

/-- SCAL CLOSE (R190, R191). -/
def State.scalClose (s : State) (q : Nat) : State :=
  match s.scal q 1 with
  | none => s
  | some c =>
    s.closeWith c q fun s l =>
      let n := c.step
      if ¬ bitAt (c.u8 17) 0 then (s.closeAlone n l).deliver q
      else if s.xe.stopped then s.failCmd q .waitTimeout 0
      else
        let k := s.closeOrdinal c q
        let recs := l.map fun a =>
          let h := s.histAt a
          let on : Bool := h.isOpen && h.runStep == n
          ({ max := if on then h.runMax else 0, trouble := h.trouble % 2 == 1, isOpen := on } : CloseRec)
        let s1 : State := { s with xe := { s.xe with
          closes := { seq := q, step := n, ordinal := k, recs := l } :: s.xe.closes.filter fun x => x.seq != q
          closeMsgs := { rank := s.rank, step := n, ordinal := k, recs := recs, at_ := s.now } ::
            s.xe.closeMsgs.filter fun m => !(m.step == n && m.ordinal == k && m.rank == s.rank) } }
        ((s1.emitAll kClose ([n, k, s.rank] ++ recs.flatMap fun r => [r.max, if r.trouble then 1 else 0, if r.isOpen then 1 else 0])).updCmd
          q fun c => { c with stage := .running }).closeEnds q

def execScalClose (q : Nat) (s : State) : Out := .next (s.scalClose q)

/-- CLOSE_MESSAGE_ARRIVAL (R191): a member's RUN_MAX, bit 0 of TROUBLE and open state of every listed record. A message of a
slot that has one, from the same rank, is a duplicate. -/
def State.closeArrives (s : State) (rank n k : Nat) (recs : List CloseRec) : State :=
  if ¬ s.xeLive rank then s
  else if s.xe.closeMsgs.any fun m => m.step == n && m.ordinal == k && m.rank == rank then s.duplicate
  else
    let s1 : State := { s with xe := { s.xe with
      closeMsgs := { rank := rank, step := n, ordinal := k, recs := recs, at_ := s.now } :: s.xe.closeMsgs } }
    match s1.xe.closes.find? fun x => x.step == n && x.ordinal == k with
    | some x => s1.closeEnds x.seq
    | none => s1

def execCloseMessageArrival (rank step ordinal : Nat) (recs : List (F32 × Bool × Bool)) (s : State) : Out :=
  .next (s.closeArrives rank step ordinal (recs.map fun r => { max := r.1.toNat, trouble := r.2.1, isOpen := r.2.2 }))

/-- CLOSE_GIVEUP (R191): at the give-up time nothing is pushed. Held backups that the deadline has let in count first. -/
def State.closeGiveup (s : State) (q : Nat) : State :=
  match s.xe.closes.find? fun x => x.seq == q with
  | none => s
  | some x =>
    let s1 := s.closeEnds q
    if ¬ (s1.cmd q).any (fun c => c.stage == .running) then s1
    else
      let l := s.xe.closeMsgs.filter fun m => m.step == x.step && m.ordinal == x.ordinal
      let first := l.foldl (fun a m => min a m.at_) s.now
      if s.now ≤ first + s.giveupNs then s1
      else
        let s2 : State := { s1 with xe := { s1.xe with
          closes := s1.xe.closes.filter fun y => y.seq != q
          closeMsgs := s1.xe.closeMsgs.filter fun m => !(m.step == x.step && m.ordinal == x.ordinal) } }
        s2.failCmd q .waitTimeout 0

def execCloseGiveup (q : Nat) (s : State) : Out := .next (s.closeGiveup q)

/-! ### GATH (R269, R270) -/

/-- Ranks whose lists a GATH gathers: those present, and excluded ranks in whose place a buddy sends. -/
def State.listRanks (s : State) : List Nat :=
  (List.range s.groupSize).filter fun r => !s.xe.excluded.contains r || s.xe.buddies.any fun p => p.1 == r

/-- A list in header form at `a`: its entries, when STEP and TENSOR are those given and it lies in memory. -/
def State.listAt (s : State) (a n id : Nat) : Option (List Byte) :=
  if a % 64 ≠ 0 ∨ s.rangeBad a 64 ∨ (s.rdFail a 64).isSome then none
  else
    let k := s.rdNat a 8
    if s.rdNat (a + 8) 4 ≠ n ∨ s.rdNat (a + 12) 4 ≠ id ∨ s.rangeBad (a + 64) (8 * k) ∨ (s.rdFail (a + 64) (8 * k)).isSome then none
    else some (s.rd (a + 64) (8 * k))

/-- A list enters the store, once for each rank. -/
def State.addList (s : State) (r n id : Nat) (entries : List Byte) : State :=
  { s with xe := { s.xe with
      lists := { rank := r, step := n, tensor := id, entries := entries, at_ := s.now } ::
        s.xe.lists.filter fun l => !(l.rank == r && l.step == n && l.tensor == id) } }

/-- A list of this module, for rank `r`'s place, goes to every rank. -/
def State.sendList (s : State) (q r n id : Nat) (entries : List Byte) : State :=
  ((s.emitAll kList ([r, entries.length / 8, n, id] ++ entries.map fun b => b.toNat)).evt (some q) 0x40
    ((64 + entries.length) * (s.present.length - 1))).addList r n id entries

/-- The list of a shard taken over in a reform: the other UPDT of the step that follows the tensor's levels wrote it. -/
def State.secondList (s : State) (n id list : Nat) : Option Nat :=
  (s.hg.cmds.filterMap fun c =>
    let p := updtOf (s.rd (c.u 16 8) 128)
    if c.opcode = 0x38 ∧ c.stepOf = some n ∧ p.list ≠ 0 ∧ p.list ≠ list ∧ p.wtid = id then some p.list else none).head?

/-- GATH ends when every list is there: entries from byte 64 in rank order, the header last. -/
def State.gathEnds (s : State) (q : Nat) : State :=
  match s.xe.gaths.find? fun x => x.seq == q with
  | none => s
  | some x =>
    let mine (l : ListX) : Bool := l.step == x.step && l.tensor == x.tensor
    let got := s.listRanks.filterMap fun r => s.xe.lists.find? fun l => l.rank == r && mine l
    if got.length < s.listRanks.length ∨ ¬ (s.cmd q).any (fun c => c.stage == .running && !c.tainted) then s
    else
      let bytes := got.flatMap fun l => l.entries
      let s1 : State := { s with xe := { s.xe with
        gaths := s.xe.gaths.filter fun y => y.seq != q, lists := s.xe.lists.filter fun l => !mine l } }
      match s.writeFail [(x.dest, 64 + bytes.length)] with
      | some f => s1.failMem q f
      | none =>
        (s1.writeAll (some q) [
          (x.dest + 64, bytes)
          , (x.dest, natLe 8 (bytes.length / 8) ++ natLe 4 x.step ++ natLe 4 x.tensor ++ List.replicate 48 0)]).deliver q

/-- GATH (R269, R270). BAD_DESCRIPTOR comes before the WAIT_TIMEOUT of an incomplete step (R340). -/
def State.runGath (s : State) (q : Nat) : State :=
  match s.runnable q 0x31 with
  | none => s
  | some c =>
    let n := c.step
    let id := c.u 16 4
    let list := c.u 24 8
    let dest := c.u 32 8
    let cap := c.u 40 8
    match s.resident id with
    | none => s.failCmd q .badDescriptor 16
    | some t =>
      if list % 64 ≠ 0 ∨ s.rangeBad list 64 then s.failCmd q .badDescriptor 24
      else if dest % 64 ≠ 0 ∨ s.rangeBad dest (64 + 8 * cap) then s.failCmd q .badDescriptor 32
      else if cap < t.k * t.n then s.failCmd q .badDescriptor 40
      else if (s.stepInfo n).mark = .incomplete ∨ s.xe.stopped then s.failCmd q .waitTimeout 0
      else if (s.stepInfo n).mark = .skipped then
        if s.heldBack [(dest, 64)] then s
        else
          match s.writeFail [(dest, 64)] with
          | some f => s.failMem q f
          | none => (s.writeAll (some q) [(dest, headerList n id [])]).deliver q
      else if s.heldBack [(list, 64), (list + 64, 8 * s.rdNat list 8)] then s
      else
        match s.rdFails [(list, 64), (list + 64, 8 * s.rdNat list 8)] with
        | some f => (s.noteReads [(f.1, 1)]).failMem q f
        | none =>
          let s1 : State := { s with xe := { s.xe with
            gaths := { seq := q, step := n, tensor := id, dest := dest } :: s.xe.gaths.filter fun x => x.seq != q } }
          let s2 := (s1.readOperands q [(list, 64)]).updCmd q fun c => { c with stage := .running }
          let s3 := match s2.listAt list n id with
            | some e => s2.sendList q s.rank n id e
            | none => s2
          let s4 := (s.ownedRanks.filter fun r => r != s.rank).foldl (fun (u : State) r =>
            match (u.secondList n id list).bind fun a => u.listAt a n id with
            | some e => u.sendList q r n id e
            | none => u) s3
          s4.gathEnds q

def execGath (q : Nat) (s : State) : Out := .next (s.runGath q)

/-- LIST_ARRIVAL (R269, R270): a list of rank `rank`'s shard in header form. It is kept for the GATH whose step and tensor
its header names; for any other GATH it counts as missing. -/
def State.listArrives (s : State) (rank : Nat) (l : List Byte) : State :=
  let u (i n : Nat) : Nat := leNat ((l.drop i).take n)
  if s.xe.stopped ∨ ¬ s.listRanks.contains rank then s
  else
    let s1 := s.addList rank (u 8 4) (u 12 4) ((l.drop 64).take (8 * u 0 8))
    match s1.xe.gaths.find? fun x => x.step == u 8 4 && x.tensor == u 12 4 with
    | some x => s1.gathEnds x.seq
    | none => s1

def execListArrival (rank : Nat) (list : List Byte) (s : State) : Out := .next (s.listArrives rank list)

/-- GATH_GIVEUP (R270): a list is missing GIVEUP_MS after the first one arrived. -/
def State.gathGiveup (s : State) (q : Nat) : State :=
  match s.xe.gaths.find? fun x => x.seq == q with
  | none => s
  | some x =>
    let l := s.xe.lists.filter fun l => l.step == x.step && l.tensor == x.tensor
    let first := l.foldl (fun a m => min a m.at_) s.now
    if l.isEmpty ∨ s.now ≤ first + s.giveupMs * 1000000 ∨ ¬ (s.cmd q).any (fun c => c.stage == .running) then s
    else
      let s1 : State := { s with xe := { s.xe with gaths := s.xe.gaths.filter fun y => y.seq != q } }
      (s1.writeAll (some q) [(x.dest, natLe 8 0 ++ natLe 4 x.step ++ natLe 4 (2 ^ 32 - 1 - x.tensor) ++ List.replicate 48 0)]).failCmd q
        .waitTimeout 0

def execGathGiveup (q : Nat) (s : State) : Out := .next (s.gathGiveup q)

end Sys2Proof.Machine
end

