-- ==== Sys2Proof/Machine/Desc.lean ====
section
/-!
DEFINITION. Descriptors as they are checked before acceptance (R318, item 2): the header of Table 11.2 and the bodies of
Tables 11.4 and 11.9. A field is (first byte, bytes, bits that may be non-zero); a reserved field allows none.
-/
namespace Sys2Proof.Machine

open Sys2Proof

/-- A field of a descriptor. -/
structure Field where
  off : Nat
  len : Nat
  mask : Nat
  deriving DecidableEq, Repr

/-- All bits of `n` bytes. -/
def full (n : Nat) : Nat := 256 ^ n - 1
/-- A field whose bits may all be set, and a reserved one. -/
def fld (o n : Nat) : Field := ⟨o, n, full n⟩
def rsv (o n : Nat) : Field := ⟨o, n, 0⟩

/-- A transfer descriptor in body bytes 32 to 63 (Table 12.1). -/
def transferFields : List Field :=
  [fld 32 8, fld 40 8, fld 48 6, ⟨54, 1, 0x3F⟩, ⟨55, 1, 0x3F⟩, ⟨56, 1, 1⟩, fld 57 1, rsv 58 6]

/-- Body of each opcode; none for an opcode that Tables 11.4 and 11.9 do not list. -/
def bodyFields (op : Nat) (slot : List Byte) : Option (List Field) :=
  match op with
  | 0x01 | 0x02 | 0x03 =>
    some ([fld 16 1, ⟨17, 1, 1⟩, rsv 18 2, fld 20 4, fld 24 8] ++
      (if bitAt (slot.getD 17 0).toNat 0 then [] else transferFields))
  | 0x08 => some [fld 16 2, rsv 18 6, fld 24 8, fld 32 4, rsv 36 28]
  | 0x09 => some [fld 16 2, ⟨18, 1, 3⟩, rsv 19 5, fld 24 8, rsv 32 32]
  | 0x0A => some [⟨16, 1, 7⟩, rsv 17 3, fld 20 4, rsv 24 40]
  | 0x10 => some [fld 16 8, fld 24 8, fld 32 8, fld 40 8, fld 48 4, ⟨52, 1, 0x7F⟩, ⟨53, 1, 3⟩, rsv 54 10]
  | 0x11 => some [fld 16 8, fld 24 8, fld 32 8, fld 40 8, fld 48 4, ⟨52, 1, 0x7F⟩, ⟨53, 1, 3⟩, rsv 54 2, fld 56 4, rsv 60 4]
  | 0x12 => some [fld 16 4, rsv 20 4, fld 24 8, fld 32 8, rsv 40 24]
  | 0x13 => some [fld 16 8, rsv 24 40]
  | 0x18 => some [fld 16 8, fld 24 8, fld 32 8, ⟨40, 1, 3⟩, fld 41 1, ⟨42, 1, 0x7F⟩, ⟨43, 1, 7⟩, rsv 44 20]
  | 0x19 => some [fld 16 8, ⟨24, 1, 1⟩, rsv 25 39]
  | 0x20 => some [fld 16 8, fld 24 8, fld 32 8, fld 40 8, fld 48 1, rsv 49 3, fld 52 4, fld 56 4, rsv 60 4]
  | 0x21 => some [fld 16 8, fld 24 8, fld 32 8, fld 40 8, ⟨48, 1, 1⟩, rsv 49 3, fld 52 4, rsv 56 8]
  | 0x22 => some [fld 16 8, fld 24 8, rsv 32 32]
  | 0x28 => some [fld 16 8, fld 24 1, ⟨25, 1, 3⟩, rsv 26 2, fld 28 4, rsv 32 32]
  | 0x29 | 0x2A => some [rsv 16 48]
  | 0x30 => some [fld 16 4, fld 20 1, ⟨21, 1, 3⟩, rsv 22 2, fld 24 4, rsv 28 4, fld 32 8, fld 40 8, fld 48 8, fld 56 8]
  | 0x31 => some [fld 16 4, rsv 20 4, fld 24 8, fld 32 8, fld 40 8, rsv 48 16]
  | 0x38 => some [fld 16 8, rsv 24 40]
  | 0x39 => some [fld 16 1, ⟨17, 1, 1⟩, fld 18 1, fld 19 1, fld 20 1, fld 21 1, rsv 22 2, fld 24 4, rsv 28 4, fld 32 8,
      fld 40 8, fld 48 8, fld 56 8]
  | 0x40 => some [fld 16 8, fld 24 4, rsv 28 36]
  | 0x41 => some [fld 16 1, rsv 17 7, fld 24 8, fld 32 16, rsv 48 16]
  | 0x48 => some [fld 16 1, fld 17 1, rsv 18 2, fld 20 4, fld 24 8, fld 32 4, rsv 36 4, fld 40 8, fld 48 8, rsv 56 8]
  | 0x60 => some [fld 16 8, rsv 24 32, fld 56 8]
  | 0x61 => some [fld 16 1, rsv 17 39, fld 56 8]
  | 0x62 => some [rsv 16 40, fld 56 8]
  | 0x63 => some [fld 16 8, fld 24 8, rsv 32 24, fld 56 8]
  | 0x64 => some [fld 16 8, fld 24 4, fld 28 1, rsv 29 27, fld 56 8]
  | 0x65 => some [fld 16 1, fld 17 1, rsv 18 38, fld 56 8]
  | 0x66 => some [fld 16 2, fld 18 2, rsv 20 36, fld 56 8]
  | 0x67 => some [fld 16 8, rsv 24 32, fld 56 8]
  | 0x68 => some [fld 16 4, rsv 20 36, fld 56 8]
  | _ => none

/-- Opcodes that carry the block tag of Table 8.2 (R219), and those with MB and BLOCK alone. -/
def carriesTag (op : Nat) : Bool := [0x10, 0x11, 0x18, 0x19, 0x20, 0x21, 0x22, 0x39, 0x01].contains op
def carriesBlock (op : Nat) : Bool := [0x28, 0x29, 0x2A].contains op

/-- Header of Table 11.2 for an opcode (R321, R334). -/
def headerFields (op : Nat) : List Field :=
  let crit := decide (0x60 ≤ op)
  [fld 0 1, ⟨1, 1, 7⟩, rsv 2 2, if crit then rsv 4 4 else fld 4 4] ++
  (if carriesTag op then [fld 8 3, ⟨11, 1, 0x8F⟩] else if carriesBlock op then [fld 8 3, ⟨11, 1, 0x0F⟩] else [rsv 8 4]) ++
  (if crit then [rsv 12 2] else [fld 12 1, ⟨13, 1, 0x8F⟩]) ++ [rsv 14 2]

/-- The fields that hold a bit they may not hold. -/
def faultyFields (slot : List Byte) (l : List Field) : List Nat :=
  (l.filter fun f => leNat ((slot.drop f.off).take f.len) &&& (full f.len - f.mask) != 0).map Field.off

/-- A critical command that is a message has no ring; this number stands for none. It names no structure by address (R417). -/
def noRing : Nat := 64

/-- Fields whose value lies outside what the command defines: (field, its value is allowed). -/
def valueChecks (s : State) (c : Cmd) : List (Nat × Bool) :=
  let inlineOk (k : MoverKind) : List (Nat × Bool) :=
    if bitAt (c.u8 17) 0 then
      [(20, decide (1 ≤ c.u 20 4) && decide (c.u 20 4 ≤ 65536)), (24, c.u 24 8 % 32 == 0 && !s.rangeBad (c.u 24 8) (32 * c.u 20 4))]
    else
      let t := transferOf (c.slot.drop 32)
      [(48, decide (0 < t.length)), (54, wrapOk t.swrap && (match k with | .fill => t.swrap == 0 | _ => true)),
       (55, wrapOk t.dwrap && (t.dwrap == 0 || decide (t.length ≤ 2 ^ t.dwrap))),
       (32, !wrapOk t.swrap || s.sourceOk k t), (40, !wrapOk t.dwrap || s.destOk t)]
  let td (o : Nat) : Nat × Bool := (o, c.u o 8 % 64 == 0 && !s.rangeBad (c.u o 8) 64)
  let td0 (o : Nat) : Nat × Bool := (o, c.u o 8 == 0 || (c.u o 8 % 64 == 0 && !s.rangeBad (c.u o 8) 64))
  let record : Bool := c.u 48 8 % 64 == 0 && !isHost (c.u 48 8) && !s.rangeBad (c.u 48 8) 128
  let list (a n : Nat) : Nat × Bool :=
    (a, if c.u n 8 = 2 ^ 64 - 1 then c.u a 8 % 64 == 0 && !s.rangeBad (c.u a 8) 64
      else !s.rangeBad (c.u a 8) (8 * c.u n 8))
  let named (n : Nat) : Bool := c.ring == noRing || !s.rangeBad (c.u 16 8) n
  match c.opcode with
  | 0x01 => (16, decide (c.u8 16 < 64)) :: inlineOk .move
  | 0x02 => (16, decide (c.u8 16 < 64)) :: inlineOk .fill
  | 0x03 => (16, decide (c.u8 16 < 64)) :: inlineOk .cmpr
  | 0x08 => [(16, decide (c.u 16 2 < 4096))]
  | 0x09 => [(16, decide (c.u 16 2 < 4096))]
  | 0x0A => [(16, !(bitAt (c.u8 16) 1 && bitAt (c.u8 16) 2))]
  | 0x10 => [td 16, td 24, (32, c.u 32 8 == 0 || (c.u 32 8 % 64 == 0 && !s.rangeBad (c.u 32 8) 128)),
      (40, c.u 40 8 == 0 || (c.u 40 8 % 32 == 0 && !s.rangeBad (c.u 40 8) 32))]
  | 0x11 => [td 16, td 24, (32, c.u 32 8 == 0 || (c.u 32 8 % 64 == 0 && !s.rangeBad (c.u 32 8) 128)),
      (40, c.u 40 8 == 0 || (c.u 40 8 % 32 == 0 && !s.rangeBad (c.u 40 8) 32))]
  | 0x12 => [list 24 32]
  | 0x13 => [(16, c.u 16 8 % 64 == 0 && !s.rangeBad (c.u 16 8) 128)]
  | 0x18 => [td 16, td 24, td 32,
      (41, c.u8 41 == 0 || (decide (2 ≤ c.u8 41) && decide (c.u8 41 ≤ 2 ^ (2 * (c.u8 40 % 4)))))]
  | 0x19 => [(16, c.u 16 8 % 64 == 0 && !s.rangeBad (c.u 16 8) 192)]
  | 0x20 => [(48, decide (c.u8 48 ≤ 0x0D)), td 16,
      (24, !(decide (1 ≤ c.u8 48) && (decide (c.u8 48 ≤ 5) || c.u8 48 == 7 || c.u8 48 == 9 || c.u8 48 == 12 || c.u8 48 == 13)) || (td 24).2),
      (32, !(c.u8 48 == 12 || c.u8 48 == 13) || (td 32).2), td 40]
  | 0x21 => [td 16, td 24, td0 32, td 40]
  | 0x22 => [td 16, td 24]
  | 0x28 => [td 16, (24, c.u8 24 == 1 || c.u8 24 == 3)]
  | 0x30 => [(20, decide (c.u8 20 < 4)), (40, c.u 40 8 == 0 || (c.u8 20 != 0 && c.u 40 8 % 64 == 0))]
  | 0x31 => [(24, c.u 24 8 % 64 == 0 && !s.rangeBad (c.u 24 8) 64),
      (32, c.u 32 8 % 64 == 0 && !s.rangeBad (c.u 32 8) (64 + 8 * c.u 40 8))]
  | 0x38 => [(16, c.u 16 8 % 64 == 0 && !s.rangeBad (c.u 16 8) 128)]
  | 0x39 => (16, decide (c.u8 16 < 4)) ::
      (if c.u8 16 = 0 then [td 32, td 40, (48, c.u 48 8 == 0 || record), (56, c.u 56 8 == 0 || !s.rangeBad (c.u 56 8) 4)]
       else if c.u8 16 = 1 then [(48, c.u 24 4 == 0 || !s.rangeBad (c.u 48 8) (8 * c.u 24 4))]
       else if c.u8 16 = 2 then
         [(19, decide (c.u8 19 < 8)), (20, decide (c.u8 20 < 32)), (21, decide (c.u8 21 < 16)), (48, c.u 48 8 != 0 && record)]
       else [(48, c.u 48 8 != 0 && record)])
  | 0x40 => [(16, c.u 16 8 % 4096 == 0 && !s.rangeBad (c.u 16 8) (2 ^ 21)), (24, decide (2048 ≤ c.u 24 4))]
  | 0x41 => [(16, decide (c.u8 16 < 3)), (24, (c.u8 16 == 0) || (c.u8 16 == 1 && c.u 24 8 % 64 == 0 && !s.rangeBad (c.u 24 8) 2048)
      || (c.u8 16 == 2 && c.u 24 8 % 4096 == 0 && !s.rangeBad (c.u 24 8) (4096 + 48 * 2 ^ 20)))]
  | 0x48 => (16, decide (c.u8 16 < 6)) ::
      (17, if c.u8 16 = 0 then c.u8 17 == 0 else if c.u8 16 = 1 then c.u8 17 == 1 else if c.u8 16 = 5 then c.u8 17 == 3
        else c.u8 17 == 2 || c.u8 17 == 3) ::
      (if c.u8 16 = 5 then [list 40 48]
       else if c.u8 17 = 1 ∨ c.u8 17 = 2 then [(24, !s.rangeBad (c.u 24 8) (4 * c.u 32 4))] else [])
  | 0x60 => [(16, c.ring == noRing || (c.u 16 8 % 64 == 0 && named 1024))]
  | 0x61 => [(16, decide (c.u8 16 < 3))]
  | 0x63 => [(16, c.ring == noRing || isHost (c.u 16 8))]
  | 0x64 => (28, decide (c.u8 28 < 2)) ::
      (if c.ring = noRing ∧ c.u8 28 = 0 then []
       else if c.u8 28 = 0 then [(16, c.u 16 8 % 64 == 0 && named 1024), (24, c.u 24 4 == 1024)]
       else [(16, named (8 * c.u 24 4)), (24, c.u 24 4 != 0 && decide (c.u 24 4 ≤ 1280))])
  | 0x65 => [(16, decide (c.u8 16 < 64)), (17, decide (c.u8 17 ≤ 16))]
  | 0x66 => [(16, c.u 16 2 == 0 || (c.u 16 2 % 10 == 0 && decide (450 ≤ c.u 16 2) && decide (c.u 16 2 ≤ 1000))),
      (18, c.u 18 2 == 0 || (c.u 18 2 % 64 == 0 && decide (256 ≤ c.u 18 2) && decide (c.u 18 2 ≤ 3072)))]
  | 0x67 => [(16, c.u 16 8 == 0 || named 512)]
  | 0x68 => [(16, c.u 16 4 != 0 && decide (c.u 16 4 < 16))]
  | _ => []

/-- Commands that may carry STEP 0xFFFF_FFFF (R319): MOVE, FILL, CMPR, WAIT, SGNL, FENC, LOAD, SNAP, CNTR, SCAL RESET
and CLRFLAG, MAINT other than LEVELS. -/
def mayBeStepless (c : Cmd) : Bool :=
  [0x01, 0x02, 0x03, 0x08, 0x09, 0x0A, 0x13, 0x40, 0x41].contains c.opcode ||
    (c.opcode == 0x39 && (c.u8 16 == 2 || c.u8 16 == 3)) || (c.opcode == 0x48 && c.u8 16 != 5)

/-- The offsets of all faulty fields (R318 item 2, R319, R321). A critical command that runs without a session must hold zeros
in COUNTER and in its second slot (R335). -/
def descFaults (s : State) (c : Cmd) (extBase : Nat) (body : List Field) : List Nat :=
  let sessionless := c.opcode == 0x60 || c.opcode == 0x63 || (c.opcode == 0x64 && c.u8 28 == 0)
  faultyFields c.slot (headerFields c.opcode ++ body) ++
  (if c.ext && extBase == 0 then [1] else []) ++
  (if !c.critical && c.step == 0xFFFFFFFF && !mayBeStepless c then [4] else []) ++
  ((valueChecks s c).filter fun p => !p.2).map Prod.fst ++
  (if sessionless && (c.u 56 8 != 0 || leNat c.slot2 != 0) then [56] else [])

/-- The byte offset of the first faulty field, if any (R318 item 2, Table 11.13). -/
def descFault (s : State) (c : Cmd) (extBase : Nat) : Option Nat :=
  match bodyFields c.opcode c.slot with
  | none => some 0
  | some body => (descFaults s c extBase body).min?

end Sys2Proof.Machine
end

