-- ==== Sys2Proof/Machine/TrustRows.lean ====
section
/-!
DEFINITION. The Trust Block (spec/15): authentication of critical commands, ownership, firmware, certificates, debug
unlock, and link IDE. SANI stands with the data side (Machine/Sani.lean); SPDM in Machine/Spdm.lean.
-/
namespace Sys2Proof.Machine

open Sys2Proof

/-- TB_NONCE: 32 octets of the draw in force. -/
def State.nonce (s : State) : List Byte := freshOctets s.tb.nonceDraw 32

/-- TB_NONCE takes a fresh value (R420, R426). -/
def State.renewNonce (s : State) : State :=
  { s with tb := { s.tb with nonceDraw := s.tb.draws, draws := s.tb.draws + 1 } }

/-- The critical command that a row runs: its slots, what follows them, its master, and its ring command. -/
structure CritCall where
  m : Master
  slot : List Byte
  slot2 : List Byte
  extra : List Byte
  seq : Option Nat
  deriving DecidableEq, Repr

def CritCall.u (k : CritCall) (i n : Nat) : Nat := leNat ((k.slot.drop i).take n)

/-- The message `sl` is accepted: nothing is in boot states 0 and 4, and in state 2 commands wait (Table 15.2), CLAIM under the
deadline of R404. A message that waits has no effect until the row of it that may run (log entry 155). -/
def State.takesMessage (s : State) (sl : List Byte) (op : Nat) : Bool :=
  (sl.getD 0 0).toNat == op && s.writesLand && (s.tb.boot != 2 || op == 0x60)

/-- The call that `x` names: a started ring command, or a message (R417). The debug port is a master only when unlocked
(R427). -/
def State.critCall (s : State) (x : Crit) (op : Nat) : Option CritCall :=
  match x with
  | .ring q =>
    match s.runnable q op with
    | some c => some { m := .host, slot := c.slot, slot2 := c.slot2, extra := [], seq := some q }
    | none => none
  | .mctp sl ex =>
    if s.takesMessage sl op then
      some { m := .bmc, slot := sl.take 64, slot2 := (sl.drop 64).take 64, extra := ex, seq := none }
    else none
  | .debug sl ex =>
    if s.takesMessage sl op ∧ s.tb.debugUnlocked then
      some { m := .debug, slot := sl.take 64, slot2 := (sl.drop 64).take 64, extra := ex, seq := none }
    else none

/-- TAG is the HMAC of the first slot and COUNTER exceeds the largest accepted one (R335). -/
def State.authentic (s : State) (m : Master) (slot slot2 : List Byte) : Bool :=
  match s.tb.session with
  | none => false
  | some e =>
    e.master == m && hmac512 e.key slot == slot2 &&
      (match e.counter with
       | none => true
       | some k => decide (k < leNat (slot.drop 56)))

/-- An authenticated command renews the lease (R422) and its COUNTER is the largest accepted. -/
def State.authAccept (s : State) (slot : List Byte) : State :=
  match s.tb.session with
  | none => s
  | some e => { s with tb := { s.tb with
      session := some { e with counter := some (leNat (slot.drop 56)) }, leaseFrom := s.now } }

/-- Completion record of a critical command that came over MCTP or the debug port (Table 11.10, R417). It has no ring:
INDEX and PHASE are 0 (assumption 12). -/
def critRecord (t : Status) (op detail : Nat) : List Byte :=
  natLe 4 0 ++ natLe 1 t.code ++ natLe 1 op ++ natLe 2 0 ++ natLe 8 (detail % 2 ^ 63)

/-- A critical command completes with `t`. -/
def State.critEnd (s : State) (k : CritCall) (t : Status) (detail : Nat) (response : List Byte := []) : State :=
  match k.seq with
  | some q =>
    match t with
    | .ok => s.deliver q
    | .authFail => s.refuseCmd q .authFail
    | .notOwner => s.refuseCmd q .notOwner
    | t => s.failCmd q t detail
  | none => s.emit (.critical k.m (critRecord t (k.u 0 1) detail) response)

/-- The status with which a message is turned away before it runs (R318, R335, Table 15.9): ring commands were checked
when they were fetched. `open_` marks a command that needs no session from this master now. -/
def State.critGate (s : State) (k : CritCall) (open_ : Bool) : Option (Status × Nat) :=
  match k.seq with
  | some _ => none
  | none =>
    let c : Cmd := {
      id := 0, ring := noRing, index := 0, slot := k.slot, slot2 := k.slot2, seq := none, stage := .accepted,
      conds := [], ind := 0, detail := 0, seed := 0, heldSince := none, startedAt := 0, checks := 0, deps := [],
      recordReady := none, recorded := false, tainted := false, unitRetired := false, repaired := false,
      retractions := 0, version := none, deltas := [], seeded := false, signalled := false, parent := none,
      children := [], hold := false }
    if ¬ open_ ∧ s.tb.session.elim true (fun e => e.master != k.m) then some (.notOwner, 0)
    else if ¬ open_ ∧ ¬ s.authentic k.m k.slot k.slot2 then some (.authFail, 0)
    else
      match descFault s c 1 with
      | some o => some (.badDescriptor, o)
      | none => none

/-- A message that passes R335 renews the lease and its COUNTER, whatever its descriptor then says (R422). -/
def State.critAccept (s : State) (k : CritCall) (open_ : Bool) : State :=
  if k.seq.isNone ∧ ¬ open_ ∧ s.authentic k.m k.slot k.slot2 then s.authAccept k.slot else s

/-- Run a critical command: its gate, the acceptance of an authenticated message, then its effect. -/
def State.critRun (s : State) (x : Crit) (op : Nat) (open_ : CritCall → Bool)
    (f : State → CritCall → State) : State :=
  match s.critCall x op with
  | none => s
  | some k =>
    let s := if k.seq.isNone then s.reachedBy k.m else s
    match s.critGate k (open_ k) with
    | some (t, d) => (s.critAccept k (open_ k)).critEnd k t d
    | none => f (s.critAccept k (open_ k)) k

/-- A structure that the command names by address, or that follows its slots in a message (R417). -/
def State.critBlock (s : State) (k : CritCall) (addr n : Nat) : List Byte :=
  match k.seq with
  | some _ => s.rd addr n
  | none => (k.extra ++ List.replicate n 0).take n

/-- A read of that structure fails. -/
def State.critReadFail (s : State) (k : CritCall) (addr n : Nat) : Option (Nat × Bool) :=
  match k.seq with
  | some _ => s.rdFail addr n
  | none => none

/-- Bytes `[lo, lo + n)` are zero. -/
def zeroAt (l : List Byte) (lo n : Nat) : Bool := leNat ((l.drop lo).take n) == 0

/-! ### CLAIM -/

/-- A field of the certificate in force; zero under the factory defaults (R410). -/
def State.certBytes (s : State) (lo n : Nat) : List Byte :=
  match s.tb.cert with
  | none => List.replicate n 0
  | some c => (c.drop lo).take n

/-- IDE_REQUIRED and the stream is not Secure (R416). -/
def State.ideLacking (s : State) : Bool := bitAt s.permit 4 && !s.tb.ideActive

/-- The reserved bytes of a CLAIM block's first half are zero and VERSION is 1 (Table 15.8). -/
def claimForm (b : List Byte) : Bool :=
  leNat (b.take 4) == 1 && zeroAt b 5 3 && zeroAt b 40 24 && zeroAt b 196 60 && zeroAt b 388 124

/-- R418: the CLAIM is valid. -/
def State.claimValid (s : State) (m : Master) (b : List Byte) : Bool :=
  let slot := (b.getD 4 0).toNat
  let nkeys := leNat (s.certBytes 36 1)
  s.tb.boot == 3 && (b.drop 8).take 32 == s.nonce && (ecPoint ((b.drop 64).take 132)).isSome &&
  ((bitAt s.permit 0 && slot == 0xFF) ||
    (decide (slot < nkeys) &&
      ecdsaVerify (s.certBytes (196 + 132 * slot) 132) (sha512 (b.take 256)) ((b.drop 256).take 132))) &&
  (m != .debug || s.tb.debugUnlocked) && !(m == .host && s.ideLacking)

/-- Precedence of masters whose CLAIMs are decided in one cycle (R419). -/
def masterRank : Master → Nat
  | .host => 0
  | .bmc => 1
  | .debug => 2

/-- A CLAIM decided in this cycle for a master after `m` in precedence, which gives way to one of `m` (R419). -/
def State.claimYields (s : State) (m : Master) : Option ClaimPending :=
  s.tb.claim.filter fun p => p.decidedAt == s.now && decide (masterRank m < masterRank p.master)

/-- That CLAIM completes with NOT_OWNER (R419). -/
def State.yieldClaim (s : State) (m : Master) : State :=
  match s.claimYields m with
  | some p => s.critEnd { m := p.master, slot := [0x60], slot2 := [], extra := [], seq := p.seq } .notOwner 0
  | none => s

/-- R419: a valid CLAIM of `m` makes it owner. -/
def State.claimWins (s : State) (m : Master) : Bool :=
  (s.tb.claim.isNone || (s.claimYields m).isSome) &&
  (match s.tb.own with
   | .vacant => true
   | .owned n => n == m
   | .handover n _ => n == m)

/-- "Rolkin session" (R420). -/
def sessionInfo : List Byte := [0x52, 0x6F, 0x6C, 0x6B, 0x69, 0x6E, 0x20, 0x73, 0x65, 0x73, 0x73, 0x69, 0x6F, 0x6E]

/-- The response bytes 512 to 1,023 and the session key (R420, Table 15.8), from fresh draws `d` and `d + 1`. -/
def claimResponse (b : List Byte) (d : Nat) : List Byte × List Byte :=
  let e := freshScalar d
  let me := ecPublic e
  let digest := sha512 (b.take 512 ++ me)
  let sig := ecdsaSign (Config.idScalar % (ecN - 1) + 1) (freshScalar (d + 1)) digest
  (me ++ List.replicate 124 0 ++ sig ++ List.replicate 124 0, hkdf64 (ecdhX e ((b.drop 64).take 132)) digest sessionInfo)

/-- CLAIM (R418 to R420): decided here; ownership takes effect when the response has been written. A valid re-CLAIM renews the
lease when it is decided (R422). -/
def State.claim (s : State) (k : CritCall) : State :=
  let a := k.u 16 8
  if k.seq.isSome ∧ (a % 64 ≠ 0 ∨ s.rangeBad a 1024) then s.critEnd k .badDescriptor 16
  else
    match s.critReadFail k a 512 with
    | some f => s.critEnd k (if f.2 then .uncorrectableMemory else .hostBusError) f.1
    | none =>
      let b := s.critBlock k a 512
      if ¬ claimForm b then s.critEnd k .badDescriptor 0xFF
      else if ¬ s.claimValid k.m b then s.critEnd k .authFail 0
      else if ¬ s.claimWins k.m then s.critEnd k .notOwner 0
      else
        let s0 := s.yieldClaim k.m
        let r := claimResponse b s0.tb.draws
        let s1 := { s0 with tb := { s0.tb with
          draws := s0.tb.draws + 2
          leaseFrom := if s0.owns k.m then s0.now else s0.tb.leaseFrom
          claim := some { master := k.m, seq := k.seq, addr := a, response := r.1, key := r.2, decidedAt := s.now } } }
        match k.seq with
        | some q => s1.updCmd q fun c => { c with stage := .running }
        | none => s1

/-- Since when the CLAIM message of `m` is held. -/
def State.claimSince (s : State) (m : Master) : Nat := ((s.tb.claimHeld.find? fun p => p.1 == m).map (·.2)).getD s.now

/-- The CLAIM message of `m` is held no more. -/
def State.unholdClaim (s : State) (m : Master) : State :=
  { s with tb := { s.tb with claimHeld := s.tb.claimHeld.filter fun p => p.1 != m } }

/-- A CLAIM that came as a message is held until the firmware is ready, under HOLD_MS, like a ring's (R404, R450). -/
def State.holdClaim (s : State) (k : CritCall) : State :=
  if k.seq.isSome ∨ s.readyKey 2 then (s.unholdClaim k.m).claim k
  else if s.failedKey 2 ∨ s.claimSince k.m + s.holdMs * 1000000 < s.now then
    (s.unholdClaim k.m).critEnd k .notReadyTimeout 0
  else { s with tb := { s.tb with claimHeld := (k.m, s.claimSince k.m) :: s.tb.claimHeld.filter fun p => p.1 != k.m } }

def execClaim (x : Crit) (s : State) : Out := .next (s.critRun x 0x60 (fun _ => true) State.holdClaim)

/-- The host has become owner: rings that stopped fetching under R320 fetch again. -/
def State.releaseRings (s : State) : State :=
  let open_ : Tab Ring := s.hg.rings.map fun p => (p.1, { p.2 with refusedStop := false })
  { s with hg := { s.hg with rings := open_.filter fun p => p.2 != Ring.initial } }

/-- CLAIM_RESPONSE_WRITE_END (R420): the write of MEPUB and MSIG has completed, or failed at an address. After a successful
CLAIM there is no newest step (R216). -/
def State.claimWritten (s : State) (ok : Bool) : State :=
  match s.tb.claim with
  | none => s
  | some p =>
    let s1 := ({ s with tb := { s.tb with claim := none } }).renewNonce
    let k : CritCall := { m := p.master, slot := [0x60], slot2 := [], extra := [], seq := p.seq }
    let fail := if p.seq.isSome then s.rdFail (p.addr + 512) 512 else none
    match ok, fail with
    | true, none =>
      let s2 := if p.seq.isSome then s1.wr (p.addr + 512) p.response else s1
      let s3 := ({ s2 with tb := { s2.tb with
        session := some { master := p.master, key := p.key, counter := none }, leaseFrom := p.decidedAt } }).setOwn (.owned p.master)
      let s4 := if p.master = .host then s3.releaseRings else s3
      ({ s4 with hg := { s4.hg with newest := none } }).critEnd k .ok 0 p.response
    | _, f => s1.critEnd k .hostBusError ((f.getD (p.addr + 512, false)).1)

def execClaimResponseWriteEnd (ok : Bool) (s : State) : Out := .next (s.claimWritten ok)

/-! ### HAND, LEAS, QOVR, PLIM -/

/-- The master that a HAND body names. -/
def masterOf (n : Nat) : Master := if n = 0 then .host else if n = 1 then .bmc else .debug

/-- HAND (R424): the session ends and ownership is pending for the successor for 10 s. -/
def State.hand (s : State) (k : CritCall) : State :=
  let m := masterOf (k.u 16 1)
  if (m = .debug ∧ ¬ s.tb.debugUnlocked) ∨ (m = .host ∧ s.ideLacking) then s.critEnd k .badDescriptor 16
  else
    (({ s with tb := { s.tb with session := none } }).setOwn (.handover m (s.now + 10000000000))).critEnd k .ok 0

def execHand (x : Crit) (s : State) : Out := .next (s.critRun x 0x61 (fun _ => false) State.hand)

/-- LEAS (R422): the lease was renewed when the command was authenticated. -/
def State.leas (s : State) (k : CritCall) : State := s.critEnd k .ok 0

def execLeas (x : Crit) (s : State) : Out := .next (s.critRun x 0x62 (fun _ => false) State.leas)

/-- QOVR (R316, Table 11.9): 0 stands for the default of 4. -/
def State.qovr (s : State) (k : CritCall) : State :=
  let n := k.u 17 1
  ({ s with hg := { s.hg with
    quota := Tab.set (fun _ => 4) s.hg.quota (k.u 16 1) (if n = 0 then 4 else n) } }).critEnd k .ok 0

def execQovr (x : Crit) (s : State) : Out := .next (s.critRun x 0x65 (fun _ => false) State.qovr)

/-- PLIM (R24, R28, R337): a field of 0 stays unchanged. -/
def State.plim (s : State) (k : CritCall) : State :=
  let w := k.u 16 2
  let c := k.u 18 2
  ({ s with ld := { s.ld with
    inputLimit := if w = 0 then s.ld.inputLimit else w, cap := if c = 0 then s.ld.cap else c } }).critEnd k .ok 0

def execPlim (x : Crit) (s : State) : Out := .next (s.critRun x 0x66 (fun _ => false) State.plim)

/-! ### DBGU -/

/-- R426: the token unlocks the debug port. -/
def State.tokenGood (s : State) (b : List Byte) : Bool :=
  bitAt s.permit 3 && !zeroAt (s.certBytes 724 132) 0 132 && leNat (b.take 4) == 0x47424455 &&
  (b.drop 8).take 16 == idDigest.take 16 && (b.drop 24).take 32 == s.nonce && zeroAt b 56 200 && zeroAt b 388 124 &&
  decide (leNat ((b.drop 4).take 4) < 4) &&
  ecdsaVerify (s.certBytes 724 132) (sha512 (b.take 256)) ((b.drop 256).take 132)

/-- DBGU with a token (R426). -/
def State.dbgu (s : State) (k : CritCall) : State :=
  let a := k.u 16 8
  if k.seq.isSome ∧ s.rangeBad a 512 then s.critEnd k .badDescriptor 16
  else
    match s.critReadFail k a 512 with
    | some f => s.critEnd k (if f.2 then .uncorrectableMemory else .hostBusError) f.1
    | none =>
      let b := s.critBlock k a 512
      if ¬ s.tokenGood b then s.critEnd k .authFail 0
      else
        (({ s with tb := { s.tb with
          debugUnlocked := true, debugScope := leNat ((b.drop 4).take 4) } }).renewNonce).critEnd k .ok 0

/-- In a message the address field is zero in either form: a token follows the slots when the port is to be unlocked. -/
def CritCall.isLock (k : CritCall) : Bool := k.u 16 8 == 0 && (k.seq.isSome || k.extra.isEmpty)

def execDbgu (x : Crit) (s : State) : Out :=
  .next (s.critRun x 0x67 (fun _ => false) fun s k => if k.isLock then s else s.dbgu k)

/-- DBGU with address zero (R426): the port is locked again, and its ownership ends. -/
def State.dbguLock (s : State) (k : CritCall) : State :=
  let s1 := { s with tb := { s.tb with debugUnlocked := false } }
  (if s1.owns .debug then s1.vacate else s1).critEnd k .ok 0

def execDbguLock (x : Crit) (s : State) : Out :=
  .next (s.critRun x 0x67 (fun _ => false) fun s k => if k.isLock then s.dbguLock k else s)

/-! ### Firmware -/

/-- Checks 2 of Table 15.4 on the first 4,096 bytes. -/
def imageForm (b : List Byte) (len : Nat) : Bool :=
  leNat (b.take 4) == 0x57534645 && leNat ((b.drop 4).take 4) == 1 && zeroAt b 12 4 &&
  leNat ((b.drop 16).take 8) == len && zeroAt b 24 40 && zeroAt b 196 3900

/-- The security version floor in force (R411). -/
def State.svnFloor (s : State) : Nat := leNat (s.certBytes 24 4)

/-- R405: the number of the check of Table 15.4 that fails, the failing address, the image's digest and SVN. -/
def State.verifyImage (s : State) (q a len : Nat) : FwPending :=
  let bad (n addr : Nat) : FwPending := { seq := q, failing := some n, failAddr := addr, digest := [], svn := 0 }
  if len < 4229 ∨ 67108864 < len then bad 2 a
  else
    match s.rdFail a 4096 with
    | some f => bad 1 f.1
    | none =>
      let h := s.rd a 4096
      if ¬ imageForm h len then bad 2 a
      else
        match s.rdFail (a + 4096) (len - 4096) with
        | some f => bad 1 f.1
        | none =>
          let img := s.rd a len
          let key := (h.drop 64).take 132
          let svn := leNat ((h.drop 8).take 4)
          if sha512 key ≠ constOctets 64 Config.vendorKeyDigest.toNat then bad 3 a
          else if ¬ ecdsaVerify key (sha512 (img.take (len - 132))) (img.drop (len - 132)) then bad 4 a
          else if svn < s.svnFloor then bad 5 a
          else { seq := q, failing := none, failAddr := 0, digest := sha512 img, svn := svn }

/-- FWLD (R405): only from a host ring and only in state 1; the boot state becomes 2 while the image is verified. -/
def State.fwld (s : State) (k : CritCall) : State :=
  match k.seq with
  | none => s.critEnd k (if s.owns k.m then .badDescriptor else .notOwner) 0
  | some q =>
    let a := k.u 16 8
    if s.tb.boot ≠ 1 then s.critEnd k .badDescriptor 0
    else if ¬ isHost a then s.critEnd k .badDescriptor 16
    else
      ({ s with tb := { s.tb with boot := 2, fw := some (s.verifyImage q a (k.u 24 8)) } }).updCmd q
        fun c => { c with stage := .running }

def execFwld (x : Crit) (s : State) : Out := .next (s.critRun x 0x63 (fun _ => true) State.fwld)

/-- FIRMWARE_VERIFY_END (R406). -/
def State.verifyEnd (s : State) : State :=
  match s.tb.fw with
  | none => s
  | some p =>
    match p.failing with
    | some n =>
      let s1 := { s with tb := { s.tb with boot := 1, fw := none, lastFwld := if n = 1 then 6 else n } }
      if n = 1 then s1.failCmd p.seq .hostBusError p.failAddr else s1.refuseCmd p.seq .authFail
    | none =>
      { s with tb := { s.tb with
        boot := 3, fw := none, lastFwld := 1, fwDigest := p.digest, svn := p.svn, fwWaiting := some p.seq } }

def execFirmwareVerifyEnd (s : State) : Out := .next s.verifyEnd

/-! ### CFGC -/

/-- R408: the certificate is accepted. -/
def certGood (b : List Byte) : Bool :=
  leNat (b.take 4) == 0x47464343 && leNat ((b.drop 4).take 2) == 1 && zeroAt b 6 2 && zeroAt b 37 27 && zeroAt b 856 36 &&
  decide (leNat ((b.drop 28).take 4) < 32) &&
  decide ((b.getD 36 0).toNat ≤ 4) && decide (1000 ≤ leNat ((b.drop 32).take 4)) && decide (leNat ((b.drop 32).take 4) ≤ 60000) &&
  zeroAt b (196 + 132 * (b.getD 36 0).toNat) (528 - 132 * (b.getD 36 0).toNat) &&
  (zeroAt b 8 16 || (b.drop 8).take 16 == idDigest.take 16) &&
  ecdsaVerify ((b.drop 64).take 132) (sha512 (b.take 892)) ((b.drop 892).take 132)

/-- CFGC of KIND 0 (R408, R409). -/
def State.cfgcCert (s : State) (k : CritCall) : State :=
  let a := k.u 16 8
  if k.seq.isNone then s.critEnd k (if s.owns k.m then .badDescriptor else .notOwner) 0
  else if s.tb.boot ≠ 1 ∨ s.tb.cert.isSome then s.critEnd k .badDescriptor 0
  else if a % 64 ≠ 0 ∨ s.rangeBad a 1024 then s.critEnd k .badDescriptor 16
  else if k.u 24 4 ≠ 1024 then s.critEnd k .badDescriptor 24
  else
    match s.rdFail a 1024 with
    | some f => s.critEnd k (if f.2 then .uncorrectableMemory else .hostBusError) f.1
    | none =>
      let b := s.rd a 1024
      if certGood b then ({ s with tb := { s.tb with cert := some b } }).critEnd k .ok 0
      else s.critEnd k .authFail 0

def execCfgcCertificate (x : Crit) (s : State) : Out :=
  .next (s.critRun x 0x64 (fun k => k.u 28 1 == 0) fun s k => if k.u 28 1 = 0 then s.cfgcCert k else s)

/-! ### Expiries and link IDE -/

/-- LEASE_EXPIRY (R422). While a decided CLAIM reserves the module, ownership stays (R420). -/
def execLeaseExpiry (s : State) : Out :=
  .next (match s.tb.own with
    | .owned _ => if s.tb.claim.isNone ∧ s.leaseEnd < s.now then s.vacate else s
    | _ => s)

/-- HANDOVER_EXPIRY (R424), likewise. -/
def execHandoverExpiry (s : State) : Out :=
  .next (match s.tb.own with
    | .handover _ t => if s.tb.claim.isNone ∧ t < s.now then s.vacate else s
    | _ => s)

/-- IDE_KM_MESSAGE (R416): keys over a secured SPDM session on DOE bring the link IDE stream into the Secure state. -/
def execIdeKmMessage (keys : List Byte) (s : State) : Out :=
  .next (if s.tb.spdmDoe.secured then { s with tb := { s.tb with ideActive := true, ideKeys := keys } } else s)

/-- IDE_SECURE_EXIT (R416): the stream leaves the Secure state; the host's ownership ends at once. -/
def execIdeSecureExit (s : State) : Out :=
  .next (
    let s1 := { s with tb := { s.tb with ideActive := false } }
    if s.tb.ideActive ∧ s.owns .host then s1.vacate else s1)

/-- IDENTITY_REGENERATED (R402): the regenerated key matches its digest in flash, or boot state 4. -/
def execIdentityRegenerated (ok : Bool) (s : State) : Out :=
  .next (
    if s.tb.boot ≠ 0 ∨ s.ld.pwr = .a3 then s
    else if ok then ({ s with tb := { s.tb with boot := 1, identity := true } }).setReady 1
    else ({ s with tb := { s.tb with boot := 4 } }).setFailed 1)

end Sys2Proof.Machine
end

