-- ==== Sys2Proof/Machine/Needs.lean ====
section
/-!
DEFINITION. What a command needs before it starts (Table 16.5, R144, R284), the references that it takes at its start
(R131, R224), what becoming clear does (R285, R293), FENC with RESTART (R328) and the whole-step replay (R298).
-/
namespace Sys2Proof.Machine

open Sys2Proof

/-! ### Memory -/

/-- A named descriptor and everything that its tensor occupies; nothing for address 0. -/
def State.tdNeeds (s : State) (a : Nat) : List (Nat × Nat) :=
  if a = 0 then [] else (a, 64) :: ((s.tdAt a).ranges ++ (s.tdAt a).histRange)

/-- The element, scale and lane planes of a named output. -/
def State.tdOut (s : State) (a : Nat) : List (Nat × Nat) := if a = 0 then [] else (s.tdAt a).ranges

/-- Transfers of MOVE, FILL or CMPR. -/
def State.moverTransfers (s : State) (c : Cmd) : List Transfer :=
  if bitAt (c.u8 17) 0 then (List.range (c.u 20 4)).map fun i => transferOf (s.rd (c.u 24 8 + 32 * i) 32)
  else [transferOf (c.slot.drop 32)]

/-- VECT operations that use B, and C. -/
def vectUsesB (op : Nat) : Bool := decide (1 ≤ op) && (decide (op ≤ 5) || op == 7 || op == 9 || op == 12 || op == 13)
def vectUsesC (op : Nat) : Bool := op == 12 || op == 13

/-- The entry that RECL restores, or from which RECOMP sets out. -/
def State.entryFor (s : State) (c : Cmd) : Option HamperEntry :=
  if c.opcode = 0x29 then s.entry c.step c.mb c.block else if c.opcode = 0x2A then s.sourceEntry c else none

/-- What an XCHG writes at MIRROR_BASE: parts of shards that a reform gave to this rank, and the ward's (R264, R267). -/
def State.mirrorWrites (s : State) (x : Xchg) : List (Nat × Nat) :=
  ((s.ownedRanks.filter (· != s.rank) ++ if s.buddyOn then [s.ward] else []).eraseDups).filterMap fun o =>
    let r := s.partRange o x.bucket
    if r.1 < r.2 then some (x.mirrorBase + 4 * (r.1 - s.shardLo o), 4 * (r.2 - r.1)) else none

/-- What a command writes: destinations outside the module decide R284. -/
def State.ownWrites (s : State) (c : Cmd) : List (Nat × Nat) :=
  match c.opcode with
  | 0x01 | 0x02 => (s.moverTransfers c).flatMap fun t => pieces t.dst t.dwrap t.length
  | 0x10 | 0x11 => s.tdOut (c.u 24 8)
  | 0x18 => s.tdOut (c.u 32 8)
  | 0x19 =>
    let a := c.u 16 8
    let x := s.attn a
    (if x.stats = 0 then [] else [(x.stats, 8 * x.q.rows)]) ++
      (if bitAt (c.u8 24) 0 then x.dq.ranges ++ x.dk.ranges ++ x.dv.ranges else x.y.ranges)
  | 0x20 => s.tdOut (c.u 40 8)
  | 0x21 => s.tdOut (c.u 40 8)
  | 0x22 => s.tdOut (c.u 24 8)
  | 0x29 | 0x2A => (match s.entryFor c with | some e => (tdOf e.src).ranges | none => [])
  | 0x30 =>
    let x := c.xchg
    let n := s.bucketLen x.bucket
    let r := s.partRange s.rank x.bucket
    (if x.errmem = 0 then [] else [(x.errmem, 64 + 2 * planeBytes n)]) ++
      (if r.1 < r.2 then [(x.shardBase + 4 * (r.1 - s.shardLo s.rank), 4 * (r.2 - r.1))] else []) ++
      s.mirrorWrites x
  | 0x31 => [(c.u 32 8, 64 + 8 * c.u 40 8)]
  | 0x38 =>
    let p := updtOf (s.rd (c.u 16 8) 128)
    p.planes ++ if p.list = 0 then [] else [(p.list, 64 + 8 * p.count)]
  | 0x39 => if c.u8 16 = 0 then s.tdOut (c.u 40 8) ++ (if c.u 56 8 = 0 then [] else [(c.u 56 8, 4)]) else []
  | 0x40 => [(c.u 16 8, 2 ^ 21)]
  | 0x41 => if c.u8 16 = 1 then [(c.u 24 8, 2048)] else if c.u8 16 = 2 then [(c.u 24 8, 4096 + 48 * 2 ^ 20)] else []
  | _ => []

/-- What a command reads. -/
def State.ownReads (s : State) (c : Cmd) : List (Nat × Nat) :=
  match c.opcode with
  | 0x01 | 0x02 | 0x03 =>
    (if bitAt (c.u8 17) 0 then [(c.u 24 8, 32 * c.u 20 4)] else []) ++
      (if c.opcode = 0x02 then [] else (s.moverTransfers c).flatMap fun t => pieces t.src t.swrap t.length) ++
      (if c.opcode = 0x03 then (s.moverTransfers c).flatMap fun t => pieces t.dst t.dwrap t.length else [])
  | 0x10 | 0x11 =>
    s.tdNeeds (c.u 16 8) ++ s.tdNeeds (c.u 24 8) ++
      (if c.u 32 8 = 0 then [] else s.tdNeeds (c.u 32 8) ++ s.tdNeeds (c.u 32 8 + 64)) ++
      (if c.u 40 8 = 0 then [] else [(c.u 40 8, 32)]) ++
      (match s.resident (c.u 48 4) with
       | some t => if t.tdig && c.opcode == 0x11 then [(t.h, 2 * t.k * t.n)]
           else (s.localPairs t).map fun p => t.imageRange (t.pair p.1 p.2)
       | none => [])
  | 0x12 => if c.u 32 8 = 2 ^ 64 - 1 then [(c.u 24 8, 64)] else [(c.u 24 8, 8 * c.u 32 8)]
  | 0x13 =>
    let b := loadBlock (s.rd (c.u 16 8) 128) 0
    let n := b.t.segments * b.t.groups
    [(c.u 16 8, 128), (b.map, 8 * n), (b.t.h, 2 * b.t.k * b.t.n), (b.t.nu, b.t.remBits / 8 * b.t.k * b.t.n),
      (b.t.limg, 0x80000 * n)]
  | 0x18 => s.tdNeeds (c.u 16 8) ++ s.tdNeeds (c.u 24 8) ++ s.tdNeeds (c.u 32 8)
  | 0x19 => (c.u 16 8, 192) :: (s.attnTds (c.u 16 8) (bitAt (c.u8 24) 0)).flatMap s.tdNeeds
  | 0x20 => s.tdNeeds (c.u 16 8) ++ (if vectUsesB (c.u8 48) then s.tdNeeds (c.u 24 8) else []) ++
      (if vectUsesC (c.u8 48) then s.tdNeeds (c.u 32 8) else []) ++ s.tdNeeds (c.u 40 8)
  | 0x21 => s.tdNeeds (c.u 16 8) ++ s.tdNeeds (c.u 24 8) ++ s.tdNeeds (c.u 32 8) ++ s.tdNeeds (c.u 40 8)
  | 0x22 => s.tdNeeds (c.u 16 8) ++ s.tdNeeds (c.u 24 8)
  | 0x28 =>
    let t := s.tdAt (c.u 16 8)
    s.tdNeeds (c.u 16 8) ++ (s.placeUnits s.ham.stored (min 8 (unitsFor (t.rows * t.cols * fmtBytes c.stashFmt)))).map fun a => (a, 1)
  | 0x29 | 0x2A => (match s.entryFor c with | some e => e.units.map fun a => (a, 4096) | none => [])
  | 0x30 => (c.xchg.src, 4 * s.bucketLen c.xchg.bucket) :: (if s.laneBytes = 0 then [] else [(s.laneBase, s.laneBytes)])
  | 0x31 => [(c.u 24 8, 64)]
  | 0x38 =>
    let p := updtOf (s.rd (c.u 16 8) 128)
    (c.u 16 8, 128) :: (p.grad, 4 * p.count) :: p.planes
  | 0x39 =>
    if c.u8 16 = 0 then s.tdNeeds (c.u 32 8) ++ s.tdNeeds (c.u 40 8) ++ (if c.u 48 8 = 0 then [] else [(c.u 48 8, 128)])
    else if c.u8 16 = 1 then (c.u 48 8, 8 * c.u 24 4) :: (s.closeList c).map fun a => (a, 128)
    else [(c.u 48 8, 128)]
  | 0x48 => if c.u8 16 = 5 then [(c.u 40 8, 64)] else if c.u8 17 = 1 ∨ c.u8 17 = 2 then [(c.u 24 8, 4 * c.u 32 4)] else []
  | 0x60 => [(c.u 16 8, 1024)]
  | 0x63 | 0x64 => [(c.u 16 8, c.u 24 4)]
  | 0x67 => if c.u 16 8 = 0 then [] else [(c.u 16 8, 512)]
  | _ => []

/-- The commands whose needs count for `c`: those that a RECOMP replays among them. -/
def State.withReplayed (s : State) (c : Cmd) : List Cmd :=
  c :: if c.opcode = 0x2A then
    (match s.sourceEntry c with | some e => (s.replayList c e.block).filterMap s.cmd | none => []) else []

/-- Memory ranges that a command touches. -/
def State.cmdRanges (s : State) (c : Cmd) : List (Nat × Nat) := (s.withReplayed c).flatMap fun d => s.ownReads d ++ s.ownWrites d

/-- Results of the command leave for host memory (R284). -/
def State.cmdToHost (s : State) (c : Cmd) : Bool := (s.withReplayed c).any fun d => (s.ownWrites d).any fun r => isHost r.1

/-! ### Banks and clusters -/

/-- Banks of the arrays that serve a tensor's pairs on this module. -/
def State.banksOf (s : State) (t : Resident) : List Nat :=
  ((s.localPairs t).filterMap fun p => (s.active (t.placeOf p.1 p.2).2).map (· / 264)).eraseDups

/-- Banks whose arrays a command reads. -/
def State.readBanks (s : State) (c : Cmd) : List Nat := (s.withReplayed c).flatMap fun d => (s.readerOf d).elim [] s.banksOf

/-- Banks whose arrays a command programs or closes. -/
def State.closeBanks (s : State) (c : Cmd) : List Nat :=
  match c.opcode with
  | 0x12 => (s.resident (c.u 16 4)).elim [] s.banksOf
  | 0x13 =>
    let b := loadBlock (s.rd (c.u 16 8) 128) 0
    ((s.loadMap b).filter fun e => (!b.t.span || bitsOf e 32 10 == s.rank) && coordOk (bitsOf e 0 32)).map fun e =>
      keyOfCoord (bitsOf e 0 32) / 264
  | 0x48 =>
    if c.u8 16 = 5 then (s.resident (c.u 20 4)).elim [] s.banksOf
    else if c.u8 16 = 0 then List.range 128
    else if c.u8 16 = 1 then (s.maintList c).map fun v => (32 * (v / 2 ^ 28) + v / 2 ^ 16 % 4096) % 128
    else
      (match s.arrayTargets c with
       | .ok l => l.map (· / 264)
       | _ => [])
  | _ => []

/-- Banks whose arrays the command reads, programs or closes. -/
def State.cmdBanks (s : State) (c : Cmd) : List Nat := s.readBanks c ++ s.closeBanks c

/-- Home clusters of a command (R330). The clusters of ATTN are the module's choice, so they are ready ones. -/
def State.homeClusters (s : State) (c : Cmd) : List Nat :=
  match c.opcode with
  | 0x18 => [c.u8 42 % 128]
  | 0x10 | 0x11 =>
    let home := c.u8 52 % 128
    if bitAt (c.u8 53) 1 then
      (match s.resident (c.u 48 4) with
       | some t => ((List.range (if c.opcode = 0x11 then t.segments else t.groups)).map fun g =>
           32 * (home / 32) + (home % 32 + g) % 32).eraseDups
       | none => [home])
    else [home]
  | _ => []

/-- Clusters on which the command runs tiles or accumulates. -/
def State.cmdClusters (s : State) (c : Cmd) : List Nat := (s.withReplayed c).flatMap s.homeClusters

/-- What a command needs, by number: ready bits by their own, and from 1,000 on the first calibration of a bank that it
reads (R144). -/
def State.keyMet (s : State) (k : Nat) : Bool := if 1000 ≤ k then s.convCal (k - 1000) != 0 else s.readyKey k

/-- Compute dies that hold data, arrays or clusters of a command: the die bases that its work reaches (R431, Table 16.7). The
die that the module chooses for other work (R501) is one of them (DESIGN CHOICE, log entry 156). -/
def State.cmdDies (s : State) (c : Cmd) : List Nat :=
  let mem := (s.cmdRanges c).flatMap fun p => (blocksOf p.1 p.2).map fun a => (placeOf s.ms.interleave a).die
  ((mem ++ (s.cmdBanks c).map (· / 32) ++ (s.cmdClusters c).map (· / 32)).filter fun d => decide (d < 4)).eraseDups

/-! ### Start -/

/-- The references of a command that starts (R131, R224), the version of its own reads, and the domains that its work
reaches (R431). -/
def State.onStart (s : State) (c : Cmd) : State :=
  match c.seq with
  | none => s
  | some q =>
    let s1 := (s.withReplayed c).foldl (fun (u : State) d => u.takeRef q d) s
    let s2 := match s.readerOf c with
      | some t => s1.updCmd q fun c => { c with version := c.version.or (some (t.ver c.step)) }
      | none => s1
    let s3 := ((s.cmdDies c).map fun d => 1 + d).foldl State.wantDom s2
    let s4 := ((s.cmdBanks c).map fun b => 100 + b).foldl State.wantDom s3
    ((s.cmdClusters c).map fun k => 300 + k).foldl State.wantDom s4

/-! ### The whole-step replay (R298) -/

/-- The replay ends when every replayed command is clear or failed: FENC takes the status of highest precedence. -/
def State.replayEnd (s : State) : State :=
  match s.hg.replay with
  | none => s
  | some w =>
    let l := w.todo.filterMap s.cmd
    if l.all fun d => d.stage.isClear || d.stage == .failed then
      let t := worst (l.map Cmd.status)
      let s1 : State := { s with hg := { s.hg with replay := none } }
      if t.fails then s1.failCmd w.fenc t ((l.find? fun d => d.status == t).elim 0 Cmd.detail)
      else (s1.addCond w.fenc (if t = .ok then [] else [t]) 0).deliver w.fenc
    else s

/-- A command is set to run again: it keeps what it depended on in its first run and the seed that it latched, and writes no
second record. -/
def Cmd.again (c : Cmd) : Cmd :=
  { c with
    stage := .accepted, conds := [], ind := 0, detail := 0, checks := 0, tainted := false, repaired := false, unitRetired := false
    retractions := 0, children := [], hold := false, heldSince := none }

/-- FENC with REPLAY (R298) has waited until no command of steps n and n + 1 is running. It reads the journal; where that is lost, nothing
can be replayed, and it completes with UNCORRECTABLE_MEMORY (R22; DEDUCED: log entry 124). The marks of steps n and n + 1 are removed,
and the journalled commands of both run again in the order of acceptance; nothing else is fetched or started until they
are clear. -/
def State.replayStart (s0 : State) (q n : Nat) : State :=
  let s := s0.readJournal
  if (s.stepInfo n).unreplayable then s.failCmd q .uncorrectableMemory 0
  else
  let mine (c : Cmd) : Bool := c.stepOf == some n || c.stepOf == some (n + 1)
  let todo := s.hg.journal.filter fun i => (s.cmd i).any mine
  let s1 := todo.foldl (fun (u : State) i => (u.dropRun i).updCmd i Cmd.again) s
  let open_ (u : State) (k : Nat) : State := u.setStep k { u.stepInfo k with mark := .open, stashOut := false }
  let s2 := open_ (open_ s1 n) (n + 1)
  let s3 : State := { s2 with
    hg := { s2.hg with replay := some { fenc := q, step := n, todo := todo } }
    im := { s2.im with repeats := s2.im.repeats.filter fun r => !todo.contains r.1 }
    xe := { s2.xe with steps := s2.xe.steps.filter fun x => x.step != n && x.step != n + 1 } }
  (s3.updCmd q fun c => { c with stage := .running }).replayEnd

/-! ### Clear -/

/-- The folds of a command that becomes clear (R285, R189): with a record in lost memory the command completes with
UNCORRECTABLE_MEMORY. -/
def State.foldClear (s : State) (q step : Nat) : State :=
  let r := s.foldAll q step
  match r.2 with
  | some a => r.1.loseData q a
  | none => r.1

/-- What becoming clear does (R131, R227, R285, R293). -/
def State.onClear (s : State) (c : Cmd) : State :=
  match c.seq with
  | none => s
  | some q =>
    let s1 := s.foldClear q c.step
    let s2 := if c.opcode = 0x30 then s1.xchgClear q else if c.opcode = 0x2A then s1.recompClear c else s1
    let s3 : State := { s2 with af := { s2.af with refs := s2.af.refs.filter fun r => r.seq != q } }
    let s4 := match c.parent with
      | some p => s3.recompNext p State.onStart
      | none => s3
    (if c.opcode = 0x10 ∨ c.opcode = 0x11 ∨ c.opcode = 0x2A then s4.settleAll else s4).replayEnd

/-! ### FENC with RESTART (R328, R380) -/

/-- The journal, every Hamper entry and all exchange state of every step are released, and there is no newest step. The
group, its excluded ranks and their buddies stay: they belong to no step. -/
def State.fencRestart (s : State) : State :=
  let s1 : State := { s with
    hg := { s.hg with journal := [], steps := [], newest := none }
    ham := { s.ham with entries := [], gone := [], stored := 0 }
    im := { s.im with written := [] }
    xe := { s.xe with parts := [], sends := [], steps := [], closes := [], closeMsgs := [], gaths := [], lists := [], mirrors := [], unacked := [], waiting := [] } }
  s1.applyRegion

end Sys2Proof.Machine
end

