-- ==== Sys2Proof/Machine/Rings.lean ====
section
/-!
DEFINITION. Rings, fetch, acceptance, start, clearing and completion (spec/11), WAIT, SGNL and FENC.
-/
namespace Sys2Proof.Machine

open Sys2Proof

/-! ### Polling (R312 to R315) -/

/-- The hub core runs and the host link carries requests: A0 or A1, D0, link up. -/
def State.hostAwake (s : State) : Bool :=
  (s.ld.pwr == .a0 || s.ld.pwr == .a1) && !s.ld.d3hot && s.ld.link != .down && s.ld.link != .l23

/-- Command work brings the module from A1 to A0 (R435). -/
def State.goActive (s : State) : State :=
  let p : Power := if s.ld.pwr = .a1 then .a0 else s.ld.pwr
  State.linkUse { s with ld := { s.ld with pwr := p, lastWork := s.now } }

/-- Slots that the host has written and the ring has not fetched. -/
def State.unfetched (s : State) (n : Nat) : Nat := ((s.ring n).sqTail + 2 ^ 32 - (s.ring n).fetched) % 2 ^ 32

/-- R313: the record is invalid. -/
def State.recordBad (s : State) (n tail head : Nat) : Bool :=
  let r := s.ring n
  decide (s.ringSize n < (tail + 2 ^ 32 - r.fetched) % 2 ^ 32) ||
    (decide (0 < (head + 2 ^ 32 - r.completed) % 2 ^ 32) && decide ((head + 2 ^ 32 - r.completed) % 2 ^ 32 < 2 ^ 31))

/-- One poll of ring `n` (R312, R313, R314). -/
def State.poll (s : State) (n : Nat) : State :=
  let a := s.reg (rDbAddr n)
  let r := s.ring n
  let s := s.linkUse
  match s.rdFail a 16 with
  | some _ => (s.setRing n { r with nextPoll := s.now + 1000, interval := 1000 }).haltRing n 0x20
  | none =>
    let tail := s.rdNat a 4
    let head := s.rdNat (a + 4) 4
    let sq := s.rdNat (a + 8) 4
    let fresh : Bool := r.seqTaken != some sq
    let quiet : Bool := !fresh && s.unfetched n == 0 && s.inFlight n == 0
    let iv := if quiet then min (2 * r.interval) 100000 else 1000
    let r1 := { r with interval := iv, nextPoll := s.now + iv }
    if fresh ∧ s.recordBad n tail head then (s.setRing n r1).haltRing n 0x13
    else
      let r2 := if fresh then { r1 with sqTail := tail, cqHead := head, seqTaken := some sq } else r1
      let s1 := s.setRing n r2
      if s1.unfetched n ≠ 0 then s1.goActive else s1

/-- DOORBELL_POLL (R314): when the interval has expired and the module polls (R437, R440). What the outside world has
done to memory arrives first. -/
def execDoorbellPoll (n : Fin 64) (e : Env) (s : State) : Out :=
  .next (
    let s1 := s.applyEnv e
    if s1.ringEnabled n.val ∧ s1.hostAwake ∧ (s1.ring n.val).nextPoll ≤ s1.now then s1.poll n.val else s1)

/-- The next poll of every enabled ring may come at once, and comes within 1 µs (R315). -/
def State.hint (s : State) : State :=
  (List.range 64).foldl (fun s n =>
    if s.ringEnabled n then
      let r := s.ring n
      s.setRing n { r with nextPoll := min r.nextPoll s.now }
    else s) s

/-- HINT_WINDOW_WRITE (R315, R437). -/
def execHintWindowWrite (_off : Fin 4096) (_v : W32) (s : State) : Out :=
  .next (
    match s.ld.pwr with
    | .a3 => s
    | _ => s.linkUse.hint.wakeA2 1)

/-! ### Fetch (R316 to R321) -/

/-- The host's commands that run although it does not own the module (Table 15.9). -/
def ownerless (slot : List Byte) : Bool :=
  let op := (slot.getD 0 0).toNat
  op == 0x60 || op == 0x63 || (op == 0x64 && slot.getD 28 0 == 0)

/-- Address of slot `i` after the last one fetched. -/
def State.slotAddr (s : State) (n i : Nat) : Nat := s.reg (rRingBase n) + 64 * (((s.ring n).fetched + i) % s.ringSize n)

/-- Slots that the next command of the ring takes: a critical one takes two (R334). -/
def State.slotsNeeded (s : State) (n : Nat) : Nat :=
  if (s.rdFail (s.slotAddr n 0) 64).isSome then 1
  else if decide (0x60 ≤ s.rdNat (s.slotAddr n 0) 1) && decide (s.rdNat (s.slotAddr n 0) 1 ≤ 0x68) then 2 else 1

/-- Ring `n` may fetch a command now: all its slots are written (R217, R311, R316, R317, R320, R341; Table 15.2 state 2). -/
def State.fetchable (s : State) (n : Nat) : Bool :=
  let r := s.ring n
  s.ringEnabled n && !r.halted && !r.refusedStop && s.hg.replay.isNone && s.tb.boot != 0 && s.tb.boot != 2 &&
  s.tb.boot != 4 && s.unfetched n != 0 && decide (s.slotsNeeded n ≤ s.unfetched n) && !(s.ringCmds n).any (fun c => c.stage == .stepHeld) &&
  decide ((r.completed + s.inFlight n + 2 ^ 32 - r.cqHead) % 2 ^ 32 < s.ringSize n)

/-- The ring whose turn it is (R316), and whether its turn opens a new round. -/
def State.fetchTurn (s : State) : Option (Nat × Bool) :=
  let pos (n : Nat) : Nat := (n + 64 - s.hg.roundStart) % 64
  let inTurn (n : Nat) : Bool :=
    s.fetchable n && (decide (pos s.hg.turn < pos n) || (n == s.hg.turn && decide ((s.ring n).inRound < Tab.get (fun _ => 4) s.hg.quota n)))
  match ((List.range 64).map fun i => (s.hg.roundStart + i) % 64).find? inTurn with
  | some n => some (n, false)
  | none =>
    (((List.range 64).map fun i => (s.hg.roundStart + 1 + i) % 64).find? s.fetchable).map fun n => (n, true)

/-- A fetched command before its checks. -/
def State.newCmd (s : State) (n : Nat) (slot slot2 : List Byte) : Cmd :=
  { id := s.hg.nextId, ring := n, index := (s.ring n).fetched, slot := slot, slot2 := slot2, seq := none,
    stage := .accepted, conds := [], ind := 0, detail := 0, seed := 0, heldSince := none, startedAt := 0, checks := 0,
    deps := [], recordReady := none, recorded := false, tainted := false, unitRetired := false, repaired := false,
    retractions := 0, version := none, deltas := [], seeded := false, signalled := false, parent := none,
    children := [], hold := false }

/-- A fetched command enters the list. -/
def State.addCmd (s : State) (c : Cmd) : State :=
  { s with hg := { s.hg with cmds := s.hg.cmds ++ [c], nextId := s.hg.nextId + 1 } }

/-- A command enters the list, or takes the place that it has there already. -/
def State.putCmd (s : State) (c : Cmd) : State :=
  if s.hg.cmds.any (fun d => d.id = c.id) then
    { s with hg := { s.hg with cmds := s.hg.cmds.map fun d => if d.id = c.id then c else d } }
  else s.addCmd c

/-- A fetched command completes before acceptance (R318): it has no issue sequence number. -/
def State.turnAway (s : State) (c : Cmd) (t : Status) (detail : Nat) : State :=
  (s.putCmd { c with
    stage := if t.fails then .failed else .refused, conds := [t], detail := detail }).haltOn c t

/-- What Table 8.1 says of a step number. -/
inductive StepCase where
  | accept
  | hold
  | bad
  deriving DecidableEq, Repr

def State.stepCase (s : State) (n : Nat) : StepCase :=
  match s.hg.newest with
  | none => .accept
  | some m =>
    if n = m ∨ n + 1 = m then .accept
    else if n = m + 1 then
      (if m = 0 ∨ ¬ (s.stepInfo (m - 1)).named ∨ s.resolved (m - 1) then .accept else .hold)
    else .bad

/-- An accepted PROG or LEVELS announces its step as a version of its tensor (R233). -/
def State.announce (s : State) (c : Cmd) : State :=
  match c.levels with
  | none => s
  | some (id, n) =>
    match s.resident id with
    | none => s
    | some t => if t.announced.contains n then s else s.setResident { t with announced := n :: t.announced }

/-- Some accepted command is not delivered. -/
def State.undelivered (s : State) : Bool :=
  s.hg.cmds.any fun (c : Cmd) => c.seq.isSome && c.parent.isNone && (c.stage == .accepted || c.stage == .started || c.stage == .running)

/-- Acceptance (R318): the issue sequence number, the newest step (R216), the journal, which holds nothing of a step whose
fence has cleared or whose update was skipped (R296). -/
def State.accept (s : State) (c : Cmd) : State :=
  let q := s.hg.nextSeq
  let s1 : State := { s with
    hg := { s.hg with nextSeq := q + 1 }
    im := { s.im with lastDelivery := if s.undelivered then s.im.lastDelivery else s.now } }
  let s2 := s1.putCmd { c with seq := some q, stage := .accepted }
  match c.stepOf with
  | none => s2
  | some n =>
    let i := s2.stepInfo n
    let s3 := s2.setStep n { i with named := true, accepted := i.accepted + 1 }
    ({ s3 with hg := { s3.hg with
        journal := if i.mark = StepMark.cleared ∨ i.mark = StepMark.skipped then s3.hg.journal else s3.hg.journal ++ [q]
        newest := some (match s3.hg.newest with | none => n | some m => max m n) } }).announce c

/-- Check 3 of R318 and the limit of R297: the 262,145th command of a step is turned away. -/
def State.acceptIn (s : State) (c : Cmd) (n : Nat) : State :=
  if 262144 ≤ (s.stepInfo n).accepted then s.turnAway c .badDescriptor 4 else s.accept c

/-- Check 3 of R318. FENC with REPLAY asks for a step that is marked incomplete and that the journal holds (R298), which a lost
journal does not (R22). -/
def State.stepCheck (s : State) (c : Cmd) : State :=
  match c.stepOf with
  | none =>
    if c.opcode = 0x0A ∧ bitAt (c.u8 16) 2 ∧
        ¬ ((s.stepInfo (c.u 20 4)).mark = .incomplete ∧ ¬ (s.stepInfo (c.u 20 4)).unreplayable ∧ s.hg.journal.any fun q => (s.cmd q).elim false fun d => d.stepOf == some (c.u 20 4))
    then s.turnAway c .badDescriptor 20
    else s.accept c
  | some n =>
    match s.stepCase n with
    | .bad => s.turnAway c .badDescriptor 4
    | .hold => s.addCmd { c with stage := .stepHeld, startedAt := s.now }
    | .accept => s.acceptIn c n

/-- Checks 1 and 2 of R318. -/
def State.admitCmd (s : State) (c : Cmd) : State :=
  let host := s.owns .host
  if ¬ host ∧ ¬ ownerless c.slot then
    let s1 := s.turnAway c .notOwner 0
    s1.setRing c.ring { s1.ring c.ring with refusedStop := true }
  else if c.critical ∧ ¬ ownerless c.slot ∧ ¬ s.authentic .host c.slot c.slot2 then s.turnAway c .authFail 0
  else
    let s1 := if c.critical ∧ ¬ ownerless c.slot then s.authAccept c.slot else s
    match descFault s1 c (s1.reg (rExtBase c.ring)) with
    | some o => s1.turnAway c .badDescriptor o
    | none => s1.stepCheck c

/-- Fetch the next command of ring `n`: its slot, and the second slot of a critical command (R334). -/
def State.fetch (s : State) (n : Nat) (newRound : Bool) : State :=
  let r := s.ring n
  match s.rdFail (s.slotAddr n 0) 64 with
  | some _ => s.haltRing n 0x20
  | none =>
    let crit := s.slotsNeeded n == 2
    if crit ∧ (s.rdFail (s.slotAddr n 1) 64).isSome then s.haltRing n 0x20
    else
      let c := s.newCmd n (s.rd (s.slotAddr n 0) 64) (if crit then s.rd (s.slotAddr n 1) 64 else [])
      let rings := if newRound then s.hg.rings.map fun p => (p.1, { p.2 with inRound := 0 }) else s.hg.rings
      let s1 := { s with hg := { s.hg with
        rings := rings.filter fun p => p.2 != Ring.initial
        turn := n, roundStart := if newRound then n else s.hg.roundStart } }
      let r1 := s1.ring n
      (s1.setRing n { r1 with
        fetched := (r.fetched + if crit then 2 else 1) % 2 ^ 32, inRound := r1.inRound + 1 }).goActive.admitCmd c

/-- COMMAND_FETCH (R316, R318): in the ring's turn, when the completion ring has room. -/
def execCommandFetch (n : Fin 64) (s : State) : Out :=
  .next (match s.fetchTurn with
    | some (k, nw) => if k = n.val ∧ s.hostAwake then s.fetch n.val nw else s
    | none => s)

/-- STEP_HOLD_RELEASE (R217, R297): a command held for step N + 1 is accepted once step N − 1 is resolved. -/
def State.releaseHold (s : State) (n : Nat) : State :=
  match (s.ringCmds n).find? fun c => c.stage == .stepHeld with
  | none => s
  | some c =>
    match c.stepOf with
    | none => s
    | some k =>
      match s.stepCase k with
      | .hold => s
      | .bad => s
      | .accept => s.acceptIn c k

def execStepHoldRelease (n : Fin 64) (s : State) : Out := .next (s.releaseHold n.val)

/-! ### Start (R323, R336, R450, R500) -/

/-- Commands that a FENC waits to be clear or failed (R328). -/
def State.fencWaits (s : State) (c : Cmd) : List Cmd :=
  if c.isFencAll then s.hg.cmds.filter fun d => d.parent.isNone && d.before c
  else if c.isFenc ∧ ¬ c.isReplay then s.ahead c else []

/-- Ready bits that the command needs (Table 16.5), by number. -/
def State.needsReady (s : State) (c : Cmd) : List Nat :=
  let mem := (s.cmdRanges c).flatMap fun p => (blocksOf p.1 p.2).filterMap fun a =>
    match placeOf s.ms.interleave a with
    | .stack st _ => some (30 + st)
    | .wstore d => some (38 + d)
    | .hub => some 42
    | .journal => some 42
    | _ => none
  let ex := c.opcode == 0x30 || c.opcode == 0x31 || (c.opcode == 0x39 && c.u8 16 == 1 && bitAt (c.u8 17) 0)
  mem ++ (s.cmdBanks c).map (100 + ·) ++ (s.readBanks c).map (1000 + ·) ++ (s.cmdClusters c).map (300 + ·) ++ (if ex then [43] else []) ++
    (if c.opcode == 0x63 || (c.opcode == 0x64 && c.u8 28 == 0) then [] else [2])

/-- Is the command held by the order of its ring, a WAIT, a FENC or a whole-step replay? A critical command waits only for those
ahead of it (R336), SANI also as FENC with ALL does. -/
def State.startBlocked (s : State) (c : Cmd) : Bool :=
  !(s.ahead c).all (fun d => d.stage.hasStarted) ||
  !(s.fencWaits c).all (fun d => d.stage.isClear || d.stage == .failed) ||
  !(s.needDelivered c).all (fun d => d.stage.isDone || d.stage == .failed) ||
  s.hg.cmds.any (fun d => d.isFencAll && (!c.critical || d.critical) && d.before c && !d.stage.isDone && d.stage != .failed) ||
  (s.cmdToHost c && !(s.dependsOn c).all (fun d => d.stage.isClear || d.stage == .failed)) ||
  (match s.hg.replay with
   | some w => !c.critical && (!(c.seq.any w.todo.contains) ||
       !(c.deps.filterMap s.cmd).all fun d => d.stage.isDone || d.stage == .failed)
   | none => false)

/-- The command of highest precedence among those of a list that have failed. -/
def worstFailed (l : List Cmd) : Option Cmd :=
  (l.filter fun d => d.stage == .failed).foldl (fun b d => match b with
    | none => some d
    | some e => if d.status.rank < e.status.rank then some d else some e) none

/-- The failed command whose status `c` takes (R500). FENC and critical commands are not held back. -/
def State.failedNeed (s : State) (c : Cmd) : Option Cmd :=
  if c.isFenc || c.critical then none
  else
    worstFailed (s.needDelivered c ++ (if s.cmdToHost c then s.dependsOn c else []))

/-- The command starts: start latch of a command with EXT (R389), the seed, which a command that runs again keeps (R51, R53),
and the references it takes. -/
def State.begin (s : State) (c : Cmd) (q : Nat) : State :=
  let r := s.ring c.ring
  let s1 := if c.ext then s.setRing c.ring { r with slots := List.replicate 16 0, sample := some (s.now, r.slots) } else s
  let deps := if c.isFenc || c.isFencAll then ((s.fencWaits c).filter fun d => d.stage != .failed).filterMap Cmd.seq else []
  let s2 := s1.updCmd q fun c => { c with
    stage := .started, startedAt := s.now, deps := c.deps ++ deps, seed := if c.seeded then c.seed else s.jobSeed, seeded := true }
  (s2.onStart c).logRec 4 0xF0000000 0x01 (some c.ring) (some q) 0

/-- COMMAND_START (R323, R450, R500). -/
def State.startCmd (s : State) (q : Nat) : State :=
  match s.cmd q with
  | none => s
  | some c =>
    if c.stage ≠ .accepted ∨ c.tainted ∨ s.startBlocked c then s
    else
      match s.failedNeed c with
      | some d => (s.failCmd q d.status (d.seq.getD 0)).failOrphans
      | none =>
        let need := s.needsReady c
        if need.any s.failedKey then s.failCmd q .notReadyTimeout 0
        else if ¬ need.all s.keyMet then s.updCmd q fun c => { c with heldSince := c.heldSince.or (some s.now) }
        else s.begin c q

def execCommandStart (q : Nat) (s : State) : Out := .next (s.startCmd q)

/-- BRINGUP_HOLD_TIMEOUT (R450): HOLD_MS has passed since the command was first held. A bit set in the cycle in which it passes is
on time: like every expiry whose tie R470 decides, the timeout acts only once its time lies behind (log entry 129). -/
def State.holdTimeout (s : State) (q : Nat) : State :=
  match s.cmd q with
  | none => s
  | some c =>
    match c.heldSince with
    | none => s
    | some t =>
      if c.stage = .accepted ∧ t + s.holdMs * 1000000 < s.now ∧ ¬ (s.needsReady c).all s.keyMet then
        s.failCmd q .notReadyTimeout 0
      else s

def execBringupHoldTimeout (q : Nat) (s : State) : Out := .next (s.holdTimeout q)

/-! ### Clear and record (R283, R338, R341) -/

/-- COMMAND_CLEAR (R283): every check has passed and every command it depends on is clear. A command that a failed one holds
back, which never becomes clear, takes its status as R500 says of commands that wait for it (DEDUCED: log entry 14); FENC
and critical commands treat it as clear. -/
def State.clearCmd (s : State) (q : Nat) : State :=
  match s.cmd q with
  | none => s
  | some c =>
    if c.stage ≠ .delivered ∨ c.checks ≠ 0 ∨ c.tainted then s
    else
      let past := c.isFenc || c.critical
      match if past then none else worstFailed (s.dependsOn c) with
      | some d => s.failCmd q d.status (d.seq.getD 0)
      | none =>
        if (s.dependsOn c).all (fun d => d.stage.isClear || (past && d.stage == .failed)) ∧
            ¬ s.heldBack ((s.mc.folds.filter fun f => f.seq == q).map fun f => (f.hist, 128)) then
          let s1 := (s.updCmd q fun c => { c with stage := .clear }).onClear c
          if (s1.cmd q).any fun d => d.stage == .clear then s1.logRec 4 0xF0000000 0x03 (some c.ring) (some q) 0 else s1
        else s

def execCommandClear (q : Nat) (s : State) : Out := .next (s.clearCmd q)

/-- IND with the indications that the command's state gives (Table 11.11). -/
def Cmd.indications (c : Cmd) : Nat := (c.ind ||| (if c.repaired then 0x100#16 else 0#16)).toNat

/-- The 16 bytes of a completion record (Table 11.10). -/
def Cmd.record (c : Cmd) (phase : Bool) : List Byte :=
  natLe 4 c.index ++ natLe 1 c.status.code ++ natLe 1 c.opcode ++ natLe 2 c.indications ++
    natLe 8 (c.detail % 2 ^ 63 + if phase then 2 ^ 63 else 0)

/-- The next command of the ring whose record is not written. -/
def State.nextRecord (s : State) (n : Nat) : Option Cmd := (s.ringCmds n).find? fun c => !c.recorded

/-- A command that has nothing left but its record. -/
def Cmd.ended (c : Cmd) : Bool := (c.stage == .clear && !c.hold) || c.stage == .failed || c.stage == .refused

/-- The completion ring has a free record (R317). -/
def State.recordRoom (s : State) (n : Nat) : Bool :=
  let r := s.ring n
  decide ((r.completed + 2 ^ 32 - r.cqHead) % 2 ^ 32 < s.ringSize n)

/-- Change the command with the model's number `i`. -/
def State.updId (s : State) (i : Nat) (f : Cmd → Cmd) : State :=
  { s with hg := { s.hg with cmds := s.hg.cmds.map fun c => if c.id = i then f c else c } }

/-- Every record of the ring that is ready waits from now on, since the completion ring has no free record (R317). -/
def State.noteReady (s : State) (n : Nat) : State :=
  if s.recordRoom n then s
  else ((s.ringCmds n).filter fun c => c.ended && !c.recorded).foldl (fun (u : State) d =>
    u.updId d.id fun c => { c with recordReady := c.recordReady.or (some s.now) }) s

/-- A record of the ring has waited longer than GRACE_MS (R317). -/
def State.recordLate (s : State) (n : Nat) : Bool :=
  (s.ringCmds n).any fun c => !c.recorded && c.recordReady.any fun t => decide (t + s.graceMs * 1000000 < s.now)

/-- The 16 deltas of a command with EXT, with what it counted in the cycle of its end latch; zeros when it has failed before
(R338, R390, R391). -/
def Ring.deltasOf (r : Ring) (c : Cmd) : List Nat :=
  let late := ((r.latch.find? fun p => c.seq == some p.2.1).map fun p => p.2.2).getD []
  (List.range 16).map fun i => (c.deltas.getD i 0 + late.getD i 0) % 2 ^ 64

/-- COMPLETION_RECORD_WRITE (R338, R339, R341). -/
def State.writeRecord (s : State) (n : Nat) : State :=
  match s.nextRecord n with
  | none => s
  | some c =>
    let r := s.ring n
    if ¬ c.ended ∨ ¬ s.hostAwake ∨ r.rewrite then s
    else if ¬ s.recordRoom n then s.noteReady n
    else
      let k := r.completed % s.ringSize n
      let s1 := if c.ext then s.wr (s.reg (rExtBase n) + 128 * k) ((r.deltasOf c).flatMap (natLe 8)) else s
      let a := s.reg (rCqBase n) + 16 * k
      let extFail : Bool := c.ext && (s.rdFail (s.reg (rExtBase n) + 128 * k) 128).isSome
      if (s.rdFail a 16).isSome ∨ extFail then (s.setRing n { r with rewrite := true }).haltRing n 0x20
      else
        let s2 := s1.wr a (c.record (r.completed / s.ringSize n % 2 == 0))
        let s3 := s2.updId c.id fun c => { c with recorded := true }
        let s4 := s3.setRing n { r with
          latch := r.latch.filter fun p => c.seq != some p.2.1
          completed := (r.completed + 1) % 2 ^ 32, overdue := r.overdue && s3.recordLate n, draining := r.draining && s3.inFlight n != 0 }
        let s5 := if c.irq then s4.arrive n else s4
        (({ s5 with ld := { s5.ld with lastWork := s.now } }).linkUse).logRec 4 0xF0000000 0x04 (some n) c.seq 0

def execCompletionRecordWrite (n : Fin 64) (s : State) : Out := .next (s.writeRecord n.val)

/-- COMPLETION_GRACE_EXPIRY (R317): a record has waited longer than GRACE_MS. -/
def State.graceExpiry (s0 : State) (n : Nat) : State :=
  let s := s0.noteReady n
  let r := s.ring n
  if s.recordLate n ∧ ¬ r.overdue then (s.setRing n { r with overdue := true }).arrive (64 + n) else s

def execCompletionGraceExpiry (n : Fin 64) (s : State) : Out := .next (s.graceExpiry n.val)

/-! ### WAIT, SGNL, FENC (R326 to R328) -/

/-- A WAIT is satisfied: its dependencies are the commands that signalled its counter (R324). -/
def State.satisfy (s : State) (q e : Nat) : State :=
  (s.updCmd q fun c => { c with
    deps := if s.hg.replay.isSome || c.signalled then c.deps else c.deps ++ Tab.get (fun _ => []) s.hg.signallers e }).deliver q

/-- VALUE is reached, or the WAIT is one of a whole-step replay, which does not touch the counters (R298), or one that was met
before it was tainted. -/
def State.waitMet (s : State) (c : Cmd) : Bool :=
  decide (c.u 24 8 ≤ (s.event (c.u 16 2)).toNat) || s.hg.replay.isSome || c.signalled

/-- WAIT (R326). -/
def State.runWait (s : State) (q : Nat) : State :=
  match s.runnable q 0x08 with
  | none => s
  | some c =>
    if s.waitMet c then s.satisfy q (c.u 16 2) else s.updCmd q fun c => { c with stage := .running }

def execWait (q : Nat) (s : State) : Out := .next (s.runWait q)

/-- The WAIT with number `q`, when it waits. -/
def State.waiting (s : State) (q : Nat) : Option Cmd :=
  match s.cmd q with
  | some c => if c.isWait ∧ c.stage = .running then some c else none
  | none => none

/-- WAIT_SATISFIED (R326). -/
def execWaitSatisfied (q : Nat) (s : State) : Out :=
  .next (match s.waiting q with
    | some c => if s.waitMet c then s.satisfy q (c.u 16 2) else s
    | none => s)

/-- Timeout of a WAIT in ns: TIMEOUT_US, or WAIT_US when it is 0. -/
def State.waitNs (s : State) (c : Cmd) : Nat := (if c.u 32 4 = 0 then s.waitUs else c.u 32 4) * 1000

/-- WAIT_TIMEOUT_EXPIRY (R326): a counter that reaches VALUE in the cycle of the timeout satisfies the WAIT. -/
def State.waitExpiry (s : State) (q : Nat) : State :=
  match s.waiting q with
  | none => s
  | some c =>
    if s.waitMet c ∨ s.now ≤ c.startedAt + s.waitNs c then s
    else (s.failCmd q .waitTimeout (s.event (c.u 16 2)).toNat).haltRing c.ring Status.waitTimeout.code

def execWaitTimeoutExpiry (q : Nat) (s : State) : Out := .next (s.waitExpiry q)

/-- SGNL (R327): delivered when every command ahead of it on its ring is delivered, or clear with CLEAR; a failed one
fails it (R500). It raises its counter once, however often it is run (R288). -/
def State.runSgnl (s : State) (q : Nat) : State :=
  match s.runnable q 0x09 with
  | none => s
  | some c =>
    let l := s.ahead c
    let e := c.u 16 2
    let v := BitVec.ofNat 64 (c.u 24 8)
    match worstFailed l with
    | some d => s.failCmd q d.status (d.seq.getD 0)
    | none =>
      if ¬ l.all (fun d => if bitAt (c.u8 18) 1 then d.stage.isClear else d.stage.isDone) then s
      else if s.hg.replay.isSome ∨ c.signalled then s.deliver q
      else if bitAt (c.u8 18) 0 then
        (({ s with hg := { s.hg with events := Tab.set (fun _ => 0) s.hg.events e v } }).signal e 0 q).deliver q
      else (s.signal e v q).deliver q

def execSgnl (q : Nat) (s : State) : Out := .next (s.runSgnl q)

/-- A started FENC with the flags `f`. -/
def State.fenc (s : State) (q f : Nat) : Option Cmd :=
  match s.runnable q 0x0A with
  | some c => if c.u8 16 = f then some c else none
  | none => none

/-- FENC with no flag (R328): it started when every command ahead of it was clear or failed. -/
def execFenc (q : Nat) (s : State) : Out :=
  .next (match s.fenc q 0 with
    | some _ => s.deliver q
    | none => s)

/-- FENC with ALL. -/
def execFencAll (q : Nat) (s : State) : Out :=
  .next (match s.fenc q 1 with
    | some _ => s.deliver q
    | none => s)

/-- FENC with RESTART, with or without ALL (R328). -/
def execFencRestart (q : Nat) (s : State) : Out :=
  .next (match (s.fenc q 2).or (s.fenc q 3) with
    | some _ => s.fencRestart.deliver q
    | none => s)

/-- A command of step `n` is running. -/
def State.stepRuns (s : State) (n : Nat) : Bool :=
  s.hg.cmds.any fun d => d.stepOf == some n && (d.stage == .started || d.stage == .running)

/-- FENC with REPLAY (R298): once no command of steps n and n + 1 is running, they are set to run again; later, it completes
when they have ended. -/
def execFencReplay (q : Nat) (s : State) : Out :=
  .next (match (s.fenc q 4).or (s.fenc q 5) with
    | some c => if s.stepRuns (c.u 20 4) ∨ s.stepRuns (c.u 20 4 + 1) then s else s.replayStart q (c.u 20 4)
    | none => s.replayEnd)

/-- A read has waited WAIT_US for a version that its pair has not reached (R134). -/
def State.versionLate (s : State) (t : Resident) (r : Read) : Bool :=
  r.stage == .waiting && decide (s.pairVersion t r.s r.g < r.version) && r.waitSince.any fun t => decide (t + s.waitUs * 1000 < s.now)

/-- VERSION_WAIT_TIMEOUT (R134). -/
def State.versionTimeout (s : State) (q : Nat) : State :=
  match s.cmd q, s.readTensor q with
  | some c, some t =>
    if c.stage = .running ∧ ¬ c.tainted ∧ s.af.reads.any (fun r => r.seq == q && s.versionLate t r) then
      s.failCmd q .waitTimeout (c.version.getD 0)
    else s
  | _, _ => s

def execVersionWaitTimeout (q : Nat) (s : State) : Out := .next (s.versionTimeout q)

/-! ### Ring registers (R310, R311, R341) -/

/-- A ring may be enabled: its three addresses name host memory and LOG2_SIZE is 4 to 16 (R310). -/
def State.ringPlaced (s : State) (n log2 : Nat) : Bool :=
  isHost (s.reg (rRingBase n)) && isHost (s.reg (rCqBase n)) && isHost (s.reg (rDbAddr n)) &&
    decide (4 ≤ log2) && decide (log2 ≤ 16)

/-- A write of `v` to HG_RING_CTRL_n by a master that may make it. -/
def State.ringCtrlWrite (s : State) (m : Master) (n v : Nat) : State :=
  if ¬ (m = .host ∨ s.owns m) ∨ ¬ s.regLands m then s
  else
    let r := s.ring n
    let on := s.ringEnabled n
    let busy := on || s.inFlight n != 0
    let log2 := if busy then s.ringLog2 n else bitsOf v 16 5
    let low := log2 * 2 ^ 16 + bitsOf v 29 1 * 2 ^ 29
    if bitAt v 31 then
      if on then
        let s1 := s.setReg (rRingCtrl n) (2 ^ 31 + low)
        if bitAt v 30 ∧ r.halted then s1.setRing n { r with halted := false, rewrite := false } else s1
      else if r.draining ∨ ¬ s.ringPlaced n log2 then s.setReg (rRingCtrl n) low
      else
        (s.setReg (rRingCtrl n) (2 ^ 31 + low)).setRing n { Ring.initial with
          nextPoll := s.now + 1000, sinceId := s.hg.nextId }
    else
      let s1 := s.setReg (rRingCtrl n) low
      let r1 := { r with draining := on && s.inFlight n != 0 || r.draining }
      s1.setRing n (if bitAt v 30 ∧ r.halted then { r1 with halted := false, rewrite := false } else r1)

/-- RING_ENABLE (R310, R311): a write with ENABLE 1. -/
def execRingEnable (m : Master) (n : Fin 64) (v : W32) (s : State) : Out :=
  .next (let s := s.reachedBy m
    if bitAt v.toNat 31 then s.ringCtrlWrite m n.val v.toNat else s)

/-- RING_DISABLE (R311): a write with ENABLE 0. -/
def execRingDisable (m : Master) (n : Fin 64) (v : W32) (s : State) : Out :=
  .next (let s := s.reachedBy m
    if bitAt v.toNat 31 then s else s.ringCtrlWrite m n.val v.toNat)

/-- RING_RESUME (R341): a write with RESUME 1. -/
def execRingResume (m : Master) (n : Fin 64) (v : W32) (s : State) : Out :=
  .next (let s := s.reachedBy m
    if bitAt v.toNat 30 then s.ringCtrlWrite m n.val v.toNat else s)

end Sys2Proof.Machine
end

