-- ==== Sys2Proof/Machine/Power.lean ====
section
/-!
DEFINITION. Supplies and pins, resets (R446 to R449, R480 to R486, R489), power states (R435 to R440), the thermal trip
(R445) and bring-up (R449, R305).
-/
namespace Sys2Proof.Machine

open Sys2Proof

/-! ### What resets clear (Table 16.3) -/

/-- Host memory, which no reset of the module touches. -/
def hostCells (m : List Host.Cell) : List Host.Cell := m.filter fun (p : Nat × Byte) => isHost p.1

/-- An offset of the interrupt controller. -/
def inIc (off : Nat) : Bool := decide (0x0A00000 ≤ off) && decide (off < 0x0B00000)

/-- What an array keeps through a reset: its cells, and its row-write counts (AUX). -/
def Arr.kept (a : Arr) (counts : Bool) : Arr :=
  { Arr.initial with
    cells := a.cells
    rowWrites := if counts then a.rowWrites else []
    missed := if counts then a.missed else 0 }

/-- The arrays after a reset. -/
def keptArrays (t : Tab Arr) (counts : Bool) : Tab Arr :=
  (t.map fun (p : Nat × Arr) => (p.1, p.2.kept counts)).filter fun (p : Nat × Arr) => p.2 != Arr.initial

/-- The MODULE and FLR domains are cleared (R446); what belongs to the AUX domain, the pins and host memory stay. With
`link` the configuration space and the host link stay up (module reset); with `irq` the interrupt controller's retention
holds (R456). Stacks and stores keep their contents until they are zeroed (R365, R366). TB_NONCE is fresh. Every latched upper
half and held lower half ends, also of AUX registers (R8; DESIGN CHOICE, log entry 142). -/
def State.resetModule (s : State) (link irq : Bool) : State :=
  { State.reset with
    pending := s.pending, out := s.out, free := s.free
    ms := { s.ms.setMode (s.reg 0x1000010 % 4) with
      remapping := [], scrubTime := [], storeScrubPos := [], targeted := [], lastTarget := [] }
    ld := { Lantern.initial with
      aux := s.ld.aux, main := s.ld.main, mainAt := s.ld.mainAt, perst := s.ld.perst, refclk := s.ld.refclk, slot := s.ld.slot
      time := s.ld.time, pwr := .a0, a3ByLink := s.ld.a3ByLink, lastWork := s.ld.time, lastLink := s.ld.time
      d3hot := link && s.ld.d3hot, link := if link then s.ld.link else .down
      ready := if link && s.readyKey 0 then [(0, true)] else [], domains := [(0, { running := true, idleSince := s.ld.time })]
      pwrbrk := s.ld.pwrbrk, limited := s.ld.limited, alert := s.ld.alert, warm := s.ld.warm, lastSample := s.ld.lastSample
      tripped := s.ld.tripped, tripDie := s.ld.tripDie, tripUs := s.ld.tripUs, thermtrip := s.ld.thermtrip
      tripNotice := s.ld.tripNotice
      ptmEnabled := link && s.ld.ptmEnabled, ptmLast := s.ld.ptmLast, ptmPpm := s.ld.ptmPpm, ptmFrac := s.ld.ptmFrac
      i3cAddr := s.ld.i3cAddr }
    tb := Trust.initial s.tb.draws
    irq := if irq then s.irq else Irq.initial
    pcie := if link then s.pcie else Pcie.initial
    im := { Integrity.initial with
      spareMap := s.im.spareMap, cper := s.im.cper, cperWrite := s.im.cperWrite, cperBmcRead := s.im.cperBmcRead
      lastDelivery := s.ld.time }
    af := { ArrayField.initial with arrays := keptArrays s.af.arrays true, whole := s.af.whole }
    regs := s.regs.filter fun (p : Nat × W64) => regDomain p.1 == .aux || (irq && inIc p.1) }

/-- Stacks and stores lose their contents (Table 16.2). -/
def State.loseMemory (s : State) : State :=
  { s with ms := { s.ms with mem := hostCells s.ms.mem, poison := [], zone := [], upset := [] } }

/-- Entry to A3 (Table 16.2): package rails off; the identity key is erased (R415). -/
def State.enterA3 (s : State) (byLink : Bool) : State :=
  if s.ld.pwr = .a3 then s
  else
    let s1 := (s.resetModule false byLink).loseMemory
    { s1 with ld := { s1.ld with pwr := .a3, a3ByLink := byLink, link := if byLink then .l23 else .down, domains := [] } }

/-! ### Supplies and pins -/

/-- AUX_POWER_APPLIED (R433, R486): Lantern starts with device time 0 and samples the slot pins. -/
def execAuxPowerApplied (pins : Fin 16) (s : State) : Out :=
  .next (if s.ld.aux then s
    else { s with ld := { s.ld with aux := true, time := 0, mainAt := 0, lastSample := 0, ptmLast := 0, ptmFrac := 0, slot := pins.val } })

/-- AUX_POWER_LOST (R446, R480): every domain is cleared; host memory and the pins are outside the module. -/
def execAuxPowerLost (s : State) : Out :=
  .next (if ¬ s.ld.aux then s
    else { State.reset with
      pending := s.pending, out := s.out, free := s.free
      ms := { MemSys.initial with mem := hostCells s.ms.mem, hostBad := s.ms.hostBad }
      ld := { Lantern.initial with
        main := s.ld.main, perst := s.ld.perst, refclk := s.ld.refclk, pwrbrk := s.ld.pwrbrk }
      tb := Trust.initial s.tb.draws
      af := { ArrayField.initial with arrays := keptArrays s.af.arrays false } })

/-- MAIN_INPUT_PRESENT (R480). -/
def execMainInputPresent (s : State) : Out :=
  .next (if s.ld.main then s else { s with ld := { s.ld with main := true, mainAt := s.now } })

/-- MAIN_INPUT_ABSENT (R482): the module enters A3. -/
def execMainInputAbsent (s : State) : Out :=
  .next (let s1 := s.enterA3 false
    { s1 with ld := { s1.ld with main := false } })

/-- PERST_ASSERT (R446): MODULE and FLR are cleared, and the module is held in A3. -/
def execPerstAssert (s : State) : Out :=
  .next (let s1 := s.enterA3 false
    { s1 with ld := { s1.ld with perst := true } })

/-- A3 ends (R439): bring-up starts in boot state 0. After an A3 that was entered through L2/L3 Ready the interrupt
controller is restored, else it has its reset values (R456). A source that stays pending sends no further message (R453); what
arrivals in A3 have marked in the pending bit array stays to be sent. -/
def State.bringUp (s : State) : State :=
  let k := s.ld.a3ByLink
  let s1 := s.resetModule false k
  { s1 with
    ld := { s1.ld with a3ByLink := false, thermtrip := false }
    pcie := { s1.pcie with pba := if k then s.pcie.pba else [] } }

/-- PERST_RELEASE (R439, R445, R483, R486): the slot pins are sampled; A3 ends when the main input was present in the cycle
before and, after a trip, every sensor reads below 95 °C (`cool`). -/
def execPerstRelease (pins : Fin 16) (cool : Bool) (s : State) : Out :=
  .next (
    if ¬ s.ld.perst then s
    else
      let s1 : State := { s with ld := { s.ld with perst := false, slot := if s.ld.aux then pins.val else s.ld.slot } }
      if s.ld.aux ∧ s.ld.pwr = .a3 ∧ s.ld.main ∧ s.ld.mainAt < s.now ∧ (s.ld.thermtrip → cool) then s1.bringUp else s1)

/-- HOT_RESET (R446): the host link retrains. -/
def execHotReset (s : State) : Out := .next (if s.ld.pwr = .a3 then s else s.resetModule false false)

/-- MODULE_RESET_WRITE (R447): by the owner, or by the BMC while ownership is vacant; it is no access that boot states 0 and
4 discard (R402). -/
def State.resetWrite (s : State) (m : Master) (v : Nat) : State :=
  if bitAt v 0 ∧ s.regPath m ∧ (s.owns m ∨ (m = .bmc ∧ s.tb.own = .vacant)) ∧ s.ld.pwr ≠ .a3 then { s with ld := { s.ld with resetPending := true } } else s

def execModuleResetWrite (m : Master) (v : W32) (s : State) : Out := .next ((s.reachedBy m).resetWrite m v.toNat)

/-- MODULE_RESET (R446, R447, R449): a requested module reset takes effect. -/
def execModuleReset (s : State) : Out :=
  .next (if s.ld.resetPending ∧ s.ld.pwr ≠ .a3 then s.resetModule true false else s)

/-- REFCLK_LOSS (R489): the host link goes down. No rule clears HOST_LINK (R449). -/
def execRefclkLoss (s : State) : Out :=
  .next (
    let s1 : State := { s with ld := { s.ld with refclk := false } }
    if s.ld.refclk ∧ ¬ s.ld.perst ∧ s.ld.pwr ≠ .a3 then { s1 with ld := { s1.ld with link := .down } } else s1)

/-- REFCLK_RETURN (R489): a link that was up before retrains. -/
def execRefclkReturn (s : State) : Out :=
  .next (
    let s1 : State := { s with ld := { s.ld with refclk := true } }
    if ¬ s.ld.refclk ∧ ¬ s.ld.perst ∧ s.ld.pwr ≠ .a3 ∧ s.isReady .hostLink then { s1 with ld := { s1.ld with link := .l0 } } else s1)

/-- THERMAL_TRIP (R445): a sensor of die `die` reads 115 °C or more. -/
def State.trip (s : State) (die : Nat) : State :=
  if ¬ s.ld.aux ∨ s.ld.thermtrip then s
  else
    let s1 := s.enterA3 false
    { s1 with ld := { s1.ld with
      thermtrip := true, tripNotice := true, tripped := true, tripDie := die, tripUs := s.now / 1000 % 2 ^ 48 } }

def execThermalTrip (die : Fin 5) (s : State) : Out := .next (s.trip die.val)

/-! ### Function-level reset (R448) -/

/-- Every command stops at its next boundary and leaves nothing behind on the units that worked for it. -/
def State.dropCommands (s : State) : State :=
  let mine (q : Nat) : Bool := s.hg.cmds.any fun (c : Cmd) => c.seq == some q
  { s with
    hg := { s.hg with rings := [], cmds := [], replay := none, roundStart := 0, turn := 0 }
    mv := (s.mv.map fun (p : Nat × Channel) => (p.1, { p.2 with current := none, queue := [] })).filter
      fun (p : Nat × Channel) => p.2 != Channel.initial
    mc := { s.mc with tiles := [], gangs := [], works := [], folds := [], vnChecks := [], raises := [] }
    af := { s.af with
      reads := s.af.reads.filter fun (r : Read) => !mine r.seq
      refs := s.af.refs.filter fun (r : VerRef) => !mine r.seq
      matvecs := [] }
    uk := { s.uk with acts := s.uk.acts.map fun (a : Activity) => { a with seqs := [] } }
    im := { s.im with repeats := [] }
    tb := { s.tb with claim := if s.tb.claim.any fun (p : ClaimPending) => p.seq.isSome then none else s.tb.claim } }

/-- FUNCTION_LEVEL_RESET (R448, R421): every ring is disabled, host commands stop without a record, and the module acts as
FENC with RESTART. Configuration space returns to D0 and its initial values, as PCIe defines it. Halves of 64-bit accesses
(R8) end for registers of the FLR domain and stay for the others (DESIGN CHOICE, log entry 142). -/
def State.flr (s : State) : State :=
  let s1 := s.dropCommands.fencRestart
  let s2 : State := { s1 with
    regs := s1.regs.filter fun (p : Nat × W64) => regDomain p.1 != .flr
    latches := s1.latches.filter fun (l : HalfLatch) => regDomain l.offset != .flr
    pcie := Pcie.initial
    tb := { s1.tb with tap := Tap.initial }
    ld := { s1.ld with d3hot := false, ptmEnabled := false } }
  let s3 := if s2.owns .host then s2.vacate else s2
  if s.ld.d3hot then s3.wakeA2 5 else s3

def execFunctionLevelReset (s : State) : Out := .next (if s.ld.pwr = .a3 then s else s.flr)

/-! ### Power states -/

/-- Command work exists (R435). -/
def State.commandWork (s : State) : Bool :=
  s.hg.cmds.any (fun (c : Cmd) => c.seq.isSome && !c.recorded && c.parent.isNone) ||
  (List.range 64).any (fun n => s.ringEnabled n && s.unfetched n != 0) ||
  s.mv.any (fun (p : Nat × Channel) => p.2.current.isSome || !p.2.queue.isEmpty) ||
  s.fab.ports.any (fun (p : Nat × Port) => !p.2.queue.isEmpty || !p.2.inbox.isEmpty) || !s.xe.waiting.isEmpty

/-- A command that has begun or may begin still runs (R440). -/
def State.commandRuns (s : State) : Bool :=
  s.hg.cmds.any fun (c : Cmd) => c.seq.isSome && !c.ended

/-- IDLE_TIMEOUT (R435): no command work for IDLE_US. -/
def execIdleTimeout (s : State) : Out :=
  .next (if s.ld.pwr = .a0 ∧ ¬ s.commandWork ∧ s.ld.lastWork + s.idleUs * 1000 < s.now then
      { s with ld := { s.ld with pwr := .a1, a1Since := s.now } }
    else s)

/-- What keeps the module out of A2 (R436). -/
def State.dozeBlocked (s : State) : Bool :=
  s.uk.acts.any (fun (a : Activity) => a.running || a.held != 0) || s.im.slot0.busy || s.im.slot1.busy ||
  s.hg.cmds.any fun (c : Cmd) => c.opcode == 0x41 && (c.stage == .started || c.stage == .running)

/-- The module is in A2: only Lantern and the link PHYs run; the stacks are in self-refresh. The interrupt controller's
state is held in retention (R456). -/
def State.enterA2 (s : State) : State :=
  { s with ld := { s.ld with
      pwr := .a2, waking := false, domains := [], entered := some (s.now, s.ld.pwr, s.ld.domains), selfRefresh := true } }

/-- DOZE_ENTRY (R436, R440): after DOZE_MS in A1, or in D3hot once no command runs; not in the cycle of a wake event. -/
def State.doze (s : State) : State :=
  if s.dozeBlocked ∨ s.ld.lastWake = some s.now then s
  else if s.ld.pwr = .a1 ∧ s.dozeMs ≠ 0 ∧ s.ld.a1Since + s.dozeMs * 1000000 < s.now then s.enterA2
  else if s.ld.d3hot ∧ (s.ld.pwr = .a0 ∨ s.ld.pwr = .a1) ∧ ¬ s.commandRuns then s.enterA2
  else s

def execDozeEntry (s : State) : Out := .next s.doze

/-- HUB_PLL_RELOCK (R437, R438): after a wake the hub core runs, the interrupt controller is restored, enabled rings are
polled within 1 µs, and the flits that arrived meanwhile are taken. -/
def State.relock (s : State) : State :=
  if s.ld.pwr = .a2 ∧ s.ld.waking then
    let p : Power := if s.commandWork then .a0 else .a1
    let s1 : State := { s with ld := { s.ld with
      pwr := p, waking := false, a1Since := s.now, lastWork := s.now, entered := none, selfRefresh := false } }
    (((s1.setDom 0 { running := true, idleSince := s.now }).flushPba).hint).drainPorts
  else s

def execHubPllRelock (s : State) : Out := .next s.relock

/-- D3HOT_ENTRY (R440). -/
def execD3hotEntry (s : State) : Out :=
  .next (if s.ld.pwr = .a3 then s
    else
      let s1 : State := { s with ld := { s.ld with d3hot := true } }
      if s.ld.pwr = .a2 then s1 else s1.doze)

/-- D0_RETURN (R440): held host accesses and messages go. -/
def execD0Return (s : State) : Out :=
  .next (if s.ld.d3hot then
      let s1 := ({ s with ld := { s.ld with d3hot := false } }).linkUse
      (if s.ld.pwr = .a2 then s1 else s1.flushPba.hint).wakeA2 5
    else s)

/-- L2_L3_READY_ENTRY (R456). -/
def execL2L3ReadyEntry (s : State) : Out := .next (if s.ld.d3hot then s.enterA3 true else s)

/-- L1_ENTRY (R440): after 10 µs of an idle link in A1 or A2 with ASPM enabled; `sub` names L1.2. -/
def execL1Entry (sub : Bool) (s : State) : Out :=
  .next (
    if (s.ld.pwr = .a1 ∨ s.ld.pwr = .a2) ∧ s.pcie.aspm ∧ (s.ld.link = .l0 ∨ s.ld.link = .l0p) ∧ s.ld.lastLink + 10000 < s.now then
      { s with ld := { s.ld with link := if sub then .l12 else .l1 } }
    else s)

/-- The array of a read: the one it waits for, or the one that it has claimed. -/
def State.arrayOfRead (s : State) (r : Read) : Option Nat :=
  if r.stage != .waiting then some r.array
  else
    match s.readTensor r.seq with
    | none => none
    | some t =>
      match s.server t r.s r.g with
      | .array k => some k
      | _ => none

/-- A command at work, or a spill or recall under way, has data on compute die `d`. -/
def State.dieServes (s : State) (d : Nat) : Bool :=
  s.hg.cmds.any (fun (c : Cmd) => (c.stage == .started || c.stage == .running) && (s.cmdDies c).contains d) ||
  s.mv.any fun (p : Nat × Channel) => p.2.current.any fun i =>
    match i.kind with
    | .spill n => (s.entryNo n).any fun e => e.units.any fun a => (placeOf s.ms.interleave a).die == d
    | .recall n => (s.entryNo n).any fun e => e.units.any fun a => (placeOf s.ms.interleave a).die == d
    | _ => false

/-- Work or an Almanac claim on a domain (R432): a bank's reads and activities; a cluster's tiles; for a die base, those of
its banks and clusters, and the commands and transfers whose data lie on that die. -/
def State.domBusy (s : State) (k : Nat) : Bool :=
  let bank (b : Nat) : Bool :=
    s.uk.acts.any (fun (a : Activity) => a.bank == b && (a.running || a.held != 0)) ||
    s.af.reads.any fun (r : Read) => r.stage != .delivered && r.stage != .split && !r.standIn &&
      (s.arrayOfRead r).any fun k => k / 264 == b
  if k = 0 then true
  else if k < 100 then
    (List.range 32).any (fun i => bank (32 * (k - 1) + i) || s.clusterBusy (k - 1) i) || s.dieServes (k - 1)
  else if k < 300 then bank (k - 100)
  else s.clusterBusy ((k - 300) / 32) ((k - 300) % 32)

/-- PLL_IDLE_STOP (R432): after PLL_IDLE without work; 0 keeps PLLs running. -/
def State.pllStop (s : State) (k : Nat) : State :=
  let d := s.dom k
  if d.running ∧ ¬ s.domBusy k ∧ s.pllIdle ≠ 0 ∧ d.idleSince + s.pllIdle * 100000 < s.now then s.setDom k DomState.initial else s

def execPllIdleStop (d : Domain) (s : State) : Out := .next (s.pllStop (domKey d))

/-! ### Bring-up (R449) -/

/-- The spare map is applied to a bank (R305). -/
def State.applySpares (s : State) (bank : Nat) : State :=
  (s.im.spareMap.filter fun (p : Nat × Nat) => isArrayEntry p && keyOfCoord p.1 / 264 == bank).foldl (fun (u : State) p =>
    let r := keyOfCoord p.1
    let k := keyOfCoord p.2
    let u1 := u.setArr r { u.arr r with retired := true, inService := false, spare := some k }
    u1.setArr k { u1.arr k with replaces := some r }) s

/-- A stack's or a store's contents are written as at reset (R365, R366). -/
def State.zero (s : State) (f : Nat → Bool) : State :=
  { s with ms := { s.ms with
      mem := s.ms.mem.filter fun (p : Nat × Byte) => !f p.1
      poison := s.ms.poison.filter fun (p : Nat × Bool) => !f (32 * p.1)
      zone := s.ms.zone.filter fun (p : Nat × Nat) => !f (32 * p.1)
      upset := s.ms.upset.filter fun (p : Nat × Nat) => !f (32 * p.1) } }

/-- The firmware has started: FWLD completes (R406) and enabled ports train (Table 16.4, R273). -/
def State.firmwareUp (s : State) : State :=
  let s1 := s.setReady 2
  let s2 : State := { s1 with tb := { s1.tb with fwWaiting := none } }
  let s3 := match s.tb.fwWaiting with
    | some q => s2.deliver q
    | none => s2
  (List.range 12).foldl (fun (u : State) p => if u.fld (rPortCtrl p) 31 1 = 1 then u.retrain p else u) s3

/-- FUNCTION_READY (R449, Table 16.4): the end of a function's bring-up, well or not. Trust, memories and ports end theirs by
rows of their own. -/
def State.functionReady (s : State) (f : Func) (ok : Bool) : State :=
  let k := funcKey f
  if s.ld.pwr = .a3 ∨ s.readyKey k ∨ s.failedKey k then s
  else
    let fw := s.readyKey 2
    match f with
    | .trust => s
    | .hostLink =>
      if ok ∧ s.ld.refclk ∧ ¬ s.ld.perst then
        let s1 := ({ s with ld := { s.ld with link := .l0 } }).setReady k
        if s.ld.tripNotice then ({ s1 with ld := { s1.ld with tripNotice := false } }).arrive 197 else s1
      else s
    | .firmware => if ok ∧ s.tb.boot = 3 then s.firmwareUp else s
    | .exchange => if ok ∧ fw then s.setReady k else s
    | .stack _ => if ok then s else s.setFailed k
    | .wstore _ => s
    | .hubStore => s
    | .port _ => s
    | .bank d b => if ¬ fw then s else if ok then (s.applySpares (32 * d.val + b.val)).setReady k else s.setFailed k
    | .cluster _ _ => if ¬ fw then s else if ok then s.setReady k else s.setFailed k

def execFunctionReady (f : Func) (ok : Bool) (s : State) : Out := .next (s.functionReady f ok)

/-- Does address `a` lie in stack `st`; in working store `d`, or for 4 in the hub store with its journal part? -/
def State.inStack (s : State) (st a : Nat) : Bool :=
  match placeOf s.ms.interleave a with
  | .stack i _ => i == st
  | _ => false
def State.inStore (s : State) (k a : Nat) : Bool :=
  match placeOf s.ms.interleave a with
  | .wstore d => d == k
  | .hub => k == 4
  | .journal => k == 4
  | _ => false

/-- STACK_ZEROING_END (R365): the stack has trained and every codeword has been zeroed. -/
def State.stackZeroed (s : State) (st : Nat) : State :=
  if s.ld.pwr = .a3 ∨ s.readyKey (30 + st) ∨ s.failedKey (30 + st) then s else (s.zero (s.inStack st)).setReady (30 + st)

def execStackZeroingEnd (st : Fin 8) (s : State) : Out := .next (s.stackZeroed st.val)

/-- STORE_ZEROING_END (R366): working store 0 to 3, or the hub store; it fails when zeroing found an uncorrectable
codeword. -/
def State.storeZeroed (s : State) (k : Nat) (ok : Bool) : State :=
  if s.ld.pwr = .a3 ∨ s.readyKey (38 + k) ∨ s.failedKey (38 + k) then s
  else if ok then (s.zero (s.inStore k)).setReady (38 + k) else s.setFailed (38 + k)

def execStoreZeroingEnd (k : Fin 5) (ok : Bool) (s : State) : Out := .next (s.storeZeroed k.val ok)

/-! ### A Lantern cycle -/

/-- What one Lantern cycle notes: command work (R435), and the domains that have work (R432). -/
def State.noteWork (s : State) : State :=
  let w := s.commandWork && (s.ld.pwr == .a0 || s.ld.pwr == .a1)
  let p : Power := if w then .a0 else s.ld.pwr
  { s with ld := { s.ld with
      pwr := p, lastWork := if w then s.now else s.ld.lastWork
      domains := s.ld.domains.map fun (d : Nat × DomState) => if s.domBusy d.1 then (d.1, { d.2 with idleSince := s.now }) else d } }

/-- One Lantern cycle passes while auxiliary power is present (R430, R433). -/
def State.tick (s : State) : State := if s.ld.aux then s.advance.noteWork else s

/-! ### Rows of the Hamper that run commands again -/

/-- RECOMP (R221, R222). -/
def execRecomp (q : Nat) (s : State) : Out := .next (s.runRecomp q State.onStart)

/-- SPILL_TRANSFER_END (R228). -/
def execSpillTransferEnd (c : Fin 64) (s : State) : Out := .next (s.spillEnd c.val State.onStart)

end Sys2Proof.Machine
end

