-- ==== Sys2Proof/Machine/Status.lean ====
section
/-!
DEFINITION. What a read of a register returns: status fields computed from the state, stored fields, write-only and
reserved fields as zero (R4, R6, R9), global counters by privilege (R384), the capability table (R473) and the memory
windows of Table 18.5. A field that its register calls not valid is an open value.
-/
namespace Sys2Proof.Machine

open Sys2Proof

/-- A register as read: its width and its value. -/
structure RegVal where
  wide : Bool
  val : Nat
  deriving DecidableEq, Repr

def r32 (v : Nat) : Option RegVal := some { wide := false, val := v % 2 ^ 32 }
def r64 (v : Nat) : Option RegVal := some { wide := true, val := v % 2 ^ 64 }

/-- Index of `off` among `n` registers at `base + stride * i` (R471). -/
def ixOf (base stride n off : Nat) : Option Nat :=
  if base ≤ off ∧ (off - base) % stride = 0 ∧ (off - base) / stride < n then some ((off - base) / stride) else none

/-- Die and index of `off` in a register block that repeats by die with stride 0x1_0000. -/
def ixDie (base stride n off : Nat) : Option (Nat × Nat) :=
  if base ≤ off ∧ off < base + 0x40000 then
    (ixOf 0 stride n ((off - base) % 0x10000)).map fun i => ((off - base) / 0x10000, i)
  else none

/-- A flag at bit `i`. -/
def flag (b : Bool) (i : Nat) : Nat := if b then 2 ^ i else 0

/-- Bits `lo` and up from a Boolean function of the bit's number. -/
def bitMap (n : Nat) (f : Nat → Bool) : Nat := (List.range n).foldl (fun a i => a + flag (f i) i) 0

/-- The first register found. -/
def orElse_ (a b : Option RegVal) : Option RegVal := match a with
  | some x => some x
  | none => b

/-- `w` bits of the next open value. -/
def State.openBits (s : State) (w : Nat) : Nat := s.freeNat 8 % 2 ^ w

/-! ### LD -/

/-- Words of the capability table (Table 18.2). -/
def capWords : List Nat := [
  0x50414352, 0x00400001, 0x00000002, 0x00000004, 0x00200020, 0x00080100, 0x02000400, 0x020E0210, 0x00020040, 0x00000708,
  0x02000010, 0x008000C0, 0x00400008, 0x0000080C, 0x01C203E8, 0x0C000800, 0x10004040, 0x00200200, 0x00080000, 0x00040000,
  0x00010400, 0x100001C0, 0x000000FF, 0x00000040]

/-- The bits that Table 18.2 defines in each word: reserved fields and words 24 to 63 read zero at all times (R6, R473). -/
def capMask (w : Nat) : Nat := match w with
  | 2 => 0xFFFF
  | 3 => 0xFF
  | 9 => 0xFFFF
  | 13 => 0xFFFF
  | 22 => 0xFFFF
  | 23 => 0xFFFF
  | w => if 24 ≤ w then 0 else 0xFFFFFFFF

def powerCode (p : Power) : Nat := match p with
  | .a0 => 0
  | .a1 => 1
  | .a2 => 2
  | .a3 => 3

/-- LINK; a link that is down or in L2/L3 has no code, and the field is an open value. -/
def State.linkCode (s : State) : Nat := match s.ld.link with
  | .l0 => 0
  | .l0p => 1
  | .l1 => 2
  | .l12 => 3
  | _ => s.openBits 3

/-- Ready or failed bits of LD_READY and LD_FAILED: bit i is function i. -/
def readyWord (f : Nat → Bool) : Nat := bitMap 44 f

/-- Ready and failed bits of the 32 banks or clusters of a die, functions `base` on. -/
def State.readyBlock (s : State) (base : Nat) : Nat :=
  bitMap 32 (fun i => s.readyKey (base + i)) + bitMap 32 (fun i => s.failedKey (base + i)) * 2 ^ 32

/-- LD_GOV_STATUS and LD_GOV_GRANT. -/
def State.govStatus (s : State) : Nat :=
  s.budgetW * 2 ^ 48 + s.ld.thermalW * 2 ^ 32 + s.limitW * 2 ^ 16 + s.ld.cap % 2 ^ 12 * 2 ^ 4 + flag s.ld.pwrbrk 3 + flag s.ld.alert 2
def State.govGrant (s : State) : Nat :=
  s.ld.grantVN % 2 ^ 16 * 2 ^ 48 + s.ld.grantMS % 2 ^ 16 * 2 ^ 32 + s.ld.grantAF % 2 ^ 16 * 2 ^ 16 + s.ld.grantMC % 2 ^ 16

/-- Telemetry (Table 16.8) by LD offset. -/
def State.sensor (s : State) (off : Nat) : Option RegVal :=
  match ixOf 0x300 4 5 off with
  | some u => r32 (Tab.get (fun _ => 0) s.ld.sensTj u)
  | none =>
    match off with
    | 0x318 => r32 s.ld.coolIn
    | 0x31C => r32 s.ld.coolOut
    | 0x320 => r32 s.ld.vin
    | 0x324 => r32 s.ld.pin
    | 0x328 => r32 s.ld.ppkg
    | 0x32C => r32 s.ld.vaux
    | _ => none

/-- The LD window. -/
def State.ldReg (s : State) (off : Nat) : Option RegVal :=
  match off with
  | 0x10 => r64 s.now
  | 0x18 => r64 (s.reg 0x18 + flag s.ld.ptmEnabled 63 + flag s.ld.ptmAligned 62 + flag s.ld.ptmBehind 61 + s.ld.ptmOffset % 2 ^ 32)
  | 0x20 => r32 ((if s.ld.d3hot then 3 else 0) * 2 ^ 28 + s.linkCode * 2 ^ 25 + s.ld.wake * 2 ^ 8 + powerCode s.ld.pwr)
  | 0x40 => r64 s.govStatus
  | 0x48 => r64 s.govGrant
  | 0x58 => r64 (flag s.ld.tripped 63 + s.ld.tripDie * 2 ^ 60 + s.ld.tripUs)
  | 0x60 => r32 0
  | 0x100 => r64 (readyWord s.readyKey)
  | 0x108 => r64 (readyWord s.failedKey)
  | off =>
    match ixOf 0x200 0x10 4 off with
    | some d => r64 (s.readyBlock (100 + 32 * d))
    | none =>
      match ixOf 0x208 0x10 4 off with
      | some d => r64 (s.readyBlock (300 + 32 * d))
      | none =>
        match ixOf 0x1000 4 64 off with
        | some w => r32 (if s.readyKey 0 then capWords.getD w 0 else s.openBits 32 &&& capMask w)
        | none => s.sensor off

/-! ### TB -/

def masterCode (m : Master) : Nat := match m with
  | .host => 0
  | .bmc => 1
  | .debug => 2

/-- TB_STATE; the time left is in whole ms, rounded down (assumption 60). -/
def State.tbState (s : State) : Nat :=
  let own : Nat × Nat × Nat × Nat := match s.tb.own with
    | .vacant => (0, 0, 3, 0)
    | .owned m => ((s.leaseEnd - s.now) / 1000000, 0, masterCode m, 1)
    | .handover m t => ((t - s.now) / 1000000, masterCode m, 3, 2)
  own.1 % 2 ^ 32 * 2 ^ 32 + own.2.1 * 2 ^ 28 + own.2.2.1 * 2 ^ 26 + own.2.2.2 * 2 ^ 24 + s.tb.boot * 2 ^ 20 + s.tb.lastFwld * 2 ^ 16 +
    flag s.tb.debugUnlocked 7 + flag s.tb.ideActive 6 + flag s.tb.cert.isSome 5

/-- The TB window. -/
def State.tbReg (s : State) (off : Nat) : Option RegVal :=
  match off with
  | 0x10 => r64 s.tbState
  | 0x40 => r64 (s.expiryMs * 2 ^ 32 + leNat (s.certBytes 36 1) % 16 * 2 ^ 8 + s.permit)
  | 0x48 => r64 (s.svnFloor * 2 ^ 32 + s.tb.svn)
  | off =>
    match ixOf 0x20 8 4 off with
    | some k => r64 (leNat ((s.nonce.drop (8 * k)).take 8))
    | none =>
      match ixOf 0x80 8 8 off with
      | some k => r64 (leNat ((s.tb.fwDigest.drop (8 * k)).take 8))
      | none =>
        match ixOf 0xC0 8 8 off with
        | some k => r64 (leNat ((idDigest.drop (8 * k)).take 8))
        | none => none

/-! ### HG and IC -/

/-- STATE of HG_RING_STATUS_n. A halted ring shows 011 whatever else holds it. -/
def State.ringState (s : State) (n : Nat) : Nat :=
  let r := s.ring n
  if ¬ s.ringEnabled n ∧ s.inFlight n = 0 then 0
  else if r.halted then 3
  else if r.draining then 5
  else if ¬ s.ringEnabled n then 0
  else if (s.ringCmds n).any (fun c => c.stage == .stepHeld) then 2
  else if r.refusedStop then 4
  else 1

/-- HG_RING_STATUS_n. -/
def State.ringStatus (s : State) (n : Nat) : Nat :=
  let r := s.ring n
  r.fetched % 2 ^ 32 * 2 ^ 32 + s.ringState n * 2 ^ 29 + flag r.overdue 28 + Tab.get (fun _ => 4) s.hg.quota n % 16 * 2 ^ 24 +
    r.haltStatus % 256 * 2 ^ 16 + s.inFlight n % 2 ^ 16

/-- The HG window below the interrupt controller. -/
def State.hgReg (s : State) (off : Nat) : Option RegVal :=
  if off = 0x18 then r64 s.hg.nextSeq
  else match ixOf 0x1028 0x40 64 off with
    | some n => r64 (s.ringStatus n)
    | none => none

/-- Mask or pending bits of a bank: of the source that each bit acts on; 0 where there is none (R455). -/
def State.bankBits (s : State) (b : IcBank) (f : Nat → Bool) : Nat := bitMap 32 fun i => (s.bankSource b i).any f

/-- The mask of a source reads 1 while it is masked; its pending bit, while its count is not zero. -/
def State.maskedBit (s : State) (n : Nat) : Bool := !s.irqOpen n
def State.pendingBit (s : State) (n : Nat) : Bool := s.irqCount n != 0

/-- IC_SRC_s beside its stored fields. -/
def State.srcWord (s : State) (n : Nat) : Nat :=
  s.reg (rSrc n) + flag (Tab.get (fun _ => false) s.irq.sat n) 31 + flag (s.fastSlot n).isSome 30 + flag (s.pendingBit n) 29 + s.irqCount n

/-- The IC window, by IC offset. -/
def State.icReg (s : State) (off : Nat) : Option RegVal :=
  let k : Fin 16 := Fin.ofNat 16 (off / 4)
  if off < 0x80 then if off % 4 = 0 then r32 (s.bankBits (.normal k) s.maskedBit) else none
  else if off < 0x100 then if off % 4 = 0 then r32 (s.bankBits (.normal k) s.pendingBit) else none
  else if off = 0x100 then r32 0
  else if off = 0x200 ∨ off = 0x204 then r32 (s.bankBits .fast s.maskedBit)
  else if off = 0x208 ∨ off = 0x20C then r32 (s.bankBits .fast s.pendingBit)
  else match ixOf 0x1000 4 512 off with
    | some n => r32 (s.srcWord n)
    | none => none

/-! ### MV and MS -/

/-- MV_CH_STATUS_c and MV_CH_FAIL_INFO_c. -/
def State.chStatus (s : State) (c : Nat) : Nat :=
  let h := s.chan c
  min 65535 h.skipped * 2 ^ 32 + (if h.halted then 2 else if h.current.isSome then 1 else 0) * 2 ^ 30 + min 3 h.consec * 2 ^ 16 +
    min 65535 h.queue.length
def State.chFail (s : State) (c : Nat) : Nat :=
  let h := s.chan c
  h.failIndex % 2 ^ 32 * 2 ^ 32 + h.failCause % 16 * 2 ^ 20 + h.failDir % 4 * 2 ^ 18 + h.failReason % 4 * 2 ^ 16

/-- The MV window. -/
def State.mvReg (s : State) (off : Nat) : Option RegVal :=
  if off < 0x1000 ∨ 0x2000 ≤ off then none
  else
    let c := (off - 0x1000) / 0x40
    match off % 0x40 with
    | 0x08 => r64 (s.chStatus c)
    | 0x10 => r64 (s.chan c).failAddr.toNat
    | 0x18 => r64 (s.chFail c)
    | 0x20 => r64 (s.chan c).failSeq.toNat
    | _ => none

/-- MS_HAMPER_STATUS: sizes in whole MiB, rounded down (assumption 60). -/
def State.hamperStatus (s : State) : Nat :=
  (s.windowParts.map Prod.snd).sum / 2 ^ 20 % 2 ^ 24 * 2 ^ 32 + flag s.spilling 31 + Nat.log2 s.ham.stride % 8 * 2 ^ 24 +
    s.regionUsed / 2 ^ 20 % 2 ^ 24

/-- MS_STACK_STATUS_s. -/
def State.stackStatus (s : State) (st : Nat) : Nat :=
  flag (s.readyKey (30 + st)) 31 + flag s.ld.selfRefresh 30 + flag (s.ms.targeted.any fun (t : TargetScrub) => t.stack == st) 29 +
    min 255 ((List.range 64).map fun p => (s.remapped st p).length).sum * 2 ^ 8 + Tab.get (fun _ => 0) s.ms.lastTarget st % 64

/-- The MS window: MS_HAMPER_REGION reads as last written (R381). -/
def State.msReg (s : State) (off : Nat) : Option RegVal :=
  if off = 0x410 then r64 s.hamperStatus
  else if off = 0x418 then
    let p := s.ham.pending.getD (s.ham.offset, s.ham.size)
    r32 (p.1 * 2 ^ 16 + p.2)
  else match ixOf 0x200 8 8 off with
    | some st => r64 (Tab.get (fun _ => 0) s.ms.scrubTime st)
    | none =>
      match ixOf 0x1000 0x40 8 off with
      | some st => r32 (s.stackStatus st)
      | none => none

/-! ### AF and UK -/

/-- AF_BANK_STATUS_d_b of bank `b` = 32 d + b. -/
def State.bankStatus (s : State) (b : Nat) : Nat :=
  let spares := (List.range 8).map fun i => 264 * b + 256 + i
  let free := (spares.filter fun k => (s.arr k).replaces.isNone && !(s.arr k).retired).length
  let closed := ((List.range 264).filter fun i => s.closed (264 * b + i)).length
  flag (s.readyKey (100 + b)) 31 + flag (s.convCal b != 0) 30 + free * 2 ^ 16 + s.readingBank b % 256 * 2 ^ 8 + min 255 closed

/-- The array that AF_ARRAY_SEL selects. -/
def State.selArray (s : State) : Option Nat :=
  let a := s.fld 0x1400020 0 9
  if a < 264 then some (arrKey (s.fld 0x1400020 24 2) (s.fld 0x1400020 16 5) a) else none

/-- STATE of AF_ARRAY_STATUS. -/
def State.arrayState (s : State) (k : Nat) : Nat :=
  let a := s.arr k
  if a.retired then 2 else if a.inService then 1 else if 256 ≤ keyArray k then 3 else 0

/-- AF_ARRAY_STATUS of array `k`. TENSOR_ID is open for an array that has had a tensor and is not in service. -/
def State.arrayStatus (s : State) (k : Nat) : Nat :=
  let a := s.arr k
  let st := s.arrayState k
  let t := a.tensor.bind s.resident
  let id := if st = 1 then a.tensor.getD 0 else if a = Arr.initial then 0 else s.openBits 32
  let body := match t with
    | none => 0
    | some t => flag t.summer 28 + t.log2r % 4 * 2 ^ 26 + flag t.fine 25 + flag t.tdig 24 + t.rho % 16 * 2 ^ 20 + t.rhoT % 16 * 2 ^ 16
  let cols := (a.colMap.filter fun (p : Nat × Option Nat) => p.2.isSome).length
  let rep := if st = 1 then keyArray (a.replaces.getD k) else keyArray k
  id % 2 ^ 32 * 2 ^ 32 + st * 2 ^ 30 + flag (s.closed k) 29 + body + cols % 16 * 2 ^ 12 + rep

/-- AF_COL_MAP_k of spare column `j`; the column of one that has left service is open. -/
def State.colMapWord (s : State) (k j : Nat) : Nat :=
  let a := s.arr k
  match Tab.get (fun _ => none) a.colMap j with
  | some c => 2 ^ 31 + c
  | none => if a.unusable.contains j then s.openBits 9 else 0

/-- AF_COL_CAL of line `l`. -/
def State.colCal (s : State) (k l : Nat) : Nat :=
  if l < 1552 then (s.arr k).gainOf l % 2 ^ 16 * 2 ^ 16 + unsignedOf ((s.arr k).offsetOf l) 16 else 0

/-- The value of a selected-array register: zero while nothing is selected. -/
def State.ofArray (s : State) (f : Nat → Nat) : Nat := s.selArray.elim 0 f

/-- The AF window. -/
def State.afReg (s : State) (off : Nat) : Option RegVal :=
  match off with
  | 0x28 => r64 (s.ofArray s.arrayStatus)
  | 0x30 => r64 (s.ofArray s.arrayWrites)
  | 0x88 => r32 (s.ofArray fun k => s.colCal k (s.fld 0x1400080 0 11))
  | off =>
    match ixOf 0x40 4 14 off with
    | some j => r32 (s.ofArray fun k => s.colMapWord k j)
    | none =>
      match ixDie 0x1000 0x40 32 off with
      | some (d, b) => r32 (s.bankStatus (32 * d + b))
      | none => none

/-- UK_STATUS: shares held, and activities waiting for claims. -/
def State.ukStatus (s : State) : Nat :=
  let used := ((s.uk.acts.filter fun (a : Activity) => a.held == 4).map fun (a : Activity) => a.kind.share).sum
  let waiting := (s.uk.acts.filter fun (a : Activity) => a.held != 4 && !a.running).length
  used % 256 * 2 ^ 16 + min 65535 waiting

/-- The UK window. -/
def State.ukReg (s : State) (off : Nat) : Option RegVal :=
  match off with
  | 0x20 => r32 s.ukStatus
  | 0x100 => r64 (s.ofArray fun k =>
      (s.arr k).gainCal % 2 ^ 32 * 2 ^ 32 + min 65535 (s.arr k).sweepCount * 2 ^ 16 + (s.arr k).held.length % 256)
  | 0x108 => r64 (s.ofArray fun k => (s.arr k).gainTime)
  | 0x110 => r64 (s.ofArray fun k => (s.arr k).sweepTime)
  | off =>
    match ixDie 0x1000 0x10 32 off with
    | some (d, b) => r64 (s.convCal (32 * d + b) % 2 ^ 32 * 2 ^ 32)
    | none =>
      match ixDie 0x1008 0x10 32 off with
      | some (d, b) => r64 (Tab.get (fun _ => 0) s.af.bankCalTime (32 * d + b))
      | none => none

/-! ### MC, VN and XE -/

/-- The position that spare core `c` of a cluster holds. -/
def State.sparePos (s : State) (d c core : Nat) : Option Nat :=
  let x := d * 2 ^ 28 + c * 2 ^ 16 + core
  if s.readyKey (300 + 32 * d + c) then
    (s.im.spareMap.find? fun (p : Nat × Nat) => p.2 == x && !isArrayEntry p).map fun (p : Nat × Nat) => p.1 % 2 ^ 16
  else none

/-- MC_CLUSTER_STATUS_d_c. -/
def State.clusterStatus (s : State) (d c : Nat) : Nat :=
  let k := 32 * d + c
  let lost (i : Nat) : Bool := s.im.lostSpares.contains (d * 2 ^ 28 + c * 2 ^ 16 + i)
  let free := ([64, 65].filter fun i => (s.sparePos d c i).isNone && !lost i).length
  let ganged := ((s.mc.gangs.filter fun (g : Gang) => g.die == d && g.cluster == c).map fun (g : Gang) => g.side * g.side).sum
  let freq := if (s.dom (300 + k)).running then min 18 (Config.dieClock d) - (if s.clusterSlow k then 1 else 0) else 0
  flag (s.readyKey (300 + k)) 31 + flag (s.clusterSlow k) 30 + free * 2 ^ 28 + s.ceiling * 2 ^ 24 +
    Tab.get (fun _ => 0) s.mc.stage k % 16 * 2 ^ 20 + freq * 2 ^ 8 + ganged % 128

/-- MC_SPARE_MAP_d_c; the position of a spare core that is retired itself is open. -/
def State.spareWord (s : State) (d c : Nat) : Nat :=
  let half (core : Nat) : Nat := match s.sparePos d c core with
    | some p => 2 ^ 15 + p % 64 * 2 ^ 8
    | none => if s.im.lostSpares.contains (d * 2 ^ 28 + c * 2 ^ 16 + core) then s.openBits 6 * 2 ^ 8 else 0
  half 65 * 2 ^ 16 + half 64

/-- The MC window. -/
def State.mcReg (s : State) (off : Nat) : Option RegVal :=
  match ixDie 0x1000 0x20 32 off with
  | some (d, c) => r32 (s.clusterStatus d c)
  | none =>
    match ixDie 0x1008 0x20 32 off with
    | some (d, c) => r32 (s.spareWord d c)
    | none => none

/-- The VN window: VN_UPDT_SKIPS is a status register that every master may read. -/
def State.vnReg (s : State) (off : Nat) : Option RegVal := if off = 0x200 then r64 (s.ctr 0x1C00200) else none

/-- XE_STEP_STATUS. -/
def State.xeStatus (s : State) : Nat :=
  s.xe.lastStep % 2 ^ 32 * 2 ^ 32 + s.xe.lastOutcome % 4 * 2 ^ 30 + flag s.xe.reformed 29 + flag s.xe.stopped 28 + s.present.length % 2048

def portCode (p : PortState) : Nat := match p with
  | .disabled => 0
  | .training => 1
  | .up => 2
  | .down => 3
  | .incompatible => 4

/-- Lanes set in a mask. -/
def laneCount (l : Nat) : Nat := ((List.range 8).filter fun i => bitAt l i).length

/-- XE_PORT_STATUS_p; the peer's fields are open once the port has been up and is not. -/
def State.portStatus (s : State) (p : Nat) : Nat :=
  let x := s.port p
  let peer := if x.state = .up then x.peerRank % 1024 * 16 + x.peerPort % 16 else if x.trained = 0 then 0 else s.openBits 14
  let lanes := x.lanes % 256
  peer * 2 ^ 50 + lanes * 2 ^ 40 + x.fails % 256 * 2 ^ 32 + portCode x.state * 2 ^ 28 + laneCount lanes * 2 ^ 24

/-- The XE window. -/
def State.xeReg (s : State) (off : Nat) : Option RegVal :=
  if off = 0x60 then r64 s.xeStatus
  else match ixOf 0x1000 0x40 12 off with
    | some p => r64 (s.portStatus p)
    | none => none

/-! ### IM -/

/-- The oldest step in progress: accepted commands name it and nothing has resolved it. -/
def State.oldestStep (s : State) : Option Nat := (s.hg.steps.find? fun (p : Nat × StepInfo) => p.2.mark == .open && p.2.named).map Prod.fst

/-- IM_FENCE_STATUS; NF is open until every summary has arrived. -/
def State.fenceStatus (s : State) : Nat :=
  match s.oldestStep with
  | none => 0
  | some n =>
    let k := (s.xeStep n).got.length
    let nf := if k = s.present.length then flag (s.globalNf n) 30 else s.openBits 1 * 2 ^ 30
    n % 2 ^ 32 * 2 ^ 32 + flag (s.fenceLocal n) 31 + nf + k % 2048

/-- IM_JOURNAL_STATUS. -/
def State.journalStatus (s : State) : Nat :=
  flag (s.hg.steps.any fun (p : Nat × StepInfo) => p.2.mark == .open && p.2.unreplayable) 31 + s.hg.journal.length % 2 ^ 20

def State.pcard (s : State) (k : Nat) : PostSlot := if k = 0 then s.im.slot0 else s.im.slot1

/-- IM_PCARD_STATUS_k. -/
def State.pcardStatus (s : State) (k : Nat) : Nat :=
  let x := s.pcard k
  x.captures % 2 ^ 32 * 2 ^ 32 + flag x.valid 31 + flag x.busy 30 + x.cause % 16 * 2 ^ 24

/-- IM_LOG_STATUS_u. -/
def State.logStatus (s : State) (u : Nat) : Nat :=
  let l := (s.log u).settle u s.now
  min (2 ^ 32 - 1) l.lost * 2 ^ 32 + l.state % 4 * 2 ^ 30 + flag l.triggered 29 + l.wrptr % 2 ^ 19

/-- IM_RCTR_i: a slot that counts a class U event is a privileged read; in the cycle of a start latch it shows the sample (R390). -/
def State.slotCounter (s : State) (m : Master) (i : Nat) : Nat :=
  let r := s.ring (s.fld 0x28000A0 0 6)
  let l := match r.sample with
    | some (t, l) => if t = s.now then l else r.slots
    | none => r.slots
  if classU (r.codes.getD i 0) ∧ ¬ s.privileged m then 0 else l.getD i 0

/-- IM_RCTR_CODE_j. -/
def State.slotCodes (s : State) (j : Nat) : Nat :=
  leNat (((s.ring (s.fld 0x28000A0 0 6)).codes.drop (4 * j)).take 4 |>.map (BitVec.ofNat 8))

/-- Fields of a Postcard that only a privileged read shows (R384, Table 14.8): event counters, commands, and the current
values of waits at bytes 24 to 31 of their entries. -/
def hiddenByte (o : Nat) : Bool :=
  (decide (0x8000 ≤ o) && decide (o < 0x10000)) || decide (0x100000 ≤ o) ||
    (decide (0x10000 ≤ o) && decide (o < 0x20000) && decide (24 ≤ o % 32))

/-- Offset of the redaction flag in a Postcard's header (assumption 61). -/
def redactOffset : Nat := 48

/-- Byte `o` of a Postcard as a reader with or without privilege sees it (R400). -/
def cardByte (page : List (Nat × List Byte)) (priv : Bool) (o : Nat) : Byte :=
  if ¬ priv ∧ hiddenByte o then 0
  else if o = redactOffset then (if priv then 0 else 1)
  else
    match page.find? fun (p : Nat × List Byte) => decide (p.1 ≤ o) && decide (o < p.1 + p.2.length) with
    | some p => p.2.getD (o - p.1) 0
    | none => 0

/-- A word of the Postcard window: zero during capture and while the slot holds nothing (R400). -/
def State.cardWord (s : State) (m : Master) (off : Nat) : Nat :=
  let x := s.pcard (s.fld 0x2800090 16 1)
  if x.busy ∨ ¬ x.valid then 0
  else leNat ((List.range 4).map fun i => cardByte x.page (s.privileged m) (4096 * s.fld 0x2800090 0 9 + off + i))

/-- A word of the CPER queue window (R308). -/
def State.cperWord (s : State) (off : Nat) : Nat := leNat (((Tab.get (fun _ => []) s.im.cper (off / 512)).drop (off % 512)).take 4)

/-- The IM window. -/
def State.imReg (s : State) (m : Master) (off : Nat) : Option RegVal :=
  match off with
  | 0x40 => r64 s.fenceStatus
  | 0x48 => r32 s.journalStatus
  | 0x50 => r32 (s.im.cperWrite % 256 * 2 ^ 16 + s.cperRead)
  | 0x60 => r32 (flag s.im.watchFired 31 + s.watchMs)
  | 0x80 => r64 (s.pcardStatus 0)
  | 0x88 => r64 (s.pcardStatus 1)
  | 0x98 => r32 0
  | off =>
    match ixOf 0x700 8 16 off with
    | some i => r64 (s.slotCounter m i)
    | none =>
      match ixOf 0x780 4 4 off with
      | some j => r32 (s.slotCodes j)
      | none =>
        match ixOf 0x808 0x40 5 off with
        | some u => r64 (s.logStatus u)
        | none =>
          if 0x40000 ≤ off ∧ off < 0x41000 then (if off % 4 = 0 then r32 (s.cardWord m (off - 0x40000)) else none)
          else if 0x80000 ≤ off ∧ off < 0xA0000 then (if off % 4 = 0 then r32 (s.cperWord (off - 0x80000)) else none)
          else none

/-! ### All of BAR0 -/

/-- Global counters (Table 18.4): base, stride and number, by BAR0 offset. -/
def ctrRows : List (Nat × Nat × Nat) :=
  ((List.range 4).flatMap fun d => [
    (0x1400300 + 0x10000 * d, 8, 6), (0x2400300 + 0x10000 * d, 8, 6), (0x1800300 + 0x10000 * d, 8, 8), (0x1C00300 + 0x10000 * d, 8, 7),
    (0x2800300 + 0x10000 * d, 8, 4)]) ++
  [(0x2000300, 8, 6), (0x2001010, 0x40, 12), (0x2001018, 0x40, 12), (0x2001020, 0x40, 12), (0x2800400, 8, 7), (0x2802000, 8, 256),
    (0xC00300, 8, 5), (0x1000300, 8, 8), (0x1000340, 8, 6), (0x1000500, 8, 6)]

/-- `off` is a global counter. -/
def isCounter (off : Nat) : Bool := ctrRows.any fun r => (ixOf r.1 r.2.1 r.2.2 off).isSome

/-- A register that is read from the state, by window (Table 18.1). -/
def State.statusReg (s : State) (m : Master) (off : Nat) : Option RegVal :=
  let o := off % 0x400000
  match off / 0x400000 with
  | 0 => s.ldReg o
  | 1 => s.tbReg o
  | 2 => if o < 0x200000 then s.hgReg o else s.icReg (o - 0x200000)
  | 3 => s.mvReg o
  | 4 => s.msReg o
  | 5 => s.afReg o
  | 6 => s.mcReg o
  | 7 => s.vnReg o
  | 8 => s.xeReg o
  | 9 => s.ukReg o
  | 10 => s.imReg m o
  | _ => none

/-- The register at BAR0 offset `off` as master `m` reads it; none where there is none (R9). -/
def State.regVal (s : State) (m : Master) (off : Nat) : Option RegVal :=
  match s.statusReg m off with
  | some v => some v
  | none =>
    if isCounter off then r64 (if s.privileged m then s.ctr off else 0)
    else match findRow regRows off with
      | some (r, _) => some { wide := r.wide, val := s.reg off }
      | none => none

/-- Registers that the boot state lets a master read (Table 15.2). -/
def State.readable (s : State) (off : Nat) : Bool :=
  decide (off < 0x400000) || (if s.tb.boot = 4 then off == 0x400010 else s.tb.boot != 0)

/-- The register at `off` as read: nothing there, not readable in this boot state, or its value. -/
def State.readReg (s : State) (m : Master) (off : Nat) : RegVal :=
  match s.regVal m off with
  | none => { wide := false, val := 0 }
  | some v => if s.readable off && s.regPath m then v else { v with val := 0 }

/-! ### Configuration space and the debug port -/

/-- A base address register of `2 ^ n` bytes as read: the address bits the host has written, and the type bits `t`. -/
def State.barLow (s : State) (o n t : Nat) : W32 :=
  BitVec.ofNat 32 ((Tab.get (fun _ => 0) s.pcie.other o).toNat / 2 ^ n * 2 ^ n + t)

/-- Its upper word, for `2 ^ n` bytes. -/
def State.barHigh (s : State) (o n : Nat) : W32 :=
  BitVec.ofNat 32 ((Tab.get (fun _ => 0) s.pcie.other o).toNat / 2 ^ (n - 32) * 2 ^ (n - 32))

/-- The configuration word at byte offset `o` of function 0 (R490, Table 19.9): vendor and device, memory space enable, class
and revision, BAR0 (64-bit, 64 MiB), BAR2 (64-bit, 4 KiB) and BAR4 (64-bit, prefetchable, of the size in force), subsystem,
and power management with No_Soft_Reset (R440); else what the host has written. The offsets are those of a PCIe type 0 header
(PRESUMED, assumption 141). -/
def State.cfgWord (s : State) (o : Nat) : W32 :=
  match o with
  | 0x00 => 0xE5121F3D
  | 0x04 => BitVec.ofNat 32 ((if s.pcie.memorySpace then 2 else 0) + 2 ^ 20)
  | 0x08 => 0x12000000
  | 0x10 => s.barLow 0x10 26 4
  | 0x14 => s.barHigh 0x14 26
  | 0x18 => s.barLow 0x18 12 4
  | 0x1C => s.barHigh 0x1C 12
  | 0x20 => s.barLow 0x20 (30 + s.pcie.bar4Log2) 0xC
  | 0x24 => s.barHigh 0x24 (30 + s.pcie.bar4Log2)
  | 0x2C => 0x00011F3D
  | 0x34 => 0x00000040
  | 0x40 => 0x00030001
  | 0x44 => BitVec.ofNat 32 ((if s.ld.d3hot then 3 else 0) + 8)
  | o => Tab.get (fun _ => 0) s.pcie.other o

/-- Bytes 4 to 15 of the vendor-specific extended capability (Table 19.9): its header, the slot number, and word 2 of the
capability table. -/
def State.vsec (s : State) : List Byte :=
  natLe 4 0x01010001 ++ natLe 1 s.ld.slot ++ natLe 3 0 ++ natLe 4 (capWords.getD 2 0)

/-- IDCODE of the IEEE 1149.1 port (R488). -/
def idcode : W32 := 0x0E5124A3

/-- What the port's data register captures: one zero under BYPASS, the 32 bits of IDCODE under IDCODE, low bit first. -/
def Tap.captured (t : Tap) : List Bool := match t.instr with
  | .bypass => [false]
  | .idcode => (List.range 32).map fun i => idcode.getLsbD i

end Sys2Proof.Machine
end

