-- ==== Sys2Proof/Machine/Observe.lean ====
section
/-!
DEFINITION. Postcards (R398 to R400), CNTR (R387, R392, R397), the watchdog (R399) and the Logbook's rows (R394, R395). The
order of the fields inside the sections of a Postcard is the manual's order; their places are the model's (assumption 61).
-/
namespace Sys2Proof.Machine

open Sys2Proof

/-! ### The contents of a Postcard (Table 14.8) -/

/-- An entry filled with zeros to `n` bytes. -/
def entry_ (n : Nat) (l : List Byte) : List Byte := (l ++ List.replicate n 0).take n

/-- Header fields of 8 bytes each behind MAGIC and VERSION, in the order of Table 14.8. -/
structure CardHead where
  cause : Nat
  start : Nat
  stop : Nat
  newest : Nat
  fw : List Byte
  /-- Entries left out of the sections Waits, Almanac, Exchange and Commands. -/
  left : List Nat
  deriving DecidableEq, Repr

/-- The redaction flag, at byte 48, is set by whoever reads the Postcard. -/
def CardHead.bytes (h : CardHead) : List Byte :=
  natLe 4 0x50435244 ++ natLe 4 1 ++ natLe 8 h.cause ++ natLe 8 h.start ++ natLe 8 h.stop ++ natLe 8 h.newest ++ entry_ 8 h.fw ++
    natLe 8 0 ++ h.left.flatMap (natLe 4)

/-- Rings. -/
def State.cardRing (s : State) (n : Nat) : List Byte :=
  let r := s.ring n
  entry_ 64 (natLe 8 (s.ringStatus n) ++ natLe 4 r.sqTail ++ natLe 4 r.cqHead ++ natLe 4 r.fetched ++ natLe 4 r.completed ++
    natLe 8 ((s.nextRecord n).bind Cmd.seq |>.getD 0))

/-- Readiness and governor: a byte for each cluster's issue ceiling. -/
def State.cardReady (s : State) : List Byte :=
  natLe 8 (readyWord s.readyKey) ++ natLe 8 s.govGrant ++ List.replicate 128 (BitVec.ofNat 8 s.ceiling) ++ natLe 8 s.ld.cap ++
    natLe 8 s.limitW

/-- Mover channels. -/
def State.cardChannel (s : State) (c : Nat) : List Byte :=
  let h := s.chan c
  entry_ 64 (natLe 8 (s.chStatus c) ++ natLe 8 h.failAddr.toNat ++ natLe 8 (s.chFail c) ++ natLe 8 h.failSeq.toNat ++
    natLe 8 ((h.current.bind MoverItem.seq).getD 0))

/-- Credits of one direction of a die-to-die connection, in 32 bytes: held, owed (none: a credit returns with its buffer), and
flits in the retry buffer, of each virtual channel. -/
def State.cardD2d (s : State) (k : Nat) : List Byte :=
  let x := s.d2dLink k
  entry_ 32 (x.credits.flatMap (natLe 2) ++ List.replicate 8 0 ++
    (List.range 4).flatMap fun v => natLe 2 (x.retry.filter fun f => f.vc == v).length)

/-- Credits: the 8 die-to-die connections with 64 bytes each, both directions; then the ports, with credits held of each
channel, credits owed and retained flits. -/
def State.cardCredits (s : State) : List Byte :=
  (List.range 16).flatMap s.cardD2d ++ (List.range 12).flatMap fun p =>
    entry_ 64 ((s.port p).credits.flatMap (natLe 4) ++ (s.port p).owed.flatMap (natLe 4) ++ List.replicate 4 0 ++
      natLe 4 (s.port p).retry.length)

/-- Kinds of waits, numbered in the order of Table 14.8. -/
structure WaitEntry where
  ring : Nat
  kind : Nat
  start : Nat
  seq : Nat
  at_ : Nat
  value : Nat
  current : Nat
  deriving DecidableEq, Repr

/-- 32 bytes of a wait: ring, kind, start time in µs (48 bits), sequence number, EVENT or coordinate, VALUE, current. -/
def WaitEntry.bytes (w : WaitEntry) : List Byte :=
  natLe 1 w.ring ++ natLe 1 w.kind ++ natLe 6 (w.start / 1000) ++ natLe 4 w.seq ++ natLe 4 w.at_ ++ natLe 8 w.value ++ natLe 8 w.current

/-- Where a function of the ready bits stands in a wait: a bank's or a cluster's coordinate, else its number in LD_READY. -/
def readyPlace (k : Nat) : Nat :=
  let bank (b : Nat) : Nat := b / 32 * 2 ^ 28 + b % 32 * 2 ^ 16
  if 1000 ≤ k then bank (k - 1000) else if 300 ≤ k then bank (k - 300) else if 100 ≤ k then bank (k - 100) else k

/-- What a command waits for, besides its reads. -/
def State.cmdWaits (s : State) (c : Cmd) : List WaitEntry :=
  let q := c.seq.getD 0
  let w (kind at_ value current start : Nat) : WaitEntry :=
    { ring := c.ring, kind := kind, start := start, seq := q, at_ := at_, value := value, current := current }
  (if c.isWait && c.stage == .running then
    [w 0 (c.u 16 2) (c.u 24 8) (s.event (c.u 16 2)).toNat c.startedAt] else []) ++
  (if c.stage == .accepted then (c.heldSince.map fun t => w 2 (((s.needsReady c).find? fun k => !s.keyMet k).elim 0 readyPlace) 0 0 t).toList else []) ++
  (if c.stage == .stepHeld then [w 6 0 0 0 c.startedAt] else []) ++
  (if c.ended && !c.recorded && c.parent.isNone then (c.recordReady.map fun t => w 7 0 0 0 t).toList else []) ++
  ((s.wantsGang q).map fun p => w 3 (p.1.die * 2 ^ 28 + p.1.cluster * 2 ^ 16) 0 0 c.startedAt).toList

/-- What a waiting read waits for: a version, a closure, or an array slot. -/
def State.readWaits (s : State) (r : Read) : List WaitEntry :=
  match s.cmd r.seq, s.readTensor r.seq with
  | some c, some t =>
    if r.stage ≠ .waiting then []
    else
      let v := s.pairVersion t r.s r.g
      let k := (s.arrayOf t (t.pair r.s r.g)).getD (t.placeOf r.s r.g).2
      let w (kind value current : Nat) : WaitEntry :=
        { ring := c.ring, kind := kind, start := (if kind = 1 then r.versionSince else none).getD (r.waitSince.getD s.now), seq := r.seq, at_ := coordOfKey k, value := value, current := current }
      if v < r.version then [w 1 r.version v] else if s.closed k then [w 5 0 0] else [w 4 0 0]
  | _, _ => []

def State.cardWaits (s : State) : List WaitEntry :=
  ((s.hg.cmds.filter fun (c : Cmd) => c.parent.isNone).flatMap s.cmdWaits) ++ s.af.reads.flatMap s.readWaits

/-- Clusters: status and gangs allocated. -/
def State.cardCluster (s : State) (k : Nat) : List Byte :=
  entry_ 64 (natLe 8 (s.clusterStatus (k / 32) (k % 32)) ++
    natLe 8 (s.mc.gangs.filter fun (g : Gang) => g.die == k / 32 && g.cluster == k % 32).length)

/-- Activities of a bank that wait. -/
def State.bankWaits (s : State) (b : Nat) : List Activity :=
  s.uk.acts.filter fun (a : Activity) => a.bank == b && a.held != 4 && !a.running

/-- Almanac, one bank: claims held on the rail, converter bank and arrays, writers, allowance held, waiting activities. -/
def State.cardBank (s : State) (b : Nat) : List Byte :=
  let l := s.uk.acts.filter fun (a : Activity) => a.bank == b
  let held (n : Nat) : Nat := (l.filter fun (a : Activity) => decide (n < a.held)).length
  let writers := (l.filter fun (a : Activity) => decide (0 < a.held) && a.kind.railClaim == .writer).length
  let share := ((l.filter fun (a : Activity) => a.held == 4).map fun (a : Activity) => a.kind.share).sum
  entry_ 1024 (natLe 8 (held 0) ++ natLe 8 (held 1) ++ natLe 8 (held 2) ++ natLe 8 writers ++ natLe 8 share ++
    ((s.bankWaits b).take 32).flatMap fun (a : Activity) => natLe 8 a.cls ++ natLe 8 a.queuedAt)

/-- Exchange, one part: with the taken slots as a bitmap and the summaries received for its step. -/
def State.cardPart (s : State) (p : Part) : List Byte :=
  let st : Nat := match p.state with
    | .collecting => 0
    | .delivered => 1
    | .cleared => 2
  let first := p.first.getD 0
  entry_ 256 (natLe 4 p.step ++ natLe 4 p.bucket ++ natLe 4 p.owner ++ natLe 4 st ++
    natLe 128 (bitMap 1024 fun i => p.taken.any fun (c : Copy) => s.slotOf c.rank == i) ++ natLe 8 (first + s.deadlineNs) ++
    natLe 8 (first + s.giveupNs) ++ natLe 4 (s.xeStep p.step).got.length)

/-- Arrays, 8 bytes each: version, array held, references, and STATE, closed and in transition in the last byte. -/
def State.cardArray (s : State) (k : Nat) : List Byte :=
  let a := s.arr k
  let st := s.arrayState k
  let refs := (s.af.refs.filter fun (r : VerRef) => some r.tensor == a.tensor && r.version == a.version).length
  natLe 4 a.version ++ natLe 2 (keyArray (a.replaces.getD k)) ++ natLe 1 (min 255 refs) ++
    natLe 1 (st + flag (s.closed k) 2 + flag (a.transition.any fun x => x.started) 3)

/-- State of a command: accepted, started, running, delivered. -/
def stageCode (t : Stage) : Nat := match t with
  | .stepHeld => 0
  | .accepted => 1
  | .started => 2
  | .running => 3
  | .delivered => 4
  | .clear => 5
  | .failed => 6
  | .refused => 7

/-- A command takes its place by issue sequence number. -/
def bySeq (c : Cmd) : List Cmd → List Cmd
  | [] => [c]
  | d :: l => if c.seq.getD 0 < d.seq.getD 0 then c :: d :: l else d :: bySeq c l

/-- Accepted commands that are not clear, in issue order. -/
def State.openCmds (s : State) : List Cmd :=
  (s.hg.cmds.filter fun (c : Cmd) => c.seq.isSome && c.parent.isNone && !c.stage.isClear && c.stage != .failed).foldr bySeq []

/-- Commands: ring, opcode, state, step, tag, and the first five commands it depends on. -/
def State.cardCmd (s : State) (c : Cmd) : List Byte :=
  entry_ 64 (natLe 2 c.ring ++ natLe 1 c.opcode ++ natLe 1 (stageCode c.stage) ++ natLe 4 c.step ++ natLe 4 c.tag ++ natLe 4 0 ++
    natLe 8 (c.seq.getD 0) ++ (((s.dependsOn c).filterMap Cmd.seq).take 5).flatMap (natLe 8))

/-- The header of a Postcard captured now. -/
def State.cardHead (s : State) (cause start stop : Nat) : CardHead :=
  { cause := cause, start := start, stop := stop, newest := s.hg.newest.getD 0, fw := s.tb.fwDigest
    left := [s.cardWaits.length - 2048, ((List.range 128).map fun b => (s.bankWaits b).length - 32).sum, s.xe.parts.length - 512, s.openCmds.length - 16384] }

/-- The sections of a Postcard but its header (R398), each with its offset. -/
def State.cardBody (s : State) : List (Nat × List Byte) := [
  (0x1000, (List.range 64).flatMap s.cardRing), (0x2000, s.cardReady), (0x3000, (List.range 64).flatMap s.cardChannel)
  , (0x4000, s.cardCredits), (0x8000, (List.range 4096).flatMap fun e => natLe 8 (s.event e).toNat)
  , (0x10000, (s.cardWaits.take 2048).flatMap WaitEntry.bytes), (0x20000, (List.range 128).flatMap s.cardCluster)
  , (0x30000, (List.range 128).flatMap s.cardBank), (0x50000, (s.xe.parts.take 512).flatMap s.cardPart)
  , (0x80000, (List.range 33792).flatMap s.cardArray), (0x100000, (s.openCmds.take 16384).flatMap s.cardCmd)]

/-- A whole Postcard captured now. -/
def State.card (s : State) (cause stop : Nat) : List (Nat × List Byte) := (0, (s.cardHead cause s.now stop).bytes) :: s.cardBody

/-- The 2 MiB that a reader sees (R400). -/
def cardImage (page : List (Nat × List Byte)) (priv : Bool) : List Byte := (List.range 0x200000).map (cardByte page priv)

/-! ### SNAP (R399) -/

/-- SNAP writes the Postcard in one step and triggers the Logbooks; the capture ends when it starts. -/
def State.snap (s : State) (q : Nat) : State :=
  match s.runnable q 0x40 with
  | none => s
  | some c =>
    let a := c.u 16 8
    if s.heldBack [(a, 0x200000)] then s
    else
    match s.writeFail [(a, 0x200000)] with
    | some f => s.failMem q f
    | none =>
      let img := cardImage (s.card 3 s.now) (s.privileged .host)
      (((s.freeStep).writeAll (some q) [(a, img)]).trigger 3).deliver q

def execSnap (q : Nat) (s : State) : Out := .next (s.snap q)

/-! ### Slots 0 and 1 -/

def State.setCard (s : State) (k : Nat) (x : PostSlot) : State :=
  if k = 0 then { s with im := { s.im with slot0 := x } } else { s with im := { s.im with slot1 := x } }

/-- A capture into slot `k` starts, with its entries read now; a request during a capture is ignored (R399). It triggers the
Logbooks. -/
def State.startCard (s : State) (k cause : Nat) : State :=
  let x := s.pcard k
  if x.busy then s
  else
    (((s.setCard k { x with busy := true, valid := false, cause := cause, page := s.card cause 0, started := s.now }).freeStep)).trigger cause

/-- POSTCARD_CAPTURE_END (R398): the header takes the end time. -/
def State.endCard (s : State) (k : Nat) : State :=
  let x := s.pcard k
  if ¬ x.busy then s
  else
    let head := match x.page with
      | (0, h) :: t => (0, h.take 24 ++ natLe 8 s.now ++ h.drop 32) :: t
      | l => l
    s.setCard k { x with busy := false, valid := true, captures := x.captures + 1, page := head }

def execPostcardCaptureEnd (k : Fin 2) (s : State) : Out := .next (s.endCard k.val)

/-- POSTCARD_REQUEST (R399): a write of 1 to REQ, or the BMC's request; any master may make it. -/
def State.cardRequest (s : State) (m : Master) (v : Nat) : State :=
  if bitAt v 0 ∧ s.regLands m then s.startCard 1 5 else s

def execPostcardRequest (m : Master) (v : W32) (s : State) : Out := .next ((s.reachedBy m).cardRequest m v.toNat)

/-- WATCHDOG_EXPIRY (R399): it fires again only after a later delivery. -/
def State.watchdog (s : State) : State :=
  if s.watchMs ≠ 0 ∧ s.im.watchArmed ∧ s.undelivered ∧ s.im.lastDelivery + s.watchMs * 1000000 < s.now then
    let s1 : State := { s with im := { s.im with watchFired := true, watchFiredAt := some s.now, watchArmed := false } }
    ((if s1.im.slot0.busy then s1.trigger 4 else s1.startCard 0 4)).arrive 193
  else s

def execWatchdogExpiry (s : State) : Out := .next s.watchdog

/-! ### CNTR -/

/-- Listed catalogue codes (Table 14.1). -/
def listedCode (k : Nat) : Bool :=
  decide (k ≤ 0x08) || (decide (0x10 ≤ k) && decide (k ≤ 0x19)) || (decide (0x20 ≤ k) && decide (k ≤ 0x25)) ||
  (decide (0x30 ≤ k) && decide (k ≤ 0x37)) || (decide (0x40 ≤ k) && decide (k ≤ 0x44)) || (decide (0x50 ≤ k) && decide (k ≤ 0x53)) ||
  (decide (0x60 ≤ k) && decide (k ≤ 0x62)) || k == 0x70 || k == 0x71 || k == 0x80

/-- A CNTR with this OP may run now. -/
def State.cntr (s : State) (q op : Nat) : Option Cmd := (s.runnable q 0x41).filter fun c => c.u8 16 == op

/-- CNTR SELECT (R387): the field of the first code that may not be selected fails it. -/
def State.cntrSelect (s : State) (q : Nat) : State :=
  match s.cntr q 0 with
  | none => s
  | some c =>
    let codes := (List.range 16).map fun i => c.u8 (32 + i)
    let bad (k : Nat) : Bool := !listedCode k || (classU k && !bitAt s.permit 1)
    match (List.range 16).find? fun i => bad (codes.getD i 0) with
    | some i => s.failCmd q .badDescriptor (32 + i)
    | none =>
      let r := s.ring c.ring
      (s.setRing c.ring { r with codes := codes, slots := List.replicate 16 0 }).deliver q

def execCntrSelect (q : Nat) (s : State) : Out := .next (s.cntrSelect q)

/-- CNTR DUMP (R392): the global counters as they stand when it runs. -/
def State.cntrDump (s : State) (q : Nat) : State :=
  match s.cntr q 1 with
  | none => s
  | some c =>
    let a := c.u 24 8
    if s.heldBack [(a, 2048)] then s
    else
    match s.writeFail [(a, 2048)] with
    | some f => s.failMem q f
    | none =>
      let v (e : Nat) : Nat := if s.privileged .host then s.ctr (evtTotal e) else 0
      (s.writeAll (some q) [(a, (List.range 256).flatMap fun e => natLe 8 (v e))]).deliver q

def execCntrDump (q : Nat) (s : State) : Out := .next (s.cntrDump q)

/-- The header of Logbook `u` (R397). -/
def State.logHead (s : State) (u : Nat) : List Byte :=
  let l := (s.log u).settle u (s.now / 2)
  entry_ 64 (natLe 8 (s.logStatus u) ++ natLe 4 (s.reg (rLogCfg u)) ++ natLe 4 (l.firstMarker.getD 0xFFFFFFFF) ++
    natLe 8 l.records.length)

/-- The copy of a Logbook's buffer: records oldest first, then zeros. -/
def State.logBuffer (s : State) (u : Nat) : List Byte := entry_ (32 * logSize u) (((s.log u).settle u (s.now / 2)).records.reverse.flatMap id)

/-- CNTR LOGREAD (R397). -/
def State.cntrLogread (s : State) (q : Nat) : State :=
  match s.cntr q 2 with
  | none => s
  | some c =>
    let a := c.u 24 8
    if s.heldBack [(a, 4096 + 48 * 2 ^ 20)] then s
    else
    match s.writeFail [(a, 4096 + 48 * 2 ^ 20)] with
    | some f => s.failMem q f
    | none =>
      let head := entry_ 4096 ((List.range 5).flatMap s.logHead)
      (s.writeAll (some q) [(a, head ++ (List.range 5).flatMap s.logBuffer)]).deliver q

def execCntrLogread (q : Nat) (s : State) : Out := .next (s.cntrLogread q)

/-! ### The Logbook -/

/-- A write to IM_LOG_CFG_u: its fields, then ARM, which acts only while TRACE is granted; a trigger of the same cycle acts on the
capture that it arms (R394). -/
def State.logCfgWrite (s : State) (m : Master) (u v : Nat) : State :=
  if s.owns m ∧ s.regLands m then
    let s1 := s.setReg (rLogCfg u) (v &&& 0x707F01FF)
    if bitAt v 31 ∧ bitAt s.permit 2 then
      let mode := bitsOf v 29 2
      let old := (s.log u).trigs.filter fun p => p.1 == s.now
      old.foldl (fun (v : State) p => v.triggerLog u p.2) (s1.setLog u { Logbook.initial with state := 1, mode := if mode = 3 then 0 else mode })
    else s1
  else s

/-- A write to IM_LOG_TRIG (R395). The manual places IM_LOG_CFG_4 at the same offset (assumption 62). -/
def State.logTrigWrite (s : State) (m : Master) (v : Nat) : State :=
  if s.owns m ∧ s.regLands m ∧ bitAt v 0 then s.trigger 2 else s

/-- LOGBOOK_ARM (R394): a write with ARM 1. -/
def execLogbookArm (m : Master) (u : Fin 5) (v : W32) (s : State) : Out :=
  .next (let s := s.reachedBy m
    if bitAt v.toNat 31 then s.logCfgWrite m u.val v.toNat else s)

/-- LOGBOOK_MANUAL_TRIGGER (R395): a write to IM_LOG_TRIG with TRIG 1. -/
def execLogbookManualTrigger (m : Master) (v : W32) (s : State) : Out :=
  .next (let s := s.reachedBy m
    s.logTrigWrite m v.toNat)

/-- LOGBOOK_CAPTURE_FULL (R394): stop mode and centred mode after its trigger stop when the buffer is full. -/
def State.logFull (s : State) (u : Nat) : State :=
  let l := (s.log u).settle u (s.now / 2)
  if (l.state = 1 ∨ l.state = 2) ∧ l.full (logSize u) then s.setLog u { l with state := 3 } else s

def execLogbookCaptureFull (u : Fin 5) (s : State) : Out := .next (s.logFull u.val)

end Sys2Proof.Machine
end

