-- ==== Sys2Proof/Machine/Sani.lean ====
section
/-!
DEFINITION. SANI (R428) and CFGC of the spare map (R412).
-/
namespace Sys2Proof.Machine

open Sys2Proof

/-! ### SANI -/

/-- Bit 0: every codeword of the stacks and stores as at reset, and FENC RESTART takes effect. -/
def State.saniMemory (s : State) : State := s.fencRestart.loseMemory

/-- An array that is not retired, programmed to level 0 and released. -/
def Arr.blank (a : Arr) : Arr :=
  if a.retired then { a with missed := a.missed + 1, tensor := none }
  else { a with tensor := none, inService := false, transition := none, version := 0, cells := [], colMap := [], held := [], refresh := [] }

/-- Rows that the sanitization programs on die `d`: 1,024 of each array that is not retired. -/
def State.saniRows (s : State) (d : Nat) : Nat :=
  1024 * (8448 - (s.af.arrays.filter fun (p : Nat × Arr) => p.2.retired && keyDie p.1 == d).length)

/-- Bit 1: resident tensors released, every free, in-service and spare array programmed to level 0. -/
def State.saniArrays (s : State) : State :=
  let t := (s.af.arrays.map fun (p : Nat × Arr) => (p.1, p.2.blank)).filter fun (p : Nat × Arr) => p.2 != Arr.initial
  let s1 : State := { s with
    af := { s.af with tensors := [], arrays := t, reads := [], refs := [], matvecs := [], spanned := [], whole := s.af.whole + 1 }
    uk := { s.uk with acts := s.uk.acts.filter fun (a : Activity) => a.kind != .program && a.kind != .window } }
  let s2 := (List.range 4).foldl (fun (u : State) d => u.bump (dieCtr 0x2400300 d) (s.saniRows d)) s1
  (t.map Prod.fst).foldl State.wear s2

/-- A cleared Logbook buffer: its mode and its state of capture stay. -/
def Logbook.emptied (l : Logbook) : Logbook := { l with records := [], kept := 0, lost := 0, wrptr := 0, firstMarker := none, pendingLoss := 0, firstLost := 0 }

/-- A cleared Postcard slot; CAPTURES and CAUSE stay. -/
def PostSlot.emptied (x : PostSlot) : PostSlot := { x with valid := false, busy := false, page := [] }

/-- Bit 2: Logbooks, Postcard slots and slot counters cleared. -/
def State.saniObserve (s : State) : State :=
  let rings := (s.hg.rings.map fun (p : Nat × Ring) => (p.1, { p.2 with slots := List.replicate 16 0 })).filter
    fun (p : Nat × Ring) => p.2 != Ring.initial
  let logs := (s.im.logs.map fun (p : Nat × Logbook) => (p.1, p.2.emptied)).filter fun (p : Nat × Logbook) => p.2 != Logbook.initial
  { s with
    hg := { s.hg with rings := rings }
    im := { s.im with logs := logs, slot0 := s.im.slot0.emptied, slot1 := s.im.slot1.emptied } }

/-- The scopes of Table 15.11; SANI completes, and then bit 3 ends ownership. -/
def State.sani (s : State) (k : CritCall) : State :=
  let scope := k.u 16 4
  let s1 := if bitAt scope 0 then s.saniMemory else s
  let s2 := if bitAt scope 1 then s1.saniArrays else s1
  let s3 := if bitAt scope 2 then s2.saniObserve else s2
  let s4 := s3.critEnd k .ok 0
  if bitAt scope 3 then s4.vacate else s4

/-- The BMC may send SANI without a session while ownership is vacant and the boot state is 3. -/
def State.saniOpen (s : State) (k : CritCall) : Bool := k.m == .bmc && s.tb.own == .vacant && s.tb.boot == 3

/-- Every accepted command is clear or failed: what FENC with ALL waits for (R328). -/
def State.quietAll (s : State) : Bool := s.hg.cmds.all fun (c : Cmd) => c.seq.isNone || c.stage.isClear || c.stage == .failed

/-- SANI (R428). A message of the BMC or the debug port waits, unread, until every accepted command is clear or failed. -/
def execSani (x : Crit) (s : State) : Out :=
  .next (match x with
    | .ring _ => s.critRun x 0x68 (fun _ => false) State.sani
    | _ => if s.quietAll then s.critRun x 0x68 s.saniOpen State.sani else s)

/-! ### CFGC of KIND 1 -/

/-- The entries of a spare map: retired unit, spare (R305). -/
def mapEntries (n : Nat) (l : List Byte) : List (Nat × Nat) :=
  (List.range n).map fun i =>
    let e := leNat ((l.drop (8 * i)).take 8)
    (e / 2 ^ 32, e % 2 ^ 32)

/-- An entry names an active unit and a spare of the same bank or cluster. -/
def entryGood (p : Nat × Nat) : Bool :=
  let u := p.1 % 2 ^ 16
  let v := p.2 % 2 ^ 16
  p.1 / 2 ^ 16 == p.2 / 2 ^ 16 && decide (p.1 / 2 ^ 28 < 4) && decide (p.1 / 2 ^ 16 % 4096 < 32) &&
    ((decide (u < 256) && decide (256 ≤ v) && decide (v < 264)) || (decide (u < 64) && (v == 64 || v == 65)))

/-- No unit and no spare is named twice. Arrays and cores are told apart by the spare's number. -/
def mapDistinct (l : List (Nat × Nat)) : Bool :=
  let keys (f : Nat × Nat → Nat) : List Nat := l.map fun p => 2 * f p + if isArrayEntry p then 1 else 0
  distinct (keys Prod.fst) && distinct (keys Prod.snd)

/-- The functions that an entry names: its bank, or its cluster. -/
def entryFunc (p : Nat × Nat) : Nat := (if isArrayEntry p then 100 else 300) + 32 * (p.1 / 2 ^ 28) + p.1 / 2 ^ 16 % 4096

/-- The map is applied to a bank or a cluster; its ready bit, cleared for the while, is set again. -/
def State.reapply (s : State) (f : Nat) : State :=
  let s1 := if f < 300 then s.applySpares (f - 100) else s
  if s.readyKey f then (s1.clearReady f).setReady f else s1

/-- CFGC of KIND 1 (R412). -/
def State.cfgcMap (s : State) (k : CritCall) : State :=
  let a := k.u 16 8
  let n := k.u 24 4
  if n = 0 ∨ 1280 < n then s.critEnd k .badDescriptor 24
  else if k.seq.isSome ∧ s.rangeBad a (8 * n) then s.critEnd k .badDescriptor 16
  else if ¬ s.af.tensors.isEmpty ∨ ¬ s.im.spareMap.isEmpty then s.critEnd k .badDescriptor 0
  else
    match s.critReadFail k a (8 * n) with
    | some f => s.critEnd k (if f.2 then .uncorrectableMemory else .hostBusError) f.1
    | none =>
      let l := mapEntries n (s.critBlock k a (8 * n))
      if ¬ (l.all entryGood && mapDistinct l) then s.critEnd k .badDescriptor 0xFF
      else
        let s1 : State := { s with im := { s.im with spareMap := l } }
        (((l.map entryFunc).eraseDups).foldl State.reapply s1).critEnd k .ok 0

def execCfgcSpareMap (x : Crit) (s : State) : Out :=
  .next (s.critRun x 0x64 (fun k => k.u 28 1 == 0) fun s k => if k.u 28 1 = 1 then s.cfgcMap k else s)

end Sys2Proof.Machine
end

