-- ==== Sys2Proof/Machine/Spdm.lean ====
section
/-!
DEFINITION. The SPDM 1.2 responder (R413, R414). The manual names DMTF SPDM 1.2 and the module's choices in it; message
codes, field places and the key schedule are those of DMTF DSP0274 (PRESUMED, assumption 9). A value that neither states is
an open value.
-/
namespace Sys2Proof.Machine

open Sys2Proof

/-! ### Connections -/

def State.conn (s : State) (p : SpdmPath) : SpdmConn := match p with
  | .doe => s.tb.spdmDoe
  | .mctp => s.tb.spdmMctp
def State.setConn (s : State) (p : SpdmPath) (c : SpdmConn) : State := match p with
  | .doe => { s with tb := { s.tb with spdmDoe := c } }
  | .mctp => { s with tb := { s.tb with spdmMctp := c } }

/-- A request as it arrives: bytes of its four-byte header. -/
def reqByte (r : List Byte) (i : Nat) : Nat := (r.getD i 0).toNat

/-- SPDM error codes. -/
def eInvalid : Nat := 0x01
def eUnexpected : Nat := 0x04
def eDecrypt : Nat := 0x06
def eVersion : Nat := 0x41

/-- A response header. -/
def spdmHead (version code p1 p2 : Nat) : List Byte := natLe 1 version ++ natLe 1 code ++ natLe 1 p1 ++ natLe 1 p2

/-- Answer a request. -/
def State.answer (s : State) (p : SpdmPath) (l : List Byte) : State := s.emit (.spdm p l)
def State.spdmError (s : State) (p : SpdmPath) (e : Nat) : State := s.answer p (spdmHead 0x12 0x7F e 0)

/-- What a boot state lets SPDM answer: everything in state 3; with `early`, state 1 too (Table 15.2). -/
def State.spdmServes (s : State) (early : Bool) : Bool := s.tb.boot == 3 || (early && s.tb.boot == 1)

/-- The frame of a row: a request of `code` that this boot state does not accept, or that is another request, leaves the
module as it is; one of another version or shorter than `least` bytes, or before `ready`, is answered with an error. -/
def State.spdmRun (s : State) (p : SpdmPath) (r : List Byte) (code : Nat) (early : Bool) (least : Nat)
    (ready : SpdmConn → Bool) (f : State → SpdmConn → State) : State :=
  if reqByte r 1 ≠ code ∨ ¬ s.spdmServes early then s
  else
    let s1 := s.reachedBy (match p with
      | .doe => .host
      | .mctp => .bmc)
    if reqByte r 0 ≠ (if code = 0x84 then 0x10 else 0x12) then s1.spdmError p eVersion
    else if r.length < least then s1.spdmError p eInvalid
    else if ¬ ready (s1.conn p) then s1.spdmError p eUnexpected
    else f s1 (s1.conn p)

/-- Fresh draws used. -/
def State.drawStep (s : State) (n : Nat) : State := { s with tb := { s.tb with draws := s.tb.draws + n } }

/-! ### Signatures -/

/-- "dmtf-spdm-v1.2.*", and the three signing contexts. -/
def spdmPrefix : List Byte := [0x64, 0x6D, 0x74, 0x66, 0x2D, 0x73, 0x70, 0x64, 0x6D, 0x2D, 0x76, 0x31, 0x2E, 0x32, 0x2E, 0x2A]
/-- "responder-". -/
def ctxResponder : List Byte := [0x72, 0x65, 0x73, 0x70, 0x6F, 0x6E, 0x64, 0x65, 0x72, 0x2D]
/-- " signing". -/
def ctxSigning : List Byte := [0x20, 0x73, 0x69, 0x67, 0x6E, 0x69, 0x6E, 0x67]
/-- "challenge_auth". -/
def ctxChallenge : List Byte := [0x63, 0x68, 0x61, 0x6C, 0x6C, 0x65, 0x6E, 0x67, 0x65, 0x5F, 0x61, 0x75, 0x74, 0x68]
/-- "measurements". -/
def ctxMeasurements : List Byte := [0x6D, 0x65, 0x61, 0x73, 0x75, 0x72, 0x65, 0x6D, 0x65, 0x6E, 0x74, 0x73]
/-- "key_exchange_rsp". -/
def ctxKeyExchange : List Byte := [0x6B, 0x65, 0x79, 0x5F, 0x65, 0x78, 0x63, 0x68, 0x61, 0x6E, 0x67, 0x65, 0x5F, 0x72, 0x73, 0x70]

/-- Signature of the identity key over a transcript, with the nonce of draw `d`. -/
def spdmSign (d : Nat) (ctx transcript : List Byte) : List Byte :=
  let c := ctxResponder ++ ctx ++ ctxSigning
  let m := spdmPrefix ++ spdmPrefix ++ spdmPrefix ++ spdmPrefix ++ List.replicate (36 - c.length) 0 ++ c ++ sha512 transcript
  ecdsaSign (Config.idScalar % (ecN - 1) + 1) (freshScalar d) (sha512 m)

/-- The vendor certificate chain in flash, and its digest. -/
def chain : List Byte := (List.range Config.chainLength).map Config.chainByte
def chainDigest : List Byte := sha512 chain

/-! ### Measurements (R414) -/

/-- Entries of the spare map in ascending order of the retired unit. -/
def insertEntry (p : Nat × Nat) : List (Nat × Nat) → List (Nat × Nat)
  | [] => [p]
  | q :: l => if p.1 < q.1 then p :: q :: l else q :: insertEntry p l
def sortEntries (l : List (Nat × Nat)) : List (Nat × Nat) := l.foldl (fun (t : List (Nat × Nat)) p => insertEntry p t) []

/-- Digest number `i` of Table 15.7. -/
def State.measured (s : State) (i : Nat) : List Byte :=
  match i with
  | 1 => constOctets 64 Config.romDigest.toNat
  | 2 => if s.tb.boot = 3 then s.tb.fwDigest else List.replicate 64 0
  | 3 => match s.tb.cert with
    | some c => sha512 c
    | none => List.replicate 64 0
  | 4 => sha512 ((sortEntries s.im.spareMap).flatMap fun p => natLe 8 (p.1 * 2 ^ 32 + p.2))
  | _ => sha512 (natLe 4 (if s.tb.debugUnlocked then 1 else 0) ++ natLe 4 s.tb.debugScope)

/-- DMTF type of a measurement. -/
def measureType (i : Nat) : Nat := match i with
  | 1 => 0
  | 2 => 1
  | 3 => 3
  | _ => 2

/-- A measurement block in the DMTF format. -/
def State.measureBlock (s : State) (i : Nat) : List Byte :=
  natLe 1 i ++ natLe 1 1 ++ natLe 2 67 ++ natLe 1 (measureType i) ++ natLe 2 64 ++ s.measured i

/-- The measurement summary hash of a request: none, of the trusted computing base (whose blocks no source states: open), or
of all blocks. -/
def State.summaryHash (s : State) (kind : Nat) : List Byte :=
  if kind = 0 then [] else if kind = 0xFF then sha512 ([1, 2, 3, 4, 5].flatMap s.measureBlock) else s.freeBytes 64

/-! ### Version, capabilities, algorithms -/

/-- SPDM_GET_VERSION: starts the connection again. -/
def execSpdmGetVersion (p : SpdmPath) (r : List Byte) (s : State) : Out :=
  .next (s.spdmRun p r 0x84 true 4 (fun _ => true) fun s _ =>
    let rsp := spdmHead 0x10 0x04 0 0 ++ [0, 1] ++ natLe 2 0x1200
    (s.setConn p { SpdmConn.initial with versionDone := true, vca := r ++ rsp }).answer p rsp)

/-- CERT, CHAL, MEAS with signatures, MEAS_FRESH, ENCRYPT, MAC and KEY_EX (R413). -/
def spdmCaps : Nat := 0x2F6

/-- SPDM_GET_CAPABILITIES; the crypto timeout exponent and the message sizes are open. -/
def execSpdmGetCapabilities (p : SpdmPath) (r : List Byte) (s : State) : Out :=
  .next (s.spdmRun p r 0xE1 true 20 (fun c => c.versionDone && !c.capsDone) fun s c =>
    let o := s.freeBytes 9
    let rsp := spdmHead 0x12 0x61 0 0 ++ [0] ++ o.take 1 ++ [0, 0] ++ natLe 4 spdmCaps ++ o.drop 1
    ((s.setConn p { c with capsDone := true, vca := c.vca ++ r ++ rsp }).freeStep).answer p rsp)

/-- Algorithm structures of a request: type and supported set, from byte 32 on. -/
def algStructs (r : List Byte) : List (Nat × Nat) :=
  (List.range (reqByte r 2)).map fun i => (reqByte r (32 + 4 * i), leNat ((r.drop (34 + 4 * i)).take 2))

/-- The one algorithm that the module supports of a structure: secp521r1, AES-256-GCM, no requester signature, the SPDM key
schedule. -/
def algChoice (kind : Nat) : Nat := match kind with
  | 2 => 0x20
  | 3 => 0x02
  | 5 => 0x01
  | _ => 0

/-- SPDM_NEGOTIATE_ALGORITHMS: each selection is what both sides support. -/
def execSpdmNegotiateAlgorithms (p : SpdmPath) (r : List Byte) (s : State) : Out :=
  .next (s.spdmRun p r 0xE3 true 32 (fun c => c.capsDone && !c.algsDone) fun s c =>
    let l := algStructs r
    let body := l.flatMap fun a => natLe 1 a.1 ++ natLe 1 0x20 ++ natLe 2 (a.2 &&& algChoice a.1)
    let rsp := spdmHead 0x12 0x63 l.length 0 ++ natLe 2 (36 + 4 * l.length) ++ natLe 1 (reqByte r 6 &&& 1) ++ natLe 1 (reqByte r 7 &&& 2) ++
      natLe 4 8 ++ natLe 4 (leNat ((r.drop 8).take 4) &&& 0x100) ++ natLe 4 (leNat ((r.drop 12).take 4) &&& 4) ++
      List.replicate 16 0 ++ body
    (s.setConn p { c with algsDone := true, vca := c.vca ++ r ++ rsp }).answer p rsp)

/-! ### Certificates -/

/-- SPDM_GET_DIGESTS: slot 0 holds the vendor chain, the others are empty. -/
def execSpdmGetDigests (p : SpdmPath) (r : List Byte) (s : State) : Out :=
  .next (s.spdmRun p r 0x81 true 4 (fun c => c.algsDone) fun s c =>
    let rsp := spdmHead 0x12 0x01 0 1 ++ chainDigest
    (s.setConn p { c with chal := c.chal ++ r ++ rsp }).answer p rsp)

/-- SPDM_GET_CERTIFICATE: a portion of the chain of slot 0. -/
def execSpdmGetCertificate (p : SpdmPath) (r : List Byte) (s : State) : Out :=
  .next (s.spdmRun p r 0x82 true 8 (fun c => c.algsDone) fun s c =>
    let o := leNat ((r.drop 4).take 2)
    if reqByte r 2 % 16 ≠ 0 ∨ chain.length ≤ o then s.spdmError p eInvalid
    else
      let part := (chain.drop o).take (leNat ((r.drop 6).take 2))
      let rsp := spdmHead 0x12 0x02 0 0 ++ natLe 2 part.length ++ natLe 2 (chain.length - o - part.length) ++ part
      (s.setConn p { c with chal := c.chal ++ r ++ rsp }).answer p rsp)

/-- SPDM_CHALLENGE: a signature under the identity key, over the messages so far and a fresh nonce. -/
def execSpdmChallenge (p : SpdmPath) (r : List Byte) (s : State) : Out :=
  .next (s.spdmRun p r 0x83 false 36 (fun c => c.algsDone) fun s c =>
    if reqByte r 2 ≠ 0 ∧ reqByte r 2 ≠ 0xFF then s.spdmError p eInvalid
    else
      let d := s.tb.draws
      let rsp := spdmHead 0x12 0x03 (reqByte r 2 % 16) 1 ++ chainDigest ++ freshOctets d 32 ++ s.summaryHash (reqByte r 3) ++ natLe 2 0
      let sig := spdmSign (d + 1) ctxChallenge (c.vca ++ c.chal ++ r ++ rsp)
      (((s.setConn p { c with chal := [] }).drawStep 2).freeStep).answer p (rsp ++ sig))

/-- The blocks that GET_MEASUREMENTS reports: none for the count, one, or all. -/
def measureIndexes (op : Nat) : Option (List Nat) :=
  if op = 0 then some [] else if op = 0xFF then some [1, 2, 3, 4, 5] else if op ≤ 5 then some [op] else none

/-- SPDM_GET_MEASUREMENTS (R414): digests computed now, and signed when the request asks for it. -/
def execSpdmGetMeasurements (p : SpdmPath) (r : List Byte) (s : State) : Out :=
  .next (s.spdmRun p r 0xE0 true 4 (fun c => c.algsDone) fun s c =>
    let signed := bitAt (reqByte r 2) 0
    match measureIndexes (reqByte r 3) with
    | none => s.spdmError p eInvalid
    | some l =>
      if signed ∧ (r.length < 37 ∨ reqByte r 36 % 16 ≠ 0) then s.spdmError p eInvalid
      else
        let d := s.tb.draws
        let rec_ := l.flatMap s.measureBlock
        let rsp := spdmHead 0x12 0x60 (if reqByte r 3 = 0 then 5 else 0) 0 ++ natLe 1 l.length ++ natLe 3 rec_.length ++ rec_ ++
          freshOctets d 32 ++ natLe 2 0
        if signed then
          let sig := spdmSign (d + 1) ctxMeasurements (c.vca ++ c.meas ++ r ++ rsp)
          ((s.setConn p { c with meas := [] }).drawStep 2).answer p (rsp ++ sig)
        else ((s.setConn p { c with meas := c.meas ++ r ++ rsp }).drawStep 1).answer p rsp)

/-! ### Sessions -/

/-- "spdm1.2 ". -/
def spdmLabel : List Byte := [0x73, 0x70, 0x64, 0x6D, 0x31, 0x2E, 0x32, 0x20]
/-- "req hs data", "rsp hs data", "finished". -/
def labelReq : List Byte := [0x72, 0x65, 0x71, 0x20, 0x68, 0x73, 0x20, 0x64, 0x61, 0x74, 0x61]
def labelRsp : List Byte := [0x72, 0x73, 0x70, 0x20, 0x68, 0x73, 0x20, 0x64, 0x61, 0x74, 0x61]
def labelFinished : List Byte := [0x66, 0x69, 0x6E, 0x69, 0x73, 0x68, 0x65, 0x64]

/-- HKDF-Expand of one block with a concatenated label. -/
def spdmExpand (key label context : List Byte) : List Byte := hmac512 key (natLe 2 64 ++ spdmLabel ++ label ++ context ++ [1])

/-- Verify data of one side, from the handshake secret, the hash of the transcript before it that opened the session, and
the transcript it covers. -/
def verifyData (secret label th transcript : List Byte) : List Byte :=
  hmac512 (spdmExpand (spdmExpand secret label th) labelFinished []) (sha512 transcript)

/-- SPDM_KEY_EXCHANGE: an ephemeral secp521r1 exchange, signed by the identity key; the responder's session number is
open. -/
def execSpdmKeyExchange (p : SpdmPath) (r : List Byte) (s : State) : Out :=
  .next (s.spdmRun p r 0xE4 false 174 (fun c => c.algsDone && !c.secured) fun s c =>
    let pub := (r.drop 40).take 132
    if (reqByte r 3 ≠ 0 ∧ reqByte r 3 ≠ 0xFF) ∨ (ecPoint pub).isNone then s.spdmError p eInvalid
    else
      let d := s.tb.draws
      let e := freshScalar d
      let rsp := spdmHead 0x12 0x64 0 0 ++ s.freeBytes 2 ++ [0, 0] ++ freshOctets (d + 1) 32 ++ ecPublic e ++
        (if reqByte r 2 = 0 then [] else (s.freeStep).summaryHash (reqByte r 2)) ++ natLe 2 0
      let th1 := c.vca ++ chainDigest ++ r ++ rsp
      let sig := spdmSign (d + 2) ctxKeyExchange th1
      let secret := hmac512 (List.replicate 64 0) (ecdhX e pub)
      let th := th1 ++ sig
      let v := verifyData secret labelRsp (sha512 th) th
      ((((s.setConn p { c with handshake := true, secret := secret, keyx := th ++ v }).drawStep 3).freeStep).freeStep).answer p
        (rsp ++ sig ++ v))

/-- SPDM_FINISH: the requester's verify data completes the handshake; a wrong one ends it. -/
def execSpdmFinish (p : SpdmPath) (r : List Byte) (s : State) : Out :=
  .next (s.spdmRun p r 0xE5 false 68 (fun c => c.handshake) fun s c =>
    let th := c.keyx.take (c.keyx.length - 64)
    if (r.drop 4).take 64 = verifyData c.secret labelReq (sha512 th) (c.keyx ++ r.take 4) then
      (s.setConn p { c with handshake := false, secured := true }).answer p (spdmHead 0x12 0x65 0 0)
    else (s.setConn p { c with handshake := false, secret := [], keyx := [] }).spdmError p eDecrypt)

/-- SPDM_END_SESSION. -/
def execSpdmEndSession (p : SpdmPath) (r : List Byte) (s : State) : Out :=
  .next (s.spdmRun p r 0xEC false 4 (fun c => c.secured) fun s c =>
    (s.setConn p { c with secured := false, secret := [], keyx := [] }).answer p (spdmHead 0x12 0x6C 0 0))

end Sys2Proof.Machine
end

