-- ==== Sys2Proof/Machine/Bus.lean ====
section
/-!
DEFINITION. Register accesses (R4 to R9, R425, R472): a write to any register, the two halves of a 64-bit one (R8), a 32-bit
read; configuration space (R440, R491) and the I3C address (R487).
-/
namespace Sys2Proof.Machine

open Sys2Proof

/-! ### A write to one register, whole -/

/-- Master `m` may write a stored register of this kind (Table 15.9). -/
def State.mayWrite (s : State) (m : Master) (w : Writer) : Bool :=
  match w with
  | .any => true
  | .host => m == .host || s.owns m
  | .owner => s.owns m

/-- The ring whose address register lies at `off`: it is locked while the ring is enabled or has commands in flight (R311). -/
def ringOfAddr (off : Nat) : Option Nat :=
  if 0x801000 ≤ off ∧ off < 0x802000 ∧ off % 0x40 < 0x20 then some ((off - 0x801000) / 0x40) else none
def State.ringLocked (s : State) (off : Nat) : Bool :=
  match ringOfAddr off with
  | some n => s.ringEnabled n || s.inFlight n != 0
  | none => false

/-- A write by master `m` to the register at `off` is not discarded (R5, R311, Table 15.9). Registers that act on a write are the
owner's. -/
def State.writeLands (s : State) (m : Master) (off : Nat) : Bool :=
  (match findRow regRows off with
   | some (r, _) => s.mayWrite m r.writer
   | none => s.owns m) && (decide (off < 0x400000) || s.regLands m) && s.regPath m && !s.ringLocked off

/-- A write to a stored register sets its RW fields (R4 to R6). -/
def State.storeWrite (s : State) (m : Master) (off v : Nat) : State :=
  match findRow regRows off with
  | none => s
  | some (r, _) => if s.writeLands m off then s.setReg off (v &&& r.rw) else s

/-- A write to LD_TRIP: TRIPPED is W1C. -/
def State.tripWrite (s : State) (m : Master) (v : Nat) : State :=
  if s.owns m ∧ s.regPath m ∧ bitAt v 63 then { s with ld := { s.ld with tripped := false } } else s

/-- A write to IM_WATCHDOG: FIRED is W1C, and stays 1 in the cycle in which the watchdog fires (R7); MS is RW. -/
def State.watchWrite (s : State) (m : Master) (v : Nat) : State :=
  if s.owns m ∧ s.regLands m then
    let s1 := s.setReg 0x2800060 (v % 2 ^ 16)
    if bitAt v 31 ∧ s.im.watchFiredAt ≠ some s.now then { s1 with im := { s1.im with watchFired := false } } else s1
  else s

/-- A write in the IC window, by IC offset. -/
def State.icWrite (s : State) (m : Master) (off v : Nat) : Option State :=
  let k : Fin 16 := Fin.ofNat 16 (off / 4)
  if off % 4 ≠ 0 then none
  else if off < 0x40 then some (s.bankWrite m State.maskSource (.normal k) v)
  else if off < 0x80 then some (s.bankWrite m State.unmaskSource (.normal k) v)
  else if off < 0xC0 then some (s.bankWrite m State.arrive (.normal k) v)
  else if off < 0x100 then some (s.bankWrite m State.clearSource (.normal k) v)
  else if off = 0x100 then some (s.icAck m v)
  else if off = 0x200 then some (s.bankWrite m State.maskSource .fast v)
  else if off = 0x204 then some (s.bankWrite m State.unmaskSource .fast v)
  else if off = 0x208 then some (s.bankWrite m State.arrive .fast v)
  else if off = 0x20C then some (s.bankWrite m State.clearSource .fast v)
  else none

/-- A write of `v` to the register at `off`, all of it. Registers with behaviour of their own act as their rows do. -/
def State.regWrite (s : State) (m : Master) (off v : Nat) : State :=
  if off = 0x58 then s.tripWrite m v
  else if off = 0x60 then s.resetWrite m v
  else if off = 0x1000418 then s.regionWrite m v
  else if off = 0x2800060 then s.watchWrite m v
  else if off = 0x2800098 then s.cardRequest m v
  else if 0xA00000 ≤ off ∧ off < 0xB00000 then (s.icWrite m (off - 0xA00000) v).getD (s.storeWrite m off v)
  else match ixOf 0x801020 0x40 64 off with
    | some n => s.ringCtrlWrite m n v
    | none =>
      match ixOf 0xC01000 0x40 64 off with
      | some c => if bitAt v 31 ∨ bitAt v 30 then (s.chCtrlWrite m c v).afterCtrl c else s.chCtrlWrite m c v
      | none =>
        match ixOf 0x2001008 0x40 12 off with
        | some p => s.portCtrlWrite m p v
        | none =>
          match ixOf 0x2800800 0x40 5 off with
          | some u => s.logCfgWrite m u v
          | none => s.storeWrite m off v

/-! ### Halves of a 64-bit register (R8) -/

/-- The register at `off` is 64 bits wide. -/
def State.isWide (s : State) (m : Master) (off : Nat) : Bool :=
  match s.regVal m off with
  | some v => v.wide
  | none => false

/-- What a master's last access to a 64-bit register left behind, and the state without it. -/
def State.latchOf (s : State) (m : Master) (off : Nat) (write : Bool) : Option Nat :=
  (s.latches.find? fun (l : HalfLatch) => l.master == m && l.offset == off && l.write == write).map fun (l : HalfLatch) => l.value.toNat
def State.dropLatch (s : State) (m : Master) (off : Nat) : State :=
  { s with latches := s.latches.filter fun (l : HalfLatch) => !(l.master == m && l.offset == off) }
def State.setLatch (s : State) (m : Master) (off : Nat) (write : Bool) (v : Nat) : State :=
  { s with latches := { master := m, offset := off, write := write, value := BitVec.ofNat 32 v } ::
      (s.dropLatch m off).latches }

/-- The lower half in force of a 64-bit register, for a write of its upper half alone: the stored one. -/
def State.lowerNow (s : State) (off : Nat) : Nat := s.reg off % 2 ^ 32

/-- A 32-bit write (R8, R472). A lower half that the master may not write is discarded and not held (R5). -/
def State.write32 (s : State) (m : Master) (off v : Nat) : State :=
  if s.isWide m off then (if s.writeLands m off then s.setLatch m off true v else s.dropLatch m off)
  else if 4 ≤ off ∧ s.isWide m (off - 4) then
    let low := (s.latchOf m (off - 4) true).getD (s.lowerNow (off - 4))
    (s.dropLatch m (off - 4)).regWrite m (off - 4) (v * 2 ^ 32 + low)
  else s.regWrite m off v

/-- A write of 4 or 8 bytes, naturally aligned; any other reaches nothing (R9, R472). -/
def State.busWrite (s : State) (m : Master) (off : Nat) (size : AccessSize) (v : Nat) : State :=
  if 0x2C00000 ≤ off then s
  else
    match size with
    | .four => if off % 4 = 0 then s.write32 m off (v % 2 ^ 32) else s
    | .eight =>
      if off % 8 ≠ 0 then s
      else if s.isWide m off then (s.dropLatch m off).regWrite m off v
      else (s.write32 m off (v % 2 ^ 32)).write32 m (off + 4) (v / 2 ^ 32)
    | .other _ => s

/-- REGISTER_WRITE (R4, R472). -/
def execRegisterWrite (m : Master) (off : Nat) (size : AccessSize) (v : W64) (s : State) : Out :=
  .next ((s.reachedBy m).busWrite m off size v.toNat)

/-- A 32-bit read (R8): a lower half latches the upper one; an upper half takes the latch, if that read was the master's last
access, else its current value. -/
def State.read32 (s : State) (m : Master) (off : Nat) : State × Nat :=
  if 0x2C00000 ≤ off ∨ off % 4 ≠ 0 then (s, 0)
  else
    let v := s.readReg m off
    if v.wide then (s.setLatch m off false (v.val / 2 ^ 32), v.val % 2 ^ 32)
    else if 4 ≤ off ∧ (s.readReg m (off - 4)).wide then
      (s.dropLatch m (off - 4), (s.latchOf m (off - 4) false).getD ((s.readReg m (off - 4)).val / 2 ^ 32))
    else (s, v.val % 2 ^ 32)

/-- A read of 4 or 8 bytes (R8, R472): one of 8 bytes reads a 64-bit register whole and ends its latch, and elsewhere acts as
two reads of 4. Any other reaches nothing (R9). -/
def State.busRead (s : State) (m : Master) (off : Nat) (size : AccessSize) : State × Nat :=
  match size with
  | .four => s.read32 m off
  | .eight =>
    if 0x2C00000 ≤ off ∨ off % 8 ≠ 0 then (s, 0)
    else
      let v := s.readReg m off
      if v.wide then (s.dropLatch m off, v.val)
      else
        let lo := s.read32 m off
        let hi := lo.1.read32 m (off + 4)
        (hi.1, lo.2 + hi.2 * 2 ^ 32)
  | .other _ => (s, 0)

/-- LOWER_HALF_READ (R8). An open field takes the next open value. -/
def execLowerHalfRead (m : Master) (x : RegRead) (s : State) : Out :=
  .next (
    let r := (s.reachedBy m).busRead m x.off x.size
    (r.1.emit (.regRead m x.off (BitVec.ofNat 64 r.2))).freeStep)

/-! ### Configuration space and I3C -/

/-- CONFIGURATION_SPACE_WRITE (R434, R440, R491). Configuration space is there while the module is not in A3. -/
def State.cfgWrite (s : State) (w : CfgWrite) : State :=
  match w with
  | .bar4Size n => if s.pcie.memorySpace then s else { s with pcie := { s.pcie with bar4Log2 := n.val } }
  | .memorySpace b => { s with pcie := { s.pcie with memorySpace := b } }
  | .ptmRequester b => { s with ld := { s.ld with ptmEnabled := b, ptmLast := if b ∧ ¬ s.ld.ptmEnabled then s.now else s.ld.ptmLast } }
  | .aspm b => { s with pcie := { s.pcie with aspm := b } }
  | .other o v => { s with pcie := { s.pcie with other := Tab.set (fun _ => 0) s.pcie.other o v } }

def execConfigurationSpaceWrite (w : CfgWrite) (s : State) : Out := .next (if s.ld.pwr = .a3 then s else (s.linkUse).cfgWrite w)

/-- The address that an assignment gives this module: ENTDAA gives one to a target that has none; SETDASA names the static
address, 0x50 plus the slot number (R487). -/
def State.assigned (s : State) (how : I3cAssign) : Option Nat :=
  match how with
  | .entdaa a => if s.ld.i3cAddr.isNone then some a.val else none
  | .setdasa static a => if static.val = 0x50 + s.ld.slot then some a.val else none

/-- DYNAMIC_ADDRESS_ASSIGNMENT (R487). -/
def execDynamicAddressAssignment (how : I3cAssign) (s : State) : Out :=
  .next (if s.ld.aux then { s with ld := { s.ld with i3cAddr := (s.assigned how).or s.ld.i3cAddr } } else s)

end Sys2Proof.Machine
end

