-- ==== Sys2Proof/Machine/Dispatch.lean ====
section
/-!
DEFINITION. The command-to-meaning table: one arm per command, each one call of its meaning.
-/
namespace Sys2Proof.Machine

open Sys2Proof

/-- The effect of a command on everything but the queue of waiting commands. -/
def exec (i : Instr) (s : State) : Host.Outcome State Fault Refusal :=
  match i with
  | .move q => Sys2Proof.Machine.execMove q s
  | .fill q => Sys2Proof.Machine.execFill q s
  | .cmpr q => Sys2Proof.Machine.execCmpr q s
  | .wait q => Sys2Proof.Machine.execWait q s
  | .sgnl q => Sys2Proof.Machine.execSgnl q s
  | .fenc q => Sys2Proof.Machine.execFenc q s
  | .fencAll q => Sys2Proof.Machine.execFencAll q s
  | .fencRestart q => Sys2Proof.Machine.execFencRestart q s
  | .fencReplay q => Sys2Proof.Machine.execFencReplay q s
  | .amvm q => Sys2Proof.Machine.execAmvm q s
  | .amvt q => Sys2Proof.Machine.execAmvt q s
  | .prog q => Sys2Proof.Machine.execProg q s
  | .load q => Sys2Proof.Machine.execLoad q s
  | .mmul q => Sys2Proof.Machine.execMmul q s
  | .attn q => Sys2Proof.Machine.execAttn q s
  | .attnBwd q => Sys2Proof.Machine.execAttnBwd q s
  | .vect q => Sys2Proof.Machine.execVect q s
  | .norm q => Sys2Proof.Machine.execNorm q s
  | .smax q => Sys2Proof.Machine.execSmax q s
  | .stsh q => Sys2Proof.Machine.execStsh q s
  | .recl q => Sys2Proof.Machine.execRecl q s
  | .recomp q => Sys2Proof.Machine.execRecomp q s
  | .xchg q => Sys2Proof.Machine.execXchg q s
  | .gath q => Sys2Proof.Machine.execGath q s
  | .updt q => Sys2Proof.Machine.execUpdt q s
  | .scalApply q => Sys2Proof.Machine.execScalApply q s
  | .scalClose q => Sys2Proof.Machine.execScalClose q s
  | .scalReset q => Sys2Proof.Machine.execScalReset q s
  | .scalClrflag q => Sys2Proof.Machine.execScalClrflag q s
  | .snap q => Sys2Proof.Machine.execSnap q s
  | .cntrSelect q => Sys2Proof.Machine.execCntrSelect q s
  | .cntrDump q => Sys2Proof.Machine.execCntrDump q s
  | .cntrLogread q => Sys2Proof.Machine.execCntrLogread q s
  | .maintSelfcal q => Sys2Proof.Machine.execMaintSelfcal q s
  | .maintConvcal q => Sys2Proof.Machine.execMaintConvcal q s
  | .maintSweep q => Sys2Proof.Machine.execMaintSweep q s
  | .maintGaincal q => Sys2Proof.Machine.execMaintGaincal q s
  | .maintLinetest q => Sys2Proof.Machine.execMaintLinetest q s
  | .maintLevels q => Sys2Proof.Machine.execMaintLevels q s
  | .claim x => Sys2Proof.Machine.execClaim x s
  | .hand x => Sys2Proof.Machine.execHand x s
  | .leas x => Sys2Proof.Machine.execLeas x s
  | .fwld x => Sys2Proof.Machine.execFwld x s
  | .cfgcCertificate x => Sys2Proof.Machine.execCfgcCertificate x s
  | .cfgcSpareMap x => Sys2Proof.Machine.execCfgcSpareMap x s
  | .qovr x => Sys2Proof.Machine.execQovr x s
  | .plim x => Sys2Proof.Machine.execPlim x s
  | .dbgu x => Sys2Proof.Machine.execDbgu x s
  | .dbguLock x => Sys2Proof.Machine.execDbguLock x s
  | .sani x => Sys2Proof.Machine.execSani x s
  | .spdmGetVersion p r => Sys2Proof.Machine.execSpdmGetVersion p r s
  | .spdmGetCapabilities p r => Sys2Proof.Machine.execSpdmGetCapabilities p r s
  | .spdmNegotiateAlgorithms p r => Sys2Proof.Machine.execSpdmNegotiateAlgorithms p r s
  | .spdmGetDigests p r => Sys2Proof.Machine.execSpdmGetDigests p r s
  | .spdmGetCertificate p r => Sys2Proof.Machine.execSpdmGetCertificate p r s
  | .spdmChallenge p r => Sys2Proof.Machine.execSpdmChallenge p r s
  | .spdmGetMeasurements p r => Sys2Proof.Machine.execSpdmGetMeasurements p r s
  | .spdmKeyExchange p r => Sys2Proof.Machine.execSpdmKeyExchange p r s
  | .spdmFinish p r => Sys2Proof.Machine.execSpdmFinish p r s
  | .spdmEndSession p r => Sys2Proof.Machine.execSpdmEndSession p r s
  | .doorbellPoll n e => Sys2Proof.Machine.execDoorbellPoll n e s
  | .hintWindowWrite off v => Sys2Proof.Machine.execHintWindowWrite off v s
  | .commandFetch n => Sys2Proof.Machine.execCommandFetch n s
  | .stepHoldRelease n => Sys2Proof.Machine.execStepHoldRelease n s
  | .commandStart q => Sys2Proof.Machine.execCommandStart q s
  | .bringupHoldTimeout q => Sys2Proof.Machine.execBringupHoldTimeout q s
  | .commandClear q => Sys2Proof.Machine.execCommandClear q s
  | .completionRecordWrite n => Sys2Proof.Machine.execCompletionRecordWrite n s
  | .completionGraceExpiry n => Sys2Proof.Machine.execCompletionGraceExpiry n s
  | .waitSatisfied q => Sys2Proof.Machine.execWaitSatisfied q s
  | .waitTimeoutExpiry q => Sys2Proof.Machine.execWaitTimeoutExpiry q s
  | .versionWaitTimeout q => Sys2Proof.Machine.execVersionWaitTimeout q s
  | .ringEnable m n v => Sys2Proof.Machine.execRingEnable m n v s
  | .ringDisable m n v => Sys2Proof.Machine.execRingDisable m n v s
  | .ringResume m n v => Sys2Proof.Machine.execRingResume m n v s
  | .moverRestart m c v => Sys2Proof.Machine.execMoverRestart m c v s
  | .moverFlush m c v => Sys2Proof.Machine.execMoverFlush m c v s
  | .portRetrain m p v => Sys2Proof.Machine.execPortRetrain m p v s
  | .logbookArm m u v => Sys2Proof.Machine.execLogbookArm m u v s
  | .logbookManualTrigger m v => Sys2Proof.Machine.execLogbookManualTrigger m v s
  | .postcardRequest m v => Sys2Proof.Machine.execPostcardRequest m v s
  | .moduleResetWrite m v => Sys2Proof.Machine.execModuleResetWrite m v s
  | .hamperRegionWrite m v => Sys2Proof.Machine.execHamperRegionWrite m v s
  | .icPendSet m b v => Sys2Proof.Machine.execIcPendSet m b v s
  | .icPendClr m b v => Sys2Proof.Machine.execIcPendClr m b v s
  | .icAck m v => Sys2Proof.Machine.execIcAck m v s
  | .icMaskSet m b v => Sys2Proof.Machine.execIcMaskSet m b v s
  | .icMaskClr m b v => Sys2Proof.Machine.execIcMaskClr m b v s
  | .registerWrite m off size v => Sys2Proof.Machine.execRegisterWrite m off size v s
  | .lowerHalfRead m r => Sys2Proof.Machine.execLowerHalfRead m r s
  | .apertureRead m off len => Sys2Proof.Machine.execApertureRead m off len s
  | .apertureWrite m off data => Sys2Proof.Machine.execApertureWrite m off data s
  | .moverRequestFail c addr dir cause issued => Sys2Proof.Machine.execMoverRequestFail c addr dir cause issued s
  | .moverTransferEnd c => Sys2Proof.Machine.execMoverTransferEnd c s
  | .moverHaltedWaitTimeout q => Sys2Proof.Machine.execMoverHaltedWaitTimeout q s
  | .spillTransferEnd c => Sys2Proof.Machine.execSpillTransferEnd c s
  | .hamperRegionApply => Sys2Proof.Machine.execHamperRegionApply s
  | .arrayReadStart q r => Sys2Proof.Machine.execArrayReadStart q r s
  | .arrayReadConversionEnd q r meas => Sys2Proof.Machine.execArrayReadConversionEnd q r meas s
  | .resolutionComplete q r => Sys2Proof.Machine.execResolutionComplete q r s
  | .digitalQuarterComplete q r => Sys2Proof.Machine.execDigitalQuarterComplete q r s
  | .checksumTestComplete q r => Sys2Proof.Machine.execChecksumTestComplete q r s
  | .almanacClaimGrant id => Sys2Proof.Machine.execAlmanacClaimGrant id s
  | .transitionStart x => Sys2Proof.Machine.execTransitionStart x s
  | .writeWindowEnd id fails => Sys2Proof.Machine.execWriteWindowEnd id fails s
  | .arrayProgrammingEnd id fails => Sys2Proof.Machine.execArrayProgrammingEnd id fails s
  | .verifySweepEnd id dev => Sys2Proof.Machine.execVerifySweepEnd id dev s
  | .selfCalibrationEnd id hits => Sys2Proof.Machine.execSelfCalibrationEnd id hits s
  | .gainClosureEnd id => Sys2Proof.Machine.execGainClosureEnd id s
  | .lineTestEnd id up down => Sys2Proof.Machine.execLineTestEnd id up down s
  | .railStepEnd id => Sys2Proof.Machine.execRailStepEnd id s
  | .sweepPeriodDue x => Sys2Proof.Machine.execSweepPeriodDue x s
  | .converterPeriodDue x => Sys2Proof.Machine.execConverterPeriodDue x s
  | .linePeriodDue x => Sys2Proof.Machine.execLinePeriodDue x s
  | .gainClosureDue x => Sys2Proof.Machine.execGainClosureDue x s
  | .activityAging id => Sys2Proof.Machine.execActivityAging id s
  | .gangAllocate q x corner => Sys2Proof.Machine.execGangAllocate q x corner s
  | .tilePassEnd q n issued => Sys2Proof.Machine.execTilePassEnd q n issued s
  | .slowPathEnd q n issued => Sys2Proof.Machine.execSlowPathEnd q n issued s
  | .tileCheckComplete q idx ok core check place observed => Sys2Proof.Machine.execTileCheckComplete q idx ok core check place observed s
  | .operationResidueCheck q check ok engine predicted observed => Sys2Proof.Machine.execOperationResidueCheck q check ok engine predicted observed s
  | .rampStageChange x cycles => Sys2Proof.Machine.execRampStageChange x cycles s
  | .repairReplayStart q => Sys2Proof.Machine.execRepairReplayStart q s
  | .returnToNominal u => Sys2Proof.Machine.execReturnToNominal u s
  | .commitFence n => Sys2Proof.Machine.execCommitFence n s
  | .contributionArrival rank step bucket owner nf mode bytes => Sys2Proof.Machine.execContributionArrival rank step bucket owner nf mode bytes s
  | .bucketDeadline step bucket owner => Sys2Proof.Machine.execBucketDeadline step bucket owner s
  | .bucketGiveup step bucket owner => Sys2Proof.Machine.execBucketGiveup step bucket owner s
  | .allClearArrival rank step bucket owner => Sys2Proof.Machine.execAllClearArrival rank step bucket owner s
  | .retractArrival rank step bucket owner => Sys2Proof.Machine.execRetractArrival rank step bucket owner s
  | .retractAckArrival step bucket owner => Sys2Proof.Machine.execRetractAckArrival step bucket owner s
  | .summarySend step => Sys2Proof.Machine.execSummarySend step s
  | .summaryArrival rank step nf inc => Sys2Proof.Machine.execSummaryArrival rank step nf inc s
  | .summaryGiveup step => Sys2Proof.Machine.execSummaryGiveup step s
  | .excludedSetArrival rank step set => Sys2Proof.Machine.execExcludedSetArrival rank step set s
  | .exclusionWindowEnd step buddies => Sys2Proof.Machine.execExclusionWindowEnd step buddies s
  | .closeMessageArrival rank step ordinal recs => Sys2Proof.Machine.execCloseMessageArrival rank step ordinal recs s
  | .closeGiveup q => Sys2Proof.Machine.execCloseGiveup q s
  | .buddyDeliveryArrival step bucket vals => Sys2Proof.Machine.execBuddyDeliveryArrival step bucket vals s
  | .buddyAckArrival step bucket => Sys2Proof.Machine.execBuddyAckArrival step bucket s
  | .listArrival rank list => Sys2Proof.Machine.execListArrival rank list s
  | .gathGiveup q => Sys2Proof.Machine.execGathGiveup q s
  | .spannedPartialSumArrival rank tensor step place note => Sys2Proof.Machine.execSpannedPartialSumArrival rank tensor step place note s
  | .spannedInputArrival rank tensor step k transpose vals => Sys2Proof.Machine.execSpannedInputArrival rank tensor step k transpose vals s
  | .messageForward p route bytes => Sys2Proof.Machine.execMessageForward p route bytes s
  | .flitReceive p bytes => Sys2Proof.Machine.execFlitReceive p bytes s
  | .nakReceive p ack lanes => Sys2Proof.Machine.execNakReceive p ack lanes s
  | .flitResendLimit p => Sys2Proof.Machine.execFlitResendLimit p s
  | .trainingStepTimeout p step => Sys2Proof.Machine.execTrainingStepTimeout p step s
  | .trainingComplete p group rank port version digest good => Sys2Proof.Machine.execTrainingComplete p group rank port version digest good s
  | .vcAging p => Sys2Proof.Machine.execVcAging p s
  | .arbiterAging arbiter x => Sys2Proof.Machine.execArbiterAging arbiter x s
  | .d2dFlitResend x flit => Sys2Proof.Machine.execD2dFlitResend x flit s
  | .d2dResendExhausted x training cws => Sys2Proof.Machine.execD2dResendExhausted x training cws s
  | .patrolScrub k e => Sys2Proof.Machine.execPatrolScrub k e s
  | .targetedScrubEnd st pch => Sys2Proof.Machine.execTargetedScrubEnd st pch s
  | .rowRemapEnd st pch row => Sys2Proof.Machine.execRowRemapEnd st pch row s
  | .stackZeroingEnd st => Sys2Proof.Machine.execStackZeroingEnd st s
  | .storeZeroingEnd k ok => Sys2Proof.Machine.execStoreZeroingEnd k ok s
  | .functionReady f ok => Sys2Proof.Machine.execFunctionReady f ok s
  | .identityRegenerated ok => Sys2Proof.Machine.execIdentityRegenerated ok s
  | .firmwareVerifyEnd => Sys2Proof.Machine.execFirmwareVerifyEnd s
  | .claimResponseWriteEnd ok => Sys2Proof.Machine.execClaimResponseWriteEnd ok s
  | .leaseExpiry => Sys2Proof.Machine.execLeaseExpiry s
  | .handoverExpiry => Sys2Proof.Machine.execHandoverExpiry s
  | .ideSecureExit => Sys2Proof.Machine.execIdeSecureExit s
  | .dawnPllLock d => Sys2Proof.Machine.execDawnPllLock d s
  | .pllIdleStop d => Sys2Proof.Machine.execPllIdleStop d s
  | .idleTimeout => Sys2Proof.Machine.execIdleTimeout s
  | .dozeEntry => Sys2Proof.Machine.execDozeEntry s
  | .hubPllRelock => Sys2Proof.Machine.execHubPllRelock s
  | .governorSample g => Sys2Proof.Machine.execGovernorSample g s
  | .thermalTrip die => Sys2Proof.Machine.execThermalTrip die s
  | .pwrbrkAssert => Sys2Proof.Machine.execPwrbrkAssert s
  | .pwrbrkRelease => Sys2Proof.Machine.execPwrbrkRelease s
  | .auxPowerApplied pins => Sys2Proof.Machine.execAuxPowerApplied pins s
  | .auxPowerLost => Sys2Proof.Machine.execAuxPowerLost s
  | .mainInputPresent => Sys2Proof.Machine.execMainInputPresent s
  | .mainInputAbsent => Sys2Proof.Machine.execMainInputAbsent s
  | .perstAssert => Sys2Proof.Machine.execPerstAssert s
  | .perstRelease pins cool => Sys2Proof.Machine.execPerstRelease pins cool s
  | .hotReset => Sys2Proof.Machine.execHotReset s
  | .moduleReset => Sys2Proof.Machine.execModuleReset s
  | .functionLevelReset => Sys2Proof.Machine.execFunctionLevelReset s
  | .d3hotEntry => Sys2Proof.Machine.execD3hotEntry s
  | .d0Return => Sys2Proof.Machine.execD0Return s
  | .l2L3ReadyEntry => Sys2Proof.Machine.execL2L3ReadyEntry s
  | .refclkLoss => Sys2Proof.Machine.execRefclkLoss s
  | .ptmDialogue host => Sys2Proof.Machine.execPtmDialogue host s
  | .ptmTimeout => Sys2Proof.Machine.execPtmTimeout s
  | .watchdogExpiry => Sys2Proof.Machine.execWatchdogExpiry s
  | .postcardCaptureEnd k => Sys2Proof.Machine.execPostcardCaptureEnd k s
  | .logbookCaptureFull u => Sys2Proof.Machine.execLogbookCaptureFull u s
  | .refclkReturn => Sys2Proof.Machine.execRefclkReturn s
  | .configurationSpaceWrite w => Sys2Proof.Machine.execConfigurationSpaceWrite w s
  | .msixMaskWrite w => Sys2Proof.Machine.execMsixMaskWrite w s
  | .ideKmMessage keys => Sys2Proof.Machine.execIdeKmMessage keys s
  | .dynamicAddressAssignment how => Sys2Proof.Machine.execDynamicAddressAssignment how s
  | .l1Entry sub => Sys2Proof.Machine.execL1Entry sub s

end Sys2Proof.Machine
end

