-- ==== Sys2Proof/Safety.lean ====
section
/-!
DEFINITION. What statements about runs are made in: the invariant that every step keeps, and a step that goes on.
-/
namespace Sys2Proof.Machine

open Sys2Proof

/-- Memory is in its canonical form: addresses strictly rising, no byte listed that an unlisted address would read as. -/
def State.MemOk (s : State) : Prop := Memory.wf s.ms.mem = true

/-- The stored registers are in the same form, every one of them is a register, and no reserved or read-only bit of one is
set (R5, R6). -/
def regEntryOk (p : Nat × W64) : Bool :=
  match findRow regRows p.1 with
  | some (r, _) => p.2.toNat &&& r.rw == p.2.toNat
  | none => false
def State.RegsOk (s : State) : Prop := Tab.wf regReset s.regs = true ∧ s.regs.all regEntryOk = true

/-- The keys of a table rise strictly: every key is listed once. -/
def Tab.Ordered {α : Type} (t : Tab α) : Prop := Tab.rising 0 t = true

/-! The indexed units of each part of the module are held in order. -/

def MemSys.TabsOk (m : MemSys) : Prop :=
  m.poison.Ordered ∧ m.zone.Ordered ∧ m.upset.Ordered ∧ m.remap.Ordered ∧ m.scrubPos.Ordered ∧ m.scrubTime.Ordered ∧
    m.storeScrubPos.Ordered ∧ m.lastTarget.Ordered
def HostGate.TabsOk (h : HostGate) : Prop :=
  h.rings.Ordered ∧ h.quota.Ordered ∧ h.events.Ordered ∧ h.signallers.Ordered ∧ h.steps.Ordered
def Lantern.TabsOk (l : Lantern) : Prop := 
  l.ready.Ordered ∧ l.failed.Ordered ∧ l.domains.Ordered ∧ l.sensTj.Ordered ∧ (l.entered.all fun e => Tab.rising 0 e.2.2) = true
def Irq.TabsOk (i : Irq) : Prop := i.count.Ordered ∧ i.sat.Ordered ∧ i.unmasked.Ordered
def Pcie.TabsOk (p : Pcie) : Prop :=
  p.vecOpen.Ordered ∧ p.vecAddr.Ordered ∧ p.vecData.Ordered ∧ p.pba.Ordered ∧ p.other.Ordered
def Integrity.TabsOk (i : Integrity) : Prop :=
  i.clusterRail.Ordered ∧ i.bankRail.Ordered ∧ i.clusterSlow.Ordered ∧ i.cper.Ordered ∧ i.logs.Ordered
def Compute.TabsOk (c : Compute) : Prop := c.stage.Ordered ∧ c.credit.Ordered ∧ c.ramp.Ordered
def ArrayField.TabsOk (a : ArrayField) : Prop := a.arrays.Ordered ∧ a.bankCal.Ordered ∧ a.bankCalTime.Ordered
def Fabric.TabsOk (f : Fabric) : Prop := f.ports.Ordered ∧ f.d2d.Ordered ∧ f.d2dOut.Ordered ∧ f.turns.Ordered

/-- Every indexed unit of the module is held in order. -/
structure State.TabsOk (s : State) : Prop where
  ms : s.ms.TabsOk
  hg : s.hg.TabsOk
  mv : s.mv.Ordered
  ld : s.ld.TabsOk
  irq : s.irq.TabsOk
  pcie : s.pcie.TabsOk
  im : s.im.TabsOk
  mc : s.mc.TabsOk
  af : s.af.TabsOk
  fab : s.fab.TabsOk
  ctrs : s.ctrs.Ordered

/-- What holds of the module after reset and after every step: memory and registers are in canonical form, no bit that
software cannot write is set in a stored register, and every indexed unit is listed once. -/
structure State.Inv (s : State) : Prop where
  mem : s.MemOk
  regs : s.RegsOk
  tabs : s.TabsOk

/-- The components of the state, the queue of waiting commands apart. -/
inductive Comp where
  | ms
  | hg
  | mv
  | ham
  | ld
  | tb
  | irq
  | pcie
  | im
  | mc
  | af
  | uk
  | xe
  | fab
  | regs
  | ctrs
  | latches
  | free
  | out
  deriving DecidableEq, Repr

/-- Component `c` is the same in both states. -/
def Comp.same : Comp → State → State → Prop
  | .ms, s, t => t.ms = s.ms
  | .hg, s, t => t.hg = s.hg
  | .mv, s, t => t.mv = s.mv
  | .ham, s, t => t.ham = s.ham
  | .ld, s, t => t.ld = s.ld
  | .tb, s, t => t.tb = s.tb
  | .irq, s, t => t.irq = s.irq
  | .pcie, s, t => t.pcie = s.pcie
  | .im, s, t => t.im = s.im
  | .mc, s, t => t.mc = s.mc
  | .af, s, t => t.af = s.af
  | .uk, s, t => t.uk = s.uk
  | .xe, s, t => t.xe = s.xe
  | .fab, s, t => t.fab = s.fab
  | .regs, s, t => t.regs = s.regs
  | .ctrs, s, t => t.ctrs = s.ctrs
  | .latches, s, t => t.latches = s.latches
  | .free, s, t => t.free = s.free
  | .out, s, t => t.out = s.out

/-- `t` differs from `s` in the components `l` alone, and the queue is as it was. -/
def State.SameBut (l : List Comp) (s t : State) : Prop := t.pending = s.pending ∧ ∀ c, c ∉ l → c.same s t

/-- Address `j` lies in none of the ranges (address, length). -/
def outside (l : List (Nat × Nat)) (j : Nat) : Prop := ∀ r ∈ l, j < r.1 ∨ r.1 + r.2 ≤ j

/-- A command can read the structures it names and its operands, they are as the spec asks, no host destination of its result
fails, and none of its accesses waits: for a row that is being copied, or for the host in D3hot (R290, R322, R333, R378,
R440). -/
def State.Operands (s : State) (structs : List (Nat × Nat)) (good : Bool) (ops outs : List (Nat × Nat)) : Prop :=
  s.heldBack structs = false ∧ s.rdFails structs = none ∧ good = true ∧ s.heldBack (ops ++ outs) = false ∧
    s.rdFails ops = none ∧ s.writeFail outs = none

/-- A message as it leaves the module: one for the BMC behind its in-band interrupt (R487). -/
def OutMsg.sent (m : OutMsg) : List OutMsg := if m.toBmc then [.inBand, m] else [m]

/-- The components that a row may change; those that nothing but its messages reach (`fab`, `out`) among them. -/
def touches : Instr → List Comp
  | .move _ | .fill _ | .cmpr _ | .moverTransferEnd _
    => [.ms, .hg, .mv, .ham, .ld, .irq, .pcie, .im, .xe, .fab, .ctrs, .free, .out]
  | .wait _ | .fenc _ | .fencAll _ | .waitSatisfied _ => [.hg, .ld, .irq, .pcie, .im, .fab, .out]
  | .sgnl _ | .fencRestart _ | .cntrSelect _ => [.hg, .ham, .ld, .irq, .pcie, .im, .xe, .fab, .out]
  | .fencReplay _ | .repairReplayStart _
    => [.ms, .hg, .mv, .ham, .ld, .irq, .pcie, .im, .mc, .af, .uk, .xe, .fab, .ctrs, .out]
  | .amvm _ | .amvt _ | .resolutionComplete _ _ | .digitalQuarterComplete _ _ | .spannedPartialSumArrival _ _ _ _ _
    => [.ms, .hg, .ham, .ld, .irq, .pcie, .im, .mc, .af, .xe, .fab, .ctrs, .free, .out]
  | .prog _ | .load _ | .maintLevels _ | .checksumTestComplete _ _ | .arrayProgrammingEnd _ _ | .commitFence _
    => [.ms, .hg, .ham, .ld, .irq, .pcie, .im, .af, .uk, .xe, .fab, .ctrs, .free, .out]
  | .mmul _ | .attn _ | .attnBwd _ | .vect _ | .norm _ | .smax _ | .xchg _ | .updt _ | .scalApply _
    => [.ms, .hg, .ham, .ld, .irq, .pcie, .im, .mc, .xe, .fab, .ctrs, .free, .out]
  | .stsh _ | .recl _ | .moverRequestFail _ _ _ _ _
    => [.ms, .hg, .mv, .ham, .ld, .irq, .pcie, .im, .mc, .xe, .fab, .ctrs, .free, .out]
  | .recomp _ | .spillTransferEnd _
    => [.ms, .hg, .mv, .ham, .ld, .irq, .pcie, .im, .mc, .af, .xe, .fab, .ctrs, .free, .out]
  | .gath _ | .scalClose _ | .scalReset _ | .scalClrflag _ | .snap _ | .cntrDump _ | .cntrLogread _
  | .contributionArrival _ _ _ _ _ _ _ | .bucketDeadline _ _ _ | .bucketGiveup _ _ _ | .allClearArrival _ _ _ _
  | .retractArrival _ _ _ _ | .buddyDeliveryArrival _ _ _ | .listArrival _ _ | .gathGiveup _ | .patrolScrub _ _
  | .targetedScrubEnd _ _ => [.ms, .hg, .ham, .ld, .irq, .pcie, .im, .xe, .fab, .ctrs, .free, .out]
  | .maintSelfcal _ | .maintConvcal _ | .maintSweep _ | .maintGaincal _ | .maintLinetest _
    => [.ms, .hg, .ham, .ld, .irq, .pcie, .im, .uk, .xe, .fab, .ctrs, .free, .out]
  | .claim _ | .hand _ | .leas _ | .fwld _ | .cfgcCertificate _ | .qovr _ | .plim _ | .dbgu _ | .dbguLock _
    => [.hg, .ham, .ld, .tb, .irq, .pcie, .im, .xe, .fab, .out]
  | .cfgcSpareMap _ => [.hg, .ham, .ld, .tb, .irq, .pcie, .im, .af, .xe, .fab, .out]
  | .sani _ => [.ms, .hg, .ham, .ld, .tb, .irq, .pcie, .im, .af, .uk, .xe, .fab, .ctrs, .out]
  | .spdmGetVersion _ _ | .spdmNegotiateAlgorithms _ _ | .spdmGetDigests _ _ | .spdmGetCertificate _ _
  | .spdmGetMeasurements _ _ | .spdmFinish _ _ | .spdmEndSession _ _ => [.ld, .tb, .fab, .out]
  | .spdmGetCapabilities _ _ | .spdmChallenge _ _ | .spdmKeyExchange _ _ => [.ld, .tb, .fab, .free, .out]
  | .doorbellPoll _ _ => [.ms, .hg, .ld, .irq, .pcie, .fab, .out]
  | .hintWindowWrite _ _ => [.hg, .ld]
  | .commandFetch _ => [.hg, .ld, .tb, .irq, .pcie, .im, .af, .fab, .out]
  | .stepHoldRelease _ => [.hg, .ld, .irq, .pcie, .im, .af, .fab, .out]
  | .commandStart _ => [.hg, .ham, .ld, .irq, .pcie, .im, .af, .xe, .fab, .out]
  | .bringupHoldTimeout _ | .waitTimeoutExpiry _ | .versionWaitTimeout _ | .summaryArrival _ _ _ _
    => [.hg, .ham, .ld, .irq, .pcie, .xe, .fab, .out]
  | .commandClear _ | .tileCheckComplete _ _ _ _ _ _ _ | .operationResidueCheck _ _ _ _ _ _
    => [.ms, .hg, .ham, .ld, .irq, .pcie, .im, .mc, .af, .uk, .xe, .fab, .ctrs, .free, .out]
  | .completionRecordWrite _ | .apertureWrite _ _ _ => [.ms, .hg, .ld, .irq, .pcie, .im, .fab, .ctrs, .out]
  | .completionGraceExpiry _ => [.hg, .ld, .irq, .pcie, .fab, .out]
  | .ringEnable _ _ _ | .ringDisable _ _ _ | .ringResume _ _ _ => [.hg, .ld, .regs]
  | .moverRestart _ _ _ | .moverFlush _ _ _
    => [.ms, .hg, .mv, .ham, .ld, .irq, .pcie, .im, .mc, .xe, .fab, .regs, .ctrs, .free, .out]
  | .portRetrain _ _ _ => [.ld, .irq, .pcie, .xe, .fab, .regs, .ctrs, .out]
  | .logbookArm _ _ _ => [.ld, .im, .regs]
  | .logbookManualTrigger _ _ => [.ld, .irq, .pcie, .im, .fab, .out]
  | .postcardRequest _ _ | .governorSample _ | .watchdogExpiry => [.ld, .irq, .pcie, .im, .fab, .free, .out]
  | .moduleResetWrite _ _ | .dawnPllLock _ | .pllIdleStop _ | .idleTimeout | .dozeEntry | .auxPowerApplied _
  | .mainInputPresent | .d3hotEntry | .refclkLoss | .refclkReturn | .dynamicAddressAssignment _ | .l1Entry _ => [.ld]
  | .hamperRegionWrite _ _ => [.ham, .ld]
  | .icPendSet _ _ _ | .icPendClr _ _ _ | .icAck _ _ | .icMaskClr _ _ _ | .pwrbrkAssert | .pwrbrkRelease
  | .ptmTimeout => [.ld, .irq, .pcie, .fab, .out]
  | .icMaskSet _ _ _ => [.ld, .irq]
  | .registerWrite _ _ _ _
    => [.ms, .hg, .mv, .ham, .ld, .irq, .pcie, .im, .mc, .xe, .fab, .regs, .ctrs, .latches, .free, .out]
  | .lowerHalfRead _ _ => [.ld, .fab, .latches, .free, .out]
  | .apertureRead _ _ _ => [.ms, .hg, .ld, .irq, .pcie, .im, .fab, .ctrs, .free, .out]
  | .moverHaltedWaitTimeout _ => [.hg, .mv, .ham, .ld, .irq, .pcie, .xe, .fab, .out]
  | .hamperRegionApply => [.ham]
  | .arrayReadStart _ _ => [.hg, .ham, .ld, .irq, .pcie, .mc, .af, .xe, .fab, .ctrs, .free, .out]
  | .arrayReadConversionEnd _ _ _ => [.hg, .im, .mc, .af, .fab, .ctrs, .free, .out]
  | .almanacClaimGrant _ | .writeWindowEnd _ _ | .selfCalibrationEnd _ _ | .lineTestEnd _ _ _
    => [.ms, .hg, .ham, .ld, .irq, .pcie, .im, .af, .uk, .xe, .fab, .ctrs, .out]
  | .transitionStart _ => [.hg, .im, .af, .uk, .ctrs]
  | .verifySweepEnd _ _ | .railStepEnd _ => [.hg, .ld, .irq, .pcie, .im, .af, .uk, .fab, .ctrs, .out]
  | .gainClosureEnd _ => [.hg, .ld, .irq, .pcie, .im, .af, .uk, .fab, .ctrs, .free, .out]
  | .sweepPeriodDue _ | .converterPeriodDue _ | .linePeriodDue _ | .gainClosureDue _ | .activityAging _ => [.uk]
  | .gangAllocate _ _ _ => [.mc]
  | .tilePassEnd _ _ _ | .slowPathEnd _ _ _ => [.ms, .hg, .ld, .irq, .pcie, .im, .mc, .fab, .ctrs, .free, .out]
  | .rampStageChange _ _ => [.hg, .mc, .ctrs]
  | .returnToNominal _ => [.ld, .irq, .pcie, .im, .uk, .fab, .ctrs, .out]
  | .retractAckArrival _ _ _ | .buddyAckArrival _ _ => [.xe]
  | .summarySend _ | .excludedSetArrival _ _ _ => [.xe, .fab, .out]
  | .summaryGiveup _ => [.hg, .ham, .ld, .irq, .pcie, .im, .xe, .fab, .ctrs, .out]
  | .exclusionWindowEnd _ _ => [.hg, .ld, .irq, .pcie, .xe, .fab, .ctrs, .out]
  | .closeMessageArrival _ _ _ _ => [.ms, .hg, .ld, .irq, .pcie, .im, .xe, .fab, .ctrs, .out]
  | .closeGiveup _ => [.ms, .hg, .ham, .ld, .irq, .pcie, .im, .xe, .fab, .ctrs, .out]
  | .spannedInputArrival _ _ _ _ _ _ => [.af]
  | .messageForward _ _ _ | .vcAging _ | .arbiterAging _ _ => [.fab, .out]
  | .flitReceive _ _ | .hubPllRelock => [.hg, .ld, .irq, .pcie, .im, .xe, .fab, .ctrs, .free, .out]
  | .nakReceive _ _ _ => [.hg, .fab, .ctrs, .out]
  | .flitResendLimit _ | .trainingStepTimeout _ _ => [.ld, .irq, .pcie, .xe, .fab, .ctrs, .out]
  | .trainingComplete _ _ _ _ _ _ _ => [.hg, .ld, .irq, .pcie, .fab, .ctrs, .out]
  | .d2dFlitResend _ _ => [.im, .fab, .ctrs, .out]
  | .d2dResendExhausted _ _ _ | .rowRemapEnd _ _ _ => [.ms, .ld, .irq, .pcie, .im, .fab, .ctrs, .out]
  | .stackZeroingEnd _ | .storeZeroingEnd _ _ => [.ms, .ld, .irq, .pcie, .fab, .out]
  | .functionReady _ _ => [.hg, .ld, .tb, .irq, .pcie, .im, .af, .xe, .fab, .ctrs, .out]
  | .identityRegenerated _ | .leaseExpiry | .handoverExpiry | .ideSecureExit => [.ld, .tb, .irq, .pcie, .fab, .out]
  | .firmwareVerifyEnd => [.hg, .ham, .ld, .tb, .irq, .pcie, .xe, .fab, .out]
  | .claimResponseWriteEnd _ => [.ms, .hg, .ham, .ld, .tb, .irq, .pcie, .im, .xe, .fab, .ctrs, .out]
  | .thermalTrip _ | .auxPowerLost | .mainInputAbsent | .perstAssert | .perstRelease _ _ | .hotReset | .moduleReset
  | .l2L3ReadyEntry
    => [.ms, .hg, .mv, .ham, .ld, .tb, .irq, .pcie, .im, .mc, .af, .uk, .xe, .fab, .regs, .ctrs, .latches]
  | .functionLevelReset
    => [.hg, .mv, .ham, .ld, .tb, .irq, .pcie, .im, .mc, .af, .uk, .xe, .fab, .regs, .latches, .out]
  | .d0Return => [.hg, .ld, .pcie, .fab, .out]
  | .ptmDialogue _ => [.ld, .irq, .pcie, .fab, .free, .out]
  | .postcardCaptureEnd _ | .logbookCaptureFull _ => [.im]
  | .configurationSpaceWrite _ => [.ld, .pcie]
  | .msixMaskWrite _ => [.ld, .pcie, .fab, .out]
  | .ideKmMessage _ => [.tb]

/-- A critical command has completed with OK: its ring command is delivered, or the response has been sent (R417). -/
def State.CritDone (t : State) (k : CritCall) : Prop :=
  match k.seq with
  | some q => ∃ d, t.cmd q = some d ∧ d.stage = .delivered
  | none => OutMsg.critical k.m (critRecord .ok (k.u 0 1) 0) [] ∈ t.out

/-- A critical command has been refused with AUTH_FAIL: its ring command has no effect, or the response says so (R335, R417). -/
def State.CritRefused (t : State) (k : CritCall) : Prop :=
  match k.seq with
  | some q => ∃ d, t.cmd q = some d ∧ d.stage = .refused ∧ d.conds = [.authFail]
  | none => OutMsg.critical k.m (critRecord .authFail (k.u 0 1) 0) [] ∈ t.out

/-- Where the sweep of patrol unit `k` stands (R376): stacks 0 to 7, then working stores 0 to 3 and the hub store. -/
def State.sweepPos (s : State) (k : Nat) : Nat :=
  if k < 8 then Tab.get (fun _ => 0) s.ms.scrubPos k else Tab.get (fun _ => 0) s.ms.storeScrubPos (k - 8)

/-- The block goes on: neither a fault nor a refusal. -/
def State.Runs (s : State) : Prop := ∃ t, step s = .next t

end Sys2Proof.Machine
end

