-- ==== Sys2Proof/Certificates/Slice0/Obligations.lean ====
section
/-!
DEFINITION. The statements for the provers: what the rows of the opcode table do, what they leave alone, and what holds of the
whole machine.
-/
open Sys2Proof Sys2Proof.Machine

/-- For every command and state, step of the state with the command at the front of its queue answers what exec answers
for that command on the state with the rest of the queue. (00_scope.md) -/
def Obligations.StepRunsTheFrontCommand : Prop :=
  ∀ (c : Instr) (rest : List Instr) (s : State), step { s with pending := c :: rest } = exec c { s with pending := rest }

/-- The model's choice (log entry 1): a step on an empty queue is one Lantern cycle. With auxiliary power device time
moves on by 40 ns at the rate in force, the part below 1 ns is kept, and nothing but Lantern's own state changes; without
it the state stays. (R430, R433, R434) -/
def Obligations.AnEmptyQueueLetsOneCyclePass : Prop :=
  ∀ s : State, s.pending = [] → ∃ t, step s = .next t ∧ (s.ld.aux = false → t = s) ∧
    (s.ld.aux = true → State.SameBut [.ld] s t ∧
      ∀ f, f = s.ld.ptmFrac + 40 * (1000000 + s.ld.ptmPpm).toNat →
        t.now = (s.now + f / 1000000) % 2 ^ 64 ∧ t.ld.ptmFrac = f % 1000000)

/-- After reset memory and the stored registers are in canonical form, no bit that software cannot write is set in a
stored register, and every indexed unit is listed once. (R5, R6, R446) -/
def Obligations.ResetKeepsTheInvariant : Prop :=
  State.reset.Inv

/-- From every state, reachable or not, in which memory and the stored registers are in canonical form, no read-only or
reserved bit of a stored register is set, and every indexed unit of the module is listed once and in order, a step that
goes on leads to such a state. (R5, R6, R361) -/
def Obligations.EveryStepKeepsTheInvariant : Prop :=
  ∀ s t : State, s.Inv → step s = .next t → t.Inv

/-- For every command and state, exec answers a next state: no row stops the block. The queue is as it was, and every
component of the state outside the list of that row (memory and its metadata, rings, movers, Hamper, Lantern, Trust Block,
interrupts, PCIe, integrity, Matrix Cores, Array Field, Upkeep, exchange, fabric, registers, counters, latches, open
values, messages) is unchanged. (R9, R446, 18_register_index.md) -/
def Obligations.EveryRowGoesOnWithinItsComponents : Prop :=
  ∀ (c : Instr) (s : State), ∃ t, exec c s = .next t ∧ State.SameBut (touches c) s t

/-- Of a source 0 to 212 whose 8-bit count stands at 0 to 255: an arrival adds 1; one that finds 255 leaves it there and
sets SAT; the count stays within 8 bits and no other source's count changes. The reserved sources from 213 receive no
arrivals. The pending bit of a source is set exactly while its count is not zero. (R451, R452) -/
def Obligations.ArrivalsAreCountedTo255 : Prop :=
  ∀ (s : State) (n : Nat), s.irqCount n ≤ 255 →
    (n < 213 → (s.arrive n).irqCount n = (if s.irqCount n = 255 then 255 else s.irqCount n + 1) ∧
      (s.irqCount n = 255 → Tab.get (fun _ => false) (s.arrive n).irq.sat n = true)) ∧
    (213 ≤ n → s.arrive n = s) ∧ (s.arrive n).irqCount n ≤ 255 ∧
    (∀ k, k ≠ n → (s.arrive n).irqCount k = s.irqCount k) ∧ (s.pendingBit n = true ↔ s.irqCount n ≠ 0)

/-- In a tensor of 4-bit elements without outlier lanes: with scale byte 0xFF every element of the block reads as NaN;
with scale byte S from 0x00 to 0xFE an FP4B element with E2M1 value e is e x 2^(S - 127), and an INT4B element is its
two's-complement integer, from -8 to +7, times 2^(S - 127). (R33, R34) -/
def Obligations.ScaleBytesGiveTheirFactor : Prop :=
  ∀ (s : State) (t : Td) (b i : Nat) (nib : BitVec 4), t.lanes = false →
    nib.toNat = bitsOf (s.rdNat (t.addr + 16 * b + i / 2) 1) (4 * (i % 2)) 4 →
    (s.rdNat (t.aux + b) 1 = 0xFF → s.fourVal t b i = .nan) ∧
    (s.rdNat (t.aux + b) 1 ≤ 0xFE → t.fmt = 5 →
      s.fourVal t b i = (fpE2M1.decode nib.toNat).scale2 ((s.rdNat (t.aux + b) 1 : Int) - 127)) ∧
    (s.rdNat (t.aux + b) 1 ≤ 0xFE → t.fmt = 6 →
      -8 ≤ nib.toInt ∧ nib.toInt ≤ 7 ∧
        s.fourVal t b i = .fin (decide (nib.toInt < 0)) nib.toInt.natAbs ((s.rdNat (t.aux + b) 1 : Int) - 127))

/-- For FP32, BF16, FP16, E4M3 and E5M2, every encoding of a finite value, either saturation mode, rounding to nearest or
stochastic with any 16-bit draw: converting that value, however its significand and exponent are written, returns that
encoding, signed zeros included. (R30, R31, R42, R43, R44, R49) -/
def Obligations.RepresentableValuesConvertToThemselves : Prop :=
  ∀ p ∈ [fpFP32, fpBF16, fpFP16, fpE4M3, fpE5M2], ∀ (sat : Bool) (rnd : Rnd) (b k m : Nat) (neg : Bool) (e : Int),
    (∀ r, rnd = .stoch r → r < 65536) → b < 2 ^ p.width → p.decode b = .fin neg m e →
    p.cvt sat rnd (.fin neg (m * 2 ^ k) (e - k)) = { bits := b, nf := false, sat := false }

/-- A write of HG_RING_CTRL by the host or the owner, where register writes land: with ENABLE set on an idle ring whose
addresses and size are allowed, the ring is enabled with the written size and starts from its initial state, polling
within 1 us; with ENABLE clear the ring is disabled and drains what is in flight; with RESUME set on an enabled, halted
ring the halt ends. (R310, R311, R341) -/
def Obligations.RingControlActs : Prop :=
  (∀ (s : State) (m : Master) (n : Fin 64) (v : W32), s.Inv → (m = .host ∨ s.owns m = true) → s.regLands m = true →
    bitAt v.toNat 31 = true → s.ringEnabled n.val = false → s.inFlight n.val = 0 → (s.ring n.val).draining = false →
    s.ringPlaced n.val (bitsOf v.toNat 16 5) = true →
    ∃ t, exec (.ringEnable m n v) s = .next t ∧ t.ringEnabled n.val = true ∧ t.ringLog2 n.val = bitsOf v.toNat 16 5 ∧
      t.ringStop n.val = bitAt v.toNat 29 ∧
      t.ring n.val = { Ring.initial with nextPoll := s.now + 1000, sinceId := s.hg.nextId }) ∧
  (∀ (s : State) (m : Master) (n : Fin 64) (v : W32), s.Inv → (m = .host ∨ s.owns m = true) → s.regLands m = true →
    bitAt v.toNat 31 = false →
    ∃ t, exec (.ringDisable m n v) s = .next t ∧ t.ringEnabled n.val = false ∧
      (t.ring n.val).draining = ((s.ringEnabled n.val && s.inFlight n.val != 0) || (s.ring n.val).draining)) ∧
  (∀ (s : State) (m : Master) (n : Fin 64) (v : W32), s.Inv → (m = .host ∨ s.owns m = true) → s.regLands m = true →
    bitAt v.toNat 30 = true → bitAt v.toNat 31 = true → s.ringEnabled n.val = true → (s.ring n.val).halted = true →
    ∃ t, exec (.ringResume m n v) s = .next t ∧ t.ringEnabled n.val = true ∧ (t.ring n.val).halted = false)

/-- A poll that is due on an enabled ring, whose record the module reads and whose SEQ is new and valid, takes SQ_TAIL,
CQ_HEAD and SEQ from the record in host memory. A hint write while the module is in A0 or A1 brings the next poll of every
enabled ring within 1 us. (R312, R313, R314, R315) -/
def Obligations.PollTakesTheDoorbellRecord : Prop :=
  (∀ (s : State) (n : Fin 64) (e : Env) (u : State), u = (s.applyEnv e).linkUse → s.Inv → u.ringEnabled n.val = true →
    (s.applyEnv e).hostAwake = true → (u.ring n.val).nextPoll ≤ u.now → u.rdFail (u.reg (rDbAddr n.val)) 16 = none →
    (u.ring n.val).seqTaken ≠ some (u.rdNat (u.reg (rDbAddr n.val) + 8) 4) →
    u.recordBad n.val (u.rdNat (u.reg (rDbAddr n.val)) 4) (u.rdNat (u.reg (rDbAddr n.val) + 4) 4) = false →
    ∃ t, exec (.doorbellPoll n e) s = .next t ∧ (t.ring n.val).sqTail = u.rdNat (u.reg (rDbAddr n.val)) 4 ∧
      (t.ring n.val).cqHead = u.rdNat (u.reg (rDbAddr n.val) + 4) 4 ∧
      (t.ring n.val).seqTaken = some (u.rdNat (u.reg (rDbAddr n.val) + 8) 4)) ∧
  (∀ (s : State) (off : Fin 4096) (v : W32), s.Inv → (s.ld.pwr = .a0 ∨ s.ld.pwr = .a1) →
    ∃ t, exec (.hintWindowWrite off v) s = .next t ∧
      ∀ n, n < 64 → s.ringEnabled n = true → (t.ring n).nextPoll ≤ s.now + 1000)

/-- COMMAND_FETCH in the turn of ring n takes one slot of a command that is not critical: the count of fetched slots goes
up by one. STEP_HOLD_RELEASE of a held command whose step may now run accepts it: it takes the next issue sequence number,
unless its step has 262,144 commands already, when it is turned away. (R316, R318, R217, R297) -/
def Obligations.FetchAndAcceptanceAdvance : Prop :=
  (∀ (s : State) (n : Fin 64) (nw : Bool), s.Inv → s.fetchTurn = some (n.val, nw) → s.hostAwake = true →
    s.rdFail (s.reg (rRingBase n.val) + 64 * ((s.ring n.val).fetched % s.ringSize n.val)) 64 = none →
    ((s.rd (s.reg (rRingBase n.val) + 64 * ((s.ring n.val).fetched % s.ringSize n.val)) 64).getD 0 0).toNat < 0x60 →
    ∃ t, exec (.commandFetch n) s = .next t ∧ (t.ring n.val).fetched = ((s.ring n.val).fetched + 1) % 2 ^ 32) ∧
  (∀ (s : State) (n : Fin 64) (c : Cmd) (k : Nat), (s.ringCmds n.val).find? (fun c => c.stage == .stepHeld) = some c →
    c.stepOf = some k → s.stepCase k = .accept → (s.stepInfo k).accepted < 262144 →
    ∃ t, exec (.stepHoldRelease n) s = .next t ∧ t.hg.nextSeq = s.hg.nextSeq + 1 ∧
      ∃ d ∈ t.hg.cmds, d.id = c.id ∧ d.seq = some s.hg.nextSeq ∧ d.stage = .accepted) ∧
  (∀ (s : State) (n : Fin 64) (c : Cmd) (k : Nat), (s.ringCmds n.val).find? (fun c => c.stage == .stepHeld) = some c →
    c.stepOf = some k → s.stepCase k = .accept → 262144 ≤ (s.stepInfo k).accepted →
    ∃ t, exec (.stepHoldRelease n) s = .next t ∧ t.hg.nextSeq = s.hg.nextSeq ∧
      ∃ d ∈ t.hg.cmds, d.id = c.id ∧ d.stage = .failed ∧ d.conds = [.badDescriptor])

/-- COMMAND_START of an accepted command that nothing ahead of it blocks, that needs no failed command and whose ready
bits are all set starts it at the present device time; it latches VN_JOB_SEED, unless it runs again and keeps the seed of
its first start. BRINGUP_HOLD_TIMEOUT of a command held longer than HOLD_MS with a ready bit still missing fails it.
(R323, R51, R53, R450) -/
def Obligations.CommandsStartWhenReady : Prop :=
  (∀ (s : State) (q : Nat) (c : Cmd), s.cmd q = some c → c.stage = .accepted → c.tainted = false → s.startBlocked c = false →
    s.failedNeed c = none → (s.needsReady c).any s.failedKey = false → (s.needsReady c).all s.keyMet = true →
    ∃ t, exec (.commandStart q) s = .next t ∧ ∃ d, t.cmd q = some d ∧ d.stage = .started ∧ d.startedAt = s.now ∧
      d.seed = if c.seeded = true then c.seed else s.jobSeed) ∧
  (∀ (s : State) (q : Nat) (c : Cmd) (h : Nat), s.cmd q = some c → c.stage = .accepted → c.heldSince = some h →
    h + s.holdMs * 1000000 < s.now → (s.needsReady c).all s.keyMet = false →
    ∃ t, exec (.bringupHoldTimeout q) s = .next t ∧ ∃ d, t.cmd q = some d ∧ d.stage = .failed)

/-- COMPLETION_RECORD_WRITE of a command that has ended and asks for no extension, on a ring with room: the 16 bytes of
its record stand at the ring's next place, every other byte of memory reads as before, and the count of records goes up by
one. COMPLETION_GRACE_EXPIRY of a record that waited longer than GRACE_MS marks the ring overdue. (R338, R317) -/
def Obligations.RecordsReachTheCompletionRing : Prop :=
  (∀ (s : State) (n : Fin 64) (c : Cmd) (a : Nat), s.Inv → s.nextRecord n.val = some c → c.ended = true → s.hostAwake = true →
    (s.ring n.val).rewrite = false → s.recordRoom n.val = true → c.ext = false →
    a = s.reg (rCqBase n.val) + 16 * ((s.ring n.val).completed % s.ringSize n.val) → isHost a = true → s.rdFail a 16 = none →
    ∃ t, exec (.completionRecordWrite n) s = .next t ∧
      (∀ i (h : i < (c.record ((s.ring n.val).completed / s.ringSize n.val % 2 == 0)).length),
        t.byte (a + i) = (c.record ((s.ring n.val).completed / s.ringSize n.val % 2 == 0))[i]) ∧
      (∀ j, (j < a ∨ a + 16 ≤ j) → t.byte j = s.byte j) ∧
      (t.ring n.val).completed = ((s.ring n.val).completed + 1) % 2 ^ 32) ∧
  (∀ (s : State) (n : Fin 64) (c : Cmd) (h : Nat), s.Inv → s.nextRecord n.val = some c → c.recordReady = some h →
    h + s.graceMs * 1000000 < s.now → (s.ring n.val).overdue = false →
    ∃ t, exec (.completionGraceExpiry n) s = .next t ∧ (t.ring n.val).overdue = true)

/-- COMMAND_CLEAR of a delivered command with no check outstanding, not tainted, whose dependencies are all clear (for
FENC and critical commands, clear or failed): it is clear. Said here of every command whose becoming clear does nothing
further (not XCHG, RECOMP, AMVM or AMVT, no fold waiting for it, outside a replay). Another command with a failed
dependency, which never becomes clear, fails with the status of highest precedence among them: the choice of the model
(log entry 14). (R283, R500) -/
def Obligations.CommandsBecomeClear : Prop :=
  (∀ (s : State) (q : Nat) (c : Cmd), s.cmd q = some c → c.stage = .delivered → c.checks = 0 → c.tainted = false →
    (s.dependsOn c).all (fun d => d.stage.isClear || ((c.isFenc || c.critical) && d.stage == .failed)) = true →
    c.opcode ∉ [0x10, 0x11, 0x2A, 0x30] →
    c.parent = none → c.seq = some q → (∀ f ∈ s.mc.folds, f.seq ≠ q) → s.hg.replay = none →
    ∃ t, exec (.commandClear q) s = .next t ∧ ∃ d, t.cmd q = some d ∧ d.stage = .clear) ∧
  (∀ (s : State) (q : Nat) (c b : Cmd), s.cmd q = some c → c.stage = .delivered → c.checks = 0 → c.tainted = false →
    c.isFenc = false → c.critical = false → b ∈ s.dependsOn c → b.stage = .failed →
    ∃ t, exec (.commandClear q) s = .next t ∧ ∃ d, t.cmd q = some d ∧ d.stage = .failed ∧
      ∃ e ∈ s.dependsOn c, e.stage = .failed ∧ d.conds = e.status :: c.conds ∧
        ∀ f ∈ s.dependsOn c, f.stage = .failed → e.status.rank ≤ f.status.rank)

/-- A WAIT whose counter has reached VALUE is delivered, when it runs and while it waits; one whose counter has not stays
running. After its timeout it fails and its ring halts. A read that has waited WAIT_US for a version fails. (R326,
R134) -/
def Obligations.WaitsEndAsTheirCounterSays : Prop :=
  (∀ (s : State) (q : Nat) (c : Cmd), s.runnable q 0x08 = some c → s.waitMet c = true →
    ∃ t, exec (.wait q) s = .next t ∧ ∃ d, t.cmd q = some d ∧ d.stage = .delivered) ∧
  (∀ (s : State) (q : Nat) (c : Cmd), s.runnable q 0x08 = some c → s.waitMet c = false →
    ∃ t, exec (.wait q) s = .next t ∧ ∃ d, t.cmd q = some d ∧ d.stage = .running) ∧
  (∀ (s : State) (q : Nat) (c : Cmd), s.waiting q = some c → s.waitMet c = true →
    ∃ t, exec (.waitSatisfied q) s = .next t ∧ ∃ d, t.cmd q = some d ∧ d.stage = .delivered) ∧
  (∀ (s : State) (q : Nat) (c : Cmd), s.Inv → s.waiting q = some c → s.waitMet c = false → c.startedAt + s.waitNs c < s.now →
    ∃ t, exec (.waitTimeoutExpiry q) s = .next t ∧ (∃ d, t.cmd q = some d ∧ d.stage = .failed) ∧ (t.ring c.ring).halted = true) ∧
  (∀ (s : State) (q : Nat) (c : Cmd) (y : Resident) (r : Read) (w : Nat), s.cmd q = some c → s.readTensor q = some y →
    c.stage = .running → c.tainted = false → r ∈ s.af.reads → r.seq = q → r.stage = .waiting →
    s.pairVersion y r.s r.g < r.version → r.waitSince = some w → w + s.waitUs * 1000 < s.now →
    ∃ t, exec (.versionWaitTimeout q) s = .next t ∧ ∃ d, t.cmd q = some d ∧ d.stage = .failed)

/-- SGNL behind delivered commands, which has not raised its counter yet, adds VALUE to its counter, or sets it, and is
delivered (its delivery adds the 1 of SIGNAL, where that names the same counter). A started FENC is delivered; with
RESTART it releases the journal, every Hamper entry and every exchange part, and there is no newest step; with REPLAY,
while the journal is not lost and no command of steps n and n + 1 runs, it reopens those steps. (R327, R328, R298) -/
def Obligations.SignalsAndFencesAct : Prop :=
  (∀ (s : State) (q : Nat) (c : Cmd), s.Inv → s.runnable q 0x09 = some c →
    (s.ahead c).all (fun d => d.stage != .failed && (if bitAt (c.u8 18) 1 then d.stage.isClear else d.stage.isDone)) = true →
    s.hg.replay = none → c.signalled = false →
    ∃ t, exec (.sgnl q) s = .next t ∧ (∃ d, t.cmd q = some d ∧ d.stage = .delivered) ∧
      t.event (c.u 16 2) = (if bitAt (c.u8 18) 0 then 0 else s.event (c.u 16 2)) + BitVec.ofNat 64 (c.u 24 8) +
        (if c.parent = none ∧ c.sig = some (c.u 16 2) then 1 else 0)) ∧
  (∀ (s : State) (q : Nat) (c : Cmd), s.fenc q 0 = some c →
    ∃ t, exec (.fenc q) s = .next t ∧ ∃ d, t.cmd q = some d ∧ d.stage = .delivered) ∧
  (∀ (s : State) (q : Nat) (c : Cmd), s.fenc q 1 = some c →
    ∃ t, exec (.fencAll q) s = .next t ∧ ∃ d, t.cmd q = some d ∧ d.stage = .delivered) ∧
  (∀ (s : State) (q : Nat) (c : Cmd), (s.fenc q 2).or (s.fenc q 3) = some c →
    ∃ t, exec (.fencRestart q) s = .next t ∧ (∃ d, t.cmd q = some d ∧ d.stage = .delivered) ∧ t.hg.journal = [] ∧
      t.hg.newest = none ∧ t.ham.entries = [] ∧ t.xe.parts = []) ∧
  (∀ (s : State) (q : Nat) (c : Cmd), s.Inv → (s.fenc q 4).or (s.fenc q 5) = some c →
    s.stepRuns (c.u 20 4) = false → s.stepRuns (c.u 20 4 + 1) = false → (s.stepInfo (c.u 20 4)).unreplayable = false →
    (∀ p ∈ s.ms.upset, placeOf s.ms.interleave (32 * p.1) = .journal → decodePattern p.2 ≠ .bad) →
    ∃ t, exec (.fencReplay q) s = .next t ∧ (t.stepInfo (c.u 20 4)).mark = .open ∧ (t.stepInfo (c.u 20 4 + 1)).mark = .open)

/-- A MOVE or FILL of one inline transfer, on a channel with nothing else to do, that passes its checks, whose accesses
need not wait (for a row being copied, or for the host in D3hot) and meets no failing request: byte i of the destination
region, wraps included, reads as byte i of the source region (MOVE) or as byte i mod 8 of the pattern (FILL); every other
byte reads as before. With a destination in device memory the command is delivered; with one in host memory it waits for
its read-back. (R346, R347, R348, R351) -/
def Obligations.MoveAndFillWriteTheirBytes : Prop :=
  (∀ (s : State) (q : Nat) (c : Cmd) (x : Transfer), s.Inv → s.runnable q 0x01 = some c → bitAt (c.u8 17) 0 = false →
    (s.chan (c.u8 16)).current = none → (s.chan (c.u8 16)).queue = [] → (s.chan (c.u8 16)).halted = false →
    x = transferOf (c.slot.drop 32) → s.transferOk .move x = true → s.heldBack (x.ranges .move) = false →
    s.transferFail .move x = none →
    ∃ t, exec (.move q) s = .next t ∧
      (∀ i, i < x.length → t.rdByte (wrapAddr x.dst x.dwrap i) = s.rdByte (wrapAddr x.src x.swrap i)) ∧
      (∀ j, (∀ i, i < x.length → j ≠ wrapAddr x.dst x.dwrap i) → t.rdByte j = s.rdByte j) ∧
      ∃ d, t.cmd q = some d ∧ d.stage = (if isHost x.dst then .running else .delivered)) ∧
  (∀ (s : State) (q : Nat) (c : Cmd) (x : Transfer), s.Inv → s.runnable q 0x02 = some c → bitAt (c.u8 17) 0 = false →
    (s.chan (c.u8 16)).current = none → (s.chan (c.u8 16)).queue = [] → (s.chan (c.u8 16)).halted = false →
    x = transferOf (c.slot.drop 32) → s.transferOk .fill x = true → s.heldBack (x.ranges .fill) = false →
    s.transferFail .fill x = none →
    ∃ t, exec (.fill q) s = .next t ∧
      (∀ i, i < x.length → t.rdByte (wrapAddr x.dst x.dwrap i) = BitVec.ofNat 8 (x.src / 256 ^ (i % 8))) ∧
      (∀ j, (∀ i, i < x.length → j ≠ wrapAddr x.dst x.dwrap i) → t.rdByte j = s.rdByte j) ∧
      ∃ d, t.cmd q = some d ∧ d.stage = (if isHost x.dst then .running else .delivered))

/-- A CMPR of one inline transfer that can be read, whose accesses need not wait, on a channel with nothing else to do:
when all bytes agree it is delivered with no further condition; otherwise it is delivered with COMPARE_MISMATCH and DETAIL
names the first byte that differs. No byte of memory changes. MOVER_TRANSFER_END of the last transfer of a MOVE or FILL
whose destination was read back delivers the command and frees the channel. (R349, R351, R352) -/
def Obligations.CompareReportsTheFirstDifference : Prop :=
  (∀ (s : State) (q : Nat) (c : Cmd) (x : Transfer), s.Inv → s.runnable q 0x03 = some c → bitAt (c.u8 17) 0 = false →
    (s.chan (c.u8 16)).current = none → (s.chan (c.u8 16)).queue = [] → (s.chan (c.u8 16)).halted = false →
    x = transferOf (c.slot.drop 32) → s.transferOk .cmpr x = true → s.heldBack (x.ranges .cmpr) = false →
    s.transferFail .cmpr x = none →
    ∃ t, exec (.cmpr q) s = .next t ∧ (∀ j, t.rdByte j = s.rdByte j) ∧
      ∃ d, t.cmd q = some d ∧ d.stage = .delivered ∧
        (((∀ i, i < x.length → s.rdByte (wrapAddr x.src x.swrap i) = s.rdByte (wrapAddr x.dst x.dwrap i)) ∧ d.conds = c.conds) ∨
         (∃ k, k < x.length ∧ s.rdByte (wrapAddr x.src x.swrap k) ≠ s.rdByte (wrapAddr x.dst x.dwrap k) ∧
           (∀ i, i < k → s.rdByte (wrapAddr x.src x.swrap i) = s.rdByte (wrapAddr x.dst x.dwrap i)) ∧
           d.conds = c.conds ++ [.compareMismatch] ∧ d.detail = k))) ∧
  (∀ (s : State) (n : Fin 64) (it : MoverItem) (q : Nat) (c : Cmd), s.Inv → (s.chan n.val).current = some it →
    (s.chan n.val).queue = [] → it.issued = true → (it.kind = .move ∨ it.kind = .fill) → it.listAddr = none →
    it.transfers.length = it.done + 1 → it.failAddr = none → s.ld.d3hot = false → s.readBackFail it = false → it.seq = some q →
    s.cmd q = some c →
    ∃ t, exec (.moverTransferEnd n) s = .next t ∧ (t.chan n.val).current = none ∧ (∀ j, t.rdByte j = s.rdByte j) ∧
      ∃ d, t.cmd q = some d ∧ d.stage = .delivered)

/-- MOVER_REQUEST_FAIL of a transfer without SKIP halts the channel, which latches the address (of a read-back, that of
the 4 bytes with the transfer's last byte), the direction and the cause, and fails the command, unless data that a command
of an open step wrote is lost. A write of RESTART by the owner, while the Hamper has nothing to spill on the channel, ends
the halt; FLUSH then ends it, empties the queue of what was queued before and fails those commands; in the cycle of the
halt neither has an effect; a command that waits for an item queued on a halted channel fails after WAIT_US. (R353, R356,
R357, R358, R359) -/
def Obligations.MoverFailuresHaltTheChannel : Prop :=
  (∀ (s : State) (n : Fin 64) (addr : W64) (dir : Fin 3) (cause : Fin 7) (issued : List (Nat × Nat)) (it : MoverItem) (x : Transfer)
    (q : Nat) (c : Cmd), s.Inv → (s.chan n.val).current = some it → it.transfers[it.done]? = some x → x.skip = false →
    (it.kind = .move ∨ it.kind = .fill ∨ it.kind = .cmpr) → (dir.val = 2 → it.issued = true) →
    (dir.val = 0 → it.issued = false) → it.failAddr = none →
    it.failUncorr = false → (cause.val ≠ 5 ∨ s.im.written = []) → it.seq = some q → s.cmd q = some c →
    ∃ t, exec (.moverRequestFail n addr dir cause issued) s = .next t ∧ (t.chan n.val).halted = true ∧
      (t.chan n.val).current = none ∧ (t.chan n.val).failAddr = (if dir.val = 2 then BitVec.ofNat 64 x.readBack else addr) ∧
      (t.chan n.val).failDir = dir.val ∧
      (t.chan n.val).failCause = cause.val ∧ ∃ d, t.cmd q = some d ∧ d.stage = .failed) ∧
  (∀ (s : State) (m : Master) (n : Fin 64) (v : W32), s.Inv → s.owns m = true → s.regLands m = true →
    (s.chan n.val).halted = true → (s.chan n.val).haltedAt < s.now → (s.chan n.val).current = none → (s.chan n.val).queue = [] →
    (s.ham.spillChannel = n.val → (∀ d ∈ s.hg.cmds, d.opcode ≠ 0x28 ∨ d.stage ≠ .running) ∧
      s.regionUsed * 16 ≤ s.ham.spillHigh * (s.ham.size * 2 ^ 30)) →
    bitAt v.toNat 31 = true → bitAt v.toNat 30 = false →
    ∃ t, exec (.moverRestart m n v) s = .next t ∧ (t.chan n.val).halted = false ∧ t.reg (rChCtrl n.val) = v.toNat % 16) ∧
  (∀ (s : State) (m : Master) (n : Fin 64) (v : W32), s.Inv → s.owns m = true → s.regLands m = true →
    (s.chan n.val).halted = true → (s.chan n.val).haltedAt < s.now → (s.chan n.val).current = none →
    (∀ it ∈ (s.chan n.val).queue, (it.kind = .move ∨ it.kind = .fill ∨ it.kind = .cmpr) ∧ it.queuedAt < s.now) →
    (s.ham.spillChannel = n.val → (∀ d ∈ s.hg.cmds, d.opcode ≠ 0x28 ∨ d.stage ≠ .running) ∧
      s.regionUsed * 16 ≤ s.ham.spillHigh * (s.ham.size * 2 ^ 30)) → bitAt v.toNat 30 = true →
    ∃ t, exec (.moverFlush m n v) s = .next t ∧ (t.chan n.val).halted = false ∧ (t.chan n.val).queue = [] ∧
      ∀ it ∈ (s.chan n.val).queue, ∀ q c, it.seq = some q → s.cmd q = some c → ∃ d, t.cmd q = some d ∧ d.stage = .failed) ∧
  (∀ (s : State) (m : Master) (n : Fin 64) (v : W32), s.Inv → (s.chan n.val).halted = true → s.now ≤ (s.chan n.val).haltedAt →
    s.ham.spillChannel ≠ n.val →
    ∃ t u, exec (.moverRestart m n v) s = .next t ∧ exec (.moverFlush m n v) s = .next u ∧ t.chan n.val = s.chan n.val ∧
      u.chan n.val = s.chan n.val) ∧
  (∀ (s : State) (q n : Nat) (it : MoverItem) (c : Cmd), s.Inv → s.queuedOn q = some n → (s.chan n).halted = true →
    (s.chan n).queue.find? (s.waitsFor q) = some it →
    max it.queuedAt (s.chan n).haltedAt + s.waitUs * 1000 < s.now → s.cmd q = some c →
    ∃ t, exec (.moverHaltedWaitTimeout q) s = .next t ∧ (t.chan n).queue = (s.chan n).queue.filter (fun it => it.seq != some q) ∧
      ∃ d, t.cmd q = some d ∧ d.stage = .failed)

/-- A started VECT, NORM or SMAX whose descriptors are good, whose shapes match and whose operands can be read with no
access that waits is delivered, with the residue check of its result outstanding; every byte outside the output tensor
(elements, scales, lanes) and the record it names reads as before. (R332, R283) -/
def Obligations.RowCommandsDeliverAndWriteTheirTensor : Prop :=
  (∀ (s : State) (q : Nat) (c : Cmd) (ins : List Nat) (o : Td), s.Inv → s.runnable q 0x20 = some c → o = s.tdAt (c.u 40 8) →
    ins = c.u 16 8 :: ((if usesB (c.u8 48) then [c.u 24 8] else []) ++ (if usesC (c.u8 48) then [c.u 32 8] else [])) →
    s.Operands ((ins ++ [c.u 40 8]).map fun a => (a, 64))
      ((ins ++ [c.u 40 8]).all s.tdOk && (o.rows == (s.tdAt (c.u 16 8)).rows &&
        o.cols == (if oneColumn (c.u8 48) then 1 else (s.tdAt (c.u 16 8)).cols) &&
        (!usesB (c.u8 48) || (s.tdAt (c.u 16 8)).repeats (s.tdAt (c.u 24 8))) &&
        (!usesC (c.u8 48) || (s.tdAt (c.u 16 8)).repeats (s.tdAt (c.u 32 8)))) && (s.openOut c.step o).isSome)
      (ins.flatMap (fun a => (s.tdAt a).ranges) ++ o.histRange) o.ranges →
    ∃ t, exec (.vect q) s = .next t ∧ (∀ j, outside (o.ranges ++ o.histRange) j → t.rdByte j = s.rdByte j) ∧
      ∃ d, t.cmd q = some d ∧ d.stage = .delivered ∧ d.checks = c.checks + 1) ∧
  (∀ (s : State) (q : Nat) (c : Cmd) (ins : List Nat) (o : Td), s.Inv → s.runnable q 0x21 = some c → o = s.tdAt (c.u 40 8) →
    ins = [c.u 16 8, c.u 24 8] ++ (if c.u 32 8 ≠ 0 then [c.u 32 8] else []) →
    s.Operands ((ins ++ [c.u 40 8]).map fun a => (a, 64))
      ((ins ++ [c.u 40 8]).all s.tdOk && (o.sameShape (s.tdAt (c.u 16 8)) && (s.tdAt (c.u 16 8)).repeats (s.tdAt (c.u 24 8)) &&
        (c.u 32 8 == 0 || (s.tdAt (c.u 16 8)).repeats (s.tdAt (c.u 32 8)))) && (s.openOut c.step o).isSome)
      (ins.flatMap (fun a => (s.tdAt a).ranges) ++ o.histRange) o.ranges →
    ∃ t, exec (.norm q) s = .next t ∧ (∀ j, outside (o.ranges ++ o.histRange) j → t.rdByte j = s.rdByte j) ∧
      ∃ d, t.cmd q = some d ∧ d.stage = .delivered ∧ d.checks = c.checks + 1) ∧
  (∀ (s : State) (q : Nat) (c : Cmd) (o : Td), s.Inv → s.runnable q 0x22 = some c → o = s.tdAt (c.u 24 8) →
    s.Operands [(c.u 16 8, 64), (c.u 24 8, 64)]
      (s.tdOk (c.u 16 8) && s.tdOk (c.u 24 8) && o.sameShape (s.tdAt (c.u 16 8)) && (s.openOut c.step o).isSome)
      ((s.tdAt (c.u 16 8)).ranges ++ o.histRange) o.ranges →
    ∃ t, exec (.smax q) s = .next t ∧ (∀ j, outside (o.ranges ++ o.histRange) j → t.rdByte j = s.rdByte j) ∧
      ∃ d, t.cmd q = some d ∧ d.stage = .delivered ∧ d.checks = c.checks + 1)

/-- A started ATTN whose block and descriptors are good and whose operands can be read with no access that waits runs, one
block for each 256 query rows, with all its tiles waiting; of memory only the records of its outputs change (Y forward;
dQ, dK and dV backward). When a pass delivers the last tile of an attention command, its output tensors and the statistics
it names are written, every other byte reads as before, and the command is delivered. How the products are cut into tiles
is the choice of the model (log entry 118). (R180, R184, R81) -/
def Obligations.AttentionDeliversAndWritesItsTensors : Prop :=
  (∀ (s : State) (q : Nat) (c : Cmd) (a : Nat) (x : Attn), s.Inv → s.runnable q 0x19 = some c → bitAt (c.u8 24) 0 = false →
    a = c.u 16 8 → x = s.attn a → s.Operands [(a, 192)] (s.attnOk a false) [] [] →
    s.Operands ((s.attnTds a false).map fun t => (t, 64))
      ((s.attnTds a false).all s.tdOk && s.positionsOk x.qpos x.qbase x.q.rows && s.positionsOk x.kpos x.kbase x.k.rows &&
        (s.openOut c.step x.y).isSome)
      (x.q.ranges ++ x.k.ranges ++ x.v.ranges ++ x.y.histRange ++ (if x.qpos = 0 then [] else [(x.qpos, 8 * x.q.rows)]) ++
        (if x.kpos = 0 then [] else [(x.kpos, 8 * x.k.rows)]))
      (x.y.ranges ++ (if x.stats != 0 then [(x.stats, 8 * x.q.rows)] else [])) →
    ∃ t, exec (.attn q) s = .next t ∧
      (∀ j, outside x.y.histRange j → t.rdByte j = s.rdByte j) ∧ (∃ d, t.cmd q = some d ∧ d.stage = .running) ∧
      (∀ y ∈ t.mc.tiles, y.seq = q → y.stage = .waiting ∧ y.block < (x.q.rows + 255) / 256) ∧
      ∃ w ∈ t.mc.works, w.seq = q ∧ w.side = 8 ∧ w.blocks = (x.q.rows + 255) / 256 ∧ w.homes = [] ∧
        ∃ e, w.attn = some e ∧ e.outs.map AttnOut.td = [x.y] ∧ e.stats.map Prod.fst = if x.stats = 0 then [] else [x.stats]) ∧
  (∀ (s : State) (q : Nat) (c : Cmd) (a : Nat) (x : Attn), s.Inv → s.runnable q 0x19 = some c → bitAt (c.u8 24) 0 = true →
    a = c.u 16 8 → x = s.attn a → s.Operands [(a, 192)] (s.attnOk a true) [] [] →
    s.Operands ((s.attnTds a true).map fun t => (t, 64))
      ((s.attnTds a true).all s.tdOk && s.positionsOk x.qpos x.qbase x.q.rows && s.positionsOk x.kpos x.kbase x.k.rows &&
        [x.dq, x.dk, x.dv].all fun t => (s.openOut c.step t).isSome)
      ([x.q, x.k, x.v, x.y, x.dy].flatMap Td.ranges ++ [x.dq, x.dk, x.dv].flatMap Td.histRange ++
        (if x.qpos = 0 then [] else [(x.qpos, 8 * x.q.rows)]) ++ (if x.kpos = 0 then [] else [(x.kpos, 8 * x.k.rows)]) ++
        [(x.stats, 8 * x.q.rows)])
      ([x.dq, x.dk, x.dv].flatMap Td.ranges) →
    ∃ t, exec (.attnBwd q) s = .next t ∧
      (∀ j, outside ([x.dq, x.dk, x.dv].flatMap Td.histRange) j → t.rdByte j = s.rdByte j) ∧
      (∃ d, t.cmd q = some d ∧ d.stage = .running) ∧
      (∀ y ∈ t.mc.tiles, y.seq = q → y.stage = .waiting ∧ y.block < (x.q.rows + 255) / 256) ∧
      ∃ w ∈ t.mc.works, w.seq = q ∧ w.side = 8 ∧ w.blocks = (x.q.rows + 255) / 256 ∧ w.homes = [] ∧
        ∃ e, w.attn = some e ∧ e.outs.map AttnOut.td = [x.dq, x.dk, x.dv] ∧ e.stats = []) ∧
  (∀ (s : State) (q n issued : Nat) (x : Tile) (w : Work) (e : AttnEnd) (c : Cmd), s.Inv → s.tileRunning q n = some x →
    x.stage = .waiting → x.pass = .good → (∀ y ∈ s.mc.tiles, y.seq = q → y.index ≠ n → y.left = true) →
    s.mc.works.find? (fun w => w.seq == q) = some w → w.attn = some e → s.cmd q = some c →
    ∃ t, exec (.tilePassEnd q n issued) s = .next t ∧ (∃ d, t.cmd q = some d ∧ d.stage = .delivered) ∧
      (∀ j, outside ((e.outs.flatMap fun o => (o.td.conv o.range c.seed c.step o.vals).writes.map fun b => (b.1, b.2.length)) ++
        e.stats.map fun b => (b.1, b.2.length)) j → t.rdByte j = s.rdByte j) ∧
      ∀ a l, e.stats = [(a, l)] → (∀ i < l.length, isHost (a + i) = isHost a) → ∀ i, ∀ h : i < l.length, t.rdByte (a + i) = l[i])

/-- A started MMUL with good descriptors runs, with its tiles waiting. GANG_ALLOCATE of a free square of a cluster that
the command may use gives its lowest waiting block a gang, and a cluster at stage 0 goes to stage 1. A pass that ends
well, and the slow path, deliver the tile, and the last tile delivers the command; a pass that overflows, or that fails
the cancellation test with a lower anchor, moves the anchor, and after two moves takes the slow path. When its U/8 or V/8
cycles have passed, a cluster's issue stage moves one step toward its target, and its credit counter has taken the stage
for every cycle, modulo 8. (R164, R70, R71, R72, R73, R171, R172) -/
def Obligations.TilesPassFromGangToDelivery : Prop :=
  (∀ (s u : State) (q : Nat) (c : Cmd) (x : Mmul) (ops : List (Nat × Nat)), s.Inv → s.runnable q 0x18 = some c → x = s.mmul c →
    ops = x.a.ranges ++ x.b.ranges ++ (if x.acc then x.c.ranges else []) ++ x.a.histRange ++ x.b.histRange ++ x.c.histRange →
    s.Operands [(c.u 16 8, 64), (c.u 24 8, 64), (c.u 32 8, 64)]
      ([c.u 16 8, c.u 24 8, c.u 32 8].all s.tdOk && x.shapeOk && (s.openOut c.step x.c).isSome) ops x.c.ranges →
    u = s.readOperands q ([(c.u 16 8, 64), (c.u 24 8, 64), (c.u 32 8, 64)] ++ ops) →
    ∃ t, exec (.mmul q) s = .next t ∧ (∃ d, t.cmd q = some d ∧ d.stage = .running) ∧
      t.mc.tiles.filter (fun i => i.seq = q) = u.mmulTiles (u.mmul c) q (priorAt (u.priorOf q (u.mmul c).acc (u.mmul c).c)) ∧
      ∀ j, outside x.c.histRange j → t.rdByte j = s.rdByte j) ∧
  (∀ (s : State) (q b : Nat) (x : ClusterId) (row col : Fin 8) (w : Work), s.Inv → s.wantsGang q = some (w, b) →
    s.mayUse w x.die.val x.cluster.val = true → s.squareFree x.die.val x.cluster.val row.val col.val w.side = true →
    (∀ v ∈ s.mc.works, v.seq < q → s.mayUse v x.die.val x.cluster.val = true → s.wantsGang v.seq = none) →
    ∃ t, exec (.gangAllocate q x ⟨row, col⟩) s = .next t ∧
      t.mc.gangs = { seq := q, block := b, die := x.die.val, cluster := x.cluster.val, row := row.val, col := col.val, side := w.side } ::
        s.mc.gangs ∧
      t.stageOf (clusterKey x.die.val x.cluster.val) = max 1 (s.stageOf (clusterKey x.die.val x.cluster.val))) ∧
  (∀ (s : State) (q n issued : Nat) (x y : Tile), s.tileRunning q n = some x → x.stage = .waiting →
    y = { x with testing := x.runPass, running := x.elems.map fun e => e.parts.map fun _ => CellAcc.empty } →
    ∃ t, exec (.tilePassEnd q n issued) s = .next t ∧
      (x.pass = .good → t.tile q n = some { y with
          stage := .delivered, abandoned := false, spares := s.coreSpares x.die x.cluster } ∧
        ((∀ z ∈ s.mc.tiles, z.seq = q → z.index ≠ n → z.left = true) → ∃ d, t.cmd q = some d ∧ d.stage = .delivered)) ∧
      (∀ eo late, x.pass = .overflow eo late → x.moves < 2 →
        t.tile q n = some { y with anchor := eo, moves := x.moves + 1 }) ∧
      (∀ eo late, x.pass = .overflow eo late → 2 ≤ x.moves → t.tile q n = some { y with stage := .slow }) ∧
      (∀ m, x.pass = .cancel m → m - 15 < x.anchor → x.moves < 2 →
        t.tile q n = some { y with anchor := m - 15, moves := x.moves + 1 }) ∧
      (∀ m, x.pass = .cancel m → (x.anchor ≤ m - 15 ∨ 2 ≤ x.moves) → t.tile q n = some { y with stage := .slow })) ∧
  (∀ (s : State) (q n issued : Nat) (x : Tile), s.tileRunning q n = some x → x.stage = .slow →
    ∃ t, exec (.slowPathEnd q n issued) s = .next t ∧ t.tile q n = some { x with
      stage := .delivered, abandoned := false, spares := s.coreSpares x.die x.cluster }) ∧
  (∀ (s : State) (x : ClusterId) (cycles filler k g p len : Nat), s.Inv → k = clusterKey x.die.val x.cluster.val →
    g = (if s.clusterBusy x.die.val x.cluster.val then s.ceiling else 0) → p = s.stageOf k →
    len = (match s.rampOf k with
      | some r => if r.1 = decide (p < g) then r.2 else if p < g then s.rampUp else s.rampDown
      | none => if p < g then s.rampUp else s.rampDown) →
    ∃ t, exec (.rampStageChange x ⟨cycles, filler⟩) s = .next t ∧
      ((p = g ∨ cycles < len) → t = s) ∧
      (p ≠ g → len ≤ cycles → t.stageOf k = (if p < g then p + 1 else p - 1) ∧
        t.creditOf k = if t.stageOf k = 0 then 0 else (s.creditOf k + p * cycles) % 8))

/-- Where no access waits: SCAL APPLY with good operands is delivered and changes only its destination tensor, that
tensor's record and OUTK. SCAL CLOSE alone pushes RUN_MAX of a listed record that is open for the command's step. SCAL
RESET writes the initial record with MARGIN, SPAN and OTH of the command; CLRFLAG clears the recipe flag and leaves the
rest of the record. (R194, R190, R186) -/
def Obligations.ScaleRecordsChangeAsTheirCommandsSay : Prop :=
  (∀ (s : State) (q : Nat) (c : Cmd) (o : Td), s.Inv → s.scal q 0 = some c → o = s.tdAt (c.u 40 8) →
    s.Operands [(c.u 32 8, 64), (c.u 40 8, 64)]
      (s.tdOk (c.u 32 8) && s.tdOk (c.u 40 8) && (s.tdAt (c.u 32 8)).sameShape o && (c.u 48 8 == 0 || !s.recBad (c.u 48 8)) &&
        (c.u 56 8 == 0 || !s.rangeBad (c.u 56 8) 4) && (s.openOut c.step o).isSome)
      ((s.tdAt (c.u 32 8)).ranges ++ o.histRange ++ if c.u 48 8 = 0 then [] else [(c.u 48 8, 128)])
      (o.ranges ++ if c.u 56 8 = 0 then [] else [(c.u 56 8, 4)]) →
    ∃ t, exec (.scalApply q) s = .next t ∧ (∃ d, t.cmd q = some d ∧ d.stage = .delivered) ∧
      ∀ j, outside (o.ranges ++ o.histRange ++ if c.u 56 8 = 0 then [] else [(c.u 56 8, 4)]) j → t.rdByte j = s.rdByte j) ∧
  (∀ (s : State) (q : Nat) (c : Cmd) (a : Nat), s.Inv → s.scal q 1 = some c → bitAt (c.u8 17) 0 = false → c.u 24 4 = 1 →
    s.rangeBad (c.u 48 8) 8 = false → a = s.rdNat (c.u 48 8) 8 →
    s.Operands [(c.u 48 8, 8)] (!s.recBad a) [(a, 128)] [] →
    ∃ t, exec (.scalClose q) s = .next t ∧ (∃ d, t.cmd q = some d ∧ d.stage = .delivered) ∧
      t.histAt a = (if (s.histAt a).isOpen ∧ (s.histAt a).runStep = c.step then (s.histAt a).push (s.histAt a).runMax c.step false
        else s.histAt a) ∧
      ∀ j, outside [(a, 128)] j → t.rdByte j = s.rdByte j) ∧
  (∀ (s : State) (q : Nat) (c : Cmd), s.Inv → s.scal q 2 = some c → c.u8 19 ≤ 7 → c.u8 20 ≤ 31 → c.u8 21 ≤ 15 →
    s.recNamed c = true →
    s.heldBack [(c.u 48 8, 128)] = false →
    ∃ t, exec (.scalReset q) s = .next t ∧ (∃ d, t.cmd q = some d ∧ d.stage = .delivered) ∧
      t.histAt (c.u 48 8) = ⟨List.replicate 16 0, 0, 0, 0, 0, 0, 0, c.u8 19, c.u8 20, c.u8 21, false, false⟩ ∧
      ∀ j, outside [(c.u 48 8, 128)] j → t.rdByte j = s.rdByte j) ∧
  (∀ (s : State) (q : Nat) (c : Cmd), s.Inv → s.scal q 3 = some c → s.recNamed c = true → s.heldBack [(c.u 48 8, 128)] = false →
    s.rdFails [(c.u 48 8, 128)] = none →
    ∃ t, exec (.scalClrflag q) s = .next t ∧ (∃ d, t.cmd q = some d ∧ d.stage = .delivered) ∧
      t.histAt (c.u 48 8) = { s.histAt (c.u 48 8) with recipe := false } ∧
      ∀ j, outside [(c.u 48 8, 128)] j → t.rdByte j = s.rdByte j)

/-- A started AMVM or AMVT on a resident tensor, for a step after its first version, with good operands that need not wait
(AMVT with VERSION FFFF_FFFF or the version used): the command runs, DETAIL holds the version that it uses, the module
holds its matrix-vector work, and every read of it waits for that version. Only the record of the output changes in
memory. (R91, R100, R235, R237, R117) -/
def Obligations.MatvecCommandsSetUpTheirReads : Prop :=
  ∀ (s : State) (q op : Nat) (row : Instr) (c : Cmd) (r : Resident) (v : Nat) (x : Mv) (tds : List Nat), s.Inv →
    ((row = .amvm q ∧ op = 0x10) ∨ (row = .amvt q ∧ op = 0x11 ∧ (c.u 56 4 = 0xFFFFFFFF ∨ c.u 56 4 = v))) →
    s.runnable q op = some c → s.resident (c.u 48 4) = some r → v = c.version.getD (r.ver c.step) → r.v0 < c.step → x = s.mv_ c r →
    tds = [c.u 16 8, c.u 24 8] ++ (if c.u 32 8 = 0 then [] else [c.u 32 8, c.u 32 8 + 64]) →
    s.Operands (tds.map (fun a => (a, 64)) ++ (if c.u 40 8 = 0 then [] else [(c.u 40 8, 32)]))
      (tds.all s.tdOk && (c.u 40 8 == 0 || winGood (s.rd (c.u 40 8) 32)) && x.shapeOk && (s.openOut c.step x.out).isSome)
      (x.inn.ranges ++ x.inn.histRange ++ x.out.histRange ++ (match x.comp with | none => [] | some p => p.1.ranges ++ p.2.ranges) ++
        (if x.acc then x.out.ranges else []) ++ (if x.tr && r.tdig then [(r.h, 2 * r.k * r.n)] else []))
      x.out.ranges →
    ∃ t, exec row s = .next t ∧ (∃ d, t.cmd q = some d ∧ d.stage = .running ∧ d.detail = v % 2 ^ 63) ∧
      (∃ w ∈ t.af.matvecs, w.seq = q ∧ w.tensor = r.id ∧ w.transpose = (op == 0x11)) ∧
      (∀ y ∈ t.af.reads, y.seq = q → y.stage = .waiting ∧ y.version = v) ∧
      ∀ j, outside x.out.histRange j → t.rdByte j = s.rdByte j

/-- ARRAY_READ_START starts a waiting read on the array that serves its pair when array, bank and die may read. When every
line of a conversion is confirmed and none saturates, the read delivers its codes as sums; when every line is confirmed
and one saturates it is split, or after two splits goes to the digital path; when a line is not confirmed it waits for its
resolution from the level image, a full one above RESOLVE_LIMIT. With the image bytes read, RESOLUTION_COMPLETE without a
saturating line delivers, and DIGITAL_QUARTER_COMPLETE delivers the exact sums. (R117, R96, R97, R99, R103, R104) -/
def Obligations.ArrayReadsGoFromStartToDelivery : Prop :=
  (∀ (s : State) (q i k : Nat) (r : Read) (y : Resident), s.read q i = some r → s.readTensor q = some y → r.stage = .waiting →
    s.readLive q = true → s.readBehind r = false → r.version = s.pairVersion y r.s r.g → s.leaving y r.s r.g = false →
    s.server y r.s r.g = .array k → s.bankReady k = true → s.convCal (k / 264) ≠ 0 → s.closed k = false →
    s.readingDie (keyDie k) < s.readShare → s.readingBank (k / 264) < 64 →
    (∀ x ∈ s.af.reads, x.stage = .reading → x.array ≠ k) →
    ∃ t, exec (.arrayReadStart q i) s = .next t ∧
      t.read q i = some { r with
        stage := .reading, array := k, startedAt := s.now, waitSince := none, versionSince := none, margin := s.margin }) ∧
  (∀ (s : State) (q i : Nat) (meas : List Int) (r : Read) (y : Resident) (ends : List LineEnd), s.read q i = some r →
    s.readTensor q = some y → r.stage = .reading → r.startedAt + (if y.fine then 128 else 80) ≤ s.now →
    ends = (List.range (r.lines y)).map (lineEnd y (s.arr r.array) r meas) →
    ∃ t, exec (.arrayReadConversionEnd q i meas) s = .next t ∧ ∃ z, t.read q i = some z ∧
      (ends.any LineEnd.sat = false → (∀ e ∈ ends, e.code ≠ none) →
        z.stage = .delivered ∧ z.sums = ends.map fun e => y.mOf r.transpose (e.code.getD 0)) ∧
      (ends.any LineEnd.sat = true → (∀ e ∈ ends, e.code ≠ none) → z.stage = (if r.part < 2 then .split else .digital)) ∧
      ((∃ e ∈ ends, e.code = none) → z.stage = .resolving ∧
        z.full = (decide (s.resolveLimit < (ends.filter fun e => e.code.isNone).length) || r.full))) ∧
  (∀ (s : State) (q i : Nat) (r : Read) (y : Resident) (ks : List (Option Int)), s.read q i = some r → s.readTensor q = some y →
    r.stage = .resolving → s.heldBack (y.imageNeeds r) = false → s.imageFail y r = none →
    ks = (if r.full || r.standIn then [] else r.codes) → (r.railed = true → r.full = true) →
    (∀ l, l < r.lines y → ks.getD l none = none → y.saturates (y.code r.transpose (s.idealP y r r.lo r.len l)) = false) →
    ∃ t, exec (.resolutionComplete q i) s = .next t ∧ ∃ z, t.read q i = some z ∧ z.stage = .delivered ∧ z.shadow = true ∧
      z.sums = (List.range (r.lines y)).map fun l =>
        y.mOf r.transpose ((ks.getD l none).getD (y.code r.transpose (s.idealP y r r.lo r.len l)))) ∧
  (∀ (s : State) (q i : Nat) (r : Read) (y : Resident), s.read q i = some r → s.readTensor q = some y → r.stage = .digital →
    s.heldBack (y.imageNeeds r) = false → s.imageFail y r = none →
    ∃ t, exec (.digitalQuarterComplete q i) s = .next t ∧ ∃ z, t.read q i = some z ∧ z.stage = .delivered ∧
      z.sums = (List.range (r.lines y)).map fun l => y.mOfP r.transpose (s.idealP y r r.lo r.len l))

/-- SPANNED_PARTIAL_SUM_ARRIVAL adds the sums to the oldest work of the tensor and step that still waits for that array's
part of that vector, which waits for it no more, and the command has one check more outstanding until the sender reports
its checks passed; sums that the sender retracts, before or after they have come, taint the command. SPANNED_INPUT_ARRIVAL
with an input that is not all zero sets up waiting reads of the pairs of the piece that this module holds, for that vector
and at the version the step requires. (R119, R120) -/
def Obligations.SpannedMessagesReachTheirReads : Prop :=
  (∀ (s : State) (rank id step v sg g coord : Nat) (e : Int) (ms : List Int) (r : Resident) (w : Matvec) (pre post : List Matvec),
    s.resident id = some r → s.af.matvecs = pre ++ w :: post → (∀ x ∈ post, x.tensor ≠ id) → w.tensor = id →
    (s.cmd w.seq).any (fun c => c.step == step) = true → (v, sg, g) ∈ w.remote → (r.placeOf sg g).1 = rank →
    (r.placeOf sg g).2 / 264 = keyOfCoord coord / 264 →
    ∃ t, exec (.spannedPartialSumArrival rank id step ⟨v, sg, g, coord⟩ (.sums e ms)) s = .next t ∧
      (∃ x ∈ t.af.matvecs, x.seq = w.seq ∧ x.remote = w.remote.erase (v, sg, g) ∧ x.unchecked = w.unchecked ++ [(v, sg, g)] ∧
        x.received = w.received ++ ((List.range ms.length).zip ms).map fun x => (v, r.pair sg g, x.1, (Dy.mk x.2 e))) ∧
      ∀ c, s.cmd w.seq = some c → ∃ d, t.cmd w.seq = some d ∧ d.checks = c.checks + 1) ∧
  (∀ (s : State) (rank id step v sg g coord : Nat) (w : Matvec) (c : Cmd),
    s.spanCmd rank id step ⟨v, sg, g, coord⟩ Matvec.unchecked = some w → s.cmd w.seq = some c →
    ∃ t d, exec (.spannedPartialSumArrival rank id step ⟨v, sg, g, coord⟩ .passed) s = .next t ∧ t.cmd w.seq = some d ∧
      d.checks = c.checks - 1) ∧
  (∀ (s : State) (rank id step v sg g coord : Nat) (w : Matvec) (c : Cmd),
    s.spanCmd rank id step ⟨v, sg, g, coord⟩ (fun w => w.unchecked ++ w.remote) = some w → s.cmd w.seq = some c →
    c.stage ≠ .failed → c.stage ≠ .refused → c.parent = none → s.xe.sends = [] →
    ∃ t d, exec (.spannedPartialSumArrival rank id step ⟨v, sg, g, coord⟩ .retracted) s = .next t ∧ t.cmd w.seq = some d ∧
      d.tainted = true) ∧
  (∀ (s : State) (rank id step v i : Nat) (tr : Bool) (vals : List Val) (r : Resident), s.resident id = some r → r.span = true →
    vals.all Val.isZero = false →
    ∃ t l, exec (.spannedInputArrival rank id step ⟨v, i⟩ tr vals) s = .next t ∧ t.af.reads = s.af.reads ++ l ∧
      t.af.spanned = s.af.spanned ++ [(2 ^ 65 + s.af.spanned.length, rank, id, step)] ∧
      (∀ y ∈ l, y.seq = 2 ^ 65 + s.af.spanned.length ∧ y.vec = v ∧ y.stage = .waiting ∧ y.version = r.ver step ∧
        s.isLocal r y.s y.g = true ∧ (y.s, y.g) ∈ r.pairsOf tr i) ∧
      ∀ pr ∈ r.pairsOf tr i, s.isLocal r pr.1 pr.2 = true → ∃ y ∈ l, y.s = pr.1 ∧ y.g = pr.2)

/-- Where no access waits: a started LOAD with a good block, readable planes and a good map makes its tensor resident at
VER0, and every array that the map names on this module belongs to it. A started PROG (of a Summer tensor) or MAINT LEVELS
(of another) with a good list for a version no array holds announces that version, with the last entry of each weight as
its change set. (R85, R86, R128, R129, R130, R137) -/
def Obligations.LoadAndLevelListsTakeEffect : Prop :=
  (∀ (s : State) (q : Nat) (c : Cmd) (raw : List Byte) (b : LoadBlock) (n : Nat), s.Inv → s.runnable q 0x13 = some c →
    (∀ y ∈ s.af.tensors, y.loader ≠ q) → s.heldBack [(c.u 16 8, 128)] = false → s.rdFail (c.u 16 8) 128 = none →
      raw = s.rd (c.u 16 8) 128 → b = loadBlock raw q →
    n = b.t.segments * b.t.groups → loadGood raw = true → s.resident b.t.id = none → b.map % 8 = 0 →
    s.rangeBad b.map (8 * n) = false →
    s.rangeBad b.t.limg (0x80000 * n) = false → isHost b.t.limg = false → s.rangeBad b.t.h (2 * b.t.k * b.t.n) = false →
    s.rangeBad b.t.nu (b.t.remBits / 8 * b.t.k * b.t.n) = false →
    s.heldBack [(b.t.limg, 0x80000 * n), (b.map, 8 * n), (b.t.h, 2 * b.t.k * b.t.n), (b.t.nu, b.t.remBits / 8 * b.t.k * b.t.n)] = false →
    s.rdFails [(b.map, 8 * n), (b.t.h, 2 * b.t.k * b.t.n), (b.t.nu, b.t.remBits / 8 * b.t.k * b.t.n)] = none →
    s.mapGood b (s.loadMap b) = true →
    ∃ t y, exec (.load q) s = .next t ∧ t.resident b.t.id = some y ∧ y.loading = some q ∧ y.v0 = b.t.v0 ∧
      y.map = (s.loadMap b).map (fun e => (bitsOf e 32 10, keyOfCoord (bitsOf e 0 32))) ∧
      (∃ d, t.cmd q = some d ∧ d.stage = .running) ∧
      ∀ p ∈ s.localPairs y, (t.arr (y.placeOf p.1 p.2).2).tensor = some b.t.id) ∧
  (∀ (s : State) (q op id a k a' k' : Nat) (row : Instr) (c : Cmd) (y : Resident) (l : List (Option (Nat × Int))), s.Inv →
    ((row = .prog q ∧ op = 0x12 ∧ id = c.u 16 4 ∧ a = c.u 24 8 ∧ k = c.u 32 8) ∨
     (row = .maintLevels q ∧ op = 0x48 ∧ c.u8 16 = 5 ∧ c.u8 17 = 3 ∧ id = c.u 20 4 ∧ a = c.u 40 8 ∧ k = c.u 48 8)) →
    s.runnable q op = some c → s.resident id = some y → y.summer = (op == 0x12) →
    (∀ p ∈ s.localPairs y, s.pairVersion y p.1 p.2 < c.step) → (∀ x ∈ y.sets, x.step = c.step → x.seq = q) →
      (∀ r ∈ s.af.reads, r.seq ≠ q) →
    (s.stepInfo c.step).mark ≠ .skipped →
    ((k ≠ 2 ^ 64 - 1 ∧ a' = a ∧ k' = k) ∨
     (k = 2 ^ 64 - 1 ∧ a % 64 = 0 ∧ s.rangeBad a 64 = false ∧ s.heldBack [(a, 64), (a + 64, 8 * s.rdNat a 8)] = false ∧
       s.rdFail a 64 = none ∧ s.rdNat (a + 8) 4 = c.step ∧
       s.rdNat (a + 12) 4 = id ∧ a' = a + 64 ∧ k' = s.rdNat a 8)) →
    s.rangeBad a' (8 * k') = false → s.heldBack [(a', 8 * k')] = false → s.rdFail a' (8 * k') = none →
    l = (List.range k').map (fun i => listEntry y (s.rd (a' + 8 * i) 8)) → l.all Option.isSome = true →
    ∃ t, exec row s = .next t ∧ t.resident id = some { y with
        sets := y.sets.filter (·.step < c.step) ++ [{ step := c.step, seq := q, entries := lastEntries (l.filterMap fun e => e) }] ++
          y.sets.filter (c.step < ·.step)
        announced := if y.announced.contains c.step then y.announced else c.step :: y.announced } ∧
      ∃ d, t.cmd q = some d ∧ (d.stage = .running ∨ d.stage = .delivered))

/-- A started MAINT queues, for each target that qualifies, an activity of its kind that carries the command: SELFCAL a
converter self-calibration of every bank, CONVCAL of the listed banks, SWEEP a verify sweep of in-service arrays, GAINCAL
a gain closure of arrays with enough reads, LINETEST a line test of arrays not retired. While one is queued the command
runs. (R160, R138, R143, R146, R147) -/
def Obligations.MaintenanceQueuesItsActivities : Prop :=
  (∀ (s : State) (q : Nat) (c : Cmd), s.Inv → s.runnable q 0x48 = some c → c.u8 16 = 0 → c.u8 17 = 0 →
    ∃ t, exec (.maintSelfcal q) s = .next t ∧ (∃ d, t.cmd q = some d ∧ d.stage = .running) ∧
      ∀ b, b < 128 → ∃ a ∈ t.uk.acts, a.kind = .selfCal ∧ a.bank = b ∧ a.cls = 3 ∧ a.seqs = [q] ∧ a.running = false) ∧
  (∀ (s : State) (q : Nat) (c : Cmd) (l : List Nat), s.Inv → s.runnable q 0x48 = some c → c.u8 16 = 1 → c.u8 17 = 1 →
    s.listTargets c (fun v => decide (v / 2 ^ 28 < 4) && decide (v / 2 ^ 16 % 4096 < 32))
      (fun v => 32 * (v / 2 ^ 28) + v / 2 ^ 16 % 4096) = .ok l →
    ∃ t, exec (.maintConvcal q) s = .next t ∧ (l ≠ [] → ∃ d, t.cmd q = some d ∧ d.stage = .running) ∧
      ∀ b ∈ l, ∃ a ∈ t.uk.acts, a.kind = .selfCal ∧ a.bank = b ∧ a.cls = 5 ∧ a.seqs = [q] ∧ a.running = false) ∧
  (∀ (s : State) (q op : Nat) (row : Instr) (kind : ActKind) (c : Cmd) (l : List Nat) (ok : Nat → Bool), s.Inv →
    ((row = .maintSweep q ∧ op = 2 ∧ kind = .sweep ∧ ok = fun k => (s.arr k).inService) ∨
     (row = .maintGaincal q ∧ op = 3 ∧ kind = .gain ∧ ok = fun k => (s.arr k).inService && (s.arr k).fwd.enough s.gcalMinReads) ∨
     (row = .maintLinetest q ∧ op = 4 ∧ kind = .line ∧ ok = fun k => !(s.arr k).retired)) →
    s.runnable q 0x48 = some c → c.u8 16 = op → s.arrayTargets c = .ok l →
    ∃ t, exec row s = .next t ∧ (l.any ok = true → ∃ d, t.cmd q = some d ∧ d.stage = .running) ∧
      (l.any ok = false → (∀ a ∈ s.uk.acts, q ∉ a.seqs) → ∃ d, t.cmd q = some d ∧ d.stage = .delivered) ∧
      ∀ k ∈ l, ok k = true → ∃ a ∈ t.uk.acts, a.kind = kind ∧ a.array = k ∧ a.bank = k / 264 ∧ a.cls = 5 ∧ a.seqs = [q] ∧
        a.running = false)

/-- The end of a running activity leaves its result: a verify sweep adds the rows with a cell outside tolerance to the
refresh list; a self-calibration counts one for its bank; a gain closure counts one and starts fresh statistics; a line
test without faults notes its time; a rail step raises the rail, to at most four, or returns it to nominal. The activity
is gone. (R138, R139, R141, R145, R146, R147, R301, R302) -/
def Obligations.UpkeepActivitiesEndWithTheirResult : Prop :=
  (∀ (s : State) (id : Nat) (meas : List (Nat × Nat × Int)) (a : Activity) (y : Resident), s.Inv → s.running id .sweep = some a →
    (s.arr a.array).tensor.bind s.resident = some y →
    ∃ t, exec (.verifySweepEnd id meas) s = .next t ∧
      (t.arr a.array).refresh = mergeRows (s.arr a.array).refresh
        ((meas.filter fun d => s.cellOff y (s.arr a.array) d.1 d.2.1 d.2.2).map Prod.fst) ∧
      (t.arr a.array).sweepCount = min 65535 ((s.arr a.array).sweepCount + 1) ∧ (t.arr a.array).sweepTime = s.now ∧
      ∀ b ∈ t.uk.acts, b.id ≠ id) ∧
  (∀ (s : State) (id : Nat) (hits : List (Nat × Nat × List Nat)) (a : Activity), s.Inv → s.running id .selfCal = some a →
    (∀ h ∈ hits, tableFails (tableOf h.2.2) = false) →
    ∃ t, exec (.selfCalibrationEnd id hits) s = .next t ∧ t.convCal a.bank = s.convCal a.bank + 1 ∧ ∀ b ∈ t.uk.acts, b.id ≠ id) ∧
  (∀ (s : State) (id : Nat) (a : Activity) (y : Resident), s.Inv → s.running id .gain = some a →
    (s.arr a.array).tensor.bind s.resident = some y →
    ∃ t, exec (.gainClosureEnd id) s = .next t ∧ (t.arr a.array).gainCal = ((s.arr a.array).gainCal + 1) % 2 ^ 32 ∧
      (t.arr a.array).gainTime = s.now ∧ (t.arr a.array).fwd.nA = 0 ∧ (t.arr a.array).bwd.nA = 0 ∧ ∀ b ∈ t.uk.acts, b.id ≠ id) ∧
  (∀ (s : State) (id : Nat) (up down : List (Nat × Nat)) (a : Activity), s.Inv → s.running id .line = some a →
    (∀ l ∈ sensedLines up down, lineOpen l = false ∧ lineShorted l = false) →
    ∃ t, exec (.lineTestEnd id up down) s = .next t ∧ (t.arr a.array).lineTime = s.now ∧ ∀ b ∈ t.uk.acts, b.id ≠ id) ∧
  (∀ (s : State) (id : Nat) (a : Activity), s.Inv → s.running id .rail = some a →
    ∃ t, exec (.railStepEnd id) s = .next t ∧
      t.bankRail a.bank = (if a.work = .raise then min 4 (s.bankRail a.bank + 1) else 0) ∧
      ∀ b ∈ t.uk.acts, b.id ≠ id)

/-- An activity that holds its four claims and may start is started by ALMANAC_CLAIM_GRANT, a transition by
TRANSITION_START, when no other of its tensor that could start goes before it by next use, with the rows that still
differ. A write window that is not the last of its transition leaves the rows behind the first 64; one of a refresh
without failures leaves the refresh list behind its first 64. A programmed array that is not worn out enters service.
(R125, R126, R132, R133, R137, R139, R149, R151, R154) -/
def Obligations.ClaimsTransitionsAndWindowsGoOn : Prop :=
  (∀ (s u : State) (id : Nat) (a : Activity), u = (s.settleAll.takeWaiting).claimGo id 4 → u.act id = some a → a.held = 4 →
    a.running = false → a.work ≠ .transition → u.mayStart a = true →
    ∃ t, exec (.almanacClaimGrant id) s = .next t ∧ t.act id = some { a with running := true, startedAt := s.now }) ∧
  (∀ (s : State) (x : ArrayId) (a : Activity) (tr : Transition) (y : Resident) (cs : ChangeSet), s.Inv →
    s.uk.acts.find? (fun a => a.array == arrIdKey x && a.work == .transition) = some a → (s.arr (arrIdKey x)).transition = some tr →
    (s.arr (arrIdKey x)).tensor.bind s.resident = some y → a.held = 4 → s.transitionReady a = true →
    (∀ b ∈ s.uk.acts, b.id ≠ a.id → s.sameTensor a b = true → s.transitionReady b = true → s.usedFirst b a = false) →
      y.sets.find? (fun c => c.step == tr.step) = some cs →
    ∃ t, exec (.transitionStart x) s = .next t ∧ t.act a.id = some { a with running := true, startedAt := s.now } ∧
      (t.arr (arrIdKey x)).transition = some { tr with
        rows := rowsOfChanges (s.changesOf y (s.arr (arrIdKey x)).pair cs), started := true }) ∧
  (∀ (s : State) (id : Nat) (a : Activity) (tr : Transition) (y : Resident), s.Inv → s.running id .window = some a →
    a.work = .transition →
    (s.arr a.array).retired = false → (s.arr a.array).transition = some tr → (s.arr a.array).tensor.bind s.resident = some y →
    tr.rows.drop 64 ≠ [] → s.arrayWrites a.array + 64 < 100000000 →
    ∃ t, exec (.writeWindowEnd id []) s = .next t ∧ (t.arr a.array).transition = some { tr with rows := tr.rows.drop 64 } ∧
      t.act id = some { a with startedAt := s.now }) ∧
  (∀ (s : State) (id : Nat) (a : Activity), s.Inv → s.running id .window = some a → a.work = .refresh → a.id < s.uk.nextId →
    (s.arr a.array).retired = false → s.arrayWrites a.array + 64 < 100000000 →
    ∃ t, exec (.writeWindowEnd id []) s = .next t ∧ (t.arr a.array).refresh = (s.arr a.array).refresh.drop 64 ∧ t.act id = none) ∧
  (∀ (s : State) (id : Nat) (a : Activity) (y : Resident), s.Inv → s.running id .program = some a →
    (s.arr a.array).tensor.bind s.resident = some y → (s.arr a.array).retired = false → s.arrayWrites a.array + 1024 < 100000000 →
    ∃ t, exec (.arrayProgrammingEnd id []) s = .next t ∧ (t.arr a.array).inService = true)

/-- When the time since the last sweep, converter calibration or line test, or since the last gain closure with enough
reads, has reached its period, and no such activity stands, one is queued in class 5. An activity that has waited longer
than 100 ms takes class 1. (R140, R144, R146, R148, R158) -/
def Obligations.PeriodsQueueTheirActivity : Prop :=
  (∀ (s : State) (x : ArrayId), (s.arr (arrIdKey x)).inService = true → s.sweepMin ≠ 0 →
    (s.arr (arrIdKey x)).sweepTime + s.sweepMin * 60000000000 ≤ s.now → s.actOn .sweep (arrIdKey x) = false →
    ∃ t a, exec (.sweepPeriodDue x) s = .next t ∧ t.uk.acts = s.uk.acts ++ [a] ∧ a.id = s.uk.nextId ∧ a.kind = .sweep ∧
      a.array = arrIdKey x ∧ a.cls = 5 ∧ a.queuedAt = s.now ∧ t.uk.nextId = s.uk.nextId + 1) ∧
  (∀ (s : State) (x : BankId), s.convCal (32 * x.die.val + x.bank.val) ≠ 0 → s.conv10Min ≠ 0 →
    Tab.get (fun _ => 0) s.af.bankCalTime (32 * x.die.val + x.bank.val) + s.conv10Min * 600000000000 ≤ s.now →
    (∀ a ∈ s.uk.acts, a.kind = .selfCal → a.bank ≠ 32 * x.die.val + x.bank.val) →
    ∃ t a, exec (.converterPeriodDue x) s = .next t ∧ t.uk.acts = s.uk.acts ++ [a] ∧ a.id = s.uk.nextId ∧ a.kind = .selfCal ∧
      a.bank = 32 * x.die.val + x.bank.val ∧ a.cls = 5 ∧ a.queuedAt = s.now ∧ t.uk.nextId = s.uk.nextId + 1) ∧
  (∀ (s : State) (x : ArrayId), (s.arr (arrIdKey x)).retired = false → s.lineH ≠ 0 →
    (s.arr (arrIdKey x)).lineTime + s.lineH * 3600000000000 ≤ s.now → s.actOn .line (arrIdKey x) = false →
    ∃ t a, exec (.linePeriodDue x) s = .next t ∧ t.uk.acts = s.uk.acts ++ [a] ∧ a.id = s.uk.nextId ∧ a.kind = .line ∧
      a.array = arrIdKey x ∧ a.cls = 5 ∧ a.queuedAt = s.now ∧ t.uk.nextId = s.uk.nextId + 1) ∧
  (∀ (s : State) (x : ArrayId), (s.arr (arrIdKey x)).inService = true →
    (s.arr (arrIdKey x)).gainTime + s.gcalInterval * 60000000000 ≤ s.now → (s.arr (arrIdKey x)).fwd.enough s.gcalMinReads = true →
    s.actOn .gain (arrIdKey x) = false →
    ∃ t a, exec (.gainClosureDue x) s = .next t ∧ t.uk.acts = s.uk.acts ++ [a] ∧ a.id = s.uk.nextId ∧ a.kind = .gain ∧
      a.array = arrIdKey x ∧ a.cls = 5 ∧ a.queuedAt = s.now ∧ t.uk.nextId = s.uk.nextId + 1) ∧
  (∀ (s : State) (id : Nat) (a : Activity), s.act id = some a → a.running = false → a.queuedAt + 100000000 < s.now →
    ∃ t, exec (.activityAging id) s = .next t ∧ t.act id = some { a with cls := 1 })

/-- A started UPDT with a good block, whose accesses need not wait, behind its dependencies: in a cleared step it runs
with one operation residue check outstanding; in a skipped step it is delivered with OK_FLAGGED and writes nothing.
OPERATION_RESIDUE_CHECK that passes writes a running UPDT, which is then delivered, and takes one outstanding check from
any other command. (R209, R215, R280, R285) -/
def Obligations.UpdateWaitsForItsStepAndIsWritten : Prop :=
  (∀ (s : State) (q : Nat) (c : Cmd) (p : Updt), s.Inv → s.runnable q 0x38 = some c → s.heldBack [(c.u 16 8, 128)] = false →
    s.rdFail (c.u 16 8) 128 = none →
    s.updtGood (s.rd (c.u 16 8) 128) = true → p = updtOf (s.rd (c.u 16 8) 128) →
    (∀ d ∈ s.dependsOn c, d.stage.isClear = true ∨ d.stage = .failed) → (s.stepInfo c.step).mark = .cleared →
    s.heldBack ((c.u 16 8, 128) :: (p.grad, 4 * p.count) :: p.planes ++ (p.planes ++ if p.list = 0 then [] else
      [(p.list, 64 + 8 * p.count)])) = false →
    s.rdFails ((c.u 16 8, 128) :: (p.grad, 4 * p.count) :: p.planes) = none →
    s.writeFail (p.planes ++ if p.list = 0 then [] else [(p.list, 64 + 8 * p.count)]) = none →
    ∃ t, exec (.updt q) s = .next t ∧ (∀ j, t.rdByte j = s.rdByte j) ∧ (∃ v, t.mc.vnChecks = v :: s.mc.vnChecks ∧ v.seq = q ∧
      v.engine = none ∧
        ∀ w ∈ s.mc.vnChecks, w.seq = q → w.index < v.index) ∧ ∃ d, t.cmd q = some d ∧ d.stage = .running ∧
        d.checks = c.checks + 1) ∧
  (∀ (s : State) (q : Nat) (c : Cmd), s.Inv → s.runnable q 0x38 = some c → s.heldBack [(c.u 16 8, 128)] = false →
    s.rdFail (c.u 16 8) 128 = none →
    s.updtGood (s.rd (c.u 16 8) 128) = true → (∀ d ∈ s.dependsOn c, d.stage.isClear = true ∨ d.stage = .failed) →
    (s.stepInfo c.step).mark = .skipped →
    ∃ t, exec (.updt q) s = .next t ∧ (∀ j, t.rdByte j = s.rdByte j) ∧
      ∃ d, t.cmd q = some d ∧ d.stage = .delivered ∧ d.conds = c.conds ++ [.okFlagged]) ∧
  (∀ (s : State) (q idx elem : Nat) (c : Cmd) (v : VnCheck) (die : Fin 4) (e : Fin 16) (x y : Fin 256), s.Inv → s.cmd q = some c →
    s.mc.vnChecks.find? (fun v => v.seq == q && v.index == idx) = some v →
    ∃ t, exec (.operationResidueCheck q ⟨idx, elem⟩ true ⟨die, e⟩ x y) s = .next t ∧ t.mc.vnChecks = s.mc.vnChecks.erase v ∧
      ∃ d, t.cmd q = some d ∧ d.checks = c.checks - 1 ∧ (c.opcode = 0x38 → c.stage = .running → d.stage = .delivered))

/-- TILE_CHECK_COMPLETE that passes marks the tile (or the resolved read) checked, and CHECKSUM_TEST_COMPLETE with every
sum within tolerance ends the read's test: the command has one check fewer outstanding. (R81, R97, R108, R109, R281) -/
def Obligations.ChecksThatPassAreTakenFromTheirCommand : Prop :=
  (∀ (s : State) (q i : Nat) (ok : Bool) (core : Fin 66) (check : Fin 4) (at_ : CheckPlace) (x : Fin 255) (z : Tile) (c : Cmd), i < 2 ^ 32 → s.tile q i = some z →
    s.cmd q = some c → z.stage = .delivered → (∀ f, checkFault ok core check at_ x = some f → z.faulty f = false) →
    ∃ t, exec (.tileCheckComplete q i ok core check at_ x) s = .next t ∧ t.tile q i = some { z with stage := .checked } ∧
      ∃ d, t.cmd q = some d ∧ d.checks = c.checks - 1) ∧
  (∀ (s : State) (q i : Nat) (ok : Bool) (core : Fin 66) (check : Fin 4) (at_ : CheckPlace) (x : Fin 255) (r : Read) (y : Resident)
    (c : Cmd), s.read q i = some r →
    s.readTensor q = some y → s.cmd q = some c → r.shadow = true →
    (∀ f, checkFault ok core check at_ x = some f → f.place.elem < r.lines y →
      rho (s.idealP y r r.lo r.len f.place.elem) = f.observed.val) →
    ∃ t, exec (.tileCheckComplete q (2 ^ 32 + i) ok core check at_ x) s = .next t ∧ t.read q i = some { r with shadow := false } ∧
      ∃ d, t.cmd q = some d ∧ d.checks = c.checks - 1) ∧
  (∀ (s : State) (q i : Nat) (r : Read) (y : Resident) (c : Cmd), s.read q i = some r → s.readTensor q = some y → s.cmd q = some c →
    r.testing = true → (∀ d, some d ∈ r.dsum →
    tolExceeded s.cksBase s.cksSlope (y.drivenOf r) (y.testRange r.transpose) d = false) →
    ∃ t, exec (.checksumTestComplete q i) s = .next t ∧ t.read q i = some { r with testing := false } ∧
      ∃ d, t.cmd q = some d ∧ d.checks = c.checks - 1)

/-- TILE_CHECK_COMPLETE that fails, for the first or second time, on a tile of a command of a step that can be replayed,
with nothing sent to other modules and a journal that can be read: the command is tainted, and the failures counted for
that tile on the core that the spec places the check on, or the spare that worked for it, rise by one. REPAIR_REPLAY_START
of a tainted command, when no tainted one accepted before it could start and those it depends on are not tainted and, if
repaired, delivered again, starts it again as repaired, with no check outstanding and its conditions dropped; one that had
not started yet is no longer tainted. (R287, R288, R289) -/
def Obligations.AFailedCheckTaintsItsCommand : Prop :=
  (∀ (s : State) (q i : Nat) (f : CheckFault) (z : Tile) (c : Cmd) (u : UnitId), s.Inv → i < 2 ^ 32 →
    s.tile q i = some z → s.cmd q = some c → z.stage = .delivered → c.stage ≠ .failed → c.stage ≠ .refused → c.parent = none →
    s.unreplayable c = false → s.xe.sends = [] →
    (∀ p ∈ s.ms.upset, decodePattern p.2 = .bad → placeOf s.ms.interleave (32 * p.1) ≠ .journal) →
    z.faulty f = true → u = workingCore z.spares z.die z.cluster (s.checkedCore z f) → s.failsOf q [0, i] u < 2 →
    ∃ t, exec (.tileCheckComplete q i false f.core f.check f.place f.observed) s = .next t ∧
      t.failsOf q [0, i] u = s.failsOf q [0, i] u + 1 ∧ ∃ d, t.cmd q = some d ∧ d.tainted = true) ∧
  (∀ (s : State) (q : Nat) (c : Cmd), s.cmd q = some c → c.tainted = true → c.parent = none →
    (∀ p ∈ s.ms.upset, decodePattern p.2 = .bad → placeOf s.ms.interleave (32 * p.1) ≠ .journal) →
    (∀ d ∈ s.hg.cmds, d.tainted = true → d.before c = true → s.repairReady d = false) →
    (∀ d ∈ s.dependsOn c, d.tainted = false ∧ (d.repaired = true → d.stage.isDone = true ∨ d.stage = .failed)) →
    (c.stage ≠ .accepted → s.unreplayable c = false →
      ∃ t, exec (.repairReplayStart q) s = .next t ∧ ∃ d, t.cmd q = some d ∧ d.stage = .started ∧ d.tainted = false ∧
        d.repaired = true ∧ d.checks = 0 ∧ d.conds = [] ∧ d.startedAt = s.now ∧
        d.unitRetired = (c.unitRetired || s.usedRetired q)) ∧
    (c.stage = .accepted →
      ∃ t, exec (.repairReplayStart q) s = .next t ∧ ∃ d, t.cmd q = some d ∧ d.stage = .accepted ∧ d.tainted = false))

/-- COMMIT_FENCE of an open step whose commands are clear and whose summaries have all arrived without INC, while no read
waits for a version that nothing will announce, marks it cleared, or skipped on the global non-finite flag.
RETURN_TO_NOMINAL of a cluster that has had no error for HOURS takes its rail and its clock back to nominal in one change;
of a bank above nominal it queues the rail step that takes it back, unless one is queued. (R209, R261, R294, R302) -/
def Obligations.FencesResolveStepsAndUnitsReturn : Prop :=
  (∀ (s : State) (n : Nat), s.Inv → s.resolved n = false → s.fenceLocal n = true → s.exchangeMet n = true →
    (∀ r ∈ s.af.reads, r.stage = .waiting → ∀ y, s.readTensor r.seq = some y → s.announcerFailed y r.version = false) →
    ∃ t, exec (.commitFence n) s = .next t ∧ (t.stepInfo n).mark = (if s.globalNf n then .skipped else .cleared) ∧
      t.xe.lastStep = n ∧ t.xe.lastOutcome = (if s.globalNf n then 2 else 1)) ∧
  (∀ (s : State) (x : ClusterId), s.Inv → s.quiet 1 x.die.val x.cluster.val = true →
    (0 < s.clusterRail (32 * x.die.val + x.cluster.val) ∨ s.clusterSlow (32 * x.die.val + x.cluster.val) = true) →
    ∃ t, exec (.returnToNominal (.cluster x)) s = .next t ∧ t.clusterRail (32 * x.die.val + x.cluster.val) = 0 ∧
      t.clusterSlow (32 * x.die.val + x.cluster.val) = false) ∧
  (∀ (s : State) (x : BankId), s.quiet 2 x.die.val x.bank.val = true →
    0 < s.bankRail (32 * x.die.val + x.bank.val) →
    (∀ a ∈ s.uk.acts, a.kind = .rail → a.bank = 32 * x.die.val + x.bank.val → a.work ≠ .lower) →
    ∃ t a, exec (.returnToNominal (.bank x)) s = .next t ∧ t.uk.acts = s.uk.acts ++ [a] ∧ a.kind = .rail ∧ a.work = .lower ∧
      a.cls = 1 ∧
      a.bank = 32 * x.die.val + x.bank.val)

/-- While no host access fails and no lane of a part fails again after it was rebuilt: a started XCHG that breaks no rule,
waits for nothing, whose accesses need not wait and that can read its operands runs or is delivered, and the module holds
what it sent: step, bucket and the owners of its parts. A started GATH with good fields in an open or cleared step whose
list can be read runs until every list is there, or is delivered; in a skipped step it is delivered. (R248, R251, R269,
R270) -/
def Obligations.ExchangeCommandsEnterTheExchange : Prop :=
  (∀ (s : State) (q : Nat) (c : Cmd), s.Inv → s.ms.hostBad = [] → (∀ f ∈ s.ms.lanes, f.again = false) →
    s.runnable q 0x30 = some c → s.xchgFault c q = none →
    (s.stepInfo c.step).mark ≠ .incomplete → s.xe.stopped = false → s.xchgWaits c = false →
    s.heldBack (s.xchgReads c.xchg ++ s.xchgOuts c.xchg) = false → s.rdFails (s.xchgReads c.xchg) = none →
    ∃ t, exec (.xchg q) s = .next t ∧ (∃ d, t.cmd q = some d ∧ (d.stage = .running ∨ d.stage = .delivered)) ∧
      ∃ x ∈ t.xe.sends, x.seq = q ∧ x.step = c.step ∧ x.bucket = c.xchg.bucket ∧ x.waiting = [] ∧ x.cleared = false ∧
        x.owners = (List.range s.groupSize).filter fun o => s.ownsPart o c.xchg.bucket) ∧
  (∀ (s : State) (q : Nat) (c : Cmd) (y : Resident), s.Inv → s.ms.hostBad = [] → s.runnable q 0x31 = some c →
    s.resident (c.u 16 4) = some y → c.u 24 8 % 64 = 0 → s.rangeBad (c.u 24 8) 64 = false → c.u 32 8 % 64 = 0 →
    s.rangeBad (c.u 32 8) (64 + 8 * c.u 40 8) = false → y.k * y.n ≤ c.u 40 8 → s.xe.stopped = false →
    ((s.stepInfo c.step).mark = .open ∨ (s.stepInfo c.step).mark = .cleared) →
    s.heldBack [(c.u 24 8, 64), (c.u 24 8 + 64, 8 * s.rdNat (c.u 24 8) 8)] = false →
    s.rdFails [(c.u 24 8, 64), (c.u 24 8 + 64, 8 * s.rdNat (c.u 24 8) 8)] = none →
    ∃ t, exec (.gath q) s = .next t ∧ ∃ d, t.cmd q = some d ∧
      (d.stage = .delivered ∨ (d.stage = .running ∧ ∃ x ∈ t.xe.gaths, x.seq = q ∧ x.step = c.step ∧ x.dest = c.u 32 8))) ∧
  (∀ (s : State) (q : Nat) (c : Cmd) (y : Resident), s.Inv → s.ms.hostBad = [] → s.runnable q 0x31 = some c →
    s.resident (c.u 16 4) = some y → c.u 24 8 % 64 = 0 → s.rangeBad (c.u 24 8) 64 = false → c.u 32 8 % 64 = 0 →
    s.rangeBad (c.u 32 8) (64 + 8 * c.u 40 8) = false → y.k * y.n ≤ c.u 40 8 → s.xe.stopped = false →
    (s.stepInfo c.step).mark = .skipped → s.heldBack [(c.u 32 8, 64)] = false →
    ∃ t, exec (.gath q) s = .next t ∧ (∃ d, t.cmd q = some d ∧ d.stage = .delivered) ∧
      t.rdNat (c.u 32 8) 8 = 0 ∧ t.rdNat (c.u 32 8 + 8) 4 = c.step ∧ t.rdNat (c.u 32 8 + 12) 4 = c.u 16 4 ∧
      ∀ j, outside [(c.u 32 8, 64)] j → t.rdByte j = s.rdByte j)

/-- While no host access fails and no lane of a part fails again after it was rebuilt: a contribution for an own part that
is neither cleared nor retracted is seen by the part; a deadline that has passed marks the part late; an all-clear is
noted, and the last one clears a delivered part; a RETRACT takes a taken copy back out and reopens the part, undoes the
arrival of a copy of its own cycle, takes back a copy that is held or was dropped as a duplicate with nothing else
changed, and is ignored for a copy whose all-clear has come; an acknowledged RETRACT is waited for no more. A full part
whose deadline passes is delivered, after its failing lanes were rebuilt; when a rebuilt lane fails again the step is
marked incomplete. That the lanes which fail are kept in the state until the part is delivered is the choice of the model
(log entry 103). (R254, R255, R256, R257, R258, R265, R282, R292) -/
def Obligations.CopiesEnterAndLeaveTheirPart : Prop :=
  (∀ (s : State) (rank n b o : Nat) (nf : Bool) (mode : Fin 4) (bytes : List Byte) (p : Part), s.ms.hostBad = [] →
    (∀ f ∈ s.ms.lanes, f.again = false) → s.xeLive rank = true → o ∈ s.ownedRanks → s.ownsPart o b = true →
      (s.stepInfo n).mark ≠ .cleared → (s.stepInfo n).mark ≠ .skipped →
    p = (s.part n b o).getD (newPart n b o) → (p.first.isSome = true ∨ s.retained < 16) → p.state ≠ .cleared → rank ∉ p.retracted →
    ∃ t y, exec (.contributionArrival rank n b o nf mode bytes) s = .next t ∧ t.part n b o = some y ∧ rank ∈ y.seen ∧
      y.first = some (p.first.getD s.now)) ∧
  (∀ (s : State) (n b o f : Nat) (p : Part), s.ms.hostBad = [] → (∀ f ∈ s.ms.lanes, f.again = false) →
    s.part n b o = some p → p.first = some f → p.late = false →
    f + s.deadlineNs < s.now →
    ∃ t y, exec (.bucketDeadline n b o) s = .next t ∧ t.part n b o = some y ∧ y.late = true) ∧
  (∀ (s : State) (rank n b o : Nat) (p : Part), s.xeLive rank = true → s.part n b o = some p →
    ∃ t y, exec (.allClearArrival rank n b o) s = .next t ∧ t.part n b o = some y ∧ rank ∈ y.clears ∧
      (p.state = .delivered → (∀ c ∈ p.taken, c.rank = rank ∨ c.rank ∈ p.clears) → y.state = .cleared)) ∧
  (∀ (s : State) (rank n b o : Nat) (p : Part), s.xeLive rank = true → o ∈ s.ownedRanks → s.ownsPart o b = true →
    s.part n b o = some p → rank ∉ p.clears → (∀ x ∈ p.seenAt, x.1 = rank → x.2 ≠ s.now) → p.seen.Nodup →
    ∃ t y, exec (.retractArrival rank n b o) s = .next t ∧ t.part n b o = some y ∧
      (rank ∈ p.seen → rank ∉ y.seen ∧ (∀ c ∈ y.held, c.rank ≠ rank) ∧
        ((∃ c ∈ p.taken, c.rank = rank) → y.state = .collecting ∧ ∀ c ∈ y.taken, c.rank ≠ rank) ∧
        ((∀ c ∈ p.taken, c.rank ≠ rank) → y.state = p.state ∧ y.taken = p.taken)) ∧
      (rank ∉ p.seen → rank ∈ y.retracted)) ∧
  (∀ (s : State) (rank n b o : Nat) (p : Part), s.xeLive rank = true → o ∈ s.ownedRanks → s.ownsPart o b = true →
    s.part n b o = some p → rank ∉ p.clears → rank ∈ p.seen → (rank, s.now) ∈ p.seenAt → s.slotOf rank ∉ p.reopened →
    ∃ t y, exec (.retractArrival rank n b o) s = .next t ∧ t.part n b o = some y ∧ rank ∉ y.seen ∧
      ((∃ c ∈ p.taken, c.rank = rank) → p.displaced = [] → y.state = .collecting ∧ (∀ c ∈ y.taken, c.rank ≠ rank) ∧
        y.held = p.held ∧ y.retracted = p.retracted ∧ y.reopened = p.reopened) ∧
      ((∀ c ∈ p.taken, c.rank ≠ rank) → y.state = p.state ∧ y.taken = p.taken ∧ (∀ c ∈ y.held, c.rank ≠ rank) ∧
        y.retracted = p.retracted ∧ y.reopened = p.reopened)) ∧
  (∀ (s : State) (rank n b o : Nat) (p : Part), s.part n b o = some p → rank ∈ p.clears →
    ∃ t, exec (.retractArrival rank n b o) s = .next t ∧ t.part n b o = some p) ∧
  (∀ (s : State) (n b o : Nat) (x : Sent), s.sentOf n b = some x →
    ∃ t, exec (.retractAckArrival n b o) s = .next t ∧
      t.sentOf n b = some { x with waiting := x.waiting.filter fun i => i != o }) ∧
  (∀ (s : State) (n b o f : Nat) (p : Part) (x : Sent), s.ms.hostBad = [] → (∀ f ∈ s.ms.lanes, f.again = false) →
    s.part n b o = some p → s.sentOf n b = some x → p.first = some f → p.late = false → f + s.deadlineNs < s.now → p.held = [] →
    p.state = .collecting → s.partFull p = true →
    ∃ t y, exec (.bucketDeadline n b o) s = .next t ∧ t.part n b o = some y ∧ (y.state = .delivered ∨ y.state = .cleared) ∧
      ∀ g ∈ t.ms.lanes, ¬ (g.step = n ∧ g.bucket = b ∧ g.owner = o)) ∧
  (∀ (s : State) (n b o f : Nat) (p : Part) (x : Sent) (g : LaneFault), s.part n b o = some p → s.sentOf n b = some x →
    p.first = some f → p.late = false → f + s.deadlineNs < s.now → p.held = [] → p.state = .collecting → s.partFull p = true →
    s.resolved n = false → g ∈ s.ms.lanes → g.step = n → g.bucket = b → g.owner = o → g.again = true →
    ∃ t, exec (.bucketDeadline n b o) s = .next t ∧ (t.stepInfo n).mark = .incomplete ∧ g ∉ t.ms.lanes)

/-- SUMMARY_SEND of a step that is due sends the module's summary. A summary that arrives is kept, and one with INC marks
an open step incomplete. When a summary is missing after the give-up time an open step becomes incomplete, and under
POLICY 1 the exclusion window opens. A set that arrives is kept, and opens the window of a module that lacks no summary;
at the end of the window the module stops if it is excluded, else the group goes on without the excluded ranks. (R260,
R261, R262, R264) -/
def Obligations.SummariesAndExclusionsAreKept : Prop :=
  (∀ (s : State) (n : Nat), s.resolved n = false → (s.xeStep n).sent = false → s.xe.stopped = false → s.summaryDue n = true →
    ∃ t, exec (.summarySend n) s = .next t ∧ (t.xeStep n).sent = true ∧ ∃ p ∈ (t.xeStep n).got, p.1 = s.rank ∧ p.2.2 = false) ∧
  (∀ (s : State) (rank n : Nat) (nf inc : Bool), s.Inv → s.xeLive rank = true → (s.stepInfo n).mark ≠ .cleared →
    (s.stepInfo n).mark ≠ .skipped →
    ∃ t, exec (.summaryArrival rank n nf inc) s = .next t ∧
      (inc = false → (rank, nf, false) ∈ (t.xeStep n).got ∧ (t.xeStep n).firstAt = ((s.xeStep n).firstAt.or (some s.now))) ∧
      (inc = true → (t.stepInfo n).mark = .incomplete)) ∧
  (∀ (s : State) (n f : Nat), s.Inv → (s.xeStep n).firstAt = some f → f + s.giveupMs * 1000000 < s.now → s.missingSummaries n ≠ [] →
    (s.stepInfo n).mark ≠ .cleared → (s.stepInfo n).mark ≠ .skipped →
    ∃ t, exec (.summaryGiveup n) s = .next t ∧ (t.stepInfo n).mark = .incomplete ∧
      (s.policy ≠ 0 → (s.xeStep n).windowAt = none → (t.xeStep n).windowAt = some s.now ∧
        (s.rank, s.missingSummaries n) ∈ (t.xeStep n).sets)) ∧
  (∀ (s : State) (rank n : Nat) (l : List Nat), s.policy = 1 → s.xeLive rank = true →
    ∃ t, exec (.excludedSetArrival rank n l) s = .next t ∧
      (rank ≠ s.rank ∨ (s.xeStep n).windowAt ≠ none ∨ s.missingSummaries n ≠ [] → (rank, l) ∈ (t.xeStep n).sets) ∧
      ((s.xeStep n).windowAt = none → s.missingSummaries n = [] →
        (t.xeStep n).windowAt = some s.now ∧ (s.rank, []) ∈ (t.xeStep n).sets)) ∧
  (∀ (s : State) (n f : Nat) (buddies : List (Nat × Nat)) (out : List Nat), (s.xeStep n).windowAt = some f →
    f + s.giveupMs * 1000000 < s.now → (s.xeStep n).sets ≠ [] → out = ((s.xeStep n).sets.flatMap fun p => p.2).eraseDups →
    ∃ t, exec (.exclusionWindowEnd n buddies) s = .next t ∧ (t.xeStep n).sets = [] ∧
      (s.rank ∈ out → t.xe.stopped = true) ∧
      (s.rank ∉ out → (∀ r ∈ out, ∃ p ∈ buddies, p.1 = r ∧ p.2 ∉ out ∧ p.2 ∈ s.present) →
        t.xe.excluded = s.xe.excluded ++ out ∧ t.xe.reformed = true ∧ t.xe.stopped = s.xe.stopped))

/-- After its give-up time a part that is not full is dropped and an open step marked incomplete; a group CLOSE that not
every slot has joined fails, and so does a running GATH that misses a list. A CLOSE message or a list for which no command
waits yet is kept; a ward's delivery is written to the mirror, or kept until the module's own XCHG; an acknowledged
delivery is no longer outstanding. (R191, R255, R259, R267, R269, R270) -/
def Obligations.GiveUpsAndMessagesOfTheExchange : Prop :=
  (∀ (s : State) (n b o f : Nat) (p : Part), s.Inv → s.part n b o = some p → p.first = some f → f + s.giveupNs < s.now →
    s.partFull p = false → s.resolved n = false → (∀ w ∈ s.xe.waiting, ¬ (w.1 = n ∧ w.2.1 = b ∧ w.2.2.1 = o)) →
    ∃ t, exec (.bucketGiveup n b o) s = .next t ∧ t.part n b o = none ∧ (t.stepInfo n).mark = .incomplete) ∧
  (∀ (s : State) (q : Nat) (c : Cmd) (x : CloseX), s.xe.closes.find? (fun x => x.seq == q) = some x → s.closeFull x = false →
    s.cmd q = some c → c.stage = .running →
    ((s.xe.closeMsgs.filter fun m => m.step == x.step && m.ordinal == x.ordinal).foldl (fun a m => min a m.at_) s.now) + s.giveupNs < s.now →
    ∃ t, exec (.closeGiveup q) s = .next t ∧ ∃ d, t.cmd q = some d ∧ d.stage = .failed) ∧
  (∀ (s : State) (q : Nat) (c : Cmd) (x : GathX) (l : List ListX), s.Inv → s.xe.gaths.find? (fun x => x.seq == q) = some x →
    l = s.xe.lists.filter (fun l => l.step == x.step && l.tensor == x.tensor) → l ≠ [] →
    l.foldl (fun a m => min a m.at_) s.now + s.giveupMs * 1000000 < s.now → s.cmd q = some c → c.stage = .running →
    ∃ t, exec (.gathGiveup q) s = .next t ∧ ∃ d, t.cmd q = some d ∧ d.stage = .failed) ∧
  (∀ (s : State) (rank n k : Nat) (recs : List (F32 × Bool × Bool)), s.xeLive rank = true →
    (∀ m ∈ s.xe.closeMsgs, ¬ (m.step = n ∧ m.ordinal = k ∧ m.rank = rank)) → (∀ x ∈ s.xe.closes, ¬ (x.step = n ∧ x.ordinal = k)) →
    ∃ t m, exec (.closeMessageArrival rank n k recs) s = .next t ∧ t.xe.closeMsgs = m :: s.xe.closeMsgs ∧ m.rank = rank ∧
      m.step = n ∧
      m.ordinal = k ∧ m.at_ = s.now ∧ m.recs.map (fun r => (r.max, r.trouble, r.isOpen)) = recs.map fun r => (r.1.toNat, r.2.1, r.2.2)) ∧
  (∀ (s : State) (rank : Nat) (l : List Byte), s.xe.stopped = false → rank ∈ s.listRanks →
    (∀ x ∈ s.xe.gaths, ¬ (x.step = leNat ((l.drop 8).take 4) ∧ x.tensor = leNat ((l.drop 12).take 4))) →
    ∃ t y, exec (.listArrival rank l) s = .next t ∧ y ∈ t.xe.lists ∧ y.rank = rank ∧ y.step = leNat ((l.drop 8).take 4) ∧
      y.tensor = leNat ((l.drop 12).take 4) ∧ y.entries = (l.drop 64).take (8 * leNat ((l.drop 0).take 8)) ∧ y.at_ = s.now) ∧
  (∀ (s : State) (n b : Nat) (vals : List F32), s.Inv → s.buddyOn = true → s.xeLive s.ward = true → s.ownsPart s.ward b = true →
    ∃ t, exec (.buddyDeliveryArrival n b vals) s = .next t ∧
      (s.sentOf n b = none → ∃ m, t.xe.mirrors = s.xe.mirrors ++ [m] ∧ m.step = n ∧ m.bucket = b ∧
        m.vals = vals.map fun v => v.toNat) ∧
      (∀ y a, s.sentOf n b = some y → a = y.mirrorBase + 4 * ((s.partRange s.ward b).1 - s.shardLo s.ward) → y.bucket = b →
        s.rangeBad a (4 * vals.length) = false → s.rdFail a (4 * vals.length) = none →
        (∀ i, i < 4 * vals.length → t.rdByte (a + i) = ((vals.map fun v => v.toNat).flatMap (natLe 4)).getD i 0) ∧
        ∀ j, outside [(a, 4 * vals.length)] j → t.rdByte j = s.rdByte j)) ∧
  (∀ (s : State) (n b : Nat), ∃ t, exec (.buddyAckArrival n b) s = .next t ∧ t.xe.unacked = s.xe.unacked.erase (n, b))

/-- A write of RETRAIN and ENABLE by the owner, in a topology that lets the port train, takes the settings from the
registers and starts its training with the failures and lanes taken out forgotten. TRAINING_COMPLETE in time with the same
group, digest and version, from the neighbour of the port's direction, brings the port up on the widest group of good
lanes and sends its retry buffer again; anything else leaves it incompatible. TRAINING_STEP_TIMEOUT counts a failure: the
third takes the port down and sets its failed bit, one before starts it again. (R245, R273, R274, R277) -/
def Obligations.TrainingGoesFromRetrainToUpOrDown : Prop :=
  (∀ (s u : State) (m : Master) (p : Fin 12) (v : W32), s.Inv → s.owns m = true → s.regLands m = true → bitAt v.toNat 31 = true →
    bitAt v.toNat 30 = true → u = { s with xe := { s.xe with taken := some (xeSettings.map s.reg) } } →
    dirOf u.portSettings p.val ≠ 0 → u.topoGood = true →
    ∃ t, exec (.portRetrain m p v) s = .next t ∧ (t.port p.val).state = .training ∧ (t.port p.val).step = 1 ∧
      (t.port p.val).startedAt = s.now ∧ (t.port p.val).fails = 0 ∧ (t.port p.val).out_ = 0 ∧
      t.xe.taken = u.xe.taken ∧ (t.port p.val).settings = u.portSettings ∧ t.failedKey (18 + p.val) = false ∧
      t.readyKey (18 + p.val) = false) ∧
  (∀ (s : State) (p : Fin 12) (group rank port : Nat) (version : Bool) (digest : W64) (good : Fin 256) (g : Nat) (x : Port), s.Inv →
    x = s.port p.val → x.state = .training → s.now ≤ x.startedAt + 17000000 →
    laneGroup (good.val &&& (255 - x.out_ % 256)) = some g →
    ∃ t, exec (.trainingComplete p group rank port version digest good) s = .next t ∧
      (if group = bitsOf (x.settings.getD 0 0) 48 16 ∧ version = true ∧ digest.toNat = configDigest x.settings ∧
          rank = s.neighbour (dirOf x.settings p.val) then
        (t.port p.val).state = .up ∧ (t.port p.val).lanes = g ∧ (t.port p.val).peerRank = rank ∧
          t.readyKey (18 + p.val) = true ∧ ∀ f ∈ x.retry,
            OutMsg.flit p.val 0 f.seq ((flitBytes f.seq x.ack f.vc 0 f.credits f.data).map BitVec.toNat) ∈ t.out
      else (t.port p.val).state = .incompatible)) ∧
  (∀ (s u : State) (p : Fin 12) (k : Fin 7), s.Inv → (s.port p.val).state = .training →
    (s.port p.val).startedAt + stepLimit k.val < s.now → u = { s with xe := { s.xe with taken := some (xeSettings.map s.reg) } } →
    ∃ t, exec (.trainingStepTimeout p k) s = .next t ∧
      (2 ≤ (s.port p.val).fails → (t.port p.val).state = .down ∧ t.failedKey (18 + p.val) = true) ∧
      ((s.port p.val).fails < 2 → (t.port p.val).fails = (s.port p.val).fails + 1 ∧
        (s.fld (rPortCtrl p.val) 31 1 ≠ 0 → dirOf u.portSettings p.val ≠ 0 → u.topoGood = true →
          (t.port p.val).state = .training ∧ (t.port p.val).step = 1 ∧ (t.port p.val).startedAt = s.now)))

/-- FLIT_RECEIVE on a port that is up, outside A2: a flit with payload, no uncorrectable codeword, the right CRC and the
expected sequence number advances that number; a NULL or NAK flit is not numbered (as the model reads it: log entry 57);
any other is answered by a NAK of the last good one. In A2 the flit is held in the port and wakes the module. NAK_RECEIVE
drops the flits up to ACK and sends those behind it again, each one resend more, while none has had 8. FLIT_RESEND_LIMIT
takes out the lane in use with most errors, the lower number on a tie, and starts the counts again. (R271, R272, R277,
R438) -/
def Obligations.FlitsAreTakenOnceAndSentAgain : Prop :=
  (∀ (s : State) (p : Fin 12) (raw : List Byte) (x : Port), s.Inv → x = s.port p.val → x.state = .up → raw.length = 612 →
    s.ld.pwr = .a2 → (∀ e, s.ld.entered = some e → e.1 ≠ s.now) →
    ∃ t, exec (.flitReceive p raw) s = .next t ∧ t.port p.val = { x with inbox := x.inbox ++ [raw] } ∧ t.ld.waking = true ∧
      t.out = s.out) ∧
  (∀ (s : State) (p : Fin 12) (raw l : List Byte) (x : Port) (numbered : Bool), s.Inv → x = s.port p.val → x.state = .up →
    raw.length = 612 →
    s.ld.pwr ≠ .a2 → l = correctFlit raw → numbered = decide (leNat ((l.drop 5).take 1) % 4 = 0) →
    ∃ t, exec (.flitReceive p raw) s = .next t ∧
      (if (flitStates raw).contains .bad = false ∧ leNat ((l.drop 28).take 4) = crc32 (crcInput l) ∧ (numbered = true →
        leNat (l.take 2) = x.nextRx) then
        (t.port p.val).nextRx = (if numbered = true then (x.nextRx + 1) % 65536 else x.nextRx)
      else (t.port p.val).nextRx = x.nextRx ∧ OutMsg.flit p.val 1 0 ((flitBytes 0 x.ack 0 3 [] []).map BitVec.toNat) ∈ t.out)) ∧
  (∀ (s : State) (p : Fin 12) (ack : Fin 65536) (lanes : List (Fin 8)) (rest : List FlitTx), s.Inv → (s.port p.val).state = .up →
    rest = ackRetry ack.val (s.port p.val).retry →
    ∃ t, exec (.nakReceive p ack lanes) s = .next t ∧
      (if (rest.any fun f => decide (8 ≤ f.resends)) = true then (t.port p.val).retry = rest
      else (∃ l, (t.port p.val).retry = rest.map (fun f => { f with resends := f.resends + 1 }) ++ l) ∧
        ∀ f ∈ rest, OutMsg.flit p.val 0 f.seq ((flitBytes f.seq (s.port p.val).ack f.vc 0 f.credits f.data).map BitVec.toNat) ∈ t.out)) ∧
  (∀ (s : State) (p : Fin 12) (i : Nat), s.Inv → (s.port p.val).state = .up →
    ((s.port p.val).retry.any fun f => decide (8 ≤ f.resends)) = true → i < 8 → bitAt (s.port p.val).lanes i = true →
    ∃ t lane, exec (.flitResendLimit p) s = .next t ∧ lane < 8 ∧ bitAt (s.port p.val).lanes lane = true ∧
      (∀ j < 8, bitAt (s.port p.val).lanes j = true →
        (s.port p.val).laneErrors.getD j 0 ≤ (s.port p.val).laneErrors.getD lane 0 ∧
          (j < lane → (s.port p.val).laneErrors.getD j 0 < (s.port p.val).laneErrors.getD lane 0)) ∧
      (t.port p.val).out_ = (s.port p.val).out_ ||| 2 ^ lane ∧ (t.port p.val).state ≠ .up ∧
      (t.port p.val).retry = (s.port p.val).retry.map fun f => { f with resends := 0 })

/-- VC_AGING, outside A2: of the flits with credit, the first that is marked aged or has waited 4,096 flit times outside
the control class is sent next. MESSAGE_FORWARD with a route: every chunk of 16 data units of 33 bytes waits on the port,
in its channel, or has been sent. ARBITER_AGING grants every request that has waited 4,096 cycles; the others still wait,
until a grant gives its turn to the next input of the weighted round. (R275, R276, R463, R469) -/
def Obligations.WaitingTrafficGoesOn : Prop :=
  (∀ (s : State) (p : Fin 12) (i : Nat) (f : FlitTx) (x : Port) (old : FlitTx → Prop), s.Inv → x = s.port p.val → x.state = .up →
    s.ld.pwr ≠ .a2 → x.retry.length < 256 → x.queue[i]? = some f → 0 < x.credits.getD f.vc 0 →
    (∀ g, old g ↔ g.aged = true ∨ (g.vc ≠ 3 ∧
      4096 * 2304 ≤ (s.now - g.queuedAt) * ((List.range 8).filter fun k => bitAt x.lanes k).length * 100)) → old f →
    (∀ j < i, ∀ g, x.queue[j]? = some g → 0 < x.credits.getD g.vc 0 → ¬ old g) →
    ∃ t l, exec (.vcAging p) s = .next t ∧
      t.out = s.out ++ OutMsg.flit p.val 0 x.nextTx ((flitBytes x.nextTx x.ack f.vc 0 x.owed f.data).map BitVec.toNat) :: l) ∧
  (∀ (s : State) (p0 : Fin 12) (dest p v : Nat) (vc : Fin 5) (bytes : List Byte) (crosses : Bool), s.Inv →
    s.route dest = some (p, crosses) → v = classAfter vc.val crosses →
    ∃ t, exec (.messageForward p0 ⟨dest, vc⟩ bytes) s = .next t ∧
      ∀ w ∈ chunks (bytes.length + 1) bytes,
        (∃ f ∈ (t.port p).queue, f.data = w ∧ f.vc = v ∧ f.source = 1 + p0.val) ∨
        ∃ k a cr, OutMsg.flit p 0 k ((flitBytes k a v 0 cr w).map BitVec.toNat) ∈ t.out) ∧
  (∀ (s : State) (arbiter : Nat) (arrivals : List Arrival) (grants : Nat),
    ∃ t, exec (.arbiterAging arbiter ⟨arrivals, grants⟩) s = .next t ∧
      (∀ w ∈ arrivals, (firstArbiter w.source).1 = arbiter → 4096 ≤ w.waited →
        OutMsg.grant arbiter (firstArbiter w.source).2 ∈ t.out) ∧
      (∀ r ∈ s.fab.arb, r.arbiter = arbiter → 4096 ≤ r.waited → OutMsg.grant arbiter r.input ∈ t.out) ∧
      (grants = 0 → ∀ r ∈ s.fab.arb, r.arbiter = arbiter → r.waited < 4096 → r ∈ t.fab.arb) ∧
      (∀ r ∈ s.fab.arb, r.arbiter ≠ arbiter → r ∈ t.fab.arb)) ∧
  (∀ (s : State) (a i : Nat) (turn : Round), s.Inv → (∀ r ∈ s.fab.arb, r.arbiter = a → r.waited < 4096) →
    (Tab.get (fun _ => (⟨[], 0⟩ : Round)) s.fab.turns a).next (s.activeInputs a) = some (i, turn) →
    ∃ t, exec (.arbiterAging a ⟨[], 1⟩) s = .next t ∧ t.out = s.out ++ [.grant a i] ∧
      Tab.get (fun _ => (⟨[], 0⟩ : Round)) t.fab.turns a = turn)

/-- D2D_FLIT_RESEND of a flit that had a credit, after up to 8 resends: with an uncorrectable codeword it is sent once
more and counted, and after the eighth resend its resends are used up; without one it is delivered and its credit returns.
D2D_RESEND_EXHAUSTED takes a ring connection out of service; on a hub connection that has used up its resends, it poisons
every codeword of the flit. (R13, R370) -/
def Obligations.DieConnectionsResendAndGiveUp : Prop :=
  (∀ (s : State) (x : D2D) (away : Bool) (vc : Fin 4) (seq : Nat) (bytes : List Byte) (l : D2DLink), s.Inv →
    s.d2dIsOut (d2dKey x) = false → l = s.d2dLink (d2dDir x away) → l.resends vc.val seq ≤ 8 →
    ((l.kept vc.val seq).isSome = true ∨ 0 < l.credits.getD vc.val 0) →
    ∃ t, exec (.d2dFlitResend ⟨x, away⟩ ⟨vc, seq, bytes⟩) s = .next t ∧
      ((d2dStates bytes).contains .bad = true →
        (t.d2dLink (d2dDir x away)).resends vc.val seq = l.resends vc.val seq + 1 ∧
        (l.resends vc.val seq < 8 → OutMsg.d2d x seq ∈ t.out) ∧
        (l.resends vc.val seq = 8 → t.out = s.out ∧ (t.d2dSpent (d2dDir x away)).isSome = true)) ∧
      ((d2dStates bytes).contains .bad = false → (t.d2dLink (d2dDir x away)).kept vc.val seq = none ∧
        ((l.kept vc.val seq).isSome = true → vc.val < l.credits.length →
          (t.d2dLink (d2dDir x away)).credits.getD vc.val 0 = l.credits.getD vc.val 0 + 1))) ∧
  (∀ (s : State) (d : Fin 4) (training away : Bool) (cws : List Nat), s.Inv →
    (training = true ∨ (s.d2dSpent (d2dDir (.ring d) away)).isSome = true) →
    ∃ t, exec (.d2dResendExhausted (.ring d) training cws) s = .next t ∧
      Tab.get (fun _ => false) t.fab.d2dOut (d2dKey (.ring d)) = true ∧ (∀ j, t.rdByte j = s.rdByte j)) ∧
  (∀ (s : State) (d : Fin 4) (away : Bool) (cws : List Nat), (s.d2dSpent (d2dDir (.hub d) away)).isSome = true →
    ∃ t, exec (.d2dResendExhausted (.hub d) false cws) s = .next t ∧ (∀ cw ∈ cws, t.poisoned cw = true) ∧
      (∀ j, t.rdByte j = s.rdByte j) ∧ (∀ k, s.poisoned k = true → t.poisoned k = true))

/-- A started STSH with a good descriptor and readable input, for an entry not yet held: when the stride takes its block
and the region has room below the spill mark, a resident entry with the next number is held in the units that R380 gives,
only those units are written, and STSH is delivered. When the stride drops the block, nothing is written, the entry is
named as gone, and STSH is delivered with the drop indication. A region within the limits becomes pending, and takes
effect when no entry is held. (R225, R226, R229, R380, R381) -/
def Obligations.TheStashKeepsOrDropsAnEntry : Prop :=
  (∀ (s u : State) (q n : Nat) (c : Cmd), s.Inv → s.cmd q = some c → c.opcode = 0x28 → c.stage = .started → c.tainted = false →
    s.Operands [(c.u 16 8, 64)] (s.tdOk (c.u 16 8)) (s.tdAt (c.u 16 8)).ranges [] → s.entry c.step c.mb c.block = none →
    u = (s.newStash c.step).applyRegion → c.block % u.ham.stride = 0 → n = (s.stashData c).bytes.length →
    u.fits s.ham.stored (unitsFor n) = true → (∀ e ∈ s.ham.entries, e.number ≠ s.ham.stored) →
    (u.regionUsed + 4096 * unitsFor n) * 16 ≤ u.ham.spillHigh * (u.ham.size * 2 ^ 30) →
    ∃ t e, exec (.stsh q) s = .next t ∧ t.ham.entries = s.ham.entries ++ [e] ∧ (e.step, e.mb, e.block) = c.key ∧
      e.number = s.ham.stored ∧ e.place = .resident ∧ e.fmt = c.stashFmt ∧ e.size = n ∧
      e.units = u.placeUnits s.ham.stored (unitsFor n) ∧ t.ham.stored = (s.ham.stored + 1) % 2 ^ 32 ∧
      (∀ j, outside (e.units.map fun a => (a, 4096)) j → t.rdByte j = s.rdByte j) ∧
      ∃ d, t.cmd q = some d ∧ d.stage = .delivered) ∧
  (∀ (s : State) (q : Nat) (c : Cmd), s.Inv → s.cmd q = some c → c.opcode = 0x28 → c.stage = .started → c.tainted = false →
    s.Operands [(c.u 16 8, 64)] (s.tdOk (c.u 16 8)) (s.tdAt (c.u 16 8)).ranges [] → s.entry c.step c.mb c.block = none →
    c.block % ((s.newStash c.step).applyRegion).ham.stride ≠ 0 →
    ∃ t, exec (.stsh q) s = .next t ∧ t.ham.entries = s.ham.entries ∧ c.key ∈ t.ham.gone ∧ (∀ j, t.rdByte j = s.rdByte j) ∧
      ∃ d, t.cmd q = some d ∧ d.stage = .delivered ∧ d.ind = c.ind ||| 16#16) ∧
  (∀ (s : State) (m : Master) (v : W32), s.owns m = true → s.regLands m = true →
    ∃ t, exec (.hamperRegionWrite m v) s = .next t ∧ t.ham.pending =
      (if 1 ≤ bitsOf v.toNat 0 9 ∧ bitsOf v.toNat 0 9 ≤ 448 ∧ bitsOf v.toNat 16 9 + bitsOf v.toNat 0 9 ≤ 512 then
        some (bitsOf v.toNat 16 9, bitsOf v.toNat 0 9) else s.ham.pending)) ∧
  (∀ (s : State) (off size : Nat), s.ham.pending = some (off, size) →
    ∃ t, exec .hamperRegionApply s = .next t ∧
      (s.ham.entries = [] → t.ham.offset = off ∧ t.ham.size = size ∧ t.ham.pending = none) ∧ (s.ham.entries ≠ [] → t = s))

/-- A started RECL, or RECOMP with its source entry, that need not wait for a transfer or a memory access and whose tensor
can be written, writes that tensor and nothing else: RECL is then delivered, RECOMP starts the first replayed command, or
is delivered when there is none. RECL of a spilled entry that is being read back, or fits the region and is then read
back, has opened its history record and waits; of an entry that is gone, it is delivered with the reach-back indication. A
spill that ends leaves the entry's bytes in host memory and its units free. (R221, R226, R228, R382) -/
def Obligations.HeldEntriesAreRestored : Prop :=
  (∀ (s u : State) (q : Nat) (c : Cmd) (e : HamperEntry) (o : Td), s.Inv → s.runnable q 0x29 = some c →
    s.entry c.step c.mb c.block = some e → s.heldBack e.ranges = false → (e.place ≠ .spilled ∨ (e.reading = false ∧
    s.fits e.number (unitsFor e.size) = false)) →
    o = tdOf e.src → s.openOut c.step o = some u → (e.units = [] → u.rdFail e.window e.size = none) →
    u.entryLost e = none → u.writeFail o.ranges = none →
    ∃ t, exec (.recl q) s = .next t ∧ (∀ j, outside (o.ranges ++ o.histRange) j → t.rdByte j = s.rdByte j) ∧
      ∃ d, t.cmd q = some d ∧ d.stage = .delivered ∧ d.checks = c.checks + 1) ∧
  (∀ (s : State) (q : Nat) (c : Cmd) (e : HamperEntry), s.Inv → s.runnable q 0x29 = some c →
    s.entry c.step c.mb c.block = some e → s.heldBack e.ranges = false → e.place = .spilled → (e.reading = true ∨
    s.fits e.number (unitsFor e.size) = true) →
    (s.openOut c.step (tdOf e.src)).isSome = true →
    (s.chan s.ham.spillChannel).queue = [] → (s.chan s.ham.spillChannel).current = none →
    ∃ t, exec (.recl q) s = .next t ∧ (∀ j, outside (tdOf e.src).histRange j → t.rdByte j = s.rdByte j) ∧
      (∃ d, t.cmd q = some d ∧ d.stage = .running ∧ d.children = [2 ^ 64, e.number]) ∧
      (if e.reading = true then t.ham.entries = s.ham.entries
       else { e with units := s.placeUnits e.number (unitsFor e.size), reading := true } ∈ t.ham.entries)) ∧
  (∀ (s : State) (q : Nat) (c : Cmd), s.runnable q 0x29 = some c → s.entry c.step c.mb c.block = none →
    s.ham.gone.contains c.key = true →
    ∃ t, exec (.recl q) s = .next t ∧ (∀ j, t.rdByte j = s.rdByte j) ∧
      ∃ d, t.cmd q = some d ∧ d.stage = .delivered ∧ d.ind = c.ind ||| 0x20#16) ∧
  (∀ (s u : State) (q : Nat) (c : Cmd) (e : HamperEntry) (o : Td), s.Inv → s.runnable q 0x2A = some c →
    s.sourceEntry c = some e → s.heldBack e.ranges = false →
    (e.place ≠ .spilled ∨ (e.reading = false ∧ s.fits e.number (unitsFor e.size) = false)) →
    o = tdOf e.src → s.openOut c.step o = some u → (e.units = [] → u.rdFail e.window e.size = none) →
    u.entryLost e = none → u.writeFail o.ranges = none → s.copies q = [] →
    ∃ t, exec (.recomp q) s = .next t ∧ (∀ j, outside (o.ranges ++ o.histRange) j → t.rdByte j = s.rdByte j) ∧
      (s.replayList c e.block = [] → ∃ d, t.cmd q = some d ∧ d.stage = .delivered) ∧
      (∀ i l, s.replayList c e.block = i :: l → i ≠ 2 ^ 64 →
        ∃ d ∈ t.hg.cmds, d.parent = some q ∧ d.seq = some (2 ^ 64 + s.hg.nextId) ∧ d.stage = .started)) ∧
  (∀ (s : State) (c : Fin 64) (it : MoverItem) (e : HamperEntry) (w n : Nat), s.Inv → (s.chan c.val).current = some it →
    it.kind = .spill e.number → s.spillEntry e.number = some e → (∀ x ∈ s.ham.entries, x.number = e.number → x = e) →
    (s.chan c.val).queue = [] → w = e.window → n = 4096 * e.units.length →
    s.heldBack ((w, n) :: e.units.map fun a => (a, 4096)) = false →
    s.rdFails (e.units.map fun a => (a, 4096)) = none → s.rdFail w n = none → isHost w = true → w + n ≤ 2 ^ 64 →
    (∀ d ∈ s.hg.cmds, d.opcode ≠ 0x28 ∨ d.stage ≠ .running) →
    s.regionUsed * 16 ≤ s.ham.spillHigh * (s.ham.size * 2 ^ 30) + 16 * n →
    ∃ t, exec (.spillTransferEnd c) s = .next t ∧ { e with place := .spilled, units := [] } ∈ t.ham.entries ∧
      (t.chan c.val).current = none ∧ (∀ i < n, t.rdByte (w + i) = s.rdByte (e.units.getD (i / 4096) 0 + i % 4096)) ∧
      (∀ j, outside [(w, n)] j → t.rdByte j = s.rdByte j))

/-- APERTURE_READ by the host, or by the debug port while it owns the module with SCOPE bit 1: where the aperture serves
the range the answer is the bytes there, or poisoned data when one cannot be read; elsewhere zeros. It changes no byte.
APERTURE_WRITE changes exactly the bytes of the range that lie in a stack outside the Hamper region, in force or pending,
each to its new value; where the aperture does not serve the range it changes nothing. A master without a path to the
aperture changes nothing at all. That the debug port uses the same BASE, ENABLE and map as the host is inferred by the
model (log entry 104). (R383, R427) -/
def Obligations.TheApertureReadsAndWritesDeviceMemory : Prop :=
  (∀ (s : State) (m : Master) (off : W64) (n : Fin 4097), (m = .host ∨ s.aperturePath m = true) →
    ∃ t, exec (.apertureRead m off n) s = .next t ∧ (∀ j, t.rdByte j = s.rdByte j) ∧
      (s.apertureAt m off.toNat n.val = none → t.out = s.out ++ [.aperture m (List.replicate n.val 0) false]) ∧
      (∀ a, s.apertureAt m off.toNat n.val = some a →
        (s.rdFail a n.val = none → ∃ l, t.out = s.out ++ l ++ [.aperture m (s.rd a n.val) false]) ∧
        (s.rdFail a n.val ≠ none → ∃ l b, t.out = s.out ++ l ++ [.aperture m b true] ∧ b.length = n.val))) ∧
  (∀ (s : State) (m : Master) (off : W64) (data : List Byte) (a : Nat) (open_ : Nat → Prop), s.Inv →
    s.apertureAt m off.toNat data.length = some a →
    (∀ j, open_ j ↔ ∃ st o, placeOf s.ms.interleave (j / 4096 * 4096) = .stack st o ∧ s.inHamper o = false) →
    ∃ t, exec (.apertureWrite m off data) s = .next t ∧
      (∀ i, ∀ h : i < data.length, open_ (a + i) → t.rdByte (a + i) = data[i]) ∧
      (∀ j, (outside [(a, data.length)] j ∨ ¬ open_ j) → t.rdByte j = s.rdByte j)) ∧
  (∀ (s : State) (m : Master) (off : W64) (data : List Byte), s.apertureAt m off.toNat data.length = none →
    ∃ t, exec (.apertureWrite m off data) s = .next t ∧ ∀ j, t.rdByte j = s.rdByte j) ∧
  (∀ (s : State) (m : Master) (off : W64) (n : Fin 4097) (data : List Byte),
    (m = .bmc ∨ (m = .debug ∧ (s.tb.debugUnlocked = false ∨ bitAt s.tb.debugScope 1 = false ∨ s.owns .debug = false))) →
    exec (.apertureRead m off n) s = .next s ∧ exec (.apertureWrite m off data) s = .next s)

/-- For every state that meets the conditions, each answers a next state. PATROL_SCRUB of a memory in service while the
module is in A0 or A1 and PERIOD_H is not 0, after what has struck the memory: the sweep moves on by one codeword, which
is left without a correctable or uncorrectable error; one that was uncorrectable is poisoned, and otherwise no byte reads
differently. TARGETED_SCRUB_END of a scrub under way ends it and leaves no such error in its pseudo-channel. ROW_REMAP_END
of a remap under way ends it, adds the row to those remapped, leaves its codewords corrected or poisoned, and changes no
byte as read. (R371, R373, R376, R377, R378) -/
def Obligations.ScrubsCorrectAndPoison : Prop :=
  (∀ (s : State) (k : Fin 13) (e : Env), s.Inv → (s.ld.pwr = .a0 ∨ s.ld.pwr = .a1) → s.patrolReady k.val = true →
    (s.applyEnv e).fld 0x1000020 0 8 ≠ 0 →
    ∃ t, exec (.patrolScrub k e) s = .next t ∧ t.sweepPos k.val = (s.sweepPos k.val + 1) % patrolLength k.val ∧
      ∀ cw, cw = s.patrolCw k.val (s.sweepPos k.val) → decodePattern (t.upset cw) = .good ∧
        (decodePattern ((s.applyEnv e).upset cw) = .bad → t.poisoned cw = true) ∧
        (decodePattern ((s.applyEnv e).upset cw) ≠ .bad → ∀ j, t.rdByte j = (s.applyEnv e).rdByte j)) ∧
  (∀ (s : State) (st : Fin 8) (pch : Fin 64), s.Inv → s.ms.targeted.contains { stack := st.val, pch := pch.val } = true →
    ∃ t, exec (.targetedScrubEnd st pch) s = .next t ∧
      t.ms.targeted.contains { stack := st.val, pch := pch.val } = false ∧
      ∀ cw row, s.rowOfCw cw = some (st.val, pch.val, row) → decodePattern (t.upset cw) = .good ∧
        (decodePattern (s.upset cw) = .bad → t.poisoned cw = true)) ∧
  (∀ (s : State) (st : Fin 8) (pch : Fin 64) (row : Fin 1048576), s.Inv →
    (s.ms.remapping.any fun r => r.stack == st.val && r.pch == pch.val && r.row == row.val) = true →
    ∃ t, exec (.rowRemapEnd st pch row) s = .next t ∧ t.remapped st.val pch.val = s.remapped st.val pch.val ++ [row.val] ∧
      (∀ r, s.ms.remapping.find? (fun r => r.stack == st.val && r.pch == pch.val && r.row == row.val) = some r →
        r ∉ t.ms.remapping) ∧
      (∀ j, t.rdByte j = s.rdByte j) ∧ ∀ cw, s.rowOfCw cw = some (st.val, pch.val, row.val) → t.upset cw = 0 ∧
        (decodePattern (s.upset cw) = .bad → t.poisoned cw = true))

/-- STACK_ZEROING_END, and STORE_ZEROING_END without a failure, of a memory neither ready nor failed, with the package
powered: its ready bit is set, every byte of it reads zero with no codeword poisoned, and every other byte reads as
before. A failed store zeroing sets the failed bit. (R365, R366, R449) -/
def Obligations.ZeroedMemoryReadsZeroAndIsReady : Prop :=
  (∀ (s : State) (st : Fin 8), s.ld.pwr ≠ .a3 → s.isReady (.stack st) = false → s.failedKey (funcKey (.stack st)) = false →
    ∃ t, exec (.stackZeroingEnd st) s = .next t ∧ t.isReady (.stack st) = true ∧
      (∀ j, s.inStack st.val j = true → t.rdByte j = 0 ∧ t.poisoned (j / 32) = false) ∧
      (∀ j, s.inStack st.val j = false → t.rdByte j = s.rdByte j)) ∧
  (∀ (s : State) (k : Fin 5), s.ld.pwr ≠ .a3 → s.readyKey (38 + k.val) = false → s.failedKey (38 + k.val) = false →
    (∃ t, exec (.storeZeroingEnd k true) s = .next t ∧ t.readyKey (38 + k.val) = true ∧
      (∀ j, s.inStore k.val j = true → t.rdByte j = 0 ∧ t.poisoned (j / 32) = false) ∧
      (∀ j, s.inStore k.val j = false → t.rdByte j = s.rdByte j)) ∧
    (∃ t, exec (.storeZeroingEnd k false) s = .next t ∧ t.failedKey (38 + k.val) = true ∧ t.readyKey (38 + k.val) = false ∧
      ∀ j, t.rdByte j = s.rdByte j))

/-- REGISTER_WRITE of 4 or 8 bytes, naturally aligned, of a register that only holds what is written: its RW bits take the
value written when the master may write it, and else it keeps its value; no other stored register changes. A 4-byte write
of a lower half changes no register until the upper half's write, which sets both. A lower half that may not be written is
not held. LOWER_HALF_READ answers the lower half and latches the upper half, which the next read of it answers; a read of
8 bytes answers the whole register and ends the latch. Any other access size changes nothing but the power and link state
of the path it came by, and reads 0. (R4, R5, R6, R8, R9, R311, R402, R425, R472) -/
def Obligations.RegisterAccessesTakeEffectWhole : Prop :=
  (∀ (s : State) (m : Master) (off : Nat) (wide : Bool) (v : W64) (r : RegRow) (i : Nat), s.Inv →
    findRow regRows off = some (r, i) →
    ixOf 0x801020 0x40 64 off = none → ixOf 0xC01000 0x40 64 off = none → ixOf 0x2001008 0x40 12 off = none →
    ixOf 0x2800800 0x40 5 off = none → off ≠ 0x2800060 → off < 0x2C00000 → off % (if wide then 8 else 4) = 0 →
    (s.reachedBy m).isWide m off = wide → (wide = false → 4 ≤ off → (s.reachedBy m).isWide m (off - 4) = false) →
    ∃ t, exec (.registerWrite m off (if wide then .eight else .four) v) s = .next t ∧
      t.reg off = (if s.mayWrite m r.writer = true ∧ (off < 0x400000 ∨ s.regLands m = true) ∧ s.regPath m = true ∧
          s.ringLocked off = false then (if wide then v.toNat else v.toNat % 2 ^ 32) &&& r.rw else s.reg off) ∧
      (∀ o, o ≠ off → t.reg o = s.reg o) ∧ (∀ j, t.rdByte j = s.rdByte j)) ∧
  (∀ (s : State) (m : Master) (off : Nat) (lo hi : W64) (r : RegRow) (i : Nat), s.Inv → findRow regRows off = some (r, i) →
    ixOf 0x801020 0x40 64 off = none → ixOf 0xC01000 0x40 64 off = none → ixOf 0x2001008 0x40 12 off = none →
    ixOf 0x2800800 0x40 5 off = none → off ≠ 0x2800060 → off < 0x2BFFFF8 → off % 8 = 0 → s.mayWrite m r.writer = true →
    (off < 0x400000 ∨ s.regLands m = true) →
    s.regPath m = true → s.ringLocked off = false →
    (∀ u : State, u.isWide m off = true) → (∀ u : State, u.isWide m (off + 4) = false) →
    ∃ t u, exec (.registerWrite m off .four lo) s = .next t ∧ t.regs = s.regs ∧
      exec (.registerWrite m (off + 4) .four hi) t = .next u ∧
      u.reg off = (hi.toNat % 2 ^ 32 * 2 ^ 32 + lo.toNat % 2 ^ 32) &&& r.rw) ∧
  (∀ (s : State) (m : Master) (off : Nat), off < 0x2BFFFF8 → off % 8 = 0 →
    (∀ u : State, (u.readReg m off).wide = true) → (∀ u : State, (u.readReg m (off + 4)).wide = false) →
    ∃ t u, exec (.lowerHalfRead m ⟨off, .four⟩) s = .next t ∧
      t.out = s.out ++ (OutMsg.regRead m off (BitVec.ofNat 64 (((s.reachedBy m).readReg m off).val % 2 ^ 32))).sent ∧
      exec (.lowerHalfRead m ⟨off + 4, .four⟩) t = .next u ∧
      u.out = t.out ++ (OutMsg.regRead m (off + 4) (BitVec.ofNat 64 (((s.reachedBy m).readReg m off).val / 2 ^ 32 % 2 ^ 32))).sent) ∧
  (∀ (s : State) (m : Master) (off : Nat), off < 0x2C00000 → off % 8 = 0 → ((s.reachedBy m).readReg m off).wide = true →
    ∃ t, exec (.lowerHalfRead m ⟨off, .eight⟩) s = .next t ∧ t.latchOf m off false = none ∧
      t.out = s.out ++ (OutMsg.regRead m off (BitVec.ofNat 64 ((s.reachedBy m).readReg m off).val)).sent) ∧
  (∀ (s : State) (m : Master) (off : Nat) (lo : W64), off < 0x2C00000 → off % 4 = 0 → (s.reachedBy m).isWide m off = true →
    (s.reachedBy m).writeLands m off = false →
    ∃ t, exec (.registerWrite m off .four lo) s = .next t ∧ t.regs = s.regs ∧ t.latchOf m off true = none) ∧
  (∀ (s : State) (m : Master) (off k : Nat) (v : W64),
    exec (.registerWrite m off (.other k) v) s = .next (s.reachedBy m) ∧
    ∃ t, exec (.lowerHalfRead m ⟨off, .other k⟩) s = .next t ∧ t.out = s.out ++ (OutMsg.regRead m off 0).sent ∧
      t.regs = s.regs ∧ t.latches = s.latches)

/-- A write of a pending set, pending clear, mask set or mask clear register that lands acts on the sources its bits name
in that bank and on no other: one arrival up to 255 (none for a reserved source), the count cleared, the source masked,
the source unmasked. A source that becomes pending while unmasked, or is unmasked while pending, sends the message of its
vector. IC_ACK by the owner subtracts its count. Arrivals of the same cycle are counted after a clear or an
acknowledgement, and a source masked in the cycle stays masked. (R451, R452, R453, R454, R455, R457) -/
def Obligations.InterruptWritesChangeTheSourcesTheyName : Prop :=
  (∀ (s : State) (m : Master) (b : IcBank) (v : W32), s.Inv → s.regLands m = true →
    ∃ t, exec (.icPendSet m b v) s = .next t ∧
      (∀ n, t.irqCount n = if n ∈ s.bankSources b v.toNat ∧ n < 213 then (if s.irqCount n = 255 then 255 else s.irqCount n + 1)
        else s.irqCount n) ∧
      (∀ n, t.irqOpen n = s.irqOpen n) ∧
      (∀ n ∈ s.bankSources b v.toNat, n < 213 → s.irqCount n = 0 → s.irqOpen n = true → s.fld (rSrc n) 28 1 = 0 →
        s.msixGo (s.fld (rSrc n) 16 9) = true → OutMsg.msix (s.fld (rSrc n) 16 9) ∈ t.out)) ∧
  (∀ (s : State) (m : Master) (b : IcBank) (v : W32), s.Inv → s.regLands m = true →
    ∃ t, exec (.icPendClr m b v) s = .next t ∧
      (∀ n, t.irqCount n = if n ∈ s.bankSources b v.toNat then min 255 (s.arrivedNow n) else s.irqCount n) ∧
      (∀ n, t.irqOpen n = s.irqOpen n)) ∧
  (∀ (s : State) (m : Master) (b : IcBank) (v : W32), s.Inv → s.regLands m = true →
    ∃ t, exec (.icMaskSet m b v) s = .next t ∧
      (∀ n, t.irqOpen n = if n ∈ s.bankSources b v.toNat then false else s.irqOpen n) ∧ (∀ n, t.irqCount n = s.irqCount n)) ∧
  (∀ (s : State) (m : Master) (b : IcBank) (v : W32), s.Inv → s.regLands m = true →
    ∃ t, exec (.icMaskClr m b v) s = .next t ∧
      (∀ n, t.irqOpen n = if n ∈ s.bankSources b v.toNat ∧ s.maskedNow n = false then true else s.irqOpen n) ∧
      (∀ n, t.irqCount n = s.irqCount n) ∧
      (∀ n ∈ s.bankSources b v.toNat, 0 < s.irqCount n → s.irqOpen n = false → s.maskedNow n = false → s.fld (rSrc n) 28 1 = 0 →
        s.msixGo (s.fld (rSrc n) 16 9) = true → OutMsg.msix (s.fld (rSrc n) 16 9) ∈ t.out)) ∧
  (∀ (s : State) (m : Master) (v : W32), s.Inv → s.owns m = true → s.regLands m = true →
    ∃ t, exec (.icAck m v) s = .next t ∧ ∀ n, t.irqCount n =
      if n = bitsOf v.toNat 0 9 then
        s.irqCount n - min (s.irqCount n) (s.arrivedNow n) - bitsOf v.toNat 16 8 + min (s.irqCount n) (s.arrivedNow n)
      else s.irqCount n)

/-- MSIX_MASK_WRITE sets the enable, the function mask, a vector's mask, or its address and data; after a write of a mask
or the enable, every vector in the pending bit array that may go has sent its message and is no longer held.
CONFIGURATION_SPACE_WRITE outside A3 sets the field it names; the size of BAR4 only while memory space is off.
DYNAMIC_ADDRESS_ASSIGNMENT with auxiliary power sets the I3C address: ENTDAA where there is none yet, SETDASA where it
names the static address 0x50 + slot. (R434, R440, R453, R487, R491) -/
def Obligations.PcieWritesTakeEffect : Prop :=
  (∀ (s : State) (w : MsixWrite), s.Inv →
    ∃ t, exec (.msixMaskWrite w) s = .next t ∧
      (match w with
        | .enable b => t.pcie.msixEnable = b
        | .functionMask b => t.pcie.functionMask = b
        | .vectorMask v b => Tab.get (fun _ => false) t.pcie.vecOpen v.val = !b
        | .vectorEntry v a d => Tab.get (fun _ => 0) t.pcie.vecAddr v.val = a ∧ Tab.get (fun _ => 0) t.pcie.vecData v.val = d) ∧
      ((∀ v a d, w ≠ .vectorEntry v a d) → ∀ n, t.msixGo n = true → Tab.get (fun _ => false) t.pcie.pba n = false ∧
        (Tab.get (fun _ => false) s.pcie.pba n = true → OutMsg.msix n ∈ t.out))) ∧
  (∀ (s : State) (w : CfgWrite), s.Inv → s.ld.pwr ≠ .a3 →
    ∃ t, exec (.configurationSpaceWrite w) s = .next t ∧
      (match w with
        | .bar4Size k => t.pcie.bar4Log2 = if s.pcie.memorySpace = true then s.pcie.bar4Log2 else k.val
        | .memorySpace b => t.pcie.memorySpace = b
        | .ptmRequester b => t.ld.ptmEnabled = b
        | .aspm b => t.pcie.aspm = b
        | .other o v => Tab.get (fun _ => 0) t.pcie.other o = v)) ∧
  (∀ (s : State) (a st : Fin 128), s.ld.aux = true →
    (∃ t, exec (.dynamicAddressAssignment (.entdaa a)) s = .next t ∧ t.ld.i3cAddr = s.ld.i3cAddr.or (some a.val)) ∧
    ∃ t, exec (.dynamicAddressAssignment (.setdasa st a)) s = .next t ∧
      t.ld.i3cAddr = if st.val = 0x50 + s.ld.slot then some a.val else s.ld.i3cAddr)

/-- Each supply, pin and reset row, where it acts: what it sets, that registers of the domains it clears take their reset
values and the others keep theirs, that memory on the package is lost in A3 and kept by a reset, at its place in its stack
where the reset takes a new interleave mode, and that host memory never changes. (R402, R433, R439, R445, R446, R447,
R448, R480, R482, R486) -/
def Obligations.SuppliesAndResetsReachTheirStates : Prop :=
  (∀ (s : State) (pins : Fin 16), s.ld.aux = false →
    ∃ t, exec (.auxPowerApplied pins) s = .next t ∧ t.ld.aux = true ∧ t.ld.time = 0 ∧ t.ld.slot = pins.val) ∧
  (∀ s : State, s.ld.aux = true →
    ∃ t, exec .auxPowerLost s = .next t ∧ t.ld.aux = false ∧ t.ld.pwr = .a3 ∧ t.hg = HostGate.initial ∧
      (∀ off, t.reg off = (regReset off).toNat) ∧ ∀ j, t.rdByte j = if isHost j = true then s.rdByte j else 0) ∧
  (∀ s : State, s.ld.main = false → ∃ t, exec .mainInputPresent s = .next t ∧ t.ld.main = true ∧ t.ld.mainAt = s.now) ∧
  (∀ s : State, ∃ t, exec .mainInputAbsent s = .next t ∧ t.ld.main = false ∧ t.ld.pwr = .a3) ∧
  (∀ s : State, ∃ t, exec .perstAssert s = .next t ∧ t.ld.perst = true ∧ t.ld.pwr = .a3 ∧
    (s.ld.pwr ≠ .a3 → t.hg = HostGate.initial ∧ t.tb.boot = 0 ∧ t.owner = none ∧
      (∀ off, t.reg off = if regDomain off = .aux then s.reg off else (regReset off).toNat) ∧
      ∀ j, t.rdByte j = if isHost j = true then s.rdByte j else 0)) ∧
  (∀ (s : State) (pins : Fin 16) (cool : Bool), s.ld.perst = true → s.ld.aux = true → s.ld.pwr = .a3 → s.ld.main = true →
    s.ld.mainAt < s.now →
    ∃ t, exec (.perstRelease pins cool) s = .next t ∧ t.ld.perst = false ∧ t.ld.slot = pins.val ∧
      ((s.ld.thermtrip = true → cool = true) → t.ld.pwr = .a0 ∧ t.tb.boot = 0 ∧ t.ld.thermtrip = false) ∧
      (s.ld.thermtrip = true → cool = false → t.ld.pwr = .a3)) ∧
  (∀ s : State, s.Inv → s.ld.pwr ≠ .a3 →
    ∃ t, exec .hotReset s = .next t ∧ t.ld.pwr = .a0 ∧ t.ld.link = .down ∧ t.hg = HostGate.initial ∧ t.tb.boot = 0 ∧
      (∀ k, t.readyKey k = false) ∧ (∀ off, t.reg off = if regDomain off = .aux then s.reg off else (regReset off).toNat) ∧
      t.ms.interleave = s.reg 0x1000010 % 4 ∧ (∀ j, 2 ^ 39 ≤ j → t.rdByte j = s.rdByte j) ∧
      ∀ j k, j < 2 ^ 39 → k < 2 ^ 39 → stackOf t.ms.interleave k = stackOf s.ms.interleave j → t.rdByte k = s.rdByte j) ∧
  (∀ (s : State) (m : Master) (v : W32), bitAt v.toNat 0 = true → s.regPath m = true → s.ld.pwr ≠ .a3 →
    (s.owns m = true ∨ (m = .bmc ∧ s.tb.own = .vacant)) →
    ∃ t, exec (.moduleResetWrite m v) s = .next t ∧ t.ld.resetPending = true) ∧
  (∀ s : State, s.Inv → s.ld.resetPending = true → s.ld.pwr ≠ .a3 →
    ∃ t, exec .moduleReset s = .next t ∧ t.ld.pwr = .a0 ∧ t.ld.resetPending = false ∧ t.ld.link = s.ld.link ∧
      t.pcie = s.pcie ∧ t.readyKey 0 = s.readyKey 0 ∧ t.hg = HostGate.initial ∧ t.tb.boot = 0 ∧
      (∀ off, t.reg off = if regDomain off = .aux then s.reg off else (regReset off).toNat) ∧
      t.ms.interleave = s.reg 0x1000010 % 4 ∧ (∀ j, 2 ^ 39 ≤ j → t.rdByte j = s.rdByte j) ∧
      ∀ j k, j < 2 ^ 39 → k < 2 ^ 39 → stackOf t.ms.interleave k = stackOf s.ms.interleave j → t.rdByte k = s.rdByte j) ∧
  (∀ s : State, s.ld.pwr ≠ .a3 →
    ∃ t, exec .functionLevelReset s = .next t ∧ t.hg.cmds = [] ∧ t.hg.rings = [] ∧ t.hg.journal = [] ∧ t.ham.entries = [] ∧
      t.ld.d3hot = false ∧ t.owner ≠ some .host ∧
      (∀ off, t.reg off = if regDomain off = .flr then (regReset off).toNat else s.reg off) ∧ ∀ j, t.rdByte j = s.rdByte j)

/-- Each row of the power and link states, under the conditions of its rule: the state it enters, that a doze is put off
while an activity or a capture runs and in the cycle of a wake event, that a relock polls every enabled ring within 1 us,
and that losing REFCLK leaves the ready bits. (R435, R436, R437, R438, R440, R449, R456, R489) -/
def Obligations.PowerAndLinkStatesFollowTheirEvents : Prop :=
  (∀ s : State, s.ld.pwr = .a0 → s.commandWork = false → s.ld.lastWork + s.idleUs * 1000 < s.now →
    ∃ t, exec .idleTimeout s = .next t ∧ t.ld.pwr = .a1 ∧ t.ld.a1Since = s.now) ∧
  (∀ s : State, (s.dozeBlocked = true ∨ s.ld.lastWake = some s.now → exec .dozeEntry s = .next s) ∧
    (s.dozeBlocked = false → s.ld.lastWake ≠ some s.now →
      (s.ld.pwr = .a1 ∧ s.dozeMs ≠ 0 ∧ s.ld.a1Since + s.dozeMs * 1000000 < s.now) ∨
        (s.ld.d3hot = true ∧ (s.ld.pwr = .a0 ∨ s.ld.pwr = .a1) ∧ s.commandRuns = false) →
      ∃ t, exec .dozeEntry s = .next t ∧ t.ld.pwr = .a2 ∧ t.ld.waking = false ∧ t.ld.selfRefresh = true)) ∧
  (∀ s : State, s.Inv → s.ld.pwr = .a2 → s.ld.waking = true →
    ∃ t, exec .hubPllRelock s = .next t ∧ t.ld.pwr = (if s.commandWork = true then .a0 else .a1) ∧ t.ld.waking = false ∧
      t.ld.selfRefresh = false ∧ (t.dom 0).running = true ∧
      ∀ n < 64, s.ringEnabled n = true → (t.ring n).nextPoll ≤ s.now + 1000) ∧
  (∀ s : State, s.ld.pwr ≠ .a3 → ∃ t, exec .d3hotEntry s = .next t ∧ t.ld.d3hot = true ∧
    (s.dozeBlocked = false → s.ld.lastWake ≠ some s.now → s.commandRuns = false → t.ld.pwr = .a2)) ∧
  (∀ s : State, s.ld.d3hot = true → ∃ t, exec .d0Return s = .next t ∧ t.ld.d3hot = false ∧
    (s.ld.link ≠ .down → s.ld.link ≠ .l23 → t.ld.link = .l0) ∧ (s.ld.pwr = .a2 → t.ld.waking = true)) ∧
  (∀ s : State, s.ld.d3hot = true → s.ld.pwr ≠ .a3 →
    ∃ t, exec .l2L3ReadyEntry s = .next t ∧ t.ld.pwr = .a3 ∧ t.ld.link = .l23 ∧ t.irq = s.irq ∧
      ∀ off, inIc off = true → t.reg off = s.reg off) ∧
  (∀ (s : State) (sub : Bool), (s.ld.pwr = .a1 ∨ s.ld.pwr = .a2) → s.pcie.aspm = true → (s.ld.link = .l0 ∨ s.ld.link = .l0p) →
    s.ld.lastLink + 10000 < s.now →
    ∃ t, exec (.l1Entry sub) s = .next t ∧ t.ld.link = if sub = true then .l12 else .l1) ∧
  (∀ s : State, ∃ t, exec .refclkLoss s = .next t ∧ t.ld.refclk = false ∧ t.ld.ready = s.ld.ready ∧
    (s.ld.refclk = true → s.ld.perst = false → s.ld.pwr ≠ .a3 → t.ld.link = .down)) ∧
  (∀ s : State, ∃ t, exec .refclkReturn s = .next t ∧ t.ld.refclk = true ∧
    (s.ld.refclk = false → s.ld.perst = false → s.ld.pwr ≠ .a3 → s.isReady .hostLink = true → t.ld.link = .l0))

/-- DAWN_PLL_LOCK ungates a domain that is starting; PLL_IDLE_STOP gates one without work. PTM_DIALOGUE steps the clock
when it is more than 1 ms behind, slows it when it is more than 1 ms ahead, aligns it within 100 ns, and else trims it
within 200 ppm. GOVERNOR_SAMPLE moves the thermal budget and takes limit, grants and sensors; the reads and the issue
ceiling that a grant allows are the model's choice (log entry 125). PWRBRK# limits from the next sample. A trip enters A3
and is recorded. (R24, R25, R431, R432, R434, R443, R444, R445, R499) -/
def Obligations.LanternGovernsTimeClocksAndPower : Prop :=
  (∀ (s : State) (d : Domain), (s.ld.pwr = .a0 ∨ s.ld.pwr = .a1) → domKey d ∈ s.starting →
    ∃ t, exec (.dawnPllLock d) s = .next t ∧ t.dom (domKey d) = { running := true, idleSince := s.now } ∧
      ∀ p ∈ t.ld.dawnQueue, p.2 ≠ domKey d) ∧
  (∀ (s : State) (d : Domain), s.Inv → (s.dom (domKey d)).running = true → s.domBusy (domKey d) = false → s.pllIdle ≠ 0 →
    (s.dom (domKey d)).idleSince + s.pllIdle * 100000 < s.now →
    ∃ t, exec (.pllIdleStop d) s = .next t ∧ t.dom (domKey d) = DomState.initial) ∧
  (∀ (s : State) (host : W64) (o : Int), s.ld.ptmEnabled = true → s.ld.aux = true →
    s.ld.ptmLast + s.ptmIntervalMs * 1000000 ≤ s.now → o = (host.toNat : Int) - (s.now : Int) →
    ∃ t, exec (.ptmDialogue host) s = .next t ∧ t.ld.ptmOffset = saturate32 o ∧
      (if 1000000 < o then t.now = host.toNat
        else if o < -1000000 then t.now = s.now ∧ t.ld.ptmPpm = -200 ∧ t.ld.ptmBehind = true
        else if o.natAbs < 100 then t.now = s.now ∧ t.ld.ptmPpm = 0 ∧ t.ld.ptmAligned = true
        else t.now = s.now ∧ t.ld.ptmPpm.natAbs ≤ 200)) ∧
  (∀ s : State, s.ld.ptmLast + 1000000000 < s.now →
    ∃ t, exec .ptmTimeout s = .next t ∧ t.ld.ptmAligned = false ∧ t.now = s.now) ∧
  (∀ (s : State) (g : GovSample) (tj : List Reading) (th : Nat), s.ld.aux = true → s.ld.lastSample + 10000 ≤ s.now →
    tj = [g.tj0, g.tj1, g.tj2, g.tj3, g.tjHub] →
    th = (if (tj.any fun r => atLeast r s.throttleC) = true then max 365 (s.ld.thermalW - 10)
      else if (tj.all fun r => !isAbove r ((s.throttleC : Int) - 3)) = true then min 910 (s.ld.thermalW + 5) else s.ld.thermalW) →
    ∃ t, exec (.governorSample g) s = .next t ∧ t.ld.thermalW = th ∧ t.ld.lastSample = s.now ∧ t.ld.limited = s.ld.pwrbrk ∧
      [t.ld.grantMC, t.ld.grantAF, t.ld.grantMS, t.ld.grantVN] =
        divide (min ((if s.ld.pwrbrk = true then 450 else s.ld.inputLimit) * 91 / 100) th) g.hub (!s.uk.acts.isEmpty)
          ([g.mc, g.af, g.ms, g.vn].map demandOf) ∧
      t.ld.limitAF = readsGranted t.ld.grantAF (demandOf g.af) (!s.uk.acts.isEmpty) ∧
      t.ld.ceilingMC = ceilingGranted t.ld.grantMC (demandOf g.mc) ∧
      ∀ i, ∀ h : i < tj.length, Tab.get (fun _ => 0) t.ld.sensTj i = telemetry true 16 tj[i]) ∧
  (∀ s : State, s.ld.pwrbrk = false → ∃ t, exec .pwrbrkAssert s = .next t ∧ t.ld.pwrbrk = true ∧ t.ld.limited = s.ld.limited) ∧
  (∀ s : State, s.ld.pwrbrk = true → ∃ t, exec .pwrbrkRelease s = .next t ∧ t.ld.pwrbrk = false ∧ t.limitW = s.ld.inputLimit) ∧
  (∀ (s : State) (die : Fin 5), s.ld.aux = true → s.ld.thermtrip = false →
    ∃ t, exec (.thermalTrip die) s = .next t ∧ t.ld.thermtrip = true ∧ t.ld.tripped = true ∧ t.ld.tripDie = die.val ∧
      t.ld.tripUs = s.now / 1000 % 2 ^ 48 ∧ t.ld.pwr = .a3)

/-- With the package powered, for a function neither ready nor failed: IDENTITY_REGENERATED leads to boot state 1 or 4;
FUNCTION_READY makes the host link ready with REFCLK and PERST# released, firmware in boot state 3 (a waiting FWLD is
delivered), the Exchange Engine, banks and clusters once firmware is ready, and marks a stack, bank or cluster that
failed. (R402, R406, R449) -/
def Obligations.FunctionsComeUpInOrder : Prop :=
  (∀ (s : State) (ok : Bool), s.tb.boot = 0 → s.ld.pwr ≠ .a3 →
    ∃ t, exec (.identityRegenerated ok) s = .next t ∧
      (if ok = true then t.tb.boot = 1 ∧ t.isReady .trust = true else t.tb.boot = 4 ∧ t.failedKey (funcKey .trust) = true)) ∧
  (∀ (s : State) (f : Func) (ok : Bool), s.ld.pwr ≠ .a3 → s.isReady f = false → s.failedKey (funcKey f) = false →
    ∃ t, exec (.functionReady f ok) s = .next t ∧
      (match f with
        | .hostLink => ok = true → s.ld.refclk = true → s.ld.perst = false → t.isReady f = true ∧ t.ld.link = .l0
        | .firmware => ok = true → s.tb.boot = 3 → t.isReady f = true ∧ t.tb.fwWaiting = none ∧
          ∀ q c, s.tb.fwWaiting = some q → s.cmd q = some c → ∃ d, t.cmd q = some d ∧ d.stage = .delivered
        | .exchange => ok = true → s.isReady .firmware = true → t.isReady f = true
        | .stack _ => if ok = true then t = s else t.failedKey (funcKey f) = true
        | .bank _ _ => s.isReady .firmware = true → if ok = true then t.isReady f = true else t.failedKey (funcKey f) = true
        | .cluster _ _ => s.isReady .firmware = true → if ok = true then t.isReady f = true else t.failedKey (funcKey f) = true
        | .trust => t = s
        | .wstore _ => t = s
        | .hubStore => t = s
        | .port _ => t = s))

/-- A well-formed CLAIM of a master that may own the module is decided, when it is valid, with a response and key of R420,
and is else refused with AUTH_FAIL; one that came as a message before the firmware was ready is held, and times out after
HOLD_MS (that a held message has no effect until its row runs again is the choice of the model: log entry 155). When the
response has been written, the master owns the module with that session, its lease running from the decision, and TB_NONCE
fresh. An accepted HAND ends the session and pends ownership for its successor for 10 s. The lease and the 10 s, while no
decided CLAIM reserves the module, and the loss of the Secure state leave ownership vacant with no session. Keys over a
secured session make the stream Secure. (R404, R416, R418, R419, R420, R421, R422, R424) -/
def Obligations.OwnershipBeginsMovesAndEnds : Prop :=
  (∀ (s u : State) (x : Crit) (k : CritCall) (b : List Byte), s.critCall x 0x60 = some k →
    u = (if k.seq.isNone then s.reachedBy k.m else s) →
    u.critGate k true = none → (k.seq = none → u.readyKey 2 = true) →
    (k.seq.isSome = true → k.u 16 8 % 64 = 0 ∧ u.rangeBad (k.u 16 8) 1024 = false) →
    u.critReadFail k (k.u 16 8) 512 = none → b = u.critBlock k (k.u 16 8) 512 → claimForm b = true → u.claimWins k.m = true →
    ∃ t, exec (.claim x) s = .next t ∧ t.tb.own = s.tb.own ∧
      (if u.claimValid k.m b = true then
        (∃ p, t.tb.claim = some p ∧ p.master = k.m ∧ p.seq = k.seq ∧ (p.response, p.key) = claimResponse b s.tb.draws) ∧
          ∀ q, k.seq = some q → ∃ d, t.cmd q = some d ∧ d.stage = .running
      else t.CritRefused k ∧ t.tb = { s.tb with claimHeld := s.tb.claimHeld.filter fun p => p.1 != k.m })) ∧
  (∀ (s u : State) (x : Crit) (k : CritCall), s.critCall x 0x60 = some k → k.seq = none → u = s.reachedBy k.m →
    u.critGate k true = none → s.readyKey 2 = false →
    ∃ t, exec (.claim x) s = .next t ∧
      (if s.failedKey 2 = true ∨ s.claimSince k.m + s.holdMs * 1000000 < s.now then
        OutMsg.critical k.m (critRecord .notReadyTimeout (k.u 0 1) 0) [] ∈ t.out ∧
          t.tb = { s.tb with claimHeld := s.tb.claimHeld.filter fun p => p.1 != k.m }
      else t.out = s.out ∧ t.claimSince k.m = s.claimSince k.m ∧ (k.m, s.claimSince k.m) ∈ t.tb.claimHeld ∧ t.tb.own = s.tb.own ∧
        t.tb.claim = s.tb.claim)) ∧
  (∀ (s : State) (p : ClaimPending), s.Inv → s.tb.claim = some p → (p.seq.isSome = true → s.rdFail (p.addr + 512) 512 = none) →
    (∀ q, p.seq = some q → (s.cmd q).isSome = true) →
    (∀ i < p.response.length, isHost (p.addr + 512 + i) = isHost (p.addr + 512)) →
    ∃ t, exec (.claimResponseWriteEnd true) s = .next t ∧ t.owner = some p.master ∧
      t.tb.session = some { master := p.master, key := p.key, counter := none } ∧ t.tb.leaseFrom = p.decidedAt ∧
      t.tb.claim = none ∧ t.tb.nonceDraw = s.tb.draws ∧
      (∀ q, p.seq = some q → (∃ d, t.cmd q = some d ∧ d.stage = .delivered) ∧
        ∀ i, ∀ h : i < p.response.length, t.rdByte (p.addr + 512 + i) = p.response[i]) ∧
      (p.seq = none → OutMsg.critical p.master (critRecord .ok 0x60 0) p.response ∈ t.out)) ∧
  (∀ (s u : State) (x : Crit) (k : CritCall) (m : Master), s.critCall x 0x61 = some k →
    u = (if k.seq.isNone then s.reachedBy k.m else s) →
    u.critGate k false = none → m = masterOf (k.u 16 1) →
    ¬ (m = .debug ∧ s.tb.debugUnlocked = false) → ¬ (m = .host ∧ s.ideLacking = true) →
    ∃ t, exec (.hand x) s = .next t ∧ t.CritDone k ∧ t.tb.session = none ∧ t.tb.own = .handover m (s.now + 10000000000)) ∧
  (∀ (s : State) (m : Master), s.tb.own = .owned m → s.tb.claim = none → s.leaseEnd < s.now →
    ∃ t, exec .leaseExpiry s = .next t ∧ t.tb.own = .vacant ∧ t.tb.session = none) ∧
  (∀ (s : State) (m : Master) (e : Nat), s.tb.own = .handover m e → s.tb.claim = none → e < s.now →
    ∃ t, exec .handoverExpiry s = .next t ∧ t.tb.own = .vacant ∧ t.tb.session = none) ∧
  (∀ s : State, ∃ t, exec .ideSecureExit s = .next t ∧ t.tb.ideActive = false ∧
    (s.tb.ideActive = true → s.owns .host = true → t.tb.own = .vacant ∧ t.tb.session = none)) ∧
  (∀ (s : State) (keys : List Byte), s.tb.spdmDoe.secured = true →
    ∃ t, exec (.ideKmMessage keys) s = .next t ∧ t.tb.ideActive = true ∧ t.tb.ideKeys = keys)

/-- A critical command that was accepted, by a ring or as a message, completes with OK: LEAS as a message renews the lease
and raises the counter; QOVR sets the ring's quota; PLIM sets the limits it names; DBGU with a good token unlocks the
debug port with its scope and a fresh nonce, with another is refused with AUTH_FAIL, and with address zero locks it and
ends its ownership; SANI clears the scopes that it names. A message from a master without the session is answered
NOT_OWNER and changes nothing of the Trust Block. (R24, R28, R316, R335, R337, R422, R426, R428) -/
def Obligations.AcceptedCriticalCommandsTakeEffect : Prop :=
  (∀ (s u : State) (x : Crit) (k : CritCall), s.critCall x 0x62 = some k → u = (if k.seq.isNone then s.reachedBy k.m else s) →
    u.critGate k false = none →
    ∃ t, exec (.leas x) s = .next t ∧ t.CritDone k ∧ t.tb.own = s.tb.own ∧
      (k.seq = none → t.tb.leaseFrom = s.now ∧ ∃ e, t.tb.session = some e ∧ e.counter = some (leNat (k.slot.drop 56)))) ∧
  (∀ (s u : State) (x : Crit) (k : CritCall), s.Inv → s.critCall x 0x65 = some k →
    u = (if k.seq.isNone then s.reachedBy k.m else s) →
    u.critGate k false = none →
    ∃ t, exec (.qovr x) s = .next t ∧ t.CritDone k ∧
      Tab.get (fun _ => 4) t.hg.quota (k.u 16 1) = if k.u 17 1 = 0 then 4 else k.u 17 1) ∧
  (∀ (s u : State) (x : Crit) (k : CritCall), s.critCall x 0x66 = some k → u = (if k.seq.isNone then s.reachedBy k.m else s) →
    u.critGate k false = none →
    ∃ t, exec (.plim x) s = .next t ∧ t.CritDone k ∧
      t.ld.inputLimit = (if k.u 16 2 = 0 then s.ld.inputLimit else k.u 16 2) ∧
      t.ld.cap = if k.u 18 2 = 0 then s.ld.cap else k.u 18 2) ∧
  (∀ (s u : State) (x : Crit) (k : CritCall) (b : List Byte), s.critCall x 0x67 = some k →
    u = (if k.seq.isNone then s.reachedBy k.m else s) →
    u.critGate k false = none → k.isLock = false →
    (k.seq.isSome = true → u.rangeBad (k.u 16 8) 512 = false) → u.critReadFail k (k.u 16 8) 512 = none →
    b = u.critBlock k (k.u 16 8) 512 →
    ∃ t, exec (.dbgu x) s = .next t ∧
      (if u.tokenGood b = true then t.CritDone k ∧ t.tb.debugUnlocked = true ∧ t.tb.debugScope = leNat ((b.drop 4).take 4) ∧
        t.tb.nonceDraw = s.tb.draws
      else t.CritRefused k ∧ t.tb.debugUnlocked = s.tb.debugUnlocked)) ∧
  (∀ (s u : State) (x : Crit) (k : CritCall), s.critCall x 0x67 = some k → u = (if k.seq.isNone then s.reachedBy k.m else s) →
    u.critGate k false = none → k.isLock = true →
    ∃ t, exec (.dbguLock x) s = .next t ∧ t.CritDone k ∧ t.tb.debugUnlocked = false ∧
      t.tb.own = if s.owns .debug = true then .vacant else s.tb.own) ∧
  (∀ (s u : State) (x : Crit) (k : CritCall), s.critCall x 0x68 = some k → u = (if k.seq.isNone then s.reachedBy k.m else s) →
    u.critGate k (s.saniOpen k) = none →
    ((∀ q, x ≠ .ring q) → s.quietAll = true) →
    ∃ t, exec (.sani x) s = .next t ∧ t.CritDone k ∧
      (∀ j, t.rdByte j = if bitAt (k.u 16 4) 0 = true ∧ isHost j = false then 0 else s.rdByte j) ∧
      (bitAt (k.u 16 4) 0 = true → t.ham.entries = [] ∧ t.hg.journal = []) ∧
      t.af.tensors = (if bitAt (k.u 16 4) 1 = true then [] else s.af.tensors) ∧
      (bitAt (k.u 16 4) 2 = true → t.im.slot0.valid = false ∧ t.im.slot1.valid = false) ∧
      t.tb.own = if bitAt (k.u 16 4) 3 = true then .vacant else s.tb.own) ∧
  (∀ (s : State) (sl ex : List Byte), s.writesLand = true → s.tb.boot ≠ 2 → (∀ e, s.tb.session = some e → e.master ≠ .bmc) →
    ∀ c ∈ [(0x61, Instr.hand (.mctp sl ex)), (0x62, .leas (.mctp sl ex)), (0x65, .qovr (.mctp sl ex)),
      (0x66, .plim (.mctp sl ex)), (0x67, .dbgu (.mctp sl ex)), (0x67, .dbguLock (.mctp sl ex))], (sl.getD 0 0).toNat = c.1 →
    ∃ t, exec c.2 s = .next t ∧ t.tb = s.tb ∧ t.out = s.out ++ [.inBand, .critical .bmc (critRecord .notOwner c.1 0) []])

/-- FWLD from a host ring in boot state 1 of a host image starts its verification in state 2; as a message it is turned
away. The end of the verification leads to state 3 with the image's digest and version, or back to state 1 with the failed
check, the command failed or refused. CFGC of a certificate in state 1 with none in force puts a good one in force and
refuses another; of a good spare map, with none applied and no tensor resident, applies it. (R305, R405, R406, R408, R409,
R412) -/
def Obligations.FirmwareAndCertificatesAreLoaded : Prop :=
  (∀ (s : State) (q : Nat) (c : Cmd), s.runnable q 0x63 = some c → s.tb.boot = 1 → isHost (c.u 16 8) = true →
    ∃ t, exec (.fwld (.ring q)) s = .next t ∧ t.tb.boot = 2 ∧ t.tb.fw = some (s.verifyImage q (c.u 16 8) (c.u 24 8)) ∧
      ∃ d, t.cmd q = some d ∧ d.stage = .running) ∧
  (∀ (s u : State) (x : Crit) (k : CritCall), k.seq = none → s.critCall x 0x63 = some k →
    u = (if k.seq.isNone then s.reachedBy k.m else s) →
    u.critGate k true = none →
    ∃ t, exec (.fwld x) s = .next t ∧ t.tb = s.tb ∧
      OutMsg.critical k.m (critRecord (if s.owns k.m = true then .badDescriptor else .notOwner) (k.u 0 1) 0) [] ∈ t.out) ∧
  (∀ (s : State) (p : FwPending), s.tb.fw = some p → (s.cmd p.seq).isSome = true →
    ∃ t, exec .firmwareVerifyEnd s = .next t ∧ t.tb.fw = none ∧
      (match p.failing with
        | none => t.tb.boot = 3 ∧ t.tb.lastFwld = 1 ∧ t.tb.fwDigest = p.digest ∧ t.tb.svn = p.svn ∧ t.tb.fwWaiting = some p.seq
        | some n => t.tb.boot = 1 ∧ t.tb.lastFwld = (if n = 1 then 6 else n) ∧
          ∃ d, t.cmd p.seq = some d ∧ d.stage = if n = 1 then .failed else .refused)) ∧
  (∀ (s : State) (q a : Nat) (c : Cmd), s.runnable q 0x64 = some c → c.u 28 1 = 0 → a = c.u 16 8 → s.tb.boot = 1 →
    s.tb.cert = none → a % 64 = 0 → s.rangeBad a 1024 = false → c.u 24 4 = 1024 → s.rdFail a 1024 = none →
    ∃ t d, exec (.cfgcCertificate (.ring q)) s = .next t ∧ t.cmd q = some d ∧
      (if certGood (s.rd a 1024) = true then t.tb.cert = some (s.rd a 1024) ∧ d.stage = .delivered
      else t.tb.cert = none ∧ d.stage = .refused ∧ d.conds = [.authFail])) ∧
  (∀ (s u : State) (x : Crit) (k : CritCall) (n : Nat) (l : List (Nat × Nat)), s.critCall x 0x64 = some k →
    u = (if k.seq.isNone then s.reachedBy k.m else s) →
    u.critGate k false = none →
    k.u 28 1 = 1 → n = k.u 24 4 → 1 ≤ n → n ≤ 1280 →
    (k.seq.isSome = true → u.rangeBad (k.u 16 8) (8 * n) = false) → s.af.tensors = [] → s.im.spareMap = [] →
    u.critReadFail k (k.u 16 8) (8 * n) = none → l = mapEntries n (u.critBlock k (k.u 16 8) (8 * n)) →
    l.all entryGood = true → mapDistinct l = true →
    ∃ t, exec (.cfgcSpareMap x) s = .next t ∧ t.CritDone k ∧ t.im.spareMap = l ∧ t.tb.own = s.tb.own)

/-- A request of each kind, with its version byte, of sufficient length, in a boot state that serves it and in its place
in the connection, is answered by one response with its code, and the connection moves on: version, capabilities and
algorithms agreed, the handshake begun by KEY_EXCHANGE and completed by a FINISH whose verify data is right, ended by
END_SESSION. Certificates come from the chain, measurements from the digests of Table 15.7. The field values are those of
DSP0274 (log entry 9). (R413, R414) -/
def Obligations.SpdmAnswersEachRequest : Prop :=
  ∀ (s : State) (p : SpdmPath) (r : List Byte) (early : Bool), early = (s.tb.boot == 3 || s.tb.boot == 1) →
    (reqByte r 1 = 0x84 → reqByte r 0 = 0x10 → 4 ≤ r.length → early = true →
      ∃ t, exec (.spdmGetVersion p r) s = .next t ∧
        t.out = s.out ++ (OutMsg.spdm p (spdmHead 0x10 0x04 0 0 ++ [0, 1] ++ natLe 2 0x1200)).sent ∧
        (t.conn p).versionDone = true ∧ (t.conn p).capsDone = false ∧ (t.conn p).secured = false) ∧
    (reqByte r 0 = 0x12 →
      (reqByte r 1 = 0xE1 → 20 ≤ r.length → early = true → (s.conn p).versionDone = true → (s.conn p).capsDone = false →
        ∃ t a b, exec (.spdmGetCapabilities p r) s = .next t ∧ (t.conn p).capsDone = true ∧ a.length = 1 ∧ b.length = 8 ∧
          t.out = s.out ++ (OutMsg.spdm p (spdmHead 0x12 0x61 0 0 ++ [0] ++ a ++ [0, 0] ++ natLe 4 spdmCaps ++ b)).sent) ∧
      (reqByte r 1 = 0xE3 → 32 ≤ r.length → early = true → (s.conn p).capsDone = true → (s.conn p).algsDone = false →
        ∃ t rsp, exec (.spdmNegotiateAlgorithms p r) s = .next t ∧ (t.conn p).algsDone = true ∧
          t.out = s.out ++ (OutMsg.spdm p rsp).sent ∧
          rsp.take 4 = spdmHead 0x12 0x63 (reqByte r 2) 0) ∧
      (reqByte r 1 = 0x81 → 4 ≤ r.length → early = true → (s.conn p).algsDone = true →
        ∃ t, exec (.spdmGetDigests p r) s = .next t ∧
          t.out = s.out ++ (OutMsg.spdm p (spdmHead 0x12 0x01 0 1 ++ chainDigest)).sent) ∧
      (∀ (o n : Nat), o = leNat ((r.drop 4).take 2) → n = min (leNat ((r.drop 6).take 2)) (chain.length - o) →
        reqByte r 1 = 0x82 → 8 ≤ r.length → early = true → (s.conn p).algsDone = true → reqByte r 2 % 16 = 0 →
        ∃ t, exec (.spdmGetCertificate p r) s = .next t ∧ t.out = s.out ++ (OutMsg.spdm p (if chain.length ≤ o then
          spdmHead 0x12 0x7F 0x01 0 else spdmHead 0x12 0x02 0 0 ++ natLe 2 n ++ natLe 2 (chain.length - o - n) ++
          (chain.drop o).take n)).sent) ∧
      (reqByte r 1 = 0x83 → 36 ≤ r.length → s.tb.boot = 3 → (s.conn p).algsDone = true → (reqByte r 2 = 0 ∨ reqByte r 2 = 0xFF) →
        ∃ t rsp, exec (.spdmChallenge p r) s = .next t ∧ t.out = s.out ++ (OutMsg.spdm p rsp).sent ∧ t.tb.draws = s.tb.draws + 2 ∧
          rsp.take 68 = spdmHead 0x12 0x03 (reqByte r 2 % 16) 1 ++ chainDigest) ∧
      (∀ l, reqByte r 1 = 0xE0 → 4 ≤ r.length → early = true → (s.conn p).algsDone = true → measureIndexes (reqByte r 3) = some l →
        (bitAt (reqByte r 2) 0 = true → 37 ≤ r.length ∧ reqByte r 36 % 16 = 0) →
        ∃ t w, exec (.spdmGetMeasurements p r) s = .next t ∧ t.out = s.out ++ (OutMsg.spdm p (spdmHead 0x12 0x60
          (if reqByte r 3 = 0 then 5 else 0) 0 ++ natLe 1 l.length ++ natLe 3 (l.flatMap s.measureBlock).length ++
          l.flatMap s.measureBlock ++ w)).sent) ∧
      (reqByte r 1 = 0xE4 → 174 ≤ r.length → s.tb.boot = 3 → (s.conn p).algsDone = true → (s.conn p).secured = false →
        (reqByte r 3 = 0 ∨ reqByte r 3 = 0xFF) → (ecPoint ((r.drop 40).take 132)).isSome = true →
        ∃ t rsp, exec (.spdmKeyExchange p r) s = .next t ∧ t.out = s.out ++ (OutMsg.spdm p rsp).sent ∧
          rsp.take 4 = spdmHead 0x12 0x64 0 0 ∧ (t.conn p).handshake = true ∧ t.tb.draws = s.tb.draws + 3) ∧
      (∀ (th : List Byte) (c : SpdmConn), c = s.conn p → th = c.keyx.take (c.keyx.length - 64) →
        reqByte r 1 = 0xE5 → 68 ≤ r.length → s.tb.boot = 3 → c.handshake = true →
        ∃ t, exec (.spdmFinish p r) s = .next t ∧ (t.conn p).handshake = false ∧
          (if (r.drop 4).take 64 = verifyData c.secret labelReq (sha512 th) (c.keyx ++ r.take 4) then
            (t.conn p).secured = true ∧ t.out = s.out ++ (OutMsg.spdm p (spdmHead 0x12 0x65 0 0)).sent
          else (t.conn p).secured = c.secured ∧ t.out = s.out ++ (OutMsg.spdm p (spdmHead 0x12 0x7F 0x06 0)).sent)) ∧
      (reqByte r 1 = 0xEC → 4 ≤ r.length → s.tb.boot = 3 → (s.conn p).secured = true →
        ∃ t, exec (.spdmEndSession p r) s = .next t ∧ (t.conn p).secured = false ∧
          t.out = s.out ++ (OutMsg.spdm p (spdmHead 0x12 0x6C 0 0)).sent))

/-- Where no access waits: SNAP, CNTR DUMP and LOGREAD write their destination and nothing else, and are delivered; DUMP
holds the counters, zero without privilege; SELECT sets the ring's codes with its slots at zero, or fails at the first
code it may not select. A Postcard request and the watchdog start a capture, whose end makes it valid. ARM with TRACE
granted starts a Logbook, on which a trigger of the same cycle acts; a manual trigger marks those with TRIGEN; a full one
stops; a record without a free slot is lost and counted, and the gap record of the count follows (the slots are the
model's choice: log entry 89). (R384, R387, R392, R394, R395, R397, R398, R399) -/
def Obligations.ObservationCapturesAndReports : Prop :=
  (∀ (s : State) (q : Nat) (c : Cmd), s.Inv → s.runnable q 0x40 = some c →
    s.heldBack [(c.u 16 8, 0x200000)] = false → s.writeFail [(c.u 16 8, 0x200000)] = none →
    ∃ t, exec (.snap q) s = .next t ∧ (∀ j, outside [(c.u 16 8, 0x200000)] j → t.rdByte j = s.rdByte j) ∧
      ∃ d, t.cmd q = some d ∧ d.stage = .delivered) ∧
  (∀ (s : State) (q : Nat) (c : Cmd) (codes : List Nat) (bad : Nat → Prop), s.Inv → s.cntr q 0 = some c →
    codes = (List.range 16).map (fun i => c.u8 (32 + i)) →
    (∀ i, bad i ↔ i < 16 ∧ (listedCode (codes.getD i 0) = false ∨ (classU (codes.getD i 0) = true ∧ bitAt s.permit 1 = false))) →
    (∀ i, bad i → (∀ j < i, ¬ bad j) →
      ∃ t, exec (.cntrSelect q) s = .next t ∧ ∃ d, t.cmd q = some d ∧ d.stage = .failed ∧ d.detail = 32 + i) ∧
    ((∀ i, ¬ bad i) →
      ∃ t, exec (.cntrSelect q) s = .next t ∧ (t.ring c.ring).codes = codes ∧ (t.ring c.ring).slots = List.replicate 16 0 ∧
        ∃ d, t.cmd q = some d ∧ d.stage = .delivered)) ∧
  (∀ (s : State) (q : Nat) (c : Cmd), s.Inv → s.cntr q 1 = some c → s.heldBack [(c.u 24 8, 2048)] = false →
    s.writeFail [(c.u 24 8, 2048)] = none →
    (∀ i < 2048, isHost (c.u 24 8 + i) = isHost (c.u 24 8)) →
    ∃ t, exec (.cntrDump q) s = .next t ∧ (∀ j, outside [(c.u 24 8, 2048)] j → t.rdByte j = s.rdByte j) ∧
      t.rd (c.u 24 8) 2048 = ((List.range 256).flatMap fun e => natLe 8 (if s.privileged .host = true then s.ctr (evtTotal e) else 0)) ∧
      ∃ d, t.cmd q = some d ∧ d.stage = .delivered) ∧
  (∀ (s : State) (q : Nat) (c : Cmd), s.Inv → s.cntr q 2 = some c → s.heldBack [(c.u 24 8, 4096 + 48 * 2 ^ 20)] = false →
    s.writeFail [(c.u 24 8, 4096 + 48 * 2 ^ 20)] = none →
    ∃ t, exec (.cntrLogread q) s = .next t ∧ (∀ j, outside [(c.u 24 8, 4096 + 48 * 2 ^ 20)] j → t.rdByte j = s.rdByte j) ∧
      ∃ d, t.cmd q = some d ∧ d.stage = .delivered) ∧
  (∀ (s : State) (m : Master) (v : W32), bitAt v.toNat 0 = true → s.regLands m = true → s.im.slot1.busy = false →
    ∃ t, exec (.postcardRequest m v) s = .next t ∧ t.im.slot1.busy = true ∧ t.im.slot1.valid = false ∧ t.im.slot1.cause = 5 ∧
      t.im.slot1.started = s.now) ∧
  (∀ (s : State) (k : Fin 2), (s.pcard k.val).busy = true →
    ∃ t, exec (.postcardCaptureEnd k) s = .next t ∧ (t.pcard k.val).busy = false ∧ (t.pcard k.val).valid = true ∧
      (t.pcard k.val).captures = (s.pcard k.val).captures + 1) ∧
  (∀ (s : State) (m : Master) (u : Fin 5) (v : W32), s.Inv → s.owns m = true → s.regLands m = true → bitAt v.toNat 31 = true →
    ∃ t, exec (.logbookArm m u v) s = .next t ∧ t.reg (rLogCfg u.val) = v.toNat &&& 0x707F01FF ∧
      (if bitAt s.permit 2 = true then
        ((∀ p ∈ (s.log u.val).trigs, p.1 ≠ s.now) → (t.log u.val).state = 1 ∧ (t.log u.val).records = [] ∧
          (t.log u.val).triggered = false ∧ (t.log u.val).mode = (if bitsOf v.toNat 29 2 = 3 then 0 else bitsOf v.toNat 29 2)) ∧
        ((∃ p ∈ (s.log u.val).trigs, p.1 = s.now) → (t.log u.val).triggered = true)
      else t.log u.val = s.log u.val)) ∧
  (∀ (s : State) (m : Master) (v : W32) (u : Nat), s.Inv → s.owns m = true → s.regLands m = true → bitAt v.toNat 0 = true → u < 5 →
    ∃ t, exec (.logbookManualTrigger m v) s = .next t ∧
      (s.fld (rLogCfg u) 28 1 = 1 → ((s.log u).state = 1 ∨ (s.log u).state = 2) → (t.log u).triggered = true) ∧
      (s.fld (rLogCfg u) 28 1 = 0 → t.log u = s.log u)) ∧
  (∀ (s : State) (u : Fin 5), s.Inv → ((s.log u.val).state = 1 ∨ (s.log u.val).state = 2) →
    (s.log u.val).full (logSize u.val) = true →
    ∃ t, exec (.logbookCaptureFull u) s = .next t ∧ (t.log u.val).state = 3 ∧ (t.log u.val).records = (s.log u.val).records) ∧
  (∀ (l : Logbook) (u now : Nat) (r : List Byte), l.pendingLoss = 0 → l.full (logSize u) = false →
    (now / 2 + captureSlots ≤ l.nextSlot → (l.record u now r).lost = l.lost + 1 ∧ (l.record u now r).records = l.records ∧
      (l.record u now r).pendingLoss = 1 ∧ (l.record u now r).firstLost = now) ∧
    (l.nextSlot < now / 2 + captureSlots → (l.record u now r).lost = l.lost ∧
      (l.record u now r).records = (r :: l.records).take (logSize u))) ∧
  (∀ (l : Logbook) (u k : Nat), 0 < l.pendingLoss → (l.state = 1 ∨ l.state = 2) → l.full (logSize u) = false → l.lossSlot + 2 ≤ k →
    (l.settle u k).pendingLoss = 0 ∧ (l.settle u k).records =
      (logBytes (2 * (l.lossSlot + 2)) (logCoord u) 0xFF 0xFFFF l.firstLost l.pendingLoss :: l.records).take (logSize u)) ∧
  (∀ s : State, s.watchMs ≠ 0 → s.im.watchArmed = true → s.undelivered = true →
    s.im.lastDelivery + s.watchMs * 1000000 < s.now →
    ∃ t, exec .watchdogExpiry s = .next t ∧ t.im.watchFired = true ∧ t.im.watchArmed = false ∧ t.im.slot0.busy = true ∧
      (s.im.slot0.busy = false → t.im.slot0.cause = 4 ∧ t.im.slot0.started = s.now))
end

