-- ==== Sys2Proof/Laws/Tab.lean ====
section
/-!
SUPPORT. The sparse tables: reading after writing, writes keep the canonical form, and two canonical tables that read alike
are the same table.
-/
namespace Sys2Proof.Machine

variable {α : Type}

/-- Keys that rise from `lo` also rise from any lower bound. -/
theorem Tab.rising_mono {lo lo' : Nat} (h : lo' ≤ lo) : ∀ {t : Tab α}, Tab.rising lo t = true → Tab.rising lo' t = true
  | [], _ => rfl
  | (k, v) :: t, ht => by
    simp only [Tab.rising, Bool.and_eq_true, decide_eq_true_eq] at ht ⊢
    exact ⟨Nat.le_trans h ht.1, ht.2⟩

/-- A key below every listed key reads as its default. -/
theorem Tab.get_of_lt {d : Nat → α} {k : Nat} : ∀ {t : Tab α} {lo : Nat}, Tab.rising lo t = true → k < lo → Tab.get d t k = d k
  | [], _, _, _ => rfl
  | (k', v) :: t, lo, ht, hk => by
    simp only [Tab.rising, Bool.and_eq_true, decide_eq_true_eq] at ht
    have hne : k' ≠ k := by omega
    simp only [Tab.get, hne, if_false]
    exact Tab.get_of_lt ht.2 (by omega)

/-- `put` keeps keys rising. -/
theorem Tab.rising_put {keep : Bool} {k : Nat} {v : α} :
    ∀ {t : Tab α} {lo : Nat}, lo ≤ k → Tab.rising lo t = true → Tab.rising lo (Tab.put keep k v t) = true
  | [], lo, hk, _ => by cases keep <;> simp [Tab.put, Tab.rising, hk]
  | (k', v') :: t, lo, hk, ht => by
    simp only [Tab.rising, Bool.and_eq_true, decide_eq_true_eq] at ht
    simp only [Tab.put]
    split
    · simp only [Tab.rising, Bool.and_eq_true, decide_eq_true_eq]
      exact ⟨ht.1, Tab.rising_put (by omega) ht.2⟩
    · split
      · rename_i hk'
        subst hk'
        cases keep
        · exact Tab.rising_mono (by omega) ht.2
        · simpa [Tab.rising, hk] using ht.2
      · cases keep
        · simpa [Tab.rising, ht.1] using ht.2
        · simp only [if_true, Tab.rising, Bool.and_eq_true, decide_eq_true_eq]
          exact ⟨hk, by omega, ht.2⟩

/-- Reading after `put` in a rising table. -/
theorem Tab.get_put {d : Nat → α} {keep : Bool} {k j : Nat} {v : α} (hv : keep = false → v = d k) :
    ∀ {t : Tab α} {lo : Nat}, Tab.rising lo t = true →
      Tab.get d (Tab.put keep k v t) j = if j = k then v else Tab.get d t j
  | [], _, _ => by
    cases keep
    · by_cases h : j = k
      · subst h; simp [Tab.put, Tab.get, hv rfl]
      · simp [Tab.put, Tab.get, h]
    · by_cases h : j = k
      · subst h; simp [Tab.put, Tab.get]
      · simp [Tab.put, Tab.get, h, Ne.symm h]
  | (k', v') :: t, lo, ht => by
    simp only [Tab.rising, Bool.and_eq_true, decide_eq_true_eq] at ht
    simp only [Tab.put]
    split
    · rename_i hlt
      simp only [Tab.get, Tab.get_put hv ht.2]
      by_cases h : k' = j
      · have : j ≠ k := by omega
        simp [h, this]
      · simp [h]
    · split
      · rename_i hk'
        subst hk'
        cases keep
        · by_cases h : j = k'
          · subst h
            simp [Tab.get_of_lt ht.2 (Nat.lt_succ_self _), hv rfl]
          · simp [h, Tab.get, Ne.symm h]
        · by_cases h : j = k'
          · subst h; simp [Tab.get]
          · simp [Tab.get, h, Ne.symm h]
      · rename_i hge hne
        cases keep
        · by_cases h : j = k
          · subst h
            have h1 : k' ≠ j := hne
            simp [Tab.get, h1, Tab.get_of_lt ht.2 (by omega : j < k' + 1), hv rfl]
          · simp [h]
        · by_cases h : j = k
          · subst h; simp [Tab.get]
          · simp [Tab.get, h, Ne.symm h]

variable [DecidableEq α]

/-- `put` of a value that is not the default, or of nothing, lists no default. -/
theorem Tab.noDefault_put {d : Nat → α} {keep : Bool} {k : Nat} {v : α} (hv : keep = true → v ≠ d k) :
    ∀ {t : Tab α}, Tab.noDefault d t = true → Tab.noDefault d (Tab.put keep k v t) = true
  | [], _ => by
    cases keep
    · rfl
    · simp [Tab.put, Tab.noDefault, hv rfl]
  | (k', v') :: t, ht => by
    simp only [Tab.noDefault, Bool.and_eq_true, decide_eq_true_eq] at ht
    have ih := Tab.noDefault_put hv ht.2
    simp only [Tab.put]
    split
    · simp [Tab.noDefault, ht.1, ih]
    · split
      · cases keep
        · exact ht.2
        · simp [Tab.noDefault, hv rfl, ht.2]
      · cases keep
        · simp [Tab.noDefault, ht.1, ht.2]
        · simp [Tab.noDefault, hv rfl, ht.1, ht.2]

/-- A write keeps the canonical form. -/
theorem Tab.set_wf {d : Nat → α} {t : Tab α} (h : Tab.wf d t = true) (k : Nat) (v : α) : Tab.wf d (Tab.set d t k v) = true := by
  simp only [Tab.wf, Bool.and_eq_true] at h ⊢
  exact ⟨Tab.rising_put (Nat.zero_le _) h.1, Tab.noDefault_put (by simp) h.2⟩

/-- Reading after a write. -/
theorem Tab.get_set {d : Nat → α} {t : Tab α} (h : Tab.wf d t = true) (k j : Nat) (v : α) :
    Tab.get d (Tab.set d t k v) j = if j = k then v else Tab.get d t j := by
  simp only [Tab.wf, Bool.and_eq_true] at h
  exact Tab.get_put (by simp) h.1

/-- The written key reads as written. -/
theorem Tab.get_set_same {d : Nat → α} {t : Tab α} (h : Tab.wf d t = true) (k : Nat) (v : α) :
    Tab.get d (Tab.set d t k v) k = v := by simp [Tab.get_set h]

/-- Every other key reads as before. -/
theorem Tab.get_set_ne {d : Nat → α} {t : Tab α} (h : Tab.wf d t = true) {k j : Nat} (hj : j ≠ k) (v : α) :
    Tab.get d (Tab.set d t k v) j = Tab.get d t j := by simp [Tab.get_set h, hj]

/-- A write keeps the keys in order. -/
theorem Tab.rising_set {d : Nat → α} {t : Tab α} (h : Tab.rising 0 t = true) (k : Nat) (v : α) :
    Tab.rising 0 (Tab.set d t k v) = true := Tab.rising_put (Nat.zero_le _) h

theorem Tab.rising_upd {d : Nat → α} {t : Tab α} (h : Tab.rising 0 t = true) (k : Nat) (f : α → α) :
    Tab.rising 0 (Tab.upd d t k f) = true := Tab.rising_set h k _

/-- Every key reads as before but the one written, which reads as the value written. -/
theorem Tab.get_set_of_rising {d : Nat → α} {t : Tab α} (h : Tab.rising 0 t = true) (k j : Nat) (v : α) :
    Tab.get d (Tab.set d t k v) j = if j = k then v else Tab.get d t j := Tab.get_put (by simp) h

/-- The empty table is canonical. -/
@[simp] theorem Tab.wf_nil (d : Nat → α) : Tab.wf d ([] : Tab α) = true := rfl

omit [DecidableEq α] in
/-- Dropping entries keeps keys rising. -/
theorem Tab.rising_filter (p : Nat × α → Bool) : ∀ {t : Tab α} {lo : Nat}, Tab.rising lo t = true → Tab.rising lo (t.filter p) = true
  | [], _, _ => rfl
  | (k, v) :: t, lo, ht => by
    simp only [Tab.rising, Bool.and_eq_true, decide_eq_true_eq] at ht
    simp only [List.filter]
    split
    · simp only [Tab.rising, Bool.and_eq_true, decide_eq_true_eq]
      exact ⟨ht.1, Tab.rising_filter p ht.2⟩
    · exact Tab.rising_mono (by omega) (Tab.rising_filter p ht.2)

/-- Dropping entries lists no default. -/
theorem Tab.noDefault_filter (p : Nat × α → Bool) {d : Nat → α} :
    ∀ {t : Tab α}, Tab.noDefault d t = true → Tab.noDefault d (t.filter p) = true
  | [], _ => rfl
  | (k, v) :: t, ht => by
    simp only [Tab.noDefault, Bool.and_eq_true, decide_eq_true_eq] at ht
    simp only [List.filter]
    split
    · simp [Tab.noDefault, ht.1, Tab.noDefault_filter p ht.2]
    · exact Tab.noDefault_filter p ht.2

/-- Dropping entries keeps the canonical form. -/
theorem Tab.filter_wf (p : Nat × α → Bool) {d : Nat → α} {t : Tab α} (h : Tab.wf d t = true) : Tab.wf d (t.filter p) = true := by
  simp only [Tab.wf, Bool.and_eq_true] at h ⊢
  exact ⟨Tab.rising_filter p h.1, Tab.noDefault_filter p h.2⟩

omit [DecidableEq α] in
/-- An entry after a write is the written one or was there before. -/
theorem Tab.mem_put {keep : Bool} {k : Nat} {v : α} {x : Nat × α} :
    ∀ {t : Tab α}, x ∈ Tab.put keep k v t → (x = (k, v) ∧ keep = true) ∨ x ∈ t
  | [], h => by
    cases keep
    · simp [Tab.put] at h
    · simp only [Tab.put, if_true, List.mem_singleton] at h
      exact .inl ⟨h, rfl⟩
  | (k', v') :: t, h => by
    simp only [Tab.put] at h
    split at h
    · rcases List.mem_cons.mp h with rfl | h
      · exact .inr (by simp)
      · exact (Tab.mem_put h).imp id (List.mem_cons_of_mem _)
    · split at h
      · cases keep
        · exact .inr (List.mem_cons_of_mem _ h)
        · rcases List.mem_cons.mp h with rfl | h
          · exact .inl ⟨rfl, rfl⟩
          · exact .inr (List.mem_cons_of_mem _ h)
      · cases keep
        · exact .inr h
        · rcases List.mem_cons.mp h with rfl | h
          · exact .inl ⟨rfl, rfl⟩
          · exact .inr h

omit [DecidableEq α] in
/-- Changing values alone keeps the keys in order. -/
theorem Tab.rising_map {β : Type} (g : Nat × α → β) :
    ∀ {t : Tab α} {lo : Nat}, Tab.rising lo (t.map fun p => (p.1, g p)) = Tab.rising lo t
  | [], _ => rfl
  | (k, v) :: t, lo => by simp only [List.map, Tab.rising, Tab.rising_map g]

omit [DecidableEq α] in
/-- The same, for a change of some values. -/
theorem Tab.rising_map_ite (c : Nat × α → Prop) [DecidablePred c] (g : Nat × α → α) :
    ∀ {t : Tab α} {lo : Nat}, Tab.rising lo (t.map fun p => if c p then (p.1, g p) else p) = Tab.rising lo t
  | [], _ => rfl
  | (k, v) :: t, lo => by
    simp only [List.map]
    split <;> simp only [Tab.rising, Tab.rising_map_ite c g]

/-- Many changes keep the keys in order. -/
theorem Tab.rising_foldl_upd {β : Type} {d : Nat → α} (k : β → Nat) (f : β → α → α) (l : List β) {t : Tab α}
    (h : Tab.rising 0 t = true) : Tab.rising 0 (l.foldl (fun t x => Tab.upd d t (k x) (f x)) t) = true := by
  induction l generalizing t with
  | nil => exact h
  | cons x xs ih => exact ih (Tab.rising_upd h _ _)

/-- Many writes keep the keys in order. -/
theorem Tab.rising_foldl_set {β : Type} {d : Nat → α} (k : β → Nat) (f : β → α) (l : List β) {t : Tab α}
    (h : Tab.rising 0 t = true) : Tab.rising 0 (l.foldl (fun t x => Tab.set d t (k x) (f x)) t) = true := by
  induction l generalizing t with
  | nil => exact h
  | cons x xs ih => exact ih (Tab.rising_set h _ _)

omit [DecidableEq α] in
/-- A choice between tables in order. -/
theorem Tab.rising_ite {c : Prop} [Decidable c] {t u : Tab α} {lo : Nat} (ht : Tab.rising lo t = true)
    (hu : Tab.rising lo u = true) : Tab.rising lo (if c then t else u) = true := by
  split <;> assumption

omit [DecidableEq α] in
theorem Tab.rising_nil (lo : Nat) : Tab.rising lo ([] : Tab α) = true := rfl

end Sys2Proof.Machine
end

