-- ==== Sys2Proof/Laws/State.lean ====
section
/-!
SUPPORT. The small lemmas of the state's updates: for each update and each field it does not touch, that the field is as before
(true by unfolding, for the simplifier), and that what was written is read back.
-/
namespace Sys2Proof.Machine

open Sys2Proof

set_option Elab.async false

@[simp] theorem State.bump_pending (s : State) (off n : Nat) : (s.bump off n).pending = s.pending := rfl
@[simp] theorem State.bump_ms (s : State) (off n : Nat) : (s.bump off n).ms = s.ms := rfl
@[simp] theorem State.bump_hg (s : State) (off n : Nat) : (s.bump off n).hg = s.hg := rfl
@[simp] theorem State.bump_mv (s : State) (off n : Nat) : (s.bump off n).mv = s.mv := rfl
@[simp] theorem State.bump_ham (s : State) (off n : Nat) : (s.bump off n).ham = s.ham := rfl
@[simp] theorem State.bump_ld (s : State) (off n : Nat) : (s.bump off n).ld = s.ld := rfl
@[simp] theorem State.bump_tb (s : State) (off n : Nat) : (s.bump off n).tb = s.tb := rfl
@[simp] theorem State.bump_irq (s : State) (off n : Nat) : (s.bump off n).irq = s.irq := rfl
@[simp] theorem State.bump_pcie (s : State) (off n : Nat) : (s.bump off n).pcie = s.pcie := rfl
@[simp] theorem State.bump_im (s : State) (off n : Nat) : (s.bump off n).im = s.im := rfl
@[simp] theorem State.bump_mc (s : State) (off n : Nat) : (s.bump off n).mc = s.mc := rfl
@[simp] theorem State.bump_af (s : State) (off n : Nat) : (s.bump off n).af = s.af := rfl
@[simp] theorem State.bump_uk (s : State) (off n : Nat) : (s.bump off n).uk = s.uk := rfl
@[simp] theorem State.bump_xe (s : State) (off n : Nat) : (s.bump off n).xe = s.xe := rfl
@[simp] theorem State.bump_fab (s : State) (off n : Nat) : (s.bump off n).fab = s.fab := rfl
@[simp] theorem State.bump_regs (s : State) (off n : Nat) : (s.bump off n).regs = s.regs := rfl
@[simp] theorem State.bump_latches (s : State) (off n : Nat) : (s.bump off n).latches = s.latches := rfl
@[simp] theorem State.bump_free (s : State) (off n : Nat) : (s.bump off n).free = s.free := rfl
@[simp] theorem State.bump_out (s : State) (off n : Nat) : (s.bump off n).out = s.out := rfl

@[simp] theorem State.setReg_pending (s : State) (off v : Nat) : (s.setReg off v).pending = s.pending := rfl
@[simp] theorem State.setReg_ms (s : State) (off v : Nat) : (s.setReg off v).ms = s.ms := rfl
@[simp] theorem State.setReg_hg (s : State) (off v : Nat) : (s.setReg off v).hg = s.hg := rfl
@[simp] theorem State.setReg_mv (s : State) (off v : Nat) : (s.setReg off v).mv = s.mv := rfl
@[simp] theorem State.setReg_ham (s : State) (off v : Nat) : (s.setReg off v).ham = s.ham := rfl
@[simp] theorem State.setReg_ld (s : State) (off v : Nat) : (s.setReg off v).ld = s.ld := rfl
@[simp] theorem State.setReg_tb (s : State) (off v : Nat) : (s.setReg off v).tb = s.tb := rfl
@[simp] theorem State.setReg_irq (s : State) (off v : Nat) : (s.setReg off v).irq = s.irq := rfl
@[simp] theorem State.setReg_pcie (s : State) (off v : Nat) : (s.setReg off v).pcie = s.pcie := rfl
@[simp] theorem State.setReg_im (s : State) (off v : Nat) : (s.setReg off v).im = s.im := rfl
@[simp] theorem State.setReg_mc (s : State) (off v : Nat) : (s.setReg off v).mc = s.mc := rfl
@[simp] theorem State.setReg_af (s : State) (off v : Nat) : (s.setReg off v).af = s.af := rfl
@[simp] theorem State.setReg_uk (s : State) (off v : Nat) : (s.setReg off v).uk = s.uk := rfl
@[simp] theorem State.setReg_xe (s : State) (off v : Nat) : (s.setReg off v).xe = s.xe := rfl
@[simp] theorem State.setReg_fab (s : State) (off v : Nat) : (s.setReg off v).fab = s.fab := rfl
@[simp] theorem State.setReg_ctrs (s : State) (off v : Nat) : (s.setReg off v).ctrs = s.ctrs := rfl
@[simp] theorem State.setReg_latches (s : State) (off v : Nat) : (s.setReg off v).latches = s.latches := rfl
@[simp] theorem State.setReg_free (s : State) (off v : Nat) : (s.setReg off v).free = s.free := rfl
@[simp] theorem State.setReg_out (s : State) (off v : Nat) : (s.setReg off v).out = s.out := rfl

@[simp] theorem State.putByte_pending (s : State) (a : Nat) (v : Byte) : (s.putByte a v).pending = s.pending := rfl
@[simp] theorem State.putByte_hg (s : State) (a : Nat) (v : Byte) : (s.putByte a v).hg = s.hg := rfl
@[simp] theorem State.putByte_mv (s : State) (a : Nat) (v : Byte) : (s.putByte a v).mv = s.mv := rfl
@[simp] theorem State.putByte_ham (s : State) (a : Nat) (v : Byte) : (s.putByte a v).ham = s.ham := rfl
@[simp] theorem State.putByte_ld (s : State) (a : Nat) (v : Byte) : (s.putByte a v).ld = s.ld := rfl
@[simp] theorem State.putByte_tb (s : State) (a : Nat) (v : Byte) : (s.putByte a v).tb = s.tb := rfl
@[simp] theorem State.putByte_irq (s : State) (a : Nat) (v : Byte) : (s.putByte a v).irq = s.irq := rfl
@[simp] theorem State.putByte_pcie (s : State) (a : Nat) (v : Byte) : (s.putByte a v).pcie = s.pcie := rfl
@[simp] theorem State.putByte_im (s : State) (a : Nat) (v : Byte) : (s.putByte a v).im = s.im := rfl
@[simp] theorem State.putByte_mc (s : State) (a : Nat) (v : Byte) : (s.putByte a v).mc = s.mc := rfl
@[simp] theorem State.putByte_af (s : State) (a : Nat) (v : Byte) : (s.putByte a v).af = s.af := rfl
@[simp] theorem State.putByte_uk (s : State) (a : Nat) (v : Byte) : (s.putByte a v).uk = s.uk := rfl
@[simp] theorem State.putByte_xe (s : State) (a : Nat) (v : Byte) : (s.putByte a v).xe = s.xe := rfl
@[simp] theorem State.putByte_fab (s : State) (a : Nat) (v : Byte) : (s.putByte a v).fab = s.fab := rfl
@[simp] theorem State.putByte_regs (s : State) (a : Nat) (v : Byte) : (s.putByte a v).regs = s.regs := rfl
@[simp] theorem State.putByte_ctrs (s : State) (a : Nat) (v : Byte) : (s.putByte a v).ctrs = s.ctrs := rfl
@[simp] theorem State.putByte_latches (s : State) (a : Nat) (v : Byte) : (s.putByte a v).latches = s.latches := rfl
@[simp] theorem State.putByte_free (s : State) (a : Nat) (v : Byte) : (s.putByte a v).free = s.free := rfl
@[simp] theorem State.putByte_out (s : State) (a : Nat) (v : Byte) : (s.putByte a v).out = s.out := rfl

@[simp] theorem State.setMeta_pending (s : State) (cw : Nat) (poison : Bool) (zone : Nat) : (s.setMeta cw poison zone).pending = s.pending := rfl
@[simp] theorem State.setMeta_hg (s : State) (cw : Nat) (poison : Bool) (zone : Nat) : (s.setMeta cw poison zone).hg = s.hg := rfl
@[simp] theorem State.setMeta_mv (s : State) (cw : Nat) (poison : Bool) (zone : Nat) : (s.setMeta cw poison zone).mv = s.mv := rfl
@[simp] theorem State.setMeta_ham (s : State) (cw : Nat) (poison : Bool) (zone : Nat) : (s.setMeta cw poison zone).ham = s.ham := rfl
@[simp] theorem State.setMeta_ld (s : State) (cw : Nat) (poison : Bool) (zone : Nat) : (s.setMeta cw poison zone).ld = s.ld := rfl
@[simp] theorem State.setMeta_tb (s : State) (cw : Nat) (poison : Bool) (zone : Nat) : (s.setMeta cw poison zone).tb = s.tb := rfl
@[simp] theorem State.setMeta_irq (s : State) (cw : Nat) (poison : Bool) (zone : Nat) : (s.setMeta cw poison zone).irq = s.irq := rfl
@[simp] theorem State.setMeta_pcie (s : State) (cw : Nat) (poison : Bool) (zone : Nat) : (s.setMeta cw poison zone).pcie = s.pcie := rfl
@[simp] theorem State.setMeta_im (s : State) (cw : Nat) (poison : Bool) (zone : Nat) : (s.setMeta cw poison zone).im = s.im := rfl
@[simp] theorem State.setMeta_mc (s : State) (cw : Nat) (poison : Bool) (zone : Nat) : (s.setMeta cw poison zone).mc = s.mc := rfl
@[simp] theorem State.setMeta_af (s : State) (cw : Nat) (poison : Bool) (zone : Nat) : (s.setMeta cw poison zone).af = s.af := rfl
@[simp] theorem State.setMeta_uk (s : State) (cw : Nat) (poison : Bool) (zone : Nat) : (s.setMeta cw poison zone).uk = s.uk := rfl
@[simp] theorem State.setMeta_xe (s : State) (cw : Nat) (poison : Bool) (zone : Nat) : (s.setMeta cw poison zone).xe = s.xe := rfl
@[simp] theorem State.setMeta_fab (s : State) (cw : Nat) (poison : Bool) (zone : Nat) : (s.setMeta cw poison zone).fab = s.fab := rfl
@[simp] theorem State.setMeta_regs (s : State) (cw : Nat) (poison : Bool) (zone : Nat) : (s.setMeta cw poison zone).regs = s.regs := rfl
@[simp] theorem State.setMeta_ctrs (s : State) (cw : Nat) (poison : Bool) (zone : Nat) : (s.setMeta cw poison zone).ctrs = s.ctrs := rfl
@[simp] theorem State.setMeta_latches (s : State) (cw : Nat) (poison : Bool) (zone : Nat) : (s.setMeta cw poison zone).latches = s.latches := rfl
@[simp] theorem State.setMeta_free (s : State) (cw : Nat) (poison : Bool) (zone : Nat) : (s.setMeta cw poison zone).free = s.free := rfl
@[simp] theorem State.setMeta_out (s : State) (cw : Nat) (poison : Bool) (zone : Nat) : (s.setMeta cw poison zone).out = s.out := rfl

@[simp] theorem State.setPort_pending (s : State) (p : Nat) (x : Port) : (s.setPort p x).pending = s.pending := rfl
@[simp] theorem State.setPort_ms (s : State) (p : Nat) (x : Port) : (s.setPort p x).ms = s.ms := rfl
@[simp] theorem State.setPort_hg (s : State) (p : Nat) (x : Port) : (s.setPort p x).hg = s.hg := rfl
@[simp] theorem State.setPort_mv (s : State) (p : Nat) (x : Port) : (s.setPort p x).mv = s.mv := rfl
@[simp] theorem State.setPort_ham (s : State) (p : Nat) (x : Port) : (s.setPort p x).ham = s.ham := rfl
@[simp] theorem State.setPort_ld (s : State) (p : Nat) (x : Port) : (s.setPort p x).ld = s.ld := rfl
@[simp] theorem State.setPort_tb (s : State) (p : Nat) (x : Port) : (s.setPort p x).tb = s.tb := rfl
@[simp] theorem State.setPort_irq (s : State) (p : Nat) (x : Port) : (s.setPort p x).irq = s.irq := rfl
@[simp] theorem State.setPort_pcie (s : State) (p : Nat) (x : Port) : (s.setPort p x).pcie = s.pcie := rfl
@[simp] theorem State.setPort_im (s : State) (p : Nat) (x : Port) : (s.setPort p x).im = s.im := rfl
@[simp] theorem State.setPort_mc (s : State) (p : Nat) (x : Port) : (s.setPort p x).mc = s.mc := rfl
@[simp] theorem State.setPort_af (s : State) (p : Nat) (x : Port) : (s.setPort p x).af = s.af := rfl
@[simp] theorem State.setPort_uk (s : State) (p : Nat) (x : Port) : (s.setPort p x).uk = s.uk := rfl
@[simp] theorem State.setPort_xe (s : State) (p : Nat) (x : Port) : (s.setPort p x).xe = s.xe := rfl
@[simp] theorem State.setPort_regs (s : State) (p : Nat) (x : Port) : (s.setPort p x).regs = s.regs := rfl
@[simp] theorem State.setPort_ctrs (s : State) (p : Nat) (x : Port) : (s.setPort p x).ctrs = s.ctrs := rfl
@[simp] theorem State.setPort_latches (s : State) (p : Nat) (x : Port) : (s.setPort p x).latches = s.latches := rfl
@[simp] theorem State.setPort_free (s : State) (p : Nat) (x : Port) : (s.setPort p x).free = s.free := rfl
@[simp] theorem State.setPort_out (s : State) (p : Nat) (x : Port) : (s.setPort p x).out = s.out := rfl

@[simp] theorem State.updCmd_pending (s : State) (q : Nat) (f : Cmd → Cmd) : (s.updCmd q f).pending = s.pending := rfl
@[simp] theorem State.updCmd_ms (s : State) (q : Nat) (f : Cmd → Cmd) : (s.updCmd q f).ms = s.ms := rfl
@[simp] theorem State.updCmd_mv (s : State) (q : Nat) (f : Cmd → Cmd) : (s.updCmd q f).mv = s.mv := rfl
@[simp] theorem State.updCmd_ham (s : State) (q : Nat) (f : Cmd → Cmd) : (s.updCmd q f).ham = s.ham := rfl
@[simp] theorem State.updCmd_ld (s : State) (q : Nat) (f : Cmd → Cmd) : (s.updCmd q f).ld = s.ld := rfl
@[simp] theorem State.updCmd_tb (s : State) (q : Nat) (f : Cmd → Cmd) : (s.updCmd q f).tb = s.tb := rfl
@[simp] theorem State.updCmd_irq (s : State) (q : Nat) (f : Cmd → Cmd) : (s.updCmd q f).irq = s.irq := rfl
@[simp] theorem State.updCmd_pcie (s : State) (q : Nat) (f : Cmd → Cmd) : (s.updCmd q f).pcie = s.pcie := rfl
@[simp] theorem State.updCmd_im (s : State) (q : Nat) (f : Cmd → Cmd) : (s.updCmd q f).im = s.im := rfl
@[simp] theorem State.updCmd_mc (s : State) (q : Nat) (f : Cmd → Cmd) : (s.updCmd q f).mc = s.mc := rfl
@[simp] theorem State.updCmd_af (s : State) (q : Nat) (f : Cmd → Cmd) : (s.updCmd q f).af = s.af := rfl
@[simp] theorem State.updCmd_uk (s : State) (q : Nat) (f : Cmd → Cmd) : (s.updCmd q f).uk = s.uk := rfl
@[simp] theorem State.updCmd_xe (s : State) (q : Nat) (f : Cmd → Cmd) : (s.updCmd q f).xe = s.xe := rfl
@[simp] theorem State.updCmd_fab (s : State) (q : Nat) (f : Cmd → Cmd) : (s.updCmd q f).fab = s.fab := rfl
@[simp] theorem State.updCmd_regs (s : State) (q : Nat) (f : Cmd → Cmd) : (s.updCmd q f).regs = s.regs := rfl
@[simp] theorem State.updCmd_ctrs (s : State) (q : Nat) (f : Cmd → Cmd) : (s.updCmd q f).ctrs = s.ctrs := rfl
@[simp] theorem State.updCmd_latches (s : State) (q : Nat) (f : Cmd → Cmd) : (s.updCmd q f).latches = s.latches := rfl
@[simp] theorem State.updCmd_free (s : State) (q : Nat) (f : Cmd → Cmd) : (s.updCmd q f).free = s.free := rfl
@[simp] theorem State.updCmd_out (s : State) (q : Nat) (f : Cmd → Cmd) : (s.updCmd q f).out = s.out := rfl

@[simp] theorem State.noteArrival_pending (s : State) (n : Nat) : (s.noteArrival n).pending = s.pending := rfl
@[simp] theorem State.noteArrival_ms (s : State) (n : Nat) : (s.noteArrival n).ms = s.ms := rfl
@[simp] theorem State.noteArrival_hg (s : State) (n : Nat) : (s.noteArrival n).hg = s.hg := rfl
@[simp] theorem State.noteArrival_mv (s : State) (n : Nat) : (s.noteArrival n).mv = s.mv := rfl
@[simp] theorem State.noteArrival_ham (s : State) (n : Nat) : (s.noteArrival n).ham = s.ham := rfl
@[simp] theorem State.noteArrival_ld (s : State) (n : Nat) : (s.noteArrival n).ld = s.ld := rfl
@[simp] theorem State.noteArrival_tb (s : State) (n : Nat) : (s.noteArrival n).tb = s.tb := rfl
@[simp] theorem State.noteArrival_pcie (s : State) (n : Nat) : (s.noteArrival n).pcie = s.pcie := rfl
@[simp] theorem State.noteArrival_im (s : State) (n : Nat) : (s.noteArrival n).im = s.im := rfl
@[simp] theorem State.noteArrival_mc (s : State) (n : Nat) : (s.noteArrival n).mc = s.mc := rfl
@[simp] theorem State.noteArrival_af (s : State) (n : Nat) : (s.noteArrival n).af = s.af := rfl
@[simp] theorem State.noteArrival_uk (s : State) (n : Nat) : (s.noteArrival n).uk = s.uk := rfl
@[simp] theorem State.noteArrival_xe (s : State) (n : Nat) : (s.noteArrival n).xe = s.xe := rfl
@[simp] theorem State.noteArrival_fab (s : State) (n : Nat) : (s.noteArrival n).fab = s.fab := rfl
@[simp] theorem State.noteArrival_regs (s : State) (n : Nat) : (s.noteArrival n).regs = s.regs := rfl
@[simp] theorem State.noteArrival_ctrs (s : State) (n : Nat) : (s.noteArrival n).ctrs = s.ctrs := rfl
@[simp] theorem State.noteArrival_latches (s : State) (n : Nat) : (s.noteArrival n).latches = s.latches := rfl
@[simp] theorem State.noteArrival_free (s : State) (n : Nat) : (s.noteArrival n).free = s.free := rfl
@[simp] theorem State.noteArrival_out (s : State) (n : Nat) : (s.noteArrival n).out = s.out := rfl

@[simp] theorem State.linkUse_pending (s : State) : (s.linkUse).pending = s.pending := rfl
@[simp] theorem State.linkUse_ms (s : State) : (s.linkUse).ms = s.ms := rfl
@[simp] theorem State.linkUse_hg (s : State) : (s.linkUse).hg = s.hg := rfl
@[simp] theorem State.linkUse_mv (s : State) : (s.linkUse).mv = s.mv := rfl
@[simp] theorem State.linkUse_ham (s : State) : (s.linkUse).ham = s.ham := rfl
@[simp] theorem State.linkUse_tb (s : State) : (s.linkUse).tb = s.tb := rfl
@[simp] theorem State.linkUse_irq (s : State) : (s.linkUse).irq = s.irq := rfl
@[simp] theorem State.linkUse_pcie (s : State) : (s.linkUse).pcie = s.pcie := rfl
@[simp] theorem State.linkUse_im (s : State) : (s.linkUse).im = s.im := rfl
@[simp] theorem State.linkUse_mc (s : State) : (s.linkUse).mc = s.mc := rfl
@[simp] theorem State.linkUse_af (s : State) : (s.linkUse).af = s.af := rfl
@[simp] theorem State.linkUse_uk (s : State) : (s.linkUse).uk = s.uk := rfl
@[simp] theorem State.linkUse_xe (s : State) : (s.linkUse).xe = s.xe := rfl
@[simp] theorem State.linkUse_fab (s : State) : (s.linkUse).fab = s.fab := rfl
@[simp] theorem State.linkUse_regs (s : State) : (s.linkUse).regs = s.regs := rfl
@[simp] theorem State.linkUse_ctrs (s : State) : (s.linkUse).ctrs = s.ctrs := rfl
@[simp] theorem State.linkUse_latches (s : State) : (s.linkUse).latches = s.latches := rfl
@[simp] theorem State.linkUse_free (s : State) : (s.linkUse).free = s.free := rfl
@[simp] theorem State.linkUse_out (s : State) : (s.linkUse).out = s.out := rfl

@[simp] theorem State.setRing_pending (s : State) (n : Nat) (r : Ring) : (s.setRing n r).pending = s.pending := rfl
@[simp] theorem State.setRing_ms (s : State) (n : Nat) (r : Ring) : (s.setRing n r).ms = s.ms := rfl
@[simp] theorem State.setRing_mv (s : State) (n : Nat) (r : Ring) : (s.setRing n r).mv = s.mv := rfl
@[simp] theorem State.setRing_ham (s : State) (n : Nat) (r : Ring) : (s.setRing n r).ham = s.ham := rfl
@[simp] theorem State.setRing_ld (s : State) (n : Nat) (r : Ring) : (s.setRing n r).ld = s.ld := rfl
@[simp] theorem State.setRing_tb (s : State) (n : Nat) (r : Ring) : (s.setRing n r).tb = s.tb := rfl
@[simp] theorem State.setRing_irq (s : State) (n : Nat) (r : Ring) : (s.setRing n r).irq = s.irq := rfl
@[simp] theorem State.setRing_pcie (s : State) (n : Nat) (r : Ring) : (s.setRing n r).pcie = s.pcie := rfl
@[simp] theorem State.setRing_im (s : State) (n : Nat) (r : Ring) : (s.setRing n r).im = s.im := rfl
@[simp] theorem State.setRing_mc (s : State) (n : Nat) (r : Ring) : (s.setRing n r).mc = s.mc := rfl
@[simp] theorem State.setRing_af (s : State) (n : Nat) (r : Ring) : (s.setRing n r).af = s.af := rfl
@[simp] theorem State.setRing_uk (s : State) (n : Nat) (r : Ring) : (s.setRing n r).uk = s.uk := rfl
@[simp] theorem State.setRing_xe (s : State) (n : Nat) (r : Ring) : (s.setRing n r).xe = s.xe := rfl
@[simp] theorem State.setRing_fab (s : State) (n : Nat) (r : Ring) : (s.setRing n r).fab = s.fab := rfl
@[simp] theorem State.setRing_regs (s : State) (n : Nat) (r : Ring) : (s.setRing n r).regs = s.regs := rfl
@[simp] theorem State.setRing_ctrs (s : State) (n : Nat) (r : Ring) : (s.setRing n r).ctrs = s.ctrs := rfl
@[simp] theorem State.setRing_latches (s : State) (n : Nat) (r : Ring) : (s.setRing n r).latches = s.latches := rfl
@[simp] theorem State.setRing_free (s : State) (n : Nat) (r : Ring) : (s.setRing n r).free = s.free := rfl
@[simp] theorem State.setRing_out (s : State) (n : Nat) (r : Ring) : (s.setRing n r).out = s.out := rfl

@[simp] theorem State.releaseStep_pending (s : State) (n : Nat) : (s.releaseStep n).pending = s.pending := rfl
@[simp] theorem State.releaseStep_ms (s : State) (n : Nat) : (s.releaseStep n).ms = s.ms := rfl
@[simp] theorem State.releaseStep_hg (s : State) (n : Nat) : (s.releaseStep n).hg = s.hg := rfl
@[simp] theorem State.releaseStep_mv (s : State) (n : Nat) : (s.releaseStep n).mv = s.mv := rfl
@[simp] theorem State.releaseStep_ld (s : State) (n : Nat) : (s.releaseStep n).ld = s.ld := rfl
@[simp] theorem State.releaseStep_tb (s : State) (n : Nat) : (s.releaseStep n).tb = s.tb := rfl
@[simp] theorem State.releaseStep_irq (s : State) (n : Nat) : (s.releaseStep n).irq = s.irq := rfl
@[simp] theorem State.releaseStep_pcie (s : State) (n : Nat) : (s.releaseStep n).pcie = s.pcie := rfl
@[simp] theorem State.releaseStep_im (s : State) (n : Nat) : (s.releaseStep n).im = s.im := rfl
@[simp] theorem State.releaseStep_mc (s : State) (n : Nat) : (s.releaseStep n).mc = s.mc := rfl
@[simp] theorem State.releaseStep_af (s : State) (n : Nat) : (s.releaseStep n).af = s.af := rfl
@[simp] theorem State.releaseStep_uk (s : State) (n : Nat) : (s.releaseStep n).uk = s.uk := rfl
@[simp] theorem State.releaseStep_xe (s : State) (n : Nat) : (s.releaseStep n).xe = s.xe := rfl
@[simp] theorem State.releaseStep_fab (s : State) (n : Nat) : (s.releaseStep n).fab = s.fab := rfl
@[simp] theorem State.releaseStep_regs (s : State) (n : Nat) : (s.releaseStep n).regs = s.regs := rfl
@[simp] theorem State.releaseStep_ctrs (s : State) (n : Nat) : (s.releaseStep n).ctrs = s.ctrs := rfl
@[simp] theorem State.releaseStep_latches (s : State) (n : Nat) : (s.releaseStep n).latches = s.latches := rfl
@[simp] theorem State.releaseStep_free (s : State) (n : Nat) : (s.releaseStep n).free = s.free := rfl
@[simp] theorem State.releaseStep_out (s : State) (n : Nat) : (s.releaseStep n).out = s.out := rfl

@[simp] theorem State.setXeStep_pending (s : State) (x : XeStep) : (s.setXeStep x).pending = s.pending := rfl
@[simp] theorem State.setXeStep_ms (s : State) (x : XeStep) : (s.setXeStep x).ms = s.ms := rfl
@[simp] theorem State.setXeStep_hg (s : State) (x : XeStep) : (s.setXeStep x).hg = s.hg := rfl
@[simp] theorem State.setXeStep_mv (s : State) (x : XeStep) : (s.setXeStep x).mv = s.mv := rfl
@[simp] theorem State.setXeStep_ham (s : State) (x : XeStep) : (s.setXeStep x).ham = s.ham := rfl
@[simp] theorem State.setXeStep_ld (s : State) (x : XeStep) : (s.setXeStep x).ld = s.ld := rfl
@[simp] theorem State.setXeStep_tb (s : State) (x : XeStep) : (s.setXeStep x).tb = s.tb := rfl
@[simp] theorem State.setXeStep_irq (s : State) (x : XeStep) : (s.setXeStep x).irq = s.irq := rfl
@[simp] theorem State.setXeStep_pcie (s : State) (x : XeStep) : (s.setXeStep x).pcie = s.pcie := rfl
@[simp] theorem State.setXeStep_im (s : State) (x : XeStep) : (s.setXeStep x).im = s.im := rfl
@[simp] theorem State.setXeStep_mc (s : State) (x : XeStep) : (s.setXeStep x).mc = s.mc := rfl
@[simp] theorem State.setXeStep_af (s : State) (x : XeStep) : (s.setXeStep x).af = s.af := rfl
@[simp] theorem State.setXeStep_uk (s : State) (x : XeStep) : (s.setXeStep x).uk = s.uk := rfl
@[simp] theorem State.setXeStep_fab (s : State) (x : XeStep) : (s.setXeStep x).fab = s.fab := rfl
@[simp] theorem State.setXeStep_regs (s : State) (x : XeStep) : (s.setXeStep x).regs = s.regs := rfl
@[simp] theorem State.setXeStep_ctrs (s : State) (x : XeStep) : (s.setXeStep x).ctrs = s.ctrs := rfl
@[simp] theorem State.setXeStep_latches (s : State) (x : XeStep) : (s.setXeStep x).latches = s.latches := rfl
@[simp] theorem State.setXeStep_free (s : State) (x : XeStep) : (s.setXeStep x).free = s.free := rfl
@[simp] theorem State.setXeStep_out (s : State) (x : XeStep) : (s.setXeStep x).out = s.out := rfl

@[simp] theorem State.setStep_pending (s : State) (n : Nat) (i : StepInfo) : (s.setStep n i).pending = s.pending := rfl
@[simp] theorem State.setStep_ms (s : State) (n : Nat) (i : StepInfo) : (s.setStep n i).ms = s.ms := rfl
@[simp] theorem State.setStep_mv (s : State) (n : Nat) (i : StepInfo) : (s.setStep n i).mv = s.mv := rfl
@[simp] theorem State.setStep_ham (s : State) (n : Nat) (i : StepInfo) : (s.setStep n i).ham = s.ham := rfl
@[simp] theorem State.setStep_ld (s : State) (n : Nat) (i : StepInfo) : (s.setStep n i).ld = s.ld := rfl
@[simp] theorem State.setStep_tb (s : State) (n : Nat) (i : StepInfo) : (s.setStep n i).tb = s.tb := rfl
@[simp] theorem State.setStep_irq (s : State) (n : Nat) (i : StepInfo) : (s.setStep n i).irq = s.irq := rfl
@[simp] theorem State.setStep_pcie (s : State) (n : Nat) (i : StepInfo) : (s.setStep n i).pcie = s.pcie := rfl
@[simp] theorem State.setStep_im (s : State) (n : Nat) (i : StepInfo) : (s.setStep n i).im = s.im := rfl
@[simp] theorem State.setStep_mc (s : State) (n : Nat) (i : StepInfo) : (s.setStep n i).mc = s.mc := rfl
@[simp] theorem State.setStep_af (s : State) (n : Nat) (i : StepInfo) : (s.setStep n i).af = s.af := rfl
@[simp] theorem State.setStep_uk (s : State) (n : Nat) (i : StepInfo) : (s.setStep n i).uk = s.uk := rfl
@[simp] theorem State.setStep_xe (s : State) (n : Nat) (i : StepInfo) : (s.setStep n i).xe = s.xe := rfl
@[simp] theorem State.setStep_fab (s : State) (n : Nat) (i : StepInfo) : (s.setStep n i).fab = s.fab := rfl
@[simp] theorem State.setStep_regs (s : State) (n : Nat) (i : StepInfo) : (s.setStep n i).regs = s.regs := rfl
@[simp] theorem State.setStep_ctrs (s : State) (n : Nat) (i : StepInfo) : (s.setStep n i).ctrs = s.ctrs := rfl
@[simp] theorem State.setStep_latches (s : State) (n : Nat) (i : StepInfo) : (s.setStep n i).latches = s.latches := rfl
@[simp] theorem State.setStep_free (s : State) (n : Nat) (i : StepInfo) : (s.setStep n i).free = s.free := rfl
@[simp] theorem State.setStep_out (s : State) (n : Nat) (i : StepInfo) : (s.setStep n i).out = s.out := rfl

@[simp] theorem State.clearFailed_pending (s : State) (k : Nat) : (s.clearFailed k).pending = s.pending := rfl
@[simp] theorem State.clearFailed_ms (s : State) (k : Nat) : (s.clearFailed k).ms = s.ms := rfl
@[simp] theorem State.clearFailed_hg (s : State) (k : Nat) : (s.clearFailed k).hg = s.hg := rfl
@[simp] theorem State.clearFailed_mv (s : State) (k : Nat) : (s.clearFailed k).mv = s.mv := rfl
@[simp] theorem State.clearFailed_ham (s : State) (k : Nat) : (s.clearFailed k).ham = s.ham := rfl
@[simp] theorem State.clearFailed_tb (s : State) (k : Nat) : (s.clearFailed k).tb = s.tb := rfl
@[simp] theorem State.clearFailed_irq (s : State) (k : Nat) : (s.clearFailed k).irq = s.irq := rfl
@[simp] theorem State.clearFailed_pcie (s : State) (k : Nat) : (s.clearFailed k).pcie = s.pcie := rfl
@[simp] theorem State.clearFailed_im (s : State) (k : Nat) : (s.clearFailed k).im = s.im := rfl
@[simp] theorem State.clearFailed_mc (s : State) (k : Nat) : (s.clearFailed k).mc = s.mc := rfl
@[simp] theorem State.clearFailed_af (s : State) (k : Nat) : (s.clearFailed k).af = s.af := rfl
@[simp] theorem State.clearFailed_uk (s : State) (k : Nat) : (s.clearFailed k).uk = s.uk := rfl
@[simp] theorem State.clearFailed_xe (s : State) (k : Nat) : (s.clearFailed k).xe = s.xe := rfl
@[simp] theorem State.clearFailed_fab (s : State) (k : Nat) : (s.clearFailed k).fab = s.fab := rfl
@[simp] theorem State.clearFailed_regs (s : State) (k : Nat) : (s.clearFailed k).regs = s.regs := rfl
@[simp] theorem State.clearFailed_ctrs (s : State) (k : Nat) : (s.clearFailed k).ctrs = s.ctrs := rfl
@[simp] theorem State.clearFailed_latches (s : State) (k : Nat) : (s.clearFailed k).latches = s.latches := rfl
@[simp] theorem State.clearFailed_free (s : State) (k : Nat) : (s.clearFailed k).free = s.free := rfl
@[simp] theorem State.clearFailed_out (s : State) (k : Nat) : (s.clearFailed k).out = s.out := rfl

@[simp] theorem State.clearReady_pending (s : State) (k : Nat) : (s.clearReady k).pending = s.pending := rfl
@[simp] theorem State.clearReady_ms (s : State) (k : Nat) : (s.clearReady k).ms = s.ms := rfl
@[simp] theorem State.clearReady_hg (s : State) (k : Nat) : (s.clearReady k).hg = s.hg := rfl
@[simp] theorem State.clearReady_mv (s : State) (k : Nat) : (s.clearReady k).mv = s.mv := rfl
@[simp] theorem State.clearReady_ham (s : State) (k : Nat) : (s.clearReady k).ham = s.ham := rfl
@[simp] theorem State.clearReady_tb (s : State) (k : Nat) : (s.clearReady k).tb = s.tb := rfl
@[simp] theorem State.clearReady_irq (s : State) (k : Nat) : (s.clearReady k).irq = s.irq := rfl
@[simp] theorem State.clearReady_pcie (s : State) (k : Nat) : (s.clearReady k).pcie = s.pcie := rfl
@[simp] theorem State.clearReady_im (s : State) (k : Nat) : (s.clearReady k).im = s.im := rfl
@[simp] theorem State.clearReady_mc (s : State) (k : Nat) : (s.clearReady k).mc = s.mc := rfl
@[simp] theorem State.clearReady_af (s : State) (k : Nat) : (s.clearReady k).af = s.af := rfl
@[simp] theorem State.clearReady_uk (s : State) (k : Nat) : (s.clearReady k).uk = s.uk := rfl
@[simp] theorem State.clearReady_xe (s : State) (k : Nat) : (s.clearReady k).xe = s.xe := rfl
@[simp] theorem State.clearReady_fab (s : State) (k : Nat) : (s.clearReady k).fab = s.fab := rfl
@[simp] theorem State.clearReady_regs (s : State) (k : Nat) : (s.clearReady k).regs = s.regs := rfl
@[simp] theorem State.clearReady_ctrs (s : State) (k : Nat) : (s.clearReady k).ctrs = s.ctrs := rfl
@[simp] theorem State.clearReady_latches (s : State) (k : Nat) : (s.clearReady k).latches = s.latches := rfl
@[simp] theorem State.clearReady_free (s : State) (k : Nat) : (s.clearReady k).free = s.free := rfl
@[simp] theorem State.clearReady_out (s : State) (k : Nat) : (s.clearReady k).out = s.out := rfl

@[simp] theorem State.setLog_pending (s : State) (u0 : Nat) (l0 : Logbook) : (s.setLog u0 l0).pending = s.pending := rfl
@[simp] theorem State.setLog_ms (s : State) (u0 : Nat) (l0 : Logbook) : (s.setLog u0 l0).ms = s.ms := rfl
@[simp] theorem State.setLog_hg (s : State) (u0 : Nat) (l0 : Logbook) : (s.setLog u0 l0).hg = s.hg := rfl
@[simp] theorem State.setLog_mv (s : State) (u0 : Nat) (l0 : Logbook) : (s.setLog u0 l0).mv = s.mv := rfl
@[simp] theorem State.setLog_ham (s : State) (u0 : Nat) (l0 : Logbook) : (s.setLog u0 l0).ham = s.ham := rfl
@[simp] theorem State.setLog_ld (s : State) (u0 : Nat) (l0 : Logbook) : (s.setLog u0 l0).ld = s.ld := rfl
@[simp] theorem State.setLog_tb (s : State) (u0 : Nat) (l0 : Logbook) : (s.setLog u0 l0).tb = s.tb := rfl
@[simp] theorem State.setLog_irq (s : State) (u0 : Nat) (l0 : Logbook) : (s.setLog u0 l0).irq = s.irq := rfl
@[simp] theorem State.setLog_pcie (s : State) (u0 : Nat) (l0 : Logbook) : (s.setLog u0 l0).pcie = s.pcie := rfl
@[simp] theorem State.setLog_mc (s : State) (u0 : Nat) (l0 : Logbook) : (s.setLog u0 l0).mc = s.mc := rfl
@[simp] theorem State.setLog_af (s : State) (u0 : Nat) (l0 : Logbook) : (s.setLog u0 l0).af = s.af := rfl
@[simp] theorem State.setLog_uk (s : State) (u0 : Nat) (l0 : Logbook) : (s.setLog u0 l0).uk = s.uk := rfl
@[simp] theorem State.setLog_xe (s : State) (u0 : Nat) (l0 : Logbook) : (s.setLog u0 l0).xe = s.xe := rfl
@[simp] theorem State.setLog_fab (s : State) (u0 : Nat) (l0 : Logbook) : (s.setLog u0 l0).fab = s.fab := rfl
@[simp] theorem State.setLog_regs (s : State) (u0 : Nat) (l0 : Logbook) : (s.setLog u0 l0).regs = s.regs := rfl
@[simp] theorem State.setLog_ctrs (s : State) (u0 : Nat) (l0 : Logbook) : (s.setLog u0 l0).ctrs = s.ctrs := rfl
@[simp] theorem State.setLog_latches (s : State) (u0 : Nat) (l0 : Logbook) : (s.setLog u0 l0).latches = s.latches := rfl
@[simp] theorem State.setLog_free (s : State) (u0 : Nat) (l0 : Logbook) : (s.setLog u0 l0).free = s.free := rfl
@[simp] theorem State.setLog_out (s : State) (u0 : Nat) (l0 : Logbook) : (s.setLog u0 l0).out = s.out := rfl

@[simp] theorem State.freeStep_pending (s : State) : (s.freeStep).pending = s.pending := rfl
@[simp] theorem State.freeStep_ms (s : State) : (s.freeStep).ms = s.ms := rfl
@[simp] theorem State.freeStep_hg (s : State) : (s.freeStep).hg = s.hg := rfl
@[simp] theorem State.freeStep_mv (s : State) : (s.freeStep).mv = s.mv := rfl
@[simp] theorem State.freeStep_ham (s : State) : (s.freeStep).ham = s.ham := rfl
@[simp] theorem State.freeStep_ld (s : State) : (s.freeStep).ld = s.ld := rfl
@[simp] theorem State.freeStep_tb (s : State) : (s.freeStep).tb = s.tb := rfl
@[simp] theorem State.freeStep_irq (s : State) : (s.freeStep).irq = s.irq := rfl
@[simp] theorem State.freeStep_pcie (s : State) : (s.freeStep).pcie = s.pcie := rfl
@[simp] theorem State.freeStep_im (s : State) : (s.freeStep).im = s.im := rfl
@[simp] theorem State.freeStep_mc (s : State) : (s.freeStep).mc = s.mc := rfl
@[simp] theorem State.freeStep_af (s : State) : (s.freeStep).af = s.af := rfl
@[simp] theorem State.freeStep_uk (s : State) : (s.freeStep).uk = s.uk := rfl
@[simp] theorem State.freeStep_xe (s : State) : (s.freeStep).xe = s.xe := rfl
@[simp] theorem State.freeStep_fab (s : State) : (s.freeStep).fab = s.fab := rfl
@[simp] theorem State.freeStep_regs (s : State) : (s.freeStep).regs = s.regs := rfl
@[simp] theorem State.freeStep_ctrs (s : State) : (s.freeStep).ctrs = s.ctrs := rfl
@[simp] theorem State.freeStep_latches (s : State) : (s.freeStep).latches = s.latches := rfl
@[simp] theorem State.freeStep_out (s : State) : (s.freeStep).out = s.out := rfl

@[simp] theorem State.signal_pending (s : State) (e : Nat) (v : W64) (q : Nat) : (s.signal e v q).pending = s.pending := rfl
@[simp] theorem State.signal_ms (s : State) (e : Nat) (v : W64) (q : Nat) : (s.signal e v q).ms = s.ms := rfl
@[simp] theorem State.signal_mv (s : State) (e : Nat) (v : W64) (q : Nat) : (s.signal e v q).mv = s.mv := rfl
@[simp] theorem State.signal_ham (s : State) (e : Nat) (v : W64) (q : Nat) : (s.signal e v q).ham = s.ham := rfl
@[simp] theorem State.signal_ld (s : State) (e : Nat) (v : W64) (q : Nat) : (s.signal e v q).ld = s.ld := rfl
@[simp] theorem State.signal_tb (s : State) (e : Nat) (v : W64) (q : Nat) : (s.signal e v q).tb = s.tb := rfl
@[simp] theorem State.signal_irq (s : State) (e : Nat) (v : W64) (q : Nat) : (s.signal e v q).irq = s.irq := rfl
@[simp] theorem State.signal_pcie (s : State) (e : Nat) (v : W64) (q : Nat) : (s.signal e v q).pcie = s.pcie := rfl
@[simp] theorem State.signal_im (s : State) (e : Nat) (v : W64) (q : Nat) : (s.signal e v q).im = s.im := rfl
@[simp] theorem State.signal_mc (s : State) (e : Nat) (v : W64) (q : Nat) : (s.signal e v q).mc = s.mc := rfl
@[simp] theorem State.signal_af (s : State) (e : Nat) (v : W64) (q : Nat) : (s.signal e v q).af = s.af := rfl
@[simp] theorem State.signal_uk (s : State) (e : Nat) (v : W64) (q : Nat) : (s.signal e v q).uk = s.uk := rfl
@[simp] theorem State.signal_xe (s : State) (e : Nat) (v : W64) (q : Nat) : (s.signal e v q).xe = s.xe := rfl
@[simp] theorem State.signal_fab (s : State) (e : Nat) (v : W64) (q : Nat) : (s.signal e v q).fab = s.fab := rfl
@[simp] theorem State.signal_regs (s : State) (e : Nat) (v : W64) (q : Nat) : (s.signal e v q).regs = s.regs := rfl
@[simp] theorem State.signal_ctrs (s : State) (e : Nat) (v : W64) (q : Nat) : (s.signal e v q).ctrs = s.ctrs := rfl
@[simp] theorem State.signal_latches (s : State) (e : Nat) (v : W64) (q : Nat) : (s.signal e v q).latches = s.latches := rfl
@[simp] theorem State.signal_free (s : State) (e : Nat) (v : W64) (q : Nat) : (s.signal e v q).free = s.free := rfl
@[simp] theorem State.signal_out (s : State) (e : Nat) (v : W64) (q : Nat) : (s.signal e v q).out = s.out := rfl

@[simp] theorem State.noteMasked_pending (s : State) (n : Nat) : (s.noteMasked n).pending = s.pending := rfl
@[simp] theorem State.noteMasked_ms (s : State) (n : Nat) : (s.noteMasked n).ms = s.ms := rfl
@[simp] theorem State.noteMasked_hg (s : State) (n : Nat) : (s.noteMasked n).hg = s.hg := rfl
@[simp] theorem State.noteMasked_mv (s : State) (n : Nat) : (s.noteMasked n).mv = s.mv := rfl
@[simp] theorem State.noteMasked_ham (s : State) (n : Nat) : (s.noteMasked n).ham = s.ham := rfl
@[simp] theorem State.noteMasked_ld (s : State) (n : Nat) : (s.noteMasked n).ld = s.ld := rfl
@[simp] theorem State.noteMasked_tb (s : State) (n : Nat) : (s.noteMasked n).tb = s.tb := rfl
@[simp] theorem State.noteMasked_pcie (s : State) (n : Nat) : (s.noteMasked n).pcie = s.pcie := rfl
@[simp] theorem State.noteMasked_im (s : State) (n : Nat) : (s.noteMasked n).im = s.im := rfl
@[simp] theorem State.noteMasked_mc (s : State) (n : Nat) : (s.noteMasked n).mc = s.mc := rfl
@[simp] theorem State.noteMasked_af (s : State) (n : Nat) : (s.noteMasked n).af = s.af := rfl
@[simp] theorem State.noteMasked_uk (s : State) (n : Nat) : (s.noteMasked n).uk = s.uk := rfl
@[simp] theorem State.noteMasked_xe (s : State) (n : Nat) : (s.noteMasked n).xe = s.xe := rfl
@[simp] theorem State.noteMasked_fab (s : State) (n : Nat) : (s.noteMasked n).fab = s.fab := rfl
@[simp] theorem State.noteMasked_regs (s : State) (n : Nat) : (s.noteMasked n).regs = s.regs := rfl
@[simp] theorem State.noteMasked_ctrs (s : State) (n : Nat) : (s.noteMasked n).ctrs = s.ctrs := rfl
@[simp] theorem State.noteMasked_latches (s : State) (n : Nat) : (s.noteMasked n).latches = s.latches := rfl
@[simp] theorem State.noteMasked_free (s : State) (n : Nat) : (s.noteMasked n).free = s.free := rfl
@[simp] theorem State.noteMasked_out (s : State) (n : Nat) : (s.noteMasked n).out = s.out := rfl

@[simp] theorem State.noteWrite_pending (s : State) (q a n : Nat) : (s.noteWrite q a n).pending = s.pending := rfl
@[simp] theorem State.noteWrite_ms (s : State) (q a n : Nat) : (s.noteWrite q a n).ms = s.ms := rfl
@[simp] theorem State.noteWrite_hg (s : State) (q a n : Nat) : (s.noteWrite q a n).hg = s.hg := rfl
@[simp] theorem State.noteWrite_mv (s : State) (q a n : Nat) : (s.noteWrite q a n).mv = s.mv := rfl
@[simp] theorem State.noteWrite_ham (s : State) (q a n : Nat) : (s.noteWrite q a n).ham = s.ham := rfl
@[simp] theorem State.noteWrite_ld (s : State) (q a n : Nat) : (s.noteWrite q a n).ld = s.ld := rfl
@[simp] theorem State.noteWrite_tb (s : State) (q a n : Nat) : (s.noteWrite q a n).tb = s.tb := rfl
@[simp] theorem State.noteWrite_irq (s : State) (q a n : Nat) : (s.noteWrite q a n).irq = s.irq := rfl
@[simp] theorem State.noteWrite_pcie (s : State) (q a n : Nat) : (s.noteWrite q a n).pcie = s.pcie := rfl
@[simp] theorem State.noteWrite_mc (s : State) (q a n : Nat) : (s.noteWrite q a n).mc = s.mc := rfl
@[simp] theorem State.noteWrite_af (s : State) (q a n : Nat) : (s.noteWrite q a n).af = s.af := rfl
@[simp] theorem State.noteWrite_uk (s : State) (q a n : Nat) : (s.noteWrite q a n).uk = s.uk := rfl
@[simp] theorem State.noteWrite_xe (s : State) (q a n : Nat) : (s.noteWrite q a n).xe = s.xe := rfl
@[simp] theorem State.noteWrite_fab (s : State) (q a n : Nat) : (s.noteWrite q a n).fab = s.fab := rfl
@[simp] theorem State.noteWrite_regs (s : State) (q a n : Nat) : (s.noteWrite q a n).regs = s.regs := rfl
@[simp] theorem State.noteWrite_ctrs (s : State) (q a n : Nat) : (s.noteWrite q a n).ctrs = s.ctrs := rfl
@[simp] theorem State.noteWrite_latches (s : State) (q a n : Nat) : (s.noteWrite q a n).latches = s.latches := rfl
@[simp] theorem State.noteWrite_free (s : State) (q a n : Nat) : (s.noteWrite q a n).free = s.free := rfl
@[simp] theorem State.noteWrite_out (s : State) (q a n : Nat) : (s.noteWrite q a n).out = s.out := rfl

@[simp] theorem State.setDom_pending (s : State) (k : Nat) (d : DomState) : (s.setDom k d).pending = s.pending := rfl
@[simp] theorem State.setDom_ms (s : State) (k : Nat) (d : DomState) : (s.setDom k d).ms = s.ms := rfl
@[simp] theorem State.setDom_hg (s : State) (k : Nat) (d : DomState) : (s.setDom k d).hg = s.hg := rfl
@[simp] theorem State.setDom_mv (s : State) (k : Nat) (d : DomState) : (s.setDom k d).mv = s.mv := rfl
@[simp] theorem State.setDom_ham (s : State) (k : Nat) (d : DomState) : (s.setDom k d).ham = s.ham := rfl
@[simp] theorem State.setDom_tb (s : State) (k : Nat) (d : DomState) : (s.setDom k d).tb = s.tb := rfl
@[simp] theorem State.setDom_irq (s : State) (k : Nat) (d : DomState) : (s.setDom k d).irq = s.irq := rfl
@[simp] theorem State.setDom_pcie (s : State) (k : Nat) (d : DomState) : (s.setDom k d).pcie = s.pcie := rfl
@[simp] theorem State.setDom_im (s : State) (k : Nat) (d : DomState) : (s.setDom k d).im = s.im := rfl
@[simp] theorem State.setDom_mc (s : State) (k : Nat) (d : DomState) : (s.setDom k d).mc = s.mc := rfl
@[simp] theorem State.setDom_af (s : State) (k : Nat) (d : DomState) : (s.setDom k d).af = s.af := rfl
@[simp] theorem State.setDom_uk (s : State) (k : Nat) (d : DomState) : (s.setDom k d).uk = s.uk := rfl
@[simp] theorem State.setDom_xe (s : State) (k : Nat) (d : DomState) : (s.setDom k d).xe = s.xe := rfl
@[simp] theorem State.setDom_fab (s : State) (k : Nat) (d : DomState) : (s.setDom k d).fab = s.fab := rfl
@[simp] theorem State.setDom_regs (s : State) (k : Nat) (d : DomState) : (s.setDom k d).regs = s.regs := rfl
@[simp] theorem State.setDom_ctrs (s : State) (k : Nat) (d : DomState) : (s.setDom k d).ctrs = s.ctrs := rfl
@[simp] theorem State.setDom_latches (s : State) (k : Nat) (d : DomState) : (s.setDom k d).latches = s.latches := rfl
@[simp] theorem State.setDom_free (s : State) (k : Nat) (d : DomState) : (s.setDom k d).free = s.free := rfl
@[simp] theorem State.setDom_out (s : State) (k : Nat) (d : DomState) : (s.setDom k d).out = s.out := rfl

@[simp] theorem State.setErrors_pending (s : State) (e : UnitErrors) : (s.setErrors e).pending = s.pending := rfl
@[simp] theorem State.setErrors_ms (s : State) (e : UnitErrors) : (s.setErrors e).ms = s.ms := rfl
@[simp] theorem State.setErrors_hg (s : State) (e : UnitErrors) : (s.setErrors e).hg = s.hg := rfl
@[simp] theorem State.setErrors_mv (s : State) (e : UnitErrors) : (s.setErrors e).mv = s.mv := rfl
@[simp] theorem State.setErrors_ham (s : State) (e : UnitErrors) : (s.setErrors e).ham = s.ham := rfl
@[simp] theorem State.setErrors_ld (s : State) (e : UnitErrors) : (s.setErrors e).ld = s.ld := rfl
@[simp] theorem State.setErrors_tb (s : State) (e : UnitErrors) : (s.setErrors e).tb = s.tb := rfl
@[simp] theorem State.setErrors_irq (s : State) (e : UnitErrors) : (s.setErrors e).irq = s.irq := rfl
@[simp] theorem State.setErrors_pcie (s : State) (e : UnitErrors) : (s.setErrors e).pcie = s.pcie := rfl
@[simp] theorem State.setErrors_mc (s : State) (e : UnitErrors) : (s.setErrors e).mc = s.mc := rfl
@[simp] theorem State.setErrors_af (s : State) (e : UnitErrors) : (s.setErrors e).af = s.af := rfl
@[simp] theorem State.setErrors_uk (s : State) (e : UnitErrors) : (s.setErrors e).uk = s.uk := rfl
@[simp] theorem State.setErrors_xe (s : State) (e : UnitErrors) : (s.setErrors e).xe = s.xe := rfl
@[simp] theorem State.setErrors_fab (s : State) (e : UnitErrors) : (s.setErrors e).fab = s.fab := rfl
@[simp] theorem State.setErrors_regs (s : State) (e : UnitErrors) : (s.setErrors e).regs = s.regs := rfl
@[simp] theorem State.setErrors_ctrs (s : State) (e : UnitErrors) : (s.setErrors e).ctrs = s.ctrs := rfl
@[simp] theorem State.setErrors_latches (s : State) (e : UnitErrors) : (s.setErrors e).latches = s.latches := rfl
@[simp] theorem State.setErrors_free (s : State) (e : UnitErrors) : (s.setErrors e).free = s.free := rfl
@[simp] theorem State.setErrors_out (s : State) (e : UnitErrors) : (s.setErrors e).out = s.out := rfl

@[simp] theorem State.setSent_pending (s : State) (x : Sent) : (s.setSent x).pending = s.pending := rfl
@[simp] theorem State.setSent_ms (s : State) (x : Sent) : (s.setSent x).ms = s.ms := rfl
@[simp] theorem State.setSent_hg (s : State) (x : Sent) : (s.setSent x).hg = s.hg := rfl
@[simp] theorem State.setSent_mv (s : State) (x : Sent) : (s.setSent x).mv = s.mv := rfl
@[simp] theorem State.setSent_ham (s : State) (x : Sent) : (s.setSent x).ham = s.ham := rfl
@[simp] theorem State.setSent_ld (s : State) (x : Sent) : (s.setSent x).ld = s.ld := rfl
@[simp] theorem State.setSent_tb (s : State) (x : Sent) : (s.setSent x).tb = s.tb := rfl
@[simp] theorem State.setSent_irq (s : State) (x : Sent) : (s.setSent x).irq = s.irq := rfl
@[simp] theorem State.setSent_pcie (s : State) (x : Sent) : (s.setSent x).pcie = s.pcie := rfl
@[simp] theorem State.setSent_im (s : State) (x : Sent) : (s.setSent x).im = s.im := rfl
@[simp] theorem State.setSent_mc (s : State) (x : Sent) : (s.setSent x).mc = s.mc := rfl
@[simp] theorem State.setSent_af (s : State) (x : Sent) : (s.setSent x).af = s.af := rfl
@[simp] theorem State.setSent_uk (s : State) (x : Sent) : (s.setSent x).uk = s.uk := rfl
@[simp] theorem State.setSent_fab (s : State) (x : Sent) : (s.setSent x).fab = s.fab := rfl
@[simp] theorem State.setSent_regs (s : State) (x : Sent) : (s.setSent x).regs = s.regs := rfl
@[simp] theorem State.setSent_ctrs (s : State) (x : Sent) : (s.setSent x).ctrs = s.ctrs := rfl
@[simp] theorem State.setSent_latches (s : State) (x : Sent) : (s.setSent x).latches = s.latches := rfl
@[simp] theorem State.setSent_free (s : State) (x : Sent) : (s.setSent x).free = s.free := rfl
@[simp] theorem State.setSent_out (s : State) (x : Sent) : (s.setSent x).out = s.out := rfl

@[simp] theorem State.setTile_pending (s : State) (t0 : Tile) : (s.setTile t0).pending = s.pending := rfl
@[simp] theorem State.setTile_ms (s : State) (t0 : Tile) : (s.setTile t0).ms = s.ms := rfl
@[simp] theorem State.setTile_hg (s : State) (t0 : Tile) : (s.setTile t0).hg = s.hg := rfl
@[simp] theorem State.setTile_mv (s : State) (t0 : Tile) : (s.setTile t0).mv = s.mv := rfl
@[simp] theorem State.setTile_ham (s : State) (t0 : Tile) : (s.setTile t0).ham = s.ham := rfl
@[simp] theorem State.setTile_ld (s : State) (t0 : Tile) : (s.setTile t0).ld = s.ld := rfl
@[simp] theorem State.setTile_tb (s : State) (t0 : Tile) : (s.setTile t0).tb = s.tb := rfl
@[simp] theorem State.setTile_irq (s : State) (t0 : Tile) : (s.setTile t0).irq = s.irq := rfl
@[simp] theorem State.setTile_pcie (s : State) (t0 : Tile) : (s.setTile t0).pcie = s.pcie := rfl
@[simp] theorem State.setTile_im (s : State) (t0 : Tile) : (s.setTile t0).im = s.im := rfl
@[simp] theorem State.setTile_af (s : State) (t0 : Tile) : (s.setTile t0).af = s.af := rfl
@[simp] theorem State.setTile_uk (s : State) (t0 : Tile) : (s.setTile t0).uk = s.uk := rfl
@[simp] theorem State.setTile_xe (s : State) (t0 : Tile) : (s.setTile t0).xe = s.xe := rfl
@[simp] theorem State.setTile_fab (s : State) (t0 : Tile) : (s.setTile t0).fab = s.fab := rfl
@[simp] theorem State.setTile_regs (s : State) (t0 : Tile) : (s.setTile t0).regs = s.regs := rfl
@[simp] theorem State.setTile_ctrs (s : State) (t0 : Tile) : (s.setTile t0).ctrs = s.ctrs := rfl
@[simp] theorem State.setTile_latches (s : State) (t0 : Tile) : (s.setTile t0).latches = s.latches := rfl
@[simp] theorem State.setTile_free (s : State) (t0 : Tile) : (s.setTile t0).free = s.free := rfl
@[simp] theorem State.setTile_out (s : State) (t0 : Tile) : (s.setTile t0).out = s.out := rfl

@[simp] theorem State.putStage_pending (s : State) (k stage credit : Nat) (ramp : Option (Bool × Nat)) : (s.putStage k stage credit ramp).pending = s.pending := rfl
@[simp] theorem State.putStage_ms (s : State) (k stage credit : Nat) (ramp : Option (Bool × Nat)) : (s.putStage k stage credit ramp).ms = s.ms := rfl
@[simp] theorem State.putStage_hg (s : State) (k stage credit : Nat) (ramp : Option (Bool × Nat)) : (s.putStage k stage credit ramp).hg = s.hg := rfl
@[simp] theorem State.putStage_mv (s : State) (k stage credit : Nat) (ramp : Option (Bool × Nat)) : (s.putStage k stage credit ramp).mv = s.mv := rfl
@[simp] theorem State.putStage_ham (s : State) (k stage credit : Nat) (ramp : Option (Bool × Nat)) : (s.putStage k stage credit ramp).ham = s.ham := rfl
@[simp] theorem State.putStage_ld (s : State) (k stage credit : Nat) (ramp : Option (Bool × Nat)) : (s.putStage k stage credit ramp).ld = s.ld := rfl
@[simp] theorem State.putStage_tb (s : State) (k stage credit : Nat) (ramp : Option (Bool × Nat)) : (s.putStage k stage credit ramp).tb = s.tb := rfl
@[simp] theorem State.putStage_irq (s : State) (k stage credit : Nat) (ramp : Option (Bool × Nat)) : (s.putStage k stage credit ramp).irq = s.irq := rfl
@[simp] theorem State.putStage_pcie (s : State) (k stage credit : Nat) (ramp : Option (Bool × Nat)) : (s.putStage k stage credit ramp).pcie = s.pcie := rfl
@[simp] theorem State.putStage_im (s : State) (k stage credit : Nat) (ramp : Option (Bool × Nat)) : (s.putStage k stage credit ramp).im = s.im := rfl
@[simp] theorem State.putStage_af (s : State) (k stage credit : Nat) (ramp : Option (Bool × Nat)) : (s.putStage k stage credit ramp).af = s.af := rfl
@[simp] theorem State.putStage_uk (s : State) (k stage credit : Nat) (ramp : Option (Bool × Nat)) : (s.putStage k stage credit ramp).uk = s.uk := rfl
@[simp] theorem State.putStage_xe (s : State) (k stage credit : Nat) (ramp : Option (Bool × Nat)) : (s.putStage k stage credit ramp).xe = s.xe := rfl
@[simp] theorem State.putStage_fab (s : State) (k stage credit : Nat) (ramp : Option (Bool × Nat)) : (s.putStage k stage credit ramp).fab = s.fab := rfl
@[simp] theorem State.putStage_regs (s : State) (k stage credit : Nat) (ramp : Option (Bool × Nat)) : (s.putStage k stage credit ramp).regs = s.regs := rfl
@[simp] theorem State.putStage_ctrs (s : State) (k stage credit : Nat) (ramp : Option (Bool × Nat)) : (s.putStage k stage credit ramp).ctrs = s.ctrs := rfl
@[simp] theorem State.putStage_latches (s : State) (k stage credit : Nat) (ramp : Option (Bool × Nat)) : (s.putStage k stage credit ramp).latches = s.latches := rfl
@[simp] theorem State.putStage_free (s : State) (k stage credit : Nat) (ramp : Option (Bool × Nat)) : (s.putStage k stage credit ramp).free = s.free := rfl
@[simp] theorem State.putStage_out (s : State) (k stage credit : Nat) (ramp : Option (Bool × Nat)) : (s.putStage k stage credit ramp).out = s.out := rfl

@[simp] theorem State.setTiles_pending (s : State) (w : Work) (l0 : List Tile) : (s.setTiles w l0).pending = s.pending := rfl
@[simp] theorem State.setTiles_ms (s : State) (w : Work) (l0 : List Tile) : (s.setTiles w l0).ms = s.ms := rfl
@[simp] theorem State.setTiles_hg (s : State) (w : Work) (l0 : List Tile) : (s.setTiles w l0).hg = s.hg := rfl
@[simp] theorem State.setTiles_mv (s : State) (w : Work) (l0 : List Tile) : (s.setTiles w l0).mv = s.mv := rfl
@[simp] theorem State.setTiles_ham (s : State) (w : Work) (l0 : List Tile) : (s.setTiles w l0).ham = s.ham := rfl
@[simp] theorem State.setTiles_ld (s : State) (w : Work) (l0 : List Tile) : (s.setTiles w l0).ld = s.ld := rfl
@[simp] theorem State.setTiles_tb (s : State) (w : Work) (l0 : List Tile) : (s.setTiles w l0).tb = s.tb := rfl
@[simp] theorem State.setTiles_irq (s : State) (w : Work) (l0 : List Tile) : (s.setTiles w l0).irq = s.irq := rfl
@[simp] theorem State.setTiles_pcie (s : State) (w : Work) (l0 : List Tile) : (s.setTiles w l0).pcie = s.pcie := rfl
@[simp] theorem State.setTiles_im (s : State) (w : Work) (l0 : List Tile) : (s.setTiles w l0).im = s.im := rfl
@[simp] theorem State.setTiles_af (s : State) (w : Work) (l0 : List Tile) : (s.setTiles w l0).af = s.af := rfl
@[simp] theorem State.setTiles_uk (s : State) (w : Work) (l0 : List Tile) : (s.setTiles w l0).uk = s.uk := rfl
@[simp] theorem State.setTiles_xe (s : State) (w : Work) (l0 : List Tile) : (s.setTiles w l0).xe = s.xe := rfl
@[simp] theorem State.setTiles_fab (s : State) (w : Work) (l0 : List Tile) : (s.setTiles w l0).fab = s.fab := rfl
@[simp] theorem State.setTiles_regs (s : State) (w : Work) (l0 : List Tile) : (s.setTiles w l0).regs = s.regs := rfl
@[simp] theorem State.setTiles_ctrs (s : State) (w : Work) (l0 : List Tile) : (s.setTiles w l0).ctrs = s.ctrs := rfl
@[simp] theorem State.setTiles_latches (s : State) (w : Work) (l0 : List Tile) : (s.setTiles w l0).latches = s.latches := rfl
@[simp] theorem State.setTiles_free (s : State) (w : Work) (l0 : List Tile) : (s.setTiles w l0).free = s.free := rfl
@[simp] theorem State.setTiles_out (s : State) (w : Work) (l0 : List Tile) : (s.setTiles w l0).out = s.out := rfl

@[simp] theorem State.setArr_pending (s : State) (k : Nat) (a : Arr) : (s.setArr k a).pending = s.pending := rfl
@[simp] theorem State.setArr_ms (s : State) (k : Nat) (a : Arr) : (s.setArr k a).ms = s.ms := rfl
@[simp] theorem State.setArr_hg (s : State) (k : Nat) (a : Arr) : (s.setArr k a).hg = s.hg := rfl
@[simp] theorem State.setArr_mv (s : State) (k : Nat) (a : Arr) : (s.setArr k a).mv = s.mv := rfl
@[simp] theorem State.setArr_ham (s : State) (k : Nat) (a : Arr) : (s.setArr k a).ham = s.ham := rfl
@[simp] theorem State.setArr_ld (s : State) (k : Nat) (a : Arr) : (s.setArr k a).ld = s.ld := rfl
@[simp] theorem State.setArr_tb (s : State) (k : Nat) (a : Arr) : (s.setArr k a).tb = s.tb := rfl
@[simp] theorem State.setArr_irq (s : State) (k : Nat) (a : Arr) : (s.setArr k a).irq = s.irq := rfl
@[simp] theorem State.setArr_pcie (s : State) (k : Nat) (a : Arr) : (s.setArr k a).pcie = s.pcie := rfl
@[simp] theorem State.setArr_im (s : State) (k : Nat) (a : Arr) : (s.setArr k a).im = s.im := rfl
@[simp] theorem State.setArr_mc (s : State) (k : Nat) (a : Arr) : (s.setArr k a).mc = s.mc := rfl
@[simp] theorem State.setArr_uk (s : State) (k : Nat) (a : Arr) : (s.setArr k a).uk = s.uk := rfl
@[simp] theorem State.setArr_xe (s : State) (k : Nat) (a : Arr) : (s.setArr k a).xe = s.xe := rfl
@[simp] theorem State.setArr_fab (s : State) (k : Nat) (a : Arr) : (s.setArr k a).fab = s.fab := rfl
@[simp] theorem State.setArr_regs (s : State) (k : Nat) (a : Arr) : (s.setArr k a).regs = s.regs := rfl
@[simp] theorem State.setArr_ctrs (s : State) (k : Nat) (a : Arr) : (s.setArr k a).ctrs = s.ctrs := rfl
@[simp] theorem State.setArr_latches (s : State) (k : Nat) (a : Arr) : (s.setArr k a).latches = s.latches := rfl
@[simp] theorem State.setArr_free (s : State) (k : Nat) (a : Arr) : (s.setArr k a).free = s.free := rfl
@[simp] theorem State.setArr_out (s : State) (k : Nat) (a : Arr) : (s.setArr k a).out = s.out := rfl

@[simp] theorem State.setRead_pending (s : State) (x : Read) : (s.setRead x).pending = s.pending := rfl
@[simp] theorem State.setRead_ms (s : State) (x : Read) : (s.setRead x).ms = s.ms := rfl
@[simp] theorem State.setRead_hg (s : State) (x : Read) : (s.setRead x).hg = s.hg := rfl
@[simp] theorem State.setRead_mv (s : State) (x : Read) : (s.setRead x).mv = s.mv := rfl
@[simp] theorem State.setRead_ham (s : State) (x : Read) : (s.setRead x).ham = s.ham := rfl
@[simp] theorem State.setRead_ld (s : State) (x : Read) : (s.setRead x).ld = s.ld := rfl
@[simp] theorem State.setRead_tb (s : State) (x : Read) : (s.setRead x).tb = s.tb := rfl
@[simp] theorem State.setRead_irq (s : State) (x : Read) : (s.setRead x).irq = s.irq := rfl
@[simp] theorem State.setRead_pcie (s : State) (x : Read) : (s.setRead x).pcie = s.pcie := rfl
@[simp] theorem State.setRead_im (s : State) (x : Read) : (s.setRead x).im = s.im := rfl
@[simp] theorem State.setRead_mc (s : State) (x : Read) : (s.setRead x).mc = s.mc := rfl
@[simp] theorem State.setRead_uk (s : State) (x : Read) : (s.setRead x).uk = s.uk := rfl
@[simp] theorem State.setRead_xe (s : State) (x : Read) : (s.setRead x).xe = s.xe := rfl
@[simp] theorem State.setRead_fab (s : State) (x : Read) : (s.setRead x).fab = s.fab := rfl
@[simp] theorem State.setRead_regs (s : State) (x : Read) : (s.setRead x).regs = s.regs := rfl
@[simp] theorem State.setRead_ctrs (s : State) (x : Read) : (s.setRead x).ctrs = s.ctrs := rfl
@[simp] theorem State.setRead_latches (s : State) (x : Read) : (s.setRead x).latches = s.latches := rfl
@[simp] theorem State.setRead_free (s : State) (x : Read) : (s.setRead x).free = s.free := rfl
@[simp] theorem State.setRead_out (s : State) (x : Read) : (s.setRead x).out = s.out := rfl

@[simp] theorem State.setResident_pending (s : State) (t0 : Resident) : (s.setResident t0).pending = s.pending := rfl
@[simp] theorem State.setResident_ms (s : State) (t0 : Resident) : (s.setResident t0).ms = s.ms := rfl
@[simp] theorem State.setResident_hg (s : State) (t0 : Resident) : (s.setResident t0).hg = s.hg := rfl
@[simp] theorem State.setResident_mv (s : State) (t0 : Resident) : (s.setResident t0).mv = s.mv := rfl
@[simp] theorem State.setResident_ham (s : State) (t0 : Resident) : (s.setResident t0).ham = s.ham := rfl
@[simp] theorem State.setResident_ld (s : State) (t0 : Resident) : (s.setResident t0).ld = s.ld := rfl
@[simp] theorem State.setResident_tb (s : State) (t0 : Resident) : (s.setResident t0).tb = s.tb := rfl
@[simp] theorem State.setResident_irq (s : State) (t0 : Resident) : (s.setResident t0).irq = s.irq := rfl
@[simp] theorem State.setResident_pcie (s : State) (t0 : Resident) : (s.setResident t0).pcie = s.pcie := rfl
@[simp] theorem State.setResident_im (s : State) (t0 : Resident) : (s.setResident t0).im = s.im := rfl
@[simp] theorem State.setResident_mc (s : State) (t0 : Resident) : (s.setResident t0).mc = s.mc := rfl
@[simp] theorem State.setResident_uk (s : State) (t0 : Resident) : (s.setResident t0).uk = s.uk := rfl
@[simp] theorem State.setResident_xe (s : State) (t0 : Resident) : (s.setResident t0).xe = s.xe := rfl
@[simp] theorem State.setResident_fab (s : State) (t0 : Resident) : (s.setResident t0).fab = s.fab := rfl
@[simp] theorem State.setResident_regs (s : State) (t0 : Resident) : (s.setResident t0).regs = s.regs := rfl
@[simp] theorem State.setResident_ctrs (s : State) (t0 : Resident) : (s.setResident t0).ctrs = s.ctrs := rfl
@[simp] theorem State.setResident_latches (s : State) (t0 : Resident) : (s.setResident t0).latches = s.latches := rfl
@[simp] theorem State.setResident_free (s : State) (t0 : Resident) : (s.setResident t0).free = s.free := rfl
@[simp] theorem State.setResident_out (s : State) (t0 : Resident) : (s.setResident t0).out = s.out := rfl

@[simp] theorem State.setMatvec_pending (s : State) (w : Matvec) : (s.setMatvec w).pending = s.pending := rfl
@[simp] theorem State.setMatvec_ms (s : State) (w : Matvec) : (s.setMatvec w).ms = s.ms := rfl
@[simp] theorem State.setMatvec_hg (s : State) (w : Matvec) : (s.setMatvec w).hg = s.hg := rfl
@[simp] theorem State.setMatvec_mv (s : State) (w : Matvec) : (s.setMatvec w).mv = s.mv := rfl
@[simp] theorem State.setMatvec_ham (s : State) (w : Matvec) : (s.setMatvec w).ham = s.ham := rfl
@[simp] theorem State.setMatvec_ld (s : State) (w : Matvec) : (s.setMatvec w).ld = s.ld := rfl
@[simp] theorem State.setMatvec_tb (s : State) (w : Matvec) : (s.setMatvec w).tb = s.tb := rfl
@[simp] theorem State.setMatvec_irq (s : State) (w : Matvec) : (s.setMatvec w).irq = s.irq := rfl
@[simp] theorem State.setMatvec_pcie (s : State) (w : Matvec) : (s.setMatvec w).pcie = s.pcie := rfl
@[simp] theorem State.setMatvec_im (s : State) (w : Matvec) : (s.setMatvec w).im = s.im := rfl
@[simp] theorem State.setMatvec_mc (s : State) (w : Matvec) : (s.setMatvec w).mc = s.mc := rfl
@[simp] theorem State.setMatvec_uk (s : State) (w : Matvec) : (s.setMatvec w).uk = s.uk := rfl
@[simp] theorem State.setMatvec_xe (s : State) (w : Matvec) : (s.setMatvec w).xe = s.xe := rfl
@[simp] theorem State.setMatvec_fab (s : State) (w : Matvec) : (s.setMatvec w).fab = s.fab := rfl
@[simp] theorem State.setMatvec_regs (s : State) (w : Matvec) : (s.setMatvec w).regs = s.regs := rfl
@[simp] theorem State.setMatvec_ctrs (s : State) (w : Matvec) : (s.setMatvec w).ctrs = s.ctrs := rfl
@[simp] theorem State.setMatvec_latches (s : State) (w : Matvec) : (s.setMatvec w).latches = s.latches := rfl
@[simp] theorem State.setMatvec_free (s : State) (w : Matvec) : (s.setMatvec w).free = s.free := rfl
@[simp] theorem State.setMatvec_out (s : State) (w : Matvec) : (s.setMatvec w).out = s.out := rfl

@[simp] theorem State.mapSpare_pending (s : State) (root spare : Nat) : (s.mapSpare root spare).pending = s.pending := rfl
@[simp] theorem State.mapSpare_ms (s : State) (root spare : Nat) : (s.mapSpare root spare).ms = s.ms := rfl
@[simp] theorem State.mapSpare_hg (s : State) (root spare : Nat) : (s.mapSpare root spare).hg = s.hg := rfl
@[simp] theorem State.mapSpare_mv (s : State) (root spare : Nat) : (s.mapSpare root spare).mv = s.mv := rfl
@[simp] theorem State.mapSpare_ham (s : State) (root spare : Nat) : (s.mapSpare root spare).ham = s.ham := rfl
@[simp] theorem State.mapSpare_ld (s : State) (root spare : Nat) : (s.mapSpare root spare).ld = s.ld := rfl
@[simp] theorem State.mapSpare_tb (s : State) (root spare : Nat) : (s.mapSpare root spare).tb = s.tb := rfl
@[simp] theorem State.mapSpare_irq (s : State) (root spare : Nat) : (s.mapSpare root spare).irq = s.irq := rfl
@[simp] theorem State.mapSpare_pcie (s : State) (root spare : Nat) : (s.mapSpare root spare).pcie = s.pcie := rfl
@[simp] theorem State.mapSpare_mc (s : State) (root spare : Nat) : (s.mapSpare root spare).mc = s.mc := rfl
@[simp] theorem State.mapSpare_af (s : State) (root spare : Nat) : (s.mapSpare root spare).af = s.af := rfl
@[simp] theorem State.mapSpare_uk (s : State) (root spare : Nat) : (s.mapSpare root spare).uk = s.uk := rfl
@[simp] theorem State.mapSpare_xe (s : State) (root spare : Nat) : (s.mapSpare root spare).xe = s.xe := rfl
@[simp] theorem State.mapSpare_fab (s : State) (root spare : Nat) : (s.mapSpare root spare).fab = s.fab := rfl
@[simp] theorem State.mapSpare_regs (s : State) (root spare : Nat) : (s.mapSpare root spare).regs = s.regs := rfl
@[simp] theorem State.mapSpare_ctrs (s : State) (root spare : Nat) : (s.mapSpare root spare).ctrs = s.ctrs := rfl
@[simp] theorem State.mapSpare_latches (s : State) (root spare : Nat) : (s.mapSpare root spare).latches = s.latches := rfl
@[simp] theorem State.mapSpare_free (s : State) (root spare : Nat) : (s.mapSpare root spare).free = s.free := rfl
@[simp] theorem State.mapSpare_out (s : State) (root spare : Nat) : (s.mapSpare root spare).out = s.out := rfl

@[simp] theorem State.setAct_pending (s : State) (a : Activity) : (s.setAct a).pending = s.pending := rfl
@[simp] theorem State.setAct_ms (s : State) (a : Activity) : (s.setAct a).ms = s.ms := rfl
@[simp] theorem State.setAct_hg (s : State) (a : Activity) : (s.setAct a).hg = s.hg := rfl
@[simp] theorem State.setAct_mv (s : State) (a : Activity) : (s.setAct a).mv = s.mv := rfl
@[simp] theorem State.setAct_ham (s : State) (a : Activity) : (s.setAct a).ham = s.ham := rfl
@[simp] theorem State.setAct_ld (s : State) (a : Activity) : (s.setAct a).ld = s.ld := rfl
@[simp] theorem State.setAct_tb (s : State) (a : Activity) : (s.setAct a).tb = s.tb := rfl
@[simp] theorem State.setAct_irq (s : State) (a : Activity) : (s.setAct a).irq = s.irq := rfl
@[simp] theorem State.setAct_pcie (s : State) (a : Activity) : (s.setAct a).pcie = s.pcie := rfl
@[simp] theorem State.setAct_im (s : State) (a : Activity) : (s.setAct a).im = s.im := rfl
@[simp] theorem State.setAct_mc (s : State) (a : Activity) : (s.setAct a).mc = s.mc := rfl
@[simp] theorem State.setAct_af (s : State) (a : Activity) : (s.setAct a).af = s.af := rfl
@[simp] theorem State.setAct_xe (s : State) (a : Activity) : (s.setAct a).xe = s.xe := rfl
@[simp] theorem State.setAct_fab (s : State) (a : Activity) : (s.setAct a).fab = s.fab := rfl
@[simp] theorem State.setAct_regs (s : State) (a : Activity) : (s.setAct a).regs = s.regs := rfl
@[simp] theorem State.setAct_ctrs (s : State) (a : Activity) : (s.setAct a).ctrs = s.ctrs := rfl
@[simp] theorem State.setAct_latches (s : State) (a : Activity) : (s.setAct a).latches = s.latches := rfl
@[simp] theorem State.setAct_free (s : State) (a : Activity) : (s.setAct a).free = s.free := rfl
@[simp] theorem State.setAct_out (s : State) (a : Activity) : (s.setAct a).out = s.out := rfl

@[simp] theorem State.setD2d_pending (s : State) (k : Nat) (x : D2DLink) : (s.setD2d k x).pending = s.pending := rfl
@[simp] theorem State.setD2d_ms (s : State) (k : Nat) (x : D2DLink) : (s.setD2d k x).ms = s.ms := rfl
@[simp] theorem State.setD2d_hg (s : State) (k : Nat) (x : D2DLink) : (s.setD2d k x).hg = s.hg := rfl
@[simp] theorem State.setD2d_mv (s : State) (k : Nat) (x : D2DLink) : (s.setD2d k x).mv = s.mv := rfl
@[simp] theorem State.setD2d_ham (s : State) (k : Nat) (x : D2DLink) : (s.setD2d k x).ham = s.ham := rfl
@[simp] theorem State.setD2d_ld (s : State) (k : Nat) (x : D2DLink) : (s.setD2d k x).ld = s.ld := rfl
@[simp] theorem State.setD2d_tb (s : State) (k : Nat) (x : D2DLink) : (s.setD2d k x).tb = s.tb := rfl
@[simp] theorem State.setD2d_irq (s : State) (k : Nat) (x : D2DLink) : (s.setD2d k x).irq = s.irq := rfl
@[simp] theorem State.setD2d_pcie (s : State) (k : Nat) (x : D2DLink) : (s.setD2d k x).pcie = s.pcie := rfl
@[simp] theorem State.setD2d_im (s : State) (k : Nat) (x : D2DLink) : (s.setD2d k x).im = s.im := rfl
@[simp] theorem State.setD2d_mc (s : State) (k : Nat) (x : D2DLink) : (s.setD2d k x).mc = s.mc := rfl
@[simp] theorem State.setD2d_af (s : State) (k : Nat) (x : D2DLink) : (s.setD2d k x).af = s.af := rfl
@[simp] theorem State.setD2d_uk (s : State) (k : Nat) (x : D2DLink) : (s.setD2d k x).uk = s.uk := rfl
@[simp] theorem State.setD2d_xe (s : State) (k : Nat) (x : D2DLink) : (s.setD2d k x).xe = s.xe := rfl
@[simp] theorem State.setD2d_regs (s : State) (k : Nat) (x : D2DLink) : (s.setD2d k x).regs = s.regs := rfl
@[simp] theorem State.setD2d_ctrs (s : State) (k : Nat) (x : D2DLink) : (s.setD2d k x).ctrs = s.ctrs := rfl
@[simp] theorem State.setD2d_latches (s : State) (k : Nat) (x : D2DLink) : (s.setD2d k x).latches = s.latches := rfl
@[simp] theorem State.setD2d_free (s : State) (k : Nat) (x : D2DLink) : (s.setD2d k x).free = s.free := rfl
@[simp] theorem State.setD2d_out (s : State) (k : Nat) (x : D2DLink) : (s.setD2d k x).out = s.out := rfl

@[simp] theorem State.addList_pending (s : State) (r n ident : Nat) (entries : List Byte) : (s.addList r n ident entries).pending = s.pending := rfl
@[simp] theorem State.addList_ms (s : State) (r n ident : Nat) (entries : List Byte) : (s.addList r n ident entries).ms = s.ms := rfl
@[simp] theorem State.addList_hg (s : State) (r n ident : Nat) (entries : List Byte) : (s.addList r n ident entries).hg = s.hg := rfl
@[simp] theorem State.addList_mv (s : State) (r n ident : Nat) (entries : List Byte) : (s.addList r n ident entries).mv = s.mv := rfl
@[simp] theorem State.addList_ham (s : State) (r n ident : Nat) (entries : List Byte) : (s.addList r n ident entries).ham = s.ham := rfl
@[simp] theorem State.addList_ld (s : State) (r n ident : Nat) (entries : List Byte) : (s.addList r n ident entries).ld = s.ld := rfl
@[simp] theorem State.addList_tb (s : State) (r n ident : Nat) (entries : List Byte) : (s.addList r n ident entries).tb = s.tb := rfl
@[simp] theorem State.addList_irq (s : State) (r n ident : Nat) (entries : List Byte) : (s.addList r n ident entries).irq = s.irq := rfl
@[simp] theorem State.addList_pcie (s : State) (r n ident : Nat) (entries : List Byte) : (s.addList r n ident entries).pcie = s.pcie := rfl
@[simp] theorem State.addList_im (s : State) (r n ident : Nat) (entries : List Byte) : (s.addList r n ident entries).im = s.im := rfl
@[simp] theorem State.addList_mc (s : State) (r n ident : Nat) (entries : List Byte) : (s.addList r n ident entries).mc = s.mc := rfl
@[simp] theorem State.addList_af (s : State) (r n ident : Nat) (entries : List Byte) : (s.addList r n ident entries).af = s.af := rfl
@[simp] theorem State.addList_uk (s : State) (r n ident : Nat) (entries : List Byte) : (s.addList r n ident entries).uk = s.uk := rfl
@[simp] theorem State.addList_fab (s : State) (r n ident : Nat) (entries : List Byte) : (s.addList r n ident entries).fab = s.fab := rfl
@[simp] theorem State.addList_regs (s : State) (r n ident : Nat) (entries : List Byte) : (s.addList r n ident entries).regs = s.regs := rfl
@[simp] theorem State.addList_ctrs (s : State) (r n ident : Nat) (entries : List Byte) : (s.addList r n ident entries).ctrs = s.ctrs := rfl
@[simp] theorem State.addList_latches (s : State) (r n ident : Nat) (entries : List Byte) : (s.addList r n ident entries).latches = s.latches := rfl
@[simp] theorem State.addList_free (s : State) (r n ident : Nat) (entries : List Byte) : (s.addList r n ident entries).free = s.free := rfl
@[simp] theorem State.addList_out (s : State) (r n ident : Nat) (entries : List Byte) : (s.addList r n ident entries).out = s.out := rfl

@[simp] theorem State.setChan_pending (s : State) (c : Nat) (h : Channel) : (s.setChan c h).pending = s.pending := rfl
@[simp] theorem State.setChan_ms (s : State) (c : Nat) (h : Channel) : (s.setChan c h).ms = s.ms := rfl
@[simp] theorem State.setChan_hg (s : State) (c : Nat) (h : Channel) : (s.setChan c h).hg = s.hg := rfl
@[simp] theorem State.setChan_ham (s : State) (c : Nat) (h : Channel) : (s.setChan c h).ham = s.ham := rfl
@[simp] theorem State.setChan_ld (s : State) (c : Nat) (h : Channel) : (s.setChan c h).ld = s.ld := rfl
@[simp] theorem State.setChan_tb (s : State) (c : Nat) (h : Channel) : (s.setChan c h).tb = s.tb := rfl
@[simp] theorem State.setChan_irq (s : State) (c : Nat) (h : Channel) : (s.setChan c h).irq = s.irq := rfl
@[simp] theorem State.setChan_pcie (s : State) (c : Nat) (h : Channel) : (s.setChan c h).pcie = s.pcie := rfl
@[simp] theorem State.setChan_im (s : State) (c : Nat) (h : Channel) : (s.setChan c h).im = s.im := rfl
@[simp] theorem State.setChan_mc (s : State) (c : Nat) (h : Channel) : (s.setChan c h).mc = s.mc := rfl
@[simp] theorem State.setChan_af (s : State) (c : Nat) (h : Channel) : (s.setChan c h).af = s.af := rfl
@[simp] theorem State.setChan_uk (s : State) (c : Nat) (h : Channel) : (s.setChan c h).uk = s.uk := rfl
@[simp] theorem State.setChan_xe (s : State) (c : Nat) (h : Channel) : (s.setChan c h).xe = s.xe := rfl
@[simp] theorem State.setChan_fab (s : State) (c : Nat) (h : Channel) : (s.setChan c h).fab = s.fab := rfl
@[simp] theorem State.setChan_regs (s : State) (c : Nat) (h : Channel) : (s.setChan c h).regs = s.regs := rfl
@[simp] theorem State.setChan_ctrs (s : State) (c : Nat) (h : Channel) : (s.setChan c h).ctrs = s.ctrs := rfl
@[simp] theorem State.setChan_latches (s : State) (c : Nat) (h : Channel) : (s.setChan c h).latches = s.latches := rfl
@[simp] theorem State.setChan_free (s : State) (c : Nat) (h : Channel) : (s.setChan c h).free = s.free := rfl
@[simp] theorem State.setChan_out (s : State) (c : Nat) (h : Channel) : (s.setChan c h).out = s.out := rfl

@[simp] theorem State.releaseEntry_pending (s : State) (n : Nat) : (s.releaseEntry n).pending = s.pending := rfl
@[simp] theorem State.releaseEntry_ms (s : State) (n : Nat) : (s.releaseEntry n).ms = s.ms := rfl
@[simp] theorem State.releaseEntry_hg (s : State) (n : Nat) : (s.releaseEntry n).hg = s.hg := rfl
@[simp] theorem State.releaseEntry_mv (s : State) (n : Nat) : (s.releaseEntry n).mv = s.mv := rfl
@[simp] theorem State.releaseEntry_ld (s : State) (n : Nat) : (s.releaseEntry n).ld = s.ld := rfl
@[simp] theorem State.releaseEntry_tb (s : State) (n : Nat) : (s.releaseEntry n).tb = s.tb := rfl
@[simp] theorem State.releaseEntry_irq (s : State) (n : Nat) : (s.releaseEntry n).irq = s.irq := rfl
@[simp] theorem State.releaseEntry_pcie (s : State) (n : Nat) : (s.releaseEntry n).pcie = s.pcie := rfl
@[simp] theorem State.releaseEntry_im (s : State) (n : Nat) : (s.releaseEntry n).im = s.im := rfl
@[simp] theorem State.releaseEntry_mc (s : State) (n : Nat) : (s.releaseEntry n).mc = s.mc := rfl
@[simp] theorem State.releaseEntry_af (s : State) (n : Nat) : (s.releaseEntry n).af = s.af := rfl
@[simp] theorem State.releaseEntry_uk (s : State) (n : Nat) : (s.releaseEntry n).uk = s.uk := rfl
@[simp] theorem State.releaseEntry_xe (s : State) (n : Nat) : (s.releaseEntry n).xe = s.xe := rfl
@[simp] theorem State.releaseEntry_fab (s : State) (n : Nat) : (s.releaseEntry n).fab = s.fab := rfl
@[simp] theorem State.releaseEntry_regs (s : State) (n : Nat) : (s.releaseEntry n).regs = s.regs := rfl
@[simp] theorem State.releaseEntry_ctrs (s : State) (n : Nat) : (s.releaseEntry n).ctrs = s.ctrs := rfl
@[simp] theorem State.releaseEntry_latches (s : State) (n : Nat) : (s.releaseEntry n).latches = s.latches := rfl
@[simp] theorem State.releaseEntry_free (s : State) (n : Nat) : (s.releaseEntry n).free = s.free := rfl
@[simp] theorem State.releaseEntry_out (s : State) (n : Nat) : (s.releaseEntry n).out = s.out := rfl

@[simp] theorem State.spillFailed_pending (s : State) (n : Nat) : (s.spillFailed n).pending = s.pending := rfl
@[simp] theorem State.spillFailed_ms (s : State) (n : Nat) : (s.spillFailed n).ms = s.ms := rfl
@[simp] theorem State.spillFailed_hg (s : State) (n : Nat) : (s.spillFailed n).hg = s.hg := rfl
@[simp] theorem State.spillFailed_mv (s : State) (n : Nat) : (s.spillFailed n).mv = s.mv := rfl
@[simp] theorem State.spillFailed_ld (s : State) (n : Nat) : (s.spillFailed n).ld = s.ld := rfl
@[simp] theorem State.spillFailed_tb (s : State) (n : Nat) : (s.spillFailed n).tb = s.tb := rfl
@[simp] theorem State.spillFailed_irq (s : State) (n : Nat) : (s.spillFailed n).irq = s.irq := rfl
@[simp] theorem State.spillFailed_pcie (s : State) (n : Nat) : (s.spillFailed n).pcie = s.pcie := rfl
@[simp] theorem State.spillFailed_im (s : State) (n : Nat) : (s.spillFailed n).im = s.im := rfl
@[simp] theorem State.spillFailed_mc (s : State) (n : Nat) : (s.spillFailed n).mc = s.mc := rfl
@[simp] theorem State.spillFailed_af (s : State) (n : Nat) : (s.spillFailed n).af = s.af := rfl
@[simp] theorem State.spillFailed_uk (s : State) (n : Nat) : (s.spillFailed n).uk = s.uk := rfl
@[simp] theorem State.spillFailed_xe (s : State) (n : Nat) : (s.spillFailed n).xe = s.xe := rfl
@[simp] theorem State.spillFailed_fab (s : State) (n : Nat) : (s.spillFailed n).fab = s.fab := rfl
@[simp] theorem State.spillFailed_regs (s : State) (n : Nat) : (s.spillFailed n).regs = s.regs := rfl
@[simp] theorem State.spillFailed_ctrs (s : State) (n : Nat) : (s.spillFailed n).ctrs = s.ctrs := rfl
@[simp] theorem State.spillFailed_latches (s : State) (n : Nat) : (s.spillFailed n).latches = s.latches := rfl
@[simp] theorem State.spillFailed_free (s : State) (n : Nat) : (s.spillFailed n).free = s.free := rfl
@[simp] theorem State.spillFailed_out (s : State) (n : Nat) : (s.spillFailed n).out = s.out := rfl

@[simp] theorem State.setEntry_pending (s : State) (e : HamperEntry) : (s.setEntry e).pending = s.pending := rfl
@[simp] theorem State.setEntry_ms (s : State) (e : HamperEntry) : (s.setEntry e).ms = s.ms := rfl
@[simp] theorem State.setEntry_hg (s : State) (e : HamperEntry) : (s.setEntry e).hg = s.hg := rfl
@[simp] theorem State.setEntry_mv (s : State) (e : HamperEntry) : (s.setEntry e).mv = s.mv := rfl
@[simp] theorem State.setEntry_ld (s : State) (e : HamperEntry) : (s.setEntry e).ld = s.ld := rfl
@[simp] theorem State.setEntry_tb (s : State) (e : HamperEntry) : (s.setEntry e).tb = s.tb := rfl
@[simp] theorem State.setEntry_irq (s : State) (e : HamperEntry) : (s.setEntry e).irq = s.irq := rfl
@[simp] theorem State.setEntry_pcie (s : State) (e : HamperEntry) : (s.setEntry e).pcie = s.pcie := rfl
@[simp] theorem State.setEntry_im (s : State) (e : HamperEntry) : (s.setEntry e).im = s.im := rfl
@[simp] theorem State.setEntry_mc (s : State) (e : HamperEntry) : (s.setEntry e).mc = s.mc := rfl
@[simp] theorem State.setEntry_af (s : State) (e : HamperEntry) : (s.setEntry e).af = s.af := rfl
@[simp] theorem State.setEntry_uk (s : State) (e : HamperEntry) : (s.setEntry e).uk = s.uk := rfl
@[simp] theorem State.setEntry_xe (s : State) (e : HamperEntry) : (s.setEntry e).xe = s.xe := rfl
@[simp] theorem State.setEntry_fab (s : State) (e : HamperEntry) : (s.setEntry e).fab = s.fab := rfl
@[simp] theorem State.setEntry_regs (s : State) (e : HamperEntry) : (s.setEntry e).regs = s.regs := rfl
@[simp] theorem State.setEntry_ctrs (s : State) (e : HamperEntry) : (s.setEntry e).ctrs = s.ctrs := rfl
@[simp] theorem State.setEntry_latches (s : State) (e : HamperEntry) : (s.setEntry e).latches = s.latches := rfl
@[simp] theorem State.setEntry_free (s : State) (e : HamperEntry) : (s.setEntry e).free = s.free := rfl
@[simp] theorem State.setEntry_out (s : State) (e : HamperEntry) : (s.setEntry e).out = s.out := rfl

@[simp] theorem State.notKept_pending (s : State) (c : Cmd) : (s.notKept c).pending = s.pending := rfl
@[simp] theorem State.notKept_ms (s : State) (c : Cmd) : (s.notKept c).ms = s.ms := rfl
@[simp] theorem State.notKept_hg (s : State) (c : Cmd) : (s.notKept c).hg = s.hg := rfl
@[simp] theorem State.notKept_mv (s : State) (c : Cmd) : (s.notKept c).mv = s.mv := rfl
@[simp] theorem State.notKept_ld (s : State) (c : Cmd) : (s.notKept c).ld = s.ld := rfl
@[simp] theorem State.notKept_tb (s : State) (c : Cmd) : (s.notKept c).tb = s.tb := rfl
@[simp] theorem State.notKept_irq (s : State) (c : Cmd) : (s.notKept c).irq = s.irq := rfl
@[simp] theorem State.notKept_pcie (s : State) (c : Cmd) : (s.notKept c).pcie = s.pcie := rfl
@[simp] theorem State.notKept_im (s : State) (c : Cmd) : (s.notKept c).im = s.im := rfl
@[simp] theorem State.notKept_mc (s : State) (c : Cmd) : (s.notKept c).mc = s.mc := rfl
@[simp] theorem State.notKept_af (s : State) (c : Cmd) : (s.notKept c).af = s.af := rfl
@[simp] theorem State.notKept_uk (s : State) (c : Cmd) : (s.notKept c).uk = s.uk := rfl
@[simp] theorem State.notKept_xe (s : State) (c : Cmd) : (s.notKept c).xe = s.xe := rfl
@[simp] theorem State.notKept_fab (s : State) (c : Cmd) : (s.notKept c).fab = s.fab := rfl
@[simp] theorem State.notKept_regs (s : State) (c : Cmd) : (s.notKept c).regs = s.regs := rfl
@[simp] theorem State.notKept_ctrs (s : State) (c : Cmd) : (s.notKept c).ctrs = s.ctrs := rfl
@[simp] theorem State.notKept_latches (s : State) (c : Cmd) : (s.notKept c).latches = s.latches := rfl
@[simp] theorem State.notKept_free (s : State) (c : Cmd) : (s.notKept c).free = s.free := rfl
@[simp] theorem State.notKept_out (s : State) (c : Cmd) : (s.notKept c).out = s.out := rfl

@[simp] theorem State.keepArrivals_pending (s : State) (n : Nat) : (s.keepArrivals n).pending = s.pending := rfl
@[simp] theorem State.keepArrivals_ms (s : State) (n : Nat) : (s.keepArrivals n).ms = s.ms := rfl
@[simp] theorem State.keepArrivals_hg (s : State) (n : Nat) : (s.keepArrivals n).hg = s.hg := rfl
@[simp] theorem State.keepArrivals_mv (s : State) (n : Nat) : (s.keepArrivals n).mv = s.mv := rfl
@[simp] theorem State.keepArrivals_ham (s : State) (n : Nat) : (s.keepArrivals n).ham = s.ham := rfl
@[simp] theorem State.keepArrivals_ld (s : State) (n : Nat) : (s.keepArrivals n).ld = s.ld := rfl
@[simp] theorem State.keepArrivals_tb (s : State) (n : Nat) : (s.keepArrivals n).tb = s.tb := rfl
@[simp] theorem State.keepArrivals_pcie (s : State) (n : Nat) : (s.keepArrivals n).pcie = s.pcie := rfl
@[simp] theorem State.keepArrivals_im (s : State) (n : Nat) : (s.keepArrivals n).im = s.im := rfl
@[simp] theorem State.keepArrivals_mc (s : State) (n : Nat) : (s.keepArrivals n).mc = s.mc := rfl
@[simp] theorem State.keepArrivals_af (s : State) (n : Nat) : (s.keepArrivals n).af = s.af := rfl
@[simp] theorem State.keepArrivals_uk (s : State) (n : Nat) : (s.keepArrivals n).uk = s.uk := rfl
@[simp] theorem State.keepArrivals_xe (s : State) (n : Nat) : (s.keepArrivals n).xe = s.xe := rfl
@[simp] theorem State.keepArrivals_fab (s : State) (n : Nat) : (s.keepArrivals n).fab = s.fab := rfl
@[simp] theorem State.keepArrivals_regs (s : State) (n : Nat) : (s.keepArrivals n).regs = s.regs := rfl
@[simp] theorem State.keepArrivals_ctrs (s : State) (n : Nat) : (s.keepArrivals n).ctrs = s.ctrs := rfl
@[simp] theorem State.keepArrivals_latches (s : State) (n : Nat) : (s.keepArrivals n).latches = s.latches := rfl
@[simp] theorem State.keepArrivals_free (s : State) (n : Nat) : (s.keepArrivals n).free = s.free := rfl
@[simp] theorem State.keepArrivals_out (s : State) (n : Nat) : (s.keepArrivals n).out = s.out := rfl

@[simp] theorem State.renewNonce_pending (s : State) : (s.renewNonce).pending = s.pending := rfl
@[simp] theorem State.renewNonce_ms (s : State) : (s.renewNonce).ms = s.ms := rfl
@[simp] theorem State.renewNonce_hg (s : State) : (s.renewNonce).hg = s.hg := rfl
@[simp] theorem State.renewNonce_mv (s : State) : (s.renewNonce).mv = s.mv := rfl
@[simp] theorem State.renewNonce_ham (s : State) : (s.renewNonce).ham = s.ham := rfl
@[simp] theorem State.renewNonce_ld (s : State) : (s.renewNonce).ld = s.ld := rfl
@[simp] theorem State.renewNonce_irq (s : State) : (s.renewNonce).irq = s.irq := rfl
@[simp] theorem State.renewNonce_pcie (s : State) : (s.renewNonce).pcie = s.pcie := rfl
@[simp] theorem State.renewNonce_im (s : State) : (s.renewNonce).im = s.im := rfl
@[simp] theorem State.renewNonce_mc (s : State) : (s.renewNonce).mc = s.mc := rfl
@[simp] theorem State.renewNonce_af (s : State) : (s.renewNonce).af = s.af := rfl
@[simp] theorem State.renewNonce_uk (s : State) : (s.renewNonce).uk = s.uk := rfl
@[simp] theorem State.renewNonce_xe (s : State) : (s.renewNonce).xe = s.xe := rfl
@[simp] theorem State.renewNonce_fab (s : State) : (s.renewNonce).fab = s.fab := rfl
@[simp] theorem State.renewNonce_regs (s : State) : (s.renewNonce).regs = s.regs := rfl
@[simp] theorem State.renewNonce_ctrs (s : State) : (s.renewNonce).ctrs = s.ctrs := rfl
@[simp] theorem State.renewNonce_latches (s : State) : (s.renewNonce).latches = s.latches := rfl
@[simp] theorem State.renewNonce_free (s : State) : (s.renewNonce).free = s.free := rfl
@[simp] theorem State.renewNonce_out (s : State) : (s.renewNonce).out = s.out := rfl

@[simp] theorem State.unholdClaim_pending (s : State) (m : Master) : (s.unholdClaim m).pending = s.pending := rfl
@[simp] theorem State.unholdClaim_ms (s : State) (m : Master) : (s.unholdClaim m).ms = s.ms := rfl
@[simp] theorem State.unholdClaim_hg (s : State) (m : Master) : (s.unholdClaim m).hg = s.hg := rfl
@[simp] theorem State.unholdClaim_mv (s : State) (m : Master) : (s.unholdClaim m).mv = s.mv := rfl
@[simp] theorem State.unholdClaim_ham (s : State) (m : Master) : (s.unholdClaim m).ham = s.ham := rfl
@[simp] theorem State.unholdClaim_ld (s : State) (m : Master) : (s.unholdClaim m).ld = s.ld := rfl
@[simp] theorem State.unholdClaim_irq (s : State) (m : Master) : (s.unholdClaim m).irq = s.irq := rfl
@[simp] theorem State.unholdClaim_pcie (s : State) (m : Master) : (s.unholdClaim m).pcie = s.pcie := rfl
@[simp] theorem State.unholdClaim_im (s : State) (m : Master) : (s.unholdClaim m).im = s.im := rfl
@[simp] theorem State.unholdClaim_mc (s : State) (m : Master) : (s.unholdClaim m).mc = s.mc := rfl
@[simp] theorem State.unholdClaim_af (s : State) (m : Master) : (s.unholdClaim m).af = s.af := rfl
@[simp] theorem State.unholdClaim_uk (s : State) (m : Master) : (s.unholdClaim m).uk = s.uk := rfl
@[simp] theorem State.unholdClaim_xe (s : State) (m : Master) : (s.unholdClaim m).xe = s.xe := rfl
@[simp] theorem State.unholdClaim_fab (s : State) (m : Master) : (s.unholdClaim m).fab = s.fab := rfl
@[simp] theorem State.unholdClaim_regs (s : State) (m : Master) : (s.unholdClaim m).regs = s.regs := rfl
@[simp] theorem State.unholdClaim_ctrs (s : State) (m : Master) : (s.unholdClaim m).ctrs = s.ctrs := rfl
@[simp] theorem State.unholdClaim_latches (s : State) (m : Master) : (s.unholdClaim m).latches = s.latches := rfl
@[simp] theorem State.unholdClaim_free (s : State) (m : Master) : (s.unholdClaim m).free = s.free := rfl
@[simp] theorem State.unholdClaim_out (s : State) (m : Master) : (s.unholdClaim m).out = s.out := rfl

@[simp] theorem State.addCmd_pending (s : State) (c : Cmd) : (s.addCmd c).pending = s.pending := rfl
@[simp] theorem State.addCmd_ms (s : State) (c : Cmd) : (s.addCmd c).ms = s.ms := rfl
@[simp] theorem State.addCmd_mv (s : State) (c : Cmd) : (s.addCmd c).mv = s.mv := rfl
@[simp] theorem State.addCmd_ham (s : State) (c : Cmd) : (s.addCmd c).ham = s.ham := rfl
@[simp] theorem State.addCmd_ld (s : State) (c : Cmd) : (s.addCmd c).ld = s.ld := rfl
@[simp] theorem State.addCmd_tb (s : State) (c : Cmd) : (s.addCmd c).tb = s.tb := rfl
@[simp] theorem State.addCmd_irq (s : State) (c : Cmd) : (s.addCmd c).irq = s.irq := rfl
@[simp] theorem State.addCmd_pcie (s : State) (c : Cmd) : (s.addCmd c).pcie = s.pcie := rfl
@[simp] theorem State.addCmd_im (s : State) (c : Cmd) : (s.addCmd c).im = s.im := rfl
@[simp] theorem State.addCmd_mc (s : State) (c : Cmd) : (s.addCmd c).mc = s.mc := rfl
@[simp] theorem State.addCmd_af (s : State) (c : Cmd) : (s.addCmd c).af = s.af := rfl
@[simp] theorem State.addCmd_uk (s : State) (c : Cmd) : (s.addCmd c).uk = s.uk := rfl
@[simp] theorem State.addCmd_xe (s : State) (c : Cmd) : (s.addCmd c).xe = s.xe := rfl
@[simp] theorem State.addCmd_fab (s : State) (c : Cmd) : (s.addCmd c).fab = s.fab := rfl
@[simp] theorem State.addCmd_regs (s : State) (c : Cmd) : (s.addCmd c).regs = s.regs := rfl
@[simp] theorem State.addCmd_ctrs (s : State) (c : Cmd) : (s.addCmd c).ctrs = s.ctrs := rfl
@[simp] theorem State.addCmd_latches (s : State) (c : Cmd) : (s.addCmd c).latches = s.latches := rfl
@[simp] theorem State.addCmd_free (s : State) (c : Cmd) : (s.addCmd c).free = s.free := rfl
@[simp] theorem State.addCmd_out (s : State) (c : Cmd) : (s.addCmd c).out = s.out := rfl

@[simp] theorem State.updId_pending (s : State) (i : Nat) (f : Cmd → Cmd) : (s.updId i f).pending = s.pending := rfl
@[simp] theorem State.updId_ms (s : State) (i : Nat) (f : Cmd → Cmd) : (s.updId i f).ms = s.ms := rfl
@[simp] theorem State.updId_mv (s : State) (i : Nat) (f : Cmd → Cmd) : (s.updId i f).mv = s.mv := rfl
@[simp] theorem State.updId_ham (s : State) (i : Nat) (f : Cmd → Cmd) : (s.updId i f).ham = s.ham := rfl
@[simp] theorem State.updId_ld (s : State) (i : Nat) (f : Cmd → Cmd) : (s.updId i f).ld = s.ld := rfl
@[simp] theorem State.updId_tb (s : State) (i : Nat) (f : Cmd → Cmd) : (s.updId i f).tb = s.tb := rfl
@[simp] theorem State.updId_irq (s : State) (i : Nat) (f : Cmd → Cmd) : (s.updId i f).irq = s.irq := rfl
@[simp] theorem State.updId_pcie (s : State) (i : Nat) (f : Cmd → Cmd) : (s.updId i f).pcie = s.pcie := rfl
@[simp] theorem State.updId_im (s : State) (i : Nat) (f : Cmd → Cmd) : (s.updId i f).im = s.im := rfl
@[simp] theorem State.updId_mc (s : State) (i : Nat) (f : Cmd → Cmd) : (s.updId i f).mc = s.mc := rfl
@[simp] theorem State.updId_af (s : State) (i : Nat) (f : Cmd → Cmd) : (s.updId i f).af = s.af := rfl
@[simp] theorem State.updId_uk (s : State) (i : Nat) (f : Cmd → Cmd) : (s.updId i f).uk = s.uk := rfl
@[simp] theorem State.updId_xe (s : State) (i : Nat) (f : Cmd → Cmd) : (s.updId i f).xe = s.xe := rfl
@[simp] theorem State.updId_fab (s : State) (i : Nat) (f : Cmd → Cmd) : (s.updId i f).fab = s.fab := rfl
@[simp] theorem State.updId_regs (s : State) (i : Nat) (f : Cmd → Cmd) : (s.updId i f).regs = s.regs := rfl
@[simp] theorem State.updId_ctrs (s : State) (i : Nat) (f : Cmd → Cmd) : (s.updId i f).ctrs = s.ctrs := rfl
@[simp] theorem State.updId_latches (s : State) (i : Nat) (f : Cmd → Cmd) : (s.updId i f).latches = s.latches := rfl
@[simp] theorem State.updId_free (s : State) (i : Nat) (f : Cmd → Cmd) : (s.updId i f).free = s.free := rfl
@[simp] theorem State.updId_out (s : State) (i : Nat) (f : Cmd → Cmd) : (s.updId i f).out = s.out := rfl

@[simp] theorem State.enterA2_pending (s : State) : (s.enterA2).pending = s.pending := rfl
@[simp] theorem State.enterA2_ms (s : State) : (s.enterA2).ms = s.ms := rfl
@[simp] theorem State.enterA2_hg (s : State) : (s.enterA2).hg = s.hg := rfl
@[simp] theorem State.enterA2_mv (s : State) : (s.enterA2).mv = s.mv := rfl
@[simp] theorem State.enterA2_ham (s : State) : (s.enterA2).ham = s.ham := rfl
@[simp] theorem State.enterA2_tb (s : State) : (s.enterA2).tb = s.tb := rfl
@[simp] theorem State.enterA2_irq (s : State) : (s.enterA2).irq = s.irq := rfl
@[simp] theorem State.enterA2_pcie (s : State) : (s.enterA2).pcie = s.pcie := rfl
@[simp] theorem State.enterA2_im (s : State) : (s.enterA2).im = s.im := rfl
@[simp] theorem State.enterA2_mc (s : State) : (s.enterA2).mc = s.mc := rfl
@[simp] theorem State.enterA2_af (s : State) : (s.enterA2).af = s.af := rfl
@[simp] theorem State.enterA2_uk (s : State) : (s.enterA2).uk = s.uk := rfl
@[simp] theorem State.enterA2_xe (s : State) : (s.enterA2).xe = s.xe := rfl
@[simp] theorem State.enterA2_fab (s : State) : (s.enterA2).fab = s.fab := rfl
@[simp] theorem State.enterA2_regs (s : State) : (s.enterA2).regs = s.regs := rfl
@[simp] theorem State.enterA2_ctrs (s : State) : (s.enterA2).ctrs = s.ctrs := rfl
@[simp] theorem State.enterA2_latches (s : State) : (s.enterA2).latches = s.latches := rfl
@[simp] theorem State.enterA2_free (s : State) : (s.enterA2).free = s.free := rfl
@[simp] theorem State.enterA2_out (s : State) : (s.enterA2).out = s.out := rfl

@[simp] theorem State.drawStep_pending (s : State) (n : Nat) : (s.drawStep n).pending = s.pending := rfl
@[simp] theorem State.drawStep_ms (s : State) (n : Nat) : (s.drawStep n).ms = s.ms := rfl
@[simp] theorem State.drawStep_hg (s : State) (n : Nat) : (s.drawStep n).hg = s.hg := rfl
@[simp] theorem State.drawStep_mv (s : State) (n : Nat) : (s.drawStep n).mv = s.mv := rfl
@[simp] theorem State.drawStep_ham (s : State) (n : Nat) : (s.drawStep n).ham = s.ham := rfl
@[simp] theorem State.drawStep_ld (s : State) (n : Nat) : (s.drawStep n).ld = s.ld := rfl
@[simp] theorem State.drawStep_irq (s : State) (n : Nat) : (s.drawStep n).irq = s.irq := rfl
@[simp] theorem State.drawStep_pcie (s : State) (n : Nat) : (s.drawStep n).pcie = s.pcie := rfl
@[simp] theorem State.drawStep_im (s : State) (n : Nat) : (s.drawStep n).im = s.im := rfl
@[simp] theorem State.drawStep_mc (s : State) (n : Nat) : (s.drawStep n).mc = s.mc := rfl
@[simp] theorem State.drawStep_af (s : State) (n : Nat) : (s.drawStep n).af = s.af := rfl
@[simp] theorem State.drawStep_uk (s : State) (n : Nat) : (s.drawStep n).uk = s.uk := rfl
@[simp] theorem State.drawStep_xe (s : State) (n : Nat) : (s.drawStep n).xe = s.xe := rfl
@[simp] theorem State.drawStep_fab (s : State) (n : Nat) : (s.drawStep n).fab = s.fab := rfl
@[simp] theorem State.drawStep_regs (s : State) (n : Nat) : (s.drawStep n).regs = s.regs := rfl
@[simp] theorem State.drawStep_ctrs (s : State) (n : Nat) : (s.drawStep n).ctrs = s.ctrs := rfl
@[simp] theorem State.drawStep_latches (s : State) (n : Nat) : (s.drawStep n).latches = s.latches := rfl
@[simp] theorem State.drawStep_free (s : State) (n : Nat) : (s.drawStep n).free = s.free := rfl
@[simp] theorem State.drawStep_out (s : State) (n : Nat) : (s.drawStep n).out = s.out := rfl

@[simp] theorem State.dropLatch_pending (s : State) (m : Master) (off : Nat) : (s.dropLatch m off).pending = s.pending := rfl
@[simp] theorem State.dropLatch_ms (s : State) (m : Master) (off : Nat) : (s.dropLatch m off).ms = s.ms := rfl
@[simp] theorem State.dropLatch_hg (s : State) (m : Master) (off : Nat) : (s.dropLatch m off).hg = s.hg := rfl
@[simp] theorem State.dropLatch_mv (s : State) (m : Master) (off : Nat) : (s.dropLatch m off).mv = s.mv := rfl
@[simp] theorem State.dropLatch_ham (s : State) (m : Master) (off : Nat) : (s.dropLatch m off).ham = s.ham := rfl
@[simp] theorem State.dropLatch_ld (s : State) (m : Master) (off : Nat) : (s.dropLatch m off).ld = s.ld := rfl
@[simp] theorem State.dropLatch_tb (s : State) (m : Master) (off : Nat) : (s.dropLatch m off).tb = s.tb := rfl
@[simp] theorem State.dropLatch_irq (s : State) (m : Master) (off : Nat) : (s.dropLatch m off).irq = s.irq := rfl
@[simp] theorem State.dropLatch_pcie (s : State) (m : Master) (off : Nat) : (s.dropLatch m off).pcie = s.pcie := rfl
@[simp] theorem State.dropLatch_im (s : State) (m : Master) (off : Nat) : (s.dropLatch m off).im = s.im := rfl
@[simp] theorem State.dropLatch_mc (s : State) (m : Master) (off : Nat) : (s.dropLatch m off).mc = s.mc := rfl
@[simp] theorem State.dropLatch_af (s : State) (m : Master) (off : Nat) : (s.dropLatch m off).af = s.af := rfl
@[simp] theorem State.dropLatch_uk (s : State) (m : Master) (off : Nat) : (s.dropLatch m off).uk = s.uk := rfl
@[simp] theorem State.dropLatch_xe (s : State) (m : Master) (off : Nat) : (s.dropLatch m off).xe = s.xe := rfl
@[simp] theorem State.dropLatch_fab (s : State) (m : Master) (off : Nat) : (s.dropLatch m off).fab = s.fab := rfl
@[simp] theorem State.dropLatch_regs (s : State) (m : Master) (off : Nat) : (s.dropLatch m off).regs = s.regs := rfl
@[simp] theorem State.dropLatch_ctrs (s : State) (m : Master) (off : Nat) : (s.dropLatch m off).ctrs = s.ctrs := rfl
@[simp] theorem State.dropLatch_free (s : State) (m : Master) (off : Nat) : (s.dropLatch m off).free = s.free := rfl
@[simp] theorem State.dropLatch_out (s : State) (m : Master) (off : Nat) : (s.dropLatch m off).out = s.out := rfl

@[simp] theorem State.setLatch_pending (s : State) (m : Master) (off : Nat) (write : Bool) (v : Nat) : (s.setLatch m off write v).pending = s.pending := rfl
@[simp] theorem State.setLatch_ms (s : State) (m : Master) (off : Nat) (write : Bool) (v : Nat) : (s.setLatch m off write v).ms = s.ms := rfl
@[simp] theorem State.setLatch_hg (s : State) (m : Master) (off : Nat) (write : Bool) (v : Nat) : (s.setLatch m off write v).hg = s.hg := rfl
@[simp] theorem State.setLatch_mv (s : State) (m : Master) (off : Nat) (write : Bool) (v : Nat) : (s.setLatch m off write v).mv = s.mv := rfl
@[simp] theorem State.setLatch_ham (s : State) (m : Master) (off : Nat) (write : Bool) (v : Nat) : (s.setLatch m off write v).ham = s.ham := rfl
@[simp] theorem State.setLatch_ld (s : State) (m : Master) (off : Nat) (write : Bool) (v : Nat) : (s.setLatch m off write v).ld = s.ld := rfl
@[simp] theorem State.setLatch_tb (s : State) (m : Master) (off : Nat) (write : Bool) (v : Nat) : (s.setLatch m off write v).tb = s.tb := rfl
@[simp] theorem State.setLatch_irq (s : State) (m : Master) (off : Nat) (write : Bool) (v : Nat) : (s.setLatch m off write v).irq = s.irq := rfl
@[simp] theorem State.setLatch_pcie (s : State) (m : Master) (off : Nat) (write : Bool) (v : Nat) : (s.setLatch m off write v).pcie = s.pcie := rfl
@[simp] theorem State.setLatch_im (s : State) (m : Master) (off : Nat) (write : Bool) (v : Nat) : (s.setLatch m off write v).im = s.im := rfl
@[simp] theorem State.setLatch_mc (s : State) (m : Master) (off : Nat) (write : Bool) (v : Nat) : (s.setLatch m off write v).mc = s.mc := rfl
@[simp] theorem State.setLatch_af (s : State) (m : Master) (off : Nat) (write : Bool) (v : Nat) : (s.setLatch m off write v).af = s.af := rfl
@[simp] theorem State.setLatch_uk (s : State) (m : Master) (off : Nat) (write : Bool) (v : Nat) : (s.setLatch m off write v).uk = s.uk := rfl
@[simp] theorem State.setLatch_xe (s : State) (m : Master) (off : Nat) (write : Bool) (v : Nat) : (s.setLatch m off write v).xe = s.xe := rfl
@[simp] theorem State.setLatch_fab (s : State) (m : Master) (off : Nat) (write : Bool) (v : Nat) : (s.setLatch m off write v).fab = s.fab := rfl
@[simp] theorem State.setLatch_regs (s : State) (m : Master) (off : Nat) (write : Bool) (v : Nat) : (s.setLatch m off write v).regs = s.regs := rfl
@[simp] theorem State.setLatch_ctrs (s : State) (m : Master) (off : Nat) (write : Bool) (v : Nat) : (s.setLatch m off write v).ctrs = s.ctrs := rfl
@[simp] theorem State.setLatch_free (s : State) (m : Master) (off : Nat) (write : Bool) (v : Nat) : (s.setLatch m off write v).free = s.free := rfl
@[simp] theorem State.setLatch_out (s : State) (m : Master) (off : Nat) (write : Bool) (v : Nat) : (s.setLatch m off write v).out = s.out := rfl

/-! ### What was written is read back -/

/-- The stored register at `off`, after a store of `v`. -/
theorem State.reg_setReg {s : State} (h : Tab.wf regReset s.regs = true) (off j v : Nat) :
    (s.setReg off v).reg j = if j = off then v % 2 ^ 64 else s.reg j := by
  unfold State.reg State.setReg
  rw [Tab.get_set h]
  split <;> simp

/-- The counter at `off`, after it has counted `n`. -/
theorem State.ctr_bump {s : State} (h : Tab.wf (fun _ => (0 : W64)) s.ctrs = true) (off j n : Nat) :
    (s.bump off n).ctr j = if j = off then (s.ctr off + n) % 2 ^ 64 else s.ctr j := by
  unfold State.ctr State.bump Tab.upd
  rw [Tab.get_set h]
  split <;> simp

/-- The channel `c`, after it has been written. -/
theorem State.chan_setChan {s : State} (hw : Tab.wf (fun _ => Channel.initial) s.mv = true) (c j : Nat) (h : Channel) :
    (s.setChan c h).chan j = if j = c then h else s.chan j := Tab.get_set hw _ _ _

/-- The ring `n`, after it has been written. -/
theorem State.ring_setRing {s : State} (hw : Tab.wf (fun _ => Ring.initial) s.hg.rings = true) (n j : Nat) (r : Ring) :
    (s.setRing n r).ring j = if j = n then r else s.ring j := Tab.get_set hw _ _ _

/-- The port `p`, after it has been written. -/
theorem State.port_setPort {s : State} (hw : Tab.wf (fun _ => Port.initial) s.fab.ports = true) (p j : Nat) (x : Port) :
    (s.setPort p x).port j = if j = p then x else s.port j := Tab.get_set hw _ _ _

/-- The array `k`, after it has been written. -/
theorem State.arr_setArr {s : State} (hw : Tab.wf (fun _ => Arr.initial) s.af.arrays = true) (k j : Nat) (a : Arr) :
    (s.setArr k a).arr j = if j = k then a else s.arr j := Tab.get_set hw _ _ _

/-- A byte of memory, after one byte has been stored. -/
theorem State.byte_putByte {s : State} (h : s.MemOk) (a j : Nat) (v : Byte) :
    (s.putByte a v).byte j = if j = a then v else s.byte j := Tab.get_set h _ _ _

/-- Bytes outside those stored read as before. -/
theorem State.byte_putBytes_out {s : State} (h : s.MemOk) {a j : Nat} {l : List Byte} (hj : j < a ∨ a + l.length ≤ j) :
    (s.putBytes a l).byte j = s.byte j := by
  induction l generalizing s a with
  | nil => rfl
  | cons v vs ih =>
    simp only [List.length_cons] at hj
    rw [State.putBytes, ih (s := s.putByte a v) (Tab.set_wf h a v) (by omega), State.byte_putByte h, if_neg (by omega)]

/-- The bytes stored are read back. -/
theorem State.byte_putBytes {s : State} (h : s.MemOk) {a i : Nat} {l : List Byte} (hi : i < l.length) :
    (s.putBytes a l).byte (a + i) = l[i] := by
  induction l generalizing s a i with
  | nil => cases hi
  | cons v vs ih =>
    have hk : (s.putByte a v).MemOk := Tab.set_wf h a v
    cases i with
    | zero =>
      rw [State.putBytes, State.byte_putBytes_out hk (by omega), State.byte_putByte h]
      simp
    | succ i =>
      simp only [List.length_cons] at hi
      have := ih (s := s.putByte a v) hk (a := a + 1) (i := i) (by omega)
      rw [State.putBytes, show a + (i + 1) = a + 1 + i by omega, this]
      simp

/-- A command of another sequence number is as before. -/
theorem State.cmd_updCmd_ne {s : State} {q r : Nat} (f : Cmd → Cmd) (hr : r ≠ q) (hf : ∀ c, (f c).seq = c.seq) :
    (s.updCmd q f).cmd r = s.cmd r := by
  unfold State.cmd State.updCmd
  dsimp only
  induction s.hg.cmds with
  | nil => rfl
  | cons c cs ih =>
    simp only [List.map_cons, List.find?_cons]
    by_cases hc : (c.seq == some q) = true
    · have hq : c.seq = some q := by simpa using hc
      simp only [hc, if_true, hf]
      have : (c.seq == some r) = false := by rw [hq]; simp; omega
      simp only [this]
      exact ih
    · simp only [hc, if_false, Bool.false_eq_true]
      split
      · rfl
      · exact ih

/-- The command that is changed. -/
theorem State.cmd_updCmd {s : State} {q : Nat} (f : Cmd → Cmd) (hf : ∀ c, (f c).seq = c.seq) :
    (s.updCmd q f).cmd q = (s.cmd q).map f := by
  unfold State.cmd State.updCmd
  dsimp only
  induction s.hg.cmds with
  | nil => rfl
  | cons c cs ih =>
    simp only [List.map_cons, List.find?_cons]
    by_cases hc : (c.seq == some q) = true
    · simp only [hc, if_true, hf]
      rfl
    · simp only [hc, if_false, Bool.false_eq_true]
      exact ih


/-! ### Reads of memory depend on the memory alone -/

theorem State.rdByte_of_ms {s t : State} (h : t.ms = s.ms) (a : Nat) : t.rdByte a = s.rdByte a := by
  unfold State.rdByte State.byte State.upset; rw [h]

theorem State.rd_of_ms {s t : State} (h : t.ms = s.ms) (a n : Nat) : t.rd a n = s.rd a n := by
  induction n generalizing a with
  | zero => rfl
  | succ n ih => unfold State.rd; rw [State.rdByte_of_ms h, ih]

theorem State.rdNat_of_ms {s t : State} (h : t.ms = s.ms) (a n : Nat) : t.rdNat a n = s.rdNat a n := by
  unfold State.rdNat; rw [State.rd_of_ms h]

/-! ### Reads of registers depend on the registers alone -/

theorem State.reg_of_regs {s t : State} (h : t.regs = s.regs) (off : Nat) : t.reg off = s.reg off := by
  unfold State.reg; rw [h]

theorem State.fld_of_regs {s t : State} (h : t.regs = s.regs) (off lo w : Nat) : t.fld off lo w = s.fld off lo w := by
  unfold State.fld; rw [State.reg_of_regs h]

end Sys2Proof.Machine
end

