-- ==== Sys2Proof/Laws/Frame.lean ====
section
/-!
SUPPORT. What an operation leaves alone, said once for each: `Frame l s t` holds when `t` came from `s` by changing no
component of the state but those in the list `l`, with the queue as it was, and when the canonical form of memory and of the
stored registers is kept.
-/
namespace Sys2Proof.Machine

open Sys2Proof

theorem Comp.same_refl (c : Comp) (s : State) : c.same s s := by cases c <;> rfl

theorem Comp.same_trans {c : Comp} {s t u : State} (h : c.same s t) (k : c.same t u) : c.same s u := by
  cases c <;> exact Eq.trans k h

/-- `t` came from `s` with changes in the components `l` alone. -/
structure Frame (l : List Comp) (s t : State) : Prop where
  pending : t.pending = s.pending
  mem : s.MemOk → t.MemOk
  regs : s.RegsOk → t.RegsOk
  tabs : s.TabsOk → t.TabsOk
  same : ∀ c, c ∉ l → c.same s t

variable {l l' : List Comp} {s t u : State}

theorem Frame.refl : Frame l s s := ⟨rfl, id, id, id, fun c _ => c.same_refl s⟩

/-- Every component of `l'` stands in `l`. -/
def within (l' l : List Comp) : Bool := l'.all l.contains

theorem mem_of_within (h : within l' l = true) {c : Comp} (hc : c ∈ l') : c ∈ l := by
  have := List.all_eq_true.mp h c hc
  simpa using this

/-- One change after another. -/
theorem Frame.comp (h : Frame l s t) (k : Frame l' t u) (hl : within l' l = true) : Frame l s u :=
  ⟨k.pending.trans h.pending, k.mem ∘ h.mem, k.regs ∘ h.regs, k.tabs ∘ h.tabs,
    fun c hc => Comp.same_trans (h.same c hc) (k.same c fun hc' => hc (mem_of_within hl hc'))⟩

theorem Frame.mono (k : Frame l' s t) (hl : within l' l = true) : Frame l s t := Frame.comp Frame.refl k hl

/-- Dropping stored registers keeps their form. -/
theorem regs_filter_ok {r : Tab W64} (p : Nat × W64 → Bool) (h : Tab.wf regReset r = true ∧ r.all regEntryOk = true) :
    Tab.wf regReset (r.filter p) = true ∧ (r.filter p).all regEntryOk = true := by
  refine ⟨Tab.filter_wf p h.1, ?_⟩
  rw [List.all_eq_true] at *
  intro x hx
  exact h.2 x (List.mem_filter.mp hx).1

/-- After reset every indexed unit is unlisted. -/
theorem State.reset_tabsOk : State.reset.TabsOk := by constructor <;> repeat' first | rfl | constructor

/-- The arrays that a reset keeps are in order. -/
theorem keptArrays_ordered {t : Tab Arr} (h : t.Ordered) (counts : Bool) : Tab.Ordered (keptArrays t counts) := by
  unfold keptArrays Tab.Ordered
  exact Tab.rising_filter _ (by rw [Tab.rising_map]; exact h)

/-- A table under new keys is canonical. -/
theorem rekey_wf {α : Type} [DecidableEq α] (d : Nat → α) (f : Nat → Nat) (t : Tab α) : Tab.wf d (rekey d f t) = true := by
  suffices h : ∀ u : Tab α, Tab.wf d u = true → Tab.wf d (t.foldl (fun u p => Tab.set d u (f p.1) p.2) u) = true from h [] rfl
  induction t with
  | nil => exact fun _ hu => hu
  | cons p t ih => exact fun u hu => ih _ (Tab.set_wf hu _ _)

theorem rekey_ordered {α : Type} [DecidableEq α] (d : Nat → α) (f : Nat → Nat) (t : Tab α) : (rekey d f t).Ordered :=
  ((Bool.and_eq_true _ _).mp (rekey_wf d f t)).1

/-- A new interleave mode keeps the forms of memory. -/
theorem MemSys.setMode_wf (m : MemSys) (n : Nat) (h : Memory.wf m.mem = true) : Memory.wf (m.setMode n).mem = true := by
  unfold MemSys.setMode
  split
  · exact h
  · exact rekey_wf _ _ _

theorem MemSys.setMode_tabs (m : MemSys) (n : Nat) (h : m.TabsOk) : (m.setMode n).TabsOk := by
  unfold MemSys.setMode
  split
  · exact h
  · obtain ⟨_, _, _, h⟩ := h
    dsimp only
    have ht (u : Tab Nat) : Tab.Ordered (rekey (fun _ => 0) (fun k => movedAddr m.interleave n (32 * k) / 32) u) :=
      rekey_ordered _ _ _
    have hp : Tab.Ordered (rekey (fun _ => false) (fun k => movedAddr m.interleave n (32 * k) / 32) m.poison) := rekey_ordered _ _ _
    exact ⟨hp, ht m.zone, ht m.upset, h⟩

/-- A record update. -/
theorem Frame.upd {ms' : MemSys} {hg' : HostGate} {mv' : Tab Channel} {ham' : Hamper} {ld' : Lantern} {tb' : Trust} {irq' :
    Irq} {pcie' : Pcie} {im' : Integrity} {mc' : Compute} {af' : ArrayField} {uk' : Upkeep} {xe' : Exchange} {fab' : Fabric}
    {regs' : Tab W64} {ctrs' : Tab W64} {latches' : List HalfLatch} {free' : Nat} {out' : List OutMsg}
    (h : Frame l s t) (hm : Memory.wf t.ms.mem = true → Memory.wf ms'.mem = true := by
      (try dsimp only); first | exact fun h => h | exact fun h => Tab.filter_wf _ h)
    (hr : (Tab.wf regReset t.regs = true ∧ t.regs.all regEntryOk = true) →
      Tab.wf regReset regs' = true ∧ regs'.all regEntryOk = true := by
      (try dsimp only); first | exact fun h => h | exact regs_filter_ok _ | exact fun _ => ⟨rfl, rfl⟩)
    (tms : t.ms.TabsOk → ms'.TabsOk := by
      first
        | exact fun h => h
        | (intro h; simp only [MemSys.TabsOk, Tab.Ordered] at h ⊢
           simp only [h, and_self, Tab.rising_set, Tab.rising_upd, Tab.rising_filter, Tab.rising_map,
             Tab.rising_map_ite, Tab.rising_ite, Tab.rising_nil])
        | exact fun _ => by simp [MemSys.TabsOk, MemSys.initial, Tab.Ordered, Tab.rising]
        | (intro h; simp [MemSys.TabsOk, Tab.Ordered] at h ⊢
           simp [h, Tab.rising_set, Tab.rising_upd, Tab.rising_filter, Tab.rising_map,
             Tab.rising_map_ite, Tab.rising_ite, Tab.rising_nil]))
    (thg : t.hg.TabsOk → hg'.TabsOk := by
      first
        | exact fun h => h
        | (intro h; simp only [HostGate.TabsOk, Tab.Ordered] at h ⊢
           simp only [h, and_self, Tab.rising_set, Tab.rising_upd, Tab.rising_filter, Tab.rising_map,
             Tab.rising_map_ite, Tab.rising_ite, Tab.rising_nil])
        | exact fun _ => by simp [HostGate.TabsOk, HostGate.initial, Tab.Ordered, Tab.rising]
        | (intro h; simp [HostGate.TabsOk, Tab.Ordered] at h ⊢
           simp [h, Tab.rising_set, Tab.rising_upd, Tab.rising_filter, Tab.rising_map,
             Tab.rising_map_ite, Tab.rising_ite, Tab.rising_nil]))
    (tld : t.ld.TabsOk → ld'.TabsOk := by
      first
        | exact fun h => h
        | (intro h; simp only [Lantern.TabsOk, Tab.Ordered] at h ⊢
           simp only [h, and_self, Tab.rising_set, Tab.rising_upd, Tab.rising_filter, Tab.rising_map,
             Tab.rising_map_ite, Tab.rising_ite, Tab.rising_nil, Option.all_none, Option.all_some])
        | exact fun _ => by simp [Lantern.TabsOk, Lantern.initial, Tab.Ordered, Tab.rising]
        | (intro h; simp [Lantern.TabsOk, Tab.Ordered] at h ⊢
           simp [h, Tab.rising_set, Tab.rising_upd, Tab.rising_filter, Tab.rising_map,
             Tab.rising_map_ite, Tab.rising_ite, Tab.rising_nil, Option.all_none, Option.all_some]))
    (tirq : t.irq.TabsOk → irq'.TabsOk := by
      first
        | exact fun h => h
        | (intro h; simp only [Irq.TabsOk, Tab.Ordered] at h ⊢
           simp only [h, and_self, Tab.rising_set, Tab.rising_upd, Tab.rising_filter, Tab.rising_map,
             Tab.rising_map_ite, Tab.rising_ite, Tab.rising_nil])
        | exact fun _ => by simp [Irq.TabsOk, Irq.initial, Tab.Ordered, Tab.rising]
        | (intro h; simp [Irq.TabsOk, Tab.Ordered] at h ⊢
           simp [h, Tab.rising_set, Tab.rising_upd, Tab.rising_filter, Tab.rising_map,
             Tab.rising_map_ite, Tab.rising_ite, Tab.rising_nil]))
    (tpcie : t.pcie.TabsOk → pcie'.TabsOk := by
      first
        | exact fun h => h
        | (intro h; simp only [Pcie.TabsOk, Tab.Ordered] at h ⊢
           simp only [h, and_self, Tab.rising_set, Tab.rising_upd, Tab.rising_filter, Tab.rising_map,
             Tab.rising_map_ite, Tab.rising_ite, Tab.rising_nil])
        | exact fun _ => by simp [Pcie.TabsOk, Pcie.initial, Tab.Ordered, Tab.rising]
        | (intro h; simp [Pcie.TabsOk, Tab.Ordered] at h ⊢
           simp [h, Tab.rising_set, Tab.rising_upd, Tab.rising_filter, Tab.rising_map,
             Tab.rising_map_ite, Tab.rising_ite, Tab.rising_nil]))
    (tim : t.im.TabsOk → im'.TabsOk := by
      first
        | exact fun h => h
        | (intro h; simp only [Integrity.TabsOk, Tab.Ordered] at h ⊢
           simp only [h, and_self, Tab.rising_set, Tab.rising_upd, Tab.rising_filter, Tab.rising_map,
             Tab.rising_map_ite, Tab.rising_ite, Tab.rising_nil])
        | exact fun _ => by simp [Integrity.TabsOk, Integrity.initial, Tab.Ordered, Tab.rising]
        | (intro h; simp [Integrity.TabsOk, Tab.Ordered] at h ⊢
           simp [h, Tab.rising_set, Tab.rising_upd, Tab.rising_filter, Tab.rising_map,
             Tab.rising_map_ite, Tab.rising_ite, Tab.rising_nil]))
    (tmc : t.mc.TabsOk → mc'.TabsOk := by
      first
        | exact fun h => h
        | (intro h; simp only [Compute.TabsOk, Tab.Ordered] at h ⊢
           simp only [h, and_self, Tab.rising_set, Tab.rising_upd, Tab.rising_filter, Tab.rising_map,
             Tab.rising_map_ite, Tab.rising_ite, Tab.rising_nil])
        | exact fun _ => by simp [Compute.TabsOk, Compute.initial, Tab.Ordered, Tab.rising]
        | (intro h; simp [Compute.TabsOk, Tab.Ordered] at h ⊢
           simp [h, Tab.rising_set, Tab.rising_upd, Tab.rising_filter, Tab.rising_map,
             Tab.rising_map_ite, Tab.rising_ite, Tab.rising_nil]))
    (taf : t.af.TabsOk → af'.TabsOk := by
      first
        | exact fun h => h
        | (intro h; simp only [ArrayField.TabsOk, Tab.Ordered] at h ⊢
           simp only [h, and_self, Tab.rising_set, Tab.rising_upd, Tab.rising_filter, Tab.rising_map,
             Tab.rising_map_ite, Tab.rising_ite, Tab.rising_nil])
        | exact fun _ => by simp [ArrayField.TabsOk, ArrayField.initial, Tab.Ordered, Tab.rising]
        | (intro h; simp [ArrayField.TabsOk, Tab.Ordered] at h ⊢
           simp [h, Tab.rising_set, Tab.rising_upd, Tab.rising_filter, Tab.rising_map,
             Tab.rising_map_ite, Tab.rising_ite, Tab.rising_nil]))
    (tfab : t.fab.TabsOk → fab'.TabsOk := by
      first
        | exact fun h => h
        | (intro h; simp only [Fabric.TabsOk, Tab.Ordered] at h ⊢
           simp only [h, and_self, Tab.rising_set, Tab.rising_upd, Tab.rising_filter, Tab.rising_map,
             Tab.rising_map_ite, Tab.rising_ite, Tab.rising_nil])
        | exact fun _ => by simp [Fabric.TabsOk, Fabric.initial, Tab.Ordered, Tab.rising]
        | (intro h; simp [Fabric.TabsOk, Tab.Ordered] at h ⊢
           simp [h, Tab.rising_set, Tab.rising_upd, Tab.rising_filter, Tab.rising_map,
             Tab.rising_map_ite, Tab.rising_ite, Tab.rising_nil]))
    (tmv : t.mv.Ordered → mv'.Ordered := by
      first
        | exact fun h => h
        | exact fun _ => rfl
        | (intro h; simp only [Tab.Ordered] at h ⊢
           simp only [h, Tab.rising_set, Tab.rising_upd, Tab.rising_filter, Tab.rising_map,
             Tab.rising_map_ite, Tab.rising_ite, Tab.rising_nil]))
    (tctrs : t.ctrs.Ordered → ctrs'.Ordered := by
      first
        | exact fun h => h
        | exact fun _ => rfl
        | (intro h; simp only [Tab.Ordered] at h ⊢
           simp only [h, Tab.rising_set, Tab.rising_upd, Tab.rising_filter, Tab.rising_map,
             Tab.rising_map_ite, Tab.rising_ite, Tab.rising_nil]))
    (hc : ∀ c, c ∈ l ∨ Comp.same c t
      ⟨t.pending, ms', hg', mv', ham', ld', tb', irq', pcie', im', mc', af', uk', xe', fab', regs', ctrs', latches',
        free', out'⟩ := by
      intro c; cases c <;> first | exact .inl (by decide) | exact .inr (by dsimp only [Comp.same])) :
    Frame l s ⟨t.pending, ms', hg', mv', ham', ld', tb', irq', pcie', im', mc', af', uk', xe', fab', regs', ctrs', latches',
      free', out'⟩ :=
  ⟨h.pending, hm ∘ h.mem, hr ∘ h.regs,
    fun k => have k := h.tabs k
      ⟨tms k.ms, thg k.hg, tmv k.mv, tld k.ld, tirq k.irq, tpcie k.pcie, tim k.im, tmc k.mc, taf k.af, tfab k.fab, tctrs k.ctrs⟩,
    fun c hn => Comp.same_trans (h.same c hn) ((hc c).resolve_left hn)⟩

/-- A fold of changes. -/
theorem Frame.foldl {α : Type} {f : State → α → State} (hf : ∀ t x, Frame l t (f t x)) (xs : List α) (h : Frame l s t) :
    Frame l s (xs.foldl f t) := by
  induction xs generalizing t with
  | nil => exact h
  | cons x xs ih => exact ih (h.comp (hf t x) (by simp [within]))

/-- A choice between two states. -/
theorem Frame.ite {c : Prop} [Decidable c] (ht : Frame l s t) (hu : Frame l s u) : Frame l s (if c then t else u) := by
  split <;> assumption

theorem Frame.elim {α : Type} {o : Option α} {t : State} {f : α → State} (ht : Frame l s t) (hf : ∀ x, Frame l s (f x)) :
    Frame l s (o.elim t f) := by
  cases o
  · exact ht
  · exact hf _

/-- A state that may not come about, or else the one before. -/
theorem Frame.getD {o : Option State} (h : Frame l s t) (k : ∀ u, o = some u → Frame l' t u) (hl : within l' l = true) :
    Frame l s (o.getD t) := by
  cases o
  · exact h
  · exact h.comp (k _ rfl) hl

theorem within_refl (l : List Comp) : within l l = true := by simp [within]

theorem within_trans {l'' : List Comp} (h : within l'' l' = true) (k : within l' l = true) : within l'' l = true := by
  simp only [within, List.all_eq_true, List.contains_iff_mem] at *
  exact fun c hc => k c (h c hc)

/-- The invariant goes along with a frame. -/
theorem Frame.inv (h : Frame l s t) (hs : s.Inv) : t.Inv := ⟨h.mem hs.mem, h.regs hs.regs, h.tabs hs.tabs⟩

end Sys2Proof.Machine
end

