-- ==== Sys2Proof/Laws/Regs.lean ====
section
/-!
SUPPORT. The stored registers: what the writes of each kind store sets bits of access RW alone (R5, R6).
-/
namespace Sys2Proof.Machine

open Sys2Proof

/-- A value that sets bits of access RW alone may be stored. -/
theorem regEntryOk_of {off rw v : Nat} (h : (findRow regRows off).map (·.1.rw) = some rw) (hv : v &&& rw = v) (hrw : rw < 2 ^ 64) :
    regEntryOk (off, BitVec.ofNat 64 v) = true := by
  obtain ⟨⟨r, i⟩, hr, hrw'⟩ := Option.map_eq_some_iff.mp h
  have hlt : v < 2 ^ 64 := Nat.lt_of_le_of_lt (hv ▸ Nat.and_le_right) hrw
  simp only at hrw'
  have he : (BitVec.ofNat 64 v).toNat = v := by rw [BitVec.toNat_ofNat, Nat.mod_eq_of_lt hlt]
  rw [regEntryOk]
  simp only [hr, hrw', he, hv, beq_self_eq_true]

/-- Every register's RW bits lie in 64 bits. -/
theorem rw_lt {off : Nat} {r : RegRow} {i : Nat} (h : findRow regRows off = some (r, i)) : r.rw < 2 ^ 64 := by
  have key : ∀ l : List RegRow, (l.all fun r => decide (r.rw < 2 ^ 64)) = true → findRow l off = some (r, i) → r.rw < 2 ^ 64 := by
    intro l hl hf
    induction l with
    | nil => cases hf
    | cons x xs ih =>
      simp only [List.all_cons, Bool.and_eq_true, decide_eq_true_eq] at hl
      unfold findRow at hf
      split at hf
      · cases hf; exact hl.1
      · exact ih hl.2 hf
  exact key regRows (by decide) h

theorem masked_ok {off v : Nat} {r : RegRow} {i : Nat} (h : findRow regRows off = some (r, i)) :
    regEntryOk (off, BitVec.ofNat 64 (v &&& r.rw)) = true :=
  regEntryOk_of (rw := r.rw) (by simp [h]) (by rw [Nat.and_assoc, Nat.and_self]) (rw_lt h)

theorem rPortCtrl_ok {p : Nat} (hp : p < 12) (v : Nat) : regEntryOk (rPortCtrl p, BitVec.ofNat 64 (bitsOf v 31 1 * 2 ^ 31)) = true := by
  have h : ∀ p : Fin 12, (findRow regRows (rPortCtrl p.val)).map (·.1.rw) = some 0x80000000 := by decide
  have hb : bitsOf v 31 1 = 0 ∨ bitsOf v 31 1 = 1 := by unfold bitsOf; omega
  exact regEntryOk_of (h ⟨p, hp⟩) (by rcases hb with hb | hb <;> rw [hb] <;> decide) (by decide)

theorem rChCtrl_ok {c : Nat} (hc : c < 64) (v : Nat) : regEntryOk (rChCtrl c, BitVec.ofNat 64 (v % 16)) = true := by
  have h : ∀ c : Fin 64, (findRow regRows (rChCtrl c.val)).map (·.1.rw) = some 0xF := by decide
  have hv : ∀ x : Fin 16, x.val &&& 0xF = x.val := by decide
  exact regEntryOk_of (h ⟨c, hc⟩) (hv ⟨v % 16, Nat.mod_lt _ (by decide)⟩) (by decide)

theorem rLogCfg_ok {u : Nat} (hu : u < 5) (v : Nat) : regEntryOk (rLogCfg u, BitVec.ofNat 64 (v &&& 0x707F01FF)) = true := by
  have h : ∀ u : Fin 5, (findRow regRows (rLogCfg u.val)).map (·.1.rw) = some 0x707F01FF := by decide
  exact regEntryOk_of (h ⟨u, hu⟩) (by rw [Nat.and_assoc, Nat.and_self]) (by decide)

theorem watch_ok (v : Nat) : regEntryOk (0x2800060, BitVec.ofNat 64 (v % 2 ^ 16)) = true :=
  regEntryOk_of (rw := 0xFFFF) (by decide) (by
    have := Nat.and_two_pow_sub_one_eq_mod (v % 2 ^ 16) 16
    simpa using this) (by decide)

/-- What a write to HG_RING_CTRL_n stores: LOG2_SIZE, STOP_ON_ERROR and, with `on`, ENABLE. -/
theorem rRingCtrl_ok {n b : Nat} (hn : n < 64) (hb : b < 32) (v : Nat) (on : Bool) :
    regEntryOk (rRingCtrl n, BitVec.ofNat 64 (if on then 2 ^ 31 + (b * 2 ^ 16 + bitsOf v 29 1 * 2 ^ 29)
      else b * 2 ^ 16 + bitsOf v 29 1 * 2 ^ 29)) = true := by
  have h : ∀ n : Fin 64, (findRow regRows (rRingCtrl n.val)).map (·.1.rw) = some 0xA01F0000 := by decide
  have hx : bitsOf v 29 1 < 2 := Nat.mod_lt _ (by decide)
  have hv : ∀ (b : Fin 32) (x : Fin 2) (on : Bool),
      (if on then 2 ^ 31 + (b.val * 2 ^ 16 + x.val * 2 ^ 29) else b.val * 2 ^ 16 + x.val * 2 ^ 29) &&& 0xA01F0000 =
        if on then 2 ^ 31 + (b.val * 2 ^ 16 + x.val * 2 ^ 29) else b.val * 2 ^ 16 + x.val * 2 ^ 29 := by decide
  exact regEntryOk_of (h ⟨n, hn⟩) (hv ⟨b, hb⟩ ⟨_, hx⟩ on) (by decide)

/-- A field of `w` bits lies below 2^w. -/
theorem bitsOf_lt (v lo w : Nat) : bitsOf v lo w < 2 ^ w := Nat.mod_lt _ (Nat.two_pow_pos w)

/-- An index found among `n` registers lies below `n`. -/
theorem ixOf_lt {base stride n off k : Nat} (h : ixOf base stride n off = some k) : k < n := by
  unfold ixOf at h
  split at h
  · rename_i hc; cases h; exact hc.2.2
  · cases h

end Sys2Proof.Machine
end

