-- ==== Sys2Proof/Laws/FrameOps.lean ====
section
/-!
SUPPORT. The frame of each function of the shared operations: which components of the state it may change, the queue of waiting
commands apart, and that it keeps the stored form of memory and registers. A lemma `execX_frame` says besides that the row
`X` answers a next state, whatever the state and the operands.
-/
namespace Sys2Proof.Machine

open Sys2Proof

set_option Elab.async false

theorem State.bump_frame (s : State) (off n : Nat) : Frame [.ctrs] s (s.bump off n) := by
  unfold State.bump
  refine Frame.upd ?_
  exact Frame.refl

/-- Storing a register keeps the stored form when the value sets bits of access RW alone. -/
theorem State.setReg_frame (s : State) (off v : Nat) (h : regEntryOk (off, BitVec.ofNat 64 v) = true) :
    Frame [.regs] s (s.setReg off v) := by
  unfold State.setReg
  refine Frame.upd Frame.refl id fun hr => ⟨Tab.set_wf hr.1 _ _, ?_⟩
  rw [List.all_eq_true]
  intro x hx
  rcases Tab.mem_put hx with ⟨rfl, _⟩ | hx
  · exact h
  · exact List.all_eq_true.mp hr.2 x hx

/-- Storing a byte keeps the memory canonical. -/
theorem State.putByte_frame (s : State) (a : Nat) (v : Byte) : Frame [.ms] s (s.putByte a v) := by
  unfold State.putByte
  exact Frame.upd Frame.refl (fun h => Tab.set_wf h _ _)

theorem State.putBytes_frame (s : State) (a : Nat) (l : List Byte) : Frame [.ms] s (s.putBytes a l) := by
  induction l generalizing s a with
  | nil => exact Frame.refl
  | cons v vs ih => exact Frame.comp (State.putByte_frame s a v) (ih _ _) rfl

theorem State.applyEnv_frame (s : State) (e : Env) : Frame [.ms] s (s.applyEnv e) := by
  unfold State.applyEnv
  dsimp only
  refine Frame.upd ?_
      (tms := fun h => ⟨h.1, h.2.1, Tab.rising_foldl_upd _ _ _ h.2.2.1, h.2.2.2⟩)
  refine Frame.foldl (fun _ _ => ?_) _ ?_
  split
  refine Frame.comp ?_ (State.putBytes_frame _ _ _) rfl
  exact Frame.refl
  exact Frame.refl
  exact Frame.refl

theorem State.setMeta_frame (s : State) (cw : Nat) (poison : Bool) (zone : Nat) : Frame [.ms] s (s.setMeta cw poison zone) := by
  unfold State.setMeta
  refine Frame.upd ?_
  exact Frame.refl

theorem State.settle_frame (s : State) (cw : Nat) : Frame [.ms] s (s.settle cw) := by
  unfold State.settle
  split
  exact Frame.refl
  refine Frame.comp ?_ (State.putBytes_frame _ _ _) rfl
  exact Frame.refl

theorem State.poisonCw_frame (s : State) (cw : Nat) : Frame [.ms] s (s.poisonCw cw) := by
  unfold State.poisonCw
  refine Frame.comp ?_ (State.setMeta_frame _ _ _ _) rfl
  refine Frame.comp ?_ (State.settle_frame _ _) rfl
  exact Frame.refl

theorem State.setPort_frame (s : State) (p : Nat) (x : Port) : Frame [.fab] s (s.setPort p x) := by
  unfold State.setPort
  refine Frame.upd ?_
  exact Frame.refl

theorem State.sendFlit_frame (s : State) (p kind : Nat) (f : FlitTx) : Frame [.out] s (s.sendFlit p kind f) := by
  unfold State.sendFlit
  dsimp only
  refine Frame.upd ?_
  exact Frame.refl

theorem State.pumpGo_frame (s : State) (p n : Nat) : Frame [.fab, .out] s (s.pumpGo p n) := by
  induction n generalizing s with
  | zero => exact Frame.refl
  | succ n ih =>
    unfold State.pumpGo
    dsimp only
    split
    exact Frame.refl
    split
    exact Frame.refl
    split
    exact Frame.refl
    refine Frame.comp ?_ (ih _) rfl
    refine Frame.comp ?_ (State.sendFlit_frame _ _ _ _) rfl
    refine Frame.comp ?_ (State.setPort_frame _ _ _) rfl
    exact Frame.refl

theorem State.pump_frame (s : State) (p : Nat) : Frame [.fab, .out] s (s.pump p) := by
  unfold State.pump
  dsimp only
  split
  refine Frame.comp ?_ (State.sendFlit_frame _ _ _ _) rfl
  refine Frame.comp ?_ (State.setPort_frame _ _ _) rfl
  refine Frame.comp ?_ (State.pumpGo_frame _ _ _) rfl
  exact Frame.refl
  refine Frame.comp ?_ (State.pumpGo_frame _ _ _) rfl
  exact Frame.refl

theorem State.queueMsg_frame (s : State) (p source vc : Nat) (units : List Byte) : Frame [.fab, .out] s (s.queueMsg p
    source vc units) := by
  unfold State.queueMsg
  dsimp only
  refine Frame.comp ?_ (State.pump_frame _ _) rfl
  refine Frame.comp ?_ (State.setPort_frame _ _ _) rfl
  exact Frame.refl

theorem State.sendMsg_frame (s : State) (dest kind : Nat) (words : List Nat) : Frame [.fab, .out] s (s.sendMsg dest kind
    words) := by
  unfold State.sendMsg
  split
  exact Frame.refl
  refine Frame.comp ?_ (State.queueMsg_frame _ _ _ _ _) rfl
  refine Frame.upd ?_
  exact Frame.refl

theorem State.trainPort_frame (s : State) (p : Nat) : Frame [.ld, .xe, .fab, .ctrs, .out] s (s.trainPort p) := by
  unfold State.trainPort
  dsimp only
  split
  refine Frame.comp ?_ (State.setPort_frame _ _ _) rfl
  refine Frame.upd ?_
  exact Frame.refl
  split
  refine Frame.comp ?_ (State.setPort_frame _ _ _) rfl
  refine Frame.upd ?_
  exact Frame.refl
  split
  refine Frame.comp ?_ (State.bump_frame _ _ _) rfl
  refine Frame.upd ?_
  refine Frame.comp ?_ (State.setPort_frame _ _ _) rfl
  refine Frame.upd ?_
  exact Frame.refl
  refine Frame.upd ?_
  refine Frame.comp ?_ (State.setPort_frame _ _ _) rfl
  refine Frame.upd ?_
  exact Frame.refl

theorem State.updCmd_frame (s : State) (q : Nat) (f : Cmd → Cmd) : Frame [.hg] s (s.updCmd q f) := by
  unfold State.updCmd
  refine Frame.upd ?_
  exact Frame.refl

theorem State.addCond_frame (s : State) (q : Nat) (l0 : List Status) (ind : BitVec 16) : Frame [.hg] s (s.addCond q l0
    ind) := by
  unfold State.addCond
  refine Frame.comp ?_ (State.updCmd_frame _ _ _) rfl
  exact Frame.refl

theorem State.noteArrival_frame (s : State) (n : Nat) : Frame [.irq] s (s.noteArrival n) := by
  unfold State.noteArrival
  refine Frame.upd ?_
  exact Frame.refl

theorem State.wakeA2_frame (s : State) (cause : Nat) : Frame [.ld] s (s.wakeA2 cause) := by
  unfold State.wakeA2
  extract_lets ld s1
  have h1 : Frame [.ld] s s1 := Frame.upd Frame.refl
  split
  · exact h1
  · split
    · rename_i e he
      have he : s.ld.entered = some e := (Option.filter_eq_some_iff.mp he).1
      refine Frame.upd (t := s) Frame.refl (tld := fun h => ⟨h.1, h.2.1, ?_, h.2.2.2.1, rfl⟩)
      have := h.2.2.2.2
      rw [he] at this
      exact this
    · clear_value s1
      exact Frame.upd h1

theorem State.emit_frame (s : State) (m : OutMsg) : Frame [.fab, .out] s (s.emit m) := by
  unfold State.emit
  split
  refine Frame.comp ?_ (State.sendMsg_frame _ _ _ _) rfl
  exact Frame.refl
  refine Frame.upd ?_
  exact Frame.refl

theorem State.linkUse_frame (s : State) : Frame [.ld] s (s.linkUse) := by
  unfold State.linkUse
  refine Frame.upd ?_
  exact Frame.refl

theorem State.sendVector_frame (s : State) (v : Nat) : Frame [.ld, .pcie, .fab, .out] s (s.sendVector v) := by
  unfold State.sendVector
  split
  refine Frame.comp ?_ (State.linkUse_frame _) rfl
  refine Frame.comp ?_ (State.emit_frame _ _) rfl
  exact Frame.refl
  refine Frame.upd ?_
  exact Frame.refl

theorem State.sendSource_frame (s : State) (n : Nat) : Frame [.ld, .pcie, .fab, .out] s (s.sendSource n) := by
  unfold State.sendSource
  split
  refine Frame.comp ?_ (State.emit_frame _ _) rfl
  exact Frame.refl
  refine Frame.comp ?_ (State.sendVector_frame _ _) rfl
  exact Frame.refl

theorem State.arrive_frame (s0 : State) (n : Nat) : Frame [.ld, .irq, .pcie, .fab, .out] s0 (s0.arrive n) := by
  unfold State.arrive
  split
  exact Frame.refl
  dsimp only
  split
  refine Frame.comp ?_ (State.sendSource_frame _ _) rfl
  split
  refine Frame.comp ?_ (State.wakeA2_frame _ _) rfl
  split
  refine Frame.upd ?_
  refine Frame.comp ?_ (State.noteArrival_frame _ _) rfl
  exact Frame.refl
  refine Frame.upd ?_
  refine Frame.comp ?_ (State.noteArrival_frame _ _) rfl
  exact Frame.refl
  split
  refine Frame.upd ?_
  refine Frame.comp ?_ (State.noteArrival_frame _ _) rfl
  exact Frame.refl
  refine Frame.upd ?_
  refine Frame.comp ?_ (State.noteArrival_frame _ _) rfl
  exact Frame.refl
  split
  refine Frame.comp ?_ (State.wakeA2_frame _ _) rfl
  split
  refine Frame.upd ?_
  refine Frame.comp ?_ (State.noteArrival_frame _ _) rfl
  exact Frame.refl
  refine Frame.upd ?_
  refine Frame.comp ?_ (State.noteArrival_frame _ _) rfl
  exact Frame.refl
  split
  refine Frame.upd ?_
  refine Frame.comp ?_ (State.noteArrival_frame _ _) rfl
  exact Frame.refl
  refine Frame.upd ?_
  refine Frame.comp ?_ (State.noteArrival_frame _ _) rfl
  exact Frame.refl

theorem State.setRing_frame (s : State) (n : Nat) (r : Ring) : Frame [.hg] s (s.setRing n r) := by
  unfold State.setRing
  refine Frame.upd ?_
  exact Frame.refl

theorem State.haltRing_frame (s : State) (n code : Nat) : Frame [.hg, .ld, .irq, .pcie, .fab, .out] s (s.haltRing n code) := by
  unfold State.haltRing
  dsimp only
  split
  exact Frame.refl
  refine Frame.comp ?_ (State.arrive_frame _ _) rfl
  refine Frame.comp ?_ (State.setRing_frame _ _ _) rfl
  exact Frame.refl

theorem State.haltOn_frame (s : State) (c : Cmd) (t0 : Status) : Frame [.hg, .ld, .irq, .pcie, .fab, .out] s (s.haltOn c
    t0) := by
  unfold State.haltOn
  split
  refine Frame.comp ?_ (State.haltRing_frame _ _ _) rfl
  exact Frame.refl
  exact Frame.refl

theorem State.releaseStep_frame (s : State) (n : Nat) : Frame [.ham] s (s.releaseStep n) := by
  unfold State.releaseStep
  refine Frame.upd ?_
  exact Frame.refl

theorem State.setXeStep_frame (s : State) (x : XeStep) : Frame [.xe] s (s.setXeStep x) := by
  unfold State.setXeStep
  refine Frame.upd ?_
  exact Frame.refl

theorem State.noteSummary_frame (s : State) (n rank : Nat) (nf inc : Bool) : Frame [.xe] s (s.noteSummary n rank nf inc) := by
  unfold State.noteSummary
  dsimp only
  refine Frame.comp ?_ (State.setXeStep_frame _ _) rfl
  exact Frame.refl

theorem State.emitAll_frame (s : State) (kind : Nat) (words : List Nat) : Frame [.fab, .out] s (s.emitAll kind words) := by
  unfold State.emitAll
  refine Frame.foldl (fun _ _ => ?_) _ ?_
  refine Frame.comp ?_ (State.emit_frame _ _) rfl
  exact Frame.refl
  exact Frame.refl

theorem State.sendSummary_frame (s : State) (n : Nat) (nf inc : Bool) : Frame [.xe, .fab, .out] s (s.sendSummary n nf inc) := by
  unfold State.sendSummary
  dsimp only
  refine Frame.comp ?_ (State.setXeStep_frame _ _) rfl
  refine Frame.comp ?_ (State.noteSummary_frame _ _ _ _ _) rfl
  refine Frame.comp ?_ (State.emitAll_frame _ _ _) rfl
  exact Frame.refl

theorem State.setStep_frame (s : State) (n : Nat) (i : StepInfo) : Frame [.hg] s (s.setStep n i) := by
  unfold State.setStep
  refine Frame.upd ?_
  exact Frame.refl

theorem State.markStep_frame (s : State) (n : Nat) (m : StepMark) : Frame [.hg] s (s.markStep n m) := by
  unfold State.markStep
  dsimp only
  split
  refine Frame.comp ?_ (State.setStep_frame _ _ _) rfl
  exact Frame.refl
  exact Frame.refl

theorem State.timeOut_frame (s : State) (c : Cmd) : Frame [.hg, .ld, .irq, .pcie, .fab, .out] s (s.timeOut c) := by
  unfold State.timeOut
  split
  exact Frame.refl
  refine Frame.comp ?_ (State.haltOn_frame _ _ _) rfl
  refine Frame.comp ?_ (State.updCmd_frame _ _ _) rfl
  exact Frame.refl

theorem State.dropStep_frame (s : State) (n : Nat) : Frame [.hg, .ham, .ld, .irq, .pcie, .xe, .fab, .out] s (s.dropStep n) := by
  unfold State.dropStep
  split
  exact Frame.refl
  dsimp only
  refine Frame.foldl (fun _ _ => ?_) _ ?_
  refine Frame.comp ?_ (State.timeOut_frame _ _) rfl
  exact Frame.refl
  refine Frame.upd ?_
  refine Frame.comp ?_ (State.releaseStep_frame _ _) rfl
  refine Frame.comp ?_ (State.sendSummary_frame _ _ _ _) rfl
  refine Frame.comp ?_ (State.markStep_frame _ _ _) rfl
  exact Frame.refl

theorem State.markIncomplete_frame (s : State) (n : Nat) : Frame [.hg, .ham, .ld, .irq, .pcie, .xe, .fab, .out] s
    (s.markIncomplete n) := by
  unfold State.markIncomplete
  split
  exact Frame.refl
  dsimp only
  refine Frame.upd ?_
  refine Frame.comp ?_ (State.dropStep_frame _ _) rfl
  refine Frame.comp ?_ (State.dropStep_frame _ _) rfl
  exact Frame.refl

theorem State.failCmd_frame (s : State) (q : Nat) (t0 : Status) (detail : Nat) : Frame [.hg, .ham, .ld, .irq, .pcie, .xe,
    .fab, .out] s (s.failCmd q t0 detail) := by
  unfold State.failCmd
  split
  exact Frame.refl
  dsimp only
  split
  refine Frame.comp ?_ (State.markIncomplete_frame _ _) rfl
  refine Frame.comp ?_ (State.haltOn_frame _ _ _) rfl
  refine Frame.comp ?_ (State.updCmd_frame _ _ _) rfl
  exact Frame.refl
  refine Frame.comp ?_ (State.haltOn_frame _ _ _) rfl
  refine Frame.comp ?_ (State.updCmd_frame _ _ _) rfl
  exact Frame.refl

theorem State.badStruct_frame (s : State) (q : Nat) : Frame [.hg, .ham, .ld, .irq, .pcie, .xe, .fab, .out] s (s.badStruct
    q) := by
  unfold State.badStruct
  refine Frame.comp ?_ (State.failCmd_frame _ _ _ _) rfl
  exact Frame.refl

theorem State.clearFailed_frame (s : State) (k : Nat) : Frame [.ld] s (s.clearFailed k) := by
  unfold State.clearFailed
  refine Frame.upd ?_
  exact Frame.refl

theorem State.clearReady_frame (s : State) (k : Nat) : Frame [.ld] s (s.clearReady k) := by
  unfold State.clearReady
  refine Frame.upd ?_
  exact Frame.refl

theorem State.evt_frame (s : State) (q : Option Nat) (code n : Nat) : Frame [.hg, .ctrs] s (s.evt q code n) := by
  unfold State.evt
  dsimp only
  split
  refine Frame.comp ?_ (State.bump_frame _ _ _) rfl
  exact Frame.refl
  split
  refine Frame.comp ?_ (State.bump_frame _ _ _) rfl
  exact Frame.refl
  refine Frame.comp ?_ (State.setRing_frame _ _ _) rfl
  refine Frame.comp ?_ (State.bump_frame _ _ _) rfl
  exact Frame.refl

theorem State.countPiece_frame (s : State) (die : Nat) (q : Option Nat) (write : Bool) (x : Nat × Nat) : Frame [.hg,
    .ctrs] s (s.countPiece die q write x) := by
  unfold State.countPiece
  dsimp only
  split
  refine Frame.comp ?_ (State.evt_frame _ _ _ _) rfl
  refine Frame.comp ?_ (State.evt_frame _ _ _ _) rfl
  exact Frame.refl
  exact Frame.refl

theorem State.setLog_frame (s : State) (u0 : Nat) (l0 : Logbook) : Frame [.im] s (s.setLog u0 l0) := by
  unfold State.setLog
  refine Frame.upd ?_
  exact Frame.refl

theorem State.triggerLog_frame (s : State) (u0 cause : Nat) : Frame [.im] s (s.triggerLog u0 cause) := by
  unfold State.triggerLog
  dsimp only
  split
  split
  refine Frame.comp ?_ (State.setLog_frame _ _ _) rfl
  exact Frame.refl
  refine Frame.comp ?_ (State.setLog_frame _ _ _) rfl
  exact Frame.refl
  split
  refine Frame.comp ?_ (State.setLog_frame _ _ _) rfl
  exact Frame.refl
  refine Frame.comp ?_ (State.setLog_frame _ _ _) rfl
  exact Frame.refl

theorem State.trigger_frame (s : State) (cause : Nat) : Frame [.ld, .irq, .pcie, .im, .fab, .out] s (s.trigger cause) := by
  unfold State.trigger
  dsimp only
  split
  refine Frame.foldl (fun _ _ => ?_) _ ?_
  refine Frame.comp ?_ (State.triggerLog_frame _ _ _) rfl
  exact Frame.refl
  exact Frame.refl
  refine Frame.comp ?_ (State.arrive_frame _ _) rfl
  refine Frame.foldl (fun _ _ => ?_) _ ?_
  refine Frame.comp ?_ (State.triggerLog_frame _ _ _) rfl
  exact Frame.refl
  exact Frame.refl

theorem State.logRec_frame (s : State) (u0 coord kind : Nat) (ring seq : Option Nat) (data : Nat) : Frame [.im] s
    (s.logRec u0 coord kind ring seq data) := by
  unfold State.logRec
  dsimp only
  split
  split
  refine Frame.comp ?_ (State.setLog_frame _ _ _) rfl
  exact Frame.refl
  exact Frame.refl
  split
  refine Frame.comp ?_ (State.setLog_frame _ _ _) rfl
  exact Frame.refl
  exact Frame.refl

theorem State.logFor_frame (s : State) (u0 coord kind : Nat) (q : Option Nat) (data : Nat) : Frame [.im] s (s.logFor u0
    coord kind q data) := by
  unfold State.logFor
  dsimp only
  refine Frame.comp ?_ (State.logRec_frame _ _ _ _ _ _ _) rfl
  exact Frame.refl

theorem State.cper_frame (s : State) (b : CperBody) : Frame [.ld, .irq, .pcie, .im, .fab, .ctrs, .out] s (s.cper b) := by
  unfold State.cper
  dsimp only
  refine Frame.comp ?_ (State.trigger_frame _ _) rfl
  refine Frame.comp ?_ (State.logFor_frame _ _ _ _ _ _) rfl
  split
  refine Frame.comp ?_ (State.bump_frame _ _ _) rfl
  exact Frame.refl
  refine Frame.comp ?_ (State.arrive_frame _ _) rfl
  refine Frame.upd ?_
  exact Frame.refl

theorem State.freeStep_frame (s : State) : Frame [.free] s (s.freeStep) := by
  unfold State.freeStep
  refine Frame.upd ?_
  exact Frame.refl

theorem State.crossing_frame (s : State) (q : Option Nat) (a b : Nat) : Frame [.hg, .ctrs, .free] s (s.crossing q a b) := by
  unfold State.crossing
  dsimp only
  split
  exact Frame.refl
  refine Frame.comp ?_ (State.freeStep_frame _) rfl
  refine Frame.comp ?_ (State.evt_frame _ _ _ _) rfl
  exact Frame.refl

theorem State.signal_frame (s : State) (e : Nat) (v : W64) (q : Nat) : Frame [.hg] s (s.signal e v q) := by
  unfold State.signal
  refine Frame.upd ?_
  exact Frame.refl

theorem State.deliver_frame (s : State) (q : Nat) : Frame [.hg, .ld, .irq, .pcie, .im, .fab, .out] s (s.deliver q) := by
  unfold State.deliver
  split
  exact Frame.refl
  dsimp only
  refine Frame.comp ?_ (State.logRec_frame _ _ _ _ _ _ _) rfl
  refine Frame.upd ?_
  refine Frame.comp ?_ (State.haltOn_frame _ _ _) rfl
  split
  refine Frame.comp ?_ (State.setRing_frame _ _ _) rfl
  split
  split
  refine Frame.comp ?_ (State.signal_frame _ _ _ _) rfl
  refine Frame.comp ?_ (State.updCmd_frame _ _ _) rfl
  exact Frame.refl
  refine Frame.comp ?_ (State.updCmd_frame _ _ _) rfl
  exact Frame.refl
  refine Frame.comp ?_ (State.updCmd_frame _ _ _) rfl
  exact Frame.refl
  split
  split
  refine Frame.comp ?_ (State.signal_frame _ _ _ _) rfl
  refine Frame.comp ?_ (State.updCmd_frame _ _ _) rfl
  exact Frame.refl
  refine Frame.comp ?_ (State.updCmd_frame _ _ _) rfl
  exact Frame.refl
  refine Frame.comp ?_ (State.updCmd_frame _ _ _) rfl
  exact Frame.refl

theorem State.evtU_frame (s : State) (code n : Nat) : Frame [.hg, .ctrs] s (s.evtU code n) := by
  unfold State.evtU
  dsimp only
  refine Frame.upd ?_
  refine Frame.comp ?_ (State.bump_frame _ _ _) rfl
  exact Frame.refl

theorem State.flushVector_frame (s : State) (v : Nat) : Frame [.ld, .pcie, .fab, .out] s (s.flushVector v) := by
  unfold State.flushVector
  split
  refine Frame.comp ?_ (State.linkUse_frame _) rfl
  refine Frame.comp ?_ (State.emit_frame _ _) rfl
  refine Frame.upd ?_
  exact Frame.refl
  exact Frame.refl

theorem State.flushPba_frame (s : State) : Frame [.ld, .pcie, .fab, .out] s (s.flushPba) := by
  unfold State.flushPba
  dsimp only
  refine Frame.foldl (fun _ _ => ?_) _ ?_
  refine Frame.comp ?_ (State.flushVector_frame _ _) rfl
  exact Frame.refl
  exact Frame.refl

theorem State.logHamper_frame (s : State) (q : Option Nat) (i n : Nat) : Frame [.im] s (s.logHamper q i n) := by
  unfold State.logHamper
  refine Frame.comp ?_ (State.logFor_frame _ _ _ _ _ _) rfl
  exact Frame.refl

theorem State.noteMasked_frame (s : State) (n : Nat) : Frame [.irq] s (s.noteMasked n) := by
  unfold State.noteMasked
  refine Frame.upd ?_
  exact Frame.refl

theorem State.noteWrite_frame (s : State) (q a n : Nat) : Frame [.im] s (s.noteWrite q a n) := by
  unfold State.noteWrite
  refine Frame.upd ?_
  exact Frame.refl

theorem State.reachedBy_frame (s : State) (m : Master) : Frame [.ld] s (s.reachedBy m) := by
  unfold State.reachedBy
  split
  refine Frame.comp ?_ (State.linkUse_frame _) rfl
  exact Frame.refl
  refine Frame.comp ?_ (State.wakeA2_frame _ _) rfl
  exact Frame.refl
  exact Frame.refl

theorem State.refuseCmd_frame (s : State) (q : Nat) (t0 : Status) : Frame [.hg, .ld, .irq, .pcie, .fab, .out] s
    (s.refuseCmd q t0) := by
  unfold State.refuseCmd
  split
  exact Frame.refl
  refine Frame.comp ?_ (State.haltOn_frame _ _ _) rfl
  refine Frame.comp ?_ (State.updCmd_frame _ _ _) rfl
  exact Frame.refl

theorem State.setDetail_frame (s : State) (q v : Nat) : Frame [.hg] s (s.setDetail q v) := by
  unfold State.setDetail
  refine Frame.comp ?_ (State.updCmd_frame _ _ _) rfl
  exact Frame.refl

theorem State.setDom_frame (s : State) (k : Nat) (d : DomState) : Frame [.ld] s (s.setDom k d) := by
  unfold State.setDom
  refine Frame.upd ?_
  exact Frame.refl

theorem State.setFailed_frame (s : State) (k : Nat) : Frame [.ld, .irq, .pcie, .fab, .out] s (s.setFailed k) := by
  unfold State.setFailed
  refine Frame.comp ?_ (State.arrive_frame _ _) rfl
  refine Frame.upd ?_
  exact Frame.refl

theorem State.setOwn_frame (s : State) (p : OwnPhase) : Frame [.ld, .tb, .irq, .pcie, .fab, .out] s (s.setOwn p) := by
  unfold State.setOwn
  dsimp only
  split
  refine Frame.upd ?_
  exact Frame.refl
  refine Frame.comp ?_ (State.arrive_frame _ _) rfl
  refine Frame.upd ?_
  exact Frame.refl

theorem State.setReady_frame (s : State) (k : Nat) : Frame [.ld, .irq, .pcie, .fab, .out] s (s.setReady k) := by
  unfold State.setReady
  refine Frame.comp ?_ (State.arrive_frame _ _) rfl
  refine Frame.upd ?_
  exact Frame.refl

theorem State.trafficOn_frame (s : State) (die : Nat) (q : Option Nat) (write : Bool) (a n : Nat) : Frame [.hg, .ctrs,
    .free] s (s.trafficOn die q write a n) := by
  unfold State.trafficOn
  refine Frame.comp ?_ (State.freeStep_frame _) rfl
  refine Frame.comp ?_ (State.evtU_frame _ _ _) rfl
  refine Frame.foldl (fun _ _ => ?_) _ ?_
  refine Frame.comp ?_ (State.countPiece_frame _ _ _ _ _) rfl
  exact Frame.refl
  exact Frame.refl

theorem State.traffic_frame (s : State) (q : Option Nat) (write : Bool) (a n : Nat) : Frame [.hg, .ctrs, .free] s
    (s.traffic q write a n) := by
  unfold State.traffic
  refine Frame.comp ?_ (State.trafficOn_frame _ _ _ _ _ _) rfl
  exact Frame.refl

theorem State.vacate_frame (s : State) : Frame [.ld, .tb, .irq, .pcie, .fab, .out] s (s.vacate) := by
  unfold State.vacate
  refine Frame.comp ?_ (State.setOwn_frame _ _) rfl
  refine Frame.upd ?_
  exact Frame.refl

theorem State.wantDom_frame (s : State) (k : Nat) : Frame [.ld] s (s.wantDom k) := by
  unfold State.wantDom
  split
  refine Frame.comp ?_ (State.setDom_frame _ _ _) rfl
  exact Frame.refl
  split
  exact Frame.refl
  refine Frame.upd ?_
  exact Frame.refl

theorem State.countCorr_frame (s : State) (cw : Nat) : Frame [.ctrs] s (s.countCorr cw) := by
  unfold State.countCorr
  split
  refine Frame.comp ?_ (State.bump_frame _ _ _) rfl
  exact Frame.refl
  refine Frame.comp ?_ (State.bump_frame _ _ _) rfl
  exact Frame.refl

theorem State.setErrors_frame (s : State) (e : UnitErrors) : Frame [.im] s (s.setErrors e) := by
  unfold State.setErrors
  refine Frame.upd ?_
  exact Frame.refl

theorem State.noteError_frame (s : State) (u : UnitId) : Frame [.im] s (s.noteError u).1 := by
  unfold State.noteError
  dsimp only
  split
  dsimp only
  refine Frame.comp ?_ (State.setErrors_frame _ _) rfl
  exact Frame.refl
  dsimp only
  refine Frame.comp ?_ (State.setErrors_frame _ _) rfl
  exact Frame.refl

theorem State.startRemap_frame (s : State) (st pch row mech syn : Nat) : Frame [.ms, .ld, .irq, .pcie, .im, .fab, .ctrs,
    .out] s (s.startRemap st pch row mech syn) := by
  unfold State.startRemap
  split
  exact Frame.refl
  dsimp only
  split
  refine Frame.comp ?_ (State.cper_frame _ _) rfl
  exact Frame.refl
  refine Frame.upd ?_
  exact Frame.refl

theorem State.stackError_frame (s : State) (cw : Nat) (bad : Bool) (syn : Nat) : Frame [.ms, .ld, .irq, .pcie, .im, .fab,
    .ctrs, .out] s
    (s.stackError cw bad syn) := by
  unfold State.stackError
  split
  · exact Frame.refl
  · extract_lets u n s1 ms s2
    have hn : Frame [.ms, .ld, .irq, .pcie, .im, .fab, .ctrs, .out] s n.1 := State.noteError_frame _ _ |>.mono rfl
    have h1 : Frame [.ms, .ld, .irq, .pcie, .im, .fab, .ctrs, .out] s s1 := by
      unfold s1
      split
      · exact hn
      · exact Frame.comp (Frame.comp hn (State.bump_frame _ _ _) rfl) (State.cper_frame _ _) rfl
    clear_value s1
    have h2 : Frame [.ms, .ld, .irq, .pcie, .im, .fab, .ctrs, .out] s s2 := by
      unfold s2
      split
      · exact h1
      · unfold ms
        split <;> exact Frame.upd h1
    clear_value s2
    split
    · exact Frame.comp h2 (State.startRemap_frame _ _ _ _ _ _) rfl
    · exact h2

theorem State.noteMerge_frame (s : State) (cw : Nat) : Frame [.ms, .hg, .ld, .irq, .pcie, .im, .fab, .ctrs, .out] s
    (s.noteMerge cw) := by
  unfold State.noteMerge
  split
  exact Frame.refl
  refine Frame.comp ?_ (State.stackError_frame _ _ _ _) rfl
  refine Frame.comp ?_ (State.evtU_frame _ _ _) rfl
  refine Frame.comp ?_ (State.countCorr_frame _ _) rfl
  exact Frame.refl
  refine Frame.comp ?_ (State.stackError_frame _ _ _ _) rfl
  refine Frame.comp ?_ (State.bump_frame _ _ _) rfl
  exact Frame.refl

theorem State.mergeCw_frame (s : State) (cw : Nat) : Frame [.ms, .hg, .ld, .irq, .pcie, .im, .fab, .ctrs, .out] s
    (s.mergeCw cw) := by
  unfold State.mergeCw
  dsimp only
  refine Frame.comp ?_ (State.setMeta_frame _ _ _ _) rfl
  refine Frame.comp ?_ (State.settle_frame _ _) rfl
  refine Frame.comp ?_ (State.noteMerge_frame _ _) rfl
  exact Frame.refl

theorem State.noteCw_frame (s : State) (cw : Nat) : Frame [.ms, .hg, .ld, .irq, .pcie, .im, .fab, .ctrs, .out] s (s.noteCw
    cw) := by
  unfold State.noteCw
  dsimp only
  split
  refine Frame.comp ?_ (State.noteMerge_frame _ _) rfl
  exact Frame.refl
  split
  refine Frame.comp ?_ (State.bump_frame _ _ _) rfl
  refine Frame.comp ?_ (State.noteMerge_frame _ _) rfl
  exact Frame.refl
  split
  refine Frame.comp ?_ (State.bump_frame _ _ _) rfl
  refine Frame.comp ?_ (State.noteMerge_frame _ _) rfl
  exact Frame.refl
  refine Frame.comp ?_ (State.noteMerge_frame _ _) rfl
  exact Frame.refl

theorem State.noteReads_frame (s : State) (l : List (Nat × Nat)) : Frame [.ms, .hg, .ld, .irq, .pcie, .im, .fab, .ctrs,
    .out] s (s.noteReads l) := by
  induction l generalizing s with
  | nil => exact Frame.refl
  | cons x xs ih =>
    obtain ⟨a, n⟩ := x
    unfold State.noteReads
    refine Frame.comp ?_ (ih _) rfl
    split
    exact Frame.refl
    refine Frame.foldl (fun _ _ => ?_) _ ?_
    refine Frame.comp ?_ (State.noteCw_frame _ _) rfl
    exact Frame.refl
    exact Frame.refl

theorem State.wr_frame (s : State) (a : Nat) (l0 : List Byte) : Frame [.ms, .hg, .ld, .irq, .pcie, .im, .fab, .ctrs, .out]
    s (s.wr a l0) := by
  unfold State.wr
  split
  refine Frame.comp ?_ (State.putBytes_frame _ _ _) rfl
  exact Frame.refl
  dsimp only
  refine Frame.comp ?_ (State.putBytes_frame _ _ _) rfl
  refine Frame.foldl (fun _ _ => ?_) _ ?_
  split
  refine Frame.comp ?_ (State.setMeta_frame _ _ _ _) rfl
  exact Frame.refl
  refine Frame.comp ?_ (State.mergeCw_frame _ _) rfl
  exact Frame.refl
  exact Frame.refl

theorem State.wrNat_frame (s : State) (a n v : Nat) : Frame [.ms, .hg, .ld, .irq, .pcie, .im, .fab, .ctrs, .out] s
    (s.wrNat a n v) := by
  unfold State.wrNat
  refine Frame.comp ?_ (State.wr_frame _ _ _) rfl
  exact Frame.refl

theorem State.duplicate_frame (s : State) : Frame [.hg, .ctrs] s (s.duplicate) := by
  unfold State.duplicate
  refine Frame.comp ?_ (State.evtU_frame _ _ _) rfl
  refine Frame.comp ?_ (State.bump_frame _ _ _) rfl
  exact Frame.refl

theorem State.logPart_frame (s : State) (n b : Nat) : Frame [.im] s (s.logPart n b) := by
  unfold State.logPart
  refine Frame.comp ?_ (State.logRec_frame _ _ _ _ _ _ _) rfl
  exact Frame.refl

theorem State.setPart_frame (s : State) (p : Part) : Frame [.im, .xe] s (s.setPart p) := by
  unfold State.setPart
  dsimp only
  split
  refine Frame.upd ?_
  exact Frame.refl
  refine Frame.comp ?_ (State.logPart_frame _ _ _) rfl
  refine Frame.upd ?_
  exact Frame.refl

theorem State.laneFails_frame (s : State) (f : LaneFault) : Frame [.ld, .irq, .pcie, .im, .fab, .ctrs, .out] s
    (s.laneFails f) := by
  unfold State.laneFails
  dsimp only
  split
  refine Frame.comp ?_ (State.cper_frame _ _) rfl
  refine Frame.comp ?_ (State.noteError_frame _ _) rfl
  refine Frame.comp ?_ (State.cper_frame _ _) rfl
  refine Frame.comp ?_ (State.bump_frame _ _ _) rfl
  refine Frame.comp ?_ (State.noteError_frame _ _) rfl
  exact Frame.refl
  refine Frame.comp ?_ (State.cper_frame _ _) rfl
  refine Frame.comp ?_ (State.bump_frame _ _ _) rfl
  refine Frame.comp ?_ (State.noteError_frame _ _) rfl
  exact Frame.refl

theorem State.checkLanes_frame (s : State) (n b o : Nat) : Frame [.ms, .ld, .irq, .pcie, .im, .fab, .ctrs, .out] s
    (s.checkLanes n b o) := by
  unfold State.checkLanes
  refine Frame.foldl (fun _ _ => ?_) _ ?_
  refine Frame.comp ?_ (State.laneFails_frame _ _) rfl
  exact Frame.refl
  refine Frame.upd ?_
  exact Frame.refl

theorem State.clearPart_frame (s : State) (n b o : Nat) : Frame [.hg, .im, .xe] s (s.clearPart n b o) := by
  unfold State.clearPart
  split
  exact Frame.refl
  split
  exact Frame.refl
  dsimp only
  split
  refine Frame.comp ?_ (State.setPart_frame _ _) rfl
  exact Frame.refl
  split
  refine Frame.comp ?_ (State.updCmd_frame _ _ _) rfl
  refine Frame.comp ?_ (State.setPart_frame _ _) rfl
  exact Frame.refl
  refine Frame.comp ?_ (State.setPart_frame _ _) rfl
  exact Frame.refl

theorem State.writePart_frame (s : State) (n b o : Nat) : Frame [.ms, .hg, .ham, .ld, .irq, .pcie, .im, .xe, .fab, .ctrs,
    .free, .out] s (s.writePart n b o) := by
  unfold State.writePart
  split
  dsimp only
  split
  refine Frame.comp ?_ (State.failCmd_frame _ _ _ _) rfl
  exact Frame.refl
  refine Frame.comp ?_ (State.clearPart_frame _ _ _ _) rfl
  split
  split
  split
  refine Frame.comp ?_ (State.deliver_frame _ _) rfl
  refine Frame.upd ?_
  refine Frame.comp ?_ (State.emit_frame _ _) rfl
  refine Frame.comp ?_ (State.setPart_frame _ _) rfl
  refine Frame.comp ?_ (State.noteWrite_frame _ _ _ _) rfl
  refine Frame.comp ?_ (State.trafficOn_frame _ _ _ _ _ _) rfl
  refine Frame.comp ?_ (State.wr_frame _ _ _) rfl
  exact Frame.refl
  refine Frame.upd ?_
  refine Frame.comp ?_ (State.emit_frame _ _) rfl
  refine Frame.comp ?_ (State.setPart_frame _ _) rfl
  refine Frame.comp ?_ (State.noteWrite_frame _ _ _ _) rfl
  refine Frame.comp ?_ (State.trafficOn_frame _ _ _ _ _ _) rfl
  refine Frame.comp ?_ (State.wr_frame _ _ _) rfl
  exact Frame.refl
  split
  refine Frame.comp ?_ (State.deliver_frame _ _) rfl
  refine Frame.upd ?_
  refine Frame.comp ?_ (State.emit_frame _ _) rfl
  refine Frame.comp ?_ (State.setPart_frame _ _) rfl
  refine Frame.comp ?_ (State.noteWrite_frame _ _ _ _) rfl
  refine Frame.comp ?_ (State.trafficOn_frame _ _ _ _ _ _) rfl
  refine Frame.comp ?_ (State.wr_frame _ _ _) rfl
  exact Frame.refl
  refine Frame.upd ?_
  refine Frame.comp ?_ (State.emit_frame _ _) rfl
  refine Frame.comp ?_ (State.setPart_frame _ _) rfl
  refine Frame.comp ?_ (State.noteWrite_frame _ _ _ _) rfl
  refine Frame.comp ?_ (State.trafficOn_frame _ _ _ _ _ _) rfl
  refine Frame.comp ?_ (State.wr_frame _ _ _) rfl
  exact Frame.refl
  split
  split
  refine Frame.comp ?_ (State.deliver_frame _ _) rfl
  refine Frame.comp ?_ (State.setPart_frame _ _) rfl
  refine Frame.comp ?_ (State.noteWrite_frame _ _ _ _) rfl
  refine Frame.comp ?_ (State.trafficOn_frame _ _ _ _ _ _) rfl
  refine Frame.comp ?_ (State.wr_frame _ _ _) rfl
  exact Frame.refl
  refine Frame.comp ?_ (State.setPart_frame _ _) rfl
  refine Frame.comp ?_ (State.noteWrite_frame _ _ _ _) rfl
  refine Frame.comp ?_ (State.trafficOn_frame _ _ _ _ _ _) rfl
  refine Frame.comp ?_ (State.wr_frame _ _ _) rfl
  exact Frame.refl
  split
  refine Frame.comp ?_ (State.deliver_frame _ _) rfl
  refine Frame.comp ?_ (State.setPart_frame _ _) rfl
  refine Frame.comp ?_ (State.noteWrite_frame _ _ _ _) rfl
  refine Frame.comp ?_ (State.trafficOn_frame _ _ _ _ _ _) rfl
  refine Frame.comp ?_ (State.wr_frame _ _ _) rfl
  exact Frame.refl
  refine Frame.comp ?_ (State.setPart_frame _ _) rfl
  refine Frame.comp ?_ (State.noteWrite_frame _ _ _ _) rfl
  refine Frame.comp ?_ (State.trafficOn_frame _ _ _ _ _ _) rfl
  refine Frame.comp ?_ (State.wr_frame _ _ _) rfl
  exact Frame.refl
  exact Frame.refl

theorem State.deliverPart_frame (s : State) (n b o : Nat) : Frame [.ms, .hg, .ham, .ld, .irq, .pcie, .im, .xe, .fab,
    .ctrs, .free, .out] s (s.deliverPart n b o) := by
  unfold State.deliverPart
  split
  split
  exact Frame.refl
  split
  refine Frame.comp ?_ (State.markIncomplete_frame _ _) rfl
  refine Frame.comp ?_ (State.checkLanes_frame _ _ _ _) rfl
  exact Frame.refl
  refine Frame.comp ?_ (State.writePart_frame _ _ _ _) rfl
  refine Frame.comp ?_ (State.checkLanes_frame _ _ _ _) rfl
  exact Frame.refl
  exact Frame.refl

theorem State.setLanes_frame (s : State) (p : Part) : Frame [.ms, .hg, .ld, .irq, .pcie, .im, .xe, .fab, .ctrs, .out] s
    (s.setLanes p) := by
  unfold State.setLanes
  dsimp only
  split
  refine Frame.comp ?_ (State.wr_frame _ _ _) rfl
  refine Frame.comp ?_ (State.setPart_frame _ _) rfl
  exact Frame.refl
  refine Frame.comp ?_ (State.setPart_frame _ _) rfl
  exact Frame.refl

theorem State.takeCopy_frame (s : State) (p : Part) (c : Copy) : Frame [.ms, .hg, .ld, .irq, .pcie, .im, .xe, .fab, .ctrs,
    .out] s (s.takeCopy p c) := by
  unfold State.takeCopy
  dsimp only
  split
  refine Frame.comp ?_ (State.bump_frame _ _ _) rfl
  split
  refine Frame.comp ?_ (State.setLanes_frame _ _) rfl
  exact Frame.refl
  refine Frame.comp ?_ (State.duplicate_frame _) rfl
  refine Frame.comp ?_ (State.setLanes_frame _ _) rfl
  exact Frame.refl
  split
  refine Frame.comp ?_ (State.setLanes_frame _ _) rfl
  exact Frame.refl
  refine Frame.comp ?_ (State.duplicate_frame _) rfl
  refine Frame.comp ?_ (State.setLanes_frame _ _) rfl
  exact Frame.refl

theorem State.copyArrives_frame (s : State) (n b o : Nat) (c : Copy) : Frame [.ms, .hg, .ham, .ld, .irq, .pcie, .im, .xe,
    .fab, .ctrs, .free, .out] s (s.copyArrives n b o c) := by
  unfold State.copyArrives
  split
  refine Frame.comp ?_ (State.duplicate_frame _) rfl
  exact Frame.refl
  refine Frame.comp ?_ (State.duplicate_frame _) rfl
  exact Frame.refl
  dsimp only
  split
  refine Frame.upd ?_
  exact Frame.refl
  split
  refine Frame.comp ?_ (State.duplicate_frame _) rfl
  split
  refine Frame.comp ?_ (State.bump_frame _ _ _) rfl
  exact Frame.refl
  exact Frame.refl
  split
  refine Frame.comp ?_ (State.setPart_frame _ _) rfl
  split
  refine Frame.comp ?_ (State.bump_frame _ _ _) rfl
  exact Frame.refl
  exact Frame.refl
  split
  split
  refine Frame.comp ?_ (State.deliverPart_frame _ _ _ _) rfl
  refine Frame.comp ?_ (State.bump_frame _ _ _) rfl
  refine Frame.comp ?_ (State.duplicate_frame _) rfl
  refine Frame.comp ?_ (State.setLanes_frame _ _) rfl
  split
  refine Frame.comp ?_ (State.bump_frame _ _ _) rfl
  exact Frame.refl
  exact Frame.refl
  refine Frame.comp ?_ (State.duplicate_frame _) rfl
  refine Frame.comp ?_ (State.setPart_frame _ _) rfl
  split
  refine Frame.comp ?_ (State.bump_frame _ _ _) rfl
  exact Frame.refl
  exact Frame.refl
  split
  refine Frame.comp ?_ (State.deliverPart_frame _ _ _ _) rfl
  refine Frame.comp ?_ (State.takeCopy_frame _ _ _) rfl
  split
  refine Frame.comp ?_ (State.bump_frame _ _ _) rfl
  exact Frame.refl
  exact Frame.refl
  refine Frame.comp ?_ (State.setPart_frame _ _) rfl
  split
  refine Frame.comp ?_ (State.bump_frame _ _ _) rfl
  exact Frame.refl
  exact Frame.refl

theorem State.admitCopies_frame (s : State) (n : Nat) : Frame [.ms, .hg, .ham, .ld, .irq, .pcie, .im, .xe, .fab, .ctrs,
    .free, .out] s (s.admitCopies n) := by
  induction n generalizing s with
  | zero => exact Frame.refl
  | succ n ih =>
    unfold State.admitCopies
    split
    exact Frame.refl
    split
    exact Frame.refl
    refine Frame.comp ?_ (ih _) rfl
    refine Frame.comp ?_ (State.copyArrives_frame _ _ _ _ _) rfl
    refine Frame.upd ?_
    exact Frame.refl

theorem State.freeBuffers_frame (s : State) : Frame [.fab, .out] s (s.freeBuffers) := by
  unfold State.freeBuffers
  split
  refine Frame.foldl (fun _ _ => ?_) _ ?_
  dsimp only
  split
  exact Frame.refl
  refine Frame.comp ?_ (State.pump_frame _ _) rfl
  refine Frame.comp ?_ (State.setPort_frame _ _ _) rfl
  exact Frame.refl
  exact Frame.refl
  exact Frame.refl

theorem State.admitWaiting_frame (s : State) : Frame [.ms, .hg, .ham, .ld, .irq, .pcie, .im, .xe, .fab, .ctrs, .free,
    .out] s (s.admitWaiting) := by
  unfold State.admitWaiting
  refine Frame.comp ?_ (State.freeBuffers_frame _) rfl
  refine Frame.comp ?_ (State.admitCopies_frame _ _) rfl
  exact Frame.refl

theorem State.allClear_frame (s : State) (n b o rank : Nat) : Frame [.hg, .im, .xe] s (s.allClear n b o rank) := by
  unfold State.allClear
  split
  exact Frame.refl
  refine Frame.comp ?_ (State.clearPart_frame _ _ _ _) rfl
  refine Frame.comp ?_ (State.setPart_frame _ _) rfl
  exact Frame.refl

theorem State.partDeadline_frame (s : State) (n b o : Nat) : Frame [.ms, .hg, .ham, .ld, .irq, .pcie, .im, .xe, .fab,
    .ctrs, .free, .out] s (s.partDeadline n b o) := by
  unfold State.partDeadline
  split
  exact Frame.refl
  split
  exact Frame.refl
  split
  exact Frame.refl
  dsimp only
  refine Frame.comp ?_ (State.deliverPart_frame _ _ _ _) rfl
  refine Frame.foldl (fun _ _ => ?_) _ ?_
  split
  split
  exact Frame.refl
  refine Frame.comp ?_ (State.takeCopy_frame _ _ _) rfl
  exact Frame.refl
  exact Frame.refl
  refine Frame.comp ?_ (State.setPart_frame _ _) rfl
  exact Frame.refl

theorem State.uncount_frame (s : State) (off : Nat) (on : Bool) : Frame [.ctrs] s (s.uncount off on) := by
  unfold State.uncount
  split
  refine Frame.comp ?_ (State.bump_frame _ _ _) rfl
  exact Frame.refl
  exact Frame.refl

theorem State.undoArrival_frame (s : State) (p : Part) (rank : Nat) : Frame [.ms, .hg, .ham, .ld, .irq, .pcie, .im, .xe,
    .fab, .ctrs, .free, .out] s (s.undoArrival p rank) := by
  unfold State.undoArrival
  dsimp only
  split
  refine Frame.comp ?_ (State.uncount_frame _ _ _) rfl
  refine Frame.comp ?_ (State.setPart_frame _ _) rfl
  exact Frame.refl
  refine Frame.foldl (fun _ _ => ?_) _ ?_
  refine Frame.comp ?_ (State.copyArrives_frame _ _ _ _ _) rfl
  refine Frame.comp ?_ (State.uncount_frame _ _ _) rfl
  exact Frame.refl
  refine Frame.comp ?_ (State.uncount_frame _ _ _) rfl
  refine Frame.comp ?_ (State.uncount_frame _ _ _) rfl
  refine Frame.comp ?_ (State.setLanes_frame _ _) rfl
  exact Frame.refl

theorem State.retractFrom_frame (s : State) (p : Part) (rank : Nat) : Frame [.ms, .hg, .ham, .ld, .irq, .pcie, .im, .xe,
    .fab, .ctrs, .free, .out] s (s.retractFrom p rank) := by
  unfold State.retractFrom
  split
  refine Frame.comp ?_ (State.setPart_frame _ _) rfl
  exact Frame.refl
  split
  refine Frame.comp ?_ (State.undoArrival_frame _ _ _) rfl
  exact Frame.refl
  dsimp only
  split
  refine Frame.comp ?_ (State.setLanes_frame _ _) rfl
  exact Frame.refl
  refine Frame.comp ?_ (State.setPart_frame _ _) rfl
  exact Frame.refl

theorem State.retractCopy_frame (s : State) (n b o rank : Nat) : Frame [.ms, .hg, .ham, .ld, .irq, .pcie, .im, .xe, .fab,
    .ctrs, .free, .out] s (s.retractCopy n b o rank).1 := by
  unfold State.retractCopy
  dsimp only
  split
  split
  dsimp only
  refine Frame.comp ?_ (State.noteError_frame _ _) rfl
  refine Frame.comp ?_ (State.bump_frame _ _ _) rfl
  exact Frame.refl
  dsimp only
  refine Frame.comp ?_ (State.retractFrom_frame _ _ _) rfl
  refine Frame.comp ?_ (State.bump_frame _ _ _) rfl
  exact Frame.refl
  split
  dsimp only
  refine Frame.comp ?_ (State.bump_frame _ _ _) rfl
  exact Frame.refl
  dsimp only
  refine Frame.comp ?_ (State.retractFrom_frame _ _ _) rfl
  refine Frame.comp ?_ (State.bump_frame _ _ _) rfl
  exact Frame.refl

theorem State.setSent_frame (s : State) (x : Sent) : Frame [.xe] s (s.setSent x) := by
  unfold State.setSent
  refine Frame.upd ?_
  exact Frame.refl

theorem State.countRepair_frame (s : State) : Frame [.ctrs] s (s.countRepair) := by
  unfold State.countRepair
  split
  exact Frame.refl
  refine Frame.comp ?_ (State.bump_frame _ _ _) rfl
  exact Frame.refl

theorem State.recordLoss_frame (s : State) (q a action step : Nat) : Frame [.ld, .irq, .pcie, .im, .fab, .ctrs, .out] s
    (s.recordLoss q a action step) := by
  unfold State.recordLoss
  split
  dsimp only
  refine Frame.comp ?_ (State.cper_frame _ _) rfl
  exact Frame.refl
  refine Frame.comp ?_ (State.cper_frame _ _) rfl
  exact Frame.refl

theorem State.loseData_frame (s : State) (q a : Nat) : Frame [.hg, .ham, .ld, .irq, .pcie, .im, .xe, .fab, .ctrs, .out] s
    (s.loseData q a) := by
  unfold State.loseData
  dsimp only
  split
  split
  refine Frame.comp ?_ (State.failCmd_frame _ _ _ _) rfl
  exact Frame.refl
  refine Frame.comp ?_ (State.recordLoss_frame _ _ _ _ _) rfl
  refine Frame.comp ?_ (State.failCmd_frame _ _ _ _) rfl
  exact Frame.refl
  refine Frame.comp ?_ (State.failCmd_frame _ _ _ _) rfl
  exact Frame.refl

theorem State.retractSent_frame (s : State) (x : Sent) : Frame [.ms, .hg, .ham, .ld, .irq, .pcie, .im, .xe, .fab, .ctrs,
    .free, .out] s (s.retractSent x) := by
  unfold State.retractSent
  dsimp only
  refine Frame.comp ?_ (State.updCmd_frame _ _ _) rfl
  refine Frame.comp ?_ (State.setSent_frame _ _) rfl
  refine Frame.foldl (fun _ _ => ?_) _ ?_
  split
  refine Frame.comp ?_ (State.retractCopy_frame _ _ _ _ _) rfl
  refine Frame.comp ?_ (State.evt_frame _ _ _ _) rfl
  refine Frame.comp ?_ (State.bump_frame _ _ _) rfl
  exact Frame.refl
  refine Frame.comp ?_ (State.emit_frame _ _) rfl
  refine Frame.comp ?_ (State.evt_frame _ _ _ _) rfl
  refine Frame.comp ?_ (State.bump_frame _ _ _) rfl
  exact Frame.refl
  exact Frame.refl

theorem State.taintOne_frame (s : State) (q : Nat) : Frame [.ms, .hg, .ham, .ld, .irq, .pcie, .im, .xe, .fab, .ctrs,
    .free, .out] s (s.taintOne q) := by
  unfold State.taintOne
  split
  exact Frame.refl
  split
  exact Frame.refl
  dsimp only
  split
  refine Frame.comp ?_ (State.retractSent_frame _ _) rfl
  refine Frame.comp ?_ (State.bump_frame _ _ _) rfl
  refine Frame.comp ?_ (State.updCmd_frame _ _ _) rfl
  exact Frame.refl
  refine Frame.comp ?_ (State.bump_frame _ _ _) rfl
  refine Frame.comp ?_ (State.updCmd_frame _ _ _) rfl
  exact Frame.refl

theorem State.taint_frame (s : State) (q : Nat) : Frame [.ms, .hg, .ham, .ld, .irq, .pcie, .im, .xe, .fab, .ctrs, .free,
    .out] s (s.taint q) := by
  unfold State.taint
  refine Frame.foldl (fun _ _ => ?_) _ ?_
  refine Frame.comp ?_ (State.taintOne_frame _ _) rfl
  exact Frame.refl
  refine Frame.comp ?_ (State.countRepair_frame _) rfl
  exact Frame.refl

theorem State.failMem_frame (s : State) (q : Nat) (f : Nat × Bool) : Frame [.ms, .hg, .ham, .ld, .irq, .pcie, .im, .xe,
    .fab, .ctrs, .free, .out] s (s.failMem q f) := by
  unfold State.failMem
  split
  split
  refine Frame.comp ?_ (State.loseData_frame _ _ _) rfl
  exact Frame.refl
  refine Frame.comp ?_ (State.updCmd_frame _ _ _) rfl
  refine Frame.comp ?_ (State.recordLoss_frame _ _ _ _ _) rfl
  refine Frame.comp ?_ (State.taint_frame _ _) rfl
  refine Frame.comp ?_ (State.taint_frame _ _) rfl
  exact Frame.refl
  split
  refine Frame.comp ?_ (State.loseData_frame _ _ _) rfl
  exact Frame.refl
  refine Frame.comp ?_ (State.failCmd_frame _ _ _ _) rfl
  exact Frame.refl

theorem State.loseJournal_frame (s : State) (cw : Nat) : Frame [.hg] s (s.loseJournal cw) := by
  unfold State.loseJournal
  split
  refine Frame.upd ?_
  exact Frame.refl
  exact Frame.refl

theorem State.spoilCw_frame (s : State) (cw : Nat) : Frame [.ms, .hg, .ld, .irq, .pcie, .im, .fab, .ctrs, .out] s
    (s.spoilCw cw) := by
  unfold State.spoilCw
  refine Frame.comp ?_ (State.loseJournal_frame _ _) rfl
  refine Frame.comp ?_ (State.setMeta_frame _ _ _ _) rfl
  refine Frame.comp ?_ (State.settle_frame _ _) rfl
  refine Frame.comp ?_ (State.noteMerge_frame _ _) rfl
  exact Frame.refl

theorem State.readJournal_frame (s : State) : Frame [.ms, .hg, .ld, .irq, .pcie, .im, .fab, .ctrs, .out] s (s.readJournal) := by
  unfold State.readJournal
  refine Frame.foldl (fun _ _ => ?_) _ ?_
  refine Frame.comp ?_ (State.spoilCw_frame _ _) rfl
  exact Frame.refl
  exact Frame.refl

theorem State.addVnCheck_frame (s : State) (q : Nat) (engine : Option (Nat × Nat)) : Frame [.hg, .mc] s (s.addVnCheck q
    engine) := by
  unfold State.addVnCheck
  dsimp only
  refine Frame.comp ?_ (State.updCmd_frame _ _ _) rfl
  refine Frame.upd ?_
  exact Frame.refl

theorem State.addVnChecks_frame (s : State) (q : Nat) (x2 : List (Nat × Nat)) : Frame [.hg, .mc] s (s.addVnChecks q x2) := by
  unfold State.addVnChecks
  split
  refine Frame.comp ?_ (State.addVnCheck_frame _ _ _) rfl
  exact Frame.refl
  refine Frame.foldl (fun _ _ => ?_) _ ?_
  refine Frame.comp ?_ (State.addVnCheck_frame _ _ _) rfl
  exact Frame.refl
  exact Frame.refl

theorem State.countOn_frame (s : State) (die : Nat → Nat) (base : Nat) (l0 : List Nat) : Frame [.ctrs] s (s.countOn die
    base l0) := by
  unfold State.countOn
  refine Frame.foldl (fun _ _ => ?_) _ ?_
  refine Frame.comp ?_ (State.bump_frame _ _ _) rfl
  exact Frame.refl
  exact Frame.refl

theorem State.putHist_frame (s : State) (a : Nat) (h : Hist) : Frame [.ms, .hg, .ld, .irq, .pcie, .im, .fab, .ctrs, .out]
    s (s.putHist a h) := by
  unfold State.putHist
  refine Frame.comp ?_ (State.wr_frame _ _ _) rfl
  exact Frame.refl

theorem State.setRecipe_frame (s : State) (f : Fold) : Frame [.hg, .mc, .ctrs] s (s.setRecipe f) := by
  unfold State.setRecipe
  dsimp only
  refine Frame.upd ?_
  refine Frame.comp ?_ (State.bump_frame _ _ _) rfl
  refine Frame.comp ?_ (State.addCond_frame _ _ _ _) rfl
  exact Frame.refl

theorem State.unsetRecipe_frame (s : State) (x : RecipeRaise) : Frame [.hg, .ctrs] s (s.unsetRecipe x) := by
  unfold State.unsetRecipe
  refine Frame.comp ?_ (State.bump_frame _ _ _) rfl
  refine Frame.comp ?_ (State.updCmd_frame _ _ _) rfl
  exact Frame.refl

theorem State.foldOne_frame {s t : State} {f : Fold} {step : Nat} (h : s.foldOne f step = some t) : Frame [.ms, .hg, .ld,
    .irq, .pcie, .im, .mc, .fab, .ctrs, .out] s t := by
  unfold State.foldOne at h
  dsimp only at h
  split at h
  · cases h
  · split at h
    · cases h; exact State.noteReads_frame _ _ |>.mono rfl
    · cases h
      split
      split
      refine Frame.comp ?_ (State.putHist_frame _ _ _) rfl
      refine Frame.comp ?_ (State.noteReads_frame _ _) rfl
      exact Frame.refl
      split
      refine Frame.comp ?_ (State.arrive_frame _ _) rfl
      refine Frame.comp ?_ (State.setRecipe_frame _ _) rfl
      refine Frame.comp ?_ (State.putHist_frame _ _ _) rfl
      refine Frame.comp ?_ (State.noteReads_frame _ _) rfl
      exact Frame.refl
      split
      refine Frame.comp ?_ (State.setRecipe_frame _ _) rfl
      refine Frame.comp ?_ (State.unsetRecipe_frame _ _) rfl
      refine Frame.comp ?_ (State.putHist_frame _ _ _) rfl
      refine Frame.comp ?_ (State.noteReads_frame _ _) rfl
      exact Frame.refl
      refine Frame.comp ?_ (State.putHist_frame _ _ _) rfl
      refine Frame.comp ?_ (State.noteReads_frame _ _) rfl
      exact Frame.refl
      split
      refine Frame.comp ?_ (State.putHist_frame _ _ _) rfl
      refine Frame.comp ?_ (State.noteReads_frame _ _) rfl
      exact Frame.refl
      split
      refine Frame.comp ?_ (State.arrive_frame _ _) rfl
      refine Frame.comp ?_ (State.setRecipe_frame _ _) rfl
      refine Frame.comp ?_ (State.putHist_frame _ _ _) rfl
      refine Frame.comp ?_ (State.noteReads_frame _ _) rfl
      exact Frame.refl
      split
      refine Frame.comp ?_ (State.setRecipe_frame _ _) rfl
      refine Frame.comp ?_ (State.unsetRecipe_frame _ _) rfl
      refine Frame.comp ?_ (State.putHist_frame _ _ _) rfl
      refine Frame.comp ?_ (State.noteReads_frame _ _) rfl
      exact Frame.refl
      refine Frame.comp ?_ (State.putHist_frame _ _ _) rfl
      refine Frame.comp ?_ (State.noteReads_frame _ _) rfl
      exact Frame.refl

theorem State.foldGo_frame (s : State) (step : Nat) (l : List Fold) : Frame [.ms, .hg, .ld, .irq, .pcie, .im, .mc, .fab,
    .ctrs, .out] s (s.foldGo step l).1 := by
  induction l generalizing s with
  | nil => exact Frame.refl
  | cons f t ih =>
    unfold State.foldGo
    split
    · rename_i s1 h
      exact Frame.comp (State.foldOne_frame h |>.mono rfl) (ih s1) rfl
    · exact State.noteReads_frame _ _ |>.mono rfl

theorem State.foldAll_frame (s : State) (q step : Nat) : Frame [.ms, .hg, .ld, .irq, .pcie, .im, .mc, .fab, .ctrs, .out] s
    (s.foldAll q step).1 := by
  unfold State.foldAll
  refine Frame.comp ?_ (State.foldGo_frame _ _ _) rfl
  refine Frame.upd ?_
  exact Frame.refl

theorem State.noteConv_frame (s : State) (q : Nat) (t0 : Td) (die : Nat → Nat) (v : Conv) : Frame [.hg, .ctrs, .free] s
    (s.noteConv q t0 die v) := by
  unfold State.noteConv
  dsimp only
  refine Frame.comp ?_ (State.addCond_frame _ _ _ _) rfl
  refine Frame.comp ?_ (State.evt_frame _ _ _ _) rfl
  refine Frame.comp ?_ (State.evt_frame _ _ _ _) rfl
  refine Frame.comp ?_ (State.evt_frame _ _ _ _) rfl
  refine Frame.comp ?_ (State.evt_frame _ _ _ _) rfl
  refine Frame.comp ?_ (State.evt_frame _ _ _ _) rfl
  refine Frame.comp ?_ (State.freeStep_frame _) rfl
  refine Frame.comp ?_ (State.countOn_frame _ _ _ _) rfl
  refine Frame.comp ?_ (State.countOn_frame _ _ _ _) rfl
  refine Frame.comp ?_ (State.countOn_frame _ _ _ _) rfl
  refine Frame.comp ?_ (State.countOn_frame _ _ _ _) rfl
  refine Frame.comp ?_ (State.countOn_frame _ _ _ _) rfl
  exact Frame.refl

theorem State.openHist_frame {s t : State} {n a : Nat} (h : s.openHist n a = some t) : Frame [.ms, .hg, .ld, .irq, .pcie,
    .im, .fab, .ctrs, .out] s t := by
  unfold State.openHist at h
  dsimp only at h
  split at h
  · cases h
  · split at h
    · cases h; exact Frame.refl
    · cases h; exact State.putHist_frame s a _

theorem State.openOut_frame {s t : State} {n : Nat} {d : Td} (h : s.openOut n d = some t) : Frame [.ms, .hg, .ld, .irq,
    .pcie, .im, .fab, .ctrs, .out] s t := by
  unfold State.openOut at h
  split at h
  · cases h
  · split at h
    · cases h; exact Frame.refl
    · exact State.openHist_frame h

theorem State.writeAll_frame (s : State) (q : Option Nat) (l : List (Nat × List Byte)) : Frame [.ms, .hg, .ld, .irq,
    .pcie, .im, .fab, .ctrs, .free, .out] s (s.writeAll q l) := by
  induction l generalizing s with
  | nil => exact Frame.refl
  | cons x xs ih =>
    obtain ⟨a, d⟩ := x
    unfold State.writeAll
    refine Frame.comp ?_ (ih _) rfl
    refine Frame.elim ?_ (fun _ => ?_)
    refine Frame.comp ?_ (State.traffic_frame _ _ _ _ _) rfl
    refine Frame.comp ?_ (State.wr_frame _ _ _) rfl
    exact Frame.refl
    refine Frame.comp ?_ (State.noteWrite_frame _ _ _ _) rfl
    refine Frame.comp ?_ (State.traffic_frame _ _ _ _ _) rfl
    refine Frame.comp ?_ (State.wr_frame _ _ _) rfl
    exact Frame.refl

theorem State.putTensor_frame (s : State) (c : Cmd) (q : Nat) (t0 : Td) (r : TopRange) (vals pre : List Val) (die : Nat → Nat)
    (engines : List (Nat × Nat)) : Frame [.ms, .hg, .ld, .irq, .pcie, .im, .mc, .fab, .ctrs, .free, .out] s (s.putTensor c
        q t0 r vals pre die engines) := by
  unfold State.putTensor
  extract_lets v s1 mc
  have h1 : Frame [.ms, .hg, .ld, .irq, .pcie, .im, .mc, .fab, .ctrs, .free, .out] s s1 := Frame.comp (Frame.comp
      (Frame.comp (State.writeAll_frame _ _ _ |>.mono rfl) (State.noteConv_frame _ _ _ _ _) rfl)
    (State.freeStep_frame _) rfl) (State.addVnChecks_frame _ _ _) rfl
  clear_value s1
  split
  · exact h1
  · exact Frame.upd h1

theorem State.readOperands_frame (s : State) (q : Nat) (l0 : List (Nat × Nat)) : Frame [.ms, .hg, .ld, .irq, .pcie, .im,
    .fab, .ctrs, .free, .out] s (s.readOperands q l0) := by
  unfold State.readOperands
  refine Frame.foldl (fun _ _ => ?_) _ ?_
  refine Frame.comp ?_ (State.traffic_frame _ _ _ _ _) rfl
  refine Frame.comp ?_ (State.noteReads_frame _ _) rfl
  exact Frame.refl
  exact Frame.refl

end Sys2Proof.Machine
end

