-- ==== Sys2Proof/Laws/FrameCompute.lean ====
section
/-!
SUPPORT. The frame of each function of the compute operations: which components of the state it may change, the queue of waiting
commands apart, and that it keeps the stored form of memory and registers. A lemma `execX_frame` says besides that the row
`X` answers a next state, whatever the state and the operands.
-/
namespace Sys2Proof.Machine

open Sys2Proof

set_option Elab.async false

theorem State.setTile_frame (s : State) (t0 : Tile) : Frame [.mc] s (s.setTile t0) := by
  unfold State.setTile
  refine Frame.upd ?_
  exact Frame.refl

theorem State.abandonNext_frame (s : State) (t0 : Tile) : Frame [.hg, .mc, .ctrs] s (s.abandonNext t0) := by
  unfold State.abandonNext
  split
  split
  exact Frame.refl
  refine Frame.comp ?_ (State.evt_frame _ _ _ _) rfl
  refine Frame.comp ?_ (State.bump_frame _ _ _) rfl
  refine Frame.comp ?_ (State.setTile_frame _ _) rfl
  exact Frame.refl
  exact Frame.refl

theorem State.countIssue_frame (s : State) (q die n : Nat) : Frame [.hg, .ctrs] s (s.countIssue q die n) := by
  unfold State.countIssue
  refine Frame.comp ?_ (State.evt_frame _ _ _ _) rfl
  refine Frame.comp ?_ (State.bump_frame _ _ _) rfl
  exact Frame.refl

theorem State.endBlock_frame (s : State) (w : Work) (t0 : Tile) : Frame [.hg, .mc, .ctrs] s (s.endBlock w t0) := by
  unfold State.endBlock
  dsimp only
  split
  refine Frame.upd ?_
  exact Frame.refl
  refine Frame.comp ?_ (State.evt_frame _ _ _ _) rfl
  refine Frame.comp ?_ (State.evt_frame _ _ _ _) rfl
  refine Frame.comp ?_ (State.evt_frame _ _ _ _) rfl
  refine Frame.comp ?_ (State.bump_frame _ _ _) rfl
  refine Frame.comp ?_ (State.bump_frame _ _ _) rfl
  refine Frame.comp ?_ (State.bump_frame _ _ _) rfl
  refine Frame.upd ?_
  exact Frame.refl

theorem State.putAttn_frame (s : State) (c : Cmd) (w : Work) (o : AttnOut) : Frame [.ms, .hg, .ld, .irq, .pcie, .im, .mc,
    .fab, .ctrs, .free, .out] s (s.putAttn c w o) := by
  unfold State.putAttn
  dsimp only
  refine Frame.comp ?_ (State.putTensor_frame _ _ _ _ _ _ _ _ _) rfl
  exact Frame.refl

theorem State.finishWork_frame (s : State) (w : Work) : Frame [.ms, .hg, .ld, .irq, .pcie, .im, .mc, .fab, .ctrs, .free,
    .out] s (s.finishWork w) := by
  unfold State.finishWork
  split
  exact Frame.refl
  split
  refine Frame.comp ?_ (State.deliver_frame _ _) rfl
  refine Frame.comp ?_ (State.writeAll_frame _ _ _) rfl
  refine Frame.foldl (fun _ _ => ?_) _ ?_
  refine Frame.comp ?_ (State.putAttn_frame _ _ _ _) rfl
  exact Frame.refl
  exact Frame.refl
  dsimp only
  refine Frame.comp ?_ (State.deliver_frame _ _) rfl
  refine Frame.comp ?_ (State.putTensor_frame _ _ _ _ _ _ _ _ _) rfl
  exact Frame.refl

theorem State.deliverTile_frame (s : State) (t0 : Tile) : Frame [.ms, .hg, .ld, .irq, .pcie, .im, .mc, .fab, .ctrs, .free,
    .out] s (s.deliverTile t0) := by
  unfold State.deliverTile
  dsimp only
  split
  split
  split
  refine Frame.comp ?_ (State.finishWork_frame _ _) rfl
  refine Frame.comp ?_ (State.endBlock_frame _ _ _) rfl
  refine Frame.upd ?_
  refine Frame.comp ?_ (State.updCmd_frame _ _ _) rfl
  refine Frame.comp ?_ (State.evt_frame _ _ _ _) rfl
  refine Frame.comp ?_ (State.bump_frame _ _ _) rfl
  refine Frame.comp ?_ (State.setTile_frame _ _) rfl
  exact Frame.refl
  refine Frame.comp ?_ (State.endBlock_frame _ _ _) rfl
  refine Frame.upd ?_
  refine Frame.comp ?_ (State.updCmd_frame _ _ _) rfl
  refine Frame.comp ?_ (State.evt_frame _ _ _ _) rfl
  refine Frame.comp ?_ (State.bump_frame _ _ _) rfl
  refine Frame.comp ?_ (State.setTile_frame _ _) rfl
  exact Frame.refl
  split
  refine Frame.comp ?_ (State.finishWork_frame _ _) rfl
  refine Frame.upd ?_
  refine Frame.comp ?_ (State.updCmd_frame _ _ _) rfl
  refine Frame.comp ?_ (State.evt_frame _ _ _ _) rfl
  refine Frame.comp ?_ (State.bump_frame _ _ _) rfl
  refine Frame.comp ?_ (State.setTile_frame _ _) rfl
  exact Frame.refl
  refine Frame.upd ?_
  refine Frame.comp ?_ (State.updCmd_frame _ _ _) rfl
  refine Frame.comp ?_ (State.evt_frame _ _ _ _) rfl
  refine Frame.comp ?_ (State.bump_frame _ _ _) rfl
  refine Frame.comp ?_ (State.setTile_frame _ _) rfl
  exact Frame.refl
  refine Frame.upd ?_
  refine Frame.comp ?_ (State.updCmd_frame _ _ _) rfl
  refine Frame.comp ?_ (State.evt_frame _ _ _ _) rfl
  refine Frame.comp ?_ (State.bump_frame _ _ _) rfl
  refine Frame.comp ?_ (State.setTile_frame _ _) rfl
  exact Frame.refl

theorem State.putStage_frame (s : State) (k stage credit : Nat) (ramp : Option (Bool × Nat)) : Frame [.mc] s (s.putStage k
    stage credit ramp) := by
  unfold State.putStage
  refine Frame.upd ?_
  exact Frame.refl

theorem State.workArrives_frame (s : State) (k : Nat) : Frame [.mc] s (s.workArrives k) := by
  unfold State.workArrives
  split
  refine Frame.comp ?_ (State.putStage_frame _ _ _ _ _) rfl
  exact Frame.refl
  exact Frame.refl

theorem State.gangAllocate_frame (s : State) (q die cluster r c : Nat) : Frame [.mc] s (s.gangAllocate q die cluster r c) := by
  unfold State.gangAllocate
  split
  exact Frame.refl
  dsimp only
  split
  exact Frame.refl
  refine Frame.comp ?_ (State.workArrives_frame _ _) rfl
  refine Frame.upd ?_
  exact Frame.refl

theorem State.logPass_frame (s : State) (t0 : Tile) (e : PassEnd) : Frame [.im] s (s.logPass t0 e) := by
  unfold State.logPass
  dsimp only
  refine Frame.comp ?_ (State.logFor_frame _ _ _ _ _ _) rfl
  exact Frame.refl

theorem State.moveAnchor_frame (s : State) (t0 : Tile) (a : Int) : Frame [.hg, .mc, .ctrs] s (s.moveAnchor t0 a) := by
  unfold State.moveAnchor
  split
  refine Frame.comp ?_ (State.evt_frame _ _ _ _) rfl
  refine Frame.comp ?_ (State.bump_frame _ _ _) rfl
  refine Frame.comp ?_ (State.setTile_frame _ _) rfl
  exact Frame.refl
  refine Frame.comp ?_ (State.setTile_frame _ _) rfl
  exact Frame.refl

theorem State.passEnd_frame (s : State) (q n issued : Nat) : Frame [.ms, .hg, .ld, .irq, .pcie, .im, .mc, .fab, .ctrs,
    .free, .out] s (s.passEnd q n issued) := by
  unfold State.passEnd
  split
  exact Frame.refl
  split
  exact Frame.refl
  dsimp only
  split
  refine Frame.comp ?_ (State.deliverTile_frame _ _) rfl
  refine Frame.comp ?_ (State.logPass_frame _ _ _) rfl
  refine Frame.comp ?_ (State.countIssue_frame _ _ _ _) rfl
  exact Frame.refl
  refine Frame.comp ?_ (State.moveAnchor_frame _ _ _) rfl
  split
  refine Frame.comp ?_ (State.abandonNext_frame _ _) rfl
  refine Frame.comp ?_ (State.logPass_frame _ _ _) rfl
  refine Frame.comp ?_ (State.countIssue_frame _ _ _ _) rfl
  exact Frame.refl
  refine Frame.comp ?_ (State.logPass_frame _ _ _) rfl
  refine Frame.comp ?_ (State.countIssue_frame _ _ _ _) rfl
  exact Frame.refl
  split
  refine Frame.comp ?_ (State.moveAnchor_frame _ _ _) rfl
  refine Frame.comp ?_ (State.abandonNext_frame _ _) rfl
  refine Frame.comp ?_ (State.logPass_frame _ _ _) rfl
  refine Frame.comp ?_ (State.countIssue_frame _ _ _ _) rfl
  exact Frame.refl
  refine Frame.comp ?_ (State.setTile_frame _ _) rfl
  refine Frame.comp ?_ (State.abandonNext_frame _ _) rfl
  refine Frame.comp ?_ (State.logPass_frame _ _ _) rfl
  refine Frame.comp ?_ (State.countIssue_frame _ _ _ _) rfl
  exact Frame.refl

theorem State.withOperands_frame {l : List Comp} {s t : State} (q : Nat) (structs : List (Nat × Nat)) (good : State → Bool)
    (ops outs : State → List (Nat × Nat)) (k : State → State)
    (h : Frame l s t) (hl : within [.ms, .hg, .ham, .ld, .irq, .pcie, .im, .xe, .fab, .ctrs, .free, .out] l = true)
    (hk : ∀ x, Frame l x (k x)) : Frame l s (t.withOperands q structs good ops outs k) := by
  refine Frame.comp h ?_ (within_refl l)
  unfold State.withOperands
  split
  exact Frame.refl
  split
  refine Frame.comp ?_ (State.failMem_frame _ _ _) (within_trans rfl hl)
  refine Frame.comp ?_ (State.noteReads_frame _ _) (within_trans rfl hl)
  exact Frame.refl
  split
  refine Frame.comp ?_ (State.badStruct_frame _ _) (within_trans rfl hl)
  exact Frame.refl
  split
  exact Frame.refl
  split
  refine Frame.comp ?_ (State.failMem_frame _ _ _) (within_trans rfl hl)
  refine Frame.comp ?_ (State.noteReads_frame _ _) (within_trans rfl hl)
  exact Frame.refl
  split
  refine Frame.comp ?_ (State.failMem_frame _ _ _) (within_trans rfl hl)
  exact Frame.refl
  refine Frame.comp ?_ (hk _) (within_refl _)
  refine Frame.comp ?_ (State.readOperands_frame _ _ _) (within_trans rfl hl)
  exact Frame.refl

theorem State.setTiles_frame (s : State) (w : Work) (l0 : List Tile) : Frame [.mc] s (s.setTiles w l0) := by
  unfold State.setTiles
  refine Frame.upd ?_
  exact Frame.refl

theorem State.runMmul_frame (s : State) (q : Nat) : Frame [.ms, .hg, .ham, .ld, .irq, .pcie, .im, .mc, .xe, .fab, .ctrs,
    .free, .out] s (s.runMmul q) := by
  unfold State.runMmul
  split
  exact Frame.refl
  dsimp only
  refine State.withOperands_frame _ _ _ _ _ _ ?_ rfl (fun _ => ?_)
  exact Frame.refl
  refine Frame.comp ?_ (State.updCmd_frame _ _ _) rfl
  refine Frame.comp ?_ (State.addCond_frame _ _ _ _) rfl
  refine Frame.comp ?_ (State.setTiles_frame _ _ _) rfl
  refine Frame.getD ?_ (fun _ h => State.openOut_frame h) rfl
  exact Frame.refl

theorem State.slowEnd_frame (s : State) (q n issued : Nat) : Frame [.ms, .hg, .ld, .irq, .pcie, .im, .mc, .fab, .ctrs,
    .free, .out] s (s.slowEnd q n issued) := by
  unfold State.slowEnd
  split
  exact Frame.refl
  split
  exact Frame.refl
  refine Frame.comp ?_ (State.deliverTile_frame _ _) rfl
  refine Frame.comp ?_ (State.evt_frame _ _ _ _) rfl
  refine Frame.comp ?_ (State.bump_frame _ _ _) rfl
  refine Frame.comp ?_ (State.countIssue_frame _ _ _ _) rfl
  exact Frame.refl

theorem execGangAllocate_frame (q : Nat) (x : ClusterId) (corner : Corner) (s : State) : ∃ t, execGangAllocate q x corner
    s = .next t ∧ Frame [.mc] s t := by
  refine ⟨_, rfl, ?_⟩
  refine Frame.comp ?_ (State.gangAllocate_frame _ _ _ _ _ _) rfl
  exact Frame.refl

theorem execMmul_frame (q : Nat) (s : State) : ∃ t, execMmul q s = .next t ∧ Frame [.ms, .hg, .ham, .ld, .irq, .pcie, .im,
    .mc, .xe, .fab, .ctrs, .free, .out] s t := by
  refine ⟨_, rfl, ?_⟩
  refine Frame.comp ?_ (State.runMmul_frame _ _) rfl
  exact Frame.refl

theorem execSlowPathEnd_frame (q n issued : Nat) (s : State) : ∃ t, execSlowPathEnd q n issued s = .next t ∧ Frame [.ms,
    .hg, .ld, .irq, .pcie, .im, .mc, .fab, .ctrs, .free, .out] s t := by
  refine ⟨_, rfl, ?_⟩
  refine Frame.comp ?_ (State.slowEnd_frame _ _ _ _) rfl
  exact Frame.refl

theorem execTilePassEnd_frame (q n issued : Nat) (s : State) : ∃ t, execTilePassEnd q n issued s = .next t ∧ Frame [.ms,
    .hg, .ld, .irq, .pcie, .im, .mc, .fab, .ctrs, .free, .out] s t := by
  refine ⟨_, rfl, ?_⟩
  refine Frame.comp ?_ (State.passEnd_frame _ _ _ _) rfl
  exact Frame.refl

theorem State.closeAlone_frame (s : State) (n : Nat) (l0 : List Nat) : Frame [.ms, .hg, .ld, .irq, .pcie, .im, .fab,
    .ctrs, .out] s (s.closeAlone n l0) := by
  unfold State.closeAlone
  refine Frame.foldl (fun _ _ => ?_) _ ?_
  dsimp only
  split
  refine Frame.comp ?_ (State.putHist_frame _ _ _) rfl
  exact Frame.refl
  exact Frame.refl
  exact Frame.refl

theorem State.closeWith_frame {l : List Comp} {s t : State} (c : Cmd) (q : Nat) (k : State → List Nat → State)
    (h : Frame l s t) (hl : within [.ms, .hg, .ham, .ld, .irq, .pcie, .im, .xe, .fab, .ctrs, .free, .out] l = true)
    (hk : ∀ x y, Frame l x (k x y)) : Frame l s (t.closeWith c q k) := by
  refine Frame.comp h ?_ (within_refl l)
  unfold State.closeWith
  dsimp only
  split
  refine Frame.comp ?_ (State.failCmd_frame _ _ _ _) (within_trans rfl hl)
  exact Frame.refl
  refine State.withOperands_frame _ _ _ _ _ _ ?_ (within_trans rfl hl) (fun _ => ?_)
  exact Frame.refl
  refine Frame.comp ?_ (hk _ _) (within_refl _)
  exact Frame.refl

theorem State.noteSlow_frame (s : State) (q : Nat) (rows : List Nat) : Frame [.hg, .ctrs, .free] s (s.noteSlow q rows) := by
  unfold State.noteSlow
  refine Frame.comp ?_ (State.evt_frame _ _ _ _) rfl
  refine Frame.comp ?_ (State.freeStep_frame _) rfl
  refine Frame.comp ?_ (State.countOn_frame _ _ _ _) rfl
  exact Frame.refl

theorem State.rowCommand_frame (s : State) (c : Cmd) (q : Nat) (ins : List Nat) (out : Nat) (shape : State → Bool) (f :
    State → List (List F32)) (sums : State → List (List (List Val × Nat))) : Frame [.ms, .hg, .ham, .ld, .irq, .pcie, .im,
    .mc, .xe, .fab, .ctrs, .free, .out] s (s.rowCommand c q ins out shape f sums) := by
  unfold State.rowCommand
  dsimp only
  refine State.withOperands_frame _ _ _ _ _ _ ?_ rfl (fun _ => ?_)
  exact Frame.refl
  refine Frame.comp ?_ (State.deliver_frame _ _) rfl
  refine Frame.comp ?_ (State.putTensor_frame _ _ _ _ _ _ _ _ _) rfl
  refine Frame.comp ?_ (State.addCond_frame _ _ _ _) rfl
  refine Frame.comp ?_ (State.noteSlow_frame _ _ _) rfl
  refine Frame.getD ?_ (fun _ h => State.openOut_frame h) rfl
  exact Frame.refl

theorem State.runNorm_frame (s : State) (q : Nat) : Frame [.ms, .hg, .ham, .ld, .irq, .pcie, .im, .mc, .xe, .fab, .ctrs,
    .free, .out] s (s.runNorm q) := by
  unfold State.runNorm
  split
  exact Frame.refl
  dsimp only
  refine Frame.comp ?_ (State.rowCommand_frame _ _ _ _ _ _ _ _) rfl
  exact Frame.refl

theorem State.runSmax_frame (s : State) (q : Nat) : Frame [.ms, .hg, .ham, .ld, .irq, .pcie, .im, .mc, .xe, .fab, .ctrs,
    .free, .out] s (s.runSmax q) := by
  unfold State.runSmax
  split
  exact Frame.refl
  dsimp only
  refine Frame.comp ?_ (State.rowCommand_frame _ _ _ _ _ _ _ _) rfl
  exact Frame.refl

theorem State.runVect_frame (s : State) (q : Nat) : Frame [.ms, .hg, .ham, .ld, .irq, .pcie, .im, .mc, .xe, .fab, .ctrs,
    .free, .out] s (s.runVect q) := by
  unfold State.runVect
  split
  exact Frame.refl
  dsimp only
  refine Frame.comp ?_ (State.rowCommand_frame _ _ _ _ _ _ _ _) rfl
  exact Frame.refl

theorem State.scalApply_frame (s : State) (q : Nat) : Frame [.ms, .hg, .ham, .ld, .irq, .pcie, .im, .mc, .xe, .fab, .ctrs,
    .free, .out] s (s.scalApply q) := by
  unfold State.scalApply
  split
  exact Frame.refl
  dsimp only
  refine State.withOperands_frame _ _ _ _ _ _ ?_ rfl (fun _ => ?_)
  exact Frame.refl
  refine Frame.comp ?_ (State.deliver_frame _ _) rfl
  split
  refine Frame.comp ?_ (State.putTensor_frame _ _ _ _ _ _ _ _ _) rfl
  refine Frame.comp ?_ (State.addCond_frame _ _ _ _) rfl
  refine Frame.getD ?_ (fun _ h => State.openOut_frame h) rfl
  exact Frame.refl
  refine Frame.comp ?_ (State.writeAll_frame _ _ _) rfl
  refine Frame.comp ?_ (State.putTensor_frame _ _ _ _ _ _ _ _ _) rfl
  refine Frame.comp ?_ (State.addCond_frame _ _ _ _) rfl
  refine Frame.getD ?_ (fun _ h => State.openOut_frame h) rfl
  exact Frame.refl

theorem State.scalClrflag_frame (s : State) (q : Nat) : Frame [.ms, .hg, .ham, .ld, .irq, .pcie, .im, .xe, .fab, .ctrs,
    .free, .out] s (s.scalClrflag q) := by
  unfold State.scalClrflag
  split
  exact Frame.refl
  split
  refine Frame.comp ?_ (State.failCmd_frame _ _ _ _) rfl
  exact Frame.refl
  refine State.withOperands_frame _ _ _ _ _ _ ?_ rfl (fun _ => ?_)
  exact Frame.refl
  refine Frame.comp ?_ (State.deliver_frame _ _) rfl
  refine Frame.comp ?_ (State.putHist_frame _ _ _) rfl
  exact Frame.refl

theorem State.scalReset_frame (s : State) (q : Nat) : Frame [.ms, .hg, .ham, .ld, .irq, .pcie, .im, .xe, .fab, .ctrs,
    .free, .out] s (s.scalReset q) := by
  unfold State.scalReset
  split
  exact Frame.refl
  split
  refine Frame.comp ?_ (State.failCmd_frame _ _ _ _) rfl
  exact Frame.refl
  split
  refine Frame.comp ?_ (State.failCmd_frame _ _ _ _) rfl
  exact Frame.refl
  split
  refine Frame.comp ?_ (State.failCmd_frame _ _ _ _) rfl
  exact Frame.refl
  split
  refine Frame.comp ?_ (State.failCmd_frame _ _ _ _) rfl
  exact Frame.refl
  split
  exact Frame.refl
  dsimp only
  refine Frame.comp ?_ (State.deliver_frame _ _) rfl
  refine Frame.comp ?_ (State.writeAll_frame _ _ _) rfl
  exact Frame.refl

theorem execNorm_frame (q : Nat) (s : State) : ∃ t, execNorm q s = .next t ∧ Frame [.ms, .hg, .ham, .ld, .irq, .pcie, .im,
    .mc, .xe, .fab, .ctrs, .free, .out] s t := by
  refine ⟨_, rfl, ?_⟩
  refine Frame.comp ?_ (State.runNorm_frame _ _) rfl
  exact Frame.refl

theorem execScalApply_frame (q : Nat) (s : State) : ∃ t, execScalApply q s = .next t ∧ Frame [.ms, .hg, .ham, .ld, .irq,
    .pcie, .im, .mc, .xe, .fab, .ctrs, .free, .out] s t := by
  refine ⟨_, rfl, ?_⟩
  refine Frame.comp ?_ (State.scalApply_frame _ _) rfl
  exact Frame.refl

theorem execScalClrflag_frame (q : Nat) (s : State) : ∃ t, execScalClrflag q s = .next t ∧ Frame [.ms, .hg, .ham, .ld,
    .irq, .pcie, .im, .xe, .fab, .ctrs, .free, .out] s t := by
  refine ⟨_, rfl, ?_⟩
  refine Frame.comp ?_ (State.scalClrflag_frame _ _) rfl
  exact Frame.refl

theorem execScalReset_frame (q : Nat) (s : State) : ∃ t, execScalReset q s = .next t ∧ Frame [.ms, .hg, .ham, .ld, .irq,
    .pcie, .im, .xe, .fab, .ctrs, .free, .out] s t := by
  refine ⟨_, rfl, ?_⟩
  refine Frame.comp ?_ (State.scalReset_frame _ _) rfl
  exact Frame.refl

theorem execSmax_frame (q : Nat) (s : State) : ∃ t, execSmax q s = .next t ∧ Frame [.ms, .hg, .ham, .ld, .irq, .pcie, .im,
    .mc, .xe, .fab, .ctrs, .free, .out] s t := by
  refine ⟨_, rfl, ?_⟩
  refine Frame.comp ?_ (State.runSmax_frame _ _) rfl
  exact Frame.refl

theorem execVect_frame (q : Nat) (s : State) : ∃ t, execVect q s = .next t ∧ Frame [.ms, .hg, .ham, .ld, .irq, .pcie, .im,
    .mc, .xe, .fab, .ctrs, .free, .out] s t := by
  refine ⟨_, rfl, ?_⟩
  refine Frame.comp ?_ (State.runVect_frame _ _) rfl
  exact Frame.refl

theorem State.attnWith_frame {l : List Comp} {s t : State} (c : Cmd) (q : Nat) (bwd : Bool) (ins outs : Attn → List Td)
    (k : State → Attn → State)
    (h : Frame l s t) (hl : within [.ms, .hg, .ham, .ld, .irq, .pcie, .im, .xe, .fab, .ctrs, .free, .out] l = true)
    (hk : ∀ x y, Frame l x (k x y)) : Frame l s (t.attnWith c q bwd ins outs k) := by
  refine Frame.comp h ?_ (within_refl l)
  unfold State.attnWith
  dsimp only
  refine State.withOperands_frame _ _ _ _ _ _ ?_ (within_trans rfl hl) (fun _ => ?_)
  exact Frame.refl
  refine State.withOperands_frame _ _ _ _ _ _ ?_ (within_trans rfl hl) (fun _ => ?_)
  exact Frame.refl
  refine Frame.comp ?_ (hk _ _) (within_refl _)
  exact Frame.refl

theorem State.startAttn_frame (s : State) (c : Cmd) (q : Nat) (x : Attn) (outs : List Td) (tiles : List Tile) (e :
    AttnEnd) (nf : Bool) : Frame [.ms, .hg, .ld, .irq, .pcie, .im, .mc, .fab, .ctrs, .out] s (s.startAttn c q x outs tiles e
    nf) := by
  unfold State.startAttn
  dsimp only
  refine Frame.comp ?_ (State.updCmd_frame _ _ _) rfl
  refine Frame.comp ?_ (State.addCond_frame _ _ _ _) rfl
  refine Frame.comp ?_ (State.setTiles_frame _ _ _) rfl
  refine Frame.foldl (fun _ _ => ?_) _ ?_
  refine Frame.getD ?_ (fun _ h => State.openOut_frame h) rfl
  exact Frame.refl
  exact Frame.refl

theorem State.runAttn_frame (s : State) (q : Nat) : Frame [.ms, .hg, .ham, .ld, .irq, .pcie, .im, .mc, .xe, .fab, .ctrs,
    .free, .out] s (s.runAttn q) := by
  unfold State.runAttn
  split
  exact Frame.refl
  split
  exact Frame.refl
  refine State.attnWith_frame _ _ _ _ _ _ ?_ rfl (fun _ _ => ?_)
  exact Frame.refl
  dsimp only
  refine Frame.comp ?_ (State.startAttn_frame _ _ _ _ _ _ _ _) rfl
  refine Frame.comp ?_ (State.freeStep_frame _) rfl
  exact Frame.refl

theorem State.runAttnBwd_frame (s : State) (q : Nat) : Frame [.ms, .hg, .ham, .ld, .irq, .pcie, .im, .mc, .xe, .fab,
    .ctrs, .free, .out] s (s.runAttnBwd q) := by
  unfold State.runAttnBwd
  split
  exact Frame.refl
  split
  exact Frame.refl
  refine State.attnWith_frame _ _ _ _ _ _ ?_ rfl (fun _ _ => ?_)
  exact Frame.refl
  dsimp only
  refine Frame.comp ?_ (State.startAttn_frame _ _ _ _ _ _ _ _) rfl
  exact Frame.refl

theorem execAttn_frame (q : Nat) (s : State) : ∃ t, execAttn q s = .next t ∧ Frame [.ms, .hg, .ham, .ld, .irq, .pcie, .im,
    .mc, .xe, .fab, .ctrs, .free, .out] s t := by
  refine ⟨_, rfl, ?_⟩
  refine Frame.comp ?_ (State.runAttn_frame _ _) rfl
  exact Frame.refl

theorem execAttnBwd_frame (q : Nat) (s : State) : ∃ t, execAttnBwd q s = .next t ∧ Frame [.ms, .hg, .ham, .ld, .irq,
    .pcie, .im, .mc, .xe, .fab, .ctrs, .free, .out] s t := by
  refine ⟨_, rfl, ?_⟩
  refine Frame.comp ?_ (State.runAttnBwd_frame _ _) rfl
  exact Frame.refl

theorem State.setArr_frame (s : State) (k : Nat) (a : Arr) : Frame [.af] s (s.setArr k a) := by
  unfold State.setArr
  refine Frame.upd ?_
  exact Frame.refl

theorem State.setRead_frame (s : State) (x : Read) : Frame [.af] s (s.setRead x) := by
  unfold State.setRead
  refine Frame.upd ?_
  exact Frame.refl

theorem State.setResident_frame (s : State) (t0 : Resident) : Frame [.af] s (s.setResident t0) := by
  unfold State.setResident
  refine Frame.upd ?_
  exact Frame.refl

theorem State.finishMatvec_frame (s : State) (w : Matvec) (t0 : Resident) : Frame [.mc] s (s.finishMatvec w t0) := by
  unfold State.finishMatvec
  dsimp only
  split
  refine Frame.foldl (fun _ _ => ?_) _ ?_
  refine Frame.comp ?_ (State.workArrives_frame _ _) rfl
  exact Frame.refl
  refine Frame.comp ?_ (State.setTiles_frame _ _ _) rfl
  exact Frame.refl
  exact Frame.refl

theorem State.matvecDone_frame (s : State) (q : Nat) : Frame [.mc] s (s.matvecDone q) := by
  unfold State.matvecDone
  split
  exact Frame.refl
  split
  exact Frame.refl
  split
  refine Frame.comp ?_ (State.finishMatvec_frame _ _ _) rfl
  exact Frame.refl
  exact Frame.refl

theorem State.sendInputs_frame (s : State) (x : Mv) (step v i : Nat) (vals : List Val) : Frame [.hg, .fab, .ctrs, .free,
    .out] s (s.sendInputs x step v i vals) := by
  unfold State.sendInputs
  dsimp only
  refine Frame.foldl (fun _ _ => ?_) _ ?_
  refine Frame.comp ?_ (State.crossing_frame _ _ _ _) rfl
  refine Frame.comp ?_ (State.emit_frame _ _) rfl
  exact Frame.refl
  exact Frame.refl

theorem State.setupMatvec_frame (s : State) (q : Nat) (c : Cmd) (x : Mv) : Frame [.ms, .hg, .ld, .irq, .pcie, .im, .mc,
    .af, .fab, .ctrs, .free, .out] s (s.setupMatvec q c x) := by
  unfold State.setupMatvec
  dsimp only
  refine Frame.comp ?_ (State.matvecDone_frame _ _) rfl
  refine Frame.foldl (fun _ _ => ?_) _ ?_
  split
  split
  exact Frame.refl
  refine Frame.comp ?_ (State.sendInputs_frame _ _ _ _ _ _) rfl
  exact Frame.refl
  split
  exact Frame.refl
  refine Frame.comp ?_ (State.sendInputs_frame _ _ _ _ _ _) rfl
  exact Frame.refl
  refine Frame.comp ?_ (State.updCmd_frame _ _ _) rfl
  refine Frame.comp ?_ (State.setDetail_frame _ _ _) rfl
  refine Frame.comp ?_ (State.addCond_frame _ _ _ _) rfl
  refine Frame.comp ?_ (State.setTiles_frame _ _ _) rfl
  refine Frame.upd ?_
  refine Frame.getD ?_ (fun _ h => State.openOut_frame h) rfl
  exact Frame.refl

theorem State.runMatvec_frame (s : State) (q op : Nat) : Frame [.ms, .hg, .ham, .ld, .irq, .pcie, .im, .mc, .af, .xe,
    .fab, .ctrs, .free, .out] s (s.runMatvec q op) := by
  unfold State.runMatvec
  split
  exact Frame.refl
  split
  refine Frame.comp ?_ (State.failCmd_frame _ _ _ _) rfl
  exact Frame.refl
  dsimp only
  split
  refine Frame.comp ?_ (State.failCmd_frame _ _ _ _) rfl
  exact Frame.refl
  split
  refine Frame.comp ?_ (State.failCmd_frame _ _ _ _) rfl
  exact Frame.refl
  refine State.withOperands_frame _ _ _ _ _ _ ?_ rfl (fun _ => ?_)
  exact Frame.refl
  refine Frame.comp ?_ (State.setupMatvec_frame _ _ _ _) rfl
  exact Frame.refl

theorem execAmvm_frame (q : Nat) (s : State) : ∃ t, execAmvm q s = .next t ∧ Frame [.ms, .hg, .ham, .ld, .irq, .pcie, .im,
    .mc, .af, .xe, .fab, .ctrs, .free, .out] s t := by
  refine ⟨_, rfl, ?_⟩
  refine Frame.comp ?_ (State.runMatvec_frame _ _ _) rfl
  exact Frame.refl

theorem execAmvt_frame (q : Nat) (s : State) : ∃ t, execAmvt q s = .next t ∧ Frame [.ms, .hg, .ham, .ld, .irq, .pcie, .im,
    .mc, .af, .xe, .fab, .ctrs, .free, .out] s t := by
  refine ⟨_, rfl, ?_⟩
  refine Frame.comp ?_ (State.runMatvec_frame _ _ _) rfl
  exact Frame.refl

theorem State.addCheck_frame (s : State) (q : Nat) : Frame [.hg] s (s.addCheck q) := by
  unfold State.addCheck
  refine Frame.comp ?_ (State.updCmd_frame _ _ _) rfl
  exact Frame.refl

theorem State.logRead_frame (s : State) (t0 : Resident) (r : Read) (outcome : Nat) : Frame [.im] s (s.logRead t0 r
    outcome) := by
  unfold State.logRead
  split
  exact Frame.refl
  refine Frame.comp ?_ (State.logFor_frame _ _ _ _ _ _) rfl
  exact Frame.refl

theorem State.homeWork_frame (s : State) (r : Read) : Frame [.mc] s (s.homeWork r) := by
  unfold State.homeWork
  refine Frame.comp ?_ (State.workArrives_frame _ _) rfl
  exact Frame.refl

theorem State.readSplit_frame (s : State) (r : Read) : Frame [.hg, .mc, .af, .ctrs] s (s.readSplit r) := by
  unfold State.readSplit
  dsimp only
  split
  refine Frame.comp ?_ (State.homeWork_frame _ _) rfl
  refine Frame.comp ?_ (State.addCond_frame _ _ _ _) rfl
  refine Frame.comp ?_ (State.evt_frame _ _ _ _) rfl
  refine Frame.comp ?_ (State.bump_frame _ _ _) rfl
  refine Frame.comp ?_ (State.setRead_frame _ _) rfl
  exact Frame.refl
  split
  refine Frame.comp ?_ (State.evt_frame _ _ _ _) rfl
  refine Frame.comp ?_ (State.bump_frame _ _ _) rfl
  refine Frame.upd ?_
  refine Frame.comp ?_ (State.setRead_frame _ _) rfl
  exact Frame.refl
  refine Frame.comp ?_ (State.evt_frame _ _ _ _) rfl
  refine Frame.comp ?_ (State.bump_frame _ _ _) rfl
  refine Frame.upd ?_
  refine Frame.comp ?_ (State.setRead_frame _ _) rfl
  exact Frame.refl

theorem State.spanMsg_frame (s : State) (r : Read) (kind : Nat) (words : List Nat) : Frame [.fab, .out] s (s.spanMsg r
    kind words) := by
  unfold State.spanMsg
  split
  refine Frame.comp ?_ (State.emit_frame _ _) rfl
  exact Frame.refl
  exact Frame.refl

theorem State.sendSpanned_frame (s : State) (r : Read) : Frame [.fab, .out] s (s.sendSpanned r) := by
  unfold State.sendSpanned
  split
  dsimp only
  split
  refine Frame.comp ?_ (State.spanMsg_frame _ _ _ _) rfl
  exact Frame.refl
  exact Frame.refl
  exact Frame.refl

theorem State.readEnded_frame (s : State) (r : Read) : Frame [.mc, .fab, .out] s (s.readEnded r) := by
  unfold State.readEnded
  refine Frame.comp ?_ (State.matvecDone_frame _ _) rfl
  refine Frame.comp ?_ (State.sendSpanned_frame _ _) rfl
  exact Frame.refl

theorem State.readDeliver_frame (s : State) (r : Read) (sums : List Int) : Frame [.hg, .mc, .af, .fab, .ctrs, .free, .out]
    s (s.readDeliver r sums) := by
  unfold State.readDeliver
  dsimp only
  refine Frame.comp ?_ (State.readEnded_frame _ _) rfl
  split
  refine Frame.comp ?_ (State.setRead_frame _ _) rfl
  exact Frame.refl
  refine Frame.comp ?_ (State.crossing_frame _ _ _ _) rfl
  refine Frame.comp ?_ (State.setRead_frame _ _) rfl
  exact Frame.refl

theorem State.gatherGain_frame (s : State) (t0 : Resident) (r : Read) (meas : List Int) : Frame [.af] s (s.gatherGain t0 r
    meas) := by
  unfold State.gatherGain
  dsimp only
  split
  refine Frame.comp ?_ (State.setArr_frame _ _ _) rfl
  exact Frame.refl
  refine Frame.comp ?_ (State.setArr_frame _ _ _) rfl
  exact Frame.refl

theorem State.readExact_frame (s : State) (t0 : Resident) (r : Read) (known : List (Option Int)) (railed : Bool) : Frame
    [.hg, .im, .mc, .af, .fab, .ctrs, .free, .out] s (s.readExact t0 r known railed) := by
  unfold State.readExact
  dsimp only
  split
  refine Frame.comp ?_ (State.readSplit_frame _ _) rfl
  refine Frame.comp ?_ (State.logRead_frame _ _ _ _) rfl
  exact Frame.refl
  refine Frame.comp ?_ (State.readDeliver_frame _ _ _) rfl
  split
  refine Frame.comp ?_ (State.gatherGain_frame _ _ _ _) rfl
  refine Frame.comp ?_ (State.logRead_frame _ _ _ _) rfl
  exact Frame.refl
  refine Frame.comp ?_ (State.logRead_frame _ _ _ _) rfl
  exact Frame.refl

theorem State.conversionEnd_frame (s : State) (q i : Nat) (meas : List Int) : Frame [.hg, .im, .mc, .af, .fab, .ctrs,
    .free, .out] s (s.conversionEnd q i meas) := by
  unfold State.conversionEnd
  split
  split
  split
  exact Frame.refl
  dsimp only
  split
  refine Frame.comp ?_ (State.readExact_frame _ _ _ _ _) rfl
  refine Frame.comp ?_ (State.evt_frame _ _ _ _) rfl
  refine Frame.comp ?_ (State.bump_frame _ _ _) rfl
  refine Frame.comp ?_ (State.addCheck_frame _ _) rfl
  refine Frame.comp ?_ (State.setRead_frame _ _) rfl
  exact Frame.refl
  split
  refine Frame.comp ?_ (State.homeWork_frame _ _) rfl
  refine Frame.comp ?_ (State.evt_frame _ _ _ _) rfl
  refine Frame.comp ?_ (State.bump_frame _ _ _) rfl
  refine Frame.comp ?_ (State.setRead_frame _ _) rfl
  refine Frame.comp ?_ (State.evt_frame _ _ _ _) rfl
  refine Frame.comp ?_ (State.bump_frame _ _ _) rfl
  refine Frame.comp ?_ (State.addCheck_frame _ _) rfl
  refine Frame.comp ?_ (State.setRead_frame _ _) rfl
  exact Frame.refl
  refine Frame.comp ?_ (State.homeWork_frame _ _) rfl
  refine Frame.comp ?_ (State.evt_frame _ _ _ _) rfl
  refine Frame.comp ?_ (State.bump_frame _ _ _) rfl
  refine Frame.comp ?_ (State.setRead_frame _ _) rfl
  refine Frame.comp ?_ (State.evt_frame _ _ _ _) rfl
  refine Frame.comp ?_ (State.bump_frame _ _ _) rfl
  refine Frame.comp ?_ (State.addCheck_frame _ _) rfl
  refine Frame.comp ?_ (State.setRead_frame _ _) rfl
  exact Frame.refl
  split
  exact Frame.refl
  dsimp only
  split
  refine Frame.comp ?_ (State.readExact_frame _ _ _ _ _) rfl
  refine Frame.comp ?_ (State.evt_frame _ _ _ _) rfl
  refine Frame.comp ?_ (State.bump_frame _ _ _) rfl
  refine Frame.comp ?_ (State.addCheck_frame _ _) rfl
  refine Frame.comp ?_ (State.setRead_frame _ _) rfl
  exact Frame.refl
  split
  refine Frame.comp ?_ (State.homeWork_frame _ _) rfl
  refine Frame.comp ?_ (State.evt_frame _ _ _ _) rfl
  refine Frame.comp ?_ (State.bump_frame _ _ _) rfl
  refine Frame.comp ?_ (State.setRead_frame _ _) rfl
  refine Frame.comp ?_ (State.evt_frame _ _ _ _) rfl
  refine Frame.comp ?_ (State.bump_frame _ _ _) rfl
  refine Frame.comp ?_ (State.addCheck_frame _ _) rfl
  refine Frame.comp ?_ (State.setRead_frame _ _) rfl
  exact Frame.refl
  refine Frame.comp ?_ (State.homeWork_frame _ _) rfl
  refine Frame.comp ?_ (State.evt_frame _ _ _ _) rfl
  refine Frame.comp ?_ (State.bump_frame _ _ _) rfl
  refine Frame.comp ?_ (State.setRead_frame _ _) rfl
  refine Frame.comp ?_ (State.evt_frame _ _ _ _) rfl
  refine Frame.comp ?_ (State.bump_frame _ _ _) rfl
  refine Frame.comp ?_ (State.addCheck_frame _ _) rfl
  refine Frame.comp ?_ (State.setRead_frame _ _) rfl
  exact Frame.refl
  exact Frame.refl

theorem State.retractRead_frame (s : State) (r : Read) : Frame [.af, .fab, .out] s (s.retractRead r) := by
  unfold State.retractRead
  dsimp only
  refine Frame.upd ?_
  refine Frame.comp ?_ (State.spanMsg_frame _ _ _ _) rfl
  exact Frame.refl

theorem State.imageLost_frame (s : State) (r : Read) (f : Nat × Bool) : Frame [.ms, .hg, .ham, .ld, .irq, .pcie, .im, .af,
    .xe, .fab, .ctrs, .free, .out] s (s.imageLost r f) := by
  unfold State.imageLost
  dsimp only
  split
  refine Frame.comp ?_ (State.failMem_frame _ _ _) rfl
  refine Frame.comp ?_ (State.noteReads_frame _ _) rfl
  exact Frame.refl
  refine Frame.comp ?_ (State.retractRead_frame _ _) rfl
  refine Frame.comp ?_ (State.noteReads_frame _ _) rfl
  exact Frame.refl

theorem State.imageRead_frame (s : State) (t0 : Resident) (r : Read) : Frame [.hg, .ctrs, .free] s (s.imageRead t0 r) := by
  unfold State.imageRead
  refine Frame.foldl (fun _ _ => ?_) _ ?_
  refine Frame.comp ?_ (State.trafficOn_frame _ _ _ _ _ _) rfl
  exact Frame.refl
  exact Frame.refl

theorem State.digitalEnd_frame (s : State) (q i : Nat) : Frame [.ms, .hg, .ham, .ld, .irq, .pcie, .im, .mc, .af, .xe,
    .fab, .ctrs, .free, .out] s (s.digitalEnd q i) := by
  unfold State.digitalEnd
  split
  split
  exact Frame.refl
  split
  exact Frame.refl
  split
  refine Frame.comp ?_ (State.imageLost_frame _ _ _) rfl
  exact Frame.refl
  dsimp only
  refine Frame.comp ?_ (State.readDeliver_frame _ _ _) rfl
  refine Frame.comp ?_ (State.addCheck_frame _ _) rfl
  refine Frame.comp ?_ (State.setRead_frame _ _) rfl
  refine Frame.comp ?_ (State.imageRead_frame _ _ _) rfl
  exact Frame.refl
  exact Frame.refl

theorem State.failRead_frame (s : State) (r : Read) (t0 : Status) (d : Nat) : Frame [.hg, .ham, .ld, .irq, .pcie, .af,
    .xe, .fab, .out] s (s.failRead r t0 d) := by
  unfold State.failRead
  split
  refine Frame.comp ?_ (State.failCmd_frame _ _ _ _) rfl
  exact Frame.refl
  refine Frame.comp ?_ (State.retractRead_frame _ _) rfl
  exact Frame.refl

theorem State.noteStart_frame (s : State) (r : Read) (k : Nat) : Frame [.hg, .ctrs] s (s.noteStart r k) := by
  unfold State.noteStart
  dsimp only
  refine Frame.comp ?_ (State.evt_frame _ _ _ _) rfl
  refine Frame.comp ?_ (State.evt_frame _ _ _ _) rfl
  exact Frame.refl

theorem State.rampStep_frame (s : State) (die cluster cycles filler : Nat) : Frame [.hg, .mc, .ctrs] s (s.rampStep die
    cluster cycles filler) := by
  unfold State.rampStep
  dsimp only
  split
  split
  split
  split
  exact Frame.refl
  refine Frame.comp ?_ (State.evtU_frame _ _ _) rfl
  refine Frame.comp ?_ (State.bump_frame _ _ _) rfl
  refine Frame.comp ?_ (State.putStage_frame _ _ _ _ _) rfl
  exact Frame.refl
  split
  split
  exact Frame.refl
  refine Frame.comp ?_ (State.evtU_frame _ _ _) rfl
  refine Frame.comp ?_ (State.bump_frame _ _ _) rfl
  refine Frame.comp ?_ (State.putStage_frame _ _ _ _ _) rfl
  exact Frame.refl
  split
  exact Frame.refl
  refine Frame.comp ?_ (State.evtU_frame _ _ _) rfl
  refine Frame.comp ?_ (State.bump_frame _ _ _) rfl
  refine Frame.comp ?_ (State.putStage_frame _ _ _ _ _) rfl
  exact Frame.refl
  split
  split
  exact Frame.refl
  refine Frame.comp ?_ (State.evtU_frame _ _ _) rfl
  refine Frame.comp ?_ (State.bump_frame _ _ _) rfl
  refine Frame.comp ?_ (State.putStage_frame _ _ _ _ _) rfl
  exact Frame.refl
  split
  exact Frame.refl
  refine Frame.comp ?_ (State.evtU_frame _ _ _) rfl
  refine Frame.comp ?_ (State.bump_frame _ _ _) rfl
  refine Frame.comp ?_ (State.putStage_frame _ _ _ _ _) rfl
  exact Frame.refl
  split
  split
  split
  exact Frame.refl
  refine Frame.comp ?_ (State.evtU_frame _ _ _) rfl
  refine Frame.comp ?_ (State.bump_frame _ _ _) rfl
  refine Frame.comp ?_ (State.putStage_frame _ _ _ _ _) rfl
  exact Frame.refl
  split
  split
  exact Frame.refl
  refine Frame.comp ?_ (State.evtU_frame _ _ _) rfl
  refine Frame.comp ?_ (State.bump_frame _ _ _) rfl
  refine Frame.comp ?_ (State.putStage_frame _ _ _ _ _) rfl
  exact Frame.refl
  split
  exact Frame.refl
  refine Frame.comp ?_ (State.evtU_frame _ _ _) rfl
  refine Frame.comp ?_ (State.bump_frame _ _ _) rfl
  refine Frame.comp ?_ (State.putStage_frame _ _ _ _ _) rfl
  exact Frame.refl
  split
  split
  exact Frame.refl
  refine Frame.comp ?_ (State.evtU_frame _ _ _) rfl
  refine Frame.comp ?_ (State.bump_frame _ _ _) rfl
  refine Frame.comp ?_ (State.putStage_frame _ _ _ _ _) rfl
  exact Frame.refl
  split
  exact Frame.refl
  refine Frame.comp ?_ (State.evtU_frame _ _ _) rfl
  refine Frame.comp ?_ (State.bump_frame _ _ _) rfl
  refine Frame.comp ?_ (State.putStage_frame _ _ _ _ _) rfl
  exact Frame.refl

theorem State.startStandIn_frame (s : State) (r : Read) : Frame [.hg, .mc, .af, .ctrs] s (s.startStandIn r) := by
  unfold State.startStandIn
  dsimp only
  refine Frame.comp ?_ (State.homeWork_frame _ _) rfl
  refine Frame.comp ?_ (State.noteStart_frame _ _ _) rfl
  refine Frame.comp ?_ (State.evt_frame _ _ _ _) rfl
  refine Frame.comp ?_ (State.bump_frame _ _ _) rfl
  refine Frame.comp ?_ (State.setRead_frame _ _) rfl
  exact Frame.refl

theorem State.startOn_frame (s : State) (r : Read) (k : Nat) : Frame [.hg, .af, .ctrs, .free] s (s.startOn r k) := by
  unfold State.startOn
  refine Frame.comp ?_ (State.crossing_frame _ _ _ _) rfl
  refine Frame.comp ?_ (State.noteStart_frame _ _ _) rfl
  refine Frame.comp ?_ (State.evt_frame _ _ _ _) rfl
  refine Frame.comp ?_ (State.setRead_frame _ _) rfl
  exact Frame.refl

theorem State.readStart_frame (s : State) (q i : Nat) : Frame [.hg, .ham, .ld, .irq, .pcie, .mc, .af, .xe, .fab, .ctrs,
    .free, .out] s (s.readStart q i) := by
  unfold State.readStart
  split
  split
  exact Frame.refl
  dsimp only
  split
  refine Frame.comp ?_ (State.failRead_frame _ _ _ _) rfl
  exact Frame.refl
  split
  refine Frame.comp ?_ (State.setRead_frame _ _) rfl
  exact Frame.refl
  split
  exact Frame.refl
  refine Frame.comp ?_ (State.startStandIn_frame _ _) rfl
  exact Frame.refl
  split
  refine Frame.comp ?_ (State.startOn_frame _ _ _) rfl
  exact Frame.refl
  exact Frame.refl
  exact Frame.refl

theorem State.resolved__frame (s : State) (q i : Nat) : Frame [.ms, .hg, .ham, .ld, .irq, .pcie, .im, .mc, .af, .xe, .fab,
    .ctrs, .free, .out] s (s.resolved_ q i) := by
  unfold State.resolved_
  split
  split
  exact Frame.refl
  split
  exact Frame.refl
  split
  refine Frame.comp ?_ (State.imageLost_frame _ _ _) rfl
  exact Frame.refl
  dsimp only
  refine Frame.comp ?_ (State.readExact_frame _ _ _ _ _) rfl
  refine Frame.comp ?_ (State.addCheck_frame _ _) rfl
  refine Frame.comp ?_ (State.setRead_frame _ _) rfl
  refine Frame.comp ?_ (State.imageRead_frame _ _ _) rfl
  exact Frame.refl
  exact Frame.refl

theorem State.setMatvec_frame (s : State) (w : Matvec) : Frame [.af] s (s.setMatvec w) := by
  unfold State.setMatvec
  refine Frame.upd ?_
  exact Frame.refl

theorem State.spannedEnd_frame (s : State) (r : Read) (ok : Bool) : Frame [.af, .fab, .out] s (s.spannedEnd r ok) := by
  unfold State.spannedEnd
  split
  refine Frame.comp ?_ (State.retractRead_frame _ _) rfl
  exact Frame.refl
  split
  refine Frame.comp ?_ (State.spanMsg_frame _ _ _ _) rfl
  exact Frame.refl
  exact Frame.refl

theorem State.spannedInput_frame (s : State) (rank ident step : Nat) (x : SpanPiece) (tr : Bool) (vals : List Val) : Frame
    [.af] s (s.spannedInput rank ident step x tr vals) := by
  unfold State.spannedInput
  split
  exact Frame.refl
  split
  exact Frame.refl
  dsimp only
  refine Frame.upd ?_
  exact Frame.refl

theorem State.spannedSum_frame (s : State) (rank ident step : Nat) (pl : SpanPlace) (e : Int) (ms : List Int) : Frame
    [.hg, .mc, .af, .ctrs, .free] s (s.spannedSum rank ident step pl e ms) := by
  unfold State.spannedSum
  split
  dsimp only
  refine Frame.comp ?_ (State.matvecDone_frame _ _) rfl
  refine Frame.comp ?_ (State.crossing_frame _ _ _ _) rfl
  refine Frame.comp ?_ (State.addCheck_frame _ _) rfl
  refine Frame.comp ?_ (State.setMatvec_frame _ _) rfl
  exact Frame.refl
  exact Frame.refl

theorem State.spannedPassed_frame (s : State) (rank ident step : Nat) (pl : SpanPlace) : Frame [.hg, .af] s
    (s.spannedPassed rank ident step pl) := by
  unfold State.spannedPassed
  split
  refine Frame.comp ?_ (State.updCmd_frame _ _ _) rfl
  refine Frame.comp ?_ (State.setMatvec_frame _ _) rfl
  exact Frame.refl
  exact Frame.refl

theorem State.spannedRetracted_frame (s : State) (rank ident step : Nat) (pl : SpanPlace) : Frame [.ms, .hg, .ham, .ld,
    .irq, .pcie, .im, .af, .xe, .fab, .ctrs, .free, .out] s (s.spannedRetracted rank ident step pl) := by
  unfold State.spannedRetracted
  split
  refine Frame.comp ?_ (State.taint_frame _ _) rfl
  refine Frame.comp ?_ (State.setMatvec_frame _ _) rfl
  exact Frame.refl
  exact Frame.refl

theorem State.spannedNote_frame (s : State) (rank ident step : Nat) (pl : SpanPlace) (note : SpanNote) : Frame [.ms, .hg,
    .ham, .ld, .irq, .pcie, .im, .mc, .af, .xe, .fab, .ctrs, .free, .out] s (s.spannedNote rank ident step pl note) := by
  unfold State.spannedNote
  split
  refine Frame.comp ?_ (State.spannedSum_frame _ _ _ _ _ _ _) rfl
  exact Frame.refl
  refine Frame.comp ?_ (State.spannedPassed_frame _ _ _ _ _) rfl
  exact Frame.refl
  refine Frame.comp ?_ (State.spannedRetracted_frame _ _ _ _ _) rfl
  exact Frame.refl

theorem execArrayReadConversionEnd_frame (q r : Nat) (meas : List Int) (s : State) : ∃ t, execArrayReadConversionEnd q r
    meas s = .next t ∧ Frame [.hg, .im, .mc, .af, .fab, .ctrs, .free, .out] s t := by
  refine ⟨_, rfl, ?_⟩
  refine Frame.comp ?_ (State.conversionEnd_frame _ _ _ _) rfl
  exact Frame.refl

theorem execArrayReadStart_frame (q r : Nat) (s : State) : ∃ t, execArrayReadStart q r s = .next t ∧ Frame [.hg, .ham,
    .ld, .irq, .pcie, .mc, .af, .xe, .fab, .ctrs, .free, .out] s t := by
  refine ⟨_, rfl, ?_⟩
  refine Frame.comp ?_ (State.readStart_frame _ _ _) rfl
  exact Frame.refl

theorem execDigitalQuarterComplete_frame (q r : Nat) (s : State) : ∃ t, execDigitalQuarterComplete q r s = .next t ∧ Frame
    [.ms, .hg, .ham, .ld, .irq, .pcie, .im, .mc, .af, .xe, .fab, .ctrs, .free, .out] s t := by
  refine ⟨_, rfl, ?_⟩
  refine Frame.comp ?_ (State.digitalEnd_frame _ _ _) rfl
  exact Frame.refl

theorem execRampStageChange_frame (x : ClusterId) (cycles : RampCycles) (s : State) : ∃ t, execRampStageChange x cycles s
    = .next t ∧ Frame [.hg, .mc, .ctrs] s t := by
  refine ⟨_, rfl, ?_⟩
  refine Frame.comp ?_ (State.rampStep_frame _ _ _ _ _) rfl
  exact Frame.refl

theorem execResolutionComplete_frame (q r : Nat) (s : State) : ∃ t, execResolutionComplete q r s = .next t ∧ Frame [.ms,
    .hg, .ham, .ld, .irq, .pcie, .im, .mc, .af, .xe, .fab, .ctrs, .free, .out] s t := by
  refine ⟨_, rfl, ?_⟩
  refine Frame.comp ?_ (State.resolved__frame _ _ _) rfl
  exact Frame.refl

theorem execSpannedInputArrival_frame (rank tensor step : Nat) (piece : SpanPiece) (transpose : Bool) (vals : List Val) (s
    : State) : ∃ t, execSpannedInputArrival rank tensor step piece transpose vals s = .next t ∧ Frame [.af] s t := by
  refine ⟨_, rfl, ?_⟩
  refine Frame.comp ?_ (State.spannedInput_frame _ _ _ _ _ _ _) rfl
  exact Frame.refl

theorem execSpannedPartialSumArrival_frame (rank tensor step : Nat) (place : SpanPlace) (note : SpanNote) (s : State) : ∃
    t, execSpannedPartialSumArrival rank tensor step place note s = .next t ∧ Frame [.ms, .hg, .ham, .ld, .irq, .pcie, .im,
    .mc, .af, .xe, .fab, .ctrs, .free, .out] s t := by
  refine ⟨_, rfl, ?_⟩
  refine Frame.comp ?_ (State.spannedNote_frame _ _ _ _ _ _) rfl
  exact Frame.refl

end Sys2Proof.Machine
end

