-- ==== Sys2Proof/Laws/FrameData.lean ====
section
/-!
SUPPORT. The frame of each function of versions, updates, upkeep and integrity: which components of the state it may change, the queue of waiting
commands apart, and that it keeps the stored form of memory and registers. A lemma `execX_frame` says besides that the row
`X` answers a next state, whatever the state and the operands.
-/
namespace Sys2Proof.Machine

open Sys2Proof

set_option Elab.async false

theorem State.progEnds_frame (s : State) : Frame [.hg, .ld, .irq, .pcie, .im, .fab, .out] s (s.progEnds) := by
  unfold State.progEnds
  refine Frame.foldl (fun _ _ => ?_) _ ?_
  split
  split
  split
  split
  refine Frame.comp ?_ (State.deliver_frame _ _) rfl
  exact Frame.refl
  exact Frame.refl
  exact Frame.refl
  exact Frame.refl
  exact Frame.refl
  exact Frame.refl

theorem State.failOrphans_frame (s : State) : Frame [.hg, .ham, .ld, .irq, .pcie, .af, .xe, .fab, .out] s (s.failOrphans) := by
  unfold State.failOrphans
  refine Frame.foldl (fun _ _ => ?_) _ ?_
  split
  split
  refine Frame.comp ?_ (State.failRead_frame _ _ _ _) rfl
  exact Frame.refl
  exact Frame.refl
  exact Frame.refl
  exact Frame.refl

theorem State.setPairVersion_frame (s : State) (t0 : Resident) (sg g v : Nat) : Frame [.af] s (s.setPairVersion t0 sg g v) := by
  unfold State.setPairVersion
  dsimp only
  split
  refine Frame.comp ?_ (State.setArr_frame _ _ _) rfl
  refine Frame.comp ?_ (State.setArr_frame _ _ _) rfl
  exact Frame.refl
  refine Frame.comp ?_ (State.setArr_frame _ _ _) rfl
  exact Frame.refl

theorem State.imageRow_frame (s : State) (q : Nat) (t0 : Resident) (p row : Nat) (l0 : List (Nat × Int)) : Frame [.ms,
    .hg, .ld, .irq, .pcie, .im, .fab, .ctrs, .out] s (s.imageRow q t0 p row l0) := by
  unfold State.imageRow
  refine Frame.foldl (fun _ _ => ?_) _ ?_
  refine Frame.foldl (fun _ _ => ?_) _ ?_
  refine Frame.comp ?_ (State.noteWrite_frame _ _ _ _) rfl
  refine Frame.comp ?_ (State.wr_frame _ _ _) rfl
  exact Frame.refl
  exact Frame.refl
  exact Frame.refl

theorem State.imageRows_frame (s : State) (q : Nat) (t0 : Resident) (p : Nat) (rows : List (Nat × List (Nat × Int))) :
    Frame [.ms, .hg, .ld, .irq, .pcie, .im, .fab, .ctrs, .out] s (s.imageRows q t0 p rows) := by
  unfold State.imageRows
  refine Frame.foldl (fun _ _ => ?_) _ ?_
  refine Frame.comp ?_ (State.imageRow_frame _ _ _ _ _ _) rfl
  exact Frame.refl
  exact Frame.refl

theorem State.queueAct_frame (s : State) (kind : ActKind) (work : ActWork) (bank array cls : Nat) (seqs : List Nat) :
    Frame [.uk] s (s.queueAct kind work bank array cls seqs) := by
  unfold State.queueAct
  dsimp only
  refine Frame.upd ?_
  exact Frame.refl

theorem State.queueOn_frame (s : State) (kind : ActKind) (work : ActWork) (k cls : Nat) (seqs : List Nat) : Frame [.uk] s
    (s.queueOn kind work k cls seqs) := by
  unfold State.queueOn
  refine Frame.comp ?_ (State.queueAct_frame _ _ _ _ _ _ _) rfl
  exact Frame.refl

theorem State.settlePair_frame (s : State) (t : Resident) (sg g n : Nat) : Frame [.ms, .hg, .ld, .irq, .pcie, .im, .af,
    .uk, .fab, .ctrs, .out] s (s.settlePair t sg g n) := by
  induction n generalizing s with
  | zero => exact Frame.refl
  | succ n ih =>
    unfold State.settlePair
    split
    exact Frame.refl
    split
    exact Frame.refl
    dsimp only
    split
    exact Frame.refl
    split
    refine Frame.comp ?_ (ih _) rfl
    refine Frame.comp ?_ (State.setPairVersion_frame _ _ _ _ _) rfl
    refine Frame.comp ?_ (State.imageRows_frame _ _ _ _ _) rfl
    exact Frame.refl
    exact Frame.refl
    split
    split
    exact Frame.refl
    refine Frame.comp ?_ (State.setArr_frame _ _ _) rfl
    exact Frame.refl
    split
    refine Frame.comp ?_ (ih _) rfl
    refine Frame.comp ?_ (State.setPairVersion_frame _ _ _ _ _) rfl
    exact Frame.refl
    refine Frame.comp ?_ (State.queueOn_frame _ _ _ _ _ _) rfl
    refine Frame.comp ?_ (State.setArr_frame _ _ _) rfl
    exact Frame.refl

theorem State.settleAll_frame (s : State) : Frame [.ms, .hg, .ham, .ld, .irq, .pcie, .im, .af, .uk, .xe, .fab, .ctrs,
    .out] s (s.settleAll) := by
  unfold State.settleAll
  refine Frame.comp ?_ (State.progEnds_frame _) rfl
  refine Frame.comp ?_ (State.failOrphans_frame _) rfl
  refine Frame.foldl (fun _ _ => ?_) _ ?_
  refine Frame.foldl (fun _ _ => ?_) _ ?_
  refine Frame.comp ?_ (State.settlePair_frame _ _ _ _ _) rfl
  exact Frame.refl
  exact Frame.refl
  exact Frame.refl

theorem State.acceptList_frame (s : State) (q n : Nat) (t0 : Resident) (entries : List (Nat × Int)) : Frame [.ms, .hg,
    .ham, .ld, .irq, .pcie, .im, .af, .uk, .xe, .fab, .ctrs, .out] s (s.acceptList q n t0 entries) := by
  unfold State.acceptList
  dsimp only
  refine Frame.comp ?_ (State.settleAll_frame _) rfl
  refine Frame.comp ?_ (State.updCmd_frame _ _ _) rfl
  refine Frame.comp ?_ (State.setResident_frame _ _) rfl
  exact Frame.refl

theorem State.loadEnds_frame (s : State) (ident : Nat) : Frame [.hg, .ld, .irq, .pcie, .im, .af, .fab, .out] s (s.loadEnds
    ident) := by
  unfold State.loadEnds
  split
  exact Frame.refl
  split
  exact Frame.refl
  dsimp only
  split
  refine Frame.comp ?_ (State.deliver_frame _ _) rfl
  refine Frame.comp ?_ (State.setResident_frame _ _) rfl
  exact Frame.refl
  exact Frame.refl

theorem State.placeTensor_frame (s : State) (q : Nat) (t0 : Resident) : Frame [.ms, .hg, .ld, .irq, .pcie, .im, .af, .uk,
    .fab, .ctrs, .free, .out] s (s.placeTensor q t0) := by
  unfold State.placeTensor
  dsimp only
  refine Frame.foldl (fun _ _ => ?_) _ ?_
  split
  refine Frame.comp ?_ (State.setArr_frame _ _ _) rfl
  refine Frame.comp ?_ (State.traffic_frame _ _ _ _ _) rfl
  refine Frame.comp ?_ (State.noteWrite_frame _ _ _ _) rfl
  refine Frame.comp ?_ (State.wr_frame _ _ _) rfl
  exact Frame.refl
  refine Frame.comp ?_ (State.queueOn_frame _ _ _ _ _ _) rfl
  refine Frame.comp ?_ (State.setArr_frame _ _ _) rfl
  refine Frame.comp ?_ (State.setArr_frame _ _ _) rfl
  refine Frame.comp ?_ (State.traffic_frame _ _ _ _ _) rfl
  refine Frame.comp ?_ (State.noteWrite_frame _ _ _ _) rfl
  refine Frame.comp ?_ (State.wr_frame _ _ _) rfl
  exact Frame.refl
  refine Frame.comp ?_ (State.addCond_frame _ _ _ _) rfl
  refine Frame.upd ?_
  exact Frame.refl

theorem State.rejectList_frame (s : State) (q field : Nat) : Frame [.hg, .ham, .ld, .irq, .pcie, .af, .xe, .fab, .out] s
    (s.rejectList q field) := by
  unfold State.rejectList
  refine Frame.comp ?_ (State.failOrphans_frame _) rfl
  refine Frame.comp ?_ (State.failCmd_frame _ _ _ _) rfl
  exact Frame.refl

theorem State.rewriteLevels_frame (s : State) (q n : Nat) (t0 : Resident) : Frame [.ms, .hg, .ham, .ld, .irq, .pcie, .im,
    .af, .uk, .xe, .fab, .ctrs, .out] s (s.rewriteLevels q n t0) := by
  unfold State.rewriteLevels
  split
  exact Frame.refl
  refine Frame.comp ?_ (State.settleAll_frame _) rfl
  refine Frame.foldl (fun _ _ => ?_) _ ?_
  split
  refine Frame.comp ?_ (State.imageRows_frame _ _ _ _ _) rfl
  exact Frame.refl
  exact Frame.refl
  refine Frame.comp ?_ (State.updCmd_frame _ _ _) rfl
  exact Frame.refl

theorem State.takeChanges_frame (s : State) (q n : Nat) (t0 : Resident) (addr count : Nat) : Frame [.ms, .hg, .ham, .ld,
    .irq, .pcie, .im, .af, .uk, .xe, .fab, .ctrs, .free, .out] s (s.takeChanges q n t0 addr count) := by
  unfold State.takeChanges
  split
  refine Frame.comp ?_ (State.rejectList_frame _ _ _) rfl
  exact Frame.refl
  split
  exact Frame.refl
  split
  refine Frame.comp ?_ (State.failMem_frame _ _ _) rfl
  refine Frame.comp ?_ (State.noteReads_frame _ _) rfl
  exact Frame.refl
  dsimp only
  split
  refine Frame.comp ?_ (State.acceptList_frame _ _ _ _ _) rfl
  refine Frame.comp ?_ (State.readOperands_frame _ _ _) rfl
  exact Frame.refl
  refine Frame.comp ?_ (State.rejectList_frame _ _ _) rfl
  exact Frame.refl

theorem State.runLevels_frame (s : State) (q op ident idField addr addrField count : Nat) : Frame [.ms, .hg, .ham, .ld,
    .irq, .pcie, .im, .af, .uk, .xe, .fab, .ctrs, .free, .out] s (s.runLevels q op ident idField addr addrField count) := by
  unfold State.runLevels
  split
  exact Frame.refl
  dsimp only
  split
  refine Frame.comp ?_ (State.rejectList_frame _ _ _) rfl
  exact Frame.refl
  split
  refine Frame.comp ?_ (State.rejectList_frame _ _ _) rfl
  exact Frame.refl
  split
  refine Frame.comp ?_ (State.rewriteLevels_frame _ _ _ _) rfl
  exact Frame.refl
  split
  refine Frame.comp ?_ (State.rejectList_frame _ _ _) rfl
  exact Frame.refl
  split
  refine Frame.comp ?_ (State.acceptList_frame _ _ _ _ _) rfl
  exact Frame.refl
  split
  refine Frame.comp ?_ (State.takeChanges_frame _ _ _ _ _ _) rfl
  exact Frame.refl
  split
  refine Frame.comp ?_ (State.rejectList_frame _ _ _) rfl
  exact Frame.refl
  split
  exact Frame.refl
  split
  refine Frame.comp ?_ (State.failMem_frame _ _ _) rfl
  exact Frame.refl
  split
  refine Frame.comp ?_ (State.rejectList_frame _ _ _) rfl
  exact Frame.refl
  refine Frame.comp ?_ (State.takeChanges_frame _ _ _ _ _ _) rfl
  refine Frame.comp ?_ (State.readOperands_frame _ _ _) rfl
  exact Frame.refl

theorem State.unload_frame (s : State) (q : Nat) : Frame [.af, .uk] s (s.unload q) := by
  unfold State.unload
  split
  exact Frame.refl
  dsimp only
  refine Frame.foldl (fun _ _ => ?_) _ ?_
  split
  refine Frame.comp ?_ (State.setArr_frame _ _ _) rfl
  exact Frame.refl
  refine Frame.comp ?_ (State.setArr_frame _ _ _) rfl
  refine Frame.comp ?_ (State.setArr_frame _ _ _) rfl
  exact Frame.refl
  refine Frame.upd ?_
  exact Frame.refl

theorem State.runLoad_frame (s : State) (q : Nat) : Frame [.ms, .hg, .ham, .ld, .irq, .pcie, .im, .af, .uk, .xe, .fab,
    .ctrs, .free, .out] s (s.runLoad q) := by
  unfold State.runLoad
  split
  exact Frame.refl
  dsimp only
  split
  exact Frame.refl
  split
  refine Frame.comp ?_ (State.failMem_frame _ _ _) rfl
  refine Frame.comp ?_ (State.noteReads_frame _ _) rfl
  refine Frame.comp ?_ (State.unload_frame _ _) rfl
  exact Frame.refl
  split
  refine Frame.comp ?_ (State.badStruct_frame _ _) rfl
  refine Frame.comp ?_ (State.unload_frame _ _) rfl
  exact Frame.refl
  split
  refine Frame.comp ?_ (State.unload_frame _ _) rfl
  exact Frame.refl
  split
  refine Frame.comp ?_ (State.failMem_frame _ _ _) rfl
  refine Frame.comp ?_ (State.noteReads_frame _ _) rfl
  refine Frame.comp ?_ (State.unload_frame _ _) rfl
  exact Frame.refl
  split
  refine Frame.comp ?_ (State.badStruct_frame _ _) rfl
  refine Frame.comp ?_ (State.unload_frame _ _) rfl
  exact Frame.refl
  refine Frame.comp ?_ (State.updCmd_frame _ _ _) rfl
  refine Frame.comp ?_ (State.placeTensor_frame _ _ _) rfl
  refine Frame.comp ?_ (State.readOperands_frame _ _ _) rfl
  refine Frame.comp ?_ (State.unload_frame _ _) rfl
  exact Frame.refl

theorem State.runMaintLevels_frame (s : State) (q : Nat) : Frame [.ms, .hg, .ham, .ld, .irq, .pcie, .im, .af, .uk, .xe,
    .fab, .ctrs, .free, .out] s (s.runMaintLevels q) := by
  unfold State.runMaintLevels
  split
  split
  exact Frame.refl
  split
  refine Frame.comp ?_ (State.rejectList_frame _ _ _) rfl
  exact Frame.refl
  refine Frame.comp ?_ (State.runLevels_frame _ _ _ _ _ _ _ _) rfl
  exact Frame.refl
  exact Frame.refl

theorem State.runProg_frame (s : State) (q : Nat) : Frame [.ms, .hg, .ham, .ld, .irq, .pcie, .im, .af, .uk, .xe, .fab,
    .ctrs, .free, .out] s (s.runProg q) := by
  unfold State.runProg
  split
  refine Frame.comp ?_ (State.runLevels_frame _ _ _ _ _ _ _ _) rfl
  exact Frame.refl
  exact Frame.refl

theorem execLoad_frame (q : Nat) (s : State) : ∃ t, execLoad q s = .next t ∧ Frame [.ms, .hg, .ham, .ld, .irq, .pcie, .im,
    .af, .uk, .xe, .fab, .ctrs, .free, .out] s t := by
  refine ⟨_, rfl, ?_⟩
  refine Frame.comp ?_ (State.runLoad_frame _ _) rfl
  exact Frame.refl

theorem execMaintLevels_frame (q : Nat) (s : State) : ∃ t, execMaintLevels q s = .next t ∧ Frame [.ms, .hg, .ham, .ld,
    .irq, .pcie, .im, .af, .uk, .xe, .fab, .ctrs, .free, .out] s t := by
  refine ⟨_, rfl, ?_⟩
  refine Frame.comp ?_ (State.runMaintLevels_frame _ _) rfl
  exact Frame.refl

theorem execProg_frame (q : Nat) (s : State) : ∃ t, execProg q s = .next t ∧ Frame [.ms, .hg, .ham, .ld, .irq, .pcie, .im,
    .af, .uk, .xe, .fab, .ctrs, .free, .out] s t := by
  refine ⟨_, rfl, ?_⟩
  refine Frame.comp ?_ (State.runProg_frame _ _) rfl
  exact Frame.refl

theorem State.runUpdt_frame (s : State) (q : Nat) : Frame [.ms, .hg, .ham, .ld, .irq, .pcie, .im, .mc, .xe, .fab, .ctrs,
    .free, .out] s (s.runUpdt q) := by
  unfold State.runUpdt
  split
  exact Frame.refl
  dsimp only
  split
  exact Frame.refl
  split
  refine Frame.comp ?_ (State.failMem_frame _ _ _) rfl
  refine Frame.comp ?_ (State.noteReads_frame _ _) rfl
  exact Frame.refl
  split
  refine Frame.comp ?_ (State.badStruct_frame _ _) rfl
  exact Frame.refl
  split
  refine Frame.comp ?_ (State.failCmd_frame _ _ _ _) rfl
  exact Frame.refl
  split
  exact Frame.refl
  split
  refine Frame.comp ?_ (State.deliver_frame _ _) rfl
  refine Frame.comp ?_ (State.addCond_frame _ _ _ _) rfl
  refine Frame.comp ?_ (State.bump_frame _ _ _) rfl
  exact Frame.refl
  split
  split
  exact Frame.refl
  split
  refine Frame.comp ?_ (State.failMem_frame _ _ _) rfl
  refine Frame.comp ?_ (State.noteReads_frame _ _) rfl
  exact Frame.refl
  split
  refine Frame.comp ?_ (State.failMem_frame _ _ _) rfl
  exact Frame.refl
  refine Frame.comp ?_ (State.updCmd_frame _ _ _) rfl
  refine Frame.comp ?_ (State.addVnCheck_frame _ _ _) rfl
  refine Frame.comp ?_ (State.readOperands_frame _ _ _) rfl
  exact Frame.refl
  split
  exact Frame.refl
  split
  refine Frame.comp ?_ (State.failMem_frame _ _ _) rfl
  refine Frame.comp ?_ (State.noteReads_frame _ _) rfl
  exact Frame.refl
  split
  refine Frame.comp ?_ (State.failMem_frame _ _ _) rfl
  exact Frame.refl
  refine Frame.comp ?_ (State.updCmd_frame _ _ _) rfl
  refine Frame.comp ?_ (State.addVnCheck_frame _ _ _) rfl
  refine Frame.comp ?_ (State.readOperands_frame _ _ _) rfl
  exact Frame.refl

theorem State.updtWrite_frame (s : State) (c : Cmd) (q : Nat) : Frame [.ms, .hg, .ld, .irq, .pcie, .im, .fab, .ctrs,
    .free, .out] s (s.updtWrite c q) := by
  unfold State.updtWrite
  dsimp only
  refine Frame.comp ?_ (State.deliver_frame _ _) rfl
  refine Frame.comp ?_ (State.addCond_frame _ _ _ _) rfl
  refine Frame.comp ?_ (State.evt_frame _ _ _ _) rfl
  refine Frame.comp ?_ (State.evt_frame _ _ _ _) rfl
  refine Frame.comp ?_ (State.freeStep_frame _) rfl
  refine Frame.comp ?_ (State.countOn_frame _ _ _ _) rfl
  refine Frame.comp ?_ (State.writeAll_frame _ _ _) rfl
  exact Frame.refl

theorem execUpdt_frame (q : Nat) (s : State) : ∃ t, execUpdt q s = .next t ∧ Frame [.ms, .hg, .ham, .ld, .irq, .pcie, .im,
    .mc, .xe, .fab, .ctrs, .free, .out] s t := by
  refine ⟨_, rfl, ?_⟩
  refine Frame.comp ?_ (State.runUpdt_frame _ _) rfl
  exact Frame.refl

theorem State.mapSpare_frame (s : State) (root spare : Nat) : Frame [.im] s (s.mapSpare root spare) := by
  unfold State.mapSpare
  refine Frame.upd ?_
  exact Frame.refl

theorem State.retireCore_frame (s : State) (u : UnitId) : Frame [.im] s (s.retireCore u).1 := by
  unfold State.retireCore
  split
  dsimp only
  exact Frame.refl
  split
  dsimp only
  refine Frame.comp ?_ (State.mapSpare_frame _ _ _) rfl
  refine Frame.upd ?_
  exact Frame.refl
  dsimp only
  refine Frame.comp ?_ (State.mapSpare_frame _ _ _) rfl
  exact Frame.refl

theorem State.maintEnds_frame (s : State) (seqs : List Nat) : Frame [.hg, .ld, .irq, .pcie, .im, .fab, .out] s
    (s.maintEnds seqs) := by
  unfold State.maintEnds
  refine Frame.foldl (fun _ _ => ?_) _ ?_
  split
  exact Frame.refl
  split
  split
  refine Frame.comp ?_ (State.deliver_frame _ _) rfl
  exact Frame.refl
  exact Frame.refl
  exact Frame.refl
  exact Frame.refl

theorem State.retireArray_frame (s : State) (k : Nat) : Frame [.hg, .ld, .irq, .pcie, .im, .af, .uk, .fab, .out] s
    (s.retireArray k).1 := by
  unfold State.retireArray
  dsimp only
  split
  dsimp only
  exact Frame.refl
  split
  dsimp only
  split
  refine Frame.comp ?_ (State.loadEnds_frame _ _) rfl
  refine Frame.comp ?_ (State.maintEnds_frame _ _) rfl
  refine Frame.upd ?_
  split
  refine Frame.comp ?_ (State.setArr_frame _ _ _) rfl
  exact Frame.refl
  refine Frame.comp ?_ (State.setArr_frame _ _ _) rfl
  refine Frame.comp ?_ (State.setArr_frame _ _ _) rfl
  exact Frame.refl
  refine Frame.comp ?_ (State.maintEnds_frame _ _) rfl
  refine Frame.upd ?_
  split
  refine Frame.comp ?_ (State.setArr_frame _ _ _) rfl
  exact Frame.refl
  refine Frame.comp ?_ (State.setArr_frame _ _ _) rfl
  refine Frame.comp ?_ (State.setArr_frame _ _ _) rfl
  exact Frame.refl
  dsimp only
  split
  refine Frame.comp ?_ (State.queueOn_frame _ _ _ _ _ _) rfl
  refine Frame.comp ?_ (State.setArr_frame _ _ _) rfl
  refine Frame.comp ?_ (State.maintEnds_frame _ _) rfl
  refine Frame.upd ?_
  split
  refine Frame.comp ?_ (State.setArr_frame _ _ _) rfl
  exact Frame.refl
  refine Frame.comp ?_ (State.setArr_frame _ _ _) rfl
  refine Frame.comp ?_ (State.setArr_frame _ _ _) rfl
  exact Frame.refl
  refine Frame.comp ?_ (State.mapSpare_frame _ _ _) rfl
  refine Frame.comp ?_ (State.setArr_frame _ _ _) rfl
  refine Frame.comp ?_ (State.maintEnds_frame _ _) rfl
  refine Frame.upd ?_
  split
  refine Frame.comp ?_ (State.setArr_frame _ _ _) rfl
  exact Frame.refl
  refine Frame.comp ?_ (State.setArr_frame _ _ _) rfl
  refine Frame.comp ?_ (State.setArr_frame _ _ _) rfl
  exact Frame.refl

theorem State.retireUnit_frame (s : State) (u : UnitId) : Frame [.ms, .hg, .ham, .ld, .irq, .pcie, .im, .af, .uk, .xe,
    .fab, .ctrs, .out] s (s.retireUnit u).1 := by
  unfold State.retireUnit
  split
  dsimp only
  exact Frame.refl
  dsimp only
  split
  split
  dsimp only
  refine Frame.comp ?_ (State.setErrors_frame _ _) rfl
  refine Frame.comp ?_ (State.bump_frame _ _ _) rfl
  exact Frame.refl
  refine Frame.comp ?_ (State.retireCore_frame _ _) rfl
  refine Frame.comp ?_ (State.bump_frame _ _ _) rfl
  exact Frame.refl
  split
  dsimp only
  refine Frame.comp ?_ (State.settleAll_frame _) rfl
  refine Frame.comp ?_ (State.retireArray_frame _ _) rfl
  refine Frame.comp ?_ (State.bump_frame _ _ _) rfl
  exact Frame.refl
  dsimp only
  refine Frame.comp ?_ (State.bump_frame _ _ _) rfl
  exact Frame.refl

theorem State.suspectAct_frame (s : State) (u : UnitId) : Frame [.im, .uk, .ctrs] s (s.suspectAct u).1 := by
  unfold State.suspectAct
  dsimp only
  split
  split
  dsimp only
  refine Frame.upd ?_
  refine Frame.comp ?_ (State.bump_frame _ _ _) rfl
  exact Frame.refl
  split
  dsimp only
  refine Frame.upd ?_
  refine Frame.comp ?_ (State.bump_frame _ _ _) rfl
  exact Frame.refl
  dsimp only
  refine Frame.comp ?_ (State.bump_frame _ _ _) rfl
  exact Frame.refl
  split
  split
  dsimp only
  refine Frame.comp ?_ (State.queueOn_frame _ _ _ _ _ _) rfl
  refine Frame.comp ?_ (State.queueAct_frame _ _ _ _ _ _ _) rfl
  refine Frame.comp ?_ (State.bump_frame _ _ _) rfl
  exact Frame.refl
  dsimp only
  refine Frame.comp ?_ (State.bump_frame _ _ _) rfl
  exact Frame.refl
  dsimp only
  refine Frame.comp ?_ (State.bump_frame _ _ _) rfl
  exact Frame.refl

theorem State.countError_frame (s : State) (u : UnitId) (mech syndrome step : Nat) (third : Bool) (q : Option Nat) : Frame
    [.ms, .hg, .ham, .ld, .irq, .pcie, .im, .af, .uk, .xe, .fab, .ctrs, .out] s (s.countError u mech syndrome step third q).1
    := by
  unfold State.countError
  dsimp only
  split
  dsimp only
  refine Frame.comp ?_ (State.cper_frame _ _) rfl
  refine Frame.comp ?_ (State.noteError_frame _ _) rfl
  exact Frame.refl
  split
  dsimp only
  refine Frame.comp ?_ (State.cper_frame _ _) rfl
  refine Frame.comp ?_ (State.noteError_frame _ _) rfl
  exact Frame.refl
  split
  dsimp only
  refine Frame.comp ?_ (State.cper_frame _ _) rfl
  refine Frame.comp ?_ (State.retireUnit_frame _ _) rfl
  refine Frame.comp ?_ (State.noteError_frame _ _) rfl
  exact Frame.refl
  split
  dsimp only
  refine Frame.comp ?_ (State.cper_frame _ _) rfl
  refine Frame.comp ?_ (State.suspectAct_frame _ _) rfl
  refine Frame.comp ?_ (State.noteError_frame _ _) rfl
  exact Frame.refl
  dsimp only
  refine Frame.comp ?_ (State.cper_frame _ _) rfl
  refine Frame.comp ?_ (State.noteError_frame _ _) rfl
  exact Frame.refl

theorem State.requestRetire_frame (s : State) (k mech : Nat) : Frame [.ms, .hg, .ham, .ld, .irq, .pcie, .im, .af, .uk,
    .xe, .fab, .ctrs, .out] s (s.requestRetire k mech) := by
  unfold State.requestRetire
  split
  exact Frame.refl
  dsimp only
  refine Frame.comp ?_ (State.cper_frame _ _) rfl
  refine Frame.comp ?_ (State.retireUnit_frame _ _) rfl
  exact Frame.refl

theorem State.setAct_frame (s : State) (a : Activity) : Frame [.uk] s (s.setAct a) := by
  unfold State.setAct
  refine Frame.upd ?_
  exact Frame.refl

theorem State.aging_frame (s : State) (ident : Nat) : Frame [.uk] s (s.aging ident) := by
  unfold State.aging
  split
  split
  refine Frame.comp ?_ (State.setAct_frame _ _) rfl
  exact Frame.refl
  exact Frame.refl
  exact Frame.refl

theorem State.claimGo_frame (s : State) (id n : Nat) : Frame [.uk] s (s.claimGo id n) := by
  induction n generalizing s with
  | zero => exact Frame.refl
  | succ n ih =>
    unfold State.claimGo
    split
    exact Frame.refl
    split
    exact Frame.refl
    refine Frame.comp ?_ (ih _) rfl
    refine Frame.comp ?_ (State.setAct_frame _ _) rfl
    exact Frame.refl

theorem State.takeWaiting_frame (s : State) : Frame [.ld, .uk] s (s.takeWaiting) := by
  unfold State.takeWaiting
  refine Frame.foldl (fun _ _ => ?_) _ ?_
  split
  exact Frame.refl
  dsimp only
  split
  refine Frame.comp ?_ (State.wantDom_frame _ _) rfl
  refine Frame.comp ?_ (State.wantDom_frame _ _) rfl
  exact Frame.refl
  refine Frame.comp ?_ (State.setAct_frame _ _) rfl
  refine Frame.comp ?_ (State.wantDom_frame _ _) rfl
  refine Frame.comp ?_ (State.wantDom_frame _ _) rfl
  exact Frame.refl
  exact Frame.refl

theorem State.logAct_frame (s : State) (kind : Nat) (a : Activity) : Frame [.im] s (s.logAct kind a) := by
  unfold State.logAct
  dsimp only
  refine Frame.comp ?_ (State.logRec_frame _ _ _ _ _ _ _) rfl
  exact Frame.refl

theorem State.startAct_frame (s : State) (a : Activity) : Frame [.hg, .im, .uk, .ctrs] s (s.startAct a) := by
  unfold State.startAct
  refine Frame.comp ?_ (State.logAct_frame _ _ _) rfl
  refine Frame.comp ?_ (State.evtU_frame _ _ _) rfl
  refine Frame.comp ?_ (State.setAct_frame _ _) rfl
  exact Frame.refl

theorem State.claimGrant_frame (s : State) (ident : Nat) : Frame [.ms, .hg, .ham, .ld, .irq, .pcie, .im, .af, .uk, .xe,
    .fab, .ctrs, .out] s (s.claimGrant ident) := by
  unfold State.claimGrant
  dsimp only
  split
  refine Frame.comp ?_ (State.claimGo_frame _ _ _) rfl
  refine Frame.comp ?_ (State.takeWaiting_frame _) rfl
  refine Frame.comp ?_ (State.settleAll_frame _) rfl
  exact Frame.refl
  split
  refine Frame.comp ?_ (State.startAct_frame _ _) rfl
  refine Frame.comp ?_ (State.claimGo_frame _ _ _) rfl
  refine Frame.comp ?_ (State.takeWaiting_frame _) rfl
  refine Frame.comp ?_ (State.settleAll_frame _) rfl
  exact Frame.refl
  refine Frame.comp ?_ (State.claimGo_frame _ _ _) rfl
  refine Frame.comp ?_ (State.takeWaiting_frame _) rfl
  refine Frame.comp ?_ (State.settleAll_frame _) rfl
  exact Frame.refl

theorem State.closureEnds_frame (s : State) (a : Activity) : Frame [.af, .ctrs] s (s.closureEnds a) := by
  unfold State.closureEnds
  refine Frame.foldl (fun _ _ => ?_) _ ?_
  refine Frame.comp ?_ (State.bump_frame _ _ _) rfl
  refine Frame.comp ?_ (State.setArr_frame _ _ _) rfl
  exact Frame.refl
  exact Frame.refl

theorem State.holdColumn_frame (s : State) (k j mech : Nat) : Frame [.ms, .hg, .ham, .ld, .irq, .pcie, .im, .af, .uk, .xe,
    .fab, .ctrs, .out] s (s.holdColumn k j mech) := by
  unfold State.holdColumn
  dsimp only
  split
  refine Frame.comp ?_ (State.queueOn_frame _ _ _ _ _ _) rfl
  refine Frame.comp ?_ (State.setArr_frame _ _ _) rfl
  exact Frame.refl
  refine Frame.comp ?_ (State.requestRetire_frame _ _ _) rfl
  refine Frame.comp ?_ (State.setArr_frame _ _ _) rfl
  exact Frame.refl

theorem State.loseSpare_frame (s : State) (k x mech : Nat) : Frame [.ms, .hg, .ham, .ld, .irq, .pcie, .im, .af, .uk, .xe,
    .fab, .ctrs, .out] s (s.loseSpare k x mech) := by
  unfold State.loseSpare
  dsimp only
  split
  refine Frame.comp ?_ (State.holdColumn_frame _ _ _ _) rfl
  refine Frame.upd ?_
  refine Frame.comp ?_ (State.setArr_frame _ _ _) rfl
  exact Frame.refl
  refine Frame.upd ?_
  refine Frame.comp ?_ (State.setArr_frame _ _ _) rfl
  exact Frame.refl

theorem State.columnFails_frame (s : State) (k mech col : Nat) : Frame [.ms, .hg, .ham, .ld, .irq, .pcie, .im, .af, .uk,
    .xe, .fab, .ctrs, .out] s (s.columnFails k mech col) := by
  unfold State.columnFails
  split
  split
  exact Frame.refl
  refine Frame.comp ?_ (State.holdColumn_frame _ _ _ _) rfl
  exact Frame.refl
  split
  refine Frame.comp ?_ (State.loseSpare_frame _ _ _ _) rfl
  exact Frame.refl
  refine Frame.comp ?_ (State.requestRetire_frame _ _ _) rfl
  exact Frame.refl

theorem State.columnsFail_frame (s : State) (k mech : Nat) (l0 : List Nat) : Frame [.ms, .hg, .ham, .ld, .irq, .pcie, .im,
    .af, .uk, .xe, .fab, .ctrs, .out] s (s.columnsFail k mech l0) := by
  unfold State.columnsFail
  refine Frame.foldl (fun _ _ => ?_) _ ?_
  refine Frame.comp ?_ (State.columnFails_frame _ _ _ _) rfl
  exact Frame.refl
  exact Frame.refl

theorem State.convDue_frame (s : State) (b : Nat) : Frame [.uk] s (s.convDue b) := by
  unfold State.convDue
  split
  refine Frame.comp ?_ (State.queueAct_frame _ _ _ _ _ _ _) rfl
  exact Frame.refl
  exact Frame.refl

theorem State.countRows_frame (s : State) (k rows : Nat) (fails : List (Nat × Nat)) : Frame [.ctrs] s (s.countRows k rows
    fails) := by
  unfold State.countRows
  refine Frame.comp ?_ (State.bump_frame _ _ _) rfl
  refine Frame.comp ?_ (State.bump_frame _ _ _) rfl
  exact Frame.refl

theorem State.dropAct_frame (s : State) (a : Activity) : Frame [.af, .uk, .ctrs] s (s.dropAct a) := by
  unfold State.dropAct
  dsimp only
  refine Frame.upd ?_
  refine Frame.comp ?_ (State.closureEnds_frame _ _) rfl
  exact Frame.refl

theorem State.endAct_frame (s : State) (a : Activity) : Frame [.hg, .ld, .irq, .pcie, .im, .af, .uk, .fab, .ctrs, .out] s
    (s.endAct a) := by
  unfold State.endAct
  refine Frame.comp ?_ (State.maintEnds_frame _ _) rfl
  refine Frame.comp ?_ (State.logAct_frame _ _ _) rfl
  refine Frame.comp ?_ (State.dropAct_frame _ _) rfl
  exact Frame.refl

theorem State.gainDue_frame (s : State) (k : Nat) : Frame [.uk] s (s.gainDue k) := by
  unfold State.gainDue
  dsimp only
  split
  refine Frame.comp ?_ (State.queueOn_frame _ _ _ _ _ _) rfl
  exact Frame.refl
  exact Frame.refl

theorem State.gainEnd_frame (s : State) (ident : Nat) : Frame [.hg, .ld, .irq, .pcie, .im, .af, .uk, .fab, .ctrs, .free,
    .out] s (s.gainEnd ident) := by
  unfold State.gainEnd
  split
  exact Frame.refl
  dsimp only
  split
  refine Frame.comp ?_ (State.endAct_frame _ _) rfl
  exact Frame.refl
  refine Frame.comp ?_ (State.endAct_frame _ _) rfl
  refine Frame.comp ?_ (State.freeStep_frame _) rfl
  refine Frame.comp ?_ (State.freeStep_frame _) rfl
  refine Frame.comp ?_ (State.setArr_frame _ _ _) rfl
  exact Frame.refl

theorem State.lineDue_frame (s : State) (k : Nat) : Frame [.uk] s (s.lineDue k) := by
  unfold State.lineDue
  dsimp only
  split
  refine Frame.comp ?_ (State.queueOn_frame _ _ _ _ _ _) rfl
  exact Frame.refl
  exact Frame.refl

theorem State.lineEnd__frame (s : State) (ident : Nat) (lines : List (Nat × Nat × Nat)) : Frame [.ms, .hg, .ham, .ld,
    .irq, .pcie, .im, .af, .uk, .xe, .fab, .ctrs, .out] s (s.lineEnd_ ident lines) := by
  unfold State.lineEnd_
  split
  exact Frame.refl
  dsimp only
  refine Frame.foldl (fun _ _ => ?_) _ ?_
  split
  refine Frame.comp ?_ (State.columnFails_frame _ _ _ _) rfl
  exact Frame.refl
  refine Frame.comp ?_ (State.requestRetire_frame _ _ _) rfl
  exact Frame.refl
  refine Frame.comp ?_ (State.endAct_frame _ _) rfl
  refine Frame.comp ?_ (State.bump_frame _ _ _) rfl
  refine Frame.comp ?_ (State.setArr_frame _ _ _) rfl
  exact Frame.refl

theorem State.wear_frame (s : State) (k : Nat) : Frame [.ms, .hg, .ham, .ld, .irq, .pcie, .im, .af, .uk, .xe, .fab, .ctrs,
    .out] s (s.wear k) := by
  unfold State.wear
  dsimp only
  split
  refine Frame.comp ?_ (State.requestRetire_frame _ _ _) rfl
  split
  exact Frame.refl
  refine Frame.upd ?_
  exact Frame.refl
  split
  exact Frame.refl
  refine Frame.upd ?_
  exact Frame.refl

theorem State.programEnd_frame (s : State) (ident : Nat) (cells : List (Nat × Nat × List Int)) : Frame [.ms, .hg, .ham,
    .ld, .irq, .pcie, .im, .af, .uk, .xe, .fab, .ctrs, .free, .out] s (s.programEnd ident cells) := by
  unfold State.programEnd
  split
  exact Frame.refl
  dsimp only
  split
  refine Frame.comp ?_ (State.endAct_frame _ _) rfl
  exact Frame.refl
  split
  refine Frame.comp ?_ (State.endAct_frame _ _) rfl
  exact Frame.refl
  refine Frame.comp ?_ (State.settleAll_frame _) rfl
  refine Frame.comp ?_ (State.loadEnds_frame _ _) rfl
  refine Frame.comp ?_ (State.wear_frame _ _) rfl
  refine Frame.comp ?_ (State.columnsFail_frame _ _ _ _) rfl
  refine Frame.comp ?_ (State.endAct_frame _ _) rfl
  split
  refine Frame.comp ?_ (State.countRows_frame _ _ _ _) rfl
  refine Frame.comp ?_ (State.freeStep_frame _) rfl
  refine Frame.comp ?_ (State.freeStep_frame _) rfl
  refine Frame.comp ?_ (State.setArr_frame _ _ _) rfl
  exact Frame.refl
  refine Frame.comp ?_ (State.mapSpare_frame _ _ _) rfl
  refine Frame.comp ?_ (State.countRows_frame _ _ _ _) rfl
  refine Frame.comp ?_ (State.freeStep_frame _) rfl
  refine Frame.comp ?_ (State.freeStep_frame _) rfl
  refine Frame.comp ?_ (State.setArr_frame _ _ _) rfl
  exact Frame.refl

theorem State.railEnd_frame (s : State) (ident : Nat) : Frame [.hg, .ld, .irq, .pcie, .im, .af, .uk, .fab, .ctrs, .out] s
    (s.railEnd ident) := by
  unfold State.railEnd
  split
  exact Frame.refl
  dsimp only
  split
  refine Frame.comp ?_ (State.endAct_frame _ _) rfl
  refine Frame.upd ?_
  exact Frame.refl
  refine Frame.comp ?_ (State.cper_frame _ _) rfl
  refine Frame.comp ?_ (State.endAct_frame _ _) rfl
  refine Frame.upd ?_
  exact Frame.refl

theorem State.refreshWindow_frame (s : State) (a : Activity) (cells : List (Nat × Nat × List Int)) : Frame [.ms, .hg,
    .ham, .ld, .irq, .pcie, .im, .af, .uk, .xe, .fab, .ctrs, .out] s (s.refreshWindow a cells) := by
  unfold State.refreshWindow
  dsimp only
  refine Frame.comp ?_ (State.wear_frame _ _) rfl
  refine Frame.comp ?_ (State.columnsFail_frame _ _ _ _) rfl
  refine Frame.comp ?_ (State.endAct_frame _ _) rfl
  split
  refine Frame.comp ?_ (State.bump_frame _ _ _) rfl
  refine Frame.comp ?_ (State.countRows_frame _ _ _ _) rfl
  refine Frame.comp ?_ (State.setArr_frame _ _ _) rfl
  exact Frame.refl
  refine Frame.comp ?_ (State.queueOn_frame _ _ _ _ _ _) rfl
  refine Frame.comp ?_ (State.bump_frame _ _ _) rfl
  refine Frame.comp ?_ (State.countRows_frame _ _ _ _) rfl
  refine Frame.comp ?_ (State.setArr_frame _ _ _) rfl
  exact Frame.refl

theorem State.runMaint_frame (s : State) (q op : Nat) (kind : ActKind) (cls : Nat) (targets : State → Cmd → Targets)
    (qualifies : State → Nat → Bool) : Frame [.ms, .hg, .ham, .ld, .irq, .pcie, .im, .uk, .xe, .fab, .ctrs, .free, .out] s
    (s.runMaint q op kind cls targets qualifies) := by
  unfold State.runMaint
  split
  exact Frame.refl
  split
  exact Frame.refl
  split
  refine Frame.comp ?_ (State.failCmd_frame _ _ _ _) rfl
  exact Frame.refl
  refine Frame.comp ?_ (State.failMem_frame _ _ _) rfl
  exact Frame.refl
  exact Frame.refl
  dsimp only
  refine Frame.comp ?_ (State.maintEnds_frame _ _) rfl
  refine Frame.foldl (fun _ _ => ?_) _ ?_
  split
  exact Frame.refl
  split
  refine Frame.comp ?_ (State.queueAct_frame _ _ _ _ _ _ _) rfl
  exact Frame.refl
  refine Frame.comp ?_ (State.queueOn_frame _ _ _ _ _ _) rfl
  exact Frame.refl
  refine Frame.comp ?_ (State.updCmd_frame _ _ _) rfl
  exact Frame.refl

theorem State.selfCalEnd_frame (s : State) (ident : Nat) (hits : List (Nat × Nat × List Nat)) : Frame [.ms, .hg, .ham,
    .ld, .irq, .pcie, .im, .af, .uk, .xe, .fab, .ctrs, .out] s (s.selfCalEnd ident hits) := by
  unfold State.selfCalEnd
  split
  exact Frame.refl
  dsimp only
  refine Frame.comp ?_ (State.endAct_frame _ _) rfl
  refine Frame.upd ?_
  refine Frame.foldl (fun _ _ => ?_) _ ?_
  split
  refine Frame.comp ?_ (State.requestRetire_frame _ _ _) rfl
  refine Frame.comp ?_ (State.setArr_frame _ _ _) rfl
  refine Frame.comp ?_ (State.setArr_frame _ _ _) rfl
  exact Frame.refl
  refine Frame.comp ?_ (State.setArr_frame _ _ _) rfl
  exact Frame.refl
  refine Frame.foldl (fun _ _ => ?_) _ ?_
  refine Frame.comp ?_ (State.setArr_frame _ _ _) rfl
  exact Frame.refl
  exact Frame.refl

theorem State.spareWindow_frame (s : State) (a : Activity) (spare j next : Nat) (cells : List (Nat × Nat × List Int)) :
    Frame [.ms, .hg, .ham, .ld, .irq, .pcie, .im, .af, .uk, .xe, .fab, .ctrs, .out] s (s.spareWindow a spare j next cells) :=
    by
  unfold State.spareWindow
  dsimp only
  refine Frame.comp ?_ (State.wear_frame _ _) rfl
  refine Frame.comp ?_ (State.columnsFail_frame _ _ _ _) rfl
  split
  split
  refine Frame.comp ?_ (State.holdColumn_frame _ _ _ _) rfl
  refine Frame.comp ?_ (State.setArr_frame _ _ _) rfl
  refine Frame.comp ?_ (State.endAct_frame _ _) rfl
  split
  refine Frame.comp ?_ (State.setArr_frame _ _ _) rfl
  refine Frame.comp ?_ (State.countRows_frame _ _ _ _) rfl
  refine Frame.comp ?_ (State.setArr_frame _ _ _) rfl
  exact Frame.refl
  refine Frame.comp ?_ (State.countRows_frame _ _ _ _) rfl
  refine Frame.comp ?_ (State.setArr_frame _ _ _) rfl
  exact Frame.refl
  split
  refine Frame.comp ?_ (State.queueOn_frame _ _ _ _ _ _) rfl
  refine Frame.comp ?_ (State.endAct_frame _ _) rfl
  split
  refine Frame.comp ?_ (State.setArr_frame _ _ _) rfl
  refine Frame.comp ?_ (State.countRows_frame _ _ _ _) rfl
  refine Frame.comp ?_ (State.setArr_frame _ _ _) rfl
  exact Frame.refl
  refine Frame.comp ?_ (State.countRows_frame _ _ _ _) rfl
  refine Frame.comp ?_ (State.setArr_frame _ _ _) rfl
  exact Frame.refl
  refine Frame.comp ?_ (State.endAct_frame _ _) rfl
  split
  refine Frame.comp ?_ (State.setArr_frame _ _ _) rfl
  refine Frame.comp ?_ (State.countRows_frame _ _ _ _) rfl
  refine Frame.comp ?_ (State.setArr_frame _ _ _) rfl
  exact Frame.refl
  refine Frame.comp ?_ (State.countRows_frame _ _ _ _) rfl
  refine Frame.comp ?_ (State.setArr_frame _ _ _) rfl
  exact Frame.refl
  split
  refine Frame.comp ?_ (State.holdColumn_frame _ _ _ _) rfl
  refine Frame.comp ?_ (State.setArr_frame _ _ _) rfl
  refine Frame.comp ?_ (State.endAct_frame _ _) rfl
  split
  refine Frame.comp ?_ (State.setArr_frame _ _ _) rfl
  refine Frame.comp ?_ (State.countRows_frame _ _ _ _) rfl
  refine Frame.comp ?_ (State.setArr_frame _ _ _) rfl
  exact Frame.refl
  refine Frame.comp ?_ (State.countRows_frame _ _ _ _) rfl
  refine Frame.comp ?_ (State.setArr_frame _ _ _) rfl
  exact Frame.refl
  split
  refine Frame.comp ?_ (State.queueOn_frame _ _ _ _ _ _) rfl
  refine Frame.comp ?_ (State.endAct_frame _ _) rfl
  split
  refine Frame.comp ?_ (State.setArr_frame _ _ _) rfl
  refine Frame.comp ?_ (State.countRows_frame _ _ _ _) rfl
  refine Frame.comp ?_ (State.setArr_frame _ _ _) rfl
  exact Frame.refl
  refine Frame.comp ?_ (State.countRows_frame _ _ _ _) rfl
  refine Frame.comp ?_ (State.setArr_frame _ _ _) rfl
  exact Frame.refl
  refine Frame.comp ?_ (State.endAct_frame _ _) rfl
  split
  refine Frame.comp ?_ (State.setArr_frame _ _ _) rfl
  refine Frame.comp ?_ (State.countRows_frame _ _ _ _) rfl
  refine Frame.comp ?_ (State.setArr_frame _ _ _) rfl
  exact Frame.refl
  refine Frame.comp ?_ (State.countRows_frame _ _ _ _) rfl
  refine Frame.comp ?_ (State.setArr_frame _ _ _) rfl
  exact Frame.refl

theorem State.sweepDue_frame (s : State) (k : Nat) : Frame [.uk] s (s.sweepDue k) := by
  unfold State.sweepDue
  dsimp only
  split
  refine Frame.comp ?_ (State.queueOn_frame _ _ _ _ _ _) rfl
  exact Frame.refl
  exact Frame.refl

theorem State.sweepEnd_frame (s : State) (ident : Nat) (meas : List (Nat × Nat × Int)) : Frame [.hg, .ld, .irq, .pcie,
    .im, .af, .uk, .fab, .ctrs, .out] s (s.sweepEnd ident meas) := by
  unfold State.sweepEnd
  split
  exact Frame.refl
  dsimp only
  refine Frame.comp ?_ (State.endAct_frame _ _) rfl
  split
  split
  refine Frame.comp ?_ (State.setArr_frame _ _ _) rfl
  exact Frame.refl
  split
  refine Frame.comp ?_ (State.setAct_frame _ _) rfl
  refine Frame.comp ?_ (State.setArr_frame _ _ _) rfl
  exact Frame.refl
  refine Frame.comp ?_ (State.queueOn_frame _ _ _ _ _ _) rfl
  refine Frame.comp ?_ (State.setArr_frame _ _ _) rfl
  exact Frame.refl
  split
  refine Frame.comp ?_ (State.setArr_frame _ _ _) rfl
  exact Frame.refl
  split
  refine Frame.comp ?_ (State.setAct_frame _ _) rfl
  refine Frame.comp ?_ (State.setArr_frame _ _ _) rfl
  exact Frame.refl
  refine Frame.comp ?_ (State.queueOn_frame _ _ _ _ _ _) rfl
  refine Frame.comp ?_ (State.setArr_frame _ _ _) rfl
  exact Frame.refl

theorem State.transitionStart_frame (s : State) (k : Nat) : Frame [.hg, .im, .af, .uk, .ctrs] s (s.transitionStart k) := by
  unfold State.transitionStart
  split
  exact Frame.refl
  dsimp only
  split
  split
  exact Frame.refl
  split
  exact Frame.refl
  refine Frame.comp ?_ (State.startAct_frame _ _) rfl
  refine Frame.comp ?_ (State.setArr_frame _ _ _) rfl
  exact Frame.refl
  exact Frame.refl

theorem State.transitionWindow_frame (s : State) (a : Activity) (cells : List (Nat × Nat × List Int)) : Frame [.ms, .hg,
    .ham, .ld, .irq, .pcie, .im, .af, .uk, .xe, .fab, .ctrs, .out] s (s.transitionWindow a cells) := by
  unfold State.transitionWindow
  dsimp only
  split
  split
  refine Frame.comp ?_ (State.settleAll_frame _) rfl
  refine Frame.comp ?_ (State.wear_frame _ _) rfl
  refine Frame.comp ?_ (State.endAct_frame _ _) rfl
  refine Frame.comp ?_ (State.setArr_frame _ _ _) rfl
  refine Frame.comp ?_ (State.setArr_frame _ _ _) rfl
  refine Frame.comp ?_ (State.columnsFail_frame _ _ _ _) rfl
  refine Frame.comp ?_ (State.countRows_frame _ _ _ _) rfl
  refine Frame.comp ?_ (State.setArr_frame _ _ _) rfl
  refine Frame.comp ?_ (State.imageRows_frame _ _ _ _ _) rfl
  exact Frame.refl
  refine Frame.comp ?_ (State.wear_frame _ _) rfl
  refine Frame.comp ?_ (State.setAct_frame _ _) rfl
  refine Frame.comp ?_ (State.closureEnds_frame _ _) rfl
  refine Frame.comp ?_ (State.columnsFail_frame _ _ _ _) rfl
  refine Frame.comp ?_ (State.countRows_frame _ _ _ _) rfl
  refine Frame.comp ?_ (State.setArr_frame _ _ _) rfl
  refine Frame.comp ?_ (State.imageRows_frame _ _ _ _ _) rfl
  exact Frame.refl
  refine Frame.comp ?_ (State.endAct_frame _ _) rfl
  exact Frame.refl

theorem State.windowEnd_frame (s : State) (ident : Nat) (cells : List (Nat × Nat × List Int)) : Frame [.ms, .hg, .ham,
    .ld, .irq, .pcie, .im, .af, .uk, .xe, .fab, .ctrs, .out] s (s.windowEnd ident cells) := by
  unfold State.windowEnd
  split
  exact Frame.refl
  split
  refine Frame.comp ?_ (State.endAct_frame _ _) rfl
  exact Frame.refl
  dsimp only
  split
  refine Frame.comp ?_ (State.transitionWindow_frame _ _ _) rfl
  refine Frame.comp ?_ (State.evtU_frame _ _ _) rfl
  refine Frame.comp ?_ (State.bump_frame _ _ _) rfl
  exact Frame.refl
  refine Frame.comp ?_ (State.spareWindow_frame _ _ _ _ _ _) rfl
  refine Frame.comp ?_ (State.evtU_frame _ _ _) rfl
  refine Frame.comp ?_ (State.bump_frame _ _ _) rfl
  exact Frame.refl
  refine Frame.comp ?_ (State.refreshWindow_frame _ _ _) rfl
  refine Frame.comp ?_ (State.evtU_frame _ _ _) rfl
  refine Frame.comp ?_ (State.bump_frame _ _ _) rfl
  exact Frame.refl

theorem execActivityAging_frame (ident : Nat) (s : State) : ∃ t, execActivityAging ident s = .next t ∧ Frame [.uk] s t := by
  refine ⟨_, rfl, ?_⟩
  refine Frame.comp ?_ (State.aging_frame _ _) rfl
  exact Frame.refl

theorem execAlmanacClaimGrant_frame (ident : Nat) (s : State) : ∃ t, execAlmanacClaimGrant ident s = .next t ∧ Frame [.ms,
    .hg, .ham, .ld, .irq, .pcie, .im, .af, .uk, .xe, .fab, .ctrs, .out] s t := by
  refine ⟨_, rfl, ?_⟩
  refine Frame.comp ?_ (State.claimGrant_frame _ _) rfl
  exact Frame.refl

theorem execArrayProgrammingEnd_frame (ident : Nat) (cells : List (Nat × Nat × List Int)) (s : State) : ∃ t,
    execArrayProgrammingEnd ident cells s = .next t ∧ Frame [.ms, .hg, .ham, .ld, .irq, .pcie, .im, .af, .uk, .xe, .fab,
    .ctrs, .free, .out] s t := by
  refine ⟨_, rfl, ?_⟩
  refine Frame.comp ?_ (State.programEnd_frame _ _ _) rfl
  exact Frame.refl

theorem execConverterPeriodDue_frame (x : BankId) (s : State) : ∃ t, execConverterPeriodDue x s = .next t ∧ Frame [.uk] s
    t := by
  refine ⟨_, rfl, ?_⟩
  refine Frame.comp ?_ (State.convDue_frame _ _) rfl
  exact Frame.refl

theorem execGainClosureDue_frame (x : ArrayId) (s : State) : ∃ t, execGainClosureDue x s = .next t ∧ Frame [.uk] s t := by
  refine ⟨_, rfl, ?_⟩
  refine Frame.comp ?_ (State.gainDue_frame _ _) rfl
  exact Frame.refl

theorem execGainClosureEnd_frame (ident : Nat) (s : State) : ∃ t, execGainClosureEnd ident s = .next t ∧ Frame [.hg, .ld,
    .irq, .pcie, .im, .af, .uk, .fab, .ctrs, .free, .out] s t := by
  refine ⟨_, rfl, ?_⟩
  refine Frame.comp ?_ (State.gainEnd_frame _ _) rfl
  exact Frame.refl

theorem execLinePeriodDue_frame (x : ArrayId) (s : State) : ∃ t, execLinePeriodDue x s = .next t ∧ Frame [.uk] s t := by
  refine ⟨_, rfl, ?_⟩
  refine Frame.comp ?_ (State.lineDue_frame _ _) rfl
  exact Frame.refl

theorem execLineTestEnd_frame (ident : Nat) (up down : List (Nat × Nat)) (s : State) : ∃ t, execLineTestEnd ident up down
    s = .next t ∧ Frame [.ms, .hg, .ham, .ld, .irq, .pcie, .im, .af, .uk, .xe, .fab, .ctrs, .out] s t := by
  refine ⟨_, rfl, ?_⟩
  refine Frame.comp ?_ (State.lineEnd__frame _ _ _) rfl
  exact Frame.refl

theorem execMaintConvcal_frame (q : Nat) (s : State) : ∃ t, execMaintConvcal q s = .next t ∧ Frame [.ms, .hg, .ham, .ld,
    .irq, .pcie, .im, .uk, .xe, .fab, .ctrs, .free, .out] s t := by
  refine ⟨_, rfl, ?_⟩
  refine Frame.comp ?_ (State.runMaint_frame _ _ _ _ _ _ _) rfl
  exact Frame.refl

theorem execMaintGaincal_frame (q : Nat) (s : State) : ∃ t, execMaintGaincal q s = .next t ∧ Frame [.ms, .hg, .ham, .ld,
    .irq, .pcie, .im, .uk, .xe, .fab, .ctrs, .free, .out] s t := by
  refine ⟨_, rfl, ?_⟩
  refine Frame.comp ?_ (State.runMaint_frame _ _ _ _ _ _ _) rfl
  exact Frame.refl

theorem execMaintLinetest_frame (q : Nat) (s : State) : ∃ t, execMaintLinetest q s = .next t ∧ Frame [.ms, .hg, .ham, .ld,
    .irq, .pcie, .im, .uk, .xe, .fab, .ctrs, .free, .out] s t := by
  refine ⟨_, rfl, ?_⟩
  refine Frame.comp ?_ (State.runMaint_frame _ _ _ _ _ _ _) rfl
  exact Frame.refl

theorem execMaintSelfcal_frame (q : Nat) (s : State) : ∃ t, execMaintSelfcal q s = .next t ∧ Frame [.ms, .hg, .ham, .ld,
    .irq, .pcie, .im, .uk, .xe, .fab, .ctrs, .free, .out] s t := by
  refine ⟨_, rfl, ?_⟩
  refine Frame.comp ?_ (State.runMaint_frame _ _ _ _ _ _ _) rfl
  exact Frame.refl

theorem execMaintSweep_frame (q : Nat) (s : State) : ∃ t, execMaintSweep q s = .next t ∧ Frame [.ms, .hg, .ham, .ld, .irq,
    .pcie, .im, .uk, .xe, .fab, .ctrs, .free, .out] s t := by
  refine ⟨_, rfl, ?_⟩
  refine Frame.comp ?_ (State.runMaint_frame _ _ _ _ _ _ _) rfl
  exact Frame.refl

theorem execRailStepEnd_frame (ident : Nat) (s : State) : ∃ t, execRailStepEnd ident s = .next t ∧ Frame [.hg, .ld, .irq,
    .pcie, .im, .af, .uk, .fab, .ctrs, .out] s t := by
  refine ⟨_, rfl, ?_⟩
  refine Frame.comp ?_ (State.railEnd_frame _ _) rfl
  exact Frame.refl

theorem execSelfCalibrationEnd_frame (ident : Nat) (hits : List (Nat × Nat × List Nat)) (s : State) : ∃ t,
    execSelfCalibrationEnd ident hits s = .next t ∧ Frame [.ms, .hg, .ham, .ld, .irq, .pcie, .im, .af, .uk, .xe, .fab, .ctrs,
    .out] s t := by
  refine ⟨_, rfl, ?_⟩
  refine Frame.comp ?_ (State.selfCalEnd_frame _ _ _) rfl
  exact Frame.refl

theorem execSweepPeriodDue_frame (x : ArrayId) (s : State) : ∃ t, execSweepPeriodDue x s = .next t ∧ Frame [.uk] s t := by
  refine ⟨_, rfl, ?_⟩
  refine Frame.comp ?_ (State.sweepDue_frame _ _) rfl
  exact Frame.refl

theorem execTransitionStart_frame (x : ArrayId) (s : State) : ∃ t, execTransitionStart x s = .next t ∧ Frame [.hg, .im,
    .af, .uk, .ctrs] s t := by
  refine ⟨_, rfl, ?_⟩
  refine Frame.comp ?_ (State.transitionStart_frame _ _) rfl
  exact Frame.refl

theorem execVerifySweepEnd_frame (ident : Nat) (meas : List (Nat × Nat × Int)) (s : State) : ∃ t, execVerifySweepEnd ident
    meas s = .next t ∧ Frame [.hg, .ld, .irq, .pcie, .im, .af, .uk, .fab, .ctrs, .out] s t := by
  refine ⟨_, rfl, ?_⟩
  refine Frame.comp ?_ (State.sweepEnd_frame _ _ _) rfl
  exact Frame.refl

theorem execWriteWindowEnd_frame (ident : Nat) (cells : List (Nat × Nat × List Int)) (s : State) : ∃ t, execWriteWindowEnd
    ident cells s = .next t ∧ Frame [.ms, .hg, .ham, .ld, .irq, .pcie, .im, .af, .uk, .xe, .fab, .ctrs, .out] s t := by
  refine ⟨_, rfl, ?_⟩
  refine Frame.comp ?_ (State.windowEnd_frame _ _ _) rfl
  exact Frame.refl

theorem State.setFails_frame (s : State) (q : Nat) (key : List Nat) (u0 : UnitId) (n : Nat) : Frame [.im] s (s.setFails q
    key u0 n) := by
  unfold State.setFails
  dsimp only
  refine Frame.upd ?_
  exact Frame.refl

theorem State.recordJournal_frame (s : State) (c : Cmd) : Frame [.ld, .irq, .pcie, .im, .fab, .ctrs, .out] s
    (s.recordJournal c) := by
  unfold State.recordJournal
  split
  refine Frame.comp ?_ (State.cper_frame _ _) rfl
  exact Frame.refl
  exact Frame.refl

theorem State.markRetired_frame (s : State) (q : Nat) : Frame [.hg] s (s.markRetired q) := by
  unfold State.markRetired
  refine Frame.comp ?_ (State.updCmd_frame _ _ _) rfl
  exact Frame.refl

theorem State.checkFailed_frame (s : State) (c : Cmd) (q : Nat) (key : List Nat) (u0 : UnitId) (mech syn ctr : Nat) :
    Frame [.ms, .hg, .ham, .ld, .irq, .pcie, .im, .af, .uk, .xe, .fab, .ctrs, .free, .out] s (s.checkFailed c q key u0 mech
    syn ctr) := by
  unfold State.checkFailed
  dsimp only
  split
  refine Frame.foldl (fun _ _ => ?_) _ ?_
  refine Frame.comp ?_ (State.failCmd_frame _ _ _ _) rfl
  exact Frame.refl
  refine Frame.comp ?_ (State.recordJournal_frame _ _) rfl
  refine Frame.comp ?_ (State.readJournal_frame _) rfl
  refine Frame.comp ?_ (State.countError_frame _ _ _ _ _ _ _) rfl
  refine Frame.comp ?_ (State.bump_frame _ _ _) rfl
  refine Frame.comp ?_ (State.setFails_frame _ _ _ _ _) rfl
  exact Frame.refl
  split
  split
  refine Frame.comp ?_ (State.markIncomplete_frame _ _) rfl
  split
  refine Frame.comp ?_ (State.markRetired_frame _ _) rfl
  split
  refine Frame.comp ?_ (State.readJournal_frame _) rfl
  refine Frame.comp ?_ (State.countError_frame _ _ _ _ _ _ _) rfl
  refine Frame.comp ?_ (State.bump_frame _ _ _) rfl
  refine Frame.comp ?_ (State.setFails_frame _ _ _ _ _) rfl
  exact Frame.refl
  refine Frame.comp ?_ (State.taint_frame _ _) rfl
  refine Frame.comp ?_ (State.readJournal_frame _) rfl
  refine Frame.comp ?_ (State.countError_frame _ _ _ _ _ _ _) rfl
  refine Frame.comp ?_ (State.bump_frame _ _ _) rfl
  refine Frame.comp ?_ (State.setFails_frame _ _ _ _ _) rfl
  exact Frame.refl
  split
  refine Frame.comp ?_ (State.readJournal_frame _) rfl
  refine Frame.comp ?_ (State.countError_frame _ _ _ _ _ _ _) rfl
  refine Frame.comp ?_ (State.bump_frame _ _ _) rfl
  refine Frame.comp ?_ (State.setFails_frame _ _ _ _ _) rfl
  exact Frame.refl
  refine Frame.comp ?_ (State.taint_frame _ _) rfl
  refine Frame.comp ?_ (State.readJournal_frame _) rfl
  refine Frame.comp ?_ (State.countError_frame _ _ _ _ _ _ _) rfl
  refine Frame.comp ?_ (State.bump_frame _ _ _) rfl
  refine Frame.comp ?_ (State.setFails_frame _ _ _ _ _) rfl
  exact Frame.refl
  split
  refine Frame.comp ?_ (State.markRetired_frame _ _) rfl
  split
  refine Frame.comp ?_ (State.readJournal_frame _) rfl
  refine Frame.comp ?_ (State.countError_frame _ _ _ _ _ _ _) rfl
  refine Frame.comp ?_ (State.bump_frame _ _ _) rfl
  refine Frame.comp ?_ (State.setFails_frame _ _ _ _ _) rfl
  exact Frame.refl
  refine Frame.comp ?_ (State.taint_frame _ _) rfl
  refine Frame.comp ?_ (State.readJournal_frame _) rfl
  refine Frame.comp ?_ (State.countError_frame _ _ _ _ _ _ _) rfl
  refine Frame.comp ?_ (State.bump_frame _ _ _) rfl
  refine Frame.comp ?_ (State.setFails_frame _ _ _ _ _) rfl
  exact Frame.refl
  split
  refine Frame.comp ?_ (State.readJournal_frame _) rfl
  refine Frame.comp ?_ (State.countError_frame _ _ _ _ _ _ _) rfl
  refine Frame.comp ?_ (State.bump_frame _ _ _) rfl
  refine Frame.comp ?_ (State.setFails_frame _ _ _ _ _) rfl
  exact Frame.refl
  refine Frame.comp ?_ (State.taint_frame _ _) rfl
  refine Frame.comp ?_ (State.readJournal_frame _) rfl
  refine Frame.comp ?_ (State.countError_frame _ _ _ _ _ _ _) rfl
  refine Frame.comp ?_ (State.bump_frame _ _ _) rfl
  refine Frame.comp ?_ (State.setFails_frame _ _ _ _ _) rfl
  exact Frame.refl
  split
  refine Frame.comp ?_ (State.markRetired_frame _ _) rfl
  split
  refine Frame.comp ?_ (State.readJournal_frame _) rfl
  refine Frame.comp ?_ (State.countError_frame _ _ _ _ _ _ _) rfl
  refine Frame.comp ?_ (State.bump_frame _ _ _) rfl
  refine Frame.comp ?_ (State.setFails_frame _ _ _ _ _) rfl
  exact Frame.refl
  refine Frame.comp ?_ (State.taint_frame _ _) rfl
  refine Frame.comp ?_ (State.readJournal_frame _) rfl
  refine Frame.comp ?_ (State.countError_frame _ _ _ _ _ _ _) rfl
  refine Frame.comp ?_ (State.bump_frame _ _ _) rfl
  refine Frame.comp ?_ (State.setFails_frame _ _ _ _ _) rfl
  exact Frame.refl
  split
  refine Frame.comp ?_ (State.readJournal_frame _) rfl
  refine Frame.comp ?_ (State.countError_frame _ _ _ _ _ _ _) rfl
  refine Frame.comp ?_ (State.bump_frame _ _ _) rfl
  refine Frame.comp ?_ (State.setFails_frame _ _ _ _ _) rfl
  exact Frame.refl
  refine Frame.comp ?_ (State.taint_frame _ _) rfl
  refine Frame.comp ?_ (State.readJournal_frame _) rfl
  refine Frame.comp ?_ (State.countError_frame _ _ _ _ _ _ _) rfl
  refine Frame.comp ?_ (State.bump_frame _ _ _) rfl
  refine Frame.comp ?_ (State.setFails_frame _ _ _ _ _) rfl
  exact Frame.refl

theorem State.checkPassed_frame (s : State) (q : Nat) (key : List Nat) : Frame [.hg, .im] s (s.checkPassed q key) := by
  unfold State.checkPassed
  refine Frame.comp ?_ (State.updCmd_frame _ _ _) rfl
  refine Frame.upd ?_
  exact Frame.refl

theorem State.checksumEnd_frame (s : State) (q i : Nat) : Frame [.ms, .hg, .ham, .ld, .irq, .pcie, .im, .af, .uk, .xe,
    .fab, .ctrs, .free, .out] s (s.checksumEnd q i) := by
  unfold State.checksumEnd
  split
  split
  exact Frame.refl
  dsimp only
  refine Frame.comp ?_ (State.settleAll_frame _) rfl
  split
  refine Frame.comp ?_ (State.checkPassed_frame _ _ _) rfl
  refine Frame.comp ?_ (State.setRead_frame _ _) rfl
  exact Frame.refl
  refine Frame.comp ?_ (State.spannedEnd_frame _ _ _) rfl
  refine Frame.comp ?_ (State.setRead_frame _ _) rfl
  exact Frame.refl
  refine Frame.comp ?_ (State.checkFailed_frame _ _ _ _ _ _ _ _) rfl
  refine Frame.upd ?_
  refine Frame.comp ?_ (State.setRead_frame _ _) rfl
  exact Frame.refl
  refine Frame.comp ?_ (State.spannedEnd_frame _ _ _) rfl
  refine Frame.comp ?_ (State.countError_frame _ _ _ _ _ _ _) rfl
  refine Frame.comp ?_ (State.bump_frame _ _ _) rfl
  refine Frame.upd ?_
  refine Frame.comp ?_ (State.setRead_frame _ _) rfl
  exact Frame.refl
  exact Frame.refl

theorem State.closeStep_frame (s : State) (n outcome : Nat) : Frame [.ms, .hg, .ham, .ld, .irq, .pcie, .im, .af, .uk, .xe,
    .fab, .ctrs, .free, .out] s (s.closeStep n outcome) := by
  unfold State.closeStep
  dsimp only
  refine Frame.comp ?_ (State.settleAll_frame _) rfl
  refine Frame.comp ?_ (State.admitWaiting_frame _) rfl
  refine Frame.upd ?_
  refine Frame.comp ?_ (State.releaseStep_frame _ _) rfl
  exact Frame.refl

theorem State.flipErrors_frame (s : State) (n : Nat) : Frame [.ms, .hg, .ld, .irq, .pcie, .im, .fab, .ctrs, .out] s
    (s.flipErrors n) := by
  unfold State.flipErrors
  refine Frame.foldl (fun _ _ => ?_) _ ?_
  dsimp only
  refine Frame.comp ?_ (State.wrNat_frame _ _ _ _) rfl
  refine Frame.comp ?_ (State.wr_frame _ _ _) rfl
  exact Frame.refl
  exact Frame.refl

theorem State.commitFence_frame (s : State) (n : Nat) : Frame [.ms, .hg, .ham, .ld, .irq, .pcie, .im, .af, .uk, .xe, .fab,
    .ctrs, .free, .out] s (s.commitFence n) := by
  unfold State.commitFence
  split
  exact Frame.refl
  split
  refine Frame.comp ?_ (State.closeStep_frame _ _ _) rfl
  refine Frame.comp ?_ (State.markStep_frame _ _ _) rfl
  exact Frame.refl
  refine Frame.comp ?_ (State.closeStep_frame _ _ _) rfl
  refine Frame.comp ?_ (State.markStep_frame _ _ _) rfl
  refine Frame.comp ?_ (State.flipErrors_frame _ _) rfl
  exact Frame.refl

theorem State.dropRun_frame (s : State) (q : Nat) : Frame [.hg, .mv, .mc, .af, .uk, .xe] s (s.dropRun q) := by
  unfold State.dropRun
  dsimp only
  refine Frame.upd ?_
  exact Frame.refl

theorem State.reopenIncomplete_frame (s : State) (n : Nat) : Frame [.hg, .ham, .ld, .irq, .pcie, .xe, .fab, .out] s
    (s.reopenIncomplete n) := by
  unfold State.reopenIncomplete
  refine Frame.comp ?_ (State.markIncomplete_frame _ _) rfl
  refine Frame.comp ?_ (State.setStep_frame _ _ _) rfl
  exact Frame.refl

theorem State.updtFails_frame (s : State) (c : Cmd) (q : Nat) (key : List Nat) (u0 : UnitId) (syn : Nat) : Frame [.ms,
    .hg, .ham, .ld, .irq, .pcie, .im, .af, .uk, .xe, .fab, .ctrs, .out] s (s.updtFails c q key u0 syn) := by
  unfold State.updtFails
  dsimp only
  split
  split
  refine Frame.comp ?_ (State.reopenIncomplete_frame _ _) rfl
  refine Frame.comp ?_ (State.countError_frame _ _ _ _ _ _ _) rfl
  refine Frame.comp ?_ (State.bump_frame _ _ _) rfl
  refine Frame.comp ?_ (State.setFails_frame _ _ _ _ _) rfl
  exact Frame.refl
  refine Frame.comp ?_ (State.countError_frame _ _ _ _ _ _ _) rfl
  refine Frame.comp ?_ (State.bump_frame _ _ _) rfl
  refine Frame.comp ?_ (State.setFails_frame _ _ _ _ _) rfl
  exact Frame.refl
  refine Frame.comp ?_ (State.countError_frame _ _ _ _ _ _ _) rfl
  refine Frame.comp ?_ (State.bump_frame _ _ _) rfl
  refine Frame.comp ?_ (State.setFails_frame _ _ _ _ _) rfl
  exact Frame.refl

theorem State.operationChecked_frame (s : State) (q idx elem : Nat) (ok : Bool) (die engine syn : Nat) : Frame [.ms, .hg,
    .ham, .ld, .irq, .pcie, .im, .mc, .af, .uk, .xe, .fab, .ctrs, .free, .out] s (s.operationChecked q idx elem ok die engine
    syn) := by
  unfold State.operationChecked
  split
  dsimp only
  split
  split
  refine Frame.comp ?_ (State.updtWrite_frame _ _ _) rfl
  refine Frame.comp ?_ (State.checkPassed_frame _ _ _) rfl
  refine Frame.upd ?_
  exact Frame.refl
  refine Frame.comp ?_ (State.checkPassed_frame _ _ _) rfl
  refine Frame.upd ?_
  exact Frame.refl
  split
  refine Frame.comp ?_ (State.updtFails_frame _ _ _ _ _ _) rfl
  exact Frame.refl
  refine Frame.comp ?_ (State.checkFailed_frame _ _ _ _ _ _ _ _) rfl
  refine Frame.upd ?_
  exact Frame.refl
  exact Frame.refl

theorem State.repairStart_frame (s0 : State) (q : Nat) : Frame [.ms, .hg, .mv, .ham, .ld, .irq, .pcie, .im, .mc, .af, .uk,
    .xe, .fab, .ctrs, .out] s0 (s0.repairStart q) := by
  unfold State.repairStart
  dsimp only
  split
  refine Frame.comp ?_ (State.readJournal_frame _) rfl
  exact Frame.refl
  split
  refine Frame.comp ?_ (State.readJournal_frame _) rfl
  exact Frame.refl
  split
  refine Frame.comp ?_ (State.updCmd_frame _ _ _) rfl
  refine Frame.comp ?_ (State.readJournal_frame _) rfl
  exact Frame.refl
  split
  refine Frame.comp ?_ (State.failCmd_frame _ _ _ _) rfl
  refine Frame.comp ?_ (State.recordJournal_frame _ _) rfl
  refine Frame.comp ?_ (State.readJournal_frame _) rfl
  exact Frame.refl
  refine Frame.comp ?_ (State.updCmd_frame _ _ _) rfl
  refine Frame.comp ?_ (State.dropRun_frame _ _) rfl
  refine Frame.comp ?_ (State.readJournal_frame _) rfl
  exact Frame.refl

theorem State.resolutionChecked_frame (s : State) (q i : Nat) (fault : Option CheckFault) : Frame [.ms, .hg, .ham, .ld,
    .irq, .pcie, .im, .af, .uk, .xe, .fab, .ctrs, .free, .out] s (s.resolutionChecked q i fault) := by
  unfold State.resolutionChecked
  split
  split
  exact Frame.refl
  dsimp only
  refine Frame.comp ?_ (State.settleAll_frame _) rfl
  split
  refine Frame.comp ?_ (State.checkPassed_frame _ _ _) rfl
  refine Frame.comp ?_ (State.setRead_frame _ _) rfl
  exact Frame.refl
  refine Frame.comp ?_ (State.spannedEnd_frame _ _ _) rfl
  refine Frame.comp ?_ (State.setRead_frame _ _) rfl
  exact Frame.refl
  refine Frame.comp ?_ (State.checkFailed_frame _ _ _ _ _ _ _ _) rfl
  refine Frame.comp ?_ (State.setRead_frame _ _) rfl
  exact Frame.refl
  refine Frame.comp ?_ (State.spannedEnd_frame _ _ _) rfl
  refine Frame.comp ?_ (State.countError_frame _ _ _ _ _ _ _) rfl
  refine Frame.comp ?_ (State.bump_frame _ _ _) rfl
  refine Frame.comp ?_ (State.setRead_frame _ _) rfl
  exact Frame.refl
  exact Frame.refl

theorem State.tileChecked_frame (s : State) (q i : Nat) (fault : Option CheckFault) : Frame [.ms, .hg, .ham, .ld, .irq,
    .pcie, .im, .mc, .af, .uk, .xe, .fab, .ctrs, .free, .out] s (s.tileChecked q i fault) := by
  unfold State.tileChecked
  split
  split
  exact Frame.refl
  dsimp only
  split
  refine Frame.comp ?_ (State.checkPassed_frame _ _ _) rfl
  refine Frame.comp ?_ (State.setTile_frame _ _) rfl
  exact Frame.refl
  refine Frame.comp ?_ (State.checkFailed_frame _ _ _ _ _ _ _ _) rfl
  refine Frame.comp ?_ (State.setTile_frame _ _) rfl
  exact Frame.refl
  exact Frame.refl

theorem State.toNominal_frame (s : State) (u0 : NominalUnit) : Frame [.ld, .irq, .pcie, .im, .uk, .fab, .ctrs, .out] s
    (s.toNominal u0) := by
  unfold State.toNominal
  split
  dsimp only
  split
  exact Frame.refl
  refine Frame.comp ?_ (State.cper_frame _ _) rfl
  refine Frame.upd ?_
  exact Frame.refl
  dsimp only
  split
  exact Frame.refl
  refine Frame.comp ?_ (State.queueAct_frame _ _ _ _ _ _ _) rfl
  exact Frame.refl

theorem execChecksumTestComplete_frame (q r : Nat) (s : State) : ∃ t, execChecksumTestComplete q r s = .next t ∧ Frame
    [.ms, .hg, .ham, .ld, .irq, .pcie, .im, .af, .uk, .xe, .fab, .ctrs, .free, .out] s t := by
  refine ⟨_, rfl, ?_⟩
  refine Frame.comp ?_ (State.checksumEnd_frame _ _ _) rfl
  exact Frame.refl

theorem execCommitFence_frame (n : Nat) (s : State) : ∃ t, execCommitFence n s = .next t ∧ Frame [.ms, .hg, .ham, .ld,
    .irq, .pcie, .im, .af, .uk, .xe, .fab, .ctrs, .free, .out] s t := by
  refine ⟨_, rfl, ?_⟩
  refine Frame.comp ?_ (State.commitFence_frame _ _) rfl
  exact Frame.refl

theorem execOperationResidueCheck_frame (q : Nat) (check : CheckId) (ok : Bool) (engine : EngineId) (predicted observed :
    Fin 256) (s : State) : ∃ t, execOperationResidueCheck q check ok engine predicted observed s = .next t ∧ Frame [.ms, .hg,
    .ham, .ld, .irq, .pcie, .im, .mc, .af, .uk, .xe, .fab, .ctrs, .free, .out] s t := by
  refine ⟨_, rfl, ?_⟩
  refine Frame.comp ?_ (State.operationChecked_frame _ _ _ _ _ _ _ _) rfl
  exact Frame.refl

theorem execRepairReplayStart_frame (q : Nat) (s : State) : ∃ t, execRepairReplayStart q s = .next t ∧ Frame [.ms, .hg,
    .mv, .ham, .ld, .irq, .pcie, .im, .mc, .af, .uk, .xe, .fab, .ctrs, .out] s t := by
  refine ⟨_, rfl, ?_⟩
  refine Frame.comp ?_ (State.repairStart_frame _ _) rfl
  exact Frame.refl

theorem execReturnToNominal_frame (u0 : NominalUnit) (s : State) : ∃ t, execReturnToNominal u0 s = .next t ∧ Frame [.ld,
    .irq, .pcie, .im, .uk, .fab, .ctrs, .out] s t := by
  refine ⟨_, rfl, ?_⟩
  refine Frame.comp ?_ (State.toNominal_frame _ _) rfl
  exact Frame.refl

theorem execTileCheckComplete_frame (q idx : Nat) (ok : Bool) (core : Fin 66) (check : Fin 4) (place : CheckPlace)
    (observed : Fin 255) (s : State) : ∃ t, execTileCheckComplete q idx ok core check place observed s = .next t ∧ Frame [.ms,
    .hg, .ham, .ld, .irq, .pcie, .im, .mc, .af, .uk, .xe, .fab, .ctrs, .free, .out] s t := by
  refine ⟨_, rfl, ?_⟩
  split
  refine Frame.comp ?_ (State.tileChecked_frame _ _ _ _) rfl
  exact Frame.refl
  refine Frame.comp ?_ (State.resolutionChecked_frame _ _ _ _) rfl
  exact Frame.refl

end Sys2Proof.Machine
end

