-- ==== Sys2Proof/Laws/FrameExchange.lean ====
section
/-!
SUPPORT. The frame of each function of links and the exchange engine: which components of the state it may change, the queue of waiting
commands apart, and that it keeps the stored form of memory and registers. A lemma `execX_frame` says besides that the row
`X` answers a next state, whatever the state and the operands.
-/
namespace Sys2Proof.Machine

open Sys2Proof

set_option Elab.async false

theorem State.grantReq_frame (s : State) (r : ArbReq) : Frame [.fab, .out] s (s.grantReq r) := by
  unfold State.grantReq
  dsimp only
  refine Frame.comp ?_ (State.emit_frame _ _) rfl
  refine Frame.upd ?_
  exact Frame.refl

theorem State.grantOne_frame (s : State) (a : Nat) : Frame [.fab, .out] s (s.grantOne a) := by
  unfold State.grantOne
  split
  refine Frame.comp ?_ (State.grantReq_frame _ _) rfl
  exact Frame.refl
  split
  exact Frame.refl
  split
  exact Frame.refl
  refine Frame.comp ?_ (State.grantReq_frame _ _) rfl
  refine Frame.upd ?_
  exact Frame.refl

theorem State.arbCycle_frame (s : State) (a : Nat) : Frame [.fab, .out] s (s.arbCycle a) := by
  unfold State.arbCycle
  dsimp only
  refine Frame.upd ?_
  refine Frame.comp ?_ (State.grantOne_frame _ _) rfl
  exact Frame.refl

theorem State.arbCycles_frame (s : State) (a n : Nat) : Frame [.fab, .out] s (s.arbCycles a n) := by
  induction n generalizing s with
  | zero => exact Frame.refl
  | succ n ih =>
    unfold State.arbCycles
    refine Frame.comp ?_ (ih _) rfl
    refine Frame.comp ?_ (State.arbCycle_frame _ _) rfl
    exact Frame.refl

theorem State.setD2d_frame (s : State) (k : Nat) (x : D2DLink) : Frame [.fab] s (s.setD2d k x) := by
  unfold State.setD2d
  refine Frame.upd ?_
  exact Frame.refl

theorem State.d2dExhausted_frame (s : State) (x : D2D) (training : Bool) (cws : List Nat) : Frame [.ms, .ld, .irq, .pcie,
    .im, .fab, .ctrs, .out] s (s.d2dExhausted x training cws) := by
  unfold State.d2dExhausted
  dsimp only
  split
  exact Frame.refl
  split
  split
  exact Frame.refl
  refine Frame.comp ?_ (State.cper_frame _ _) rfl
  refine Frame.upd ?_
  refine Frame.comp ?_ (State.setD2d_frame _ _ _) rfl
  refine Frame.comp ?_ (State.setD2d_frame _ _ _) rfl
  exact Frame.refl
  split
  exact Frame.refl
  refine Frame.foldl (fun _ _ => ?_) _ ?_
  refine Frame.comp ?_ (State.setD2d_frame _ _ _) rfl
  exact Frame.refl
  refine Frame.foldl (fun _ _ => ?_) _ ?_
  refine Frame.comp ?_ (State.poisonCw_frame _ _) rfl
  exact Frame.refl
  exact Frame.refl

theorem State.d2dResend_frame (s : State) (x : D2D) (away : Bool) (vc seq : Nat) (bytes : List Byte) : Frame [.im, .fab,
    .ctrs, .out] s (s.d2dResend x away vc seq bytes) := by
  unfold State.d2dResend
  dsimp only
  split
  exact Frame.refl
  split
  split
  refine Frame.comp ?_ (State.setD2d_frame _ _ _) rfl
  split
  refine Frame.comp ?_ (State.noteError_frame _ _) rfl
  exact Frame.refl
  exact Frame.refl
  refine Frame.comp ?_ (State.emit_frame _ _) rfl
  refine Frame.comp ?_ (State.bump_frame _ _ _) rfl
  refine Frame.comp ?_ (State.setD2d_frame _ _ _) rfl
  split
  refine Frame.comp ?_ (State.noteError_frame _ _) rfl
  exact Frame.refl
  exact Frame.refl
  refine Frame.comp ?_ (State.setD2d_frame _ _ _) rfl
  split
  refine Frame.comp ?_ (State.noteError_frame _ _) rfl
  exact Frame.refl
  exact Frame.refl

theorem State.portChanged_frame (s old : State) (p : Nat) : Frame [.ld, .irq, .pcie, .fab, .out] s (s.portChanged old p) := by
  unfold State.portChanged
  split
  exact Frame.refl
  refine Frame.comp ?_ (State.arrive_frame _ _) rfl
  exact Frame.refl

theorem State.portEnd_frame (s : State) (p : Nat) (st : PortState) : Frame [.ld, .irq, .pcie, .fab, .out] s (s.portEnd p
    st) := by
  unfold State.portEnd
  dsimp only
  split
  refine Frame.comp ?_ (State.setFailed_frame _ _) rfl
  refine Frame.comp ?_ (State.portChanged_frame _ _ _) rfl
  refine Frame.comp ?_ (State.setPort_frame _ _ _) rfl
  exact Frame.refl
  refine Frame.comp ?_ (State.portChanged_frame _ _ _) rfl
  refine Frame.comp ?_ (State.setPort_frame _ _ _) rfl
  exact Frame.refl

theorem State.retrain_frame (s : State) (p : Nat) : Frame [.ld, .irq, .pcie, .xe, .fab, .ctrs, .out] s (s.retrain p) := by
  unfold State.retrain
  refine Frame.comp ?_ (State.portChanged_frame _ _ _) rfl
  refine Frame.comp ?_ (State.trainPort_frame _ _) rfl
  exact Frame.refl

theorem State.takeLane_frame (s : State) (p lane : Nat) : Frame [.ld, .irq, .pcie, .xe, .fab, .ctrs, .out] s (s.takeLane p
    lane) := by
  unfold State.takeLane
  dsimp only
  split
  refine Frame.comp ?_ (State.portEnd_frame _ _ _) rfl
  refine Frame.comp ?_ (State.setPort_frame _ _ _) rfl
  exact Frame.refl
  refine Frame.comp ?_ (State.retrain_frame _ _) rfl
  refine Frame.comp ?_ (State.setPort_frame _ _ _) rfl
  exact Frame.refl

theorem State.laneError_frame (s : State) (p lane : Nat) : Frame [.ld, .irq, .pcie, .im, .xe, .fab, .ctrs, .free, .out] s
    (s.laneError p lane) := by
  unfold State.laneError
  dsimp only
  split
  refine Frame.comp ?_ (State.noteError_frame _ _) rfl
  exact Frame.refl
  refine Frame.comp ?_ (State.takeLane_frame _ _ _) rfl
  refine Frame.comp ?_ (State.freeStep_frame _) rfl
  refine Frame.comp ?_ (State.cper_frame _ _) rfl
  refine Frame.comp ?_ (State.bump_frame _ _ _) rfl
  refine Frame.comp ?_ (State.noteError_frame _ _) rfl
  exact Frame.refl

theorem State.resendFlits_frame (s : State) (p : Nat) (l0 : List FlitTx) : Frame [.hg, .ctrs, .out] s (s.resendFlits p l0) := by
  unfold State.resendFlits
  refine Frame.comp ?_ (State.evtU_frame _ _ _) rfl
  refine Frame.comp ?_ (State.bump_frame _ _ _) rfl
  refine Frame.foldl (fun _ _ => ?_) _ ?_
  refine Frame.comp ?_ (State.sendFlit_frame _ _ _ _) rfl
  exact Frame.refl
  exact Frame.refl

theorem State.nakArrives_frame (s : State) (p ack : Nat) (lanes : List Nat) : Frame [.hg, .fab, .ctrs, .out] s
    (s.nakArrives p ack lanes) := by
  unfold State.nakArrives
  dsimp only
  split
  exact Frame.refl
  split
  refine Frame.comp ?_ (State.setPort_frame _ _ _) rfl
  exact Frame.refl
  refine Frame.comp ?_ (State.pump_frame _ _) rfl
  refine Frame.comp ?_ (State.resendFlits_frame _ _ _) rfl
  refine Frame.comp ?_ (State.setPort_frame _ _ _) rfl
  exact Frame.refl

theorem State.takeFlit_frame (s : State) (p : Nat) (raw : List Byte) : Frame [.hg, .ld, .irq, .pcie, .im, .xe, .fab,
    .ctrs, .free, .out] s (s.takeFlit p raw) := by
  unfold State.takeFlit
  dsimp only
  split
  exact Frame.refl
  split
  refine Frame.foldl (fun _ _ => ?_) _ ?_
  refine Frame.comp ?_ (State.laneError_frame _ _ _) rfl
  exact Frame.refl
  refine Frame.comp ?_ (State.sendFlit_frame _ _ _ _) rfl
  split
  split
  exact Frame.refl
  refine Frame.comp ?_ (State.freeStep_frame _) rfl
  refine Frame.comp ?_ (State.setPort_frame _ _ _) rfl
  exact Frame.refl
  refine Frame.comp ?_ (State.evtU_frame _ _ _) rfl
  refine Frame.comp ?_ (State.bump_frame _ _ _) rfl
  split
  exact Frame.refl
  refine Frame.comp ?_ (State.freeStep_frame _) rfl
  refine Frame.comp ?_ (State.setPort_frame _ _ _) rfl
  exact Frame.refl
  split
  refine Frame.comp ?_ (State.nakArrives_frame _ _ _ _) rfl
  refine Frame.comp ?_ (State.setPort_frame _ _ _) rfl
  split
  split
  exact Frame.refl
  refine Frame.comp ?_ (State.freeStep_frame _) rfl
  refine Frame.comp ?_ (State.setPort_frame _ _ _) rfl
  exact Frame.refl
  refine Frame.comp ?_ (State.evtU_frame _ _ _) rfl
  refine Frame.comp ?_ (State.bump_frame _ _ _) rfl
  split
  exact Frame.refl
  refine Frame.comp ?_ (State.freeStep_frame _) rfl
  refine Frame.comp ?_ (State.setPort_frame _ _ _) rfl
  exact Frame.refl
  refine Frame.comp ?_ (State.pump_frame _ _) rfl
  refine Frame.comp ?_ (State.setPort_frame _ _ _) rfl
  split
  split
  exact Frame.refl
  refine Frame.comp ?_ (State.freeStep_frame _) rfl
  refine Frame.comp ?_ (State.setPort_frame _ _ _) rfl
  exact Frame.refl
  refine Frame.comp ?_ (State.evtU_frame _ _ _) rfl
  refine Frame.comp ?_ (State.bump_frame _ _ _) rfl
  split
  exact Frame.refl
  refine Frame.comp ?_ (State.freeStep_frame _) rfl
  refine Frame.comp ?_ (State.setPort_frame _ _ _) rfl
  exact Frame.refl

theorem State.drainPorts_frame (s : State) : Frame [.hg, .ld, .irq, .pcie, .im, .xe, .fab, .ctrs, .free, .out] s
    (s.drainPorts) := by
  unfold State.drainPorts
  refine Frame.foldl (fun _ _ => ?_) _ ?_
  refine Frame.comp ?_ (State.pump_frame _ _) rfl
  refine Frame.foldl (fun _ _ => ?_) _ ?_
  refine Frame.comp ?_ (State.takeFlit_frame _ _ _) rfl
  exact Frame.refl
  refine Frame.comp ?_ (State.setPort_frame _ _ _) rfl
  exact Frame.refl
  exact Frame.refl

theorem State.flitArrives_frame (s : State) (p : Nat) (raw : List Byte) : Frame [.hg, .ld, .irq, .pcie, .im, .xe, .fab,
    .ctrs, .free, .out] s (s.flitArrives p raw) := by
  unfold State.flitArrives
  dsimp only
  split
  exact Frame.refl
  split
  refine Frame.comp ?_ (State.setPort_frame _ _ _) rfl
  refine Frame.comp ?_ (State.wakeA2_frame _ _) rfl
  exact Frame.refl
  refine Frame.comp ?_ (State.takeFlit_frame _ _ _) rfl
  refine Frame.comp ?_ (State.wakeA2_frame _ _) rfl
  exact Frame.refl

theorem State.portCtrlWrite_frame (s : State) (m : Master) (p v : Nat) (hp : p < 12) :
    Frame [.ld, .irq, .pcie, .xe, .fab, .regs, .ctrs, .out] s (s.portCtrlWrite m p v) := by
  have hr : regEntryOk (rPortCtrl p, BitVec.ofNat 64 (bitsOf v 31 1 * 2 ^ 31)) = true := rPortCtrl_ok hp v
  unfold State.portCtrlWrite
  split
  exact Frame.refl
  dsimp only
  split
  refine Frame.comp ?_ (State.portEnd_frame _ _ _) rfl
  refine Frame.comp ?_ (State.setReg_frame _ _ _ (by first | assumption | exact masked_ok (by assumption))) rfl
  exact Frame.refl
  split
  refine Frame.comp ?_ (State.retrain_frame _ _) rfl
  refine Frame.comp ?_ (State.clearFailed_frame _ _) rfl
  refine Frame.comp ?_ (State.setPort_frame _ _ _) rfl
  refine Frame.comp ?_ (State.setReg_frame _ _ _ (by first | assumption | exact masked_ok (by assumption))) rfl
  exact Frame.refl
  refine Frame.comp ?_ (State.setReg_frame _ _ _ (by first | assumption | exact masked_ok (by assumption))) rfl
  exact Frame.refl

theorem State.resendLimit_frame (s : State) (p : Nat) : Frame [.ld, .irq, .pcie, .xe, .fab, .ctrs, .out] s (s.resendLimit
    p) := by
  unfold State.resendLimit
  dsimp only
  split
  refine Frame.comp ?_ (State.takeLane_frame _ _ _) rfl
  refine Frame.comp ?_ (State.setPort_frame _ _ _) rfl
  exact Frame.refl
  exact Frame.refl

theorem State.serveAged_frame (s : State) (a n : Nat) : Frame [.fab, .out] s (s.serveAged a n) := by
  induction n generalizing s with
  | zero => exact Frame.refl
  | succ n ih =>
    unfold State.serveAged
    split
    exact Frame.refl
    refine Frame.comp ?_ (ih _) rfl
    refine Frame.comp ?_ (State.grantReq_frame _ _) rfl
    exact Frame.refl

theorem State.trainingEnds_frame (s : State) (p group rank port : Nat) (version : Bool) (digest good : Nat) : Frame [.hg,
    .ld, .irq, .pcie, .fab, .ctrs, .out] s (s.trainingEnds p group rank port version digest good) := by
  unfold State.trainingEnds
  dsimp only
  split
  exact Frame.refl
  split
  exact Frame.refl
  split
  refine Frame.comp ?_ (State.portChanged_frame _ _ _) rfl
  refine Frame.comp ?_ (State.setPort_frame _ _ _) rfl
  exact Frame.refl
  refine Frame.comp ?_ (State.pump_frame _ _) rfl
  refine Frame.comp ?_ (State.portChanged_frame _ _ _) rfl
  refine Frame.comp ?_ (State.resendFlits_frame _ _ _) rfl
  refine Frame.comp ?_ (State.setReady_frame _ _) rfl
  refine Frame.comp ?_ (State.setPort_frame _ _ _) rfl
  exact Frame.refl

theorem State.trainingFails_frame (s : State) (p k : Nat) : Frame [.ld, .irq, .pcie, .xe, .fab, .ctrs, .out] s
    (s.trainingFails p k) := by
  unfold State.trainingFails
  dsimp only
  split
  exact Frame.refl
  split
  refine Frame.comp ?_ (State.portEnd_frame _ _ _) rfl
  refine Frame.comp ?_ (State.setPort_frame _ _ _) rfl
  exact Frame.refl
  refine Frame.comp ?_ (State.retrain_frame _ _) rfl
  refine Frame.comp ?_ (State.setPort_frame _ _ _) rfl
  exact Frame.refl

theorem State.vcAging_frame (s : State) (p : Nat) : Frame [.fab, .out] s (s.vcAging p) := by
  unfold State.vcAging
  dsimp only
  refine Frame.comp ?_ (State.pump_frame _ _) rfl
  refine Frame.comp ?_ (State.setPort_frame _ _ _) rfl
  exact Frame.refl

theorem execArbiterAging_frame (arbiter : Nat) (x : ArbiterEvent) (s : State) : ∃ t, execArbiterAging arbiter x s = .next
    t ∧ Frame [.fab, .out] s t := by
  refine ⟨_, rfl, ?_⟩
  dsimp only
  refine Frame.comp ?_ (State.arbCycles_frame _ _ _) rfl
  refine Frame.comp ?_ (State.serveAged_frame _ _ _) rfl
  refine Frame.upd ?_
  exact Frame.refl

theorem execD2dFlitResend_frame (x : D2DWay) (flit : D2DArrival) (s : State) : ∃ t, execD2dFlitResend x flit s = .next t ∧
    Frame [.im, .fab, .ctrs, .out] s t := by
  refine ⟨_, rfl, ?_⟩
  refine Frame.comp ?_ (State.d2dResend_frame _ _ _ _ _ _) rfl
  exact Frame.refl

theorem execD2dResendExhausted_frame (x : D2D) (training : Bool) (cws : List Nat) (s : State) : ∃ t,
    execD2dResendExhausted x training cws s = .next t ∧ Frame [.ms, .ld, .irq, .pcie, .im, .fab, .ctrs, .out] s t := by
  refine ⟨_, rfl, ?_⟩
  refine Frame.comp ?_ (State.d2dExhausted_frame _ _ _ _) rfl
  exact Frame.refl

theorem execFlitReceive_frame (p : Fin 12) (bytes : List Byte) (s : State) : ∃ t, execFlitReceive p bytes s = .next t ∧
    Frame [.hg, .ld, .irq, .pcie, .im, .xe, .fab, .ctrs, .free, .out] s t := by
  refine ⟨_, rfl, ?_⟩
  refine Frame.comp ?_ (State.flitArrives_frame _ _ _) rfl
  exact Frame.refl

theorem execFlitResendLimit_frame (p : Fin 12) (s : State) : ∃ t, execFlitResendLimit p s = .next t ∧ Frame [.ld, .irq,
    .pcie, .xe, .fab, .ctrs, .out] s t := by
  refine ⟨_, rfl, ?_⟩
  refine Frame.comp ?_ (State.resendLimit_frame _ _) rfl
  exact Frame.refl

theorem execMessageForward_frame (p0 : Fin 12) (route : MsgRoute) (bytes : List Byte) (s : State) : ∃ t,
    execMessageForward p0 route bytes s = .next t ∧ Frame [.fab, .out] s t := by
  refine ⟨_, rfl, ?_⟩
  split
  exact Frame.refl
  refine Frame.comp ?_ (State.queueMsg_frame _ _ _ _ _) rfl
  exact Frame.refl

theorem execNakReceive_frame (p : Fin 12) (ack : Fin 65536) (lanes : List (Fin 8)) (s : State) : ∃ t, execNakReceive p ack
    lanes s = .next t ∧ Frame [.hg, .fab, .ctrs, .out] s t := by
  refine ⟨_, rfl, ?_⟩
  refine Frame.comp ?_ (State.nakArrives_frame _ _ _ _) rfl
  exact Frame.refl

theorem execPortRetrain_frame (m : Master) (p : Fin 12) (v : W32) (s : State) : ∃ t, execPortRetrain m p v s = .next t ∧
    Frame [.ld, .irq, .pcie, .xe, .fab, .regs, .ctrs, .out] s t := by
  refine ⟨_, rfl, ?_⟩
  dsimp only
  split
  refine Frame.comp ?_ (State.portCtrlWrite_frame _ _ _ _ (Fin.isLt _)) rfl
  refine Frame.comp ?_ (State.reachedBy_frame _ _) rfl
  exact Frame.refl
  refine Frame.comp ?_ (State.reachedBy_frame _ _) rfl
  exact Frame.refl

theorem execTrainingComplete_frame (p : Fin 12) (group rank port : Nat) (version : Bool) (digest : W64) (good : Fin 256)
    (s : State) : ∃ t, execTrainingComplete p group rank port version digest good s = .next t ∧ Frame [.hg, .ld, .irq, .pcie,
    .fab, .ctrs, .out] s t := by
  refine ⟨_, rfl, ?_⟩
  refine Frame.comp ?_ (State.trainingEnds_frame _ _ _ _ _ _ _ _) rfl
  exact Frame.refl

theorem execTrainingStepTimeout_frame (p : Fin 12) (step : Fin 7) (s : State) : ∃ t, execTrainingStepTimeout p step s =
    .next t ∧ Frame [.ld, .irq, .pcie, .xe, .fab, .ctrs, .out] s t := by
  refine ⟨_, rfl, ?_⟩
  refine Frame.comp ?_ (State.trainingFails_frame _ _ _) rfl
  exact Frame.refl

theorem execVcAging_frame (p : Fin 12) (s : State) : ∃ t, execVcAging p s = .next t ∧ Frame [.fab, .out] s t := by
  refine ⟨_, rfl, ?_⟩
  refine Frame.comp ?_ (State.vcAging_frame _ _) rfl
  exact Frame.refl

theorem State.addList_frame (s : State) (r n ident : Nat) (entries : List Byte) : Frame [.xe] s (s.addList r n ident
    entries) := by
  unfold State.addList
  refine Frame.upd ?_
  exact Frame.refl

theorem State.closePush_frame (s : State) (x : CloseX) (taken : List CloseMsg) (i a : Nat) : Frame [.ms, .hg, .ld, .irq,
    .pcie, .im, .fab, .ctrs, .out] s (s.closePush x taken i a) := by
  unfold State.closePush
  dsimp only
  split
  refine Frame.comp ?_ (State.putHist_frame _ _ _) rfl
  exact Frame.refl
  exact Frame.refl

theorem State.closeEnds_frame (s : State) (q : Nat) : Frame [.ms, .hg, .ld, .irq, .pcie, .im, .xe, .fab, .ctrs, .out] s
    (s.closeEnds q) := by
  unfold State.closeEnds
  split
  exact Frame.refl
  split
  exact Frame.refl
  dsimp only
  refine Frame.comp ?_ (State.deliver_frame _ _) rfl
  refine Frame.upd ?_
  refine Frame.foldl (fun _ _ => ?_) _ ?_
  refine Frame.comp ?_ (State.closePush_frame _ _ _ _ _) rfl
  exact Frame.refl
  exact Frame.refl

theorem State.closeArrives_frame (s : State) (rank n k : Nat) (recs : List CloseRec) : Frame [.ms, .hg, .ld, .irq, .pcie,
    .im, .xe, .fab, .ctrs, .out] s (s.closeArrives rank n k recs) := by
  unfold State.closeArrives
  split
  exact Frame.refl
  split
  refine Frame.comp ?_ (State.duplicate_frame _) rfl
  exact Frame.refl
  dsimp only
  split
  refine Frame.comp ?_ (State.closeEnds_frame _ _) rfl
  refine Frame.upd ?_
  exact Frame.refl
  refine Frame.upd ?_
  exact Frame.refl

theorem State.closeGiveup_frame (s : State) (q : Nat) : Frame [.ms, .hg, .ham, .ld, .irq, .pcie, .im, .xe, .fab, .ctrs,
    .out] s (s.closeGiveup q) := by
  unfold State.closeGiveup
  split
  exact Frame.refl
  dsimp only
  split
  refine Frame.comp ?_ (State.closeEnds_frame _ _) rfl
  exact Frame.refl
  split
  refine Frame.comp ?_ (State.closeEnds_frame _ _) rfl
  exact Frame.refl
  refine Frame.comp ?_ (State.failCmd_frame _ _ _ _) rfl
  refine Frame.upd ?_
  refine Frame.comp ?_ (State.closeEnds_frame _ _) rfl
  exact Frame.refl

theorem State.stopExchange_frame (s : State) : Frame [.hg, .ld, .irq, .pcie, .xe, .fab, .out] s (s.stopExchange) := by
  unfold State.stopExchange
  dsimp only
  refine Frame.comp ?_ (State.arrive_frame _ _) rfl
  refine Frame.foldl (fun _ _ => ?_) _ ?_
  refine Frame.comp ?_ (State.timeOut_frame _ _) rfl
  exact Frame.refl
  refine Frame.upd ?_
  exact Frame.refl

theorem State.exclusionEnd_frame (s : State) (n : Nat) (buddies : List (Nat × Nat)) : Frame [.hg, .ld, .irq, .pcie, .xe,
    .fab, .ctrs, .out] s (s.exclusionEnd n buddies) := by
  unfold State.exclusionEnd
  dsimp only
  split
  exact Frame.refl
  split
  exact Frame.refl
  split
  refine Frame.comp ?_ (State.stopExchange_frame _) rfl
  refine Frame.comp ?_ (State.setXeStep_frame _ _) rfl
  exact Frame.refl
  split
  refine Frame.comp ?_ (State.setXeStep_frame _ _) rfl
  exact Frame.refl
  refine Frame.comp ?_ (State.arrive_frame _ _) rfl
  refine Frame.comp ?_ (State.bump_frame _ _ _) rfl
  refine Frame.upd ?_
  refine Frame.comp ?_ (State.setXeStep_frame _ _) rfl
  exact Frame.refl

theorem State.writeMirror_frame (s : State) (y : Sent) (vals : List Nat) : Frame [.ms, .hg, .ham, .ld, .irq, .pcie, .im,
    .xe, .fab, .ctrs, .free, .out] s (s.writeMirror y vals) := by
  unfold State.writeMirror
  dsimp only
  split
  refine Frame.comp ?_ (State.failCmd_frame _ _ _ _) rfl
  exact Frame.refl
  refine Frame.comp ?_ (State.emit_frame _ _) rfl
  refine Frame.comp ?_ (State.noteWrite_frame _ _ _ _) rfl
  refine Frame.comp ?_ (State.trafficOn_frame _ _ _ _ _ _) rfl
  refine Frame.comp ?_ (State.wr_frame _ _ _) rfl
  exact Frame.refl

theorem State.flushMirrors_frame (s : State) (y : Sent) : Frame [.ms, .hg, .ham, .ld, .irq, .pcie, .im, .xe, .fab, .ctrs,
    .free, .out] s (s.flushMirrors y) := by
  unfold State.flushMirrors
  dsimp only
  refine Frame.foldl (fun _ _ => ?_) _ ?_
  refine Frame.comp ?_ (State.writeMirror_frame _ _ _) rfl
  exact Frame.refl
  refine Frame.upd ?_
  exact Frame.refl

theorem State.gathEnds_frame (s : State) (q : Nat) : Frame [.ms, .hg, .ham, .ld, .irq, .pcie, .im, .xe, .fab, .ctrs,
    .free, .out] s (s.gathEnds q) := by
  unfold State.gathEnds
  split
  exact Frame.refl
  dsimp only
  split
  exact Frame.refl
  split
  refine Frame.comp ?_ (State.failMem_frame _ _ _) rfl
  refine Frame.upd ?_
  exact Frame.refl
  refine Frame.comp ?_ (State.deliver_frame _ _) rfl
  refine Frame.comp ?_ (State.writeAll_frame _ _ _) rfl
  refine Frame.upd ?_
  exact Frame.refl

theorem State.gathGiveup_frame (s : State) (q : Nat) : Frame [.ms, .hg, .ham, .ld, .irq, .pcie, .im, .xe, .fab, .ctrs,
    .free, .out] s (s.gathGiveup q) := by
  unfold State.gathGiveup
  split
  exact Frame.refl
  dsimp only
  split
  exact Frame.refl
  refine Frame.comp ?_ (State.failCmd_frame _ _ _ _) rfl
  refine Frame.comp ?_ (State.writeAll_frame _ _ _) rfl
  refine Frame.upd ?_
  exact Frame.refl

theorem State.giveupRecords_frame (s : State) (step : Nat) (ranks : List Nat) : Frame [.ld, .irq, .pcie, .im, .fab, .ctrs,
    .out] s (s.giveupRecords step ranks) := by
  unfold State.giveupRecords
  refine Frame.foldl (fun _ _ => ?_) _ ?_
  refine Frame.comp ?_ (State.cper_frame _ _) rfl
  exact Frame.refl
  exact Frame.refl

theorem State.listArrives_frame (s : State) (rank : Nat) (l0 : List Byte) : Frame [.ms, .hg, .ham, .ld, .irq, .pcie, .im,
    .xe, .fab, .ctrs, .free, .out] s (s.listArrives rank l0) := by
  unfold State.listArrives
  dsimp only
  split
  exact Frame.refl
  split
  refine Frame.comp ?_ (State.gathEnds_frame _ _) rfl
  refine Frame.comp ?_ (State.addList_frame _ _ _ _ _) rfl
  exact Frame.refl
  refine Frame.comp ?_ (State.addList_frame _ _ _ _ _) rfl
  exact Frame.refl

theorem State.mirrorArrives_frame (s : State) (step bucket : Nat) (vals : List Nat) : Frame [.ms, .hg, .ham, .ld, .irq,
    .pcie, .im, .xe, .fab, .ctrs, .free, .out] s (s.mirrorArrives step bucket vals) := by
  unfold State.mirrorArrives
  split
  exact Frame.refl
  split
  refine Frame.comp ?_ (State.writeMirror_frame _ _ _) rfl
  exact Frame.refl
  refine Frame.upd ?_
  exact Frame.refl

theorem State.openWindow_frame (s : State) (n : Nat) (missing : List Nat) : Frame [.xe, .fab, .out] s (s.openWindow n
    missing) := by
  unfold State.openWindow
  dsimp only
  refine Frame.comp ?_ (State.emitAll_frame _ _ _) rfl
  refine Frame.comp ?_ (State.setXeStep_frame _ _) rfl
  exact Frame.refl

theorem State.partGiveup_frame (s : State) (n b o : Nat) : Frame [.hg, .ham, .ld, .irq, .pcie, .im, .xe, .fab, .ctrs,
    .out] s (s.partGiveup n b o) := by
  unfold State.partGiveup
  split
  exact Frame.refl
  split
  exact Frame.refl
  split
  exact Frame.refl
  dsimp only
  refine Frame.upd ?_
  refine Frame.comp ?_ (State.markIncomplete_frame _ _) rfl
  refine Frame.comp ?_ (State.giveupRecords_frame _ _ _) rfl
  refine Frame.comp ?_ (State.logPart_frame _ _ _) rfl
  refine Frame.comp ?_ (State.bump_frame _ _ _) rfl
  exact Frame.refl

theorem State.retractArrives_frame (s : State) (rank step bucket owner : Nat) : Frame [.ms, .hg, .ham, .ld, .irq, .pcie,
    .im, .xe, .fab, .ctrs, .free, .out] s (s.retractArrives rank step bucket owner) := by
  unfold State.retractArrives
  split
  dsimp only
  split
  refine Frame.comp ?_ (State.emit_frame _ _) rfl
  refine Frame.comp ?_ (State.retractCopy_frame _ _ _ _ _) rfl
  exact Frame.refl
  refine Frame.comp ?_ (State.retractCopy_frame _ _ _ _ _) rfl
  exact Frame.refl
  exact Frame.refl

theorem State.sendList_frame (s : State) (q r n ident : Nat) (entries : List Byte) : Frame [.hg, .xe, .fab, .ctrs, .out] s
    (s.sendList q r n ident entries) := by
  unfold State.sendList
  refine Frame.comp ?_ (State.addList_frame _ _ _ _ _) rfl
  refine Frame.comp ?_ (State.evt_frame _ _ _ _) rfl
  refine Frame.comp ?_ (State.emitAll_frame _ _ _) rfl
  exact Frame.refl

theorem State.runGath_frame (s : State) (q : Nat) : Frame [.ms, .hg, .ham, .ld, .irq, .pcie, .im, .xe, .fab, .ctrs, .free,
    .out] s (s.runGath q) := by
  unfold State.runGath
  split
  exact Frame.refl
  dsimp only
  split
  refine Frame.comp ?_ (State.failCmd_frame _ _ _ _) rfl
  exact Frame.refl
  split
  refine Frame.comp ?_ (State.failCmd_frame _ _ _ _) rfl
  exact Frame.refl
  split
  refine Frame.comp ?_ (State.failCmd_frame _ _ _ _) rfl
  exact Frame.refl
  split
  refine Frame.comp ?_ (State.failCmd_frame _ _ _ _) rfl
  exact Frame.refl
  split
  refine Frame.comp ?_ (State.failCmd_frame _ _ _ _) rfl
  exact Frame.refl
  split
  split
  exact Frame.refl
  split
  refine Frame.comp ?_ (State.failMem_frame _ _ _) rfl
  exact Frame.refl
  refine Frame.comp ?_ (State.deliver_frame _ _) rfl
  refine Frame.comp ?_ (State.writeAll_frame _ _ _) rfl
  exact Frame.refl
  split
  exact Frame.refl
  split
  refine Frame.comp ?_ (State.failMem_frame _ _ _) rfl
  refine Frame.comp ?_ (State.noteReads_frame _ _) rfl
  exact Frame.refl
  refine Frame.comp ?_ (State.gathEnds_frame _ _) rfl
  refine Frame.foldl (fun _ _ => ?_) _ ?_
  split
  refine Frame.comp ?_ (State.sendList_frame _ _ _ _ _ _) rfl
  exact Frame.refl
  exact Frame.refl
  split
  refine Frame.comp ?_ (State.sendList_frame _ _ _ _ _ _) rfl
  refine Frame.comp ?_ (State.updCmd_frame _ _ _) rfl
  refine Frame.comp ?_ (State.readOperands_frame _ _ _) rfl
  refine Frame.upd ?_
  exact Frame.refl
  refine Frame.comp ?_ (State.updCmd_frame _ _ _) rfl
  refine Frame.comp ?_ (State.readOperands_frame _ _ _) rfl
  refine Frame.upd ?_
  exact Frame.refl

theorem State.sendPart_frame (s : State) (c : Cmd) (q : Nat) (e : Encoded) (o : Nat) : Frame [.ms, .hg, .ham, .ld, .irq,
    .pcie, .im, .xe, .fab, .ctrs, .free, .out] s (s.sendPart c q e o) := by
  unfold State.sendPart
  dsimp only
  split
  refine Frame.comp ?_ (State.copyArrives_frame _ _ _ _ _) rfl
  exact Frame.refl
  refine Frame.comp ?_ (State.evt_frame _ _ _ _) rfl
  refine Frame.comp ?_ (State.emit_frame _ _) rfl
  exact Frame.refl

theorem State.runXchg_frame (s : State) (q : Nat) : Frame [.ms, .hg, .ham, .ld, .irq, .pcie, .im, .mc, .xe, .fab, .ctrs,
    .free, .out] s (s.runXchg q) := by
  unfold State.runXchg
  split
  · exact Frame.refl
  · rename_i c hc
    extract_lets x n reads cur plane outs g old e owners sent s1 s2 s3 xe s4 s5 s6 s7
    split
    · exact State.failCmd_frame _ _ _ _ |>.mono rfl
    · split
      · exact State.failCmd_frame _ _ _ _ |>.mono rfl
      · split
        · exact Frame.refl
        · split
          · exact Frame.refl
          · split
            · exact Frame.comp (State.noteReads_frame _ _ |>.mono rfl) (State.failMem_frame _ _ _) rfl
            · split
              · exact State.failMem_frame _ _ _ |>.mono rfl
              · have h1 : Frame [.ms, .hg, .ham, .ld, .irq, .pcie, .im, .mc, .xe, .fab, .ctrs, .free, .out] s s1 :=
                  Frame.comp (State.readOperands_frame _ _ _ |>.mono rfl) (State.writeAll_frame _ _ _) rfl
                clear_value s1
                have h2 : Frame [.ms, .hg, .ham, .ld, .irq, .pcie, .im, .mc, .xe, .fab, .ctrs, .free, .out] s s2 :=
                  Frame.comp (Frame.comp (Frame.comp (Frame.comp h1 (State.countOn_frame _ _ _ _) rfl)
                      (State.freeStep_frame _) rfl)
                    (State.evt_frame _ _ _ _) rfl) (State.evt_frame _ _ _ _) rfl
                clear_value s2
                have h3 : Frame [.ms, .hg, .ham, .ld, .irq, .pcie, .im, .mc, .xe, .fab, .ctrs, .free, .out] s s3 :=
                    Frame.comp (Frame.comp h2 (State.addCond_frame _ _ _ _) rfl) (State.setDetail_frame _ _ _) rfl
                clear_value s3
                have h4 : Frame [.ms, .hg, .ham, .ld, .irq, .pcie, .im, .mc, .xe, .fab, .ctrs, .free, .out] s s4 := Frame.upd h3
                clear_value s4
                have h5 : Frame [.ms, .hg, .ham, .ld, .irq, .pcie, .im, .mc, .xe, .fab, .ctrs, .free, .out] s s5 :=
                    Frame.comp (Frame.comp h4 (State.addVnCheck_frame _ _ _) rfl) (State.updCmd_frame _ _ _) rfl
                clear_value s5
                have h6 : Frame [.ms, .hg, .ham, .ld, .irq, .pcie, .im, .mc, .xe, .fab, .ctrs, .free, .out] s s6 :=
                    Frame.foldl (fun u o => State.sendPart_frame u c q e o |>.mono rfl) _ h5
                clear_value s6
                have h7 : Frame [.ms, .hg, .ham, .ld, .irq, .pcie, .im, .mc, .xe, .fab, .ctrs, .free, .out] s s7 :=
                    Frame.comp (Frame.foldl (fun u o => State.deliverPart_frame u _ _ o |>.mono rfl) _ h6)
                  (State.flushMirrors_frame _ _) rfl
                clear_value s7
                split
                · exact Frame.comp h7 (State.deliver_frame _ _) rfl
                · exact h7

theorem State.scalClose_frame (s : State) (q : Nat) : Frame [.ms, .hg, .ham, .ld, .irq, .pcie, .im, .xe, .fab, .ctrs,
    .free, .out] s (s.scalClose q) := by
  unfold State.scalClose
  split
  exact Frame.refl
  refine State.closeWith_frame _ _ _ ?_ rfl (fun _ _ => ?_)
  exact Frame.refl
  dsimp only
  split
  refine Frame.comp ?_ (State.deliver_frame _ _) rfl
  refine Frame.comp ?_ (State.closeAlone_frame _ _ _) rfl
  exact Frame.refl
  split
  refine Frame.comp ?_ (State.failCmd_frame _ _ _ _) rfl
  exact Frame.refl
  refine Frame.comp ?_ (State.closeEnds_frame _ _) rfl
  refine Frame.comp ?_ (State.updCmd_frame _ _ _) rfl
  refine Frame.comp ?_ (State.emitAll_frame _ _ _) rfl
  refine Frame.upd ?_
  exact Frame.refl

theorem State.summaryArrives_frame (s : State) (rank n : Nat) (nf inc : Bool) : Frame [.hg, .ham, .ld, .irq, .pcie, .xe,
    .fab, .out] s (s.summaryArrives rank n nf inc) := by
  unfold State.summaryArrives
  split
  exact Frame.refl
  dsimp only
  split
  refine Frame.comp ?_ (State.markIncomplete_frame _ _) rfl
  refine Frame.comp ?_ (State.noteSummary_frame _ _ _ _ _) rfl
  exact Frame.refl
  refine Frame.comp ?_ (State.noteSummary_frame _ _ _ _ _) rfl
  exact Frame.refl

theorem State.summaryGiveup_frame (s : State) (n : Nat) : Frame [.hg, .ham, .ld, .irq, .pcie, .im, .xe, .fab, .ctrs, .out]
    s (s.summaryGiveup n) := by
  unfold State.summaryGiveup
  dsimp only
  split
  exact Frame.refl
  split
  exact Frame.refl
  split
  split
  exact Frame.refl
  refine Frame.comp ?_ (State.markIncomplete_frame _ _) rfl
  refine Frame.comp ?_ (State.giveupRecords_frame _ _ _) rfl
  exact Frame.refl
  refine Frame.comp ?_ (State.openWindow_frame _ _ _) rfl
  split
  exact Frame.refl
  refine Frame.comp ?_ (State.markIncomplete_frame _ _) rfl
  refine Frame.comp ?_ (State.giveupRecords_frame _ _ _) rfl
  exact Frame.refl

theorem State.summarySend_frame (s : State) (n : Nat) : Frame [.xe, .fab, .out] s (s.summarySend n) := by
  unfold State.summarySend
  split
  exact Frame.refl
  refine Frame.comp ?_ (State.sendSummary_frame _ _ _ _) rfl
  exact Frame.refl

theorem State.xchgClear_frame (s : State) (q : Nat) : Frame [.ms, .hg, .ham, .ld, .irq, .pcie, .im, .xe, .fab, .ctrs,
    .free, .out] s (s.xchgClear q) := by
  unfold State.xchgClear
  split
  exact Frame.refl
  dsimp only
  refine Frame.comp ?_ (State.admitWaiting_frame _) rfl
  split
  refine Frame.comp ?_ (State.updCmd_frame _ _ _) rfl
  refine Frame.foldl (fun _ _ => ?_) _ ?_
  split
  refine Frame.comp ?_ (State.allClear_frame _ _ _ _ _) rfl
  exact Frame.refl
  refine Frame.comp ?_ (State.emit_frame _ _) rfl
  exact Frame.refl
  refine Frame.comp ?_ (State.updCmd_frame _ _ _) rfl
  refine Frame.comp ?_ (State.setSent_frame _ _) rfl
  exact Frame.refl
  refine Frame.foldl (fun _ _ => ?_) _ ?_
  split
  refine Frame.comp ?_ (State.allClear_frame _ _ _ _ _) rfl
  exact Frame.refl
  refine Frame.comp ?_ (State.emit_frame _ _) rfl
  exact Frame.refl
  refine Frame.comp ?_ (State.updCmd_frame _ _ _) rfl
  refine Frame.comp ?_ (State.setSent_frame _ _) rfl
  exact Frame.refl

theorem execAllClearArrival_frame (rank step bucket owner : Nat) (s : State) : ∃ t, execAllClearArrival rank step bucket
    owner s = .next t ∧ Frame [.ms, .hg, .ham, .ld, .irq, .pcie, .im, .xe, .fab, .ctrs, .free, .out] s t := by
  refine ⟨_, rfl, ?_⟩
  split
  refine Frame.comp ?_ (State.admitWaiting_frame _) rfl
  refine Frame.comp ?_ (State.allClear_frame _ _ _ _ _) rfl
  exact Frame.refl
  exact Frame.refl

theorem execBucketDeadline_frame (step bucket owner : Nat) (s : State) : ∃ t, execBucketDeadline step bucket owner s =
    .next t ∧ Frame [.ms, .hg, .ham, .ld, .irq, .pcie, .im, .xe, .fab, .ctrs, .free, .out] s t := by
  refine ⟨_, rfl, ?_⟩
  refine Frame.comp ?_ (State.admitWaiting_frame _) rfl
  refine Frame.comp ?_ (State.partDeadline_frame _ _ _ _) rfl
  exact Frame.refl

theorem execBucketGiveup_frame (step bucket owner : Nat) (s : State) : ∃ t, execBucketGiveup step bucket owner s = .next t
    ∧ Frame [.ms, .hg, .ham, .ld, .irq, .pcie, .im, .xe, .fab, .ctrs, .free, .out] s t := by
  refine ⟨_, rfl, ?_⟩
  refine Frame.comp ?_ (State.admitWaiting_frame _) rfl
  refine Frame.comp ?_ (State.partGiveup_frame _ _ _ _) rfl
  exact Frame.refl

theorem execBuddyAckArrival_frame (step bucket : Nat) (s : State) : ∃ t, execBuddyAckArrival step bucket s = .next t ∧
    Frame [.xe] s t := by
  refine ⟨_, rfl, ?_⟩
  refine Frame.upd ?_
  exact Frame.refl

theorem execBuddyDeliveryArrival_frame (step bucket : Nat) (vals : List F32) (s : State) : ∃ t, execBuddyDeliveryArrival
    step bucket vals s = .next t ∧ Frame [.ms, .hg, .ham, .ld, .irq, .pcie, .im, .xe, .fab, .ctrs, .free, .out] s t := by
  refine ⟨_, rfl, ?_⟩
  refine Frame.comp ?_ (State.mirrorArrives_frame _ _ _ _) rfl
  exact Frame.refl

theorem execCloseGiveup_frame (q : Nat) (s : State) : ∃ t, execCloseGiveup q s = .next t ∧ Frame [.ms, .hg, .ham, .ld,
    .irq, .pcie, .im, .xe, .fab, .ctrs, .out] s t := by
  refine ⟨_, rfl, ?_⟩
  refine Frame.comp ?_ (State.closeGiveup_frame _ _) rfl
  exact Frame.refl

theorem execCloseMessageArrival_frame (rank step ordinal : Nat) (recs : List (F32 × Bool × Bool)) (s : State) : ∃ t,
    execCloseMessageArrival rank step ordinal recs s = .next t ∧ Frame [.ms, .hg, .ld, .irq, .pcie, .im, .xe, .fab, .ctrs,
    .out] s t := by
  refine ⟨_, rfl, ?_⟩
  refine Frame.comp ?_ (State.closeArrives_frame _ _ _ _ _) rfl
  exact Frame.refl

theorem execContributionArrival_frame (rank step bucket owner : Nat) (nf : Bool) (mode : Fin 4) (bytes : List Byte) (s :
    State) : ∃ t, execContributionArrival rank step bucket owner nf mode bytes s = .next t ∧ Frame [.ms, .hg, .ham, .ld, .irq,
    .pcie, .im, .xe, .fab, .ctrs, .free, .out] s t := by
  refine ⟨_, rfl, ?_⟩
  dsimp only
  split
  refine Frame.comp ?_ (State.admitWaiting_frame _) rfl
  refine Frame.comp ?_ (State.copyArrives_frame _ _ _ _ _) rfl
  refine Frame.comp ?_ (State.evtU_frame _ _ _) rfl
  exact Frame.refl
  exact Frame.refl

theorem execExcludedSetArrival_frame (rank step : Nat) (set : List Nat) (s : State) : ∃ t, execExcludedSetArrival rank
    step set s = .next t ∧ Frame [.xe, .fab, .out] s t := by
  refine ⟨_, rfl, ?_⟩
  split
  dsimp only
  split
  refine Frame.comp ?_ (State.openWindow_frame _ _ _) rfl
  refine Frame.comp ?_ (State.setXeStep_frame _ _) rfl
  exact Frame.refl
  refine Frame.comp ?_ (State.setXeStep_frame _ _) rfl
  exact Frame.refl
  exact Frame.refl

theorem execExclusionWindowEnd_frame (step : Nat) (buddies : List (Nat × Nat)) (s : State) : ∃ t, execExclusionWindowEnd
    step buddies s = .next t ∧ Frame [.hg, .ld, .irq, .pcie, .xe, .fab, .ctrs, .out] s t := by
  refine ⟨_, rfl, ?_⟩
  refine Frame.comp ?_ (State.exclusionEnd_frame _ _ _) rfl
  exact Frame.refl

theorem execGath_frame (q : Nat) (s : State) : ∃ t, execGath q s = .next t ∧ Frame [.ms, .hg, .ham, .ld, .irq, .pcie, .im,
    .xe, .fab, .ctrs, .free, .out] s t := by
  refine ⟨_, rfl, ?_⟩
  refine Frame.comp ?_ (State.runGath_frame _ _) rfl
  exact Frame.refl

theorem execGathGiveup_frame (q : Nat) (s : State) : ∃ t, execGathGiveup q s = .next t ∧ Frame [.ms, .hg, .ham, .ld, .irq,
    .pcie, .im, .xe, .fab, .ctrs, .free, .out] s t := by
  refine ⟨_, rfl, ?_⟩
  refine Frame.comp ?_ (State.gathGiveup_frame _ _) rfl
  exact Frame.refl

theorem execListArrival_frame (rank : Nat) (list : List Byte) (s : State) : ∃ t, execListArrival rank list s = .next t ∧
    Frame [.ms, .hg, .ham, .ld, .irq, .pcie, .im, .xe, .fab, .ctrs, .free, .out] s t := by
  refine ⟨_, rfl, ?_⟩
  refine Frame.comp ?_ (State.listArrives_frame _ _ _) rfl
  exact Frame.refl

theorem execRetractAckArrival_frame (step bucket owner : Nat) (s : State) : ∃ t, execRetractAckArrival step bucket owner s
    = .next t ∧ Frame [.xe] s t := by
  refine ⟨_, rfl, ?_⟩
  split
  refine Frame.comp ?_ (State.setSent_frame _ _) rfl
  exact Frame.refl
  exact Frame.refl

theorem execRetractArrival_frame (rank step bucket owner : Nat) (s : State) : ∃ t, execRetractArrival rank step bucket
    owner s = .next t ∧ Frame [.ms, .hg, .ham, .ld, .irq, .pcie, .im, .xe, .fab, .ctrs, .free, .out] s t := by
  refine ⟨_, rfl, ?_⟩
  refine Frame.comp ?_ (State.retractArrives_frame _ _ _ _ _) rfl
  exact Frame.refl

theorem execScalClose_frame (q : Nat) (s : State) : ∃ t, execScalClose q s = .next t ∧ Frame [.ms, .hg, .ham, .ld, .irq,
    .pcie, .im, .xe, .fab, .ctrs, .free, .out] s t := by
  refine ⟨_, rfl, ?_⟩
  refine Frame.comp ?_ (State.scalClose_frame _ _) rfl
  exact Frame.refl

theorem execSummaryArrival_frame (rank step : Nat) (nf inc : Bool) (s : State) : ∃ t, execSummaryArrival rank step nf inc
    s = .next t ∧ Frame [.hg, .ham, .ld, .irq, .pcie, .xe, .fab, .out] s t := by
  refine ⟨_, rfl, ?_⟩
  refine Frame.comp ?_ (State.summaryArrives_frame _ _ _ _ _) rfl
  exact Frame.refl

theorem execSummaryGiveup_frame (step : Nat) (s : State) : ∃ t, execSummaryGiveup step s = .next t ∧ Frame [.hg, .ham,
    .ld, .irq, .pcie, .im, .xe, .fab, .ctrs, .out] s t := by
  refine ⟨_, rfl, ?_⟩
  refine Frame.comp ?_ (State.summaryGiveup_frame _ _) rfl
  exact Frame.refl

theorem execSummarySend_frame (step : Nat) (s : State) : ∃ t, execSummarySend step s = .next t ∧ Frame [.xe, .fab, .out] s
    t := by
  refine ⟨_, rfl, ?_⟩
  refine Frame.comp ?_ (State.summarySend_frame _ _) rfl
  exact Frame.refl

theorem execXchg_frame (q : Nat) (s : State) : ∃ t, execXchg q s = .next t ∧ Frame [.ms, .hg, .ham, .ld, .irq, .pcie, .im,
    .mc, .xe, .fab, .ctrs, .free, .out] s t := by
  refine ⟨_, rfl, ?_⟩
  refine Frame.comp ?_ (State.admitWaiting_frame _) rfl
  refine Frame.comp ?_ (State.runXchg_frame _ _) rfl
  exact Frame.refl

end Sys2Proof.Machine
end

