-- ==== Sys2Proof/Laws/FrameMover.lean ====
section
/-!
SUPPORT. The frame of each function of the mover and the hamper: which components of the state it may change, the queue of waiting
commands apart, and that it keeps the stored form of memory and registers. A lemma `execX_frame` says besides that the row
`X` answers a next state, whatever the state and the operands.
-/
namespace Sys2Proof.Machine

open Sys2Proof

set_option Elab.async false

theorem State.setChan_frame (s : State) (c : Nat) (h : Channel) : Frame [.mv] s (s.setChan c h) := by
  unfold State.setChan
  refine Frame.upd ?_
  exact Frame.refl

theorem State.releaseEntry_frame (s : State) (n : Nat) : Frame [.ham] s (s.releaseEntry n) := by
  unfold State.releaseEntry
  refine Frame.upd ?_
  exact Frame.refl

theorem State.spillFailed_frame (s : State) (n : Nat) : Frame [.ham] s (s.spillFailed n) := by
  unfold State.spillFailed
  refine Frame.upd ?_
  exact Frame.refl

theorem State.notRestored_frame (s : State) (q : Nat) : Frame [.hg, .ld, .irq, .pcie, .im, .fab, .out] s (s.notRestored q) := by
  unfold State.notRestored
  split
  split
  refine Frame.comp ?_ (State.deliver_frame _ _) rfl
  refine Frame.comp ?_ (State.addCond_frame _ _ _ _) rfl
  exact Frame.refl
  refine Frame.comp ?_ (State.updCmd_frame _ _ _) rfl
  exact Frame.refl
  exact Frame.refl

theorem State.recallFailed_frame (s : State) (n : Nat) (q : Option Nat) : Frame [.hg, .ham, .ld, .irq, .pcie, .im, .fab,
    .out] s (s.recallFailed n q) := by
  unfold State.recallFailed
  refine Frame.foldl (fun _ _ => ?_) _ ?_
  refine Frame.comp ?_ (State.notRestored_frame _ _) rfl
  exact Frame.refl
  refine Frame.comp ?_ (State.releaseEntry_frame _ _) rfl
  exact Frame.refl

theorem State.recallDropped_frame (s : State) (n : Nat) : Frame [.hg, .ham, .ld, .irq, .pcie, .im, .fab, .out] s
    (s.recallDropped n) := by
  unfold State.recallDropped
  split
  refine Frame.comp ?_ (State.recallFailed_frame _ _ _) rfl
  exact Frame.refl
  refine Frame.foldl (fun _ _ => ?_) _ ?_
  refine Frame.comp ?_ (State.notRestored_frame _ _) rfl
  exact Frame.refl
  exact Frame.refl

theorem State.endItemFailed_frame (s : State) (it : MoverItem) : Frame [.ms, .hg, .ham, .ld, .irq, .pcie, .im, .xe, .fab,
    .ctrs, .free, .out] s (s.endItemFailed it) := by
  unfold State.endItemFailed
  split
  split
  split
  refine Frame.comp ?_ (State.releaseEntry_frame _ _) rfl
  exact Frame.refl
  refine Frame.comp ?_ (State.spillFailed_frame _ _) rfl
  exact Frame.refl
  exact Frame.refl
  refine Frame.comp ?_ (State.recallDropped_frame _ _) rfl
  exact Frame.refl
  split
  refine Frame.comp ?_ (State.failMem_frame _ _ _) rfl
  exact Frame.refl
  exact Frame.refl

theorem State.haltChan_frame (s : State) (c addr cause dir reason : Nat) : Frame [.mv, .ld, .irq, .pcie, .fab, .ctrs,
    .out] s (s.haltChan c addr cause dir reason) := by
  unfold State.haltChan
  dsimp only
  refine Frame.comp ?_ (State.arrive_frame _ _) rfl
  refine Frame.comp ?_ (State.bump_frame _ _ _) rfl
  refine Frame.comp ?_ (State.setChan_frame _ _ _) rfl
  exact Frame.refl

theorem State.endItem_frame (s : State) (it : MoverItem) : Frame [.ms, .hg, .ham, .ld, .irq, .pcie, .im, .xe, .fab, .ctrs,
    .free, .out] s (s.endItem it) := by
  unfold State.endItem
  split
  exact Frame.refl
  split
  refine Frame.comp ?_ (State.deliver_frame _ _) rfl
  exact Frame.refl
  split
  refine Frame.comp ?_ (State.failMem_frame _ _ _) rfl
  exact Frame.refl
  refine Frame.comp ?_ (State.failMem_frame _ _ _) rfl
  split
  exact Frame.refl
  refine Frame.comp ?_ (State.deliver_frame _ _) rfl
  exact Frame.refl

theorem State.countMove_frame (s : State) (k : MoverKind) (q : Option Nat) (t0 : Transfer) (n : Nat) : Frame [.ms, .hg,
    .ld, .irq, .pcie, .im, .fab, .ctrs, .free, .out] s (s.countMove k q t0 n) := by
  unfold State.countMove
  dsimp only
  split
  refine Frame.comp ?_ (State.bump_frame _ _ _) rfl
  refine Frame.foldl (fun _ _ => ?_) _ ?_
  refine Frame.comp ?_ (State.traffic_frame _ _ _ _ _) rfl
  refine Frame.comp ?_ (State.noteReads_frame _ _) rfl
  exact Frame.refl
  split
  exact Frame.refl
  refine Frame.comp ?_ (State.bump_frame _ _ _) rfl
  refine Frame.foldl (fun _ _ => ?_) _ ?_
  refine Frame.comp ?_ (State.traffic_frame _ _ _ _ _) rfl
  refine Frame.comp ?_ (State.noteReads_frame _ _) rfl
  exact Frame.refl
  exact Frame.refl
  refine Frame.comp ?_ (State.bump_frame _ _ _) rfl
  refine Frame.foldl (fun _ _ => ?_) _ ?_
  refine Frame.comp ?_ (State.traffic_frame _ _ _ _ _) rfl
  refine Frame.elim ?_ (fun _ => ?_)
  exact Frame.refl
  refine Frame.comp ?_ (State.noteWrite_frame _ _ _ _) rfl
  exact Frame.refl
  split
  exact Frame.refl
  refine Frame.comp ?_ (State.bump_frame _ _ _) rfl
  refine Frame.foldl (fun _ _ => ?_) _ ?_
  refine Frame.comp ?_ (State.traffic_frame _ _ _ _ _) rfl
  refine Frame.comp ?_ (State.noteReads_frame _ _) rfl
  exact Frame.refl
  exact Frame.refl

theorem State.writeSts_frame {s t : State} {it : MoverItem} {i v : Nat} (h : s.writeSts it i v = some t) : Frame [.ms,
    .hg, .ld, .irq, .pcie, .im, .fab, .ctrs, .out] s t := by
  unfold State.writeSts at h
  split at h
  · cases h; exact Frame.refl
  · dsimp only at h
    split at h
    · cases h
    · cases h; exact State.wr_frame s _ _

theorem State.stsFail_frame (s : State) (c : Nat) (it : MoverItem) : Frame [.ms, .hg, .mv, .ham, .ld, .irq, .pcie, .im,
    .xe, .fab, .ctrs, .free, .out] s (s.stsFail c it) := by
  unfold State.stsFail
  dsimp only
  refine Frame.comp ?_ (State.endItemFailed_frame _ _) rfl
  refine Frame.comp ?_ (State.haltChan_frame _ _ _ _ _ _) rfl
  refine Frame.comp ?_ (State.setChan_frame _ _ _) rfl
  exact Frame.refl

theorem State.logTransfer_frame (s : State) (c : Nat) (q : Option Nat) (sts : Nat) : Frame [.im] s (s.logTransfer c q sts) := by
  unfold State.logTransfer
  refine Frame.comp ?_ (State.logRec_frame _ _ _ _ _ _ _) rfl
  exact Frame.refl

theorem State.writePieces_frame (s : State) (ps : List (Nat × Nat)) (l : List Byte) : Frame [.ms, .hg, .ld, .irq, .pcie,
    .im, .fab, .ctrs, .out] s (s.writePieces ps l) := by
  induction ps generalizing s l with
  | nil => exact Frame.refl
  | cons x xs ih =>
    obtain ⟨a, n⟩ := x
    exact Frame.comp (State.wr_frame s a _ |>.mono rfl) (ih _ _) rfl

/-- The state that a turn leaves. -/
def Turn.state : Turn → State
  | .again s => s
  | .rest s => s

theorem State.chanTurn_frame {s : State} {c : Nat} {r : Turn} (h : s.chanTurn c = r) : Frame [.ms, .hg, .mv, .ham, .ld,
    .irq, .pcie, .im, .xe, .fab, .ctrs, .free, .out] s r.state := by
  subst h
  unfold State.chanTurn
  dsimp only
  split
  split
  dsimp only [Turn.state]
  exact Frame.refl
  split
  dsimp only [Turn.state]
  exact Frame.refl
  split
  dsimp only [Turn.state]
  refine Frame.comp ?_ (State.setChan_frame _ _ _) rfl
  exact Frame.refl
  dsimp only [Turn.state]
  refine Frame.comp ?_ (State.setChan_frame _ _ _) rfl
  exact Frame.refl
  split
  dsimp only [Turn.state]
  exact Frame.refl
  split
  dsimp only [Turn.state]
  refine Frame.comp ?_ (State.endItemFailed_frame _ _) rfl
  refine Frame.comp ?_ (State.haltChan_frame _ _ _ _ _ _) rfl
  refine Frame.comp ?_ (State.setChan_frame _ _ _) rfl
  refine Frame.comp ?_ (State.noteReads_frame _ _) rfl
  exact Frame.refl
  dsimp only [Turn.state]
  refine Frame.comp ?_ (State.badStruct_frame _ _) rfl
  refine Frame.comp ?_ (State.setChan_frame _ _ _) rfl
  refine Frame.comp ?_ (State.noteReads_frame _ _) rfl
  exact Frame.refl
  dsimp only [Turn.state]
  refine Frame.comp ?_ (State.setChan_frame _ _ _) rfl
  refine Frame.comp ?_ (State.noteReads_frame _ _) rfl
  exact Frame.refl
  split
  dsimp only [Turn.state]
  exact Frame.refl
  dsimp only [Turn.state]
  exact Frame.refl
  split
  dsimp only [Turn.state]
  refine Frame.comp ?_ (State.endItem_frame _ _) rfl
  refine Frame.comp ?_ (State.setChan_frame _ _ _) rfl
  exact Frame.refl
  split
  dsimp only [Turn.state]
  exact Frame.refl
  split
  dsimp only [Turn.state]
  exact Frame.refl
  split
  split
  split
  dsimp only [Turn.state]
  refine Frame.comp ?_ (State.stsFail_frame _ _ _) rfl
  refine Frame.comp ?_ (State.countMove_frame _ _ _ _ _) rfl
  exact Frame.refl
  dsimp only [Turn.state]
  split
  refine Frame.comp ?_ (State.deliver_frame _ _) rfl
  refine Frame.comp ?_ (State.setDetail_frame _ _ _) rfl
  refine Frame.comp ?_ (State.addCond_frame _ _ _ _) rfl
  refine Frame.comp ?_ (State.logTransfer_frame _ _ _ _) rfl
  refine Frame.comp ?_ (State.setChan_frame _ _ _) rfl
  refine Frame.comp ?_ (State.writeSts_frame (by assumption)) rfl
  refine Frame.comp ?_ (State.countMove_frame _ _ _ _ _) rfl
  exact Frame.refl
  refine Frame.comp ?_ (State.endItem_frame _ _) rfl
  refine Frame.comp ?_ (State.addCond_frame _ _ _ _) rfl
  refine Frame.comp ?_ (State.logTransfer_frame _ _ _ _) rfl
  refine Frame.comp ?_ (State.setChan_frame _ _ _) rfl
  refine Frame.comp ?_ (State.writeSts_frame (by assumption)) rfl
  refine Frame.comp ?_ (State.countMove_frame _ _ _ _ _) rfl
  exact Frame.refl
  split
  dsimp only [Turn.state]
  refine Frame.comp ?_ (State.stsFail_frame _ _ _) rfl
  refine Frame.comp ?_ (State.countMove_frame _ _ _ _ _) rfl
  exact Frame.refl
  dsimp only [Turn.state]
  refine Frame.comp ?_ (State.logTransfer_frame _ _ _ _) rfl
  refine Frame.comp ?_ (State.setChan_frame _ _ _) rfl
  refine Frame.comp ?_ (State.writeSts_frame (by assumption)) rfl
  refine Frame.comp ?_ (State.countMove_frame _ _ _ _ _) rfl
  exact Frame.refl
  split
  dsimp only [Turn.state]
  refine Frame.comp ?_ (State.setChan_frame _ _ _) rfl
  refine Frame.comp ?_ (State.writePieces_frame _ _ _) rfl
  refine Frame.comp ?_ (State.countMove_frame _ _ _ _ _) rfl
  exact Frame.refl
  split
  dsimp only [Turn.state]
  refine Frame.comp ?_ (State.stsFail_frame _ _ _) rfl
  refine Frame.comp ?_ (State.writePieces_frame _ _ _) rfl
  refine Frame.comp ?_ (State.countMove_frame _ _ _ _ _) rfl
  exact Frame.refl
  dsimp only [Turn.state]
  refine Frame.comp ?_ (State.logTransfer_frame _ _ _ _) rfl
  refine Frame.comp ?_ (State.setChan_frame _ _ _) rfl
  refine Frame.comp ?_ (State.writeSts_frame (by assumption)) rfl
  refine Frame.comp ?_ (State.writePieces_frame _ _ _) rfl
  refine Frame.comp ?_ (State.countMove_frame _ _ _ _ _) rfl
  exact Frame.refl

theorem State.chanRun_frame (s : State) (c n : Nat) : Frame [.ms, .hg, .mv, .ham, .ld, .irq, .pcie, .im, .xe, .fab, .ctrs,
    .free, .out] s (s.chanRun c n) := by
  induction n generalizing s with
  | zero => exact Frame.refl
  | succ n ih =>
    unfold State.chanRun
    split
    · rename_i h
      exact State.chanTurn_frame h
    · rename_i h
      exact Frame.comp (State.chanTurn_frame h) (ih _) rfl

theorem State.chanGo_frame (s : State) (c : Nat) : Frame [.ms, .hg, .mv, .ham, .ld, .irq, .pcie, .im, .xe, .fab, .ctrs,
    .free, .out] s (s.chanGo c) := by
  unfold State.chanGo
  refine Frame.comp ?_ (State.chanRun_frame _ _ _) rfl
  exact Frame.refl

theorem State.spillResume_frame (s : State) (c : Nat) : Frame [.ham] s (s.spillResume c) := by
  unfold State.spillResume
  split
  refine Frame.upd ?_
  exact Frame.refl
  exact Frame.refl

theorem State.flushItem_frame (s : State) (addr : Nat) (it : MoverItem) : Frame [.hg, .ham, .ld, .irq, .pcie, .im, .xe,
    .fab, .out] s (s.flushItem addr it) := by
  unfold State.flushItem
  split
  refine Frame.comp ?_ (State.spillFailed_frame _ _) rfl
  exact Frame.refl
  refine Frame.comp ?_ (State.recallDropped_frame _ _) rfl
  exact Frame.refl
  split
  refine Frame.comp ?_ (State.failCmd_frame _ _ _ _) rfl
  exact Frame.refl
  exact Frame.refl

theorem State.flushChan_frame (s : State) (c : Nat) : Frame [.ms, .hg, .mv, .ham, .ld, .irq, .pcie, .im, .xe, .fab, .ctrs,
    .free, .out] s (s.flushChan c) := by
  unfold State.flushChan
  dsimp only
  refine Frame.comp ?_ (State.chanGo_frame _ _) rfl
  refine Frame.comp ?_ (State.spillResume_frame _ _) rfl
  refine Frame.foldl (fun _ _ => ?_) _ ?_
  refine Frame.comp ?_ (State.flushItem_frame _ _ _) rfl
  exact Frame.refl
  refine Frame.comp ?_ (State.setChan_frame _ _ _) rfl
  exact Frame.refl

theorem State.chCtrlWrite_frame (s : State) (m : Master) (c v : Nat) (hp : c < 64) :
    Frame [.ms, .hg, .mv, .ham, .ld, .irq, .pcie, .im, .xe, .fab, .regs, .ctrs, .free, .out] s (s.chCtrlWrite m c v) := by
  have hr : regEntryOk (rChCtrl c, BitVec.ofNat 64 (v % 16)) = true := rChCtrl_ok hp v
  unfold State.chCtrlWrite
  split
  exact Frame.refl
  dsimp only
  split
  refine Frame.comp ?_ (State.setReg_frame _ _ _ (by first | assumption | exact masked_ok (by assumption))) rfl
  exact Frame.refl
  split
  refine Frame.comp ?_ (State.flushChan_frame _ _) rfl
  refine Frame.comp ?_ (State.setReg_frame _ _ _ (by first | assumption | exact masked_ok (by assumption))) rfl
  exact Frame.refl
  split
  refine Frame.comp ?_ (State.chanGo_frame _ _) rfl
  refine Frame.comp ?_ (State.spillResume_frame _ _) rfl
  refine Frame.comp ?_ (State.setChan_frame _ _ _) rfl
  refine Frame.comp ?_ (State.setReg_frame _ _ _ (by first | assumption | exact masked_ok (by assumption))) rfl
  exact Frame.refl
  refine Frame.comp ?_ (State.setReg_frame _ _ _ (by first | assumption | exact masked_ok (by assumption))) rfl
  exact Frame.refl

theorem State.partialSpill_frame (s : State) (k : MoverKind) (l : List (Nat × Nat)) :
    Frame [.ms, .hg, .ld, .irq, .pcie, .im, .fab, .ctrs, .out] s (s.partialSpill k l) := by
  induction l generalizing s with
  | nil => exact Frame.refl
  | cons x xs ih =>
    obtain ⟨lo, n⟩ := x
    unfold State.partialSpill
    refine Frame.comp ?_ (ih _) rfl
    split
    · split
      · exact Frame.refl
      · refine Frame.foldl (fun u p => ?_) _ Frame.refl
        split
        · exact Frame.refl
        · exact State.putByte_frame _ _ _ |>.mono rfl
    · split
      · exact Frame.refl
      · exact State.writePieces_frame _ _ _ |>.mono rfl
    · exact Frame.refl

theorem State.putAt_frame (s : State) (t0 : Transfer) (i : Nat) (v : Byte) : Frame [.ms] s (s.putAt t0 i v) := by
  unfold State.putAt
  refine Frame.comp ?_ (State.putByte_frame _ _ _) rfl
  exact Frame.refl

theorem State.partialMove_frame (s : State) (k : MoverKind) (t : Transfer) (l : List (Nat × Nat)) :
    Frame [.ms, .hg, .ld, .irq, .pcie, .im, .fab, .ctrs, .out] s (s.partialMove k t l) := by
  induction l generalizing s with
  | nil => exact Frame.refl
  | cons x xs ih =>
    obtain ⟨lo, n⟩ := x
    unfold State.partialMove
    dsimp only
    refine Frame.comp ?_ (ih _) rfl
    refine Frame.comp ?_ (State.bump_frame _ _ _) rfl
    split
    refine Frame.foldl (fun _ _ => ?_) _ ?_
    split
    exact Frame.refl
    refine Frame.comp ?_ (State.putAt_frame _ _ _ _) rfl
    exact Frame.refl
    split
    exact Frame.refl
    refine Frame.comp ?_ (State.bump_frame _ _ _) rfl
    refine Frame.comp ?_ (State.noteReads_frame _ _) rfl
    exact Frame.refl
    refine Frame.foldl (fun _ _ => ?_) _ ?_
    refine Frame.comp ?_ (State.poisonCw_frame _ _) rfl
    exact Frame.refl
    refine Frame.comp ?_ (State.writePieces_frame _ _ _) rfl
    split
    exact Frame.refl
    refine Frame.comp ?_ (State.bump_frame _ _ _) rfl
    refine Frame.comp ?_ (State.noteReads_frame _ _) rfl
    exact Frame.refl

theorem State.poisonDst_frame (s : State) (t0 : Transfer) (addr : Nat) : Frame [.ms] s (s.poisonDst t0 addr) := by
  unfold State.poisonDst
  split
  exact Frame.refl
  refine Frame.foldl (fun _ _ => ?_) _ ?_
  refine Frame.comp ?_ (State.poisonCw_frame _ _) rfl
  exact Frame.refl
  exact Frame.refl

theorem State.failedWrites_frame (s : State) (it : MoverItem) (t0 : Transfer) (addr dir cause : Nat) (issued : List (Nat ×
    Nat)) : Frame [.ms, .hg, .ld, .irq, .pcie, .im, .fab, .ctrs, .free, .out] s (s.failedWrites it t0 addr dir cause issued)
    := by
  unfold State.failedWrites
  split
  refine Frame.comp ?_ (State.partialSpill_frame _ _ _) rfl
  exact Frame.refl
  refine Frame.comp ?_ (State.partialSpill_frame _ _ _) rfl
  exact Frame.refl
  exact Frame.refl
  split
  refine Frame.comp ?_ (State.freeStep_frame _) rfl
  refine Frame.comp ?_ (State.writePieces_frame _ _ _) rfl
  exact Frame.refl
  dsimp only
  split
  refine Frame.comp ?_ (State.freeStep_frame _) rfl
  refine Frame.comp ?_ (State.writePieces_frame _ _ _) rfl
  split
  refine Frame.comp ?_ (State.poisonDst_frame _ _ _) rfl
  refine Frame.comp ?_ (State.partialMove_frame _ _ _ _) rfl
  exact Frame.refl
  refine Frame.comp ?_ (State.partialMove_frame _ _ _ _) rfl
  exact Frame.refl
  split
  refine Frame.comp ?_ (State.poisonDst_frame _ _ _) rfl
  refine Frame.comp ?_ (State.partialMove_frame _ _ _ _) rfl
  exact Frame.refl
  refine Frame.comp ?_ (State.partialMove_frame _ _ _ _) rfl
  exact Frame.refl

theorem State.haltedTimeout_frame (s : State) (q : Nat) : Frame [.hg, .mv, .ham, .ld, .irq, .pcie, .xe, .fab, .out] s
    (s.haltedTimeout q) := by
  unfold State.haltedTimeout
  split
  exact Frame.refl
  dsimp only
  split
  exact Frame.refl
  split
  refine Frame.comp ?_ (State.failCmd_frame _ _ _ _) rfl
  refine Frame.comp ?_ (State.setChan_frame _ _ _) rfl
  exact Frame.refl
  exact Frame.refl

theorem State.requestFail_frame (s : State) (c addr dir cause : Nat) (issued : List (Nat × Nat)) :
    Frame [.ms, .hg, .mv, .ham, .ld, .irq, .pcie, .im, .xe, .fab, .ctrs, .free, .out] s (s.requestFail c addr dir cause
        issued) := by
  unfold State.requestFail
  extract_lets h n h2
  split
  · exact Frame.refl
  · extract_lets t addr' s0 isSpill s1 it1 skip s2 s2'
    split
    · exact Frame.refl
    · have h0 : Frame [.ms, .hg, .mv, .ham, .ld, .irq, .pcie, .im, .xe, .fab, .ctrs, .free, .out] s s0 := by
        unfold s0
        split
        · exact State.noteReads_frame _ _ |>.mono rfl
        · exact Frame.refl
      clear_value s0
      have h1 : Frame [.ms, .hg, .mv, .ham, .ld, .irq, .pcie, .im, .xe, .fab, .ctrs, .free, .out] s s1 := Frame.comp h0
          (State.failedWrites_frame _ _ _ _ _ _ _) rfl
      clear_value s1
      split
      · have h2 : Frame [.ms, .hg, .mv, .ham, .ld, .irq, .pcie, .im, .xe, .fab, .ctrs, .free, .out] s s2 := Frame.comp h1
          (State.bump_frame _ _ _) rfl
        clear_value s2
        split
        · exact Frame.comp (Frame.comp (Frame.comp h2 (State.setChan_frame _ _ _) rfl) (State.endItemFailed_frame _ _) rfl)
            (State.chanGo_frame _ _) rfl
        · split
          · exact Frame.comp (Frame.comp (Frame.comp h2 (State.setChan_frame _ _ _) rfl) (State.haltChan_frame _ _ _ _ _ _) rfl)
              (State.endItemFailed_frame _ _) rfl
          · rename_i s3 h3
            exact Frame.comp (Frame.comp (Frame.comp (Frame.comp h2 (State.writeSts_frame h3) rfl) (State.setChan_frame _
                _ _) rfl)
              (State.logTransfer_frame _ _ _ _) rfl) (State.chanGo_frame _ _) rfl
      · have h2 : Frame [.ms, .hg, .mv, .ham, .ld, .irq, .pcie, .im, .xe, .fab, .ctrs, .free, .out] s s2' := by
          unfold s2'
          split
          · exact h1
          · exact Frame.getD h1 (fun _ h => State.writeSts_frame h) rfl
        clear_value s2'
        exact Frame.comp (Frame.comp (Frame.comp (Frame.comp h2 (State.setChan_frame _ _ _) rfl)
          (State.haltChan_frame _ _ _ _ _ _) rfl) (State.endItemFailed_frame _ _) rfl) (State.logTransfer_frame _ _ _ _) rfl

theorem State.runMover_frame (s : State) (q op : Nat) (k : MoverKind) : Frame [.ms, .hg, .mv, .ham, .ld, .irq, .pcie, .im,
    .xe, .fab, .ctrs, .free, .out] s (s.runMover q op k) := by
  unfold State.runMover
  split
  exact Frame.refl
  dsimp only
  refine Frame.comp ?_ (State.chanGo_frame _ _) rfl
  refine Frame.comp ?_ (State.setChan_frame _ _ _) rfl
  refine Frame.comp ?_ (State.updCmd_frame _ _ _) rfl
  exact Frame.refl

theorem State.transferEnd_frame (s : State) (c : Nat) : Frame [.ms, .hg, .mv, .ham, .ld, .irq, .pcie, .im, .xe, .fab,
    .ctrs, .free, .out] s (s.transferEnd c) := by
  unfold State.transferEnd
  dsimp only
  split
  refine Frame.comp ?_ (State.chanGo_frame _ _) rfl
  exact Frame.refl
  split
  refine Frame.comp ?_ (State.chanGo_frame _ _) rfl
  exact Frame.refl
  split
  exact Frame.refl
  split
  refine Frame.comp ?_ (State.stsFail_frame _ _ _) rfl
  refine Frame.comp ?_ (State.bump_frame _ _ _) rfl
  exact Frame.refl
  refine Frame.comp ?_ (State.chanGo_frame _ _) rfl
  refine Frame.comp ?_ (State.logTransfer_frame _ _ _ _) rfl
  refine Frame.comp ?_ (State.setChan_frame _ _ _) rfl
  refine Frame.comp ?_ (State.writeSts_frame (by assumption)) rfl
  refine Frame.comp ?_ (State.bump_frame _ _ _) rfl
  exact Frame.refl

theorem execCmpr_frame (q : Nat) (s : State) : ∃ t, execCmpr q s = .next t ∧ Frame [.ms, .hg, .mv, .ham, .ld, .irq, .pcie,
    .im, .xe, .fab, .ctrs, .free, .out] s t := by
  refine ⟨_, rfl, ?_⟩
  refine Frame.comp ?_ (State.runMover_frame _ _ _ _) rfl
  exact Frame.refl

theorem execFill_frame (q : Nat) (s : State) : ∃ t, execFill q s = .next t ∧ Frame [.ms, .hg, .mv, .ham, .ld, .irq, .pcie,
    .im, .xe, .fab, .ctrs, .free, .out] s t := by
  refine ⟨_, rfl, ?_⟩
  refine Frame.comp ?_ (State.runMover_frame _ _ _ _) rfl
  exact Frame.refl

theorem execMove_frame (q : Nat) (s : State) : ∃ t, execMove q s = .next t ∧ Frame [.ms, .hg, .mv, .ham, .ld, .irq, .pcie,
    .im, .xe, .fab, .ctrs, .free, .out] s t := by
  refine ⟨_, rfl, ?_⟩
  refine Frame.comp ?_ (State.runMover_frame _ _ _ _) rfl
  exact Frame.refl

theorem execMoverTransferEnd_frame (c : Fin 64) (s : State) : ∃ t, execMoverTransferEnd c s = .next t ∧ Frame [.ms, .hg,
    .mv, .ham, .ld, .irq, .pcie, .im, .xe, .fab, .ctrs, .free, .out] s t := by
  refine ⟨_, rfl, ?_⟩
  refine Frame.comp ?_ (State.transferEnd_frame _ _) rfl
  exact Frame.refl

theorem State.queueSpill_frame (s : State) (k : MoverKind) (q : Option Nat) : Frame [.ms, .hg, .mv, .ham, .ld, .irq,
    .pcie, .im, .xe, .fab, .ctrs, .free, .out] s (s.queueSpill k q) := by
  unfold State.queueSpill
  dsimp only
  refine Frame.comp ?_ (State.chanGo_frame _ _) rfl
  refine Frame.comp ?_ (State.setChan_frame _ _ _) rfl
  exact Frame.refl

theorem State.setEntry_frame (s : State) (e : HamperEntry) : Frame [.ham] s (s.setEntry e) := by
  unfold State.setEntry
  refine Frame.upd ?_
  exact Frame.refl

theorem State.spillOldest_frame {s : State} {q : Option Nat} {t : State × Nat} (h : s.spillOldest q = some t) :
    Frame [.ms, .hg, .mv, .ham, .ld, .irq, .pcie, .im, .xe, .fab, .ctrs, .free, .out] s t.1 := by
  unfold State.spillOldest at h
  split at h
  · cases h
  · split at h
    · cases h
    · cases h
      dsimp only
      refine Frame.comp ?_ (State.queueSpill_frame _ _ _) rfl
      refine Frame.comp ?_ (State.setEntry_frame _ _) rfl
      exact Frame.refl

theorem State.spillHigh_frame (s : State) (q : Option Nat) : Frame [.ms, .hg, .mv, .ham, .ld, .irq, .pcie, .im, .xe, .fab,
    .ctrs, .free, .out] s (s.spillHigh q) := by
  unfold State.spillHigh
  split
  · exact Frame.refl
  · cases h : s.spillOldest q with
    | none => exact Frame.refl
    | some x => exact State.spillOldest_frame h |>.mono rfl

/-- The state that the algorithm leaves. -/
def Stash.state : Stash → State
  | .kept s => s
  | .dropped s => s
  | .exhausted s => s
  | .wait s _ => s

theorem State.stashLoop_frame {s : State} {q b number size n : Nat} {r : Stash} (h : s.stashLoop q b number size n = r) :
    Frame [.ms, .hg, .mv, .ham, .ld, .irq, .pcie, .im, .xe, .fab, .ctrs, .free, .out] s r.state := by
  subst h
  induction n generalizing s with
  | zero => exact Frame.refl
  | succ n ih =>
    unfold State.stashLoop
    dsimp only
    split
    dsimp only [Stash.state]
    exact Frame.refl
    split
    dsimp only [Stash.state]
    exact State.spillOldest_frame (by assumption) |>.mono rfl
    split
    refine Frame.comp ?_ (ih) rfl
    refine Frame.comp ?_ (State.logHamper_frame _ _ _ _) rfl
    refine Frame.comp ?_ (State.bump_frame _ _ _) rfl
    refine Frame.comp ?_ (State.releaseEntry_frame _ _) rfl
    exact Frame.refl
    split
    split
    dsimp only [Stash.state]
    refine Frame.comp ?_ (State.logHamper_frame _ _ _ _) rfl
    refine Frame.comp ?_ (State.bump_frame _ _ _) rfl
    refine Frame.upd ?_
    exact Frame.refl
    refine Frame.comp ?_ (ih) rfl
    refine Frame.comp ?_ (State.logHamper_frame _ _ _ _) rfl
    refine Frame.comp ?_ (State.bump_frame _ _ _) rfl
    refine Frame.upd ?_
    exact Frame.refl
    dsimp only [Stash.state]
    exact Frame.refl

theorem State.endStash_frame (s : State) (c : Cmd) (q : Nat) (d : StashData) (n : Nat) : Frame [.hg, .ld, .irq, .pcie,
    .im, .mc, .fab, .ctrs, .free, .out] s (s.endStash c q d n) := by
  unfold State.endStash
  dsimp only
  refine Frame.comp ?_ (State.deliver_frame _ _) rfl
  refine Frame.comp ?_ (State.addVnCheck_frame _ _ _) rfl
  refine Frame.comp ?_ (State.addCond_frame _ _ _ _) rfl
  refine Frame.comp ?_ (State.evt_frame _ _ _ _) rfl
  refine Frame.comp ?_ (State.evt_frame _ _ _ _) rfl
  refine Frame.comp ?_ (State.freeStep_frame _) rfl
  refine Frame.comp ?_ (State.countOn_frame _ _ _ _) rfl
  exact Frame.refl

theorem State.fillUnits_frame (s : State) (q : Nat) (us : List Nat) (l : List Byte) : Frame [.ms, .hg, .ld, .irq, .pcie,
    .im, .fab, .ctrs, .free, .out] s (s.fillUnits q us l) := by
  induction us generalizing s l with
  | nil => exact Frame.refl
  | cons a us ih =>
    unfold State.fillUnits
    dsimp only
    refine Frame.comp ?_ (ih _ _) rfl
    refine Frame.comp ?_ (State.traffic_frame _ _ _ _ _) rfl
    refine Frame.comp ?_ (State.noteWrite_frame _ _ _ _) rfl
    refine Frame.comp ?_ (State.wr_frame _ _ _) rfl
    exact Frame.refl

theorem State.store_frame (s : State) (c : Cmd) (q number : Nat) (fresh : Bool) (d : StashData) : Frame [.ms, .hg, .mv,
    .ham, .ld, .irq, .pcie, .im, .xe, .fab, .ctrs, .free, .out] s (s.store c q number fresh d) := by
  unfold State.store
  dsimp only
  refine Frame.comp ?_ (State.spillHigh_frame _ _) rfl
  refine Frame.comp ?_ (State.evt_frame _ _ _ _) rfl
  refine Frame.comp ?_ (State.fillUnits_frame _ _ _ _) rfl
  refine Frame.upd ?_
  exact Frame.refl

theorem State.notKept_frame (s : State) (c : Cmd) : Frame [.ham] s (s.notKept c) := by
  unfold State.notKept
  refine Frame.upd ?_
  exact Frame.refl

theorem State.drop_frame (s : State) (c : Cmd) (q n : Nat) : Frame [.hg, .ham, .ld, .irq, .pcie, .im, .fab, .ctrs, .out] s
    (s.drop c q n) := by
  unfold State.drop
  refine Frame.comp ?_ (State.deliver_frame _ _) rfl
  refine Frame.comp ?_ (State.addCond_frame _ _ _ _) rfl
  refine Frame.comp ?_ (State.evt_frame _ _ _ _) rfl
  refine Frame.comp ?_ (State.logHamper_frame _ _ _ _) rfl
  refine Frame.comp ?_ (State.bump_frame _ _ _) rfl
  refine Frame.comp ?_ (State.notKept_frame _ _) rfl
  exact Frame.refl

theorem State.stash_frame (s : State) (c : Cmd) (q : Nat) (number : Option Nat) : Frame [.ms, .hg, .mv, .ham, .ld, .irq,
    .pcie, .im, .mc, .xe, .fab, .ctrs, .free, .out] s (s.stash c q number) := by
  unfold State.stash
  dsimp only
  split
  refine Frame.comp ?_ (State.endStash_frame _ _ _ _ _) rfl
  refine Frame.comp ?_ (State.store_frame _ _ _ _ _ _) rfl
  refine Frame.comp ?_ (State.stashLoop_frame (by assumption : _ = Stash.kept _)) rfl
  exact Frame.refl
  refine Frame.comp ?_ (State.drop_frame _ _ _ _) rfl
  refine Frame.comp ?_ (State.stashLoop_frame (by assumption : _ = Stash.dropped _)) rfl
  exact Frame.refl
  refine Frame.comp ?_ (State.failCmd_frame _ _ _ _) rfl
  refine Frame.comp ?_ (State.setStep_frame _ _ _) rfl
  refine Frame.comp ?_ (State.logHamper_frame _ _ _ _) rfl
  refine Frame.comp ?_ (State.bump_frame _ _ _) rfl
  refine Frame.comp ?_ (State.notKept_frame _ _) rfl
  refine Frame.comp ?_ (State.stashLoop_frame (by assumption : _ = Stash.exhausted _)) rfl
  exact Frame.refl
  refine Frame.comp ?_ (State.updCmd_frame _ _ _) rfl
  refine Frame.comp ?_ (State.stashLoop_frame (by assumption : _ = Stash.wait _ _)) rfl
  exact Frame.refl

theorem State.applyRegion_frame (s : State) : Frame [.ham] s (s.applyRegion) := by
  unfold State.applyRegion
  split
  split
  refine Frame.upd ?_
  exact Frame.refl
  exact Frame.refl
  exact Frame.refl

theorem State.newStash_frame (s : State) (n : Nat) : Frame [.ham] s (s.newStash n) := by
  unfold State.newStash
  split
  exact Frame.refl
  refine Frame.upd ?_
  exact Frame.refl

theorem State.runStsh_frame (s : State) (q : Nat) : Frame [.ms, .hg, .mv, .ham, .ld, .irq, .pcie, .im, .mc, .xe, .fab,
    .ctrs, .free, .out] s (s.runStsh q) := by
  unfold State.runStsh
  split
  exact Frame.refl
  split
  exact Frame.refl
  split
  split
  exact Frame.refl
  refine Frame.comp ?_ (State.stash_frame _ _ _ _) rfl
  exact Frame.refl
  split
  exact Frame.refl
  dsimp only
  refine State.withOperands_frame _ _ _ _ _ _ ?_ rfl (fun _ => ?_)
  exact Frame.refl
  split
  split
  refine Frame.comp ?_ (State.deliver_frame _ _) rfl
  exact Frame.refl
  split
  refine Frame.comp ?_ (State.failCmd_frame _ _ _ _) rfl
  exact Frame.refl
  split
  refine Frame.comp ?_ (State.endStash_frame _ _ _ _ _) rfl
  refine Frame.comp ?_ (State.setEntry_frame _ _) rfl
  refine Frame.comp ?_ (State.fillUnits_frame _ _ _ _) rfl
  refine Frame.comp ?_ (State.applyRegion_frame _) rfl
  refine Frame.comp ?_ (State.newStash_frame _ _) rfl
  exact Frame.refl
  refine Frame.comp ?_ (State.stash_frame _ _ _ _) rfl
  refine Frame.upd ?_
  refine Frame.comp ?_ (State.applyRegion_frame _) rfl
  refine Frame.comp ?_ (State.newStash_frame _ _) rfl
  exact Frame.refl
  split
  refine Frame.comp ?_ (State.drop_frame _ _ _ _) rfl
  refine Frame.comp ?_ (State.applyRegion_frame _) rfl
  refine Frame.comp ?_ (State.newStash_frame _ _) rfl
  exact Frame.refl
  refine Frame.comp ?_ (State.stash_frame _ _ _ _) rfl
  refine Frame.comp ?_ (State.applyRegion_frame _) rfl
  refine Frame.comp ?_ (State.newStash_frame _ _) rfl
  exact Frame.refl

theorem State.wakeStash_frame (s : State) : Frame [.ms, .hg, .mv, .ham, .ld, .irq, .pcie, .im, .mc, .xe, .fab, .ctrs,
    .free, .out] s (s.wakeStash) := by
  unfold State.wakeStash
  refine Frame.foldl (fun _ _ => ?_) _ ?_
  refine Frame.comp ?_ (State.runStsh_frame _ _) rfl
  exact Frame.refl
  exact Frame.refl

theorem State.spillAgain_frame (s : State) : Frame [.ms, .hg, .mv, .ham, .ld, .irq, .pcie, .im, .mc, .xe, .fab, .ctrs,
    .free, .out] s (s.spillAgain) := by
  unfold State.spillAgain
  refine Frame.comp ?_ (State.spillHigh_frame _ _) rfl
  refine Frame.comp ?_ (State.wakeStash_frame _) rfl
  exact Frame.refl

theorem State.afterCtrl_frame (s : State) (c : Nat) : Frame [.ms, .hg, .mv, .ham, .ld, .irq, .pcie, .im, .mc, .xe, .fab,
    .ctrs, .free, .out] s (s.afterCtrl c) := by
  unfold State.afterCtrl
  split
  refine Frame.comp ?_ (State.spillAgain_frame _) rfl
  exact Frame.refl
  exact Frame.refl

theorem State.restore_frame (s : State) (c : Cmd) (q : Nat) (e : HamperEntry) : Frame [.ms, .hg, .ham, .ld, .irq, .pcie,
    .im, .mc, .fab, .ctrs, .free, .out] s (s.restore c q e) := by
  unfold State.restore
  dsimp only
  refine Frame.foldl (fun _ _ => ?_) _ ?_
  split
  exact Frame.refl
  refine Frame.comp ?_ (State.poisonCw_frame _ _) rfl
  exact Frame.refl
  refine Frame.comp ?_ (State.putTensor_frame _ _ _ _ _ _ _ _ _) rfl
  refine Frame.comp ?_ (State.readOperands_frame _ _ _) rfl
  refine Frame.upd ?_
  exact Frame.refl

theorem State.restoreThen_frame {l : List Comp} {s t : State} (c : Cmd) (q : Nat) (e : HamperEntry) (k : State → State)
    (h : Frame l s t) (hl : within [.ms, .hg, .ham, .ld, .irq, .pcie, .im, .mc, .xe, .fab, .ctrs, .free, .out] l = true)
    (hk : ∀ x, Frame l x (k x)) : Frame l s (t.restoreThen c q e k) := by
  refine Frame.comp h ?_ (within_refl l)
  unfold State.restoreThen
  split
  refine Frame.comp ?_ (State.recallFailed_frame _ _ _) (within_trans rfl hl)
  exact Frame.refl
  split
  refine Frame.comp ?_ (State.failMem_frame _ _ _) (within_trans rfl hl)
  refine Frame.comp ?_ (State.noteReads_frame _ _) (within_trans rfl hl)
  exact Frame.refl
  refine Frame.comp ?_ (State.failMem_frame _ _ _) (within_trans rfl hl)
  exact Frame.refl
  refine Frame.comp ?_ (hk _) (within_refl _)
  refine Frame.comp ?_ (State.restore_frame _ _ _ _) (within_trans rfl hl)
  exact Frame.refl

theorem State.endRecomp_frame (s : State) (c : Cmd) (q : Nat) : Frame [.hg, .ham, .ld, .irq, .pcie, .im, .xe, .fab, .ctrs,
    .out] s (s.endRecomp c q) := by
  unfold State.endRecomp
  dsimp only
  split
  split
  refine Frame.comp ?_ (State.releaseEntry_frame _ _) rfl
  refine Frame.comp ?_ (State.failCmd_frame _ _ _ _) rfl
  refine Frame.comp ?_ (State.addCond_frame _ _ _ _) rfl
  refine Frame.comp ?_ (State.updCmd_frame _ _ _) rfl
  refine Frame.comp ?_ (State.evt_frame _ _ _ _) rfl
  refine Frame.comp ?_ (State.bump_frame _ _ _) rfl
  split
  exact Frame.refl
  refine Frame.comp ?_ (State.logHamper_frame _ _ _ _) rfl
  exact Frame.refl
  refine Frame.comp ?_ (State.failCmd_frame _ _ _ _) rfl
  refine Frame.comp ?_ (State.addCond_frame _ _ _ _) rfl
  refine Frame.comp ?_ (State.updCmd_frame _ _ _) rfl
  refine Frame.comp ?_ (State.evt_frame _ _ _ _) rfl
  refine Frame.comp ?_ (State.bump_frame _ _ _) rfl
  split
  exact Frame.refl
  refine Frame.comp ?_ (State.logHamper_frame _ _ _ _) rfl
  exact Frame.refl
  refine Frame.comp ?_ (State.deliver_frame _ _) rfl
  refine Frame.comp ?_ (State.addCond_frame _ _ _ _) rfl
  refine Frame.comp ?_ (State.addCond_frame _ _ _ _) rfl
  refine Frame.comp ?_ (State.updCmd_frame _ _ _) rfl
  refine Frame.comp ?_ (State.evt_frame _ _ _ _) rfl
  refine Frame.comp ?_ (State.bump_frame _ _ _) rfl
  split
  exact Frame.refl
  refine Frame.comp ?_ (State.logHamper_frame _ _ _ _) rfl
  exact Frame.refl

theorem State.startCopy_frame {l : List Comp} {s t : State} (q : Nat) (d : Cmd) (start : State → Cmd → State)
    (h : Frame l s t) (hl : within [.hg] l = true)
    (hk : ∀ x y, Frame l x (start x y)) : Frame l s (t.startCopy q d start) := by
  refine Frame.comp h ?_ (within_refl l)
  unfold State.startCopy
  exact Frame.comp (Frame.mono (l' := [.hg]) (Frame.upd Frame.refl) hl) (hk _ _) (within_refl _)

theorem State.recompNext_frame {l : List Comp} {s t : State} (q : Nat) (start : State → Cmd → State)
    (h : Frame l s t) (hl : within [.hg, .ham, .ld, .irq, .pcie, .im, .xe, .fab, .ctrs, .out] l = true)
    (hk : ∀ x y, Frame l x (start x y)) : Frame l s (t.recompNext q start) := by
  refine Frame.comp h ?_ (within_refl l)
  unfold State.recompNext
  split
  exact Frame.refl
  split
  exact Frame.refl
  split
  exact Frame.refl
  split
  refine Frame.comp ?_ (State.endRecomp_frame _ _ _) (within_trans rfl hl)
  exact Frame.refl
  dsimp only
  split
  refine State.startCopy_frame _ _ _ ?_ (within_trans rfl hl) (fun _ _ => ?_)
  refine Frame.comp ?_ (State.updCmd_frame _ _ _) (within_trans rfl hl)
  exact Frame.refl
  refine Frame.comp ?_ (hk _ _) (within_refl _)
  exact Frame.refl
  refine Frame.comp ?_ (State.updCmd_frame _ _ _) (within_trans rfl hl)
  exact Frame.refl

theorem State.afterRecall_frame {l : List Comp} {s t : State} (q : Nat) (e : HamperEntry) (start : State → Cmd → State)
    (h : Frame l s t) (hl : within [.ms, .hg, .ham, .ld, .irq, .pcie, .im, .mc, .xe, .fab, .ctrs, .free, .out] l = true)
    (hk : ∀ x y, Frame l x (start x y)) : Frame l s (t.afterRecall q e start) := by
  refine Frame.comp h ?_ (within_refl l)
  unfold State.afterRecall
  split
  exact Frame.refl
  split
  exact Frame.refl
  split
  refine State.restoreThen_frame _ _ _ _ ?_ (within_trans rfl hl) (fun _ => ?_)
  exact Frame.refl
  refine Frame.comp ?_ (State.deliver_frame _ _) (within_trans rfl hl)
  exact Frame.refl
  refine State.restoreThen_frame _ _ _ _ ?_ (within_trans rfl hl) (fun _ => ?_)
  exact Frame.refl
  refine State.recompNext_frame _ _ ?_ (within_trans rfl hl) (fun _ _ => ?_)
  refine Frame.comp ?_ (State.updCmd_frame _ _ _) (within_trans rfl hl)
  exact Frame.refl
  refine Frame.comp ?_ (hk _ _) (within_refl _)
  exact Frame.refl

theorem State.bringBack_frame (s : State) (q : Nat) (e : HamperEntry) : Frame [.ms, .hg, .mv, .ham, .ld, .irq, .pcie, .im,
    .xe, .fab, .ctrs, .free, .out] s (s.bringBack q e).1 := by
  unfold State.bringBack
  split
  dsimp only
  exact Frame.refl
  dsimp only
  split
  dsimp only
  refine Frame.comp ?_ (State.updCmd_frame _ _ _) rfl
  exact Frame.refl
  split
  dsimp only
  refine Frame.comp ?_ (State.queueSpill_frame _ _ _) rfl
  refine Frame.comp ?_ (State.setEntry_frame _ _) rfl
  refine Frame.comp ?_ (State.updCmd_frame _ _ _) rfl
  exact Frame.refl
  dsimp only
  exact Frame.refl

theorem State.openBack_frame {l : List Comp} {s t : State} (c : Cmd) (q : Nat) (e : HamperEntry) (k : State → State)
    (h : Frame l s t) (hl : within [.ms, .hg, .ham, .ld, .irq, .pcie, .im, .xe, .fab, .ctrs, .out] l = true) (hk : ∀ x,
        Frame l x (k x)) : Frame l s (t.openBack c q e k) := by
  refine Frame.comp h ?_ (within_refl l)
  unfold State.openBack
  split
  · exact State.badStruct_frame _ _ |>.mono (within_trans rfl hl)
  · rename_i s1 h1
    have hs : Frame [.ms, .hg, .ham, .ld, .irq, .pcie, .im, .xe, .fab, .ctrs, .out] t s1 := State.openOut_frame h1 |>.mono rfl
    exact Frame.comp (Frame.mono (l' := [.ms, .hg, .ham, .ld, .irq, .pcie, .im, .xe, .fab, .ctrs, .out]) (Frame.upd hs)
        hl) (hk _) (within_refl _)

theorem State.recompClear_frame (s : State) (c : Cmd) : Frame [.ham] s (s.recompClear c) := by
  unfold State.recompClear
  split
  refine Frame.comp ?_ (State.releaseEntry_frame _ _) rfl
  exact Frame.refl
  exact Frame.refl

theorem State.regionWrite_frame (s : State) (m : Master) (v : Nat) : Frame [.ham] s (s.regionWrite m v) := by
  unfold State.regionWrite
  dsimp only
  split
  refine Frame.upd ?_
  exact Frame.refl
  exact Frame.refl

theorem State.runRecl_frame (s : State) (q : Nat) : Frame [.ms, .hg, .mv, .ham, .ld, .irq, .pcie, .im, .mc, .xe, .fab,
    .ctrs, .free, .out] s (s.runRecl q) := by
  unfold State.runRecl
  split
  exact Frame.refl
  split
  split
  refine Frame.comp ?_ (State.deliver_frame _ _) rfl
  refine Frame.comp ?_ (State.addCond_frame _ _ _ _) rfl
  exact Frame.refl
  refine Frame.comp ?_ (State.failCmd_frame _ _ _ _) rfl
  exact Frame.refl
  split
  exact Frame.refl
  refine State.openBack_frame _ _ _ _ ?_ rfl (fun _ => ?_)
  exact Frame.refl
  dsimp only
  split
  refine Frame.comp ?_ (State.bringBack_frame _ _ _) rfl
  exact Frame.refl
  refine State.restoreThen_frame _ _ _ _ ?_ rfl (fun _ => ?_)
  exact Frame.refl
  refine Frame.comp ?_ (State.deliver_frame _ _) rfl
  exact Frame.refl

theorem State.takeRef_frame (s : State) (q : Nat) (d : Cmd) : Frame [.af] s (s.takeRef q d) := by
  unfold State.takeRef
  split
  exact Frame.refl
  dsimp only
  split
  exact Frame.refl
  refine Frame.upd ?_
  exact Frame.refl

theorem State.takeRefs_frame (s : State) (q : Nat) (l0 : List Nat) : Frame [.af] s (s.takeRefs q l0) := by
  unfold State.takeRefs
  refine Frame.foldl (fun _ _ => ?_) _ ?_
  refine Frame.comp ?_ (State.takeRef_frame _ _ _) rfl
  exact Frame.refl
  exact Frame.refl

theorem State.runRecomp_frame {l : List Comp} {s t : State} (q : Nat) (start : State → Cmd → State)
    (h : Frame l s t) (hl : within [.ms, .hg, .mv, .ham, .ld, .irq, .pcie, .im, .mc, .af, .xe, .fab, .ctrs, .free, .out] l
        = true)
    (hk : ∀ x y, Frame l x (start x y)) : Frame l s (t.runRecomp q start) := by
  refine Frame.comp h ?_ (within_refl l)
  unfold State.runRecomp
  split
  refine State.recompNext_frame _ _ ?_ (within_trans rfl hl) (fun _ _ => ?_)
  exact Frame.refl
  refine Frame.comp ?_ (hk _ _) (within_refl _)
  exact Frame.refl
  split
  split
  refine Frame.comp ?_ (State.failCmd_frame _ _ _ _) (within_trans rfl hl)
  exact Frame.refl
  refine Frame.comp ?_ (State.failCmd_frame _ _ _ _) (within_trans rfl hl)
  exact Frame.refl
  split
  exact Frame.refl
  refine State.openBack_frame _ _ _ _ ?_ (within_trans rfl hl) (fun _ => ?_)
  refine Frame.comp ?_ (State.takeRefs_frame _ _ _) (within_trans rfl hl)
  exact Frame.refl
  dsimp only
  split
  refine Frame.comp ?_ (State.bringBack_frame _ _ _) (within_trans rfl hl)
  exact Frame.refl
  refine State.restoreThen_frame _ _ _ _ ?_ (within_trans rfl hl) (fun _ => ?_)
  exact Frame.refl
  refine State.recompNext_frame _ _ ?_ (within_trans rfl hl) (fun _ _ => ?_)
  refine Frame.comp ?_ (State.updCmd_frame _ _ _) (within_trans rfl hl)
  exact Frame.refl
  refine Frame.comp ?_ (hk _ _) (within_refl _)
  exact Frame.refl

theorem State.spillIdle_frame (s : State) (c : Nat) : Frame [.ms, .hg, .mv, .ham, .ld, .irq, .pcie, .im, .xe, .fab, .ctrs,
    .free, .out] s (s.spillIdle c) := by
  unfold State.spillIdle
  refine Frame.comp ?_ (State.chanGo_frame _ _) rfl
  refine Frame.comp ?_ (State.setChan_frame _ _ _) rfl
  exact Frame.refl

theorem State.spillOut_frame (s : State) (e : HamperEntry) (q : Option Nat) : Frame [.ms, .hg, .ham, .ld, .irq, .pcie,
    .im, .fab, .ctrs, .free, .out] s (s.spillOut e q) := by
  unfold State.spillOut
  dsimp only
  refine Frame.comp ?_ (State.evt_frame _ _ _ _) rfl
  refine Frame.comp ?_ (State.logHamper_frame _ _ _ _) rfl
  refine Frame.comp ?_ (State.bump_frame _ _ _) rfl
  refine Frame.comp ?_ (State.bump_frame _ _ _) rfl
  refine Frame.comp ?_ (State.setEntry_frame _ _) rfl
  refine Frame.comp ?_ (State.bump_frame _ _ _) rfl
  refine Frame.comp ?_ (State.bump_frame _ _ _) rfl
  refine Frame.comp ?_ (State.traffic_frame _ _ _ _ _) rfl
  refine Frame.comp ?_ (State.wr_frame _ _ _) rfl
  refine Frame.foldl (fun _ _ => ?_) _ ?_
  refine Frame.comp ?_ (State.traffic_frame _ _ _ _ _) rfl
  refine Frame.comp ?_ (State.noteReads_frame _ _) rfl
  exact Frame.refl
  exact Frame.refl

theorem State.spillIn_frame (s : State) (e : HamperEntry) (q : Option Nat) : Frame [.ms, .hg, .ham, .ld, .irq, .pcie, .im,
    .fab, .ctrs, .free, .out] s (s.spillIn e q) := by
  unfold State.spillIn
  dsimp only
  refine Frame.comp ?_ (State.setEntry_frame _ _) rfl
  refine Frame.comp ?_ (State.bump_frame _ _ _) rfl
  refine Frame.comp ?_ (State.bump_frame _ _ _) rfl
  refine Frame.comp ?_ (State.traffic_frame _ _ _ _ _) rfl
  refine Frame.foldl (fun _ _ => ?_) _ ?_
  refine Frame.comp ?_ (State.traffic_frame _ _ _ _ _) rfl
  refine Frame.comp ?_ (State.wr_frame _ _ _) rfl
  exact Frame.refl
  exact Frame.refl

theorem State.spillEnd_frame {l : List Comp} {s t : State} (c : Nat) (start : State → Cmd → State)
    (h : Frame l s t) (hl : within [.ms, .hg, .mv, .ham, .ld, .irq, .pcie, .im, .mc, .xe, .fab, .ctrs, .free, .out] l = true)
    (hk : ∀ x y, Frame l x (start x y)) : Frame l s (t.spillEnd c start) := by
  refine Frame.comp h ?_ (within_refl l)
  unfold State.spillEnd
  split
  exact Frame.refl
  split
  split
  refine Frame.comp ?_ (State.spillIdle_frame _ _) (within_trans rfl hl)
  exact Frame.refl
  split
  exact Frame.refl
  refine Frame.comp ?_ (State.spillHigh_frame _ _) (within_trans rfl hl)
  refine Frame.comp ?_ (State.wakeStash_frame _) (within_trans rfl hl)
  refine Frame.comp ?_ (State.spillIdle_frame _ _) (within_trans rfl hl)
  refine Frame.comp ?_ (State.spillOut_frame _ _ _) (within_trans rfl hl)
  exact Frame.refl
  split
  refine Frame.foldl (fun _ _ => ?_) _ ?_
  refine Frame.comp ?_ (State.notRestored_frame _ _) (within_trans rfl hl)
  exact Frame.refl
  refine Frame.comp ?_ (State.spillIdle_frame _ _) (within_trans rfl hl)
  exact Frame.refl
  split
  exact Frame.refl
  refine Frame.foldl (fun _ _ => ?_) _ ?_
  refine State.afterRecall_frame _ _ _ ?_ (within_trans rfl hl) (fun _ _ => ?_)
  exact Frame.refl
  refine Frame.comp ?_ (hk _ _) (within_refl _)
  exact Frame.refl
  refine Frame.comp ?_ (State.spillIdle_frame _ _) (within_trans rfl hl)
  refine Frame.comp ?_ (State.spillIn_frame _ _ _) (within_trans rfl hl)
  exact Frame.refl
  exact Frame.refl

theorem execHamperRegionApply_frame (s : State) : ∃ t, execHamperRegionApply s = .next t ∧ Frame [.ham] s t := by
  refine ⟨_, rfl, ?_⟩
  refine Frame.comp ?_ (State.applyRegion_frame _) rfl
  exact Frame.refl

theorem execHamperRegionWrite_frame (m : Master) (v : W32) (s : State) : ∃ t, execHamperRegionWrite m v s = .next t ∧
    Frame [.ham, .ld] s t := by
  refine ⟨_, rfl, ?_⟩
  refine Frame.comp ?_ (State.regionWrite_frame _ _ _) rfl
  refine Frame.comp ?_ (State.reachedBy_frame _ _) rfl
  exact Frame.refl

theorem execMoverFlush_frame (m : Master) (c : Fin 64) (v : W32) (s : State) : ∃ t, execMoverFlush m c v s = .next t ∧
    Frame [.ms, .hg, .mv, .ham, .ld, .irq, .pcie, .im, .mc, .xe, .fab, .regs, .ctrs, .free, .out] s t := by
  refine ⟨_, rfl, ?_⟩
  dsimp only
  split
  refine Frame.comp ?_ (State.afterCtrl_frame _ _) rfl
  refine Frame.comp ?_ (State.chCtrlWrite_frame _ _ _ _ (Fin.isLt _)) rfl
  refine Frame.comp ?_ (State.reachedBy_frame _ _) rfl
  exact Frame.refl
  refine Frame.comp ?_ (State.reachedBy_frame _ _) rfl
  exact Frame.refl

theorem execMoverHaltedWaitTimeout_frame (q : Nat) (s : State) : ∃ t, execMoverHaltedWaitTimeout q s = .next t ∧ Frame
    [.hg, .mv, .ham, .ld, .irq, .pcie, .xe, .fab, .out] s t := by
  refine ⟨_, rfl, ?_⟩
  refine Frame.comp ?_ (State.haltedTimeout_frame _ _) rfl
  exact Frame.refl

theorem execMoverRequestFail_frame (c : Fin 64) (addr : W64) (dir : Fin 3) (cause : Fin 7) (issued : List (Nat × Nat)) (s
    : State) : ∃ t, execMoverRequestFail c addr dir cause issued s = .next t ∧ Frame [.ms, .hg, .mv, .ham, .ld, .irq, .pcie,
    .im, .mc, .xe, .fab, .ctrs, .free, .out] s t := by
  refine ⟨_, rfl, ?_⟩
  dsimp only
  split
  refine Frame.comp ?_ (State.spillAgain_frame _) rfl
  refine Frame.comp ?_ (State.requestFail_frame _ _ _ _ _ _) rfl
  exact Frame.refl
  refine Frame.comp ?_ (State.requestFail_frame _ _ _ _ _ _) rfl
  exact Frame.refl

theorem execMoverRestart_frame (m : Master) (c : Fin 64) (v : W32) (s : State) : ∃ t, execMoverRestart m c v s = .next t ∧
    Frame [.ms, .hg, .mv, .ham, .ld, .irq, .pcie, .im, .mc, .xe, .fab, .regs, .ctrs, .free, .out] s t := by
  refine ⟨_, rfl, ?_⟩
  dsimp only
  split
  refine Frame.comp ?_ (State.afterCtrl_frame _ _) rfl
  refine Frame.comp ?_ (State.chCtrlWrite_frame _ _ _ _ (Fin.isLt _)) rfl
  refine Frame.comp ?_ (State.reachedBy_frame _ _) rfl
  exact Frame.refl
  refine Frame.comp ?_ (State.reachedBy_frame _ _) rfl
  exact Frame.refl

theorem execRecl_frame (q : Nat) (s : State) : ∃ t, execRecl q s = .next t ∧ Frame [.ms, .hg, .mv, .ham, .ld, .irq, .pcie,
    .im, .mc, .xe, .fab, .ctrs, .free, .out] s t := by
  refine ⟨_, rfl, ?_⟩
  refine Frame.comp ?_ (State.runRecl_frame _ _) rfl
  exact Frame.refl

theorem execStsh_frame (q : Nat) (s : State) : ∃ t, execStsh q s = .next t ∧ Frame [.ms, .hg, .mv, .ham, .ld, .irq, .pcie,
    .im, .mc, .xe, .fab, .ctrs, .free, .out] s t := by
  refine ⟨_, rfl, ?_⟩
  refine Frame.comp ?_ (State.runStsh_frame _ _) rfl
  exact Frame.refl

end Sys2Proof.Machine
end

