-- ==== Sys2Proof/Laws/FrameRings.lean ====
section
/-!
SUPPORT. The frame of each function of interrupts, trust and the rings: which components of the state it may change, the queue of waiting
commands apart, and that it keeps the stored form of memory and registers. A lemma `execX_frame` says besides that the row
`X` answers a next state, whatever the state and the operands.
-/
namespace Sys2Proof.Machine

open Sys2Proof

set_option Elab.async false

theorem State.bankWrite_frame {l : List Comp} {s t : State} (m : Master) (f : State → Nat → State) (b : IcBank) (v : Nat)
    (h : Frame l s t) (_hl : within [] l = true)
    (hk : ∀ x y, Frame l x (f x y)) : Frame l s (t.bankWrite m f b v) := by
  refine Frame.comp h ?_ (within_refl l)
  unfold State.bankWrite
  split
  refine Frame.foldl (fun _ _ => ?_) _ ?_
  refine Frame.comp ?_ (hk _ _) (within_refl _)
  exact Frame.refl
  exact Frame.refl
  exact Frame.refl

theorem State.keepArrivals_frame (s : State) (n : Nat) : Frame [.irq] s (s.keepArrivals n) := by
  unfold State.keepArrivals
  refine Frame.upd ?_
  exact Frame.refl

theorem State.clearSource_frame (s : State) (n : Nat) : Frame [.ld, .irq, .pcie, .fab, .out] s (s.clearSource n) := by
  unfold State.clearSource
  split
  refine Frame.comp ?_ (State.sendSource_frame _ _) rfl
  refine Frame.comp ?_ (State.keepArrivals_frame _ _) rfl
  exact Frame.refl
  refine Frame.comp ?_ (State.keepArrivals_frame _ _) rfl
  exact Frame.refl

theorem State.icAck_frame (s : State) (m : Master) (v : Nat) : Frame [.ld, .irq, .pcie, .fab, .out] s (s.icAck m v) := by
  unfold State.icAck
  split
  dsimp only
  split
  refine Frame.comp ?_ (State.sendSource_frame _ _) rfl
  refine Frame.upd ?_
  exact Frame.refl
  refine Frame.upd ?_
  exact Frame.refl
  exact Frame.refl

theorem State.maskSource_frame (s0 : State) (n : Nat) : Frame [.irq] s0 (s0.maskSource n) := by
  unfold State.maskSource
  dsimp only
  refine Frame.upd ?_
  refine Frame.comp ?_ (State.noteMasked_frame _ _) rfl
  exact Frame.refl

theorem State.msixWrite_frame (s : State) (w : MsixWrite) : Frame [.ld, .pcie, .fab, .out] s (s.msixWrite w) := by
  unfold State.msixWrite
  split
  refine Frame.comp ?_ (State.flushPba_frame _) rfl
  refine Frame.upd ?_
  exact Frame.refl
  refine Frame.comp ?_ (State.flushPba_frame _) rfl
  refine Frame.upd ?_
  exact Frame.refl
  refine Frame.comp ?_ (State.flushPba_frame _) rfl
  refine Frame.upd ?_
  exact Frame.refl
  refine Frame.upd ?_
  exact Frame.refl

theorem State.unmaskSource_frame (s : State) (n : Nat) : Frame [.ld, .irq, .pcie, .fab, .out] s (s.unmaskSource n) := by
  unfold State.unmaskSource
  split
  exact Frame.refl
  dsimp only
  split
  refine Frame.comp ?_ (State.sendSource_frame _ _) rfl
  refine Frame.upd ?_
  exact Frame.refl
  refine Frame.upd ?_
  exact Frame.refl

theorem execIcAck_frame (m : Master) (v : W32) (s : State) : ∃ t, execIcAck m v s = .next t ∧ Frame [.ld, .irq, .pcie,
    .fab, .out] s t := by
  refine ⟨_, rfl, ?_⟩
  refine Frame.comp ?_ (State.icAck_frame _ _ _) rfl
  refine Frame.comp ?_ (State.reachedBy_frame _ _) rfl
  exact Frame.refl

theorem execIcMaskClr_frame (m : Master) (b : IcBank) (v : W32) (s : State) : ∃ t, execIcMaskClr m b v s = .next t ∧ Frame
    [.ld, .irq, .pcie, .fab, .out] s t := by
  refine ⟨_, rfl, ?_⟩
  refine State.bankWrite_frame _ _ _ _ ?_ rfl (fun _ _ => ?_)
  refine Frame.comp ?_ (State.reachedBy_frame _ _) rfl
  exact Frame.refl
  refine Frame.comp ?_ (State.unmaskSource_frame _ _) rfl
  exact Frame.refl

theorem execIcMaskSet_frame (m : Master) (b : IcBank) (v : W32) (s : State) : ∃ t, execIcMaskSet m b v s = .next t ∧ Frame
    [.ld, .irq] s t := by
  refine ⟨_, rfl, ?_⟩
  refine State.bankWrite_frame _ _ _ _ ?_ rfl (fun _ _ => ?_)
  refine Frame.comp ?_ (State.reachedBy_frame _ _) rfl
  exact Frame.refl
  refine Frame.comp ?_ (State.maskSource_frame _ _) rfl
  exact Frame.refl

theorem execIcPendClr_frame (m : Master) (b : IcBank) (v : W32) (s : State) : ∃ t, execIcPendClr m b v s = .next t ∧ Frame
    [.ld, .irq, .pcie, .fab, .out] s t := by
  refine ⟨_, rfl, ?_⟩
  refine State.bankWrite_frame _ _ _ _ ?_ rfl (fun _ _ => ?_)
  refine Frame.comp ?_ (State.reachedBy_frame _ _) rfl
  exact Frame.refl
  refine Frame.comp ?_ (State.clearSource_frame _ _) rfl
  exact Frame.refl

theorem execIcPendSet_frame (m : Master) (b : IcBank) (v : W32) (s : State) : ∃ t, execIcPendSet m b v s = .next t ∧ Frame
    [.ld, .irq, .pcie, .fab, .out] s t := by
  refine ⟨_, rfl, ?_⟩
  refine State.bankWrite_frame _ _ _ _ ?_ rfl (fun _ _ => ?_)
  refine Frame.comp ?_ (State.reachedBy_frame _ _) rfl
  exact Frame.refl
  refine Frame.comp ?_ (State.arrive_frame _ _) rfl
  exact Frame.refl

theorem execMsixMaskWrite_frame (w : MsixWrite) (s : State) : ∃ t, execMsixMaskWrite w s = .next t ∧ Frame [.ld, .pcie,
    .fab, .out] s t := by
  refine ⟨_, rfl, ?_⟩
  refine Frame.comp ?_ (State.msixWrite_frame _ _) rfl
  refine Frame.comp ?_ (State.linkUse_frame _) rfl
  exact Frame.refl

theorem State.authAccept_frame (s : State) (slot : List Byte) : Frame [.tb] s (s.authAccept slot) := by
  unfold State.authAccept
  split
  exact Frame.refl
  refine Frame.upd ?_
  exact Frame.refl

theorem State.critEnd_frame (s : State) (k : CritCall) (t0 : Status) (detail : Nat) (response : List Byte) : Frame [.hg,
    .ham, .ld, .irq, .pcie, .im, .xe, .fab, .out] s (s.critEnd k t0 detail response) := by
  unfold State.critEnd
  split
  split
  refine Frame.comp ?_ (State.deliver_frame _ _) rfl
  exact Frame.refl
  refine Frame.comp ?_ (State.refuseCmd_frame _ _ _) rfl
  exact Frame.refl
  refine Frame.comp ?_ (State.refuseCmd_frame _ _ _) rfl
  exact Frame.refl
  refine Frame.comp ?_ (State.failCmd_frame _ _ _ _) rfl
  exact Frame.refl
  refine Frame.comp ?_ (State.emit_frame _ _) rfl
  exact Frame.refl

theorem State.cfgcCert_frame (s : State) (k : CritCall) : Frame [.hg, .ham, .ld, .tb, .irq, .pcie, .im, .xe, .fab, .out] s
    (s.cfgcCert k) := by
  unfold State.cfgcCert
  dsimp only
  split
  refine Frame.comp ?_ (State.critEnd_frame _ _ _ _ _) rfl
  exact Frame.refl
  split
  refine Frame.comp ?_ (State.critEnd_frame _ _ _ _ _) rfl
  exact Frame.refl
  split
  refine Frame.comp ?_ (State.critEnd_frame _ _ _ _ _) rfl
  exact Frame.refl
  split
  refine Frame.comp ?_ (State.critEnd_frame _ _ _ _ _) rfl
  exact Frame.refl
  split
  refine Frame.comp ?_ (State.critEnd_frame _ _ _ _ _) rfl
  exact Frame.refl
  split
  refine Frame.comp ?_ (State.critEnd_frame _ _ _ _ _) rfl
  refine Frame.upd ?_
  exact Frame.refl
  refine Frame.comp ?_ (State.critEnd_frame _ _ _ _ _) rfl
  exact Frame.refl

theorem State.yieldClaim_frame (s : State) (m : Master) : Frame [.hg, .ham, .ld, .irq, .pcie, .im, .xe, .fab, .out] s
    (s.yieldClaim m) := by
  unfold State.yieldClaim
  split
  refine Frame.comp ?_ (State.critEnd_frame _ _ _ _ _) rfl
  exact Frame.refl
  exact Frame.refl

theorem State.claim_frame (s : State) (k : CritCall) : Frame [.hg, .ham, .ld, .tb, .irq, .pcie, .im, .xe, .fab, .out] s
    (s.claim k) := by
  unfold State.claim
  dsimp only
  split
  refine Frame.comp ?_ (State.critEnd_frame _ _ _ _ _) rfl
  exact Frame.refl
  split
  refine Frame.comp ?_ (State.critEnd_frame _ _ _ _ _) rfl
  exact Frame.refl
  split
  refine Frame.comp ?_ (State.critEnd_frame _ _ _ _ _) rfl
  exact Frame.refl
  split
  refine Frame.comp ?_ (State.critEnd_frame _ _ _ _ _) rfl
  exact Frame.refl
  split
  refine Frame.comp ?_ (State.critEnd_frame _ _ _ _ _) rfl
  exact Frame.refl
  split
  refine Frame.comp ?_ (State.updCmd_frame _ _ _) rfl
  refine Frame.upd ?_
  refine Frame.comp ?_ (State.yieldClaim_frame _ _) rfl
  exact Frame.refl
  refine Frame.upd ?_
  refine Frame.comp ?_ (State.yieldClaim_frame _ _) rfl
  exact Frame.refl

theorem State.renewNonce_frame (s : State) : Frame [.tb] s (s.renewNonce) := by
  unfold State.renewNonce
  refine Frame.upd ?_
  exact Frame.refl

theorem State.releaseRings_frame (s : State) : Frame [.hg] s (s.releaseRings) := by
  unfold State.releaseRings
  dsimp only
  refine Frame.upd ?_
  exact Frame.refl

theorem State.claimWritten_frame (s : State) (ok : Bool) : Frame [.ms, .hg, .ham, .ld, .tb, .irq, .pcie, .im, .xe, .fab,
    .ctrs, .out] s (s.claimWritten ok) := by
  unfold State.claimWritten
  split
  exact Frame.refl
  dsimp only
  split
  refine Frame.comp ?_ (State.critEnd_frame _ _ _ _ _) rfl
  refine Frame.upd ?_
  split
  refine Frame.comp ?_ (State.releaseRings_frame _) rfl
  refine Frame.comp ?_ (State.setOwn_frame _ _) rfl
  refine Frame.upd ?_
  split
  refine Frame.comp ?_ (State.wr_frame _ _ _) rfl
  refine Frame.comp ?_ (State.renewNonce_frame _) rfl
  refine Frame.upd ?_
  exact Frame.refl
  refine Frame.comp ?_ (State.renewNonce_frame _) rfl
  refine Frame.upd ?_
  exact Frame.refl
  refine Frame.comp ?_ (State.setOwn_frame _ _) rfl
  refine Frame.upd ?_
  split
  refine Frame.comp ?_ (State.wr_frame _ _ _) rfl
  refine Frame.comp ?_ (State.renewNonce_frame _) rfl
  refine Frame.upd ?_
  exact Frame.refl
  refine Frame.comp ?_ (State.renewNonce_frame _) rfl
  refine Frame.upd ?_
  exact Frame.refl
  refine Frame.comp ?_ (State.critEnd_frame _ _ _ _ _) rfl
  refine Frame.comp ?_ (State.renewNonce_frame _) rfl
  refine Frame.upd ?_
  exact Frame.refl

theorem State.critAccept_frame (s : State) (k : CritCall) (open_ : Bool) : Frame [.tb] s (s.critAccept k open_) := by
  unfold State.critAccept
  split
  refine Frame.comp ?_ (State.authAccept_frame _ _) rfl
  exact Frame.refl
  exact Frame.refl

theorem State.critRun_frame {l : List Comp} {s t : State} (x : Crit) (op : Nat) (open_ : CritCall → Bool) (f : State →
    CritCall → State)
    (h : Frame l s t) (hl : within [.hg, .ham, .ld, .tb, .irq, .pcie, .im, .xe, .fab, .out] l = true)
    (hk : ∀ x y, Frame l x (f x y)) : Frame l s (t.critRun x op open_ f) := by
  refine Frame.comp h ?_ (within_refl l)
  unfold State.critRun
  split
  exact Frame.refl
  dsimp only
  split
  refine Frame.comp ?_ (State.critEnd_frame _ _ _ _ _) (within_trans rfl hl)
  refine Frame.comp ?_ (State.critAccept_frame _ _ _) (within_trans rfl hl)
  split
  refine Frame.comp ?_ (State.reachedBy_frame _ _) (within_trans rfl hl)
  exact Frame.refl
  exact Frame.refl
  refine Frame.comp ?_ (hk _ _) (within_refl _)
  refine Frame.comp ?_ (State.critAccept_frame _ _ _) (within_trans rfl hl)
  split
  refine Frame.comp ?_ (State.reachedBy_frame _ _) (within_trans rfl hl)
  exact Frame.refl
  exact Frame.refl

theorem State.dbgu_frame (s : State) (k : CritCall) : Frame [.hg, .ham, .ld, .tb, .irq, .pcie, .im, .xe, .fab, .out] s
    (s.dbgu k) := by
  unfold State.dbgu
  dsimp only
  split
  refine Frame.comp ?_ (State.critEnd_frame _ _ _ _ _) rfl
  exact Frame.refl
  split
  refine Frame.comp ?_ (State.critEnd_frame _ _ _ _ _) rfl
  exact Frame.refl
  split
  refine Frame.comp ?_ (State.critEnd_frame _ _ _ _ _) rfl
  exact Frame.refl
  refine Frame.comp ?_ (State.critEnd_frame _ _ _ _ _) rfl
  refine Frame.comp ?_ (State.renewNonce_frame _) rfl
  refine Frame.upd ?_
  exact Frame.refl

theorem State.dbguLock_frame (s : State) (k : CritCall) : Frame [.hg, .ham, .ld, .tb, .irq, .pcie, .im, .xe, .fab, .out] s
    (s.dbguLock k) := by
  unfold State.dbguLock
  dsimp only
  refine Frame.comp ?_ (State.critEnd_frame _ _ _ _ _) rfl
  split
  refine Frame.comp ?_ (State.vacate_frame _) rfl
  refine Frame.upd ?_
  exact Frame.refl
  refine Frame.upd ?_
  exact Frame.refl

theorem State.fwld_frame (s : State) (k : CritCall) : Frame [.hg, .ham, .ld, .tb, .irq, .pcie, .im, .xe, .fab, .out] s
    (s.fwld k) := by
  unfold State.fwld
  split
  refine Frame.comp ?_ (State.critEnd_frame _ _ _ _ _) rfl
  exact Frame.refl
  dsimp only
  split
  refine Frame.comp ?_ (State.critEnd_frame _ _ _ _ _) rfl
  exact Frame.refl
  split
  refine Frame.comp ?_ (State.critEnd_frame _ _ _ _ _) rfl
  exact Frame.refl
  refine Frame.comp ?_ (State.updCmd_frame _ _ _) rfl
  refine Frame.upd ?_
  exact Frame.refl

theorem State.hand_frame (s : State) (k : CritCall) : Frame [.hg, .ham, .ld, .tb, .irq, .pcie, .im, .xe, .fab, .out] s
    (s.hand k) := by
  unfold State.hand
  dsimp only
  split
  refine Frame.comp ?_ (State.critEnd_frame _ _ _ _ _) rfl
  exact Frame.refl
  refine Frame.comp ?_ (State.critEnd_frame _ _ _ _ _) rfl
  refine Frame.comp ?_ (State.setOwn_frame _ _) rfl
  refine Frame.upd ?_
  exact Frame.refl

theorem State.unholdClaim_frame (s : State) (m : Master) : Frame [.tb] s (s.unholdClaim m) := by
  unfold State.unholdClaim
  refine Frame.upd ?_
  exact Frame.refl

theorem State.holdClaim_frame (s : State) (k : CritCall) : Frame [.hg, .ham, .ld, .tb, .irq, .pcie, .im, .xe, .fab, .out]
    s (s.holdClaim k) := by
  unfold State.holdClaim
  split
  refine Frame.comp ?_ (State.claim_frame _ _) rfl
  refine Frame.comp ?_ (State.unholdClaim_frame _ _) rfl
  exact Frame.refl
  split
  refine Frame.comp ?_ (State.critEnd_frame _ _ _ _ _) rfl
  refine Frame.comp ?_ (State.unholdClaim_frame _ _) rfl
  exact Frame.refl
  refine Frame.upd ?_
  exact Frame.refl

theorem State.leas_frame (s : State) (k : CritCall) : Frame [.hg, .ham, .ld, .irq, .pcie, .im, .xe, .fab, .out] s (s.leas
    k) := by
  unfold State.leas
  refine Frame.comp ?_ (State.critEnd_frame _ _ _ _ _) rfl
  exact Frame.refl

theorem State.plim_frame (s : State) (k : CritCall) : Frame [.hg, .ham, .ld, .irq, .pcie, .im, .xe, .fab, .out] s (s.plim
    k) := by
  unfold State.plim
  dsimp only
  refine Frame.comp ?_ (State.critEnd_frame _ _ _ _ _) rfl
  refine Frame.upd ?_
  exact Frame.refl

theorem State.qovr_frame (s : State) (k : CritCall) : Frame [.hg, .ham, .ld, .irq, .pcie, .im, .xe, .fab, .out] s (s.qovr
    k) := by
  unfold State.qovr
  dsimp only
  refine Frame.comp ?_ (State.critEnd_frame _ _ _ _ _) rfl
  refine Frame.upd ?_
  exact Frame.refl

theorem State.verifyEnd_frame (s : State) : Frame [.hg, .ham, .ld, .tb, .irq, .pcie, .xe, .fab, .out] s (s.verifyEnd) := by
  unfold State.verifyEnd
  split
  exact Frame.refl
  split
  dsimp only
  split
  refine Frame.comp ?_ (State.failCmd_frame _ _ _ _) rfl
  refine Frame.upd ?_
  exact Frame.refl
  refine Frame.comp ?_ (State.refuseCmd_frame _ _ _) rfl
  refine Frame.upd ?_
  exact Frame.refl
  refine Frame.upd ?_
  exact Frame.refl

theorem execCfgcCertificate_frame (x : Crit) (s : State) : ∃ t, execCfgcCertificate x s = .next t ∧ Frame [.hg, .ham, .ld,
    .tb, .irq, .pcie, .im, .xe, .fab, .out] s t := by
  refine ⟨_, rfl, ?_⟩
  refine State.critRun_frame _ _ _ _ ?_ rfl (fun _ _ => ?_)
  exact Frame.refl
  split
  refine Frame.comp ?_ (State.cfgcCert_frame _ _) rfl
  exact Frame.refl
  exact Frame.refl

theorem execClaim_frame (x : Crit) (s : State) : ∃ t, execClaim x s = .next t ∧ Frame [.hg, .ham, .ld, .tb, .irq, .pcie,
    .im, .xe, .fab, .out] s t := by
  refine ⟨_, rfl, ?_⟩
  refine State.critRun_frame _ _ _ _ ?_ rfl (fun _ _ => ?_)
  exact Frame.refl
  refine Frame.comp ?_ (State.holdClaim_frame _ _) rfl
  exact Frame.refl

theorem execClaimResponseWriteEnd_frame (ok : Bool) (s : State) : ∃ t, execClaimResponseWriteEnd ok s = .next t ∧ Frame
    [.ms, .hg, .ham, .ld, .tb, .irq, .pcie, .im, .xe, .fab, .ctrs, .out] s t := by
  refine ⟨_, rfl, ?_⟩
  refine Frame.comp ?_ (State.claimWritten_frame _ _) rfl
  exact Frame.refl

theorem execDbgu_frame (x : Crit) (s : State) : ∃ t, execDbgu x s = .next t ∧ Frame [.hg, .ham, .ld, .tb, .irq, .pcie,
    .im, .xe, .fab, .out] s t := by
  refine ⟨_, rfl, ?_⟩
  refine State.critRun_frame _ _ _ _ ?_ rfl (fun _ _ => ?_)
  exact Frame.refl
  split
  exact Frame.refl
  refine Frame.comp ?_ (State.dbgu_frame _ _) rfl
  exact Frame.refl

theorem execDbguLock_frame (x : Crit) (s : State) : ∃ t, execDbguLock x s = .next t ∧ Frame [.hg, .ham, .ld, .tb, .irq,
    .pcie, .im, .xe, .fab, .out] s t := by
  refine ⟨_, rfl, ?_⟩
  refine State.critRun_frame _ _ _ _ ?_ rfl (fun _ _ => ?_)
  exact Frame.refl
  split
  refine Frame.comp ?_ (State.dbguLock_frame _ _) rfl
  exact Frame.refl
  exact Frame.refl

theorem execFirmwareVerifyEnd_frame (s : State) : ∃ t, execFirmwareVerifyEnd s = .next t ∧ Frame [.hg, .ham, .ld, .tb,
    .irq, .pcie, .xe, .fab, .out] s t := by
  refine ⟨_, rfl, ?_⟩
  refine Frame.comp ?_ (State.verifyEnd_frame _) rfl
  exact Frame.refl

theorem execFwld_frame (x : Crit) (s : State) : ∃ t, execFwld x s = .next t ∧ Frame [.hg, .ham, .ld, .tb, .irq, .pcie,
    .im, .xe, .fab, .out] s t := by
  refine ⟨_, rfl, ?_⟩
  refine State.critRun_frame _ _ _ _ ?_ rfl (fun _ _ => ?_)
  exact Frame.refl
  refine Frame.comp ?_ (State.fwld_frame _ _) rfl
  exact Frame.refl

theorem execHand_frame (x : Crit) (s : State) : ∃ t, execHand x s = .next t ∧ Frame [.hg, .ham, .ld, .tb, .irq, .pcie,
    .im, .xe, .fab, .out] s t := by
  refine ⟨_, rfl, ?_⟩
  refine State.critRun_frame _ _ _ _ ?_ rfl (fun _ _ => ?_)
  exact Frame.refl
  refine Frame.comp ?_ (State.hand_frame _ _) rfl
  exact Frame.refl

theorem execHandoverExpiry_frame (s : State) : ∃ t, execHandoverExpiry s = .next t ∧ Frame [.ld, .tb, .irq, .pcie, .fab,
    .out] s t := by
  refine ⟨_, rfl, ?_⟩
  split
  split
  refine Frame.comp ?_ (State.vacate_frame _) rfl
  exact Frame.refl
  exact Frame.refl
  exact Frame.refl

theorem execIdeKmMessage_frame (keys : List Byte) (s : State) : ∃ t, execIdeKmMessage keys s = .next t ∧ Frame [.tb] s t := by
  refine ⟨_, rfl, ?_⟩
  split
  refine Frame.upd ?_
  exact Frame.refl
  exact Frame.refl

theorem execIdeSecureExit_frame (s : State) : ∃ t, execIdeSecureExit s = .next t ∧ Frame [.ld, .tb, .irq, .pcie, .fab,
    .out] s t := by
  refine ⟨_, rfl, ?_⟩
  dsimp only
  split
  refine Frame.comp ?_ (State.vacate_frame _) rfl
  refine Frame.upd ?_
  exact Frame.refl
  refine Frame.upd ?_
  exact Frame.refl

theorem execIdentityRegenerated_frame (ok : Bool) (s : State) : ∃ t, execIdentityRegenerated ok s = .next t ∧ Frame [.ld,
    .tb, .irq, .pcie, .fab, .out] s t := by
  refine ⟨_, rfl, ?_⟩
  split
  exact Frame.refl
  split
  refine Frame.comp ?_ (State.setReady_frame _ _) rfl
  refine Frame.upd ?_
  exact Frame.refl
  refine Frame.comp ?_ (State.setFailed_frame _ _) rfl
  refine Frame.upd ?_
  exact Frame.refl

theorem execLeas_frame (x : Crit) (s : State) : ∃ t, execLeas x s = .next t ∧ Frame [.hg, .ham, .ld, .tb, .irq, .pcie,
    .im, .xe, .fab, .out] s t := by
  refine ⟨_, rfl, ?_⟩
  refine State.critRun_frame _ _ _ _ ?_ rfl (fun _ _ => ?_)
  exact Frame.refl
  refine Frame.comp ?_ (State.leas_frame _ _) rfl
  exact Frame.refl

theorem execLeaseExpiry_frame (s : State) : ∃ t, execLeaseExpiry s = .next t ∧ Frame [.ld, .tb, .irq, .pcie, .fab, .out] s
    t := by
  refine ⟨_, rfl, ?_⟩
  split
  split
  refine Frame.comp ?_ (State.vacate_frame _) rfl
  exact Frame.refl
  exact Frame.refl
  exact Frame.refl

theorem execPlim_frame (x : Crit) (s : State) : ∃ t, execPlim x s = .next t ∧ Frame [.hg, .ham, .ld, .tb, .irq, .pcie,
    .im, .xe, .fab, .out] s t := by
  refine ⟨_, rfl, ?_⟩
  refine State.critRun_frame _ _ _ _ ?_ rfl (fun _ _ => ?_)
  exact Frame.refl
  refine Frame.comp ?_ (State.plim_frame _ _) rfl
  exact Frame.refl

theorem execQovr_frame (x : Crit) (s : State) : ∃ t, execQovr x s = .next t ∧ Frame [.hg, .ham, .ld, .tb, .irq, .pcie,
    .im, .xe, .fab, .out] s t := by
  refine ⟨_, rfl, ?_⟩
  refine State.critRun_frame _ _ _ _ ?_ rfl (fun _ _ => ?_)
  exact Frame.refl
  refine Frame.comp ?_ (State.qovr_frame _ _) rfl
  exact Frame.refl

theorem State.fencRestart_frame (s : State) : Frame [.hg, .ham, .im, .xe] s (s.fencRestart) := by
  unfold State.fencRestart
  dsimp only
  refine Frame.comp ?_ (State.applyRegion_frame _) rfl
  refine Frame.upd ?_
  exact Frame.refl

theorem State.foldClear_frame (s : State) (q step : Nat) : Frame [.ms, .hg, .ham, .ld, .irq, .pcie, .im, .mc, .xe, .fab,
    .ctrs, .out] s (s.foldClear q step) := by
  unfold State.foldClear
  dsimp only
  split
  refine Frame.comp ?_ (State.loseData_frame _ _ _) rfl
  refine Frame.comp ?_ (State.foldAll_frame _ _ _) rfl
  exact Frame.refl
  refine Frame.comp ?_ (State.foldAll_frame _ _ _) rfl
  exact Frame.refl

theorem State.onStart_frame (s : State) (c : Cmd) : Frame [.hg, .ld, .af] s (s.onStart c) := by
  unfold State.onStart
  split
  exact Frame.refl
  dsimp only
  refine Frame.foldl (fun _ _ => ?_) _ ?_
  refine Frame.comp ?_ (State.wantDom_frame _ _) rfl
  exact Frame.refl
  refine Frame.foldl (fun _ _ => ?_) _ ?_
  refine Frame.comp ?_ (State.wantDom_frame _ _) rfl
  exact Frame.refl
  refine Frame.foldl (fun _ _ => ?_) _ ?_
  refine Frame.comp ?_ (State.wantDom_frame _ _) rfl
  exact Frame.refl
  split
  refine Frame.comp ?_ (State.updCmd_frame _ _ _) rfl
  refine Frame.foldl (fun _ _ => ?_) _ ?_
  refine Frame.comp ?_ (State.takeRef_frame _ _ _) rfl
  exact Frame.refl
  exact Frame.refl
  refine Frame.foldl (fun _ _ => ?_) _ ?_
  refine Frame.comp ?_ (State.takeRef_frame _ _ _) rfl
  exact Frame.refl
  exact Frame.refl

theorem State.replayEnd_frame (s : State) : Frame [.hg, .ham, .ld, .irq, .pcie, .im, .xe, .fab, .out] s (s.replayEnd) := by
  unfold State.replayEnd
  split
  exact Frame.refl
  dsimp only
  split
  split
  refine Frame.comp ?_ (State.failCmd_frame _ _ _ _) rfl
  refine Frame.upd ?_
  exact Frame.refl
  refine Frame.comp ?_ (State.deliver_frame _ _) rfl
  refine Frame.comp ?_ (State.addCond_frame _ _ _ _) rfl
  refine Frame.upd ?_
  exact Frame.refl
  exact Frame.refl

theorem State.onClear_frame (s : State) (c : Cmd) : Frame [.ms, .hg, .ham, .ld, .irq, .pcie, .im, .mc, .af, .uk, .xe,
    .fab, .ctrs, .free, .out] s (s.onClear c) := by
  unfold State.onClear
  split
  exact Frame.refl
  dsimp only
  refine Frame.comp ?_ (State.replayEnd_frame _) rfl
  split
  refine Frame.comp ?_ (State.settleAll_frame _) rfl
  split
  refine State.recompNext_frame _ _ ?_ rfl (fun _ _ => ?_)
  refine Frame.upd ?_
  split
  refine Frame.comp ?_ (State.xchgClear_frame _ _) rfl
  refine Frame.comp ?_ (State.foldClear_frame _ _ _) rfl
  exact Frame.refl
  split
  refine Frame.comp ?_ (State.recompClear_frame _ _) rfl
  refine Frame.comp ?_ (State.foldClear_frame _ _ _) rfl
  exact Frame.refl
  refine Frame.comp ?_ (State.foldClear_frame _ _ _) rfl
  exact Frame.refl
  refine Frame.comp ?_ (State.onStart_frame _ _) rfl
  exact Frame.refl
  refine Frame.upd ?_
  split
  refine Frame.comp ?_ (State.xchgClear_frame _ _) rfl
  refine Frame.comp ?_ (State.foldClear_frame _ _ _) rfl
  exact Frame.refl
  split
  refine Frame.comp ?_ (State.recompClear_frame _ _) rfl
  refine Frame.comp ?_ (State.foldClear_frame _ _ _) rfl
  exact Frame.refl
  refine Frame.comp ?_ (State.foldClear_frame _ _ _) rfl
  exact Frame.refl
  split
  refine State.recompNext_frame _ _ ?_ rfl (fun _ _ => ?_)
  refine Frame.upd ?_
  split
  refine Frame.comp ?_ (State.xchgClear_frame _ _) rfl
  refine Frame.comp ?_ (State.foldClear_frame _ _ _) rfl
  exact Frame.refl
  split
  refine Frame.comp ?_ (State.recompClear_frame _ _) rfl
  refine Frame.comp ?_ (State.foldClear_frame _ _ _) rfl
  exact Frame.refl
  refine Frame.comp ?_ (State.foldClear_frame _ _ _) rfl
  exact Frame.refl
  refine Frame.comp ?_ (State.onStart_frame _ _) rfl
  exact Frame.refl
  refine Frame.upd ?_
  split
  refine Frame.comp ?_ (State.xchgClear_frame _ _) rfl
  refine Frame.comp ?_ (State.foldClear_frame _ _ _) rfl
  exact Frame.refl
  split
  refine Frame.comp ?_ (State.recompClear_frame _ _) rfl
  refine Frame.comp ?_ (State.foldClear_frame _ _ _) rfl
  exact Frame.refl
  refine Frame.comp ?_ (State.foldClear_frame _ _ _) rfl
  exact Frame.refl

theorem State.replayStart_frame (s0 : State) (q n : Nat) : Frame [.ms, .hg, .mv, .ham, .ld, .irq, .pcie, .im, .mc, .af,
    .uk, .xe, .fab, .ctrs, .out] s0 (s0.replayStart q n) := by
  unfold State.replayStart
  dsimp only
  split
  refine Frame.comp ?_ (State.failCmd_frame _ _ _ _) rfl
  refine Frame.comp ?_ (State.readJournal_frame _) rfl
  exact Frame.refl
  refine Frame.comp ?_ (State.replayEnd_frame _) rfl
  refine Frame.comp ?_ (State.updCmd_frame _ _ _) rfl
  refine Frame.upd ?_
  refine Frame.comp ?_ (State.setStep_frame _ _ _) rfl
  refine Frame.comp ?_ (State.setStep_frame _ _ _) rfl
  refine Frame.foldl (fun _ _ => ?_) _ ?_
  refine Frame.comp ?_ (State.updCmd_frame _ _ _) rfl
  refine Frame.comp ?_ (State.dropRun_frame _ _) rfl
  exact Frame.refl
  refine Frame.comp ?_ (State.readJournal_frame _) rfl
  exact Frame.refl

theorem State.addCmd_frame (s : State) (c : Cmd) : Frame [.hg] s (s.addCmd c) := by
  unfold State.addCmd
  refine Frame.upd ?_
  exact Frame.refl

theorem State.putCmd_frame (s : State) (c : Cmd) : Frame [.hg] s (s.putCmd c) := by
  unfold State.putCmd
  split
  refine Frame.upd ?_
  exact Frame.refl
  refine Frame.comp ?_ (State.addCmd_frame _ _) rfl
  exact Frame.refl

theorem State.announce_frame (s : State) (c : Cmd) : Frame [.af] s (s.announce c) := by
  unfold State.announce
  split
  exact Frame.refl
  split
  exact Frame.refl
  split
  exact Frame.refl
  refine Frame.comp ?_ (State.setResident_frame _ _) rfl
  exact Frame.refl

theorem State.accept_frame (s : State) (c : Cmd) : Frame [.hg, .im, .af] s (s.accept c) := by
  unfold State.accept
  dsimp only
  split
  refine Frame.comp ?_ (State.putCmd_frame _ _) rfl
  refine Frame.upd ?_
  exact Frame.refl
  refine Frame.comp ?_ (State.announce_frame _ _) rfl
  refine Frame.upd ?_
  refine Frame.comp ?_ (State.setStep_frame _ _ _) rfl
  refine Frame.comp ?_ (State.putCmd_frame _ _) rfl
  refine Frame.upd ?_
  exact Frame.refl

theorem State.turnAway_frame (s : State) (c : Cmd) (t0 : Status) (detail : Nat) : Frame [.hg, .ld, .irq, .pcie, .fab,
    .out] s (s.turnAway c t0 detail) := by
  unfold State.turnAway
  refine Frame.comp ?_ (State.haltOn_frame _ _ _) rfl
  refine Frame.comp ?_ (State.putCmd_frame _ _) rfl
  exact Frame.refl

theorem State.acceptIn_frame (s : State) (c : Cmd) (n : Nat) : Frame [.hg, .ld, .irq, .pcie, .im, .af, .fab, .out] s
    (s.acceptIn c n) := by
  unfold State.acceptIn
  split
  refine Frame.comp ?_ (State.turnAway_frame _ _ _ _) rfl
  exact Frame.refl
  refine Frame.comp ?_ (State.accept_frame _ _) rfl
  exact Frame.refl

theorem State.stepCheck_frame (s : State) (c : Cmd) : Frame [.hg, .ld, .irq, .pcie, .im, .af, .fab, .out] s (s.stepCheck
    c) := by
  unfold State.stepCheck
  split
  split
  refine Frame.comp ?_ (State.turnAway_frame _ _ _ _) rfl
  exact Frame.refl
  refine Frame.comp ?_ (State.accept_frame _ _) rfl
  exact Frame.refl
  split
  refine Frame.comp ?_ (State.turnAway_frame _ _ _ _) rfl
  exact Frame.refl
  refine Frame.comp ?_ (State.addCmd_frame _ _) rfl
  exact Frame.refl
  refine Frame.comp ?_ (State.acceptIn_frame _ _ _) rfl
  exact Frame.refl

theorem State.admitCmd_frame (s : State) (c : Cmd) : Frame [.hg, .ld, .tb, .irq, .pcie, .im, .af, .fab, .out] s
    (s.admitCmd c) := by
  unfold State.admitCmd
  dsimp only
  split
  refine Frame.comp ?_ (State.setRing_frame _ _ _) rfl
  refine Frame.comp ?_ (State.turnAway_frame _ _ _ _) rfl
  exact Frame.refl
  split
  refine Frame.comp ?_ (State.turnAway_frame _ _ _ _) rfl
  exact Frame.refl
  split
  refine Frame.comp ?_ (State.turnAway_frame _ _ _ _) rfl
  split
  refine Frame.comp ?_ (State.authAccept_frame _ _) rfl
  exact Frame.refl
  exact Frame.refl
  refine Frame.comp ?_ (State.stepCheck_frame _ _) rfl
  split
  refine Frame.comp ?_ (State.authAccept_frame _ _) rfl
  exact Frame.refl
  exact Frame.refl

theorem State.begin_frame (s : State) (c : Cmd) (q : Nat) : Frame [.hg, .ld, .im, .af] s (s.begin c q) := by
  unfold State.begin
  dsimp only
  refine Frame.comp ?_ (State.logRec_frame _ _ _ _ _ _ _) rfl
  refine Frame.comp ?_ (State.onStart_frame _ _) rfl
  refine Frame.comp ?_ (State.updCmd_frame _ _ _) rfl
  split
  refine Frame.comp ?_ (State.setRing_frame _ _ _) rfl
  exact Frame.refl
  exact Frame.refl

theorem State.clearCmd_frame (s : State) (q : Nat) : Frame [.ms, .hg, .ham, .ld, .irq, .pcie, .im, .mc, .af, .uk, .xe,
    .fab, .ctrs, .free, .out] s (s.clearCmd q) := by
  unfold State.clearCmd
  split
  exact Frame.refl
  split
  exact Frame.refl
  dsimp only
  split
  refine Frame.comp ?_ (State.failCmd_frame _ _ _ _) rfl
  exact Frame.refl
  split
  split
  refine Frame.comp ?_ (State.logRec_frame _ _ _ _ _ _ _) rfl
  refine Frame.comp ?_ (State.onClear_frame _ _) rfl
  refine Frame.comp ?_ (State.updCmd_frame _ _ _) rfl
  exact Frame.refl
  refine Frame.comp ?_ (State.onClear_frame _ _) rfl
  refine Frame.comp ?_ (State.updCmd_frame _ _ _) rfl
  exact Frame.refl
  exact Frame.refl

theorem State.goActive_frame (s : State) : Frame [.ld] s (s.goActive) := by
  unfold State.goActive
  dsimp only
  refine Frame.comp ?_ (State.linkUse_frame _) rfl
  refine Frame.upd ?_
  exact Frame.refl

theorem State.fetch_frame (s : State) (n : Nat) (newRound : Bool) : Frame [.hg, .ld, .tb, .irq, .pcie, .im, .af, .fab,
    .out] s (s.fetch n newRound) := by
  unfold State.fetch
  dsimp only
  split
  refine Frame.comp ?_ (State.haltRing_frame _ _ _) rfl
  exact Frame.refl
  split
  refine Frame.comp ?_ (State.haltRing_frame _ _ _) rfl
  exact Frame.refl
  refine Frame.comp ?_ (State.admitCmd_frame _ _) rfl
  refine Frame.comp ?_ (State.goActive_frame _) rfl
  refine Frame.comp ?_ (State.setRing_frame _ _ _) rfl
  refine Frame.upd ?_
  exact Frame.refl

theorem State.updId_frame (s : State) (i : Nat) (f : Cmd → Cmd) : Frame [.hg] s (s.updId i f) := by
  unfold State.updId
  refine Frame.upd ?_
  exact Frame.refl

theorem State.noteReady_frame (s : State) (n : Nat) : Frame [.hg] s (s.noteReady n) := by
  unfold State.noteReady
  split
  exact Frame.refl
  refine Frame.foldl (fun _ _ => ?_) _ ?_
  refine Frame.comp ?_ (State.updId_frame _ _ _) rfl
  exact Frame.refl
  exact Frame.refl

theorem State.graceExpiry_frame (s0 : State) (n : Nat) : Frame [.hg, .ld, .irq, .pcie, .fab, .out] s0 (s0.graceExpiry n) := by
  unfold State.graceExpiry
  dsimp only
  split
  refine Frame.comp ?_ (State.arrive_frame _ _) rfl
  refine Frame.comp ?_ (State.setRing_frame _ _ _) rfl
  refine Frame.comp ?_ (State.noteReady_frame _ _) rfl
  exact Frame.refl
  refine Frame.comp ?_ (State.noteReady_frame _ _) rfl
  exact Frame.refl

theorem State.hint_frame (s : State) : Frame [.hg] s (s.hint) := by
  unfold State.hint
  refine Frame.foldl (fun _ _ => ?_) _ ?_
  split
  dsimp only
  refine Frame.comp ?_ (State.setRing_frame _ _ _) rfl
  exact Frame.refl
  exact Frame.refl
  exact Frame.refl

theorem State.holdTimeout_frame (s : State) (q : Nat) : Frame [.hg, .ham, .ld, .irq, .pcie, .xe, .fab, .out] s
    (s.holdTimeout q) := by
  unfold State.holdTimeout
  split
  exact Frame.refl
  split
  exact Frame.refl
  split
  refine Frame.comp ?_ (State.failCmd_frame _ _ _ _) rfl
  exact Frame.refl
  exact Frame.refl

theorem State.poll_frame (s : State) (n : Nat) : Frame [.hg, .ld, .irq, .pcie, .fab, .out] s (s.poll n) := by
  unfold State.poll
  dsimp only
  split
  refine Frame.comp ?_ (State.haltRing_frame _ _ _) rfl
  refine Frame.comp ?_ (State.setRing_frame _ _ _) rfl
  refine Frame.comp ?_ (State.linkUse_frame _) rfl
  exact Frame.refl
  split
  refine Frame.comp ?_ (State.haltRing_frame _ _ _) rfl
  refine Frame.comp ?_ (State.setRing_frame _ _ _) rfl
  refine Frame.comp ?_ (State.linkUse_frame _) rfl
  exact Frame.refl
  split
  split
  split
  refine Frame.comp ?_ (State.goActive_frame _) rfl
  refine Frame.comp ?_ (State.setRing_frame _ _ _) rfl
  refine Frame.comp ?_ (State.linkUse_frame _) rfl
  exact Frame.refl
  refine Frame.comp ?_ (State.setRing_frame _ _ _) rfl
  refine Frame.comp ?_ (State.linkUse_frame _) rfl
  exact Frame.refl
  split
  refine Frame.comp ?_ (State.goActive_frame _) rfl
  refine Frame.comp ?_ (State.setRing_frame _ _ _) rfl
  refine Frame.comp ?_ (State.linkUse_frame _) rfl
  exact Frame.refl
  refine Frame.comp ?_ (State.setRing_frame _ _ _) rfl
  refine Frame.comp ?_ (State.linkUse_frame _) rfl
  exact Frame.refl
  split
  split
  refine Frame.comp ?_ (State.goActive_frame _) rfl
  refine Frame.comp ?_ (State.setRing_frame _ _ _) rfl
  refine Frame.comp ?_ (State.linkUse_frame _) rfl
  exact Frame.refl
  refine Frame.comp ?_ (State.setRing_frame _ _ _) rfl
  refine Frame.comp ?_ (State.linkUse_frame _) rfl
  exact Frame.refl
  split
  refine Frame.comp ?_ (State.goActive_frame _) rfl
  refine Frame.comp ?_ (State.setRing_frame _ _ _) rfl
  refine Frame.comp ?_ (State.linkUse_frame _) rfl
  exact Frame.refl
  refine Frame.comp ?_ (State.setRing_frame _ _ _) rfl
  refine Frame.comp ?_ (State.linkUse_frame _) rfl
  exact Frame.refl

theorem State.releaseHold_frame (s : State) (n : Nat) : Frame [.hg, .ld, .irq, .pcie, .im, .af, .fab, .out] s
    (s.releaseHold n) := by
  unfold State.releaseHold
  split
  exact Frame.refl
  split
  exact Frame.refl
  split
  exact Frame.refl
  exact Frame.refl
  refine Frame.comp ?_ (State.acceptIn_frame _ _ _) rfl
  exact Frame.refl

theorem State.ringCtrlWrite_frame (s : State) (m : Master) (n v : Nat) (hp : n < 64) :
    Frame [.hg, .regs] s (s.ringCtrlWrite m n v) := by
  unfold State.ringCtrlWrite
  dsimp only
  generalize hb : (if (s.ringEnabled n || s.inFlight n != 0) = true then s.ringLog2 n else bitsOf v 16 5) = b
  have hb' : b < 32 := by rw [← hb]; split <;> exact bitsOf_lt _ _ _
  have hr : regEntryOk (rRingCtrl n, BitVec.ofNat 64 (b * 2 ^ 16 + bitsOf v 29 1 * 2 ^ 29)) = true := rRingCtrl_ok hp hb'
      v false
  have hr' : regEntryOk (rRingCtrl n, BitVec.ofNat 64 (2 ^ 31 + (b * 2 ^ 16 + bitsOf v 29 1 * 2 ^ 29))) = true :=
    rRingCtrl_ok hp hb' v true
  split
  exact Frame.refl
  split
  split
  split
  refine Frame.comp ?_ (State.setRing_frame _ _ _) rfl
  refine Frame.comp ?_ (State.setReg_frame _ _ _ (by first | assumption | exact masked_ok (by assumption))) rfl
  exact Frame.refl
  refine Frame.comp ?_ (State.setReg_frame _ _ _ (by first | assumption | exact masked_ok (by assumption))) rfl
  exact Frame.refl
  split
  refine Frame.comp ?_ (State.setReg_frame _ _ _ (by first | assumption | exact masked_ok (by assumption))) rfl
  exact Frame.refl
  refine Frame.comp ?_ (State.setRing_frame _ _ _) rfl
  refine Frame.comp ?_ (State.setReg_frame _ _ _ (by first | assumption | exact masked_ok (by assumption))) rfl
  exact Frame.refl
  refine Frame.comp ?_ (State.setRing_frame _ _ _) rfl
  refine Frame.comp ?_ (State.setReg_frame _ _ _ (by first | assumption | exact masked_ok (by assumption))) rfl
  exact Frame.refl

theorem State.runSgnl_frame (s : State) (q : Nat) : Frame [.hg, .ham, .ld, .irq, .pcie, .im, .xe, .fab, .out] s (s.runSgnl
    q) := by
  unfold State.runSgnl
  split
  exact Frame.refl
  dsimp only
  split
  refine Frame.comp ?_ (State.failCmd_frame _ _ _ _) rfl
  exact Frame.refl
  split
  split
  exact Frame.refl
  split
  refine Frame.comp ?_ (State.deliver_frame _ _) rfl
  exact Frame.refl
  split
  refine Frame.comp ?_ (State.deliver_frame _ _) rfl
  refine Frame.comp ?_ (State.signal_frame _ _ _ _) rfl
  refine Frame.upd ?_
  exact Frame.refl
  refine Frame.comp ?_ (State.deliver_frame _ _) rfl
  refine Frame.comp ?_ (State.signal_frame _ _ _ _) rfl
  exact Frame.refl
  split
  exact Frame.refl
  split
  refine Frame.comp ?_ (State.deliver_frame _ _) rfl
  exact Frame.refl
  split
  refine Frame.comp ?_ (State.deliver_frame _ _) rfl
  refine Frame.comp ?_ (State.signal_frame _ _ _ _) rfl
  refine Frame.upd ?_
  exact Frame.refl
  refine Frame.comp ?_ (State.deliver_frame _ _) rfl
  refine Frame.comp ?_ (State.signal_frame _ _ _ _) rfl
  exact Frame.refl

theorem State.satisfy_frame (s : State) (q e : Nat) : Frame [.hg, .ld, .irq, .pcie, .im, .fab, .out] s (s.satisfy q e) := by
  unfold State.satisfy
  refine Frame.comp ?_ (State.deliver_frame _ _) rfl
  refine Frame.comp ?_ (State.updCmd_frame _ _ _) rfl
  exact Frame.refl

theorem State.runWait_frame (s : State) (q : Nat) : Frame [.hg, .ld, .irq, .pcie, .im, .fab, .out] s (s.runWait q) := by
  unfold State.runWait
  split
  exact Frame.refl
  split
  refine Frame.comp ?_ (State.satisfy_frame _ _ _) rfl
  exact Frame.refl
  refine Frame.comp ?_ (State.updCmd_frame _ _ _) rfl
  exact Frame.refl

theorem State.startCmd_frame (s : State) (q : Nat) : Frame [.hg, .ham, .ld, .irq, .pcie, .im, .af, .xe, .fab, .out] s
    (s.startCmd q) := by
  unfold State.startCmd
  split
  exact Frame.refl
  split
  exact Frame.refl
  split
  refine Frame.comp ?_ (State.failOrphans_frame _) rfl
  refine Frame.comp ?_ (State.failCmd_frame _ _ _ _) rfl
  exact Frame.refl
  dsimp only
  split
  refine Frame.comp ?_ (State.failCmd_frame _ _ _ _) rfl
  exact Frame.refl
  split
  refine Frame.comp ?_ (State.updCmd_frame _ _ _) rfl
  exact Frame.refl
  refine Frame.comp ?_ (State.begin_frame _ _ _) rfl
  exact Frame.refl

theorem State.versionTimeout_frame (s : State) (q : Nat) : Frame [.hg, .ham, .ld, .irq, .pcie, .xe, .fab, .out] s
    (s.versionTimeout q) := by
  unfold State.versionTimeout
  split
  split
  refine Frame.comp ?_ (State.failCmd_frame _ _ _ _) rfl
  exact Frame.refl
  exact Frame.refl
  exact Frame.refl

theorem State.waitExpiry_frame (s : State) (q : Nat) : Frame [.hg, .ham, .ld, .irq, .pcie, .xe, .fab, .out] s
    (s.waitExpiry q) := by
  unfold State.waitExpiry
  split
  exact Frame.refl
  split
  exact Frame.refl
  refine Frame.comp ?_ (State.haltRing_frame _ _ _) rfl
  refine Frame.comp ?_ (State.failCmd_frame _ _ _ _) rfl
  exact Frame.refl

theorem State.writeRecord_frame (s : State) (n : Nat) : Frame [.ms, .hg, .ld, .irq, .pcie, .im, .fab, .ctrs, .out] s
    (s.writeRecord n) := by
  unfold State.writeRecord
  split
  exact Frame.refl
  dsimp only
  split
  exact Frame.refl
  split
  refine Frame.comp ?_ (State.noteReady_frame _ _) rfl
  exact Frame.refl
  split
  refine Frame.comp ?_ (State.haltRing_frame _ _ _) rfl
  refine Frame.comp ?_ (State.setRing_frame _ _ _) rfl
  exact Frame.refl
  refine Frame.comp ?_ (State.logRec_frame _ _ _ _ _ _ _) rfl
  refine Frame.comp ?_ (State.linkUse_frame _) rfl
  refine Frame.upd ?_
  split
  refine Frame.comp ?_ (State.arrive_frame _ _) rfl
  refine Frame.comp ?_ (State.setRing_frame _ _ _) rfl
  refine Frame.comp ?_ (State.updId_frame _ _ _) rfl
  refine Frame.comp ?_ (State.wr_frame _ _ _) rfl
  split
  refine Frame.comp ?_ (State.wr_frame _ _ _) rfl
  exact Frame.refl
  exact Frame.refl
  refine Frame.comp ?_ (State.setRing_frame _ _ _) rfl
  refine Frame.comp ?_ (State.updId_frame _ _ _) rfl
  refine Frame.comp ?_ (State.wr_frame _ _ _) rfl
  split
  refine Frame.comp ?_ (State.wr_frame _ _ _) rfl
  exact Frame.refl
  exact Frame.refl

theorem execBringupHoldTimeout_frame (q : Nat) (s : State) : ∃ t, execBringupHoldTimeout q s = .next t ∧ Frame [.hg, .ham,
    .ld, .irq, .pcie, .xe, .fab, .out] s t := by
  refine ⟨_, rfl, ?_⟩
  refine Frame.comp ?_ (State.holdTimeout_frame _ _) rfl
  exact Frame.refl

theorem execCommandClear_frame (q : Nat) (s : State) : ∃ t, execCommandClear q s = .next t ∧ Frame [.ms, .hg, .ham, .ld,
    .irq, .pcie, .im, .mc, .af, .uk, .xe, .fab, .ctrs, .free, .out] s t := by
  refine ⟨_, rfl, ?_⟩
  refine Frame.comp ?_ (State.clearCmd_frame _ _) rfl
  exact Frame.refl

theorem execCommandFetch_frame (n : Fin 64) (s : State) : ∃ t, execCommandFetch n s = .next t ∧ Frame [.hg, .ld, .tb,
    .irq, .pcie, .im, .af, .fab, .out] s t := by
  refine ⟨_, rfl, ?_⟩
  split
  split
  refine Frame.comp ?_ (State.fetch_frame _ _ _) rfl
  exact Frame.refl
  exact Frame.refl
  exact Frame.refl

theorem execCommandStart_frame (q : Nat) (s : State) : ∃ t, execCommandStart q s = .next t ∧ Frame [.hg, .ham, .ld, .irq,
    .pcie, .im, .af, .xe, .fab, .out] s t := by
  refine ⟨_, rfl, ?_⟩
  refine Frame.comp ?_ (State.startCmd_frame _ _) rfl
  exact Frame.refl

theorem execCompletionGraceExpiry_frame (n : Fin 64) (s : State) : ∃ t, execCompletionGraceExpiry n s = .next t ∧ Frame
    [.hg, .ld, .irq, .pcie, .fab, .out] s t := by
  refine ⟨_, rfl, ?_⟩
  refine Frame.comp ?_ (State.graceExpiry_frame _ _) rfl
  exact Frame.refl

theorem execCompletionRecordWrite_frame (n : Fin 64) (s : State) : ∃ t, execCompletionRecordWrite n s = .next t ∧ Frame
    [.ms, .hg, .ld, .irq, .pcie, .im, .fab, .ctrs, .out] s t := by
  refine ⟨_, rfl, ?_⟩
  refine Frame.comp ?_ (State.writeRecord_frame _ _) rfl
  exact Frame.refl

theorem execDoorbellPoll_frame (n : Fin 64) (e : Env) (s : State) : ∃ t, execDoorbellPoll n e s = .next t ∧ Frame [.ms,
    .hg, .ld, .irq, .pcie, .fab, .out] s t := by
  refine ⟨_, rfl, ?_⟩
  dsimp only
  split
  refine Frame.comp ?_ (State.poll_frame _ _) rfl
  refine Frame.comp ?_ (State.applyEnv_frame _ _) rfl
  exact Frame.refl
  refine Frame.comp ?_ (State.applyEnv_frame _ _) rfl
  exact Frame.refl

theorem execFenc_frame (q : Nat) (s : State) : ∃ t, execFenc q s = .next t ∧ Frame [.hg, .ld, .irq, .pcie, .im, .fab,
    .out] s t := by
  refine ⟨_, rfl, ?_⟩
  split
  refine Frame.comp ?_ (State.deliver_frame _ _) rfl
  exact Frame.refl
  exact Frame.refl

theorem execFencAll_frame (q : Nat) (s : State) : ∃ t, execFencAll q s = .next t ∧ Frame [.hg, .ld, .irq, .pcie, .im,
    .fab, .out] s t := by
  refine ⟨_, rfl, ?_⟩
  split
  refine Frame.comp ?_ (State.deliver_frame _ _) rfl
  exact Frame.refl
  exact Frame.refl

theorem execFencReplay_frame (q : Nat) (s : State) : ∃ t, execFencReplay q s = .next t ∧ Frame [.ms, .hg, .mv, .ham, .ld,
    .irq, .pcie, .im, .mc, .af, .uk, .xe, .fab, .ctrs, .out] s t := by
  refine ⟨_, rfl, ?_⟩
  split
  split
  exact Frame.refl
  refine Frame.comp ?_ (State.replayStart_frame _ _ _) rfl
  exact Frame.refl
  refine Frame.comp ?_ (State.replayEnd_frame _) rfl
  exact Frame.refl

theorem execFencRestart_frame (q : Nat) (s : State) : ∃ t, execFencRestart q s = .next t ∧ Frame [.hg, .ham, .ld, .irq,
    .pcie, .im, .xe, .fab, .out] s t := by
  refine ⟨_, rfl, ?_⟩
  split
  refine Frame.comp ?_ (State.deliver_frame _ _) rfl
  refine Frame.comp ?_ (State.fencRestart_frame _) rfl
  exact Frame.refl
  exact Frame.refl

theorem execHintWindowWrite_frame (x0 : Fin 4096) (x1 : W32) (s : State) : ∃ t, execHintWindowWrite x0 x1 s = .next t ∧
    Frame [.hg, .ld] s t := by
  refine ⟨_, rfl, ?_⟩
  split
  exact Frame.refl
  refine Frame.comp ?_ (State.wakeA2_frame _ _) rfl
  refine Frame.comp ?_ (State.hint_frame _) rfl
  refine Frame.comp ?_ (State.linkUse_frame _) rfl
  exact Frame.refl

theorem execRingDisable_frame (m : Master) (n : Fin 64) (v : W32) (s : State) : ∃ t, execRingDisable m n v s = .next t ∧
    Frame [.hg, .ld, .regs] s t := by
  refine ⟨_, rfl, ?_⟩
  dsimp only
  split
  refine Frame.comp ?_ (State.reachedBy_frame _ _) rfl
  exact Frame.refl
  refine Frame.comp ?_ (State.ringCtrlWrite_frame _ _ _ _ (Fin.isLt _)) rfl
  refine Frame.comp ?_ (State.reachedBy_frame _ _) rfl
  exact Frame.refl

theorem execRingEnable_frame (m : Master) (n : Fin 64) (v : W32) (s : State) : ∃ t, execRingEnable m n v s = .next t ∧
    Frame [.hg, .ld, .regs] s t := by
  refine ⟨_, rfl, ?_⟩
  dsimp only
  split
  refine Frame.comp ?_ (State.ringCtrlWrite_frame _ _ _ _ (Fin.isLt _)) rfl
  refine Frame.comp ?_ (State.reachedBy_frame _ _) rfl
  exact Frame.refl
  refine Frame.comp ?_ (State.reachedBy_frame _ _) rfl
  exact Frame.refl

theorem execRingResume_frame (m : Master) (n : Fin 64) (v : W32) (s : State) : ∃ t, execRingResume m n v s = .next t ∧
    Frame [.hg, .ld, .regs] s t := by
  refine ⟨_, rfl, ?_⟩
  dsimp only
  split
  refine Frame.comp ?_ (State.ringCtrlWrite_frame _ _ _ _ (Fin.isLt _)) rfl
  refine Frame.comp ?_ (State.reachedBy_frame _ _) rfl
  exact Frame.refl
  refine Frame.comp ?_ (State.reachedBy_frame _ _) rfl
  exact Frame.refl

theorem execSgnl_frame (q : Nat) (s : State) : ∃ t, execSgnl q s = .next t ∧ Frame [.hg, .ham, .ld, .irq, .pcie, .im, .xe,
    .fab, .out] s t := by
  refine ⟨_, rfl, ?_⟩
  refine Frame.comp ?_ (State.runSgnl_frame _ _) rfl
  exact Frame.refl

theorem execStepHoldRelease_frame (n : Fin 64) (s : State) : ∃ t, execStepHoldRelease n s = .next t ∧ Frame [.hg, .ld,
    .irq, .pcie, .im, .af, .fab, .out] s t := by
  refine ⟨_, rfl, ?_⟩
  refine Frame.comp ?_ (State.releaseHold_frame _ _) rfl
  exact Frame.refl

theorem execVersionWaitTimeout_frame (q : Nat) (s : State) : ∃ t, execVersionWaitTimeout q s = .next t ∧ Frame [.hg, .ham,
    .ld, .irq, .pcie, .xe, .fab, .out] s t := by
  refine ⟨_, rfl, ?_⟩
  refine Frame.comp ?_ (State.versionTimeout_frame _ _) rfl
  exact Frame.refl

theorem execWait_frame (q : Nat) (s : State) : ∃ t, execWait q s = .next t ∧ Frame [.hg, .ld, .irq, .pcie, .im, .fab,
    .out] s t := by
  refine ⟨_, rfl, ?_⟩
  refine Frame.comp ?_ (State.runWait_frame _ _) rfl
  exact Frame.refl

theorem execWaitSatisfied_frame (q : Nat) (s : State) : ∃ t, execWaitSatisfied q s = .next t ∧ Frame [.hg, .ld, .irq,
    .pcie, .im, .fab, .out] s t := by
  refine ⟨_, rfl, ?_⟩
  split
  split
  refine Frame.comp ?_ (State.satisfy_frame _ _ _) rfl
  exact Frame.refl
  exact Frame.refl
  exact Frame.refl

theorem execWaitTimeoutExpiry_frame (q : Nat) (s : State) : ∃ t, execWaitTimeoutExpiry q s = .next t ∧ Frame [.hg, .ham,
    .ld, .irq, .pcie, .xe, .fab, .out] s t := by
  refine ⟨_, rfl, ?_⟩
  refine Frame.comp ?_ (State.waitExpiry_frame _ _) rfl
  exact Frame.refl

end Sys2Proof.Machine
end

