-- ==== Sys2Proof/Laws/FrameModule.lean ====
section
/-!
SUPPORT. The frame of each function of power, the lantern and what is seen from outside: which components of the state it may change, the queue of waiting
commands apart, and that it keeps the stored form of memory and registers. A lemma `execX_frame` says besides that the row
`X` answers a next state, whatever the state and the operands.
-/
namespace Sys2Proof.Machine

open Sys2Proof

set_option Elab.async false

theorem State.advance_frame (s : State) : Frame [.ld] s (s.advance) := by
  unfold State.advance
  dsimp only
  refine Frame.upd ?_
  exact Frame.refl

theorem State.alertNow_frame (s : State) : Frame [.ld, .irq, .pcie, .fab, .out] s (s.alertNow) := by
  unfold State.alertNow
  dsimp only
  split
  exact Frame.refl
  refine Frame.comp ?_ (State.arrive_frame _ _) rfl
  refine Frame.upd ?_
  exact Frame.refl

theorem State.dawnLock_frame (s : State) (k : Nat) : Frame [.ld] s (s.dawnLock k) := by
  unfold State.dawnLock
  split
  refine Frame.comp ?_ (State.setDom_frame _ _ _) rfl
  refine Frame.upd ?_
  exact Frame.refl
  exact Frame.refl

theorem State.dropAligned_frame (s : State) : Frame [.ld, .irq, .pcie, .fab, .out] s (s.dropAligned) := by
  unfold State.dropAligned
  split
  refine Frame.comp ?_ (State.arrive_frame _ _) rfl
  refine Frame.upd ?_
  exact Frame.refl
  exact Frame.refl

theorem State.governor_frame (s : State) (g : GovSample) : Frame [.ld, .irq, .pcie, .im, .fab, .free, .out] s (s.governor
    g) := by
  unfold State.governor
  dsimp only
  refine Frame.comp ?_ (State.alertNow_frame _) rfl
  refine Frame.comp ?_ (State.freeStep_frame _) rfl
  refine Frame.comp ?_ (State.logRec_frame _ _ _ _ _ _ _) rfl
  refine Frame.foldl (fun _ _ => ?_) _ ?_
  split
  exact Frame.refl
  refine Frame.comp ?_ (State.logRec_frame _ _ _ _ _ _ _) rfl
  exact Frame.refl
  refine Frame.upd ?_ (tld := fun h => ⟨h.1, h.2.1, h.2.2.1, Tab.rising_foldl_set _ _ _ rfl, h.2.2.2.2⟩)
  exact Frame.refl

theorem State.ptmDialogue_frame (s : State) (host : Nat) : Frame [.ld, .irq, .pcie, .fab, .free, .out] s (s.ptmDialogue
    host) := by
  unfold State.ptmDialogue
  split
  exact Frame.refl
  dsimp only
  split
  refine Frame.comp ?_ (State.arrive_frame _ _) rfl
  refine Frame.upd ?_
  exact Frame.refl
  split
  refine Frame.upd ?_
  exact Frame.refl
  split
  refine Frame.upd ?_
  exact Frame.refl
  refine Frame.comp ?_ (State.freeStep_frame _) rfl
  refine Frame.upd ?_
  exact Frame.refl

theorem execDawnPllLock_frame (d : Domain) (s : State) : ∃ t, execDawnPllLock d s = .next t ∧ Frame [.ld] s t := by
  refine ⟨_, rfl, ?_⟩
  refine Frame.comp ?_ (State.dawnLock_frame _ _) rfl
  exact Frame.refl

theorem execGovernorSample_frame (g : GovSample) (s : State) : ∃ t, execGovernorSample g s = .next t ∧ Frame [.ld, .irq,
    .pcie, .im, .fab, .free, .out] s t := by
  refine ⟨_, rfl, ?_⟩
  split
  refine Frame.comp ?_ (State.governor_frame _ _) rfl
  exact Frame.refl
  exact Frame.refl

theorem execPtmDialogue_frame (host : W64) (s : State) : ∃ t, execPtmDialogue host s = .next t ∧ Frame [.ld, .irq, .pcie,
    .fab, .free, .out] s t := by
  refine ⟨_, rfl, ?_⟩
  refine Frame.comp ?_ (State.ptmDialogue_frame _ _) rfl
  exact Frame.refl

theorem execPtmTimeout_frame (s : State) : ∃ t, execPtmTimeout s = .next t ∧ Frame [.ld, .irq, .pcie, .fab, .out] s t := by
  refine ⟨_, rfl, ?_⟩
  split
  refine Frame.comp ?_ (State.dropAligned_frame _) rfl
  exact Frame.refl
  exact Frame.refl

theorem execPwrbrkAssert_frame (s : State) : ∃ t, execPwrbrkAssert s = .next t ∧ Frame [.ld, .irq, .pcie, .fab, .out] s t := by
  refine ⟨_, rfl, ?_⟩
  split
  exact Frame.refl
  refine Frame.comp ?_ (State.alertNow_frame _) rfl
  refine Frame.comp ?_ (State.arrive_frame _ _) rfl
  refine Frame.upd ?_
  exact Frame.refl

theorem execPwrbrkRelease_frame (s : State) : ∃ t, execPwrbrkRelease s = .next t ∧ Frame [.ld, .irq, .pcie, .fab, .out] s
    t := by
  refine ⟨_, rfl, ?_⟩
  split
  refine Frame.comp ?_ (State.alertNow_frame _) rfl
  refine Frame.comp ?_ (State.arrive_frame _ _) rfl
  refine Frame.upd ?_
  exact Frame.refl
  exact Frame.refl

theorem State.applySpares_frame (s : State) (bank : Nat) : Frame [.af] s (s.applySpares bank) := by
  unfold State.applySpares
  refine Frame.foldl (fun _ _ => ?_) _ ?_
  dsimp only
  refine Frame.comp ?_ (State.setArr_frame _ _ _) rfl
  refine Frame.comp ?_ (State.setArr_frame _ _ _) rfl
  exact Frame.refl
  exact Frame.refl

theorem State.resetModule_frame (s : State) (link irq : Bool) : Frame [.ms, .hg, .mv, .ham, .ld, .tb, .irq, .pcie, .im,
    .mc, .af, .uk, .xe, .fab, .regs, .ctrs, .latches] s (s.resetModule link irq) := by
  unfold State.resetModule
  dsimp only
  refine Frame.upd ?_
      (hm := MemSys.setMode_wf _ _) (tms := fun h => have h := MemSys.setMode_tabs _ _ h; ⟨h.1, h.2.1, h.2.2.1, h.2.2.2.1,
          h.2.2.2.2.1, rfl, rfl, rfl⟩) (thg := fun _ => State.reset_tabsOk.hg)
      (tld := fun _ => ⟨iteInduction (motive := Tab.Ordered) (fun _ => rfl) fun _ => rfl, rfl, rfl, rfl, rfl⟩) 
      (tirq := fun h => iteInduction (motive := Irq.TabsOk) (fun _ => h) fun _ => ⟨rfl, rfl, rfl⟩)
      (tpcie := fun h => iteInduction (motive := Pcie.TabsOk) (fun _ => h) fun _ => ⟨rfl, rfl, rfl, rfl, rfl⟩)
      (tim := fun h => ⟨rfl, rfl, rfl, h.2.2.2.1, rfl⟩) (tmc := fun _ => State.reset_tabsOk.mc)
      (taf := fun h => ⟨keptArrays_ordered h.1 _, rfl, rfl⟩) (tfab := fun _ => State.reset_tabsOk.fab)
      (tmv := fun _ => rfl) (tctrs := fun _ => rfl)
  exact Frame.refl

theorem State.bringUp_frame (s : State) : Frame [.ms, .hg, .mv, .ham, .ld, .tb, .irq, .pcie, .im, .mc, .af, .uk, .xe,
    .fab, .regs, .ctrs, .latches] s s.bringUp := by
  have h1 : Frame [.ms, .hg, .mv, .ham, .ld, .tb, .irq, .pcie, .im, .mc, .af, .uk, .xe, .fab, .regs, .ctrs, .latches] s
      (s.resetModule false s.ld.a3ByLink) := State.resetModule_frame _ _ _ |>.mono rfl
  refine ⟨h1.pending, h1.mem, h1.regs, fun h => ?_, fun c hc => ?_⟩
  · have hs := h1.tabs h
    exact { hs with
      ld := hs.ld
      pcie := ⟨hs.pcie.1, hs.pcie.2.1, hs.pcie.2.2.1, iteInduction (motive := Tab.Ordered) (fun _ => h.pcie.2.2.2.1) fun _
          => rfl,
        hs.pcie.2.2.2.2⟩ }
  · have := h1.same c hc
    cases c <;> first | exact this | exact absurd (by decide) hc

theorem State.enterA2_frame (s : State) : Frame [.ld] s (s.enterA2) := by
  unfold State.enterA2
  refine Frame.upd ?_
  exact Frame.refl

theorem State.doze_frame (s : State) : Frame [.ld] s (s.doze) := by
  unfold State.doze
  split
  exact Frame.refl
  split
  refine Frame.comp ?_ (State.enterA2_frame _) rfl
  exact Frame.refl
  split
  refine Frame.comp ?_ (State.enterA2_frame _) rfl
  exact Frame.refl
  exact Frame.refl

theorem State.dropCommands_frame (s : State) : Frame [.hg, .mv, .tb, .im, .mc, .af, .uk] s (s.dropCommands) := by
  unfold State.dropCommands
  dsimp only
  refine Frame.upd ?_
  exact Frame.refl

theorem State.loseMemory_frame (s : State) : Frame [.ms] s s.loseMemory := by
  unfold State.loseMemory
  exact Frame.upd Frame.refl (fun h => Tab.filter_wf _ h) id

theorem State.enterA3_frame (s : State) (byLink : Bool) : Frame [.ms, .hg, .mv, .ham, .ld, .tb, .irq, .pcie, .im, .mc,
    .af, .uk, .xe, .fab, .regs, .ctrs, .latches] s (s.enterA3 byLink) := by
  unfold State.enterA3
  split
  exact Frame.refl
  dsimp only
  refine Frame.upd ?_
  refine Frame.comp ?_ (State.loseMemory_frame _) rfl
  refine Frame.comp ?_ (State.resetModule_frame _ _ _) rfl
  exact Frame.refl

theorem State.firmwareUp_frame (s : State) : Frame [.hg, .ld, .tb, .irq, .pcie, .im, .xe, .fab, .ctrs, .out] s
    (s.firmwareUp) := by
  unfold State.firmwareUp
  dsimp only
  refine Frame.foldl (fun _ _ => ?_) _ ?_
  split
  refine Frame.comp ?_ (State.retrain_frame _ _) rfl
  exact Frame.refl
  exact Frame.refl
  split
  refine Frame.comp ?_ (State.deliver_frame _ _) rfl
  refine Frame.upd ?_
  refine Frame.comp ?_ (State.setReady_frame _ _) rfl
  exact Frame.refl
  refine Frame.upd ?_
  refine Frame.comp ?_ (State.setReady_frame _ _) rfl
  exact Frame.refl

theorem State.flr_frame (s : State) : Frame [.hg, .mv, .ham, .ld, .tb, .irq, .pcie, .im, .mc, .af, .uk, .xe, .fab, .regs,
    .latches, .out] s (s.flr) := by
  unfold State.flr
  dsimp only
  split
  refine Frame.comp ?_ (State.wakeA2_frame _ _) rfl
  split
  refine Frame.comp ?_ (State.vacate_frame _) rfl
  refine Frame.upd ?_
  refine Frame.comp ?_ (State.fencRestart_frame _) rfl
  refine Frame.comp ?_ (State.dropCommands_frame _) rfl
  exact Frame.refl
  refine Frame.upd ?_
  refine Frame.comp ?_ (State.fencRestart_frame _) rfl
  refine Frame.comp ?_ (State.dropCommands_frame _) rfl
  exact Frame.refl
  split
  refine Frame.comp ?_ (State.vacate_frame _) rfl
  refine Frame.upd ?_
  refine Frame.comp ?_ (State.fencRestart_frame _) rfl
  refine Frame.comp ?_ (State.dropCommands_frame _) rfl
  exact Frame.refl
  refine Frame.upd ?_
  refine Frame.comp ?_ (State.fencRestart_frame _) rfl
  refine Frame.comp ?_ (State.dropCommands_frame _) rfl
  exact Frame.refl

theorem State.functionReady_frame (s : State) (f : Func) (ok : Bool) : Frame [.hg, .ld, .tb, .irq, .pcie, .im, .af, .xe,
    .fab, .ctrs, .out] s (s.functionReady f ok) := by
  unfold State.functionReady
  dsimp only
  split
  exact Frame.refl
  split
  exact Frame.refl
  split
  split
  refine Frame.comp ?_ (State.arrive_frame _ _) rfl
  refine Frame.upd ?_
  refine Frame.comp ?_ (State.setReady_frame _ _) rfl
  refine Frame.upd ?_
  exact Frame.refl
  refine Frame.comp ?_ (State.setReady_frame _ _) rfl
  refine Frame.upd ?_
  exact Frame.refl
  exact Frame.refl
  split
  refine Frame.comp ?_ (State.firmwareUp_frame _) rfl
  exact Frame.refl
  exact Frame.refl
  split
  refine Frame.comp ?_ (State.setReady_frame _ _) rfl
  exact Frame.refl
  exact Frame.refl
  split
  exact Frame.refl
  refine Frame.comp ?_ (State.setFailed_frame _ _) rfl
  exact Frame.refl
  exact Frame.refl
  exact Frame.refl
  exact Frame.refl
  split
  exact Frame.refl
  split
  refine Frame.comp ?_ (State.setReady_frame _ _) rfl
  refine Frame.comp ?_ (State.applySpares_frame _ _) rfl
  exact Frame.refl
  refine Frame.comp ?_ (State.setFailed_frame _ _) rfl
  exact Frame.refl
  split
  exact Frame.refl
  split
  refine Frame.comp ?_ (State.setReady_frame _ _) rfl
  exact Frame.refl
  refine Frame.comp ?_ (State.setFailed_frame _ _) rfl
  exact Frame.refl

theorem State.noteWork_frame (s : State) : Frame [.ld] s (s.noteWork) := by
  unfold State.noteWork
  dsimp only
  refine Frame.upd ?_
  exact Frame.refl

theorem State.pllStop_frame (s : State) (k : Nat) : Frame [.ld] s (s.pllStop k) := by
  unfold State.pllStop
  dsimp only
  split
  refine Frame.comp ?_ (State.setDom_frame _ _ _) rfl
  exact Frame.refl
  exact Frame.refl

theorem State.relock_frame (s : State) : Frame [.hg, .ld, .irq, .pcie, .im, .xe, .fab, .ctrs, .free, .out] s (s.relock) := by
  unfold State.relock
  split
  dsimp only
  refine Frame.comp ?_ (State.drainPorts_frame _) rfl
  refine Frame.comp ?_ (State.hint_frame _) rfl
  refine Frame.comp ?_ (State.flushPba_frame _) rfl
  refine Frame.comp ?_ (State.setDom_frame _ _ _) rfl
  refine Frame.upd ?_
  exact Frame.refl
  exact Frame.refl

theorem State.resetWrite_frame (s : State) (m : Master) (v : Nat) : Frame [.ld] s (s.resetWrite m v) := by
  unfold State.resetWrite
  split
  refine Frame.upd ?_
  exact Frame.refl
  exact Frame.refl

theorem State.zero_frame (s : State) (f : Nat → Bool) : Frame [.ms] s (s.zero f) := by
  unfold State.zero
  exact Frame.upd Frame.refl (fun h => Tab.filter_wf _ h) id

theorem State.stackZeroed_frame (s : State) (st : Nat) : Frame [.ms, .ld, .irq, .pcie, .fab, .out] s (s.stackZeroed st) := by
  unfold State.stackZeroed
  split
  exact Frame.refl
  refine Frame.comp ?_ (State.setReady_frame _ _) rfl
  refine Frame.comp ?_ (State.zero_frame _ _) rfl
  exact Frame.refl

theorem State.storeZeroed_frame (s : State) (k : Nat) (ok : Bool) : Frame [.ms, .ld, .irq, .pcie, .fab, .out] s
    (s.storeZeroed k ok) := by
  unfold State.storeZeroed
  split
  exact Frame.refl
  split
  refine Frame.comp ?_ (State.setReady_frame _ _) rfl
  refine Frame.comp ?_ (State.zero_frame _ _) rfl
  exact Frame.refl
  refine Frame.comp ?_ (State.setFailed_frame _ _) rfl
  exact Frame.refl

theorem State.tick_frame (s : State) : Frame [.ld] s (s.tick) := by
  unfold State.tick
  split
  refine Frame.comp ?_ (State.noteWork_frame _) rfl
  refine Frame.comp ?_ (State.advance_frame _) rfl
  exact Frame.refl
  exact Frame.refl

theorem State.trip_frame (s : State) (die : Nat) : Frame [.ms, .hg, .mv, .ham, .ld, .tb, .irq, .pcie, .im, .mc, .af, .uk,
    .xe, .fab, .regs, .ctrs, .latches] s (s.trip die) := by
  unfold State.trip
  split
  exact Frame.refl
  dsimp only
  refine Frame.upd ?_
  refine Frame.comp ?_ (State.enterA3_frame _ _) rfl
  exact Frame.refl

theorem execAuxPowerApplied_frame (pins : Fin 16) (s : State) : ∃ t, execAuxPowerApplied pins s = .next t ∧ Frame [.ld] s
    t := by
  refine ⟨_, rfl, ?_⟩
  split
  exact Frame.refl
  refine Frame.upd ?_
  exact Frame.refl

theorem execAuxPowerLost_frame (s : State) : ∃ t, execAuxPowerLost s = .next t ∧ Frame [.ms, .hg, .mv, .ham, .ld, .tb,
    .irq, .pcie, .im, .mc, .af, .uk, .xe, .fab, .regs, .ctrs, .latches] s t := by
  refine ⟨_, rfl, ?_⟩
  split
  exact Frame.refl
  dsimp only
  refine Frame.upd ?_ (tms := fun _ => ⟨rfl, rfl, rfl, rfl, rfl, rfl, rfl, rfl⟩) (thg := fun _ => State.reset_tabsOk.hg)
      (tld := fun _ => ⟨rfl, rfl, rfl, rfl, rfl⟩) 
      (tirq := fun _ => State.reset_tabsOk.irq)
      (tpcie := fun _ => State.reset_tabsOk.pcie)
      (tim := fun _ => State.reset_tabsOk.im) (tmc := fun _ => State.reset_tabsOk.mc)
      (taf := fun h => ⟨keptArrays_ordered h.1 _, rfl, rfl⟩) (tfab := fun _ => State.reset_tabsOk.fab)
      (tmv := fun _ => rfl) (tctrs := fun _ => rfl)
  exact Frame.refl

theorem execD0Return_frame (s : State) : ∃ t, execD0Return s = .next t ∧ Frame [.hg, .ld, .pcie, .fab, .out] s t := by
  refine ⟨_, rfl, ?_⟩
  split
  dsimp only
  refine Frame.comp ?_ (State.wakeA2_frame _ _) rfl
  split
  refine Frame.comp ?_ (State.linkUse_frame _) rfl
  refine Frame.upd ?_
  exact Frame.refl
  refine Frame.comp ?_ (State.hint_frame _) rfl
  refine Frame.comp ?_ (State.flushPba_frame _) rfl
  refine Frame.comp ?_ (State.linkUse_frame _) rfl
  refine Frame.upd ?_
  exact Frame.refl
  exact Frame.refl

theorem execD3hotEntry_frame (s : State) : ∃ t, execD3hotEntry s = .next t ∧ Frame [.ld] s t := by
  refine ⟨_, rfl, ?_⟩
  split
  exact Frame.refl
  dsimp only
  split
  refine Frame.upd ?_
  exact Frame.refl
  refine Frame.comp ?_ (State.doze_frame _) rfl
  refine Frame.upd ?_
  exact Frame.refl

theorem execDozeEntry_frame (s : State) : ∃ t, execDozeEntry s = .next t ∧ Frame [.ld] s t := by
  refine ⟨_, rfl, ?_⟩
  refine Frame.comp ?_ (State.doze_frame _) rfl
  exact Frame.refl

theorem execFunctionLevelReset_frame (s : State) : ∃ t, execFunctionLevelReset s = .next t ∧ Frame [.hg, .mv, .ham, .ld,
    .tb, .irq, .pcie, .im, .mc, .af, .uk, .xe, .fab, .regs, .latches, .out] s t := by
  refine ⟨_, rfl, ?_⟩
  split
  exact Frame.refl
  refine Frame.comp ?_ (State.flr_frame _) rfl
  exact Frame.refl

theorem execFunctionReady_frame (f : Func) (ok : Bool) (s : State) : ∃ t, execFunctionReady f ok s = .next t ∧ Frame [.hg,
    .ld, .tb, .irq, .pcie, .im, .af, .xe, .fab, .ctrs, .out] s t := by
  refine ⟨_, rfl, ?_⟩
  refine Frame.comp ?_ (State.functionReady_frame _ _ _) rfl
  exact Frame.refl

theorem execHotReset_frame (s : State) : ∃ t, execHotReset s = .next t ∧ Frame [.ms, .hg, .mv, .ham, .ld, .tb, .irq,
    .pcie, .im, .mc, .af, .uk, .xe, .fab, .regs, .ctrs, .latches] s t := by
  refine ⟨_, rfl, ?_⟩
  split
  exact Frame.refl
  refine Frame.comp ?_ (State.resetModule_frame _ _ _) rfl
  exact Frame.refl

theorem execHubPllRelock_frame (s : State) : ∃ t, execHubPllRelock s = .next t ∧ Frame [.hg, .ld, .irq, .pcie, .im, .xe,
    .fab, .ctrs, .free, .out] s t := by
  refine ⟨_, rfl, ?_⟩
  refine Frame.comp ?_ (State.relock_frame _) rfl
  exact Frame.refl

theorem execIdleTimeout_frame (s : State) : ∃ t, execIdleTimeout s = .next t ∧ Frame [.ld] s t := by
  refine ⟨_, rfl, ?_⟩
  split
  refine Frame.upd ?_
  exact Frame.refl
  exact Frame.refl

theorem execL1Entry_frame (sub : Bool) (s : State) : ∃ t, execL1Entry sub s = .next t ∧ Frame [.ld] s t := by
  refine ⟨_, rfl, ?_⟩
  split
  refine Frame.upd ?_
  exact Frame.refl
  exact Frame.refl

theorem execL2L3ReadyEntry_frame (s : State) : ∃ t, execL2L3ReadyEntry s = .next t ∧ Frame [.ms, .hg, .mv, .ham, .ld, .tb,
    .irq, .pcie, .im, .mc, .af, .uk, .xe, .fab, .regs, .ctrs, .latches] s t := by
  refine ⟨_, rfl, ?_⟩
  split
  refine Frame.comp ?_ (State.enterA3_frame _ _) rfl
  exact Frame.refl
  exact Frame.refl

theorem execMainInputAbsent_frame (s : State) : ∃ t, execMainInputAbsent s = .next t ∧ Frame [.ms, .hg, .mv, .ham, .ld,
    .tb, .irq, .pcie, .im, .mc, .af, .uk, .xe, .fab, .regs, .ctrs, .latches] s t := by
  refine ⟨_, rfl, ?_⟩
  dsimp only
  refine Frame.upd ?_
  refine Frame.comp ?_ (State.enterA3_frame _ _) rfl
  exact Frame.refl

theorem execMainInputPresent_frame (s : State) : ∃ t, execMainInputPresent s = .next t ∧ Frame [.ld] s t := by
  refine ⟨_, rfl, ?_⟩
  split
  exact Frame.refl
  refine Frame.upd ?_
  exact Frame.refl

theorem execModuleReset_frame (s : State) : ∃ t, execModuleReset s = .next t ∧ Frame [.ms, .hg, .mv, .ham, .ld, .tb, .irq,
    .pcie, .im, .mc, .af, .uk, .xe, .fab, .regs, .ctrs, .latches] s t := by
  refine ⟨_, rfl, ?_⟩
  split
  refine Frame.comp ?_ (State.resetModule_frame _ _ _) rfl
  exact Frame.refl
  exact Frame.refl

theorem execModuleResetWrite_frame (m : Master) (v : W32) (s : State) : ∃ t, execModuleResetWrite m v s = .next t ∧ Frame
    [.ld] s t := by
  refine ⟨_, rfl, ?_⟩
  refine Frame.comp ?_ (State.resetWrite_frame _ _ _) rfl
  refine Frame.comp ?_ (State.reachedBy_frame _ _) rfl
  exact Frame.refl

theorem execPerstAssert_frame (s : State) : ∃ t, execPerstAssert s = .next t ∧ Frame [.ms, .hg, .mv, .ham, .ld, .tb, .irq,
    .pcie, .im, .mc, .af, .uk, .xe, .fab, .regs, .ctrs, .latches] s t := by
  refine ⟨_, rfl, ?_⟩
  dsimp only
  refine Frame.upd ?_
  refine Frame.comp ?_ (State.enterA3_frame _ _) rfl
  exact Frame.refl

theorem execPerstRelease_frame (pins : Fin 16) (cool : Bool) (s : State) : ∃ t, execPerstRelease pins cool s = .next t ∧
    Frame [.ms, .hg, .mv, .ham, .ld, .tb, .irq, .pcie, .im, .mc, .af, .uk, .xe, .fab, .regs, .ctrs, .latches] s t := by
  refine ⟨_, rfl, ?_⟩
  split
  exact Frame.refl
  dsimp only
  split
  refine Frame.comp ?_ (State.bringUp_frame _) rfl
  refine Frame.upd ?_
  exact Frame.refl
  refine Frame.upd ?_
  exact Frame.refl

theorem execPllIdleStop_frame (d : Domain) (s : State) : ∃ t, execPllIdleStop d s = .next t ∧ Frame [.ld] s t := by
  refine ⟨_, rfl, ?_⟩
  refine Frame.comp ?_ (State.pllStop_frame _ _) rfl
  exact Frame.refl

theorem execRecomp_frame (q : Nat) (s : State) : ∃ t, execRecomp q s = .next t ∧ Frame [.ms, .hg, .mv, .ham, .ld, .irq,
    .pcie, .im, .mc, .af, .xe, .fab, .ctrs, .free, .out] s t := by
  refine ⟨_, rfl, ?_⟩
  refine State.runRecomp_frame _ _ ?_ rfl (fun _ _ => ?_)
  exact Frame.refl
  refine Frame.comp ?_ (State.onStart_frame _ _) rfl
  exact Frame.refl

theorem execRefclkLoss_frame (s : State) : ∃ t, execRefclkLoss s = .next t ∧ Frame [.ld] s t := by
  refine ⟨_, rfl, ?_⟩
  dsimp only
  split
  refine Frame.upd ?_
  exact Frame.refl
  refine Frame.upd ?_
  exact Frame.refl

theorem execRefclkReturn_frame (s : State) : ∃ t, execRefclkReturn s = .next t ∧ Frame [.ld] s t := by
  refine ⟨_, rfl, ?_⟩
  dsimp only
  split
  refine Frame.upd ?_
  exact Frame.refl
  refine Frame.upd ?_
  exact Frame.refl

theorem execSpillTransferEnd_frame (c : Fin 64) (s : State) : ∃ t, execSpillTransferEnd c s = .next t ∧ Frame [.ms, .hg,
    .mv, .ham, .ld, .irq, .pcie, .im, .mc, .af, .xe, .fab, .ctrs, .free, .out] s t := by
  refine ⟨_, rfl, ?_⟩
  refine State.spillEnd_frame _ _ ?_ rfl (fun _ _ => ?_)
  exact Frame.refl
  refine Frame.comp ?_ (State.onStart_frame _ _) rfl
  exact Frame.refl

theorem execStackZeroingEnd_frame (st : Fin 8) (s : State) : ∃ t, execStackZeroingEnd st s = .next t ∧ Frame [.ms, .ld,
    .irq, .pcie, .fab, .out] s t := by
  refine ⟨_, rfl, ?_⟩
  refine Frame.comp ?_ (State.stackZeroed_frame _ _) rfl
  exact Frame.refl

theorem execStoreZeroingEnd_frame (k : Fin 5) (ok : Bool) (s : State) : ∃ t, execStoreZeroingEnd k ok s = .next t ∧ Frame
    [.ms, .ld, .irq, .pcie, .fab, .out] s t := by
  refine ⟨_, rfl, ?_⟩
  refine Frame.comp ?_ (State.storeZeroed_frame _ _ _) rfl
  exact Frame.refl

theorem execThermalTrip_frame (die : Fin 5) (s : State) : ∃ t, execThermalTrip die s = .next t ∧ Frame [.ms, .hg, .mv,
    .ham, .ld, .tb, .irq, .pcie, .im, .mc, .af, .uk, .xe, .fab, .regs, .ctrs, .latches] s t := by
  refine ⟨_, rfl, ?_⟩
  refine Frame.comp ?_ (State.trip_frame _ _) rfl
  exact Frame.refl

theorem State.apertureBytes_frame (s : State) (a : Nat) (l0 : List Byte) : Frame [.ms, .hg, .ld, .irq, .pcie, .im, .fab,
    .ctrs, .out] s (s.apertureBytes a l0) := by
  unfold State.apertureBytes
  refine Frame.foldl (fun _ _ => ?_) _ ?_
  dsimp only
  split
  split
  exact Frame.refl
  refine Frame.comp ?_ (State.wr_frame _ _ _) rfl
  exact Frame.refl
  exact Frame.refl
  exact Frame.refl

theorem State.apertureRead_frame (s : State) (m : Master) (off n : Nat) : Frame [.ms, .hg, .ld, .irq, .pcie, .im, .fab,
    .ctrs, .free, .out] s (s.apertureRead m off n) := by
  unfold State.apertureRead
  split
  exact Frame.refl
  split
  refine Frame.comp ?_ (State.reachedBy_frame _ _) rfl
  refine Frame.comp ?_ (State.emit_frame _ _) rfl
  exact Frame.refl
  dsimp only
  split
  refine Frame.comp ?_ (State.reachedBy_frame _ _) rfl
  refine Frame.comp ?_ (State.freeStep_frame _) rfl
  refine Frame.comp ?_ (State.emit_frame _ _) rfl
  refine Frame.foldl (fun _ _ => ?_) _ ?_
  split
  refine Frame.comp ?_ (State.noteMerge_frame _ _) rfl
  exact Frame.refl
  refine Frame.comp ?_ (State.noteCw_frame _ _) rfl
  exact Frame.refl
  exact Frame.refl
  refine Frame.comp ?_ (State.reachedBy_frame _ _) rfl
  refine Frame.comp ?_ (State.emit_frame _ _) rfl
  refine Frame.foldl (fun _ _ => ?_) _ ?_
  split
  refine Frame.comp ?_ (State.noteMerge_frame _ _) rfl
  exact Frame.refl
  refine Frame.comp ?_ (State.noteCw_frame _ _) rfl
  exact Frame.refl
  exact Frame.refl

theorem State.apertureWrite_frame (s : State) (m : Master) (off : Nat) (l0 : List Byte) : Frame [.ms, .hg, .ld, .irq,
    .pcie, .im, .fab, .ctrs, .out] s (s.apertureWrite m off l0) := by
  unfold State.apertureWrite
  split
  exact Frame.refl
  split
  refine Frame.comp ?_ (State.reachedBy_frame _ _) rfl
  exact Frame.refl
  refine Frame.comp ?_ (State.reachedBy_frame _ _) rfl
  refine Frame.comp ?_ (State.apertureBytes_frame _ _ _) rfl
  exact Frame.refl

theorem State.scrubCw_frame (s : State) (cw : Nat) : Frame [.ms, .hg, .ham, .ld, .irq, .pcie, .im, .xe, .fab, .ctrs,
    .free, .out] s (s.scrubCw cw) := by
  unfold State.scrubCw
  split
  exact Frame.refl
  refine Frame.comp ?_ (State.setMeta_frame _ _ _ _) rfl
  refine Frame.comp ?_ (State.settle_frame _ _) rfl
  refine Frame.comp ?_ (State.noteMerge_frame _ _) rfl
  exact Frame.refl
  dsimp only
  split
  refine Frame.comp ?_ (State.taint_frame _ _) rfl
  refine Frame.comp ?_ (State.spoilCw_frame _ _) rfl
  exact Frame.refl
  refine Frame.comp ?_ (State.spoilCw_frame _ _) rfl
  exact Frame.refl

theorem State.patrol_frame (s : State) (k : Nat) : Frame [.ms, .hg, .ham, .ld, .irq, .pcie, .im, .xe, .fab, .ctrs, .free,
    .out] s (s.patrol k) := by
  unfold State.patrol
  split
  · extract_lets p s1 p1 ms1 s2 ms2
    have h1 : Frame [.ms, .hg, .ham, .ld, .irq, .pcie, .im, .xe, .fab, .ctrs, .free, .out] s s1 := State.scrubCw_frame _ _
        |>.mono rfl
    split
    · have h2 : Frame [.ms, .hg, .ham, .ld, .irq, .pcie, .im, .xe, .fab, .ctrs, .free, .out] s s2 := by
        unfold s2 ms1
        clear_value s1
        exact Frame.upd h1
      split
      · unfold ms2
        clear_value s2
        exact Frame.upd h2
      · exact h2
    · unfold ms1
      clear_value s1
      exact Frame.upd h1
  · exact Frame.refl

theorem State.remapEnd_frame (s : State) (st pch row : Nat) : Frame [.ms, .ld, .irq, .pcie, .im, .fab, .ctrs, .out] s
    (s.remapEnd st pch row) := by
  unfold State.remapEnd
  split
  exact Frame.refl
  dsimp only
  refine Frame.comp ?_ (State.cper_frame _ _) rfl
  refine Frame.comp ?_ (State.bump_frame _ _ _) rfl
  refine Frame.upd ?_
  refine Frame.foldl (fun _ _ => ?_) _ ?_
  refine Frame.comp ?_ (State.setMeta_frame _ _ _ _) rfl
  refine Frame.comp ?_ (State.settle_frame _ _) rfl
  exact Frame.refl
  exact Frame.refl

theorem State.targetedEnd_frame (s : State) (st pch : Nat) : Frame [.ms, .hg, .ham, .ld, .irq, .pcie, .im, .xe, .fab,
    .ctrs, .free, .out] s (s.targetedEnd st pch) := by
  unfold State.targetedEnd
  split
  exact Frame.refl
  dsimp only
  refine Frame.upd ?_
  refine Frame.foldl (fun _ _ => ?_) _ ?_
  split
  refine Frame.comp ?_ (State.startRemap_frame _ _ _ _ _ _) rfl
  refine Frame.comp ?_ (State.scrubCw_frame _ _) rfl
  exact Frame.refl
  refine Frame.comp ?_ (State.scrubCw_frame _ _) rfl
  exact Frame.refl
  exact Frame.refl

theorem execApertureRead_frame (m : Master) (off : W64) (len : Fin 4097) (s : State) : ∃ t, execApertureRead m off len s =
    .next t ∧ Frame [.ms, .hg, .ld, .irq, .pcie, .im, .fab, .ctrs, .free, .out] s t := by
  refine ⟨_, rfl, ?_⟩
  refine Frame.comp ?_ (State.apertureRead_frame _ _ _ _) rfl
  exact Frame.refl

theorem execApertureWrite_frame (m : Master) (off : W64) (data : List Byte) (s : State) : ∃ t, execApertureWrite m off
    data s = .next t ∧ Frame [.ms, .hg, .ld, .irq, .pcie, .im, .fab, .ctrs, .out] s t := by
  refine ⟨_, rfl, ?_⟩
  refine Frame.comp ?_ (State.apertureWrite_frame _ _ _ _) rfl
  exact Frame.refl

theorem execPatrolScrub_frame (k : Fin 13) (e : Env) (s : State) : ∃ t, execPatrolScrub k e s = .next t ∧ Frame [.ms, .hg,
    .ham, .ld, .irq, .pcie, .im, .xe, .fab, .ctrs, .free, .out] s t := by
  refine ⟨_, rfl, ?_⟩
  refine Frame.comp ?_ (State.patrol_frame _ _) rfl
  refine Frame.comp ?_ (State.applyEnv_frame _ _) rfl
  exact Frame.refl

theorem execRowRemapEnd_frame (st : Fin 8) (pch : Fin 64) (row : Fin 1048576) (s : State) : ∃ t, execRowRemapEnd st pch
    row s = .next t ∧ Frame [.ms, .ld, .irq, .pcie, .im, .fab, .ctrs, .out] s t := by
  refine ⟨_, rfl, ?_⟩
  refine Frame.comp ?_ (State.remapEnd_frame _ _ _ _) rfl
  exact Frame.refl

theorem execTargetedScrubEnd_frame (st : Fin 8) (pch : Fin 64) (s : State) : ∃ t, execTargetedScrubEnd st pch s = .next t
    ∧ Frame [.ms, .hg, .ham, .ld, .irq, .pcie, .im, .xe, .fab, .ctrs, .free, .out] s t := by
  refine ⟨_, rfl, ?_⟩
  refine Frame.comp ?_ (State.targetedEnd_frame _ _ _) rfl
  exact Frame.refl

theorem State.setCard_frame (s : State) (k : Nat) (x : PostSlot) : Frame [.im] s (s.setCard k x) := by
  unfold State.setCard
  split
  refine Frame.upd ?_
  exact Frame.refl
  refine Frame.upd ?_
  exact Frame.refl

theorem State.startCard_frame (s : State) (k cause : Nat) : Frame [.ld, .irq, .pcie, .im, .fab, .free, .out] s
    (s.startCard k cause) := by
  unfold State.startCard
  dsimp only
  split
  exact Frame.refl
  refine Frame.comp ?_ (State.trigger_frame _ _) rfl
  refine Frame.comp ?_ (State.freeStep_frame _) rfl
  refine Frame.comp ?_ (State.setCard_frame _ _ _) rfl
  exact Frame.refl

theorem State.cardRequest_frame (s : State) (m : Master) (v : Nat) : Frame [.ld, .irq, .pcie, .im, .fab, .free, .out] s
    (s.cardRequest m v) := by
  unfold State.cardRequest
  split
  refine Frame.comp ?_ (State.startCard_frame _ _ _) rfl
  exact Frame.refl
  exact Frame.refl

theorem State.cntrDump_frame (s : State) (q : Nat) : Frame [.ms, .hg, .ham, .ld, .irq, .pcie, .im, .xe, .fab, .ctrs,
    .free, .out] s (s.cntrDump q) := by
  unfold State.cntrDump
  split
  exact Frame.refl
  dsimp only
  split
  exact Frame.refl
  split
  refine Frame.comp ?_ (State.failMem_frame _ _ _) rfl
  exact Frame.refl
  refine Frame.comp ?_ (State.deliver_frame _ _) rfl
  refine Frame.comp ?_ (State.writeAll_frame _ _ _) rfl
  exact Frame.refl

theorem State.cntrLogread_frame (s : State) (q : Nat) : Frame [.ms, .hg, .ham, .ld, .irq, .pcie, .im, .xe, .fab, .ctrs,
    .free, .out] s (s.cntrLogread q) := by
  unfold State.cntrLogread
  split
  exact Frame.refl
  dsimp only
  split
  exact Frame.refl
  split
  refine Frame.comp ?_ (State.failMem_frame _ _ _) rfl
  exact Frame.refl
  refine Frame.comp ?_ (State.deliver_frame _ _) rfl
  refine Frame.comp ?_ (State.writeAll_frame _ _ _) rfl
  exact Frame.refl

theorem State.cntrSelect_frame (s : State) (q : Nat) : Frame [.hg, .ham, .ld, .irq, .pcie, .im, .xe, .fab, .out] s
    (s.cntrSelect q) := by
  unfold State.cntrSelect
  split
  exact Frame.refl
  dsimp only
  split
  refine Frame.comp ?_ (State.failCmd_frame _ _ _ _) rfl
  exact Frame.refl
  refine Frame.comp ?_ (State.deliver_frame _ _) rfl
  refine Frame.comp ?_ (State.setRing_frame _ _ _) rfl
  exact Frame.refl

theorem State.endCard_frame (s : State) (k : Nat) : Frame [.im] s (s.endCard k) := by
  unfold State.endCard
  dsimp only
  split
  exact Frame.refl
  refine Frame.comp ?_ (State.setCard_frame _ _ _) rfl
  exact Frame.refl

theorem State.logCfgWrite_frame (s : State) (m : Master) (u v : Nat) (hp : u < 5) :
    Frame [.im, .regs] s (s.logCfgWrite m u v) := by
  have hr : regEntryOk (rLogCfg u, BitVec.ofNat 64 (v &&& 0x707F01FF)) = true := rLogCfg_ok hp v
  unfold State.logCfgWrite
  split
  dsimp only
  split
  refine Frame.foldl (fun _ _ => ?_) _ ?_
  refine Frame.comp ?_ (State.triggerLog_frame _ _ _) rfl
  exact Frame.refl
  refine Frame.comp ?_ (State.setLog_frame _ _ _) rfl
  refine Frame.comp ?_ (State.setReg_frame _ _ _ (by first | assumption | exact masked_ok (by assumption))) rfl
  exact Frame.refl
  refine Frame.comp ?_ (State.setReg_frame _ _ _ (by first | assumption | exact masked_ok (by assumption))) rfl
  exact Frame.refl
  exact Frame.refl

theorem State.logFull_frame (s : State) (u0 : Nat) : Frame [.im] s (s.logFull u0) := by
  unfold State.logFull
  dsimp only
  split
  refine Frame.comp ?_ (State.setLog_frame _ _ _) rfl
  exact Frame.refl
  exact Frame.refl

theorem State.logTrigWrite_frame (s : State) (m : Master) (v : Nat) : Frame [.ld, .irq, .pcie, .im, .fab, .out] s
    (s.logTrigWrite m v) := by
  unfold State.logTrigWrite
  split
  refine Frame.comp ?_ (State.trigger_frame _ _) rfl
  exact Frame.refl
  exact Frame.refl

theorem State.snap_frame (s : State) (q : Nat) : Frame [.ms, .hg, .ham, .ld, .irq, .pcie, .im, .xe, .fab, .ctrs, .free,
    .out] s (s.snap q) := by
  unfold State.snap
  split
  exact Frame.refl
  dsimp only
  split
  exact Frame.refl
  split
  refine Frame.comp ?_ (State.failMem_frame _ _ _) rfl
  exact Frame.refl
  refine Frame.comp ?_ (State.deliver_frame _ _) rfl
  refine Frame.comp ?_ (State.trigger_frame _ _) rfl
  refine Frame.comp ?_ (State.writeAll_frame _ _ _) rfl
  refine Frame.comp ?_ (State.freeStep_frame _) rfl
  exact Frame.refl

theorem State.watchdog_frame (s : State) : Frame [.ld, .irq, .pcie, .im, .fab, .free, .out] s (s.watchdog) := by
  unfold State.watchdog
  split
  dsimp only
  refine Frame.comp ?_ (State.arrive_frame _ _) rfl
  split
  refine Frame.comp ?_ (State.trigger_frame _ _) rfl
  refine Frame.upd ?_
  exact Frame.refl
  refine Frame.comp ?_ (State.startCard_frame _ _ _) rfl
  refine Frame.upd ?_
  exact Frame.refl
  exact Frame.refl

theorem execCntrDump_frame (q : Nat) (s : State) : ∃ t, execCntrDump q s = .next t ∧ Frame [.ms, .hg, .ham, .ld, .irq,
    .pcie, .im, .xe, .fab, .ctrs, .free, .out] s t := by
  refine ⟨_, rfl, ?_⟩
  refine Frame.comp ?_ (State.cntrDump_frame _ _) rfl
  exact Frame.refl

theorem execCntrLogread_frame (q : Nat) (s : State) : ∃ t, execCntrLogread q s = .next t ∧ Frame [.ms, .hg, .ham, .ld,
    .irq, .pcie, .im, .xe, .fab, .ctrs, .free, .out] s t := by
  refine ⟨_, rfl, ?_⟩
  refine Frame.comp ?_ (State.cntrLogread_frame _ _) rfl
  exact Frame.refl

theorem execCntrSelect_frame (q : Nat) (s : State) : ∃ t, execCntrSelect q s = .next t ∧ Frame [.hg, .ham, .ld, .irq,
    .pcie, .im, .xe, .fab, .out] s t := by
  refine ⟨_, rfl, ?_⟩
  refine Frame.comp ?_ (State.cntrSelect_frame _ _) rfl
  exact Frame.refl

theorem execLogbookArm_frame (m : Master) (u0 : Fin 5) (v : W32) (s : State) : ∃ t, execLogbookArm m u0 v s = .next t ∧
    Frame [.ld, .im, .regs] s t := by
  refine ⟨_, rfl, ?_⟩
  dsimp only
  split
  refine Frame.comp ?_ (State.logCfgWrite_frame _ _ _ _ (Fin.isLt _)) rfl
  refine Frame.comp ?_ (State.reachedBy_frame _ _) rfl
  exact Frame.refl
  refine Frame.comp ?_ (State.reachedBy_frame _ _) rfl
  exact Frame.refl

theorem execLogbookCaptureFull_frame (u0 : Fin 5) (s : State) : ∃ t, execLogbookCaptureFull u0 s = .next t ∧ Frame [.im] s
    t := by
  refine ⟨_, rfl, ?_⟩
  refine Frame.comp ?_ (State.logFull_frame _ _) rfl
  exact Frame.refl

theorem execLogbookManualTrigger_frame (m : Master) (v : W32) (s : State) : ∃ t, execLogbookManualTrigger m v s = .next t
    ∧ Frame [.ld, .irq, .pcie, .im, .fab, .out] s t := by
  refine ⟨_, rfl, ?_⟩
  dsimp only
  refine Frame.comp ?_ (State.logTrigWrite_frame _ _ _) rfl
  refine Frame.comp ?_ (State.reachedBy_frame _ _) rfl
  exact Frame.refl

theorem execPostcardCaptureEnd_frame (k : Fin 2) (s : State) : ∃ t, execPostcardCaptureEnd k s = .next t ∧ Frame [.im] s t := by
  refine ⟨_, rfl, ?_⟩
  refine Frame.comp ?_ (State.endCard_frame _ _) rfl
  exact Frame.refl

theorem execPostcardRequest_frame (m : Master) (v : W32) (s : State) : ∃ t, execPostcardRequest m v s = .next t ∧ Frame
    [.ld, .irq, .pcie, .im, .fab, .free, .out] s t := by
  refine ⟨_, rfl, ?_⟩
  refine Frame.comp ?_ (State.cardRequest_frame _ _ _) rfl
  refine Frame.comp ?_ (State.reachedBy_frame _ _) rfl
  exact Frame.refl

theorem execSnap_frame (q : Nat) (s : State) : ∃ t, execSnap q s = .next t ∧ Frame [.ms, .hg, .ham, .ld, .irq, .pcie, .im,
    .xe, .fab, .ctrs, .free, .out] s t := by
  refine ⟨_, rfl, ?_⟩
  refine Frame.comp ?_ (State.snap_frame _ _) rfl
  exact Frame.refl

theorem execWatchdogExpiry_frame (s : State) : ∃ t, execWatchdogExpiry s = .next t ∧ Frame [.ld, .irq, .pcie, .im, .fab,
    .free, .out] s t := by
  refine ⟨_, rfl, ?_⟩
  refine Frame.comp ?_ (State.watchdog_frame _) rfl
  exact Frame.refl

end Sys2Proof.Machine
end

