-- ==== Sys2Proof/Laws/FrameBus.lean ====
section
/-!
SUPPORT. The frame of each function of the register bus, SPDM and sanitizing: which components of the state it may change, the queue of waiting
commands apart, and that it keeps the stored form of memory and registers. A lemma `execX_frame` says besides that the row
`X` answers a next state, whatever the state and the operands.
-/
namespace Sys2Proof.Machine

open Sys2Proof

set_option Elab.async false

theorem State.reapply_frame (s : State) (f : Nat) : Frame [.ld, .irq, .pcie, .af, .fab, .out] s (s.reapply f) := by
  unfold State.reapply
  dsimp only
  split
  refine Frame.comp ?_ (State.setReady_frame _ _) rfl
  refine Frame.comp ?_ (State.clearReady_frame _ _) rfl
  split
  refine Frame.comp ?_ (State.applySpares_frame _ _) rfl
  exact Frame.refl
  exact Frame.refl
  split
  refine Frame.comp ?_ (State.applySpares_frame _ _) rfl
  exact Frame.refl
  exact Frame.refl

theorem State.cfgcMap_frame (s : State) (k : CritCall) : Frame [.hg, .ham, .ld, .irq, .pcie, .im, .af, .xe, .fab, .out] s
    (s.cfgcMap k) := by
  unfold State.cfgcMap
  dsimp only
  split
  refine Frame.comp ?_ (State.critEnd_frame _ _ _ _ _) rfl
  exact Frame.refl
  split
  refine Frame.comp ?_ (State.critEnd_frame _ _ _ _ _) rfl
  exact Frame.refl
  split
  refine Frame.comp ?_ (State.critEnd_frame _ _ _ _ _) rfl
  exact Frame.refl
  split
  refine Frame.comp ?_ (State.critEnd_frame _ _ _ _ _) rfl
  exact Frame.refl
  split
  refine Frame.comp ?_ (State.critEnd_frame _ _ _ _ _) rfl
  exact Frame.refl
  refine Frame.comp ?_ (State.critEnd_frame _ _ _ _ _) rfl
  refine Frame.foldl (fun _ _ => ?_) _ ?_
  refine Frame.comp ?_ (State.reapply_frame _ _) rfl
  exact Frame.refl
  refine Frame.upd ?_
  exact Frame.refl

theorem State.saniMemory_frame (s : State) : Frame [.ms, .hg, .ham, .im, .xe] s (s.saniMemory) := by
  unfold State.saniMemory
  refine Frame.comp ?_ (State.loseMemory_frame _) rfl
  refine Frame.comp ?_ (State.fencRestart_frame _) rfl
  exact Frame.refl

theorem State.saniArrays_frame (s : State) : Frame [.ms, .hg, .ham, .ld, .irq, .pcie, .im, .af, .uk, .xe, .fab, .ctrs,
    .out] s (s.saniArrays) := by
  unfold State.saniArrays
  dsimp only
  refine Frame.foldl (fun _ _ => ?_) _ ?_
  refine Frame.comp ?_ (State.wear_frame _ _) rfl
  exact Frame.refl
  refine Frame.foldl (fun _ _ => ?_) _ ?_
  refine Frame.comp ?_ (State.bump_frame _ _ _) rfl
  exact Frame.refl
  refine Frame.upd ?_
  exact Frame.refl

theorem State.saniObserve_frame (s : State) : Frame [.hg, .im] s (s.saniObserve) := by
  unfold State.saniObserve
  dsimp only
  refine Frame.upd ?_
  exact Frame.refl

theorem State.sani_frame (s : State) (k : CritCall) : Frame [.ms, .hg, .ham, .ld, .tb, .irq, .pcie, .im, .af, .uk, .xe,
    .fab, .ctrs, .out] s (s.sani k) := by
  unfold State.sani
  dsimp only
  split
  refine Frame.comp ?_ (State.vacate_frame _) rfl
  refine Frame.comp ?_ (State.critEnd_frame _ _ _ _ _) rfl
  split
  refine Frame.comp ?_ (State.saniObserve_frame _) rfl
  split
  refine Frame.comp ?_ (State.saniArrays_frame _) rfl
  split
  refine Frame.comp ?_ (State.saniMemory_frame _) rfl
  exact Frame.refl
  exact Frame.refl
  split
  refine Frame.comp ?_ (State.saniMemory_frame _) rfl
  exact Frame.refl
  exact Frame.refl
  split
  refine Frame.comp ?_ (State.saniArrays_frame _) rfl
  split
  refine Frame.comp ?_ (State.saniMemory_frame _) rfl
  exact Frame.refl
  exact Frame.refl
  split
  refine Frame.comp ?_ (State.saniMemory_frame _) rfl
  exact Frame.refl
  exact Frame.refl
  refine Frame.comp ?_ (State.critEnd_frame _ _ _ _ _) rfl
  split
  refine Frame.comp ?_ (State.saniObserve_frame _) rfl
  split
  refine Frame.comp ?_ (State.saniArrays_frame _) rfl
  split
  refine Frame.comp ?_ (State.saniMemory_frame _) rfl
  exact Frame.refl
  exact Frame.refl
  split
  refine Frame.comp ?_ (State.saniMemory_frame _) rfl
  exact Frame.refl
  exact Frame.refl
  split
  refine Frame.comp ?_ (State.saniArrays_frame _) rfl
  split
  refine Frame.comp ?_ (State.saniMemory_frame _) rfl
  exact Frame.refl
  exact Frame.refl
  split
  refine Frame.comp ?_ (State.saniMemory_frame _) rfl
  exact Frame.refl
  exact Frame.refl

theorem execCfgcSpareMap_frame (x : Crit) (s : State) : ∃ t, execCfgcSpareMap x s = .next t ∧ Frame [.hg, .ham, .ld, .tb,
    .irq, .pcie, .im, .af, .xe, .fab, .out] s t := by
  refine ⟨_, rfl, ?_⟩
  refine State.critRun_frame _ _ _ _ ?_ rfl (fun _ _ => ?_)
  exact Frame.refl
  split
  refine Frame.comp ?_ (State.cfgcMap_frame _ _) rfl
  exact Frame.refl
  exact Frame.refl

theorem execSani_frame (x : Crit) (s : State) : ∃ t, execSani x s = .next t ∧ Frame [.ms, .hg, .ham, .ld, .tb, .irq,
    .pcie, .im, .af, .uk, .xe, .fab, .ctrs, .out] s t := by
  refine ⟨_, rfl, ?_⟩
  split
  refine State.critRun_frame _ _ _ _ ?_ rfl (fun _ _ => ?_)
  exact Frame.refl
  refine Frame.comp ?_ (State.sani_frame _ _) rfl
  exact Frame.refl
  split
  refine State.critRun_frame _ _ _ _ ?_ rfl (fun _ _ => ?_)
  exact Frame.refl
  refine Frame.comp ?_ (State.sani_frame _ _) rfl
  exact Frame.refl
  exact Frame.refl

theorem State.answer_frame (s : State) (p : SpdmPath) (l0 : List Byte) : Frame [.fab, .out] s (s.answer p l0) := by
  unfold State.answer
  refine Frame.comp ?_ (State.emit_frame _ _) rfl
  exact Frame.refl

theorem State.drawStep_frame (s : State) (n : Nat) : Frame [.tb] s (s.drawStep n) := by
  unfold State.drawStep
  refine Frame.upd ?_
  exact Frame.refl

theorem State.setConn_frame (s : State) (p : SpdmPath) (c : SpdmConn) : Frame [.tb] s (s.setConn p c) := by
  unfold State.setConn
  split
  refine Frame.upd ?_
  exact Frame.refl
  refine Frame.upd ?_
  exact Frame.refl

theorem State.spdmError_frame (s : State) (p : SpdmPath) (e : Nat) : Frame [.fab, .out] s (s.spdmError p e) := by
  unfold State.spdmError
  refine Frame.comp ?_ (State.answer_frame _ _ _) rfl
  exact Frame.refl

theorem State.spdmRun_frame {l : List Comp} {s t : State} (p : SpdmPath) (r : List Byte) (code : Nat) (early : Bool)
    (least : Nat)
    (ready : SpdmConn → Bool) (f : State → SpdmConn → State)
    (h : Frame l s t) (hl : within [.ld, .fab, .out] l = true)
    (hk : ∀ x y, Frame l x (f x y)) : Frame l s (t.spdmRun p r code early least ready f) := by
  refine Frame.comp h ?_ (within_refl l)
  unfold State.spdmRun
  split
  exact Frame.refl
  dsimp only
  split
  split
  refine Frame.comp ?_ (State.spdmError_frame _ _ _) (within_trans rfl hl)
  refine Frame.comp ?_ (State.reachedBy_frame _ _) (within_trans rfl hl)
  exact Frame.refl
  split
  refine Frame.comp ?_ (State.spdmError_frame _ _ _) (within_trans rfl hl)
  refine Frame.comp ?_ (State.reachedBy_frame _ _) (within_trans rfl hl)
  exact Frame.refl
  split
  split
  refine Frame.comp ?_ (State.spdmError_frame _ _ _) (within_trans rfl hl)
  refine Frame.comp ?_ (State.reachedBy_frame _ _) (within_trans rfl hl)
  exact Frame.refl
  refine Frame.comp ?_ (hk _ _) (within_refl _)
  refine Frame.comp ?_ (State.reachedBy_frame _ _) (within_trans rfl hl)
  exact Frame.refl
  split
  refine Frame.comp ?_ (State.spdmError_frame _ _ _) (within_trans rfl hl)
  refine Frame.comp ?_ (State.reachedBy_frame _ _) (within_trans rfl hl)
  exact Frame.refl
  refine Frame.comp ?_ (hk _ _) (within_refl _)
  refine Frame.comp ?_ (State.reachedBy_frame _ _) (within_trans rfl hl)
  exact Frame.refl
  split
  refine Frame.comp ?_ (State.spdmError_frame _ _ _) (within_trans rfl hl)
  refine Frame.comp ?_ (State.reachedBy_frame _ _) (within_trans rfl hl)
  exact Frame.refl
  split
  refine Frame.comp ?_ (State.spdmError_frame _ _ _) (within_trans rfl hl)
  refine Frame.comp ?_ (State.reachedBy_frame _ _) (within_trans rfl hl)
  exact Frame.refl
  split
  split
  refine Frame.comp ?_ (State.spdmError_frame _ _ _) (within_trans rfl hl)
  refine Frame.comp ?_ (State.reachedBy_frame _ _) (within_trans rfl hl)
  exact Frame.refl
  refine Frame.comp ?_ (hk _ _) (within_refl _)
  refine Frame.comp ?_ (State.reachedBy_frame _ _) (within_trans rfl hl)
  exact Frame.refl
  split
  refine Frame.comp ?_ (State.spdmError_frame _ _ _) (within_trans rfl hl)
  refine Frame.comp ?_ (State.reachedBy_frame _ _) (within_trans rfl hl)
  exact Frame.refl
  refine Frame.comp ?_ (hk _ _) (within_refl _)
  refine Frame.comp ?_ (State.reachedBy_frame _ _) (within_trans rfl hl)
  exact Frame.refl

theorem execSpdmChallenge_frame (p : SpdmPath) (r : List Byte) (s : State) : ∃ t, execSpdmChallenge p r s = .next t ∧
    Frame [.ld, .tb, .fab, .free, .out] s t := by
  refine ⟨_, rfl, ?_⟩
  refine State.spdmRun_frame _ _ _ _ _ _ _ ?_ rfl (fun _ _ => ?_)
  exact Frame.refl
  split
  refine Frame.comp ?_ (State.spdmError_frame _ _ _) rfl
  exact Frame.refl
  dsimp only
  refine Frame.comp ?_ (State.answer_frame _ _ _) rfl
  refine Frame.comp ?_ (State.freeStep_frame _) rfl
  refine Frame.comp ?_ (State.drawStep_frame _ _) rfl
  refine Frame.comp ?_ (State.setConn_frame _ _ _) rfl
  exact Frame.refl

theorem execSpdmEndSession_frame (p : SpdmPath) (r : List Byte) (s : State) : ∃ t, execSpdmEndSession p r s = .next t ∧
    Frame [.ld, .tb, .fab, .out] s t := by
  refine ⟨_, rfl, ?_⟩
  refine State.spdmRun_frame _ _ _ _ _ _ _ ?_ rfl (fun _ _ => ?_)
  exact Frame.refl
  refine Frame.comp ?_ (State.answer_frame _ _ _) rfl
  refine Frame.comp ?_ (State.setConn_frame _ _ _) rfl
  exact Frame.refl

theorem execSpdmFinish_frame (p : SpdmPath) (r : List Byte) (s : State) : ∃ t, execSpdmFinish p r s = .next t ∧ Frame
    [.ld, .tb, .fab, .out] s t := by
  refine ⟨_, rfl, ?_⟩
  refine State.spdmRun_frame _ _ _ _ _ _ _ ?_ rfl (fun _ _ => ?_)
  exact Frame.refl
  dsimp only
  split
  refine Frame.comp ?_ (State.answer_frame _ _ _) rfl
  refine Frame.comp ?_ (State.setConn_frame _ _ _) rfl
  exact Frame.refl
  refine Frame.comp ?_ (State.spdmError_frame _ _ _) rfl
  refine Frame.comp ?_ (State.setConn_frame _ _ _) rfl
  exact Frame.refl

theorem execSpdmGetCapabilities_frame (p : SpdmPath) (r : List Byte) (s : State) : ∃ t, execSpdmGetCapabilities p r s =
    .next t ∧ Frame [.ld, .tb, .fab, .free, .out] s t := by
  refine ⟨_, rfl, ?_⟩
  refine State.spdmRun_frame _ _ _ _ _ _ _ ?_ rfl (fun _ _ => ?_)
  exact Frame.refl
  dsimp only
  refine Frame.comp ?_ (State.answer_frame _ _ _) rfl
  refine Frame.comp ?_ (State.freeStep_frame _) rfl
  refine Frame.comp ?_ (State.setConn_frame _ _ _) rfl
  exact Frame.refl

theorem execSpdmGetCertificate_frame (p : SpdmPath) (r : List Byte) (s : State) : ∃ t, execSpdmGetCertificate p r s =
    .next t ∧ Frame [.ld, .tb, .fab, .out] s t := by
  refine ⟨_, rfl, ?_⟩
  refine State.spdmRun_frame _ _ _ _ _ _ _ ?_ rfl (fun _ _ => ?_)
  exact Frame.refl
  dsimp only
  split
  refine Frame.comp ?_ (State.spdmError_frame _ _ _) rfl
  exact Frame.refl
  refine Frame.comp ?_ (State.answer_frame _ _ _) rfl
  refine Frame.comp ?_ (State.setConn_frame _ _ _) rfl
  exact Frame.refl

theorem execSpdmGetDigests_frame (p : SpdmPath) (r : List Byte) (s : State) : ∃ t, execSpdmGetDigests p r s = .next t ∧
    Frame [.ld, .tb, .fab, .out] s t := by
  refine ⟨_, rfl, ?_⟩
  refine State.spdmRun_frame _ _ _ _ _ _ _ ?_ rfl (fun _ _ => ?_)
  exact Frame.refl
  dsimp only
  refine Frame.comp ?_ (State.answer_frame _ _ _) rfl
  refine Frame.comp ?_ (State.setConn_frame _ _ _) rfl
  exact Frame.refl

theorem execSpdmGetMeasurements_frame (p : SpdmPath) (r : List Byte) (s : State) : ∃ t, execSpdmGetMeasurements p r s =
    .next t ∧ Frame [.ld, .tb, .fab, .out] s t := by
  refine ⟨_, rfl, ?_⟩
  refine State.spdmRun_frame _ _ _ _ _ _ _ ?_ rfl (fun _ _ => ?_)
  exact Frame.refl
  dsimp only
  split
  refine Frame.comp ?_ (State.spdmError_frame _ _ _) rfl
  exact Frame.refl
  split
  refine Frame.comp ?_ (State.spdmError_frame _ _ _) rfl
  exact Frame.refl
  split
  refine Frame.comp ?_ (State.answer_frame _ _ _) rfl
  refine Frame.comp ?_ (State.drawStep_frame _ _) rfl
  refine Frame.comp ?_ (State.setConn_frame _ _ _) rfl
  exact Frame.refl
  refine Frame.comp ?_ (State.answer_frame _ _ _) rfl
  refine Frame.comp ?_ (State.drawStep_frame _ _) rfl
  refine Frame.comp ?_ (State.setConn_frame _ _ _) rfl
  exact Frame.refl

theorem execSpdmGetVersion_frame (p : SpdmPath) (r : List Byte) (s : State) : ∃ t, execSpdmGetVersion p r s = .next t ∧
    Frame [.ld, .tb, .fab, .out] s t := by
  refine ⟨_, rfl, ?_⟩
  refine State.spdmRun_frame _ _ _ _ _ _ _ ?_ rfl (fun _ _ => ?_)
  exact Frame.refl
  dsimp only
  refine Frame.comp ?_ (State.answer_frame _ _ _) rfl
  refine Frame.comp ?_ (State.setConn_frame _ _ _) rfl
  exact Frame.refl

theorem execSpdmKeyExchange_frame (p : SpdmPath) (r : List Byte) (s : State) : ∃ t, execSpdmKeyExchange p r s = .next t ∧
    Frame [.ld, .tb, .fab, .free, .out] s t := by
  refine ⟨_, rfl, ?_⟩
  refine State.spdmRun_frame _ _ _ _ _ _ _ ?_ rfl (fun _ _ => ?_)
  exact Frame.refl
  dsimp only
  split
  refine Frame.comp ?_ (State.spdmError_frame _ _ _) rfl
  exact Frame.refl
  refine Frame.comp ?_ (State.answer_frame _ _ _) rfl
  refine Frame.comp ?_ (State.freeStep_frame _) rfl
  refine Frame.comp ?_ (State.freeStep_frame _) rfl
  refine Frame.comp ?_ (State.drawStep_frame _ _) rfl
  refine Frame.comp ?_ (State.setConn_frame _ _ _) rfl
  exact Frame.refl

theorem execSpdmNegotiateAlgorithms_frame (p : SpdmPath) (r : List Byte) (s : State) : ∃ t, execSpdmNegotiateAlgorithms p
    r s = .next t ∧ Frame [.ld, .tb, .fab, .out] s t := by
  refine ⟨_, rfl, ?_⟩
  refine State.spdmRun_frame _ _ _ _ _ _ _ ?_ rfl (fun _ _ => ?_)
  exact Frame.refl
  dsimp only
  refine Frame.comp ?_ (State.answer_frame _ _ _) rfl
  refine Frame.comp ?_ (State.setConn_frame _ _ _) rfl
  exact Frame.refl

theorem State.dropLatch_frame (s : State) (m : Master) (off : Nat) : Frame [.latches] s (s.dropLatch m off) := by
  unfold State.dropLatch
  refine Frame.upd ?_
  exact Frame.refl

theorem State.setLatch_frame (s : State) (m : Master) (off : Nat) (write : Bool) (v : Nat) : Frame [.latches] s
    (s.setLatch m off write v) := by
  unfold State.setLatch
  refine Frame.upd ?_
  exact Frame.refl

theorem State.read32_frame (s : State) (m : Master) (off : Nat) : Frame [.latches] s (s.read32 m off).1 := by
  unfold State.read32
  split
  dsimp only
  exact Frame.refl
  dsimp only
  split
  dsimp only
  refine Frame.comp ?_ (State.setLatch_frame _ _ _ _ _) rfl
  exact Frame.refl
  split
  dsimp only
  refine Frame.comp ?_ (State.dropLatch_frame _ _ _) rfl
  exact Frame.refl
  dsimp only
  exact Frame.refl

theorem State.busRead_frame (s : State) (m : Master) (off : Nat) (size : AccessSize) : Frame [.latches] s (s.busRead m off
    size).1 := by
  unfold State.busRead
  split
  refine Frame.comp ?_ (State.read32_frame _ _ _) rfl
  exact Frame.refl
  split
  dsimp only
  exact Frame.refl
  dsimp only
  split
  dsimp only
  refine Frame.comp ?_ (State.dropLatch_frame _ _ _) rfl
  exact Frame.refl
  dsimp only
  refine Frame.comp ?_ (State.read32_frame _ _ _) rfl
  refine Frame.comp ?_ (State.read32_frame _ _ _) rfl
  exact Frame.refl
  dsimp only
  exact Frame.refl

theorem State.tripWrite_frame (s : State) (m : Master) (v : Nat) : Frame [.ld] s (s.tripWrite m v) := by
  unfold State.tripWrite
  split
  refine Frame.upd ?_
  exact Frame.refl
  exact Frame.refl

theorem State.watchWrite_frame (s : State) (m : Master) (v : Nat) : Frame [.im, .regs] s (s.watchWrite m v) := by
  have hset : Frame [.im, .regs] s (s.setReg 0x2800060 (v % 2 ^ 16)) := State.setReg_frame s _ _ (watch_ok v) |>.mono rfl
  unfold State.watchWrite
  split
  · extract_lets s1 im
    change Frame [.im, .regs] s s1 at hset
    clear_value s1
    split
    · exact Frame.upd hset
    · exact hset
  · exact Frame.refl

theorem State.icWrite_frame {s t : State} {m : Master} {off v : Nat} (h : s.icWrite m off v = some t) : Frame [.ld, .irq,
    .pcie, .fab, .out] s t := by
  unfold State.icWrite at h
  dsimp only at h
  repeat' split at h
  all_goals cases h
  refine State.bankWrite_frame _ _ _ _ ?_ rfl (fun _ _ => ?_)
  exact Frame.refl
  refine Frame.comp ?_ (State.maskSource_frame _ _) rfl
  exact Frame.refl
  refine State.bankWrite_frame _ _ _ _ ?_ rfl (fun _ _ => ?_)
  exact Frame.refl
  refine Frame.comp ?_ (State.unmaskSource_frame _ _) rfl
  exact Frame.refl
  refine State.bankWrite_frame _ _ _ _ ?_ rfl (fun _ _ => ?_)
  exact Frame.refl
  refine Frame.comp ?_ (State.arrive_frame _ _) rfl
  exact Frame.refl
  refine State.bankWrite_frame _ _ _ _ ?_ rfl (fun _ _ => ?_)
  exact Frame.refl
  refine Frame.comp ?_ (State.clearSource_frame _ _) rfl
  exact Frame.refl
  refine Frame.comp ?_ (State.icAck_frame _ _ _) rfl
  exact Frame.refl
  refine State.bankWrite_frame _ _ _ _ ?_ rfl (fun _ _ => ?_)
  exact Frame.refl
  refine Frame.comp ?_ (State.maskSource_frame _ _) rfl
  exact Frame.refl
  refine State.bankWrite_frame _ _ _ _ ?_ rfl (fun _ _ => ?_)
  exact Frame.refl
  refine Frame.comp ?_ (State.unmaskSource_frame _ _) rfl
  exact Frame.refl
  refine State.bankWrite_frame _ _ _ _ ?_ rfl (fun _ _ => ?_)
  exact Frame.refl
  refine Frame.comp ?_ (State.arrive_frame _ _) rfl
  exact Frame.refl
  refine State.bankWrite_frame _ _ _ _ ?_ rfl (fun _ _ => ?_)
  exact Frame.refl
  refine Frame.comp ?_ (State.clearSource_frame _ _) rfl
  exact Frame.refl

theorem State.storeWrite_frame (s : State) (m : Master) (off v : Nat) : Frame [.regs] s (s.storeWrite m off v) := by
  unfold State.storeWrite
  split
  exact Frame.refl
  split
  refine Frame.comp ?_ (State.setReg_frame _ _ _ (by first | assumption | exact masked_ok (by assumption))) rfl
  exact Frame.refl
  exact Frame.refl

theorem State.regWrite_frame (s : State) (m : Master) (off v : Nat) : Frame [.ms, .hg, .mv, .ham, .ld, .irq, .pcie, .im,
    .mc, .xe, .fab, .regs, .ctrs, .free, .out] s (s.regWrite m off v) := by
  have hic : ∀ o, Frame [.ms, .hg, .mv, .ham, .ld, .irq, .pcie, .im, .mc, .xe, .fab, .regs, .ctrs, .free, .out] s
      ((s.icWrite m o v).getD (s.storeWrite m off v)) := fun o =>
    match h : s.icWrite m o v with
    | some _ => State.icWrite_frame h |>.mono rfl
    | none => State.storeWrite_frame s m off v |>.mono rfl
  unfold State.regWrite
  split
  · exact State.tripWrite_frame s m v |>.mono rfl
  · split
    · exact State.resetWrite_frame s m v |>.mono rfl
    · split
      · exact State.regionWrite_frame s m v |>.mono rfl
      · split
        · exact State.watchWrite_frame s m v |>.mono rfl
        · split
          · exact State.cardRequest_frame s m v |>.mono rfl
          · split
            · exact hic _
            · split
              · exact State.ringCtrlWrite_frame s m _ v (ixOf_lt (by assumption)) |>.mono rfl
              · split
                · split
                  · exact Frame.comp (State.chCtrlWrite_frame s m _ v (ixOf_lt (by assumption)) |>.mono rfl)
                      (State.afterCtrl_frame _ _) rfl
                  · exact State.chCtrlWrite_frame s m _ v (ixOf_lt (by assumption)) |>.mono rfl
                · split
                  · exact State.portCtrlWrite_frame s m _ v (ixOf_lt (by assumption)) |>.mono rfl
                  · split
                    · exact State.logCfgWrite_frame s m _ v (ixOf_lt (by assumption)) |>.mono rfl
                    · exact State.storeWrite_frame s m off v |>.mono rfl

theorem State.write32_frame (s : State) (m : Master) (off v : Nat) : Frame [.ms, .hg, .mv, .ham, .ld, .irq, .pcie, .im,
    .mc, .xe, .fab, .regs, .ctrs, .latches, .free, .out] s (s.write32 m off v) := by
  unfold State.write32
  split
  split
  refine Frame.comp ?_ (State.setLatch_frame _ _ _ _ _) rfl
  exact Frame.refl
  refine Frame.comp ?_ (State.dropLatch_frame _ _ _) rfl
  exact Frame.refl
  split
  dsimp only
  refine Frame.comp ?_ (State.regWrite_frame _ _ _ _) rfl
  refine Frame.comp ?_ (State.dropLatch_frame _ _ _) rfl
  exact Frame.refl
  refine Frame.comp ?_ (State.regWrite_frame _ _ _ _) rfl
  exact Frame.refl

theorem State.busWrite_frame (s : State) (m : Master) (off : Nat) (size : AccessSize) (v : Nat) : Frame [.ms, .hg, .mv,
    .ham, .ld, .irq, .pcie, .im, .mc, .xe, .fab, .regs, .ctrs, .latches, .free, .out] s (s.busWrite m off size v) := by
  unfold State.busWrite
  split
  exact Frame.refl
  split
  split
  refine Frame.comp ?_ (State.write32_frame _ _ _ _) rfl
  exact Frame.refl
  exact Frame.refl
  split
  exact Frame.refl
  split
  refine Frame.comp ?_ (State.regWrite_frame _ _ _ _) rfl
  refine Frame.comp ?_ (State.dropLatch_frame _ _ _) rfl
  exact Frame.refl
  refine Frame.comp ?_ (State.write32_frame _ _ _ _) rfl
  refine Frame.comp ?_ (State.write32_frame _ _ _ _) rfl
  exact Frame.refl
  exact Frame.refl

theorem State.cfgWrite_frame (s : State) (w : CfgWrite) : Frame [.ld, .pcie] s (s.cfgWrite w) := by
  unfold State.cfgWrite
  split
  split
  exact Frame.refl
  refine Frame.upd ?_
  exact Frame.refl
  refine Frame.upd ?_
  exact Frame.refl
  refine Frame.upd ?_
  exact Frame.refl
  refine Frame.upd ?_
  exact Frame.refl
  refine Frame.upd ?_
  exact Frame.refl

theorem execConfigurationSpaceWrite_frame (w : CfgWrite) (s : State) : ∃ t, execConfigurationSpaceWrite w s = .next t ∧
    Frame [.ld, .pcie] s t := by
  refine ⟨_, rfl, ?_⟩
  split
  exact Frame.refl
  refine Frame.comp ?_ (State.cfgWrite_frame _ _) rfl
  refine Frame.comp ?_ (State.linkUse_frame _) rfl
  exact Frame.refl

theorem execDynamicAddressAssignment_frame (how : I3cAssign) (s : State) : ∃ t, execDynamicAddressAssignment how s = .next
    t ∧ Frame [.ld] s t := by
  refine ⟨_, rfl, ?_⟩
  split
  refine Frame.upd ?_
  exact Frame.refl
  exact Frame.refl

theorem execLowerHalfRead_frame (m : Master) (x : RegRead) (s : State) : ∃ t, execLowerHalfRead m x s = .next t ∧ Frame
    [.ld, .fab, .latches, .free, .out] s t := by
  refine ⟨_, rfl, ?_⟩
  dsimp only
  refine Frame.comp ?_ (State.freeStep_frame _) rfl
  refine Frame.comp ?_ (State.emit_frame _ _) rfl
  refine Frame.comp ?_ (State.busRead_frame _ _ _ _) rfl
  refine Frame.comp ?_ (State.reachedBy_frame _ _) rfl
  exact Frame.refl

theorem execRegisterWrite_frame (m : Master) (off : Nat) (size : AccessSize) (v : W64) (s : State) : ∃ t,
    execRegisterWrite m off size v s = .next t ∧ Frame [.ms, .hg, .mv, .ham, .ld, .irq, .pcie, .im, .mc, .xe, .fab, .regs,
    .ctrs, .latches, .free, .out] s t := by
  refine ⟨_, rfl, ?_⟩
  refine Frame.comp ?_ (State.busWrite_frame _ _ _ _ _) rfl
  refine Frame.comp ?_ (State.reachedBy_frame _ _) rfl
  exact Frame.refl

end Sys2Proof.Machine
end

