-- ==== Sys2Proof/Laws/Commands.lean ====
section
/-!
SUPPORT. What the shared operations do to the commands of the Host Gate: which of them leave every command alone, and what
delivery and failure make of one.
-/
namespace Sys2Proof.Machine

open Sys2Proof

set_option Elab.async false

/-- A change that leaves the Host Gate alone leaves every command alone. -/
theorem Frame.hg_eq {l : List Comp} {s t : State} (h : Frame l s t) (hl : l.contains .hg = false) : t.hg = s.hg :=
  h.same .hg (by simpa using hl)

theorem State.cmd_of_cmds {s t : State} (h : t.hg.cmds = s.hg.cmds) (q : Nat) : t.cmd q = s.cmd q := by
  unfold State.cmd; rw [h]

@[simp] theorem State.setRing_cmds (s : State) (n : Nat) (r : Ring) : (s.setRing n r).hg.cmds = s.hg.cmds := rfl
@[simp] theorem State.signal_cmds (s : State) (e : Nat) (v : W64) (q : Nat) : (s.signal e v q).hg.cmds = s.hg.cmds := rfl
@[simp] theorem State.setStep_cmds (s : State) (n : Nat) (i : StepInfo) : (s.setStep n i).hg.cmds = s.hg.cmds := rfl

@[simp] theorem State.bump_hg' (s : State) (off n : Nat) : (s.bump off n).hg = s.hg := rfl

@[simp] theorem State.arrive_hg (s : State) (n : Nat) : (s.arrive n).hg = s.hg := (State.arrive_frame s n).hg_eq rfl
@[simp] theorem State.logRec_hg (s : State) (u coord kind : Nat) (ring seq : Option Nat) (data : Nat) :
    (s.logRec u coord kind ring seq data).hg = s.hg := (State.logRec_frame s u coord kind ring seq data).hg_eq rfl
@[simp] theorem State.emit_hg (s : State) (m : OutMsg) : (s.emit m).hg = s.hg := (State.emit_frame s m).hg_eq rfl

@[simp] theorem State.evt_cmds (s : State) (q : Option Nat) (k n : Nat) : (s.evt q k n).hg.cmds = s.hg.cmds := by
  unfold State.evt
  dsimp only
  split
  · rfl
  · split <;> rfl

@[simp] theorem State.evtU_cmds (s : State) (k n : Nat) : (s.evtU k n).hg.cmds = s.hg.cmds := rfl

@[simp] theorem State.haltRing_cmds (s : State) (n code : Nat) : (s.haltRing n code).hg.cmds = s.hg.cmds := by
  unfold State.haltRing
  dsimp only
  split
  · rfl
  · simp

@[simp] theorem State.haltOn_cmds (s : State) (c : Cmd) (t : Status) : (s.haltOn c t).hg.cmds = s.hg.cmds := by
  unfold State.haltOn
  split
  · simp
  · rfl

theorem State.foldl_cmds {α : Type} {f : State → α → State} (hf : ∀ s x, (f s x).hg.cmds = s.hg.cmds) (l : List α) (s : State) :
    (l.foldl f s).hg.cmds = s.hg.cmds := by
  induction l generalizing s with
  | nil => rfl
  | cons x xs ih => exact (ih _).trans (hf s x)

@[simp] theorem State.countPiece_cmds (s : State) (die : Nat) (q : Option Nat) (w : Bool) (x : Nat × Nat) :
    (s.countPiece die q w x).hg.cmds = s.hg.cmds := by
  unfold State.countPiece
  dsimp only
  split
  · simp
  · rfl

@[simp] theorem State.traffic_cmds (s : State) (q : Option Nat) (w : Bool) (a n : Nat) :
    (s.traffic q w a n).hg.cmds = s.hg.cmds := by
  unfold State.traffic State.trafficOn
  rw [(State.freeStep_frame _).hg_eq rfl, State.evtU_cmds]
  exact State.foldl_cmds (fun s x => State.countPiece_cmds s _ _ _ x) _ _

/-- What delivery makes of a command (R283). -/
def State.deliveredCmd (s : State) (c : Cmd) : Cmd :=
  { c with stage := .delivered, signalled := true, deltas := if c.signalled then c.deltas else s.endLatch c }

/-- Delivery, with the change of the command under its name. -/
theorem State.deliver_cmds {s : State} {q : Nat} {c : Cmd} (h : s.cmd q = some c) :
    (s.deliver q).hg.cmds = (s.updCmd q s.deliveredCmd).hg.cmds := by
  unfold State.deliver
  simp only [h]
  rw [State.logRec_hg]
  dsimp only
  rw [State.haltOn_cmds]
  have hs : ∀ u : State, (if c.ext && !c.signalled then u.setRing c.ring
      { u.ring c.ring with latch := (u.ring c.ring).latch ++ [(s.now, q, List.replicate 16 0)] } else u).hg.cmds =
        u.hg.cmds := by
    intro u; split
    · exact State.setRing_cmds ..
    · rfl
  rw [hs]
  split
  · split <;> rfl
  · rfl

/-- A delivered command (R283). -/
theorem State.cmd_deliver {s : State} {q : Nat} {c : Cmd} (h : s.cmd q = some c) :
    (s.deliver q).cmd q = some (s.deliveredCmd c) := by
  rw [State.cmd_of_cmds (State.deliver_cmds h), State.cmd_updCmd s.deliveredCmd fun _ => rfl, h]
  rfl

/-- Other commands stay as they are when one is delivered. -/
theorem State.cmd_deliver_ne {s : State} {q r : Nat} (hr : r ≠ q) : (s.deliver q).cmd r = s.cmd r := by
  cases h : s.cmd q with
  | none => unfold State.deliver; simp only [h]
  | some c => rw [State.cmd_of_cmds (State.deliver_cmds h), State.cmd_updCmd_ne s.deliveredCmd hr fun _ => rfl]

/-! ### Failure -/

/-- Command `q` stands and has failed. -/
def State.FailedCmd (s : State) (q : Nat) : Prop := ∃ d, s.cmd q = some d ∧ d.stage = .failed

theorem State.FailedCmd.of_cmds {s t : State} {q : Nat} (h : s.FailedCmd q) (e : t.hg.cmds = s.hg.cmds) : t.FailedCmd q := by
  obtain ⟨d, hd, hs⟩ := h
  exact ⟨d, by rw [State.cmd_of_cmds e, hd], hs⟩

/-- A change of any command that leaves it failed leaves `q` failed. -/
theorem State.FailedCmd.upd {s : State} {q r : Nat} {f : Cmd → Cmd} (h : s.FailedCmd q) (hf : ∀ c, (f c).seq = c.seq)
    (hs : ∀ c, (f c).stage = .failed) : (s.updCmd r f).FailedCmd q := by
  obtain ⟨d, hd, hst⟩ := h
  by_cases hr : q = r
  · subst hr
    exact ⟨f d, by rw [State.cmd_updCmd f hf, hd]; rfl, hs d⟩
  · exact ⟨d, by rw [State.cmd_updCmd_ne f hr hf, hd], hst⟩

@[simp] theorem State.noteSummary_hg (s : State) (n r : Nat) (nf inc : Bool) : (s.noteSummary n r nf inc).hg = s.hg :=
  (State.noteSummary_frame s n r nf inc).hg_eq rfl
@[simp] theorem State.sendSummary_hg (s : State) (n : Nat) (nf inc : Bool) : (s.sendSummary n nf inc).hg = s.hg :=
  (State.sendSummary_frame s n nf inc).hg_eq rfl

theorem State.markStep_cmds (s : State) (n : Nat) (m : StepMark) : (s.markStep n m).hg.cmds = s.hg.cmds := by
  unfold State.markStep
  dsimp only
  split <;> rfl

theorem State.FailedCmd.timeOut {s : State} {q : Nat} (h : s.FailedCmd q) (c : Cmd) : (s.timeOut c).FailedCmd q := by
  unfold State.timeOut
  split
  · exact h
  · refine State.FailedCmd.of_cmds ?_ (State.haltOn_cmds _ _ _)
    exact h.upd (fun _ => rfl) fun _ => rfl

theorem State.FailedCmd.dropStep {s : State} {q : Nat} (h : s.FailedCmd q) (n : Nat) : (s.dropStep n).FailedCmd q := by
  unfold State.dropStep
  split
  · exact h
  · extract_lets s1 xe s2
    have h2 : s2.FailedCmd q := by
      refine h.of_cmds ?_
      change ((s.markStep n .incomplete).sendSummary n false true).hg.cmds = _
      rw [State.sendSummary_hg, State.markStep_cmds]
    clear_value s2
    generalize s2.hg.cmds.filter (fun c => c.endsWithStep n) = l
    induction l generalizing s2 with
    | nil => exact h2
    | cons c l ih => exact ih _ (h2.timeOut c)

theorem State.FailedCmd.markIncomplete {s : State} {q : Nat} (h : s.FailedCmd q) (n : Nat) : (s.markIncomplete n).FailedCmd q := by
  unfold State.markIncomplete
  split
  · exact h
  · exact ((h.dropStep n).dropStep (n + 1)).of_cmds rfl

/-- A failed command (R500). -/
theorem State.failedCmd_failCmd {s : State} {q : Nat} {c : Cmd} (h : s.cmd q = some c) (t : Status) (detail : Nat) :
    (s.failCmd q t detail).FailedCmd q := by
  unfold State.failCmd
  simp only [h]
  have h1 : ((s.updCmd q fun c => { c with
      stage := .failed, conds := t :: c.conds, detail := detail % 2 ^ 63, tainted := false, hold := false }).haltOn c t).FailedCmd q :=
    State.FailedCmd.of_cmds ⟨{ c with
      stage := .failed, conds := t :: c.conds, detail := detail % 2 ^ 63, tainted := false, hold := false },
      by
        rw [State.cmd_updCmd (fun c => { c with
          stage := .failed, conds := t :: c.conds, detail := detail % 2 ^ 63, tainted := false, hold := false }) fun _ => rfl, h]
        rfl, rfl⟩ (State.haltOn_cmds _ _ _)
  split
  · exact h1.markIncomplete _
  · exact h1

/-! ### Memory -/

@[simp] theorem State.noteMerge_cmds (s : State) (cw : Nat) : (s.noteMerge cw).hg.cmds = s.hg.cmds := by
  unfold State.noteMerge
  split
  · rfl
  · rw [(State.stackError_frame _ _ _ _).hg_eq rfl, State.evtU_cmds, (State.countCorr_frame _ _).hg_eq rfl]
  · rw [(State.stackError_frame _ _ _ _).hg_eq rfl]
    rfl

@[simp] theorem State.mergeCw_cmds (s : State) (cw : Nat) : (s.mergeCw cw).hg.cmds = s.hg.cmds := by
  unfold State.mergeCw
  dsimp only
  rw [State.setMeta_hg, (State.settle_frame _ _).hg_eq rfl, State.noteMerge_cmds]

@[simp] theorem State.putBytes_hg (s : State) (a : Nat) (l : List Byte) : (s.putBytes a l).hg = s.hg :=
  (State.putBytes_frame s a l).hg_eq rfl

@[simp] theorem State.wr_cmds (s : State) (a : Nat) (l : List Byte) : (s.wr a l).hg.cmds = s.hg.cmds := by
  unfold State.wr
  split
  · simp
  · dsimp only
    rw [State.putBytes_hg]
    refine State.foldl_cmds (fun s x => ?_) _ _
    split
    · rfl
    · simp

@[simp] theorem State.noteCw_cmds (s : State) (cw : Nat) : (s.noteCw cw).hg.cmds = s.hg.cmds := by
  unfold State.noteCw
  dsimp only
  have h := State.noteMerge_cmds s cw
  split
  · exact h
  · split
    · exact h
    · split <;> exact h

@[simp] theorem State.noteReads_cmds (s : State) (l : List (Nat × Nat)) : (s.noteReads l).hg.cmds = s.hg.cmds := by
  induction l generalizing s with
  | nil => rfl
  | cons x xs ih =>
    obtain ⟨a, n⟩ := x
    unfold State.noteReads
    rw [ih]
    split
    · rfl
    · exact State.foldl_cmds (fun s x => State.noteCw_cmds s x) _ _

end Sys2Proof.Machine
end

