-- ==== Sys2Proof/Laws/Memory.lean ====
section
/-!
SUPPORT. What reads and writes of memory do: a read after a write of the same place gives the bytes written, and every other
byte reads as before (R371).
-/
namespace Sys2Proof.Machine

open Sys2Proof

set_option Elab.async false

/-- Bytes and symbol errors are the same in both states. -/
def State.SameData (s t : State) : Prop := t.ms.mem = s.ms.mem ∧ t.ms.upset = s.ms.upset

theorem State.SameData.of_ms {s t : State} (h : t.ms = s.ms) : s.SameData t := by
  unfold State.SameData; rw [h]; exact ⟨rfl, rfl⟩
theorem State.SameData.trans {s t u : State} (h : s.SameData t) (g : t.SameData u) : s.SameData u :=
  ⟨g.1.trans h.1, g.2.trans h.2⟩
theorem Frame.sameData {l : List Comp} {s t : State} (h : Frame l s t) (hl : l.contains .ms = false) : s.SameData t :=
  .of_ms (h.same .ms (by simpa using hl))

theorem State.SameData.rdByte {s t : State} (h : s.SameData t) (a : Nat) : t.rdByte a = s.rdByte a := by
  unfold State.rdByte State.byte State.upset; rw [h.1, h.2]
theorem State.SameData.upset {s t : State} (h : s.SameData t) (a : Nat) : t.upset a = s.upset a := by
  unfold State.upset; rw [h.2]

theorem State.noteError_data (s : State) (u : UnitId) : s.SameData (s.noteError u).1 :=
  .of_ms (by unfold State.noteError; dsimp only; split <;> rfl)

theorem State.startRemap_data (s : State) (st pch row mech syn : Nat) : s.SameData (s.startRemap st pch row mech syn) := by
  unfold State.startRemap
  split
  · exact ⟨rfl, rfl⟩
  · dsimp only
    split
    · exact (State.cper_frame _ _).sameData rfl
    · exact ⟨rfl, rfl⟩

theorem State.stackError_data (s : State) (cw : Nat) (bad : Bool) (syn : Nat) : s.SameData (s.stackError cw bad syn) := by
  unfold State.stackError
  split
  · exact ⟨rfl, rfl⟩
  · extract_lets u n s1 ms s2
    have h1 : s.SameData s1 := by
      unfold s1
      split
      · exact State.noteError_data _ _
      · exact (State.noteError_data _ _).trans (.of_ms ((State.cper_frame _ _).same .ms (by decide)))
    have h2 : s.SameData s2 := by
      unfold s2
      split
      · exact h1
      · exact ⟨h1.1, h1.2⟩
    split
    · exact h2.trans (State.startRemap_data _ _ _ _ _ _)
    · exact h2

theorem State.noteMerge_data (s : State) (cw : Nat) : s.SameData (s.noteMerge cw) := by
  unfold State.noteMerge
  split
  · exact ⟨rfl, rfl⟩
  · exact (((State.countCorr_frame _ _).sameData rfl).trans ((State.evtU_frame _ _ _).sameData rfl)).trans (State.stackError_data _ _ _ _)
  · exact (State.SameData.of_ms rfl).trans (State.stackError_data _ _ _ _)
theorem State.putBytes_upset (s : State) (a : Nat) (l : List Byte) : (s.putBytes a l).ms.upset = s.ms.upset := by
  induction l generalizing s a with
  | nil => rfl
  | cons v vs ih => exact (ih _ _).trans rfl

/-! ### Bytes read -/

/-- The codeword holds no symbol error. -/
theorem State.rdByte_clean {s : State} {a : Nat} (h : isHost a = true ∨ s.upset (a / 32) = 0) : s.rdByte a = s.byte a := by
  unfold State.rdByte
  rcases h with h | h
  · rw [if_pos h]
  · split
    · rfl
    · dsimp only; rw [if_pos h]

theorem State.rd_length (s : State) (a n : Nat) : (s.rd a n).length = n := by
  induction n generalizing a with
  | zero => rfl
  | succ n ih => unfold State.rd; rw [List.length_cons, ih]

theorem State.rd_get (s : State) {a n i : Nat} (h : i < (s.rd a n).length) : (s.rd a n)[i] = s.rdByte (a + i) := by
  induction n generalizing a i with
  | zero => cases h
  | succ n ih =>
    cases i with
    | zero => rfl
    | succ i =>
      have h2 : i < (s.rd (a + 1) n).length := by rw [State.rd_length] at h ⊢; omega
      change (s.rd (a + 1) n)[i] = _
      rw [ih h2]
      congr 1
      omega

/-- A codeword settled reads as before, and holds no error. -/
theorem State.settle_rdByte {s : State} (hm : s.MemOk) (hu : s.ms.upset.Ordered) (cw : Nat) (p : Bool) (z j : Nat) :
    ((s.settle cw).setMeta cw p z).rdByte j = s.rdByte j := by
  have hu2 : (s.settle cw).ms.upset = s.ms.upset := by
    unfold State.settle
    split
    · rfl
    · rw [State.putBytes_upset]
  have hup : ∀ k, ((s.settle cw).setMeta cw p z).upset k = if k = cw then 0 else s.upset k := by
    intro k
    unfold State.upset State.setMeta
    dsimp only
    rw [hu2, Tab.get_set_of_rising hu]
  have hin : j / 32 = cw → (s.settle cw).byte j = s.rdByte j := by
    intro hk
    unfold State.settle
    split
    · rename_i h0
      rw [State.rdByte_clean (.inr (by rw [hk]; exact h0))]
    · have hi : j - cw * 32 < (s.rd (cw * 32) 32).length := by rw [State.rd_length]; omega
      have h1 := State.byte_putBytes (s := s) hm (a := cw * 32) hi
      rw [show cw * 32 + (j - cw * 32) = j by omega] at h1
      rw [h1, State.rd_get, show cw * 32 + (j - cw * 32) = j by omega]
  have hout : j / 32 ≠ cw → (s.settle cw).byte j = s.byte j := by
    intro hk
    unfold State.settle
    split
    · rfl
    · exact State.byte_putBytes_out hm (by rw [State.rd_length]; omega)
  by_cases hk : j / 32 = cw
  · rw [State.rdByte_clean (.inr (by rw [hup, if_pos hk]))]
    exact hin hk
  · unfold State.rdByte
    rw [hup, if_neg hk]
    have := hout hk
    rw [show ((s.settle cw).setMeta cw p z).byte j = s.byte j from this]

/-- The merge of one codeword: its bytes read as before. -/
theorem State.mergeCw_rdByte {s : State} (hs : s.Inv) (cw j : Nat) :
    (s.mergeCw cw).rdByte j = s.rdByte j := by
  unfold State.mergeCw
  dsimp only
  have hi : (s.noteMerge cw).Inv := (State.noteMerge_frame s cw).inv hs
  rw [State.settle_rdByte hi.mem hi.tabs.ms.2.2.1, (State.noteMerge_data s cw).rdByte]

theorem State.mergeCw_upset {s : State} (hs : s.Inv) (cw k : Nat) :
    (s.mergeCw cw).upset k = if k = cw then 0 else s.upset k := by
  have hi : (s.noteMerge cw).Inv := (State.noteMerge_frame s cw).inv hs
  have hu2 : ((s.noteMerge cw).settle cw).ms.upset = s.ms.upset := by
    rw [← (State.noteMerge_data s cw).2]
    unfold State.settle
    split
    · rfl
    · rw [State.putBytes_upset]
  unfold State.mergeCw State.upset State.setMeta
  dsimp only
  rw [hu2, Tab.get_set_of_rising hs.tabs.ms.2.2.1]

theorem State.setMeta_rdByte {s : State} (hs : s.Inv) {cw : Nat} (p : Bool) (z : Nat) {j : Nat} (hj : isHost j = true ∨ j / 32 ≠ cw) :
    (s.setMeta cw p z).rdByte j = s.rdByte j := by
  unfold State.rdByte
  rcases hj with hj | hj
  · rw [if_pos hj, if_pos hj]; rfl
  · have : (s.setMeta cw p z).upset (j / 32) = s.upset (j / 32) := by
      unfold State.upset State.setMeta
      dsimp only
      rw [Tab.get_set_of_rising hs.tabs.ms.2.2.1, if_neg hj]
    rw [this]
    rfl

theorem State.setMeta_upset {s : State} (hs : s.Inv) (cw k : Nat) (p : Bool) (z : Nat) :
    (s.setMeta cw p z).upset k = if k = cw then 0 else s.upset k := by
  unfold State.upset State.setMeta
  dsimp only
  rw [Tab.get_set_of_rising hs.tabs.ms.2.2.1]

/-- The codewords of a write, before its bytes are stored. -/
def State.openCws (s : State) (a n : Nat) (l : List Nat) : State :=
  l.foldl (fun s cw => if wholeCw a n cw then s.setMeta cw false (s.zoneOf (cw * 32)) else s.mergeCw cw) s

theorem State.openCws_spec {a n : Nat} (l : List Nat) {s : State} (hs : s.Inv) :
    (s.openCws a n l).Inv ∧ (∀ j, (j < a ∨ a + n ≤ j) → (s.openCws a n l).rdByte j = s.rdByte j) ∧
    (∀ k, (k ∈ l ∨ s.upset k = 0) → (s.openCws a n l).upset k = 0) := by
  induction l generalizing s with
  | nil =>
    refine ⟨hs, fun _ _ => rfl, fun k hk => ?_⟩
    rcases hk with hk | hk
    · cases hk
    · exact hk
  | cons cw l ih =>
    unfold State.openCws
    rw [List.foldl_cons]
    split
    · rename_i hw
      have hi : (s.setMeta cw false (s.zoneOf (cw * 32))).Inv := (State.setMeta_frame _ _ _ _).inv hs
      obtain ⟨h1, h2, h3⟩ := ih hi
      refine ⟨h1, fun j hj => ?_, fun k hk => ?_⟩
      · refine (h2 j hj).trans (State.setMeta_rdByte hs _ _ (.inr ?_))
        unfold wholeCw at hw
        simp only [Bool.and_eq_true, decide_eq_true_eq] at hw
        omega
      · refine h3 k ?_
        rw [State.setMeta_upset hs]
        by_cases hkc : k = cw
        · right; rw [if_pos hkc]
        · rw [if_neg hkc]
          rcases hk with hk | hk
          · left; exact (List.mem_cons.mp hk).resolve_left hkc
          · exact .inr hk
    · have hi : (s.mergeCw cw).Inv := (State.mergeCw_frame _ _).inv hs
      obtain ⟨h1, h2, h3⟩ := ih hi
      refine ⟨h1, fun j hj => ?_, fun k hk => ?_⟩
      · exact (h2 j hj).trans (State.mergeCw_rdByte hs cw j)
      · refine h3 k ?_
        rw [State.mergeCw_upset hs]
        by_cases hkc : k = cw
        · right; rw [if_pos hkc]
        · rw [if_neg hkc]
          rcases hk with hk | hk
          · left; exact (List.mem_cons.mp hk).resolve_left hkc
          · exact .inr hk

theorem mem_cwsOf {a n k : Nat} : k ∈ cwsOf a n ↔ n ≠ 0 ∧ a / 32 ≤ k ∧ k ≤ (a + n - 1) / 32 := by
  unfold cwsOf
  split
  · simp [*]
  · simp only [List.mem_map, List.mem_range]
    constructor
    · rintro ⟨i, hi, rfl⟩; omega
    · rintro ⟨_, h1, h2⟩; exact ⟨k - a / 32, by omega, by omega⟩

/-- Bytes outside a write read as before (R371). -/
theorem State.rdByte_wr_out {s : State} (hs : s.Inv) {a : Nat} {l : List Byte} {j : Nat}
    (hj : j < a ∨ a + l.length ≤ j) : (s.wr a l).rdByte j = s.rdByte j := by
  unfold State.wr
  split
  · rename_i h
    unfold State.rdByte
    have hb := State.byte_putBytes_out hs.mem hj
    have hu : (s.putBytes a l).upset (j / 32) = s.upset (j / 32) := by unfold State.upset; rw [State.putBytes_upset]
    rw [hb, hu]
  · dsimp only
    have := State.openCws_spec (a := a) (n := l.length) (cwsOf a l.length) hs
    unfold State.openCws at this
    obtain ⟨h1, h2, h3⟩ := this
    refine Eq.trans ?_ (h2 j hj)
    generalize List.foldl _ s (cwsOf a l.length) = u at h1
    unfold State.rdByte
    have hb := State.byte_putBytes_out h1.mem hj
    have hu : (u.putBytes a l).upset (j / 32) = u.upset (j / 32) := by unfold State.upset; rw [State.putBytes_upset]
    rw [hb, hu]

/-- The bytes of a write are read back (R371). -/
theorem State.rdByte_wr {s : State} (hs : s.Inv) {a : Nat} {l : List Byte} {i : Nat} (hi : i < l.length)
    (hk : isHost a = isHost (a + i)) : (s.wr a l).rdByte (a + i) = l[i] := by
  unfold State.wr
  split
  · rename_i h
    rw [State.rdByte_clean (.inl (by rw [← hk]; exact h)), State.byte_putBytes hs.mem hi]
  · dsimp only
    have := State.openCws_spec (a := a) (n := l.length) (cwsOf a l.length) hs
    unfold State.openCws at this
    obtain ⟨h1, h2, h3⟩ := this
    have h4 := h3 ((a + i) / 32) (.inl (mem_cwsOf.mpr ⟨by omega, by omega, by omega⟩))
    generalize List.foldl _ s (cwsOf a l.length) = u at h1 h4
    have hu : (u.putBytes a l).upset ((a + i) / 32) = 0 := by rw [← h4]; unfold State.upset; rw [State.putBytes_upset]
    rw [State.rdByte_clean (.inr hu), State.byte_putBytes h1.mem hi]

end Sys2Proof.Machine
end

