-- ==== Sys2Proof/WellFormed.lean ====
section
/-!
DEFINITION. Which commands are well formed: every operand lies in the range that the manual gives it, beyond what its type
says already. The machine runs every command; statements may ask for a well-formed one.
-/
namespace Sys2Proof

/-- An issue sequence number (64 bits, R318), or the number of a copy that a RECOMP replays or of reads for another module (the model's own, 2^64 and up). -/
def seqOk (q : Nat) : Bool := decide (q < 2 ^ 66)
/-- A step number (32 bits); 0xFFFF_FFFF marks a command of no step (R319). -/
def stepOk (n : Nat) : Bool := decide (n < 0xFFFFFFFF)
/-- A rank of a group of at most 1,024 (R243). -/
def rankOk (r : Nat) : Bool := decide (r < 1024)
/-- An offset in BAR0, which is 64 MiB long. -/
def offOk (o : Nat) : Bool := decide (o < 0x4000000)
/-- A 32-bit number: a tensor id or a coordinate. -/
def wordOk (v : Nat) : Bool := decide (v < 2 ^ 32)
/-- A critical command in a message carries its two slots of 64 bytes (R417). -/
def critOk : Crit → Bool
  | .ring q => seqOk q
  | .mctp slots _ => slots.length == 128
  | .debug slots _ => slots.length == 128
/-- What the outside world stores lies in host memory, and what fails is a range of host addresses; a lane belongs to a
part of a step and a rank. -/
def envOk (e : Env) : Bool :=
  e.stores.all (fun p => decide (2 ^ 63 ≤ p.1)) && e.hostBad.all (fun p => decide (2 ^ 63 ≤ p.1) && decide (p.1 < p.2.1)) &&
  e.lanes.all (fun f => decide (f.step < 2 ^ 32) && decide (f.owner < 1024))
/-- An SPDM request has a header of four bytes. -/
def messageOk (r : List Byte) : Bool := decide (4 ≤ r.length)
/-- An access through the aperture is at most 4,096 bytes long. -/
def burstOk (d : List Byte) : Bool := decide (d.length ≤ 4096)
/-- Cells of an array: 1,024 rows and 528 columns. -/
def cellsOk (l : List (Nat × Nat)) : Bool := l.all fun p => decide (p.1 < 1024) && decide (p.2 < 528)
/-- Lines of an array: columns, then rows from 528 on. -/
def linesOk (l : List Nat) : Bool := l.all fun x => decide (x < 1552)
/-- A flit as it arrives: 17 codewords of 36 symbols (R277). -/
def flitOk (l : List Byte) : Bool := l.length == 612

/-- A message occupies whole data units of 32 bytes, a header and at most 128 more (R271). -/
def unitsOk (l : List Byte) : Bool := l.length % 33 == 0 && decide (33 ≤ l.length) && decide (l.length ≤ 4257)
/-- Whole codewords of 36 symbols (R367). -/
def codewordsOk (l : List Byte) : Bool := l.length % 36 == 0

/-- A well-formed command. -/
def Instr.wf (i : Instr) : Bool :=
  match i with
  | .move q => seqOk q
  | .fill q => seqOk q
  | .cmpr q => seqOk q
  | .wait q => seqOk q
  | .sgnl q => seqOk q
  | .fenc q => seqOk q
  | .fencAll q => seqOk q
  | .fencRestart q => seqOk q
  | .fencReplay q => seqOk q
  | .amvm q => seqOk q
  | .amvt q => seqOk q
  | .prog q => seqOk q
  | .load q => seqOk q
  | .mmul q => seqOk q
  | .attn q => seqOk q
  | .attnBwd q => seqOk q
  | .vect q => seqOk q
  | .norm q => seqOk q
  | .smax q => seqOk q
  | .stsh q => seqOk q
  | .recl q => seqOk q
  | .recomp q => seqOk q
  | .xchg q => seqOk q
  | .gath q => seqOk q
  | .updt q => seqOk q
  | .scalApply q => seqOk q
  | .scalClose q => seqOk q
  | .scalReset q => seqOk q
  | .scalClrflag q => seqOk q
  | .snap q => seqOk q
  | .cntrSelect q => seqOk q
  | .cntrDump q => seqOk q
  | .cntrLogread q => seqOk q
  | .maintSelfcal q => seqOk q
  | .maintConvcal q => seqOk q
  | .maintSweep q => seqOk q
  | .maintGaincal q => seqOk q
  | .maintLinetest q => seqOk q
  | .maintLevels q => seqOk q
  | .claim x => critOk x
  | .hand x => critOk x
  | .leas x => critOk x
  | .fwld x => critOk x
  | .cfgcCertificate x => critOk x
  | .cfgcSpareMap x => critOk x
  | .qovr x => critOk x
  | .plim x => critOk x
  | .dbgu x => critOk x
  | .dbguLock x => critOk x
  | .sani x => critOk x
  | .spdmGetVersion _ r => messageOk r
  | .spdmGetCapabilities _ r => messageOk r
  | .spdmNegotiateAlgorithms _ r => messageOk r
  | .spdmGetDigests _ r => messageOk r
  | .spdmGetCertificate _ r => messageOk r
  | .spdmChallenge _ r => messageOk r
  | .spdmGetMeasurements _ r => messageOk r
  | .spdmKeyExchange _ r => messageOk r
  | .spdmFinish _ r => messageOk r
  | .spdmEndSession _ r => messageOk r
  | .doorbellPoll _ e => envOk e
  | .hintWindowWrite _ _ => true
  | .commandFetch _ => true
  | .stepHoldRelease _ => true
  | .commandStart q => seqOk q
  | .bringupHoldTimeout q => seqOk q
  | .commandClear q => seqOk q
  | .completionRecordWrite _ => true
  | .completionGraceExpiry _ => true
  | .waitSatisfied q => seqOk q
  | .waitTimeoutExpiry q => seqOk q
  | .versionWaitTimeout q => seqOk q
  | .ringEnable _ _ _ => true
  | .ringDisable _ _ _ => true
  | .ringResume _ _ _ => true
  | .moverRestart _ _ _ => true
  | .moverFlush _ _ _ => true
  | .portRetrain _ _ _ => true
  | .logbookArm _ _ _ => true
  | .logbookManualTrigger _ _ => true
  | .postcardRequest _ _ => true
  | .moduleResetWrite _ _ => true
  | .hamperRegionWrite _ _ => true
  | .icPendSet _ _ _ => true
  | .icPendClr _ _ _ => true
  | .icAck _ _ => true
  | .icMaskSet _ _ _ => true
  | .icMaskClr _ _ _ => true
  | .registerWrite _ off _ _ => offOk off
  | .lowerHalfRead _ r => offOk r.off
  | .apertureRead _ _ _ => true
  | .apertureWrite _ _ data => burstOk data
  | .moverRequestFail _ _ _ _ _ => true
  | .moverTransferEnd _ => true
  | .moverHaltedWaitTimeout q => seqOk q
  | .spillTransferEnd _ => true
  | .hamperRegionApply => true
  | .arrayReadStart q _ => seqOk q
  | .arrayReadConversionEnd q _ _ => seqOk q
  | .resolutionComplete q _ => seqOk q
  | .digitalQuarterComplete q _ => seqOk q
  | .checksumTestComplete q _ => seqOk q
  | .almanacClaimGrant _ => true
  | .transitionStart _ => true
  | .writeWindowEnd _ cells => cellsOk (cells.map fun d => (d.1, d.2.1))
  | .arrayProgrammingEnd _ cells => cellsOk (cells.map fun d => (d.1, d.2.1))
  | .verifySweepEnd _ meas => cellsOk (meas.map fun d => (d.1, d.2.1))
  | .selfCalibrationEnd _ _ => true
  | .gainClosureEnd _ => true
  | .lineTestEnd _ up down => linesOk (up.map Prod.fst) && linesOk (down.map Prod.fst)
  | .railStepEnd _ => true
  | .sweepPeriodDue _ => true
  | .converterPeriodDue _ => true
  | .linePeriodDue _ => true
  | .gainClosureDue _ => true
  | .activityAging _ => true
  | .gangAllocate q _ _ => seqOk q
  | .tilePassEnd q _ _ => seqOk q
  | .slowPathEnd q _ _ => seqOk q
  | .tileCheckComplete q _ _ _ _ _ _ => seqOk q
  | .operationResidueCheck q _ _ _ _ _ => seqOk q
  | .rampStageChange _ _ => true
  | .repairReplayStart q => seqOk q
  | .returnToNominal _ => true
  | .commitFence n => stepOk n
  | .contributionArrival rank step _ owner _ _ _ => rankOk rank && stepOk step && rankOk owner
  | .bucketDeadline step _ owner => stepOk step && rankOk owner
  | .bucketGiveup step _ owner => stepOk step && rankOk owner
  | .allClearArrival rank step _ owner => rankOk rank && stepOk step && rankOk owner
  | .retractArrival rank step _ owner => rankOk rank && stepOk step && rankOk owner
  | .retractAckArrival step _ owner => stepOk step && rankOk owner
  | .summarySend step => stepOk step
  | .summaryArrival rank step _ _ => rankOk rank && stepOk step
  | .summaryGiveup step => stepOk step
  | .excludedSetArrival rank step set => rankOk rank && stepOk step && set.all rankOk
  | .exclusionWindowEnd step buddies => stepOk step && (buddies.all fun p => rankOk p.1 && rankOk p.2)
  | .closeMessageArrival rank step _ _ => rankOk rank && stepOk step
  | .closeGiveup q => seqOk q
  | .buddyDeliveryArrival step _ _ => stepOk step
  | .buddyAckArrival step _ => stepOk step
  | .listArrival rank _ => rankOk rank
  | .gathGiveup q => seqOk q
  | .spannedPartialSumArrival rank tensor step place _ => rankOk rank && wordOk tensor && stepOk step && wordOk place.coord
  | .spannedInputArrival rank tensor step _ _ _ => rankOk rank && wordOk tensor && stepOk step
  | .messageForward _ route bytes => rankOk route.dest && unitsOk bytes
  | .flitReceive _ bytes => flitOk bytes
  | .nakReceive _ _ _ => true
  | .flitResendLimit _ => true
  | .trainingStepTimeout _ _ => true
  | .trainingComplete _ group rank port _ _ _ => decide (group < 65536) && rankOk rank && decide (port < 16)
  | .vcAging _ => true
  | .arbiterAging arbiter x => decide (arbiter < 140) && x.arrivals.all fun w => decide (w.last < 140)
  | .d2dFlitResend _ flit => codewordsOk flit.bytes
  | .d2dResendExhausted _ _ _ => true
  | .patrolScrub _ e => envOk e
  | .targetedScrubEnd _ _ => true
  | .rowRemapEnd _ _ _ => true
  | .stackZeroingEnd _ => true
  | .storeZeroingEnd _ _ => true
  | .functionReady _ _ => true
  | .identityRegenerated _ => true
  | .firmwareVerifyEnd => true
  | .claimResponseWriteEnd _ => true
  | .leaseExpiry => true
  | .handoverExpiry => true
  | .ideSecureExit => true
  | .dawnPllLock _ => true
  | .pllIdleStop _ => true
  | .idleTimeout => true
  | .dozeEntry => true
  | .hubPllRelock => true
  | .governorSample _ => true
  | .thermalTrip _ => true
  | .pwrbrkAssert => true
  | .pwrbrkRelease => true
  | .auxPowerApplied _ => true
  | .auxPowerLost => true
  | .mainInputPresent => true
  | .mainInputAbsent => true
  | .perstAssert => true
  | .perstRelease _ _ => true
  | .hotReset => true
  | .moduleReset => true
  | .functionLevelReset => true
  | .d3hotEntry => true
  | .d0Return => true
  | .l2L3ReadyEntry => true
  | .refclkLoss => true
  | .ptmDialogue _ => true
  | .ptmTimeout => true
  | .watchdogExpiry => true
  | .postcardCaptureEnd _ => true
  | .logbookCaptureFull _ => true
  | .refclkReturn => true
  | .configurationSpaceWrite _ => true
  | .msixMaskWrite _ => true
  | .ideKmMessage _ => true
  | .dynamicAddressAssignment _ => true
  | .l1Entry _ => true

end Sys2Proof
end

