-- ==== Sys2Proof/Tests/Slice0.lean ====
section
/-!
SUPPORT. Tests: a term that each check of well-formedness refuses, a state and operands that meet the hypotheses of each
statement and of each of its clauses, and single steps on fixed values from the specification.
-/
set_option Elab.async false
set_option linter.unusedVariables false

namespace Sys2Proof.Tests

open Sys2Proof Sys2Proof.Machine

/-! ### Helpers -/

/-- `n` bytes that hold the values of `l` at their offsets, and are 0 elsewhere. -/
def bytesOf (n : Nat) (l : List (Nat × Nat)) : List Byte := natLe n (l.foldl (fun a p => a + p.2 * 256 ^ p.1) 0)

/-- The memory that holds the numbers of `l`: address, size in bytes, value, by rising address. -/
def cells (l : List (Nat × Nat × Nat)) : List Host.Cell :=
  l.flatMap fun p =>
    ((List.range p.2.1).map fun i => (p.1 + i, BitVec.ofNat 8 (p.2.2 / 256 ^ i))).filter fun c => c.2 != 0

/-- The invariant of the model, as one evaluation: the form of memory and of the stored registers, and the order of every
table. -/
def ok (s : State) : Bool :=
  (Memory.wf s.ms.mem && (Tab.wf regReset s.regs && s.regs.all regEntryOk)) &&
  [Tab.rising 0 s.ms.poison, Tab.rising 0 s.ms.zone, Tab.rising 0 s.ms.upset, Tab.rising 0 s.ms.remap, Tab.rising 0 s.ms.scrubPos,
    Tab.rising 0 s.ms.scrubTime, Tab.rising 0 s.ms.storeScrubPos, Tab.rising 0 s.ms.lastTarget, Tab.rising 0 s.hg.rings,
    Tab.rising 0 s.hg.quota, Tab.rising 0 s.hg.events, Tab.rising 0 s.hg.signallers, Tab.rising 0 s.hg.steps, Tab.rising 0 s.mv,
    Tab.rising 0 s.ld.ready, Tab.rising 0 s.ld.failed, Tab.rising 0 s.ld.domains, Tab.rising 0 s.ld.sensTj,
    Tab.rising 0 s.irq.count, Tab.rising 0 s.irq.sat, Tab.rising 0 s.irq.unmasked, Tab.rising 0 s.pcie.vecOpen,
    Tab.rising 0 s.pcie.vecAddr, Tab.rising 0 s.pcie.vecData, Tab.rising 0 s.pcie.pba, Tab.rising 0 s.pcie.other,
    Tab.rising 0 s.im.clusterRail, Tab.rising 0 s.im.bankRail, Tab.rising 0 s.im.clusterSlow, Tab.rising 0 s.im.cper,
    Tab.rising 0 s.im.logs, Tab.rising 0 s.mc.stage, Tab.rising 0 s.mc.credit, Tab.rising 0 s.mc.ramp, Tab.rising 0 s.af.arrays,
    Tab.rising 0 s.af.bankCal, Tab.rising 0 s.af.bankCalTime, Tab.rising 0 s.fab.ports, Tab.rising 0 s.fab.d2d,
    Tab.rising 0 s.fab.d2dOut, Tab.rising 0 s.fab.turns, Tab.rising 0 s.ctrs, s.ld.entered.all fun e => Tab.rising 0 e.2.2].all id

theorem inv_of_ok {s : State} (h : ok s = true) : s.Inv := by
  rw [ok, Bool.and_eq_true, Bool.and_eq_true, Bool.and_eq_true] at h
  simp only [List.all_cons, List.all_nil, id, Bool.and_eq_true] at h
  exact {
    mem := h.1.1
    regs := h.1.2
    tabs := by constructor <;> simp [MemSys.TabsOk, HostGate.TabsOk, Lantern.TabsOk, Irq.TabsOk, Pcie.TabsOk, Integrity.TabsOk,
      Compute.TabsOk, ArrayField.TabsOk, Fabric.TabsOk, Tab.Ordered, h.2] }

theorem operands_intro {s : State} {st ops outs : List (Nat × Nat)} {good : Bool}
    (h : s.heldBack st = false ∧ s.rdFails st = none ∧ good = true ∧ s.heldBack (ops ++ outs) = false ∧ s.rdFails ops = none ∧
      s.writeFail outs = none) : s.Operands st good ops outs := h

/-- The module in power state A0 with every function of the lists ready, firmware running and the host its owner, ten
seconds after power-up. -/
def up : State :=
  { State.reset with
    ld := { Lantern.initial with
      aux := true, main := true, perst := false, refclk := true, time := 10000000000, pwr := .a0, link := .l0
      ready := [(2, true), (30, true), (43, true)] }
    tb := { Trust.initial 0 with boot := 3, own := .owned .host, identity := true } }

/-- A started command on ring 0 with the given opcode and fields (offset, value) of its slot. -/
def command (op : Nat) (fields : List (Nat × Nat)) : Cmd :=
  { id := 0, ring := 0, index := 0, slot := bytesOf 64 ((0, op) :: fields), slot2 := [], seq := some 0, stage := .started
    conds := [], ind := 0, detail := 0, seed := 0, heldSince := none, startedAt := 0, checks := 0, deps := []
    recordReady := none, recorded := false, tainted := false, unitRetired := false, repaired := false, retractions := 0
    version := none, deltas := [], signalled := false, parent := none, children := [], hold := false, seeded := false }

end Sys2Proof.Tests

namespace Sys2Proof.Machine

/-! States that differ from a given one in one part. -/
def State.withCmds (s : State) (l : List Cmd) : State :=
  { s with hg := { s.hg with cmds := l, nextId := l.length, nextSeq := l.length } }
def State.withMem (s : State) (l : List (Nat × Nat × Nat)) : State := { s with ms := { s.ms with mem := Sys2Proof.Tests.cells l } }
def State.withRegs (s : State) (l : List (Nat × Nat)) : State := { s with regs := l.map fun p => (p.1, BitVec.ofNat 64 p.2) }
def State.withRing (s : State) (r : Ring) : State := { s with hg := { s.hg with rings := [(0, r)] } }

end Sys2Proof.Machine

namespace Sys2Proof.Tests

open Sys2Proof Sys2Proof.Machine

/-- A tensor of one block of FP4B elements at address 0 and scales at 64. -/
def fourTd : Td := tdOf (bytesOf 64 [(8, 64), (16, 1), (24, 32), (38, 5)])

/-! ### Rings -/

/-- Ring 0 with its addresses in host memory: slots, completion records and doorbell record. -/
def ringRegs (ctrl : Nat) : List (Nat × Nat) :=
  [(0x801000, 2 ^ 63), (0x801008, 2 ^ 63 + 0x10000), (0x801010, 2 ^ 63 + 0x20000), (0x801020, ctrl)]
/-- Ring 0 enabled with 16 slots, idle. -/
def ringUp : State := up.withRegs (ringRegs 0x80040000)

/-- A doorbell record: SQ_TAIL 1, CQ_HEAD 0, SEQ 1. -/
def bell : State := ringUp.withMem [(2 ^ 63 + 0x20000, 4, 1), (2 ^ 63 + 0x20008, 4, 1)]

def fresh : Cmd := { command 0x09 [] with stage := .accepted }
def held : Cmd := { command 0x18 [(42, 5)] with stage := .accepted, heldSince := some 0 }
def clear : Cmd := { command 0x09 [(1, 2)] with stage := .clear }

/-- Step 0 with as many accepted commands as one step takes. -/
def fullStep : State :=
  let s := up.withCmds [{ command 0x20 [] with stage := .stepHeld, seq := none }]
  { s with hg := { s.hg with steps := [(0, { StepInfo.initial with accepted := 262144 })] } }

def waiter (v : Nat) : Cmd := command 0x08 [(24, v), (32, 1)]

theorem witness_AnEmptyQueueLetsOneCyclePass_1 : ∃ (s : State),
    s.pending = [] :=
  ⟨up, by decide +kernel⟩

theorem witness_EveryStepKeepsTheInvariant_1 : ∃ (s t : State),
    s.Inv ∧
    step s = .next t :=
  ⟨up, up.tick, inv_of_ok (by decide +kernel), rfl⟩

theorem witness_ArrivalsAreCountedTo255_1 : ∃ (s : State) (n : Nat),
    s.irqCount n ≤ 255 :=
  ⟨up, 0, by decide +kernel⟩

theorem witness_ScaleBytesGiveTheirFactor_1 : ∃ (s : State) (t : Td) (b i : Nat) (nib : BitVec 4),
    t.lanes = false ∧
    nib.toNat = bitsOf (s.rdNat (t.addr + 16 * b + i / 2) 1) (4 * (i % 2)) 4 :=
  ⟨up, fourTd, 0, 0, 0, by decide +kernel⟩

theorem witness_RepresentableValuesConvertToThemselves : ∃ p ∈ [fpFP32, fpBF16, fpFP16, fpE4M3, fpE5M2],
    ∃ (rnd : Rnd) (b m : Nat) (neg : Bool) (e : Int),
    (∀ r, rnd = .stoch r → r < 65536) ∧ b < 2 ^ p.width ∧ p.decode b = .fin neg m e :=
  ⟨fpBF16, by simp, .stoch 65535, 0xBFC0, 192, true, -7, by intro r h; cases h; decide, by decide, by decide +kernel⟩

theorem witness_RingControlActs_1 : ∃ (s : State) (m : Master) (n : Fin 64) (v : W32),
    s.Inv ∧
    (m = .host ∨ s.owns m = true) ∧
    s.regLands m = true ∧
    bitAt v.toNat 31 = true ∧
    s.ringEnabled n.val = false ∧
    s.inFlight n.val = 0 ∧
    (s.ring n.val).draining = false ∧
    s.ringPlaced n.val (bitsOf v.toNat 16 5) = true :=
  ⟨(up.withRegs ((ringRegs 0x40000).take 3)), .host, 0, 0xA0040000, inv_of_ok (by decide +kernel), by decide +kernel⟩

theorem witness_RingControlActs_2 : ∃ (s : State) (m : Master) (n : Fin 64) (v : W32),
    s.Inv ∧
    (m = .host ∨ s.owns m = true) ∧
    s.regLands m = true ∧
    bitAt v.toNat 31 = false :=
  ⟨up, .host, 0, 0, inv_of_ok (by decide +kernel), by decide +kernel⟩

theorem witness_RingControlActs_3 : ∃ (s : State) (m : Master) (n : Fin 64) (v : W32),
    s.Inv ∧
    (m = .host ∨ s.owns m = true) ∧
    s.regLands m = true ∧
    bitAt v.toNat 30 = true ∧
    bitAt v.toNat 31 = true ∧
    s.ringEnabled n.val = true ∧
    (s.ring n.val).halted = true :=
  ⟨(ringUp.withRing { Ring.initial with halted := true }), .host, 0, 0xC0040000, inv_of_ok (by decide +kernel), by
    decide +kernel⟩

theorem witness_PollTakesTheDoorbellRecord_1 : ∃ (s : State) (n : Fin 64) (e : Env) (u : State),
    u = (s.applyEnv e).linkUse ∧
    s.Inv ∧
    u.ringEnabled n.val = true ∧
    (s.applyEnv e).hostAwake = true ∧
    (u.ring n.val).nextPoll ≤ u.now ∧
    u.rdFail (u.reg (rDbAddr n.val)) 16 = none ∧
    (u.ring n.val).seqTaken ≠ some (u.rdNat (u.reg (rDbAddr n.val) + 8) 4) ∧
    u.recordBad n.val (u.rdNat (u.reg (rDbAddr n.val)) 4) (u.rdNat (u.reg (rDbAddr n.val) + 4) 4) = false :=
  ⟨bell, 0, { stores := [], hostBad := [], upsets := [], lanes := [] },
    (bell.applyEnv { stores := [], hostBad := [], upsets := [], lanes := [] }).linkUse, rfl, inv_of_ok (by decide +kernel),
    by decide +kernel⟩

theorem witness_PollTakesTheDoorbellRecord_2 : ∃ (s : State) (off : Fin 4096) (v : W32),
    s.Inv ∧
    (s.ld.pwr = .a0 ∨ s.ld.pwr = .a1) :=
  ⟨up, 0, 0, inv_of_ok (by decide +kernel), by decide +kernel⟩

theorem witness_FetchAndAcceptanceAdvance_1 : ∃ (s : State) (n : Fin 64) (nw : Bool),
    s.Inv ∧
    s.fetchTurn = some (n.val, nw) ∧
    s.hostAwake = true ∧
    s.rdFail (s.reg (rRingBase n.val) + 64 * ((s.ring n.val).fetched % s.ringSize n.val)) 64 = none ∧
    ((s.rd (s.reg (rRingBase n.val) + 64 * ((s.ring n.val).fetched % s.ringSize n.val)) 64).getD 0 0).toNat < 0x60 :=
  ⟨(ringUp.withRing { Ring.initial with sqTail := 1 }), 0, false, inv_of_ok (by decide +kernel), by decide +kernel⟩

theorem witness_FetchAndAcceptanceAdvance_2 : ∃ (s : State) (n : Fin 64) (c : Cmd) (k : Nat),
    (s.ringCmds n.val).find? (fun c => c.stage == .stepHeld) = some c ∧
    c.stepOf = some k ∧
    s.stepCase k = .accept ∧
    (s.stepInfo k).accepted < 262144 :=
  ⟨(up.withCmds [{ command 0x20 [] with stage := .stepHeld, seq := none }]), 0,
    { command 0x20 [] with stage := .stepHeld, seq := none }, 0, by decide +kernel⟩

theorem witness_FetchAndAcceptanceAdvance_3 : ∃ (s : State) (n : Fin 64) (c : Cmd) (k : Nat),
    (s.ringCmds n.val).find? (fun c => c.stage == .stepHeld) = some c ∧
    c.stepOf = some k ∧
    s.stepCase k = .accept ∧
    262144 ≤ (s.stepInfo k).accepted :=
  ⟨fullStep, 0, { command 0x20 [] with stage := .stepHeld, seq := none }, 0, by decide +kernel⟩

theorem witness_CommandsStartWhenReady_1 : ∃ (s : State) (q : Nat) (c : Cmd),
    s.cmd q = some c ∧
    c.stage = .accepted ∧
    c.tainted = false ∧
    s.startBlocked c = false ∧
    s.failedNeed c = none ∧
    (s.needsReady c).any s.failedKey = false ∧
    (s.needsReady c).all s.keyMet = true :=
  ⟨(up.withCmds [fresh]), 0, fresh, by decide +kernel⟩

theorem witness_CommandsStartWhenReady_2 : ∃ (s : State) (q : Nat) (c : Cmd) (h : Nat),
    s.cmd q = some c ∧
    c.stage = .accepted ∧
    c.heldSince = some h ∧
    h + s.holdMs * 1000000 < s.now ∧
    (s.needsReady c).all s.keyMet = false :=
  ⟨(up.withCmds [held]), 0, held, 0, by decide +kernel⟩

theorem witness_RecordsReachTheCompletionRing_1 : ∃ (s : State) (n : Fin 64) (c : Cmd) (a : Nat),
    s.Inv ∧
    s.nextRecord n.val = some c ∧
    c.ended = true ∧
    s.hostAwake = true ∧
    (s.ring n.val).rewrite = false ∧
    s.recordRoom n.val = true ∧
    c.ext = false ∧
    a = s.reg (rCqBase n.val) + 16 * ((s.ring n.val).completed % s.ringSize n.val) ∧
    isHost a = true ∧
    s.rdFail a 16 = none :=
  ⟨(ringUp.withCmds [{ fresh with stage := .clear }]), 0, { fresh with stage := .clear }, 2 ^ 63 + 0x10000, inv_of_ok (by
    decide +kernel), by decide +kernel⟩

theorem witness_RecordsReachTheCompletionRing_2 : ∃ (s : State) (n : Fin 64) (c : Cmd) (h : Nat),
    s.Inv ∧
    s.nextRecord n.val = some c ∧
    c.recordReady = some h ∧
    h + s.graceMs * 1000000 < s.now ∧
    (s.ring n.val).overdue = false :=
  ⟨(ringUp.withCmds [{ fresh with stage := .clear, recordReady := some 0 }]), 0,
    { fresh with stage := .clear, recordReady := some 0 }, 0, inv_of_ok (by decide +kernel), by decide +kernel⟩

theorem witness_CommandsBecomeClear_1 : ∃ (s : State) (q : Nat) (c : Cmd),
    s.cmd q = some c ∧
    c.stage = .delivered ∧
    c.checks = 0 ∧
    c.tainted = false ∧
    (s.dependsOn c).all (fun d => d.stage.isClear || ((c.isFenc || c.critical) && d.stage == .failed)) = true ∧
    c.opcode ∉ [0x10, 0x11, 0x2A, 0x30] ∧
    c.parent = none ∧
    c.seq = some q ∧
    (∀ f ∈ s.mc.folds, f.seq ≠ q) ∧
    s.hg.replay = none :=
  ⟨(up.withCmds [{ fresh with stage := .delivered }]), 0, { fresh with stage := .delivered }, by decide +kernel⟩

theorem witness_CommandsBecomeClear_2 : ∃ (s : State) (q : Nat) (c b : Cmd),
    s.cmd q = some c ∧
    c.stage = .delivered ∧
    c.checks = 0 ∧
    c.tainted = false ∧
    c.isFenc = false ∧
    c.critical = false ∧
    b ∈ s.dependsOn c ∧
    b.stage = .failed :=
  ⟨(up.withCmds [{ fresh with stage := .delivered, deps := [1] }, { fresh with id := 1, seq := some 1, stage := .failed }]),
    0, { fresh with stage := .delivered, deps := [1] }, { fresh with id := 1, seq := some 1, stage := .failed }, by
    decide +kernel⟩

theorem witness_WaitsEndAsTheirCounterSays_1 : ∃ (s : State) (q : Nat) (c : Cmd),
    s.runnable q 0x08 = some c ∧
    s.waitMet c = true :=
  ⟨(up.withCmds [waiter 0]), 0, waiter 0, by decide +kernel⟩

theorem witness_WaitsEndAsTheirCounterSays_2 : ∃ (s : State) (q : Nat) (c : Cmd),
    s.runnable q 0x08 = some c ∧
    s.waitMet c = false :=
  ⟨(up.withCmds [waiter 1]), 0, waiter 1, by decide +kernel⟩

theorem witness_WaitsEndAsTheirCounterSays_3 : ∃ (s : State) (q : Nat) (c : Cmd),
    s.waiting q = some c ∧
    s.waitMet c = true :=
  ⟨(up.withCmds [{ waiter 0 with stage := .running }]), 0, { waiter 0 with stage := .running }, by decide +kernel⟩

theorem witness_WaitsEndAsTheirCounterSays_4 : ∃ (s : State) (q : Nat) (c : Cmd),
    s.Inv ∧
    s.waiting q = some c ∧
    s.waitMet c = false ∧
    c.startedAt + s.waitNs c < s.now :=
  ⟨(up.withCmds [{ waiter 1 with stage := .running }]), 0, { waiter 1 with stage := .running }, inv_of_ok (by
    decide +kernel), by decide +kernel⟩

theorem witness_SignalsAndFencesAct_1 : ∃ (s : State) (q : Nat) (c : Cmd),
    s.Inv ∧
    s.runnable q 0x09 = some c ∧
    (s.ahead c).all (fun d => d.stage != .failed && (if bitAt (c.u8 18) 1 then d.stage.isClear else d.stage.isDone)) = true ∧
    s.hg.replay = none ∧
    c.signalled = false :=
  ⟨(up.withCmds [command 0x09 [(18, 1), (24, 7)]]), 0, command 0x09 [(18, 1), (24, 7)], inv_of_ok (by decide +kernel), by
    decide +kernel⟩

theorem witness_SignalsAndFencesAct_2 : ∃ (s : State) (q : Nat) (c : Cmd),
    s.fenc q 0 = some c :=
  ⟨(up.withCmds [command 0x0A [(16, 0)]]), 0, command 0x0A [(16, 0)], by decide +kernel⟩

theorem witness_SignalsAndFencesAct_3 : ∃ (s : State) (q : Nat) (c : Cmd),
    s.fenc q 1 = some c :=
  ⟨(up.withCmds [command 0x0A [(16, 1)]]), 0, command 0x0A [(16, 1)], by decide +kernel⟩

theorem witness_SignalsAndFencesAct_4 : ∃ (s : State) (q : Nat) (c : Cmd),
    (s.fenc q 2).or (s.fenc q 3) = some c :=
  ⟨(up.withCmds [command 0x0A [(16, 3)]]), 0, command 0x0A [(16, 3)], by decide +kernel⟩

theorem witness_SignalsAndFencesAct_5 : ∃ (s : State) (q : Nat) (c : Cmd),
    s.Inv ∧
    (s.fenc q 4).or (s.fenc q 5) = some c ∧
    s.stepRuns (c.u 20 4) = false ∧
    s.stepRuns (c.u 20 4 + 1) = false ∧
    (s.stepInfo (c.u 20 4)).unreplayable = false ∧
    (∀ p ∈ s.ms.upset, placeOf s.ms.interleave (32 * p.1) = .journal → decodePattern p.2 ≠ .bad) :=
  ⟨(up.withCmds [command 0x0A [(16, 4)]]), 0, command 0x0A [(16, 4)], inv_of_ok (by decide +kernel), by decide +kernel⟩

/-! ### Mover -/

/-- MOVE, FILL or CMPR of 16 bytes on channel 0. -/
def moverCmd (op : Nat) : Cmd := command op [(32, if op = 2 then 0xA5 else 0x1000), (40, 0x2000), (48, 16)]
def moverAt (op : Nat) : State := (up.withCmds [moverCmd op]).withMem [(0x1000, 1, 7)]
def transfer : Transfer := { src := 0x1000, dst := 0x2000, length := 16, swrap := 0, dwrap := 0, skip := false }
def item (issued : Bool) : MoverItem :=
  { kind := .move, seq := some 0, listAddr := none, transfers := [transfer], done := 0, issued := issued, before := []
    failAddr := none, failUncorr := false, queuedAt := 0, asker := none }
def moving (issued : Bool) : State :=
  { up.withCmds [{ moverCmd 1 with stage := .running }] with mv := [(0, { Channel.initial with current := some (item issued) })] }
def halted (queue : List MoverItem) : State :=
  { up.withCmds [{ moverCmd 1 with stage := .running }] with mv := [(0, { Channel.initial with halted := true, queue := queue })] }
def haltedNow (queue : List MoverItem) : State :=
  { halted queue with
    mv := [(0, { Channel.initial with halted := true, haltedAt := up.now, queue := queue })], ham := { up.ham with spillChannel := 1 } }

/-! ### Tensors -/

/-- The descriptor at `a` of a dense tensor at `addr`. -/
def desc (a addr rows cols fmt : Nat) : List (Nat × Nat × Nat) :=
  [(a, 8, addr), (a + 16, 6, rows), (a + 24, 4, cols), (a + 38, 1, fmt)]
/-- Descriptors at 0x1000, 0x1040, ... of 1 by 32 tensors of format `fmt` (0 is FP32) at 0x4000, 0x4100, ... -/
def tensors (n fmt : Nat) : List (Nat × Nat × Nat) :=
  (List.range n).flatMap fun i => desc (0x1000 + 64 * i) (0x4000 + 256 * i) 1 32 fmt
def rowCmd (op : Nat) : Cmd :=
  command op [(16, 0x1000), (24, if op = 0x20 then 0 else 0x1040), (40, if op = 0x22 then 0 else 0x1080), (48, if op = 0x20 then 8 else 0)]
def rowAt (op : Nat) : State := (up.withCmds [rowCmd op]).withMem (tensors 3 0)

/-- An attention block at 0x2000 over the first 4 (forward) or 8 tensors, with a row of statistics at 0x6000. -/
def attnBlock (n : Nat) : List (Nat × Nat × Nat) :=
  tensors n 1 ++ (List.range n).map (fun i => (0x2000 + 8 * i, 8, 0x1000 + 64 * i)) ++
    [(0x2040, 8, 0x6000), (0x2080, 1, 1), (0x2081, 1, 1)]
def attnCmd (bwd : Nat) : Cmd := command 0x19 [(16, 0x2000), (24, bwd)]
def attnAt (bwd : Nat) : State := (up.withCmds [attnCmd bwd]).withMem (attnBlock 8)

/-! ### Matrix Cores -/

/-- MMUL of a 1 by 32 tensor with a 32 by 32 one, without a gang. -/
def mmulCmd : Cmd := command 0x18 [(16, 0x1000), (24, 0x1040), (32, 0x1080), (40, 1)]
def mmulAt : State := (up.withCmds [mmulCmd]).withMem (desc 0x1000 0x4000 1 32 1 ++ desc 0x1040 0x5000 32 32 1 ++ desc 0x1080 0x6000 1 32 0)
def oneTile (st : TileStage) : Tile := { newTile 0 0 0 0 0 0 false false 0 [] with stage := st }
def oneWork : Work :=
  { seq := 0, out := mmulAt.tdAt 0x1080, range := { z := 0, margin := 1, span := 12, oth := 1 }, tiles := 1, side := 2, blocks := 1
    values := [], prior := [], die := 0, cluster := 0, homes := [], attn := none }
/-- An MMUL under way with one tile, with or without its gang. -/
def tileAt (st : TileStage) (gang : Bool) : State :=
  { up.withCmds [{ mmulCmd with stage := .running, checks := 1 }] with mc := { Compute.initial with
      tiles := [oneTile st], works := [oneWork], stage := [(0, 8)]
      gangs := if gang then [{ seq := 0, block := 0, die := 0, cluster := 0, row := 0, col := 0, side := 2 }] else [] } }
def running18 : Cmd := { mmulCmd with stage := .running, checks := 1 }

def attnEnd : AttnEnd := { outs := [], stats := [], replays := [], empties := [], clips := [] }
/-- A forward ATTN under way, of which one tile is left to run. -/
def attnTile : State :=
  { up.withCmds [{ attnCmd 0 with stage := .running, checks := 1 }] with mc := { (tileAt .waiting true).mc with
      works := [{ oneWork with attn := some attnEnd }] } }

/-! ### Scale records -/

def scalCmd (op : Nat) : Cmd :=
  command 0x39 ([(16, op), (32, 0x1000), (40, 0x1040)] ++
    if op = 1 then [(24, 1), (48, 0x2000)] else if op = 2 then [(19, 7), (20, 31), (21, 15), (48, 0x3000)]
    else if op = 3 then [(48, 0x3000)] else [])
def scalAt (op : Nat) : State := (up.withCmds [scalCmd op]).withMem (tensors 2 0 ++ [(0x2000, 8, 0x3000)])

theorem witness_MoveAndFillWriteTheirBytes_1 : ∃ (s : State) (q : Nat) (c : Cmd) (x : Transfer),
    s.Inv ∧
    s.runnable q 0x01 = some c ∧
    bitAt (c.u8 17) 0 = false ∧
    (s.chan (c.u8 16)).current = none ∧
    (s.chan (c.u8 16)).queue = [] ∧
    (s.chan (c.u8 16)).halted = false ∧
    x = transferOf (c.slot.drop 32) ∧
    s.transferOk .move x = true ∧
    s.heldBack (x.ranges .move) = false ∧
    s.transferFail .move x = none :=
  ⟨(moverAt 1), 0, moverCmd 1, transferOf ((moverCmd 1).slot.drop 32), inv_of_ok (by decide +kernel), by decide +kernel⟩

theorem witness_MoveAndFillWriteTheirBytes_2 : ∃ (s : State) (q : Nat) (c : Cmd) (x : Transfer),
    s.Inv ∧
    s.runnable q 0x02 = some c ∧
    bitAt (c.u8 17) 0 = false ∧
    (s.chan (c.u8 16)).current = none ∧
    (s.chan (c.u8 16)).queue = [] ∧
    (s.chan (c.u8 16)).halted = false ∧
    x = transferOf (c.slot.drop 32) ∧
    s.transferOk .fill x = true ∧
    s.heldBack (x.ranges .fill) = false ∧
    s.transferFail .fill x = none :=
  ⟨(moverAt 2), 0, moverCmd 2, transferOf ((moverCmd 2).slot.drop 32), inv_of_ok (by decide +kernel), by decide +kernel⟩

theorem witness_CompareReportsTheFirstDifference_1 : ∃ (s : State) (q : Nat) (c : Cmd) (x : Transfer),
    s.Inv ∧
    s.runnable q 0x03 = some c ∧
    bitAt (c.u8 17) 0 = false ∧
    (s.chan (c.u8 16)).current = none ∧
    (s.chan (c.u8 16)).queue = [] ∧
    (s.chan (c.u8 16)).halted = false ∧
    x = transferOf (c.slot.drop 32) ∧
    s.transferOk .cmpr x = true ∧
    s.heldBack (x.ranges .cmpr) = false ∧
    s.transferFail .cmpr x = none :=
  ⟨(moverAt 3), 0, moverCmd 3, transferOf ((moverCmd 3).slot.drop 32), inv_of_ok (by decide +kernel), by decide +kernel⟩

theorem witness_CompareReportsTheFirstDifference_2 : ∃ (s : State) (n : Fin 64) (it : MoverItem) (q : Nat) (c : Cmd),
    s.Inv ∧
    (s.chan n.val).current = some it ∧
    (s.chan n.val).queue = [] ∧
    it.issued = true ∧
    (it.kind = .move ∨ it.kind = .fill) ∧
    it.listAddr = none ∧
    it.transfers.length = it.done + 1 ∧
    it.failAddr = none ∧
    s.ld.d3hot = false ∧
    s.readBackFail it = false ∧
    it.seq = some q ∧
    s.cmd q = some c :=
  ⟨(moving true), 0, item true, 0, { moverCmd 1 with stage := .running }, inv_of_ok (by decide +kernel), by decide +kernel⟩

theorem witness_MoverFailuresHaltTheChannel_1 : ∃ (s : State) (n : Fin 64) (addr : W64) (dir : Fin 3) (cause : Fin 7)
  (issued : List (Nat × Nat)) (it : MoverItem) (x : Transfer) (q : Nat) (c : Cmd),
    s.Inv ∧
    (s.chan n.val).current = some it ∧
    it.transfers[it.done]? = some x ∧
    x.skip = false ∧
    (it.kind = .move ∨ it.kind = .fill ∨ it.kind = .cmpr) ∧
    (dir.val = 2 → it.issued = true) ∧
    (dir.val = 0 → it.issued = false) ∧
    it.failAddr = none ∧
    it.failUncorr = false ∧
    (cause.val ≠ 5 ∨ s.im.written = []) ∧
    it.seq = some q ∧
    s.cmd q = some c :=
  ⟨(moving false), 0, 0x2000, 1, 6, [], item false, transfer, 0, { moverCmd 1 with stage := .running }, inv_of_ok (by
    decide +kernel), by decide +kernel⟩

theorem witness_MoverFailuresHaltTheChannel_2 : ∃ (s : State) (m : Master) (n : Fin 64) (v : W32),
    s.Inv ∧
    s.owns m = true ∧
    s.regLands m = true ∧
    (s.chan n.val).halted = true ∧
    (s.chan n.val).haltedAt < s.now ∧
    (s.chan n.val).current = none ∧
    (s.chan n.val).queue = [] ∧
    (s.ham.spillChannel = n.val → (∀ d ∈ s.hg.cmds, d.opcode ≠ 0x28 ∨ d.stage ≠ .running) ∧ s.regionUsed * 16 ≤
      s.ham.spillHigh * (s.ham.size * 2 ^ 30)) ∧
    bitAt v.toNat 31 = true ∧
    bitAt v.toNat 30 = false :=
  ⟨(halted []), .host, 0, 0x80000000, inv_of_ok (by decide +kernel), by decide +kernel⟩

theorem witness_MoverFailuresHaltTheChannel_3 : ∃ (s : State) (m : Master) (n : Fin 64) (v : W32),
    s.Inv ∧
    s.owns m = true ∧
    s.regLands m = true ∧
    (s.chan n.val).halted = true ∧
    (s.chan n.val).haltedAt < s.now ∧
    (s.chan n.val).current = none ∧
    (∀ it ∈ (s.chan n.val).queue, (it.kind = .move ∨ it.kind = .fill ∨ it.kind = .cmpr) ∧ it.queuedAt < s.now) ∧
    (s.ham.spillChannel = n.val → (∀ d ∈ s.hg.cmds, d.opcode ≠ 0x28 ∨ d.stage ≠ .running) ∧ s.regionUsed * 16 ≤
      s.ham.spillHigh * (s.ham.size * 2 ^ 30)) ∧
    bitAt v.toNat 30 = true :=
  ⟨(halted [item false]), .host, 0, 0xC0000000, inv_of_ok (by decide +kernel), by decide +kernel⟩

theorem witness_MoverFailuresHaltTheChannel_4 : ∃ (s : State) (m : Master) (n : Fin 64) (v : W32),
    s.Inv ∧
    (s.chan n.val).halted = true ∧
    s.now ≤ (s.chan n.val).haltedAt ∧
    s.ham.spillChannel ≠ n.val :=
  ⟨(haltedNow []), .host, 0, 0xC0000000, inv_of_ok (by decide +kernel), by decide +kernel⟩

theorem witness_MoverFailuresHaltTheChannel_5 : ∃ (s : State) (q n : Nat) (it : MoverItem) (c : Cmd),
    s.Inv ∧
    s.queuedOn q = some n ∧
    (s.chan n).halted = true ∧
    (s.chan n).queue.find? (s.waitsFor q) = some it ∧
    max it.queuedAt (s.chan n).haltedAt + s.waitUs * 1000 < s.now ∧
    s.cmd q = some c :=
  ⟨(halted [item false]), 0, 0, item false, { moverCmd 1 with stage := .running }, inv_of_ok (by decide +kernel), by
    decide +kernel⟩

theorem witness_RowCommandsDeliverAndWriteTheirTensor_1 : ∃ (s : State) (q : Nat) (c : Cmd) (ins : List Nat) (o : Td),
    s.Inv ∧
    s.Operands ((ins ++ [c.u 40 8]).map fun a => (a, 64)) ((ins ++ [c.u 40 8]).all s.tdOk && (o.rows == (s.tdAt (c.u 16
      8)).rows && o.cols == (if oneColumn (c.u8 48) then 1 else (s.tdAt (c.u 16 8)).cols) && (!usesB (c.u8 48) || (s.tdAt
      (c.u 16 8)).repeats (s.tdAt (c.u 24 8))) && (!usesC (c.u8 48) || (s.tdAt (c.u 16 8)).repeats (s.tdAt (c.u 32 8)))) &&
      (s.openOut c.step o).isSome) (ins.flatMap (fun a => (s.tdAt a).ranges) ++ o.histRange) o.ranges ∧
    s.runnable q 0x20 = some c ∧
    o = s.tdAt (c.u 40 8) ∧
    ins = c.u 16 8 :: ((if usesB (c.u8 48) then [c.u 24 8] else []) ++ (if usesC (c.u8 48) then [c.u 32 8] else [])) :=
  ⟨(rowAt 0x20), 0, rowCmd 0x20, [0x1000], (rowAt 0x20).tdAt 0x1080, inv_of_ok (by decide +kernel), operands_intro (by
    decide +kernel), by decide +kernel⟩

theorem witness_RowCommandsDeliverAndWriteTheirTensor_2 : ∃ (s : State) (q : Nat) (c : Cmd) (ins : List Nat) (o : Td),
    s.Inv ∧
    s.Operands ((ins ++ [c.u 40 8]).map fun a => (a, 64)) ((ins ++ [c.u 40 8]).all s.tdOk && (o.sameShape (s.tdAt (c.u 16
      8)) && (s.tdAt (c.u 16 8)).repeats (s.tdAt (c.u 24 8)) && (c.u 32 8 == 0 || (s.tdAt (c.u 16 8)).repeats (s.tdAt (c.u
      32 8)))) && (s.openOut c.step o).isSome) (ins.flatMap (fun a => (s.tdAt a).ranges) ++ o.histRange) o.ranges ∧
    s.runnable q 0x21 = some c ∧
    o = s.tdAt (c.u 40 8) ∧
    ins = [c.u 16 8, c.u 24 8] ++ (if c.u 32 8 ≠ 0 then [c.u 32 8] else []) :=
  ⟨(rowAt 0x21), 0, rowCmd 0x21, [0x1000, 0x1040], (rowAt 0x21).tdAt 0x1080, inv_of_ok (by decide +kernel), operands_intro
    (by decide +kernel), by decide +kernel⟩

theorem witness_RowCommandsDeliverAndWriteTheirTensor_3 : ∃ (s : State) (q : Nat) (c : Cmd) (o : Td),
    s.Inv ∧
    s.Operands [(c.u 16 8, 64), (c.u 24 8, 64)] (s.tdOk (c.u 16 8) && s.tdOk (c.u 24 8) && o.sameShape (s.tdAt (c.u 16 8))
      && (s.openOut c.step o).isSome) ((s.tdAt (c.u 16 8)).ranges ++ o.histRange) o.ranges ∧
    s.runnable q 0x22 = some c ∧
    o = s.tdAt (c.u 24 8) :=
  ⟨(rowAt 0x22), 0, rowCmd 0x22, (rowAt 0x22).tdAt 0x1040, inv_of_ok (by decide +kernel), operands_intro (by
    decide +kernel), by decide +kernel⟩

theorem witness_AttentionDeliversAndWritesItsTensors_1 : ∃ (s : State) (q : Nat) (c : Cmd) (a : Nat) (x : Attn),
    s.Inv ∧
    x = s.attn a ∧
    s.Operands [(a, 192)] (s.attnOk a false) [] [] ∧
    s.Operands ((s.attnTds a false).map fun t => (t, 64)) ((s.attnTds a false).all s.tdOk && s.positionsOk x.qpos x.qbase
      x.q.rows && s.positionsOk x.kpos x.kbase x.k.rows && (s.openOut c.step x.y).isSome) (x.q.ranges ++ x.k.ranges ++
      x.v.ranges ++ x.y.histRange ++ (if x.qpos = 0 then [] else [(x.qpos, 8 * x.q.rows)]) ++ (if x.kpos = 0 then [] else
      [(x.kpos, 8 * x.k.rows)])) (x.y.ranges ++ (if x.stats != 0 then [(x.stats, 8 * x.q.rows)] else [])) ∧
    s.runnable q 0x19 = some c ∧
    bitAt (c.u8 24) 0 = false ∧
    a = c.u 16 8 :=
  ⟨(attnAt 0), 0, attnCmd 0, 0x2000, (attnAt 0).attn 0x2000, inv_of_ok (by decide +kernel), rfl, operands_intro (by
    decide +kernel), operands_intro (by decide +kernel), by decide +kernel⟩

theorem witness_AttentionDeliversAndWritesItsTensors_2 : ∃ (s : State) (q : Nat) (c : Cmd) (a : Nat) (x : Attn),
    s.Inv ∧
    x = s.attn a ∧
    s.Operands [(a, 192)] (s.attnOk a true) [] [] ∧
    s.Operands ((s.attnTds a true).map fun t => (t, 64)) ((s.attnTds a true).all s.tdOk && s.positionsOk x.qpos x.qbase
      x.q.rows && s.positionsOk x.kpos x.kbase x.k.rows && [x.dq, x.dk, x.dv].all fun t => (s.openOut c.step t).isSome)
      ([x.q, x.k, x.v, x.y, x.dy].flatMap Td.ranges ++ [x.dq, x.dk, x.dv].flatMap Td.histRange ++ (if x.qpos = 0 then []
      else [(x.qpos, 8 * x.q.rows)]) ++ (if x.kpos = 0 then [] else [(x.kpos, 8 * x.k.rows)]) ++ [(x.stats, 8 * x.q.rows)])
      ([x.dq, x.dk, x.dv].flatMap Td.ranges) ∧
    s.runnable q 0x19 = some c ∧
    bitAt (c.u8 24) 0 = true ∧
    a = c.u 16 8 :=
  ⟨(attnAt 1), 0, attnCmd 1, 0x2000, (attnAt 1).attn 0x2000, inv_of_ok (by decide +kernel), rfl, operands_intro (by
    decide +kernel), operands_intro (by decide +kernel), by decide +kernel⟩

theorem witness_TilesPassFromGangToDelivery_1 : ∃ (s u : State) (q : Nat) (c : Cmd) (x : Mmul) (ops : List (Nat × Nat)),
    s.Inv ∧
    x = s.mmul c ∧
    s.Operands [(c.u 16 8, 64), (c.u 24 8, 64), (c.u 32 8, 64)] ([c.u 16 8, c.u 24 8, c.u 32 8].all s.tdOk && x.shapeOk &&
      (s.openOut c.step x.c).isSome) ops x.c.ranges ∧
    u = s.readOperands q ([(c.u 16 8, 64), (c.u 24 8, 64), (c.u 32 8, 64)] ++ ops) ∧
    s.runnable q 0x18 = some c ∧
    ops = x.a.ranges ++ x.b.ranges ++ (if x.acc then x.c.ranges else []) ++ x.a.histRange ++ x.b.histRange ++ x.c.histRange
      :=
  ⟨mmulAt, (mmulAt.readOperands 0 ([(0x1000, 64), (0x1040, 64), (0x1080, 64)] ++ [(0x4000, 64), (0x5000, 2048)])), 0,
    mmulCmd, mmulAt.mmul mmulCmd, [(0x4000, 64), (0x5000, 2048)], inv_of_ok (by decide +kernel), rfl, operands_intro (by
    decide +kernel), rfl, by decide +kernel⟩

theorem witness_TilesPassFromGangToDelivery_2 : ∃ (s : State) (q b : Nat) (x : ClusterId) (row col : Fin 8) (w : Work),
    s.Inv ∧
    s.wantsGang q = some (w, b) ∧
    s.mayUse w x.die.val x.cluster.val = true ∧
    s.squareFree x.die.val x.cluster.val row.val col.val w.side = true ∧
    (∀ v ∈ s.mc.works, v.seq < q → s.mayUse v x.die.val x.cluster.val = true → s.wantsGang v.seq = none) :=
  ⟨(tileAt .waiting false), 0, 0, { die := 0, cluster := 0 }, 6, 6, oneWork, inv_of_ok (by decide +kernel), by
    decide +kernel⟩

theorem witness_TilesPassFromGangToDelivery_3 : ∃ (s : State) (q n issued : Nat) (x y : Tile),
    s.tileRunning q n = some x ∧
    x.stage = .waiting ∧
    y = { x with testing := x.runPass, running := x.elems.map fun e => e.parts.map fun _ => CellAcc.empty } :=
  ⟨(tileAt .waiting true), 0, 0, 16, oneTile .waiting,
    { oneTile .waiting with testing := (oneTile .waiting).runPass, running := [] }, by decide +kernel⟩

theorem witness_TilesPassFromGangToDelivery_4 : ∃ (s : State) (q n issued : Nat) (x : Tile),
    s.tileRunning q n = some x ∧
    x.stage = .slow :=
  ⟨(tileAt .slow true), 0, 0, 16, oneTile .slow, by decide +kernel⟩

theorem witness_TilesPassFromGangToDelivery_5 : ∃ (s : State) (x : ClusterId) (cycles filler k g p len : Nat),
    s.Inv ∧
    k = clusterKey x.die.val x.cluster.val ∧
    g = (if s.clusterBusy x.die.val x.cluster.val then s.ceiling else 0) ∧
    p = s.stageOf k ∧
    len = (match s.rampOf k with
      | some r => if r.1 = decide (p < g) then r.2 else if p < g then s.rampUp else s.rampDown
      | none => if p < g then s.rampUp else s.rampDown) :=
  ⟨(tileAt .waiting true), { die := 0, cluster := 0 }, 5, 0, 0, (tileAt .waiting true).ceiling, 8,
    (tileAt .waiting true).rampUp, inv_of_ok (by decide +kernel), by decide +kernel⟩

theorem witness_AttentionDeliversAndWritesItsTensors_3 : ∃ (s : State) (q n issued : Nat) (x : Tile) (w : Work) (e :
  AttnEnd) (c : Cmd),
    s.Inv ∧
    s.tileRunning q n = some x ∧
    x.stage = .waiting ∧
    x.pass = .good ∧
    (∀ y ∈ s.mc.tiles, y.seq = q → y.index ≠ n → y.left = true) ∧
    s.mc.works.find? (fun w => w.seq == q) = some w ∧
    w.attn = some e ∧
    s.cmd q = some c :=
  ⟨attnTile, 0, 0, 16, oneTile .waiting, { oneWork with attn := some attnEnd }, attnEnd,
    { attnCmd 0 with stage := .running, checks := 1 }, inv_of_ok (by decide +kernel), by decide +kernel⟩

theorem witness_ScaleRecordsChangeAsTheirCommandsSay_1 : ∃ (s : State) (q : Nat) (c : Cmd) (o : Td),
    s.Inv ∧
    s.Operands [(c.u 32 8, 64), (c.u 40 8, 64)] (s.tdOk (c.u 32 8) && s.tdOk (c.u 40 8) && (s.tdAt (c.u 32 8)).sameShape o
      && (c.u 48 8 == 0 || !s.recBad (c.u 48 8)) && (c.u 56 8 == 0 || !s.rangeBad (c.u 56 8) 4) && (s.openOut c.step
      o).isSome) ((s.tdAt (c.u 32 8)).ranges ++ o.histRange ++ if c.u 48 8 = 0 then [] else [(c.u 48 8, 128)]) (o.ranges ++
      if c.u 56 8 = 0 then [] else [(c.u 56 8, 4)]) ∧
    s.scal q 0 = some c ∧
    o = s.tdAt (c.u 40 8) :=
  ⟨(scalAt 0), 0, scalCmd 0, (scalAt 0).tdAt 0x1040, inv_of_ok (by decide +kernel), operands_intro (by decide +kernel), by
    decide +kernel⟩

theorem witness_ScaleRecordsChangeAsTheirCommandsSay_2 : ∃ (s : State) (q : Nat) (c : Cmd) (a : Nat),
    s.Inv ∧
    s.Operands [(c.u 48 8, 8)] (!s.recBad a) [(a, 128)] [] ∧
    s.scal q 1 = some c ∧
    bitAt (c.u8 17) 0 = false ∧
    c.u 24 4 = 1 ∧
    s.rangeBad (c.u 48 8) 8 = false ∧
    a = s.rdNat (c.u 48 8) 8 :=
  ⟨(scalAt 1), 0, scalCmd 1, 0x3000, inv_of_ok (by decide +kernel), operands_intro (by decide +kernel), by decide +kernel⟩

theorem witness_ScaleRecordsChangeAsTheirCommandsSay_3 : ∃ (s : State) (q : Nat) (c : Cmd),
    s.Inv ∧
    s.scal q 2 = some c ∧
    c.u8 19 ≤ 7 ∧
    c.u8 20 ≤ 31 ∧
    c.u8 21 ≤ 15 ∧
    s.recNamed c = true ∧
    s.heldBack [(c.u 48 8, 128)] = false :=
  ⟨(scalAt 2), 0, scalCmd 2, inv_of_ok (by decide +kernel), by decide +kernel⟩

theorem witness_ScaleRecordsChangeAsTheirCommandsSay_4 : ∃ (s : State) (q : Nat) (c : Cmd),
    s.Inv ∧
    s.scal q 3 = some c ∧
    s.recNamed c = true ∧
    s.heldBack [(c.u 48 8, 128)] = false ∧
    s.rdFails [(c.u 48 8, 128)] = none :=
  ⟨(scalAt 3), 0, scalCmd 3, inv_of_ok (by decide +kernel), by decide +kernel⟩

/-! ### Array Field -/

/-- A tensor of one weight on array 0 of bank 0 of die 0, at version 0. -/
def small : Resident :=
  { id := 1, loading := none, loader := 99, v0 := 0, h := 0x10000, nu := 0x11000, limg := 0x100000, map := [(0, 0)], k := 1, n := 1
    omega := 0, rho := 4, rhoT := 4, summer := false, log2r := 0, fine := false, tdig := false, span := false, lag := 0
    remBits := 8, announced := [], sets := [] }
def smallArr : Arr := { Arr.initial with tensor := some 1, inService := true }
def mvOf (tr : Bool) (remote : List (Nat × Nat × Nat)) : Matvec :=
  { seq := 0, tensor := 1, transpose := tr, out := tdOf [], vecs := 1, home := 0, spread := false, exps := [], byScale := false, rest := 8
    compRest := 8, wide := false, elems := [], comp := [], remote := remote, unchecked := [], received := [], window := [] }
def readOf (st : ReadStage) : Read :=
  { seq := 0, index := 0, vec := 0, s := 0, g := 0, transpose := false, lo := 0, len := 1, part := 0, sigma := 0, inputs := [5]
    stage := st, array := 0, standIn := false, version := 0, codes := [none], sums := [], full := false, isDigital := false
    testing := false, dsum := [], shadow := false, waitSince := none, versionSince := none, startedAt := 0, railed := false
    meas := [], margin := 0, spares := [] }
def fieldOf (t : Resident) (a : Arr) : ArrayField := { ArrayField.initial with tensors := [t], arrays := [(0, a)], bankCal := [(0, 1)] }
/-- `up` with the tensor `t` on array `a`, whose bank is ready. -/
def fieldUp (t : Resident) (a : Arr) : State := { up with
  af := fieldOf t a
  ld := { up.ld with ready := [(2, true), (30, true), (43, true), (100, true)], domains := [(100, { running := true, idleSince := 0 })] } }
/-- A running AMVM with one read. -/
def reading (r : Read) : State :=
  { (fieldUp small smallArr).withCmds [{ command 0x10 [] with stage := .running, checks := 1 }] with
    af := { fieldOf small smallArr with reads := [r], matvecs := [mvOf false []] } }
def mvCmd (op : Nat) : Cmd := command op [(4, 1), (16, 0x1000), (24, 0x1040), (48, 1)]
def mvAt (op : Nat) : State :=
  ((fieldUp small smallArr).withCmds [mvCmd op]).withMem (desc 0x1000 0x4000 1 1 0 ++ desc 0x1040 0x4100 1 1 0)

/-- Without poison, symbol errors and zones every device address can be read. -/
theorem rdFail_clean {s : State} (hp : s.ms.poison = []) (hu : s.ms.upset = []) (hz : s.ms.zone = []) (hb : s.ms.hostBad = [])
    (a n : Nat) : s.rdFail a n = none := by
  have h : ∀ cw, s.cwBad cw = false := by
    intro cw
    have hd : (decodePattern 0 == .bad) = false := by decide +kernel
    simp [State.cwBad, State.poisoned, State.upset, State.zoneClash, State.zoneTag, hp, hu, hz, Tab.get, hd]
  have hf : (cwsOf a n).find? s.cwBad = none := by rw [List.find?_eq_none]; intro x _; simp [h x]
  unfold State.rdFail
  rw [hb, hf]
  split <;> rfl
theorem rdFails_clean {s : State} (hp : s.ms.poison = []) (hu : s.ms.upset = []) (hz : s.ms.zone = []) (hb : s.ms.hostBad = [])
    (l : List (Nat × Nat)) : s.rdFails l = none := by
  induction l with
  | nil => rfl
  | cons p l ih => obtain ⟨a, n⟩ := p; simp only [State.rdFails, rdFail_clean hp hu hz hb a n, ih]

/-- A read that has waited for version 5 of its weights since time 0. -/
def early : Read := { readOf .waiting with version := 5, waitSince := some 0 }

def spanned : Resident := { small with span := true, map := [(1, 0)] }
def spanning : State :=
  { (fieldUp spanned smallArr).withCmds [{ command 0x10 [(4, 1)] with stage := .running }] with
    af := { fieldOf spanned smallArr with matvecs := [mvOf false [(0, 0, 0)]] } }

/-- An AMVM of step 1 that has taken module 1's part of its sum, but not yet the word that its checks passed. -/
def trusting : Matvec := { mvOf false [] with unchecked := [(0, 0, 0)] }
def awaiting : State := { spanning with af := { spanning.af with matvecs := [trusting] } }

def loadCmd : Cmd := command 0x13 [(16, 0x1000)]
def loadAt : State :=
  (up.withCmds [loadCmd]).withMem [(0x1000, 4, 5), (0x1008, 8, 0x10000), (0x1010, 8, 0x11000), (0x1018, 8, 0x100000),
    (0x1020, 8, 0x12000), (0x1028, 4, 1), (0x102C, 4, 1)]
def levelCmd (op : Nat) : Cmd :=
  command op (if op = 0x12 then [(4, 1), (16, 1), (24, 0x2000), (32, 1)]
    else [(4, 1), (16, 5), (17, 3), (20, 1), (40, 0x2000), (48, 2 ^ 64 - 1)])
def levelTensor (op : Nat) : Resident := if op = 0x12 then { small with summer := true, log2r := 1 } else small
def levelAt (op : Nat) : State :=
  ((fieldUp (levelTensor op) smallArr).withCmds [levelCmd op]).withMem
    (if op = 0x12 then [(0x2000, 8, 3)] else [(0x2000, 8, 1), (0x2008, 4, 1), (0x200C, 4, 1), (0x2040, 8, 3)])

/-! ### Upkeep -/

def Targets.list : Targets → Option (List Nat)
  | .ok l => some l
  | .bad _ => none
  | .mem _ => none
  | .held => none
theorem targets_of {t : Targets} {l : List Nat} (h : Targets.list t = some l) : t = .ok l := by
  cases t with
  | ok m => cases h; rfl
  | bad _ => cases h
  | mem _ => cases h
  | held => cases h
/-- MAINT with operation `op` on target kind `kind`: a list of one COORD, bank 0 or array 0, at 0x2000. -/
def maintCmd (op kind : Nat) : Cmd := command 0x48 [(16, op), (17, kind), (24, 0x2000), (32, 1)]
def maintAt (op kind : Nat) : State := (fieldUp small smallArr).withCmds [maintCmd op kind]

/-- A running activity of bank 0 and array 0 that holds its claims, and the module with it alone. -/
def activity (kind : ActKind) (work : ActWork) : Activity :=
  { id := 0, kind := kind, work := work, bank := 0, array := 0, cls := 5, queuedAt := 0, seqs := [], asked := some 0, held := 4
    running := true, startedAt := 0 }
def upkeep (t : Resident) (a : Arr) (x : Activity) : State := { fieldUp t a with uk := { acts := [x], nextId := 1 } }
def changing : Resident := { small with sets := [{ step := 1, seq := 0, entries := [(0, 3)] }] }
def changeArr (rows : List (Nat × List (Nat × Int))) (started : Bool) : Arr :=
  { smallArr with transition := some { step := 1, rows := rows, started := started } }

/-- Ten days after power-up, with every period of Table 18.3 at its reset value and array 0 due. -/
def late : State :=
  { fieldUp small { smallArr with fwd := { GainStat.initial with nA := 8192, nB := 8192 } } with
    ld := { up.ld with time := 864000000000000 } }

theorem witness_WaitsEndAsTheirCounterSays_5 : ∃ (s : State) (q : Nat) (c : Cmd) (y : Resident) (r : Read) (w : Nat),
    s.cmd q = some c ∧
    s.readTensor q = some y ∧
    c.stage = .running ∧
    c.tainted = false ∧
    r ∈ s.af.reads ∧
    r.seq = q ∧
    r.stage = .waiting ∧
    s.pairVersion y r.s r.g < r.version ∧
    r.waitSince = some w ∧
    w + s.waitUs * 1000 < s.now :=
  ⟨(reading early), 0, { command 0x10 [] with stage := .running, checks := 1 }, small, early, 0, by decide +kernel⟩

theorem witness_MatvecCommandsSetUpTheirReads_1 : ∃ (s : State) (q op : Nat) (row : Instr) (c : Cmd) (r : Resident) (v :
  Nat) (x : Mv) (tds : List Nat),
    s.Inv ∧
    x = s.mv_ c r ∧
    s.Operands (tds.map (fun a => (a, 64)) ++ (if c.u 40 8 = 0 then [] else [(c.u 40 8, 32)])) (tds.all s.tdOk && (c.u 40 8
      == 0 || winGood (s.rd (c.u 40 8) 32)) && x.shapeOk && (s.openOut c.step x.out).isSome) (x.inn.ranges ++
      x.inn.histRange ++ x.out.histRange ++ (match x.comp with | none => [] | some p => p.1.ranges ++ p.2.ranges) ++ (if
      x.acc then x.out.ranges else []) ++ (if x.tr && r.tdig then [(r.h, 2 * r.k * r.n)] else [])) x.out.ranges ∧
    ((row = .amvm q ∧ op = 0x10) ∨ (row = .amvt q ∧ op = 0x11 ∧ (c.u 56 4 = 0xFFFFFFFF ∨ c.u 56 4 = v))) ∧
    s.runnable q op = some c ∧
    s.resident (c.u 48 4) = some r ∧
    v = c.version.getD (r.ver c.step) ∧
    r.v0 < c.step ∧
    tds = [c.u 16 8, c.u 24 8] ++ (if c.u 32 8 = 0 then [] else [c.u 32 8, c.u 32 8 + 64]) :=
  ⟨(mvAt 0x10), 0, 0x10, .amvm 0, mvCmd 0x10, small, 0, (mvAt 0x10).mv_ (mvCmd 0x10) small, [0x1000, 0x1040], inv_of_ok (by
    decide +kernel), rfl, operands_intro (by decide +kernel), by decide +kernel⟩

theorem witness_MatvecCommandsSetUpTheirReads_1_amvt : ∃ (s : State) (q op : Nat) (row : Instr) (c : Cmd) (r : Resident) (v
  : Nat) (x : Mv) (tds : List Nat),
    s.Inv ∧
    x = s.mv_ c r ∧
    s.Operands (tds.map (fun a => (a, 64)) ++ (if c.u 40 8 = 0 then [] else [(c.u 40 8, 32)])) (tds.all s.tdOk && (c.u 40 8
      == 0 || winGood (s.rd (c.u 40 8) 32)) && x.shapeOk && (s.openOut c.step x.out).isSome) (x.inn.ranges ++
      x.inn.histRange ++ x.out.histRange ++ (match x.comp with | none => [] | some p => p.1.ranges ++ p.2.ranges) ++ (if
      x.acc then x.out.ranges else []) ++ (if x.tr && r.tdig then [(r.h, 2 * r.k * r.n)] else [])) x.out.ranges ∧
    ((row = .amvm q ∧ op = 0x10) ∨ (row = .amvt q ∧ op = 0x11 ∧ (c.u 56 4 = 0xFFFFFFFF ∨ c.u 56 4 = v))) ∧
    s.runnable q op = some c ∧
    s.resident (c.u 48 4) = some r ∧
    v = c.version.getD (r.ver c.step) ∧
    r.v0 < c.step ∧
    tds = [c.u 16 8, c.u 24 8] ++ (if c.u 32 8 = 0 then [] else [c.u 32 8, c.u 32 8 + 64]) :=
  ⟨(mvAt 0x11), 0, 0x11, .amvt 0, mvCmd 0x11, small, 0, (mvAt 0x11).mv_ (mvCmd 0x11) small, [0x1000, 0x1040], inv_of_ok (by
    decide +kernel), rfl, operands_intro (by decide +kernel), by decide +kernel⟩

theorem witness_ArrayReadsGoFromStartToDelivery_1 : ∃ (s : State) (q i k : Nat) (r : Read) (y : Resident),
    s.read q i = some r ∧
    s.readTensor q = some y ∧
    r.stage = .waiting ∧
    s.readLive q = true ∧
    s.readBehind r = false ∧
    r.version = s.pairVersion y r.s r.g ∧
    s.leaving y r.s r.g = false ∧
    s.server y r.s r.g = .array k ∧
    s.bankReady k = true ∧
    s.convCal (k / 264) ≠ 0 ∧
    s.closed k = false ∧
    s.readingDie (keyDie k) < s.readShare ∧
    s.readingBank (k / 264) < 64 ∧
    (∀ x ∈ s.af.reads, x.stage = .reading → x.array ≠ k) :=
  ⟨(reading (readOf .waiting)), 0, 0, 0, readOf .waiting, small, by decide +kernel⟩

theorem witness_ArrayReadsGoFromStartToDelivery_2 : ∃ (s : State) (q i : Nat) (meas : List Int) (r : Read) (y : Resident)
  (ends : List LineEnd),
    s.read q i = some r ∧
    s.readTensor q = some y ∧
    r.stage = .reading ∧
    r.startedAt + (if y.fine then 128 else 80) ≤ s.now ∧
    ends = (List.range (r.lines y)).map (lineEnd y (s.arr r.array) r meas) :=
  ⟨(reading (readOf .reading)), 0, 0, [], readOf .reading, small, [lineEnd small smallArr (readOf .reading) [] 0], by
    decide +kernel⟩

theorem witness_ArrayReadsGoFromStartToDelivery_3 : ∃ (s : State) (q i : Nat) (r : Read) (y : Resident) (ks : List (Option
  Int)),
    s.imageFail y r = none ∧
    (∀ l, l < r.lines y → ks.getD l none = none → y.saturates (y.code r.transpose (s.idealP y r r.lo r.len l)) = false) ∧
    s.read q i = some r ∧
    s.readTensor q = some y ∧
    r.stage = .resolving ∧
    s.heldBack (y.imageNeeds r) = false ∧
    ks = (if r.full || r.standIn then [] else r.codes) ∧
    (r.railed = true → r.full = true) :=
  ⟨(reading (readOf .resolving)), 0, 0, readOf .resolving, small, [none], rdFails_clean rfl rfl rfl rfl _,
    (by decide +kernel : ∀ l, l < 1 → _), by decide +kernel⟩

theorem witness_ArrayReadsGoFromStartToDelivery_4 : ∃ (s : State) (q i : Nat) (r : Read) (y : Resident),
    s.imageFail y r = none ∧
    s.read q i = some r ∧
    s.readTensor q = some y ∧
    r.stage = .digital ∧
    s.heldBack (y.imageNeeds r) = false :=
  ⟨(reading (readOf .digital)), 0, 0, readOf .digital, small, rdFails_clean rfl rfl rfl rfl _, by decide +kernel⟩

theorem witness_SpannedMessagesReachTheirReads_1 : ∃ (s : State) (rank id step v sg g coord : Nat) (e : Int) (ms : List Int)
  (r : Resident) (w : Matvec) (pre post : List Matvec),
    s.af.matvecs = pre ++ w :: post ∧
    s.resident id = some r ∧
    (∀ x ∈ post, x.tensor ≠ id) ∧
    w.tensor = id ∧
    (s.cmd w.seq).any (fun c => c.step == step) = true ∧
    (v, sg, g) ∈ w.remote ∧
    (r.placeOf sg g).1 = rank ∧
    (r.placeOf sg g).2 / 264 = keyOfCoord coord / 264 :=
  ⟨spanning, 1, 1, 1, 0, 0, 0, 0, 0, [7], spanned, mvOf false [(0, 0, 0)], [], [], rfl, by decide +kernel⟩

theorem witness_SpannedMessagesReachTheirReads_2 : ∃ (s : State) (rank id step v sg g coord : Nat) (w : Matvec) (c : Cmd),
    s.spanCmd rank id step ⟨v, sg, g, coord⟩ Matvec.unchecked = some w ∧
    s.cmd w.seq = some c :=
  ⟨awaiting, 1, 1, 1, 0, 0, 0, 0, trusting, { command 0x10 [(4, 1)] with stage := .running }, by decide +kernel⟩

theorem witness_SpannedMessagesReachTheirReads_3 : ∃ (s : State) (rank id step v sg g coord : Nat) (w : Matvec) (c : Cmd),
    s.spanCmd rank id step ⟨v, sg, g, coord⟩ (fun w => w.unchecked ++ w.remote) = some w ∧
    s.cmd w.seq = some c ∧
    c.stage ≠ .failed ∧
    c.stage ≠ .refused ∧
    c.parent = none ∧
    s.xe.sends = [] :=
  ⟨awaiting, 1, 1, 1, 0, 0, 0, 0, trusting, { command 0x10 [(4, 1)] with stage := .running }, by decide +kernel⟩

theorem witness_SpannedMessagesReachTheirReads_4 : ∃ (s : State) (rank id step v i : Nat) (tr : Bool) (vals : List Val) (r :
  Resident),
    s.resident id = some r ∧
    r.span = true ∧
    vals.all Val.isZero = false :=
  ⟨spanning, 1, 1, 1, 0, 0, false, [.fin false 1 0], spanned, by decide +kernel⟩

theorem witness_LoadAndLevelListsTakeEffect_1 : ∃ (s : State) (q : Nat) (c : Cmd) (raw : List Byte) (b : LoadBlock) (n :
  Nat),
    s.Inv ∧
    s.runnable q 0x13 = some c ∧
    (∀ y ∈ s.af.tensors, y.loader ≠ q) ∧
    s.heldBack [(c.u 16 8, 128)] = false ∧
    s.rdFail (c.u 16 8) 128 = none ∧
    raw = s.rd (c.u 16 8) 128 ∧
    b = loadBlock raw q ∧
    n = b.t.segments * b.t.groups ∧
    loadGood raw = true ∧
    s.resident b.t.id = none ∧
    b.map % 8 = 0 ∧
    s.rangeBad b.map (8 * n) = false ∧
    s.rangeBad b.t.limg (0x80000 * n) = false ∧
    isHost b.t.limg = false ∧
    s.rangeBad b.t.h (2 * b.t.k * b.t.n) = false ∧
    s.rangeBad b.t.nu (b.t.remBits / 8 * b.t.k * b.t.n) = false ∧
    s.heldBack [(b.t.limg, 0x80000 * n), (b.map, 8 * n), (b.t.h, 2 * b.t.k * b.t.n), (b.t.nu, b.t.remBits / 8 * b.t.k *
      b.t.n)] = false ∧
    s.rdFails [(b.map, 8 * n), (b.t.h, 2 * b.t.k * b.t.n), (b.t.nu, b.t.remBits / 8 * b.t.k * b.t.n)] = none ∧
    s.mapGood b (s.loadMap b) = true :=
  ⟨loadAt, 0, loadCmd, loadAt.rd 0x1000 128, loadBlock (loadAt.rd 0x1000 128) 0, 1, inv_of_ok (by decide +kernel), by
    decide +kernel⟩

theorem witness_LoadAndLevelListsTakeEffect_2 : ∃ (s : State) (q op id a k a' k' : Nat) (row : Instr) (c : Cmd) (y :
  Resident) (l : List (Option (Nat × Int))),
    s.Inv ∧
    ((row = .prog q ∧ op = 0x12 ∧ id = c.u 16 4 ∧ a = c.u 24 8 ∧ k = c.u 32 8) ∨ (row = .maintLevels q ∧ op = 0x48 ∧ c.u8 16
      = 5 ∧ c.u8 17 = 3 ∧ id = c.u 20 4 ∧ a = c.u 40 8 ∧ k = c.u 48 8)) ∧
    s.runnable q op = some c ∧
    s.resident id = some y ∧
    y.summer = (op == 0x12) ∧
    (∀ p ∈ s.localPairs y, s.pairVersion y p.1 p.2 < c.step) ∧
    (∀ x ∈ y.sets, x.step = c.step → x.seq = q) ∧
    (∀ r ∈ s.af.reads, r.seq ≠ q) ∧
    (s.stepInfo c.step).mark ≠ .skipped ∧
    ((k ≠ 2 ^ 64 - 1 ∧ a' = a ∧ k' = k) ∨ (k = 2 ^ 64 - 1 ∧ a % 64 = 0 ∧ s.rangeBad a 64 = false ∧ s.heldBack [(a, 64), (a +
      64, 8 * s.rdNat a 8)] = false ∧ s.rdFail a 64 = none ∧ s.rdNat (a + 8) 4 = c.step ∧ s.rdNat (a + 12) 4 = id ∧ a' = a +
      64 ∧ k' = s.rdNat a 8)) ∧
    s.rangeBad a' (8 * k') = false ∧
    s.heldBack [(a', 8 * k')] = false ∧
    s.rdFail a' (8 * k') = none ∧
    l = (List.range k').map (fun i => listEntry y (s.rd (a' + 8 * i) 8)) ∧
    l.all Option.isSome = true :=
  ⟨(levelAt 0x12), 0, 0x12, 1, 0x2000, 1, 0x2000, 1, .prog 0, levelCmd 0x12, levelTensor 0x12, [some (0, 3)], inv_of_ok (by
    decide +kernel), by decide +kernel⟩

theorem witness_LoadAndLevelListsTakeEffect_2_levels : ∃ (s : State) (q op id a k a' k' : Nat) (row : Instr) (c : Cmd) (y :
  Resident) (l : List (Option (Nat × Int))),
    s.Inv ∧
    ((row = .prog q ∧ op = 0x12 ∧ id = c.u 16 4 ∧ a = c.u 24 8 ∧ k = c.u 32 8) ∨ (row = .maintLevels q ∧ op = 0x48 ∧ c.u8 16
      = 5 ∧ c.u8 17 = 3 ∧ id = c.u 20 4 ∧ a = c.u 40 8 ∧ k = c.u 48 8)) ∧
    s.runnable q op = some c ∧
    s.resident id = some y ∧
    y.summer = (op == 0x12) ∧
    (∀ p ∈ s.localPairs y, s.pairVersion y p.1 p.2 < c.step) ∧
    (∀ x ∈ y.sets, x.step = c.step → x.seq = q) ∧
    (∀ r ∈ s.af.reads, r.seq ≠ q) ∧
    (s.stepInfo c.step).mark ≠ .skipped ∧
    ((k ≠ 2 ^ 64 - 1 ∧ a' = a ∧ k' = k) ∨ (k = 2 ^ 64 - 1 ∧ a % 64 = 0 ∧ s.rangeBad a 64 = false ∧ s.heldBack [(a, 64), (a +
      64, 8 * s.rdNat a 8)] = false ∧ s.rdFail a 64 = none ∧ s.rdNat (a + 8) 4 = c.step ∧ s.rdNat (a + 12) 4 = id ∧ a' = a +
      64 ∧ k' = s.rdNat a 8)) ∧
    s.rangeBad a' (8 * k') = false ∧
    s.heldBack [(a', 8 * k')] = false ∧
    s.rdFail a' (8 * k') = none ∧
    l = (List.range k').map (fun i => listEntry y (s.rd (a' + 8 * i) 8)) ∧
    l.all Option.isSome = true :=
  ⟨(levelAt 0x48), 0, 0x48, 1, 0x2000, 2 ^ 64 - 1, 0x2040, 1, .maintLevels 0, levelCmd 0x48, levelTensor 0x48,
    [some (0, 3)], inv_of_ok (by decide +kernel), by decide +kernel⟩

theorem witness_MaintenanceQueuesItsActivities_1 : ∃ (s : State) (q : Nat) (c : Cmd),
    s.Inv ∧
    s.runnable q 0x48 = some c ∧
    c.u8 16 = 0 ∧
    c.u8 17 = 0 :=
  ⟨(maintAt 0 0), 0, maintCmd 0 0, inv_of_ok (by decide +kernel), by decide +kernel⟩

theorem witness_MaintenanceQueuesItsActivities_2 : ∃ (s : State) (q : Nat) (c : Cmd) (l : List Nat),
    s.Inv ∧
    s.listTargets c (fun v => decide (v / 2 ^ 28 < 4) && decide (v / 2 ^ 16 % 4096 < 32)) (fun v => 32 * (v / 2 ^ 28) + v /
      2 ^ 16 % 4096) = .ok l ∧
    s.runnable q 0x48 = some c ∧
    c.u8 16 = 1 ∧
    c.u8 17 = 1 :=
  ⟨(maintAt 1 1), 0, maintCmd 1 1, [0], inv_of_ok (by decide +kernel), targets_of (by decide +kernel), by decide +kernel⟩

theorem witness_MaintenanceQueuesItsActivities_3 : ∃ (s : State) (q op : Nat) (row : Instr) (kind : ActKind) (c : Cmd) (l :
  List Nat) (ok : Nat → Bool),
    s.Inv ∧
    ((row = .maintSweep q ∧ op = 2 ∧ kind = .sweep ∧ ok = fun k => (s.arr k).inService) ∨ (row = .maintGaincal q ∧ op = 3 ∧
      kind = .gain ∧ ok = fun k => (s.arr k).inService && (s.arr k).fwd.enough s.gcalMinReads) ∨ (row = .maintLinetest q ∧
      op = 4 ∧ kind = .line ∧ ok = fun k => !(s.arr k).retired)) ∧
    s.arrayTargets c = .ok l ∧
    s.runnable q 0x48 = some c ∧
    c.u8 16 = op :=
  ⟨(maintAt 2 2), 0, 2, .maintSweep 0, .sweep, maintCmd 2 2, [0], fun k => ((maintAt 2 2).arr k).inService, inv_of_ok (by
    decide +kernel), .inl ⟨rfl, rfl, rfl, rfl⟩, targets_of (by decide +kernel), by decide +kernel⟩

theorem witness_MaintenanceQueuesItsActivities_3_gain : ∃ (s : State) (q op : Nat) (row : Instr) (kind : ActKind) (c : Cmd)
  (l : List Nat) (ok : Nat → Bool),
    s.Inv ∧
    ((row = .maintSweep q ∧ op = 2 ∧ kind = .sweep ∧ ok = fun k => (s.arr k).inService) ∨ (row = .maintGaincal q ∧ op = 3 ∧
      kind = .gain ∧ ok = fun k => (s.arr k).inService && (s.arr k).fwd.enough s.gcalMinReads) ∨ (row = .maintLinetest q ∧
      op = 4 ∧ kind = .line ∧ ok = fun k => !(s.arr k).retired)) ∧
    s.arrayTargets c = .ok l ∧
    s.runnable q 0x48 = some c ∧
    c.u8 16 = op :=
  ⟨(maintAt 3 2), 0, 3, .maintGaincal 0, .gain, maintCmd 3 2, [0],
    fun k => ((maintAt 3 2).arr k).inService && ((maintAt 3 2).arr k).fwd.enough (maintAt 3 2).gcalMinReads, inv_of_ok (by
    decide +kernel), .inr (.inl ⟨rfl, rfl, rfl, rfl⟩), targets_of (by decide +kernel), by decide +kernel⟩

theorem witness_MaintenanceQueuesItsActivities_3_line : ∃ (s : State) (q op : Nat) (row : Instr) (kind : ActKind) (c : Cmd)
  (l : List Nat) (ok : Nat → Bool),
    s.Inv ∧
    ((row = .maintSweep q ∧ op = 2 ∧ kind = .sweep ∧ ok = fun k => (s.arr k).inService) ∨ (row = .maintGaincal q ∧ op = 3 ∧
      kind = .gain ∧ ok = fun k => (s.arr k).inService && (s.arr k).fwd.enough s.gcalMinReads) ∨ (row = .maintLinetest q ∧
      op = 4 ∧ kind = .line ∧ ok = fun k => !(s.arr k).retired)) ∧
    s.arrayTargets c = .ok l ∧
    s.runnable q 0x48 = some c ∧
    c.u8 16 = op :=
  ⟨(maintAt 4 2), 0, 4, .maintLinetest 0, .line, maintCmd 4 2, [0], fun k => !((maintAt 4 2).arr k).retired, inv_of_ok (by
    decide +kernel), .inr (.inr ⟨rfl, rfl, rfl, rfl⟩), targets_of (by decide +kernel), by decide +kernel⟩

theorem witness_UpkeepActivitiesEndWithTheirResult_1 : ∃ (s : State) (id : Nat) (meas : List (Nat × Nat × Int)) (a :
  Activity) (y : Resident),
    s.Inv ∧
    s.running id .sweep = some a ∧
    (s.arr a.array).tensor.bind s.resident = some y :=
  ⟨(upkeep small smallArr (activity .sweep .plain)), 0, [(3, 4, 9)], activity .sweep .plain, small, inv_of_ok (by
    decide +kernel), by decide +kernel⟩

theorem witness_UpkeepActivitiesEndWithTheirResult_2 : ∃ (s : State) (id : Nat) (hits : List (Nat × Nat × List Nat)) (a :
  Activity),
    s.Inv ∧
    s.running id .selfCal = some a ∧
    (∀ h ∈ hits, tableFails (tableOf h.2.2) = false) :=
  ⟨(upkeep small smallArr (activity .selfCal .plain)), 0, [(0, 0, List.replicate 1024 64)], activity .selfCal .plain,
    inv_of_ok (by decide +kernel), by decide +kernel⟩

theorem witness_UpkeepActivitiesEndWithTheirResult_3 : ∃ (s : State) (id : Nat) (a : Activity) (y : Resident),
    s.Inv ∧
    s.running id .gain = some a ∧
    (s.arr a.array).tensor.bind s.resident = some y :=
  ⟨(upkeep small smallArr (activity .gain .plain)), 0, activity .gain .plain, small, inv_of_ok (by decide +kernel), by
    decide +kernel⟩

theorem witness_UpkeepActivitiesEndWithTheirResult_4 : ∃ (s : State) (id : Nat) (up down : List (Nat × Nat)) (a : Activity),
    s.Inv ∧
    s.running id .line = some a ∧
    (∀ l ∈ sensedLines up down, lineOpen l = false ∧ lineShorted l = false) :=
  ⟨(upkeep small smallArr (activity .line .plain)), 0, [(3, 949)], [(3, 51)], activity .line .plain, inv_of_ok (by
    decide +kernel), by decide +kernel⟩

theorem witness_UpkeepActivitiesEndWithTheirResult_5 : ∃ (s : State) (id : Nat) (a : Activity),
    s.Inv ∧
    s.running id .rail = some a :=
  ⟨(upkeep small smallArr (activity .rail .raise)), 0, activity .rail .raise, inv_of_ok (by decide +kernel), by
    decide +kernel⟩

theorem witness_ClaimsTransitionsAndWindowsGoOn_1 : ∃ (s u : State) (id : Nat) (a : Activity),
    u = (s.settleAll.takeWaiting).claimGo id 4 ∧
    u.act id = some a ∧
    a.held = 4 ∧
    a.running = false ∧
    a.work ≠ .transition ∧
    u.mayStart a = true :=
  ⟨(upkeep small smallArr { activity .sweep .plain with running := false }),
    (((upkeep small smallArr { activity .sweep .plain with running := false }).settleAll.takeWaiting).claimGo 0 4), 0,
    { activity .sweep .plain with running := false }, rfl, by decide +kernel⟩

theorem witness_ClaimsTransitionsAndWindowsGoOn_2 : ∃ (s : State) (x : ArrayId) (a : Activity) (tr : Transition) (y :
  Resident) (cs : ChangeSet),
    s.Inv ∧
    s.uk.acts.find? (fun a => a.array == arrIdKey x && a.work == .transition) = some a ∧
    (s.arr (arrIdKey x)).transition = some tr ∧
    (s.arr (arrIdKey x)).tensor.bind s.resident = some y ∧
    a.held = 4 ∧
    s.transitionReady a = true ∧
    (∀ b ∈ s.uk.acts, b.id ≠ a.id → s.sameTensor a b = true → s.transitionReady b = true → s.usedFirst b a = false) ∧
    y.sets.find? (fun c => c.step == tr.step) = some cs :=
  ⟨(upkeep changing (changeArr [] false) { activity .window .transition with running := false }),
    { die := 0, bank := 0, array := 0 }, { activity .window .transition with running := false },
    { step := 1, rows := [], started := false }, changing, { step := 1, seq := 0, entries := [(0, 3)] }, inv_of_ok (by
    decide +kernel), by decide +kernel⟩

theorem witness_ClaimsTransitionsAndWindowsGoOn_3 : ∃ (s : State) (id : Nat) (a : Activity) (tr : Transition) (y : Resident),
    s.Inv ∧
    s.running id .window = some a ∧
    a.work = .transition ∧
    (s.arr a.array).retired = false ∧
    (s.arr a.array).transition = some tr ∧
    (s.arr a.array).tensor.bind s.resident = some y ∧
    tr.rows.drop 64 ≠ [] ∧
    s.arrayWrites a.array + 64 < 100000000 :=
  ⟨(upkeep changing (changeArr (List.replicate 65 (0, [])) true) (activity .window .transition)), 0,
    activity .window .transition, { step := 1, rows := List.replicate 65 (0, []), started := true }, changing, inv_of_ok (by
    decide +kernel), by decide +kernel⟩

theorem witness_ClaimsTransitionsAndWindowsGoOn_4 : ∃ (s : State) (id : Nat) (a : Activity),
    s.Inv ∧
    s.running id .window = some a ∧
    a.work = .refresh ∧
    a.id < s.uk.nextId ∧
    (s.arr a.array).retired = false ∧
    s.arrayWrites a.array + 64 < 100000000 :=
  ⟨(upkeep small smallArr (activity .window .refresh)), 0, activity .window .refresh, inv_of_ok (by decide +kernel), by
    decide +kernel⟩

theorem witness_ClaimsTransitionsAndWindowsGoOn_5 : ∃ (s : State) (id : Nat) (a : Activity) (y : Resident),
    s.Inv ∧
    s.running id .program = some a ∧
    (s.arr a.array).tensor.bind s.resident = some y ∧
    (s.arr a.array).retired = false ∧
    s.arrayWrites a.array + 1024 < 100000000 :=
  ⟨(upkeep small smallArr (activity .program .plain)), 0, activity .program .plain, small, inv_of_ok (by decide +kernel), by
    decide +kernel⟩

theorem witness_PeriodsQueueTheirActivity_1 : ∃ (s : State) (x : ArrayId),
    (s.arr (arrIdKey x)).inService = true ∧
    s.sweepMin ≠ 0 ∧
    (s.arr (arrIdKey x)).sweepTime + s.sweepMin * 60000000000 ≤ s.now ∧
    s.actOn .sweep (arrIdKey x) = false :=
  ⟨late, { die := 0, bank := 0, array := 0 }, by decide +kernel⟩

theorem witness_PeriodsQueueTheirActivity_2 : ∃ (s : State) (x : BankId),
    s.convCal (32 * x.die.val + x.bank.val) ≠ 0 ∧
    s.conv10Min ≠ 0 ∧
    Tab.get (fun _ => 0) s.af.bankCalTime (32 * x.die.val + x.bank.val) + s.conv10Min * 600000000000 ≤ s.now ∧
    (∀ a ∈ s.uk.acts, a.kind = .selfCal → a.bank ≠ 32 * x.die.val + x.bank.val) :=
  ⟨late, { die := 0, bank := 0 }, by decide +kernel⟩

theorem witness_PeriodsQueueTheirActivity_3 : ∃ (s : State) (x : ArrayId),
    (s.arr (arrIdKey x)).retired = false ∧
    s.lineH ≠ 0 ∧
    (s.arr (arrIdKey x)).lineTime + s.lineH * 3600000000000 ≤ s.now ∧
    s.actOn .line (arrIdKey x) = false :=
  ⟨late, { die := 0, bank := 0, array := 0 }, by decide +kernel⟩

theorem witness_PeriodsQueueTheirActivity_4 : ∃ (s : State) (x : ArrayId),
    (s.arr (arrIdKey x)).inService = true ∧
    (s.arr (arrIdKey x)).gainTime + s.gcalInterval * 60000000000 ≤ s.now ∧
    (s.arr (arrIdKey x)).fwd.enough s.gcalMinReads = true ∧
    s.actOn .gain (arrIdKey x) = false :=
  ⟨late, { die := 0, bank := 0, array := 0 }, by decide +kernel⟩

theorem witness_PeriodsQueueTheirActivity_5 : ∃ (s : State) (id : Nat) (a : Activity),
    s.act id = some a ∧
    a.running = false ∧
    a.queuedAt + 100000000 < s.now :=
  ⟨(upkeep small smallArr { activity .sweep .plain with running := false }), 0,
    { activity .sweep .plain with running := false }, by decide +kernel⟩

/-! ### Update and integrity -/

def updtCmd : Cmd := command 0x38 [(16, 0x1000)]
/-- An UPDT of one element whose step stands as `mark` says. -/
def updtAt (mark : StepMark) : State :=
  let s := (up.withCmds [updtCmd]).withMem [(0x1028, 8, 0x100C0), (0x1030, 8, 0x10000), (0x1038, 8, 0x10040), (0x1040, 8, 0x10080),
    (0x1068, 8, 1)]
  { s with hg := { s.hg with steps := [(0, { StepInfo.initial with mark := mark })] } }

/-- A delivered tile of one element, the product 3, and a report on its only sub-block. -/
def threeTile : Tile := newTile 0 0 0 0 0 0 false false 0 [mkElem 0 0 [[[.fin false 3 0]]] [] ⟨1, 0⟩]
def checkedTile : Tile := { threeTile with stage := .delivered, testing := threeTile.runPass }
def checking : State :=
  { tileAt .delivered true with mc := { (tileAt .delivered true).mc with tiles := [checkedTile] } }
def only : CheckPlace := { elem := 0, block := 0, rounded := 0, rest := 0, truncated := 0, emax := 0, anchor := 0 }
def blockReport (observed : Fin 255) : CheckFault := { place := only, core := 65, check := 0, observed := observed }

/-- What is known of step 5: `got` summaries, the first at time 0. -/
def step5 (got : List (Nat × Bool × Bool)) : XeStep :=
  { step := 5, got := got, firstAt := some 0, sent := false, sets := [], windowAt := none }
def summed : State := { up with xe := { Exchange.initial with steps := [step5 [(0, false, false)]] } }

/-! ### Exchange -/

/-- Rank 0 of a group of two with 512 entries, whose buddy and ward is rank 1, and a lane area of 513 MiB. -/
def pair (policy : Nat) : State :=
  up.withRegs [(0x2000010, 0x20000 + policy * 2 ^ 41), (0x2000028, 512), (0x2000040, 0x80010001), (0x2000050, 0x201)]
def xchgCmd : Cmd := command 0x30 [(32, 0x4000), (48, 0x8000), (56, 0xC000)]
def gathCmd : Cmd := command 0x31 [(16, 1), (24, 0x2000), (32, 0x3000), (40, 1)]
def gathAt (mark : StepMark) : State :=
  let s := (fieldUp small smallArr).withCmds [gathCmd]
  { s with hg := { s.hg with steps := if mark = .open then [] else [(0, { StepInfo.initial with mark := mark })] } }

def aPart : Part := { newPart 5 0 0 with first := some 0 }
def aSent : Sent :=
  { seq := 0, step := 5, bucket := 0, shardBase := 0x8000, mirrorBase := 0xC000, errmem := 0, owners := [0, 1], nf := false
    waiting := [1], cleared := false }
def parted : State :=
  { pair 0 with xe := { Exchange.initial with parts := [aPart], sends := [aSent], steps := [step5 [(0, false, false)]] } }

/-- A part that took rank 1's copy at time `t`. -/
def seenPart (t : Nat) : Part := { aPart with seen := [1], seenAt := [(1, t)], taken := [{ rank := 1, vals := [], nf := false, at_ := t }] }
def seenAtTime (t : Nat) : State := { parted with xe := { parted.xe with parts := [seenPart t] } }
def clearedPart : Part := { aPart with clears := [1] }

def closing : State :=
  { (pair 0).withCmds [{ command 0x39 [(4, 5), (16, 1), (17, 1)] with stage := .running }] with
    xe := { Exchange.initial with
      closes := [{ seq := 0, step := 5, ordinal := 0, recs := [] }]
      closeMsgs := [{ rank := 0, step := 5, ordinal := 0, recs := [], at_ := 0 }] } }
def gathering : State :=
  { (pair 0).withCmds [{ gathCmd with stage := .running }] with
    xe := { Exchange.initial with
      gaths := [{ seq := 0, step := 5, tensor := 1, dest := 0x3000 }]
      lists := [{ rank := 0, step := 5, tensor := 1, entries := [], at_ := 0 }] } }

/-- The first bucket of step 5 holds a copy from each of the two ranks. -/
def fullPart : Part := { aPart with taken := [0, 1].map fun r => { rank := r, vals := [], nf := false, at_ := 0 } }
def badLane (again : Bool) : LaneFault := { step := 5, bucket := 0, owner := 0, predicted := 1, observed := 2, again := again }
/-- It is full, and one of its lanes fails its check. -/
def filled (again : Bool) : State :=
  { parted with xe := { parted.xe with parts := [fullPart] }, ms := { parted.ms with lanes := [badLane again] } }

theorem witness_UpdateWaitsForItsStepAndIsWritten_1 : ∃ (s : State) (q : Nat) (c : Cmd) (p : Updt),
    s.Inv ∧
    p = updtOf (s.rd (c.u 16 8) 128) ∧
    s.runnable q 0x38 = some c ∧
    s.heldBack [(c.u 16 8, 128)] = false ∧
    s.rdFail (c.u 16 8) 128 = none ∧
    s.updtGood (s.rd (c.u 16 8) 128) = true ∧
    (∀ d ∈ s.dependsOn c, d.stage.isClear = true ∨ d.stage = .failed) ∧
    (s.stepInfo c.step).mark = .cleared ∧
    s.heldBack ((c.u 16 8, 128) :: (p.grad, 4 * p.count) :: p.planes ++ (p.planes ++ if p.list = 0 then [] else [(p.list, 64
      + 8 * p.count)])) = false ∧
    s.rdFails ((c.u 16 8, 128) :: (p.grad, 4 * p.count) :: p.planes) = none ∧
    s.writeFail (p.planes ++ if p.list = 0 then [] else [(p.list, 64 + 8 * p.count)]) = none :=
  ⟨(updtAt .cleared), 0, updtCmd, updtOf ((updtAt .cleared).rd 0x1000 128), inv_of_ok (by decide +kernel), rfl, by
    decide +kernel⟩

theorem witness_UpdateWaitsForItsStepAndIsWritten_2 : ∃ (s : State) (q : Nat) (c : Cmd),
    s.Inv ∧
    s.runnable q 0x38 = some c ∧
    s.heldBack [(c.u 16 8, 128)] = false ∧
    s.rdFail (c.u 16 8) 128 = none ∧
    s.updtGood (s.rd (c.u 16 8) 128) = true ∧
    (∀ d ∈ s.dependsOn c, d.stage.isClear = true ∨ d.stage = .failed) ∧
    (s.stepInfo c.step).mark = .skipped :=
  ⟨(updtAt .skipped), 0, updtCmd, inv_of_ok (by decide +kernel), by decide +kernel⟩

theorem witness_UpdateWaitsForItsStepAndIsWritten_3 : ∃ (s : State) (q idx elem : Nat) (c : Cmd) (v : VnCheck) (die : Fin 4)
  (e : Fin 16) (x y : Fin 256),
    s.Inv ∧
    s.cmd q = some c ∧
    s.mc.vnChecks.find? (fun v => v.seq == q && v.index == idx) = some v :=
  ⟨{ tileAt .delivered true with mc := { Compute.initial with vnChecks := [⟨0, 3, none⟩] } }, 0, 3, 0, running18,
    ⟨0, 3, none⟩, 0, 0, 255, 0, inv_of_ok (by decide +kernel), by decide +kernel⟩

theorem witness_ChecksThatPassAreTakenFromTheirCommand_1 : ∃ (s : State) (q i : Nat) (ok : Bool) (core : Fin 66) (check :
  Fin 4) (at_ : CheckPlace) (x : Fin 255) (z : Tile) (c : Cmd),
    (∀ f, checkFault ok core check at_ x = some f → z.faulty f = false) ∧
    i < 2 ^ 32 ∧
    s.tile q i = some z ∧
    s.cmd q = some c ∧
    z.stage = .delivered :=
  ⟨checking, 0, 0, false, 65, 0, only, 3, checkedTile, running18, (by intro f h; cases h; decide +kernel), by decide +kernel⟩

theorem witness_ChecksThatPassAreTakenFromTheirCommand_2 : ∃ (s : State) (q i : Nat) (ok : Bool) (core : Fin 66) (check :
  Fin 4) (at_ : CheckPlace) (x : Fin 255) (r : Read) (y : Resident) (c : Cmd),
    (∀ f, checkFault ok core check at_ x = some f → f.place.elem < r.lines y → rho (s.idealP y r r.lo r.len f.place.elem) =
      f.observed.val) ∧
    s.read q i = some r ∧
    s.readTensor q = some y ∧
    s.cmd q = some c ∧
    r.shadow = true :=
  ⟨(reading { readOf .delivered with shadow := true }), 0, 0, true, 0, 0, only, 0,
    { readOf .delivered with shadow := true }, small, { command 0x10 [] with stage := .running, checks := 1 },
    (by intro f h; cases h), by decide +kernel⟩

theorem witness_ChecksThatPassAreTakenFromTheirCommand_3 : ∃ (s : State) (q i : Nat) (r : Read) (y : Resident) (c : Cmd),
    (∀ d, some d ∈ r.dsum → tolExceeded s.cksBase s.cksSlope (y.drivenOf r) (y.testRange r.transpose) d = false) ∧
    s.read q i = some r ∧
    s.readTensor q = some y ∧
    s.cmd q = some c ∧
    r.testing = true :=
  ⟨(reading { readOf .delivered with testing := true, dsum := [some ⟨0, 0⟩] }), 0, 0,
    { readOf .delivered with testing := true, dsum := [some ⟨0, 0⟩] }, small,
    { command 0x10 [] with stage := .running, checks := 1 },
    (by intro d h; cases (List.mem_singleton.mp h : some d = some ⟨0, 0⟩); decide +kernel), by decide +kernel⟩

theorem witness_AFailedCheckTaintsItsCommand_1 : ∃ (s : State) (q i : Nat) (f : CheckFault) (z : Tile) (c : Cmd) (u :
  UnitId),
    s.Inv ∧
    i < 2 ^ 32 ∧
    s.tile q i = some z ∧
    s.cmd q = some c ∧
    z.stage = .delivered ∧
    c.stage ≠ .failed ∧
    c.stage ≠ .refused ∧
    c.parent = none ∧
    s.unreplayable c = false ∧
    s.xe.sends = [] ∧
    (∀ p ∈ s.ms.upset, decodePattern p.2 = .bad → placeOf s.ms.interleave (32 * p.1) ≠ .journal) ∧
    z.faulty f = true ∧
    u = workingCore z.spares z.die z.cluster (s.checkedCore z f) ∧
    s.failsOf q [0, i] u < 2 :=
  ⟨checking, 0, 0, blockReport 4, checkedTile, running18,
    workingCore [] 0 0 (checking.checkedCore checkedTile (blockReport 4)), inv_of_ok (by decide +kernel), by decide +kernel⟩

theorem witness_AFailedCheckTaintsItsCommand_2 : ∃ (s : State) (q : Nat) (c : Cmd),
    s.cmd q = some c ∧
    c.tainted = true ∧
    c.parent = none ∧
    (∀ p ∈ s.ms.upset, decodePattern p.2 = .bad → placeOf s.ms.interleave (32 * p.1) ≠ .journal) ∧
    (∀ d ∈ s.hg.cmds, d.tainted = true → d.before c = true → s.repairReady d = false) ∧
    (∀ d ∈ s.dependsOn c, d.tainted = false ∧ (d.repaired = true → d.stage.isDone = true ∨ d.stage = .failed)) :=
  ⟨(up.withCmds [{ running18 with tainted := true }]), 0, { running18 with tainted := true }, by decide +kernel⟩

theorem witness_FencesResolveStepsAndUnitsReturn_1 : ∃ (s : State) (n : Nat),
    s.Inv ∧
    s.resolved n = false ∧
    s.fenceLocal n = true ∧
    s.exchangeMet n = true ∧
    (∀ r ∈ s.af.reads, r.stage = .waiting → ∀ y, s.readTensor r.seq = some y → s.announcerFailed y r.version = false) :=
  ⟨summed, 5, inv_of_ok (by decide +kernel), by decide +kernel⟩

theorem witness_FencesResolveStepsAndUnitsReturn_2 : ∃ (s : State) (x : ClusterId),
    s.Inv ∧
    s.quiet 1 x.die.val x.cluster.val = true ∧
    (0 < s.clusterRail (32 * x.die.val + x.cluster.val) ∨ s.clusterSlow (32 * x.die.val + x.cluster.val) = true) :=
  ⟨{ late with im := { late.im with clusterRail := [(0, 1)] } }, { die := 0, cluster := 0 }, inv_of_ok (by decide +kernel),
    by decide +kernel⟩

theorem witness_FencesResolveStepsAndUnitsReturn_2_slow : ∃ (s : State) (x : ClusterId),
    s.Inv ∧
    s.quiet 1 x.die.val x.cluster.val = true ∧
    (0 < s.clusterRail (32 * x.die.val + x.cluster.val) ∨ s.clusterSlow (32 * x.die.val + x.cluster.val) = true) :=
  ⟨{ late with im := { late.im with clusterSlow := [(0, true)] } }, { die := 0, cluster := 0 }, inv_of_ok (by
    decide +kernel), by decide +kernel⟩

theorem witness_FencesResolveStepsAndUnitsReturn_3 : ∃ (s : State) (x : BankId),
    s.quiet 2 x.die.val x.bank.val = true ∧
    0 < s.bankRail (32 * x.die.val + x.bank.val) ∧
    (∀ a ∈ s.uk.acts, a.kind = .rail → a.bank = 32 * x.die.val + x.bank.val → a.work ≠ .lower) :=
  ⟨{ late with im := { late.im with bankRail := [(0, 1)] } }, { die := 0, bank := 0 }, by decide +kernel⟩

theorem witness_ExchangeCommandsEnterTheExchange_1 : ∃ (s : State) (q : Nat) (c : Cmd),
    s.Inv ∧
    s.ms.hostBad = [] ∧
    (∀ f ∈ s.ms.lanes, f.again = false) ∧
    s.runnable q 0x30 = some c ∧
    s.xchgFault c q = none ∧
    (s.stepInfo c.step).mark ≠ .incomplete ∧
    s.xe.stopped = false ∧
    s.xchgWaits c = false ∧
    s.heldBack (s.xchgReads c.xchg ++ s.xchgOuts c.xchg) = false ∧
    s.rdFails (s.xchgReads c.xchg) = none :=
  ⟨((pair 0).withCmds [xchgCmd]), 0, xchgCmd, inv_of_ok (by decide +kernel), by decide +kernel⟩

theorem witness_ExchangeCommandsEnterTheExchange_2 : ∃ (s : State) (q : Nat) (c : Cmd) (y : Resident),
    s.Inv ∧
    s.ms.hostBad = [] ∧
    s.runnable q 0x31 = some c ∧
    s.resident (c.u 16 4) = some y ∧
    c.u 24 8 % 64 = 0 ∧
    s.rangeBad (c.u 24 8) 64 = false ∧
    c.u 32 8 % 64 = 0 ∧
    s.rangeBad (c.u 32 8) (64 + 8 * c.u 40 8) = false ∧
    y.k * y.n ≤ c.u 40 8 ∧
    s.xe.stopped = false ∧
    ((s.stepInfo c.step).mark = .open ∨ (s.stepInfo c.step).mark = .cleared) ∧
    s.heldBack [(c.u 24 8, 64), (c.u 24 8 + 64, 8 * s.rdNat (c.u 24 8) 8)] = false ∧
    s.rdFails [(c.u 24 8, 64), (c.u 24 8 + 64, 8 * s.rdNat (c.u 24 8) 8)] = none :=
  ⟨(gathAt .open), 0, gathCmd, small, inv_of_ok (by decide +kernel), by decide +kernel⟩

theorem witness_ExchangeCommandsEnterTheExchange_3 : ∃ (s : State) (q : Nat) (c : Cmd) (y : Resident),
    s.Inv ∧
    s.ms.hostBad = [] ∧
    s.runnable q 0x31 = some c ∧
    s.resident (c.u 16 4) = some y ∧
    c.u 24 8 % 64 = 0 ∧
    s.rangeBad (c.u 24 8) 64 = false ∧
    c.u 32 8 % 64 = 0 ∧
    s.rangeBad (c.u 32 8) (64 + 8 * c.u 40 8) = false ∧
    y.k * y.n ≤ c.u 40 8 ∧
    s.xe.stopped = false ∧
    (s.stepInfo c.step).mark = .skipped ∧
    s.heldBack [(c.u 32 8, 64)] = false :=
  ⟨(gathAt .skipped), 0, gathCmd, small, inv_of_ok (by decide +kernel), by decide +kernel⟩

theorem witness_CopiesEnterAndLeaveTheirPart_1 : ∃ (s : State) (rank n b o : Nat) (nf : Bool) (mode : Fin 4) (bytes : List
  Byte) (p : Part),
    s.ms.hostBad = [] ∧
    (∀ f ∈ s.ms.lanes, f.again = false) ∧
    s.xeLive rank = true ∧
    o ∈ s.ownedRanks ∧
    s.ownsPart o b = true ∧
    (s.stepInfo n).mark ≠ .cleared ∧
    (s.stepInfo n).mark ≠ .skipped ∧
    p = (s.part n b o).getD (newPart n b o) ∧
    (p.first.isSome = true ∨ s.retained < 16) ∧
    p.state ≠ .cleared ∧
    rank ∉ p.retracted :=
  ⟨(pair 0), 1, 5, 0, 0, false, 0, [], newPart 5 0 0, by decide +kernel⟩

theorem witness_CopiesEnterAndLeaveTheirPart_2 : ∃ (s : State) (n b o f : Nat) (p : Part),
    s.ms.hostBad = [] ∧
    (∀ f ∈ s.ms.lanes, f.again = false) ∧
    s.part n b o = some p ∧
    p.first = some f ∧
    p.late = false ∧
    f + s.deadlineNs < s.now :=
  ⟨parted, 5, 0, 0, 0, aPart, by decide +kernel⟩

theorem witness_CopiesEnterAndLeaveTheirPart_3 : ∃ (s : State) (rank n b o : Nat) (p : Part),
    s.xeLive rank = true ∧
    s.part n b o = some p :=
  ⟨parted, 1, 5, 0, 0, aPart, by decide +kernel⟩

theorem witness_CopiesEnterAndLeaveTheirPart_4 : ∃ (s : State) (rank n b o : Nat) (p : Part),
    s.xeLive rank = true ∧
    o ∈ s.ownedRanks ∧
    s.ownsPart o b = true ∧
    s.part n b o = some p ∧
    rank ∉ p.clears ∧
    (∀ x ∈ p.seenAt, x.1 = rank → x.2 ≠ s.now) ∧
    p.seen.Nodup :=
  ⟨parted, 1, 5, 0, 0, aPart, by decide +kernel⟩

theorem witness_CopiesEnterAndLeaveTheirPart_4_taken : ∃ (s : State) (rank n b o : Nat) (p : Part),
    s.xeLive rank = true ∧
    o ∈ s.ownedRanks ∧
    s.ownsPart o b = true ∧
    s.part n b o = some p ∧
    rank ∉ p.clears ∧
    (∀ x ∈ p.seenAt, x.1 = rank → x.2 ≠ s.now) ∧
    p.seen.Nodup :=
  ⟨(seenAtTime 0), 1, 5, 0, 0, seenPart 0, by decide +kernel⟩

theorem witness_CopiesEnterAndLeaveTheirPart_5 : ∃ (s : State) (rank n b o : Nat) (p : Part),
    s.xeLive rank = true ∧
    o ∈ s.ownedRanks ∧
    s.ownsPart o b = true ∧
    s.part n b o = some p ∧
    rank ∉ p.clears ∧
    rank ∈ p.seen ∧
    (rank, s.now) ∈ p.seenAt ∧
    s.slotOf rank ∉ p.reopened :=
  ⟨(seenAtTime 10000000000), 1, 5, 0, 0, seenPart 10000000000, by decide +kernel⟩

theorem witness_CopiesEnterAndLeaveTheirPart_5_duplicate : ∃ (s : State) (rank n b o : Nat) (p : Part),
    s.xeLive rank = true ∧
    o ∈ s.ownedRanks ∧
    s.ownsPart o b = true ∧
    s.part n b o = some p ∧
    rank ∉ p.clears ∧
    rank ∈ p.seen ∧
    (rank, s.now) ∈ p.seenAt ∧
    s.slotOf rank ∉ p.reopened :=
  ⟨{ parted with xe := { parted.xe with parts := [{ seenPart 10000000000 with taken := [] }] } }, 1, 5, 0, 0,
    { seenPart 10000000000 with taken := [] }, by decide +kernel⟩

theorem witness_CopiesEnterAndLeaveTheirPart_6 : ∃ (s : State) (rank n b o : Nat) (p : Part),
    s.part n b o = some p ∧
    rank ∈ p.clears :=
  ⟨{ parted with xe := { parted.xe with parts := [clearedPart] } }, 1, 5, 0, 0, clearedPart, by decide +kernel⟩

theorem witness_CopiesEnterAndLeaveTheirPart_7 : ∃ (s : State) (n b o : Nat) (x : Sent),
    s.sentOf n b = some x :=
  ⟨parted, 5, 0, 1, aSent, by decide +kernel⟩

theorem witness_SummariesAndExclusionsAreKept_1 : ∃ (s : State) (n : Nat),
    s.resolved n = false ∧
    (s.xeStep n).sent = false ∧
    s.xe.stopped = false ∧
    s.summaryDue n = true :=
  ⟨up, 5, by decide +kernel⟩

theorem witness_SummariesAndExclusionsAreKept_2 : ∃ (s : State) (rank n : Nat) (nf inc : Bool),
    s.Inv ∧
    s.xeLive rank = true ∧
    (s.stepInfo n).mark ≠ .cleared ∧
    (s.stepInfo n).mark ≠ .skipped :=
  ⟨(pair 0), 1, 5, false, true, inv_of_ok (by decide +kernel), by decide +kernel⟩

theorem witness_SummariesAndExclusionsAreKept_3 : ∃ (s : State) (n f : Nat),
    s.Inv ∧
    (s.xeStep n).firstAt = some f ∧
    f + s.giveupMs * 1000000 < s.now ∧
    s.missingSummaries n ≠ [] ∧
    (s.stepInfo n).mark ≠ .cleared ∧
    (s.stepInfo n).mark ≠ .skipped :=
  ⟨parted, 5, 0, inv_of_ok (by decide +kernel), by decide +kernel⟩

theorem witness_SummariesAndExclusionsAreKept_4 : ∃ (s : State) (rank n : Nat) (l : List Nat),
    s.policy = 1 ∧
    s.xeLive rank = true :=
  ⟨(pair 1), 1, 5, [1], by decide +kernel⟩

theorem witness_SummariesAndExclusionsAreKept_5 : ∃ (s : State) (n f : Nat) (buddies : List (Nat × Nat)) (out : List Nat),
    (s.xeStep n).windowAt = some f ∧
    f + s.giveupMs * 1000000 < s.now ∧
    (s.xeStep n).sets ≠ [] ∧
    out = ((s.xeStep n).sets.flatMap fun p => p.2).eraseDups :=
  ⟨{ pair 1 with xe := { Exchange.initial with steps := [{ step5 [] with sets := [(0, [1])], windowAt := some 0 }] } }, 5,
    0, [(1, 0)], [1], by decide +kernel⟩

theorem witness_GiveUpsAndMessagesOfTheExchange_1 : ∃ (s : State) (n b o f : Nat) (p : Part),
    s.Inv ∧
    s.part n b o = some p ∧
    p.first = some f ∧
    f + s.giveupNs < s.now ∧
    s.partFull p = false ∧
    s.resolved n = false ∧
    (∀ w ∈ s.xe.waiting, ¬ (w.1 = n ∧ w.2.1 = b ∧ w.2.2.1 = o)) :=
  ⟨parted, 5, 0, 0, 0, aPart, inv_of_ok (by decide +kernel), by decide +kernel⟩

theorem witness_GiveUpsAndMessagesOfTheExchange_2 : ∃ (s : State) (q : Nat) (c : Cmd) (x : CloseX),
    s.xe.closes.find? (fun x => x.seq == q) = some x ∧
    s.closeFull x = false ∧
    s.cmd q = some c ∧
    c.stage = .running ∧
    ((s.xe.closeMsgs.filter fun m => m.step == x.step && m.ordinal == x.ordinal).foldl (fun a m => min a m.at_) s.now) +
      s.giveupNs < s.now :=
  ⟨closing, 0, { command 0x39 [(4, 5), (16, 1), (17, 1)] with stage := .running },
    { seq := 0, step := 5, ordinal := 0, recs := [] }, by decide +kernel⟩

theorem witness_GiveUpsAndMessagesOfTheExchange_3 : ∃ (s : State) (q : Nat) (c : Cmd) (x : GathX) (l : List ListX),
    s.Inv ∧
    s.xe.gaths.find? (fun x => x.seq == q) = some x ∧
    l = s.xe.lists.filter (fun l => l.step == x.step && l.tensor == x.tensor) ∧
    l ≠ [] ∧
    l.foldl (fun a m => min a m.at_) s.now + s.giveupMs * 1000000 < s.now ∧
    s.cmd q = some c ∧
    c.stage = .running :=
  ⟨gathering, 0, { gathCmd with stage := .running }, { seq := 0, step := 5, tensor := 1, dest := 0x3000 },
    [{ rank := 0, step := 5, tensor := 1, entries := [], at_ := 0 }], inv_of_ok (by decide +kernel), by decide +kernel⟩

theorem witness_GiveUpsAndMessagesOfTheExchange_4 : ∃ (s : State) (rank n k : Nat) (recs : List (F32 × Bool × Bool)),
    s.xeLive rank = true ∧
    (∀ m ∈ s.xe.closeMsgs, ¬ (m.step = n ∧ m.ordinal = k ∧ m.rank = rank)) ∧
    (∀ x ∈ s.xe.closes, ¬ (x.step = n ∧ x.ordinal = k)) :=
  ⟨(pair 0), 1, 5, 0, [], by decide +kernel⟩

theorem witness_GiveUpsAndMessagesOfTheExchange_5 : ∃ (s : State) (rank : Nat) (l : List Byte),
    s.xe.stopped = false ∧
    rank ∈ s.listRanks ∧
    (∀ x ∈ s.xe.gaths, ¬ (x.step = leNat ((l.drop 8).take 4) ∧ x.tensor = leNat ((l.drop 12).take 4))) :=
  ⟨gathering, 1, [], by decide +kernel⟩

theorem witness_GiveUpsAndMessagesOfTheExchange_6 : ∃ (s : State) (n b : Nat) (vals : List F32),
    s.Inv ∧
    s.buddyOn = true ∧
    s.xeLive s.ward = true ∧
    s.ownsPart s.ward b = true :=
  ⟨(pair 0), 5, 0, [], inv_of_ok (by decide +kernel), by decide +kernel⟩

theorem witness_CopiesEnterAndLeaveTheirPart_8 : ∃ (s : State) (n b o f : Nat) (p : Part) (x : Sent),
    s.ms.hostBad = [] ∧
    (∀ f ∈ s.ms.lanes, f.again = false) ∧
    s.part n b o = some p ∧
    s.sentOf n b = some x ∧
    p.first = some f ∧
    p.late = false ∧
    f + s.deadlineNs < s.now ∧
    p.held = [] ∧
    p.state = .collecting ∧
    s.partFull p = true :=
  ⟨(filled false), 5, 0, 0, 0, fullPart, aSent, by decide +kernel⟩

theorem witness_CopiesEnterAndLeaveTheirPart_9 : ∃ (s : State) (n b o f : Nat) (p : Part) (x : Sent) (g : LaneFault),
    s.part n b o = some p ∧
    s.sentOf n b = some x ∧
    p.first = some f ∧
    p.late = false ∧
    f + s.deadlineNs < s.now ∧
    p.held = [] ∧
    p.state = .collecting ∧
    s.partFull p = true ∧
    s.resolved n = false ∧
    g ∈ s.ms.lanes ∧
    g.step = n ∧
    g.bucket = b ∧
    g.owner = o ∧
    g.again = true :=
  ⟨(filled true), 5, 0, 0, 0, fullPart, aSent, badLane true, by decide +kernel⟩

/-! ### Farpinen ports -/

/-- Rank 0 of a ring of two along X, port 0 of which leads to +X. -/
def ringRegs2 : List (Nat × Nat) := [(0x2000010, 0x20000), (0x2000018, 1), (0x2000020, 1)]
def portOf (st : PortState) (queue retry : List FlitTx) : Port :=
  { Port.initial with state := st, lanes := if st = .up then 0xFF else 0, settings := [0x20000, 1, 1, 0, 0x200000, 0x64000007D0]
                      queue := queue, retry := retry }
def flit (resends : Nat) : FlitTx := { seq := 0, vc := 0, data := [1, 2], source := 0, credits := [0, 0, 0, 0], resends := resends, queuedAt := 0, aged := false }
def ported (x : Port) : State := { up.withRegs ringRegs2 with fab := { Fabric.initial with ports := [(0, x)] } }
def old100 (s : State) (x : Port) (g : FlitTx) : Prop :=
  g.aged = true ∨ (g.vc ≠ 3 ∧ 4096 * 2304 ≤ (s.now - g.queuedAt) * ((List.range 8).filter fun k => bitAt x.lanes k).length * 100)

/-- The Exchange's settings, taken from its registers when a port begins its training. -/
def State.settled (s : State) : State := { s with xe := { s.xe with taken := some (xeSettings.map s.reg) } }

/-- Two requests at arbiter 0, of inputs 0 and 2, the second for three sources. -/
def request (input count : Nat) : ArbReq :=
  { source := .scrub 0, arbiter := 0, input := input, count := count, waited := 0, last := 0 }
def contended : State := { up with fab := { Fabric.initial with arb := [request 2 3, request 0 1] } }

/-- The link toward the hub that entry `k` of the table holds keeps a flit that it has sent again nine times, the last in vain. -/
def spentLink : D2DLink := { D2DLink.initial with retry := [{ vc := 0, seq := 5, bytes := [], resends := 9 }] }
def spentAt (k : Nat) : State := { up with fab := { Fabric.initial with d2d := [(k, spentLink)] } }

/-! ### Hamper -/

def entryOf (place : EntryPlace) (units : List Nat) : HamperEntry :=
  { number := 0, step := 0, mb := 0, block := 0, place := place, fmt := 1, size := 64
    src := bytesOf 64 [(0, 0x4000), (16, 1), (24, 32), (38, 1)], units := units, window := 2 ^ 63, reading := false }
def hampered (e : HamperEntry) (c : Cmd) : State :=
  { up.withCmds [c] with ham := { Hamper.initial with entries := [e], stored := 1, spillBase := 2 ^ 63, spillOn := true } }
def stash (block : Nat) : Cmd := command 0x28 [(8, block), (16, 0x1000), (24, 1)]
def stashing : State := (up.withCmds [stash 0]).withMem (tensors 1 0)
def region : Nat := 0xD00000000

/-! ### Memory and registers -/


def quiet : Env := { stores := [], hostBad := [], upsets := [], lanes := [] }
def opened : State := up.withRegs [(0x1000030, 2 ^ 63)]
def debugOwns : State := { opened with tb := { up.tb with debugUnlocked := true, debugScope := 2, own := .owned .debug } }
def isOpenBlock (s : State) (j : Nat) : Prop :=
  ∃ st o, placeOf s.ms.interleave (j / 4096 * 4096) = .stack st o ∧ s.inHamper o = false
def remapOf : RowRemap := { stack := 7, pch := 63, row := 5, spare := 0, mech := 7, syn := 0 }
def memUp : State := { up with ms := { MemSys.initial with targeted := [{ stack := 7, pch := 63 }], remapping := [remapOf] } }

theorem witness_TrainingGoesFromRetrainToUpOrDown_1 : ∃ (s u : State) (m : Master) (p : Fin 12) (v : W32),
    s.Inv ∧
    u = { s with xe := { s.xe with taken := some (xeSettings.map s.reg) } } ∧
    s.owns m = true ∧
    s.regLands m = true ∧
    bitAt v.toNat 31 = true ∧
    bitAt v.toNat 30 = true ∧
    dirOf u.portSettings p.val ≠ 0 ∧
    u.topoGood = true :=
  ⟨(up.withRegs ringRegs2), (State.settled (up.withRegs ringRegs2)), .host, 0, 0xC0000000, inv_of_ok (by decide +kernel),
    rfl, by decide +kernel⟩

theorem witness_TrainingGoesFromRetrainToUpOrDown_2 : ∃ (s : State) (p : Fin 12) (group rank port : Nat) (version : Bool)
  (digest : W64) (good : Fin 256) (g : Nat) (x : Port),
    s.Inv ∧
    x = s.port p.val ∧
    x.state = .training ∧
    s.now ≤ x.startedAt + 17000000 ∧
    laneGroup (good.val &&& (255 - x.out_ % 256)) = some g :=
  ⟨{ ported { portOf .training [] [] with startedAt := 9999000000 } with out := [] }, 0, 0, 1, 0, true, 0, 255, 0xFF,
    { portOf .training [] [] with startedAt := 9999000000 }, inv_of_ok (by decide +kernel), by decide +kernel⟩

theorem witness_TrainingGoesFromRetrainToUpOrDown_3 : ∃ (s u : State) (p : Fin 12) (k : Fin 7),
    s.Inv ∧
    u = { s with xe := { s.xe with taken := some (xeSettings.map s.reg) } } ∧
    (s.port p.val).state = .training ∧
    (s.port p.val).startedAt + stepLimit k.val < s.now :=
  ⟨(ported (portOf .training [] [])), (State.settled (ported (portOf .training [] []))), 0, 6, inv_of_ok (by
    decide +kernel), rfl, by decide +kernel⟩

theorem witness_FlitsAreTakenOnceAndSentAgain_1 : ∃ (s : State) (p : Fin 12) (raw : List Byte) (x : Port),
    s.Inv ∧
    (∀ e, s.ld.entered = some e → e.1 ≠ s.now) ∧
    x = s.port p.val ∧
    x.state = .up ∧
    raw.length = 612 ∧
    s.ld.pwr = .a2 :=
  ⟨{ ported (portOf .up [] []) with ld := { up.ld with pwr := .a2 } }, 0, List.replicate 612 0, portOf .up [] [], inv_of_ok
    (by decide +kernel), (by intro e h; cases h), by decide +kernel⟩

theorem witness_FlitsAreTakenOnceAndSentAgain_2 : ∃ (s : State) (p : Fin 12) (raw l : List Byte) (x : Port) (numbered :
  Bool),
    s.Inv ∧
    x = s.port p.val ∧
    x.state = .up ∧
    raw.length = 612 ∧
    s.ld.pwr ≠ .a2 ∧
    l = correctFlit raw ∧
    numbered = decide (leNat ((l.drop 5).take 1) % 4 = 0) :=
  ⟨(ported (portOf .up [] [])), 0, List.replicate 612 0, correctFlit (List.replicate 612 0), portOf .up [] [], true,
    inv_of_ok (by decide +kernel), by decide +kernel⟩

theorem witness_FlitsAreTakenOnceAndSentAgain_3 : ∃ (s : State) (p : Fin 12) (ack : Fin 65536) (lanes : List (Fin 8)) (rest
  : List FlitTx),
    s.Inv ∧
    (s.port p.val).state = .up ∧
    rest = ackRetry ack.val (s.port p.val).retry :=
  ⟨(ported (portOf .up [] [flit 0])), 0, 65535, [3], [flit 0], inv_of_ok (by decide +kernel), by decide +kernel⟩

theorem witness_FlitsAreTakenOnceAndSentAgain_4 : ∃ (s : State) (p : Fin 12) (i : Nat),
    s.Inv ∧
    (s.port p.val).state = .up ∧
    ((s.port p.val).retry.any fun f => decide (8 ≤ f.resends)) = true ∧
    i < 8 ∧
    bitAt (s.port p.val).lanes i = true :=
  ⟨(ported (portOf .up [] [flit 8])), 0, 7, inv_of_ok (by decide +kernel), by decide +kernel⟩

theorem witness_WaitingTrafficGoesOn_1 : ∃ (s : State) (p : Fin 12) (i : Nat) (f : FlitTx) (x : Port) (old : FlitTx → Prop),
    s.Inv ∧
    (∀ g, old g ↔ g.aged = true ∨ (g.vc ≠ 3 ∧ 4096 * 2304 ≤ (s.now - g.queuedAt) * ((List.range 8).filter fun k => bitAt
      x.lanes k).length * 100)) ∧
    old f ∧
    (∀ j < i, ∀ g, x.queue[j]? = some g → 0 < x.credits.getD g.vc 0 → ¬ old g) ∧
    x = s.port p.val ∧
    x.state = .up ∧
    s.ld.pwr ≠ .a2 ∧
    x.retry.length < 256 ∧
    x.queue[i]? = some f ∧
    0 < x.credits.getD f.vc 0 :=
  ⟨(ported (portOf .up [flit 0] [])), 0, 0, flit 0, portOf .up [flit 0] [],
    old100 (ported (portOf .up [flit 0] [])) (portOf .up [flit 0] []), inv_of_ok (by decide +kernel), fun _ => Iff.rfl,
    Or.inr (by decide +kernel), fun j h => absurd h (Nat.not_lt_zero j), by decide +kernel⟩

theorem witness_WaitingTrafficGoesOn_2 : ∃ (s : State) (p0 : Fin 12) (dest p v : Nat) (vc : Fin 5) (bytes : List Byte)
  (crosses : Bool),
    s.Inv ∧
    s.route dest = some (p, crosses) ∧
    v = classAfter vc.val crosses :=
  ⟨(ported (portOf .up [] [])), 0, 1, 0, 2, 2, [7], false, inv_of_ok (by decide +kernel), by decide +kernel⟩

theorem witness_WaitingTrafficGoesOn_4 : ∃ (s : State) (a i : Nat) (turn : Round),
    s.Inv ∧
    (∀ r ∈ s.fab.arb, r.arbiter = a → r.waited < 4096) ∧
    (Tab.get (fun _ => (⟨[], 0⟩ : Round)) s.fab.turns a).next (s.activeInputs a) = some (i, turn) :=
  ⟨contended, 0, 0, ⟨[(0, 0), (2, 3)], 0⟩, inv_of_ok (by decide +kernel), by decide +kernel⟩

theorem witness_DieConnectionsResendAndGiveUp_1 : ∃ (s : State) (x : D2D) (away : Bool) (vc : Fin 4) (seq : Nat) (bytes :
  List Byte) (l : D2DLink),
    s.Inv ∧
    s.d2dIsOut (d2dKey x) = false ∧
    l = s.d2dLink (d2dDir x away) ∧
    l.resends vc.val seq ≤ 8 ∧
    ((l.kept vc.val seq).isSome = true ∨ 0 < l.credits.getD vc.val 0) :=
  ⟨up, .hub 0, false, 0, 5, [], D2DLink.initial, inv_of_ok (by decide +kernel), by decide +kernel⟩

theorem witness_DieConnectionsResendAndGiveUp_2 : ∃ (s : State) (d : Fin 4) (training away : Bool) (cws : List Nat),
    s.Inv ∧
    (training = true ∨ (s.d2dSpent (d2dDir (.ring d) away)).isSome = true) :=
  ⟨up, 0, true, false, [0], inv_of_ok (by decide +kernel), by decide +kernel⟩

theorem witness_DieConnectionsResendAndGiveUp_2_spent : ∃ (s : State) (d : Fin 4) (training away : Bool) (cws : List Nat),
    s.Inv ∧
    (training = true ∨ (s.d2dSpent (d2dDir (.ring d) away)).isSome = true) :=
  ⟨(spentAt 8), 0, false, false, [0], inv_of_ok (by decide +kernel), by decide +kernel⟩

theorem witness_DieConnectionsResendAndGiveUp_3 : ∃ (s : State) (d : Fin 4) (away : Bool) (cws : List Nat),
    (s.d2dSpent (d2dDir (.hub d) away)).isSome = true :=
  ⟨(spentAt 0), 0, false, [0], by decide +kernel⟩

theorem witness_TheStashKeepsOrDropsAnEntry_1 : ∃ (s u : State) (q n : Nat) (c : Cmd),
    s.Inv ∧
    s.Operands [(c.u 16 8, 64)] (s.tdOk (c.u 16 8)) (s.tdAt (c.u 16 8)).ranges [] ∧
    u = (s.newStash c.step).applyRegion ∧
    s.cmd q = some c ∧
    c.opcode = 0x28 ∧
    c.stage = .started ∧
    c.tainted = false ∧
    s.entry c.step c.mb c.block = none ∧
    c.block % u.ham.stride = 0 ∧
    n = (s.stashData c).bytes.length ∧
    u.fits s.ham.stored (unitsFor n) = true ∧
    (∀ e ∈ s.ham.entries, e.number ≠ s.ham.stored) ∧
    (u.regionUsed + 4096 * unitsFor n) * 16 ≤ u.ham.spillHigh * (u.ham.size * 2 ^ 30) :=
  ⟨stashing, (stashing.newStash 0).applyRegion, 0, 64, stash 0, inv_of_ok (by decide +kernel), operands_intro (by
    decide +kernel), rfl, by decide +kernel⟩

theorem witness_TheStashKeepsOrDropsAnEntry_2 : ∃ (s : State) (q : Nat) (c : Cmd),
    s.Inv ∧
    s.Operands [(c.u 16 8, 64)] (s.tdOk (c.u 16 8)) (s.tdAt (c.u 16 8)).ranges [] ∧
    s.cmd q = some c ∧
    c.opcode = 0x28 ∧
    c.stage = .started ∧
    c.tainted = false ∧
    s.entry c.step c.mb c.block = none ∧
    c.block % ((s.newStash c.step).applyRegion).ham.stride ≠ 0 :=
  ⟨{ (up.withCmds [stash 1]).withMem (tensors 1 0) with ham := { Hamper.initial with newestStash := some 0, stride := 2 } },
    0, stash 1, inv_of_ok (by decide +kernel), operands_intro (by decide +kernel), by decide +kernel⟩

theorem witness_TheStashKeepsOrDropsAnEntry_3 : ∃ (s : State) (m : Master) (v : W32),
    s.owns m = true ∧
    s.regLands m = true :=
  ⟨up, .host, 0x00000060, by decide +kernel⟩

theorem witness_TheStashKeepsOrDropsAnEntry_4 : ∃ (s : State) (off size : Nat),
    s.ham.pending = some (off, size) :=
  ⟨{ up with ham := { Hamper.initial with pending := some (0, 448) } }, 0, 448, by decide +kernel⟩

theorem witness_HeldEntriesAreRestored_1 : ∃ (s u : State) (q : Nat) (c : Cmd) (e : HamperEntry) (o : Td),
    s.Inv ∧
    s.runnable q 0x29 = some c ∧
    s.entry c.step c.mb c.block = some e ∧
    s.heldBack e.ranges = false ∧
    (e.place ≠ .spilled ∨ (e.reading = false ∧ s.fits e.number (unitsFor e.size) = false)) ∧
    o = tdOf e.src ∧
    s.openOut c.step o = some u ∧
    (e.units = [] → u.rdFail e.window e.size = none) ∧
    u.entryLost e = none ∧
    u.writeFail o.ranges = none :=
  ⟨(hampered (entryOf .resident [region]) (command 0x29 [])), (hampered (entryOf .resident [region]) (command 0x29 [])), 0,
    command 0x29 [], entryOf .resident [region], tdOf (bytesOf 64 [(0, 0x4000), (16, 1), (24, 32), (38, 1)]), inv_of_ok (by
    decide +kernel), by decide +kernel⟩

theorem witness_HeldEntriesAreRestored_2 : ∃ (s : State) (q : Nat) (c : Cmd) (e : HamperEntry),
    s.Inv ∧
    s.runnable q 0x29 = some c ∧
    s.entry c.step c.mb c.block = some e ∧
    s.heldBack e.ranges = false ∧
    e.place = .spilled ∧
    (e.reading = true ∨ s.fits e.number (unitsFor e.size) = true) ∧
    (s.openOut c.step (tdOf e.src)).isSome = true ∧
    (s.chan s.ham.spillChannel).queue = [] ∧
    (s.chan s.ham.spillChannel).current = none :=
  ⟨(hampered (entryOf .spilled []) (command 0x29 [])), 0, command 0x29 [], entryOf .spilled [], inv_of_ok (by
    decide +kernel), by decide +kernel⟩

theorem witness_HeldEntriesAreRestored_3 : ∃ (s : State) (q : Nat) (c : Cmd),
    s.runnable q 0x29 = some c ∧
    s.entry c.step c.mb c.block = none ∧
    s.ham.gone.contains c.key = true :=
  ⟨{ up.withCmds [command 0x29 []] with ham := { Hamper.initial with gone := [(0, 0, 0)] } }, 0, command 0x29 [], by
    decide +kernel⟩

theorem witness_HeldEntriesAreRestored_4 : ∃ (s u : State) (q : Nat) (c : Cmd) (e : HamperEntry) (o : Td),
    s.Inv ∧
    s.runnable q 0x2A = some c ∧
    s.sourceEntry c = some e ∧
    s.heldBack e.ranges = false ∧
    (e.place ≠ .spilled ∨ (e.reading = false ∧ s.fits e.number (unitsFor e.size) = false)) ∧
    o = tdOf e.src ∧
    s.openOut c.step o = some u ∧
    (e.units = [] → u.rdFail e.window e.size = none) ∧
    u.entryLost e = none ∧
    u.writeFail o.ranges = none ∧
    s.copies q = [] :=
  ⟨(hampered (entryOf .resident [region]) (command 0x2A [])), (hampered (entryOf .resident [region]) (command 0x2A [])), 0,
    command 0x2A [], entryOf .resident [region], tdOf (bytesOf 64 [(0, 0x4000), (16, 1), (24, 32), (38, 1)]), inv_of_ok (by
    decide +kernel), by decide +kernel⟩

theorem witness_HeldEntriesAreRestored_5 : ∃ (s : State) (c : Fin 64) (it : MoverItem) (e : HamperEntry) (w n : Nat),
    s.Inv ∧
    (s.chan c.val).current = some it ∧
    it.kind = .spill e.number ∧
    s.spillEntry e.number = some e ∧
    (∀ x ∈ s.ham.entries, x.number = e.number → x = e) ∧
    (s.chan c.val).queue = [] ∧
    w = e.window ∧
    n = 4096 * e.units.length ∧
    s.heldBack ((w, n) :: e.units.map fun a => (a, 4096)) = false ∧
    s.rdFails (e.units.map fun a => (a, 4096)) = none ∧
    s.rdFail w n = none ∧
    isHost w = true ∧
    w + n ≤ 2 ^ 64 ∧
    (∀ d ∈ s.hg.cmds, d.opcode ≠ 0x28 ∨ d.stage ≠ .running) ∧
    s.regionUsed * 16 ≤ s.ham.spillHigh * (s.ham.size * 2 ^ 30) + 16 * n :=
  ⟨{ hampered (entryOf .spilling [region]) (stash 0) with mv := [(0, { Channel.initial with current := some (spillItem (.spill 0) none 0) })] }, 0, spillItem (.spill 0) none 0, entryOf .spilling [region], 2 ^ 63, 4096, inv_of_ok (by decide +kernel), by decide +kernel⟩

theorem witness_TheApertureReadsAndWritesDeviceMemory_2 : ∃ (s : State) (m : Master) (off : W64) (data : List Byte) (a :
  Nat) (open_ : Nat → Prop),
    s.Inv ∧
    (∀ j, open_ j ↔ ∃ st o, placeOf s.ms.interleave (j / 4096 * 4096) = .stack st o ∧ s.inHamper o = false) ∧
    s.apertureAt m off.toNat data.length = some a :=
  ⟨opened, .host, 0x1000, [1, 2], 0x1000, isOpenBlock opened, inv_of_ok (by decide +kernel), fun _ => Iff.rfl, by
    decide +kernel⟩

theorem witness_TheApertureReadsAndWritesDeviceMemory_3 : ∃ (s : State) (m : Master) (off : W64) (data : List Byte),
    s.apertureAt m off.toNat data.length = none :=
  ⟨up, .host, 0, [1], by decide +kernel⟩

theorem witness_TheApertureReadsAndWritesDeviceMemory_4 : ∃ (s : State) (m : Master) (off : W64) (n : Fin 4097) (data : List
  Byte),
    (m = .bmc ∨ (m = .debug ∧ (s.tb.debugUnlocked = false ∨ bitAt s.tb.debugScope 1 = false ∨ s.owns .debug = false))) :=
  ⟨up, .debug, 0, 0, [1], by decide +kernel⟩

theorem witness_TheApertureReadsAndWritesDeviceMemory_1 : ∃ (s : State) (m : Master) (off : W64) (n : Fin 4097),
    (m = .host ∨ s.aperturePath m = true) :=
  ⟨up, .host, 0, 0, by decide +kernel⟩

theorem witness_TheApertureReadsAndWritesDeviceMemory_1_b : ∃ (s : State) (m : Master) (off : W64) (n : Fin 4097),
    (m = .host ∨ s.aperturePath m = true) :=
  ⟨debugOwns, .debug, 0, 0, by decide +kernel⟩

theorem witness_ScrubsCorrectAndPoison_1 : ∃ (s : State) (k : Fin 13) (e : Env),
    s.Inv ∧
    (s.ld.pwr = .a0 ∨ s.ld.pwr = .a1) ∧
    s.patrolReady k.val = true ∧
    (s.applyEnv e).fld 0x1000020 0 8 ≠ 0 :=
  ⟨up, 0, quiet, inv_of_ok (by decide +kernel), by decide +kernel⟩

theorem witness_ScrubsCorrectAndPoison_2 : ∃ (s : State) (st : Fin 8) (pch : Fin 64),
    s.Inv ∧
    s.ms.targeted.contains { stack := st.val, pch := pch.val } = true :=
  ⟨memUp, 7, 63, inv_of_ok (by decide +kernel), by decide +kernel⟩

theorem witness_ScrubsCorrectAndPoison_3 : ∃ (s : State) (st : Fin 8) (pch : Fin 64) (row : Fin 1048576),
    s.Inv ∧
    (s.ms.remapping.any fun r => r.stack == st.val && r.pch == pch.val && r.row == row.val) = true :=
  ⟨memUp, 7, 63, 5, inv_of_ok (by decide +kernel), by decide +kernel⟩

theorem witness_ZeroedMemoryReadsZeroAndIsReady_1 : ∃ (s : State) (st : Fin 8),
    s.ld.pwr ≠ .a3 ∧
    s.isReady (.stack st) = false ∧
    s.failedKey (funcKey (.stack st)) = false :=
  ⟨up, 7, by decide +kernel⟩

theorem witness_ZeroedMemoryReadsZeroAndIsReady_2 : ∃ (s : State) (k : Fin 5),
    s.ld.pwr ≠ .a3 ∧
    s.readyKey (38 + k.val) = false ∧
    s.failedKey (38 + k.val) = false :=
  ⟨up, 4, by decide +kernel⟩

theorem witness_RegisterAccessesTakeEffectWhole_1 : ∃ (s : State) (m : Master) (off : Nat) (wide : Bool) (v : W64) (r :
  RegRow) (i : Nat),
    s.Inv ∧
    findRow regRows off = some (r, i) ∧
    ixOf 0x801020 0x40 64 off = none ∧
    ixOf 0xC01000 0x40 64 off = none ∧
    ixOf 0x2001008 0x40 12 off = none ∧
    ixOf 0x2800800 0x40 5 off = none ∧
    off ≠ 0x2800060 ∧
    off < 0x2C00000 ∧
    off % (if wide then 8 else 4) = 0 ∧
    (s.reachedBy m).isWide m off = wide ∧
    (wide = false → 4 ≤ off → (s.reachedBy m).isWide m (off - 4) = false) :=
  ⟨up, .host, 0x18, true, 5, ⟨0x18, 0, 1, true, .module, 0x000A_0000_0000, 0, 0xFFFF_0000_0000, .owner⟩, 0, inv_of_ok (by
    decide +kernel), by decide +kernel⟩

theorem witness_RegisterAccessesTakeEffectWhole_1_narrow : ∃ (s : State) (m : Master) (off : Nat) (wide : Bool) (v : W64) (r
  : RegRow) (i : Nat),
    s.Inv ∧
    findRow regRows off = some (r, i) ∧
    ixOf 0x801020 0x40 64 off = none ∧
    ixOf 0xC01000 0x40 64 off = none ∧
    ixOf 0x2001008 0x40 12 off = none ∧
    ixOf 0x2800800 0x40 5 off = none ∧
    off ≠ 0x2800060 ∧
    off < 0x2C00000 ∧
    off % (if wide then 8 else 4) = 0 ∧
    (s.reachedBy m).isWide m off = wide ∧
    (wide = false → 4 ≤ off → (s.reachedBy m).isWide m (off - 4) = false) :=
  ⟨up, .host, 0x28, false, 5, ⟨0x28, 0, 1, false, .module, 0x32, 0, 0xFFFF_FFFF, .owner⟩, 0, inv_of_ok (by decide +kernel),
    by decide +kernel⟩

theorem witness_RegisterAccessesTakeEffectWhole_2 : ∃ (s : State) (m : Master) (off : Nat) (lo hi : W64) (r : RegRow) (i :
  Nat),
    s.Inv ∧
    (∀ u : State, u.isWide m off = true) ∧
    (∀ u : State, u.isWide m (off + 4) = false) ∧
    findRow regRows off = some (r, i) ∧
    ixOf 0x801020 0x40 64 off = none ∧
    ixOf 0xC01000 0x40 64 off = none ∧
    ixOf 0x2001008 0x40 12 off = none ∧
    ixOf 0x2800800 0x40 5 off = none ∧
    off ≠ 0x2800060 ∧
    off < 0x2BFFFF8 ∧
    off % 8 = 0 ∧
    s.mayWrite m r.writer = true ∧
    (off < 0x400000 ∨ s.regLands m = true) ∧
    s.regPath m = true ∧
    s.ringLocked off = false :=
  ⟨up, .host, 0x18, 5, 6, ⟨0x18, 0, 1, true, .module, 0x000A_0000_0000, 0, 0xFFFF_0000_0000, .owner⟩, 0, inv_of_ok (by
    decide +kernel), fun _ => rfl, fun _ => rfl, by decide +kernel⟩

theorem witness_RegisterAccessesTakeEffectWhole_4 : ∃ (s : State) (m : Master) (off : Nat),
    off < 0x2C00000 ∧
    off % 8 = 0 ∧
    ((s.reachedBy m).readReg m off).wide = true :=
  ⟨up, .host, 0x18, by decide +kernel⟩

theorem witness_RegisterAccessesTakeEffectWhole_5 : ∃ (s : State) (m : Master) (off : Nat) (lo : W64),
    off < 0x2C00000 ∧
    off % 4 = 0 ∧
    (s.reachedBy m).isWide m off = true ∧
    (s.reachedBy m).writeLands m off = false :=
  ⟨up, .bmc, 0x18, 5, by decide +kernel⟩

theorem witness_RegisterAccessesTakeEffectWhole_3 : ∃ (s : State) (m : Master) (off : Nat),
    (∀ u : State, (u.readReg m off).wide = true) ∧
    (∀ u : State, (u.readReg m (off + 4)).wide = false) ∧
    off < 0x2BFFFF8 ∧
    off % 8 = 0 :=
  ⟨up, .host, 0x18, fun _ => rfl, fun _ => rfl, by decide +kernel⟩

theorem witness_InterruptWritesChangeTheSourcesTheyName_1 : ∃ (s : State) (m : Master) (b : IcBank) (v : W32),
    s.Inv ∧
    s.regLands m = true :=
  ⟨up, .host, .normal 12, 0x40, inv_of_ok (by decide +kernel), by decide +kernel⟩

theorem witness_InterruptWritesChangeTheSourcesTheyName_2 : ∃ (s : State) (m : Master) (b : IcBank) (v : W32),
    s.Inv ∧
    s.regLands m = true :=
  ⟨up, .host, .fast, 0x40, inv_of_ok (by decide +kernel), by decide +kernel⟩

theorem witness_InterruptWritesChangeTheSourcesTheyName_3 : ∃ (s : State) (m : Master) (b : IcBank) (v : W32),
    s.Inv ∧
    s.regLands m = true :=
  ⟨up, .host, .normal 0, 0x40, inv_of_ok (by decide +kernel), by decide +kernel⟩

theorem witness_InterruptWritesChangeTheSourcesTheyName_4 : ∃ (s : State) (m : Master) (b : IcBank) (v : W32),
    s.Inv ∧
    s.regLands m = true :=
  ⟨up, .host, .normal 15, 0x40, inv_of_ok (by decide +kernel), by decide +kernel⟩

theorem witness_InterruptWritesChangeTheSourcesTheyName_5 : ∃ (s : State) (m : Master) (v : W32),
    s.Inv ∧
    s.owns m = true ∧
    s.regLands m = true :=
  ⟨up, .host, 0x000100C6, inv_of_ok (by decide +kernel), by decide +kernel⟩

theorem witness_PcieWritesTakeEffect_1 : ∃ (s : State) (w : MsixWrite),
    s.Inv :=
  ⟨up, .enable true, inv_of_ok (by decide +kernel)⟩

theorem witness_PcieWritesTakeEffect_2 : ∃ (s : State) (w : CfgWrite),
    s.Inv ∧
    s.ld.pwr ≠ .a3 :=
  ⟨up, .bar4Size 6, inv_of_ok (by decide +kernel), by decide +kernel⟩

theorem witness_PcieWritesTakeEffect_3 : ∃ (s : State) (a st : Fin 128),
    s.ld.aux = true :=
  ⟨up, 0x08, 0x50, by decide +kernel⟩

/-! ### Power -/

/-- `up` in power state `p`. -/
def powered (p : Power) : State := { up with ld := { up.ld with pwr := p } }
def warm : Reading := { num := 40, den := 1 }
def load : Load := { draw := 80, queued := 160 }
def sample : GovSample :=
  { tj0 := warm, tj1 := warm, tj2 := warm, tj3 := warm, tjHub := warm, coolIn := warm, coolOut := warm, vin := { num := 54, den := 1 }
    pin := { num := 500, den := 1 }, ppkg := { num := 400, den := 1 }, vaux := { num := 12, den := 1 }, hub := 320, mc := load
    af := load, ms := load, vn := load }

/-! ### Trust Block -/

/-- A started critical command on a host ring, and the call that it makes. -/
def critAt (boot : Nat) (c : Cmd) (mem : List (Nat × Nat × Nat)) : State :=
  { (up.withCmds [c]).withMem mem with tb := { up.tb with boot := boot } }
def call (c : Cmd) : CritCall := { m := .host, slot := c.slot, slot2 := [], extra := [], seq := some 0 }
def claimPending : ClaimPending :=
  { master := .host, seq := some 0, addr := 0x1000, response := [1, 2], key := [3], decidedAt := 0 }
def fwPending : FwPending := { seq := 0, failing := none, failAddr := 0, digest := [1], svn := 2 }
def run (op : Nat) : Cmd := { command op [(16, 0x1000)] with stage := .running }

/-- A connection on which version, capabilities and algorithms are agreed as far as told. -/
def conn (v c a h s : Bool) : SpdmConn :=
  { SpdmConn.initial with versionDone := v, capsDone := c, algsDone := a, handshake := h, secured := s }
def spdm (c : SpdmConn) : State := { up with tb := { up.tb with spdmDoe := c } }
def req (code n : Nat) : List Byte := bytesOf n [(0, 0x12), (1, code)]
/-- KEY_EXCHANGE with the generator of the curve as the requester's exchange data. -/
def keyReq : List Byte := (req 0xE4 174).take 40 ++ ecOctets (ecGx, ecGy) ++ [0, 0]

/-! ### Observation -/

def cntrCmd (op : Nat) : Cmd := command 0x41 [(16, op), (24, if op = 0 then 0 else 0x10000), (32, 0x01)]
def bad (codes : List Nat) (s : State) (i : Nat) : Prop :=
  i < 16 ∧ (listedCode (codes.getD i 0) = false ∨ (classU (codes.getD i 0) = true ∧ bitAt s.permit 1 = false))
def oneCode : List Nat := 1 :: List.replicate 15 0
/-- A Logbook that holds `n` records behind its trigger. -/
def logOf (n : Nat) : Logbook := { Logbook.initial with state := 2, mode := 2, triggered := true, records := List.replicate n [] }
theorem logOf_full (n : Nat) : (logOf n).full n = true := by simp [logOf, Logbook.full]
def logged : State := { up with im := { Integrity.initial with logs := [(0, logOf 262144)] } }

/-- A Logbook that lost `n` records, the last long ago, and has room again. -/
def lossy (n : Nat) : Logbook := { Logbook.initial with state := 2, mode := 2, triggered := true, pendingLoss := n }

theorem witness_SuppliesAndResetsReachTheirStates_1 : ∃ (s : State) (pins : Fin 16),
    s.ld.aux = false :=
  ⟨State.reset, 15, by decide +kernel⟩

theorem witness_SuppliesAndResetsReachTheirStates_2 : ∃ (s : State),
    s.ld.aux = true :=
  ⟨up, by decide +kernel⟩

theorem witness_SuppliesAndResetsReachTheirStates_3 : ∃ (s : State),
    s.ld.main = false :=
  ⟨State.reset, by decide +kernel⟩

theorem witness_SuppliesAndResetsReachTheirStates_6 : ∃ (s : State) (pins : Fin 16) (cool : Bool),
    s.ld.perst = true ∧
    s.ld.aux = true ∧
    s.ld.pwr = .a3 ∧
    s.ld.main = true ∧
    s.ld.mainAt < s.now :=
  ⟨{ State.reset with ld := { Lantern.initial with aux := true, main := true, time := 1 } }, 15, false, by decide +kernel⟩

theorem witness_SuppliesAndResetsReachTheirStates_7 : ∃ (s : State),
    s.Inv ∧
    s.ld.pwr ≠ .a3 :=
  ⟨(powered .a2), inv_of_ok (by decide +kernel), by decide +kernel⟩

theorem witness_SuppliesAndResetsReachTheirStates_8 : ∃ (s : State) (m : Master) (v : W32),
    bitAt v.toNat 0 = true ∧
    s.regPath m = true ∧
    s.ld.pwr ≠ .a3 ∧
    (s.owns m = true ∨ (m = .bmc ∧ s.tb.own = .vacant)) :=
  ⟨up, .host, 1, by decide +kernel⟩

theorem witness_SuppliesAndResetsReachTheirStates_9 : ∃ (s : State),
    s.Inv ∧
    s.ld.resetPending = true ∧
    s.ld.pwr ≠ .a3 :=
  ⟨{ up with ld := { up.ld with resetPending := true } }, inv_of_ok (by decide +kernel), by decide +kernel⟩

theorem witness_SuppliesAndResetsReachTheirStates_10 : ∃ (s : State),
    s.ld.pwr ≠ .a3 :=
  ⟨(powered .a1), by decide +kernel⟩

theorem witness_PowerAndLinkStatesFollowTheirEvents_1 : ∃ (s : State),
    s.ld.pwr = .a0 ∧
    s.commandWork = false ∧
    s.ld.lastWork + s.idleUs * 1000 < s.now :=
  ⟨up, by decide +kernel⟩

theorem witness_PowerAndLinkStatesFollowTheirEvents_3 : ∃ (s : State),
    s.Inv ∧
    s.ld.pwr = .a2 ∧
    s.ld.waking = true :=
  ⟨{ up with ld := { up.ld with pwr := .a2, waking := true } }, inv_of_ok (by decide +kernel), by decide +kernel⟩

theorem witness_PowerAndLinkStatesFollowTheirEvents_4 : ∃ (s : State),
    s.ld.pwr ≠ .a3 :=
  ⟨up, by decide +kernel⟩

theorem witness_PowerAndLinkStatesFollowTheirEvents_5 : ∃ (s : State),
    s.ld.d3hot = true :=
  ⟨{ up with ld := { up.ld with d3hot := true } }, by decide +kernel⟩

theorem witness_PowerAndLinkStatesFollowTheirEvents_6 : ∃ (s : State),
    s.ld.d3hot = true ∧
    s.ld.pwr ≠ .a3 :=
  ⟨{ up with ld := { up.ld with d3hot := true } }, by decide +kernel⟩

theorem witness_PowerAndLinkStatesFollowTheirEvents_7 : ∃ (s : State) (sub : Bool),
    (s.ld.pwr = .a1 ∨ s.ld.pwr = .a2) ∧
    s.pcie.aspm = true ∧
    (s.ld.link = .l0 ∨ s.ld.link = .l0p) ∧
    s.ld.lastLink + 10000 < s.now :=
  ⟨{ powered .a1 with pcie := { Pcie.initial with aspm := true } }, true, by decide +kernel⟩

theorem witness_LanternGovernsTimeClocksAndPower_1 : ∃ (s : State) (d : Domain),
    (s.ld.pwr = .a0 ∨ s.ld.pwr = .a1) ∧
    domKey d ∈ s.starting :=
  ⟨{ up with ld := { up.ld with dawnQueue := [(0, 100)] } }, .bank 0 0, by decide +kernel⟩

theorem witness_LanternGovernsTimeClocksAndPower_2 : ∃ (s : State) (d : Domain),
    s.Inv ∧
    (s.dom (domKey d)).running = true ∧
    s.domBusy (domKey d) = false ∧
    s.pllIdle ≠ 0 ∧
    (s.dom (domKey d)).idleSince + s.pllIdle * 100000 < s.now :=
  ⟨{ up with ld := { up.ld with domains := [(100, { running := true, idleSince := 0 })] } }, .bank 0 0, inv_of_ok (by
    decide +kernel), by decide +kernel⟩

theorem witness_LanternGovernsTimeClocksAndPower_3 : ∃ (s : State) (host : W64) (o : Int),
    s.ld.ptmEnabled = true ∧
    s.ld.aux = true ∧
    s.ld.ptmLast + s.ptmIntervalMs * 1000000 ≤ s.now ∧
    o = (host.toNat : Int) - (s.now : Int) :=
  ⟨{ up with ld := { up.ld with ptmEnabled := true } }, 5, -9999999995, by decide +kernel⟩

theorem witness_LanternGovernsTimeClocksAndPower_4 : ∃ (s : State),
    s.ld.ptmLast + 1000000000 < s.now :=
  ⟨up, by decide +kernel⟩

theorem witness_LanternGovernsTimeClocksAndPower_5 : ∃ (s : State) (g : GovSample) (tj : List Reading) (th : Nat),
    s.ld.aux = true ∧
    s.ld.lastSample + 10000 ≤ s.now ∧
    tj = [g.tj0, g.tj1, g.tj2, g.tj3, g.tjHub] ∧
    th = (if (tj.any fun r => atLeast r s.throttleC) = true then max 365 (s.ld.thermalW - 10) else if (tj.all fun r =>
      !isAbove r ((s.throttleC : Int) - 3)) = true then min 910 (s.ld.thermalW + 5) else s.ld.thermalW) :=
  ⟨up, sample, [warm, warm, warm, warm, warm], 910, by decide +kernel⟩

theorem witness_LanternGovernsTimeClocksAndPower_6 : ∃ (s : State),
    s.ld.pwrbrk = false :=
  ⟨up, by decide +kernel⟩

theorem witness_LanternGovernsTimeClocksAndPower_7 : ∃ (s : State),
    s.ld.pwrbrk = true :=
  ⟨{ up with ld := { up.ld with pwrbrk := true } }, by decide +kernel⟩

theorem witness_LanternGovernsTimeClocksAndPower_8 : ∃ (s : State) (die : Fin 5),
    s.ld.aux = true ∧
    s.ld.thermtrip = false :=
  ⟨up, 4, by decide +kernel⟩

theorem witness_FunctionsComeUpInOrder_1 : ∃ (s : State) (ok : Bool),
    s.tb.boot = 0 ∧
    s.ld.pwr ≠ .a3 :=
  ⟨{ up with tb := Trust.initial 0 }, true, by decide +kernel⟩

theorem witness_FunctionsComeUpInOrder_2 : ∃ (s : State) (f : Func) (ok : Bool),
    s.ld.pwr ≠ .a3 ∧
    s.isReady f = false ∧
    s.failedKey (funcKey f) = false :=
  ⟨up, .bank 3 31, true, by decide +kernel⟩

theorem witness_OwnershipBeginsMovesAndEnds_1 : ∃ (s u : State) (x : Crit) (k : CritCall) (b : List Byte),
    u = (if k.seq.isNone then s.reachedBy k.m else s) ∧
    b = u.critBlock k (k.u 16 8) 512 ∧
    s.critCall x 0x60 = some k ∧
    u.critGate k true = none ∧
    (k.seq = none → u.readyKey 2 = true) ∧
    (k.seq.isSome = true → k.u 16 8 % 64 = 0 ∧ u.rangeBad (k.u 16 8) 1024 = false) ∧
    u.critReadFail k (k.u 16 8) 512 = none ∧
    claimForm b = true ∧
    u.claimWins k.m = true :=
  ⟨(critAt 3 (command 0x60 [(16, 0x1000)]) [(0x1000, 4, 1)]), (critAt 3 (command 0x60 [(16, 0x1000)]) [(0x1000, 4, 1)]),
    .ring 0, call (command 0x60 [(16, 0x1000)]), (critAt 3 (command 0x60 [(16, 0x1000)]) [(0x1000, 4, 1)]).rd 0x1000 512,
    rfl, rfl, by decide +kernel⟩

theorem witness_OwnershipBeginsMovesAndEnds_2 : ∃ (s u : State) (x : Crit) (k : CritCall),
    s.critCall x 0x60 = some k ∧
    k.seq = none ∧
    u = s.reachedBy k.m ∧
    u.critGate k true = none ∧
    s.readyKey 2 = false :=
  ⟨{ up with ld := { up.ld with ready := [] } }, ({ up with ld := { up.ld with ready := [] } } : State).reachedBy .bmc,
    .mctp (bytesOf 128 [(0, 0x60)]) [],
    { m := .bmc, slot := (bytesOf 128 [(0, 0x60)]).take 64, slot2 := (bytesOf 128 [(0, 0x60)]).drop 64, extra := [], seq := none }, by decide +kernel⟩

theorem witness_OwnershipBeginsMovesAndEnds_3 : ∃ (s : State) (p : ClaimPending),
    s.Inv ∧
    (∀ q, p.seq = some q → (s.cmd q).isSome = true) ∧
    s.tb.claim = some p ∧
    (p.seq.isSome = true → s.rdFail (p.addr + 512) 512 = none) ∧
    (∀ i < p.response.length, isHost (p.addr + 512 + i) = isHost (p.addr + 512)) :=
  ⟨{ up.withCmds [run 0x60] with tb := { up.tb with claim := some claimPending } }, claimPending, inv_of_ok (by
    decide +kernel), (by intro q h; cases h; decide +kernel), by decide +kernel⟩

theorem witness_OwnershipBeginsMovesAndEnds_4 : ∃ (s u : State) (x : Crit) (k : CritCall) (m : Master),
    u = (if k.seq.isNone then s.reachedBy k.m else s) ∧
    s.critCall x 0x61 = some k ∧
    u.critGate k false = none ∧
    m = masterOf (k.u 16 1) ∧
    ¬ (m = .debug ∧ s.tb.debugUnlocked = false) ∧
    ¬ (m = .host ∧ s.ideLacking = true) :=
  ⟨(critAt 3 (command 0x61 [(16, 1)]) []), (critAt 3 (command 0x61 [(16, 1)]) []), .ring 0, call (command 0x61 [(16, 1)]),
    .bmc, rfl, by decide +kernel⟩

theorem witness_OwnershipBeginsMovesAndEnds_5 : ∃ (s : State) (m : Master),
    s.tb.own = .owned m ∧
    s.tb.claim = none ∧
    s.leaseEnd < s.now :=
  ⟨up, .host, by decide +kernel⟩

theorem witness_OwnershipBeginsMovesAndEnds_6 : ∃ (s : State) (m : Master) (e : Nat),
    s.tb.own = .handover m e ∧
    s.tb.claim = none ∧
    e < s.now :=
  ⟨{ up with tb := { up.tb with own := .handover .bmc 5 } }, .bmc, 5, by decide +kernel⟩

theorem witness_OwnershipBeginsMovesAndEnds_8 : ∃ (s : State) (keys : List Byte),
    s.tb.spdmDoe.secured = true :=
  ⟨{ up with tb := { up.tb with spdmDoe := { SpdmConn.initial with secured := true } } }, [1], by decide +kernel⟩

theorem witness_AcceptedCriticalCommandsTakeEffect_1 : ∃ (s u : State) (x : Crit) (k : CritCall),
    u = (if k.seq.isNone then s.reachedBy k.m else s) ∧
    s.critCall x 0x62 = some k ∧
    u.critGate k false = none :=
  ⟨(critAt 3 (command 0x62 []) []), (critAt 3 (command 0x62 []) []), .ring 0, call (command 0x62 []), rfl, by decide +kernel⟩

theorem witness_AcceptedCriticalCommandsTakeEffect_2 : ∃ (s u : State) (x : Crit) (k : CritCall),
    s.Inv ∧
    u = (if k.seq.isNone then s.reachedBy k.m else s) ∧
    s.critCall x 0x65 = some k ∧
    u.critGate k false = none :=
  ⟨(critAt 3 (command 0x65 [(16, 63), (17, 16)]) []), (critAt 3 (command 0x65 [(16, 63), (17, 16)]) []), .ring 0,
    call (command 0x65 [(16, 63), (17, 16)]), inv_of_ok (by decide +kernel), rfl, by decide +kernel⟩

theorem witness_AcceptedCriticalCommandsTakeEffect_3 : ∃ (s u : State) (x : Crit) (k : CritCall),
    u = (if k.seq.isNone then s.reachedBy k.m else s) ∧
    s.critCall x 0x66 = some k ∧
    u.critGate k false = none :=
  ⟨(critAt 3 (command 0x66 [(16, 450), (18, 3072)]) []), (critAt 3 (command 0x66 [(16, 450), (18, 3072)]) []), .ring 0,
    call (command 0x66 [(16, 450), (18, 3072)]), rfl, by decide +kernel⟩

theorem witness_AcceptedCriticalCommandsTakeEffect_5 : ∃ (s u : State) (x : Crit) (k : CritCall),
    u = (if k.seq.isNone then s.reachedBy k.m else s) ∧
    s.critCall x 0x67 = some k ∧
    u.critGate k false = none ∧
    k.isLock = true :=
  ⟨(critAt 3 (command 0x67 []) []), (critAt 3 (command 0x67 []) []), .ring 0, call (command 0x67 []), rfl, by decide +kernel⟩

theorem witness_AcceptedCriticalCommandsTakeEffect_6 : ∃ (s u : State) (x : Crit) (k : CritCall),
    u = (if k.seq.isNone then s.reachedBy k.m else s) ∧
    ((∀ q, x ≠ .ring q) → s.quietAll = true) ∧
    s.critCall x 0x68 = some k ∧
    u.critGate k (s.saniOpen k) = none :=
  ⟨(critAt 3 (command 0x68 [(16, 15)]) []), (critAt 3 (command 0x68 [(16, 15)]) []), .ring 0,
    call (command 0x68 [(16, 15)]), rfl, fun h => absurd rfl (h 0), by decide +kernel⟩

theorem witness_AcceptedCriticalCommandsTakeEffect_4 : ∃ (s u : State) (x : Crit) (k : CritCall) (b : List Byte),
    u = (if k.seq.isNone then s.reachedBy k.m else s) ∧
    s.critCall x 0x67 = some k ∧
    u.critGate k false = none ∧
    k.isLock = false ∧
    (k.seq.isSome = true → u.rangeBad (k.u 16 8) 512 = false) ∧
    u.critReadFail k (k.u 16 8) 512 = none ∧
    b = u.critBlock k (k.u 16 8) 512 :=
  ⟨(critAt 3 (command 0x67 [(16, 0x1000)]) []), (critAt 3 (command 0x67 [(16, 0x1000)]) []), .ring 0,
    call (command 0x67 [(16, 0x1000)]), List.replicate 512 0, rfl, by decide +kernel⟩

theorem witness_AcceptedCriticalCommandsTakeEffect_7 : ∃ (s : State) (ex : List Byte),
    s.writesLand = true ∧ s.tb.boot ≠ 2 ∧ (∀ e, s.tb.session = some e → e.master ≠ .bmc) ∧
    ∀ op ∈ [0x61, 0x62, 0x65, 0x66, 0x67], ∃ sl : List Byte, (sl.getD 0 0).toNat = op :=
  ⟨up, [], by decide, by decide, (by intro e h; cases h), fun op h => ⟨[BitVec.ofNat 8 op], by
    simp only [List.mem_cons, List.not_mem_nil, or_false] at h; rcases h with rfl | rfl | rfl | rfl | rfl <;> rfl⟩⟩

theorem witness_FirmwareAndCertificatesAreLoaded_1 : ∃ (s : State) (q : Nat) (c : Cmd),
    s.runnable q 0x63 = some c ∧
    s.tb.boot = 1 ∧
    isHost (c.u 16 8) = true :=
  ⟨(critAt 1 (command 0x63 [(16, 2 ^ 63), (24, 4229)]) []), 0, command 0x63 [(16, 2 ^ 63), (24, 4229)], by decide +kernel⟩

theorem witness_FirmwareAndCertificatesAreLoaded_2 : ∃ (s u : State) (x : Crit) (k : CritCall),
    k.seq = none ∧
    s.critCall x 0x63 = some k ∧
    u = (if k.seq.isNone then s.reachedBy k.m else s) ∧
    u.critGate k true = none :=
  ⟨up, (up.reachedBy .bmc), .mctp (bytesOf 128 [(0, 0x63), (16, 2 ^ 63)]) [],
    { m := .bmc, slot := (bytesOf 128 [(0, 0x63), (16, 2 ^ 63)]).take 64, slot2 := (bytesOf 128 [(0, 0x63), (16, 2 ^ 63)]).drop 64, extra := [], seq := none }, by decide +kernel⟩

theorem witness_FirmwareAndCertificatesAreLoaded_3 : ∃ (s : State) (p : FwPending),
    s.tb.fw = some p ∧
    (s.cmd p.seq).isSome = true :=
  ⟨{ up.withCmds [run 0x63] with tb := { up.tb with fw := some fwPending } }, fwPending, by decide +kernel⟩

theorem witness_FirmwareAndCertificatesAreLoaded_4 : ∃ (s : State) (q a : Nat) (c : Cmd),
    s.runnable q 0x64 = some c ∧
    c.u 28 1 = 0 ∧
    a = c.u 16 8 ∧
    s.tb.boot = 1 ∧
    s.tb.cert = none ∧
    a % 64 = 0 ∧
    s.rangeBad a 1024 = false ∧
    c.u 24 4 = 1024 ∧
    s.rdFail a 1024 = none :=
  ⟨(critAt 1 (command 0x64 [(16, 0x1000), (24, 1024)]) []), 0, 0x1000, command 0x64 [(16, 0x1000), (24, 1024)], by
    decide +kernel⟩

theorem witness_FirmwareAndCertificatesAreLoaded_5 : ∃ (s u : State) (x : Crit) (k : CritCall) (n : Nat) (l : List (Nat ×
  Nat)),
    u = (if k.seq.isNone then s.reachedBy k.m else s) ∧
    s.critCall x 0x64 = some k ∧
    u.critGate k false = none ∧
    k.u 28 1 = 1 ∧
    n = k.u 24 4 ∧
    1 ≤ n ∧
    n ≤ 1280 ∧
    (k.seq.isSome = true → u.rangeBad (k.u 16 8) (8 * n) = false) ∧
    s.af.tensors = [] ∧
    s.im.spareMap = [] ∧
    u.critReadFail k (k.u 16 8) (8 * n) = none ∧
    l = mapEntries n (u.critBlock k (k.u 16 8) (8 * n)) ∧
    l.all entryGood = true ∧
    mapDistinct l = true :=
  ⟨(critAt 3 (command 0x64 [(16, 0x1000), (24, 1), (28, 1)]) [(0x1000, 8, 256)]),
    (critAt 3 (command 0x64 [(16, 0x1000), (24, 1), (28, 1)]) [(0x1000, 8, 256)]), .ring 0,
    call (command 0x64 [(16, 0x1000), (24, 1), (28, 1)]), 1, [(0, 256)], rfl, by decide +kernel⟩

theorem witness_SpdmAnswersEachRequest_version : ∃ (s : State) (p : SpdmPath) (r : List Byte) (early : Bool),
    early = (s.tb.boot == 3 || s.tb.boot == 1) ∧ reqByte r 1 = 0x84 ∧ reqByte r 0 = 0x10 ∧ 4 ≤ r.length ∧ early = true :=
  ⟨up, .mctp, [0x10, 0x84, 0, 0], true, by decide +kernel⟩

theorem witness_SpdmAnswersEachRequest_setup : ∀ x ∈ [(0xE1, 20, conn true false false false false),
      (0xE3, 32, conn true true false false false), (0x81, 4, conn true true true false false),
      (0x82, 8, conn true true true false false), (0x83, 36, conn true true true false false),
      (0xE0, 4, conn true true true false false), (0xE5, 68, conn true true true true false),
      (0xEC, 4, conn true true true false true)], ∃ (s : State) (r : List Byte),
    reqByte r 0 = 0x12 ∧ reqByte r 1 = x.1 ∧ x.2.1 ≤ r.length ∧ reqByte r 2 = 0 ∧ s.tb.boot = 3 ∧ s.conn .doe = x.2.2 ∧
    measureIndexes (reqByte r 3) = some [] :=
  fun x h => ⟨spdm x.2.2, req x.1 x.2.1, by
    simp only [List.mem_cons, List.not_mem_nil, or_false] at h
    rcases h with rfl | rfl | rfl | rfl | rfl | rfl | rfl | rfl <;> decide +kernel⟩

theorem witness_SpdmAnswersEachRequest_keyExchange : ∃ (s : State) (r : List Byte),
    reqByte r 0 = 0x12 ∧ reqByte r 1 = 0xE4 ∧ 174 ≤ r.length ∧ s.tb.boot = 3 ∧ (s.conn .doe).algsDone = true ∧
    (s.conn .doe).secured = false ∧ reqByte r 3 = 0 ∧ (ecPoint ((r.drop 40).take 132)).isSome = true :=
  ⟨spdm (conn true true true false false), keyReq, by decide +kernel⟩

theorem witness_ObservationCapturesAndReports_1 : ∃ (s : State) (q : Nat) (c : Cmd),
    s.Inv ∧
    s.runnable q 0x40 = some c ∧
    s.heldBack [(c.u 16 8, 0x200000)] = false ∧
    s.writeFail [(c.u 16 8, 0x200000)] = none :=
  ⟨(up.withCmds [command 0x40 [(16, 0x200000), (24, 2048)]]), 0, command 0x40 [(16, 0x200000), (24, 2048)], inv_of_ok (by
    decide +kernel), by decide +kernel⟩

theorem witness_ObservationCapturesAndReports_2 : ∃ (s : State) (q : Nat) (c : Cmd) (codes : List Nat) (bad : Nat → Prop),
    s.Inv ∧
    (∀ i, bad i ↔ i < 16 ∧ (listedCode (codes.getD i 0) = false ∨ (classU (codes.getD i 0) = true ∧ bitAt s.permit 1 =
      false))) ∧
    s.cntr q 0 = some c ∧
    codes = (List.range 16).map (fun i => c.u8 (32 + i)) :=
  ⟨(up.withCmds [cntrCmd 0]), 0, cntrCmd 0, oneCode, bad oneCode (up.withCmds [cntrCmd 0]), inv_of_ok (by decide +kernel),
    fun _ => Iff.rfl, by decide +kernel⟩

theorem witness_ObservationCapturesAndReports_3 : ∃ (s : State) (q : Nat) (c : Cmd),
    s.Inv ∧
    s.cntr q 1 = some c ∧
    s.heldBack [(c.u 24 8, 2048)] = false ∧
    s.writeFail [(c.u 24 8, 2048)] = none ∧
    (∀ i < 2048, isHost (c.u 24 8 + i) = isHost (c.u 24 8)) :=
  ⟨(up.withCmds [cntrCmd 1]), 0, cntrCmd 1, inv_of_ok (by decide +kernel), by decide +kernel⟩

theorem witness_ObservationCapturesAndReports_4 : ∃ (s : State) (q : Nat) (c : Cmd),
    s.Inv ∧
    s.cntr q 2 = some c ∧
    s.heldBack [(c.u 24 8, 4096 + 48 * 2 ^ 20)] = false ∧
    s.writeFail [(c.u 24 8, 4096 + 48 * 2 ^ 20)] = none :=
  ⟨(up.withCmds [cntrCmd 2]), 0, cntrCmd 2, inv_of_ok (by decide +kernel), by decide +kernel⟩

theorem witness_ObservationCapturesAndReports_5 : ∃ (s : State) (m : Master) (v : W32),
    bitAt v.toNat 0 = true ∧
    s.regLands m = true ∧
    s.im.slot1.busy = false :=
  ⟨up, .host, 1, by decide +kernel⟩

theorem witness_ObservationCapturesAndReports_6 : ∃ (s : State) (k : Fin 2),
    (s.pcard k.val).busy = true :=
  ⟨{ up with im := { Integrity.initial with slot1 := { PostSlot.initial with busy := true } } }, 1, by decide +kernel⟩

theorem witness_ObservationCapturesAndReports_7 : ∃ (s : State) (m : Master) (u : Fin 5) (v : W32),
    s.Inv ∧
    s.owns m = true ∧
    s.regLands m = true ∧
    bitAt v.toNat 31 = true :=
  ⟨up, .host, 4, 0x80000000, inv_of_ok (by decide +kernel), by decide +kernel⟩

theorem witness_ObservationCapturesAndReports_8 : ∃ (s : State) (m : Master) (v : W32) (u : Nat),
    s.Inv ∧
    s.owns m = true ∧
    s.regLands m = true ∧
    bitAt v.toNat 0 = true ∧
    u < 5 :=
  ⟨up, .host, 1, 4, inv_of_ok (by decide +kernel), by decide +kernel⟩

theorem witness_ObservationCapturesAndReports_9 : ∃ (s : State) (u : Fin 5),
    s.Inv ∧
    (s.log u.val).full (logSize u.val) = true ∧
    ((s.log u.val).state = 1 ∨ (s.log u.val).state = 2) :=
  ⟨logged, 0, inv_of_ok (by decide +kernel), logOf_full 262144, by decide +kernel⟩

theorem witness_ObservationCapturesAndReports_10 : ∃ (l : Logbook) (u now : Nat) (r : List Byte),
    l.pendingLoss = 0 ∧
    l.full (logSize u) = false :=
  ⟨(lossy 0), 0, 5, [1], by decide +kernel⟩

theorem witness_ObservationCapturesAndReports_10_busy : ∃ (l : Logbook) (u now : Nat) (r : List Byte),
    l.pendingLoss = 0 ∧
    l.full (logSize u) = false :=
  ⟨{ lossy 0 with nextSlot := 22 }, 0, 5, [1], by decide +kernel⟩

theorem witness_ObservationCapturesAndReports_11 : ∃ (l : Logbook) (u k : Nat),
    0 < l.pendingLoss ∧
    (l.state = 1 ∨ l.state = 2) ∧
    l.full (logSize u) = false ∧
    l.lossSlot + 2 ≤ k :=
  ⟨(lossy 3), 0, 7, by decide +kernel⟩

theorem witness_ObservationCapturesAndReports_12 : ∃ (s : State),
    s.watchMs ≠ 0 ∧
    s.im.watchArmed = true ∧
    s.undelivered = true ∧
    s.im.lastDelivery + s.watchMs * 1000000 < s.now :=
  ⟨(up.withCmds [command 0x10 []]), by decide +kernel⟩

/-! ### Well-formedness: for each check a term that it refuses, and one that it takes -/

theorem test_wf_seq : (Instr.move (2 ^ 66)).wf = false ∧ (Instr.move 5).wf = true := by decide
theorem test_wf_step : (Instr.commitFence 0xFFFFFFFF).wf = false ∧ (Instr.commitFence 0xFFFFFFFE).wf = true := by decide
theorem test_wf_rank : (Instr.listArrival 1024 []).wf = false ∧ (Instr.listArrival 1023 []).wf = true := by decide
theorem test_wf_off : (Instr.registerWrite .host 0x4000000 .four 0).wf = false ∧ (Instr.registerWrite .host 0 .four 0).wf = true := by
  decide
theorem test_wf_word : (Instr.spannedPartialSumArrival 1024 0 0 ⟨0, 0, 0, 0⟩ (.sums 0 [])).wf = false ∧
    (Instr.spannedPartialSumArrival 1 0 0 ⟨0, 0, 0, 0⟩ (.sums 0 [])).wf = true := by decide
theorem test_wf_crit_ring : (Instr.hand (.ring (2 ^ 66))).wf = false ∧ (Instr.hand (.ring 0)).wf = true := by decide
theorem test_wf_crit_slots : (Instr.hand (.mctp [0x61] [])).wf = false ∧ (Instr.hand (.debug [0x61] [])).wf = false ∧
    (Instr.hand (.mctp (List.replicate 128 0) [])).wf = true := by decide +kernel
theorem test_wf_env : (Instr.patrolScrub 0 { stores := [(0, [1])], hostBad := [], upsets := [], lanes := [] }).wf = false ∧
    (Instr.patrolScrub 0 { stores := [], hostBad := [(2 ^ 63, 2 ^ 63, 1)], upsets := [], lanes := [] }).wf = false ∧
    (Instr.patrolScrub 0 { stores := [(2 ^ 63, [1])], hostBad := [], upsets := [], lanes := [] }).wf = true := by decide +kernel
theorem test_wf_message : (Instr.spdmGetVersion .doe [0x10, 0x84, 0]).wf = false ∧
    (Instr.spdmGetVersion .doe [0x10, 0x84, 0, 0]).wf = true := by decide
theorem test_wf_burst : (Instr.apertureWrite .host 0 (List.replicate 4097 0)).wf = false ∧ (Instr.apertureWrite .host 0 [1]).wf = true := by
  decide +kernel
theorem test_wf_cells : (Instr.writeWindowEnd 0 [(1024, 0, [])]).wf = false ∧ (Instr.writeWindowEnd 0 [(0, 528, [])]).wf = false ∧
    (Instr.writeWindowEnd 0 [(1023, 527, [])]).wf = true := by decide
theorem test_wf_lines : (Instr.lineTestEnd 0 [(1552, 0)] []).wf = false ∧ (Instr.lineTestEnd 0 [] [(1551, 0)]).wf = true := by decide
theorem test_wf_units : (Instr.messageForward 0 ⟨1, 0⟩ (List.replicate 32 0)).wf = false ∧
    (Instr.messageForward 0 ⟨1, 0⟩ (List.replicate 4290 0)).wf = false ∧
    (Instr.messageForward 0 ⟨1, 0⟩ (List.replicate 4257 0)).wf = true := by decide +kernel
theorem test_wf_arbiter : (Instr.arbiterAging 140 ⟨[], 0⟩).wf = false ∧ (Instr.arbiterAging 139 ⟨[], 0⟩).wf = true := by decide
theorem test_wf_codewords : (Instr.d2dFlitResend ⟨.hub 0, false⟩ ⟨0, 0, List.replicate 35 0⟩).wf = false ∧
    (Instr.d2dFlitResend ⟨.hub 0, false⟩ ⟨0, 0, List.replicate 36 0⟩).wf = true := by decide +kernel
theorem test_wf_flit : (Instr.flitReceive 0 [1]).wf = false ∧ (Instr.flitReceive 0 (List.replicate 612 0)).wf = true := by
  decide +kernel
theorem test_wf_training : (Instr.trainingComplete 0 65536 0 0 true 0 0).wf = false ∧
    (Instr.trainingComplete 0 0 1024 0 true 0 0).wf = false ∧ (Instr.trainingComplete 0 0 0 16 true 0 0).wf = false ∧
    (Instr.trainingComplete 0 65535 1023 15 true 0 0).wf = true := by decide

/-! ### Single steps and values, computed by hand from the specification -/

/-- The state that an outcome leads to; reset for a stop. -/
def after (o : Out) : State := match o with
  | .next t => t
  | .fault _ => State.reset
  | .refused _ => State.reset

/-- The table has no bits, so no word spells a command. -/
theorem test_no_word_decodes : decodeTableWord 64 0x0123456789ABCDEF = none := by decide
/-- A step takes the command at the front and leaves the rest (R444). -/
theorem test_step_takes_the_front :
    (after (step { up with pending := [.pwrbrkAssert, .pwrbrkRelease] })).pending = [.pwrbrkRelease] ∧
    (after (step { up with pending := [.pwrbrkAssert, .pwrbrkRelease] })).ld.pwrbrk = true := by decide +kernel
/-- R282: a lane that fails its check is rebuilt, counted and recorded; one that fails again makes the step incomplete. -/
theorem test_lane_rebuilt : ((after (execBucketDeadline 5 0 0 (filled false))).ctr 0x2800428) = 1 ∧
    ((after (execBucketDeadline 5 0 0 (filled false))).im.cperWrite) = 1 := by decide +kernel
theorem test_lane_lost : (((after (execBucketDeadline 5 0 0 (filled true))).stepInfo 5).mark) = .incomplete ∧
    ((after (execBucketDeadline 5 0 0 (filled true))).im.cperWrite) = 2 := by decide +kernel
/-- FILL repeats its 8-byte pattern, least significant byte first (R348, R2). -/
theorem test_fill : ((after (execFill 0 (moverAt 2))).rd 0x2000 18) =
    [0xA5, 0, 0, 0, 0, 0, 0, 0, 0xA5, 0, 0, 0, 0, 0, 0, 0, 0, 0] := by decide +kernel
/-- MOVE copies the source's bytes (R347). -/
theorem test_move : (after (execMove 0 (moverAt 1))).rd 0x2000 2 = [7, 0] := by decide +kernel
/-- SGNL without SET adds VALUE, with SET it stores it (R327). -/
theorem test_sgnl_set : (after (execSgnl 0 (up.withCmds [command 0x09 [(18, 1), (24, 7)]]))).event 0 = 7 := by decide +kernel
/-- A write sets the RW bits of LD_DAWN alone (R5, Table 18.3). -/
theorem test_register_write_keeps_reserved_bits :
    (after (execRegisterWrite .host 0x30 .four 0xFFFFFFFF up)).reg 0x30 = 0x001F03FF := by decide +kernel
/-- A write by a master that does not own the module changes nothing (Table 15.9). -/
theorem test_register_write_of_another_master :
    (after (execRegisterWrite .bmc 0x30 .four 0xFFFFFFFF up)).reg 0x30 = 0x00100014 := by decide +kernel
/-- An arrival counts once, and IC_PEND_CLR clears the count (R452, R454). -/
theorem test_pending_set : (after (execIcPendSet .host (.normal 6) 0x4 up)).irqCount 194 = 1 := by decide +kernel
/-- Codes of Tables 2.2 and 2.3: the largest E4M3 value is 448, E5M2's 57,344, and E2M1's 6. -/
theorem test_largest_values : (fpE4M3.decode 0x7E).dy.rneAt 0 = 448 ∧ (fpE5M2.decode 0x7B).dy.rneAt 0 = 57344 ∧
    (fpE2M1.decode 7).dy.rneAt 0 = 6 := by decide +kernel
/-- Interleave mode 2 sends consecutive 4 KiB blocks to stacks 0 to 7 (Table 13.2). -/
theorem test_interleave : (List.range 9).map (fun i => (stackOf 2 (4096 * i)).1) = [0, 1, 2, 3, 4, 5, 6, 7, 0] := by decide

/-- The inputs that an arbiter serves in `n` grants from `t`. -/
def served (t : Round) (active : List (Nat × Nat)) : Nat → List Nat
  | 0 => []
  | n + 1 =>
    match t.next active with
    | none => []
    | some p => p.1 :: served p.2 active n
/-- R467: in a round each active input gets as many grants as its count, in ascending order of inputs. -/
theorem test_weighted_round : served ⟨[], 0⟩ [(0, 1), (2, 3)] 8 = [0, 2, 2, 2, 0, 2, 2, 2] := by decide

/-- R488: five TCK cycles with TMS high reset the debug port from every state. -/
theorem test_five_clocks_reset (t : Tap) (i : TapInstr) :
    (List.range 5).foldl (fun p _ => p.clock true i) t = Tap.initial := by
  obtain ⟨st, ins⟩ := t
  cases st <;> rfl

end Sys2Proof.Tests
end

section
/-!
The invariant (R5, R6, R361, R446) and the components of each row. Every row of the opcode table has a frame lemma `execX_frame`
of its own; read together they are one law of `exec`, and the statements about all commands are short uses of it.
-/
namespace Sys2Proof.Machine

open Sys2Proof

/-! ### The frame of `exec` -/

/-- The frame lemmas of the 199 rows as one: `exec` answers a next state for every command, reached by changing no component
but those listed for the command's row. -/
theorem exec_frame (c : Instr) (s : State) : ∃ t, exec c s = .next t ∧ Frame (touches c) s t :=
  match c with
  | .move q => execMove_frame q s
  | .fill q => execFill_frame q s
  | .cmpr q => execCmpr_frame q s
  | .wait q => execWait_frame q s
  | .sgnl q => execSgnl_frame q s
  | .fenc q => execFenc_frame q s
  | .fencAll q => execFencAll_frame q s
  | .fencRestart q => execFencRestart_frame q s
  | .fencReplay q => execFencReplay_frame q s
  | .amvm q => execAmvm_frame q s
  | .amvt q => execAmvt_frame q s
  | .prog q => execProg_frame q s
  | .load q => execLoad_frame q s
  | .mmul q => execMmul_frame q s
  | .attn q => execAttn_frame q s
  | .attnBwd q => execAttnBwd_frame q s
  | .vect q => execVect_frame q s
  | .norm q => execNorm_frame q s
  | .smax q => execSmax_frame q s
  | .stsh q => execStsh_frame q s
  | .recl q => execRecl_frame q s
  | .recomp q => execRecomp_frame q s
  | .xchg q => execXchg_frame q s
  | .gath q => execGath_frame q s
  | .updt q => execUpdt_frame q s
  | .scalApply q => execScalApply_frame q s
  | .scalClose q => execScalClose_frame q s
  | .scalReset q => execScalReset_frame q s
  | .scalClrflag q => execScalClrflag_frame q s
  | .snap q => execSnap_frame q s
  | .cntrSelect q => execCntrSelect_frame q s
  | .cntrDump q => execCntrDump_frame q s
  | .cntrLogread q => execCntrLogread_frame q s
  | .maintSelfcal q => execMaintSelfcal_frame q s
  | .maintConvcal q => execMaintConvcal_frame q s
  | .maintSweep q => execMaintSweep_frame q s
  | .maintGaincal q => execMaintGaincal_frame q s
  | .maintLinetest q => execMaintLinetest_frame q s
  | .maintLevels q => execMaintLevels_frame q s
  | .claim x => execClaim_frame x s
  | .hand x => execHand_frame x s
  | .leas x => execLeas_frame x s
  | .fwld x => execFwld_frame x s
  | .cfgcCertificate x => execCfgcCertificate_frame x s
  | .cfgcSpareMap x => execCfgcSpareMap_frame x s
  | .qovr x => execQovr_frame x s
  | .plim x => execPlim_frame x s
  | .dbgu x => execDbgu_frame x s
  | .dbguLock x => execDbguLock_frame x s
  | .sani x => execSani_frame x s
  | .spdmGetVersion p r => execSpdmGetVersion_frame p r s
  | .spdmGetCapabilities p r => execSpdmGetCapabilities_frame p r s
  | .spdmNegotiateAlgorithms p r => execSpdmNegotiateAlgorithms_frame p r s
  | .spdmGetDigests p r => execSpdmGetDigests_frame p r s
  | .spdmGetCertificate p r => execSpdmGetCertificate_frame p r s
  | .spdmChallenge p r => execSpdmChallenge_frame p r s
  | .spdmGetMeasurements p r => execSpdmGetMeasurements_frame p r s
  | .spdmKeyExchange p r => execSpdmKeyExchange_frame p r s
  | .spdmFinish p r => execSpdmFinish_frame p r s
  | .spdmEndSession p r => execSpdmEndSession_frame p r s
  | .doorbellPoll n e => execDoorbellPoll_frame n e s
  | .hintWindowWrite off v => execHintWindowWrite_frame off v s
  | .commandFetch n => execCommandFetch_frame n s
  | .stepHoldRelease n => execStepHoldRelease_frame n s
  | .commandStart q => execCommandStart_frame q s
  | .bringupHoldTimeout q => execBringupHoldTimeout_frame q s
  | .commandClear q => execCommandClear_frame q s
  | .completionRecordWrite n => execCompletionRecordWrite_frame n s
  | .completionGraceExpiry n => execCompletionGraceExpiry_frame n s
  | .waitSatisfied q => execWaitSatisfied_frame q s
  | .waitTimeoutExpiry q => execWaitTimeoutExpiry_frame q s
  | .versionWaitTimeout q => execVersionWaitTimeout_frame q s
  | .ringEnable m n v => execRingEnable_frame m n v s
  | .ringDisable m n v => execRingDisable_frame m n v s
  | .ringResume m n v => execRingResume_frame m n v s
  | .moverRestart m c v => execMoverRestart_frame m c v s
  | .moverFlush m c v => execMoverFlush_frame m c v s
  | .portRetrain m p v => execPortRetrain_frame m p v s
  | .logbookArm m u v => execLogbookArm_frame m u v s
  | .logbookManualTrigger m v => execLogbookManualTrigger_frame m v s
  | .postcardRequest m v => execPostcardRequest_frame m v s
  | .moduleResetWrite m v => execModuleResetWrite_frame m v s
  | .hamperRegionWrite m v => execHamperRegionWrite_frame m v s
  | .icPendSet m b v => execIcPendSet_frame m b v s
  | .icPendClr m b v => execIcPendClr_frame m b v s
  | .icAck m v => execIcAck_frame m v s
  | .icMaskSet m b v => execIcMaskSet_frame m b v s
  | .icMaskClr m b v => execIcMaskClr_frame m b v s
  | .registerWrite m off size v => execRegisterWrite_frame m off size v s
  | .lowerHalfRead m r => execLowerHalfRead_frame m r s
  | .apertureRead m off len => execApertureRead_frame m off len s
  | .apertureWrite m off data => execApertureWrite_frame m off data s
  | .moverRequestFail c addr dir cause issued => execMoverRequestFail_frame c addr dir cause issued s
  | .moverTransferEnd c => execMoverTransferEnd_frame c s
  | .moverHaltedWaitTimeout q => execMoverHaltedWaitTimeout_frame q s
  | .spillTransferEnd c => execSpillTransferEnd_frame c s
  | .hamperRegionApply => execHamperRegionApply_frame s
  | .arrayReadStart q r => execArrayReadStart_frame q r s
  | .arrayReadConversionEnd q r meas => execArrayReadConversionEnd_frame q r meas s
  | .resolutionComplete q r => execResolutionComplete_frame q r s
  | .digitalQuarterComplete q r => execDigitalQuarterComplete_frame q r s
  | .checksumTestComplete q r => execChecksumTestComplete_frame q r s
  | .almanacClaimGrant id => execAlmanacClaimGrant_frame id s
  | .transitionStart x => execTransitionStart_frame x s
  | .writeWindowEnd id fails => execWriteWindowEnd_frame id fails s
  | .arrayProgrammingEnd id fails => execArrayProgrammingEnd_frame id fails s
  | .verifySweepEnd id dev => execVerifySweepEnd_frame id dev s
  | .selfCalibrationEnd id hits => execSelfCalibrationEnd_frame id hits s
  | .gainClosureEnd id => execGainClosureEnd_frame id s
  | .lineTestEnd id up down => execLineTestEnd_frame id up down s
  | .railStepEnd id => execRailStepEnd_frame id s
  | .sweepPeriodDue x => execSweepPeriodDue_frame x s
  | .converterPeriodDue x => execConverterPeriodDue_frame x s
  | .linePeriodDue x => execLinePeriodDue_frame x s
  | .gainClosureDue x => execGainClosureDue_frame x s
  | .activityAging id => execActivityAging_frame id s
  | .gangAllocate q x corner => execGangAllocate_frame q x corner s
  | .tilePassEnd q n issued => execTilePassEnd_frame q n issued s
  | .slowPathEnd q n issued => execSlowPathEnd_frame q n issued s
  | .tileCheckComplete q idx ok core check place observed => execTileCheckComplete_frame q idx ok core check place observed s
  | .operationResidueCheck q check ok engine predicted observed => execOperationResidueCheck_frame q check ok engine predicted observed s
  | .rampStageChange x cycles => execRampStageChange_frame x cycles s
  | .repairReplayStart q => execRepairReplayStart_frame q s
  | .returnToNominal u => execReturnToNominal_frame u s
  | .commitFence n => execCommitFence_frame n s
  | .contributionArrival rank step bucket owner nf mode bytes => execContributionArrival_frame rank step bucket owner nf mode bytes s
  | .bucketDeadline step bucket owner => execBucketDeadline_frame step bucket owner s
  | .bucketGiveup step bucket owner => execBucketGiveup_frame step bucket owner s
  | .allClearArrival rank step bucket owner => execAllClearArrival_frame rank step bucket owner s
  | .retractArrival rank step bucket owner => execRetractArrival_frame rank step bucket owner s
  | .retractAckArrival step bucket owner => execRetractAckArrival_frame step bucket owner s
  | .summarySend step => execSummarySend_frame step s
  | .summaryArrival rank step nf inc => execSummaryArrival_frame rank step nf inc s
  | .summaryGiveup step => execSummaryGiveup_frame step s
  | .excludedSetArrival rank step set => execExcludedSetArrival_frame rank step set s
  | .exclusionWindowEnd step buddies => execExclusionWindowEnd_frame step buddies s
  | .closeMessageArrival rank step ordinal recs => execCloseMessageArrival_frame rank step ordinal recs s
  | .closeGiveup q => execCloseGiveup_frame q s
  | .buddyDeliveryArrival step bucket vals => execBuddyDeliveryArrival_frame step bucket vals s
  | .buddyAckArrival step bucket => execBuddyAckArrival_frame step bucket s
  | .listArrival rank list => execListArrival_frame rank list s
  | .gathGiveup q => execGathGiveup_frame q s
  | .spannedPartialSumArrival rank tensor step place note => execSpannedPartialSumArrival_frame rank tensor step place note s
  | .spannedInputArrival rank tensor step k transpose vals => execSpannedInputArrival_frame rank tensor step k transpose vals s
  | .messageForward p route bytes => execMessageForward_frame p route bytes s
  | .flitReceive p bytes => execFlitReceive_frame p bytes s
  | .nakReceive p ack lanes => execNakReceive_frame p ack lanes s
  | .flitResendLimit p => execFlitResendLimit_frame p s
  | .trainingStepTimeout p step => execTrainingStepTimeout_frame p step s
  | .trainingComplete p group rank port version digest good => execTrainingComplete_frame p group rank port version digest good s
  | .vcAging p => execVcAging_frame p s
  | .arbiterAging arbiter x => execArbiterAging_frame arbiter x s
  | .d2dFlitResend x flit => execD2dFlitResend_frame x flit s
  | .d2dResendExhausted x training cws => execD2dResendExhausted_frame x training cws s
  | .patrolScrub k e => execPatrolScrub_frame k e s
  | .targetedScrubEnd st pch => execTargetedScrubEnd_frame st pch s
  | .rowRemapEnd st pch row => execRowRemapEnd_frame st pch row s
  | .stackZeroingEnd st => execStackZeroingEnd_frame st s
  | .storeZeroingEnd k ok => execStoreZeroingEnd_frame k ok s
  | .functionReady f ok => execFunctionReady_frame f ok s
  | .identityRegenerated ok => execIdentityRegenerated_frame ok s
  | .firmwareVerifyEnd => execFirmwareVerifyEnd_frame s
  | .claimResponseWriteEnd ok => execClaimResponseWriteEnd_frame ok s
  | .leaseExpiry => execLeaseExpiry_frame s
  | .handoverExpiry => execHandoverExpiry_frame s
  | .ideSecureExit => execIdeSecureExit_frame s
  | .dawnPllLock d => execDawnPllLock_frame d s
  | .pllIdleStop d => execPllIdleStop_frame d s
  | .idleTimeout => execIdleTimeout_frame s
  | .dozeEntry => execDozeEntry_frame s
  | .hubPllRelock => execHubPllRelock_frame s
  | .governorSample g => execGovernorSample_frame g s
  | .thermalTrip die => execThermalTrip_frame die s
  | .pwrbrkAssert => execPwrbrkAssert_frame s
  | .pwrbrkRelease => execPwrbrkRelease_frame s
  | .auxPowerApplied pins => execAuxPowerApplied_frame pins s
  | .auxPowerLost => execAuxPowerLost_frame s
  | .mainInputPresent => execMainInputPresent_frame s
  | .mainInputAbsent => execMainInputAbsent_frame s
  | .perstAssert => execPerstAssert_frame s
  | .perstRelease pins cool => execPerstRelease_frame pins cool s
  | .hotReset => execHotReset_frame s
  | .moduleReset => execModuleReset_frame s
  | .functionLevelReset => execFunctionLevelReset_frame s
  | .d3hotEntry => execD3hotEntry_frame s
  | .d0Return => execD0Return_frame s
  | .l2L3ReadyEntry => execL2L3ReadyEntry_frame s
  | .refclkLoss => execRefclkLoss_frame s
  | .ptmDialogue host => execPtmDialogue_frame host s
  | .ptmTimeout => execPtmTimeout_frame s
  | .watchdogExpiry => execWatchdogExpiry_frame s
  | .postcardCaptureEnd k => execPostcardCaptureEnd_frame k s
  | .logbookCaptureFull u => execLogbookCaptureFull_frame u s
  | .refclkReturn => execRefclkReturn_frame s
  | .configurationSpaceWrite w => execConfigurationSpaceWrite_frame w s
  | .msixMaskWrite w => execMsixMaskWrite_frame w s
  | .ideKmMessage keys => execIdeKmMessage_frame keys s
  | .dynamicAddressAssignment how => execDynamicAddressAssignment_frame how s
  | .l1Entry sub => execL1Entry_frame sub s
/-- A frame says at least that nothing outside its components has changed. -/
theorem Frame.sameBut {l : List Comp} {s t : State} (h : Frame l s t) : State.SameBut l s t := ⟨h.pending, h.same⟩

/-! ### The invariant -/

/-- The queue of waiting commands is no part of the invariant. -/
theorem State.Inv.withPending {s : State} (h : s.Inv) (cs : List Instr) : State.Inv { s with pending := cs } := by
  obtain ⟨hmem, hregs, hms, hhg, hmv, hld, hirq, hpcie, him, hmc, haf, hfab, hctrs⟩ := h
  exact ⟨hmem, hregs, ⟨hms, hhg, hmv, hld, hirq, hpcie, him, hmc, haf, hfab, hctrs⟩⟩

/-- A row keeps the invariant. -/
theorem exec_keeps_inv {c : Instr} {s t : State} (hs : s.Inv) (h : exec c s = .next t) : t.Inv := by
  obtain ⟨u, hu, hframe⟩ := exec_frame c s
  obtain rfl : u = t := Host.Outcome.next.inj (hu.symm.trans h)
  exact hframe.inv hs

/-- A step keeps the invariant: one cycle of Lantern on an empty queue, else the row of the command at its front. -/
theorem step_keeps_inv {s t : State} (hs : s.Inv) (h : step s = .next t) : t.Inv := by
  unfold step at h
  split at h
  next =>
    obtain rfl := Host.Outcome.next.inj h
    exact (State.tick_frame s).inv hs
  next => exact exec_keeps_inv (hs.withPending _) h

/-- After reset nothing is listed in memory, among the stored registers or among the indexed units. -/
theorem State.reset_inv : State.reset.Inv := ⟨rfl, ⟨rfl, rfl⟩, State.reset_tabsOk⟩

/-- Settles O3: at reset every table of the invariant is empty. -/
theorem resetKeepsTheInvariant : Obligations.ResetKeepsTheInvariant := State.reset_inv

/-- Settles O4: each row's frame keeps the forms of memory, registers and indexed units, and so does a cycle of Lantern. -/
theorem everyStepKeepsTheInvariant : Obligations.EveryStepKeepsTheInvariant := fun _ _ => step_keeps_inv

/-- Settles O5: the frame of `exec` without the forms it keeps. -/
theorem everyRowGoesOnWithinItsComponents : Obligations.EveryRowGoesOnWithinItsComponents := by
  intro c s
  obtain ⟨t, ht, hframe⟩ := exec_frame c s
  exact ⟨t, ht, hframe.sameBut⟩

end Sys2Proof.Machine
end

section
/-!
Register accesses (R4 to R9, R311, R402, R425, R472): what decides whether a write lands, that a register without behaviour of
its own only stores what is written, and what the latch of a 64-bit register holds for each master.
-/
namespace Sys2Proof.Machine

open Sys2Proof

/-! ### What decides whether a write lands -/

section Lands

variable {s t : State}

/-- Which registers a master may write depends on the ownership alone. -/
theorem State.mayWrite_of_tb (h : t.tb = s.tb) (m : Master) (w : Writer) : t.mayWrite m w = s.mayWrite m w := by
  simp only [State.mayWrite, State.owns, State.owner, h]

theorem State.regLands_of_tb (h : t.tb = s.tb) (m : Master) : t.regLands m = s.regLands m := by
  simp only [State.regLands, State.writesLand, State.regPath, h]

/-- Whether a ring's address registers are locked depends on its control register and its commands (R311). -/
theorem State.ringLocked_of_regs_hg (hr : t.regs = s.regs) (hh : t.hg = s.hg) (off : Nat) :
    t.ringLocked off = s.ringLocked off := by
  simp only [State.ringLocked, State.ringEnabled, State.fld_of_regs hr, State.inFlight, State.ringCmds, hh]

/-- A write lands as it does in any state with the same Trust Block, Host Gate and registers. -/
theorem State.writeLands_of_same (ht : t.tb = s.tb) (hh : t.hg = s.hg) (hr : t.regs = s.regs) (m : Master) (off : Nat) :
    t.writeLands m off = s.writeLands m off := by
  simp only [State.writeLands, State.mayWrite_of_tb ht, State.regLands_of_tb ht, State.ringLocked_of_regs_hg hr hh,
    State.owns, State.owner, State.regPath, ht]

end Lands

/-- A write to a stored register lands when its master may write it, the boot state lets it through, the master reaches
registers, and no ring locks it. -/
theorem State.writeLands_iff {off : Nat} {r : RegRow} {i : Nat} (h : findRow regRows off = some (r, i)) (s : State)
    (m : Master) : s.writeLands m off = true ↔ s.mayWrite m r.writer = true ∧ (off < 0x400000 ∨ s.regLands m = true) ∧
      s.regPath m = true ∧ s.ringLocked off = false := by
  simp only [State.writeLands, h, Bool.and_eq_true, Bool.or_eq_true, decide_eq_true_eq, Bool.not_eq_true', and_assoc]

/-! ### Registers that only hold what is written -/

/-- The register at `off` acts on nothing when it is written: it is none of the control registers of rings, channels, ports and
Logbook units, and not IM_WATCHDOG. -/
structure Inert (off : Nat) : Prop where
  ring : ixOf 0x801020 0x40 64 off = none
  channel : ixOf 0xC01000 0x40 64 off = none
  port : ixOf 0x2001008 0x40 12 off = none
  logbook : ixOf 0x2800800 0x40 5 off = none
  watchdog : off ≠ 0x2800060

/-- The interrupt controller's mask, pending and acknowledge registers are not stored. -/
theorem findRow_icBank_none : ∀ k < 0x84, k ≤ 0x40 ∨ 0x80 ≤ k → findRow regRows (0xA00000 + 4 * k) = none := by decide

/-- A stored register of the interrupt controller is none of those that act on a write. -/
theorem State.icWrite_none_of_row {off : Nat} {p : RegRow × Nat} (h : findRow regRows off = some p) (hoff : 0xA00000 ≤ off)
    (s : State) (m : Master) (v : Nat) : s.icWrite m (off - 0xA00000) v = none := by
  have act : ∀ k < 0x84, k ≤ 0x40 ∨ 0x80 ≤ k → off - 0xA00000 ≠ 4 * k := by
    intro k hk hbank he
    have hnone := findRow_icBank_none k hk hbank
    rw [show 0xA00000 + 4 * k = off by omega, h] at hnone
    cases hnone
  generalize off - 0xA00000 = o at act
  by_cases h4 : o % 4 = 0
  · have ho : 0x100 < o ∧ o ≠ 0x200 ∧ o ≠ 0x204 ∧ o ≠ 0x208 ∧ o ≠ 0x20C := by
      refine ⟨?_, fun he => act 0x80 (by omega) (by omega) he, fun he => act 0x81 (by omega) (by omega) he,
        fun he => act 0x82 (by omega) (by omega) he, fun he => act 0x83 (by omega) (by omega) he⟩
      refine Nat.lt_of_not_le fun hle => ?_
      exact act (o / 4) (by omega) (by omega) (by omega)
    obtain ⟨hlt, h200, h204, h208, h20C⟩ := ho
    unfold State.icWrite
    simp only [h4, h200, h204, h208, h20C, ne_eq, not_true_eq_false, if_false, show ¬o < 0x40 by omega,
      show ¬o < 0x80 by omega, show ¬o < 0xC0 by omega, show ¬o < 0x100 by omega, show o ≠ 0x100 by omega]
  · unfold State.icWrite
    simp only [h4, ne_eq, not_false_eq_true, if_true]

/-- A write to such a register stores its RW bits and does nothing else (R4 to R6). -/
theorem State.regWrite_of_inert {off : Nat} {p : RegRow × Nat} (h : findRow regRows off = some p) (hi : Inert off)
    (s : State) (m : Master) (v : Nat) : s.regWrite m off v = s.storeWrite m off v := by
  obtain ⟨hring, hchannel, hport, hlogbook, hwatch⟩ := hi
  have stored : ∀ o, findRow regRows o = none → off ≠ o := by
    rintro o ho rfl
    rw [h] at ho
    cases ho
  have htrip := stored 0x58 (by decide)
  have hreset := stored 0x60 (by decide)
  have hregion := stored 0x1000418 (by decide)
  have hcard := stored 0x2800098 (by decide)
  unfold State.regWrite
  rw [if_neg htrip, if_neg hreset, if_neg hregion, if_neg hwatch, if_neg hcard]
  split
  · next hic => rw [State.icWrite_none_of_row h hic.1]; rfl
  · simp only [hring, hchannel, hport, hlogbook]

/-- What a stored register holds after a write of `v` to it, and that no other stored register changes. -/
theorem State.reg_storeWrite {s : State} (hs : Tab.wf regReset s.regs = true) {off : Nat} {r : RegRow} {i : Nat}
    (h : findRow regRows off = some (r, i)) (m : Master) (v o : Nat) :
    (s.storeWrite m off v).reg o = if o = off ∧ s.writeLands m off = true then v &&& r.rw else s.reg o := by
  have hmask : (v &&& r.rw) % 2 ^ 64 = v &&& r.rw := Nat.mod_eq_of_lt (Nat.lt_of_le_of_lt Nat.and_le_right (rw_lt h))
  simp only [State.storeWrite, h]
  split
  · next hl => simp only [State.reg_setReg hs, hmask, hl, and_true]
  · next hl => rw [if_neg fun hc => hl hc.2]

/-- A store to a register leaves memory alone. -/
theorem State.storeWrite_ms (s : State) (m : Master) (off v : Nat) : (s.storeWrite m off v).ms = s.ms := by
  unfold State.storeWrite
  split
  · rfl
  · split <;> rfl

/-! ### An access reaches the module

The power and link state of the path it comes by is noted; of what a register access works on, nothing changes. -/

@[simp] theorem State.reachedBy_tb (s : State) (m : Master) : (s.reachedBy m).tb = s.tb :=
  (State.reachedBy_frame s m).same .tb (by decide)
@[simp] theorem State.reachedBy_hg (s : State) (m : Master) : (s.reachedBy m).hg = s.hg :=
  (State.reachedBy_frame s m).same .hg (by decide)
@[simp] theorem State.reachedBy_regs (s : State) (m : Master) : (s.reachedBy m).regs = s.regs :=
  (State.reachedBy_frame s m).same .regs (by decide)
@[simp] theorem State.reachedBy_latches (s : State) (m : Master) : (s.reachedBy m).latches = s.latches :=
  (State.reachedBy_frame s m).same .latches (by decide)
@[simp] theorem State.reachedBy_out (s : State) (m : Master) : (s.reachedBy m).out = s.out :=
  (State.reachedBy_frame s m).same .out (by decide)

@[simp] theorem State.writeLands_reachedBy (s : State) (n m : Master) (off : Nat) :
    (s.reachedBy n).writeLands m off = s.writeLands m off := State.writeLands_of_same (by simp) (by simp) (by simp) m off

/-- A write to an inert register from a state `t` that came from `s` by changes of power, link and latches alone. -/
theorem Frame.regWrite_of_inert {s t : State} (hf : Frame [.ld, .latches] s t) (hs : s.RegsOk) {off : Nat} {r : RegRow} {i : Nat}
    (h : findRow regRows off = some (r, i)) (hi : Inert off) (m : Master) (v : Nat) :
    (∀ o, (t.regWrite m off v).reg o = if o = off ∧ s.writeLands m off = true then v &&& r.rw else s.reg o) ∧
      (t.regWrite m off v).ms = s.ms := by
  have htb : t.tb = s.tb := hf.same .tb (by decide)
  have hhg : t.hg = s.hg := hf.same .hg (by decide)
  have hms : t.ms = s.ms := hf.same .ms (by decide)
  have hregs : t.regs = s.regs := hf.same .regs (by decide)
  obtain ⟨hwf, -⟩ := hf.regs hs
  rw [State.regWrite_of_inert h hi]
  refine ⟨fun o => ?_, (State.storeWrite_ms t m off v).trans hms⟩
  rw [State.reg_storeWrite hwf h, State.writeLands_of_same htb hhg hregs, State.reg_of_regs hregs]

/-! ### Latches of 64-bit registers (R8) -/

/-- The latch set last is the one that is found. -/
theorem State.latchOf_setLatch (s : State) (m : Master) (off : Nat) (write : Bool) (v : Nat) :
    (s.setLatch m off write v).latchOf m off write = some (v % 2 ^ 32) := by
  simp [State.latchOf, State.setLatch]

/-- A dropped latch is gone. -/
theorem State.latchOf_dropLatch (s : State) (m : Master) (off : Nat) (write : Bool) :
    (s.dropLatch m off).latchOf m off write = none := by
  simp only [State.latchOf, State.dropLatch, Option.map_eq_none_iff, List.find?_eq_none, List.mem_filter]
  rintro l ⟨-, hkept⟩ hfound
  obtain ⟨hnamed, -⟩ := (Bool.and_eq_true _ _).mp hfound
  simp [hnamed] at hkept

theorem State.latchOf_of_latches {s t : State} (h : t.latches = s.latches) (m : Master) (off : Nat) (write : Bool) :
    t.latchOf m off write = s.latchOf m off write := by
  simp only [State.latchOf, h]

/-! ### Writes and reads by width -/

section Write

variable {s : State} {m : Master} {off : Nat}

/-- Eight bytes to a 64-bit register write it whole. -/
theorem State.busWrite_eight (hw : s.isWide m off = true) (hoff : off < 0x2C00000) (h8 : off % 8 = 0) (v : Nat) :
    s.busWrite m off .eight v = (s.dropLatch m off).regWrite m off v := by
  simp only [State.busWrite, Nat.not_le.mpr hoff, h8, hw, if_false, if_true, ne_eq, not_true_eq_false]

/-- Four bytes within BAR0's registers are a 32-bit write. -/
theorem State.busWrite_four (hoff : off < 0x2C00000) (h4 : off % 4 = 0) (v : Nat) :
    s.busWrite m off .four v = s.write32 m off (v % 2 ^ 32) := by
  simp only [State.busWrite, Nat.not_le.mpr hoff, h4, if_false, if_true]

/-- A 32-bit write to a 32-bit register writes it. -/
theorem State.write32_narrow (hn : s.isWide m off = false) (hlow : 4 ≤ off → s.isWide m (off - 4) = false) (v : Nat) :
    s.write32 m off v = s.regWrite m off v := by
  have : ¬(4 ≤ off ∧ s.isWide m (off - 4) = true) := fun ⟨h4, hw⟩ => by simp [hlow h4] at hw
  simp only [State.write32, hn, Bool.false_eq_true, this, if_false]

/-- A lower half that lands is held. -/
theorem State.write32_low (hw : s.isWide m off = true) (hl : s.writeLands m off = true) (v : Nat) :
    s.write32 m off v = s.setLatch m off true v := by
  simp only [State.write32, hw, hl, if_true]

/-- A lower half that does not land is not held. -/
theorem State.write32_low_lost (hw : s.isWide m off = true) (hl : s.writeLands m off = false) (v : Nat) :
    s.write32 m off v = s.dropLatch m off := by
  simp only [State.write32, hw, hl, if_true, Bool.false_eq_true, if_false]

/-- An upper half completes the lower half held. -/
theorem State.write32_high (hn : s.isWide m (off + 4) = false) (hw : s.isWide m off = true) {low : Nat}
    (hlow : s.latchOf m off true = some low) (v : Nat) :
    s.write32 m (off + 4) v = (s.dropLatch m off).regWrite m off (v * 2 ^ 32 + low) := by
  simp only [State.write32, hn, Nat.add_sub_cancel, hw, hlow, Nat.le_add_left, Bool.false_eq_true, and_self, if_true, if_false,
    Option.getD_some]

/-- A lower half read answers the low 32 bits and latches the high ones. -/
theorem State.read32_low (hw : (s.readReg m off).wide = true) (hoff : off < 0x2C00000) (h4 : off % 4 = 0) :
    s.read32 m off = (s.setLatch m off false ((s.readReg m off).val / 2 ^ 32), (s.readReg m off).val % 2 ^ 32) := by
  have : ¬(0x2C00000 ≤ off ∨ off % 4 ≠ 0) := by omega
  simp only [State.read32, this, hw, if_false, if_true]

/-- An upper half read answers what the lower half's read has latched. -/
theorem State.read32_high (hn : (s.readReg m (off + 4)).wide = false) (hw : (s.readReg m off).wide = true)
    (hoff : off + 4 < 0x2C00000) (h4 : off % 4 = 0) {high : Nat} (hl : s.latchOf m off false = some high) :
    s.read32 m (off + 4) = (s.dropLatch m off, high) := by
  have : ¬(0x2C00000 ≤ off + 4 ∨ (off + 4) % 4 ≠ 0) := by omega
  simp only [State.read32, this, hn, Nat.add_sub_cancel, hw, hl, Nat.le_add_left, Bool.false_eq_true, and_self, if_true, if_false,
    Option.getD_some]

/-- Eight bytes of a 64-bit register read it whole. -/
theorem State.busRead_eight (hw : (s.readReg m off).wide = true) (hoff : off < 0x2C00000) (h8 : off % 8 = 0) :
    s.busRead m off .eight = (s.dropLatch m off, (s.readReg m off).val) := by
  have : ¬(0x2C00000 ≤ off ∨ off % 8 ≠ 0) := by omega
  simp only [State.busRead, this, hw, if_false, if_true]

/-- An access of another size reaches nothing (R9). -/
theorem State.busWrite_other (k v : Nat) : s.busWrite m off (.other k) v = s := by
  unfold State.busWrite
  split <;> rfl

end Write

/-! ### LOWER_HALF_READ -/

/-- The read's answer leaves the module, behind an in-band interrupt for the BMC (R487). -/
theorem State.emit_regRead_out (s : State) (m : Master) (off : Nat) (v : W64) :
    (s.emit (.regRead m off v)).out = s.out ++ (OutMsg.regRead m off v).sent := rfl

/-- LOWER_HALF_READ answers the value that the bus reads, and keeps the registers and latches that the read leaves. -/
theorem exec_lowerHalfRead_of_busRead {s u : State} {m : Master} {off : Nat} {size : AccessSize} {v : Nat}
    (h : (s.reachedBy m).busRead m off size = (u, v)) (hout : u.out = s.out) :
    ∃ t, exec (.lowerHalfRead m ⟨off, size⟩) s = .next t ∧
      t.out = s.out ++ (OutMsg.regRead m off (BitVec.ofNat 64 v)).sent ∧ t.regs = u.regs ∧ t.latches = u.latches := by
  have hexec : exec (.lowerHalfRead m ⟨off, size⟩) s =
      .next (((s.reachedBy m).busRead m off size).1.emit
        (.regRead m off (BitVec.ofNat 64 ((s.reachedBy m).busRead m off size).2))).freeStep := rfl
  rw [h] at hexec
  exact ⟨_, hexec, hout ▸ State.emit_regRead_out u m off _, rfl, rfl⟩

/-! ### The six clauses -/

/-- A write of a register's whole width sets its RW bits when it lands, and no other stored register and no byte of memory. -/
theorem registerWrite_whole {s : State} {m : Master} {off : Nat} {wide : Bool} {v : W64} {r : RegRow} {i : Nat} (hs : s.Inv)
    (h : findRow regRows off = some (r, i)) (hi : Inert off) (hoff : off < 0x2C00000) (hal : off % (if wide then 8 else 4) = 0)
    (hw : (s.reachedBy m).isWide m off = wide)
    (hlow : wide = false → 4 ≤ off → (s.reachedBy m).isWide m (off - 4) = false) :
    ∃ t, exec (.registerWrite m off (if wide then .eight else .four) v) s = .next t ∧
      (∀ o, t.reg o = if o = off ∧ s.writeLands m off = true then
        (if wide then v.toNat else v.toNat % 2 ^ 32) &&& r.rw else s.reg o) ∧ t.ms = s.ms := by
  refine ⟨_, rfl, ?_⟩
  have hreach : Frame [.ld, .latches] s (s.reachedBy m) := (State.reachedBy_frame s m).mono rfl
  cases wide with
  | true =>
    rw [if_pos rfl] at hal
    simp only [if_true, State.busWrite_eight hw hoff hal]
    exact (hreach.comp (State.dropLatch_frame _ _ _) rfl).regWrite_of_inert hs.regs h hi m _
  | false =>
    rw [if_neg Bool.false_ne_true] at hal
    simp only [Bool.false_eq_true, if_false, State.busWrite_four hoff hal, State.write32_narrow hw (hlow rfl)]
    exact hreach.regWrite_of_inert hs.regs h hi m _

/-- A lower half that lands is held, and nothing else but the path's state changes. -/
theorem registerWrite_low_held {s : State} {m : Master} {off : Nat} (lo : W64) (hoff : off < 0x2C00000) (h4 : off % 4 = 0)
    (hw : (s.reachedBy m).isWide m off = true) (hl : s.writeLands m off = true) :
    ∃ t, exec (.registerWrite m off .four lo) s = .next t ∧ Frame [.ld, .latches] s t ∧
      t.latchOf m off true = some (lo.toNat % 2 ^ 32) := by
  refine ⟨_, rfl, ?_⟩
  rw [State.busWrite_four hoff h4, State.write32_low hw (by simpa using hl)]
  refine ⟨((State.reachedBy_frame s m).mono rfl).comp (State.setLatch_frame _ _ _ _ _) rfl, ?_⟩
  rw [State.latchOf_setLatch, Nat.mod_mod]

/-- The upper half's write stores the held lower half with it, as one write of the whole register. -/
theorem registerWrite_high {s t : State} {m : Master} {off low : Nat} (hi : W64) {r : RegRow} {i : Nat} (hs : s.Inv)
    (hf : Frame [.ld, .latches] s t) (h : findRow regRows off = some (r, i)) (hin : Inert off) (hoff : off + 4 < 0x2C00000)
    (h4 : off % 4 = 0) (hl : s.writeLands m off = true) (hw : (t.reachedBy m).isWide m off = true)
    (hn : (t.reachedBy m).isWide m (off + 4) = false) (hheld : t.latchOf m off true = some low) :
    ∃ u, exec (.registerWrite m (off + 4) .four hi) t = .next u ∧
      u.reg off = (hi.toNat % 2 ^ 32 * 2 ^ 32 + low) &&& r.rw := by
  have hreach : (t.reachedBy m).latchOf m off true = some low := by
    rw [State.latchOf_of_latches (State.reachedBy_latches t m), hheld]
  have hframe : Frame [.ld, .latches] s ((t.reachedBy m).dropLatch m off) :=
    (hf.comp (State.reachedBy_frame t m) rfl).comp (State.dropLatch_frame _ _ _) rfl
  refine ⟨_, rfl, ?_⟩
  rw [State.busWrite_four hoff (by omega), State.write32_high hn hw hreach]
  obtain ⟨hreg, -⟩ := hframe.regWrite_of_inert hs.regs h hin m (hi.toNat % 2 ^ 32 * 2 ^ 32 + low)
  rw [hreg, if_pos ⟨rfl, hl⟩]

/-- The upper half's read answers what the lower half's read has latched, whatever has become of the register. -/
theorem lowerHalfRead_halves {s : State} {m : Master} {off : Nat} (hoff : off < 0x2BFFFF8) (h8 : off % 8 = 0)
    (hw : ∀ u : State, (u.readReg m off).wide = true) (hn : ∀ u : State, (u.readReg m (off + 4)).wide = false) :
    ∃ t u, exec (.lowerHalfRead m ⟨off, .four⟩) s = .next t ∧
      t.out = s.out ++ (OutMsg.regRead m off (BitVec.ofNat 64 (((s.reachedBy m).readReg m off).val % 2 ^ 32))).sent ∧
      exec (.lowerHalfRead m ⟨off + 4, .four⟩) t = .next u ∧
      u.out = t.out ++
        (OutMsg.regRead m (off + 4) (BitVec.ofNat 64 (((s.reachedBy m).readReg m off).val / 2 ^ 32 % 2 ^ 32))).sent := by
  obtain ⟨t, ht, htout, -, htl⟩ := exec_lowerHalfRead_of_busRead (s := s) (size := .four)
    (State.read32_low (hw (s.reachedBy m)) (by omega) (by omega)) (by simp)
  have hheld : (t.reachedBy m).latchOf m off false = some (((s.reachedBy m).readReg m off).val / 2 ^ 32 % 2 ^ 32) := by
    rw [State.latchOf_of_latches (State.reachedBy_latches t m), State.latchOf_of_latches htl, State.latchOf_setLatch]
  obtain ⟨u, hu, huout, -, -⟩ := exec_lowerHalfRead_of_busRead (s := t) (size := .four)
    (State.read32_high (hn _) (hw _) (by omega) (by omega) hheld) (by simp)
  exact ⟨t, u, ht, htout, hu, huout⟩

/-- Eight bytes read a 64-bit register whole and end its latch. -/
theorem lowerHalfRead_whole {s : State} {m : Master} {off : Nat} (hoff : off < 0x2C00000) (h8 : off % 8 = 0)
    (hw : ((s.reachedBy m).readReg m off).wide = true) :
    ∃ t, exec (.lowerHalfRead m ⟨off, .eight⟩) s = .next t ∧ t.latchOf m off false = none ∧
      t.out = s.out ++ (OutMsg.regRead m off (BitVec.ofNat 64 ((s.reachedBy m).readReg m off).val)).sent := by
  obtain ⟨t, ht, hout, -, htl⟩ := exec_lowerHalfRead_of_busRead (State.busRead_eight hw hoff h8) (by simp)
  exact ⟨t, ht, by rw [State.latchOf_of_latches htl, State.latchOf_dropLatch], hout⟩

/-- A lower half that does not land changes no register and holds nothing. -/
theorem registerWrite_low_lost {s : State} {m : Master} {off : Nat} (lo : W64) (hoff : off < 0x2C00000) (h4 : off % 4 = 0)
    (hw : (s.reachedBy m).isWide m off = true) (hl : (s.reachedBy m).writeLands m off = false) :
    ∃ t, exec (.registerWrite m off .four lo) s = .next t ∧ t.regs = s.regs ∧ t.latchOf m off true = none := by
  refine ⟨_, rfl, ?_⟩
  rw [State.busWrite_four hoff h4, State.write32_low_lost hw hl]
  exact ⟨by simp, State.latchOf_dropLatch _ _ _ _⟩

/-- Settles O49: each clause is the case of the bus that it names. -/
theorem registerAccessesTakeEffectWhole : Obligations.RegisterAccessesTakeEffectWhole := by
  refine ⟨?_, ?_, fun s m off => lowerHalfRead_halves, fun s m off => lowerHalfRead_whole,
    fun s m off lo => registerWrite_low_lost lo, ?_⟩
  · intro s m off wide v r i hs h hring hchannel hport hlogbook hwatch hoff hal hw hlow
    obtain ⟨t, ht, hreg, hms⟩ :=
      registerWrite_whole (v := v) hs h ⟨hring, hchannel, hport, hlogbook, hwatch⟩ hoff hal hw hlow
    refine ⟨t, ht, ?_, fun o ho => ?_, fun j => State.rdByte_of_ms hms j⟩
    · simp only [hreg, true_and, State.writeLands_iff h]
    · rw [hreg, if_neg fun hc => ho hc.1]
  · intro s m off lo hi r i hs h hring hchannel hport hlogbook hwatch hoff h8 hmay hland hpath hlock hw hn
    have hlands : s.writeLands m off = true := (State.writeLands_iff h s m).mpr ⟨hmay, hland, hpath, hlock⟩
    obtain ⟨t, ht, hframe, hheld⟩ := registerWrite_low_held lo (by omega) (by omega) (hw _) hlands
    obtain ⟨u, hu, hreg⟩ := registerWrite_high hi hs hframe h ⟨hring, hchannel, hport, hlogbook, hwatch⟩ (by omega)
      (by omega) hlands (hw _) (hn _) hheld
    exact ⟨t, u, ht, hframe.same .regs (by decide), hu, hreg⟩
  · intro s m off k v
    have hread : (s.reachedBy m).busRead m off (.other k) = (s.reachedBy m, 0) := rfl
    obtain ⟨t, ht, hout, hregs, hlatches⟩ := exec_lowerHalfRead_of_busRead hread (by simp)
    exact ⟨congrArg Host.Outcome.next (State.busWrite_other k v.toNat), t, ht, hout, by simp [hregs], by simp [hlatches]⟩

end Sys2Proof.Machine
end

section
/-!
Number formats (R30 to R34, R40 to R49): the value of an encoding of a 4-bit element, the fields of an encoding of a finite value,
and that one rounding leaves a value alone whose quantum is already a multiple of the format's spacing.
-/
namespace Sys2Proof.Machine

open Sys2Proof

/-! ### Elements of 4 bits (R33, R34) -/

theorem laneOf_zero (k : Nat) : laneOf 0 k = none := by
  simp [laneOf, bitAt]

theorem laneBad_zero : laneBad 0 = false := by
  simp [laneBad, laneOf_zero]

theorem State.laneEntry_of_noLanes {t : Td} (h : t.lanes = false) (s : State) (b : Nat) : s.laneEntry t b = 0 := by
  simp [State.laneEntry, h]

/-- The element field `nib` as the value of its format, before the block's factor: E2M1 for FP4B, two's complement for INT4B. -/
def fourElem (fmt nib : Nat) : Val :=
  if fmt = 5 then fpE2M1.decode nib else .fin (decide (8 ≤ nib)) (if nib < 8 then nib else 16 - nib) 0

theorem fourElem_fp4b (nib : Nat) : fourElem 5 nib = fpE2M1.decode nib := rfl

/-- The sign and magnitude of an INT4B element are those of its two's-complement integer. -/
theorem fourElem_int4b (nib : BitVec 4) : fourElem 6 nib.toNat = .fin (decide (nib.toInt < 0)) nib.toInt.natAbs 0 := by
  have hlt := nib.isLt
  have hint := BitVec.toInt_eq_toNat_cond nib
  have hsign : 8 ≤ nib.toNat ↔ nib.toInt < 0 := by split at hint <;> omega
  have hmag : (if nib.toNat < 8 then nib.toNat else 16 - nib.toNat) = nib.toInt.natAbs := by
    split <;> split at hint <;> omega
  simp [fourElem, hsign, hmag]

/-- Without outlier lanes a 4-bit element is NaN under the scale byte 0xFF and its own value times the factor under any other. -/
theorem State.fourVal_of_noLanes {t : Td} (h : t.lanes = false) (s : State) (b i : Nat) :
    s.fourVal t b i = if s.rdNat (t.aux + b) 1 = 255 then .nan else
      (fourElem t.fmt (bitsOf (s.rdNat (t.addr + 16 * b + i / 2) 1) (4 * (i % 2)) 4)).scale2
        ((s.rdNat (t.aux + b) 1 : Int) - 127) := by
  simp [State.fourVal, State.laneEntry_of_noLanes h, laneBad_zero, laneOf_zero, fourElem]

/-- Settles O7: the two formats' elements, each times the factor of the scale byte. -/
theorem scaleBytesGiveTheirFactor : Obligations.ScaleBytesGiveTheirFactor := by
  intro s t b i nib hlanes hnib
  rw [State.fourVal_of_noLanes hlanes, ← hnib]
  refine ⟨fun hnan => if_pos hnan, fun hscale hfmt => ?_, fun hscale hfmt => ?_⟩
  · rw [if_neg (by omega), hfmt, fourElem_fp4b]
  · have hlo := BitVec.le_toInt nib
    have hhi := BitVec.toInt_lt (x := nib)
    refine ⟨by omega, by omega, ?_⟩
    rw [if_neg (by omega), hfmt, fourElem_int4b, Val.scale2, Int.zero_add]

/-! ### The fields of a finite value (R30, R31) -/

section Fields

variable {p : FpParams} {b m ef fr : Nat} {neg : Bool} {e : Int}

/-- An encoding is its sign bit, its exponent field and its fraction field. -/
theorem FpParams.bits_eq_fields (hb : b < 2 ^ p.width) :
    b = p.signBit (b.testBit (p.ebits + p.fbits)) + bitsOf b p.fbits p.ebits * 2 ^ p.fbits + bitsOf b 0 p.fbits := by
  have hsign : p.signBit (b.testBit (p.ebits + p.fbits)) =
      2 ^ (p.ebits + p.fbits) * (b / 2 ^ (p.ebits + p.fbits) % 2) := by
    rw [← Nat.toNat_testBit]
    cases b.testBit (p.ebits + p.fbits) <;> simp [signBit]
  have hlow : b % 2 ^ (p.ebits + p.fbits) = b % 2 ^ p.fbits + 2 ^ p.fbits * (b / 2 ^ p.fbits % 2 ^ p.ebits) := by
    rw [Nat.add_comm, Nat.pow_add, Nat.mod_mul]
  have hwhole : b % 2 ^ (p.ebits + p.fbits + 1) = b := Nat.mod_eq_of_lt (by rwa [width, Nat.add_assoc, Nat.add_comm] at hb)
  rw [Nat.mod_pow_succ, hlow] at hwhole
  simp only [hsign, bitsOf, Nat.shiftRight_eq_div_pow, Nat.pow_zero, Nat.div_one]
  rw [Nat.mul_comm (_ % _) (2 ^ p.fbits)]
  omega

/-- `b` encodes the finite value `(-1)^neg * m * 2^e` with exponent field `ef` and fraction field `fr`. -/
structure FpParams.Finite (p : FpParams) (b : Nat) (neg : Bool) (m : Nat) (e : Int) (ef fr : Nat) : Prop where
  bits : b = p.signBit neg + ef * 2 ^ p.fbits + fr
  exp_lt : ef < 2 ^ p.ebits
  frac_lt : fr < 2 ^ p.fbits
  /-- The top exponent field of a format with infinities holds no finite value. -/
  notTop : p.hasInf = true → ef ≠ 2 ^ p.ebits - 1
  /-- Nor does the one NaN of E4M3. -/
  notNan : p.nan = 0x7F → ef = 2 ^ p.ebits - 1 → fr ≠ 7
  value : (ef = 0 ∧ m = fr ∧ e = 1 - (p.bias : Int) - p.fbits) ∨
    (ef ≠ 0 ∧ m = 2 ^ p.fbits + fr ∧ e = (ef : Int) - p.bias - p.fbits)

/-- Every encoding that reads as a finite value has such fields. -/
theorem FpParams.finite_of_decode (hb : b < 2 ^ p.width) (h : p.decode b = .fin neg m e) :
    p.Finite b neg m e (bitsOf b p.fbits p.ebits) (bitsOf b 0 p.fbits) := by
  have hbits := bits_eq_fields hb
  simp only [decode] at h
  split at h
  · split at h <;> cases h
  next htop =>
    split at h
    · cases h
    next hnan =>
      have hnotTop := fun hi he => htop ⟨hi, he⟩
      have hnotNan := fun hn he hf => hnan ⟨hn, he, hf⟩
      split at h
      next hz =>
        cases h
        exact ⟨hbits, bitsOf_lt .., bitsOf_lt .., hnotTop, hnotNan, .inl ⟨hz, rfl, rfl⟩⟩
      next hz =>
        cases h
        exact ⟨hbits, bitsOf_lt .., bitsOf_lt .., hnotTop, hnotNan, .inr ⟨hz, rfl, rfl⟩⟩

/-- The significand has at most one bit before the fraction. -/
theorem FpParams.Finite.mag_lt (h : p.Finite b neg m e ef fr) : m < 2 ^ (p.fbits + 1) := by
  have hfr := h.frac_lt
  rw [Nat.pow_succ]
  obtain ⟨-, rfl, -⟩ | ⟨-, rfl, -⟩ := h.value <;> omega

/-- No exponent is below that of the subnormals. -/
theorem FpParams.Finite.minExp_le (h : p.Finite b neg m e ef fr) : 1 - (p.bias : Int) - p.fbits ≤ e := by
  obtain ⟨-, -, rfl⟩ | ⟨hef, -, rfl⟩ := h.value <;> omega

/-- A significand without its leading bit is that of a subnormal. -/
theorem FpParams.Finite.normal_or_minExp (h : p.Finite b neg m e ef fr) :
    2 ^ p.fbits ≤ m ∨ e = 1 - (p.bias : Int) - p.fbits := by
  obtain ⟨-, -, he⟩ | ⟨-, rfl, -⟩ := h.value
  · exact .inr he
  · exact .inl (Nat.le_add_right ..)

/-- The fields of a finite value are put back where they came from. -/
theorem FpParams.Finite.encodeMag (h : p.Finite b neg m e ef fr) : p.encodeMag neg m e = b := by
  have hfr := h.frac_lt
  obtain ⟨rfl, rfl, -⟩ | ⟨-, rfl, rfl⟩ := h.value
  · simp [FpParams.encodeMag, h.bits, hfr]
  · have hcarry : 2 ^ p.fbits + fr ≠ 2 ^ (p.fbits + 1) := by rw [Nat.pow_succ]; omega
    have hexp : ((ef : Int) - p.bias - p.fbits + p.fbits + p.bias).toNat = ef := by omega
    simp only [FpParams.encodeMag, Nat.not_lt.mpr (Nat.le_add_right ..), hcarry, if_false, hexp, Nat.add_sub_cancel_left]
    exact h.bits.symm

end Fields

/-! ### One rounding of an exact quotient (R42 to R44) -/

/-- A quotient without remainder is its own rounding under either mode: there is nothing to round up. -/
theorem roundQuot_mul {rnd : Rnd} (hrnd : ∀ r, rnd = .stoch r → r < 65536) (t : Nat) {D : Nat} (hD : 0 < D) :
    roundQuot rnd (t * D) D = t := by
  cases rnd with
  | near => simp [roundQuot, hD]
  | stoch r =>
    have hr := hrnd r rfl
    simp [roundQuot, hD, hr]

theorem ilog2Q_one {m : Nat} (hm : m ≠ 0) : ilog2Q m 1 = m.log2 := by
  have hone : Nat.log2 1 = 0 := by decide
  simp [ilog2Q, hone, Nat.log2_self_le hm]

theorem mul_two_pow_ne_zero {m : Nat} (hm : m ≠ 0) (k : Nat) : m * 2 ^ k ≠ 0 :=
  Nat.mul_ne_zero hm (Nat.ne_of_gt (Nat.two_pow_pos k))

/-- Each doubling raises the logarithm by 1. -/
theorem log2_mul_two_pow {m : Nat} (hm : m ≠ 0) (k : Nat) : (m * 2 ^ k).log2 = m.log2 + k := by
  induction k with
  | zero => simp
  | succ k ih =>
    rw [Nat.pow_succ, ← Nat.mul_assoc, Nat.mul_comm, Nat.log2_two_mul (mul_two_pow_ne_zero hm k), ih, Nat.add_assoc]

/-- However its significand and exponent are written, `m * 2^e` measured in quanta of `2^e` rounds to `m`. -/
theorem roundQuot_scaleQ {rnd : Rnd} (hrnd : ∀ r, rnd = .stoch r → r < 65536) (m k : Nat) (e : Int) :
    roundQuot rnd (scaleQ (m * 2 ^ k) 1 (e - k) e).1 (scaleQ (m * 2 ^ k) 1 (e - k) e).2 = m := by
  cases k with
  | zero => simpa [scaleQ] using roundQuot_mul hrnd m Nat.one_pos
  | succ k =>
    have hlt : ¬ e ≤ e - ((k + 1 : Nat) : Int) := by omega
    have hexp : (e - (e - ((k + 1 : Nat) : Int))).toNat = k + 1 := by omega
    simp only [scaleQ, if_neg hlt, hexp, Nat.one_mul]
    exact roundQuot_mul hrnd m (Nat.two_pow_pos _)

/-! ### Conversion of a representable value (R42) -/

section Convert

variable {p : FpParams} {b m ef fr : Nat} {neg : Bool} {e : Int} {rnd : Rnd}

/-- The spacing of a format at one of its own finite values is the value's own quantum. -/
theorem FpParams.Finite.spacing (h : p.Finite b neg m e ef fr) (hm : m ≠ 0) (k : Nat) :
    max (ilog2Q (m * 2 ^ k) 1 + (e - k) - p.fbits) (1 - (p.bias : Int) - p.fbits) = e := by
  have hmin := h.minExp_le
  have hle : m.log2 < p.fbits + 1 := (Nat.log2_lt hm).mpr h.mag_lt
  rw [ilog2Q_one (mul_two_pow_ne_zero hm k), log2_mul_two_pow hm, Int.natCast_add]
  obtain hnormal | hsub := h.normal_or_minExp
  · have hge : p.fbits ≤ m.log2 := (Nat.le_log2 hm).mpr hnormal
    omega
  · omega

/-- Rounding a finite value of the format gives the value itself under either mode. -/
theorem FpParams.Finite.roundMag (h : p.Finite b neg m e ef fr) (hrnd : ∀ r, rnd = .stoch r → r < 65536) (k : Nat) :
    p.roundMag rnd (m * 2 ^ k) 1 (e - k) = (m, e) := by
  by_cases hm : m = 0
  · have he : e = 1 - (p.bias : Int) - p.fbits :=
      h.normal_or_minExp.resolve_left fun hle => absurd (Nat.two_pow_pos p.fbits) (by omega)
    simp [FpParams.roundMag, hm, he]
  · simp only [FpParams.roundMag, if_neg (mul_two_pow_ne_zero hm k), h.spacing hm, roundQuot_scaleQ hrnd]

/-- A magnitude is not beyond the range when its significand reaches at most the largest one, counted in its own quanta. -/
theorem FpParams.not_beyond (he : e ≤ p.maxK) (hm : m ≤ p.maxT * 2 ^ (p.maxK - e).toNat) : p.beyond m e = false := by
  have hint : (m : Int) ≤ (p.maxT : Int) * ((2 ^ (p.maxK - e).toNat : Nat) : Int) := by exact_mod_cast hm
  simpa [beyond, Dy.lt, shlInt, Int.min_eq_right he] using hint

/-- In a format with infinities the largest finite value has the exponent field below theirs and all fraction bits set. -/
theorem FpParams.Finite.within_of_inf (h : p.Finite b neg m e ef fr) (hinf : p.hasInf = true)
    (hT : p.maxT = 2 ^ (p.fbits + 1) - 1) (hK : p.maxK = ((2 ^ p.ebits - 2 : Nat) : Int) - p.bias - p.fbits)
    (hebits : 3 ≤ 2 ^ p.ebits) :
    e ≤ p.maxK ∧ m ≤ p.maxT * 2 ^ (p.maxK - e).toNat := by
  have hexp := h.exp_lt
  have htop := h.notTop hinf
  have hmag := h.mag_lt
  constructor
  · obtain ⟨-, -, rfl⟩ | ⟨-, -, rfl⟩ := h.value <;> omega
  · exact Nat.le_trans (show m ≤ p.maxT by omega) (Nat.le_mul_of_pos_right _ (Nat.two_pow_pos _))

/-- E4M3 keeps finite values under its top exponent field, up to the fraction below that of its NaN (R31). -/
theorem FpParams.Finite.within_e4m3 (h : fpE4M3.Finite b neg m e ef fr) :
    e ≤ fpE4M3.maxK ∧ m ≤ fpE4M3.maxT * 2 ^ (fpE4M3.maxK - e).toNat := by
  have hexp : ef < 16 := h.exp_lt
  have hfrac : fr < 8 := h.frac_lt
  have hnan : ef = 15 → fr ≠ 7 := h.notNan rfl
  have hvalue : (ef = 0 ∧ m = fr ∧ e = -9) ∨ (ef ≠ 0 ∧ m = 8 + fr ∧ e = (ef : Int) - 7 - 3) := h.value
  show e ≤ 5 ∧ m ≤ 14 * 2 ^ (5 - e).toNat
  refine ⟨by omega, ?_⟩
  by_cases htop : ef = 15
  · have hpos := Nat.two_pow_pos (5 - e).toNat
    have := hnan htop
    omega
  · have hdouble : 2 ^ 1 ≤ 2 ^ (5 - e).toNat := Nat.pow_le_pow_right (by decide) (by omega)
    omega

/-- No finite encoding of the five formats of R30 is beyond the format's largest finite value. -/
theorem FpParams.Finite.within (hp : p ∈ [fpFP32, fpBF16, fpFP16, fpE4M3, fpE5M2]) (h : p.Finite b neg m e ef fr) :
    e ≤ p.maxK ∧ m ≤ p.maxT * 2 ^ (p.maxK - e).toNat := by
  simp only [List.mem_cons, List.not_mem_nil, or_false] at hp
  obtain rfl | rfl | rfl | rfl | rfl := hp
  case inr.inr.inr.inl => exact h.within_e4m3
  all_goals exact h.within_of_inf rfl (by decide) (by decide) (by decide)

/-- A finite value of the format converts to its own encoding. -/
theorem FpParams.Finite.cvt (hp : p ∈ [fpFP32, fpBF16, fpFP16, fpE4M3, fpE5M2]) (h : p.Finite b neg m e ef fr)
    (hrnd : ∀ r, rnd = .stoch r → r < 65536) (sat : Bool) (k : Nat) :
    p.cvt sat rnd (.fin neg (m * 2 ^ k) (e - k)) = { bits := b, nf := false, sat := false } := by
  obtain ⟨he, hm⟩ := h.within hp
  simp [FpParams.cvt, cvtQ, h.roundMag hrnd, not_beyond he hm, h.encodeMag]

end Convert

/-- Settles O8: rounding leaves the value alone, the value lies within the range, and its fields go back to their places. -/
theorem representableValuesConvertToThemselves : Obligations.RepresentableValuesConvertToThemselves := by
  intro p hp sat rnd b k m neg e hrnd hb hdecode
  exact (FpParams.finite_of_decode hb hdecode).cvt hp hrnd sat k

end Sys2Proof.Machine
end

section
/-!
Checks that pass (R81, R97, R108, R109, R281). What a check does to its own tile, read and command is one replacement in a
list. A read's check also lets pairs of arrays, announcements of versions and their commands go as far as they can
(`State.settleAll`), and none of that changes how many checks of a command are outstanding, or a read of a command.
-/
namespace Sys2Proof.Machine

open Sys2Proof

/-! ### Replacing what a search finds -/

/-- When the element that a search finds is replaced by one that the search accepts, the search finds the new one. -/
theorem find?_map_replace {α : Type} {p : α → Bool} {P : α → Prop} [DecidablePred P] (hP : ∀ u, P u ↔ p u = true)
    {x y : α} (hx : p x = true) {l : List α} (hy : l.find? p = some y) :
    (l.map fun u => if P u then x else u).find? p = some x := by
  induction l with
  | nil => cases hy
  | cons u l ih =>
    by_cases hu : p u = true
    · simp [hP, hu, hx]
    · rw [List.find?_cons_of_neg hu] at hy
      simpa [hP, hu] using ih hy

theorem State.tile_key {s : State} {q i : Nat} {z : Tile} (h : s.tile q i = some z) : z.seq = q ∧ z.index = i := by
  simpa using List.find?_some h

theorem State.read_key {s : State} {q i : Nat} {r : Read} (h : s.read q i = some r) : r.seq = q ∧ r.index = i := by
  simpa using List.find?_some h

/-- A tile is found as it was stored. -/
theorem State.tile_setTile {s : State} {q i : Nat} {z x : Tile} (h : s.tile q i = some z) (hseq : x.seq = q)
    (hindex : x.index = i) : (s.setTile x).tile q i = some x :=
  find?_map_replace (by simp [hseq, hindex]) (by simp [hseq, hindex]) h

/-- A read is found as it was stored. -/
theorem State.read_setRead {s : State} {q i : Nat} {r x : Read} (h : s.read q i = some r) (hseq : x.seq = q)
    (hindex : x.index = i) : (s.setRead x).read q i = some x :=
  find?_map_replace (by simp [hseq, hindex]) (by simp [hseq, hindex]) h

theorem State.tile_of_mc {s t : State} (h : t.mc = s.mc) (q i : Nat) : t.tile q i = s.tile q i := by
  unfold State.tile; rw [h]

theorem State.read_of_reads {s t : State} (h : t.af.reads = s.af.reads) (q i : Nat) : t.read q i = s.read q i := by
  unfold State.read; rw [h]

/-! ### Operations that keep the checks and the reads of a command -/

theorem Frame.af_eq {l : List Comp} {s t : State} (h : Frame l s t) (hl : l.contains .af = false) : t.af = s.af :=
  h.same .af (by simpa using hl)

/-- Checks of command `q` that are outstanding; none when there is no such command. -/
def State.checksOf (s : State) (q : Nat) : Option Nat := (s.cmd q).map Cmd.checks

theorem State.checksOf_isSome (s : State) (q : Nat) : (s.checksOf q).isSome = (s.cmd q).isSome := by
  simp [State.checksOf]

/-- In `t` command `q` has the checks outstanding that it has in `s`, and, when there is that command, its reads are the same.
Without the command the reads under its number are another module's, which may be dropped (R119). -/
structure State.KeepsChecks (q : Nat) (s t : State) : Prop where
  checks : t.checksOf q = s.checksOf q
  read : (s.cmd q).isSome → ∀ i, t.read q i = s.read q i

namespace State.KeepsChecks

variable {q : Nat} {s t u : State}

theorem refl : KeepsChecks q s s := ⟨rfl, fun _ _ => rfl⟩

theorem trans (h : KeepsChecks q s t) (k : KeepsChecks q t u) : KeepsChecks q s u := by
  refine ⟨k.checks.trans h.checks, fun hq i => (k.read ?_ i).trans (h.read hq i)⟩
  rwa [← checksOf_isSome, h.checks, checksOf_isSome]

theorem foldl {α : Type} {f : State → α → State} (hf : ∀ v x, KeepsChecks q v (f v x)) (l : List α) (s : State) :
    KeepsChecks q s (l.foldl f s) :=
  List.foldlRecOn l f refl fun v hv x _ => hv.trans (hf v x)

theorem of_cmds_reads (hc : t.hg.cmds = s.hg.cmds) (hr : t.af.reads = s.af.reads) : KeepsChecks q s t :=
  ⟨congrArg (Option.map Cmd.checks) (State.cmd_of_cmds hc q), fun _ => State.read_of_reads hr q⟩

theorem of_frame {l : List Comp} (h : Frame l s t) (hh : l.contains .hg = false) (ha : l.contains .af = false) :
    KeepsChecks q s t :=
  of_cmds_reads (congrArg HostGate.cmds (h.hg_eq hh)) (congrArg ArrayField.reads (h.af_eq ha))

theorem of_cmds {l : List Comp} (h : Frame l s t) (hc : t.hg.cmds = s.hg.cmds) (ha : l.contains .af = false) :
    KeepsChecks q s t :=
  of_cmds_reads hc (congrArg ArrayField.reads (h.af_eq ha))

theorem updCmd {r : Nat} {f : Cmd → Cmd} (hseq : ∀ c, (f c).seq = c.seq) (hchecks : ∀ c, (f c).checks = c.checks) :
    KeepsChecks q s (s.updCmd r f) := by
  refine ⟨?_, fun _ => State.read_of_reads rfl q⟩
  unfold checksOf
  by_cases hqr : q = r
  · subst hqr
    rw [State.cmd_updCmd f hseq, Option.map_map]
    exact congrArg (Option.map · (s.cmd q)) (funext hchecks)
  · rw [State.cmd_updCmd_ne f hqr hseq]

/-! #### Delivery and failure of commands -/

theorem haltOn (c : Cmd) (x : Status) : KeepsChecks q s (s.haltOn c x) := of_cmds (State.haltOn_frame s c x) (by simp) rfl

theorem deliver (r : Nat) : KeepsChecks q s (s.deliver r) := by
  cases h : s.cmd r with
  | none =>
    unfold State.deliver
    simp only [h]
    exact refl
  | some c =>
    exact (updCmd (r := r) (f := s.deliveredCmd) (fun _ => rfl) fun _ => rfl).trans
      (of_cmds_reads (State.deliver_cmds h) (congrArg ArrayField.reads ((State.deliver_frame s r).af_eq rfl)))

theorem timeOut (c : Cmd) : KeepsChecks q s (s.timeOut c) := by
  unfold State.timeOut
  split
  · exact refl
  · refine trans ?_ (haltOn ..)
    exact updCmd (fun _ => rfl) fun _ => rfl

theorem markStep (n : Nat) (m : StepMark) : KeepsChecks q s (s.markStep n m) :=
  of_cmds (State.markStep_frame s n m) (State.markStep_cmds s n m) rfl

theorem dropStep (n : Nat) : KeepsChecks q s (s.dropStep n) := by
  unfold State.dropStep
  split
  · exact refl
  · extract_lets marked _ dropped
    have hmarked : KeepsChecks q s marked :=
      ((markStep n .incomplete).trans (of_frame (State.sendSummary_frame _ n false true) rfl rfl)).trans
        (of_frame (State.releaseStep_frame _ n) rfl rfl)
    have hdropped : KeepsChecks q marked dropped := of_cmds_reads rfl rfl
    exact (hmarked.trans hdropped).trans (foldl (fun _ => timeOut) _ _)

theorem markIncomplete (n : Nat) : KeepsChecks q s (s.markIncomplete n) := by
  unfold State.markIncomplete
  split
  · exact refl
  · exact ((dropStep n).trans (dropStep (n + 1))).trans (of_cmds_reads rfl rfl)

theorem failCmd (r : Nat) (x : Status) (detail : Nat) : KeepsChecks q s (s.failCmd r x detail) := by
  unfold State.failCmd
  split
  · exact refl
  · extract_lets failed
    have hfailed : KeepsChecks q s failed := by
      refine trans ?_ (haltOn ..)
      exact updCmd (fun _ => rfl) fun _ => rfl
    split
    · exact hfailed.trans (markIncomplete _)
    · exact hfailed

/-! #### Reads that are dropped -/

/-- A read for another module is dropped with the parts of its own number only, which no command has. -/
theorem retractRead {r : Read} (hr : s.cmd r.seq = none) : KeepsChecks q s (s.retractRead r) := by
  refine ⟨congrArg (Option.map Cmd.checks) (State.cmd_of_cmds
    (congrArg HostGate.cmds ((State.retractRead_frame s r).hg_eq rfl)) q), fun hq i => ?_⟩
  have hseq : r.seq ≠ q := by
    rintro rfl
    simp [hr] at hq
  have hreads : (s.spanMsg r 0x43 []).af.reads = s.af.reads :=
    congrArg ArrayField.reads ((State.spanMsg_frame s r 0x43 []).af_eq rfl)
  unfold State.retractRead State.read
  simp only [hreads, List.find?_filter]
  congr 1
  funext x
  by_cases hx : x.seq = q
  · have hother : ¬ x.seq = r.seq := fun h => hseq (h.symm.trans hx)
    simp [State.partsOf, hother, Bool.beq_eq_decide_eq]
  · simp [hx]

theorem failRead (r : Read) (x : Status) (detail : Nat) : KeepsChecks q s (s.failRead r x detail) := by
  unfold State.failRead
  split
  · exact failCmd ..
  · next hr => exact retractRead (Option.not_isSome_iff_eq_none.mp hr)

/-! #### Versions of pairs -/

theorem setArr (k : Nat) (a : Arr) : KeepsChecks q s (s.setArr k a) := of_cmds_reads rfl rfl

theorem setPairVersion (x : Resident) (sg g v : Nat) : KeepsChecks q s (s.setPairVersion x sg g v) := by
  unfold State.setPairVersion
  dsimp only
  split
  · exact (setArr ..).trans (setArr ..)
  · exact setArr ..

theorem imageRows (r : Nat) (x : Resident) (p : Nat) (rows : List (Nat × List (Nat × Int))) :
    KeepsChecks q s (s.imageRows r x p rows) := by
  refine foldl (fun v row => ?_) _ _
  refine foldl (fun v e => ?_) _ _
  refine foldl (fun v a => ?_) _ _
  exact (of_cmds (State.wr_frame ..) (State.wr_cmds ..) rfl).trans (of_frame (State.noteWrite_frame ..) rfl rfl)

theorem queueOn (kind : ActKind) (work : ActWork) (k cls : Nat) (seqs : List Nat) :
    KeepsChecks q s (s.queueOn kind work k cls seqs) := of_frame (State.queueOn_frame ..) rfl rfl

theorem settlePair (x : Resident) (sg g n : Nat) : KeepsChecks q s (s.settlePair x sg g n) := by
  induction n generalizing s with
  | zero => exact refl
  | succ n ih =>
    unfold State.settlePair
    split
    · exact refl
    split
    · exact refl
    dsimp only
    split
    · exact refl
    · split
      · exact ((imageRows ..).trans (setPairVersion ..)).trans ih
      · exact refl
    · split
      · split
        · exact refl
        · exact setArr ..
      · split
        · exact (setPairVersion ..).trans ih
        · exact (setArr ..).trans (queueOn ..)

theorem progEnds : KeepsChecks q s s.progEnds := by
  refine foldl (fun v c => ?_) _ _
  split
  · split
    · split
      · split
        · exact deliver _
        · exact refl
      · exact refl
    · exact refl
  · exact refl

theorem failOrphans : KeepsChecks q s s.failOrphans := by
  refine foldl (fun v r => ?_) _ _
  split
  · split
    · exact failRead ..
    · exact refl
  · exact refl

theorem settleAll : KeepsChecks q s s.settleAll :=
  ((foldl (fun v x => foldl (fun _ (p : Nat × Nat) => settlePair x p.1 p.2 _) _ v) _ s).trans failOrphans).trans progEnds

end State.KeepsChecks

/-! ### A check that passes -/

section Passed

variable {s : State} {q i : Nat} {r : Read} {c : Cmd}

/-- One check fewer of the command is outstanding. -/
theorem State.cmd_checkPassed (h : s.cmd q = some c) (key : List Nat) :
    (s.checkPassed q key).cmd q = some { c with checks := c.checks - 1 } := by
  unfold State.checkPassed
  rw [State.cmd_updCmd (fun c => { c with checks := c.checks - 1 }) fun _ => rfl]
  exact congrArg (Option.map _) h

/-- Once the check of a read has passed and every pair has gone as far as it can, the read stands as the check left it, and
its command has one check fewer outstanding. -/
theorem State.settleAll_checkPassed (hr : s.read q i = some r) (hc : s.cmd q = some c) {x : Read} (hseq : x.seq = r.seq)
    (hindex : x.index = r.index) (key : List Nat) :
    ((s.setRead x).checkPassed q key).settleAll.read q i = some x ∧
      ∃ d, ((s.setRead x).checkPassed q key).settleAll.cmd q = some d ∧ d.checks = c.checks - 1 := by
  obtain ⟨hq, hi⟩ := State.read_key hr
  have hpassed := State.cmd_checkPassed (s := s.setRead x) hc key
  have hsettled : KeepsChecks q ((s.setRead x).checkPassed q key) _ := .settleAll
  constructor
  · calc ((s.setRead x).checkPassed q key).settleAll.read q i
        = ((s.setRead x).checkPassed q key).read q i := hsettled.read (by rw [hpassed]; rfl) i
      _ = (s.setRead x).read q i :=
        State.read_of_reads (congrArg ArrayField.reads ((State.checkPassed_frame _ q key).af_eq rfl)) q i
      _ = some x := State.read_setRead hr (hseq.trans hq) (hindex.trans hi)
  · have hchecks := hsettled.checks
    simpa [State.checksOf, hpassed] using hchecks

end Passed

/-! ### The three checks -/

/-- A number below 2^32 names a tile. -/
theorem exec_tileCheckComplete_tile {q i : Nat} (hi : i < 2 ^ 32) (ok : Bool) (core : Fin 66) (check : Fin 4) (place : CheckPlace)
    (x : Fin 255) (s : State) :
    exec (.tileCheckComplete q i ok core check place x) s = .next (s.tileChecked q i (checkFault ok core check place x)) :=
  congrArg Host.Outcome.next (if_pos hi)

/-- The number 2^32 + i names read i. -/
theorem exec_tileCheckComplete_read (q i : Nat) (ok : Bool) (core : Fin 66) (check : Fin 4) (place : CheckPlace) (x : Fin 255)
    (s : State) :
    exec (.tileCheckComplete q (2 ^ 32 + i) ok core check place x) s =
      .next (s.resolutionChecked q i (checkFault ok core check place x)) := by
  refine congrArg Host.Outcome.next ((if_neg (Nat.not_lt.mpr (Nat.le_add_right ..))).trans ?_)
  rw [Nat.add_sub_cancel_left]

/-- The check of a tile passes (R80, R81). -/
theorem State.tileChecked_passed {s : State} {q i : Nat} {fault : Option CheckFault} {z : Tile} {c : Cmd}
    (hz : s.tile q i = some z) (hc : s.cmd q = some c) (hstage : z.stage = .delivered)
    (hf : ∀ f, fault = some f → z.faulty f = false) :
    s.tileChecked q i fault = (s.setTile { z with stage := .checked }).checkPassed q [0, i] := by
  have hnone : fault.filter z.faulty = none := Option.filter_eq_none_iff.mpr fun f hfault => by simp [hf f hfault]
  simp [State.tileChecked, hz, hc, hstage, hnone]

/-- The check of a resolved read passes (R97, R281): the residue reported is that of the exact sum. -/
theorem State.resolutionChecked_passed {s : State} {q i : Nat} {fault : Option CheckFault} {r : Read} {y : Resident} {c : Cmd}
    (hr : s.read q i = some r) (hy : s.readTensor q = some y) (hc : s.cmd q = some c) (hshadow : r.shadow = true)
    (hf : ∀ f, fault = some f → f.place.elem < r.lines y → rho (s.idealP y r r.lo r.len f.place.elem) = f.observed.val) :
    s.resolutionChecked q i fault =
      ((s.setRead { r with shadow := false }).checkPassed q [1, r.vec, r.s, r.g, r.lo, r.len]).settleAll := by
  have hnone : fault.filter (fun f => (if f.place.elem < r.lines y then rho (s.idealP y r r.lo r.len f.place.elem)
      else f.observed.val) != f.observed.val) = none := by
    refine Option.filter_eq_none_iff.mpr fun f hfault => ?_
    split
    · next hline => simp [hf f hfault hline]
    · simp
  simp [State.resolutionChecked, hr, hy, hc, hshadow, hnone]

/-- The checksum test of a read passes (R108, R109): every sum that was formed is within tolerance. -/
theorem State.checksumEnd_passed {s : State} {q i : Nat} {r : Read} {y : Resident} {c : Cmd} (hr : s.read q i = some r)
    (hy : s.readTensor q = some y) (hc : s.cmd q = some c) (htesting : r.testing = true)
    (hd : ∀ d, some d ∈ r.dsum → tolExceeded s.cksBase s.cksSlope (y.drivenOf r) (y.testRange r.transpose) d = false) :
    s.checksumEnd q i =
      ((s.setRead { r with testing := false }).checkPassed q [3, r.vec, r.s, r.g, r.lo, r.len]).settleAll := by
  unfold State.checksumEnd
  simp only [hr, hy, hc, htesting, not_true_eq_false, if_false]
  rw [List.filterMap_eq_nil_iff.mpr ?withinTolerance]
  case withinTolerance =>
    rintro ⟨k, _ | d⟩ hp
    · rfl
    · simp [hd d (List.of_mem_zip hp).2]

/-- Settles O33: a report without a fault leaves the search for faults empty, the tile or the read is stored as checked, and what
then settles keeps the reads and the outstanding checks of the command. -/
theorem checksThatPassAreTakenFromTheirCommand : Obligations.ChecksThatPassAreTakenFromTheirCommand := by
  refine ⟨?tile, ?resolution, ?checksum⟩
  case tile =>
    intro s q i ok core check place x z c hi hz hc hstage hf
    obtain ⟨hq, hindex⟩ := State.tile_key hz
    have hexec := exec_tileCheckComplete_tile (q := q) hi ok core check place x s
    rw [State.tileChecked_passed hz hc hstage hf] at hexec
    refine ⟨_, hexec, ?_, _, State.cmd_checkPassed (s := s.setTile { z with stage := .checked }) hc [0, i], rfl⟩
    rw [State.tile_of_mc ((State.checkPassed_frame _ q [0, i]).same .mc (by decide))]
    exact State.tile_setTile hz hq hindex
  case resolution =>
    intro s q i ok core check place x r y c hr hy hc hshadow hf
    have hexec := exec_tileCheckComplete_read q i ok core check place x s
    rw [State.resolutionChecked_passed hr hy hc hshadow hf] at hexec
    exact ⟨_, hexec, State.settleAll_checkPassed hr hc (x := { r with shadow := false }) rfl rfl _⟩
  case checksum =>
    intro s q i r y c hr hy hc htesting hd
    exact ⟨_, congrArg Host.Outcome.next (State.checksumEnd_passed hr hy hc htesting hd),
      State.settleAll_checkPassed hr hc (x := { r with testing := false }) rfl rfl _⟩

end Sys2Proof.Machine
end

section
/-!
Array reads from start to delivery (R96 to R104, R117). What a row makes of a read is one replacement in the list of reads; what it
also does, to counters, to the Logbook, to the tiles that take up the sums, leaves that list alone.
-/
namespace Sys2Proof.Machine

open Sys2Proof

/-! ### What leaves the reads alone -/

theorem State.read_of_frame {l : List Comp} {s t : State} (h : Frame l s t) (hl : l.contains .af = false) (q i : Nat) :
    t.read q i = s.read q i :=
  State.read_of_reads (congrArg ArrayField.reads (h.af_eq hl)) q i

section ReadsKept

variable (s : State) (q i : Nat)

@[simp] theorem State.read_evt (c : Option Nat) (k n : Nat) : (s.evt c k n).read q i = s.read q i :=
  State.read_of_frame (State.evt_frame ..) rfl q i
@[simp] theorem State.read_bump (off n : Nat) : (s.bump off n).read q i = s.read q i :=
  State.read_of_frame (State.bump_frame ..) rfl q i
@[simp] theorem State.read_noteStart (r : Read) (k : Nat) : (s.noteStart r k).read q i = s.read q i :=
  State.read_of_frame (State.noteStart_frame ..) rfl q i
@[simp] theorem State.read_crossing (c : Option Nat) (a b : Nat) : (s.crossing c a b).read q i = s.read q i :=
  State.read_of_frame (State.crossing_frame ..) rfl q i
@[simp] theorem State.read_addCheck (c : Nat) : (s.addCheck c).read q i = s.read q i :=
  State.read_of_frame (State.addCheck_frame ..) rfl q i
@[simp] theorem State.read_addCond (c : Nat) (l : List Status) (ind : BitVec 16) : (s.addCond c l ind).read q i = s.read q i :=
  State.read_of_frame (State.addCond_frame ..) rfl q i
@[simp] theorem State.read_homeWork (r : Read) : (s.homeWork r).read q i = s.read q i :=
  State.read_of_frame (State.homeWork_frame ..) rfl q i
@[simp] theorem State.read_logRead (y : Resident) (r : Read) (n : Nat) : (s.logRead y r n).read q i = s.read q i :=
  State.read_of_frame (State.logRead_frame ..) rfl q i
@[simp] theorem State.read_readEnded (r : Read) : (s.readEnded r).read q i = s.read q i :=
  State.read_of_frame (State.readEnded_frame ..) rfl q i
@[simp] theorem State.read_imageRead (y : Resident) (r : Read) : (s.imageRead y r).read q i = s.read q i :=
  State.read_of_frame (State.imageRead_frame ..) rfl q i

/-- The statistics of a read are its array's. -/
@[simp] theorem State.read_gatherGain (y : Resident) (r : Read) (meas : List Int) : (s.gatherGain y r meas).read q i = s.read q i := by
  unfold State.gatherGain
  dsimp only
  split <;> rfl

end ReadsKept

/-! ### Start (R117, R134) -/

section Start

variable {s : State} {q i k : Nat} {r : Read} {y : Resident}

/-- A read that starts stands as reading its array. -/
theorem State.read_startOn (hr : s.read q i = some r) : (s.startOn r k).read q i = some { r with
    stage := .reading, array := k, startedAt := s.now, waitSince := none, versionSince := none, margin := s.margin } := by
  obtain ⟨hq, hi⟩ := State.read_key hr
  unfold State.startOn
  simp only [State.read_crossing, State.read_noteStart, State.read_evt]
  exact State.read_setRead hr hq hi

/-- The array of a pair can run a read that is at its version, when bank, upkeep and the other reads of the array allow it. -/
theorem State.couldRun_of (hr : s.read q i = some r) (hy : s.readTensor q = some y) (hversion : r.version = s.pairVersion y r.s r.g)
    (hstays : s.leaving y r.s r.g = false) (hready : s.bankReady k = true) (hcal : s.convCal (k / 264) ≠ 0)
    (hopen : s.closed k = false) (hfree : ∀ x ∈ s.af.reads, x.stage = .reading → x.array ≠ k) : s.couldRun r k = true := by
  have hmet : s.versionMet r = true := by simp [State.versionMet, (State.read_key hr).1, hy, hstays, ← hversion]
  have hnone : (s.af.reads.any fun x => x.stage == .reading && x.array == k) = false := by simpa using hfree
  simp [State.couldRun, hmet, hready, hcal, hopen, hnone]

/-- A waiting read that is first in line and at its version starts on its array, once that array and its die and bank have room. -/
theorem State.readStart_array (hr : s.read q i = some r) (hy : s.readTensor q = some y) (hstage : r.stage = .waiting)
    (hlive : s.readLive q = true) (hfirst : s.readBehind r = false) (hversion : r.version = s.pairVersion y r.s r.g)
    (hstays : s.leaving y r.s r.g = false) (hserver : s.server y r.s r.g = .array k) (hrun : s.couldRun r k = true)
    (hdie : s.readingDie (keyDie k) < s.readShare) (hbank : s.readingBank (k / 264) < 64) :
    s.readStart q i = s.startOn r k := by
  simp [State.readStart, hr, hy, hstage, hlive, hfirst, hversion, hstays, hserver, hrun, hdie, hbank]

end Start

/-! ### Delivery and splitting (R99, R103) -/

section Ends

variable {s : State} {q i : Nat} {r x : Read}

/-- A read that delivers stands with its sums. -/
theorem State.read_readDeliver (hr : s.read x.seq x.index = some r) (sums : List Int) :
    (s.readDeliver x sums).read x.seq x.index = some { x with stage := .delivered, sums := sums } := by
  have hset : (s.setRead { x with stage := .delivered, sums := sums }).read x.seq x.index = _ := State.read_setRead hr rfl rfl
  unfold State.readDeliver
  dsimp only
  split <;> simpa only [State.read_readEnded, State.read_crossing]

/-- A read that is found stays the one found when others are listed behind it. -/
theorem State.read_append {t : State} {l : List Read} (ht : t.af.reads = s.af.reads ++ l) (hr : s.read q i = some r) :
    t.read q i = some r := by
  unfold State.read at hr ⊢
  rw [ht, List.find?_append, hr]
  rfl

/-- A saturated read is split into its parts, or goes to the digital path after two splits. -/
theorem State.read_readSplit (hr : s.read x.seq x.index = some r) :
    ∃ z, (s.readSplit x).read x.seq x.index = some z ∧ z.stage = if x.part < 2 then .split else .digital := by
  unfold State.readSplit
  dsimp only
  split
  case isTrue hpart =>
    simp only [State.read_homeWork, State.read_addCond, State.read_evt, State.read_bump]
    exact ⟨_, State.read_setRead hr rfl rfl, (if_neg (Nat.not_lt.mpr hpart)).symm⟩
  case isFalse hpart =>
    refine ⟨{ x with stage := .split }, ?_, (if_pos (Nat.not_le.mp hpart)).symm⟩
    split
    all_goals
      simp only [State.read_evt, State.read_bump]
      exact State.read_append rfl (State.read_setRead hr rfl rfl)

variable {y : Resident} {known : List (Option Int)} {railed : Bool}

/-- A read with a confirmed line that saturates is split. -/
theorem State.read_readExact_railed (hr : s.read x.seq x.index = some r) :
    ∃ z, (s.readExact y x known true).read x.seq x.index = some z ∧ z.stage = if x.part < 2 then .split else .digital := by
  simpa [State.readExact] using State.read_readSplit (s := s.logRead y x (x.part + 1)) (x := { x with meas := [] })
    (by simpa using hr)

/-- A read delivers when no line saturates: the code of a line that is not known comes from the level image. -/
theorem State.read_readExact_delivered (hr : s.read x.seq x.index = some r)
    (hsat : ∀ l, l < x.lines y → known.getD l none = none → y.saturates (y.code x.transpose (s.idealP y x x.lo x.len l)) = false) :
    (s.readExact y x known false).read x.seq x.index = some { x with
      meas := [], stage := .delivered
      sums := (List.range (x.lines y)).map fun l =>
        y.mOf x.transpose ((known.getD l none).getD (y.code x.transpose (s.idealP y x x.lo x.len l))) } := by
  unfold State.readExact
  extract_lets codes sat whole logged
  have hcodes : codes = (List.range (x.lines y)).map fun l =>
      (known.getD l none).getD (y.code x.transpose (s.idealP y x x.lo x.len l)) :=
    List.map_congr_left fun l _ => by cases known.getD l none <;> rfl
  have hwhole : sat = false := by
    simp only [sat, Bool.false_or, List.any_eq_false, List.mem_range, Bool.and_eq_true, beq_iff_eq, not_and, Bool.not_eq_true]
    intro l hl hnone
    have hcode : codes.getD l 0 = y.code x.transpose (s.idealP y x x.lo x.len l) := by
      simp only [List.getD_eq_getElem?_getD] at hnone
      simp [hcodes, hl, hnone]
    rw [hcode]
    exact hsat l hl hnone
  have hlogged : (if x.part = 0 ∧ ¬ x.standIn then logged.gatherGain y x x.meas else logged).read whole.seq whole.index = some r := by
    split <;> simpa [logged]
  rw [if_neg (by simp [hwhole])]
  refine (State.read_readDeliver hlogged _).trans ?_
  rw [hcodes, List.map_map]
  rfl

end Ends

/-! ### The end of a conversion (R96 to R98) -/

section Conversion

variable {s : State} {q i : Nat} {r : Read} {y : Resident} {meas : List Int} {ends : List LineEnd}

/-- What is known of line `l` after a conversion is the code with which the line has ended. -/
theorem getD_codes {f : Nat → LineEnd} {n l : Nat} (hl : l < n) :
    (((List.range n).map f).map LineEnd.code).getD l none = (f l).code := by
  simp [hl]

/-- The delivered sums of a read whose lines are all confirmed. -/
theorem sums_of_confirmed {f : Nat → LineEnd} {n : Nat} (g : Nat → Int) (h : Int → Int)
    (hall : ∀ e ∈ (List.range n).map f, e.code ≠ none) :
    ((List.range n).map fun l => h (((((List.range n).map f).map LineEnd.code).getD l none).getD (g l))) =
      ((List.range n).map f).map fun e => h (e.code.getD 0) := by
  refine Eq.trans ?_ List.map_map.symm
  refine List.map_congr_left fun l hl => ?_
  obtain ⟨k, hk⟩ := Option.ne_none_iff_exists'.mp (hall (f l) (List.mem_map_of_mem hl))
  rw [getD_codes (List.mem_range.mp hl)]
  simp [hk]

/-- What the end of a conversion makes of the read, by whether its lines are confirmed and whether one saturates. -/
theorem State.read_conversionEnd (hr : s.read q i = some r) (hy : s.readTensor q = some y) (hstage : r.stage = .reading)
    (htime : r.startedAt + (if y.fine then 128 else 80) ≤ s.now)
    (hends : ends = (List.range (r.lines y)).map (lineEnd y (s.arr r.array) r meas)) :
    ∃ z, (s.conversionEnd q i meas).read q i = some z ∧
      (ends.any LineEnd.sat = false → (∀ e ∈ ends, e.code ≠ none) →
        z.stage = .delivered ∧ z.sums = ends.map fun e => y.mOf r.transpose (e.code.getD 0)) ∧
      (ends.any LineEnd.sat = true → (∀ e ∈ ends, e.code ≠ none) → z.stage = (if r.part < 2 then .split else .digital)) ∧
      ((∃ e ∈ ends, e.code = none) → z.stage = .resolving ∧
        z.full = (decide (s.resolveLimit < (ends.filter fun e => e.code.isNone).length) || r.full)) := by
  obtain ⟨rfl, rfl⟩ := State.read_key hr
  unfold State.conversionEnd
  rw [hr, hy]
  change ∃ z, State.read (ite _ _ _) _ _ = some z ∧ _
  rw [if_neg (by simp [hstage, Nat.not_lt.mpr htime])]
  extract_lets a d c lines sums skipped r1 s1 u
  obtain rfl : ends = lines := hends
  have hs1 : s1.read r.seq r.index = some r1 := by simpa [s1] using State.read_setRead (x := r1) hr rfl rfl
  have hu : u = 0 ↔ ∀ e ∈ lines, e.code ≠ none := by simp [u]
  split
  case isTrue hzero =>
    have hall := hu.mp hzero
    have hnot : ¬ ∃ e ∈ lines, e.code = none := fun ⟨e, he, hnone⟩ => hall e he hnone
    cases hsat : lines.any LineEnd.sat with
    | true =>
      rw [show r1.railed = true from hsat]
      obtain ⟨z, hz, hzs⟩ := State.read_readExact_railed (x := r1) (y := y) (known := r1.codes) hs1
      exact ⟨z, hz, by simp, fun _ _ => hzs, fun h => absurd h hnot⟩
    | false =>
      rw [show r1.railed = false from hsat]
      have hknown : ∀ l, l < r1.lines y → r1.codes.getD l none ≠ none := fun l hl hnone =>
        hall _ (List.mem_map_of_mem (List.mem_range.mpr hl)) ((getD_codes hl).symm.trans hnone)
      exact ⟨_, State.read_readExact_delivered hs1 fun l hl hnone => absurd hnone (hknown l hl),
        fun _ _ => ⟨rfl, sums_of_confirmed _ _ hall⟩, by simp, fun h => absurd h hnot⟩
  case isFalse hpos =>
    have hopen : ¬ ∀ e ∈ lines, e.code ≠ none := mt hu.mpr hpos
    split
    case isTrue hle =>
      simp only [State.read_homeWork, State.read_evt, State.read_bump]
      exact ⟨_, State.read_setRead hs1 rfl rfl, fun _ h => absurd h hopen, fun _ h => absurd h hopen,
        fun _ => ⟨rfl, by simp [r1, u, Nat.not_lt.mpr hle]⟩⟩
    case isFalse hgt =>
      simp only [State.read_homeWork, State.read_evt, State.read_bump]
      exact ⟨_, State.read_setRead hs1 rfl rfl, fun _ h => absurd h hopen, fun _ h => absurd h hopen,
        fun _ => ⟨rfl, by simp [u, Nat.not_le.mp hgt]⟩⟩

end Conversion

/-! ### Resolution and the digital path (R97, R98, R104) -/

section Resolution

variable {s t : State} {q i : Nat} {r : Read} {y : Resident}

/-- Exact sums come from memory alone. -/
theorem State.idealP_of_ms (h : t.ms = s.ms) (y : Resident) (r : Read) (lo len l : Nat) :
    t.idealP y r lo len l = s.idealP y r lo len l := by
  simp only [State.idealP, State.level, State.rdByte_of_ms h]

/-- The read with its exact sums formed, on the cores of its home cluster. -/
def State.formed (s : State) (r : Read) : Read :=
  { r with shadow := true, spares := s.coreSpares (s.readHome r).1 (s.readHome r).2 }

/-- The state in which exact sums of a read have been formed: the level image read, the residue check outstanding (R97). -/
def State.sumsFormed (s : State) (y : Resident) (r : Read) : State :=
  ((s.imageRead y r).setRead (s.formed r)).addCheck r.seq

theorem State.sumsFormed_ms (s : State) (y : Resident) (r : Read) : (s.sumsFormed y r).ms = s.ms :=
  (State.imageRead_frame s y r).same .ms (by decide)

theorem State.read_sumsFormed (hr : s.read q i = some r) :
    (s.sumsFormed y r).read (s.formed r).seq (s.formed r).index = some (s.formed r) := by
  obtain ⟨rfl, rfl⟩ := State.read_key hr
  unfold State.sumsFormed
  rw [State.read_addCheck]
  exact State.read_setRead ((State.read_imageRead ..).trans hr) rfl rfl

/-- A resolution whose image bytes are read goes on with the codes that are known. -/
theorem State.resolved_of_read (hr : s.read q i = some r) (hy : s.readTensor q = some y) (hstage : r.stage = .resolving)
    (hheld : s.heldBack (y.imageNeeds r) = false) (hread : s.imageFail y r = none) :
    s.resolved_ q i = (s.sumsFormed y r).readExact y (s.formed r) (if r.full || r.standIn then [] else r.codes)
      (r.railed && !r.full) := by
  obtain ⟨rfl, rfl⟩ := State.read_key hr
  simp [State.resolved_, hr, hy, hstage, hheld, hread, State.sumsFormed, State.formed]

/-- A quarter on the digital path whose image bytes are read delivers its exact sums. -/
theorem State.digitalEnd_of_read (hr : s.read q i = some r) (hy : s.readTensor q = some y) (hstage : r.stage = .digital)
    (hheld : s.heldBack (y.imageNeeds r) = false) (hread : s.imageFail y r = none) :
    s.digitalEnd q i = (s.sumsFormed y r).readDeliver (s.formed r)
      ((List.range (r.lines y)).map fun l => y.mOfP r.transpose (s.idealP y r r.lo r.len l)) := by
  obtain ⟨rfl, rfl⟩ := State.read_key hr
  simp [State.digitalEnd, hr, hy, hstage, hheld, hread, State.sumsFormed, State.formed]

/-- A resolution without a saturating line delivers. -/
theorem State.read_resolved (hr : s.read q i = some r) (hy : s.readTensor q = some y) (hstage : r.stage = .resolving)
    (hheld : s.heldBack (y.imageNeeds r) = false) (hread : s.imageFail y r = none) {ks : List (Option Int)}
    (hks : ks = if r.full || r.standIn then [] else r.codes) (hrailed : r.railed = true → r.full = true)
    (hsat : ∀ l, l < r.lines y → ks.getD l none = none → y.saturates (y.code r.transpose (s.idealP y r r.lo r.len l)) = false) :
    (s.resolved_ q i).read q i = some { s.formed r with
      meas := [], stage := .delivered
      sums := (List.range (r.lines y)).map fun l =>
        y.mOf r.transpose ((ks.getD l none).getD (y.code r.transpose (s.idealP y r r.lo r.len l))) } := by
  have hideal (l : Nat) : (s.sumsFormed y r).idealP y (s.formed r) r.lo r.len l = s.idealP y r r.lo r.len l :=
    State.idealP_of_ms (State.sumsFormed_ms s y r) y (s.formed r) r.lo r.len l
  have hfull : (r.railed && !r.full) = false := by
    cases hrail : r.railed
    · rfl
    · simp [hrailed hrail]
  obtain ⟨rfl, rfl⟩ := State.read_key hr
  rw [State.resolved_of_read hr hy hstage hheld hread, hfull, ← hks]
  refine (State.read_readExact_delivered (x := s.formed r) (State.read_sumsFormed hr) fun l hl hnone => ?_).trans ?_
  · exact (congrArg (fun p => y.saturates (y.code r.transpose p)) (hideal l)).trans (hsat l hl hnone)
  · simp only [State.formed] at hideal ⊢
    simp only [hideal]
    rfl

end Resolution

/-- Settles O25: a row makes of the read the one replacement that its lemma names, and the rest of the row leaves the list of
reads alone. -/
theorem arrayReadsGoFromStartToDelivery : Obligations.ArrayReadsGoFromStartToDelivery := by
  refine ⟨?start, ?conversion, ?resolution, ?digital⟩
  case start =>
    intro s q i k r y hr hy hstage hlive hfirst hversion hstays hserver hready hcal hopen hdie hbank hfree
    have hrun := State.couldRun_of hr hy hversion hstays hready hcal hopen hfree
    refine ⟨_, rfl, ?_⟩
    rw [State.readStart_array hr hy hstage hlive hfirst hversion hstays hserver hrun hdie hbank]
    exact State.read_startOn hr
  case conversion =>
    intro s q i meas r y ends hr hy hstage htime hends
    exact ⟨_, rfl, State.read_conversionEnd hr hy hstage htime hends⟩
  case resolution =>
    intro s q i r y ks hr hy hstage hheld hread hks hrailed hsat
    exact ⟨_, rfl, _, State.read_resolved hr hy hstage hheld hread hks hrailed hsat, rfl, rfl, rfl⟩
  case digital =>
    intro s q i r y hr hy hstage hheld hread
    obtain ⟨rfl, rfl⟩ := State.read_key hr
    have hdelivers := State.read_readDeliver (x := s.formed r) (State.read_sumsFormed (y := y) hr)
      ((List.range (r.lines y)).map fun l => y.mOfP r.transpose (s.idealP y r r.lo r.len l))
    rw [← State.digitalEnd_of_read hr hy hstage hheld hread] at hdelivers
    exact ⟨_, rfl, _, hdelivers, rfl, rfl⟩

end Sys2Proof.Machine
end

section
/-!
Messages of a spanned tensor (R119, R120): partial sums and reports about them find the oldest work that waits for them, and an
input becomes reads of the pairs that this module holds.
-/
namespace Sys2Proof.Machine

open Sys2Proof

/-! ### What leaves the commands alone -/

@[simp] theorem State.crossing_cmds (s : State) (q : Option Nat) (a b : Nat) : (s.crossing q a b).hg.cmds = s.hg.cmds := by
  unfold State.crossing
  dsimp only
  split
  · rfl
  · exact State.evt_cmds ..

@[simp] theorem State.matvecDone_hg (s : State) (q : Nat) : (s.matvecDone q).hg = s.hg := (State.matvecDone_frame s q).hg_eq rfl
@[simp] theorem State.matvecDone_af (s : State) (q : Nat) : (s.matvecDone q).af = s.af := (State.matvecDone_frame s q).af_eq rfl
@[simp] theorem State.crossing_af (s : State) (q : Option Nat) (a b : Nat) : (s.crossing q a b).af = s.af :=
  (State.crossing_frame s q a b).af_eq rfl

/-! ### Partial sums (R119) -/

section Sums

variable {s : State} {rank id step : Nat} {pl : SpanPlace} {r : Resident} {w : Matvec}

/-- The work that takes a message is the oldest one of the tensor and step that waits for it. -/
theorem State.spanCmd_oldest {among : Matvec → List (Nat × Nat × Nat)} {pre post : List Matvec} (hr : s.resident id = some r)
    (hsplit : s.af.matvecs = pre ++ w :: post) (hpost : ∀ x ∈ post, x.tensor ≠ id) (htensor : w.tensor = id)
    (hstep : (s.cmd w.seq).any (fun c => c.step == step) = true) (hwaits : (pl.vec, pl.seg, pl.group) ∈ among w)
    (hrank : (r.placeOf pl.seg pl.group).1 = rank) (hbank : (r.placeOf pl.seg pl.group).2 / 264 = keyOfCoord pl.coord / 264) :
    s.spanCmd rank id step pl among = some w := by
  simp only [State.spanCmd, hr, Option.bind_some, hrank, hbank, and_self, if_true, hsplit, List.reverse_append, List.reverse_cons,
    List.append_assoc, List.find?_append]
  rw [List.find?_eq_none.mpr fun x hx => by simp [hpost x (List.mem_reverse.mp hx)], Option.none_or]
  simp [htensor, hstep, hwaits]

/-- The work after partial sums of a read have come: it waits for them no more, and their checks are still to be reported. -/
def Matvec.take (w : Matvec) (p : Nat × Nat × Nat) (got : List (Nat × Nat × Nat × Dy)) : Matvec :=
  { w with remote := w.remote.erase p, unchecked := w.unchecked ++ [p], received := w.received ++ got }

/-- The partial sums of a message, by line. -/
def spannedSums (v p : Nat) (e : Int) (ms : List Int) : List (Nat × Nat × Nat × Dy) :=
  ((List.range ms.length).zip ms).map fun x => (v, p, x.1, (Dy.mk x.2 e))

theorem State.spannedSum_eq (hr : s.resident id = some r) (hw : s.spanCmd rank id step pl Matvec.remote = some w) (e : Int)
    (ms : List Int) : s.spannedSum rank id step pl e ms =
      (((s.setMatvec (w.take (pl.vec, pl.seg, pl.group) (spannedSums pl.vec (r.pair pl.seg pl.group) e ms))).addCheck
        w.seq).crossing (some w.seq) 4 (w.home / 32)).matvecDone w.seq := by
  unfold State.spannedSum
  rw [hr, hw]
  rfl

/-- A stored work is among the works. -/
theorem State.mem_setMatvec {x : Matvec} (hw : w ∈ s.af.matvecs) (hx : x.seq = w.seq) : x ∈ (s.setMatvec x).af.matvecs :=
  List.mem_map.mpr ⟨w, hw, if_pos hx.symm⟩

theorem State.cmd_addCheck {q : Nat} {c : Cmd} (h : s.cmd q = some c) :
    (s.addCheck q).cmd q = some { c with checks := c.checks + 1 } := by
  unfold State.addCheck
  rw [State.cmd_updCmd (fun c => { c with checks := c.checks + 1 }) fun _ => rfl, h]
  rfl

theorem State.cmd_takenCheck {q : Nat} {c : Cmd} (h : s.cmd q = some c) :
    (s.updCmd q fun c => { c with checks := c.checks - 1 }).cmd q = some { c with checks := c.checks - 1 } := by
  rw [State.cmd_updCmd (fun c => { c with checks := c.checks - 1 }) fun _ => rfl, h]
  rfl

theorem State.spannedPassed_eq (hw : s.spanCmd rank id step pl Matvec.unchecked = some w) : s.spannedPassed rank id step pl =
    (s.setMatvec { w with unchecked := w.unchecked.erase (pl.vec, pl.seg, pl.group) }).updCmd w.seq fun c => { c with
      checks := c.checks - 1 } := by
  unfold State.spannedPassed
  rw [hw]

theorem State.spannedRetracted_eq (hw : s.spanCmd rank id step pl (fun w => w.unchecked ++ w.remote) = some w) :
    s.spannedRetracted rank id step pl =
      (s.setMatvec { w with unchecked := w.unchecked.erase (pl.vec, pl.seg, pl.group) }).taint w.seq := by
  unfold State.spannedRetracted
  rw [hw]

end Sums

/-! ### Reports of the sender (R119) -/

section Taint

variable {s : State} {q r : Nat} {c : Cmd}

/-- Tainting keeps the stage of a command and its mark, and gives the mark to the command named. -/
theorem State.cmd_taintOne (hsends : s.xe.sends = []) (hc : s.cmd q = some c) (hfailed : c.stage ≠ .failed)
    (hrefused : c.stage ≠ .refused) : (s.taintOne r).xe.sends = [] ∧ ∃ d, (s.taintOne r).cmd q = some d ∧
      d.stage = c.stage ∧ (c.tainted = true ∨ r = q → d.tainted = true) := by
  unfold State.taintOne
  split
  · next hnone => exact ⟨hsends, c, hc, rfl, fun h => h.resolve_right fun heq => by simp [← heq, hnone] at hc⟩
  · next d hd =>
    split
    · next hstays =>
      refine ⟨hsends, c, hc, rfl, fun h => h.elim id fun heq => ?_⟩
      obtain rfl : d = c := by simpa [heq, hc] using hd.symm
      simpa [hfailed, hrefused] using hstays
    · simp only [State.bump_xe, State.updCmd_xe, hsends, List.find?_nil]
      refine ⟨trivial, ?_⟩
      by_cases heq : q = r
      · subst heq
        have hmarked := State.cmd_updCmd (s := s) (q := q) (fun c => { c with tainted := true }) fun _ => rfl
        exact ⟨_, hmarked.trans (congrArg (Option.map _) hc), rfl, fun _ => rfl⟩
      · have hother := State.cmd_updCmd_ne (s := s) (fun c => { c with tainted := true }) heq fun _ => rfl
        exact ⟨c, hother.trans hc, rfl, fun h => h.resolve_right fun h => heq h.symm⟩

theorem State.cmd_foldl_taintOne (l : List Nat) (hsends : s.xe.sends = []) (hc : s.cmd q = some c) (hfailed : c.stage ≠ .failed)
    (hrefused : c.stage ≠ .refused) (hmark : c.tainted = true ∨ q ∈ l) :
    ∃ d, (l.foldl State.taintOne s).cmd q = some d ∧ d.tainted = true := by
  induction l generalizing s c with
  | nil => exact ⟨c, hc, by simpa using hmark⟩
  | cons r l ih =>
    obtain ⟨hsends', d, hd, hstage, htainted⟩ := State.cmd_taintOne (r := r) hsends hc hfailed hrefused
    refine ih hsends' hd (hstage ▸ hfailed) (hstage ▸ hrefused) ?_
    rcases hmark with h | h
    · exact .inl (htainted (.inl h))
    · rcases List.mem_cons.mp h with h | h
      · exact .inl (htainted (.inr h.symm))
      · exact .inr h

/-- The commands that start a chain of dependants are among them. -/
theorem State.mem_dependants {l : List Nat} (hq : q ∈ l) (k : Nat) : q ∈ s.dependants l k := by
  induction k generalizing l with
  | zero => exact hq
  | succ k ih =>
    unfold State.dependants
    dsimp only
    split
    · exact hq
    · exact ih (List.mem_append_left _ hq)

theorem State.cmd_taint (hsends : s.xe.sends = []) (hc : s.cmd q = some c) (hfailed : c.stage ≠ .failed)
    (hrefused : c.stage ≠ .refused) (hparent : c.parent = none) : ∃ d, (s.taint q).cmd q = some d ∧ d.tainted = true := by
  have hrepair := State.countRepair_frame s
  have hself : s.repaired q = q := by simp [State.repaired, hc, hparent]
  unfold State.taint
  rw [hself]
  exact State.cmd_foldl_taintOne _ ((congrArg Exchange.sends (hrepair.same .xe (by decide))).trans hsends)
    ((State.cmd_of_cmds (congrArg HostGate.cmds (hrepair.hg_eq rfl)) q).trans hc) hfailed hrefused
    (.inr (State.mem_dependants (List.mem_singleton_self q) _))

end Taint

/-! ### Inputs (R120) -/

/-- The reads of a command are numbered; nothing else of them changes. -/
theorem mem_number {l : List Read} {y : Read} (h : y ∈ number l) : ∃ x ∈ l, ∃ i, y = { x with index := i } := by
  obtain ⟨p, hp, rfl⟩ := List.mem_map.mp h
  exact ⟨p.2, (List.of_mem_zip hp).2, p.1, rfl⟩

theorem number_of_mem {l : List Read} {x : Read} (h : x ∈ l) : ∃ i, { x with index := i } ∈ number l := by
  obtain ⟨i, hi, rfl⟩ := List.getElem_of_mem h
  refine ⟨i, List.mem_map.mpr ⟨(i, l[i]), ?_, rfl⟩⟩
  exact List.mem_iff_getElem.mpr ⟨i, by simpa using hi, by simp⟩

section Inputs

variable {s : State} {rank id step : Nat} {r : Resident}

/-- The reads that an input sets up: one for each pair of the piece that this module holds (R120). -/
def State.spannedReads (s : State) (r : Resident) (step : Nat) (x : SpanPiece) (tr : Bool) (vals : List Val) : List Read :=
  number (((r.pairsOf tr x.index).filter fun p => s.isLocal r p.1 p.2).map fun p =>
    { newRead (2 ^ 65 + s.af.spanned.length) 0 x.vec p.1 p.2 tr (r.lineCount tr) (segment vals).1 (segment vals).2 (r.ver step) s.now with
      array := (r.placeOf p.1 p.2).2 })

theorem State.spannedInput_eq (hr : s.resident id = some r) (hspan : r.span = true) {vals : List Val}
    (hvals : vals.all Val.isZero = false) (x : SpanPiece) (tr : Bool) : s.spannedInput rank id step x tr vals =
      { s with af := { s.af with
        spanned := s.af.spanned ++ [(2 ^ 65 + s.af.spanned.length, rank, id, step)]
        reads := s.af.reads ++ s.spannedReads r step x tr vals } } := by
  unfold State.spannedInput
  rw [hr]
  exact if_neg (by simp [hvals, hspan])

variable {x : SpanPiece} {tr : Bool} {vals : List Val}

theorem State.of_mem_spannedReads {y : Read} (hy : y ∈ s.spannedReads r step x tr vals) :
    y.seq = 2 ^ 65 + s.af.spanned.length ∧ y.vec = x.vec ∧ y.stage = .waiting ∧ y.version = r.ver step ∧
      s.isLocal r y.s y.g = true ∧ (y.s, y.g) ∈ r.pairsOf tr x.index := by
  obtain ⟨z, hz, i, rfl⟩ := mem_number hy
  obtain ⟨p, hp, rfl⟩ := List.mem_map.mp hz
  obtain ⟨hpair, hlocal⟩ := List.mem_filter.mp hp
  exact ⟨rfl, rfl, rfl, rfl, hlocal, hpair⟩

theorem State.spannedReads_of_pair {p : Nat × Nat} (hp : p ∈ r.pairsOf tr x.index) (hlocal : s.isLocal r p.1 p.2 = true) :
    ∃ y ∈ s.spannedReads r step x tr vals, y.s = p.1 ∧ y.g = p.2 := by
  obtain ⟨i, hi⟩ := number_of_mem (List.mem_map_of_mem (List.mem_filter (p := fun p => s.isLocal r p.1 p.2).mpr ⟨hp, hlocal⟩))
  exact ⟨_, hi, rfl, rfl⟩

end Inputs

/-- Settles O26: a message finds the oldest work that waits for it, a report of passed checks is one change of the command, a
retraction taints it without a contribution to retract, and the reads of an input are one for each pair held here. -/
theorem spannedMessagesReachTheirReads : Obligations.SpannedMessagesReachTheirReads := by
  refine ⟨?sums, ?passed, ?retracted, ?input⟩
  case sums =>
    intro s rank id step v sg g coord e ms r w pre post hr hsplit hpost htensor hstep hwaits hrank hbank
    have hw : s.spanCmd rank id step ⟨v, sg, g, coord⟩ Matvec.remote = some w :=
      State.spanCmd_oldest hr hsplit hpost htensor hstep hwaits hrank hbank
    refine ⟨_, congrArg Host.Outcome.next (State.spannedSum_eq hr hw e ms), ⟨w.take (v, sg, g) _, ?_, rfl, rfl, rfl, rfl⟩, ?_⟩
    · rw [State.matvecDone_af, State.crossing_af]
      exact State.mem_setMatvec (w := w) (by simp [hsplit]) rfl
    · intro c hc
      refine ⟨{ c with checks := c.checks + 1 }, ?_, rfl⟩
      rw [State.cmd_of_cmds (congrArg HostGate.cmds (State.matvecDone_hg ..)), State.cmd_of_cmds (State.crossing_cmds ..)]
      exact State.cmd_addCheck (s := s.setMatvec _) hc
  case passed =>
    intro s rank id step v sg g coord w c hw hc
    exact ⟨_, _, congrArg Host.Outcome.next (State.spannedPassed_eq hw), State.cmd_takenCheck (s := s.setMatvec _) hc, rfl⟩
  case retracted =>
    intro s rank id step v sg g coord w c hw hc hfailed hrefused hparent hsends
    obtain ⟨d, hd, htainted⟩ := State.cmd_taint (s := s.setMatvec { w with unchecked := w.unchecked.erase (v, sg, g) })
      hsends hc hfailed hrefused hparent
    exact ⟨_, d, congrArg Host.Outcome.next (State.spannedRetracted_eq hw), hd, htainted⟩
  case input =>
    intro s rank id step v i tr vals r hr hspan hvals
    exact ⟨_, s.spannedReads r step ⟨v, i⟩ tr vals, congrArg Host.Outcome.next (State.spannedInput_eq hr hspan hvals _ _), rfl, rfl,
      fun y hy => State.of_mem_spannedReads hy, fun p hp hlocal => State.spannedReads_of_pair hp hlocal⟩

end Sys2Proof.Machine
end

section
/-!
AMVM and AMVT (R91, R100, R117, R235, R237): the command goes on from its operands, and its set-up changes memory in the record of
its output alone.
-/
namespace Sys2Proof.Machine

open Sys2Proof

/-! ### Reading operands -/

theorem State.noteCw_data (s : State) (cw : Nat) : s.SameData (s.noteCw cw) := by
  have h := State.noteMerge_data s cw
  unfold State.noteCw
  dsimp only
  split
  · exact h
  · split
    · exact h
    · split <;> exact h

theorem State.SameData.foldl {α : Type} {f : State → α → State} (hf : ∀ (s : State) x, s.SameData (f s x)) (l : List α)
    (s : State) : s.SameData (l.foldl f s) :=
  List.foldlRecOn l f (.of_ms rfl) fun _ hu x _ => hu.trans (hf _ x)

theorem State.noteReads_data (s : State) (l : List (Nat × Nat)) : s.SameData (s.noteReads l) := by
  induction l generalizing s with
  | nil => exact .of_ms rfl
  | cons r l ih =>
    unfold State.noteReads
    refine State.SameData.trans ?_ (ih _)
    split
    · exact .of_ms rfl
    · exact .foldl State.noteCw_data _ _

/-- Reading operands corrects nothing in place: every byte reads as before. -/
theorem State.readOperands_data (s : State) (q : Nat) (l : List (Nat × Nat)) : s.SameData (s.readOperands q l) :=
  .foldl (fun s r => (State.noteReads_data s [r]).trans ((State.traffic_frame ..).sameData rfl)) l s

@[simp] theorem State.readOperands_cmds (s : State) (q : Nat) (l : List (Nat × Nat)) : (s.readOperands q l).hg.cmds = s.hg.cmds :=
  State.foldl_cmds (fun s r => (State.traffic_cmds ..).trans (State.noteReads_cmds s [r])) l s

theorem State.SameData.rd {s t : State} (h : s.SameData t) (a n : Nat) : t.rd a n = s.rd a n := by
  induction n generalizing a with
  | zero => rfl
  | succ n ih => simp only [State.rd, h.rdByte, ih]

/-- A command with good operands goes on from them. -/
theorem State.withOperands_of_operands {s : State} {q : Nat} {structs : List (Nat × Nat)} {good : State → Bool}
    {ops outs : State → List (Nat × Nat)} {k : State → State} (h : s.Operands structs (good s) (ops s) (outs s)) :
    s.withOperands q structs good ops outs k = k (s.readOperands q (structs ++ ops s)) := by
  obtain ⟨hstructs, hread, hgood, hops, hopsRead, hwrite⟩ := h
  simp [State.withOperands, hstructs, hread, hgood, hops, hopsRead, hwrite]

/-! ### The record of an output (R189) -/

theorem natLe_length (k v : Nat) : (natLe k v).length = k := by
  induction k generalizing v with
  | zero => rfl
  | succ k ih => simp [natLe, ih]

theorem flatMap_natLe_length (k : Nat) (l : List Nat) : (l.flatMap (natLe k)).length = l.length * k := by
  induction l with
  | nil => exact (Nat.zero_mul k).symm
  | cons v l ih => rw [List.flatMap_cons, List.length_append, natLe_length, ih, List.length_cons, Nat.succ_mul, Nat.add_comm]

theorem Hist.bytes_length {h : Hist} (hm : h.maxes.length = 16) : h.bytes.length = 128 := by
  unfold Hist.bytes
  simp only [List.length_append, flatMap_natLe_length, natLe_length, List.length_replicate, hm]

/-- A record that is not open yet is written when its output is opened, and nothing else happens. -/
theorem State.openOut_cases {s u : State} {n : Nat} {d : Td} (h : s.openOut n d = some u) :
    u = s ∨ d.hist ≠ 0 ∧ ∃ r : Hist, r.maxes.length = 16 ∧ u = s.putHist d.hist r := by
  unfold State.openOut State.openHist at h
  split at h
  · cases h
  split at h
  · exact .inl (Option.some.inj h).symm
  next hhist =>
  dsimp only at h
  split at h
  · cases h
  split at h
  · exact .inl (Option.some.inj h).symm
  · exact .inr ⟨hhist, _, by simp [State.histAt], (Option.some.inj h).symm⟩

/-- The state in which the record of an output is open, if it can be. -/
def State.opened (s : State) (n : Nat) (d : Td) : State := (s.openOut n d).getD s

theorem State.opened_cases (s : State) (n : Nat) (d : Td) :
    s.opened n d = s ∨ d.hist ≠ 0 ∧ ∃ r : Hist, r.maxes.length = 16 ∧ s.opened n d = s.putHist d.hist r := by
  unfold State.opened
  cases h : s.openOut n d with
  | none => exact .inl rfl
  | some u => exact State.openOut_cases h

@[simp] theorem State.opened_cmds (s : State) (n : Nat) (d : Td) : (s.opened n d).hg.cmds = s.hg.cmds := by
  rcases State.opened_cases s n d with h | ⟨_, r, _, h⟩ <;> rw [h]
  exact State.wr_cmds ..

/-- Opening the record of an output leaves every byte outside the record. -/
theorem State.rdByte_opened {s : State} (hs : s.Inv) {n : Nat} {d : Td} {j : Nat} (hj : outside d.histRange j) :
    (s.opened n d).rdByte j = s.rdByte j := by
  rcases State.opened_cases s n d with h | ⟨hhist, r, hr, h⟩ <;> rw [h]
  have hout := hj (d.hist, 128) (by simp [Td.histRange, hhist])
  exact State.rdByte_wr_out hs (by rwa [Hist.bytes_length hr])

/-! ### Setting up the reads (R91, R100) -/

@[simp] theorem State.sendInputs_cmds (s : State) (x : Mv) (step v i : Nat) (vals : List Val) :
    (s.sendInputs x step v i vals).hg.cmds = s.hg.cmds :=
  State.foldl_cmds (fun s r => by simp) _ s

/-- What a state must show of a command whose reads have been set up: the command runs at its version, its work stands, its reads
wait for that version, and memory is that of the state in which its record was opened. -/
structure State.MatvecStands (q : Nat) (c : Cmd) (x : Mv) (opened t : State) : Prop where
  runs : ∃ d, t.cmd q = some d ∧ d.stage = .running ∧ d.detail = c.version.getD 0 % 2 ^ 63
  work : ∃ w ∈ t.af.matvecs, w.seq = q ∧ w.tensor = x.t.id ∧ w.transpose = x.tr
  reads : ∀ y ∈ t.af.reads, y.seq = q → y.stage = .waiting ∧ y.version = c.version.getD 0
  memory : t.ms = opened.ms

theorem State.cmd_addCond {s : State} {q : Nat} {c : Cmd} (h : s.cmd q = some c) (l : List Status) (ind : BitVec 16) :
    (s.addCond q l ind).cmd q = some { c with conds := c.conds ++ l, ind := c.ind ||| ind } := by
  unfold State.addCond
  rw [State.cmd_updCmd (fun c => { c with conds := c.conds ++ l, ind := c.ind ||| ind }) fun _ => rfl, h]
  rfl

theorem State.cmd_setDetail {s : State} {q : Nat} {c : Cmd} (h : s.cmd q = some c) (v : Nat) :
    (s.setDetail q v).cmd q = some { c with detail := v % 2 ^ 63 } := by
  unfold State.setDetail
  rw [State.cmd_updCmd (fun c => { c with detail := v % 2 ^ 63 }) fun _ => rfl, h]
  rfl

theorem State.cmd_running {s : State} {q : Nat} {c : Cmd} (h : s.cmd q = some c) :
    (s.updCmd q fun c => { c with stage := .running }).cmd q = some { c with stage := .running } := by
  rw [State.cmd_updCmd (fun c => { c with stage := .running }) fun _ => rfl, h]
  rfl

theorem State.setupMatvec_stands {s : State} {q : Nat} {b c : Cmd} {x : Mv} (hb : s.cmd q = some b) :
    State.MatvecStands q c x (s.opened c.step x.out) (s.setupMatvec q c x) := by
  unfold State.setupMatvec
  extract_lets vs vecs prior dots elems digital segs live version reads remote w work nf s1 af s2 s3
  change State.MatvecStands q c x s1 _
  have hb1 : s1.cmd q = some b := (State.cmd_of_cmds (State.opened_cmds ..) q).trans hb
  have hb3 : s3.cmd q = _ := State.cmd_running (State.cmd_setDetail (State.cmd_addCond (s := s2.setTiles work []) hb1 _ _) _)
  generalize hsent : live.foldl (fun (s : State) p => if remote.isEmpty then s else s.sendInputs x c.step p.1 p.2.1 p.2.2) s3 = sent
  have hframe : Frame [.hg, .fab, .ctrs, .free, .out] s3 sent :=
    hsent ▸ Frame.foldl (fun u p => Frame.ite Frame.refl (State.sendInputs_frame ..)) live Frame.refl
  have hcmds : sent.hg.cmds = s3.hg.cmds := hsent ▸ State.foldl_cmds (fun u p => by split <;> simp) live s3
  have haf : (sent.matvecDone q).af = s2.af := (State.matvecDone_af sent q).trans (hframe.af_eq rfl)
  constructor
  case runs =>
    refine ⟨_, (State.cmd_of_cmds ?_ q).trans hb3, rfl, rfl⟩
    rw [State.matvecDone_hg, hcmds]
  case work =>
    rw [haf]
    exact ⟨w, List.mem_cons_self, rfl, rfl, rfl⟩
  case reads =>
    rw [haf]
    intro y hy hseq
    rcases List.mem_append.mp hy with hold | hnew
    · exact absurd hseq (by simpa using (List.mem_filter.mp hold).2)
    · obtain ⟨z, hz, i, rfl⟩ := mem_number hnew
      obtain ⟨p, _, hz⟩ := List.mem_flatMap.mp hz
      obtain ⟨pr, _, rfl⟩ := List.mem_map.mp hz
      exact ⟨rfl, rfl⟩
  case memory => exact ((State.matvecDone_frame sent q).same .ms (by decide)).trans (hframe.same .ms (by decide))

/-! ### The command on its operands -/

theorem State.mv_of_data {s t : State} (h : s.SameData t) (c : Cmd) (r : Resident) : t.mv_ c r = s.mv_ c r := by
  simp only [State.mv_, State.tdAt, h.rd]

/-- The structures that AMVM or AMVT names, its checks, its operands and its outputs are those of the obligation; with good ones
it sets up its reads at the version that it uses. -/
theorem State.runMatvec_of_operands {s : State} {q op v : Nat} {c : Cmd} {r : Resident} {x : Mv} {tds : List Nat}
    (hc : s.runnable q op = some c) (hr : s.resident (c.u 48 4) = some r) (hv : v = c.version.getD (r.ver c.step))
    (hstep : r.v0 < c.step) (hnamed : op = 0x11 → c.u 56 4 = 0xFFFFFFFF ∨ c.u 56 4 = v) (hx : x = s.mv_ c r)
    (htds : tds = [c.u 16 8, c.u 24 8] ++ (if c.u 32 8 = 0 then [] else [c.u 32 8, c.u 32 8 + 64]))
    (hops : s.Operands (tds.map (fun a => (a, 64)) ++ (if c.u 40 8 = 0 then [] else [(c.u 40 8, 32)]))
      (tds.all s.tdOk && (c.u 40 8 == 0 || winGood (s.rd (c.u 40 8) 32)) && x.shapeOk && (s.openOut c.step x.out).isSome)
      (x.inn.ranges ++ x.inn.histRange ++ x.out.histRange ++ (match x.comp with | none => [] | some p => p.1.ranges ++ p.2.ranges) ++
        (if x.acc then x.out.ranges else []) ++ (if x.tr && r.tdig then [(r.h, 2 * r.k * r.n)] else []))
      x.out.ranges) :
    ∃ l, s.runMatvec q op = (s.readOperands q l).setupMatvec q { c with version := some v } x := by
  subst hv hx htds
  have hwin : ((if c.u 40 8 = 0 then [] else [(c.u 40 8, 32)]).all fun p => winGood (s.rd p.1 p.2)) =
      (c.u 40 8 == 0 || winGood (s.rd (c.u 40 8) 32)) := by
    by_cases hzero : c.u 40 8 = 0 <;> simp [hzero]
  have hmv (l : List (Nat × Nat)) : (s.readOperands q l).mv_ c r = s.mv_ c r := State.mv_of_data (State.readOperands_data s q l) c r
  unfold State.runMatvec
  rw [hc]
  dsimp only
  rw [hr]
  dsimp only
  rw [if_neg (Nat.not_le.mpr hstep), if_neg fun h => (hnamed h.1).elim h.2.1 h.2.2]
  rw [State.withOperands_of_operands]
  · rw [hmv]
    exact ⟨_, rfl⟩
  · rw [hwin]
    exact hops

theorem State.runnable_cmd {s : State} {q op : Nat} {c : Cmd} (h : s.runnable q op = some c) :
    s.cmd q = some c ∧ c.stage = .started ∧ c.opcode = op := by
  unfold State.runnable at h
  split at h
  · next d hd =>
    split at h
    · next hrun =>
      cases h
      exact ⟨hd, hrun.1, hrun.2.1⟩
    · cases h
  · cases h

/-- Settles O24: the command goes on from its operands, whose reading leaves every byte as it was, and what its set-up must show
stands; bytes change in the record that the set-up opens. -/
theorem matvecCommandsSetUpTheirReads : Obligations.MatvecCommandsSetUpTheirReads := by
  intro s q op row c r v x tds hs hrow hc hr hv hstep hx htds hops
  obtain ⟨hcmd, -, hopcode⟩ := State.runnable_cmd hc
  have hexec : exec row s = .next (s.runMatvec q op) := by
    rcases hrow with ⟨rfl, rfl⟩ | ⟨rfl, rfl, _⟩ <;> rfl
  have hnamed : op = 0x11 → c.u 56 4 = 0xFFFFFFFF ∨ c.u 56 4 = v := by
    rcases hrow with ⟨_, rfl⟩ | ⟨_, _, h⟩
    · simp
    · exact fun _ => h
  obtain ⟨l, hrun⟩ := State.runMatvec_of_operands hc hr hv hstep hnamed hx htds hops
  have hread : (s.readOperands q l).cmd q = some c := (State.cmd_of_cmds (State.readOperands_cmds s q l) q).trans hcmd
  obtain ⟨hruns, ⟨w, hw, hseq, htensor, htr⟩, hreads, hmemory⟩ :=
    State.setupMatvec_stands (c := { c with version := some v }) (x := x) hread
  refine ⟨_, hexec.trans (congrArg _ hrun), hruns, ⟨w, hw, hseq, ?_, ?_⟩, hreads, fun j hj => ?_⟩
  · rw [htensor, hx]
    rfl
  · rw [htr, hx, ← hopcode]
    rfl
  · calc ((s.readOperands q l).setupMatvec q { c with version := some v } x).rdByte j
        = ((s.readOperands q l).opened c.step x.out).rdByte j := State.rdByte_of_ms hmemory j
      _ = (s.readOperands q l).rdByte j := State.rdByte_opened ((State.readOperands_frame s q l).inv hs) hj
      _ = s.rdByte j := (State.readOperands_data s q l).rdByte j

end Sys2Proof.Machine
end

section
/-!
PROG and the LEVELS operation (R128 to R130): a state in which a list that nothing speaks against does not leave its command running
or delivered. The invariant keeps canonical forms, and lets two commands carry one issue sequence number.
-/
namespace Sys2Proof.Machine

open Sys2Proof

/-! ### A list accepted under an issue number that an exchange command carries too -/

namespace SharedNumber

/-- A command of a step with the fields of PROG, which for other opcodes stay 0. -/
def command (op seq step id : Nat) (stage : Stage) : Cmd :=
  { id := 0, ring := 0, index := 0
    slot := natLe 4 op ++ natLe 4 step ++ natLe 8 0 ++ natLe 4 id ++ List.replicate 44 0
    slot2 := [], seq := some seq, stage := stage, conds := [], ind := 0, detail := 0, seed := 0, heldSince := none
    startedAt := 0, checks := 0, deps := [], recordReady := none, recorded := false, tainted := false, unitRetired := false
    repaired := false, retractions := 0, version := none, deltas := [], seeded := false, signalled := false, parent := none
    children := [], hold := false }

/-- The PROG of step 1, with an empty list. -/
def prog : Cmd := command 0x12 0 1 1 .started

/-- An XCHG of step 3 under the same number, an AMVM of step 3 that waits for version 5, and the PROG that failed to bring it. -/
def others : List Cmd :=
  [command 0x30 0 3 0 .started, command 0x10 1 3 0 .running,
    { command 0x12 2 5 1 .failed with conds := [.badDescriptor] }]

/-- A Summer tensor of one weight on array 0. -/
def tensor : Resident :=
  { id := 1, loading := none, loader := 9, v0 := 0, h := 0, nu := 0, limg := 0, map := [(0, 0)], k := 1, n := 1, omega := 0, rho := 0
    rhoT := 0, summer := true, log2r := 1, fine := false, tdig := false, span := false, lag := 0, remBits := 8, announced := []
    sets := [] }

def td : Td :=
  { addr := 0, aux := 0, rows := 1, cols := 1, tensor := 0, base := 0, fmt := 1, rm := false, sat := false, perRow := false
    lanes := false, top := 0, hist := 0, oplane := 0, stride := 0 }

/-- The work of the AMVM. -/
def work : Matvec :=
  { seq := 1, tensor := 1, transpose := false, out := td, vecs := 1, home := 0, spread := false, exps := [], byScale := false
    rest := 0, compRest := 0, wide := false, elems := [], comp := [], remote := [], unchecked := [], received := [], window := [] }

def state : State :=
  { State.reset with
    hg := { HostGate.initial with cmds := prog :: others }
    af := { ArrayField.initial with
      tensors := [tensor], arrays := [(0, { Arr.initial with tensor := some 1, inService := true })]
      reads := [newRead 1 0 0 0 0 false 1 0 [] 5 0], matvecs := [work] } }

theorem state_inv : state.Inv :=
  have tabs := State.reset_inv.tabs
  { mem := State.reset_inv.mem
    regs := State.reset_inv.regs
    tabs := ⟨tabs.ms, tabs.hg, tabs.mv, tabs.ld, tabs.irq, tabs.pcie, tabs.im, tabs.mc, ⟨rfl, rfl, rfl⟩, tabs.fab, tabs.ctrs⟩ }

/-- The list is accepted, but the AMVM then fails, since version 5 will not come (R235); that marks step 3 incomplete, and the
XCHG of the step ends (R262). Its end reaches every command of its number, so that the PROG has failed too. -/
theorem stage_after_prog : ((state.runProg 0).cmd 0).map Cmd.stage = some .failed := by decide +kernel

end SharedNumber

/-- Refutes O27: the invariant does not keep issue sequence numbers apart. The PROG of `SharedNumber.state` meets every condition
of the second clause, with an empty list, and is neither running nor delivered after its row. -/
theorem not_loadAndLevelListsTakeEffect : ¬ Obligations.LoadAndLevelListsTakeEffect := by
  rintro ⟨-, hlevels⟩
  obtain ⟨t, hexec, -, d, hd, hstage⟩ := hlevels SharedNumber.state 0 0x12 1 0 0 0 0 (.prog 0) SharedNumber.prog SharedNumber.tensor []
    SharedNumber.state_inv (.inl ⟨rfl, rfl, by decide, by decide, by decide⟩) (by decide +kernel) rfl rfl (by decide +kernel)
    (by decide) (by decide) (by decide +kernel) (.inl ⟨by decide, rfl, rfl⟩) rfl (by decide +kernel) (by decide +kernel) rfl rfl
  have ht : SharedNumber.state.runProg 0 = t := Host.Outcome.next.inj hexec
  have hfailed := SharedNumber.stage_after_prog
  rw [ht, hd] at hfailed
  have : d.stage = .failed := Option.some.inj hfailed
  simp [this] at hstage

end Sys2Proof.Machine
end

section
/-!
Activities and arrays of the Upkeep Controller (R149 to R158): how an activity is queued, found, stored and ended, and what its end
leaves of the arrays that it closed. The statements about upkeep read these and not the operations themselves.
-/
namespace Sys2Proof.Machine

open Sys2Proof

/-! ### What a frame keeps for upkeep -/

theorem Frame.uk_eq {l : List Comp} {s t : State} (h : Frame l s t) (hl : l.contains .uk = false) : t.uk = s.uk :=
  h.same .uk (by simpa using hl)

theorem Frame.im_eq {l : List Comp} {s t : State} (h : Frame l s t) (hl : l.contains .im = false) : t.im = s.im :=
  h.same .im (by simpa using hl)

theorem Frame.now_eq {l : List Comp} {s t : State} (h : Frame l s t) (hl : l.contains .ld = false) : t.now = s.now :=
  congrArg Lantern.time (h.same .ld (by simpa using hl))

theorem State.act_of_uk {s t : State} (h : t.uk = s.uk) (id : Nat) : t.act id = s.act id := by
  unfold State.act; rw [h]

theorem State.arr_of_af {s t : State} (h : t.af = s.af) (k : Nat) : t.arr k = s.arr k := by
  unfold State.arr; rw [h]

/-- A delivery changes the Host Gate, halts the ring where the status asks for it, and notes itself for the watchdog and in the
Logbook; without its command it does nothing (R283, R341). -/
theorem State.deliver_cases (s : State) (q : Nat) :
    s.deliver q = s ∨ ∃ (u : State) (c : Cmd), Frame [.hg] s u ∧
      s.deliver q = ({ u.haltOn c (worst c.conds) with im := { (u.haltOn c (worst c.conds)).im with
        lastDelivery := s.now, watchArmed := true } }).logRec 4 0xF0000000 0x02 (some c.ring) (some q) 0 := by
  unfold State.deliver
  split
  · exact .inl rfl
  · refine .inr ⟨_, _, ?_, rfl⟩
    have hupd (f : Cmd → Cmd) : Frame [.hg] s (s.updCmd q f) := State.updCmd_frame s q f
    refine Frame.comp (Frame.ite ?_ (hupd _)) (Frame.ite (State.setRing_frame ..) Frame.refl) rfl
    split
    · exact (hupd _).comp (State.signal_frame ..) rfl
    · exact hupd _

/-! ### Activities -/

theorem State.act_id {s : State} {id : Nat} {a : Activity} (h : s.act id = some a) : a.id = id := by
  simpa using List.find?_some h

/-- An activity is found as it was stored. -/
theorem State.act_setAct {s : State} {id : Nat} {a b : Activity} (h : s.act id = some a) (hb : b.id = id) :
    (s.setAct b).act id = some b :=
  find?_map_replace (by simp [hb]) (by simp [hb]) h

/-- A running activity that can end is the one under its number, of its kind. -/
theorem State.running_act {s : State} {id : Nat} {kind : ActKind} {a : Activity} (h : s.running id kind = some a) :
    s.act id = some a := by
  unfold State.running at h
  split at h
  · next hact =>
    split at h
    · exact hact.trans h
    · cases h
  · cases h

/-- The activity that `queueAct` puts behind the others (R158). -/
def State.newAct (s : State) (kind : ActKind) (work : ActWork) (bank array cls : Nat) (seqs : List Nat) : Activity :=
  { id := s.uk.nextId, kind := kind, work := work, bank := bank, array := array, cls := cls, queuedAt := s.now
    seqs := seqs, asked := none, held := 0, running := false, startedAt := 0 }

/-! ### The end of an activity (R154, R156) -/

/-- `t` has the arrays of `s`, but for the times at which their closures ended, and all else of the Array Field as it was. -/
structure State.ClosuresEnded (s t : State) : Prop where
  field : ∃ l, t.af = { s.af with arrays := l }
  arr : ∀ k, ∃ e, t.arr k = { s.arr k with closureEnd := e }

theorem State.ClosuresEnded.refl (s : State) : s.ClosuresEnded s := ⟨⟨_, rfl⟩, fun _ => ⟨_, rfl⟩⟩

theorem State.ClosuresEnded.trans {s t u : State} (h : s.ClosuresEnded t) (k : t.ClosuresEnded u) : s.ClosuresEnded u := by
  obtain ⟨⟨l, hl⟩, harr⟩ := h
  obtain ⟨⟨m, hm⟩, karr⟩ := k
  refine ⟨⟨m, by rw [hm, hl]⟩, fun j => ?_⟩
  obtain ⟨e, he⟩ := harr j
  obtain ⟨e', he'⟩ := karr j
  exact ⟨e', by rw [he', he]⟩

theorem State.ClosuresEnded.of_af {s t : State} (h : t.af = s.af) : s.ClosuresEnded t :=
  ⟨⟨s.af.arrays, h⟩, fun k => ⟨_, State.arr_of_af h k⟩⟩

/-- What does not look at the end of a closure is as before. -/
theorem State.ClosuresEnded.arr_field {β : Type} {s t : State} (h : s.ClosuresEnded t) (f : Arr → β)
    (hf : ∀ b e, f { b with closureEnd := e } = f b) (k : Nat) : f (t.arr k) = f (s.arr k) := by
  obtain ⟨e, he⟩ := h.arr k
  rw [he]
  exact hf _ e

/-- The array `k`, after it has been written, when the arrays are held in order. -/
theorem State.arr_setArr_of_ordered {s : State} (hs : s.TabsOk) (k j : Nat) (a : Arr) :
    (s.setArr k a).arr j = if j = k then a else s.arr j := Tab.get_set_of_rising hs.af.1 k j a

theorem State.arr_setArr_same {s : State} (hs : s.TabsOk) (k : Nat) (a : Arr) : (s.setArr k a).arr k = a := by
  rw [State.arr_setArr_of_ordered hs, if_pos rfl]

theorem State.closuresEnded_setArr {s : State} (hs : s.TabsOk) (k : Nat) (e : Option Nat) :
    s.ClosuresEnded (s.setArr k { s.arr k with closureEnd := e }) := by
  refine ⟨⟨_, rfl⟩, fun j => ?_⟩
  rw [State.arr_setArr_of_ordered hs]
  split
  · next hj =>
    subst hj
    exact ⟨e, rfl⟩
  · exact ⟨_, rfl⟩

theorem State.closuresEnded_closureEnds {s : State} (hs : s.TabsOk) (a : Activity) : s.ClosuresEnded (s.closureEnds a) := by
  refine (List.foldlRecOn (motive := fun u : State => u.TabsOk ∧ s.ClosuresEnded u) (s.closes a) _ ⟨hs, .refl s⟩
    fun u hu k _ => ?_).2
  obtain ⟨htabs, hended⟩ := hu
  exact ⟨(State.bump_frame ..).tabs ((State.setArr_frame ..).tabs htabs),
    hended.trans ((State.closuresEnded_setArr htabs k (some u.now)).trans (.of_af rfl))⟩

theorem State.closuresEnded_endAct {s : State} (hs : s.TabsOk) (a : Activity) : s.ClosuresEnded (s.endAct a) := by
  have hdrop : s.ClosuresEnded (s.dropAct a) := (State.closuresEnded_closureEnds hs a).trans (.of_af rfl)
  refine hdrop.trans (.of_af ?_)
  exact ((State.maintEnds_frame _ a.seqs).af_eq rfl).trans ((State.logAct_frame _ 0x31 a).af_eq rfl)

/-- The activity is gone. -/
theorem State.acts_endAct (s : State) (a : Activity) : (s.endAct a).uk.acts = s.uk.acts.filter (·.id ≠ a.id) := by
  have hlog := (State.maintEnds_frame ((s.dropAct a).logAct 0x31 a) a.seqs).uk_eq rfl
  have hdrop := (State.logAct_frame (s.dropAct a) 0x31 a).uk_eq rfl
  unfold State.endAct
  rw [hlog, hdrop]
  change (s.closureEnds a).uk.acts.filter _ = _
  rw [(State.closureEnds_frame s a).uk_eq rfl]

theorem State.ne_of_mem_endAct {s : State} {a b : Activity} (hb : b ∈ (s.endAct a).uk.acts) : b.id ≠ a.id := by
  rw [State.acts_endAct] at hb
  simpa using (List.mem_filter.mp hb).2

end Sys2Proof.Machine
end

section
/-!
Periods and aging (R140, R144, R146, R148, R158): a due period puts one activity behind those that stand, and an activity that has
waited too long is stored again in class 1.
-/
namespace Sys2Proof.Machine

open Sys2Proof

/-- What a period that is over shows: one activity of class 5 behind those of `s`. -/
theorem State.queueAct_due (s : State) (kind : ActKind) (bank array : Nat) :
    ∃ a, (s.queueAct kind .plain bank array 5 []).uk.acts = s.uk.acts ++ [a] ∧ a.id = s.uk.nextId ∧ a.kind = kind ∧
      a.bank = bank ∧ a.array = array ∧ a.cls = 5 ∧ a.queuedAt = s.now ∧
      (s.queueAct kind .plain bank array 5 []).uk.nextId = s.uk.nextId + 1 :=
  ⟨s.newAct kind .plain bank array 5 [], rfl, rfl, rfl, rfl, rfl, rfl, rfl, rfl⟩

/-- The same for an activity on an array. -/
theorem State.queueOn_due (s : State) (kind : ActKind) (k : Nat) :
    ∃ a, (s.queueOn kind .plain k 5 []).uk.acts = s.uk.acts ++ [a] ∧ a.id = s.uk.nextId ∧ a.kind = kind ∧
      a.array = k ∧ a.cls = 5 ∧ a.queuedAt = s.now ∧ (s.queueOn kind .plain k 5 []).uk.nextId = s.uk.nextId + 1 := by
  obtain ⟨a, hacts, hid, hkind, -, hrest⟩ := s.queueAct_due kind (k / 264) k
  exact ⟨a, hacts, hid, hkind, hrest⟩

theorem State.sweepDue_eq {s : State} {k : Nat} (hin : (s.arr k).inService = true) (hmin : s.sweepMin ≠ 0)
    (hdue : (s.arr k).sweepTime + s.sweepMin * 60000000000 ≤ s.now) (hnone : s.actOn .sweep k = false) :
    s.sweepDue k = s.queueOn .sweep .plain k 5 [] := by
  simp [State.sweepDue, hin, hmin, hdue, hnone]

theorem State.convDue_eq {s : State} {b : Nat} (hcal : s.convCal b ≠ 0) (hmin : s.conv10Min ≠ 0)
    (hdue : Tab.get (fun _ => 0) s.af.bankCalTime b + s.conv10Min * 600000000000 ≤ s.now)
    (hnone : ∀ a ∈ s.uk.acts, a.kind = .selfCal → a.bank ≠ b) : s.convDue b = s.queueAct .selfCal .plain b 0 5 [] := by
  have hany : ¬ s.uk.acts.any (fun a => a.kind = .selfCal ∧ a.bank = b) := by simpa using hnone
  exact if_pos ⟨hcal, hmin, hdue, hany⟩

theorem State.lineDue_eq {s : State} {k : Nat} (hret : (s.arr k).retired = false) (hh : s.lineH ≠ 0)
    (hdue : (s.arr k).lineTime + s.lineH * 3600000000000 ≤ s.now) (hnone : s.actOn .line k = false) :
    s.lineDue k = s.queueOn .line .plain k 5 [] := by
  simp [State.lineDue, hret, hh, hdue, hnone]

theorem State.gainDue_eq {s : State} {k : Nat} (hin : (s.arr k).inService = true)
    (hdue : (s.arr k).gainTime + s.gcalInterval * 60000000000 ≤ s.now) (henough : (s.arr k).fwd.enough s.gcalMinReads = true)
    (hnone : s.actOn .gain k = false) : s.gainDue k = s.queueOn .gain .plain k 5 [] := by
  simp [State.gainDue, hin, hdue, henough, hnone]

theorem State.aging_eq {s : State} {id : Nat} {a : Activity} (ha : s.act id = some a) (hrun : a.running = false)
    (hold : a.queuedAt + 100000000 < s.now) : s.aging id = s.setAct { a with cls := 1 } := by
  simp [State.aging, ha, hrun, hold]

/-- Settles O31: each row's conditions are those of its clause, so that it queues its activity, or stores the old one again. -/
theorem periodsQueueTheirActivity : Obligations.PeriodsQueueTheirActivity := by
  refine ⟨?sweep, ?converter, ?line, ?gain, ?aging⟩
  case sweep =>
    intro s x hin hmin hdue hnone
    obtain ⟨a, h⟩ := s.queueOn_due .sweep (arrIdKey x)
    exact ⟨_, a, congrArg Host.Outcome.next (State.sweepDue_eq hin hmin hdue hnone), h⟩
  case converter =>
    intro s x hcal hmin hdue hnone
    obtain ⟨a, hacts, hid, hkind, hbank, -, hrest⟩ := s.queueAct_due .selfCal (32 * x.die.val + x.bank.val) 0
    exact ⟨_, a, congrArg Host.Outcome.next (State.convDue_eq hcal hmin hdue hnone), hacts, hid, hkind, hbank, hrest⟩
  case line =>
    intro s x hret hh hdue hnone
    obtain ⟨a, h⟩ := s.queueOn_due .line (arrIdKey x)
    exact ⟨_, a, congrArg Host.Outcome.next (State.lineDue_eq hret hh hdue hnone), h⟩
  case gain =>
    intro s x hin hdue henough hnone
    obtain ⟨a, h⟩ := s.queueOn_due .gain (arrIdKey x)
    exact ⟨_, a, congrArg Host.Outcome.next (State.gainDue_eq hin hdue henough hnone), h⟩
  case aging =>
    intro s id a ha hrun hold
    exact ⟨_, congrArg Host.Outcome.next (State.aging_eq ha hrun hold),
      State.act_setAct (b := { a with cls := 1 }) ha (State.act_id (a := a) ha)⟩

end Sys2Proof.Machine
end

section
/-!
MAINT (R160, R138, R143, R146, R147): a started command with good targets queues one activity for each that qualifies. Queueing
changes the Upkeep Controller alone, so that what qualifies is decided in the state in which the command started.
-/
namespace Sys2Proof.Machine

open Sys2Proof

/-! ### Targets become activities -/

/-- The activity of a MAINT for target `k`: a bank of a self-calibration, else an array. -/
def State.queueTarget (s : State) (q : Nat) (kind : ActKind) (cls k : Nat) : State :=
  if kind == .selfCal then s.queueAct kind .plain k 0 cls [q] else s.queueOn kind .plain k cls [q]

/-- The targets of a MAINT, one after another. -/
def State.queueTargets (s : State) (q : Nat) (kind : ActKind) (cls : Nat) (ok : State → Nat → Bool) (l : List Nat) : State :=
  l.foldl (fun s k => if ¬ ok s k then s else s.queueTarget q kind cls k) s

/-- An activity that waits for the Almanac, queued by MAINT `q` for its target `k`. -/
structure Activity.QueuedBy (q : Nat) (kind : ActKind) (cls k : Nat) (a : Activity) : Prop where
  ofKind : a.kind = kind
  onBank : a.bank = if kind == .selfCal then k else k / 264
  onArray : (kind == .selfCal) = false → a.array = k
  inClass : a.cls = cls
  carries : a.seqs = [q]
  waits : a.running = false

section Queue

variable {q cls : Nat} {kind : ActKind} {ok : State → Nat → Bool}

theorem State.queueTarget_frame (s : State) (k : Nat) : Frame [.uk] s (s.queueTarget q kind cls k) :=
  Frame.ite (State.queueAct_frame ..) (State.queueOn_frame ..)

theorem State.queueTargets_frame (s : State) (l : List Nat) : Frame [.uk] s (s.queueTargets q kind cls ok l) :=
  Frame.foldl (fun u k => Frame.ite Frame.refl (State.queueTarget_frame u k)) l Frame.refl

/-- One activity is put behind the others. -/
theorem State.acts_queueTarget (s : State) (k : Nat) :
    ∃ a : Activity, a.QueuedBy q kind cls k ∧ (s.queueTarget q kind cls k).uk.acts = s.uk.acts ++ [a] := by
  unfold State.queueTarget
  cases hkind : kind == .selfCal with
  | true => exact ⟨s.newAct kind .plain k 0 cls [q], ⟨rfl, by simp [hkind, State.newAct], by simp [hkind], rfl, rfl, rfl⟩, rfl⟩
  | false =>
    exact ⟨s.newAct kind .plain (k / 264) k cls [q], ⟨rfl, by simp [hkind, State.newAct], fun _ => rfl, rfl, rfl, rfl⟩, rfl⟩

/-- Activities that stand stay while targets are queued. -/
theorem State.mem_queueTargets (s : State) (l : List Nat) {a : Activity} (ha : a ∈ s.uk.acts) :
    a ∈ (s.queueTargets q kind cls ok l).uk.acts := by
  refine List.foldlRecOn (motive := fun u : State => a ∈ u.uk.acts) l _ ha fun u hu k _ => ?_
  split
  · exact hu
  · obtain ⟨b, -, hacts⟩ := u.acts_queueTarget (q := q) (kind := kind) (cls := cls) k
    rw [hacts]
    exact List.mem_append_left _ hu

/-- What qualifies is decided by the Array Field and the registers. -/
def SettledByField (ok : State → Nat → Bool) : Prop := ∀ s t : State, t.af = s.af → t.regs = s.regs → ∀ k, ok t k = ok s k

/-- It is decided alike when a command has changed. -/
theorem SettledByField.updCmd (hok : SettledByField ok) {s : State} {f : Cmd → Cmd} (k : Nat) : ok (s.updCmd q f) k = ok s k :=
  hok s (s.updCmd q f) rfl rfl k

/-- Every target that qualifies has its activity. -/
theorem State.queuedBy_of_mem (hok : SettledByField ok) {l : List Nat} {k : Nat} (hk : k ∈ l) (s : State) (hq : ok s k = true) :
    ∃ a ∈ (s.queueTargets q kind cls ok l).uk.acts, a.QueuedBy q kind cls k := by
  induction l generalizing s with
  | nil => cases hk
  | cons j l ih =>
    change ∃ a ∈ (State.queueTargets (if ¬ ok s j then s else s.queueTarget q kind cls j) q kind cls ok l).uk.acts, _
    rcases List.mem_cons.mp hk with rfl | hk
    · obtain ⟨a, ha, hacts⟩ := s.acts_queueTarget (q := q) (kind := kind) (cls := cls) k
      rw [if_neg (by simp [hq])]
      exact ⟨a, State.mem_queueTargets _ l (by rw [hacts]; simp), ha⟩
    · have hframe : Frame [.uk] s (if ¬ ok s j then s else s.queueTarget q kind cls j) :=
        Frame.ite Frame.refl (State.queueTarget_frame s j)
      exact ih hk _ ((hok _ _ (hframe.af_eq rfl) (hframe.same .regs (by decide)) k).trans hq)

/-- Without a target that qualifies nothing is queued. -/
theorem State.queueTargets_of_none {s : State} {l : List Nat} (h : ∀ k ∈ l, ok s k = false) :
    s.queueTargets q kind cls ok l = s := by
  refine List.foldlRecOn (motive := fun u : State => u = s) l _ rfl fun u hu k hk => ?_
  rw [hu, if_pos (by simp [h k hk])]

end Queue

/-! ### The command -/

/-- A MAINT whose activities have not all ended stays as it is (R160). -/
theorem State.maintEnds_of_mem {s : State} {q : Nat} {a : Activity} (ha : a ∈ s.uk.acts) (hq : q ∈ a.seqs) :
    s.maintEnds [q] = s := by
  change (if s.uk.acts.any (fun a => a.seqs.contains q) then s else _) = s
  exact if_pos (List.any_eq_true.mpr ⟨a, ha, by simpa using hq⟩)

/-- A running MAINT for which no activity stands is delivered (R160). -/
theorem State.maintEnds_of_none {s : State} {q : Nat} {c : Cmd} (h : ∀ a ∈ s.uk.acts, q ∉ a.seqs) (hc : s.cmd q = some c)
    (hop : c.opcode = 0x48) (hrun : c.stage = .running) (ht : c.tainted = false) : s.maintEnds [q] = s.deliver q := by
  have hany : ¬ s.uk.acts.any (fun a => a.seqs.contains q) := by simpa using h
  change (if s.uk.acts.any (fun a => a.seqs.contains q) then s else _) = _
  rw [if_neg hany, hc]
  exact if_pos ⟨hop, hrun, by simp [ht]⟩

/-- The state in which a MAINT runs and its activities stand. -/
def State.maintQueued (s : State) (q : Nat) (kind : ActKind) (cls : Nat) (ok : State → Nat → Bool) (l : List Nat) : State :=
  (s.updCmd q fun c => { c with stage := .running }).queueTargets q kind cls ok l

section Run

variable {s : State} {q op cls : Nat} {kind : ActKind} {targets : State → Cmd → Targets} {ok : State → Nat → Bool} {c : Cmd}
  {l : List Nat}

theorem State.runMaint_of_targets (hc : s.runnable q 0x48 = some c) (hop : c.u8 16 = op) (hl : targets s c = .ok l) :
    s.runMaint q op kind cls targets ok = (s.maintQueued q kind cls ok l).maintEnds [q] := by
  simp only [State.runMaint, hc, hop, hl, ne_eq, not_true_eq_false, if_false]
  rfl

/-- A command that can run is not tainted. -/
theorem State.runnable_untainted (hc : s.runnable q op = some c) : c.tainted = false := by
  unfold State.runnable at hc
  split at hc
  · split at hc
    · next hrun =>
      cases hc
      simpa using hrun.2.2
    · cases hc
  · cases hc

theorem State.cmd_maintQueued (hc : s.runnable q 0x48 = some c) :
    (s.maintQueued q kind cls ok l).cmd q = some { c with stage := .running } := by
  have hhg := (State.queueTargets_frame (q := q) (kind := kind) (cls := cls) (ok := ok)
    (s.updCmd q fun c => { c with stage := .running }) l).hg_eq rfl
  exact (State.cmd_of_cmds (congrArg HostGate.cmds hhg) q).trans (State.cmd_running (State.runnable_cmd hc).1)

/-- Each target that qualifies has its activity when the MAINT has started. -/
theorem State.queuedBy_runMaint (hok : SettledByField ok) (hc : s.runnable q 0x48 = some c) (hop : c.u8 16 = op)
    (hl : targets s c = .ok l) {k : Nat} (hk : k ∈ l) (hq : ok s k = true) :
    ∃ a ∈ (s.runMaint q op kind cls targets ok).uk.acts, a.QueuedBy q kind cls k := by
  rw [State.runMaint_of_targets hc hop hl, (State.maintEnds_frame ..).uk_eq rfl]
  exact State.queuedBy_of_mem hok hk _ ((hok.updCmd k).trans hq)

/-- With a target that qualifies the command runs. -/
theorem State.running_runMaint (hok : SettledByField ok) (hc : s.runnable q 0x48 = some c) (hop : c.u8 16 = op)
    (hl : targets s c = .ok l) {k : Nat} (hk : k ∈ l) (hq : ok s k = true) :
    ∃ d, (s.runMaint q op kind cls targets ok).cmd q = some d ∧ d.stage = .running := by
  obtain ⟨a, ha, hqueued⟩ := State.queuedBy_of_mem (q := q) (kind := kind) (cls := cls) hok hk
    (s.updCmd q fun c => { c with stage := .running }) ((hok.updCmd k).trans hq)
  have ha : a ∈ (s.maintQueued q kind cls ok l).uk.acts := ha
  rw [State.runMaint_of_targets hc hop hl, State.maintEnds_of_mem ha (by simp [hqueued.carries])]
  exact ⟨_, State.cmd_maintQueued hc, rfl⟩

/-- With none, and no activity that stands for it, the command is delivered. -/
theorem State.delivered_runMaint (hok : SettledByField ok) (hc : s.runnable q 0x48 = some c) (hop : c.u8 16 = op)
    (hl : targets s c = .ok l) (hnone : ∀ k ∈ l, ok s k = false) (hacts : ∀ a ∈ s.uk.acts, q ∉ a.seqs) :
    ∃ d, (s.runMaint q op kind cls targets ok).cmd q = some d ∧ d.stage = .delivered := by
  have hrun := State.cmd_maintQueued (kind := kind) (cls := cls) (ok := ok) (l := l) hc
  have hqueued : s.maintQueued q kind cls ok l = s.updCmd q fun c => { c with stage := .running } :=
    State.queueTargets_of_none fun k hk => (hok.updCmd k).trans (hnone k hk)
  have huntainted : c.tainted = false := State.runnable_untainted hc
  rw [State.runMaint_of_targets hc hop hl, State.maintEnds_of_none (by rw [hqueued]; exact hacts) hrun
    (State.runnable_cmd hc).2.2 rfl huntainted]
  exact ⟨_, State.cmd_deliver hrun, rfl⟩

end Run

/-! ### What qualifies -/

theorem settledByField_inService : SettledByField fun s k => (s.arr k).inService :=
  fun _ _ haf _ k => congrArg Arr.inService (State.arr_of_af haf k)

theorem settledByField_enough : SettledByField fun s k => (s.arr k).inService && (s.arr k).fwd.enough s.gcalMinReads := by
  intro s t haf hregs k
  have hreads : t.gcalMinReads = s.gcalMinReads := by unfold State.gcalMinReads; rw [State.fld_of_regs hregs]
  simp only [State.arr_of_af haf, hreads]

theorem settledByField_notRetired : SettledByField fun s k => !(s.arr k).retired :=
  fun _ _ haf _ k => congrArg (fun a : Arr => !a.retired) (State.arr_of_af haf k)

theorem settledByField_every : SettledByField fun _ _ => true := fun _ _ _ _ _ => rfl

/-! ### The five operations -/

/-- A MAINT on arrays: it runs while a target qualifies, is delivered when none does, and queues an activity of class 5 for each
that does. -/
theorem maintOnArrays {s : State} {q op : Nat} {kind : ActKind} {c : Cmd} {l : List Nat} {ok : State → Nat → Bool}
    (hok : SettledByField ok) (hkind : (kind == .selfCal) = false) (hc : s.runnable q 0x48 = some c) (hop : c.u8 16 = op)
    (hl : s.arrayTargets c = .ok l) :
    let t := s.runMaint q op kind 5 State.arrayTargets ok
    (l.any (ok s) = true → ∃ d, t.cmd q = some d ∧ d.stage = .running) ∧
      (l.any (ok s) = false → (∀ a ∈ s.uk.acts, q ∉ a.seqs) → ∃ d, t.cmd q = some d ∧ d.stage = .delivered) ∧
      ∀ k ∈ l, ok s k = true → ∃ a ∈ t.uk.acts, a.kind = kind ∧ a.array = k ∧ a.bank = k / 264 ∧ a.cls = 5 ∧ a.seqs = [q] ∧
        a.running = false := by
  refine ⟨fun hany => ?_, fun hnone hacts => ?_, fun k hk hq => ?_⟩
  · obtain ⟨k, hk, hq⟩ := List.any_eq_true.mp hany
    exact State.running_runMaint hok hc hop hl hk hq
  · exact State.delivered_runMaint hok hc hop hl (by simpa using hnone) hacts
  · obtain ⟨a, ha, h⟩ := State.queuedBy_runMaint (kind := kind) (cls := 5) hok hc hop hl hk hq
    exact ⟨a, ha, h.ofKind, h.onArray hkind, by simpa [hkind] using h.onBank, h.inClass, h.carries, h.waits⟩

/-- A MAINT on banks: it runs while it has a target, and queues a self-calibration of each. -/
theorem maintOnBanks {s : State} {q op cls : Nat} {targets : State → Cmd → Targets} {c : Cmd} {l : List Nat}
    (hc : s.runnable q 0x48 = some c) (hop : c.u8 16 = op) (hl : targets s c = .ok l) :
    let t := s.runMaint q op .selfCal cls targets fun _ _ => true
    (l ≠ [] → ∃ d, t.cmd q = some d ∧ d.stage = .running) ∧
      ∀ b ∈ l, ∃ a ∈ t.uk.acts, a.kind = .selfCal ∧ a.bank = b ∧ a.cls = cls ∧ a.seqs = [q] ∧ a.running = false := by
  refine ⟨fun hne => ?_, fun b hb => ?_⟩
  · obtain ⟨b, hb⟩ := List.exists_mem_of_ne_nil l hne
    exact State.running_runMaint settledByField_every hc hop hl hb rfl
  · obtain ⟨a, ha, h⟩ := State.queuedBy_runMaint (kind := .selfCal) (cls := cls) settledByField_every hc hop hl hb rfl
    exact ⟨a, ha, h.ofKind, h.onBank, h.inClass, h.carries, h.waits⟩

/-- Settles O28: the targets of each operation are good, and the law of `runMaint` says what it queues for them; that a command
none of whose targets qualifies is delivered at once is log entry 28. -/
theorem maintenanceQueuesItsActivities : Obligations.MaintenanceQueuesItsActivities := by
  refine ⟨?selfcal, ?convcal, ?arrays⟩
  case selfcal =>
    intro s q c _ hc hop hkind
    obtain ⟨hruns, hacts⟩ := maintOnBanks (cls := 3)
      (targets := fun _ c => if c.u8 17 = 0 then .ok (List.range 128) else .bad 17) hc hop (if_pos hkind)
    exact ⟨_, rfl, hruns (by simp), fun b hb => hacts b (List.mem_range.mpr hb)⟩
  case convcal =>
    intro s q c l _ hc hop hkind htargets
    exact ⟨_, rfl, maintOnBanks hc hop ((if_pos hkind).trans htargets)⟩
  case arrays =>
    intro s q op row kind c l ok _ hrow hc hop hl
    rcases hrow with ⟨rfl, rfl, rfl, rfl⟩ | ⟨rfl, rfl, rfl, rfl⟩ | ⟨rfl, rfl, rfl, rfl⟩
    · exact ⟨_, rfl, maintOnArrays settledByField_inService rfl hc hop hl⟩
    · exact ⟨_, rfl, maintOnArrays settledByField_enough rfl hc hop hl⟩
    · exact ⟨_, rfl, maintOnArrays settledByField_notRetired rfl hc hop hl⟩

end Sys2Proof.Machine
end

section
/-!
The ends of sweeps, calibrations, closures, line tests and rail steps (R138 to R147, R301, R302). Each row stores its result and
then ends its activity; the end touches neither the result nor the rails of the banks.
-/
namespace Sys2Proof.Machine

open Sys2Proof

/-! ### Rails of banks through Logbook, delivery and records -/

@[simp] theorem State.bankRail_logRec (s : State) (u coord kind : Nat) (ring seq : Option Nat) (data : Nat) :
    (s.logRec u coord kind ring seq data).im.bankRail = s.im.bankRail := by
  unfold State.logRec
  extract_lets
  split <;> rfl

@[simp] theorem State.bankRail_triggerLog (s : State) (u cause : Nat) : (s.triggerLog u cause).im.bankRail = s.im.bankRail := by
  unfold State.triggerLog
  extract_lets
  split <;> rfl

@[simp] theorem State.bankRail_trigger (s : State) (cause : Nat) : (s.trigger cause).im.bankRail = s.im.bankRail := by
  unfold State.trigger
  extract_lets gated l logged
  have hlogged : logged.im.bankRail = s.im.bankRail :=
    List.foldlRecOn (motive := fun u : State => u.im.bankRail = s.im.bankRail) l _ rfl
      fun u hu n _ => (u.bankRail_triggerLog n cause).trans hu
  split
  · exact hlogged
  · rw [(State.arrive_frame ..).im_eq rfl, hlogged]

@[simp] theorem State.bankRail_cper (s : State) (b : CperBody) : (s.cper b).im.bankRail = s.im.bankRail := by
  unfold State.cper
  extract_lets w _ recorded
  have hrecorded : recorded.im.bankRail = s.im.bankRail := by
    unfold recorded
    split
    · rfl
    · rw [(State.arrive_frame ..).im_eq rfl]
  rw [State.bankRail_trigger]
  exact (State.bankRail_logRec ..).trans hrecorded

@[simp] theorem State.bankRail_deliver (s : State) (q : Nat) : (s.deliver q).im.bankRail = s.im.bankRail := by
  rcases s.deliver_cases q with h | ⟨u, c, hframe, h⟩ <;> rw [h]
  rw [State.bankRail_logRec]
  change (u.haltOn c (worst c.conds)).im.bankRail = _
  rw [(State.haltOn_frame ..).im_eq rfl, hframe.im_eq rfl]

@[simp] theorem State.bankRail_maintEnds (s : State) (seqs : List Nat) : (s.maintEnds seqs).im.bankRail = s.im.bankRail := by
  refine List.foldlRecOn (motive := fun u : State => u.im.bankRail = s.im.bankRail) seqs _ rfl fun u hu q _ => ?_
  split
  · exact hu
  split
  · split
    · exact (u.bankRail_deliver q).trans hu
    · exact hu
  · exact hu

@[simp] theorem State.bankRail_endAct (s : State) (a : Activity) : (s.endAct a).im.bankRail = s.im.bankRail := by
  unfold State.endAct
  rw [State.bankRail_maintEnds]
  exact (State.bankRail_logRec ..).trans (congrArg Integrity.bankRail ((State.dropAct_frame s a).im_eq rfl))

/-! ### What each end does before its activity is gone -/

section Ends

variable {s : State} {id : Nat} {a : Activity} {y : Resident}

/-- An array that was stored before its activity ended is as stored, but for the time of its closure. -/
theorem State.arr_endAct_of {u : State} {k : Nat} {b : Arr} (hu : u.TabsOk) (h : u.arr k = b) (a : Activity) :
    ∃ e, (u.endAct a).arr k = { b with closureEnd := e } :=
  h ▸ (State.closuresEnded_endAct hu a).arr k

/-- Of an activity that ran, none is left under its number. -/
theorem State.ne_of_mem_end {kind : ActKind} (h : s.running id kind = some a) {u : State} :
    ∀ b ∈ (u.endAct a).uk.acts, b.id ≠ id :=
  fun _ hb => State.act_id (State.running_act h) ▸ State.ne_of_mem_endAct hb

/-- The array after a sweep: the rows of the cells outside tolerance join its refresh list (R138, R139). -/
def State.swept (s : State) (y : Resident) (ar : Arr) (meas : List (Nat × Nat × Int)) : Arr :=
  { ar with
    refresh := mergeRows ar.refresh ((meas.filter fun d => s.cellOff y ar d.1 d.2.1 d.2.2).map Prod.fst)
    sweepCount := min 65535 (ar.sweepCount + 1), sweepTime := s.now }

theorem State.sweepEnd_of_running (h : s.running id .sweep = some a) (hy : (s.arr a.array).tensor.bind s.resident = some y)
    (meas : List (Nat × Nat × Int)) :
    ∃ u, s.sweepEnd id meas = u.endAct a ∧ Frame [.uk] (s.setArr a.array (s.swept y (s.arr a.array) meas)) u := by
  unfold State.sweepEnd
  simp only [h, hy]
  refine ⟨_, rfl, ?_⟩
  split
  · exact Frame.refl
  · split
    · exact State.setAct_frame ..
    · exact State.queueOn_frame ..

/-- Good tables are stored and the bank's calibrations counted (R141). -/
theorem State.selfCalEnd_of_running (h : s.running id .selfCal = some a) {hits : List (Nat × Nat × List Nat)}
    (hgood : ∀ h ∈ hits, tableFails (tableOf h.2.2) = false) :
    ∃ u, s.selfCalEnd id hits = u.endAct a ∧ Frame [.af] s u ∧
      u.af.bankCal = Tab.upd (fun _ => 0) s.af.bankCal a.bank (· + 1) := by
  unfold State.selfCalEnd
  simp only [h]
  refine ⟨_, rfl, ?_⟩
  generalize hclear : (List.range 264).foldl _ s = clear
  have hcleared : Frame [.af] s clear ∧ clear.af.bankCal = s.af.bankCal := by
    rw [← hclear]
    exact List.foldlRecOn (motive := fun u : State => Frame [.af] s u ∧ u.af.bankCal = s.af.bankCal) _ _ ⟨Frame.refl, rfl⟩
      fun u hu i _ => ⟨hu.1.comp (State.setArr_frame ..) rfl, hu.2⟩
  generalize hstored : hits.foldl _ clear = stored
  have hall : Frame [.af] s stored ∧ stored.af.bankCal = s.af.bankCal := by
    rw [← hstored]
    refine List.foldlRecOn (motive := fun u : State => Frame [.af] s u ∧ u.af.bankCal = s.af.bankCal) _ _ hcleared
      fun u hu x hx => ?_
    rw [if_neg (by simp [hgood x hx])]
    exact ⟨hu.1.comp (State.setArr_frame ..) rfl, hu.2⟩
  exact ⟨Frame.upd hall.1, congrArg (Tab.upd (fun _ => 0) · a.bank (· + 1)) hall.2⟩

/-- A gain closure is counted and fresh statistics start (R145, R146). -/
theorem State.gainEnd_of_running (h : s.running id .gain = some a) (hy : (s.arr a.array).tensor.bind s.resident = some y) :
    ∃ b : Arr, s.gainEnd id = (s.setArr a.array { b with
      gainCal := ((s.arr a.array).gainCal + 1) % 2 ^ 32, gainTime := s.now
      fwd := freshStat s.free, bwd := freshStat (s.free + 1) }).freeStep.freeStep.endAct a := by
  unfold State.gainEnd
  simp only [h, hy]
  exact ⟨_, rfl⟩

/-- A line test without faults notes its time (R147). -/
theorem State.lineEnd_of_running (h : s.running id .line = some a) {lines : List (Nat × Nat × Nat)}
    (hgood : ∀ l ∈ lines, lineOpen l = false ∧ lineShorted l = false) :
    ∃ u, s.lineEnd_ id lines = u.endAct a ∧ Frame [.ctrs] (s.setArr a.array { s.arr a.array with lineTime := s.now }) u := by
  have hnone : lines.filter (fun l => lineOpen l || lineShorted l) = [] := by
    refine List.filter_eq_nil_iff.mpr fun l hl => ?_
    obtain ⟨hopen, hshorted⟩ := hgood l hl
    simp [hopen, hshorted]
  unfold State.lineEnd_
  simp only [h, hnone]
  exact ⟨_, rfl, State.bump_frame ..⟩

/-- The rail of a bank after a rail step (R301, R302). -/
def State.steppedRail (s : State) (a : Activity) : Nat := if a.work = .raise then min 4 (s.bankRail a.bank + 1) else 0

/-- The rail of bank `b` is stored. -/
def State.setRail (s : State) (b n : Nat) : State :=
  { s with im := { s.im with bankRail := Tab.set (fun _ => 0) s.im.bankRail b n } }

/-- A rail that was stored before its activity ended is as stored. -/
theorem State.endAct_setRail (s : State) (a : Activity) (n : Nat) :
    ((s.setRail a.bank n).endAct a).im.bankRail = Tab.set (fun _ => 0) s.im.bankRail a.bank n ∧
      ((s.setRail a.bank n).endAct a).uk.acts = s.uk.acts.filter (·.id ≠ a.id) :=
  ⟨State.bankRail_endAct .., State.acts_endAct ..⟩

/-- A rail step stores the rail of its bank; a step back to nominal leaves a record behind its end. -/
theorem State.railEnd_of_running (h : s.running id .rail = some a) :
    (s.railEnd id).im.bankRail = Tab.set (fun _ => 0) s.im.bankRail a.bank (s.steppedRail a) ∧
      (s.railEnd id).uk.acts = s.uk.acts.filter (·.id ≠ a.id) := by
  unfold State.railEnd State.steppedRail
  simp only [h]
  split
  · exact s.endAct_setRail a _
  · rw [State.bankRail_cper, (State.cper_frame ..).uk_eq rfl]
    exact s.endAct_setRail a 0

end Ends

/-- Settles O29: the result stands in the array, bank or rail before the activity ends, and its end leaves the result alone. -/
theorem upkeepActivitiesEndWithTheirResult : Obligations.UpkeepActivitiesEndWithTheirResult := by
  refine ⟨?sweep, ?selfCal, ?gain, ?line, ?rail⟩
  case sweep =>
    intro s id meas a y hs h hy
    obtain ⟨u, hend, hframe⟩ := State.sweepEnd_of_running h hy meas
    have htabs := hframe.tabs ((State.setArr_frame ..).tabs hs.tabs)
    obtain ⟨e, he⟩ := State.arr_endAct_of htabs
      ((State.arr_of_af (hframe.af_eq rfl) _).trans (State.arr_setArr_same hs.tabs a.array _)) a
    refine ⟨_, congrArg Host.Outcome.next hend, ?_, ?_, ?_, State.ne_of_mem_end h⟩
    all_goals simp only [he, State.swept]
  case selfCal =>
    intro s id hits a hs h hgood
    obtain ⟨u, hend, hframe, hcal⟩ := State.selfCalEnd_of_running h hgood
    obtain ⟨l, hl⟩ := (State.closuresEnded_endAct (hframe.tabs hs.tabs) a).field
    refine ⟨_, congrArg Host.Outcome.next hend, ?_, State.ne_of_mem_end h⟩
    unfold State.convCal
    rw [hl]
    change Tab.get _ u.af.bankCal a.bank = _
    rw [hcal]
    exact (Tab.get_set_of_rising hs.tabs.af.2.1 ..).trans (if_pos rfl)
  case gain =>
    intro s id a y hs h hy
    obtain ⟨b, hend⟩ := State.gainEnd_of_running h hy
    have htabs (b : Arr) : (s.setArr a.array b).freeStep.freeStep.TabsOk :=
      (State.freeStep_frame _).tabs ((State.freeStep_frame _).tabs ((State.setArr_frame ..).tabs hs.tabs))
    obtain ⟨e, he⟩ := State.arr_endAct_of (htabs _) (State.arr_setArr_same hs.tabs a.array _) a
    exact ⟨_, congrArg Host.Outcome.next hend, congrArg Arr.gainCal he, congrArg Arr.gainTime he,
      congrArg (fun b : Arr => b.fwd.nA) he, congrArg (fun b : Arr => b.bwd.nA) he, State.ne_of_mem_end h⟩
  case line =>
    intro s id up down a hs h hgood
    obtain ⟨u, hend, hframe⟩ := State.lineEnd_of_running h hgood
    obtain ⟨e, he⟩ := State.arr_endAct_of (hframe.tabs ((State.setArr_frame ..).tabs hs.tabs))
      ((State.arr_of_af (hframe.af_eq rfl) _).trans (State.arr_setArr_same hs.tabs a.array _)) a
    exact ⟨_, congrArg Host.Outcome.next hend, congrArg Arr.lineTime he, State.ne_of_mem_end h⟩
  case rail =>
    intro s id a hs h
    obtain ⟨hrail, hacts⟩ := State.railEnd_of_running h
    refine ⟨_, rfl, ?_, fun b hb => ?_⟩
    · unfold State.bankRail
      rw [hrail, Tab.get_set_of_rising hs.tabs.im.2.1, if_pos rfl]
      rfl
    · rw [hacts] at hb
      have hne : b.id ≠ a.id := by simpa using (List.mem_filter.mp hb).2
      rwa [State.act_id (State.running_act h)] at hne

end Sys2Proof.Machine
end

section
/-!
What a state keeps while every pair goes as far as it can (`State.settleAll`, R132, R235, R238): device time stands still, and no
array enters or leaves service.
-/
namespace Sys2Proof.Machine

open Sys2Proof

/-! ### Device time -/

@[simp] theorem State.now_wakeA2 (s : State) (cause : Nat) : (s.wakeA2 cause).now = s.now := by
  unfold State.wakeA2
  extract_lets
  split
  · rfl
  · split <;> rfl

@[simp] theorem State.now_sendSource (s : State) (n : Nat) : (s.sendSource n).now = s.now := by
  unfold State.sendSource State.sendVector
  split
  · exact (State.emit_frame ..).now_eq rfl
  · split
    · exact (State.emit_frame ..).now_eq rfl
    · rfl

@[simp] theorem State.now_arrive (s : State) (n : Nat) : (s.arrive n).now = s.now := by
  unfold State.arrive
  split
  · rfl
  · extract_lets noted c _ counted woken
    have hcounted : counted.now = s.now := by
      unfold counted
      split <;> rfl
    have hwoken : woken.now = s.now := by
      unfold woken
      split
      · exact (State.now_wakeA2 ..).trans hcounted
      · exact hcounted
    split
    · exact (State.now_sendSource ..).trans hwoken
    · exact hwoken

@[simp] theorem State.now_haltOn (s : State) (c : Cmd) (t : Status) : (s.haltOn c t).now = s.now := by
  unfold State.haltOn State.haltRing
  split
  · dsimp only
    split
    · rfl
    · exact State.now_arrive ..
  · rfl

theorem State.now_foldl {α : Type} {f : State → α → State} (hf : ∀ s x, (f s x).now = s.now) (l : List α) (s : State) :
    (l.foldl f s).now = s.now :=
  List.foldlRecOn (motive := fun u : State => u.now = s.now) l f rfl fun u hu x _ => (hf u x).trans hu

@[simp] theorem State.now_deliver (s : State) (q : Nat) : (s.deliver q).now = s.now := by
  rcases s.deliver_cases q with h | ⟨u, c, hframe, h⟩ <;> rw [h]
  rw [(State.logRec_frame ..).now_eq rfl]
  exact (State.now_haltOn ..).trans (hframe.now_eq rfl)

@[simp] theorem State.now_timeOut (s : State) (c : Cmd) : (s.timeOut c).now = s.now := by
  unfold State.timeOut
  split
  · rfl
  · exact State.now_haltOn ..

@[simp] theorem State.now_dropStep (s : State) (n : Nat) : (s.dropStep n).now = s.now := by
  unfold State.dropStep
  split
  · rfl
  · extract_lets released _ dropped
    have hreleased : released.now = s.now :=
      (((State.releaseStep_frame _ n).now_eq rfl).trans ((State.sendSummary_frame ..).now_eq rfl)).trans
        ((State.markStep_frame ..).now_eq rfl)
    rw [State.now_foldl State.now_timeOut]
    exact hreleased

@[simp] theorem State.now_markIncomplete (s : State) (n : Nat) : (s.markIncomplete n).now = s.now := by
  unfold State.markIncomplete
  split
  · rfl
  · change ((s.dropStep n).dropStep (n + 1)).now = _
    rw [State.now_dropStep, State.now_dropStep]

@[simp] theorem State.now_failCmd (s : State) (q : Nat) (t : Status) (detail : Nat) : (s.failCmd q t detail).now = s.now := by
  unfold State.failCmd
  split
  · rfl
  · extract_lets failed
    have hfailed : failed.now = s.now := State.now_haltOn ..
    split
    · exact (State.now_markIncomplete ..).trans hfailed
    · exact hfailed

@[simp] theorem State.now_trigger (s : State) (cause : Nat) : (s.trigger cause).now = s.now := by
  unfold State.trigger
  extract_lets gated l logged
  have hlogged : logged.now = s.now := State.now_foldl (fun u n => (u.triggerLog_frame n cause).now_eq rfl) l s
  split
  · exact hlogged
  · exact (State.now_arrive ..).trans hlogged

@[simp] theorem State.now_cper (s : State) (b : CperBody) : (s.cper b).now = s.now := by
  unfold State.cper
  extract_lets w _ recorded
  have hrecorded : recorded.now = s.now := by
    unfold recorded
    split
    · rfl
    · exact State.now_arrive ..
  rw [State.now_trigger, (State.logFor_frame ..).now_eq rfl, hrecorded]

@[simp] theorem State.now_startRemap (s : State) (st pch row mech syn : Nat) : (s.startRemap st pch row mech syn).now = s.now := by
  unfold State.startRemap
  split
  · rfl
  · dsimp only
    split
    · exact State.now_cper ..
    · rfl

@[simp] theorem State.now_stackError (s : State) (cw : Nat) (bad : Bool) (syn : Nat) : (s.stackError cw bad syn).now = s.now := by
  unfold State.stackError
  split
  · rfl
  · extract_lets u counted recorded _ targeted
    have hcounted : counted.1.now = s.now := (State.noteError_frame s u).now_eq rfl
    have hrecorded : recorded.now = s.now := by
      unfold recorded
      split
      · exact hcounted
      · exact (State.now_cper ..).trans hcounted
    have htargeted : targeted.now = s.now := by
      unfold targeted
      split <;> exact hrecorded
    split
    · exact (State.now_startRemap ..).trans htargeted
    · exact htargeted

@[simp] theorem State.now_mergeCw (s : State) (cw : Nat) : (s.mergeCw cw).now = s.now := by
  unfold State.mergeCw
  dsimp only
  rw [(State.setMeta_frame ..).now_eq rfl, (State.settle_frame ..).now_eq rfl]
  unfold State.noteMerge
  split
  · rfl
  · rw [State.now_stackError, (State.evtU_frame ..).now_eq rfl, (State.countCorr_frame ..).now_eq rfl]
  · exact State.now_stackError ..

@[simp] theorem State.now_wr (s : State) (a : Nat) (l : List Byte) : (s.wr a l).now = s.now := by
  unfold State.wr
  split
  · exact (State.putBytes_frame ..).now_eq rfl
  · refine ((State.putBytes_frame ..).now_eq rfl).trans (State.now_foldl (fun u cw => ?_) _ s)
    split
    · rfl
    · exact State.now_mergeCw ..

@[simp] theorem State.now_imageRows (s : State) (q : Nat) (t : Resident) (p : Nat) (rows : List (Nat × List (Nat × Int))) :
    (s.imageRows q t p rows).now = s.now := by
  refine State.now_foldl (fun u row => ?_) rows s
  refine State.now_foldl (fun u e => ?_) _ u
  exact State.now_foldl (fun u a => ((State.noteWrite_frame ..).now_eq rfl).trans (State.now_wr u a _)) _ u

@[simp] theorem State.now_wantDom (s : State) (k : Nat) : (s.wantDom k).now = s.now := by
  unfold State.wantDom
  split
  · rfl
  · split <;> rfl

@[simp] theorem State.now_takeWaiting (s : State) : s.takeWaiting.now = s.now := by
  refine State.now_foldl (fun u a => ?_) _ s
  split
  · rfl
  · extract_lets wanted
    have hwanted : wanted.now = u.now := (State.now_wantDom ..).trans (State.now_wantDom ..)
    split <;> exact hwanted

/-! ### Arrays in service -/

/-- From `s` to `t` device time stands still, and no array enters or leaves service. -/
structure State.Steady (s t : State) : Prop where
  now : t.now = s.now
  tabs : s.TabsOk → t.TabsOk
  service : s.TabsOk → ∀ k, (t.arr k).inService = (s.arr k).inService

namespace State.Steady

variable {s t u : State}

theorem refl : Steady s s := ⟨rfl, id, fun _ _ => rfl⟩

theorem trans (h : Steady s t) (k : Steady t u) : Steady s u :=
  ⟨k.now.trans h.now, k.tabs ∘ h.tabs, fun hs j => (k.service (h.tabs hs) j).trans (h.service hs j)⟩

theorem foldl {α : Type} {f : State → α → State} (hf : ∀ v x, Steady v (f v x)) (l : List α) (s : State) :
    Steady s (l.foldl f s) :=
  List.foldlRecOn l f refl fun v hv x _ => hv.trans (hf v x)

theorem of_arrays {l : List Comp} (h : Frame l s t) (harr : t.af.arrays = s.af.arrays) (hnow : t.now = s.now) : Steady s t :=
  ⟨hnow, h.tabs, fun _ k => congrArg (fun m => (Tab.get (fun _ => Arr.initial) m k).inService) harr⟩

theorem of_af {l : List Comp} (h : Frame l s t) (ha : l.contains .af = false) (hnow : t.now = s.now) : Steady s t :=
  of_arrays h (congrArg ArrayField.arrays (h.af_eq ha)) hnow

theorem of_frame {l : List Comp} (h : Frame l s t) (ha : l.contains .af = false) (hl : l.contains .ld = false) : Steady s t :=
  of_af h ha (h.now_eq hl)

/-- An array is stored that is in service as before. -/
theorem setArr {k : Nat} {a : Arr} (ha : a.inService = (s.arr k).inService) : Steady s (s.setArr k a) := by
  refine ⟨rfl, (State.setArr_frame s k a).tabs, fun hs j => ?_⟩
  rw [State.arr_setArr_of_ordered hs]
  split
  · next hj => rw [hj, ha]
  · rfl

theorem deliver (q : Nat) : Steady s (s.deliver q) := of_af (State.deliver_frame s q) rfl (State.now_deliver s q)

theorem setPairVersion (x : Resident) (sg g v : Nat) : Steady s (s.setPairVersion x sg g v) := by
  unfold State.setPairVersion
  extract_lets k0 _ s1
  have h1 : Steady s s1 := setArr rfl
  split
  · exact h1.trans (setArr rfl)
  · exact h1

theorem settlePair (x : Resident) (sg g n : Nat) : Steady s (s.settlePair x sg g n) := by
  induction n generalizing s with
  | zero => exact refl
  | succ n ih =>
    unfold State.settlePair
    split
    · exact refl
    split
    · exact refl
    dsimp only
    split
    · exact refl
    · split
      · have himage := of_af (State.imageRows_frame s ‹ChangeSet›.seq x (x.pair sg g)
          (rowsOfChanges (s.changesOf x (x.pair sg g) ‹ChangeSet›))) rfl (State.now_imageRows ..)
        exact (himage.trans (setPairVersion ..)).trans ih
      · exact refl
    · split
      · split
        · exact refl
        · exact setArr rfl
      · split
        · exact (setPairVersion ..).trans ih
        · refine (setArr ?_).trans (of_frame (State.queueOn_frame ..) rfl rfl)
          rfl

theorem failRead (r : Read) (x : Status) (detail : Nat) : Steady s (s.failRead r x detail) := by
  unfold State.failRead
  split
  · exact of_af (State.failCmd_frame ..) rfl (State.now_failCmd ..)
  · have harrays : (s.spanMsg r 0x43 []).af.arrays = s.af.arrays :=
      congrArg ArrayField.arrays ((State.spanMsg_frame s r 0x43 []).af_eq rfl)
    exact of_arrays (State.retractRead_frame s r) harrays ((State.retractRead_frame s r).now_eq rfl)

theorem failOrphans : Steady s s.failOrphans := by
  refine foldl (fun v r => ?_) _ _
  split
  · split
    · exact failRead ..
    · exact refl
  · exact refl

theorem progEnds : Steady s s.progEnds := by
  refine foldl (fun v c => ?_) _ _
  split
  · split
    · split
      · split
        · exact deliver _
        · exact refl
      · exact refl
    · exact refl
  · exact refl

theorem settleAll : Steady s s.settleAll :=
  ((foldl (fun v x => foldl (fun _ (p : Nat × Nat) => settlePair x p.1 p.2 _) _ v) _ s).trans failOrphans).trans progEnds

theorem loadEnds (id : Nat) : Steady s (s.loadEnds id) := by
  unfold State.loadEnds
  split
  · exact refl
  split
  · exact refl
  · dsimp only
    split
    · exact (of_arrays (State.setResident_frame ..) rfl rfl).trans (deliver _)
    · exact refl

end State.Steady

end Sys2Proof.Machine
end

section
/-!
Starts and write windows (R123 to R139, R149 to R154): an activity with its claims starts; a window adds one write to each of its
rows, and an array that is not worn out by that keeps what the window stored.
-/
namespace Sys2Proof.Machine

open Sys2Proof

/-! ### Row writes (R124, R125) -/

theorem foldl_max_le_iff {l : List Nat} {m n : Nat} : l.foldl max m ≤ n ↔ m ≤ n ∧ ∀ x ∈ l, x ≤ n := by
  induction l generalizing m with
  | nil => simp
  | cons x l ih => simp only [List.foldl_cons, ih, Nat.max_le, List.forall_mem_cons, and_assoc]

/-- No row has been written more often than the most-written one. -/
theorem Arr.writes_le_iff {a : Arr} {n : Nat} : a.writes ≤ n ↔ ∀ p ∈ a.rowWrites, p.2 ≤ n := by
  simp only [Arr.writes, foldl_max_le_iff, Nat.zero_le, true_and, List.forall_mem_map]

theorem Tab.get_le {t : Tab Nat} {n : Nat} (h : ∀ p ∈ t, p.2 ≤ n) (k : Nat) : Tab.get (fun _ => 0) t k ≤ n := by
  induction t with
  | nil => exact Nat.zero_le n
  | cons p t ih =>
    unfold Tab.get
    split
    · exact h _ (by simp)
    · exact ih fun q hq => h q (List.mem_cons_of_mem _ hq)

/-- `b` is array `a` with other levels after at most `n` more writes of each row. -/
structure Arr.Written (n : Nat) (a b : Arr) : Prop where
  eq : ∃ c w, b = { a with cells := c, rowWrites := w }
  writes : b.writes ≤ a.writes + n

theorem Arr.Written.missed {a b : Arr} {n : Nat} (h : a.Written n b) : b.missed = a.missed := by
  obtain ⟨⟨c, w, rfl⟩, -⟩ := h
  rfl

theorem Arr.Written.transition {a b : Arr} {n : Nat} (h : a.Written n b) : b.transition = a.transition := by
  obtain ⟨⟨c, w, rfl⟩, -⟩ := h
  rfl

theorem Arr.Written.refresh {a b : Arr} {n : Nat} (h : a.Written n b) : b.refresh = a.refresh := by
  obtain ⟨⟨c, w, rfl⟩, -⟩ := h
  rfl

theorem Arr.Written.refl (a : Arr) : a.Written 0 a := ⟨⟨_, _, rfl⟩, Nat.le_refl _⟩

theorem Arr.Written.trans {a b c : Arr} {m n : Nat} (h : a.Written m b) (k : b.Written n c) : a.Written (m + n) c := by
  obtain ⟨⟨l, w, rfl⟩, hw⟩ := h
  obtain ⟨⟨l', w', rfl⟩, kw⟩ := k
  exact ⟨⟨l', w', rfl⟩, by omega⟩

theorem Arr.Written.mono {a b : Arr} {m n : Nat} (h : a.Written m b) (hmn : m ≤ n) : a.Written n b :=
  ⟨h.eq, Nat.le_trans h.writes (Nat.add_le_add_left hmn _)⟩

theorem Arr.Written.foldl {α : Type} {f : Arr → α → Arr} (hf : ∀ (b : Arr) x, b.Written 1 (f b x)) (l : List α) (a : Arr) :
    a.Written l.length (l.foldl f a) := by
  induction l generalizing a with
  | nil => exact .refl a
  | cons x l ih =>
    rw [List.length_cons, Nat.add_comm]
    exact (hf a x).trans (ih _)

/-- Cells change their levels alone. -/
theorem Arr.foldl_setCell (row : Nat) (l : List (Nat × Int)) (a : Arr) :
    ∃ c, l.foldl (fun (a : Arr) e => a.setCell row e.1 e.2) a = { a with cells := c } :=
  List.foldlRecOn (motive := fun b : Arr => ∃ c, b = { a with cells := c }) l _ ⟨_, rfl⟩ fun b hb e _ => by
    obtain ⟨c, rfl⟩ := hb
    exact ⟨_, rfl⟩

theorem Arr.written_writeRow (a : Arr) (row : Nat) (l : List (Nat × Int)) : a.Written 1 (a.writeRow row l) := by
  unfold Arr.writeRow
  extract_lets a1 a2
  obtain ⟨c, hc⟩ : ∃ c, a2 = { a with cells := c } := by
    obtain ⟨c1, h1⟩ : ∃ c, a1 = { a with cells := c } := Arr.foldl_setCell row l a
    obtain ⟨c2, h2⟩ : ∃ c, a2 = { a1 with cells := c } := Arr.foldl_setCell row _ a1
    exact ⟨c2, by rw [h2, h1]⟩
  rw [hc]
  refine ⟨⟨_, _, rfl⟩, Arr.writes_le_iff.mpr fun p hp => ?_⟩
  have hle := Arr.writes_le_iff.mp (Nat.le_refl a.writes)
  rcases Tab.mem_put hp with ⟨rfl, -⟩ | hp
  · exact Nat.succ_le_succ (Tab.get_le hle row)
  · exact Nat.le_trans (hle p hp) (Nat.le_succ _)

/-- An array that is not worn out is at most reported as worn (R125). -/
theorem State.wear_frame_of_lt {s : State} {k : Nat} (h : s.arrayWrites k < 100000000) : Frame [.im] s (s.wear k) := by
  unfold State.wear
  extract_lets n s1
  rw [if_neg (Nat.not_le.mpr h)]
  exact Frame.ite Frame.refl (Frame.upd Frame.refl)

/-- An array stored in `u` after at most `n` writes of each row is not worn out when the closure of its activity has ended. -/
theorem State.ClosuresEnded.arrayWrites_lt {s u v : State} {k n : Nat} {b : Arr} (h : u.ClosuresEnded v)
    (hwhole : u.af.whole = s.af.whole) (hb : u.arr k = b) (hwrites : b.writes ≤ (s.arr k).writes + n)
    (hmissed : b.missed = (s.arr k).missed) (hlt : s.arrayWrites k + n < 100000000) : v.arrayWrites k < 100000000 := by
  obtain ⟨l, hl⟩ := h.field
  have hw : (v.arr k).writes = b.writes := (h.arr_field Arr.writes (fun _ _ => rfl) k).trans (congrArg Arr.writes hb)
  have hm : (v.arr k).missed = b.missed := (h.arr_field Arr.missed (fun _ _ => rfl) k).trans (congrArg Arr.missed hb)
  have hv : v.af.whole = u.af.whole := by rw [hl]
  unfold State.arrayWrites at hlt ⊢
  omega

/-! ### Starts (R151, R132) -/

/-- A started activity stands as running. -/
theorem State.act_startAct {s : State} {a b : Activity} (h : s.act a.id = some b) :
    (s.startAct a).act a.id = some { a with running := true, startedAt := s.now } := by
  unfold State.startAct
  rw [State.act_of_uk ((State.logAct_frame ..).uk_eq rfl), State.act_of_uk ((State.evtU_frame ..).uk_eq rfl)]
  exact State.act_setAct (b := { a with running := true, startedAt := s.now }) h rfl

/-- The claims of an activity are looked at when every pair has gone as far as it can, and at the same time. -/
theorem State.now_claimGo (s : State) (id n : Nat) : ((s.settleAll.takeWaiting).claimGo id n).now = s.now :=
  ((State.claimGo_frame _ id n).now_eq rfl).trans ((State.now_takeWaiting _).trans State.Steady.settleAll.now)

theorem State.claimGrant_of_held {s u : State} {id : Nat} {a : Activity} (hu : u = (s.settleAll.takeWaiting).claimGo id 4)
    (ha : u.act id = some a) (hheld : a.held = 4) (hrun : a.running = false) (hwork : a.work ≠ .transition)
    (hmay : u.mayStart a = true) : s.claimGrant id = u.startAct a := by
  unfold State.claimGrant
  rw [← hu]
  simp [ha, hheld, hrun, hwork, hmay]

/-- A transition that is ready starts when no other of its tensor goes before it (R132, R136). -/
theorem State.transitionStart_of_ready {s : State} {k : Nat} {a : Activity} {tr : Transition} {y : Resident} {cs : ChangeSet}
    (ha : s.uk.acts.find? (fun a => a.array == k && a.work == .transition) = some a) (htr : (s.arr k).transition = some tr)
    (hy : (s.arr k).tensor.bind s.resident = some y) (hheld : a.held = 4) (hready : s.transitionReady a = true)
    (hfirst : ∀ b ∈ s.uk.acts, b.id ≠ a.id → s.sameTensor a b = true → s.transitionReady b = true → s.usedFirst b a = false)
    (hcs : y.sets.find? (fun c => c.step == tr.step) = some cs) :
    s.transitionStart k = (s.setArr k { s.arr k with transition := some { tr with
      rows := rowsOfChanges (s.changesOf y (s.arr k).pair cs), started := true } }).startAct a := by
  have hnone : ¬ s.uk.acts.any (fun b => b.id != a.id && s.sameTensor a b && s.transitionReady b && s.usedFirst b a) := by
    simpa [and_imp] using hfirst
  have hgo : ¬ (a.held ≠ 4 ∨ ¬ s.transitionReady a ∨
      s.uk.acts.any (fun b => b.id != a.id && s.sameTensor a b && s.transitionReady b && s.usedFirst b a)) := by
    rintro (h | h | h)
    · exact h hheld
    · exact h hready
    · exact hnone h
  unfold State.transitionStart
  simp only [ha, htr, hy]
  rw [if_neg hgo]
  simp only [hcs]

/-! ### Write windows (R133, R139) -/

section Windows

variable {s : State} {id : Nat} {a : Activity}

/-- What the row counts before the window's own work. -/
def State.windowCounted (s : State) (a : Activity) : State := (s.bump (dieCtr 0x2400308 (keyDie a.array))).evtU 0x71 1

theorem State.windowCounted_frame (s : State) (a : Activity) : Frame [.hg, .ctrs] s (s.windowCounted a) :=
  ((State.bump_frame s _ _).mono rfl).comp (State.evtU_frame ..) rfl

theorem State.windowEnd_transition (h : s.running id .window = some a) (hret : (s.arr a.array).retired = false)
    (hwork : a.work = .transition) : s.windowEnd id [] = (s.windowCounted a).transitionWindow a [] := by
  simp [State.windowEnd, h, hret, hwork, State.windowCounted]

theorem State.windowEnd_refresh (h : s.running id .window = some a) (hret : (s.arr a.array).retired = false)
    (hwork : a.work = .refresh) : s.windowEnd id [] = (s.windowCounted a).refreshWindow a [] := by
  simp [State.windowEnd, h, hret, hwork, State.windowCounted]

/-- A window of a transition with rows behind it leaves those rows, and its activity goes on. -/
theorem State.transitionWindow_of_rest {tr : Transition} {y : Resident} (hs : s.TabsOk) (hact : s.act id = some a)
    (htr : (s.arr a.array).transition = some tr) (hy : (s.arr a.array).tensor.bind s.resident = some y)
    (hrest : tr.rows.drop 64 ≠ []) (hlt : s.arrayWrites a.array + 64 < 100000000) :
    ((s.transitionWindow a []).arr a.array).transition = some { tr with rows := tr.rows.drop 64 } ∧
      (s.transitionWindow a []).act id = some { a with startedAt := s.now } := by
  unfold State.transitionWindow
  extract_lets k ar coming
  split
  case h_2 hno => exact absurd hy (hno tr y htr)
  case h_1 x t hx ht =>
  obtain rfl : tr = x := Option.some.inj (htr.symm.trans hx)
  obtain rfl : y = t := Option.some.inj (hy.symm.trans ht)
  extract_lets rows rest q imaged phys written fails stored
  rw [if_neg (by simpa [rest] using hrest)]
  have himage : Frame _ s imaged := State.imageRows_frame s q y ar.pair rows
  have hw : Arr.Written 64 { ar with transition := some { tr with rows := rest } } written :=
    (Arr.Written.foldl (fun b r => b.written_writeRow ..) rows _).mono (List.length_take_le ..)
  have hstored : Frame [.ctrs] (imaged.setArr k written) stored := State.countRows_frame ..
  have htabs : stored.TabsOk := hstored.tabs ((State.setArr_frame ..).tabs (himage.tabs hs))
  have harr : stored.arr k = written :=
    (State.arr_of_af (hstored.af_eq rfl) k).trans (State.arr_setArr_same (himage.tabs hs) k written)
  have hended := State.closuresEnded_closureEnds htabs a
  have hwhole : stored.af.whole = s.af.whole := by
    change imaged.af.whole = _
    rw [himage.af_eq rfl]
  have hwear (b : Activity) : Frame [.im] ((stored.closureEnds a).setAct b) (((stored.closureEnds a).setAct b).wear k) :=
    State.wear_frame_of_lt (State.ClosuresEnded.arrayWrites_lt (s := s) (hended.trans (.of_af rfl)) hwhole harr hw.writes
      hw.missed hlt)
  constructor
  · rw [State.arr_of_af ((hwear _).af_eq rfl)]
    exact (hended.arr_field Arr.transition (fun _ _ => rfl) k).trans ((congrArg Arr.transition harr).trans hw.transition)
  · have hkept : (stored.closureEnds a).act id = some a := by
      rw [State.act_of_uk ((State.closureEnds_frame ..).uk_eq rfl), State.act_of_uk (hstored.uk_eq rfl)]
      exact (State.act_of_uk (himage.uk_eq rfl) id).trans hact
    rw [State.act_of_uk ((hwear _).uk_eq rfl)]
    exact State.act_setAct (b := { a with startedAt := s.now }) hkept (State.act_id (a := a) hact)

/-- A window of a refresh leaves the rest of the refresh list, and its activity is gone. -/
theorem State.refreshWindow_of_written (hs : s.TabsOk) (hlt : s.arrayWrites a.array + 64 < 100000000) :
    ((s.refreshWindow a []).arr a.array).refresh = (s.arr a.array).refresh.drop 64 ∧ (s.refreshWindow a []).act a.id = none := by
  unfold State.refreshWindow
  extract_lets k ar rows written fails counted queued
  have hw : Arr.Written 64 { ar with refresh := ar.refresh.drop 64 } written :=
    (Arr.Written.foldl (fun b r => b.written_writeRow ..) rows _).mono (List.length_take_le ..)
  have hcounted : Frame [.ctrs] (s.setArr k written) counted := (State.countRows_frame ..).comp (State.bump_frame ..) rfl
  have hqueued : Frame [.uk] counted queued := Frame.ite Frame.refl (State.queueOn_frame ..)
  have htabs : queued.TabsOk := hqueued.tabs (hcounted.tabs ((State.setArr_frame ..).tabs hs))
  have haf : queued.af = (s.setArr k written).af := (hqueued.af_eq rfl).trans (hcounted.af_eq rfl)
  have harr : queued.arr k = written := (State.arr_of_af haf k).trans (State.arr_setArr_same hs k written)
  have hended := State.closuresEnded_endAct htabs a
  change (((queued.endAct a).wear k).arr k).refresh = _ ∧ ((queued.endAct a).wear k).act a.id = none
  have hwear : Frame [.im] (queued.endAct a) ((queued.endAct a).wear k) :=
    State.wear_frame_of_lt (hended.arrayWrites_lt (s := s) (by rw [haf]; rfl) harr hw.writes
      hw.missed hlt)
  constructor
  · rw [State.arr_of_af (hwear.af_eq rfl)]
    exact (hended.arr_field Arr.refresh (fun _ _ => rfl) k).trans ((congrArg Arr.refresh harr).trans hw.refresh)
  · rw [State.act_of_uk (hwear.uk_eq rfl)]
    exact List.find?_eq_none.mpr fun b hb => by simpa using State.ne_of_mem_endAct hb

/-- A programmed array enters service at the version of its root, with fresh gathering windows (R137, R145). -/
def State.entering (s : State) (root : Nat) (b : Arr) : Arr :=
  { b with inService := true, version := (s.arr root).version, fwd := freshStat s.free, bwd := freshStat (s.free + 1) }

/-- A programmed array that is not worn out stands in service. -/
theorem State.programEnd_inService {y : Resident} (hs : s.TabsOk) (h : s.running id .program = some a)
    (hy : (s.arr a.array).tensor.bind s.resident = some y) (hret : (s.arr a.array).retired = false)
    (hlt : s.arrayWrites a.array + 1024 < 100000000) : ((s.programEnd id []).arr a.array).inService = true := by
  unfold State.programEnd
  split
  case h_1 hno => exact absurd (hno.symm.trans h) nofun
  case h_2 b hb =>
  obtain rfl : a = b := Option.some.inj (h.symm.trans hb)
  extract_lets k ar root clean
  split
  case h_1 hno => exact absurd (hno.symm.trans hy) nofun
  case h_2 t ht =>
  rw [if_neg (by simpa [ar, k] using hret)]
  extract_lets written fails programmed mapped
  have hw : Arr.Written 1024 clean written :=
    (Arr.Written.foldl (fun b r => b.written_writeRow ..) (List.range 1024) clean).mono (Nat.le_of_eq List.length_range)
  clear_value written
  have hprogrammed : Frame [.free, .ctrs] (s.setArr k (s.entering root written)) programmed :=
    Frame.comp (((State.freeStep_frame _).comp (State.freeStep_frame _) rfl).mono rfl) (State.countRows_frame ..) rfl
  have hmapped : Frame [.im] programmed mapped := Frame.ite Frame.refl (State.mapSpare_frame ..)
  have htabs : mapped.TabsOk := hmapped.tabs (hprogrammed.tabs ((State.setArr_frame ..).tabs hs))
  have haf : mapped.af = (s.setArr k (s.entering root written)).af := (hmapped.af_eq rfl).trans (hprogrammed.af_eq rfl)
  have harr : mapped.arr k = s.entering root written := (State.arr_of_af haf k).trans (State.arr_setArr_same hs k _)
  have hended := State.closuresEnded_endAct htabs a
  have hwear : Frame [.im] (mapped.endAct a) ((mapped.endAct a).wear k) :=
    State.wear_frame_of_lt (hended.arrayWrites_lt (s := s) (by rw [haf]; rfl) harr hw.writes hw.missed hlt)
  have hsteady := (State.Steady.loadEnds (s := (mapped.endAct a).wear k) t.id).trans .settleAll
  calc (((((mapped.endAct a).wear k).loadEnds t.id).settleAll).arr k).inService
      = (((mapped.endAct a).wear k).arr k).inService := hsteady.service (hwear.tabs ((State.endAct_frame ..).tabs htabs)) k
    _ = ((mapped.endAct a).arr k).inService := congrArg Arr.inService (State.arr_of_af (hwear.af_eq rfl) k)
    _ = (mapped.arr k).inService := hended.arr_field Arr.inService (fun _ _ => rfl) k
    _ = true := congrArg Arr.inService harr

end Windows

/-- Settles O30: the claims, the transition or the window meet the conditions of their row, and what the row stores then is not
worn out. -/
theorem claimsTransitionsAndWindowsGoOn : Obligations.ClaimsTransitionsAndWindowsGoOn := by
  refine ⟨?claims, ?transition, ?window, ?refresh, ?program⟩
  case claims =>
    intro s u id a hu ha hheld hrun hwork hmay
    obtain rfl : a.id = id := State.act_id ha
    have hstart := State.act_startAct ha
    have hnow : u.now = s.now := hu ▸ State.now_claimGo s a.id 4
    rw [hnow] at hstart
    exact ⟨_, congrArg Host.Outcome.next (State.claimGrant_of_held hu ha hheld hrun hwork hmay), hstart⟩
  case transition =>
    intro s x a tr y cs hs ha htr hy hheld hready hfirst hcs
    obtain ⟨b, hb⟩ : ∃ b, s.act a.id = some b :=
      Option.isSome_iff_exists.mp (List.find?_isSome.mpr ⟨a, List.mem_of_find?_eq_some ha, by simp⟩)
    refine ⟨_, congrArg Host.Outcome.next (State.transitionStart_of_ready ha htr hy hheld hready hfirst hcs),
      State.act_startAct (s := s.setArr _ _) hb, ?_⟩
    rw [State.arr_of_af ((State.startAct_frame ..).af_eq rfl), State.arr_setArr_same hs.tabs]
  case window =>
    intro s id a tr y hs h hwork hret htr hy hrest hlt
    obtain ⟨hrows, hact⟩ := State.transitionWindow_of_rest (s := s.windowCounted a) (id := id)
      ((s.windowCounted_frame a).tabs hs.tabs) (State.running_act h) htr hy hrest hlt
    exact ⟨_, congrArg Host.Outcome.next (State.windowEnd_transition h hret hwork), hrows, hact⟩
  case refresh =>
    intro s id a hs h hwork _ hret hlt
    obtain ⟨hrows, hgone⟩ := State.refreshWindow_of_written (s := s.windowCounted a) (a := a)
      ((s.windowCounted_frame a).tabs hs.tabs) hlt
    exact ⟨_, congrArg Host.Outcome.next (State.windowEnd_refresh h hret hwork), hrows, State.act_id (State.running_act h) ▸ hgone⟩
  case program =>
    intro s id a y hs h hy hret hlt
    exact ⟨_, rfl, State.programEnd_inService hs.tabs h hy hret hlt⟩

end Sys2Proof.Machine
end

section
/-!
Commands that name their operands through a block (ATTN, R178): the operands are judged in the state that the reading of the block
leaves. That reading may count a corrected symbol against its pseudo-channel and ask for a targeted scrub (R281, R377); nothing
of that decides whether a later access waits, fails or is refused.
-/
namespace Sys2Proof.Machine

open Sys2Proof

/-! ### The link stays in its D-state -/

@[simp] theorem State.d3hot_wakeA2 (s : State) (cause : Nat) : (s.wakeA2 cause).ld.d3hot = s.ld.d3hot := by
  unfold State.wakeA2
  extract_lets
  split
  · rfl
  · split <;> rfl

theorem Frame.d3hot_eq {l : List Comp} {s t : State} (h : Frame l s t) (hl : l.contains .ld = false) : t.ld.d3hot = s.ld.d3hot :=
  congrArg Lantern.d3hot (h.same .ld (by simpa using hl))

@[simp] theorem State.d3hot_sendSource (s : State) (n : Nat) : (s.sendSource n).ld.d3hot = s.ld.d3hot := by
  unfold State.sendSource State.sendVector
  split
  · exact (State.emit_frame ..).d3hot_eq rfl
  · split
    · exact (State.emit_frame ..).d3hot_eq rfl
    · rfl

@[simp] theorem State.d3hot_arrive (s : State) (n : Nat) : (s.arrive n).ld.d3hot = s.ld.d3hot := by
  unfold State.arrive
  split
  · rfl
  · extract_lets noted c _ counted woken
    have hcounted : counted.ld = s.ld := by
      unfold counted
      split <;> rfl
    have hwoken : woken.ld.d3hot = s.ld.d3hot := by
      unfold woken
      split
      · exact (State.d3hot_wakeA2 ..).trans (congrArg Lantern.d3hot hcounted)
      · exact congrArg Lantern.d3hot hcounted
    split
    · exact (State.d3hot_sendSource ..).trans hwoken
    · exact hwoken

@[simp] theorem State.d3hot_trigger (s : State) (cause : Nat) : (s.trigger cause).ld.d3hot = s.ld.d3hot := by
  unfold State.trigger
  extract_lets gated l logged
  have hlogged : Frame [.im] s logged := Frame.foldl (fun u n => u.triggerLog_frame n cause) l Frame.refl
  split
  · exact hlogged.d3hot_eq rfl
  · exact (State.d3hot_arrive ..).trans (hlogged.d3hot_eq rfl)

@[simp] theorem State.d3hot_cper (s : State) (b : CperBody) : (s.cper b).ld.d3hot = s.ld.d3hot := by
  unfold State.cper
  extract_lets w _ recorded
  have hrecorded : recorded.ld.d3hot = s.ld.d3hot := by
    unfold recorded
    split
    · rfl
    · exact State.d3hot_arrive ..
  rw [State.d3hot_trigger, (State.logFor_frame ..).d3hot_eq rfl, hrecorded]

/-! ### What decides about accesses -/

/-- What decides whether an access waits, fails or is refused, and what it reads, is the same in both states. -/
structure State.SameAccess (s t : State) : Prop where
  ms : ∃ l m, t.ms = { s.ms with targeted := l, lastTarget := m }
  ham : t.ham = s.ham
  regs : t.regs = s.regs
  d3hot : t.ld.d3hot = s.ld.d3hot

namespace State.SameAccess

variable {s t u : State}

theorem refl : SameAccess s s := ⟨⟨_, _, rfl⟩, rfl, rfl, rfl⟩

theorem trans (h : SameAccess s t) (k : SameAccess t u) : SameAccess s u := by
  obtain ⟨l, m, hms⟩ := h.ms
  obtain ⟨l', m', kms⟩ := k.ms
  exact ⟨⟨l', m', by rw [kms, hms]⟩, k.ham.trans h.ham, k.regs.trans h.regs, k.d3hot.trans h.d3hot⟩

/-- A change of other components decides nothing about accesses. -/
theorem of_frame {l : List Comp} (h : Frame l s t) (hl : l.contains .ms = false) (hham : l.contains .ham = false)
    (hregs : l.contains .regs = false) (hd3 : t.ld.d3hot = s.ld.d3hot) : SameAccess s t :=
  ⟨⟨_, _, h.same .ms (by simpa using hl)⟩, h.same .ham (by simpa using hham), h.same .regs (by simpa using hregs), hd3⟩

theorem of_silent {l : List Comp} (h : Frame l s t) (hms : l.contains .ms = false) (hham : l.contains .ham = false)
    (hregs : l.contains .regs = false) (hld : l.contains .ld = false) : SameAccess s t :=
  of_frame h hms hham hregs (h.d3hot_eq hld)

theorem data (h : SameAccess s t) : s.SameData t := by
  obtain ⟨l, m, hms⟩ := h.ms
  exact ⟨by rw [hms], by rw [hms]⟩

theorem zoneGo (h : SameAccess s t) (gib k : Nat) : t.zoneGo gib k = s.zoneGo gib k := by
  induction k with
  | zero => rfl
  | succ k ih => simp only [State.zoneGo, State.fld_of_regs h.regs, ih]

theorem cwBad (h : SameAccess s t) (cw : Nat) : t.cwBad cw = s.cwBad cw := by
  obtain ⟨l, m, hms⟩ := h.ms
  simp only [State.cwBad, State.zoneClash, State.poisoned, State.zoneTag, State.zoneOf, h.data.upset, h.zoneGo, hms]

theorem rdFail (h : SameAccess s t) (a n : Nat) : t.rdFail a n = s.rdFail a n := by
  obtain ⟨l, m, hms⟩ := h.ms
  have hbad : t.cwBad = s.cwBad := funext h.cwBad
  simp only [State.rdFail, hbad, hms]

theorem rdFails (h : SameAccess s t) (l : List (Nat × Nat)) : t.rdFails l = s.rdFails l := by
  induction l with
  | nil => rfl
  | cons r l ih => simp only [State.rdFails, h.rdFail, ih]

theorem heldBack (h : SameAccess s t) (l : List (Nat × Nat)) : t.heldBack l = s.heldBack l := by
  obtain ⟨_, _, hms⟩ := h.ms
  simp only [State.heldBack, h.d3hot, hms]

theorem rangeBad (h : SameAccess s t) (a n : Nat) : t.rangeBad a n = s.rangeBad a n := by
  obtain ⟨_, _, hms⟩ := h.ms
  have hforbidden : t.forbidden = s.forbidden := by
    funext b
    simp only [State.forbidden, State.inHamper, h.ham, hms]
  unfold State.rangeBad
  rw [hforbidden]

theorem tdOk (h : SameAccess s t) : t.tdOk = s.tdOk := by
  funext a
  simp only [State.tdOk, State.tdGood, h.data.rd, h.rangeBad]

/-- The operands are good in both states or in neither. -/
theorem operands (h : SameAccess s t) {structs ops outs : List (Nat × Nat)} {good : Bool}
    (hops : s.Operands structs good ops outs) : t.Operands structs good ops outs := by
  simpa only [State.Operands, State.writeFail, h.heldBack, h.rdFails] using hops

/-- An error that leaves its codeword readable asks for no spare row. -/
theorem stackError (s : State) (cw syn : Nat) : SameAccess s (s.stackError cw false syn) := by
  unfold State.stackError
  split
  · exact refl
  · extract_lets unit counted recorded _ targeted
    have hcounted : SameAccess s counted.1 := of_silent (State.noteError_frame s unit) rfl rfl rfl rfl
    have hrecorded : SameAccess s recorded := by
      unfold recorded
      split
      · exact hcounted
      · have hbump : SameAccess counted.1 (counted.1.bump 0x2800418) := of_silent (State.bump_frame _ _ 1) rfl rfl rfl rfl
        exact (hcounted.trans hbump).trans (of_frame (State.cper_frame _ _) rfl rfl rfl (State.d3hot_cper _ _))
    have htargeted : SameAccess recorded targeted := by
      unfold targeted
      split
      · exact refl
      · exact ⟨⟨_, _, rfl⟩, rfl, rfl, rfl⟩
    rw [if_neg Bool.false_ne_true]
    exact hrecorded.trans htargeted

theorem noteCw (hbad : s.cwBad cw = false) : SameAccess s (s.noteCw cw) := by
  have hpattern : decodePattern (s.upset cw) ≠ .bad := by
    intro h
    simp [State.cwBad, h] at hbad
  have hmerge : SameAccess s (s.noteMerge cw) := by
    unfold State.noteMerge
    split
    · exact refl
    · have hcount : SameAccess s (s.countCorr cw) := of_silent (State.countCorr_frame s cw) rfl rfl rfl rfl
      have hevent : SameAccess (s.countCorr cw) ((s.countCorr cw).evtU 0x36 1) :=
        of_silent (State.evtU_frame _ 0x36 1) rfl rfl rfl rfl
      exact (hcount.trans hevent).trans (stackError _ cw _)
    · contradiction
  have hbump (off : Nat) : SameAccess (s.noteMerge cw) ((s.noteMerge cw).bump off) := ⟨⟨_, _, rfl⟩, rfl, rfl, rfl⟩
  unfold State.noteCw
  rw [if_neg hpattern]
  split
  · exact hmerge.trans (hbump _)
  · split
    · exact hmerge.trans (hbump _)
    · exact hmerge

/-- Reading what can be read decides nothing about later accesses. -/
theorem noteReads {a n : Nat} (h : s.rdFail a n = none) : SameAccess s (s.noteReads [(a, n)]) := by
  unfold State.noteReads State.noteReads
  split
  · exact refl
  next hdevice =>
  have hgood : ∀ cw ∈ cwsOf a n, s.cwBad cw = false := by
    simp only [State.rdFail, if_neg hdevice] at h
    split at h
    · cases h
    next hnone => simpa using hnone
  refine List.foldlRecOn (motive := SameAccess s) _ _ refl fun t ht cw hcw => ht.trans (noteCw ?_)
  rw [ht.cwBad, hgood cw hcw]

theorem readOperands (q : Nat) {l : List (Nat × Nat)} (h : s.rdFails l = none) : SameAccess s (s.readOperands q l) := by
  induction l generalizing s with
  | nil => exact refl
  | cons r l ih =>
    simp only [State.rdFails] at h
    split at h
    · cases h
    next hread =>
    have hfirst : SameAccess s ((s.noteReads [r]).traffic (some q) false r.1 r.2) :=
      (noteReads hread).trans (of_silent (State.traffic_frame ..) rfl rfl rfl rfl)
    exact hfirst.trans (ih (by rwa [hfirst.rdFails]))

end State.SameAccess

/-! ### What depends on memory alone -/

section Data

variable {s t : State}

theorem State.SameData.rdNat (h : s.SameData t) (a n : Nat) : t.rdNat a n = s.rdNat a n := by
  simp only [State.rdNat, h.rd]

theorem State.SameData.tdAt (h : s.SameData t) (a : Nat) : t.tdAt a = s.tdAt a := by
  simp only [State.tdAt, h.rd]

theorem State.SameData.openOut_isSome (h : s.SameData t) (n : Nat) (d : Td) : (t.openOut n d).isSome = (s.openOut n d).isSome := by
  have hhist : t.histAt d.hist = s.histAt d.hist := by simp only [State.histAt, h.rdNat]
  simp only [State.openOut, State.openHist, hhist, apply_ite Option.isSome, Option.isSome_some]

end Data

end Sys2Proof.Machine
end

section
/-!
Tiles from their set-up to delivery (R67 to R73, R162 to R168). A command's set-up replaces its tiles and makes it run; a pass replaces
one tile; the last delivery ends the block and the command. Each is said once here, for MMUL and for attention.
-/
namespace Sys2Proof.Machine

open Sys2Proof

/-! ### Set-up -/

/-- Command `w.seq` runs with the work `w` and the tiles `l`. -/
def State.setUp (s : State) (w : Work) (l : List Tile) (ind : BitVec 16) : State :=
  ((s.setTiles w l).addCond w.seq [] ind).updCmd w.seq fun c => { c with stage := .running }

section SetUp

variable {s : State} {w : Work} {l : List Tile} {ind : BitVec 16}

theorem State.setUp_frame : Frame [.hg, .mc] s (s.setUp w l ind) :=
  (((State.setTiles_frame s w l).mono rfl).comp (State.addCond_frame ..) rfl).comp (State.updCmd_frame ..) rfl

@[simp] theorem State.setUp_tiles : (s.setUp w l ind).mc.tiles = s.mc.tiles.filter (·.seq ≠ w.seq) ++ l := rfl

theorem State.mem_setUp_works : w ∈ (s.setUp w l ind).mc.works := List.mem_cons_self

theorem State.runs_setUp {c : Cmd} (h : s.cmd w.seq = some c) :
    ∃ d, (s.setUp w l ind).cmd w.seq = some d ∧ d.stage = .running :=
  ⟨_, State.cmd_running (State.cmd_addCond (s := s.setTiles w l) h [] ind), rfl⟩

/-- After the set-up the command's tiles are those that were set up. -/
theorem State.filter_setUp_tiles (h : ∀ y ∈ l, y.seq = w.seq) :
    (s.setUp w l ind).mc.tiles.filter (fun y => y.seq = w.seq) = l := by
  have hold : (s.mc.tiles.filter (·.seq ≠ w.seq)).filter (fun y => y.seq = w.seq) = [] := by
    simp
  have hnew : l.filter (fun y => y.seq = w.seq) = l := List.filter_eq_self.mpr fun y hy => by simp [h y hy]
  rw [State.setUp_tiles, List.filter_append, hold, hnew, List.nil_append]

theorem State.mem_setUp_tiles {y : Tile} (hy : y ∈ (s.setUp w l ind).mc.tiles) (hseq : y.seq = w.seq) : y ∈ l := by
  rcases List.mem_append.mp hy with hold | hnew
  · exact absurd hseq (by simpa using (List.mem_filter.mp hold).2)
  · exact hnew

end SetUp

theorem State.opened_frame (s : State) (n : Nat) (d : Td) : Frame [.ms, .hg, .ld, .irq, .pcie, .im, .fab, .ctrs, .out] s
    (s.opened n d) :=
  Frame.getD Frame.refl (fun _ hu => State.openOut_frame hu) rfl

/-! ### MMUL (R177) -/

theorem State.SameData.mmul {s t : State} (h : s.SameData t) (c : Cmd) : t.mmul c = s.mmul c := by
  simp only [State.mmul, h.tdAt]

theorem State.seq_mmulTiles {s : State} {x : Mmul} {q : Nat} {prior : Nat → Nat → List Val} {y : Tile}
    (hy : y ∈ s.mmulTiles x q prior) : y.seq = q := by
  obtain ⟨_, _, rfl⟩ := List.mem_map.mp hy
  rfl

/-- MMUL on good operands sets up its tiles in the state in which the record of C is open. -/
theorem State.runMmul_of_operands {s u : State} {q : Nat} {c : Cmd} {x : Mmul} {ops : List (Nat × Nat)}
    (hc : s.runnable q 0x18 = some c) (hx : x = s.mmul c)
    (hranges : ops = x.a.ranges ++ x.b.ranges ++ (if x.acc then x.c.ranges else []) ++ x.a.histRange ++ x.b.histRange ++ x.c.histRange)
    (hops : s.Operands [(c.u 16 8, 64), (c.u 24 8, 64), (c.u 32 8, 64)]
      ([c.u 16 8, c.u 24 8, c.u 32 8].all s.tdOk && x.shapeOk && (s.openOut c.step x.c).isSome) ops x.c.ranges)
    (hu : u = s.readOperands q ([(c.u 16 8, 64), (c.u 24 8, 64), (c.u 32 8, 64)] ++ ops)) :
    ∃ w ind, w.seq = q ∧ s.runMmul q =
      (u.opened c.step (u.mmul c).c).setUp w (u.mmulTiles (u.mmul c) q (priorAt (u.priorOf q (u.mmul c).acc (u.mmul c).c))) ind := by
  subst hu hranges hx
  unfold State.runMmul
  rw [hc]
  dsimp only
  rw [State.withOperands_of_operands hops]
  exact ⟨_, _, rfl, rfl⟩

/-! ### Issue stages (R171, R172) -/

section Stage

variable {s : State}

theorem State.stageOf_of_mc {t : State} (h : t.mc = s.mc) (k : Nat) : t.stageOf k = s.stageOf k := by
  unfold State.stageOf; rw [h]

theorem State.creditOf_of_mc {t : State} (h : t.mc = s.mc) (k : Nat) : t.creditOf k = s.creditOf k := by
  unfold State.creditOf; rw [h]

theorem State.stageOf_putStage (hs : s.Inv) (k stage credit : Nat) (r : Option (Bool × Nat)) :
    (s.putStage k stage credit r).stageOf k = stage :=
  (Tab.get_set_of_rising hs.tabs.mc.1 k k stage).trans (if_pos rfl)

theorem State.creditOf_putStage (hs : s.Inv) (k stage credit : Nat) (r : Option (Bool × Nat)) :
    (s.putStage k stage credit r).creditOf k = if stage = 0 then 0 else credit :=
  (Tab.get_set_of_rising hs.tabs.mc.2.1 k k _).trans (if_pos rfl)

@[simp] theorem State.workArrives_gangs (s : State) (k : Nat) : (s.workArrives k).mc.gangs = s.mc.gangs := by
  unfold State.workArrives
  split <;> rfl

/-- Work raises a stage of 0 to 1 and leaves any other. -/
theorem State.stageOf_workArrives (hs : s.Inv) (k : Nat) : (s.workArrives k).stageOf k = max 1 (s.stageOf k) := by
  unfold State.workArrives
  split
  next h => rw [State.stageOf_putStage hs, h, Nat.max_eq_left (Nat.zero_le 1)]
  next h => rw [Nat.max_eq_right (by omega)]

/-- The cycles between two steps of a cluster's ramp: those of the ramp in progress, when it goes the same way. -/
def State.rampLength (s : State) (k : Nat) (up : Bool) : Nat :=
  match s.rampOf k with
  | some r => if r.1 = up then r.2 else if up then s.rampUp else s.rampDown
  | none => if up then s.rampUp else s.rampDown

/-- At its target, or before its cycles have passed, a cluster's stage stays. -/
theorem State.rampStep_stays {die cluster cycles filler g : Nat} (hg : g = if s.clusterBusy die cluster then s.ceiling else 0)
    (h : s.stageOf (clusterKey die cluster) = g ∨
      cycles < s.rampLength (clusterKey die cluster) (s.stageOf (clusterKey die cluster) < g)) :
    s.rampStep die cluster cycles filler = s := by
  subst hg
  exact if_pos h

/-- Otherwise it moves one step toward its target, and the credit counter takes the stage for every cycle. -/
theorem State.rampStep_moves {die cluster cycles filler g k p : Nat} (hg : g = if s.clusterBusy die cluster then s.ceiling else 0)
    (hk : k = clusterKey die cluster) (hp : p = s.stageOf k) (hne : p ≠ g) (hlen : s.rampLength k (p < g) ≤ cycles) :
    ∃ r, (s.rampStep die cluster cycles filler).mc =
      (s.putStage k (if p < g then p + 1 else p - 1) ((s.creditOf k + p * cycles) % 8) r).mc := by
  subst hg hk hp
  unfold State.rampStep
  extract_lets k target st up len sum st' s1 n
  rw [if_neg (show ¬ (st = target ∨ cycles < len) from not_or.mpr ⟨hne, Nat.not_lt.mpr hlen⟩)]
  refine ⟨if st' = target then none else some (up, len), ?_⟩
  calc ((s1.bump (dieCtr 0x1800318 die) n).evtU 0x02 n).mc
      = s1.mc := (State.evtU_frame ..).same .mc (by decide)
    _ = _ := by
      change (s.putStage k (if decide (st < target) = true then st + 1 else st - 1) _ _).mc = _
      simp only [decide_eq_true_eq]
      rfl

/-- GANG_ALLOCATE on a free square that no earlier command waits for (R164). -/
theorem State.gangAllocate_free {q b die cluster r c : Nat} {w : Work} (hwants : s.wantsGang q = some (w, b))
    (huse : s.mayUse w die cluster = true) (hfree : s.squareFree die cluster r c w.side = true)
    (hfirst : ∀ v ∈ s.mc.works, v.seq < q → s.mayUse v die cluster = true → s.wantsGang v.seq = none) :
    ∃ u : State, s.gangAllocate q die cluster r c = u.workArrives (clusterKey die cluster) ∧ Frame [.mc] s u ∧
      u.mc.gangs = { seq := q, block := b, die := die, cluster := cluster, row := r, col := c, side := w.side } :: s.mc.gangs ∧
      u.mc.stage = s.mc.stage := by
  have hearlier : (s.mc.works.any fun v => decide (v.seq < q) && (s.wantsGang v.seq).isSome && s.mayUse v die cluster) = false := by
    simp only [List.any_eq_false, Bool.and_eq_true, decide_eq_true_eq]
    rintro v hv ⟨⟨hlt, hwaits⟩, hmay⟩
    rw [hfirst v hv hlt hmay] at hwaits
    cases hwaits
  unfold State.gangAllocate
  rw [hwants]
  dsimp only
  rw [if_neg (by simp [hearlier, huse, hfree])]
  exact ⟨_, rfl, Frame.upd Frame.refl, rfl, rfl⟩

end Stage

end Sys2Proof.Machine
end

section
/-!
Tile passes and the delivery of their command (R61, R69 to R73, R283). The last tile's delivery converts and writes the result, which
neither moves a tile nor takes a command away, and changes memory where the conversion writes.
-/
namespace Sys2Proof.Machine

open Sys2Proof

/-! ### Writing a result -/

section Result

variable {s : State}

theorem State.isSome_cmd_updCmd {r : Nat} (q : Nat) {f : Cmd → Cmd} (hf : ∀ c, (f c).seq = c.seq) :
    ((s.updCmd r f).cmd q).isSome = (s.cmd q).isSome := by
  by_cases hq : q = r
  · subst hq
    rw [State.cmd_updCmd f hf, Option.isSome_map]
  · rw [State.cmd_updCmd_ne f hq hf]

/-- The writes of a result change no command. -/
@[simp] theorem State.writeAll_cmds (s : State) (q : Option Nat) (l : List (Nat × List Byte)) :
    (s.writeAll q l).hg.cmds = s.hg.cmds := by
  induction l generalizing s with
  | nil => rfl
  | cons x l ih =>
    obtain ⟨a, bytes⟩ := x
    have hwritten : ((s.wr a bytes).traffic q true a bytes.length).hg.cmds = s.hg.cmds :=
      (State.traffic_cmds ..).trans (State.wr_cmds ..)
    cases q with
    | none => exact (ih _).trans hwritten
    | some q => exact (ih _).trans hwritten

theorem State.isSome_cmd_addCond (q r : Nat) (l : List Status) (ind : BitVec 16) :
    ((s.addCond r l ind).cmd q).isSome = (s.cmd q).isSome :=
  State.isSome_cmd_updCmd q fun _ => rfl

@[simp] theorem State.countOn_hg (s : State) (die : Nat → Nat) (base : Nat) (l : List Nat) : (s.countOn die base l).hg = s.hg :=
  (State.countOn_frame ..).hg_eq rfl

@[simp] theorem State.cmd_freeStep (s : State) (q : Nat) : s.freeStep.cmd q = s.cmd q := rfl

theorem State.isSome_cmd_noteConv (q r : Nat) (t : Td) (die : Nat → Nat) (v : Conv) :
    ((s.noteConv r t die v).cmd q).isSome = (s.cmd q).isSome := by
  unfold State.noteConv
  dsimp only
  rw [State.isSome_cmd_addCond]
  refine congrArg Option.isSome (State.cmd_of_cmds ?_ q)
  simp only [State.evt_cmds, State.freeStep_hg, State.countOn_hg]

theorem State.isSome_cmd_addVnCheck (q r : Nat) (e : Option (Nat × Nat)) :
    ((s.addVnCheck r e).cmd q).isSome = (s.cmd q).isSome :=
  State.isSome_cmd_updCmd q fun _ => rfl

theorem State.isSome_cmd_addVnChecks (q r : Nat) (l : List (Nat × Nat)) :
    ((s.addVnChecks r l).cmd q).isSome = (s.cmd q).isSome := by
  unfold State.addVnChecks
  split
  · exact State.isSome_cmd_addVnCheck ..
  · exact List.foldlRecOn (motive := fun u : State => (u.cmd q).isSome = (s.cmd q).isSome) _ _ rfl
      fun u hu e _ => (State.isSome_cmd_addVnCheck ..).trans hu

/-- The conversion into a tensor takes no command away. -/
theorem State.isSome_cmd_putTensor (q : Nat) (c : Cmd) (r : Nat) (t : Td) (range : TopRange) (vals pre : List Val) (die : Nat → Nat)
    (engines : List (Nat × Nat)) :
    ((s.putTensor c r t range vals pre die engines).cmd q).isSome = (s.cmd q).isSome := by
  unfold State.putTensor
  extract_lets v checked
  have hchecked : (checked.cmd q).isSome = (s.cmd q).isSome :=
    calc (checked.cmd q).isSome
        = (((s.writeAll (some r) v.writes).noteConv r t die v).freeStep.cmd q).isSome := State.isSome_cmd_addVnChecks ..
      _ = (((s.writeAll (some r) v.writes).noteConv r t die v).cmd q).isSome := congrArg _ (State.cmd_freeStep ..)
      _ = ((s.writeAll (some r) v.writes).cmd q).isSome := State.isSome_cmd_noteConv ..
      _ = (s.cmd q).isSome := congrArg Option.isSome (State.cmd_of_cmds (State.writeAll_cmds ..) q)
  split <;> exact hchecked

@[simp] theorem State.addVnChecks_tiles (r : Nat) (l : List (Nat × Nat)) : (s.addVnChecks r l).mc.tiles = s.mc.tiles := by
  unfold State.addVnChecks
  split
  · rfl
  · exact List.foldlRecOn (motive := fun u : State => u.mc.tiles = s.mc.tiles) _ _ rfl fun u hu e _ => hu

theorem Frame.mc_eq {l : List Comp} {s t : State} (h : Frame l s t) (hl : l.contains .mc = false) : t.mc = s.mc :=
  h.same .mc (by simpa using hl)

@[simp] theorem State.putTensor_tiles (c : Cmd) (r : Nat) (t : Td) (range : TopRange) (vals pre : List Val) (die : Nat → Nat)
    (engines : List (Nat × Nat)) : (s.putTensor c r t range vals pre die engines).mc.tiles = s.mc.tiles := by
  unfold State.putTensor
  extract_lets v checked
  have hchecked : checked.mc.tiles = s.mc.tiles :=
    calc checked.mc.tiles
        = ((s.writeAll (some r) v.writes).noteConv r t die v).mc.tiles := State.addVnChecks_tiles ..
      _ = (s.writeAll (some r) v.writes).mc.tiles := congrArg Compute.tiles ((State.noteConv_frame ..).mc_eq rfl)
      _ = s.mc.tiles := congrArg Compute.tiles ((State.writeAll_frame ..).mc_eq rfl)
  split <;> exact hchecked

/-- Bytes outside the writes of a result read as before. -/
theorem State.rdByte_writeAll_out (hs : s.Inv) (q : Option Nat) {l : List (Nat × List Byte)} {j : Nat}
    (hj : outside (l.map fun b => (b.1, b.2.length)) j) : (s.writeAll q l).rdByte j = s.rdByte j := by
  induction l generalizing s with
  | nil => rfl
  | cons x l ih =>
    obtain ⟨a, bytes⟩ := x
    have hhead := hj (a, bytes.length) (by simp)
    have htail : outside (l.map fun b => (b.1, b.2.length)) j := fun r hr => hj r (List.mem_cons_of_mem _ hr)
    have hframe := State.traffic_frame (s.wr a bytes) q true a bytes.length
    have hwritten : ((s.wr a bytes).traffic q true a bytes.length).rdByte j = s.rdByte j :=
      ((hframe.sameData rfl).rdByte j).trans (State.rdByte_wr_out hs hhead)
    have hinv := hframe.inv ((State.wr_frame ..).inv hs)
    cases q with
    | none => exact (ih hinv htail).trans hwritten
    | some q => exact (ih ((State.noteWrite_frame ..).inv hinv) htail).trans hwritten

/-- The bytes of a result in one piece are read back. -/
theorem State.rdByte_writeAll_single (hs : s.Inv) (q : Nat) {a i : Nat} {l : List Byte} (hi : i < l.length)
    (hhost : isHost (a + i) = isHost a) : (s.writeAll (some q) [(a, l)]).rdByte (a + i) = l[i] :=
  (((State.traffic_frame (s.wr a l) (some q) true a l.length).sameData rfl).rdByte _).trans (State.rdByte_wr hs hi hhost.symm)

/-- The conversion into a tensor changes memory where it writes. -/
theorem State.rdByte_putTensor_out (hs : s.Inv) {c : Cmd} {r : Nat} {t : Td} {range : TopRange} {vals pre : List Val}
    {die : Nat → Nat} {engines : List (Nat × Nat)} {j : Nat}
    (hj : outside ((t.conv range c.seed c.step vals).writes.map fun b => (b.1, b.2.length)) j) :
    (s.putTensor c r t range vals pre die engines).rdByte j = s.rdByte j := by
  unfold State.putTensor
  extract_lets v checked
  have hchecked : Frame [.hg, .mc, .ctrs, .free] (s.writeAll (some r) v.writes) checked :=
    (((State.noteConv_frame ..).mono rfl).comp (State.freeStep_frame _) rfl).comp (State.addVnChecks_frame ..) rfl
  have hread := ((hchecked.sameData rfl).rdByte j).trans (State.rdByte_writeAll_out hs (some r) hj)
  split <;> exact hread

end Result

end Sys2Proof.Machine
end

section
/-!
From a pass to the delivery of the command (R61, R69 to R73, R162 to R168, R283): which tile a pass leaves behind, and what the last
delivery makes of the command.
-/
namespace Sys2Proof.Machine

open Sys2Proof

/-! ### The result of a command whose tiles are all delivered -/

section Finish

variable {s : State} {w : Work}

theorem State.isSome_cmd_putAttn (q : Nat) (c : Cmd) (w : Work) (o : AttnOut) :
    ((s.putAttn c w o).cmd q).isSome = (s.cmd q).isSome :=
  State.isSome_cmd_putTensor ..

@[simp] theorem State.putAttn_tiles (c : Cmd) (w : Work) (o : AttnOut) : (s.putAttn c w o).mc.tiles = s.mc.tiles :=
  State.putTensor_tiles ..

/-- The outputs of attention, one after another. -/
def State.putOuts (s : State) (c : Cmd) (w : Work) (l : List AttnOut) : State :=
  l.foldl (fun (u : State) o => u.putAttn c w o) s

theorem State.putOuts_frame (c : Cmd) (w : Work) (l : List AttnOut) :
    Frame [.ms, .hg, .ld, .irq, .pcie, .im, .mc, .fab, .ctrs, .free, .out] s (s.putOuts c w l) :=
  Frame.foldl (fun u o => u.putAttn_frame c w o) l Frame.refl

theorem State.isSome_cmd_putOuts (q : Nat) (c : Cmd) (w : Work) (l : List AttnOut) :
    ((s.putOuts c w l).cmd q).isSome = (s.cmd q).isSome :=
  List.foldlRecOn (motive := fun u : State => (u.cmd q).isSome = (s.cmd q).isSome) l _ rfl
    fun _ hu o _ => (State.isSome_cmd_putAttn q c w o).trans hu

@[simp] theorem State.putOuts_tiles (c : Cmd) (w : Work) (l : List AttnOut) : (s.putOuts c w l).mc.tiles = s.mc.tiles :=
  List.foldlRecOn (motive := fun u : State => u.mc.tiles = s.mc.tiles) l _ rfl fun _ hu o _ => (State.putAttn_tiles c w o).trans hu

/-- The result of an attention command: its outputs, then its statistics. -/
theorem State.finishWork_attn {c : Cmd} {e : AttnEnd} (hc : s.cmd w.seq = some c) (he : w.attn = some e) :
    s.finishWork w = ((s.putOuts c w e.outs).writeAll (some w.seq) e.stats).deliver w.seq := by
  unfold State.finishWork
  rw [hc, he]
  rfl

/-- The result of a command without attention is one tensor. -/
theorem State.finishWork_tensor {c : Cmd} (hc : s.cmd w.seq = some c) (he : w.attn = none) :
    ∃ vals engines, s.finishWork w = (s.putTensor c w.seq w.out w.range vals vals (fun _ => w.die) engines).deliver w.seq := by
  unfold State.finishWork
  rw [hc, he]
  exact ⟨_, _, rfl⟩

theorem State.exists_cmd_deliver {q : Nat} (h : (s.cmd q).isSome) : ∃ d, (s.deliver q).cmd q = some d ∧ d.stage = .delivered := by
  obtain ⟨c, hc⟩ := Option.isSome_iff_exists.mp h
  exact ⟨_, State.cmd_deliver hc, rfl⟩

theorem State.deliver_mc (s : State) (q : Nat) : (s.deliver q).mc = s.mc := (State.deliver_frame s q).mc_eq rfl

theorem State.finishWork_delivers (h : (s.cmd w.seq).isSome) :
    ∃ d, (s.finishWork w).cmd w.seq = some d ∧ d.stage = .delivered := by
  obtain ⟨c, hc⟩ := Option.isSome_iff_exists.mp h
  cases he : w.attn with
  | none =>
    obtain ⟨vals, engines, heq⟩ := State.finishWork_tensor hc he
    rw [heq]
    exact State.exists_cmd_deliver (by rwa [State.isSome_cmd_putTensor])
  | some e =>
    rw [State.finishWork_attn hc he]
    refine State.exists_cmd_deliver ?_
    rw [State.cmd_of_cmds (State.writeAll_cmds ..), State.isSome_cmd_putOuts]
    exact h

@[simp] theorem State.finishWork_tiles (s : State) (w : Work) : (s.finishWork w).mc.tiles = s.mc.tiles := by
  cases hc : s.cmd w.seq with
  | none => unfold State.finishWork; rw [hc]
  | some c =>
    cases he : w.attn with
    | none =>
      obtain ⟨vals, engines, heq⟩ := State.finishWork_tensor hc he
      rw [heq, State.deliver_mc, State.putTensor_tiles]
    | some e =>
      rw [State.finishWork_attn hc he, State.deliver_mc, (State.writeAll_frame ..).mc_eq rfl, State.putOuts_tiles]

/-- The outputs of attention change memory where they are written. -/
theorem State.rdByte_putOuts_out (hs : s.Inv) {c : Cmd} {l : List AttnOut} {j : Nat}
    (hj : outside (l.flatMap fun o => (o.td.conv o.range c.seed c.step o.vals).writes.map fun b => (b.1, b.2.length)) j) :
    (s.putOuts c w l).rdByte j = s.rdByte j := by
  induction l generalizing s with
  | nil => rfl
  | cons o l ih =>
    have hhead : (s.putAttn c w o).rdByte j = s.rdByte j :=
      State.rdByte_putTensor_out hs fun r hr => hj r (List.mem_append_left _ hr)
    exact (ih ((State.putAttn_frame ..).inv hs) fun r hr => hj r (List.mem_append_right _ hr)).trans hhead

/-- The end of an attention command changes memory in its outputs and its statistics. -/
theorem State.rdByte_finishWork_out (hs : s.Inv) {c : Cmd} {e : AttnEnd} (hc : s.cmd w.seq = some c) (he : w.attn = some e) {j : Nat}
    (hj : outside ((e.outs.flatMap fun o => (o.td.conv o.range c.seed c.step o.vals).writes.map fun b => (b.1, b.2.length)) ++
      e.stats.map fun b => (b.1, b.2.length)) j) : (s.finishWork w).rdByte j = s.rdByte j := by
  have hinv : (s.putOuts c w e.outs).Inv := (State.putOuts_frame ..).inv hs
  rw [State.finishWork_attn hc he, ((State.deliver_frame ..).sameData rfl).rdByte,
    State.rdByte_writeAll_out hinv _ fun r hr => hj r (List.mem_append_right _ hr),
    State.rdByte_putOuts_out hs fun r hr => hj r (List.mem_append_left _ hr)]

/-- The statistics of attention are written last, and are read back. -/
theorem State.rdByte_finishWork_stats (hs : s.Inv) {c : Cmd} {e : AttnEnd} (hc : s.cmd w.seq = some c) (he : w.attn = some e)
    {a i : Nat} {l : List Byte} (hstats : e.stats = [(a, l)]) (hi : i < l.length) (hhost : isHost (a + i) = isHost a) :
    (s.finishWork w).rdByte (a + i) = l[i] := by
  have hinv : (s.putOuts c w e.outs).Inv := (State.putOuts_frame ..).inv hs
  rw [State.finishWork_attn hc he, ((State.deliver_frame ..).sameData rfl).rdByte, hstats,
    State.rdByte_writeAll_single hinv _ hi hhost]

end Finish

/-! ### The delivery of a tile (R81, R168) -/

/-- A search finds the changed element when the change keeps what the search looks at. -/
theorem find?_map_kept {α : Type} {p : α → Bool} {f : α → α} (hf : ∀ u, p (f u) = p u) {l : List α} {x : α}
    (hx : l.find? p = some x) : (l.map f).find? p = some (f x) := by
  rw [List.find?_map, show p ∘ f = p from funext hf, hx, Option.map_some]

/-- The spares at work are those of the spare map. -/
theorem State.coreSpares_of_map {s t : State} (h : t.im.spareMap = s.im.spareMap) (die cluster : Nat) :
    t.coreSpares die cluster = s.coreSpares die cluster := by
  unfold State.coreSpares; rw [h]

/-- A delivered tile, with the spares at work on its cluster. -/
def Tile.deliveredWith (t : Tile) (spares : List (Nat × Nat)) : Tile := { t with stage := .delivered, spares := spares }

/-- A tile of the delivered tile's block is no longer abandoned. -/
def Tile.resumedBy (t u : Tile) : Tile := if u.seq = t.seq ∧ u.block = t.block then { u with abandoned := false } else u

section Resumed

variable (t u : Tile)

@[simp] theorem Tile.resumedBy_seq : (t.resumedBy u).seq = u.seq := by unfold Tile.resumedBy; split <;> rfl
@[simp] theorem Tile.resumedBy_index : (t.resumedBy u).index = u.index := by unfold Tile.resumedBy; split <;> rfl
@[simp] theorem Tile.resumedBy_left : (t.resumedBy u).left = u.left := by unfold Tile.resumedBy; split <;> rfl

end Resumed

section Deliver

variable {s : State} {t : Tile} {w : Work}

/-- What a state must show of a tile that has just been delivered: it stands so among the tiles, and its command, which has its
work still, has one check more outstanding. -/
structure State.TileStored (s : State) (t : Tile) (w : Work) (v : State) (x : Work) : Prop where
  frame : Frame [.hg, .mc, .ctrs] s v
  tiles : v.mc.tiles = (s.setTile (t.deliveredWith (s.coreSpares t.die t.cluster))).mc.tiles.map t.resumedBy
  cmd : v.cmd t.seq = (s.cmd t.seq).map fun c => { c with checks := c.checks + 1 }
  seq : x.seq = t.seq
  attn : x.attn = w.attn

/-- A delivered tile is stored; when it is the last of its block the block ends, and when it is the last of its command the result
is formed. -/
theorem State.deliverTile_cases (hw : s.mc.works.find? (fun w => w.seq == t.seq) = some w) :
    ∃ v x, s.TileStored t w v x ∧ s.deliverTile t =
      (let u := if v.mc.tiles.all fun u => u.seq ≠ t.seq ∨ u.block ≠ t.block ∨ u.left then v.endBlock x t else v
       if u.mc.tiles.all fun u => u.seq ≠ t.seq ∨ u.left then u.finishWork x else u) := by
  have hseq : w.seq = t.seq := by simpa using List.find?_some hw
  unfold State.deliverTile
  extract_lets s1 _ s2
  have hmc : s1.mc = (s.setTile (t.deliveredWith (s.coreSpares t.die t.cluster))).mc :=
    ((State.updCmd_frame ..).mc_eq rfl).trans ((State.evt_frame ..).mc_eq rfl)
  have hs1 : Frame [.hg, .mc, .ctrs] s s1 :=
    ((((State.setTile_frame ..).mono rfl).comp (State.bump_frame ..) rfl).comp (State.evt_frame ..) rfl).comp
      (State.updCmd_frame ..) rfl
  obtain ⟨x, hx, hxseq, hattn⟩ : ∃ x : Work, s2.mc.works.find? (fun w => w.seq == t.seq) = some x ∧ x.seq = t.seq ∧
      x.attn = w.attn := by
    change ∃ x : Work, (s1.mc.works.map _).find? _ = some x ∧ _
    rw [hmc]
    refine ⟨_, find?_map_kept (fun v => ?_) hw, ?_⟩
    · split <;> rfl
    · split <;> exact ⟨hseq, rfl⟩
  refine ⟨s2, x, ⟨Frame.upd hs1, ?_, ?_, hxseq, hattn⟩, ?_⟩
  · change s1.mc.tiles.map _ = _
    rw [hmc]
    rfl
  · change s1.cmd t.seq = _
    unfold s1
    rw [State.cmd_updCmd (fun c => { c with checks := c.checks + 1 }) fun _ => rfl, State.cmd_of_cmds (State.evt_cmds ..)]
    rfl
  · rw [hx]

@[simp] theorem State.evt_mc (s : State) (q : Option Nat) (k n : Nat) : (s.evt q k n).mc = s.mc :=
  (State.evt_frame ..).mc_eq rfl

@[simp] theorem State.endBlock_cmds (s : State) (w : Work) (t : Tile) : (s.endBlock w t).hg.cmds = s.hg.cmds := by
  unfold State.endBlock
  dsimp only
  split
  · rfl
  · simp only [State.evt_cmds, State.bump_hg]

@[simp] theorem State.endBlock_tiles (s : State) (w : Work) (t : Tile) : (s.endBlock w t).mc.tiles = s.mc.tiles := by
  unfold State.endBlock
  dsimp only
  split
  · rfl
  · simp only [State.evt_mc, State.bump_mc]

/-- The tiles that a delivery leaves. -/
theorem State.deliverTile_tiles (hw : s.mc.works.find? (fun w => w.seq == t.seq) = some w) :
    (s.deliverTile t).mc.tiles = (s.setTile (t.deliveredWith (s.coreSpares t.die t.cluster))).mc.tiles.map t.resumedBy := by
  obtain ⟨v, x, hv, heq⟩ := State.deliverTile_cases hw
  rw [heq, ← hv.tiles]
  dsimp only
  split <;> split <;> simp only [State.finishWork_tiles, State.endBlock_tiles]

/-- A delivered tile stands as delivered, with the spares at work on its cluster, and is not abandoned. -/
theorem State.tile_deliverTile {z : Tile} (hz : s.tile t.seq t.index = some z)
    (hw : s.mc.works.find? (fun w => w.seq == t.seq) = some w) :
    (s.deliverTile t).tile t.seq t.index = some { t with
      stage := .delivered, abandoned := false, spares := s.coreSpares t.die t.cluster } := by
  have hstored := State.tile_setTile (x := t.deliveredWith (s.coreSpares t.die t.cluster)) hz rfl rfl
  have hresumed : t.resumedBy (t.deliveredWith (s.coreSpares t.die t.cluster)) = { t with
      stage := .delivered, abandoned := false, spares := s.coreSpares t.die t.cluster } := if_pos ⟨rfl, rfl⟩
  unfold State.tile
  rw [State.deliverTile_tiles hw, find?_map_kept (fun u => by simp) hstored, hresumed]

/-- Once the others have left their cores, every tile of the command has. -/
theorem State.TileStored.all_left {v : State} {x : Work} (h : s.TileStored t w v x)
    (hothers : ∀ y ∈ s.mc.tiles, y.seq = t.seq → y.index ≠ t.index → y.left = true) {u : Tile} (hu : u ∈ v.mc.tiles)
    (hseq : u.seq = t.seq) : u.left = true := by
  rw [h.tiles] at hu
  obtain ⟨y, hy, rfl⟩ := List.mem_map.mp hu
  obtain ⟨z, hz, rfl⟩ := List.mem_map.mp hy
  rw [Tile.resumedBy_seq] at hseq
  rw [Tile.resumedBy_left]
  split at hseq
  next hkey => rw [if_pos hkey]; rfl
  next hkey =>
    rw [if_neg hkey]
    exact hothers z hz hseq fun hindex => hkey ⟨hseq, hindex⟩

/-- The last delivery forms the result of the command. -/
theorem State.deliverTile_last (hw : s.mc.works.find? (fun w => w.seq == t.seq) = some w)
    (hothers : ∀ y ∈ s.mc.tiles, y.seq = t.seq → y.index ≠ t.index → y.left = true) :
    ∃ v x, Frame [.hg, .mc, .ctrs] s v ∧ x.seq = t.seq ∧ x.attn = w.attn ∧
      v.cmd t.seq = (s.cmd t.seq).map (fun c => { c with checks := c.checks + 1 }) ∧ s.deliverTile t = v.finishWork x := by
  obtain ⟨v, x, hv, heq⟩ := State.deliverTile_cases hw
  have hleft : ∀ u ∈ v.mc.tiles, u.seq = t.seq → u.left = true := fun u hu => hv.all_left hothers hu
  have hblock : (v.mc.tiles.all fun u => u.seq ≠ t.seq ∨ u.block ≠ t.block ∨ u.left) = true := by
    simp only [List.all_eq_true, decide_eq_true_eq]
    exact fun u hu => (Decidable.em (u.seq = t.seq)).elim (fun hseq => .inr (.inr (hleft u hu hseq))) .inl
  have hall : ((v.endBlock x t).mc.tiles.all fun u => u.seq ≠ t.seq ∨ u.left) = true := by
    simp only [State.endBlock_tiles, List.all_eq_true, decide_eq_true_eq]
    exact fun u hu => (Decidable.em (u.seq = t.seq)).elim (fun hseq => .inr (hleft u hu hseq)) .inl
  rw [if_pos hblock] at heq
  dsimp only at heq
  rw [if_pos hall] at heq
  exact ⟨v.endBlock x t, x, hv.frame.comp (State.endBlock_frame ..) rfl, hv.seq, hv.attn,
    (State.cmd_of_cmds (State.endBlock_cmds ..) _).trans hv.cmd, heq⟩

end Deliver

end Sys2Proof.Machine
end

section
/-!
The life of a tile (R70 to R73, R162, R164, R171, R172): MMUL sets its tiles up, a gang and an issue stage let them run, and their
passes and the slow path bring them to delivery.
-/
namespace Sys2Proof.Machine

open Sys2Proof

/-! ### The end of a pass -/

section Pass

variable {s : State} {q n issued : Nat} {x : Tile}

/-- A tile whose pass runs is the one under its number, and its command and its work stand. -/
theorem State.tileRunning_stands (h : s.tileRunning q n = some x) :
    s.tile q n = some x ∧ (s.cmd q).isSome ∧ ∃ w, s.mc.works.find? (fun w => w.seq == q) = some w := by
  unfold State.tileRunning at h
  split at h
  next t c w ht hc hw =>
    dsimp only at h
    split at h
    · cases h
      exact ⟨ht, by rw [hc]; rfl, w, hw⟩
    · cases h
  · cases h

/-- The tile after a pass: the accumulator sets change places, and those that run are clear (R162). -/
def Tile.swapped (x : Tile) : Tile :=
  { x with testing := x.runPass, running := x.elems.map fun e => e.parts.map fun _ => CellAcc.empty }

theorem Tile.judge_swapped (x : Tile) : x.swapped.judge x.swapped.testing = x.pass := rfl

/-- A pass counts the issue cycles that carried it and leaves its record in the Logbook (R393). -/
def State.passNoted (s : State) (q issued : Nat) (x : Tile) : State := (s.countIssue q x.die issued).logPass x.swapped x.pass

theorem State.passNoted_frame : Frame [.hg, .im, .ctrs] s (s.passNoted q issued x) :=
  ((State.countIssue_frame ..).mono rfl).comp (State.logPass_frame ..) rfl

theorem State.passNoted_mc : (s.passNoted q issued x).mc = s.mc := State.passNoted_frame.mc_eq rfl

theorem State.countIssue_cmds (s : State) (q die k : Nat) : (s.countIssue q die k).hg.cmds = s.hg.cmds := State.evt_cmds ..

theorem State.passNoted_cmds : (s.passNoted q issued x).hg.cmds = s.hg.cmds :=
  (congrArg HostGate.cmds ((State.logPass_frame ..).hg_eq rfl)).trans (State.countIssue_cmds ..)

theorem State.spareMap_logRec (s : State) (u coord kind : Nat) (ring seq : Option Nat) (data : Nat) :
    (s.logRec u coord kind ring seq data).im.spareMap = s.im.spareMap := by
  unfold State.logRec
  extract_lets _ on
  split <;> rfl

theorem State.passNoted_spareMap : (s.passNoted q issued x).im.spareMap = s.im.spareMap :=
  (State.spareMap_logRec ..).trans (congrArg Integrity.spareMap ((State.countIssue_frame s q x.die issued).im_eq rfl))

/-- What the judgement of a pass makes of its tile (R69 to R72, R168). -/
def State.afterPass (s : State) (u : Tile) : PassEnd → State
  | .good => s.deliverTile u
  | .overflow eo late => (if late then s.abandonNext u else s).moveAnchor u eo
  | .cancel m =>
    if m - 15 < u.anchor then (s.abandonNext u).moveAnchor u (m - 15) else (s.abandonNext u).setTile { u with stage := .slow }

/-- The end of a waiting tile's pass. -/
theorem State.passEnd_of_running (h : s.tileRunning q n = some x) (hstage : x.stage = .waiting) :
    s.passEnd q n issued = (s.passNoted q issued x).afterPass x.swapped x.pass := by
  unfold State.passEnd
  rw [h]
  dsimp -zeta only
  rw [if_neg (Decidable.not_not.mpr hstage)]
  extract_lets s0 u s1
  have hjudge : u.judge u.testing = x.pass := x.judge_swapped
  have hs1 : s1 = s.passNoted q issued x := congrArg (s0.logPass u) hjudge
  rw [hjudge, hs1]
  cases x.pass <;> rfl

theorem State.exists_tile_setTile {z : Tile} (y : Tile) (hz : s.tile q n = some z) : ∃ z', (s.setTile y).tile q n = some z' := by
  refine ⟨_, find?_map_kept (fun u => ?_) hz⟩
  split
  next hkey => rw [hkey.1, hkey.2]
  next => rfl

theorem State.exists_tile_abandonNext {z t : Tile} (hz : s.tile q n = some z) : ∃ z', (s.abandonNext t).tile q n = some z' := by
  unfold State.abandonNext
  split
  · split
    · exact ⟨z, hz⟩
    · obtain ⟨z', hz'⟩ := State.exists_tile_setTile _ hz
      exact ⟨z', (State.tile_of_mc (State.evt_mc ..) q n).trans hz'⟩
  · exact ⟨z, hz⟩

/-- A failed pass moves the anchor, or, after two moves, leaves the tile to the slow path (R71, R72). -/
theorem State.tile_moveAnchor {z t : Tile} (hz : s.tile t.seq t.index = some z) (a : Int) :
    (s.moveAnchor t a).tile t.seq t.index =
      some (if t.moves < 2 then { t with anchor := a, moves := t.moves + 1 } else { t with stage := .slow }) := by
  unfold State.moveAnchor
  split
  · rw [State.tile_of_mc (State.evt_mc ..)]
    exact State.tile_setTile (x := { t with anchor := a, moves := t.moves + 1 }) hz rfl rfl
  · exact State.tile_setTile (x := { t with stage := .slow }) hz rfl rfl

/-- The tile after an overflow. -/
theorem State.tile_afterPass_overflow {z t : Tile} (hz : s.tile t.seq t.index = some z) (eo : Int) (late : Bool) :
    (s.afterPass t (.overflow eo late)).tile t.seq t.index =
      some (if t.moves < 2 then { t with anchor := eo, moves := t.moves + 1 } else { t with stage := .slow }) := by
  obtain ⟨y, hy⟩ : ∃ y, (if late then s.abandonNext t else s).tile t.seq t.index = some y := by
    split
    · exact State.exists_tile_abandonNext hz
    · exact ⟨z, hz⟩
  exact State.tile_moveAnchor hy eo

/-- The tile after a cancellation: the anchor moves when that lowers it. -/
theorem State.tile_afterPass_cancel {z t : Tile} (hz : s.tile t.seq t.index = some z) (m : Int) :
    (s.afterPass t (.cancel m)).tile t.seq t.index = some (if m - 15 < t.anchor ∧ t.moves < 2 then
      { t with anchor := m - 15, moves := t.moves + 1 } else { t with stage := .slow }) := by
  obtain ⟨y, hy⟩ := State.exists_tile_abandonNext (t := t) hz
  by_cases hlower : m - 15 < t.anchor
  · simp only [State.afterPass, hlower, if_true, true_and, State.tile_moveAnchor hy]
  · simp only [State.afterPass, hlower, if_false, false_and]
    exact State.tile_setTile (x := { t with stage := .slow }) hy rfl rfl

/-- SLOW_PATH_END delivers the tile. -/
theorem State.slowEnd_of_running (h : s.tileRunning q n = some x) (hstage : x.stage = .slow) :
    s.slowEnd q n issued = (((s.countIssue q x.die issued).bump (dieCtr 0x1800308 x.die)).evt (some q) 0x05 1).deliverTile x := by
  unfold State.slowEnd
  rw [h]
  exact if_neg (Decidable.not_not.mpr hstage)

end Pass

/-- Settles O22: each row leaves one tile, one gang or one stage behind, which the lemmas above name; what else it does leaves them
alone. -/
theorem tilesPassFromGangToDelivery : Obligations.TilesPassFromGangToDelivery := by
  refine ⟨?mmul, ?gang, ?pass, ?slow, ?ramp⟩
  case mmul =>
    intro s u q c x ops hs hc hx hranges hops hu
    obtain ⟨w, ind, hseq, hrun⟩ := State.runMmul_of_operands hc hx hranges hops hu
    have hcmd : s.cmd q = some c := (State.runnable_cmd hc).1
    have hdata : s.SameData u := hu ▸ State.readOperands_data s q _
    have hinv : u.Inv := hu ▸ (State.readOperands_frame s q _).inv hs
    have hmmul : u.mmul c = x := (hdata.mmul c).trans hx.symm
    have hopened : (u.opened c.step (u.mmul c).c).cmd w.seq = some c := by
      rw [hseq, State.cmd_of_cmds (State.opened_cmds ..), hu, State.cmd_of_cmds (State.readOperands_cmds ..), hcmd]
    refine ⟨_, congrArg Host.Outcome.next hrun, hseq ▸ State.runs_setUp hopened, ?_, fun j hj => ?_⟩
    · subst hseq
      exact State.filter_setUp_tiles fun y hy => State.seq_mmulTiles hy
    · rw [(State.setUp_frame.sameData rfl).rdByte, State.rdByte_opened hinv (hmmul ▸ hj), hdata.rdByte]
  case gang =>
    intro s q b x row col w hs hwants huse hfree hfirst
    obtain ⟨u, heq, hframe, hgangs, hstage⟩ := State.gangAllocate_free hwants huse hfree hfirst
    refine ⟨_, congrArg Host.Outcome.next heq, (State.workArrives_gangs ..).trans hgangs, ?_⟩
    rw [State.stageOf_workArrives (hframe.inv hs)]
    exact congrArg (fun l => max 1 (Tab.get _ l _)) hstage
  case pass =>
    intro s q n issued x y h hstage hy
    obtain ⟨hx, hcmd, w, hw⟩ := State.tileRunning_stands h
    obtain ⟨hseq, hindex⟩ := State.tile_key hx
    obtain rfl : y = x.swapped := hy
    subst hseq hindex
    have hnoted : (s.passNoted x.seq issued x).tile x.seq x.index = some x := (State.tile_of_mc State.passNoted_mc ..).trans hx
    have hworks : (s.passNoted x.seq issued x).mc.works.find? (fun w => w.seq == x.seq) = some w := by
      rw [State.passNoted_mc, hw]
    refine ⟨_, congrArg Host.Outcome.next (State.passEnd_of_running h hstage), fun hgood => ⟨?_, fun hothers => ?_⟩,
      fun eo late hover hmoves => ?_, fun eo late hover hmoves => ?_, fun m hcancel hlower hmoves => ?_, fun m hcancel hno => ?_⟩
    · rw [hgood, ← State.coreSpares_of_map State.passNoted_spareMap]
      exact State.tile_deliverTile (t := x.swapped) hnoted hworks
    · obtain ⟨v, z, -, hzseq, -, hvcmd, heq⟩ :=
        State.deliverTile_last (t := x.swapped) hworks (by rwa [State.passNoted_mc])
      rw [hgood]
      change ∃ d, ((s.passNoted x.seq issued x).deliverTile x.swapped).cmd x.seq = some d ∧ _
      rw [heq, show x.seq = z.seq from hzseq.symm]
      refine State.finishWork_delivers ?_
      rw [hzseq, hvcmd, State.cmd_of_cmds State.passNoted_cmds, Option.isSome_map]
      exact hcmd
    · rw [hover]
      exact (State.tile_afterPass_overflow (t := x.swapped) hnoted eo late).trans (congrArg some (if_pos hmoves))
    · rw [hover]
      exact (State.tile_afterPass_overflow (t := x.swapped) hnoted eo late).trans (congrArg some (if_neg (Nat.not_lt.mpr hmoves)))
    · rw [hcancel]
      exact (State.tile_afterPass_cancel (t := x.swapped) hnoted m).trans (congrArg some (if_pos ⟨hlower, hmoves⟩))
    · rw [hcancel]
      refine (State.tile_afterPass_cancel (t := x.swapped) hnoted m).trans (congrArg some (if_neg fun hboth => ?_))
      exact hno.elim (Int.not_le.mpr hboth.1) (Nat.not_le.mpr hboth.2)
  case slow =>
    intro s q n issued x h hstage
    obtain ⟨hx, -, w, hw⟩ := State.tileRunning_stands h
    obtain ⟨hseq, hindex⟩ := State.tile_key hx
    subst hseq hindex
    refine ⟨_, congrArg Host.Outcome.next (State.slowEnd_of_running h hstage), ?_⟩
    have hcounted : Frame [.hg, .ctrs] s
        (((s.countIssue x.seq x.die issued).bump (dieCtr 0x1800308 x.die)).evt (some x.seq) 0x05 1) :=
      ((State.countIssue_frame ..).comp (State.bump_frame ..) rfl).comp (State.evt_frame ..) rfl
    rw [← State.coreSpares_of_map (congrArg Integrity.spareMap (hcounted.im_eq rfl))]
    exact State.tile_deliverTile ((State.tile_of_mc (hcounted.mc_eq rfl) ..).trans hx) (by rw [hcounted.mc_eq rfl, hw])
  case ramp =>
    intro s x cycles filler k g p len hs hk hg hp hlen
    have hlength : len = s.rampLength k (p < g) := by
      rw [hlen]
      unfold State.rampLength
      cases s.rampOf k <;> simp only [decide_eq_true_eq]
    refine ⟨_, rfl, fun hstays => ?_, fun hne hle => ?_⟩
    · subst hk hp hlength
      exact State.rampStep_stays hg hstays
    · obtain ⟨r, hmc⟩ := State.rampStep_moves (filler := filler) hg hk hp hne (hlength ▸ hle)
      have hstageOf : (s.rampStep x.die.val x.cluster.val cycles filler).stageOf k = if p < g then p + 1 else p - 1 :=
        (State.stageOf_of_mc hmc k).trans (State.stageOf_putStage hs ..)
      refine ⟨hstageOf, ?_⟩
      rw [show State.stageOf _ k = _ from hstageOf]
      exact (State.creditOf_of_mc hmc k).trans (State.creditOf_putStage hs ..)

end Sys2Proof.Machine
end

section
/-!
Attention (R164, R178 to R184): both directions set their tiles up on operands that the block names, with the records of the outputs
open; the delivery of the last tile writes the outputs and the statistics.
-/
namespace Sys2Proof.Machine

open Sys2Proof

/-! ### The block and its operands -/

section Block

variable {s t : State}

theorem State.SameData.attn (h : s.SameData t) (a : Nat) : t.attn a = s.attn a := by
  simp only [State.attn, h.tdAt, h.rdNat]

theorem State.SameData.attnTds (h : s.SameData t) (a : Nat) (bwd : Bool) : t.attnTds a bwd = s.attnTds a bwd := by
  simp only [State.attnTds, h.rdNat]

theorem State.SameData.positionsOk (h : s.SameData t) (table base n : Nat) :
    t.positionsOk table base n = s.positionsOk table base n := by
  have hposition : t.position table base = s.position table base := funext fun i => by simp only [State.position, h.rdNat]
  unfold State.positionsOk
  rw [hposition]

/-- What the descriptors of an attention block are checked for. -/
def State.attnGood (s : State) (n a : Nat) (bwd : Bool) (outs : Attn → List Td) : Bool :=
  (s.attnTds a bwd).all s.tdOk && s.positionsOk (s.attn a).qpos (s.attn a).qbase (s.attn a).q.rows &&
    s.positionsOk (s.attn a).kpos (s.attn a).kbase (s.attn a).k.rows && (outs (s.attn a)).all fun t => (s.openOut n t).isSome

theorem State.SameAccess.attnGood (h : s.SameAccess t) (n a : Nat) (bwd : Bool) (outs : Attn → List Td) :
    t.attnGood n a bwd outs = s.attnGood n a bwd outs := by
  simp only [State.attnGood, h.data.attn, h.data.attnTds, h.data.positionsOk, h.tdOk, h.data.openOut_isSome]

/-- What attention reads, and where its results go. -/
def Attn.reads (x : Attn) (bwd : Bool) (ins outs : Attn → List Td) : List (Nat × Nat) :=
  (ins x).flatMap Td.ranges ++ (outs x).flatMap Td.histRange ++
    (if x.qpos = 0 then [] else [(x.qpos, 8 * x.q.rows)]) ++ (if x.kpos = 0 then [] else [(x.kpos, 8 * x.k.rows)]) ++
    (if bwd then [(x.stats, 8 * x.q.rows)] else [])

def Attn.results (x : Attn) (bwd : Bool) (outs : Attn → List Td) : List (Nat × Nat) :=
  (outs x).flatMap Td.ranges ++ (if !bwd && x.stats != 0 then [(x.stats, 8 * x.q.rows)] else [])

/-- Attention on a good block and good operands goes on from them; what it has read is as before. -/
theorem State.attnWith_of_operands {c : Cmd} {q a : Nat} {bwd : Bool} {x : Attn} {ins outs : Attn → List Td}
    (k : State → Attn → State) (ha : a = c.u 16 8) (hx : x = s.attn a)
    (hblock : s.Operands [(a, 192)] (s.attnOk a bwd) [] [])
    (hops : s.Operands ((s.attnTds a bwd).map fun t => (t, 64)) (s.attnGood c.step a bwd outs) (x.reads bwd ins outs)
      (x.results bwd outs)) :
    ∃ l m, s.attnWith c q bwd ins outs k = k ((s.readOperands q l).readOperands q m) x := by
  have haccess : s.SameAccess (s.readOperands q ([(a, 192)] ++ [])) := .readOperands q hblock.2.1
  generalize hu : s.readOperands q ([(a, 192)] ++ []) = u at haccess
  have hdata : u.SameData (u.readOperands q (((u.attnTds a bwd).map fun t => (t, 64)) ++ (u.attn a).reads bwd ins outs)) :=
    State.readOperands_data ..
  have hsecond : u.Operands ((u.attnTds a bwd).map fun t => (t, 64)) (u.attnGood c.step a bwd outs) ((u.attn a).reads bwd ins outs)
      ((u.attn a).results bwd outs) := by
    rw [haccess.data.attnTds, haccess.attnGood, haccess.data.attn, ← hx]
    exact haccess.operands hops
  refine ⟨[(a, 192)] ++ [], ((u.attnTds a bwd).map fun t => (t, 64)) ++ (u.attn a).reads bwd ins outs, ?_⟩
  subst ha
  unfold State.attnWith
  dsimp only
  rw [State.withOperands_of_operands hblock, hu]
  exact (State.withOperands_of_operands hsecond).trans
    (congrArg (k _) ((hdata.attn _).trans ((haccess.data.attn _).trans hx.symm)))

end Block

/-! ### The command runs -/

section Start

variable {s : State} {c b : Cmd} {q : Nat} {x : Attn} {e : AttnEnd} {nf : Bool}

/-- The records of several outputs are opened, one after another (R189). -/
def State.openedAll (s : State) (n : Nat) (l : List Td) : State := l.foldl (fun (u : State) t => u.opened n t) s

@[simp] theorem State.openedAll_cmds (n : Nat) (l : List Td) : (s.openedAll n l).hg.cmds = s.hg.cmds :=
  State.foldl_cmds (fun u t => u.opened_cmds n t) l s

/-- Opening records leaves every byte outside them. -/
theorem State.rdByte_openedAll (hs : s.Inv) {n : Nat} {l : List Td} {j : Nat} (hj : outside (l.flatMap Td.histRange) j) :
    (s.openedAll n l).rdByte j = s.rdByte j := by
  induction l generalizing s with
  | nil => rfl
  | cons t l ih =>
    have hhead : (s.opened n t).rdByte j = s.rdByte j := State.rdByte_opened hs fun r hr => hj r (List.mem_append_left _ hr)
    exact (ih ((s.opened_frame n t).inv hs) fun r hr => hj r (List.mem_append_right _ hr)).trans hhead

/-- The tiles that were numbered wait, and keep their blocks. -/
theorem mem_numberTiles {l : List (Nat × AttnTile)} {y : Tile} (hy : y ∈ numberTiles q l) :
    y.stage = .waiting ∧ ∃ p ∈ l, y.block = p.1 := by
  obtain ⟨p, hp, rfl⟩ := List.mem_map.mp hy
  exact ⟨rfl, p.2, (List.of_mem_zip hp).2, rfl⟩

/-- The tiles of the blocks below `n`, block by block. -/
def blockTiles (n : Nat) (f : Nat → List AttnTile) : List (Nat × AttnTile) := (List.range n).flatMap fun b => (f b).map fun t => (b, t)

theorem lt_of_mem_blockTiles {n : Nat} {f : Nat → List AttnTile} {p : Nat × AttnTile} (hp : p ∈ blockTiles n f) : p.1 < n := by
  obtain ⟨b, hb, hp⟩ := List.mem_flatMap.mp hp
  obtain ⟨t, -, rfl⟩ := List.mem_map.mp hp
  exact List.mem_range.mp hb

/-- What a state must show of an attention command that has started: it runs, its tiles wait, its work stands with one gang of 8 by 8
cores for each query block, and of memory only the records of its outputs have changed. -/
structure State.AttnStands (s : State) (q : Nat) (x : Attn) (outs : List Td) (e : AttnEnd) (t : State) : Prop where
  memory : ∀ j, outside (outs.flatMap Td.histRange) j → t.rdByte j = s.rdByte j
  runs : ∃ d, t.cmd q = some d ∧ d.stage = .running
  tiles : ∀ y ∈ t.mc.tiles, y.seq = q → y.stage = .waiting ∧ y.block < x.queryBlocks
  work : ∃ w ∈ t.mc.works, w.seq = q ∧ w.side = 8 ∧ w.blocks = x.queryBlocks ∧ w.homes = [] ∧ w.attn = some e

theorem State.startAttn_stands (hs : s.Inv) (hc : s.cmd q = some b) (c : Cmd) (x : Attn) (outs : List Td) (f : Nat → List AttnTile)
    (e : AttnEnd) (nf : Bool) :
    s.AttnStands q x outs e (s.startAttn c q x outs (numberTiles q (blockTiles x.queryBlocks f)) e nf) := by
  have hopened : (s.openedAll c.step outs).cmd q = some b := (State.cmd_of_cmds (State.openedAll_cmds ..) q).trans hc
  obtain ⟨w, ind, hw, heq⟩ : ∃ w ind, (w.seq = q ∧ w.side = 8 ∧ w.blocks = x.queryBlocks ∧ w.homes = [] ∧ w.attn = some e) ∧
      s.startAttn c q x outs (numberTiles q (blockTiles x.queryBlocks f)) e nf =
        (s.openedAll c.step outs).setUp w (numberTiles q (blockTiles x.queryBlocks f)) ind :=
    ⟨_, _, ⟨rfl, rfl, rfl, rfl, rfl⟩, rfl⟩
  obtain ⟨hseq, hw⟩ := hw
  subst hseq
  rw [heq]
  constructor
  case memory => exact fun j hj => ((State.setUp_frame.sameData rfl).rdByte j).trans (State.rdByte_openedAll hs hj)
  case runs => exact State.runs_setUp hopened
  case tiles =>
    intro y hy hseq
    obtain ⟨hstage, p, hp, hblock⟩ := mem_numberTiles (State.mem_setUp_tiles hy hseq)
    exact ⟨hstage, hblock ▸ lt_of_mem_blockTiles hp⟩
  case work => exact ⟨w, State.mem_setUp_works, rfl, hw⟩

/-- From operands that were read, attention starts as from the state before them. -/
theorem State.AttnStands.of_data {u t : State} {outs : List Td} (h : u.AttnStands q x outs e t) (hdata : s.SameData u) :
    s.AttnStands q x outs e t :=
  { h with memory := fun j hj => (h.memory j hj).trans (hdata.rdByte j) }

/-- What ATTN and ATTN with BWD do on good operands: they start from a state in which the operands have been read. -/
structure State.AttnStarts (s : State) (q : Nat) (x : Attn) (outs : List Td) (e : AttnEnd) (t : State) : Prop where
  starts : ∃ (u : State) (c : Cmd) (f : Nat → List AttnTile) (nf : Bool), s.SameData u ∧ (s.Inv → u.Inv) ∧
    u.hg.cmds = s.hg.cmds ∧ t = u.startAttn c q x outs (numberTiles q (blockTiles x.queryBlocks f)) e nf
  outs : e.outs.map AttnOut.td = outs

theorem State.AttnStarts.stands {t : State} {outs : List Td} (h : s.AttnStarts q x outs e t) (hs : s.Inv) (hc : s.cmd q = some b) :
    s.AttnStands q x outs e t := by
  obtain ⟨u, c, f, nf, hdata, hinv, hcmds, rfl⟩ := h.starts
  exact (State.startAttn_stands (hinv hs) ((State.cmd_of_cmds hcmds q).trans hc) c x outs f e nf).of_data hdata

/-- Reading the block and then the operands changes no byte and no command, and keeps the invariant. -/
theorem State.readOperands_twice (s : State) (q : Nat) (l m : List (Nat × Nat)) :
    s.SameData ((s.readOperands q l).readOperands q m) ∧ (s.Inv → ((s.readOperands q l).readOperands q m).Inv) ∧
      ((s.readOperands q l).readOperands q m).hg.cmds = s.hg.cmds :=
  ⟨(State.readOperands_data ..).trans (State.readOperands_data ..),
    fun hs => (State.readOperands_frame ..).inv ((State.readOperands_frame ..).inv hs),
    (State.readOperands_cmds ..).trans (State.readOperands_cmds ..)⟩

theorem State.runAttn_of_operands {a : Nat} (hc : s.runnable q 0x19 = some c) (hdir : bitAt (c.u8 24) 0 = false)
    (ha : a = c.u 16 8) (hx : x = s.attn a) (hblock : s.Operands [(a, 192)] (s.attnOk a false) [] [])
    (hops : s.Operands ((s.attnTds a false).map fun t => (t, 64)) (s.attnGood c.step a false fun x => [x.y])
      (x.reads false (fun x => [x.q, x.k, x.v]) fun x => [x.y]) (x.results false fun x => [x.y])) :
    ∃ e, s.AttnStarts q x [x.y] e (s.runAttn q) ∧ e.stats.map Prod.fst = if x.stats = 0 then [] else [x.stats] := by
  unfold State.runAttn
  rw [hc]
  dsimp -zeta only
  rw [if_neg (by simp [hdir])]
  obtain ⟨l, m, heq⟩ := State.attnWith_of_operands (q := q) _ ha hx hblock hops
  rw [heq]
  obtain ⟨hdata, hinv, hcmds⟩ := s.readOperands_twice q l m
  generalize (s.readOperands q l).readOperands q m = u at hdata hinv hcmds
  refine ⟨_, ⟨⟨u.freeStep, c, _, _, hdata, fun hs => (State.freeStep_frame u).inv (hinv hs), hcmds, rfl⟩, rfl⟩, ?_⟩
  dsimp only
  split <;> rfl

theorem State.runAttnBwd_of_operands {a : Nat} (hc : s.runnable q 0x19 = some c) (hdir : bitAt (c.u8 24) 0 = true)
    (ha : a = c.u 16 8) (hx : x = s.attn a) (hblock : s.Operands [(a, 192)] (s.attnOk a true) [] [])
    (hops : s.Operands ((s.attnTds a true).map fun t => (t, 64)) (s.attnGood c.step a true fun x => [x.dq, x.dk, x.dv])
      (x.reads true (fun x => [x.q, x.k, x.v, x.y, x.dy]) fun x => [x.dq, x.dk, x.dv])
      (x.results true fun x => [x.dq, x.dk, x.dv])) :
    ∃ e, s.AttnStarts q x [x.dq, x.dk, x.dv] e (s.runAttnBwd q) ∧ e.stats = [] := by
  unfold State.runAttnBwd
  rw [hc]
  dsimp -zeta only
  rw [if_neg (by simp [hdir])]
  obtain ⟨l, m, heq⟩ := State.attnWith_of_operands (q := q) _ ha hx hblock hops
  rw [heq]
  obtain ⟨hdata, hinv, hcmds⟩ := s.readOperands_twice q l m
  generalize (s.readOperands q l).readOperands q m = u at hdata hinv hcmds
  exact ⟨_, ⟨⟨u, c, _, _, hdata, hinv, hcmds, rfl⟩, rfl⟩, rfl⟩

end Start

/-! ### The last tile -/

/-- The pass that delivers the last tile of a command forms its result, in a state whose memory and invariant are as before. -/
theorem State.passEnd_last {s : State} {q n issued : Nat} {x : Tile} {w : Work} {c : Cmd} (h : s.tileRunning q n = some x)
    (hstage : x.stage = .waiting) (hgood : x.pass = .good) (hothers : ∀ y ∈ s.mc.tiles, y.seq = q → y.index ≠ n → y.left = true)
    (hw : s.mc.works.find? (fun w => w.seq == q) = some w) (hc : s.cmd q = some c) :
    ∃ v z, Frame [.hg, .im, .mc, .ctrs] s v ∧ z.seq = q ∧ z.attn = w.attn ∧ v.cmd q = some { c with checks := c.checks + 1 } ∧
      s.passEnd q n issued = v.finishWork z := by
  obtain ⟨hseq, hindex⟩ := State.tile_key (State.tileRunning_stands h).1
  subst hseq hindex
  obtain ⟨v, z, hv, hzseq, hzattn, hcmd, heq⟩ := State.deliverTile_last (s := s.passNoted x.seq issued x) (t := x.swapped)
    (by rw [State.passNoted_mc]; exact hw) (by rwa [State.passNoted_mc])
  refine ⟨v, z, (State.passNoted_frame.mono rfl).comp hv rfl, hzseq, hzattn, ?_, ?_⟩
  · refine hcmd.trans ?_
    rw [State.cmd_of_cmds State.passNoted_cmds]
    exact congrArg (Option.map _) hc
  · rw [State.passEnd_of_running h hstage, hgood]
    exact heq

/-- Settles O21: both directions start from operands whose reading changes no byte, and open the records of their outputs; the pass
that delivers the last tile forms the result, which is written where the conversion and the statistics say. -/
theorem attentionDeliversAndWritesItsTensors : Obligations.AttentionDeliversAndWritesItsTensors := by
  refine ⟨?forward, ?backward, ?last⟩
  case forward =>
    intro s q c a x hs hc hdir ha hx hblock hops
    have hoperands : s.Operands ((s.attnTds a false).map fun t => (t, 64)) (s.attnGood c.step a false fun x => [x.y])
        (x.reads false (fun x => [x.q, x.k, x.v]) fun x => [x.y]) (x.results false fun x => [x.y]) := by
      simpa [State.attnGood, Attn.reads, Attn.results, ← hx] using hops
    obtain ⟨e, hstarts, hstats⟩ := State.runAttn_of_operands hc hdir ha hx hblock hoperands
    obtain ⟨hmemory, hruns, htiles, w, hw, hseq, hside, hblocks, hhomes, hattn⟩ := hstarts.stands hs (State.runnable_cmd hc).1
    exact ⟨_, rfl, fun j hj => hmemory j (by simpa using hj), hruns, htiles, w, hw, hseq, hside, hblocks, hhomes, e, hattn,
      hstarts.outs, hstats⟩
  case backward =>
    intro s q c a x hs hc hdir ha hx hblock hops
    have hoperands : s.Operands ((s.attnTds a true).map fun t => (t, 64)) (s.attnGood c.step a true fun x => [x.dq, x.dk, x.dv])
        (x.reads true (fun x => [x.q, x.k, x.v, x.y, x.dy]) fun x => [x.dq, x.dk, x.dv])
        (x.results true fun x => [x.dq, x.dk, x.dv]) := by
      simpa [State.attnGood, Attn.reads, Attn.results, ← hx] using hops
    obtain ⟨e, hstarts, hstats⟩ := State.runAttnBwd_of_operands hc hdir ha hx hblock hoperands
    obtain ⟨hmemory, hruns, htiles, w, hw, hseq, hside, hblocks, hhomes, hattn⟩ := hstarts.stands hs (State.runnable_cmd hc).1
    exact ⟨_, rfl, hmemory, hruns, htiles, w, hw, hseq, hside, hblocks, hhomes, e, hattn, hstarts.outs, hstats⟩
  case last =>
    intro s q n issued x w e c hs h hstage hgood hothers hw he hc
    obtain ⟨v, z, hframe, hseq, hattn, hcmd, heq⟩ := State.passEnd_last (issued := issued) h hstage hgood hothers hw hc
    subst hseq
    have hz : z.attn = some e := hattn.trans he
    refine ⟨_, congrArg Host.Outcome.next heq, State.finishWork_delivers (by rw [hcmd]; rfl), fun j hj => ?_,
      fun a l hstats hhost i hi => State.rdByte_finishWork_stats (hframe.inv hs) hcmd hz hstats hi (hhost i hi)⟩
    exact (State.rdByte_finishWork_out (hframe.inv hs) hcmd hz hj).trans ((hframe.sameData rfl).rdByte j)

end Sys2Proof.Machine
end

section
/-!
Scale records in memory (R185, R186, R190): the 128 bytes of a record read back as the record, and the rows that write one record
deliver their command and leave every other byte alone.
-/
namespace Sys2Proof.Machine

open Sys2Proof

/-! ### Numbers in bytes (R2) -/

theorem leNat_natLe (k v : Nat) : leNat (natLe k v) = v % 256 ^ k := by
  induction k generalizing v with
  | zero => simp [natLe, leNat, Nat.mod_one]
  | succ k ih =>
    rw [natLe, leNat, ih, BitVec.toNat_ofNat]
    exact (Nat.pow_succ' ▸ Nat.mod_mul (a := 256)).symm

theorem leNat_lt (l : List Byte) : leNat l < 256 ^ l.length := by
  induction l with
  | nil => simp [leNat]
  | cons b l ih =>
    have hb := b.isLt
    rw [leNat, List.length_cons, Nat.pow_succ']
    omega

theorem State.rdNat_lt (s : State) (a n : Nat) : s.rdNat a n < 256 ^ n := by
  simpa only [State.rdNat, State.rd_length] using leNat_lt (s.rd a n)

theorem Cmd.u_lt (c : Cmd) (i n : Nat) : c.u i n < 256 ^ n :=
  Nat.lt_of_lt_of_le (leNat_lt _) (Nat.pow_le_pow_right (by decide) (List.length_take_le ..))

/-! ### Bytes that stand in memory -/

/-- The bytes `l` stand in memory from `a` on. -/
def State.Holds (s : State) (a : Nat) (l : List Byte) : Prop := ∀ (i : Nat) (h : i < l.length), s.rdByte (a + i) = l[i]

theorem State.Holds.of_data {s t : State} {a : Nat} {l : List Byte} (h : s.Holds a l) (hdata : s.SameData t) : t.Holds a l :=
  fun i hi => (hdata.rdByte _).trans (h i hi)

/-- Bytes stand in memory piece by piece. -/
theorem State.holds_append {s : State} {a : Nat} {l m : List Byte} :
    s.Holds a (l ++ m) ↔ s.Holds a l ∧ s.Holds (a + l.length) m := by
  constructor
  · intro h
    refine ⟨fun i hi => ?_, fun i hi => ?_⟩
    · rw [h i (by simp; omega), List.getElem_append_left hi]
    · rw [Nat.add_assoc, h (l.length + i) (by simp; omega), List.getElem_append_right (by omega)]
      simp
  · rintro ⟨hl, hm⟩ i hi
    rw [List.getElem_append]
    split
    · next hlt => exact hl i hlt
    · next hge =>
      rw [← hm (i - l.length) (by simp at hi; omega)]
      congr 1
      omega

/-- A number that stands in memory is read back. -/
theorem State.Holds.rdNat {s : State} {a n v : Nat} (h : s.Holds a (natLe n v)) (hv : v < 256 ^ n) : s.rdNat a n = v := by
  have hrd : s.rd a n = natLe n v :=
    List.ext_getElem (by rw [State.rd_length, natLe_length]) fun i _ hi => (State.rd_get ..).trans (h i hi)
  rw [State.rdNat, hrd, leNat_natLe, Nat.mod_eq_of_lt hv]

/-- Numbers that stand in memory one after another stand each at its own place. -/
theorem State.Holds.getElem {s : State} {a k : Nat} {l : List Nat} (h : s.Holds a (l.flatMap (natLe k))) {i : Nat}
    (hi : i < l.length) : s.Holds (a + k * i) (natLe k l[i]) := by
  induction l generalizing a i with
  | nil => cases hi
  | cons v l ih =>
    obtain ⟨hhead, htail⟩ := State.holds_append.mp h
    cases i with
    | zero => exact hhead
    | succ i =>
      have hplace : a + k * (i + 1) = a + (natLe k v).length + k * i := by rw [natLe_length, Nat.mul_succ]; omega
      exact hplace ▸ ih htail (Nat.lt_of_succ_lt_succ hi)

/-- A place of Table 13.1 that a command may name lies on one side of bit 63 (R361, R362). -/
theorem State.isHost_add {s : State} {a n i : Nat} (h : s.rangeBad a n = false) (hi : i < n) : isHost (a + i) = isHost a := by
  have hiff (b : Nat) : isHost b = decide (b / 2 ^ 63 % 2 = 1) := by
    simp [isHost, bitsOf, Nat.shiftRight_eq_div_pow, Bool.beq_eq_decide_eq]
  unfold State.rangeBad at h
  rw [if_neg (by omega : n ≠ 0)] at h
  split at h
  · next hhost =>
    rw [hiff, decide_eq_true_iff] at hhost
    have hend := of_decide_eq_false h
    rw [hiff, hiff, decide_eq_decide]
    omega
  · next hdevice =>
    have hend := of_decide_eq_false (Bool.or_eq_false_iff.mp h).1
    rw [hiff, hiff, decide_eq_decide]
    omega

/-- Written bytes stand in memory. -/
theorem State.holds_wr {s : State} (hs : s.Inv) {a : Nat} {l : List Byte} (h : ∀ i < l.length, isHost (a + i) = isHost a) :
    (s.wr a l).Holds a l :=
  fun i hi => State.rdByte_wr hs hi (h i hi).symm

/-! ### The record (Table 7.1) -/

/-- Every field of the record fits its place. -/
structure Hist.Fits (h : Hist) : Prop where
  length : h.maxes.length = 16
  maxes : ∀ m ∈ h.maxes, m < 2 ^ 32
  step : h.step < 2 ^ 32
  runStep : h.runStep < 2 ^ 32
  runMax : h.runMax < 2 ^ 32
  trouble : h.trouble < 2 ^ 16
  next : h.next < 16
  count : h.count ≤ 16
  margin : h.margin < 8
  span : h.span < 32
  oth : h.oth < 16

/-- A record that has been read fits. -/
theorem State.histAt_fits (s : State) (a : Nat) : (s.histAt a).Fits where
  length := by simp [State.histAt]
  maxes m hm := by
    obtain ⟨i, -, rfl⟩ := List.mem_map.mp hm
    exact s.rdNat_lt _ 4
  step := s.rdNat_lt _ 4
  runStep := s.rdNat_lt _ 4
  runMax := s.rdNat_lt _ 4
  trouble := s.rdNat_lt _ 2
  next := Nat.mod_lt _ (by decide)
  count := Nat.min_le_left ..
  margin := Nat.mod_lt _ (by decide)
  span := Nat.mod_lt _ (by decide)
  oth := Nat.mod_lt _ (by decide)

theorem Hist.Fits.push {h : Hist} (hh : h.Fits) {v n : Nat} (hv : v < 2 ^ 32) (hn : n < 2 ^ 32) (trouble : Bool) :
    (h.push v n trouble).Fits :=
  { hh with
    length := by simp [Hist.push, hh.length]
    maxes := fun m hm => (List.mem_or_eq_of_mem_set hm).elim (hh.maxes m) fun e => e ▸ hv
    step := hn
    trouble := Nat.mod_lt _ (by decide)
    next := Nat.mod_lt _ (by decide)
    count := Nat.min_le_right .. }

/-- The bytes of a record read back as the record. -/
theorem State.histAt_of_holds {s : State} {a : Nat} {h : Hist} (hh : h.Fits) (hb : s.Holds a h.bytes) : s.histAt a = h := by
  simp only [Hist.bytes, State.holds_append, List.length_append, flatMap_natLe_length, natLe_length, hh.length, Nat.reduceMul,
    Nat.reduceAdd] at hb
  obtain ⟨⟨⟨⟨⟨⟨⟨⟨⟨⟨⟨hmaxes, hstep⟩, hrunStep⟩, hrunMax⟩, htrouble⟩, hnext⟩, hcount⟩, hmargin⟩, hspan⟩, hoth⟩,
    hflags⟩, -⟩ := hb
  have hlist : (List.range 16).map (fun i => s.rdNat (a + 4 * i) 4) = h.maxes := by
    refine List.ext_getElem (by simp [hh.length]) fun i _ hi => ?_
    rw [List.getElem_map, List.getElem_range]
    exact (hmaxes.getElem hi).rdNat (hh.maxes _ (List.getElem_mem hi))
  have hbyte {n m : Nat} (hn : n < m) (hm : m ≤ 256) : n < 256 ^ 1 := by omega
  have hflagsLt : ∀ b c : Bool, (if b then 1 else 0) + (if c then 2 else 0) < 256 ^ 1 := by decide
  have hbits : ∀ b c : Bool, bitAt ((if b then 1 else 0) + (if c then 2 else 0)) 0 = b ∧
      bitAt ((if b then 1 else 0) + (if c then 2 else 0)) 1 = c := by decide
  simp only [State.histAt, hlist, hstep.rdNat hh.step, hrunStep.rdNat hh.runStep, hrunMax.rdNat hh.runMax,
    htrouble.rdNat hh.trouble, hnext.rdNat (hbyte hh.next (by decide)),
    hcount.rdNat (hbyte (Nat.lt_succ_of_le hh.count) (by decide)), hmargin.rdNat (hbyte hh.margin (by decide)),
    hspan.rdNat (hbyte hh.span (by decide)), hoth.rdNat (hbyte hh.oth (by decide)), hflags.rdNat (hflagsLt _ _), hbits,
    Nat.mod_eq_of_lt hh.next, Nat.min_eq_right hh.count, Nat.mod_eq_of_lt hh.margin, Nat.mod_eq_of_lt hh.span,
    Nat.mod_eq_of_lt hh.oth]

/-! ### Commands that write one record -/

@[simp] theorem State.putHist_cmds (s : State) (a : Nat) (h : Hist) : (s.putHist a h).hg.cmds = s.hg.cmds := State.wr_cmds ..

/-- A command has read its operands in `u` and has written the record `h` in `v`: it is delivered there, the record reads back, and
every other byte is as before the command. -/
theorem State.deliver_record {s u v : State} (hread : s.SameData u) (hu : u.Inv) {q a : Nat} {h : Hist} (hh : h.Fits)
    (ha : s.recBad a = false) (hwrite : (u.putHist a h).SameData v) (hcmd : (v.cmd q).isSome) :
    (∃ d, (v.deliver q).cmd q = some d ∧ d.stage = .delivered) ∧ (v.deliver q).histAt a = h ∧
      ∀ j, outside [(a, 128)] j → (v.deliver q).rdByte j = s.rdByte j := by
  have hlen := Hist.bytes_length hh.length
  have hrange : s.rangeBad a 128 = false := (Bool.or_eq_false_iff.mp ha).2
  have hdata : (u.putHist a h).SameData (v.deliver q) := hwrite.trans ((State.deliver_frame v q).sameData rfl)
  refine ⟨State.exists_cmd_deliver hcmd, State.histAt_of_holds hh ?_, fun j hj => ?_⟩
  · exact (State.holds_wr hu fun i hi => State.isHost_add hrange (hlen ▸ hi)).of_data hdata
  · have hout := hj (a, 128) (List.mem_singleton_self _)
    exact ((hdata.rdByte j).trans (State.rdByte_wr_out hu (by rwa [hlen]))).trans (hread.rdByte j)

/-! ### RESET, CLRFLAG and CLOSE (R186, R190) -/

section Record

variable {s : State} {q op : Nat} {c : Cmd}

/-- A started SCAL is a command that stands. -/
theorem State.cmd_of_scal (h : s.scal q op = some c) : s.cmd q = some c := by
  unfold State.scal at h
  split at h
  · next d hd =>
    split at h
    · exact Option.some.inj h ▸ (State.runnable_cmd hd).1
    · cases h
  · cases h

theorem State.recOk_of_recNamed (h : s.recNamed c = true) : s.recBad (c.u 48 8) = false := by
  simpa using (Bool.and_eq_true_iff.mp h).2

theorem State.heldBack_nil (s : State) : s.heldBack [] = false := by
  simp [State.heldBack]

theorem State.SameData.histAt {t : State} (h : s.SameData t) (a : Nat) : t.histAt a = s.histAt a := by
  simp only [State.histAt, h.rdNat]

theorem State.isSome_cmd_readOperands (h : s.cmd q = some c) (l : List (Nat × Nat)) : ((s.readOperands q l).cmd q).isSome := by
  rw [State.cmd_of_cmds (State.readOperands_cmds s q l), h]
  rfl

/-- The initial record of RESET (R186). -/
def Cmd.resetHist (c : Cmd) : Hist :=
  ⟨List.replicate 16 0, 0, 0, 0, 0, 0, 0, c.u8 19, c.u8 20, c.u8 21, false, false⟩

theorem Cmd.resetHist_fits (hmargin : c.u8 19 ≤ 7) (hspan : c.u8 20 ≤ 31) (hoth : c.u8 21 ≤ 15) : c.resetHist.Fits where
  length := List.length_replicate
  maxes m hm := List.eq_of_mem_replicate hm ▸ by decide
  step := Nat.two_pow_pos 32
  runStep := Nat.two_pow_pos 32
  runMax := Nat.two_pow_pos 32
  trouble := Nat.two_pow_pos 16
  next := Nat.two_pow_pos 4
  count := Nat.zero_le 16
  margin := Nat.lt_succ_of_le hmargin
  span := Nat.lt_succ_of_le hspan
  oth := Nat.lt_succ_of_le hoth

theorem State.scalReset_of_fields (hc : s.scal q 2 = some c) (hmargin : c.u8 19 ≤ 7) (hspan : c.u8 20 ≤ 31)
    (hoth : c.u8 21 ≤ 15) (hnamed : s.recNamed c = true) (hheld : s.heldBack [(c.u 48 8, 128)] = false) :
    s.scalReset q = (s.writeAll (some q) [(c.u 48 8, c.resetHist.bytes)]).deliver q := by
  simp only [State.scalReset, hc, Nat.not_lt.mpr hmargin, Nat.not_lt.mpr hspan, Nat.not_lt.mpr hoth, hnamed, hheld]
  rfl

theorem State.scalClrflag_of_record (hc : s.scal q 3 = some c) (hnamed : s.recNamed c = true)
    (hheld : s.heldBack [(c.u 48 8, 128)] = false) (hread : s.rdFails [(c.u 48 8, 128)] = none) :
    ∃ l, s.scalClrflag q = ((s.readOperands q l).putHist (c.u 48 8)
      { (s.readOperands q l).histAt (c.u 48 8) with recipe := false }).deliver q := by
  have hops : s.Operands [(c.u 48 8, 128)] true [] [] := ⟨hheld, hread, rfl, s.heldBack_nil, rfl, rfl⟩
  unfold State.scalClrflag
  rw [hc]
  dsimp only
  rw [if_neg (not_not_intro hnamed), State.withOperands_of_operands hops]
  exact ⟨_, rfl⟩

/-- CLOSE on this module alone with one listed record. -/
theorem State.scalClose_alone {a : Nat} (hc : s.scal q 1 = some c) (halone : bitAt (c.u8 17) 0 = false) (hone : c.u 24 4 = 1)
    (hlist : s.rangeBad (c.u 48 8) 8 = false) (ha : a = s.rdNat (c.u 48 8) 8)
    (hops : s.Operands [(c.u 48 8, 8)] (!s.recBad a) [(a, 128)] []) :
    ∃ l, s.scalClose q = ((s.readOperands q l).closeAlone c.step [a]).deliver q := by
  have hrecs {t : State} (hdata : s.SameData t) : t.closeList c = [a] := by
    simp [State.closeList, hone, ha, hdata.rdNat]
  unfold State.scalClose State.closeWith
  simp only [hc, hone, Nat.mul_one, hlist]
  rw [if_neg (by simp), State.withOperands_of_operands]
  · rw [hrecs (State.readOperands_data ..), if_pos (by simp [halone])]
    exact ⟨_, rfl⟩
  · simpa [hrecs (.of_ms rfl)] using hops

theorem State.closeAlone_single (s : State) (n a : Nat) :
    s.closeAlone n [a] = if (s.histAt a).isOpen ∧ (s.histAt a).runStep = n then
      s.putHist a ((s.histAt a).push (s.histAt a).runMax n false) else s := rfl

end Record

/-! ### SCAL APPLY (R194) -/

/-- Every block of 32 elements takes 16 bytes, whatever its values (R33, R34). -/
theorem blockCvt_bytes_length (fmt : Nat) (lanes : Bool) (z : Int) (span oth : Nat) (rnd : Nat → Rnd) (v : List Val) :
    (blockCvt fmt lanes z span oth rnd v).bytes.length = 16 := by
  unfold blockCvt
  split
  · exact List.length_replicate
  · simp

theorem mem_splitRows_length {α : Type} {k n : Nat} {l x : List α} (h : x ∈ splitRows k n l) : x.length ≤ k := by
  induction n generalizing l with
  | zero => cases h
  | succ n ih =>
    rcases List.mem_cons.mp h with rfl | h
    · exact List.length_take_le ..
    · exact ih h

theorem flatMap_length_le {α : Type} {f : α → List Byte} {k : Nat} {l : List α} (hf : ∀ x ∈ l, (f x).length ≤ k) :
    (l.flatMap f).length ≤ l.length * k := by
  induction l with
  | nil => exact Nat.zero_le _
  | cons x l ih =>
    have hx := hf x List.mem_cons_self
    have hl := ih fun y hy => hf y (List.mem_cons_of_mem _ hy)
    rw [List.flatMap_cons, List.length_append, List.length_cons, Nat.succ_mul]
    omega

/-- The piece `w` lies in one of the ranges. -/
def Lies (ranges : List (Nat × Nat)) (w : Nat × List Byte) : Prop := ∃ x ∈ ranges, x.1 ≤ w.1 ∧ w.1 + w.2.length ≤ x.1 + x.2

/-- Bytes outside some ranges are outside pieces that lie in them. -/
theorem outside_of_lies {ranges : List (Nat × Nat)} {l : List (Nat × List Byte)} (h : ∀ w ∈ l, Lies ranges w) {j : Nat}
    (hj : outside ranges j) : outside (l.map fun b => (b.1, b.2.length)) j := by
  intro r hr
  obtain ⟨w, hw, rfl⟩ := List.mem_map.mp hr
  obtain ⟨x, hx, hlo, hhi⟩ := h w hw
  have := hj x hx
  dsimp only
  omega

/-- A packed row of the tensor lies in its element plane. -/
theorem Td.row_lies {t : Td} {i : Nat} (hi : i < t.rows) {l : List Byte} (hl : l.length ≤ t.packed) :
    Lies t.ranges (t.addr + i * t.pitch, l) := by
  have hrow : i * t.pitch ≤ (t.rows - 1) * t.pitch := Nat.mul_le_mul_right _ (by omega)
  exact ⟨t.elemRange, List.mem_cons_self, Nat.le_add_right .., by simp only [Td.elemRange]; omega⟩

theorem Td.convPlain_lies {t : Td} (ht : t.four = false) (r : TopRange) (seed : W64) (step : Nat) (vals : List Val) :
    ∀ w ∈ (t.convPlain r seed step vals).writes, Lies t.ranges w := by
  unfold Td.convPlain
  extract_lets x one out rows
  intro w hw
  rcases List.mem_append.mp hw with hrow | hscale
  · obtain ⟨p, hp, rfl⟩ := List.mem_map.mp hrow
    obtain ⟨hi, helems⟩ := List.of_mem_zip hp
    refine Td.row_lies (List.mem_range.mp hi) (Nat.le_trans (flatMap_length_le fun e _ => Nat.le_of_eq (natLe_length ..)) ?_)
    rw [Td.packed, if_neg (by simp [ht])]
    exact Nat.mul_le_mul_right _ (mem_splitRows_length helems)
  · split at hscale
    next hfmt =>
      obtain rfl := List.mem_singleton.mp hscale
      have hrange : (t.aux, 4 * (if t.perRow then t.rows else 1)) ∈ t.scaleRange := by
        rw [Td.scaleRange, if_pos hfmt]
        exact List.mem_singleton_self _
      refine ⟨_, List.mem_cons_of_mem _ (List.mem_append_left _ hrange), Nat.le_refl _, ?_⟩
      exact Nat.add_le_add_left (Nat.le_of_eq (by rw [flatMap_natLe_length, List.length_replicate, Nat.mul_comm])) _
    · cases hscale

theorem Td.convFour_lies {t : Td} (ht : t.four = true) (r : TopRange) (seed : W64) (step : Nat) (vals : List Val) :
    ∀ w ∈ (t.convFour r seed step vals).writes, Lies t.ranges w := by
  have hfmt : t.fmt ≠ 7 := by
    intro h
    simp [Td.four, h] at ht
  unfold Td.convFour
  extract_lets n vs cv ids first tiles bad again second final both
  have hcv (z : Int) (b : Nat) : (cv z b).bytes.length = 16 := blockCvt_bytes_length ..
  have hfinal : ∀ e ∈ final, e.bytes.length = 16 := by
    intro e he
    obtain ⟨b, -, rfl⟩ := List.mem_map.mp he
    split
    next p hp =>
      obtain ⟨k, -, hk⟩ := List.mem_flatMap.mp (List.mem_of_find?_eq_some hp)
      obtain ⟨i, -, rfl⟩ := List.mem_map.mp hk
      dsimp only
      split <;> exact hcv ..
    next =>
      rw [List.getD_eq_getElem?_getD]
      cases hb : first[b]? with
      | none => exact hcv ..
      | some e =>
        obtain ⟨i, -, rfl⟩ := List.mem_map.mp (List.mem_of_getElem? hb)
        exact hcv ..
  have hlength : final.length = t.blocks := by simp [final, ids]
  intro w hw
  rcases List.mem_append.mp hw with hw | hlanes
  · rcases List.mem_append.mp hw with hrow | hscale
    · obtain ⟨i, hi, rfl⟩ := List.mem_map.mp hrow
      have hrowLength : ((final.drop (i * n)).take n).length ≤ n := List.length_take_le ..
      refine Td.row_lies (List.mem_range.mp hi) (Nat.le_trans (flatMap_length_le (k := 16) fun e he =>
        Nat.le_of_eq (hfinal e (List.mem_of_mem_drop (List.mem_of_mem_take he)))) ?_)
      rw [Td.packed, if_pos ht]
      have hn : n = t.cols / 32 := rfl
      omega
    · obtain rfl := List.mem_singleton.mp hscale
      refine ⟨(t.aux, t.blocks), List.mem_cons_of_mem _ (List.mem_append_left _ ?_), Nat.le_refl _, by simp [hlength]⟩
      rw [Td.scaleRange, if_neg hfmt, if_pos ht]
      exact List.mem_singleton_self _
  · split at hlanes
    next hl =>
      obtain rfl := List.mem_singleton.mp hlanes
      refine ⟨(t.oplane, 4 * t.blocks), List.mem_cons_of_mem _ (List.mem_append_right _ ?_), Nat.le_refl _, ?_⟩
      · rw [Td.laneRange, if_pos (by simp [ht, hl])]
        exact List.mem_singleton_self _
      · have := flatMap_length_le (f := fun b : Blk => natLe 4 b.lane) (l := final) fun e _ => Nat.le_of_eq (natLe_length ..)
        dsimp only
        omega
    · cases hlanes

/-- A conversion writes within the tensor that it goes to (Table 2.5). -/
theorem Td.conv_lies (t : Td) (r : TopRange) (seed : W64) (step : Nat) (vals : List Val) :
    ∀ w ∈ (t.conv r seed step vals).writes, Lies t.ranges w := by
  unfold Td.conv
  split
  next h => exact Td.convFour_lies h r seed step vals
  next h => exact Td.convPlain_lies (by simpa using h) r seed step vals

section Apply

variable {s : State} {q : Nat} {c : Cmd} {o : Td}

/-- APPLY has read its operands, has put the values that it has scaled behind the destination's history, and has written the
destination. -/
def State.applied (s : State) (q : Nat) (c : Cmd) (o : Td) (l : List (Nat × Nat)) (ind : BitVec 16) (r : TopRange)
    (vals pre : List Val) (die : Nat → Nat) : State :=
  (((s.readOperands q l).opened c.step o).addCond q [] ind).putTensor c q o r vals pre die

section Applied

variable (l : List (Nat × Nat)) (ind : BitVec 16) (r : TopRange) (vals pre : List Val) (die : Nat → Nat)

theorem State.inv_before_put (hs : s.Inv) : (((s.readOperands q l).opened c.step o).addCond q [] ind).Inv :=
  (State.addCond_frame ..).inv ((State.opened_frame ..).inv ((State.readOperands_frame ..).inv hs))

theorem State.inv_applied (hs : s.Inv) : (s.applied q c o l ind r vals pre die).Inv :=
  (State.putTensor_frame ..).inv (State.inv_before_put l ind hs)

/-- Bytes outside the destination and its record are as before. -/
theorem State.rdByte_applied (hs : s.Inv) {j : Nat} (hout : outside o.ranges j) (hrec : outside o.histRange j) :
    (s.applied q c o l ind r vals pre die).rdByte j = s.rdByte j :=
  calc
    (s.applied q c o l ind r vals pre die).rdByte j
      = (((s.readOperands q l).opened c.step o).addCond q [] ind).rdByte j :=
        State.rdByte_putTensor_out (State.inv_before_put l ind hs) (outside_of_lies (Td.conv_lies o r c.seed c.step vals) hout)
    _ = ((s.readOperands q l).opened c.step o).rdByte j := ((State.addCond_frame ..).sameData rfl).rdByte j
    _ = (s.readOperands q l).rdByte j := State.rdByte_opened ((State.readOperands_frame ..).inv hs) hrec
    _ = s.rdByte j := (State.readOperands_data ..).rdByte j

theorem State.isSome_cmd_applied (hc : s.cmd q = some c) : ((s.applied q c o l ind r vals pre die).cmd q).isSome := by
  unfold State.applied
  rw [State.isSome_cmd_putTensor, State.isSome_cmd_addCond, State.cmd_of_cmds (State.opened_cmds ..)]
  exact State.isSome_cmd_readOperands hc l

end Applied

theorem State.scalApply_of_operands (hc : s.scal q 0 = some c) (ho : o = s.tdAt (c.u 40 8))
    (hops : s.Operands [(c.u 32 8, 64), (c.u 40 8, 64)]
      (s.tdOk (c.u 32 8) && s.tdOk (c.u 40 8) && (s.tdAt (c.u 32 8)).sameShape o && (c.u 48 8 == 0 || !s.recBad (c.u 48 8)) &&
        (c.u 56 8 == 0 || !s.rangeBad (c.u 56 8) 4) && (s.openOut c.step o).isSome)
      ((s.tdAt (c.u 32 8)).ranges ++ o.histRange ++ if c.u 48 8 = 0 then [] else [(c.u 48 8, 128)])
      (o.ranges ++ if c.u 56 8 = 0 then [] else [(c.u 56 8, 4)])) :
    ∃ l ind r vals pre die, ∃ k : F32, s.scalApply q = (if c.u 56 8 = 0 then s.applied q c o l ind r vals pre die else
      (s.applied q c o l ind r vals pre die).writeAll (some q) [(c.u 56 8, natLe 4 k.toNat)]).deliver q := by
  subst ho
  unfold State.scalApply
  rw [hc]
  dsimp only
  rw [State.withOperands_of_operands hops, (State.readOperands_data ..).tdAt]
  exact ⟨_, _, _, _, _, _, _, rfl⟩

end Apply

/-- Settles O23: the conversion of APPLY lies within its destination; the other operations write at most one record, whose bytes
read back as the record. -/
theorem scaleRecordsChangeAsTheirCommandsSay : Obligations.ScaleRecordsChangeAsTheirCommandsSay := by
  unfold Obligations.ScaleRecordsChangeAsTheirCommandsSay
  refine ⟨?apply, ?close, ?reset, ?clrflag⟩
  case apply =>
    intro s q c o hs hc ho hops
    obtain ⟨l, ind, r, vals, pre, die, k, happly⟩ := State.scalApply_of_operands hc ho hops
    have hcmd := State.isSome_cmd_applied (o := o) l ind r vals pre die (State.cmd_of_scal hc)
    refine ⟨_, congrArg Host.Outcome.next happly, State.exists_cmd_deliver ?_, fun j hj => ?_⟩
    · split
      · exact hcmd
      · rwa [State.cmd_of_cmds (State.writeAll_cmds ..)]
    · have hout : outside o.ranges j := fun x hx => hj x (by simp [hx])
      have hrec : outside o.histRange j := fun x hx => hj x (by simp [hx])
      have htensor := State.rdByte_applied (q := q) (c := c) l ind r vals pre die hs hout hrec
      refine (((State.deliver_frame ..).sameData rfl).rdByte j).trans ?_
      split
      · exact htensor
      next hoout =>
        refine (State.rdByte_writeAll_out (State.inv_applied l ind r vals pre die hs) (some q) ?_).trans htensor
        simpa [outside, natLe_length] using hj (c.u 56 8, 4) (by simp [hoout])
  case close =>
    intro s q c a hs hc halone hone hlist ha hops
    obtain ⟨l, hclose⟩ := State.scalClose_alone hc halone hone hlist ha hops
    have hrec : s.recBad a = false := by simpa using hops.2.2.1
    have hdata := State.readOperands_data s q l
    have hcmd := State.isSome_cmd_readOperands (State.cmd_of_scal hc) l
    have hread := (State.readOperands_frame s q l).inv hs
    rw [State.closeAlone_single, hdata.histAt] at hclose
    refine ⟨_, congrArg Host.Outcome.next hclose, ?_⟩
    by_cases hopen : (s.histAt a).isOpen ∧ (s.histAt a).runStep = c.step
    · have hfits := (s.histAt_fits a).push (s.histAt_fits a).runMax (c.u_lt 4 4) false
      rw [if_pos hopen, if_pos hopen]
      exact State.deliver_record hdata hread hfits hrec (.of_ms rfl) (by rwa [State.cmd_of_cmds (State.putHist_cmds ..)])
    · rw [if_neg hopen, if_neg hopen]
      have hend := hdata.trans ((State.deliver_frame (s.readOperands q l) q).sameData rfl)
      exact ⟨State.exists_cmd_deliver hcmd, hend.histAt a, fun j _ => hend.rdByte j⟩
  case reset =>
    intro s q c hs hc hmargin hspan hoth hnamed hheld
    refine ⟨_, congrArg Host.Outcome.next (State.scalReset_of_fields hc hmargin hspan hoth hnamed hheld), ?_⟩
    have hdata : (s.putHist (c.u 48 8) c.resetHist).SameData (s.writeAll (some q) [(c.u 48 8, c.resetHist.bytes)]) :=
      (State.traffic_frame ..).sameData rfl
    refine State.deliver_record (.of_ms rfl) hs (Cmd.resetHist_fits hmargin hspan hoth) (State.recOk_of_recNamed hnamed) hdata ?_
    rw [State.cmd_of_cmds (State.writeAll_cmds ..), State.cmd_of_scal hc]
    rfl
  case clrflag =>
    intro s q c hs hc hnamed hheld hread
    obtain ⟨l, hclrflag⟩ := State.scalClrflag_of_record hc hnamed hheld hread
    have hdata := State.readOperands_data s q l
    rw [hdata.histAt] at hclrflag
    have hfits : { s.histAt (c.u 48 8) with recipe := false }.Fits := { s.histAt_fits (c.u 48 8) with }
    refine ⟨_, congrArg Host.Outcome.next hclrflag, State.deliver_record hdata ((State.readOperands_frame s q l).inv hs) hfits
      (State.recOk_of_recNamed hnamed) (.of_ms rfl) ?_⟩
    rw [State.cmd_of_cmds (State.putHist_cmds ..)]
    exact State.isSome_cmd_readOperands (State.cmd_of_scal hc) l

end Sys2Proof.Machine
end

section
/-!
UPDT (R209, R215, R280, R285): what it does behind its fence, when its step is skipped, and when its operation residue check has
passed.
-/
namespace Sys2Proof.Machine

open Sys2Proof

/-! ### Operation residue checks (R280) -/

theorem State.cmd_addVnCheck {s : State} {q : Nat} {c : Cmd} (h : s.cmd q = some c) (engine : Option (Nat × Nat)) :
    (s.addVnCheck q engine).cmd q = some { c with checks := c.checks + 1 } := by
  unfold State.addVnCheck
  rw [State.cmd_updCmd (fun c => { c with checks := c.checks + 1 }) fun _ => rfl]
  exact congrArg (Option.map _) h

/-- The number of a command's next operation residue check is above those of its checks that are outstanding. -/
theorem State.vnChecks_addVnCheck (s : State) (q : Nat) (engine : Option (Nat × Nat)) :
    ∃ v, (s.addVnCheck q engine).mc.vnChecks = v :: s.mc.vnChecks ∧ v.seq = q ∧ v.engine = engine ∧
      ∀ w ∈ s.mc.vnChecks, w.seq = q → w.index < v.index := by
  refine ⟨_, rfl, rfl, rfl, fun w hw hseq => ?_⟩
  have hmem : w.index + 1 ∈ (s.mc.vnChecks.filter fun v => v.seq == q).map fun v => v.index + 1 :=
    List.mem_map_of_mem (List.mem_filter.mpr ⟨hw, beq_iff_eq.mpr hseq⟩)
  have hle := (foldl_max_le_iff (m := 0).mp (Nat.le_refl _)).2 _ hmem
  rwa [List.foldl_map] at hle

/-! ### Behind the fence and in a skipped step (R209, R294) -/

section Run

variable {s : State} {q : Nat} {c : Cmd} {p : Updt}

/-- The commands that `c` depends on are clear or have failed. -/
theorem all_clear_or_failed {l : List Cmd} (h : ∀ d ∈ l, d.stage.isClear = true ∨ d.stage = .failed) :
    (l.all fun d => d.stage.isClear || d.stage == .failed) = true := by
  simpa using h

/-- In a cleared step UPDT has read its operands, runs, and has its operation residue check outstanding. -/
theorem State.runUpdt_cleared (hc : s.runnable q 0x38 = some c) (hblock : s.heldBack [(c.u 16 8, 128)] = false)
    (hread : s.rdFail (c.u 16 8) 128 = none) (hgood : s.updtGood (s.rd (c.u 16 8) 128) = true)
    (hp : p = updtOf (s.rd (c.u 16 8) 128)) (hdeps : ∀ d ∈ s.dependsOn c, d.stage.isClear = true ∨ d.stage = .failed)
    (hmark : (s.stepInfo c.step).mark = .cleared)
    (hheld : s.heldBack ((c.u 16 8, 128) :: (p.grad, 4 * p.count) :: p.planes ++ (p.planes ++ if p.list = 0 then [] else
      [(p.list, 64 + 8 * p.count)])) = false)
    (hreads : s.rdFails ((c.u 16 8, 128) :: (p.grad, 4 * p.count) :: p.planes) = none)
    (hwrites : s.writeFail (p.planes ++ if p.list = 0 then [] else [(p.list, 64 + 8 * p.count)]) = none) :
    ∃ l, s.runUpdt q = ((s.readOperands q l).addVnCheck q).updCmd q fun c => { c with stage := .running } := by
  subst hp
  unfold State.runUpdt
  simp only [hc, hblock, hread, hgood, hmark, all_clear_or_failed hdeps, hheld, hreads, hwrites]
  exact ⟨_, rfl⟩

/-- In a skipped step UPDT is counted and delivered with OK_FLAGGED. -/
theorem State.runUpdt_skipped (hc : s.runnable q 0x38 = some c) (hblock : s.heldBack [(c.u 16 8, 128)] = false)
    (hread : s.rdFail (c.u 16 8) 128 = none) (hgood : s.updtGood (s.rd (c.u 16 8) 128) = true)
    (hdeps : ∀ d ∈ s.dependsOn c, d.stage.isClear = true ∨ d.stage = .failed) (hmark : (s.stepInfo c.step).mark = .skipped) :
    s.runUpdt q = ((s.bump 0x1C00200).addCond q [.okFlagged] 8#16).deliver q := by
  unfold State.runUpdt
  simp only [hc, hblock, hread, hgood, hmark, all_clear_or_failed hdeps]
  rfl

/-- The update is written for a command that stands, which is delivered with its outstanding checks as they were (R215). -/
theorem State.cmd_updtWrite (b : Cmd) (h : s.cmd q = some c) :
    ∃ d, (s.updtWrite b q).cmd q = some d ∧ d.stage = .delivered ∧ d.checks = c.checks := by
  unfold State.updtWrite
  extract_lets p ids es ke ms vs t entries pp header nf sats s1 s2
  have hcmds : s2.hg.cmds = s.hg.cmds := by
    simp only [s2, s1, State.evt_cmds, State.freeStep_hg, State.countOn_hg, State.writeAll_cmds]
  have hs2 : s2.cmd q = some c := (State.cmd_of_cmds hcmds q).trans h
  exact ⟨_, State.cmd_deliver (State.cmd_addCond hs2 _ _), rfl, rfl⟩

end Run

/-! ### The check passes (R285) -/

theorem State.operationChecked_passed {s : State} {q idx : Nat} {c : Cmd} {v : VnCheck} (elem die engine syn : Nat)
    (hc : s.cmd q = some c) (hv : s.mc.vnChecks.find? (fun v => v.seq == q && v.index == idx) = some v) :
    ∃ u, Frame [.hg, .im] { s with mc := { s.mc with vnChecks := s.mc.vnChecks.erase v } } u ∧
      u.cmd q = some { c with checks := c.checks - 1 } ∧ s.operationChecked q idx elem true die engine syn =
        if c.opcode = 0x38 ∧ c.stage = .running then u.updtWrite c q else u := by
  refine ⟨_, State.checkPassed_frame _ q [2, idx], State.cmd_checkPassed (s := { s with mc := { s.mc with
    vnChecks := s.mc.vnChecks.erase v } }) hc [2, idx], ?_⟩
  simp only [State.operationChecked, hc, hv, if_true]

/-- Settles O32: behind its fence the command waits for the check that it has set up, which leaves memory alone; a skipped one is
delivered at once; the check that passes lets the update be written, whose frame leaves the other checks alone. -/
theorem updateWaitsForItsStepAndIsWritten : Obligations.UpdateWaitsForItsStepAndIsWritten := by
  unfold Obligations.UpdateWaitsForItsStepAndIsWritten
  refine ⟨?cleared, ?skipped, ?checked⟩
  case cleared =>
    intro s q c p hs hc hblock hread hgood hp hdeps hmark hheld hreads hwrites
    obtain ⟨l, hrun⟩ := State.runUpdt_cleared hc hblock hread hgood hp hdeps hmark hheld hreads hwrites
    have hcmd : (s.readOperands q l).cmd q = some c :=
      (State.cmd_of_cmds (State.readOperands_cmds ..) q).trans (State.runnable_cmd hc).1
    have hmc : (s.readOperands q l).mc = s.mc := (State.readOperands_frame ..).mc_eq rfl
    refine ⟨_, congrArg Host.Outcome.next hrun, fun j => ?_, ?_, _, State.cmd_running (State.cmd_addVnCheck hcmd none), rfl, rfl⟩
    · have hcheck := (State.addVnCheck_frame (s.readOperands q l) q none).sameData rfl
      exact (hcheck.rdByte j).trans ((State.readOperands_data ..).rdByte j)
    · exact hmc ▸ State.vnChecks_addVnCheck (s.readOperands q l) q none
  case skipped =>
    intro s q c hs hc hblock hread hgood hdeps hmark
    have hcmd : (s.bump 0x1C00200).cmd q = some c := (State.runnable_cmd hc).1
    refine ⟨_, congrArg Host.Outcome.next (State.runUpdt_skipped hc hblock hread hgood hdeps hmark), fun j => ?_, _,
      State.cmd_deliver (State.cmd_addCond hcmd _ _), rfl, rfl⟩
    exact ((State.deliver_frame ..).sameData rfl).rdByte j
  case checked =>
    intro s q idx elem c v die e x y hs hc hv
    obtain ⟨u, hframe, hcmd, hchecked⟩ :=
      State.operationChecked_passed elem die.val e.val (residueSyn x.val y.val) hc hv
    have hmc := congrArg Compute.vnChecks (hframe.mc_eq rfl)
    refine ⟨_, congrArg Host.Outcome.next hchecked, ?_, ?_⟩
    · split
      · exact (congrArg Compute.vnChecks ((State.updtWrite_frame ..).mc_eq rfl)).trans hmc
      · exact hmc
    · split
      · obtain ⟨d, hd, hstage, hchecks⟩ := State.cmd_updtWrite c hcmd
        exact ⟨d, hd, hchecks, fun _ _ => hstage⟩
      next hother => exact ⟨_, hcmd, rfl, fun hop hstage => absurd ⟨hop, hstage⟩ hother⟩

end Sys2Proof.Machine
end

section
/-!
The ends of what the exchange waits for (R191, R255, R259, R262, R267, R269, R270). A part given up ends its step, and what the
freed room then lets in belongs to other steps and leaves the ended one as it is.
-/
namespace Sys2Proof.Machine

open Sys2Proof

/-! ### What leaves the marks of steps alone -/

@[simp] theorem State.evt_steps (s : State) (q : Option Nat) (k n : Nat) : (s.evt q k n).hg.steps = s.hg.steps := by
  unfold State.evt
  dsimp only
  split
  · rfl
  · split <;> rfl

@[simp] theorem State.haltRing_steps (s : State) (n code : Nat) : (s.haltRing n code).hg.steps = s.hg.steps := by
  unfold State.haltRing
  dsimp only
  split
  · rfl
  · rw [State.arrive_hg]
    rfl

@[simp] theorem State.haltOn_steps (s : State) (c : Cmd) (t : Status) : (s.haltOn c t).hg.steps = s.hg.steps := by
  unfold State.haltOn
  split
  · exact State.haltRing_steps ..
  · rfl

theorem State.foldl_steps {α : Type} {f : State → α → State} (hf : ∀ s x, (f s x).hg.steps = s.hg.steps) (l : List α)
    (s : State) : (l.foldl f s).hg.steps = s.hg.steps :=
  List.foldlRecOn (motive := fun u : State => u.hg.steps = s.hg.steps) l f rfl fun u hu x _ => (hf u x).trans hu

@[simp] theorem State.timeOut_steps (s : State) (c : Cmd) : (s.timeOut c).hg.steps = s.hg.steps := by
  unfold State.timeOut
  split
  · rfl
  · exact State.haltOn_steps ..

@[simp] theorem State.trafficOn_steps (s : State) (die : Nat) (q : Option Nat) (w : Bool) (a n : Nat) :
    (s.trafficOn die q w a n).hg.steps = s.hg.steps := by
  refine State.foldl_steps (fun u x => ?_) _ s
  unfold State.countPiece
  dsimp only
  split
  · rw [State.evt_steps, State.evt_steps]
  · rfl

@[simp] theorem State.mergeCw_steps (s : State) (cw : Nat) : (s.mergeCw cw).hg.steps = s.hg.steps := by
  unfold State.mergeCw
  dsimp only
  rw [State.setMeta_hg, (State.settle_frame ..).hg_eq rfl]
  unfold State.noteMerge
  split
  · rfl
  · rw [(State.stackError_frame ..).hg_eq rfl]
    have hcount : (s.countCorr cw).hg = s.hg := (State.countCorr_frame s cw).hg_eq rfl
    exact Eq.trans (b := (s.countCorr cw).hg.steps) rfl (congrArg HostGate.steps hcount)
  · rw [(State.stackError_frame ..).hg_eq rfl]
    rfl

@[simp] theorem State.wr_steps (s : State) (a : Nat) (l : List Byte) : (s.wr a l).hg.steps = s.hg.steps := by
  unfold State.wr
  split
  · rw [State.putBytes_hg]
  · dsimp only
    rw [State.putBytes_hg]
    refine State.foldl_steps (fun u cw => ?_) _ s
    split
    · rfl
    · exact State.mergeCw_steps ..

@[simp] theorem State.deliver_steps (s : State) (q : Nat) : (s.deliver q).hg.steps = s.hg.steps := by
  unfold State.deliver
  split
  · rfl
  · extract_lets once delivered signalled _ latched halted
    have hsignalled : signalled.hg.steps = s.hg.steps := by
      unfold signalled
      split
      · split <;> rfl
      · rfl
    have hlatched : latched.hg.steps = s.hg.steps := by
      unfold latched
      split <;> exact hsignalled
    rw [State.logRec_hg]
    exact (State.haltOn_steps ..).trans hlatched

theorem State.stepInfo_of_steps {s t : State} (h : t.hg.steps = s.hg.steps) (n : Nat) : t.stepInfo n = s.stepInfo n := by
  unfold State.stepInfo
  rw [h]

theorem State.resolved_of_steps {s t : State} (h : t.hg.steps = s.hg.steps) (n : Nat) : t.resolved n = s.resolved n := by
  unfold State.resolved
  rw [State.stepInfo_of_steps h]

/-! ### Ends of steps (R262) -/

/-- An open step takes the mark, and no other step's mark changes. -/
theorem State.mark_markStep {s : State} (hs : s.Inv) (m n : Nat) (x : StepMark) :
    ((s.markStep m x).stepInfo n).mark = if n = m ∧ (s.stepInfo m).mark = .open then x else (s.stepInfo n).mark := by
  have hordered : s.hg.steps.Ordered := hs.tabs.hg.2.2.2.2
  unfold State.markStep
  by_cases hopen : (s.stepInfo m).mark = .open
  · have hget := Tab.get_set_of_rising (d := fun _ => StepInfo.initial) hordered m n { s.stepInfo m with mark := x }
    simp only [hopen, if_true, and_true]
    change (Tab.get (fun _ => StepInfo.initial) (Tab.set (fun _ => StepInfo.initial) s.hg.steps m _) n).mark = _
    rw [hget]
    split <;> rfl
  · simp [hopen]

/-- A summary that is sent is noted; nothing else of the exchange changes (R260). -/
theorem State.sendSummary_xe (s : State) (n : Nat) (nf inc : Bool) :
    ∃ l, (s.sendSummary n nf inc).xe = { s.xe with steps := l } := by
  have hnoted (u : State) : ∃ l, ((u.noteSummary n s.rank nf inc).setXeStep
      { (u.noteSummary n s.rank nf inc).xeStep n with sent := true }).xe = { u.xe with steps := l } := ⟨_, rfl⟩
  have hsent (words : List Nat) : (s.emitAll kSummary words).xe = s.xe :=
    (State.emitAll_frame s kSummary words).same .xe (by decide)
  obtain ⟨l, hl⟩ := hnoted (s.emitAll kSummary [n, s.rank, if nf then 1 else 0, if inc then 1 else 0])
  exact ⟨l, hl.trans (by rw [hsent])⟩

theorem State.foldl_timeOut_xe (l : List Cmd) (s : State) : (l.foldl State.timeOut s).xe = s.xe :=
  List.foldlRecOn (motive := fun u : State => u.xe = s.xe) l State.timeOut rfl
    fun u hu c _ => ((State.timeOut_frame u c).same .xe (by decide)).trans hu

/-- What dropping an open step leaves: it is marked incomplete, and its parts and the copies that wait for it are gone. -/
theorem State.dropStep_of_open {s : State} {m : Nat} (h : s.resolved m = false) :
    (s.dropStep m).hg.steps = (s.markStep m .incomplete).hg.steps ∧
      (s.dropStep m).xe.parts = s.xe.parts.filter (fun p => p.step != m) ∧
      (s.dropStep m).xe.waiting = s.xe.waiting.filter fun w => w.1 != m := by
  unfold State.dropStep
  rw [if_neg (by simp [h])]
  extract_lets summarised _ dropped
  have hmarked : (s.markStep m .incomplete).xe = s.xe := (State.markStep_frame s m .incomplete).same .xe (by decide)
  obtain ⟨l, hsummary⟩ := State.sendSummary_xe (s.markStep m .incomplete) m false true
  have hsummarised : summarised.xe = { s.xe with steps := l } := hmarked ▸ hsummary
  have hgate : summarised.hg = (s.markStep m .incomplete).hg := State.sendSummary_hg (s.markStep m .incomplete) m false true
  have hsteps : dropped.hg.steps = (s.markStep m .incomplete).hg.steps :=
    Eq.trans (b := summarised.hg.steps) rfl (congrArg HostGate.steps hgate)
  have hparts : dropped.xe.parts = summarised.xe.parts.filter fun p => p.step != m := rfl
  have hwaiting : dropped.xe.waiting = summarised.xe.waiting.filter fun w => w.1 != m := rfl
  rw [hsummarised] at hparts hwaiting
  clear_value dropped
  rw [State.foldl_timeOut_xe, State.foldl_steps State.timeOut_steps]
  exact ⟨hsteps, hparts, hwaiting⟩

theorem State.Inv.withXe {s : State} (h : s.Inv) (x : Exchange) : State.Inv { s with xe := x } := by
  obtain ⟨hmem, hregs, hms, hhg, hmv, hld, hirq, hpcie, him, hmc, haf, hfab, hctrs⟩ := h
  exact ⟨hmem, hregs, ⟨hms, hhg, hmv, hld, hirq, hpcie, him, hmc, haf, hfab, hctrs⟩⟩

/-- Step `n` is marked incomplete, no part of it is left, and no copy waits to become one. -/
structure State.StepEnded (s : State) (n : Nat) : Prop where
  inv : s.Inv
  mark : (s.stepInfo n).mark = .incomplete
  parts : ∀ p ∈ s.xe.parts, p.step ≠ n
  waiting : ∀ w ∈ s.xe.waiting, w.1 ≠ n

namespace State.StepEnded

variable {s t : State} {n m b o : Nat}

/-- A change that leaves the marks alone and adds parts and waiting copies of other steps only. -/
theorem of_xe (h : s.StepEnded n) (hinv : t.Inv) (hsteps : t.hg.steps = s.hg.steps)
    (hparts : ∀ p ∈ t.xe.parts, p ∈ s.xe.parts ∨ p.step ≠ n) (hwaiting : ∀ w ∈ t.xe.waiting, w ∈ s.xe.waiting ∨ w.1 ≠ n) :
    t.StepEnded n where
  inv := hinv
  mark := State.stepInfo_of_steps hsteps n ▸ h.mark
  parts p hp := (hparts p hp).elim (h.parts p) id
  waiting w hw := (hwaiting w hw).elim (h.waiting w) id

theorem of_frame {l : List Comp} (h : s.StepEnded n) (hf : Frame l s t) (hl : l.contains .xe = false)
    (hsteps : t.hg.steps = s.hg.steps) : t.StepEnded n := by
  have hxe : t.xe = s.xe := hf.same .xe (by simpa using hl)
  exact h.of_xe (hf.inv h.inv) hsteps (fun _ hp => .inl (hxe ▸ hp)) fun _ hw => .inl (hxe ▸ hw)

theorem of_silent {l : List Comp} (h : s.StepEnded n) (hf : Frame l s t) (hl : l.contains .xe = false)
    (hhg : l.contains .hg = false) : t.StepEnded n :=
  h.of_frame hf hl (congrArg HostGate.steps (hf.hg_eq hhg))

theorem resolved (h : s.StepEnded n) : s.resolved n = true := by
  simp [State.resolved, h.mark]

/-- A part that stands is not of the ended step. -/
theorem step_ne (h : s.StepEnded n) {p : Part} (hp : s.part m b o = some p) : p.step ≠ n :=
  h.parts p (List.mem_of_find?_eq_some hp)

theorem dropStep (h : s.StepEnded n) (m : Nat) : (s.dropStep m).StepEnded n := by
  cases hm : s.resolved m with
  | true =>
    unfold State.dropStep
    rwa [if_pos hm]
  | false =>
    obtain ⟨hsteps, hparts, hwaiting⟩ := State.dropStep_of_open hm
    refine ⟨(State.dropStep_frame s m).inv h.inv, ?_, fun p hp => ?_, fun w hw => ?_⟩
    · have hne : n ≠ m := fun e => by simp [e ▸ h.resolved] at hm
      rw [State.stepInfo_of_steps hsteps, State.mark_markStep h.inv, if_neg fun hnm => hne hnm.1]
      exact h.mark
    · exact h.parts p (List.mem_filter.mp (hparts ▸ hp)).1
    · exact h.waiting w (List.mem_filter.mp (hwaiting ▸ hw)).1

theorem markIncomplete (h : s.StepEnded n) (m : Nat) : (s.markIncomplete m).StepEnded n := by
  unfold State.markIncomplete
  split
  · exact h
  · have hdropped := (h.dropStep m).dropStep (m + 1)
    exact hdropped.of_xe (hdropped.inv.withXe _) rfl (fun _ hp => .inl hp) fun _ hw => .inl hw

theorem failCmd (h : s.StepEnded n) (q : Nat) (x : Status) (detail : Nat) : (s.failCmd q x detail).StepEnded n := by
  unfold State.failCmd
  split
  · exact h
  · extract_lets failed
    have hfailed : failed.StepEnded n :=
      (h.of_frame (State.updCmd_frame ..) rfl rfl).of_frame (State.haltOn_frame ..) rfl (State.haltOn_steps ..)
    split
    · exact hfailed.markIncomplete _
    · exact hfailed

theorem setPart (h : s.StepEnded n) {p : Part} (hp : p.step ≠ n) : (s.setPart p).StepEnded n := by
  unfold State.setPart
  extract_lets _ stored
  have hstored : stored.StepEnded n := by
    refine h.of_xe (h.inv.withXe _) rfl (fun x hx => ?_) fun _ hw => .inl hw
    rcases List.mem_cons.mp hx with rfl | hold
    · exact .inr hp
    · exact .inl (List.mem_filter.mp hold).1
  split
  · exact hstored
  · exact hstored.of_silent (State.logPart_frame ..) rfl rfl

theorem wr (h : s.StepEnded n) (a : Nat) (l : List Byte) : (s.wr a l).StepEnded n :=
  h.of_frame (State.wr_frame ..) rfl (State.wr_steps ..)

theorem clearPart (h : s.StepEnded n) (m b o : Nat) : (s.clearPart m b o).StepEnded n := by
  unfold State.clearPart
  split
  · exact h
  next p hp =>
    split
    · exact h
    · extract_lets cleared
      have hne := h.step_ne hp
      have hcleared : cleared.StepEnded n := h.setPart hne
      split
      · exact hcleared
      · split
        · exact hcleared.of_frame (State.updCmd_frame ..) rfl rfl
        · exact hcleared

theorem deliver (h : s.StepEnded n) (q : Nat) : (s.deliver q).StepEnded n :=
  h.of_frame (State.deliver_frame ..) rfl (State.deliver_steps ..)

theorem writePart (h : s.StepEnded n) (m b o : Nat) : (s.writePart m b o).StepEnded n := by
  unfold State.writePart
  split
  next p x hp hx =>
    have hne := h.step_ne hp
    extract_lets r vals a fail written stored _ _ sent done
    clear_value fail
    split
    · exact h.failCmd ..
    · have hwritten : written.StepEnded n :=
        ((h.wr a _).of_frame (State.trafficOn_frame ..) rfl (State.trafficOn_steps ..)).of_silent (State.noteWrite_frame ..) rfl rfl
      have hstored : stored.StepEnded n := hwritten.setPart hne
      have hsent : sent.StepEnded n := by
        unfold sent
        split
        · have hemit := State.emit_frame stored (.farpinen s.buddy kBuddy ([m, b, s.rank] ++ vals))
          exact hstored.of_xe ((hemit.inv hstored.inv).withXe _) (congrArg HostGate.steps (hemit.hg_eq rfl))
            (fun _ hp => .inl hp) fun _ hw => .inl hw
        · exact hstored
      refine State.StepEnded.clearPart ?_ m b o
      split
      · exact hsent.deliver _
      · exact hsent
  · exact h

theorem deliverPart (h : s.StepEnded n) (m b o : Nat) : (s.deliverPart m b o).StepEnded n := by
  have hchecked : (s.checkLanes m b o).StepEnded n := h.of_silent (State.checkLanes_frame ..) rfl rfl
  unfold State.deliverPart
  split
  · split
    · exact h
    · split
      · exact hchecked.markIncomplete m
      · exact hchecked.writePart m b o
  · exact h

theorem setLanes (h : s.StepEnded n) {p : Part} (hp : p.step ≠ n) : (s.setLanes p).StepEnded n := by
  unfold State.setLanes
  extract_lets r a stored
  split
  · exact (h.setPart hp).wr _ _
  · exact h.setPart hp

theorem bump (h : s.StepEnded n) (off k : Nat) : (s.bump off k).StepEnded n := h.of_silent (State.bump_frame ..) rfl rfl

theorem duplicate (h : s.StepEnded n) : s.duplicate.StepEnded n := h.of_frame (State.duplicate_frame s) rfl rfl

theorem takeCopy (h : s.StepEnded n) {p : Part} (hp : p.step ≠ n) (c : Copy) : (s.takeCopy p c).StepEnded n := by
  unfold State.takeCopy
  extract_lets k gone laned counted
  have hlaned : laned.StepEnded n := h.setLanes hp
  have hcounted : counted.StepEnded n := by
    unfold counted
    split
    · exact hlaned
    · exact hlaned.duplicate
  split
  · exact hcounted.bump _ _
  · exact hcounted

/-- A copy of another step arrives. -/
theorem copyArrives (h : s.StepEnded n) (hm : m ≠ n) (b o : Nat) (c : Copy) : (s.copyArrives m b o c).StepEnded n := by
  unfold State.copyArrives
  split
  · exact h.duplicate
  · exact h.duplicate
  · extract_lets p0 _ first s1 p k
    have hp0 : p0.step ≠ n := by
      unfold p0
      cases hp : s.part m b o with
      | none => exact hm
      | some p => exact h.step_ne hp
    have hs1 : s1.StepEnded n := by
      unfold s1
      split
      · exact h.bump _ _
      · exact h
    split
    · refine h.of_xe (h.inv.withXe _) rfl (fun _ hp => .inl hp) fun w hw => ?_
      rcases List.mem_append.mp hw with hold | hnew
      · exact .inl hold
      · exact .inr (List.mem_singleton.mp hnew ▸ hm)
    split
    · exact hs1.duplicate
    split
    · exact hs1.setPart hp0
    have hp : p.step ≠ n := hp0
    split
    next t _ =>
      split
      · have htaken := hs1.setLanes (p := { p with
          taken := p.taken.filter (fun u => u.rank != t.rank) ++ [{ c with at_ := s.now }], displaced := [(t, s.now)] }) hp
        exact (htaken.duplicate.bump 0x2000308 (2 ^ 64 - 1)).deliverPart m b o
      · exact (hs1.setPart hp).duplicate
    · split
      · exact (hs1.takeCopy hp c).deliverPart m b o
      · exact hs1.setPart (p := { p with held := p.held ++ [c] }) hp

theorem admitCopies (h : s.StepEnded n) (k : Nat) : (s.admitCopies k).StepEnded n := by
  induction k generalizing s with
  | zero => exact h
  | succ k ih =>
    unfold State.admitCopies
    split
    · exact h
    next m b o c rest hwaiting =>
      split
      · exact h
      · have hm : m ≠ n := h.waiting (m, b, o, c) (hwaiting ▸ List.mem_cons_self)
        have hrest : State.StepEnded { s with xe := { s.xe with waiting := rest } } n :=
          h.of_xe (h.inv.withXe _) rfl (fun _ hp => .inl hp) fun _ hw => .inl (hwaiting ▸ List.mem_cons_of_mem _ hw)
        exact ih (hrest.copyArrives hm b o c)

/-- The copies that freed room lets in are of other steps. -/
theorem admitWaiting (h : s.StepEnded n) : s.admitWaiting.StepEnded n :=
  (h.admitCopies _).of_silent (State.freeBuffers_frame _) rfl rfl

end State.StepEnded

/-- Marking an open step incomplete ends it. -/
theorem State.stepEnded_markIncomplete {s : State} {n : Nat} (hs : s.Inv) (h : s.resolved n = false) :
    (s.markIncomplete n).StepEnded n := by
  obtain ⟨hsteps, hparts, hwaiting⟩ := State.dropStep_of_open h
  have hopen : (s.stepInfo n).mark = .open := by simpa [State.resolved] using h
  have hdropped : (s.dropStep n).StepEnded n := by
    refine ⟨(State.dropStep_frame s n).inv hs, ?_, fun p hp => ?_, fun w hw => ?_⟩
    · rw [State.stepInfo_of_steps hsteps, State.mark_markStep hs, if_pos ⟨rfl, hopen⟩]
    · rw [hparts, List.mem_filter] at hp
      simpa using hp.2
    · rw [hwaiting, List.mem_filter] at hw
      simpa using hw.2
  have hboth := hdropped.dropStep (n + 1)
  unfold State.markIncomplete
  rw [if_neg (by simp [h])]
  exact hboth.of_xe (hboth.inv.withXe _) rfl (fun _ hp => .inl hp) fun _ hw => .inl hw

/-! ### Give-ups (R191, R255, R270) -/

section Giveup

variable {s : State} {n b o q f : Nat} {p : Part} {c : Cmd}

/-- A part that is given up ends its step (R259, R262). -/
theorem State.stepEnded_partGiveup (hs : s.Inv) (hp : s.part n b o = some p) (hfirst : p.first = some f)
    (hlate : f + s.giveupNs < s.now) (hfull : s.partFull p = false) (hopen : s.resolved n = false) :
    (s.partGiveup n b o).StepEnded n := by
  unfold State.partGiveup
  split
  next hnone => cases hp.symm.trans hnone
  next p' hp' =>
  cases Option.some.inj (hp.symm.trans hp')
  split
  next hnone => cases hfirst.symm.trans hnone
  next f' hfirst' =>
  cases Option.some.inj (hfirst.symm.trans hfirst')
  rw [if_neg (by simp [hfull, hlate])]
  extract_lets missing ended
  have hcounted : Frame [.ld, .irq, .pcie, .im, .fab, .ctrs, .out] s ((s.bump 0x2000320).logPart n b) :=
    ((State.bump_frame s 0x2000320 1).mono rfl).comp (State.logPart_frame ..) rfl
  have hframe : Frame [.ld, .irq, .pcie, .im, .fab, .ctrs, .out] s
      (((s.bump 0x2000320).logPart n b).giveupRecords n missing) := hcounted.comp (State.giveupRecords_frame ..) rfl
  have hgate : (((s.bump 0x2000320).logPart n b).giveupRecords n missing).hg = s.hg := hframe.hg_eq rfl
  have hresolved : (((s.bump 0x2000320).logPart n b).giveupRecords n missing).resolved n = false :=
    (State.resolved_of_steps (congrArg HostGate.steps hgate) n).trans hopen
  have hended : ended.StepEnded n := State.stepEnded_markIncomplete (hframe.inv hs) hresolved
  clear_value ended
  exact hended.of_xe (hended.inv.withXe _) rfl (fun _ hp => .inl (List.mem_filter.mp hp).1) fun _ hw => .inl hw

/-- A group CLOSE that not every slot has joined does not end (R190). -/
theorem State.closeEnds_of_missing {x : CloseX} (hx : s.xe.closes.find? (fun x => x.seq == q) = some x)
    (hfull : s.closeFull x = false) : s.closeEnds q = s := by
  simp [State.closeEnds, hx, hfull]

theorem State.failedCmd_closeGiveup {x : CloseX} (hx : s.xe.closes.find? (fun x => x.seq == q) = some x)
    (hfull : s.closeFull x = false) (hc : s.cmd q = some c) (hrun : c.stage = .running)
    (hlate : ((s.xe.closeMsgs.filter fun m => m.step == x.step && m.ordinal == x.ordinal).foldl (fun a m => min a m.at_) s.now) +
      s.giveupNs < s.now) : (s.closeGiveup q).FailedCmd q := by
  unfold State.closeGiveup
  simp only [hx, State.closeEnds_of_missing hx hfull, hc, Option.any_some, hrun]
  rw [if_neg (by simp), if_neg (Nat.not_le.mpr hlate)]
  refine State.failedCmd_failCmd (c := c) ?_ _ _
  exact hc

theorem State.failedCmd_gathGiveup {x : GathX} {l : List ListX} (hx : s.xe.gaths.find? (fun x => x.seq == q) = some x)
    (hl : l = s.xe.lists.filter (fun l => l.step == x.step && l.tensor == x.tensor)) (hsome : l ≠ [])
    (hlate : l.foldl (fun a m => min a m.at_) s.now + s.giveupMs * 1000000 < s.now) (hc : s.cmd q = some c)
    (hrun : c.stage = .running) : (s.gathGiveup q).FailedCmd q := by
  subst hl
  unfold State.gathGiveup
  simp only [hx]
  rw [if_neg (by simp [hsome, hlate, hc, hrun])]
  refine State.failedCmd_failCmd (c := c) ?_ _ _
  rw [State.cmd_of_cmds (State.writeAll_cmds ..)]
  exact hc

end Giveup

/-! ### Messages (R191, R267, R269) -/

section Messages

variable {s : State}

/-- A CLOSE message for which no command waits is kept. -/
theorem State.closeArrives_kept {rank n k : Nat} (recs : List CloseRec) (hlive : s.xeLive rank = true)
    (hnew : ∀ m ∈ s.xe.closeMsgs, ¬ (m.step = n ∧ m.ordinal = k ∧ m.rank = rank))
    (hnone : ∀ x ∈ s.xe.closes, ¬ (x.step = n ∧ x.ordinal = k)) :
    s.closeArrives rank n k recs = { s with xe := { s.xe with
      closeMsgs := { rank := rank, step := n, ordinal := k, recs := recs, at_ := s.now } :: s.xe.closeMsgs } } := by
  have hdup : (s.xe.closeMsgs.any fun m => m.step == n && m.ordinal == k && m.rank == rank) = false := by
    simpa [and_assoc] using hnew
  have hfind : s.xe.closes.find? (fun x => x.step == n && x.ordinal == k) = none := by
    simpa using hnone
  simp only [State.closeArrives, hlive, hdup, hfind]
  rfl

/-- A list for which no GATH waits is kept. -/
theorem State.listArrives_kept {rank : Nat} {l : List Byte} (hlive : s.xe.stopped = false) (hrank : rank ∈ s.listRanks)
    (hnone : ∀ x ∈ s.xe.gaths, ¬ (x.step = leNat ((l.drop 8).take 4) ∧ x.tensor = leNat ((l.drop 12).take 4))) :
    s.listArrives rank l = s.addList rank (leNat ((l.drop 8).take 4)) (leNat ((l.drop 12).take 4))
      ((l.drop 64).take (8 * leNat ((l.drop 0).take 8))) := by
  have hfind : s.xe.gaths.find? (fun x =>
      x.step == leNat ((l.drop 8).take 4) && x.tensor == leNat ((l.drop 12).take 4)) = none := by
    simpa using hnone
  unfold State.listArrives
  dsimp only
  rw [if_neg (by simp [hlive, hrank])]
  change (match s.xe.gaths.find? _ with | some x => _ | none => _) = _
  rw [hfind]

/-- A ward's delivery that the module's own XCHG does not await yet is kept. -/
theorem State.mirrorArrives_kept {n b : Nat} (vals : List Nat) (hon : s.buddyOn = true) (hlive : s.xeLive s.ward = true)
    (howns : s.ownsPart s.ward b = true) (hsent : s.sentOf n b = none) : s.mirrorArrives n b vals =
      { s with xe := { s.xe with mirrors := s.xe.mirrors ++ [{ step := n, bucket := b, vals := vals }] } } := by
  simp [State.mirrorArrives, hon, hlive, howns, hsent]

/-- A ward's delivery for an XCHG that stands is written to the mirror. -/
theorem State.mirrorArrives_written {n b : Nat} {y : Sent} (vals : List Nat) (hon : s.buddyOn = true)
    (hlive : s.xeLive s.ward = true) (howns : s.ownsPart s.ward b = true) (hsent : s.sentOf n b = some y) :
    s.mirrorArrives n b vals = s.writeMirror y vals := by
  simp [State.mirrorArrives, hon, hlive, howns, hsent]

/-- A delivery whose place can be written stands in the mirror, and every other byte is as before. -/
theorem State.writeMirror_memory (hs : s.Inv) {y : Sent} {vals : List Nat} {a : Nat}
    (ha : a = y.mirrorBase + 4 * ((s.partRange s.ward y.bucket).1 - s.shardLo s.ward))
    (hrange : s.rangeBad a (4 * vals.length) = false) (hwrite : s.rdFail a (4 * vals.length) = none) :
    (s.writeMirror y vals).Holds a (vals.flatMap (natLe 4)) ∧
      ∀ j, outside [(a, 4 * vals.length)] j → (s.writeMirror y vals).rdByte j = s.rdByte j := by
  subst ha
  have hlen : (vals.flatMap (natLe 4)).length = 4 * vals.length := by rw [flatMap_natLe_length, Nat.mul_comm]
  unfold State.writeMirror
  simp only [hwrite, ite_self]
  generalize y.mirrorBase + 4 * ((s.partRange s.ward y.bucket).1 - s.shardLo s.ward) = a at *
  have hdata (q n : Nat) (m : OutMsg) : (s.wr a (vals.flatMap (natLe 4))).SameData
      (((((s.wr a (vals.flatMap (natLe 4))).trafficOn 4 (some q) true a n)).noteWrite q a n).emit m) :=
    (((State.trafficOn_frame ..).sameData rfl).trans ((State.noteWrite_frame ..).sameData rfl)).trans
      ((State.emit_frame ..).sameData rfl)
  refine ⟨(State.holds_wr hs fun i hi => State.isHost_add hrange (hlen ▸ hi)).of_data (hdata ..), fun j hj => ?_⟩
  have hout := hj (a, 4 * vals.length) (List.mem_singleton_self _)
  exact ((hdata ..).rdByte j).trans (State.rdByte_wr_out hs (by rwa [hlen]))

end Messages

/-- Settles O39: a part that is given up ends its step, and the copies let in then are of other steps; the commands that miss a
member fail; a message is kept, or written to the mirror, where its row says so. -/
theorem giveUpsAndMessagesOfTheExchange : Obligations.GiveUpsAndMessagesOfTheExchange := by
  unfold Obligations.GiveUpsAndMessagesOfTheExchange
  refine ⟨?part, ?close, ?gath, ?closeMessage, ?list, ?mirror, fun s n b => ⟨_, rfl, rfl⟩⟩
  case part =>
    intro s n b o f p hs hp hfirst hlate hfull hopen _
    have hended := (State.stepEnded_partGiveup hs hp hfirst hlate hfull hopen).admitWaiting
    refine ⟨_, rfl, List.find?_eq_none.mpr fun x hx => ?_, hended.mark⟩
    simp [hended.parts x hx]
  case close =>
    intro s q c x hx hfull hc hrun hlate
    exact ⟨_, rfl, State.failedCmd_closeGiveup hx hfull hc hrun hlate⟩
  case gath =>
    intro s q c x l _ hx hl hsome hlate hc hrun
    exact ⟨_, rfl, State.failedCmd_gathGiveup hx hl hsome hlate hc hrun⟩
  case closeMessage =>
    intro s rank n k recs hlive hnew hnone
    refine ⟨_, _, congrArg Host.Outcome.next (State.closeArrives_kept _ hlive hnew hnone), rfl, rfl, rfl, rfl, rfl, ?_⟩
    simp
  case list =>
    intro s rank l hlive hrank hnone
    exact ⟨_, _, congrArg Host.Outcome.next (State.listArrives_kept hlive hrank hnone), List.mem_cons_self,
      rfl, rfl, rfl, rfl, rfl⟩
  case mirror =>
    intro s n b vals hs hon hlive howns
    refine ⟨_, rfl, ?_, ?_⟩
    · intro hsent
      rw [State.mirrorArrives_kept _ hon hlive howns hsent]
      exact ⟨_, rfl, rfl, rfl, rfl⟩
    · intro y a hsent ha hbucket hrange hwrite
      rw [State.mirrorArrives_written _ hon hlive howns hsent]
      obtain ⟨hholds, hother⟩ := State.writeMirror_memory (vals := vals.map fun v => v.toNat) hs (hbucket ▸ ha)
        (by simpa using hrange) (by simpa using hwrite)
      refine ⟨fun i hi => ?_, by simpa using hother⟩
      have hlt : i < ((vals.map fun v => v.toNat).flatMap (natLe 4)).length := by
        rw [flatMap_natLe_length, List.length_map]
        omega
      rw [hholds i hlt, List.getD_eq_getElem?_getD, List.getElem?_eq_getElem hlt, Option.getD_some]

end Sys2Proof.Machine
end

section
/-!
The commit fence (R258, R294): a state in which the fence of a step lets a copy of the next step in, which ends that next step.
-/
namespace Sys2Proof.Machine

open Sys2Proof

namespace FenceAdmits

/-- The module's own copy for step 6, which waits in the channel's buffers (R254). -/
def copy : Copy := { rank := 0, vals := [], nf := false, at_ := 0 }

/-- What the XCHG of step 6 has sent. -/
def sent : Sent :=
  { seq := 0, step := 6, bucket := 0, shardBase := 0, mirrorBase := 0, errmem := 0, owners := [0], nf := false, waiting := []
    cleared := false }

/-- A lane of the part of step 6 fails again after it has been rebuilt (R282). -/
def fault : LaneFault := { step := 6, bucket := 0, owner := 0, predicted := 0, observed := 1, again := true }

/-- The one summary of step 5, in a group of one module (R260). -/
def summary : XeStep := { step := 5, got := [(0, false, false)], firstAt := some 0, sent := true, sets := [], windowAt := none }

/-- Step 5 is open and ready for its fence, and the copy of step 6 waits. -/
def state : State :=
  { State.reset with
    ms := { MemSys.initial with lanes := [fault] }
    xe := { Exchange.initial with sends := [sent], steps := [summary], waiting := [(6, 0, 0, copy)] } }

theorem state_inv : state.Inv :=
  have tabs := State.reset_inv.tabs
  { mem := State.reset_inv.mem
    regs := State.reset_inv.regs
    tabs := ⟨tabs.ms, tabs.hg, tabs.mv, tabs.ld, tabs.irq, tabs.pcie, tabs.im, tabs.mc, tabs.af, tabs.fab, tabs.ctrs⟩ }

/-- The fence clears step 5 and lets the copy of step 6 in, whose part is then full and is lost to its lane (R282). -/
theorem lastStep_after_fence : (state.commitFence 5).xe.lastStep = 6 := by decide +kernel

end FenceAdmits

/-- Refutes O35: the room that the fence of a step frees lets in a waiting copy of the next step. Where that copy completes a part
whose lane has failed again, the next step is marked incomplete in the same change, and it is the last step that was resolved. -/
theorem not_fencesResolveStepsAndUnitsReturn : ¬ Obligations.FencesResolveStepsAndUnitsReturn := by
  unfold Obligations.FencesResolveStepsAndUnitsReturn
  rintro ⟨hfence, -⟩
  obtain ⟨t, hexec, -, hlast, -⟩ := hfence FenceAdmits.state 5 FenceAdmits.state_inv (by decide +kernel) (by decide +kernel)
    (by decide +kernel) (fun r hr => by cases hr)
  have ht : FenceAdmits.state.commitFence 5 = t := Host.Outcome.next.inj hexec
  rw [← ht, FenceAdmits.lastStep_after_fence] at hlast
  cases hlast

end Sys2Proof.Machine
end

section
/-!
The region of the Hamper (R380, R381): what decides where units lie, which of it the operations leave alone, and the two rows that
move the region.
-/
namespace Sys2Proof.Machine

open Sys2Proof

/-! ### Where units lie (R380) -/

theorem Frame.ham_eq {l : List Comp} {s t : State} (h : Frame l s t) (hl : l.contains .ham = false) : t.ham = s.ham :=
  h.same .ham (by simpa using hl)

/-- The entries, the region in force and the interleaving are the same in both states. -/
structure State.SameRegion (s t : State) : Prop where
  entries : t.ham.entries = s.ham.entries
  offset : t.ham.offset = s.ham.offset
  size : t.ham.size = s.ham.size
  interleave : t.ms.interleave = s.ms.interleave

namespace State.SameRegion

variable {s t : State}

theorem of_ham (h : t.ham = s.ham) (hmode : t.ms.interleave = s.ms.interleave) : SameRegion s t :=
  ⟨by rw [h], by rw [h], by rw [h], hmode⟩

theorem unitsOn (h : SameRegion s t) (st : Nat) : t.unitsOn st = s.unitsOn st := by
  unfold State.unitsOn
  rw [h.entries, h.offset, h.interleave]

theorem fits (h : SameRegion s t) (number n : Nat) : t.fits number n = s.fits number n := by
  simp only [State.fits, h.unitsOn, h.size]

theorem placeUnits (h : SameRegion s t) (number n : Nat) : t.placeUnits number n = s.placeUnits number n := by
  simp only [State.placeUnits, State.freeUnits, h.unitsOn, h.offset, h.interleave]

end State.SameRegion

@[simp] theorem State.placeUnits_length (s : State) (number n : Nat) : (s.placeUnits number n).length = n := by
  simp [State.placeUnits]

theorem State.regionUsed_of_ham {s t : State} (h : t.ham = s.ham) : t.regionUsed = s.regionUsed := by
  unfold State.regionUsed
  rw [h]

/-! ### A pending region (R381) -/

@[simp] theorem State.applyRegion_entries (s : State) : s.applyRegion.ham.entries = s.ham.entries := by
  unfold State.applyRegion
  split
  · split <;> rfl
  · rfl

@[simp] theorem State.applyRegion_stored (s : State) : s.applyRegion.ham.stored = s.ham.stored := by
  unfold State.applyRegion
  split
  · split <;> rfl
  · rfl

theorem State.applyRegion_empty {s : State} {p : Nat × Nat} (hp : s.ham.pending = some p) (he : s.ham.entries = []) :
    s.applyRegion = { s with ham := { s.ham with offset := p.1, size := p.2, pending := none } } := by
  simp [State.applyRegion, hp, he]

theorem State.applyRegion_held {s : State} (he : s.ham.entries ≠ []) : s.applyRegion = s := by
  unfold State.applyRegion
  split
  · exact if_neg (by simpa using he)
  · rfl

/-- What a pending region becomes is decided in the Hamper alone. -/
theorem State.applyRegion_ham_of {s t : State} (h : t.ham = s.ham) : t.applyRegion.ham = s.applyRegion.ham := by
  unfold State.applyRegion
  rw [h]
  split
  · split
    · rfl
    · exact h
  · exact h

/-- A write within the limits of R380 leaves a pending region. -/
theorem State.regionWrite_pending {s : State} {m : Master} (howns : s.owns m = true) (hlands : s.regLands m = true) (v : Nat) :
    (s.regionWrite m v).ham.pending =
      if 1 ≤ bitsOf v 0 9 ∧ bitsOf v 0 9 ≤ 448 ∧ bitsOf v 16 9 + bitsOf v 0 9 ≤ 512 then some (bitsOf v 16 9, bitsOf v 0 9)
      else s.ham.pending := by
  unfold State.regionWrite
  dsimp only
  split
  next h => rw [if_pos h.2.2]
  next h => rw [if_neg fun hlimits => h ⟨howns, hlands, hlimits⟩]

/-! ### The first STSH of a step (R21, R229) -/

@[simp] theorem State.newStash_entries (s : State) (n : Nat) : (s.newStash n).ham.entries = s.ham.entries := by
  unfold State.newStash
  split <;> rfl

@[simp] theorem State.newStash_stored (s : State) (n : Nat) : (s.newStash n).ham.stored = s.ham.stored := by
  unfold State.newStash
  split <;> rfl

/-- The settings that the first STSH of a step takes come from the registers and from the channels. -/
theorem State.newStash_ham_of {s t : State} (hham : t.ham = s.ham) (hregs : t.regs = s.regs) (hmv : t.mv = s.mv) (n : Nat) :
    (t.newStash n).ham = (s.newStash n).ham := by
  have hreg : t.reg = s.reg := funext (State.reg_of_regs hregs)
  have hfld : t.fld = s.fld := by
    funext off lo w
    exact State.fld_of_regs hregs off lo w
  have hchan : t.chan = s.chan := by
    funext c
    simp only [State.chan, hmv]
  unfold State.newStash
  rw [hham, hreg, hfld, hchan]
  split
  · exact hham
  · rfl

end Sys2Proof.Machine
end

section
/-!
STSH (R225, R226, R229, R380): from its operands on, what it does for an entry that is not held yet.
-/
namespace Sys2Proof.Machine

open Sys2Proof

/-! ### The state that the algorithm of R229 starts from -/

theorem State.seq_of_cmd {s : State} {q : Nat} {c : Cmd} (h : s.cmd q = some c) : c.seq = some q := by
  simpa using List.find?_some h

theorem State.rdFails_append {s : State} {l m : List (Nat × Nat)} (hl : s.rdFails l = none) (hm : s.rdFails m = none) :
    s.rdFails (l ++ m) = none := by
  induction l with
  | nil => exact hm
  | cons r l ih =>
    obtain ⟨a, n⟩ := r
    rw [State.rdFails] at hl
    rw [List.cons_append, State.rdFails]
    split at hl
    · cases hl
    · exact ih hl

/-- STSH has read its operands, and a region that was pending has taken effect where it may. -/
def State.stashReady (s : State) (q : Nat) (c : Cmd) : State :=
  ((s.readOperands q ([(c.u 16 8, 64)] ++ (s.tdAt (c.u 16 8)).ranges)).newStash c.step).applyRegion

section Ready

variable {s : State} {q : Nat} {c : Cmd}

theorem State.stashReady_frame : Frame [.ms, .hg, .ham, .ld, .irq, .pcie, .im, .fab, .ctrs, .free, .out] s (s.stashReady q c) :=
  (((State.readOperands_frame ..).mono rfl).comp (State.newStash_frame ..) rfl).comp (State.applyRegion_frame _) rfl

theorem State.stashReady_cmds : (s.stashReady q c).hg.cmds = s.hg.cmds := by
  unfold State.stashReady
  rw [(State.applyRegion_frame _).hg_eq rfl, (State.newStash_frame ..).hg_eq rfl, State.readOperands_cmds]

theorem State.stashReady_data : s.SameData (s.stashReady q c) :=
  ((State.readOperands_data ..).trans ((State.newStash_frame ..).sameData rfl)).trans ((State.applyRegion_frame _).sameData rfl)

/-- The Hamper, and where units lie, are as if no operand had been read. -/
theorem State.stashReady_region (hread : s.rdFails [(c.u 16 8, 64)] = none)
    (hops : s.rdFails (s.tdAt (c.u 16 8)).ranges = none) :
    (s.stashReady q c).ham = (s.newStash c.step).applyRegion.ham ∧
      (s.newStash c.step).applyRegion.SameRegion (s.stashReady q c) := by
  have haccess := State.SameAccess.readOperands q (State.rdFails_append hread hops)
  have hframe := s.readOperands_frame q ([(c.u 16 8, 64)] ++ (s.tdAt (c.u 16 8)).ranges)
  have hham : (s.stashReady q c).ham = (s.newStash c.step).applyRegion.ham :=
    State.applyRegion_ham_of (State.newStash_ham_of haccess.ham haccess.regs (hframe.same .mv (by decide)) c.step)
  refine ⟨hham, .of_ham hham ?_⟩
  have hms {t : State} : (t.newStash c.step).applyRegion.ms = t.ms :=
    ((State.applyRegion_frame _).same .ms (by decide)).trans ((State.newStash_frame ..).same .ms (by decide))
  obtain ⟨_, _, hmode⟩ := haccess.ms
  unfold State.stashReady
  rw [hms, hms, hmode]

theorem State.SameData.tensorVals {s t : State} (h : s.SameData t) (x : Td) : t.tensorVals x = s.tensorVals x := by
  have hrdNat : t.rdNat = s.rdNat := funext fun a => funext (h.rdNat a)
  unfold State.tensorVals State.elemVal State.fourVal State.int8Scale State.int8At State.laneEntry
  rw [hrdNat]

/-- What STSH converts is decided by the bytes in memory. -/
theorem State.SameData.stashData {s t : State} (h : s.SameData t) (c : Cmd) : t.stashData c = s.stashData c := by
  simp only [State.stashData, State.lanesClash, State.laneEntry, h.tdAt, h.tensorVals, h.rdNat]

/-- A started STSH whose operands can be read, for an entry that is not held. -/
theorem State.runStsh_of_operands (hc : s.cmd q = some c) (hop : c.opcode = 0x28) (hstage : c.stage = .started)
    (htaint : c.tainted = false)
    (hops : s.Operands [(c.u 16 8, 64)] (s.tdOk (c.u 16 8)) (s.tdAt (c.u 16 8)).ranges [])
    (hnew : s.entry c.step c.mb c.block = none) :
    s.runStsh q = if c.block % (s.stashReady q c).ham.stride ≠ 0 then
      (s.stashReady q c).drop c q (s.stashReady q c).ham.stored else (s.stashReady q c).stash c q none := by
  have hentry : (s.stashReady q c).entry c.step c.mb c.block = none := by
    have hham := (s.readOperands_frame q ([(c.u 16 8, 64)] ++ (s.tdAt (c.u 16 8)).ranges)).ham_eq rfl
    unfold State.entry State.stashReady
    rw [State.applyRegion_entries, State.newStash_entries, hham]
    exact hnew
  unfold State.runStsh
  simp only [hc, hop, htaint, hstage]
  rw [if_neg (by simp), if_neg (by simp), if_neg (by simp)]
  refine (State.withOperands_of_operands hops).trans ?_
  change (match (s.stashReady q c).entry c.step c.mb c.block with | some _ => _ | none => _) = _
  rw [hentry]
  rfl

end Ready

/-! ### The entry is stored (R380) -/

section Store

variable {s : State} {q n : Nat} {c : Cmd} {d : StashData}

/-- A region with room takes the entry as it is. -/
theorem State.stash_of_fits (hfits : s.fits s.ham.stored (unitsFor (s.stashData c).bytes.length) = true) :
    s.stash c q none =
      (s.store c q s.ham.stored true (s.stashData c)).endStash c q (s.stashData c) (s.tensorVals (s.tdAt (c.u 16 8))).length := by
  have hloop (k : Nat) : s.stashLoop q c.block s.ham.stored (s.stashData c).bytes.length (k + 1) = .kept s := by
    simp only [State.stashLoop, hfits, if_true]
  unfold State.stash
  dsimp only [Option.getD_none]
  rw [show s.ham.entries.length + 8 = s.ham.entries.length + 7 + 1 from rfl, hloop]
  rfl

/-- The entry that STSH stores in the units that R380 gives it. -/
def State.newEntry (s : State) (c : Cmd) (number : Nat) (d : StashData) : HamperEntry :=
  { number := number, step := c.step, mb := c.mb, block := c.block, place := .resident, fmt := c.stashFmt
    size := d.bytes.length, src := s.rd (c.u 16 8) 64, units := s.placeUnits number (unitsFor d.bytes.length), window := 0
    reading := false }

@[simp] theorem State.newEntry_size (s : State) (c : Cmd) (number : Nat) (d : StashData) :
    (s.newEntry c number d).size = d.bytes.length := rfl

/-- The Hamper with the entry, which has the next number. -/
def State.withEntry (s : State) (c : Cmd) (d : StashData) : State :=
  { s with ham := { s.ham with
    entries := s.ham.entries ++ [s.newEntry c s.ham.stored d], stored := (s.ham.stored + 1) % 2 ^ 32
    gone := s.ham.gone.filter fun k => k != c.key } }

theorem State.withEntry_frame : Frame [.ham] s (s.withEntry c d) := Frame.upd Frame.refl

theorem State.regionUsed_withEntry : (s.withEntry c d).regionUsed = s.regionUsed + 4096 * unitsFor d.bytes.length := by
  simp [State.regionUsed, State.withEntry, State.newEntry]

/-- Below the mark nothing is spilled (R228). -/
theorem State.spillHigh_of_low {a : Option Nat} (h : s.regionUsed * 16 ≤ s.ham.spillHigh * (s.ham.size * 2 ^ 30)) :
    s.spillHigh a = s := by
  unfold State.spillHigh
  rw [if_pos (.inr h)]

theorem State.fillUnits_cmds (q : Nat) (us : List Nat) (l : List Byte) : (s.fillUnits q us l).hg.cmds = s.hg.cmds := by
  induction us generalizing s l with
  | nil => rfl
  | cons a us ih =>
    refine (ih _).trans ?_
    rw [State.traffic_cmds, (State.noteWrite_frame ..).hg_eq rfl, State.wr_cmds]

/-- Filling the units of an entry changes memory in them. -/
theorem State.rdByte_fillUnits_out (hs : s.Inv) (q : Nat) {us : List Nat} {l : List Byte} {j : Nat}
    (hj : outside (us.map fun a => (a, 4096)) j) : (s.fillUnits q us l).rdByte j = s.rdByte j := by
  induction us generalizing s l with
  | nil => rfl
  | cons a us ih =>
    have hhead := hj (a, 4096) (by simp)
    have hpiece : (l.take 4096).length ≤ 4096 := List.length_take_le ..
    have hframe := ((State.noteWrite_frame (s.wr a (l.take 4096)) q a (l.take 4096).length).mono (l := [.hg, .im, .ctrs, .free])
      rfl).comp (State.traffic_frame _ (some q) true a (l.take 4096).length) rfl
    refine (ih (hframe.inv ((State.wr_frame ..).inv hs)) fun r hr => hj r (List.mem_cons_of_mem _ hr)).trans ?_
    refine ((hframe.sameData rfl).rdByte j).trans (State.rdByte_wr_out hs ?_)
    dsimp only at hhead
    omega

/-- The entry is stored, and its units are filled. -/
def State.filled (s : State) (q : Nat) (c : Cmd) (d : StashData) : State :=
  ((s.withEntry c d).fillUnits q (s.newEntry c s.ham.stored d).units d.bytes).evt (some q) 0x50 1

theorem State.filled_ham : (s.filled q c d).ham = (s.withEntry c d).ham :=
  ((State.evt_frame ..).ham_eq rfl).trans ((State.fillUnits_frame ..).ham_eq rfl)

theorem State.filled_cmds : (s.filled q c d).hg.cmds = s.hg.cmds := (State.evt_cmds ..).trans (State.fillUnits_cmds ..)

theorem State.rdByte_filled_out (hs : s.Inv) {j : Nat}
    (hj : outside ((s.newEntry c s.ham.stored d).units.map fun a => (a, 4096)) j) : (s.filled q c d).rdByte j = s.rdByte j :=
  calc (s.filled q c d).rdByte j
      = ((s.withEntry c d).fillUnits q (s.newEntry c s.ham.stored d).units d.bytes).rdByte j :=
        ((State.evt_frame ..).sameData rfl).rdByte j
    _ = (s.withEntry c d).rdByte j := State.rdByte_fillUnits_out (State.withEntry_frame.inv hs) q hj
    _ = s.rdByte j := (State.withEntry_frame.sameData rfl).rdByte j

/-- Storing an entry below the mark spills nothing. -/
theorem State.store_of_low
    (hlow : (s.regionUsed + 4096 * unitsFor d.bytes.length) * 16 ≤ s.ham.spillHigh * (s.ham.size * 2 ^ 30)) :
    s.store c q s.ham.stored true d = s.filled q c d := by
  refine State.spillHigh_of_low (s := s.filled q c d) ?_
  rw [State.regionUsed_of_ham State.filled_ham, State.filled_ham, State.regionUsed_withEntry]
  exact hlow

/-- The conversion is counted and STSH delivered. -/
theorem State.endStash_delivers (hc : (s.cmd q).isSome) (hseq : c.seq = some q) :
    ∃ x, (s.endStash c q d n).cmd q = some x ∧ x.stage = .delivered := by
  unfold State.endStash
  rw [hseq]
  refine State.exists_cmd_deliver ?_
  rw [State.isSome_cmd_addVnCheck, State.isSome_cmd_addCond]
  refine Eq.trans (congrArg Option.isSome (State.cmd_of_cmds ?_ q)) hc
  simp only [State.evt_cmds, State.freeStep_hg, State.countOn_hg]

end Store

/-! ### The two outcomes -/

section Outcomes

variable {s : State} {q : Nat} {c : Cmd}

/-- What a state must show in which STSH has kept the entry. -/
structure State.Stashed (s : State) (q : Nat) (c : Cmd) (t : State) : Prop where
  ham : t.ham = (s.withEntry c (s.stashData c)).ham
  memory : ∀ j, outside ((s.newEntry c s.ham.stored (s.stashData c)).units.map fun a => (a, 4096)) j → t.rdByte j = s.rdByte j
  delivered : ∃ d, t.cmd q = some d ∧ d.stage = .delivered

theorem State.stashed_of_fits (hs : s.Inv) (hc : s.cmd q = some c)
    (hfits : s.fits s.ham.stored (unitsFor (s.stashData c).bytes.length) = true)
    (hlow : (s.regionUsed + 4096 * unitsFor (s.stashData c).bytes.length) * 16 ≤ s.ham.spillHigh * (s.ham.size * 2 ^ 30)) :
    s.Stashed q c (s.stash c q none) := by
  rw [State.stash_of_fits hfits, State.store_of_low hlow]
  constructor
  case ham => exact ((State.endStash_frame ..).ham_eq rfl).trans State.filled_ham
  case memory => exact fun j hj => (((State.endStash_frame ..).sameData rfl).rdByte j).trans (State.rdByte_filled_out hs hj)
  case delivered =>
    refine State.endStash_delivers ?_ (State.seq_of_cmd hc)
    rw [State.cmd_of_cmds State.filled_cmds, hc]
    rfl

/-- The entry that is not kept is named as gone. -/
theorem State.drop_ham (n : Nat) : (s.drop c q n).ham = (s.notKept c).ham := by
  unfold State.drop
  rw [(State.deliver_frame ..).ham_eq rfl, (State.addCond_frame ..).ham_eq rfl, (State.evt_frame ..).ham_eq rfl,
    (State.logHamper_frame ..).ham_eq rfl, (State.bump_frame ..).ham_eq rfl]

theorem State.cmd_drop (hc : s.cmd q = some c) (n : Nat) :
    ∃ d, (s.drop c q n).cmd q = some d ∧ d.stage = .delivered ∧ d.ind = c.ind ||| 16#16 := by
  unfold State.drop
  refine ⟨_, State.cmd_deliver (State.cmd_addCond ?_ [] 16#16), rfl, rfl⟩
  rw [State.cmd_of_cmds (State.evt_cmds ..), State.cmd_of_cmds (s := s) ?_, hc]
  rw [(State.logHamper_frame ..).hg_eq rfl, (State.bump_frame ..).hg_eq rfl, (State.notKept_frame ..).hg_eq rfl]

end Outcomes

/-- Settles O44: STSH meets the Hamper that it would meet without reading its operands; the region that fits takes the entry in one
turn of R229's algorithm, and a block off the stride is dropped before it. -/
theorem theStashKeepsOrDropsAnEntry : Obligations.TheStashKeepsOrDropsAnEntry := by
  unfold Obligations.TheStashKeepsOrDropsAnEntry
  refine ⟨?kept, ?dropped, ?written, ?applied⟩
  case kept =>
    intro s u q n c hs hc hop hstage htaint hops hnew hu hstride hn hfits _ hlow
    have hrun := State.runStsh_of_operands hc hop hstage htaint hops hnew
    obtain ⟨-, hread, -, -, hopsRead, -⟩ := hops
    obtain ⟨hham, hregion⟩ := State.stashReady_region (q := q) hread hopsRead
    rw [← hu] at hham hregion
    have hdata : (s.stashReady q c).stashData c = s.stashData c := State.stashReady_data.stashData c
    have hstored : u.ham.stored = s.ham.stored := by rw [hu]; simp
    have hentries : u.ham.entries = s.ham.entries := by rw [hu]; simp
    have hused : (s.stashReady q c).regionUsed = u.regionUsed := State.regionUsed_of_ham hham
    have hkept : (s.stashReady q c).Stashed q c ((s.stashReady q c).stash c q none) := by
      refine State.stashed_of_fits (State.stashReady_frame.inv hs) ((State.cmd_of_cmds State.stashReady_cmds q).trans hc) ?_ ?_
      · rw [hdata, ← hn, hregion.fits, hham, hstored]
        exact hfits
      · rw [hdata, ← hn, hused, hham]
        exact hlow
    rw [hham, if_neg (not_not_intro hstride)] at hrun
    rw [← hrun] at hkept
    have hunits : ((s.stashReady q c).newEntry c s.ham.stored (s.stashData c)).units = u.placeUnits s.ham.stored (unitsFor n) := by
      rw [hn]
      exact hregion.placeUnits ..
    obtain ⟨htham, hmemory, hdelivered⟩ := hkept
    rw [hdata, hham, hstored] at hmemory
    rw [hdata] at htham
    refine ⟨_, (s.stashReady q c).newEntry c s.ham.stored (s.stashData c), rfl, ?entries, rfl, rfl, rfl, rfl, ?size, ?units, ?stored,
      ?memory, hdelivered⟩
    case entries =>
      rw [htham]
      simp only [State.withEntry, hham, hstored, hentries]
    case size => exact (State.newEntry_size ..).trans hn.symm
    case units => exact hunits
    case stored =>
      rw [htham]
      simp only [State.withEntry, hham, hstored]
    case memory =>
      exact fun j hj => (hmemory j hj).trans (State.stashReady_data.rdByte j)
  case dropped =>
    intro s q c hs hc hop hstage htaint hops hnew hstride
    have hrun := State.runStsh_of_operands hc hop hstage htaint hops hnew
    obtain ⟨-, hread, -, -, hopsRead, -⟩ := hops
    obtain ⟨hham, -⟩ := State.stashReady_region (q := q) hread hopsRead
    rw [hham, if_pos hstride] at hrun
    have hcmd : (s.stashReady q c).cmd q = some c := (State.cmd_of_cmds State.stashReady_cmds q).trans hc
    refine ⟨_, congrArg Host.Outcome.next hrun, ?_, ?_, fun j => ?_, State.cmd_drop hcmd _⟩
    · rw [State.drop_ham]
      simp [State.notKept, hham]
    · rw [State.drop_ham]
      exact List.mem_cons_self
    · exact (((State.drop_frame ..).sameData rfl).rdByte j).trans (State.stashReady_data.rdByte j)
  case written =>
    intro s m v howns hlands
    refine ⟨_, rfl, ?_⟩
    rw [State.regionWrite_pending (by simpa [State.owns, State.owner] using howns)
      ((State.regLands_of_tb (State.reachedBy_tb s m) m).trans hlands), (State.reachedBy_frame s m).ham_eq rfl]
  case applied =>
    intro s off size hp
    refine ⟨_, rfl, fun he => ?_, fun he => State.applyRegion_held he⟩
    rw [State.applyRegion_empty hp he]
    exact ⟨rfl, rfl, rfl⟩

end Sys2Proof.Machine
end

section
/-!
What reading and writing memory leave of the Host Gate: its rings alone count the events. Commands, steps, journal and numbers stay.
-/
namespace Sys2Proof.Machine

open Sys2Proof

/-- Of the Host Gate nothing but the rings has changed. -/
def State.OnlyRings (s t : State) : Prop := ∃ r, t.hg = { s.hg with rings := r }

namespace State.OnlyRings

variable {s t u : State}

theorem refl : OnlyRings s s := ⟨_, rfl⟩

theorem trans (h : OnlyRings s t) (k : OnlyRings t u) : OnlyRings s u := by
  obtain ⟨_, hr⟩ := h
  obtain ⟨r, kr⟩ := k
  exact ⟨r, by rw [kr, hr]⟩

theorem symm (h : OnlyRings s t) : OnlyRings t s := by
  obtain ⟨_, hr⟩ := h
  exact ⟨s.hg.rings, by rw [hr]⟩

theorem of_frame {l : List Comp} (h : Frame l s t) (hl : l.contains .hg = false) : OnlyRings s t := ⟨_, h.hg_eq hl⟩

theorem foldl {α : Type} {f : State → α → State} (hf : ∀ v x, OnlyRings v (f v x)) (l : List α) (s : State) :
    OnlyRings s (l.foldl f s) :=
  List.foldlRecOn l f refl fun v hv x _ => hv.trans (hf v x)

theorem cmds (h : OnlyRings s t) : t.hg.cmds = s.hg.cmds := by
  obtain ⟨_, hr⟩ := h
  rw [hr]

theorem steps (h : OnlyRings s t) : t.hg.steps = s.hg.steps := by
  obtain ⟨_, hr⟩ := h
  rw [hr]

theorem journal (h : OnlyRings s t) : t.hg.journal = s.hg.journal := by
  obtain ⟨_, hr⟩ := h
  rw [hr]

theorem nextId (h : OnlyRings s t) : t.hg.nextId = s.hg.nextId := by
  obtain ⟨_, hr⟩ := h
  rw [hr]

theorem cmd (h : OnlyRings s t) (q : Nat) : t.cmd q = s.cmd q := State.cmd_of_cmds h.cmds q

theorem updCmd (h : OnlyRings s t) (q : Nat) (f : Cmd → Cmd) : OnlyRings (s.updCmd q f) (t.updCmd q f) := by
  obtain ⟨r, hr⟩ := h
  exact ⟨r, by simp only [State.updCmd, hr]⟩

/-! ### Events -/

theorem evt (s : State) (q : Option Nat) (k n : Nat) : OnlyRings s (s.evt q k n) := by
  unfold State.evt
  extract_lets counted
  split
  · exact refl
  · extract_lets d
    split <;> exact ⟨_, rfl⟩

theorem evtU (s : State) (k n : Nat) : OnlyRings s (s.evtU k n) := ⟨_, rfl⟩

theorem traffic (s : State) (q : Option Nat) (w : Bool) (a n : Nat) : OnlyRings s (s.traffic q w a n) := by
  have hpiece (v : State) (x : Nat × Nat) : OnlyRings v (v.countPiece (s.workerOf q) q w x) := by
    unfold State.countPiece
    extract_lets
    split
    · exact (evt ..).trans (evt ..)
    · exact refl
  exact ((foldl hpiece _ s).trans (evtU ..)).trans (of_frame (State.freeStep_frame _) rfl)

/-! ### Reads -/

theorem noteMerge (s : State) (cw : Nat) : OnlyRings s (s.noteMerge cw) := by
  unfold State.noteMerge
  split
  · exact refl
  · exact ((of_frame (State.countCorr_frame ..) rfl).trans (evtU ..)).trans (of_frame (State.stackError_frame ..) rfl)
  · exact (of_frame (State.bump_frame ..) rfl).trans (of_frame (State.stackError_frame ..) rfl)

theorem noteCw (s : State) (cw : Nat) : OnlyRings s (s.noteCw cw) := by
  have hmerge := noteMerge s cw
  have hbump (off : Nat) : OnlyRings s ((s.noteMerge cw).bump off) := hmerge.trans (of_frame (State.bump_frame ..) rfl)
  unfold State.noteCw
  extract_lets
  split
  · exact hmerge
  split
  · exact hbump _
  split
  · exact hbump _
  · exact hmerge

theorem noteReads (s : State) (l : List (Nat × Nat)) : OnlyRings s (s.noteReads l) := by
  induction l generalizing s with
  | nil => exact refl
  | cons r l ih =>
    unfold State.noteReads
    refine OnlyRings.trans ?_ (ih _)
    split
    · exact refl
    · exact foldl noteCw _ _

theorem readOperands (s : State) (q : Nat) (l : List (Nat × Nat)) : OnlyRings s (s.readOperands q l) :=
  foldl (fun v r => (noteReads v [r]).trans (traffic ..)) l s

/-! ### Writes -/

theorem wr (s : State) (a : Nat) (l : List Byte) : OnlyRings s (s.wr a l) := by
  have hcw (v : State) (cw : Nat) : OnlyRings v
      (if wholeCw a l.length cw then v.setMeta cw false (v.zoneOf (cw * 32)) else v.mergeCw cw) := by
    split
    · exact of_frame (State.setMeta_frame ..) rfl
    · exact ((noteMerge v cw).trans (of_frame (State.settle_frame ..) rfl)).trans (of_frame (State.setMeta_frame ..) rfl)
  unfold State.wr
  split
  · exact of_frame (State.putBytes_frame ..) rfl
  · exact (foldl hcw _ s).trans (of_frame (State.putBytes_frame ..) rfl)

theorem writeAll (s : State) (q : Nat) (l : List (Nat × List Byte)) : OnlyRings s (s.writeAll (some q) l) := by
  induction l generalizing s with
  | nil => exact refl
  | cons x l ih =>
    obtain ⟨a, bytes⟩ := x
    exact (((wr s a bytes).trans (traffic ..)).trans (of_frame (State.noteWrite_frame _ q a bytes.length) rfl)).trans (ih _)

theorem opened (s : State) (n : Nat) (d : Td) : OnlyRings s (s.opened n d) := by
  rcases State.opened_cases s n d with h | ⟨_, r, _, h⟩ <;> rw [h]
  · exact refl
  · exact wr ..

end State.OnlyRings

end Sys2Proof.Machine
end

section
/-!
What decides whether a read fails, and whether the command that wrote lost bytes can write them again (R290, R369, R374, R375): states
that agree on it still agree after one write to both. RECOMP opens its record in a state that has taken its references (R224), which
decide nothing here.
-/
namespace Sys2Proof.Machine

open Sys2Proof

/-! ### The note of what commands have written (R290) -/

@[simp] theorem State.written_logRec (s : State) (u coord kind : Nat) (ring seq : Option Nat) (data : Nat) :
    (s.logRec u coord kind ring seq data).im.written = s.im.written := by
  unfold State.logRec
  extract_lets
  split <;> rfl

@[simp] theorem State.written_triggerLog (s : State) (u cause : Nat) : (s.triggerLog u cause).im.written = s.im.written := by
  unfold State.triggerLog
  extract_lets
  split <;> rfl

@[simp] theorem State.written_trigger (s : State) (cause : Nat) : (s.trigger cause).im.written = s.im.written := by
  unfold State.trigger
  extract_lets gated l logged
  have hlogged : logged.im.written = s.im.written :=
    List.foldlRecOn (motive := fun u : State => u.im.written = s.im.written) l _ rfl
      fun u hu n _ => (u.written_triggerLog n cause).trans hu
  split
  · exact hlogged
  · rw [(State.arrive_frame ..).im_eq rfl, hlogged]

@[simp] theorem State.written_cper (s : State) (b : CperBody) : (s.cper b).im.written = s.im.written := by
  unfold State.cper
  extract_lets w _ recorded
  have hrecorded : recorded.im.written = s.im.written := by
    unfold recorded
    split
    · rfl
    · rw [(State.arrive_frame ..).im_eq rfl]
  rw [State.written_trigger]
  exact (State.written_logRec ..).trans hrecorded

/-! ### Agreement -/

/-- What decides whether a read fails, and whether its writer can write lost bytes again, is the same in both states. -/
structure State.SameLoss (s t : State) : Prop where
  ms : ∃ l m r, t.ms = { s.ms with targeted := l, lastTarget := m, remapping := r }
  regs : t.regs = s.regs
  written : t.im.written = s.im.written
  gate : s.OnlyRings t

namespace State.SameLoss

variable {s t u : State}

theorem refl : SameLoss s s := ⟨⟨_, _, _, rfl⟩, rfl, rfl, .refl⟩

theorem trans (h : SameLoss s t) (k : SameLoss t u) : SameLoss s u := by
  obtain ⟨_, _, _, hms⟩ := h.ms
  obtain ⟨l, m, r, kms⟩ := k.ms
  exact ⟨⟨l, m, r, by rw [kms, hms]⟩, k.regs.trans h.regs, k.written.trans h.written, h.gate.trans k.gate⟩

theorem symm (h : SameLoss s t) : SameLoss t s := by
  obtain ⟨_, _, _, hms⟩ := h.ms
  exact ⟨⟨s.ms.targeted, s.ms.lastTarget, s.ms.remapping, by rw [hms]⟩, h.regs.symm, h.written.symm, h.gate.symm⟩

theorem of_frame {l : List Comp} (h : Frame l s t) (hms : l.contains .ms = false) (hregs : l.contains .regs = false)
    (hwritten : t.im.written = s.im.written) (hgate : s.OnlyRings t) : SameLoss s t :=
  ⟨⟨_, _, _, h.same .ms (by simpa using hms)⟩, h.same .regs (by simpa using hregs), hwritten, hgate⟩

theorem of_silent {l : List Comp} (h : Frame l s t) (hms : l.contains .ms = false) (hregs : l.contains .regs = false)
    (him : l.contains .im = false) (hhg : l.contains .hg = false) : SameLoss s t :=
  of_frame h hms hregs (congrArg Integrity.written (h.im_eq him)) (.of_frame h hhg)

/-! #### What is decided -/

theorem data (h : SameLoss s t) : s.SameData t := by
  obtain ⟨_, _, _, hms⟩ := h.ms
  exact ⟨by rw [hms], by rw [hms]⟩

theorem poisoned (h : SameLoss s t) (cw : Nat) : t.poisoned cw = s.poisoned cw := by
  obtain ⟨_, _, _, hms⟩ := h.ms
  simp only [State.poisoned, hms]

theorem zoneOf (h : SameLoss s t) (a : Nat) : t.zoneOf a = s.zoneOf a := by
  have hgo (gib k : Nat) : t.zoneGo gib k = s.zoneGo gib k := by
    induction k with
    | zero => rfl
    | succ k ih => simp only [State.zoneGo, State.fld_of_regs h.regs, ih]
  simp only [State.zoneOf, hgo]

theorem cwBad (h : SameLoss s t) (cw : Nat) : t.cwBad cw = s.cwBad cw := by
  obtain ⟨_, _, _, hms⟩ := h.ms
  simp only [State.cwBad, State.zoneClash, State.zoneTag, h.poisoned, h.zoneOf, h.data.upset, hms]

theorem rdFail (h : SameLoss s t) (a n : Nat) : t.rdFail a n = s.rdFail a n := by
  obtain ⟨_, _, _, hms⟩ := h.ms
  have hbad : t.cwBad = s.cwBad := funext h.cwBad
  simp only [State.rdFail, hbad, hms]

theorem writeFail (h : SameLoss s t) (l : List (Nat × Nat)) : t.writeFail l = s.writeFail l := by
  unfold State.writeFail
  induction l.filter fun r => isHost r.1 with
  | nil => rfl
  | cons r l ih => simp only [State.rdFails, h.rdFail, ih]

theorem lostWriter (h : SameLoss s t) (a : Nat) : t.lostWriter a = s.lostWriter a := by
  have hcmd : t.cmd = s.cmd := funext h.gate.cmd
  have hstep : t.stepInfo = s.stepInfo := funext (State.stepInfo_of_steps h.gate.steps)
  unfold State.lostWriter
  rw [h.written, hcmd, hstep, h.gate.journal]

theorem entryLost (h : SameLoss s t) (e : HamperEntry) : t.entryLost e = s.entryLost e := by
  have hbad : t.cwBad = s.cwBad := funext h.cwBad
  simp only [State.entryLost, h.lostWriter, hbad]

/-! #### Errors that are noted -/

theorem bump (s : State) (off n : Nat) : SameLoss s (s.bump off n) := of_silent (State.bump_frame ..) rfl rfl rfl rfl

theorem cper (s : State) (b : CperBody) : SameLoss s (s.cper b) :=
  of_frame (State.cper_frame ..) rfl rfl (State.written_cper s b) (.of_frame (State.cper_frame ..) rfl)

theorem noteError (s : State) (x : UnitId) : SameLoss s (s.noteError x).1 := by
  refine of_frame (State.noteError_frame s x) rfl rfl ?_ (.of_frame (State.noteError_frame s x) rfl)
  unfold State.noteError
  extract_lets
  split <;> rfl

theorem startRemap (s : State) (st pch row mech syn : Nat) : SameLoss s (s.startRemap st pch row mech syn) := by
  unfold State.startRemap
  split
  · exact refl
  extract_lets
  split
  · exact cper ..
  · exact ⟨⟨_, _, _, rfl⟩, rfl, rfl, ⟨_, rfl⟩⟩

theorem stackError (s : State) (cw : Nat) (bad : Bool) (syn : Nat) : SameLoss s (s.stackError cw bad syn) := by
  unfold State.stackError
  split
  · exact refl
  extract_lets unit counted recorded _ targeted
  have hrecorded : SameLoss s recorded := by
    unfold recorded
    split
    · exact noteError s unit
    · exact ((noteError s unit).trans (bump _ 0x2800418 1)).trans (cper ..)
  have htargeted : SameLoss s targeted := by
    unfold targeted
    split
    · exact hrecorded
    · exact hrecorded.trans ⟨⟨_, _, _, rfl⟩, rfl, rfl, ⟨_, rfl⟩⟩
  split
  · exact htargeted.trans (startRemap ..)
  · exact htargeted

theorem noteMerge (s : State) (cw : Nat) : SameLoss s (s.noteMerge cw) := by
  have hevent (v : State) : SameLoss v (v.evtU 0x36 1) := ⟨⟨_, _, _, rfl⟩, rfl, rfl, ⟨_, rfl⟩⟩
  unfold State.noteMerge
  split
  · exact refl
  · have hcount : SameLoss s (s.countCorr cw) := of_silent (State.countCorr_frame ..) rfl rfl rfl rfl
    exact (hcount.trans (hevent _)).trans (stackError ..)
  · exact (bump s 0x1000340 1).trans (stackError ..)

/-! #### One write to both -/

theorem putBytes (h : SameLoss s t) (a : Nat) (l : List Byte) : SameLoss (s.putBytes a l) (t.putBytes a l) := by
  induction l generalizing s t a with
  | nil => exact h
  | cons b l ih =>
    refine ih (s := s.putByte a b) (t := t.putByte a b) ?_ (a + 1)
    obtain ⟨_, _, _, hms⟩ := h.ms
    exact ⟨⟨_, _, _, by simp only [State.putByte, hms]; rfl⟩, h.regs, h.written, h.gate⟩

theorem setMeta (h : SameLoss s t) (cw : Nat) (p : Bool) (z : Nat) : SameLoss (s.setMeta cw p z) (t.setMeta cw p z) := by
  obtain ⟨_, _, _, hms⟩ := h.ms
  exact ⟨⟨_, _, _, by simp only [State.setMeta, hms]; rfl⟩, h.regs, h.written, h.gate⟩

theorem settle (h : SameLoss s t) (cw : Nat) : SameLoss (s.settle cw) (t.settle cw) := by
  unfold State.settle
  rw [h.data.upset, h.data.rd]
  split
  · exact h
  · exact h.putBytes ..

theorem mergeCw (h : SameLoss s t) (cw : Nat) : SameLoss (s.mergeCw cw) (t.mergeCw cw) := by
  have hmerged : SameLoss (s.noteMerge cw) (t.noteMerge cw) := ((noteMerge s cw).symm.trans h).trans (noteMerge t cw)
  have hsettled := hmerged.settle cw
  unfold State.mergeCw
  dsimp only
  rw [h.data.upset, h.poisoned, hmerged.zoneOf]
  exact hsettled.setMeta ..

theorem wr (h : SameLoss s t) (a : Nat) (l : List Byte) : SameLoss (s.wr a l) (t.wr a l) := by
  unfold State.wr
  split
  · exact h.putBytes ..
  refine putBytes ?_ a l
  generalize cwsOf a l.length = cws
  induction cws generalizing s t with
  | nil => exact h
  | cons cw cws ih =>
    refine ih ?_
    dsimp only
    rw [h.zoneOf]
    split
    · exact h.setMeta ..
    · exact h.mergeCw cw

/-- Opening the record of an output in both. -/
theorem openOut (h : SameLoss s t) {n : Nat} {d : Td} (hu : s.openOut n d = some u) :
    ∃ v, t.openOut n d = some v ∧ u.SameLoss v := by
  have hhist : t.histAt d.hist = s.histAt d.hist := h.data.histAt d.hist
  unfold State.openOut State.openHist at hu ⊢
  rw [hhist]
  split at hu
  · cases hu
  next hbase =>
  rw [if_neg hbase]
  split at hu
  next hnone =>
    rw [if_pos hnone]
    exact ⟨t, rfl, Option.some.inj hu ▸ h⟩
  next hsome =>
  rw [if_neg hsome]
  dsimp only at hu ⊢
  split at hu
  · cases hu
  next hlive =>
  rw [if_neg hlive]
  split at hu
  next hopen =>
    rw [if_pos hopen]
    exact ⟨t, rfl, Option.some.inj hu ▸ h⟩
  next hclosed =>
    rw [if_neg hclosed]
    exact ⟨_, rfl, Option.some.inj hu ▸ h.wr ..⟩

end State.SameLoss

end Sys2Proof.Machine
end

section
/-!
Restoring an entry (R221, R226, R382): the record of its block input is opened, and the entry either is read back first or is
converted into the tensor that STSH read.
-/
namespace Sys2Proof.Machine

open Sys2Proof

/-! ### The record is opened (R187, R189) -/

/-- A write moves no stack byte to another address (R363). -/
theorem State.interleave_wr (s : State) (a : Nat) (l : List Byte) : (s.wr a l).ms.interleave = s.ms.interleave := by
  have hbytes (v : State) (a : Nat) (l : List Byte) : (v.putBytes a l).ms.interleave = v.ms.interleave := by
    induction l generalizing v a with
    | nil => rfl
    | cons b l ih => exact ih ..
  have hmerge (v : State) (cw : Nat) : (v.mergeCw cw).ms.interleave = v.ms.interleave := by
    obtain ⟨_, _, _, hms⟩ := (State.SameLoss.noteMerge v cw).ms
    change ((v.noteMerge cw).settle cw).ms.interleave = _
    unfold State.settle
    split
    · rw [hms]
    · rw [hbytes, hms]
  unfold State.wr
  split
  · exact hbytes ..
  · refine (hbytes ..).trans (List.foldlRecOn (motive := fun v : State => v.ms.interleave = s.ms.interleave) _ _ rfl ?_)
    intro v hv cw _
    split
    · exact hv
    · exact (hmerge v cw).trans hv

theorem State.interleave_opened (s : State) (n : Nat) (d : Td) : (s.opened n d).ms.interleave = s.ms.interleave := by
  rcases State.opened_cases s n d with h | ⟨_, r, _, h⟩ <;> rw [h]
  exact State.interleave_wr ..

theorem State.opened_of_openOut {s u : State} {n : Nat} {d : Td} (h : s.openOut n d = some u) : s.opened n d = u := by
  rw [State.opened, h, Option.getD_some]

/-- The command has read the range of the conversion that it has begun (R187). -/
def State.withRange (s : State) (q : Nat) (e : HamperEntry) : State :=
  { s with ham := { s.ham with ranges := (q, s.rangeOf (tdOf e.src)) :: s.ham.ranges.filter fun p => p.1 != q } }

theorem State.withRange_frame (s : State) (q : Nat) (e : HamperEntry) : Frame [.ham] s (s.withRange q e) := Frame.upd Frame.refl

/-- What a state `v` must show in which a command has opened the record of the tensor `o`: reads fail in it as in `u`, the state that
opening the record in `s` gives. -/
structure State.BackOpened (s u : State) (o : Td) (v : State) : Prop where
  inv : v.Inv
  memory : ∀ j, outside o.histRange j → v.rdByte j = s.rdByte j
  gate : s.OnlyRings v
  region : s.SameRegion v
  channels : v.mv = s.mv ∧ v.ham.spillChannel = s.ham.spillChannel
  loss : u.SameLoss v

/-- The record of an entry's block input is opened, also after references have been taken. -/
theorem State.openBack_of_open {s w u : State} {c : Cmd} {q : Nat} {e : HamperEntry} (hs : s.Inv) (hw : Frame [.af] s w)
    (hu : s.openOut c.step (tdOf e.src) = some u) :
    ∃ v, s.BackOpened u (tdOf e.src) v ∧ ∀ k, w.openBack c q e k = k v := by
  have hsame : s.SameLoss w := .of_silent hw rfl rfl rfl rfl
  obtain ⟨x, hx, hloss⟩ := hsame.openOut hu
  have hopened := State.opened_of_openOut hx
  have hframe := (hw.mono (l := [.ms, .hg, .ld, .irq, .pcie, .im, .af, .fab, .ctrs, .out]) rfl).comp (State.openOut_frame hx) rfl
  refine ⟨x.withRange q e, ?_, fun k => ?_⟩
  · constructor
    case inv => exact (x.withRange_frame q e).inv (hframe.inv hs)
    case memory =>
      intro j hj
      change x.rdByte j = _
      rw [← hopened, State.rdByte_opened (hw.inv hs) hj, (hw.sameData rfl).rdByte]
    case gate =>
      have hgate : w.OnlyRings x := hopened ▸ State.OnlyRings.opened ..
      exact (State.OnlyRings.of_frame hw rfl).trans hgate
    case region =>
      have hmode : x.ms.interleave = s.ms.interleave := by
        rw [← hopened, State.interleave_opened, hw.same .ms (by decide)]
      have hx : s.SameRegion x := .of_ham (hframe.ham_eq rfl) hmode
      exact ⟨hx.entries, hx.offset, hx.size, hx.interleave⟩
    case channels =>
      have hchannel : x.ham.spillChannel = s.ham.spillChannel := by rw [hframe.ham_eq rfl]
      exact ⟨hframe.same .mv (by decide), hchannel⟩
    case loss => exact hloss.trans (.of_silent (x.withRange_frame q e) rfl rfl rfl rfl)
  · unfold State.openBack
    rw [hx]
    rfl

/-! ### The entry is read back first (R226, R228) -/

/-- An entry that lies in the region, or for which the region has no room, is restored from where it is. -/
theorem State.bringBack_stays {s : State} {e : HamperEntry} (q : Nat)
    (h : e.place ≠ .spilled ∨ e.reading = false ∧ s.fits e.number (unitsFor e.size) = false) : s.bringBack q e = (s, false) := by
  unfold State.bringBack
  split
  · rfl
  next hplace =>
    obtain ⟨hreading, hfits⟩ := h.resolve_left hplace
    simp [hreading, hfits]

/-- The command waits for an entry, which it names behind the mark of a recall. -/
def State.waitsBack (s : State) (q : Nat) (e : HamperEntry) : State :=
  s.updCmd q fun c => { c with stage := .running, children := [2 ^ 64, e.number] }

/-- The entry with the units that it is read back into. -/
def State.broughtEntry (s : State) (e : HamperEntry) : HamperEntry :=
  { e with units := s.placeUnits e.number (unitsFor e.size), reading := true }

theorem State.bringBack_reading {s : State} {e : HamperEntry} (q : Nat) (hplace : e.place = .spilled) (hreading : e.reading = true) :
    s.bringBack q e = (s.waitsBack q e, true) := by
  simp [State.bringBack, State.waitsBack, hplace, hreading]

theorem State.bringBack_fits {s : State} {e : HamperEntry} (q : Nat) (hplace : e.place = .spilled) (hreading : e.reading = false)
    (hfits : s.fits e.number (unitsFor e.size) = true) :
    s.bringBack q e = (((s.waitsBack q e).setEntry (s.broughtEntry e)).queueSpill (.recall e.number) (some q), true) := by
  simp [State.bringBack, State.waitsBack, State.broughtEntry, hplace, hreading, hfits]

theorem State.chan_setChan_same {s : State} (hs : s.Inv) (c : Nat) (h : Channel) : (s.setChan c h).chan c = h := by
  unfold State.chan State.setChan
  rw [Tab.get_set_of_rising hs.tabs.mv, if_pos rfl]

/-- A recall goes at once to a channel that has nothing to do, or waits there while it is halted (R342). -/
theorem State.queueSpill_idle_frame {s : State} (hs : s.Inv) (n : Nat) (q : Option Nat)
    (hqueue : (s.chan s.ham.spillChannel).queue = []) (hcurrent : (s.chan s.ham.spillChannel).current = none) :
    Frame [.mv] s (s.queueSpill (.recall n) q) := by
  unfold State.queueSpill
  extract_lets c h
  generalize hitem : spillItem (.recall n) q s.now = it
  have hkind : it.kind = .recall n := by rw [← hitem]; rfl
  generalize hqueued : s.setChan c { h with queue := queueIn it h.queue } = t
  have ht : Frame [.mv] s t := hqueued ▸ State.setChan_frame ..
  have hchan : t.chan c = { h with queue := [it] } := by
    rw [← hqueued, State.chan_setChan_same hs]
    simp only [h, c, hqueue, queueIn]
  have hturn : ∃ u, t.chanTurn c = .rest u ∧ Frame [.mv] t u := by
    unfold State.chanTurn
    simp only [hchan, h, c, hcurrent, hkind]
    split
    · exact ⟨_, rfl, Frame.refl⟩
    · exact ⟨_, rfl, State.setChan_frame ..⟩
  obtain ⟨u, hu, hframe⟩ := hturn
  have hgo : t.chanGo c = u := by
    simp only [State.chanGo, State.chanFuel, State.chanRun, hu]
  rw [hgo]
  exact ht.comp hframe rfl

/-! ### The entry is converted (R226, R382) -/

/-- Poison changes no byte that is read. -/
theorem State.rdByte_poisonCw {s : State} (hs : s.Inv) (cw j : Nat) : (s.poisonCw cw).rdByte j = s.rdByte j :=
  State.settle_rdByte hs.mem hs.tabs.ms.2.2.1 cw ..

/-- What a conversion makes of its command: its conditions and indications, and one check more. -/
def Cmd.converted (l : List Status) (ind : BitVec 16) (c : Cmd) : Cmd :=
  { c with conds := c.conds ++ l, ind := c.ind ||| ind, checks := c.checks + 1 }

/-- Two changes of one command are one. -/
theorem State.updCmd_updCmd (s : State) (q : Nat) {f : Cmd → Cmd} (g : Cmd → Cmd) (hf : ∀ c, (f c).seq = c.seq) :
    (s.updCmd q f).updCmd q g = s.updCmd q fun c => g (f c) := by
  have hmap : (s.hg.cmds.map fun c => if c.seq == some q then f c else c).map (fun c => if c.seq == some q then g c else c) =
      s.hg.cmds.map fun c => if c.seq == some q then g (f c) else c := by
    rw [List.map_map]
    refine List.map_congr_left fun c _ => ?_
    by_cases hq : (c.seq == some q) = true
    · simp only [Function.comp_apply, if_pos hq, hf]
    · simp only [Function.comp_apply, if_neg hq]
  unfold State.updCmd
  exact congrArg (fun l => { s with hg := { s.hg with cmds := l } }) hmap

theorem State.updCmd_addCond (s : State) (q : Nat) (l : List Status) (ind : BitVec 16) :
    (s.addCond q l ind).updCmd q (fun c => { c with checks := c.checks + 1 }) = s.updCmd q (Cmd.converted l ind) :=
  State.updCmd_updCmd s q (f := fun c => { c with conds := c.conds ++ l, ind := c.ind ||| ind }) _ fun _ => rfl

theorem State.addVnCheck_gate (s : State) (q : Nat) :
    (s.updCmd q fun c => { c with checks := c.checks + 1 }).OnlyRings (s.addVnCheck q) := ⟨_, rfl⟩

/-- The counts of a conversion are events; its conditions arise at the command. -/
theorem State.noteConv_eq (s : State) (q : Nat) (t : Td) (die : Nat → Nat) (v : Conv) :
    ∃ u l ind, s.OnlyRings u ∧ s.noteConv q t die v = u.addCond q l ind := by
  have hcounted (x : State) (f : Nat → Nat) (base : Nat) (l : List Nat) : x.OnlyRings (x.countOn f base l) :=
    .of_frame (State.countOn_frame ..) rfl
  unfold State.noteConv
  extract_lets counted noted
  have hs : s.OnlyRings counted := ((((hcounted ..).trans (hcounted ..)).trans (hcounted ..)).trans (hcounted ..)).trans (hcounted ..)
  have hevents : counted.freeStep.OnlyRings noted :=
    ((((State.OnlyRings.evt ..).trans (.evt ..)).trans (.evt ..)).trans (.evt ..)).trans (.evt ..)
  exact ⟨noted, _, _, (hs.trans (.of_frame (State.freeStep_frame _) rfl)).trans hevents, rfl⟩

/-- A conversion into a tensor changes its command as `Cmd.converted` says, and no other. -/
theorem State.putTensor_gate (s : State) (c : Cmd) (q : Nat) (t : Td) (r : TopRange) (vals pre : List Val) (die : Nat → Nat) :
    ∃ l ind, (s.updCmd q (Cmd.converted l ind)).OnlyRings (s.putTensor c q t r vals pre die) := by
  unfold State.putTensor
  extract_lets v checked
  obtain ⟨u, l, ind, hu, hconv⟩ := (s.writeAll (some q) v.writes).noteConv_eq q t die v
  have hevents : s.OnlyRings u := (State.OnlyRings.writeAll s q v.writes).trans hu
  have hchecked : (u.updCmd q (Cmd.converted l ind)).OnlyRings checked := by
    rw [← State.updCmd_addCond, ← hconv]
    have hfree : ((s.writeAll (some q) v.writes).noteConv q t die v).OnlyRings
        ((s.writeAll (some q) v.writes).noteConv q t die v).freeStep := .of_frame (State.freeStep_frame _) rfl
    exact (hfree.updCmd q _).trans (State.addVnCheck_gate ..)
  clear_value checked
  refine ⟨l, ind, ((hevents.updCmd q _).trans hchecked).trans ?_⟩
  split
  · exact .refl
  · exact ⟨_, rfl⟩

/-- What a state must show in which command `q` has restored an entry to the tensor `o`. -/
structure State.Restored (s : State) (q : Nat) (o : Td) (t : State) : Prop where
  inv : t.Inv
  memory : ∀ j, outside o.ranges j → t.rdByte j = s.rdByte j
  gate : ∃ l ind, (s.updCmd q (Cmd.converted l ind)).OnlyRings t

/-- Restoring an entry writes its tensor (R382: a poisoned source poisons codewords, whose bytes stay). -/
theorem State.restored_restore {s : State} (hs : s.Inv) (c : Cmd) (q : Nat) (e : HamperEntry) :
    s.Restored q (tdOf e.src) (s.restore c q e) := by
  unfold State.restore
  extract_lets t w vals bad src range _ s1 s2
  have hs1 : Frame [.ham] s s1 := Frame.upd Frame.refl
  have hread := s1.readOperands_frame q src
  obtain ⟨l, ind, hgate⟩ := (s1.readOperands q src).putTensor_gate c q t range vals vals (s.anyDie t)
  have hput : s.Restored q t s2 := by
    refine ⟨(State.putTensor_frame ..).inv (hread.inv (hs1.inv hs)), fun j hj => ?_, l, ind, ?_⟩
    · exact (State.rdByte_putTensor_out (hread.inv (hs1.inv hs)) (outside_of_lies (t.conv_lies _ _ _ _) hj)).trans
        (((State.readOperands_data ..).rdByte j).trans ((hs1.sameData rfl).rdByte j))
    · exact (((State.OnlyRings.of_frame hs1 rfl).trans (.readOperands ..)).updCmd q _).trans hgate
  refine List.foldlRecOn (motive := fun u : State => s.Restored q t u) _ _ hput fun u hu i _ => ?_
  split
  · exact hu
  · obtain ⟨hinv, hmemory, l, ind, hgate⟩ := hu
    exact ⟨(u.poisonCw_frame _).inv hinv, fun j hj => (State.rdByte_poisonCw hinv ..).trans (hmemory j hj), l, ind,
      hgate.trans (.of_frame (u.poisonCw_frame _) rfl)⟩

/-- An entry that can be read is restored, and the command goes on. -/
theorem State.restoreThen_of_readable {s : State} {e : HamperEntry} {c : Cmd} {q : Nat}
    (hwindow : e.units = [] → s.rdFail e.window e.size = none) (hlost : s.entryLost e = none)
    (hwrite : s.writeFail (tdOf e.src).ranges = none) (k : State → State) : s.restoreThen c q e k = k (s.restore c q e) := by
  unfold State.restoreThen
  rw [if_neg, hlost, hwrite]
  rintro ⟨hunits, hfail⟩
  rw [hwindow (List.isEmpty_iff.mp hunits)] at hfail
  cases hfail

/-- RECL, and RECOMP from its source entry, need not wait: the record is opened, and the entry restored. -/
theorem State.openBack_restores {s w u : State} {c : Cmd} {q : Nat} {e : HamperEntry} (hs : s.Inv) (hw : Frame [.af] s w)
    (hstays : e.place ≠ .spilled ∨ e.reading = false ∧ s.fits e.number (unitsFor e.size) = false)
    (hu : s.openOut c.step (tdOf e.src) = some u) (hwindow : e.units = [] → u.rdFail e.window e.size = none)
    (hlost : u.entryLost e = none) (hwrite : u.writeFail (tdOf e.src).ranges = none) :
    ∃ t, t.Inv ∧ (∀ j, outside ((tdOf e.src).ranges ++ (tdOf e.src).histRange) j → t.rdByte j = s.rdByte j) ∧
      (∃ l ind, (s.updCmd q (Cmd.converted l ind)).OnlyRings t) ∧
      ∀ k, (w.openBack c q e fun s => let r := s.bringBack q e; if r.2 then r.1 else s.restoreThen c q e k) = k t := by
  obtain ⟨v, hv, hopen⟩ := State.openBack_of_open (q := q) hs hw hu
  obtain ⟨hinv, hmemory, l, ind, hgate⟩ := State.restored_restore hv.inv c q e
  refine ⟨_, hinv, fun j hj => ?_, ⟨l, ind, (hv.gate.updCmd q _).trans hgate⟩, fun k => ?_⟩
  · exact (hmemory j fun r hr => hj r (List.mem_append_left _ hr)).trans
      (hv.memory j fun r hr => hj r (List.mem_append_right _ hr))
  · rw [hopen, State.bringBack_stays q (by rwa [hv.region.fits])]
    refine State.restoreThen_of_readable (fun hunits => ?_) ?_ ?_ k
    · rw [hv.loss.rdFail, hwindow hunits]
    · rw [hv.loss.entryLost, hlost]
    · rw [hv.loss.writeFail, hwrite]

end Sys2Proof.Machine
end

section
/-!
RECL (R226, R228): the entry is restored at once, is read back first, or is gone.
-/
namespace Sys2Proof.Machine

open Sys2Proof

section Recl

variable {s : State} {q : Nat} {c : Cmd} {e : HamperEntry}

theorem State.runRecl_of_entry (hc : s.runnable q 0x29 = some c) (he : s.entry c.step c.mb c.block = some e)
    (hheld : s.heldBack e.ranges = false) :
    s.runRecl q = s.openBack c q e fun s =>
      let r := s.bringBack q e
      if r.2 then r.1 else s.restoreThen c q e fun s => s.deliver q := by
  unfold State.runRecl
  rw [hc]
  dsimp only
  rw [he]
  dsimp only
  rw [hheld]
  rfl

theorem State.runRecl_of_gone (hc : s.runnable q 0x29 = some c) (he : s.entry c.step c.mb c.block = none)
    (hgone : s.ham.gone.contains c.key = true) : s.runRecl q = (s.addCond q [] 0x20#16).deliver q := by
  unfold State.runRecl
  rw [hc]
  dsimp only
  rw [he]
  exact if_pos hgone

theorem State.cmd_waitsBack (hc : s.cmd q = some c) :
    (s.waitsBack q e).cmd q = some { c with stage := .running, children := [2 ^ 64, e.number] } := by
  unfold State.waitsBack
  rw [State.cmd_updCmd (fun c => { c with stage := .running, children := [2 ^ 64, e.number] }) fun _ => rfl, hc]
  rfl

theorem State.mem_entry (he : s.entry c.step c.mb c.block = some e) : e ∈ s.ham.entries := List.mem_of_find?_eq_some he

/-- Every entry with the number is replaced. -/
theorem State.mem_setEntry {x y : HamperEntry} (hx : x ∈ s.ham.entries) (hy : x.number = y.number) :
    y ∈ (s.setEntry y).ham.entries :=
  List.mem_map.mpr ⟨x, hx, if_pos hy⟩

/-- What a state must show in which the command waits for its entry: of the Hamper only the entry's place has changed. -/
structure State.WaitsBack (s : State) (q : Nat) (e : HamperEntry) (t : State) : Prop where
  memory : s.SameData t
  cmd : ∀ c, s.cmd q = some c → t.cmd q = some { c with stage := .running, children := [2 ^ 64, e.number] }
  held : e.reading = true → t.ham.entries = s.ham.entries
  brought : e.reading = false → e ∈ s.ham.entries → s.broughtEntry e ∈ t.ham.entries

/-- The entry of a command that has to wait is read back, by this command or already by another. -/
theorem State.bringBack_waits (hs : s.Inv) (hplace : e.place = .spilled)
    (hback : e.reading = true ∨ s.fits e.number (unitsFor e.size) = true) (hqueue : (s.chan s.ham.spillChannel).queue = [])
    (hcurrent : (s.chan s.ham.spillChannel).current = none) : ∃ t, s.bringBack q e = (t, true) ∧ s.WaitsBack q e t := by
  have hwaits : Frame [.hg] s (s.waitsBack q e) := State.updCmd_frame ..
  cases hreading : e.reading with
  | true =>
    refine ⟨_, State.bringBack_reading q hplace hreading, hwaits.sameData rfl, fun c hc => State.cmd_waitsBack hc, fun _ => rfl, ?_⟩
    simp [hreading]
  | false =>
    refine ⟨_, State.bringBack_fits q hplace hreading (hback.resolve_left (by simp [hreading])), ?_⟩
    have hset := (State.setEntry_frame (s.waitsBack q e) (s.broughtEntry e)).inv (hwaits.inv hs)
    have hqueued := State.queueSpill_idle_frame hset e.number (some q) hqueue hcurrent
    refine ⟨?_, fun c hc => ?_, by simp [hreading], fun _ he => ?_⟩
    · exact ((hwaits.sameData rfl).trans ((State.setEntry_frame ..).sameData rfl)).trans (hqueued.sameData rfl)
    · exact (State.cmd_of_cmds (congrArg HostGate.cmds (hqueued.hg_eq rfl)) q).trans (State.cmd_waitsBack hc)
    · rw [hqueued.ham_eq rfl]
      exact State.mem_setEntry (s := s.waitsBack q e) he rfl

end Recl

end Sys2Proof.Machine
end

section
/-!
RECOMP (R221, R222, R224): the source entry is restored, and the first of the commands to replay starts as a copy, or RECOMP is
delivered when there is none.
-/
namespace Sys2Proof.Machine

open Sys2Proof

/-! ### What a change of RECOMP itself leaves alone -/

section Gate

variable {s t : State} {q : Nat} {c : Cmd} {f : Cmd → Cmd}

/-- RECOMP replays no RECOMP, so that a change of its own record changes nothing in its list. -/
theorem State.replayList_of_gate (hgate : (s.updCmd q f).OnlyRings t) (hc : s.cmd q = some c) (hop : c.opcode = 0x2A)
    (hseq : ∀ c, (f c).seq = c.seq) (hopcode : (f c).opcode = c.opcode) (x : Cmd) (lo : Nat) :
    t.replayList x lo = s.replayList x lo := by
  have hjournal : t.hg.journal = s.hg.journal := hgate.journal
  unfold State.replayList
  rw [hjournal]
  refine List.filter_congr fun i _ => ?_
  rw [hgate.cmd]
  by_cases hi : i = q
  · subst hi
    rw [State.cmd_updCmd f hseq, hc]
    simp [hopcode, hop]
  · rw [State.cmd_updCmd_ne f hi hseq]

theorem State.copies_of_gate (hgate : (s.updCmd q f).OnlyRings t) (hparent : ∀ c, (f c).parent = c.parent) (h : s.copies q = []) :
    t.copies q = [] := by
  unfold State.copies at h ⊢
  rw [hgate.cmds, List.filter_eq_nil_iff]
  intro d hd
  obtain ⟨x, hx, rfl⟩ := List.mem_map.mp hd
  have hne := List.filter_eq_nil_iff.mp h x hx
  split
  · rwa [hparent]
  · exact hne

theorem State.isSome_cmd_of_mem_replayList {i lo : Nat} {l : List Nat} (h : s.replayList c lo = i :: l) : (s.cmd i).isSome := by
  have hi : i ∈ s.replayList c lo := h ▸ List.mem_cons_self
  have hany := (List.mem_filter.mp hi).2
  cases hd : s.cmd i with
  | none => simp [hd] at hany
  | some d => rfl

end Gate

/-! ### The replay begins (R221, R222) -/

section Begin

variable {s : State} {q : Nat} {c : Cmd} {start : State → Cmd → State}

/-- RECOMP with its list of commands to replay, and its source block in DETAIL. -/
def State.replaying (s : State) (q : Nat) (c : Cmd) (lo : Nat) : State :=
  s.updCmd q fun d => { d with stage := .running, children := s.replayList c lo, detail := lo }

theorem State.isSome_cmd_replaying (s : State) (q : Nat) (c : Cmd) (lo i : Nat) :
    ((s.replaying q c lo).cmd i).isSome = (s.cmd i).isSome :=
  State.isSome_cmd_updCmd i (f := fun d => { d with stage := .running, children := s.replayList c lo, detail := lo }) fun _ => rfl

theorem State.runRecomp_of_source {e : HamperEntry} (hc : s.runnable q 0x2A = some c) (he : s.sourceEntry c = some e)
    (hheld : s.heldBack e.ranges = false) :
    s.runRecomp q start = (s.takeRefs q (s.replayList c e.block)).openBack c q e fun s =>
      let r := s.bringBack q e
      if r.2 then r.1 else s.restoreThen c q e fun s => (s.replaying q c e.block).recompNext q start := by
  unfold State.runRecomp
  rw [hc]
  dsimp only
  rw [he]
  dsimp only
  rw [hheld]
  rfl

/-- What `recompNext` asks of the state before it goes on with the list of a RECOMP. -/
structure State.Replays (s : State) (q : Nat) (c : Cmd) : Prop where
  cmd : s.cmd q = some c
  opcode : c.opcode = 0x2A
  stage : c.stage = .running
  tainted : c.tainted = false
  copies : s.copies q = []

theorem State.cmd_of_converted {t : State} {l : List Status} {ind : BitVec 16}
    (hgate : (s.updCmd q (Cmd.converted l ind)).OnlyRings t) (hc : s.cmd q = some c) : t.cmd q = some (c.converted l ind) := by
  rw [hgate.cmd, State.cmd_updCmd (Cmd.converted l ind) fun _ => rfl, hc]
  rfl

/-- After the entry has been restored RECOMP has the list that it set out with. -/
theorem State.replays_replaying {t : State} {l : List Status} {ind : BitVec 16}
    (hgate : (s.updCmd q (Cmd.converted l ind)).OnlyRings t) (hc : s.runnable q 0x2A = some c) (hcopies : s.copies q = [])
    (lo : Nat) :
    (t.replaying q c lo).Replays q
      { c.converted l ind with stage := .running, children := s.replayList c lo, detail := lo } := by
  obtain ⟨hcmd, -, hop⟩ := State.runnable_cmd hc
  have hlist : t.replayList c lo = s.replayList c lo := State.replayList_of_gate hgate hcmd hop (fun _ => rfl) rfl c lo
  have hrestored : t.copies q = [] := State.copies_of_gate hgate (fun _ => rfl) hcopies
  have htaint : c.tainted = false := State.runnable_untainted hc
  refine ⟨?_, hop, rfl, htaint, State.copies_of_gate (s := t) .refl (fun _ => rfl) hrestored⟩
  unfold State.replaying
  rw [State.cmd_updCmd (fun d => { d with stage := .running, children := t.replayList c lo, detail := lo }) fun _ => rfl,
    State.cmd_of_converted hgate hcmd, hlist]
  rfl

theorem State.recompNext_ends (h : s.Replays q c) (hchildren : c.children = []) : s.recompNext q start = s.endRecomp c q := by
  unfold State.recompNext
  simp only [h.cmd, h.copies, hchildren]
  rw [if_neg (by simp [h.opcode, h.stage, h.tainted])]
  rfl

theorem State.recompNext_starts (h : s.Replays q c) {i : Nat} {l : List Nat} (hchildren : c.children = i :: l) (hi : i ≠ 2 ^ 64)
    (hcmd : (s.cmd i).isSome) :
    ∃ d, s.recompNext q start = (s.updCmd q fun c => { c with children := l }).startCopy q d start := by
  obtain ⟨d, hd⟩ := Option.isSome_iff_exists.mp
    ((State.isSome_cmd_updCmd (s := s) (r := q) i (f := fun c => { c with children := l }) fun _ => rfl).trans hcmd)
  have hmark : (i :: l).head? ≠ some (2 ^ 64) := fun hhead => hi (Option.some.inj hhead)
  refine ⟨d, ?_⟩
  unfold State.recompNext
  simp only [h.cmd, h.copies, hchildren]
  rw [if_neg, hd]
  · rfl
  · rintro (hne | hne | hne | hne)
    · exact hne h.opcode
    · exact hne h.stage
    · simp [h.tainted] at hne
    · exact hmark hne

/-- A RECOMP that has replayed nothing is delivered. -/
theorem State.endRecomp_delivers (h : s.Replays q c) : ∃ d, (s.endRecomp c q).cmd q = some d ∧ d.stage = .delivered := by
  unfold State.endRecomp
  rw [h.copies]
  extract_lets l t ind reach logged counted ended
  have hlogged : logged.hg = s.hg := by
    unfold logged
    split
    · rfl
    · exact (State.logHamper_frame ..).hg_eq rfl
  have hcounted : (counted.cmd q).isSome := by
    unfold counted
    refine (State.isSome_cmd_updCmd q (f := fun c => { c with detail := 0 }) fun _ => rfl).trans ?_
    have hcmds : ((logged.bump 0x1000520 reach).evt (some q) 0x53 reach).hg.cmds = s.hg.cmds :=
      (State.evt_cmds ..).trans (congrArg HostGate.cmds hlogged)
    rw [State.cmd_of_cmds hcmds, h.cmd]
    rfl
  rw [if_neg (by decide)]
  refine State.exists_cmd_deliver ?_
  rw [State.isSome_cmd_addCond, State.isSome_cmd_addCond]
  exact hcounted

/-- What starts at a command changes at most its version. -/
theorem State.exists_onStart {d : Cmd} (hd : d ∈ s.hg.cmds) (c : Cmd) :
    ∃ x ∈ (s.onStart c).hg.cmds, x.parent = d.parent ∧ x.seq = d.seq ∧ x.stage = d.stage := by
  unfold State.onStart
  split
  · exact ⟨d, hd, rfl, rfl, rfl⟩
  next q _ =>
  extract_lets referred versioned dies banks
  have hwant (l : List Nat) (v : State) : Frame [.ld] v (l.foldl State.wantDom v) :=
    Frame.foldl (fun u k => u.wantDom_frame k) l Frame.refl
  have hdies : Frame [.ld] versioned dies := hwant _ _
  have hbanks : Frame [.ld] dies banks := hwant _ _
  have hreferred : Frame [.af] s referred := Frame.foldl (fun u d => u.takeRef_frame q d) _ Frame.refl
  rw [(hwant _ banks).hg_eq rfl, hbanks.hg_eq rfl, hdies.hg_eq rfl]
  unfold versioned
  split
  · refine ⟨_, List.mem_map.mpr ⟨d, hreferred.hg_eq rfl ▸ hd, rfl⟩, ?_⟩
    split <;> exact ⟨rfl, rfl, rfl⟩
  · exact ⟨d, hreferred.hg_eq rfl ▸ hd, rfl, rfl, rfl⟩

/-- The copy of a command stands started, under the RECOMP and with a number of its own (R222). -/
theorem State.exists_startCopy (s : State) (q : Nat) (d : Cmd) :
    ∃ x ∈ (s.startCopy q d State.onStart).hg.cmds,
      x.parent = some q ∧ x.seq = some (2 ^ 64 + s.hg.nextId) ∧ x.stage = .started := by
  unfold State.startCopy
  extract_lets id c
  obtain ⟨x, hx, hparent, hseq, hstage⟩ := State.exists_onStart (s := { s with hg := { s.hg with
    cmds := s.hg.cmds ++ [c], nextId := id + 1 } }) (d := c) (by simp) c
  exact ⟨x, hx, hparent, hseq, hstage⟩

/-- Going on with the replay changes no memory. -/
theorem State.recompNext_data (s : State) (q : Nat) : s.SameData (s.recompNext q State.onStart) :=
  (State.recompNext_frame (l := [.hg, .ham, .ld, .irq, .pcie, .im, .af, .xe, .fab, .ctrs, .out]) q State.onStart Frame.refl rfl
    fun x y => (x.onStart_frame y).mono rfl).sameData rfl

end Begin

end Sys2Proof.Machine
end

section
/-!
The end of a spill (R228): the entry's bytes stand in host memory, and its units are free.
-/
namespace Sys2Proof.Machine

open Sys2Proof

/-! ### The bytes of an entry -/

section Units

variable (s : State) (us : List Nat)

/-- The bytes that stand in some units, one unit after another. -/
def State.unitBytes : List Byte := us.flatMap fun a => s.rd a 4096

theorem State.unitBytes_length : (s.unitBytes us).length = 4096 * us.length := by
  induction us with
  | nil => rfl
  | cons a us ih =>
    have hrd := s.rd_length a 4096
    have htail : (us.flatMap fun a => s.rd a 4096).length = 4096 * us.length := ih
    rw [State.unitBytes, List.flatMap_cons, List.length_append, List.length_cons]
    omega

theorem State.unitBytes_getElem {i : Nat} (h : i < (s.unitBytes us).length) :
    (s.unitBytes us)[i] = s.rdByte (us.getD (i / 4096) 0 + i % 4096) := by
  induction us generalizing i with
  | nil => cases h
  | cons a us ih =>
    have hrd := s.rd_length a 4096
    simp only [State.unitBytes, List.flatMap_cons, List.getElem_append]
    split
    next hhead =>
      rw [State.rd_get, Nat.div_eq_of_lt (by omega), Nat.mod_eq_of_lt (by omega)]
      rfl
    next htail =>
      have hlt : i - 4096 < (s.unitBytes us).length := by
        rw [State.unitBytes_length] at h ⊢
        rw [List.length_cons] at h
        omega
      have hdiv : i / 4096 = (i - 4096) / 4096 + 1 := by omega
      have hmod : (i - 4096) % 4096 = i % 4096 := by omega
      simp only [hrd]
      rw [hdiv, List.getD_cons_succ, ← hmod]
      exact ih hlt

end Units

/-! ### The copy to the window -/

section Spill

variable {s : State} {e : HamperEntry} {q : Option Nat}

/-- The units of an entry have been read. -/
def State.spillRead (s : State) (e : HamperEntry) (q : Option Nat) : State :=
  e.units.foldl (fun (s : State) a => (s.noteReads [(a, 4096)]).traffic q false a 4096) s

/-- The bytes of the entry stand in the window. -/
def State.spillWritten (s : State) (e : HamperEntry) (q : Option Nat) : State := (s.spillRead e q).wr e.window (s.unitBytes e.units)

/-- An entry whose bytes stand in host memory alone. -/
def HamperEntry.asSpilled (e : HamperEntry) : HamperEntry := { e with place := .spilled, units := [] }

theorem State.spillRead_frame : Frame [.ms, .hg, .ld, .irq, .pcie, .im, .fab, .ctrs, .free, .out] s (s.spillRead e q) :=
  Frame.foldl (fun u a => ((u.noteReads_frame [(a, 4096)]).mono rfl).comp (State.traffic_frame ..) rfl) e.units Frame.refl

theorem State.spillRead_data : s.SameData (s.spillRead e q) :=
  .foldl (fun u a => (u.noteReads_data [(a, 4096)]).trans ((State.traffic_frame ..).sameData rfl)) e.units s

/-- What follows the copy counts it and frees the units of the entry. -/
theorem State.spillOut_eq : ∃ u, Frame [.hg, .ctrs, .free] (s.spillWritten e q) u ∧ (s.spillWritten e q).OnlyRings u ∧
    s.spillOut e q = ((((u.setEntry e.asSpilled).bump 0x1000500).bump 0x0C00310).logHamper q 0 e.number).evt q 0x52 1 := by
  refine ⟨_, ?_, ?_, rfl⟩
  · exact (((State.traffic_frame ..).mono rfl).comp (State.bump_frame ..) rfl).comp (State.bump_frame ..) rfl
  · exact ((State.OnlyRings.traffic ..).trans (.of_frame (State.bump_frame ..) rfl)).trans (.of_frame (State.bump_frame ..) rfl)

/-- What a state must show in which an entry has been copied to the window. -/
structure State.Spilled (s : State) (e : HamperEntry) (t : State) : Prop where
  inv : t.Inv
  window : isHost e.window = true → e.window + 4096 * e.units.length ≤ 2 ^ 64 → t.Holds e.window (s.unitBytes e.units)
  memory : ∀ j, outside [(e.window, 4096 * e.units.length)] j → t.rdByte j = s.rdByte j
  ham : t.ham = (s.setEntry e.asSpilled).ham
  cmds : t.hg.cmds = s.hg.cmds
  channels : t.mv = s.mv

/-- Host memory is named without a gap up to its last byte (R361, R362). -/
theorem State.rangeBad_of_host (s : State) {a n : Nat} (ha : isHost a = true) (hend : a + n ≤ 2 ^ 64) : s.rangeBad a n = false := by
  unfold State.rangeBad
  rw [if_pos ha]
  split
  · rfl
  · simpa using hend

theorem State.spilled_spillOut (hs : s.Inv) : s.Spilled e (s.spillOut e q) := by
  obtain ⟨u, hu, hgate, heq⟩ := s.spillOut_eq (e := e) (q := q)
  have hwritten : Frame [.ms, .hg, .ld, .irq, .pcie, .im, .fab, .ctrs, .free, .out] s (s.spillWritten e q) :=
    State.spillRead_frame.comp (State.wr_frame ..) rfl
  have hset : Frame [.ham] u (u.setEntry e.asSpilled) := State.setEntry_frame ..
  have hcounted : Frame [.hg, .im, .ctrs] (u.setEntry e.asSpilled) (s.spillOut e q) := by
    rw [heq]
    exact ((((State.bump_frame ..).mono rfl).comp (State.bump_frame ..) rfl).comp (State.logHamper_frame ..) rfl).comp
      (State.evt_frame ..) rfl
  have hdata : (s.spillWritten e q).SameData (s.spillOut e q) :=
    ((hu.sameData rfl).trans (hset.sameData rfl)).trans (hcounted.sameData rfl)
  have hread := State.spillRead_frame (e := e) (q := q) |>.inv hs
  have hlength := s.unitBytes_length e.units
  constructor
  case inv => exact hcounted.inv (hset.inv (hu.inv (hwritten.inv hs)))
  case window =>
    intro hhost hend
    have hrange := s.rangeBad_of_host hhost hend
    exact (State.holds_wr hread fun i hi => State.isHost_add hrange (hlength ▸ hi)).of_data hdata
  case memory =>
    intro j hj
    have hout := hj _ (List.mem_singleton_self _)
    exact ((hdata.rdByte j).trans (State.rdByte_wr_out hread (by rwa [hlength]))).trans (State.spillRead_data.rdByte j)
  case ham =>
    have hham : u.ham = s.ham := (hu.ham_eq rfl).trans (hwritten.ham_eq rfl)
    rw [hcounted.ham_eq rfl]
    unfold State.setEntry
    rw [hham]
  case cmds =>
    have hread : s.OnlyRings (s.spillRead e q) :=
      .foldl (fun v a => (State.OnlyRings.noteReads v _).trans (.traffic ..)) e.units s
    have hevents : (u.setEntry e.asSpilled).OnlyRings (s.spillOut e q) := by
      rw [heq]
      exact (((State.OnlyRings.of_frame (State.bump_frame ..) rfl).trans (.of_frame (State.bump_frame ..) rfl)).trans
        (.of_frame (State.logHamper_frame ..) rfl)).trans (.evt ..)
    exact ((((hread.trans (.wr ..)).trans hgate).trans (.of_frame hset rfl)).trans hevents).cmds
  case channels =>
    exact ((hcounted.same .mv (by decide)).trans (hset.same .mv (by decide))).trans
      ((hu.same .mv (by decide)).trans (hwritten.same .mv (by decide)))

end Spill

/-! ### What follows -/

section After

variable {s : State} {e : HamperEntry}

/-- A channel without work stays as it is. -/
theorem State.chanGo_of_idle {c : Nat} (hcurrent : (s.chan c).current = none) (hqueue : (s.chan c).queue = []) :
    s.chanGo c = s := by
  have hturn : s.chanTurn c = .rest s := by
    unfold State.chanTurn
    simp only [hcurrent, hqueue]
  simp only [State.chanGo, State.chanFuel, State.chanRun, hturn]

theorem State.spillIdle_of_last (hs : s.Inv) {c : Nat} (hqueue : (s.chan c).queue = []) :
    s.spillIdle c = s.setChan c { s.chan c with current := none, consec := 0 } := by
  have hchan := State.chan_setChan_same hs c { s.chan c with current := none, consec := 0 }
  exact State.chanGo_of_idle (congrArg Channel.current hchan) ((congrArg Channel.queue hchan).trans hqueue)

/-- No STSH waits. -/
theorem State.wakeStash_of_none (h : ∀ d ∈ s.hg.cmds, d.opcode ≠ 0x28 ∨ d.stage ≠ .running) : s.wakeStash = s := by
  have hnone : (s.hg.cmds.filter fun c => c.opcode == 0x28 && c.stage == .running) = [] :=
    List.filter_eq_nil_iff.mpr fun d hd hwaits => by
      rw [Bool.and_eq_true, beq_iff_eq, beq_iff_eq] at hwaits
      exact (h d hd).elim (· hwaits.1) (· hwaits.2)
  unfold State.wakeStash
  rw [hnone]
  rfl

/-- The units of an entry that has been copied to the window are free. -/
theorem State.regionUsed_asSpilled (he : e ∈ s.ham.entries) :
    (s.setEntry e.asSpilled).regionUsed + 4096 * e.units.length ≤ s.regionUsed := by
  obtain ⟨l, m, hl⟩ := List.append_of_mem he
  have hle (k : List HamperEntry) : ((k.map fun x => if x.number = e.asSpilled.number then e.asSpilled else x).map
      fun x => 4096 * x.units.length).sum ≤ (k.map fun x => 4096 * x.units.length).sum := by
    induction k with
    | nil => exact Nat.le_refl _
    | cons x k ih =>
      simp only [List.map_cons, List.sum_cons]
      refine Nat.add_le_add ?_ ih
      split
      · exact Nat.zero_le _
      · exact Nat.le_refl _
  have hl' := hle l
  have hm' := hle m
  unfold State.regionUsed State.setEntry
  dsimp only
  simp only [hl, List.map_append, List.map_cons, List.sum_append, List.sum_cons]
  rw [if_pos (show e.number = e.asSpilled.number from rfl)]
  have hfree : 4096 * e.asSpilled.units.length = 0 := rfl
  omega

/-- The last spill of a channel, while no STSH waits and the region is below its mark without the entry. -/
theorem State.spillEnd_of_last {c : Nat} {it : MoverItem} (hs : s.Inv) (start : State → Cmd → State)
    (hcurrent : (s.chan c).current = some it) (hkind : it.kind = .spill e.number) (hentry : s.spillEntry e.number = some e)
    (hqueue : (s.chan c).queue = [])
    (hheld : s.heldBack ((e.window, 4096 * e.units.length) :: e.units.map fun a => (a, 4096)) = false)
    (hread : s.rdFails (e.units.map fun a => (a, 4096)) = none) (hwindow : s.rdFail e.window (4096 * e.units.length) = none)
    (hstash : ∀ d ∈ s.hg.cmds, d.opcode ≠ 0x28 ∨ d.stage ≠ .running)
    (hlow : s.regionUsed * 16 ≤ s.ham.spillHigh * (s.ham.size * 2 ^ 30) + 16 * (4096 * e.units.length)) :
    ∃ u, s.Spilled e u ∧ s.spillEnd c start = u.setChan c { u.chan c with current := none, consec := 0 } := by
  have hspilled := State.spilled_spillOut (e := e) (q := it.asker) hs
  refine ⟨s.spillOut e it.asker, hspilled, ?_⟩
  generalize hu : s.spillOut e it.asker = u at hspilled
  have hchan : u.chan c = s.chan c := by simp only [State.chan, hspilled.channels]
  have hidle := State.spillIdle_of_last hspilled.inv ((congrArg Channel.queue hchan).trans hqueue)
  have hfreed := State.regionUsed_asSpilled (List.mem_of_find?_eq_some hentry)
  unfold State.spillEnd
  rw [hcurrent]
  dsimp only
  rw [hkind]
  dsimp only
  rw [hentry]
  dsimp only
  rw [if_neg (by simp [hread, State.windowFail, hwindow, hheld]), hu, hidle]
  have hwake := State.wakeStash_of_none (s := u.setChan c { u.chan c with current := none, consec := 0 })
    fun d hd => hstash d (hspilled.cmds ▸ hd)
  rw [hwake]
  refine State.spillHigh_of_low ?_
  change u.regionUsed * 16 ≤ u.ham.spillHigh * (u.ham.size * 2 ^ 30)
  have hused : u.regionUsed = (s.setEntry e.asSpilled).regionUsed := State.regionUsed_of_ham hspilled.ham
  have hhigh : u.ham.spillHigh = s.ham.spillHigh := by rw [hspilled.ham]; rfl
  have hsize : u.ham.size = s.ham.size := by rw [hspilled.ham]; rfl
  rw [hused, hhigh, hsize]
  omega

end After

/-- Settles O45: the references that RECOMP takes decide nothing about the accesses that follow, so that it opens the record as RECL
does; a conversion changes conditions and checks of its own command alone, so that the list to replay outlives it; and without the
units that a spill frees the region is below its mark. -/
theorem heldEntriesAreRestored : Obligations.HeldEntriesAreRestored := by
  unfold Obligations.HeldEntriesAreRestored
  refine ⟨?recl, ?waits, ?gone, ?recomp, ?spill⟩
  case recl =>
    intro s u q c e o hs hc he hheld hstays ho hu hwindow hlost hwrite
    subst ho
    obtain ⟨t, hinv, hmemory, ⟨l, ind, hgate⟩, hk⟩ := State.openBack_restores (q := q) hs Frame.refl hstays hu hwindow hlost hwrite
    have hcmd := State.cmd_of_converted hgate (State.runnable_cmd hc).1
    refine ⟨_, congrArg Host.Outcome.next ((State.runRecl_of_entry hc he hheld).trans (hk _)), fun j hj => ?_, _,
      State.cmd_deliver hcmd, rfl, rfl⟩
    exact (((State.deliver_frame ..).sameData rfl).rdByte j).trans (hmemory j hj)
  case waits =>
    intro s q c e hs hc he hheld hplace hback hopen hqueue hcurrent
    obtain ⟨u, hu⟩ := Option.isSome_iff_exists.mp hopen
    obtain ⟨v, hv, hk⟩ := State.openBack_of_open (q := q) (e := e) hs Frame.refl hu
    obtain ⟨hmv, hchannel⟩ := hv.channels
    have hchan : v.chan v.ham.spillChannel = s.chan s.ham.spillChannel := by simp only [State.chan, hmv, hchannel]
    obtain ⟨t, ht, hwaits⟩ := State.bringBack_waits (q := q) hv.inv hplace (by rwa [hv.region.fits]) (by rwa [hchan])
      (by rwa [hchan])
    have hrun : s.runRecl q = t := by
      rw [State.runRecl_of_entry hc he hheld, hk, ht]
      rfl
    have hcmd := hwaits.cmd c ((hv.gate.cmd q).trans (State.runnable_cmd hc).1)
    refine ⟨_, congrArg Host.Outcome.next hrun, fun j hj => (hwaits.memory.rdByte j).trans (hv.memory j hj), ⟨_, hcmd, rfl, rfl⟩, ?_⟩
    split
    next hreading => exact (hwaits.held hreading).trans hv.region.entries
    next hreading =>
      have hbrought := hwaits.brought (by simpa using hreading) (by rw [hv.region.entries]; exact State.mem_entry he)
      rwa [State.broughtEntry, hv.region.placeUnits] at hbrought
  case gone =>
    intro s q c hc he hgone
    have hcond : s.SameData (s.addCond q [] 0x20#16) := (State.addCond_frame ..).sameData rfl
    refine ⟨_, congrArg Host.Outcome.next (State.runRecl_of_gone hc he hgone), fun j => ?_, _,
      State.cmd_deliver (State.cmd_addCond (State.runnable_cmd hc).1 [] 0x20#16), rfl, rfl⟩
    exact (hcond.trans ((State.deliver_frame ..).sameData rfl)).rdByte j
  case recomp =>
    intro s u q c e o hs hc he hheld hstays ho hu hwindow hlost hwrite hcopies
    subst ho
    obtain ⟨hcmd, hstage, hop⟩ := State.runnable_cmd hc
    obtain ⟨t, hinv, hmemory, ⟨l, ind, hgate⟩, hk⟩ := State.openBack_restores (q := q) hs
      (s.takeRefs_frame q (s.replayList c e.block)) hstays hu hwindow hlost hwrite
    have hrun : s.runRecomp q State.onStart = (t.replaying q c e.block).recompNext q State.onStart :=
      (State.runRecomp_of_source hc he hheld).trans (hk _)
    have hreplays := State.replays_replaying hgate hc hcopies e.block
    refine ⟨_, congrArg Host.Outcome.next hrun, fun j hj => ?_, fun hnone => ?_, fun i rest hcons hi => ?_⟩
    · have hbegun : t.SameData (t.replaying q c e.block) := (State.updCmd_frame ..).sameData rfl
      exact ((hbegun.trans (State.recompNext_data ..)).rdByte j).trans (hmemory j hj)
    · rw [State.recompNext_ends hreplays hnone]
      exact State.endRecomp_delivers hreplays
    · have hlisted : ((t.replaying q c e.block).cmd i).isSome := by
        rw [State.isSome_cmd_replaying, hgate.cmd]
        exact (State.isSome_cmd_updCmd i (f := Cmd.converted l ind) fun _ => rfl).trans (State.isSome_cmd_of_mem_replayList hcons)
      obtain ⟨d, hd⟩ := State.recompNext_starts (start := State.onStart) hreplays hcons hi hlisted
      obtain ⟨x, hx, hparent, hseq, hstarted⟩ := State.exists_startCopy ((t.replaying q c e.block).updCmd q fun c =>
        { c with children := rest }) q d
      have hnext : t.hg.nextId = s.hg.nextId := hgate.nextId
      rw [hd]
      exact ⟨x, hx, hparent, hnext ▸ hseq, hstarted⟩
  case spill =>
    intro s c it e w n hs hcurrent hkind hentry _ hqueue hw hn hheld hread hwindow hhost hend hstash hlow
    subst hw hn
    obtain ⟨u, hspilled, hrun⟩ := State.spillEnd_of_last hs State.onStart hcurrent hkind hentry hqueue hheld hread hwindow hstash hlow
    have hlength := s.unitBytes_length e.units
    refine ⟨_, congrArg Host.Outcome.next hrun, ?_, ?_, fun i hi => ?_, hspilled.memory⟩
    · change e.asSpilled ∈ u.ham.entries
      rw [hspilled.ham]
      exact State.mem_setEntry (List.mem_of_find?_eq_some hentry) rfl
    · rw [State.chan_setChan_same hspilled.inv]
    · exact (hspilled.window hhost hend i (by omega)).trans (s.unitBytes_getElem ..)

end Sys2Proof.Machine
end

section
/-!
All-clears (R258): a state in which an all-clear frees the room for a copy that waits (R254), and the part which that copy
completes loses a lane for the second time (R282), so that the step ends and every part of it is dropped (R262).
-/
namespace Sys2Proof.Machine

open Sys2Proof

namespace ClearAdmits

/-- The delivered part of bucket 1 of step 6, whose one copy is the module's own. -/
def named : Part := { newPart 6 1 0 with state := .delivered, first := some 0, taken := [FenceAdmits.copy], seen := [0] }

/-- 15 other parts of the step that still collect: with `named`, as many as are retained at a time (R254). -/
def collecting : List Part := (List.range 15).map fun i => { newPart 6 (i + 2) 0 with first := some 0 }

/-- The module's own copy for bucket 0 of the step waits for room, and a lane of that part has failed for the second time. -/
def state : State :=
  { State.reset with
    ms := { MemSys.initial with lanes := [FenceAdmits.fault] }
    xe := { Exchange.initial with
      parts := named :: collecting, sends := [FenceAdmits.sent], waiting := [(6, 0, 0, FenceAdmits.copy)] } }

theorem xeLive_self : state.xeLive 0 = true := by decide

/-- The all-clear clears the named part, and the copy that it lets in ends the step. -/
theorem part_after_allClear : (state.allClear 6 1 0 0).admitWaiting.part 6 1 0 = none := by decide +kernel

end ClearAdmits

/-- Refutes O37: nothing in the clause of all-clears excludes a lane that fails again. The all-clear of the last copy of a part
frees the room for a waiting copy of the same step; that copy completes its own part, whose lane has failed for the second time,
so that the step is marked incomplete in the same change and the part that the all-clear names is dropped with it. -/
theorem not_copiesEnterAndLeaveTheirPart : ¬ Obligations.CopiesEnterAndLeaveTheirPart := by
  unfold Obligations.CopiesEnterAndLeaveTheirPart
  rintro ⟨-, -, hclear, -⟩
  obtain ⟨t, y, hexec, hpart, -⟩ := hclear ClearAdmits.state 0 6 1 0 ClearAdmits.named ClearAdmits.xeLive_self rfl
  have hrun : exec (.allClearArrival 0 6 1 0) ClearAdmits.state = .next (ClearAdmits.state.allClear 6 1 0 0).admitWaiting :=
    congrArg Host.Outcome.next (if_pos ClearAdmits.xeLive_self)
  rw [← Host.Outcome.next.inj (hrun.symm.trans hexec), ClearAdmits.part_after_allClear] at hpart
  cases hpart

end Sys2Proof.Machine
end

section
/-!
Step summaries and excluded sets (R260 to R264): what a state knows of a step after each change, and what marking a step
incomplete leaves of the group's settings.
-/
namespace Sys2Proof.Machine

open Sys2Proof

variable {s t : State}

/-! ### What is known of a step -/

@[simp] theorem State.step_xeStep (s : State) (n : Nat) : (s.xeStep n).step = n := by
  unfold State.xeStep
  cases h : s.xe.steps.find? fun x => x.step == n with
  | none => rfl
  | some x => simpa using List.find?_some h

theorem State.xeStep_of_xe (h : t.xe = s.xe) (n : Nat) : t.xeStep n = s.xeStep n := by
  unfold State.xeStep
  rw [h]

theorem State.xeStep_setXeStep {x : XeStep} {n : Nat} (hx : x.step = n) : (s.setXeStep x).xeStep n = x := by
  simp [State.xeStep, State.setXeStep, hx]

theorem State.xeStep_noteSummary (s : State) (n r : Nat) (nf inc : Bool) : (s.noteSummary n r nf inc).xeStep n =
    { s.xeStep n with
      got := (r, nf, inc) :: (s.xeStep n).got.filter (fun p => p.1 != r), firstAt := (s.xeStep n).firstAt.or (some s.now) } :=
  State.xeStep_setXeStep (State.step_xeStep s n)

/-- A summary that the module sends is noted as its own (R260). -/
theorem State.xeStep_sendSummary (s : State) (n : Nat) (nf inc : Bool) :
    ((s.sendSummary n nf inc).xeStep n).sent = true ∧ (s.rank, nf, inc) ∈ ((s.sendSummary n nf inc).xeStep n).got := by
  unfold State.sendSummary
  dsimp only
  generalize hu : s.emitAll kSummary _ = u
  generalize hnoted : u.noteSummary n s.rank nf inc = noted
  have hgot : (s.rank, nf, inc) ∈ (noted.xeStep n).got := by
    rw [← hnoted, State.xeStep_noteSummary]
    exact List.mem_cons_self
  rw [State.xeStep_setXeStep (x := { noted.xeStep n with sent := true }) (State.step_xeStep noted n)]
  exact ⟨rfl, hgot⟩

/-- The excluded set of the module goes out, and its window opens (R264). -/
theorem State.xeStep_openWindow (s : State) (n : Nat) (missing : List Nat) : (s.openWindow n missing).xeStep n =
    { s.xeStep n with
      sets := (s.rank, missing) :: (s.xeStep n).sets.filter (fun p => p.1 != s.rank), windowAt := some s.now } := by
  unfold State.openWindow
  rw [State.xeStep_of_xe ((State.emitAll_frame ..).same .xe (by decide))]
  exact State.xeStep_setXeStep (State.step_xeStep s n)

/-! ### Settings of the group -/

/-- The registers and the settings taken at the last training decide the rank. -/
theorem State.rank_of_settings (hregs : t.regs = s.regs) (htaken : t.xe.taken = s.xe.taken) : t.rank = s.rank := by
  simp only [State.rank, State.sfld, State.setting, State.reg, hregs, htaken]

@[simp] theorem State.taken_dropStep (s : State) (n : Nat) : (s.dropStep n).xe.taken = s.xe.taken := by
  unfold State.dropStep
  split
  · rfl
  · extract_lets released _ dropped
    have hmarked : (s.markStep n .incomplete).xe = s.xe := (State.markStep_frame s n .incomplete).same .xe (by decide)
    obtain ⟨l, hsummary⟩ := State.sendSummary_xe (s.markStep n .incomplete) n false true
    have hreleased : released.xe = { s.xe with steps := l } := hmarked ▸ hsummary
    rw [State.foldl_timeOut_xe]
    exact (congrArg Exchange.taken hreleased : _)

theorem State.taken_markIncomplete (s : State) (n : Nat) : (s.markIncomplete n).xe.taken = s.xe.taken := by
  unfold State.markIncomplete
  split
  · rfl
  · exact (State.taken_dropStep ..).trans (State.taken_dropStep ..)

@[simp] theorem State.rank_markIncomplete (s : State) (n : Nat) : (s.markIncomplete n).rank = s.rank :=
  State.rank_of_settings ((State.markIncomplete_frame s n).same .regs (by decide)) (State.taken_markIncomplete s n)

/-! ### Summaries (R260 to R262) -/

/-- A step that has no mark but `open` or `incomplete` is incomplete once it is marked so. -/
theorem State.mark_markIncomplete {n : Nat} (hs : s.Inv) (hcleared : (s.stepInfo n).mark ≠ .cleared)
    (hskipped : (s.stepInfo n).mark ≠ .skipped) : ((s.markIncomplete n).stepInfo n).mark = .incomplete := by
  cases hresolved : s.resolved n with
  | false => exact (State.stepEnded_markIncomplete hs hresolved).mark
  | true =>
    have hmark : (s.stepInfo n).mark = .incomplete := by
      cases hm : (s.stepInfo n).mark <;> simp_all [State.resolved]
    unfold State.markIncomplete
    rwa [if_pos hresolved]

theorem State.now_giveupRecords (s : State) (n : Nat) (l : List Nat) : (s.giveupRecords n l).now = s.now :=
  State.now_foldl (fun _ _ => State.now_cper ..) l s

/-- What a missing summary makes of a step that was neither cleared nor skipped, whether it is open still or not (R262). -/
theorem State.summaryGiveup_of_missing {n f : Nat} (hfirst : (s.xeStep n).firstAt = some f)
    (hlate : f + s.giveupMs * 1000000 < s.now) (hmissing : s.missingSummaries n ≠ []) :
    ∃ u : State, (u.hg.steps = s.hg.steps) ∧ u.now = s.now ∧ u.rank = s.rank ∧ (s.Inv → u.Inv) ∧
      s.summaryGiveup n = if s.policy = 0 ∨ (s.xeStep n).windowAt.isSome then u.markIncomplete n
        else (u.markIncomplete n).openWindow n (s.missingSummaries n) := by
  have hsome : (s.missingSummaries n).isEmpty = false := by simpa using hmissing
  unfold State.summaryGiveup
  simp only [hfirst, hsome]
  rw [if_neg (by simpa using hlate)]
  cases hresolved : s.resolved n with
  | true =>
    have hkept : s.markIncomplete n = s := by rw [State.markIncomplete, if_pos hresolved]
    exact ⟨s, rfl, rfl, rfl, id, by simp [hkept]⟩
  | false =>
    have hframe := State.giveupRecords_frame s n (s.missingSummaries n)
    refine ⟨s.giveupRecords n (s.missingSummaries n), congrArg HostGate.steps (hframe.hg_eq rfl), State.now_giveupRecords ..,
      State.rank_of_settings (hframe.same .regs (by decide)) (congrArg Exchange.taken (hframe.same .xe (by decide))), hframe.inv, by simp⟩

/-- The group goes on without the ranks `out` (R264). -/
def State.reform (s : State) (out : List Nat) (buddies : List (Nat × Nat)) : State :=
  (({ s with xe := { s.xe with
    excluded := s.xe.excluded ++ out
    buddies := s.xe.buddies ++ out.filterMap fun r => buddies.find? fun (p : Nat × Nat) => p.1 == r
    reformed := true } }).bump 0x2000328).arrive 195

/-- A module that stops changes nothing else of its exchange: what ends are commands (R264). -/
theorem State.stopExchange_xe (s : State) : s.stopExchange.xe = { s.xe with stopped := true } := by
  unfold State.stopExchange
  extract_lets stopped
  rw [(State.arrive_frame ..).same .xe (by decide), State.foldl_timeOut_xe]

/-- The end of the window (R264): `out` are the ranks that some set names. -/
theorem State.exclusionEnd_of_late {n f : Nat} {buddies : List (Nat × Nat)} {out : List Nat} (hwindow : (s.xeStep n).windowAt = some f)
    (hlate : f + s.giveupMs * 1000000 < s.now) (hsets : (s.xeStep n).sets ≠ [])
    (hout : out = ((s.xeStep n).sets.flatMap fun p => p.2).eraseDups) :
    s.exclusionEnd n buddies =
      if out.contains s.rank then (s.setXeStep { s.xeStep n with sets := [] }).stopExchange
      else if ¬ out.all (fun r => buddies.any fun p => p.1 == r && !out.contains p.2 && s.present.contains p.2) then
        s.setXeStep { s.xeStep n with sets := [] }
      else (s.setXeStep { s.xeStep n with sets := [] }).reform out buddies := by
  subst hout
  unfold State.exclusionEnd
  simp only [hwindow]
  rw [if_neg (by simp [hlate, hsets])]
  rfl

/-- Settles O38: each row notes what it is told in the record of its step; marking the step incomplete leaves the settings
of the group alone, so that the window which opens next names the module's own rank. -/
theorem summariesAndExclusionsAreKept : Obligations.SummariesAndExclusionsAreKept := by
  unfold Obligations.SummariesAndExclusionsAreKept
  refine ⟨?send, ?arrival, ?giveup, ?set, ?window⟩
  case send =>
    intro s n hopen hunsent hlive hdue
    have hrun : s.summarySend n = s.sendSummary n ((s.xe.parts.filter fun p => p.step == n).any fun p => p.nf) false := by
      simp [State.summarySend, hopen, hunsent, hlive, hdue]
    obtain ⟨hsent, hgot⟩ := State.xeStep_sendSummary s n ((s.xe.parts.filter fun p => p.step == n).any fun p => p.nf) false
    exact ⟨_, congrArg Host.Outcome.next hrun, hsent, _, hgot, rfl, rfl⟩
  case arrival =>
    intro s rank n nf inc hs hlive hcleared hskipped
    have hrun : s.summaryArrives rank n nf inc =
        if inc then (s.noteSummary n rank nf inc).markIncomplete n else s.noteSummary n rank nf inc := by
      simp [State.summaryArrives, hlive, hcleared, hskipped]
    refine ⟨_, congrArg Host.Outcome.next hrun, fun hinc => ?_, fun hinc => ?_⟩
    · subst hinc
      rw [if_neg (by decide), State.xeStep_noteSummary]
      exact ⟨List.mem_cons_self, rfl⟩
    · subst hinc
      exact State.mark_markIncomplete ((State.noteSummary_frame ..).inv hs) hcleared hskipped
  case giveup =>
    intro s n f hs hfirst hlate hmissing hcleared hskipped
    obtain ⟨u, hsteps, hnow, hrank, hinv, hrun⟩ := State.summaryGiveup_of_missing hfirst hlate hmissing
    have hinfo := State.stepInfo_of_steps hsteps n
    have hmark := State.mark_markIncomplete (hinv hs) (hinfo ▸ hcleared) (hinfo ▸ hskipped)
    refine ⟨_, congrArg Host.Outcome.next hrun, ?_, fun hpolicy hclosed => ?_⟩
    · split
      · exact hmark
      · rwa [State.stepInfo_of_steps (congrArg HostGate.steps ((State.openWindow_frame ..).hg_eq rfl))]
    · rw [if_neg (by simp [hpolicy, hclosed]), State.xeStep_openWindow, State.now_markIncomplete, hnow,
        State.rank_markIncomplete, hrank]
      exact ⟨rfl, List.mem_cons_self⟩
  case set =>
    intro s rank n l hpolicy hlive
    have hrun : execExcludedSetArrival rank n l s = .next (if (s.xeStep n).windowAt.isNone ∧ (s.missingSummaries n).isEmpty then
        (s.setXeStep { s.xeStep n with sets := (rank, l) :: (s.xeStep n).sets.filter fun p => p.1 != rank }).openWindow n []
        else s.setXeStep { s.xeStep n with sets := (rank, l) :: (s.xeStep n).sets.filter fun p => p.1 != rank }) := by
      simp [execExcludedSetArrival, hpolicy, hlive]
    generalize hkept : s.setXeStep { s.xeStep n with sets := (rank, l) :: (s.xeStep n).sets.filter fun p => p.1 != rank } = u at hrun
    have hstep : u.xeStep n = { s.xeStep n with sets := (rank, l) :: (s.xeStep n).sets.filter fun p => p.1 != rank } :=
      hkept ▸ State.xeStep_setXeStep (State.step_xeStep s n)
    have hrank : u.rank = s.rank := hkept ▸ rfl
    have hnow : u.now = s.now := hkept ▸ rfl
    refine ⟨_, hrun, fun hwhy => ?_, fun hclosed hnone => ?_⟩
    · split
      next hopens =>
        rw [Option.isNone_iff_eq_none, List.isEmpty_iff] at hopens
        have hother : rank ≠ s.rank := by simpa [hopens] using hwhy
        rw [State.xeStep_openWindow, hstep, hrank]
        simp [hother]
      · rw [hstep]
        exact List.mem_cons_self
    · rw [if_pos (by simp [hclosed, hnone]), State.xeStep_openWindow, hrank, hnow]
      exact ⟨rfl, List.mem_cons_self⟩
  case window =>
    intro s n f buddies out hwindow hlate hsets hout
    refine ⟨_, congrArg Host.Outcome.next (State.exclusionEnd_of_late hwindow hlate hsets hout), ?_⟩
    clear hout
    generalize hu : s.setXeStep { s.xeStep n with sets := [] } = u
    have hempty : (u.xeStep n).sets = [] := by
      rw [← hu, State.xeStep_setXeStep (x := { s.xeStep n with sets := [] }) (State.step_xeStep s n)]
    by_cases hself : s.rank ∈ out
    · rw [if_pos (by simpa using hself)]
      refine ⟨hempty ▸ congrArg XeStep.sets ?_, fun _ => ?_, fun hother => absurd hself hother⟩
      · simp only [State.xeStep, State.stopExchange_xe]
      · rw [State.stopExchange_xe]
    · rw [if_neg (by simpa using hself)]
      have hreform : (u.reform out buddies).xe = { u.xe with
          excluded := u.xe.excluded ++ out
          buddies := u.xe.buddies ++ out.filterMap fun r => buddies.find? fun (p : Nat × Nat) => p.1 == r
          reformed := true } := (State.arrive_frame ..).same .xe (by decide)
      refine ⟨?_, fun hin => absurd hin hself, fun _ hbuddies => ?_⟩
      · split
        · exact hempty
        · exact hempty ▸ congrArg XeStep.sets (by simp only [State.xeStep, hreform])
      · have hall : (out.all fun r => buddies.any fun p => p.1 == r && !out.contains p.2 && s.present.contains p.2) = true := by
          simpa [and_assoc] using hbuddies
        rw [if_neg (not_not_intro hall), hreform, ← hu]
        exact ⟨rfl, rfl, rfl⟩

end Sys2Proof.Machine
end

section
/-!
The Farpinen ports as the exchange uses them (R271, R275): what sending leaves of a port and of the flits that wait, and which
operations leave every port alone. Messages leave the module in order, so what has been sent stays in front of what is sent later.
-/
namespace Sys2Proof.Machine

open Sys2Proof

variable {s t u : State} {p : Nat}

/-! ### A port after a write -/

theorem State.port_setPort_of_inv (hs : s.Inv) (p j : Nat) (x : Port) : (s.setPort p x).port j = if j = p then x else s.port j :=
  Tab.get_set_of_rising hs.tabs.fab.1 _ _ _

@[simp] theorem State.port_setPort_same (hs : s.Inv) (p : Nat) (x : Port) : (s.setPort p x).port p = x := by
  simp [State.port_setPort_of_inv hs]

theorem State.port_of_fab (h : t.fab = s.fab) (p : Nat) : t.port p = s.port p := by
  unfold State.port
  rw [h]

/-- A change of a flit's sequence numbers, credits and channels: settings, state, lanes and what has been received stay. -/
def Port.Sends (x y : Port) : Prop := ∃ q r n k o c,
  y = { x with queue := q, retry := x.retry ++ r, nextTx := n, turn := k, owed := o, credits := c }

theorem Port.Sends.refl (x : Port) : x.Sends x := ⟨x.queue, [], x.nextTx, x.turn, x.owed, x.credits, by simp⟩

theorem Port.Sends.trans {x y z : Port} (h : x.Sends y) (k : y.Sends z) : x.Sends z := by
  obtain ⟨_, r, _, _, _, _, rfl⟩ := h
  obtain ⟨q, r', n, k, o, c, rfl⟩ := k
  exact ⟨q, r ++ r', n, k, o, c, by simp⟩

/-! ### Sending -/

/-- The flit `f` waits on port `p`, or it has been sent with its payload on its channel. -/
def State.WaitsOrSent (s : State) (p : Nat) (f : FlitTx) : Prop :=
  f ∈ (s.port p).queue ∨ ∃ k a cr, OutMsg.flit p 0 k ((flitBytes k a f.vc 0 cr f.data).map BitVec.toNat) ∈ s.out

/-- Port `p` has sent: no flit that waited is lost, and what has left the module before stays in front. -/
structure State.Pumped (p : Nat) (s t : State) : Prop where
  frame : Frame [.fab, .out] s t
  port : (s.port p).Sends (t.port p)
  out : s.out <+: t.out
  flits : ∀ f, s.WaitsOrSent p f → t.WaitsOrSent p f

namespace State.Pumped

theorem refl : s.Pumped p s := ⟨Frame.refl, Port.Sends.refl _, List.prefix_rfl, fun _ => id⟩

theorem trans (h : s.Pumped p t) (k : t.Pumped p u) : s.Pumped p u :=
  ⟨h.frame.comp k.frame rfl, h.port.trans k.port, h.out.trans k.out, fun f => k.flits f ∘ h.flits f⟩

/-- One flit leaves: of those that waited, none is lost but the one that is sent. -/
theorem send (hs : s.Inv) {y : Port} {kind : Nat} {g : FlitTx} (hy : (s.port p).Sends y)
    (hg : ∀ f ∈ (s.port p).queue, f ∈ y.queue ∨ kind = 0 ∧ g.vc = f.vc ∧ g.data = f.data) :
    s.Pumped p ((s.setPort p y).sendFlit p kind g) := by
  have hport : ((s.setPort p y).sendFlit p kind g).port p = y := State.port_setPort_same hs p y
  refine ⟨((State.setPort_frame s p y).mono rfl).comp (State.sendFlit_frame ..) rfl, hport.symm ▸ hy, List.prefix_append _ _, ?_⟩
  intro f hf
  unfold State.WaitsOrSent
  rw [hport]
  rcases hf with hwaits | ⟨k, a, cr, hsent⟩
  · rcases hg f hwaits with hkept | ⟨rfl, hvc, hdata⟩
    · exact .inl hkept
    · refine .inr ⟨g.seq, ((s.setPort p y).port p).ack, g.credits, List.mem_append_right _ (List.mem_singleton.mpr ?_)⟩
      rw [hvc, hdata]
      rfl
  · exact .inr ⟨k, a, cr, List.mem_append_left _ hsent⟩

end State.Pumped

/-- The flit at place `i` leaves the queue alone. -/
theorem mem_eraseIdx_or_eq {α : Type} {l : List α} {i : Nat} {x y : α} (hx : l[i]? = some x) (hy : y ∈ l) :
    y ∈ l.eraseIdx i ∨ y = x := by
  obtain ⟨j, hj, rfl⟩ := List.mem_iff_getElem.mp hy
  by_cases hij : j = i
  · subst hij
    exact .inr (Option.some.inj ((List.getElem?_eq_getElem hj).symm.trans hx))
  · exact .inl (List.mem_eraseIdx_iff_getElem?.mpr ⟨j, hij, List.getElem?_eq_getElem hj⟩)

/-- The port after it has sent the flit `f` that stood at place `i` of its queue. -/
def Port.sent (x : Port) (i : Nat) (f : FlitTx) (turn : Round) : Port :=
  { x with
    queue := x.queue.eraseIdx i, retry := x.retry ++ [{ f with seq := x.nextTx, credits := x.owed }]
    nextTx := (x.nextTx + 1) % 65536, turn := turn, owed := [0, 0, 0, 0]
    credits := x.credits.set f.vc (x.credits.getD f.vc 0 - 1) }

theorem State.pumpGo_of_pick {n i : Nat} {turn : Round} {f : FlitTx} (hrun : s.ld.pwr ≠ .a2) (hup : (s.port p).state = .up)
    (hroom : (s.port p).retry.length < 256) (hpick : (s.port p).pick = some (i, turn)) (hf : (s.port p).queue[i]? = some f) :
    s.pumpGo p (n + 1) = ((s.setPort p ((s.port p).sent i f turn)).sendFlit p 0
      { f with seq := (s.port p).nextTx, credits := (s.port p).owed }).pumpGo p n := by
  rw [State.pumpGo]
  dsimp only
  rw [if_neg (by simp [hrun, hup, hroom]), hpick]
  dsimp only
  rw [hf]
  rfl

theorem State.pumped_pumpGo (hs : s.Inv) (p n : Nat) : s.Pumped p (s.pumpGo p n) := by
  induction n generalizing s with
  | zero => exact State.Pumped.refl
  | succ n ih =>
    by_cases hidle : s.ld.pwr = .a2 ∨ (s.port p).state ≠ .up ∨ 256 ≤ (s.port p).retry.length
    · unfold State.pumpGo
      rw [if_pos hidle]
      exact State.Pumped.refl
    · simp only [not_or, not_not, Nat.not_le] at hidle
      obtain ⟨hrun, hup, hroom⟩ := hidle
      cases hpick : (s.port p).pick with
      | none =>
        unfold State.pumpGo
        simp only [hpick, ite_self]
        exact State.Pumped.refl
      | some c =>
        obtain ⟨i, turn⟩ := c
        cases hf : (s.port p).queue[i]? with
        | none =>
          unfold State.pumpGo
          simp only [hpick, hf, ite_self]
          exact State.Pumped.refl
        | some f =>
          rw [State.pumpGo_of_pick hrun hup hroom hpick hf]
          have hsends : (s.port p).Sends ((s.port p).sent i f turn) := ⟨_, _, _, _, _, _, rfl⟩
          have hsent := State.Pumped.send (kind := 0) (g := { f with seq := (s.port p).nextTx, credits := (s.port p).owed })
            hs hsends fun g hg => (mem_eraseIdx_or_eq hf hg).imp id fun hsame => ⟨rfl, by rw [hsame], by rw [hsame]⟩
          exact hsent.trans (ih (hsent.frame.inv hs))

/-- A port that sends keeps its state, its lanes and its settings, and loses no flit (R275). -/
theorem State.pumped_pump (hs : s.Inv) (p : Nat) : s.Pumped p (s.pump p) := by
  have hgo := State.pumped_pumpGo hs p (s.port p).queue.length
  unfold State.pump
  extract_lets v x
  have hv : s.Pumped p v := hgo
  split
  · have hsends : (v.port p).Sends { x with owed := [0, 0, 0, 0] } :=
      ⟨x.queue, [], x.nextTx, x.turn, [0, 0, 0, 0], x.credits, by simp [x]⟩
    exact hv.trans (State.Pumped.send (hv.frame.inv hs) hsends fun f hf => .inl hf)
  · exact hv

end Sys2Proof.Machine
end

section
/-!
Waiting traffic (R275, R276, R463, R467 to R469): the flit that aging puts first, the flits of a message that is forwarded, and
the requests at an arbiter.
-/
namespace Sys2Proof.Machine

open Sys2Proof

/-! ### Aged flits (R463) -/

/-- The flit `f` has credit on the port. -/
def Port.hasCredit (x : Port) (f : FlitTx) : Prop := 0 < x.credits.getD f.vc 0

/-- Of the flits with credit, the first one that is aged goes first, and the round of the channels stands where it stood. -/
theorem Port.pick_of_aged {x : Port} {i : Nat} {f : FlitTx} (hf : x.queue[i]? = some f) (hcredit : x.hasCredit f)
    (haged : f.aged = true) (hfirst : ∀ j < i, ∀ g, x.queue[j]? = some g → x.hasCredit g → g.aged = false) :
    x.pick = some (i, x.turn) := by
  have hlt : i < x.queue.length := (List.getElem?_eq_some_iff.mp hf).1
  have hfind : ((List.range x.queue.length).filter fun i => (x.queue[i]?).any fun f => decide (0 < x.credits.getD f.vc 0)).find?
      (fun i => (x.queue[i]?).any fun f => f.aged) = some i := by
    rw [List.find?_filter, List.find?_range_eq_some]
    refine ⟨?_, List.mem_range.mpr hlt, fun j hj => ?_⟩
    · rw [hf]
      exact decide_eq_true ⟨decide_eq_true hcredit, haged⟩
    have hjl : j < x.queue.length := Nat.lt_trans hj hlt
    have hnot := hfirst j hj x.queue[j] (List.getElem?_eq_getElem hjl)
    rw [List.getElem?_eq_getElem hjl]
    by_cases hc : 0 < x.credits.getD x.queue[j].vc 0
    · simp [hnot hc]
    · simp only [Option.any_some, decide_eq_false hc, Bool.false_eq_true, false_and, decide_false, Bool.not_false]
  unfold Port.pick
  simp only [hfind, Option.some_or]

/-- The flit that a port picks is the next one that leaves the module. -/
theorem State.out_pump_of_pick {s : State} {p i : Nat} {turn : Round} {f : FlitTx} (hs : s.Inv) (hrun : s.ld.pwr ≠ .a2)
    (hup : (s.port p).state = .up) (hroom : (s.port p).retry.length < 256) (hpick : (s.port p).pick = some (i, turn))
    (hf : (s.port p).queue[i]? = some f) : ∃ l, (s.pump p).out = s.out ++ OutMsg.flit p 0 (s.port p).nextTx
      ((flitBytes (s.port p).nextTx (s.port p).ack f.vc 0 (s.port p).owed f.data).map BitVec.toNat) :: l := by
  obtain ⟨n, hn⟩ : ∃ n, (s.port p).queue.length = n + 1 :=
    Nat.exists_eq_succ_of_ne_zero (Nat.ne_of_gt (Nat.zero_lt_of_lt (List.getElem?_eq_some_iff.mp hf).1))
  have hlast : (s.pumpGo p (s.port p).queue.length).out <+: (s.pump p).out := by
    unfold State.pump
    dsimp only
    split
    · exact List.prefix_append _ _
    · exact List.prefix_rfl
  rw [hn, State.pumpGo_of_pick hrun hup hroom hpick hf] at hlast
  have hset := (State.setPort_frame s p ((s.port p).sent i f turn)).inv hs
  have hsent := (State.sendFlit_frame (s.setPort p ((s.port p).sent i f turn)) p 0
    { f with seq := (s.port p).nextTx, credits := (s.port p).owed }).inv hset
  obtain ⟨l, hl⟩ := (State.pumped_pumpGo hsent p n).out.trans hlast
  refine ⟨l, hl.symm.trans ?_⟩
  simp only [State.sendFlit, State.port_setPort_same hs, List.append_assoc]
  rfl

/-- What aging makes of a flit that waits on a port with `w` lanes. -/
def State.agedFlit (s : State) (w : Nat) (f : FlitTx) : FlitTx :=
  if f.vc ≠ 3 ∧ 4096 * 2304 ≤ (s.now - f.queuedAt) * w * 100 then { f with aged := true } else f

@[simp] theorem State.vc_agedFlit (s : State) (w : Nat) (f : FlitTx) : (s.agedFlit w f).vc = f.vc := by
  unfold State.agedFlit
  split <;> rfl

@[simp] theorem State.data_agedFlit (s : State) (w : Nat) (f : FlitTx) : (s.agedFlit w f).data = f.data := by
  unfold State.agedFlit
  split <;> rfl

theorem State.aged_agedFlit (s : State) (w : Nat) (f : FlitTx) : (s.agedFlit w f).aged = true ↔
    f.aged = true ∨ (f.vc ≠ 3 ∧ 4096 * 2304 ≤ (s.now - f.queuedAt) * w * 100) := by
  unfold State.agedFlit
  split <;> simp_all

/-- The port once the flits that have waited too long are marked. -/
def State.agedPort (s : State) (x : Port) : Port :=
  { x with queue := x.queue.map (s.agedFlit ((List.range 8).filter fun k => bitAt x.lanes k).length) }

theorem State.vcAging_eq (s : State) (p : Nat) : s.vcAging p = (s.setPort p (s.agedPort (s.port p))).pump p := rfl

/-! ### Forwarding (R276) -/

/-- A flit with the data units `l` that begins to wait. -/
def State.newFlit (s : State) (source vc : Nat) (l : List Byte) : FlitTx :=
  { seq := 0, vc := vc, data := l, source := source, credits := [], resends := 0, queuedAt := s.ld.time, aged := false }

theorem State.queueMsg_eq (s : State) (p source vc : Nat) (units : List Byte) : s.queueMsg p source vc units =
    (s.setPort p { s.port p with
      queue := (s.port p).queue ++ (chunks (units.length + 1) units).map (s.newFlit source vc) }).pump p := rfl

/-- Every chunk of a message that is queued waits, or it has been sent. -/
theorem State.waitsOrSent_queueMsg {s : State} (hs : s.Inv) (p source vc : Nat) {units w : List Byte}
    (hw : w ∈ chunks (units.length + 1) units) : (s.queueMsg p source vc units).WaitsOrSent p (s.newFlit source vc w) := by
  rw [State.queueMsg_eq]
  refine (State.pumped_pump ((State.setPort_frame ..).inv hs) p).flits _ (.inl ?_)
  rw [State.port_setPort_same hs]
  exact List.mem_append_right _ (List.mem_map_of_mem hw)

/-! ### Grants (R467 to R469) -/

section Arbiter

variable {s : State} {a n : Nat} {r x : ArbReq}

/-- The request waits at arbiter `a` and has waited 4,096 cycles (R469). -/
def ArbReq.agedAt (a : Nat) (r : ArbReq) : Bool := r.arbiter == a && decide (4096 ≤ r.waited)

/-- A search that keeps one of the values seen finds one of them, and finds none only where there is none. -/
theorem foldl_choice {α : Type} {g : Option α → α → Option α} (hnone : ∀ r, g none r = some r)
    (hsome : ∀ x r, g (some x) r = some r ∨ g (some x) r = some x) (l : List α) (b : Option α) :
    (∀ r, l.foldl g b = some r → b = some r ∨ r ∈ l) ∧ (l.foldl g b = none → b = none ∧ l = []) := by
  induction l generalizing b with
  | nil => simp
  | cons y l ih =>
    obtain ⟨hfound, hempty⟩ := ih (g b y)
    have hhead : g b y = some y ∨ g b y = b ∧ b ≠ none := by
      cases b with
      | none => exact .inl (hnone y)
      | some x => exact (hsome x y).imp id fun h => ⟨h, by simp⟩
    refine ⟨fun r hr => ?_, fun h => ?_⟩
    · rcases hfound r hr with hb | hin
      · rcases hhead with h | ⟨h, -⟩
        · exact .inr (Option.some.inj (h.symm.trans hb) ▸ List.mem_cons_self)
        · exact .inl (h.symm.trans hb)
      · exact .inr (List.mem_cons_of_mem _ hin)
    · rcases hhead with hy | ⟨hb, hne⟩
      · cases hy.symm.trans (hempty h).1
      · exact absurd (hb.symm.trans (hempty h).1) hne

/-- The oldest request of a class belongs to it and waits; there is one where the class is not empty. -/
theorem State.oldestReq_spec (s : State) (f : ArbReq → Bool) :
    (∀ r, s.oldestReq f = some r → r ∈ s.fab.arb ∧ f r = true) ∧
      (s.oldestReq f = none → ∀ r ∈ s.fab.arb, f r = false) := by
  unfold State.oldestReq
  obtain ⟨hsome, hnone⟩ := foldl_choice (g := fun (b : Option ArbReq) r =>
      match b with
      | none => some r
      | some x => if x.waited < r.waited ∨ (x.waited = r.waited ∧ r.input < x.input) then some r else b)
    (fun _ => rfl) (fun x r => by dsimp only; split <;> simp) (s.fab.arb.filter f) none
  refine ⟨fun r hr => List.mem_filter.mp ((hsome r hr).resolve_left (by simp)), fun h r hr => ?_⟩
  simpa using List.filter_eq_nil_iff.mp (hnone h).2 r hr

theorem State.agedReq_mem (h : s.agedReq a = some r) : r ∈ s.fab.arb ∧ r.agedAt a = true := (s.oldestReq_spec _).1 r h

theorem State.agedReq_none (h : s.agedReq a = none) : ∀ r ∈ s.fab.arb, r.agedAt a = false := (s.oldestReq_spec _).2 h

/-- An arbiter passes requests to another one. -/
theorem upstream_ne {a : Nat} {u : Nat × Nat} (h : upstream a = some u) : u.1 ≠ a := by
  unfold upstream at h
  split at h
  · cases h; dsimp only; omega
  split at h
  · cases h; dsimp only; omega
  split at h
  · cases h; dsimp only; omega
  split at h
  · cases h
  · cases h; dsimp only; omega

/-- A granted request leaves its arbiter; what then waits in its place waits at another one. -/
theorem State.arb_grantReq (s : State) (r : ArbReq) :
    ∃ l : List ArbReq, (s.grantReq r).fab.arb = s.fab.arb.erase r ++ l ∧ ∀ x ∈ l, x.arbiter ≠ r.arbiter := by
  refine ⟨_, rfl, fun x hx => ?_⟩
  split at hx
  · cases hx
  · obtain ⟨u, hu, rfl⟩ := List.mem_map.mp hx
    exact upstream_ne (Option.mem_toList.mp hu)

theorem State.out_grantReq (s : State) (r : ArbReq) : (s.grantReq r).out = s.out ++ [.grant r.arbiter r.input] := rfl

theorem State.turns_grantReq (s : State) (r : ArbReq) : (s.grantReq r).fab.turns = s.fab.turns := rfl

theorem State.mem_grantReq (hx : x ∈ s.fab.arb) (hne : x ≠ r) : x ∈ (s.grantReq r).fab.arb := by
  obtain ⟨l, hl, -⟩ := s.arb_grantReq r
  rw [hl]
  exact List.mem_append_left _ ((List.mem_erase_of_ne hne).mpr hx)

/-- A grant to an aged request leaves one aged request fewer at its arbiter. -/
theorem State.countP_grantReq (hr : r ∈ s.fab.arb) (haged : r.agedAt a = true) :
    (s.grantReq r).fab.arb.countP (ArbReq.agedAt a) = s.fab.arb.countP (ArbReq.agedAt a) - 1 := by
  obtain ⟨l, hl, hother⟩ := s.arb_grantReq r
  have harbiter : r.arbiter = a := by
    simp only [ArbReq.agedAt, Bool.and_eq_true, beq_iff_eq] at haged
    exact haged.1
  have hnone : l.countP (ArbReq.agedAt a) = 0 := List.countP_eq_zero.mpr fun x hx => by
    simp [ArbReq.agedAt, harbiter ▸ hother x hx]
  rw [hl, List.countP_append, hnone, List.countP_erase, if_pos ⟨hr, haged⟩]
  rfl

/-- What serving the aged requests of an arbiter grants, and what it leaves waiting (R469). -/
theorem State.serveAged_spec (hn : s.fab.arb.countP (ArbReq.agedAt a) ≤ n) :
    s.out <+: (s.serveAged a n).out ∧
      (∀ r ∈ s.fab.arb, r.agedAt a = true → OutMsg.grant a r.input ∈ (s.serveAged a n).out) ∧
      ∀ r ∈ s.fab.arb, r.agedAt a = false → r ∈ (s.serveAged a n).fab.arb := by
  induction n generalizing s with
  | zero =>
    have hnone := List.countP_eq_zero.mp (Nat.le_zero.mp hn)
    exact ⟨List.prefix_rfl, fun r hr haged => absurd haged (hnone r hr), fun r hr _ => hr⟩
  | succ n ih =>
    unfold State.serveAged
    split
    next hnone =>
      have hfresh := State.agedReq_none hnone
      exact ⟨List.prefix_rfl, fun r hr haged => absurd haged (by simp [hfresh r hr]), fun r hr _ => hr⟩
    next x hx =>
      obtain ⟨hin, haged⟩ := State.agedReq_mem hx
      have harbiter : x.arbiter = a := by
        simp only [ArbReq.agedAt, Bool.and_eq_true, beq_iff_eq] at haged
        exact haged.1
      have hcount : (s.grantReq x).fab.arb.countP (ArbReq.agedAt a) ≤ n := by
        rw [State.countP_grantReq hin haged]
        omega
      obtain ⟨hout, hgrants, hwait⟩ := ih hcount
      refine ⟨((State.out_grantReq s x).symm ▸ List.prefix_append _ _).trans hout, fun r hr hold => ?_, fun r hr hfresh => ?_⟩
      · by_cases hsame : r = x
        · subst hsame
          refine hout.subset ?_
          rw [State.out_grantReq, harbiter]
          simp
        · exact hgrants r (State.mem_grantReq hr hsame) hold
      · refine hwait r (State.mem_grantReq hr fun hsame => ?_) hfresh
        rw [hsame, haged] at hfresh
        cases hfresh

/-- A grant is made to a request of its arbiter. -/
theorem State.grantOne_cases (s : State) (a : Nat) :
    s.grantOne a = s ∨
      ∃ (r : ArbReq) (t : State), r.arbiter = a ∧ t.fab.arb = s.fab.arb ∧ t.out = s.out ∧ s.grantOne a = t.grantReq r := by
  unfold State.grantOne
  split
  next r hr =>
    obtain ⟨-, haged⟩ := State.agedReq_mem hr
    simp only [ArbReq.agedAt, Bool.and_eq_true, beq_iff_eq] at haged
    exact .inr ⟨r, s, haged.1, rfl, rfl, rfl⟩
  · split
    · exact .inl rfl
    next i turn _ =>
      split
      · exact .inl rfl
      next r hr =>
        obtain ⟨-, hat⟩ := (s.oldestReq_spec _).1 r hr
        simp only [Bool.and_eq_true, beq_iff_eq] at hat
        exact .inr ⟨r, { s with fab := { s.fab with turns := Tab.set (fun _ => ⟨[], 0⟩) s.fab.turns a turn } }, hat.1, rfl, rfl, rfl⟩

/-- Cycles of an arbiter take nothing back that has been granted, and leave the requests of the others waiting. -/
theorem State.arbCycles_spec (s : State) (a n : Nat) :
    s.out <+: (s.arbCycles a n).out ∧ ∀ r ∈ s.fab.arb, r.arbiter ≠ a → r ∈ (s.arbCycles a n).fab.arb := by
  induction n generalizing s with
  | zero => exact ⟨List.prefix_rfl, fun r hr _ => hr⟩
  | succ n ih =>
    have hone : s.out <+: (s.grantOne a).out ∧ ∀ r ∈ s.fab.arb, r.arbiter ≠ a → r ∈ (s.grantOne a).fab.arb := by
      rcases s.grantOne_cases a with h | ⟨x, t, hx, harb, hout, h⟩ <;> rw [h]
      · exact ⟨List.prefix_rfl, fun r hr _ => hr⟩
      · refine ⟨(State.out_grantReq t x).symm ▸ hout ▸ List.prefix_append _ _, fun r hr hne => ?_⟩
        exact State.mem_grantReq (harb ▸ hr) fun hsame => hne (hsame ▸ hx)
    obtain ⟨hout, hwait⟩ := ih (s.arbCycle a)
    refine ⟨hone.1.trans hout, fun r hr hne => hwait r (List.mem_map.mpr ⟨r, hone.2 r hr hne, if_neg hne⟩) hne⟩

/-- The weighted round serves one of the active inputs. -/
theorem Round.next_mem {t u : Round} {active : List (Nat × Nat)} {i : Nat} (h : t.next active = some (i, u)) :
    i ∈ active.map Prod.fst := by
  unfold Round.next at h
  extract_lets grants serve open_ at h
  split at h
  next j hj =>
    have hserved : j = i := congrArg Prod.fst (Option.some.inj h)
    have hopen : j ∈ open_ := by
      rcases Option.or_eq_some_iff.mp hj with hfind | ⟨-, hhead⟩
      · exact List.mem_of_find?_eq_some hfind
      · exact List.mem_of_mem_head? hhead
    exact hserved ▸ (List.mem_filter.mp hopen).1
  · obtain ⟨q, hq, hqi⟩ := Option.map_eq_some_iff.mp h
    have hserved : q.1 = i := congrArg Prod.fst hqi
    exact hserved ▸ List.mem_map_of_mem (List.mem_of_find?_eq_some hq)

/-- An active input is one at which a request waits. -/
theorem State.exists_of_active {i : Nat} (h : i ∈ (s.activeInputs a).map Prod.fst) :
    ∃ r ∈ s.fab.arb, r.arbiter = a ∧ r.input = i := by
  unfold State.activeInputs at h
  simp only [List.map_map, List.mem_map, List.mem_filter, List.any_eq_true, beq_iff_eq, Function.comp] at h
  obtain ⟨j, ⟨-, r, ⟨hr, harb⟩, hin⟩, rfl⟩ := h
  exact ⟨r, hr, harb, hin⟩

theorem State.serveAged_of_fresh (hfresh : ∀ r ∈ s.fab.arb, r.agedAt a = false) (n : Nat) : s.serveAged a n = s := by
  cases n with
  | zero => rfl
  | succ n =>
    unfold State.serveAged
    split
    · rfl
    next r hr =>
      obtain ⟨hin, haged⟩ := State.agedReq_mem hr
      rw [hfresh r hin] at haged
      cases haged

/-- The request that an arrival becomes at its first arbiter. -/
def State.request (s : State) (w : Arrival) : ArbReq :=
  { source := w.source, arbiter := (firstArbiter w.source).1, input := (firstArbiter w.source).2, count := s.sourceWeight w.source
    waited := w.waited, last := w.last }

/-- The requests have arrived at their first arbiters. -/
def State.requested (s : State) (l : List Arrival) : State := { s with fab := { s.fab with arb := s.fab.arb ++ l.map s.request } }

/-- Requests that wait at an arbiter. -/
def State.waitingAt (s : State) (a : Nat) : Nat := (s.fab.arb.filter fun (r : ArbReq) => r.arbiter == a).length

theorem execArbiterAging_eq (a : Nat) (l : List Arrival) (grants : Nat) (s : State) : execArbiterAging a ⟨l, grants⟩ s =
    .next (((s.requested l).serveAged a ((s.requested l).waitingAt a)).arbCycles a (min grants ((s.requested l).waitingAt a))) := rfl

theorem State.countP_agedAt_le (s : State) (a : Nat) : s.fab.arb.countP (ArbReq.agedAt a) ≤ s.waitingAt a := by
  unfold State.waitingAt
  rw [← List.countP_eq_length_filter]
  exact List.countP_mono_left fun r _ h => (Bool.and_eq_true_iff.mp h).1

/-- One grant of an arbiter at which no request has aged goes to the next input of the weighted round. -/
theorem State.arbCycle_of_next {i : Nat} {turn : Round} (hs : s.Inv) (hfresh : ∀ r ∈ s.fab.arb, r.agedAt a = false)
    (hnext : (Tab.get (fun _ => (⟨[], 0⟩ : Round)) s.fab.turns a).next (s.activeInputs a) = some (i, turn)) :
    (s.arbCycle a).out = s.out ++ [.grant a i] ∧ Tab.get (fun _ => (⟨[], 0⟩ : Round)) (s.arbCycle a).fab.turns a = turn := by
  obtain ⟨x, hx, harb, hin⟩ := State.exists_of_active (Round.next_mem hnext)
  have hnone : s.agedReq a = none := by
    cases h : s.agedReq a with
    | none => rfl
    | some r =>
      obtain ⟨hr, haged⟩ := State.agedReq_mem h
      rw [hfresh r hr] at haged
      cases haged
  cases hr : s.oldestReq (fun r => r.arbiter == a && r.input == i) with
  | none =>
    have hmissed := (s.oldestReq_spec _).2 hr x hx
    simp [harb, hin] at hmissed
  | some r =>
    obtain ⟨-, hat⟩ := (s.oldestReq_spec _).1 r hr
    simp only [Bool.and_eq_true, beq_iff_eq] at hat
    have hgrant : s.grantOne a =
        { s with fab := { s.fab with turns := Tab.set (fun _ => ⟨[], 0⟩) s.fab.turns a turn } }.grantReq r := by
      simp only [State.grantOne, hnone, hnext, hr]
    have hturn : Tab.get (fun _ => (⟨[], 0⟩ : Round)) (Tab.set (fun _ => ⟨[], 0⟩) s.fab.turns a turn) a = turn := by
      rw [Tab.get_set_of_rising hs.tabs.fab.2.2.2, if_pos rfl]
    unfold State.arbCycle
    rw [hgrant]
    refine ⟨?_, hturn⟩
    rw [← hat.1, ← hat.2]
    rfl

end Arbiter

/-- Settles O42: an aged flit with credit is the one that its port picks, and sending, forwarding and granting lose nothing that
waits; as an aged request is granted, one fewer waits at its arbiter. -/
theorem waitingTrafficGoesOn : Obligations.WaitingTrafficGoesOn := by
  unfold Obligations.WaitingTrafficGoesOn
  refine ⟨?aged, ?forward, ?aging, ?round⟩
  case aged =>
    intro s p i f x old hs hx hup hrun hroom hf hcredit hage hold hfirst
    subst hx
    generalize hy : s.agedPort (s.port p.val) = y
    have hget (j : Nat) : y.queue[j]? = ((s.port p.val).queue[j]?).map
        (s.agedFlit ((List.range 8).filter fun k => bitAt (s.port p.val).lanes k).length) := by
      rw [← hy]
      exact List.getElem?_map ..
    have hpick : y.pick = some (i, y.turn) := by
      refine Port.pick_of_aged ((hget i).trans (congrArg _ hf)) ?_ ?_ fun j hj g hg hc => ?_
      · rwa [Port.hasCredit, State.vc_agedFlit, ← hy]
      · exact (State.aged_agedFlit ..).mpr ((hage f).mp hold)
      · obtain ⟨g0, hg0, rfl⟩ := Option.map_eq_some_iff.mp ((hget j).symm.trans hg)
        rw [Port.hasCredit, State.vc_agedFlit, ← hy] at hc
        exact Bool.eq_false_iff.mpr fun h => hfirst j hj g0 hg0 hc ((hage g0).mpr ((State.aged_agedFlit ..).mp h))
    have hport : (s.setPort p.val y).port p.val = y := State.port_setPort_same hs ..
    obtain ⟨l, hl⟩ := State.out_pump_of_pick (s := s.setPort p.val y) (p := p.val) ((State.setPort_frame ..).inv hs) hrun
      (by rw [hport, ← hy]; exact hup) (by rw [hport, ← hy]; exact hroom) (hport.symm ▸ hpick)
      (by rw [hport, hget, hf]; rfl)
    refine ⟨_, l, congrArg Host.Outcome.next (State.vcAging_eq ..), ?_⟩
    rw [hy, hl, hport, State.vc_agedFlit, State.data_agedFlit, ← hy]
    rfl
  case forward =>
    intro s p0 dest p v vc bytes crosses hs hroute hv
    have hexec : execMessageForward p0 ⟨dest, vc⟩ bytes s = .next (s.queueMsg p (1 + p0.val) v bytes) := by
      simp only [execMessageForward, hroute, hv]
    exact ⟨_, hexec, fun w hw => (State.waitsOrSent_queueMsg hs p (1 + p0.val) v hw).imp (fun h => ⟨_, h, rfl, rfl, rfl⟩) id⟩
  case aging =>
    intro s a arrivals grants
    refine ⟨_, execArbiterAging_eq a arrivals grants s, ?_⟩
    obtain ⟨-, hgrants, hwait⟩ := State.serveAged_spec ((s.requested arrivals).countP_agedAt_le a)
    obtain ⟨hout, hothers⟩ := ((s.requested arrivals).serveAged a ((s.requested arrivals).waitingAt a)).arbCycles_spec a
      (min grants ((s.requested arrivals).waitingAt a))
    have hold {r : ArbReq} (hr : r ∈ s.fab.arb) : r ∈ (s.requested arrivals).fab.arb := List.mem_append_left _ hr
    refine ⟨fun w hw hat hlong => ?_, fun r hr hat hlong => ?_, fun hnone r hr hat hshort => ?_, fun r hr hne => ?_⟩
    · have hin : s.request w ∈ (s.requested arrivals).fab.arb := List.mem_append_right _ (List.mem_map_of_mem hw)
      exact hout.subset (hgrants _ hin (by simp [ArbReq.agedAt, State.request, hat, hlong]))
    · exact hout.subset (hgrants r (hold hr) (by simp [ArbReq.agedAt, hat, hlong]))
    · rw [hnone, Nat.zero_min]
      exact hwait r (hold hr) (by simp [ArbReq.agedAt, Nat.not_le.mpr hshort])
    · exact hothers r (hwait r (hold hr) (by simp [ArbReq.agedAt, hne])) hne
  case round =>
    intro s a i turn hs hyoung hnext
    have hfresh (r : ArbReq) (hr : r ∈ s.fab.arb) : r.agedAt a = false := by
      by_cases hat : r.arbiter = a
      · simp [ArbReq.agedAt, Nat.not_le.mpr (hyoung r hr hat)]
      · simp [ArbReq.agedAt, hat]
    have hsame : s.requested [] = s := by simp [State.requested]
    obtain ⟨x, hx, hat, -⟩ := State.exists_of_active (Round.next_mem hnext)
    have hsome : min 1 (s.waitingAt a) = 1 :=
      Nat.min_eq_left (List.length_pos_of_mem (List.mem_filter.mpr ⟨hx, beq_iff_eq.mpr hat⟩))
    obtain ⟨hout, hturn⟩ := State.arbCycle_of_next hs hfresh hnext
    refine ⟨_, execArbiterAging_eq a [] 1 s, ?_⟩
    rw [hsame, State.serveAged_of_fresh hfresh, hsome]
    exact ⟨hout, hturn⟩

end Sys2Proof.Machine
end

section
/-!
What leaves every Farpinen port alone and only adds to what has left the module: interrupts, records and counters; and what
training makes of the one port that it names (R273, R277).
-/
namespace Sys2Proof.Machine

open Sys2Proof

variable {s t u : State} {p : Nat}

/-! ### Ports left alone -/

/-- Every port is as before, and what has left the module stays in front. -/
structure State.PortsKept (s t : State) : Prop where
  fab : t.fab = s.fab
  out : s.out <+: t.out

namespace State.PortsKept

theorem refl (s : State) : s.PortsKept s := ⟨rfl, List.prefix_rfl⟩

theorem trans (h : s.PortsKept t) (k : t.PortsKept u) : s.PortsKept u := ⟨k.fab.trans h.fab, h.out.trans k.out⟩

theorem of_frame {l : List Comp} (h : Frame l s t) (hfab : l.contains .fab = false) (hout : l.contains .out = false) :
    s.PortsKept t :=
  ⟨h.same .fab (by simpa using hfab), (show t.out = s.out from h.same .out (by simpa using hout)) ▸ List.prefix_rfl⟩

theorem port (h : s.PortsKept t) (p : Nat) : t.port p = s.port p := State.port_of_fab h.fab p

theorem foldl {α : Type} {f : State → α → State} (hf : ∀ v x, PortsKept v (f v x)) (l : List α) (s : State) :
    s.PortsKept (l.foldl f s) :=
  List.foldlRecOn (motive := fun v : State => s.PortsKept v) l f (refl s) fun v hv x _ => hv.trans (hf v x)

/-- A message that takes no route over the ports. -/
theorem emit (s : State) {m : OutMsg} (h : ∀ dest kind words, m ≠ .farpinen dest kind words) : s.PortsKept (s.emit m) := by
  cases m with
  | farpinen dest kind words => exact absurd rfl (h dest kind words)
  | _ => exact ⟨rfl, List.prefix_append _ _⟩

theorem sendSource (s : State) (n : Nat) : s.PortsKept (s.sendSource n) := by
  unfold State.sendSource State.sendVector
  split
  · exact emit s (by simp)
  · split
    · exact (emit s (by simp)).trans (of_frame (State.linkUse_frame _) rfl rfl)
    · exact ⟨rfl, List.prefix_rfl⟩

theorem arrive (s : State) (n : Nat) : s.PortsKept (s.arrive n) := by
  unfold State.arrive
  split
  · exact refl s
  · extract_lets noted c _ counted woken
    have hcounted : s.PortsKept counted := by
      unfold counted
      split <;> exact ⟨rfl, List.prefix_rfl⟩
    have hwoken : s.PortsKept woken := by
      unfold woken
      split
      · exact hcounted.trans (of_frame (State.wakeA2_frame ..) rfl rfl)
      · exact hcounted
    split
    · exact hwoken.trans (sendSource ..)
    · exact hwoken

theorem then_arrive (h : s.PortsKept t) (n : Nat) : s.PortsKept (t.arrive n) := h.trans (arrive t n)

theorem trigger (s : State) (cause : Nat) : s.PortsKept (s.trigger cause) := by
  unfold State.trigger
  extract_lets _ l logged
  have hlogged : s.PortsKept logged := foldl (fun v x => of_frame (State.triggerLog_frame ..) rfl rfl) l s
  split
  · exact hlogged
  · exact hlogged.trans (arrive ..)

theorem cper (s : State) (b : CperBody) : s.PortsKept (s.cper b) := by
  unfold State.cper
  extract_lets w _ queued _
  have hqueued : s.PortsKept queued := by
    unfold queued
    split
    · exact ⟨rfl, List.prefix_rfl⟩
    · refine then_arrive ?_ 192
      exact ⟨rfl, List.prefix_rfl⟩
  exact (hqueued.trans (of_frame (State.logFor_frame ..) rfl rfl)).trans (trigger ..)

theorem setFailed (s : State) (k : Nat) : s.PortsKept (s.setFailed k) := by
  unfold State.setFailed
  refine then_arrive ?_ 198
  exact ⟨rfl, List.prefix_rfl⟩

theorem setReady (s : State) (k : Nat) : s.PortsKept (s.setReady k) := by
  unfold State.setReady
  refine then_arrive ?_ 198
  exact ⟨rfl, List.prefix_rfl⟩

theorem portChanged (s old : State) (p : Nat) : s.PortsKept (s.portChanged old p) := by
  unfold State.portChanged
  split
  · exact refl s
  · exact arrive ..

end State.PortsKept

/-! ### A port that leaves service or trains (R273, R277) -/

/-- The port `y` is what `x` is while it does not run: its retry buffer, what it has received, its failures and the lanes taken
out stay. -/
structure Port.Stopped (x y : Port) : Prop where
  state : y.state ≠ .up
  nextRx : y.nextRx = x.nextRx
  retry : y.retry = x.retry
  out_ : y.out_ = x.out_
  fails : y.fails = x.fails

/-- Port `p` has been stopped, and what has left the module stays in front. -/
structure State.Stops (p : Nat) (s t : State) : Prop where
  port : (s.port p).Stopped (t.port p)
  out : s.out <+: t.out

namespace State.Stops

theorem then_kept (h : s.Stops p t) (k : t.PortsKept u) : s.Stops p u := ⟨k.port p ▸ h.port, h.out.trans k.out⟩

/-- A write of the port. -/
theorem setPort (hs : s.Inv) {y : Port} (hy : (s.port p).Stopped y) : s.Stops p (s.setPort p y) :=
  ⟨(State.port_setPort_same hs p y).symm ▸ hy, List.prefix_rfl⟩

theorem portEnd (hs : s.Inv) {st : PortState} (hst : st ≠ .up) : s.Stops p (s.portEnd p st) := by
  unfold State.portEnd
  dsimp only
  have hended := (setPort hs (p := p) (y := { s.port p with state := st, lanes := 0 }) ⟨hst, rfl, rfl, rfl, rfl⟩).then_kept
    (State.PortsKept.portChanged _ s p)
  split
  · exact hended.then_kept (State.PortsKept.setFailed ..)
  · exact hended

end State.Stops

/-- The settings in the registers are in force (R245). -/
def State.withSettings (s : State) : State := { s with xe := { s.xe with taken := some (xeSettings.map s.reg) } }

/-- The port that starts to train. -/
def State.trainingPort (s : State) (x : Port) : Port :=
  { x with
    state := .training, step := 1, startedAt := s.now, trained := x.trained + 1, lanes := 0
    settings := s.withSettings.portSettings, laneErrors := List.replicate 8 0, owed := [0, 0, 0, 0], inbox := [], held := 0 }

/-- The training pattern goes out; every training but the first is counted. -/
def State.startTraining (s : State) (p : Nat) : State :=
  let t : State := { s.withSettings.setPort p (s.trainingPort (s.port p)) with out := s.out ++ [.flit p 3 0 []] }
  if 0 < (s.port p).trained then t.bump (0x2001020 + 0x40 * p) else t

/-- What the start of a training comes to (R245, R273). -/
theorem State.trainPort_eq (s : State) (p : Nat) : s.trainPort p =
    if s.fld (rPortCtrl p) 31 1 = 0 then (s.clearReady (18 + p)).setPort p { s.port p with state := .disabled, lanes := 0 }
    else if dirOf s.withSettings.portSettings p = 0 ∨ ¬ s.withSettings.topoGood then
      (s.clearReady (18 + p)).withSettings.setPort p
        { s.port p with state := .disabled, lanes := 0, settings := s.withSettings.portSettings }
    else (s.clearReady (18 + p)).startTraining p := rfl

theorem State.Inv.withSettings (hs : s.Inv) : s.withSettings.Inv := hs.withXe _

theorem State.port_startTraining (hs : s.Inv) (p : Nat) : (s.startTraining p).port p = s.trainingPort (s.port p) := by
  have hset := State.port_setPort_same hs.withSettings p (s.trainingPort (s.port p))
  unfold State.startTraining
  dsimp only
  split <;> exact hset

theorem State.out_startTraining (s : State) (p : Nat) : s.out <+: (s.startTraining p).out := by
  unfold State.startTraining
  dsimp only
  split <;> exact List.prefix_append _ _

theorem State.stops_trainPort (hs : s.Inv) (p : Nat) : s.Stops p (s.trainPort p) := by
  have hcleared := (State.clearReady_frame s (18 + p)).inv hs
  rw [State.trainPort_eq]
  split
  · have hset := State.Stops.setPort (p := p) (y := { s.port p with state := .disabled, lanes := 0 }) hcleared
      ⟨nofun, rfl, rfl, rfl, rfl⟩
    exact ⟨hset.port, hset.out⟩
  split
  · have hset := State.Stops.setPort (p := p) (y := { s.port p with
      state := .disabled, lanes := 0, settings := s.withSettings.portSettings }) hcleared.withSettings ⟨nofun, rfl, rfl, rfl, rfl⟩
    exact ⟨hset.port, hset.out⟩
  · refine ⟨?_, State.out_startTraining (s.clearReady (18 + p)) p⟩
    rw [State.port_startTraining hcleared]
    exact ⟨nofun, rfl, rfl, rfl, rfl⟩

theorem State.stops_retrain (hs : s.Inv) (p : Nat) : s.Stops p (s.retrain p) :=
  (State.stops_trainPort hs p).then_kept (State.PortsKept.portChanged ..)

/-- A lane is taken out (R277). -/
theorem State.stops_takeLane (hs : s.Inv) (p lane : Nat) :
    (s.setPort p { s.port p with out_ := (s.port p).out_ ||| 2 ^ lane }).Stops p (s.takeLane p lane) := by
  have hset := (State.setPort_frame s p { s.port p with out_ := (s.port p).out_ ||| 2 ^ lane }).inv hs
  unfold State.takeLane
  dsimp only
  split
  · exact State.Stops.portEnd hset (by decide)
  · exact State.stops_retrain hset p

end Sys2Proof.Machine
end

section
/-!
Flits on a Farpinen port (R271, R272, R277, R438): one that is taken, one that is answered by a NAK, those that are sent again,
and the lane that the limit of resends takes out.
-/
namespace Sys2Proof.Machine

open Sys2Proof

variable {s t u : State} {p : Nat}

/-! ### Sending again (R277) -/

theorem State.resendFlits_spec (s : State) (p : Nat) (l : List FlitTx) : s.PortsKept (s.resendFlits p l) ∧
    ∀ f ∈ l, OutMsg.flit p 0 f.seq ((flitBytes f.seq (s.port p).ack f.vc 0 f.credits f.data).map BitVec.toNat) ∈
      (s.resendFlits p l).out := by
  have hsent (l : List FlitTx) : s.PortsKept (l.foldl (fun (u : State) f => u.sendFlit p 0 f) s) ∧
      ∀ f ∈ l, OutMsg.flit p 0 f.seq ((flitBytes f.seq (s.port p).ack f.vc 0 f.credits f.data).map BitVec.toNat) ∈
        (l.foldl (fun (u : State) f => u.sendFlit p 0 f) s).out := by
    induction l using List.reverseRecOn with
    | nil => exact ⟨State.PortsKept.refl s, by simp⟩
    | append_singleton l g ih =>
      obtain ⟨hkept, hout⟩ := ih
      rw [List.foldl_append]
      refine ⟨hkept.trans ⟨rfl, List.prefix_append _ _⟩, fun f hf => ?_⟩
      rcases List.mem_append.mp hf with hold | hnew
      · exact List.mem_append_left _ (hout f hold)
      · rw [List.mem_singleton.mp hnew, ← hkept.port p]
        exact List.mem_append_right _ List.mem_cons_self
  obtain ⟨hkept, hout⟩ := hsent l
  exact ⟨⟨hkept.fab, hkept.out⟩, hout⟩

/-- The flits of the retry buffer are sent again, and the port goes on sending: the buffer holds them in front (R277). -/
theorem State.resent_spec (hs : s.Inv) (l : List FlitTx) :
    (s.port p).Sends (((s.resendFlits p l).pump p).port p) ∧ s.out <+: ((s.resendFlits p l).pump p).out ∧
      ∀ f ∈ l, OutMsg.flit p 0 f.seq ((flitBytes f.seq (s.port p).ack f.vc 0 f.credits f.data).map BitVec.toNat) ∈
        ((s.resendFlits p l).pump p).out := by
  obtain ⟨hkept, hout⟩ := s.resendFlits_spec p l
  have hpump := State.pumped_pump ((State.resendFlits_frame s p l).inv hs) p
  exact ⟨hkept.port p ▸ hpump.port, hkept.out.trans hpump.out, fun f hf => hpump.out.subset (hout f hf)⟩

/-- A flit that is sent once more. -/
def FlitTx.resent (f : FlitTx) : FlitTx := { f with resends := f.resends + 1 }

/-- Errors by lane once those of a NAK are added. -/
def Port.nakErrors (x : Port) (lanes : List Nat) : List Nat :=
  (List.range 8).map fun i => x.laneErrors.getD i 0 + (lanes.filter (· == i)).length

/-- A NAK on a port that is up (R277). -/
theorem State.nakArrives_of_up {ack : Nat} {lanes : List Nat} {rest : List FlitTx} (hup : (s.port p).state = .up)
    (hrest : rest = ackRetry ack (s.port p).retry) :
    s.nakArrives p ack lanes =
      if rest.any (fun f => decide (8 ≤ f.resends)) then
        s.setPort p { s.port p with retry := rest, laneErrors := (s.port p).nakErrors lanes }
      else ((s.setPort p { s.port p with
        retry := rest.map FlitTx.resent
        laneErrors := if rest.isEmpty then List.replicate 8 0 else (s.port p).nakErrors lanes }).resendFlits p
          (rest.map FlitTx.resent)).pump p := by
  subst hrest
  unfold State.nakArrives
  simp only [hup, ne_eq, not_true_eq_false, if_false, List.isEmpty_map]
  rfl

/-- A NAK leaves what has been received as it is, and takes nothing back. -/
theorem State.nakArrives_keeps (hs : s.Inv) (ack : Nat) (lanes : List Nat) :
    ((s.nakArrives p ack lanes).port p).nextRx = (s.port p).nextRx ∧ s.out <+: (s.nakArrives p ack lanes).out := by
  by_cases hup : (s.port p).state = .up
  · rw [State.nakArrives_of_up hup rfl]
    split
    · rw [State.port_setPort_same hs]
      exact ⟨rfl, List.prefix_rfl⟩
    · generalize hy : ({ s.port p with
        retry := (ackRetry ack (s.port p).retry).map FlitTx.resent
        laneErrors := if (ackRetry ack (s.port p).retry).isEmpty then List.replicate 8 0 else (s.port p).nakErrors lanes } : Port) = y
      obtain ⟨hport, hout, -⟩ := State.resent_spec (p := p) ((State.setPort_frame s p y).inv hs)
        ((ackRetry ack (s.port p).retry).map FlitTx.resent)
      rw [State.port_setPort_same hs] at hport
      obtain ⟨_, _, _, _, _, _, hport⟩ := hport
      exact ⟨by rw [hport, ← hy], hout⟩
  · unfold State.nakArrives
    rw [if_pos hup]
    exact ⟨rfl, List.prefix_rfl⟩

/-! ### Errors on lanes (R277, R300) -/

theorem State.Stops.nextRx (h : s.Stops p t) : (t.port p).nextRx = (s.port p).nextRx := h.port.nextRx

/-- An error on a lane is noted, and a lane that becomes suspect is taken out (R278). -/
theorem State.laneError_cases (s : State) (p lane : Nat) : ∃ v, s.PortsKept v ∧ (s.Inv → v.Inv) ∧
    (s.laneError p lane = v ∨ s.laneError p lane = v.takeLane p lane) := by
  have hnoted : s.PortsKept (s.noteError (portLane p lane)).1 := .of_frame (State.noteError_frame ..) rfl rfl
  have hcounted := hnoted.trans (.of_frame (State.bump_frame _ 0x2800418 1) rfl rfl)
  have hinv (hs : s.Inv) := (State.bump_frame _ 0x2800418 1).inv ((State.noteError_frame s (portLane p lane)).inv hs)
  unfold State.laneError
  extract_lets u n
  split
  · exact ⟨_, hnoted, (State.noteError_frame ..).inv, .inl rfl⟩
  · exact ⟨_, hcounted.trans ((State.PortsKept.cper ..).trans (.of_frame (State.freeStep_frame _) rfl rfl)),
      fun hs => (State.freeStep_frame _).inv ((State.cper_frame ..).inv (hinv hs)), .inr rfl⟩

/-- An error on a lane leaves what has been received as it is. -/
theorem State.laneError_keeps (hs : s.Inv) (p lane : Nat) :
    ((s.laneError p lane).port p).nextRx = (s.port p).nextRx ∧ s.out <+: (s.laneError p lane).out := by
  obtain ⟨v, hkept, hinv, hrun | hrun⟩ := s.laneError_cases p lane <;> rw [hrun]
  · exact ⟨congrArg Port.nextRx (hkept.port p), hkept.out⟩
  · have hstops := State.stops_takeLane (hinv hs) p lane
    refine ⟨hstops.nextRx.trans ?_, hkept.out.trans hstops.out⟩
    rw [State.port_setPort_same (hinv hs)]
    exact (congrArg Port.nextRx (hkept.port p) : (v.port p).nextRx = _)

theorem State.foldl_laneError_keeps (hs : s.Inv) (p : Nat) (l : List Nat) :
    ((l.foldl (fun (v : State) lane => v.laneError p lane) s).port p).nextRx = (s.port p).nextRx ∧
      s.out <+: (l.foldl (fun (v : State) lane => v.laneError p lane) s).out := by
  induction l generalizing s with
  | nil => exact ⟨rfl, List.prefix_rfl⟩
  | cons lane l ih =>
    obtain ⟨hrx, hout⟩ := State.laneError_keeps hs p lane
    obtain ⟨hrx', hout'⟩ := ih ((State.laneError_frame s p lane).inv hs)
    exact ⟨hrx'.trans hrx, hout.trans hout'⟩

/-! ### A flit is taken (R271, R272) -/

/-- The checks of a received flit (R271, R272): no uncorrectable codeword, its CRC, and its sequence number where it has one. -/
def goodFlit (x : Port) (raw : List Byte) : Prop :=
  (flitStates raw).contains .bad = false ∧ leNat (((correctFlit raw).drop 28).take 4) = crc32 (crcInput (correctFlit raw)) ∧
    (leNat (((correctFlit raw).drop 5).take 1) % 4 = 0 → leNat ((correctFlit raw).take 2) = x.nextRx)

theorem State.nextRx_takeBuffer (s : State) (x : Port) (vc : Nat) : (s.takeBuffer x vc).nextRx = x.nextRx := by
  unfold State.takeBuffer
  split <;> rfl

/-- A flit that is taken in good order advances the expected sequence number when it has one; any other leaves it as it is and is
answered by a NAK of the last good flit. -/
theorem State.takeFlit_spec (hs : s.Inv) {raw : List Byte} (hup : (s.port p).state = .up) :
    (goodFlit (s.port p) raw → ((s.takeFlit p raw).port p).nextRx =
      if leNat (((correctFlit raw).drop 5).take 1) % 4 = 0 then ((s.port p).nextRx + 1) % 65536 else (s.port p).nextRx) ∧
    (¬ goodFlit (s.port p) raw → ((s.takeFlit p raw).port p).nextRx = (s.port p).nextRx ∧
      OutMsg.flit p 1 0 ((flitBytes 0 (s.port p).ack 0 3 [] []).map BitVec.toNat) ∈ (s.takeFlit p raw).out) := by
  unfold State.takeFlit
  extract_lets x0 fixed blamed x s0 s1 l w flags numbered good kept y s2
  rw [if_neg (not_not_intro hup)]
  have hs0 : s0.Inv ∧ (s0.port p).nextRx = (s.port p).nextRx ∧ s.out <+: s0.out := by
    unfold s0
    split
    · exact ⟨hs, rfl, List.prefix_rfl⟩
    · have hport : (s.setPort p x).freeStep.port p = x := State.port_setPort_same hs p x
      exact ⟨(State.freeStep_frame _).inv ((State.setPort_frame s p x).inv hs), by rw [hport], List.prefix_rfl⟩
  have hs1 : s1.Inv ∧ s0.PortsKept s1 := by
    unfold s1
    split
    · exact ⟨hs0.1, State.PortsKept.refl s0⟩
    · exact ⟨(State.evtU_frame ..).inv ((State.bump_frame ..).inv hs0.1),
        (State.PortsKept.of_frame (State.bump_frame ..) rfl rfl).trans (.of_frame (State.evtU_frame ..) rfl rfl)⟩
  clear_value s0 s1
  obtain ⟨-, hrx0, hout0⟩ := hs0
  obtain ⟨hinv, hkept⟩ := hs1
  have hrx : (s1.port p).nextRx = (s.port p).nextRx := (congrArg Port.nextRx (hkept.port p)).trans hrx0
  have hgood : good = true ↔ goodFlit (s.port p) raw := by
    simp [good, goodFlit, numbered, flags, w, l, x, x0, and_assoc, imp_iff_not_or]
  refine ⟨fun hok => ?_, fun hbad => ?_⟩
  · rw [if_neg (not_not_intro (hgood.mpr hok))]
    have hinv2 : s2.Inv := (State.setPort_frame ..).inv hinv
    have hy : y.nextRx = if leNat (((correctFlit raw).drop 5).take 1) % 4 = 0 then ((s.port p).nextRx + 1) % 65536
        else (s.port p).nextRx := by
      have hnumbered : numbered = decide (leNat (((correctFlit raw).drop 5).take 1) % 4 = 0) := rfl
      unfold y
      rw [hnumbered]
      simp only [decide_eq_true_eq]
      split
      · exact State.nextRx_takeBuffer ..
      · rfl
    have hrx2 : (s2.port p).nextRx = y.nextRx := by
      unfold s2
      rw [State.port_setPort_same hinv]
    refine Eq.trans ?_ (hrx2.trans hy)
    clear_value s2
    split
    · exact (State.nakArrives_keeps hinv2 ..).1
    · obtain ⟨_, _, _, _, _, _, hport⟩ := (State.pumped_pump hinv2 p).port
      rw [hport]
  · rw [if_pos fun h => hbad (hgood.mp h)]
    obtain ⟨hkeeps, hlater⟩ := State.foldl_laneError_keeps ((State.sendFlit_frame s1 p 1 (bareFlit [])).inv hinv) p blamed.eraseDups
    refine ⟨hkeeps.trans hrx, hlater.subset (List.mem_append_right _ (List.mem_singleton.mpr ?_))⟩
    simp only [bareFlit, Port.ack, hrx]
    rfl

/-! ### The limit of resends (R277) -/

/-- The first of the values of `b :: l` that `f` makes largest. -/
def firstWorst (f : Nat → Nat) (b : Nat) (l : List Nat) : Nat := l.foldl (fun b i => if f b < f i then i else b) b

theorem firstWorst_spec (f : Nat → Nat) (b : Nat) (l : List Nat) (hl : (b :: l).Pairwise (· < ·)) :
    firstWorst f b l ∈ b :: l ∧
      ∀ j ∈ b :: l, f j ≤ f (firstWorst f b l) ∧ (j < firstWorst f b l → f j < f (firstWorst f b l)) := by
  induction l using List.reverseRecOn with
  | nil => simp [firstWorst]
  | append_singleton l i ih =>
    rw [← List.cons_append, List.pairwise_append] at hl
    obtain ⟨hsorted, -, hlast⟩ := hl
    obtain ⟨hmem, hworst⟩ := ih hsorted
    have hstep : firstWorst f b (l ++ [i]) = if f (firstWorst f b l) < f i then i else firstWorst f b l := by
      rw [firstWorst, List.foldl_append]
      rfl
    rw [hstep, ← List.cons_append]
    split
    next hmore =>
      refine ⟨List.mem_append_right _ (List.mem_singleton_self i), fun j hj => ?_⟩
      rcases List.mem_append.mp hj with hold | hnew
      · have hless := Nat.lt_of_le_of_lt (hworst j hold).1 hmore
        exact ⟨Nat.le_of_lt hless, fun _ => hless⟩
      · rw [List.mem_singleton.mp hnew]
        exact ⟨Nat.le_refl _, fun h => absurd h (Nat.lt_irrefl i)⟩
    next hless =>
      refine ⟨List.mem_append_left _ hmem, fun j hj => ?_⟩
      rcases List.mem_append.mp hj with hold | hnew
      · exact hworst j hold
      · rw [List.mem_singleton.mp hnew]
        have hbefore := hlast _ hmem i (List.mem_singleton_self i)
        exact ⟨Nat.not_lt.mp hless, fun h => absurd (Nat.lt_trans h hbefore) (Nat.lt_irrefl i)⟩

/-- The lanes in use, in ascending order. -/
def Port.usedLanes (x : Port) : List Nat := (List.range 8).filter fun i => bitAt x.lanes i

theorem Port.mem_usedLanes {x : Port} {i : Nat} : i ∈ x.usedLanes ↔ i < 8 ∧ bitAt x.lanes i = true := by
  simp [Port.usedLanes]

/-- The lane in use with most errors, the lower number on a tie, is taken out, and the counts of resends start again. -/
theorem State.resendLimit_of_spent {b : Nat} {l : List Nat} (hup : (s.port p).state = .up)
    (hspent : ((s.port p).retry.any fun f => decide (8 ≤ f.resends)) = true) (hl : (s.port p).usedLanes = b :: l) :
    s.resendLimit p = (s.setPort p { s.port p with retry := (s.port p).retry.map fun f => { f with resends := 0 } }).takeLane p
      (firstWorst (fun i => (s.port p).laneErrors.getD i 0) b l) := by
  have hused : ((List.range 8).filter fun i => bitAt (s.port p).lanes i) = b :: l := hl
  unfold State.resendLimit
  simp only [hused]
  rw [if_pos ⟨hup, hspent⟩]
  simp only [List.headD_cons, List.foldl_cons, Nat.lt_irrefl, if_false]
  rfl

/-! ### A flit in A2 (R438) -/

/-- A flit wakes the module, which stays in A2 until its clock runs. -/
theorem State.wakeA2_asleep {cause : Nat} (hpwr : s.ld.pwr = .a2) (hentered : ∀ e, s.ld.entered = some e → e.1 ≠ s.now) :
    (s.wakeA2 cause).ld.pwr = .a2 ∧ (s.wakeA2 cause).ld.waking = true := by
  have hnone : (s.ld.entered.filter fun e => e.1 == s.now) = none := by
    cases h : s.ld.entered with
    | none => rfl
    | some e => simpa using hentered e h
  unfold State.wakeA2
  simp only [hpwr, hnone]
  split
  next hwaking => exact ⟨rfl, by simpa using hwaking⟩
  · exact ⟨rfl, rfl⟩

theorem State.wakeA2_awake {cause : Nat} (hpwr : s.ld.pwr ≠ .a2) : (s.wakeA2 cause).ld.pwr = s.ld.pwr := by
  unfold State.wakeA2
  rw [if_pos (.inl hpwr)]

theorem State.flitArrives_of_up {raw : List Byte} (hup : (s.port p).state = .up) (hlength : raw.length = 612) :
    s.flitArrives p raw = if (s.wakeA2 2).ld.pwr = .a2 then
      (s.wakeA2 2).setPort p { s.port p with inbox := (s.port p).inbox ++ [raw] } else (s.wakeA2 2).takeFlit p raw := by
  unfold State.flitArrives
  rw [if_neg (by simp [hup, hlength])]

/-- Settles O41: the checks of a received flit decide whether it is taken or answered by a NAK, and what follows it on the port
leaves the number of the next flit alone; a NAK keeps the flits behind the acknowledged one in front of the retry buffer. -/
theorem flitsAreTakenOnceAndSentAgain : Obligations.FlitsAreTakenOnceAndSentAgain := by
  unfold Obligations.FlitsAreTakenOnceAndSentAgain
  refine ⟨?asleep, ?taken, ?nak, ?limit⟩
  case asleep =>
    intro s p raw x hs hx hup hlength hpwr hentered
    subst hx
    obtain ⟨hstays, hwakes⟩ := State.wakeA2_asleep (cause := 2) hpwr hentered
    have hwoken := State.wakeA2_frame s 2
    have hrun := State.flitArrives_of_up hup hlength
    rw [if_pos hstays] at hrun
    exact ⟨_, congrArg Host.Outcome.next hrun, State.port_setPort_same (hwoken.inv hs) .., hwakes, hwoken.same .out (by decide)⟩
  case taken =>
    intro s p raw l x numbered hs hx hup hlength hpwr hl hnumbered
    subst hx hl hnumbered
    have hwoken := State.wakeA2_frame s 2
    have hport : (s.wakeA2 2).port p.val = s.port p.val := State.port_of_fab (hwoken.same .fab (by decide)) _
    obtain ⟨htaken, hrefused⟩ := State.takeFlit_spec (p := p.val) (raw := raw) (hwoken.inv hs) (hport.symm ▸ hup)
    rw [hport] at htaken hrefused
    have hrun := State.flitArrives_of_up hup hlength
    rw [if_neg (State.wakeA2_awake (cause := 2) hpwr ▸ hpwr)] at hrun
    refine ⟨_, congrArg Host.Outcome.next hrun, ?_⟩
    simp only [decide_eq_true_eq]
    split
    next hgood => exact htaken hgood
    next hbad => exact hrefused hbad
  case nak =>
    intro s p ack lanes rest hs hup hrest
    refine ⟨_, congrArg Host.Outcome.next (State.nakArrives_of_up hup hrest), ?_⟩
    split
    · rw [State.port_setPort_same hs]
    · generalize hy : ({ s.port p.val with
        retry := rest.map FlitTx.resent
        laneErrors := if rest.isEmpty then List.replicate 8 0 else (s.port p.val).nakErrors (lanes.map Fin.val) } : Port) = y
      have hack : y.ack = (s.port p.val).ack := by
        rw [← hy]
        rfl
      obtain ⟨hport, -, hout⟩ := State.resent_spec (p := p.val) ((State.setPort_frame s p.val y).inv hs) (rest.map FlitTx.resent)
      rw [State.port_setPort_same hs] at hport hout
      rw [hack] at hout
      obtain ⟨_, r, _, _, _, _, hport⟩ := hport
      refine ⟨⟨r, ?_⟩, fun f hf => hout f.resent (List.mem_map_of_mem hf)⟩
      rw [hport, ← hy]
      rfl
  case limit =>
    intro s p i hs hup hspent hi hlane
    obtain ⟨b, l, hl⟩ := List.exists_cons_of_ne_nil (List.ne_nil_of_mem (Port.mem_usedLanes.mpr ⟨hi, hlane⟩))
    have hsorted : (b :: l).Pairwise (· < ·) := hl ▸ List.Pairwise.filter _ List.pairwise_lt_range
    obtain ⟨hmem, hworst⟩ := firstWorst_spec (fun i => (s.port p.val).laneErrors.getD i 0) b l hsorted
    obtain ⟨hlt, hbit⟩ := Port.mem_usedLanes.mp (hl ▸ hmem)
    generalize hy : ({ s.port p.val with retry := (s.port p.val).retry.map fun f => { f with resends := 0 } } : Port) = y
    have hinv := (State.setPort_frame s p.val y).inv hs
    have hstopped := (State.stops_takeLane hinv p.val (firstWorst (fun i => (s.port p.val).laneErrors.getD i 0) b l)).port
    rw [State.port_setPort_same hinv, State.port_setPort_same hs] at hstopped
    refine ⟨_, _, congrArg Host.Outcome.next (hy ▸ State.resendLimit_of_spent hup hspent hl), hlt, hbit, fun j hj hused =>
      hworst j (hl ▸ Port.mem_usedLanes.mpr ⟨hj, hused⟩), ?_, hstopped.state, ?_⟩
    · rw [hstopped.out_, ← hy]
    · rw [hstopped.retry, ← hy]

end Sys2Proof.Machine
end

section
/-!
Training of a Farpinen port (R245, R273, R274): the settings that it takes from the registers, its start, its end, and its
failures.
-/
namespace Sys2Proof.Machine

open Sys2Proof

variable {s t u : State} {p : Nat}

/-! ### Ready and failed bits -/

/-- The ready and failed bits are as before. -/
structure State.BitsKept (s t : State) : Prop where
  ready : t.ld.ready = s.ld.ready
  failed : t.ld.failed = s.ld.failed

namespace State.BitsKept

theorem of_frame {l : List Comp} (h : Frame l s t) (hl : l.contains .ld = false) : s.BitsKept t :=
  have hld : t.ld = s.ld := h.same .ld (by simpa using hl)
  ⟨congrArg Lantern.ready hld, congrArg Lantern.failed hld⟩

theorem trans (h : s.BitsKept t) (k : t.BitsKept u) : s.BitsKept u := ⟨k.ready.trans h.ready, k.failed.trans h.failed⟩

theorem readyKey (h : s.BitsKept t) (k : Nat) : t.readyKey k = s.readyKey k := by
  unfold State.readyKey
  rw [h.ready]

theorem failedKey (h : s.BitsKept t) (k : Nat) : t.failedKey k = s.failedKey k := by
  unfold State.failedKey
  rw [h.failed]

theorem wakeA2 (s : State) (cause : Nat) : s.BitsKept (s.wakeA2 cause) := by
  unfold State.wakeA2
  dsimp only
  split
  · exact ⟨rfl, rfl⟩
  · split <;> exact ⟨rfl, rfl⟩

theorem sendSource (s : State) (n : Nat) : s.BitsKept (s.sendSource n) := by
  unfold State.sendSource State.sendVector
  split
  · exact of_frame (State.emit_frame ..) rfl
  · split
    · exact (of_frame (State.emit_frame ..) rfl).trans ⟨rfl, rfl⟩
    · exact ⟨rfl, rfl⟩

theorem arrive (s : State) (n : Nat) : s.BitsKept (s.arrive n) := by
  unfold State.arrive
  split
  · exact ⟨rfl, rfl⟩
  · extract_lets noted c _ counted woken
    have hcounted : s.BitsKept counted := by
      unfold counted
      split <;> exact ⟨rfl, rfl⟩
    have hwoken : s.BitsKept woken := by
      unfold woken
      split
      · exact hcounted.trans (wakeA2 ..)
      · exact hcounted
    split
    · exact hwoken.trans (sendSource ..)
    · exact hwoken

theorem portChanged (s old : State) (p : Nat) : s.BitsKept (s.portChanged old p) := by
  unfold State.portChanged
  split
  · exact ⟨rfl, rfl⟩
  · exact arrive ..

end State.BitsKept

theorem State.readyKey_setReady (hs : s.Inv) (k : Nat) : (s.setReady k).readyKey k = true := by
  unfold State.setReady
  rw [(State.BitsKept.arrive ..).readyKey]
  exact (Tab.get_set_of_rising hs.tabs.ld.1 ..).trans (if_pos rfl)

theorem State.failedKey_setFailed (hs : s.Inv) (k : Nat) : (s.setFailed k).failedKey k = true := by
  unfold State.setFailed
  rw [(State.BitsKept.arrive ..).failedKey]
  exact (Tab.get_set_of_rising hs.tabs.ld.2.1 ..).trans (if_pos rfl)

theorem State.readyKey_clearReady (hs : s.Inv) (k : Nat) : (s.clearReady k).readyKey k = false :=
  (Tab.get_set_of_rising hs.tabs.ld.1 ..).trans (if_pos rfl)

theorem State.failedKey_clearFailed (hs : s.Inv) (k : Nat) : (s.clearFailed k).failedKey k = false :=
  (Tab.get_set_of_rising hs.tabs.ld.2.1 ..).trans (if_pos rfl)

/-! ### Settings (R245) -/

/-- What a training takes depends on the nine registers alone. -/
theorem State.settings_of_regs (h : xeSettings.map t.reg = xeSettings.map s.reg) :
    t.withSettings.portSettings = s.withSettings.portSettings ∧ t.withSettings.topoGood = s.withSettings.topoGood := by
  have hsetting (r : Nat) : t.withSettings.setting r = s.withSettings.setting r := by
    simp only [State.setting, State.withSettings, h]
  have hfield (r i n : Nat) : t.withSettings.sfld r i n = s.withSettings.sfld r i n := congrArg (bitsOf · i n) (hsetting r)
  refine ⟨List.map_congr_left fun r _ => hsetting r, ?_⟩
  have hrank : t.withSettings.rank = s.withSettings.rank := hfield ..
  have hsize : t.withSettings.groupSize = s.withSettings.groupSize := congrArg (clampNat · 1 1024) (hfield ..)
  have hdims : t.withSettings.dims = s.withSettings.dims := by
    unfold State.dims
    rw [hfield, hfield, hfield]
  unfold State.topoGood
  rw [hrank, hsize, hdims, hfield]

/-- The control register of a port is none of the nine. -/
theorem State.settings_setReg (hs : s.Inv) {p : Nat} (hp : p < 12) (v : Nat) :
    xeSettings.map (s.setReg (rPortCtrl p) v).reg = xeSettings.map s.reg := by
  refine List.map_congr_left fun r hr => ?_
  rw [State.reg_setReg hs.regs.1, if_neg]
  simp only [xeSettings, List.mem_cons, List.not_mem_nil, or_false] at hr
  unfold rPortCtrl
  omega

/-! ### The start (R273) -/

/-- A port that is enabled and has a direction, in a topology that lets it train, starts to train, and is not ready. -/
theorem State.retrain_of_good (hs : s.Inv) (hon : s.fld (rPortCtrl p) 31 1 ≠ 0) (hdir : dirOf s.withSettings.portSettings p ≠ 0)
    (htopo : s.withSettings.topoGood = true) : (s.retrain p).port p = s.trainingPort (s.port p) ∧
      (s.retrain p).xe.taken = s.withSettings.xe.taken ∧ (s.clearReady (18 + p)).BitsKept (s.retrain p) := by
  have hcleared := (State.clearReady_frame s (18 + p)).inv hs
  have htrain : s.trainPort p = (s.clearReady (18 + p)).startTraining p := by
    rw [State.trainPort_eq, if_neg hon, if_neg (by simp [hdir, htopo])]
  unfold State.retrain
  rw [htrain]
  refine ⟨?_, ?_, ?_⟩
  · rw [(State.PortsKept.portChanged ..).port, State.port_startTraining hcleared]
    rfl
  · rw [(State.portChanged_frame ..).same .xe (by decide)]
    unfold State.startTraining
    dsimp only
    split <;> rfl
  · refine State.BitsKept.trans ?_ (State.BitsKept.portChanged ..)
    unfold State.startTraining
    dsimp only
    split <;> exact ⟨rfl, rfl⟩

/-! ### The end (R273, R274) -/

/-- A port that leaves service. -/
theorem State.portEnd_spec (hs : s.Inv) (p : Nat) (st : PortState) :
    (s.portEnd p st).port p = { s.port p with state := st, lanes := 0 } ∧
      (st = .down → (s.portEnd p st).failedKey (18 + p) = true) := by
  generalize hended : (s.setPort p { s.port p with state := st, lanes := 0 }).portChanged s p = ended
  have hport : ended.port p = { s.port p with state := st, lanes := 0 } := by
    rw [← hended, (State.PortsKept.portChanged ..).port, State.port_setPort_same hs]
  have hinv : ended.Inv := hended ▸ (State.portChanged_frame ..).inv ((State.setPort_frame ..).inv hs)
  have hrun : s.portEnd p st = if st = .down ∧ ¬ ended.failedKey (18 + p) then ended.setFailed (18 + p) else ended := by
    rw [← hended]
    rfl
  rw [hrun]
  split
  next hsets => exact ⟨((State.PortsKept.setFailed ..).port p).trans hport, fun _ => State.failedKey_setFailed hinv _⟩
  next hset => exact ⟨hport, fun hdown => by simpa [hdown] using hset⟩

/-- The peer's group id, protocol version, configuration digest and rank are those that the port expects (R274). -/
def State.peerAgrees (s : State) (p : Nat) (x : Port) (group rank : Nat) (version : Bool) (digest : Nat) : Bool :=
  group == bitsOf (x.settings.getD 0 0) 48 16 && version && digest == configDigest x.settings &&
    rank == s.neighbour (dirOf x.settings p)

/-- What the port knows of its peer once the last step has ended. -/
def Port.met (x : Port) (rank port : Nat) : Port := { x with fails := 0, step := 6, peerRank := rank, peerPort := port }

/-- The port that comes up on the lanes `g`. -/
def Port.broughtUp (x : Port) (g : Nat) : Port :=
  { x with
    state := .up, lanes := g, credits := creditsFor (x.retry.map FlitTx.resent), retry := x.retry.map FlitTx.resent }

theorem State.trainingEnds_of_lanes {group rank port digest good g : Nat} {version : Bool} (htrains : (s.port p).state = .training)
    (htime : s.now ≤ (s.port p).startedAt + 17000000) (hlanes : laneGroup (good &&& (255 - (s.port p).out_ % 256)) = some g) :
    s.trainingEnds p group rank port version digest good =
      if s.peerAgrees p (s.port p) group rank version digest then
        (((((s.setPort p (((s.port p).met rank port).broughtUp g)).setReady (18 + p)).resendFlits p
          ((s.port p).retry.map FlitTx.resent)).portChanged s p).pump p)
      else (s.setPort p { (s.port p).met rank port with state := .incompatible }).portChanged s p := by
  unfold State.trainingEnds
  simp only [htrains, hlanes]
  rw [if_neg (by simpa using htime)]
  by_cases hsame : s.peerAgrees p (s.port p) group rank version digest
  · rw [if_pos hsame]
    exact if_neg (not_not.mpr hsame)
  · rw [if_neg hsame]
    exact if_pos hsame

theorem State.peerAgrees_iff {x : Port} {group rank digest : Nat} {version : Bool} :
    s.peerAgrees p x group rank version digest = true ↔ group = bitsOf (x.settings.getD 0 0) 48 16 ∧ version = true ∧
      digest = configDigest x.settings ∧ rank = s.neighbour (dirOf x.settings p) := by
  simp [State.peerAgrees, and_assoc]

/-- A peer that agrees brings the port up, ready, and what waits in the retry buffer goes out once more. -/
theorem State.broughtUp_spec (hs : s.Inv) (p : Nat) (y : Port) (l : List FlitTx) :
    let t := (((((s.setPort p y).setReady (18 + p)).resendFlits p l).portChanged s p).pump p)
    y.Sends (t.port p) ∧ t.readyKey (18 + p) = true ∧
      ∀ f ∈ l, OutMsg.flit p 0 f.seq ((flitBytes f.seq y.ack f.vc 0 f.credits f.data).map BitVec.toNat) ∈ t.out := by
  have hset := (State.setPort_frame s p y).inv hs
  have hkept := State.PortsKept.setReady (s.setPort p y) (18 + p)
  have hready := State.readyKey_setReady hset (18 + p)
  have hrinv := (State.setReady_frame (s.setPort p y) (18 + p)).inv hset
  generalize (s.setPort p y).setReady (18 + p) = v at hkept hready hrinv
  have hport : v.port p = y := (hkept.port p).trans (State.port_setPort_same hs p y)
  obtain ⟨hsent, hout⟩ := v.resendFlits_spec p l
  have hchanged := hsent.trans (State.PortsKept.portChanged (v.resendFlits p l) s p)
  have hpump := State.pumped_pump ((State.portChanged_frame _ s p).inv ((State.resendFlits_frame v p l).inv hrinv)) p
  refine ⟨?_, ?_, fun f hf => ?_⟩
  · rw [← hport, ← hchanged.port p]
    exact hpump.port
  · have hbits : v.BitsKept (((v.resendFlits p l).portChanged s p).pump p) :=
      ((State.BitsKept.of_frame (State.resendFlits_frame v p l) rfl).trans (State.BitsKept.portChanged ..)).trans
        (State.BitsKept.of_frame (State.pump_frame ..) rfl)
    exact (hbits.readyKey _).trans hready
  · rw [← hport]
    exact hpump.out.subset ((State.PortsKept.portChanged _ s p).out.subset (hout f hf))

/-! ### RETRAIN and the third failure (R273) -/

/-- RETRAIN by a master that may set it. -/
theorem State.portCtrlWrite_of_retrain {m : Master} {v : Nat} (howns : s.owns m = true) (hlands : s.regLands m = true)
    (henable : bitAt v 31 = true) (hretrain : bitAt v 30 = true) : s.portCtrlWrite m p v =
      (((s.setReg (rPortCtrl p) (bitsOf v 31 1 * 2 ^ 31)).setPort p { s.port p with fails := 0, out_ := 0 }).clearFailed
        (18 + p)).retrain p := by
  unfold State.portCtrlWrite
  rw [if_neg (by simp [howns, hlands])]
  dsimp only
  rw [if_neg (by simp [henable]), if_pos hretrain]
  rfl

theorem State.trainingFails_of_late {k : Nat} (htrains : (s.port p).state = .training)
    (hlate : (s.port p).startedAt + stepLimit k < s.now) : s.trainingFails p k =
      if 2 ≤ (s.port p).fails then (s.setPort p { s.port p with fails := 3, step := k }).portEnd p .down
      else (s.setPort p { s.port p with fails := (s.port p).fails + 1, step := k }).retrain p := by
  unfold State.trainingFails
  dsimp only
  rw [if_neg (by simp [htrains, hlate])]
  split
  next h => rw [if_pos (by omega), show min 3 ((s.port p).fails + 1) = 3 by omega]
  next h => rw [if_neg (by omega), show min 3 ((s.port p).fails + 1) = (s.port p).fails + 1 by omega]

/-- ENABLE of the control register, once it has been written. -/
theorem State.enabled_setReg (hs : s.Inv) {v : Nat} (henable : bitAt v 31 = true) :
    (s.setReg (rPortCtrl p) (bitsOf v 31 1 * 2 ^ 31)).fld (rPortCtrl p) 31 1 ≠ 0 := by
  have hbit : bitsOf v 31 1 = 1 := by
    unfold bitAt at henable
    unfold bitsOf
    rw [Nat.testBit_eq_decide_div_mod_eq, decide_eq_true_iff] at henable
    rwa [Nat.shiftRight_eq_div_pow, pow_one]
  unfold State.fld
  rw [State.reg_setReg hs.regs.1, if_pos rfl, hbit]
  decide

@[simp] theorem State.now_reachedBy (s : State) (m : Master) : (s.reachedBy m).now = s.now := by
  cases m with
  | bmc => exact State.now_wakeA2 s 4
  | host => rfl
  | debug => rfl

/-- RETRAIN forgets the failures and the lanes taken out, and starts the training. -/
theorem State.portCtrlWrite_trains (hs : s.Inv) {m : Master} {v : Nat} (hp : p < 12) (howns : s.owns m = true)
    (hlands : s.regLands m = true) (henable : bitAt v 31 = true) (hretrain : bitAt v 30 = true)
    (hdir : dirOf s.withSettings.portSettings p ≠ 0) (htopo : s.withSettings.topoGood = true) :
    let t := s.portCtrlWrite m p v
    t.port p = { s.trainingPort (s.port p) with fails := 0, out_ := 0 } ∧ t.xe.taken = s.withSettings.xe.taken ∧
      t.failedKey (18 + p) = false ∧ t.readyKey (18 + p) = false := by
  rw [State.portCtrlWrite_of_retrain howns hlands henable hretrain]
  have hset := (State.setReg_frame s _ _ (rPortCtrl_ok hp v)).inv hs
  have hon := State.enabled_setReg (p := p) hs henable
  have hregs := State.settings_setReg hs hp (bitsOf v 31 1 * 2 ^ 31)
  have hport : (s.setReg (rPortCtrl p) (bitsOf v 31 1 * 2 ^ 31)).port p = s.port p := rfl
  have hnow : (s.setReg (rPortCtrl p) (bitsOf v 31 1 * 2 ^ 31)).now = s.now := rfl
  generalize s.setReg (rPortCtrl p) (bitsOf v 31 1 * 2 ^ 31) = w at *
  obtain ⟨hsettings, hgood⟩ := State.settings_of_regs hregs
  have hforgot := (State.setPort_frame w p { s.port p with fails := 0, out_ := 0 }).inv hset
  have hfailed := State.failedKey_clearFailed hforgot (18 + p)
  have hcleared := (State.clearFailed_frame _ (18 + p)).inv hforgot
  have hclearedPort : ((w.setPort p { s.port p with fails := 0, out_ := 0 }).clearFailed (18 + p)).port p =
    { s.port p with fails := 0, out_ := 0 } := State.port_setPort_same hset p _
  obtain ⟨htrains, htaken, hbits⟩ := State.retrain_of_good (p := p) hcleared hon
    ((congrArg (dirOf · p) hsettings).trans_ne hdir) (hgood.trans htopo)
  refine ⟨?_, ?_, (hbits.failedKey _).trans hfailed, (hbits.readyKey _).trans (State.readyKey_clearReady hcleared _)⟩
  · rw [htrains, hclearedPort]
    unfold State.trainingPort
    rw [← hsettings, ← hnow]
    rfl
  · exact htaken.trans (congrArg some hregs)

/-- Settles O40: each row comes to one start of a training, or to one end of it, whose effect on the port is stated above. -/
theorem trainingGoesFromRetrainToUpOrDown : Obligations.TrainingGoesFromRetrainToUpOrDown := by
  unfold Obligations.TrainingGoesFromRetrainToUpOrDown
  refine ⟨?retrain, ?complete, ?timeout⟩
  case retrain =>
    intro s u m p v hs howns hlands henable hretrain hu hdir htopo
    subst hu
    have hframe := State.reachedBy_frame s m
    have hreached := hframe.inv hs
    have hregs : (s.reachedBy m).regs = s.regs := hframe.same .regs (by decide)
    have htb : (s.reachedBy m).tb = s.tb := hframe.same .tb (by decide)
    have hmap : xeSettings.map (s.reachedBy m).reg = xeSettings.map s.reg :=
      List.map_congr_left fun r _ => State.reg_of_regs hregs r
    obtain ⟨hsettings, hgood⟩ := State.settings_of_regs hmap
    have howns' : (s.reachedBy m).owns m = true := by
      unfold State.owns State.owner
      rwa [htb]
    have hlands' : (s.reachedBy m).regLands m = true := by
      unfold State.regLands State.writesLand State.regPath
      rwa [htb]
    have hnow := State.now_reachedBy s m
    have hrun : exec (.portRetrain m p v) s = .next ((s.reachedBy m).portCtrlWrite m p.val v.toNat) :=
      congrArg Host.Outcome.next (if_pos hretrain)
    obtain ⟨hport, htaken, hfailed, hready⟩ := State.portCtrlWrite_trains hreached p.isLt howns' hlands' henable hretrain
      ((congrArg (dirOf · p.val) hsettings).trans_ne hdir) (hgood.trans htopo)
    refine ⟨_, hrun, ?_⟩
    rw [hport]
    exact ⟨rfl, rfl, hnow, rfl, rfl, htaken.trans (congrArg some hmap), hsettings, hfailed, hready⟩
  case complete =>
    intro s p group rank port version digest good g x hs hx htrains htime hlanes
    subst hx
    refine ⟨_, rfl, ?_⟩
    rw [State.trainingEnds_of_lanes htrains htime hlanes]
    split
    next hagrees =>
      rw [if_pos (State.peerAgrees_iff.mpr hagrees)]
      obtain ⟨hport, hready, hout⟩ := State.broughtUp_spec hs p.val (((s.port p.val).met rank port).broughtUp g)
        ((s.port p.val).retry.map FlitTx.resent)
      generalize State.pump _ _ = t at hport hready hout ⊢
      obtain ⟨q, r, n, k, o, c, hport⟩ := hport
      rw [hport]
      exact ⟨rfl, rfl, rfl, hready, fun f hf => hout f.resent (List.mem_map_of_mem hf)⟩
    next hdiffers =>
      rw [if_neg fun h => hdiffers (State.peerAgrees_iff.mp h), (State.PortsKept.portChanged ..).port, State.port_setPort_same hs]
  case timeout =>
    intro s u p k hs htrains hlate hu
    subst hu
    refine ⟨_, rfl, ?_⟩
    rw [State.trainingFails_of_late htrains hlate]
    refine ⟨fun hthird => ?_, fun hbefore => ?_⟩
    · rw [if_pos hthird]
      have hset := (State.setPort_frame s p.val { s.port p.val with fails := 3, step := k.val }).inv hs
      obtain ⟨hport, hfailed⟩ := State.portEnd_spec hset p.val .down
      exact ⟨congrArg Port.state hport, hfailed rfl⟩
    · rw [if_neg (by omega)]
      have hset := (State.setPort_frame s p.val { s.port p.val with fails := (s.port p.val).fails + 1, step := k.val }).inv hs
      refine ⟨?_, fun hon hdir htopo => ?_⟩
      · rw [(State.stops_retrain hset p.val).port.fails, State.port_setPort_same hs]
      · obtain ⟨hport, -, -⟩ := State.retrain_of_good (p := p.val) hset hon hdir htopo
        rw [hport]
        exact ⟨rfl, rfl, rfl⟩

end Sys2Proof.Machine
end

section
/-!
What the Exchange Engine leaves alone while no access to host memory fails and no lane of a part fails again after it was rebuilt
(R254 to R258, R267): then nothing that happens to parts, copies and mirrors ends a command or a step, and a command that runs
stays running or is delivered.
-/
namespace Sys2Proof.Machine

open Sys2Proof

variable {s t u : State} {q : Nat}

/-! ### Faults of memory -/

/-- The host accesses that fail and the lanes that fail are the same in both states. -/
def State.SameFaults (s t : State) : Prop := t.ms.hostBad = s.ms.hostBad ∧ t.ms.lanes = s.ms.lanes

namespace State.SameFaults

theorem refl (s : State) : s.SameFaults s := ⟨rfl, rfl⟩

theorem trans (h : s.SameFaults t) (k : t.SameFaults u) : s.SameFaults u := ⟨k.1.trans h.1, k.2.trans h.2⟩

theorem of_frame {l : List Comp} (h : Frame l s t) (hl : l.contains .ms = false) : s.SameFaults t := by
  have hms : t.ms = s.ms := h.same .ms (by simpa using hl)
  exact ⟨congrArg MemSys.hostBad hms, congrArg MemSys.lanes hms⟩

theorem of_loss (h : s.SameLoss t) : s.SameFaults t := by
  obtain ⟨_, _, _, hms⟩ := h.ms
  exact ⟨by rw [hms], by rw [hms]⟩

theorem foldl {α : Type} {f : State → α → State} (hf : ∀ v x, SameFaults v (f v x)) (l : List α) (s : State) :
    s.SameFaults (l.foldl f s) :=
  List.foldlRecOn (motive := fun v : State => s.SameFaults v) l f (refl s) fun v hv x _ => hv.trans (hf v x)

theorem putBytes (s : State) (a : Nat) (l : List Byte) : s.SameFaults (s.putBytes a l) := by
  induction l generalizing s a with
  | nil => exact refl s
  | cons v l ih =>
    have hput : s.SameFaults (s.putByte a v) := ⟨rfl, rfl⟩
    exact hput.trans (ih (s.putByte a v) (a + 1))

theorem mergeCw (s : State) (cw : Nat) : s.SameFaults (s.mergeCw cw) := by
  have hmerged := of_loss (State.SameLoss.noteMerge s cw)
  unfold State.mergeCw
  dsimp only
  generalize s.noteMerge cw = v at *
  have hsettled : v.SameFaults (v.settle cw) := by
    unfold State.settle
    split
    · exact refl v
    · exact putBytes ..
  exact hmerged.trans (hsettled.trans ⟨rfl, rfl⟩)

theorem wr (s : State) (a : Nat) (l : List Byte) : s.SameFaults (s.wr a l) := by
  unfold State.wr
  split
  · exact putBytes ..
  · refine (foldl (fun v cw => ?_) _ s).trans (putBytes ..)
    split
    · exact ⟨rfl, rfl⟩
    · exact mergeCw v cw

theorem noteCw (s : State) (cw : Nat) : s.SameFaults (s.noteCw cw) := by
  have hmerged := of_loss (State.SameLoss.noteMerge s cw)
  unfold State.noteCw
  dsimp only
  split
  · exact hmerged
  · split
    · exact hmerged
    · split <;> exact hmerged

theorem noteReads (s : State) (l : List (Nat × Nat)) : s.SameFaults (s.noteReads l) := by
  induction l generalizing s with
  | nil => exact refl s
  | cons r l ih =>
    unfold State.noteReads
    refine trans ?_ (ih _)
    split
    · exact refl s
    · exact foldl noteCw _ s

theorem readOperands (s : State) (q : Nat) (l : List (Nat × Nat)) : s.SameFaults (s.readOperands q l) :=
  foldl (fun v r => (noteReads v [r]).trans (of_frame (State.traffic_frame ..) rfl)) l s

theorem writeAll (s : State) (q : Nat) (l : List (Nat × List Byte)) : s.SameFaults (s.writeAll (some q) l) := by
  induction l generalizing s with
  | nil => exact refl s
  | cons r l ih =>
    exact (((wr s r.1 r.2).trans (of_frame (State.traffic_frame ..) rfl)).trans (of_frame (State.noteWrite_frame ..) rfl)).trans
      (ih _)

end State.SameFaults

theorem State.writeFail_of_sound (h : s.ms.hostBad = []) (l : List (Nat × Nat)) : s.writeFail l = none := by
  unfold State.writeFail
  induction l with
  | nil => rfl
  | cons r l ih =>
    rw [List.filter_cons]
    split
    next hhost => simp [State.rdFails, State.rdFail, hhost, h, hostFail, ih]
    next => exact ih

/-! ### A command that goes on -/

/-- No access to host memory fails, and no lane fails again after it was rebuilt. -/
structure State.Sound (s : State) : Prop where
  host : s.ms.hostBad = []
  lanes : ∀ f ∈ s.ms.lanes, f.again = false

/-- From `s` to `t` no fault is added, what modules sent and what waits to be gathered stay, and command `q` keeps its stage or is
delivered. -/
structure State.GoesOn (q : Nat) (s t : State) : Prop where
  host : t.ms.hostBad = s.ms.hostBad
  lanes : t.ms.lanes ⊆ s.ms.lanes
  sends : t.xe.sends = s.xe.sends
  gaths : t.xe.gaths = s.xe.gaths
  cmd : ∀ c, s.cmd q = some c → ∃ d, t.cmd q = some d ∧ (d.stage = c.stage ∨ d.stage = .delivered)

namespace State.GoesOn

theorem sound (h : s.GoesOn q t) (hs : s.Sound) : t.Sound := ⟨h.host.trans hs.host, fun f hf => hs.lanes f (h.lanes hf)⟩

theorem of_parts (hfaults : s.SameFaults t) (hsends : t.xe.sends = s.xe.sends) (hgaths : t.xe.gaths = s.xe.gaths)
    (hcmds : t.hg.cmds = s.hg.cmds) : s.GoesOn q t :=
  ⟨hfaults.1, hfaults.2 ▸ List.Subset.refl _, hsends, hgaths, fun c hc => ⟨c, (State.cmd_of_cmds hcmds q).trans hc, .inl rfl⟩⟩

theorem refl (q : Nat) (s : State) : s.GoesOn q s := of_parts (.refl s) rfl rfl rfl

theorem trans (h : s.GoesOn q t) (k : t.GoesOn q u) : s.GoesOn q u where
  host := k.host.trans h.host
  lanes := List.Subset.trans k.lanes h.lanes
  sends := k.sends.trans h.sends
  gaths := k.gaths.trans h.gaths
  cmd c hc := by
    obtain ⟨d, hd, hstage⟩ := h.cmd c hc
    obtain ⟨e, he, hnext⟩ := k.cmd d hd
    refine ⟨e, he, ?_⟩
    rcases hnext with hsame | hdone
    · rwa [hsame]
    · exact .inr hdone

/-- A change that stays away from the Exchange Engine and from the commands. -/
theorem of_frame {l : List Comp} (h : Frame l s t) (hfaults : s.SameFaults t) (hxe : l.contains .xe = false)
    (hcmds : t.hg.cmds = s.hg.cmds) : s.GoesOn q t :=
  have hsame : t.xe = s.xe := h.same .xe (by simpa using hxe)
  of_parts hfaults (congrArg Exchange.sends hsame) (congrArg Exchange.gaths hsame) hcmds

theorem of_silent {l : List Comp} (h : Frame l s t) (hms : l.contains .ms = false) (hxe : l.contains .xe = false)
    (hhg : l.contains .hg = false) : s.GoesOn q t :=
  of_frame h (.of_frame h hms) hxe (congrArg HostGate.cmds (h.hg_eq hhg))

theorem foldl {α : Type} {f : State → α → State} (hf : ∀ v x, v.Sound → GoesOn q v (f v x)) (l : List α) (hs : s.Sound) :
    s.GoesOn q (l.foldl f s) :=
  List.foldlRecOn (motive := fun v : State => s.GoesOn q v) l f (refl q s) fun v hv x _ => hv.trans (hf v x (hv.sound hs))

/-! ### Records, counters and memory -/

theorem bump (s : State) (off n : Nat) : s.GoesOn q (s.bump off n) := of_silent (State.bump_frame ..) rfl rfl rfl

theorem emit (s : State) (m : OutMsg) : s.GoesOn q (s.emit m) := of_silent (State.emit_frame ..) rfl rfl rfl

theorem evt (s : State) (r : Option Nat) (k n : Nat) : s.GoesOn q (s.evt r k n) :=
  of_frame (State.evt_frame ..) (.of_frame (State.evt_frame s r k n) rfl) rfl (State.evt_cmds ..)

theorem duplicate (s : State) : s.GoesOn q s.duplicate :=
  of_frame (State.duplicate_frame s) (.of_frame (State.duplicate_frame s) rfl) rfl rfl

theorem wr (s : State) (a : Nat) (l : List Byte) : s.GoesOn q (s.wr a l) :=
  of_frame (State.wr_frame s a l) (.wr s a l) rfl (State.wr_cmds ..)

theorem trafficOn (s : State) (die : Nat) (r : Option Nat) (w : Bool) (a n : Nat) : s.GoesOn q (s.trafficOn die r w a n) := by
  have hframe := State.trafficOn_frame s die r w a n
  refine of_frame hframe (.of_frame hframe rfl) rfl ?_
  unfold State.trafficOn
  rw [(State.freeStep_frame _).hg_eq rfl, State.evtU_cmds]
  exact State.foldl_cmds (fun v x => State.countPiece_cmds v ..) _ s

theorem noteWrite (s : State) (r a n : Nat) : s.GoesOn q (s.noteWrite r a n) := of_silent (State.noteWrite_frame ..) rfl rfl rfl

theorem readOperands (s : State) (r : Nat) (l : List (Nat × Nat)) : s.GoesOn q (s.readOperands r l) :=
  of_frame (State.readOperands_frame s r l) (.readOperands s r l) rfl (State.readOperands_cmds ..)

theorem writeAll (s : State) (r : Nat) (l : List (Nat × List Byte)) : s.GoesOn q (s.writeAll (some r) l) :=
  of_frame (State.writeAll_frame s (some r) l) (.writeAll s r l) rfl (State.writeAll_cmds ..)

/-- A change of a command that keeps its stage. -/
theorem updCmd (s : State) (r : Nat) {f : Cmd → Cmd} (hseq : ∀ c, (f c).seq = c.seq) (hstage : ∀ c, (f c).stage = c.stage) :
    s.GoesOn q (s.updCmd r f) where
  host := rfl
  lanes := List.Subset.refl _
  sends := rfl
  gaths := rfl
  cmd c hc := by
    by_cases hr : q = r
    · subst hr
      exact ⟨f c, by rw [State.cmd_updCmd f hseq, hc]; rfl, .inl (hstage c)⟩
    · exact ⟨c, by rw [State.cmd_updCmd_ne f hr hseq, hc], .inl rfl⟩

theorem addCond (s : State) (r : Nat) (l : List Status) (ind : BitVec 16) : s.GoesOn q (s.addCond r l ind) :=
  updCmd s r (f := fun c => { c with conds := c.conds ++ l, ind := c.ind ||| ind }) (fun _ => rfl) fun _ => rfl

theorem setDetail (s : State) (r v : Nat) : s.GoesOn q (s.setDetail r v) :=
  updCmd s r (f := fun c => { c with detail := v % 2 ^ 63 }) (fun _ => rfl) fun _ => rfl

theorem deliver (s : State) (r : Nat) : s.GoesOn q (s.deliver r) := by
  have hframe := State.deliver_frame s r
  have hxe : (s.deliver r).xe = s.xe := hframe.same .xe (by decide)
  have hms : (s.deliver r).ms = s.ms := hframe.same .ms (by decide)
  refine ⟨by rw [hms], hms ▸ List.Subset.refl _, by rw [hxe], by rw [hxe], fun c hc => ?_⟩
  by_cases hr : q = r
  · subst hr
    exact ⟨_, State.cmd_deliver hc, .inr rfl⟩
  · exact ⟨c, (State.cmd_deliver_ne hr).trans hc, .inl rfl⟩

/-! ### Parts (R253 to R258) -/

theorem setPart (s : State) (p : Part) : s.GoesOn q (s.setPart p) := by
  unfold State.setPart
  extract_lets _ stored
  have hstored : s.GoesOn q stored := of_parts ⟨rfl, rfl⟩ rfl rfl rfl
  split
  · exact hstored
  · exact hstored.trans (of_silent (State.logPart_frame ..) rfl rfl rfl)

theorem clearPart (s : State) (n b o : Nat) : s.GoesOn q (s.clearPart n b o) := by
  unfold State.clearPart
  split
  · exact refl q s
  next p _ =>
    split
    · exact refl q s
    · extract_lets cleared
      have hcleared : s.GoesOn q cleared := setPart ..
      split
      · exact hcleared
      next x _ =>
        split
        · exact hcleared.trans (updCmd cleared x.seq (fun _ => rfl) fun _ => rfl)
        · exact hcleared

/-- Values are written for an XCHG. -/
theorem written (s : State) (x a : Nat) (l : List Byte) (n : Nat) :
    s.GoesOn q (((s.wr a l).trafficOn 4 (some x) true a n).noteWrite x a n) :=
  ((wr s a l).trans (trafficOn ..)).trans (noteWrite ..)

theorem writePart (hs : s.Sound) (n b o : Nat) : s.GoesOn q (s.writePart n b o) := by
  unfold State.writePart
  split
  next p x _ _ =>
    extract_lets r vals a fail written stored delivered told sent done
    have hfail : fail = none := by
      unfold fail
      split
      next hhost => simp [State.rdFail, hhost, hs.host, hostFail]
      · rfl
    rw [hfail]
    have hstored : s.GoesOn q stored := (GoesOn.written s x.seq a _ _).trans (setPart ..)
    have hsent : s.GoesOn q sent := by
      unfold sent
      split
      · have hemit := State.emit_frame stored (.farpinen s.buddy kBuddy ([n, b, s.rank] ++ vals))
        have hfaults : stored.SameFaults (stored.emit (.farpinen s.buddy kBuddy ([n, b, s.rank] ++ vals))) := .of_frame hemit rfl
        exact hstored.trans (of_parts ⟨hfaults.1, hfaults.2⟩ rfl rfl (congrArg HostGate.cmds (hemit.hg_eq rfl)))
      · exact hstored
    refine trans ?_ (clearPart _ n b o)
    split
    · exact hsent.trans (deliver ..)
    · exact hsent
  · exact refl q s

theorem checkLanes (s : State) (n b o : Nat) : s.GoesOn q (s.checkLanes n b o) := by
  unfold State.checkLanes
  generalize s.ms.lanes.filter (strikes n b o) = l
  have hkept : s.GoesOn q { s with ms := { s.ms with lanes := s.ms.lanes.filter fun f => !strikes n b o f } } :=
    ⟨rfl, List.filter_subset_self _, rfl, rfl, fun c hc => ⟨c, hc, .inl rfl⟩⟩
  refine hkept.trans ?_
  exact List.foldlRecOn (motive := fun v : State => GoesOn q _ v) l _ (refl q _)
    fun v hv f _ => hv.trans (of_silent (State.laneFails_frame ..) rfl rfl rfl)

theorem deliverPart (hs : s.Sound) (n b o : Nat) : s.GoesOn q (s.deliverPart n b o) := by
  have hchecked := checkLanes (q := q) s n b o
  unfold State.deliverPart
  split
  · split
    · exact refl q s
    · rw [if_neg]
      · exact hchecked.trans (writePart (hchecked.sound hs) n b o)
      · unfold State.lanesLost
        simp only [List.any_eq_true, not_exists, not_and]
        intro f hf
        simp [hs.lanes f hf]
  · exact refl q s

/-! ### Copies (R254 to R257) -/

theorem setLanes (s : State) (p : Part) : s.GoesOn q (s.setLanes p) := by
  unfold State.setLanes
  extract_lets r a stored
  split
  · exact (setPart s p).trans (wr ..)
  · exact setPart s p

theorem takeCopy (s : State) (p : Part) (c : Copy) : s.GoesOn q (s.takeCopy p c) := by
  unfold State.takeCopy
  extract_lets k gone laned counted
  have hcounted : s.GoesOn q counted := by
    unfold counted
    split
    · exact setLanes ..
    · exact (setLanes ..).trans (duplicate _)
  split
  · exact hcounted.trans (bump ..)
  · exact hcounted

theorem copyArrives (hs : s.Sound) (n b o : Nat) (c : Copy) : s.GoesOn q (s.copyArrives n b o c) := by
  unfold State.copyArrives
  split
  · exact duplicate s
  · exact duplicate s
  · extract_lets p0 _ first s1 p k
    have hs1 : s.GoesOn q s1 := by
      unfold s1
      split
      · exact bump ..
      · exact refl q s
    split
    · exact of_parts ⟨rfl, rfl⟩ rfl rfl rfl
    split
    · exact hs1.trans (duplicate _)
    split
    · exact hs1.trans (setPart ..)
    split
    next t _ =>
      split
      · have htaken := ((hs1.trans (setLanes s1 { p with
          taken := p.taken.filter (fun u => u.rank != t.rank) ++ [{ c with at_ := s.now }], displaced := [(t, s.now)] })).trans
            (duplicate _)).trans (bump _ 0x2000308 (2 ^ 64 - 1))
        exact htaken.trans (deliverPart (htaken.sound hs) n b o)
      · exact (hs1.trans (setPart ..)).trans (duplicate _)
    · split
      · have htaken := hs1.trans (takeCopy s1 p c)
        exact htaken.trans (deliverPart (htaken.sound hs) n b o)
      · exact hs1.trans (setPart ..)

theorem admitCopies (hs : s.Sound) (k : Nat) : s.GoesOn q (s.admitCopies k) := by
  induction k generalizing s with
  | zero => exact refl q s
  | succ k ih =>
    unfold State.admitCopies
    split
    · exact refl q s
    next n b o c rest _ =>
      split
      · exact refl q s
      · have hrest : s.GoesOn q { s with xe := { s.xe with waiting := rest } } := of_parts ⟨rfl, rfl⟩ rfl rfl rfl
        have harrived := hrest.trans (copyArrives (hrest.sound hs) n b o c)
        exact harrived.trans (ih (harrived.sound hs))

theorem admitWaiting (hs : s.Sound) : s.GoesOn q s.admitWaiting :=
  (admitCopies hs _).trans (of_silent (State.freeBuffers_frame _) rfl rfl rfl)

/-! ### Mirrors (R267) -/

theorem writeMirror (hs : s.Sound) (y : Sent) (vals : List Nat) : s.GoesOn q (s.writeMirror y vals) := by
  unfold State.writeMirror
  extract_lets r a
  have hfail : (if isHost a then s.rdFail a (4 * vals.length) else none) = none := by
    split
    next hhost => simp [State.rdFail, hhost, hs.host, hostFail]
    · rfl
  rw [hfail]
  exact (written ..).trans (emit ..)

theorem flushMirrors (hs : s.Sound) (y : Sent) : s.GoesOn q (s.flushMirrors y) := by
  unfold State.flushMirrors
  extract_lets l
  have hkept : s.GoesOn q { s with xe := { s.xe with
      mirrors := s.xe.mirrors.filter fun m => !(m.step == y.step && m.bucket == y.bucket) } } :=
    of_parts ⟨rfl, rfl⟩ rfl rfl rfl
  exact hkept.trans (foldl (fun v m hv => writeMirror hv y m.vals) l (hkept.sound hs))

end State.GoesOn

end Sys2Proof.Machine
end

section
/-!
XCHG and GATH (R248, R251, R269, R270): what the module keeps of the bucket that it sent, and how a gathering ends.
-/
namespace Sys2Proof.Machine

open Sys2Proof

variable {s t u : State} {q : Nat}

/-! ### XCHG -/

/-- What the module keeps of the bucket that command `c` sends. -/
def State.sentFor (s : State) (c : Cmd) (q : Nat) (nf : Bool) : Sent :=
  { seq := q, step := c.step, bucket := c.xchg.bucket, shardBase := c.xchg.shardBase, mirrorBase := c.xchg.mirrorBase
    errmem := c.xchg.errmem, owners := (List.range s.groupSize).filter fun o => s.ownsPart o c.xchg.bucket, nf := nf, waiting := []
    cleared := false }

/-- No access fails, command `q` runs, and the module holds what it sent. -/
structure State.Sending (s : State) (q : Nat) (y : Sent) : Prop where
  sound : s.Sound
  runs : ∃ d, s.cmd q = some d ∧ d.stage = .running
  held : y ∈ s.xe.sends

theorem State.GoesOn.sendPart (hs : s.Sound) (c : Cmd) (r : Nat) (e : Encoded) (o : Nat) : s.GoesOn q (s.sendPart c r e o) := by
  unfold State.sendPart
  extract_lets x range lo hi w
  split
  · exact copyArrives hs ..
  · exact (emit ..).trans (evt ..)

/-- An XCHG that can run sends its bucket, and goes on from there. -/
theorem State.runXchg_goesOn {c : Cmd} (hs : s.Sound) (hc : s.runnable q 0x30 = some c) (hfault : s.xchgFault c q = none)
    (hmark : (s.stepInfo c.step).mark ≠ .incomplete) (hstopped : s.xe.stopped = false) (hwaits : s.xchgWaits c = false)
    (hheld : s.heldBack (s.xchgReads c.xchg ++ s.xchgOuts c.xchg) = false) (hreads : s.rdFails (s.xchgReads c.xchg) = none) :
    ∃ v nf, State.Sending v q (s.sentFor c q nf) ∧ v.GoesOn q (s.runXchg q) := by
  unfold State.runXchg
  simp -zeta only [hc]
  extract_lets x n reads cur plane outs g old e owners sent s1 s2 s3 _ s4 s5 s6 s7
  simp -zeta only [hfault]
  rw [if_neg (by simp [hmark, hstopped]), if_neg (by simp [hwaits]), if_neg (by simp [reads, outs, x, hheld])]
  simp -zeta only [show s.rdFails reads = none from hreads, State.writeFail_of_sound hs.host outs]
  have hs1 : s.GoesOn q s1 := (GoesOn.readOperands s q reads).trans (GoesOn.writeAll ..)
  clear_value s1
  have hs2 : s1.GoesOn q s2 :=
    (((GoesOn.of_silent (State.countOn_frame ..) rfl rfl rfl).trans (.of_silent (State.freeStep_frame _) rfl rfl rfl)).trans
      (.evt ..)).trans (.evt ..)
  clear_value s2
  have hs3 : s2.GoesOn q s3 := (GoesOn.addCond ..).trans (.setDetail ..)
  clear_value s3
  have hread := (hs1.trans hs2).trans hs3
  obtain ⟨d, hd, -⟩ := hread.cmd c (State.runnable_cmd hc).1
  have hsends : State.Sending s5 q (s.sentFor c q e.nf) := by
    have hbegun := hread.sound hs
    exact ⟨⟨hbegun.host, hbegun.lanes⟩, ⟨_, State.cmd_running (State.cmd_addVnCheck (s := s4) hd none), rfl⟩, List.mem_cons_self⟩
  have hsent : s5.GoesOn q s6 := GoesOn.foldl (fun v o hv => .sendPart hv c q e o) owners hsends.sound
  have hparts : s6.GoesOn q (s6.ownedRanks.foldl (fun (u : State) o => u.deliverPart c.step x.bucket o) s6) :=
    GoesOn.foldl (fun v o hv => .deliverPart hv ..) _ (hsent.sound hsends.sound)
  have hs7 : s5.GoesOn q s7 := (hsent.trans hparts).trans (.flushMirrors ((hsent.trans hparts).sound hsends.sound) sent)
  refine ⟨s5, e.nf, hsends, ?_⟩
  split
  · exact hs7.trans (.deliver s7 q)
  · exact hs7

/-! ### GATH -/

theorem State.GoesOn.addList (s : State) (r n id : Nat) (l : List Byte) : s.GoesOn q (s.addList r n id l) :=
  of_parts ⟨rfl, rfl⟩ rfl rfl rfl

theorem State.GoesOn.sendList (s : State) (p r n id : Nat) (l : List Byte) : s.GoesOn q (s.sendList p r n id l) := by
  unfold State.sendList
  exact ((of_silent (State.emitAll_frame ..) rfl rfl rfl).trans (evt ..)).trans (addList ..)

/-- A gathering ends by the delivery of its command, or waits. -/
theorem State.gathEnds_of_head {x : GathX} {l : List GathX} (hs : s.ms.hostBad = []) (hgaths : s.xe.gaths = x :: l)
    (hrun : ∃ d, s.cmd x.seq = some d ∧ (d.stage = .running ∨ d.stage = .delivered)) : ∃ d, (s.gathEnds x.seq).cmd x.seq = some d ∧
      (d.stage = .delivered ∨ d.stage = .running ∧ x ∈ (s.gathEnds x.seq).xe.gaths) := by
  obtain ⟨c, hc, hstage⟩ := hrun
  have hfind : s.xe.gaths.find? (fun y => y.seq == x.seq) = some x := by simp [hgaths]
  unfold State.gathEnds
  simp -zeta only [hfind]
  extract_lets mine got bytes _ s1
  split
  · exact ⟨c, hc, hstage.elim (fun hruns => .inr ⟨hruns, hgaths ▸ List.mem_cons_self⟩) .inl⟩
  · rw [State.writeFail_of_sound hs]
    have hwritten := (GoesOn.writeAll (q := x.seq) s1 x.seq [(x.dest + 64, bytes)
      , (x.dest, natLe 8 (bytes.length / 8) ++ natLe 4 x.step ++ natLe 4 x.tensor ++ List.replicate 48 0)]).cmd c hc
    obtain ⟨d, hd, -⟩ := hwritten
    exact ⟨_, State.cmd_deliver hd, .inl rfl⟩

/-- The fields of a GATH that breaks no rule (R269, R270). -/
structure State.GathGood (s : State) (q : Nat) (c : Cmd) (y : Resident) : Prop where
  runs : s.runnable q 0x31 = some c
  tensor : s.resident (c.u 16 4) = some y
  list : c.u 24 8 % 64 = 0
  header : s.rangeBad (c.u 24 8) 64 = false
  dest : c.u 32 8 % 64 = 0
  place : s.rangeBad (c.u 32 8) (64 + 8 * c.u 40 8) = false
  room : y.k * y.n ≤ c.u 40 8
  live : s.xe.stopped = false

/-- The gathering that a GATH starts. -/
def Cmd.gathering (c : Cmd) (q : Nat) : GathX := { seq := q, step := c.step, tensor := c.u 16 4, dest := c.u 32 8 }

theorem State.runGath_ends {c : Cmd} {y : Resident} (hc : s.GathGood q c y)
    (hmark : (s.stepInfo c.step).mark = .open ∨ (s.stepInfo c.step).mark = .cleared)
    (hheld : s.heldBack [(c.u 24 8, 64), (c.u 24 8 + 64, 8 * s.rdNat (c.u 24 8) 8)] = false)
    (hreads : s.rdFails [(c.u 24 8, 64), (c.u 24 8 + 64, 8 * s.rdNat (c.u 24 8) 8)] = none) :
    ∃ v l, s.runGath q = State.gathEnds v q ∧ v.ms.hostBad = s.ms.hostBad ∧ v.xe.gaths = c.gathering q :: l ∧
      ∃ d, v.cmd q = some d ∧ (d.stage = .running ∨ d.stage = .delivered) := by
  unfold State.runGath
  simp -zeta only [hc.runs]
  extract_lets n id list dest cap _ s1 s2 s3 s4
  simp -zeta only [show s.resident id = some y from hc.tensor]
  rw [if_neg (by simp [list, hc.list, hc.header]), if_neg (by simp [dest, cap, hc.dest, hc.place]), if_neg (Nat.not_lt.mpr hc.room),
    if_neg (by rcases hmark with h | h <;> simp [n, h, hc.live]), if_neg (by rcases hmark with h | h <;> simp [n, h]),
    if_neg (by simp [list, hheld])]
  simp -zeta only [show s.rdFails [(list, 64), (list + 64, 8 * s.rdNat list 8)] = none from hreads]
  have hread : GoesOn q s1 (s1.readOperands q [(list, 64)]) := .readOperands ..
  obtain ⟨d, hd, -⟩ := hread.cmd c (State.runnable_cmd hc.runs).1
  have hs3 : s2.GoesOn q s3 := by
    unfold s3
    split
    · exact .sendList ..
    · exact .refl q s2
  have hs4 : s3.GoesOn q s4 := by
    refine List.foldlRecOn (motive := fun v : State => GoesOn q s3 v) _ _ (.refl q s3) fun v hv r _ => hv.trans ?_
    split
    · exact .sendList ..
    · exact .refl q v
  have hsent := hs3.trans hs4
  obtain ⟨e, he, hstage⟩ := hsent.cmd _ (State.cmd_running hd)
  refine ⟨s4, _, rfl, hsent.host.trans hread.host, hsent.gaths.trans hread.gaths, e, he, hstage⟩

/-- A GATH of a skipped step writes an empty list. -/
theorem State.runGath_of_skipped {c : Cmd} {y : Resident} (hc : s.GathGood q c y) (hhost : s.ms.hostBad = [])
    (hmark : (s.stepInfo c.step).mark = .skipped) (hheld : s.heldBack [(c.u 32 8, 64)] = false) :
    s.runGath q = (s.writeAll (some q) [(c.u 32 8, headerList c.step (c.u 16 4) [])]).deliver q := by
  unfold State.runGath
  simp -zeta only [hc.runs]
  extract_lets n id list dest cap
  simp -zeta only [show s.resident id = some y from hc.tensor]
  rw [if_neg (by simp [list, hc.list, hc.header]), if_neg (by simp [dest, cap, hc.dest, hc.place]), if_neg (Nat.not_lt.mpr hc.room),
    if_neg (by simp [n, hmark, hc.live]), if_pos hmark, if_neg (by simp [dest, hheld])]
  simp -zeta only [State.writeFail_of_sound hhost]
  rfl

/-- The list that a GATH of a skipped step writes: its header alone. -/
theorem headerList_nil_length (n id : Nat) : (headerList n id []).length = 64 := by
  simp [headerList, natLe_length]

theorem State.Holds.headerList_nil {a n id : Nat} (h : s.Holds a (headerList n id [])) (hn : n < 2 ^ 32) (hid : id < 2 ^ 32) :
    s.rdNat a 8 = 0 ∧ s.rdNat (a + 8) 4 = n ∧ s.rdNat (a + 12) 4 = id := by
  unfold headerList at h
  obtain ⟨h, -⟩ := State.holds_append.mp h
  obtain ⟨h, -⟩ := State.holds_append.mp h
  obtain ⟨h, htensor⟩ := State.holds_append.mp h
  obtain ⟨hcount, hstep⟩ := State.holds_append.mp h
  rw [natLe_length] at hstep
  rw [List.length_append, natLe_length, natLe_length] at htensor
  exact ⟨hcount.rdNat (by decide), hstep.rdNat hn, htensor.rdNat hid⟩

/-- Settles O36: while nothing fails, everything that happens in the steps of an XCHG lets it run or delivers it, and keeps what it
sent; a GATH waits with its gathering, or its lists are written and it is delivered. -/
theorem exchangeCommandsEnterTheExchange : Obligations.ExchangeCommandsEnterTheExchange := by
  unfold Obligations.ExchangeCommandsEnterTheExchange
  refine ⟨?xchg, ?gath, ?skipped⟩
  case xchg =>
    intro s q c _ hhost hlanes hc hfault hmark hstopped hwaits hheld hreads
    obtain ⟨v, nf, hv, hrun⟩ := State.runXchg_goesOn ⟨hhost, hlanes⟩ hc hfault hmark hstopped hwaits hheld hreads
    have hend := hrun.trans (.admitWaiting (hrun.sound hv.sound))
    obtain ⟨d, hd, hstage⟩ := hv.runs
    obtain ⟨e, he, hnext⟩ := hend.cmd d hd
    refine ⟨_, rfl, ⟨e, he, hnext.imp_left (·.trans hstage)⟩, _, hend.sends ▸ hv.held, rfl, rfl, rfl, rfl, rfl, rfl⟩
  case gath =>
    intro s q c y _ hhost hc htensor hlist hheader hdest hplace hroom hlive hmark hheld hreads
    obtain ⟨v, l, hrun, hbad, hgaths, hstage⟩ :=
      State.runGath_ends ⟨hc, htensor, hlist, hheader, hdest, hplace, hroom, hlive⟩ hmark hheld hreads
    obtain ⟨d, hd, hends⟩ := State.gathEnds_of_head (hbad.trans hhost) hgaths hstage
    refine ⟨_, congrArg Host.Outcome.next hrun, d, hd, hends.imp_right fun ⟨hruns, hx⟩ => ⟨hruns, _, hx, rfl, rfl, rfl⟩⟩
  case skipped =>
    intro s q c y hs hhost hc htensor hlist hheader hdest hplace hroom hlive hmark hheld
    refine ⟨_, congrArg Host.Outcome.next (State.runGath_of_skipped ⟨hc, htensor, hlist, hheader, hdest, hplace, hroom, hlive⟩
      hhost hmark hheld), ?_⟩
    have hlength := headerList_nil_length c.step (c.u 16 4)
    have hdata : (s.wr (c.u 32 8) (headerList c.step (c.u 16 4) [])).SameData
        ((s.writeAll (some q) [(c.u 32 8, headerList c.step (c.u 16 4) [])]).deliver q) :=
      (((State.traffic_frame ..).sameData rfl).trans ((State.noteWrite_frame ..).sameData rfl)).trans
        ((State.deliver_frame ..).sameData rfl)
    have hholds : (s.wr (c.u 32 8) (headerList c.step (c.u 16 4) [])).Holds (c.u 32 8) (headerList c.step (c.u 16 4) []) :=
      State.holds_wr hs fun i hi => State.isHost_add hplace (by omega)
    obtain ⟨hcount, hstep, htensor⟩ := (hholds.of_data hdata).headerList_nil (c.u_lt 4 4) (c.u_lt 16 4)
    refine ⟨State.exists_cmd_deliver ?_, hcount, hstep, htensor, fun j hj => ?_⟩
    · rw [State.cmd_of_cmds (State.writeAll_cmds ..), (State.runnable_cmd hc).1]
      rfl
    · have hout := hj (c.u 32 8, 64) (List.mem_singleton_self _)
      exact (hdata.rdByte j).trans (State.rdByte_wr_out hs (by rwa [hlength]))

end Sys2Proof.Machine
end

section
/-!
COMMAND_CLEAR (R283, R500): a command that nothing holds back becomes clear, and one that a failed command holds back takes the
status of highest precedence among those it depends on.
-/
namespace Sys2Proof.Machine

open Sys2Proof

/-! ### The failed command of highest precedence (Table 11.12) -/

/-- Of two failed commands the one whose status has the higher precedence, the earlier one where they are alike. -/
def worseOf (b : Option Cmd) (d : Cmd) : Option Cmd :=
  match b with
  | none => some d
  | some e => if d.status.rank < e.status.rank then some d else some e

theorem worstFailed_eq (l : List Cmd) : worstFailed l = (l.filter fun d => d.stage == .failed).foldl worseOf none := rfl

/-- The search finds one of the commands, where there is one. -/
theorem foldl_worseOf_choice (l : List Cmd) (b : Option Cmd) :
    (∀ e, l.foldl worseOf b = some e → b = some e ∨ e ∈ l) ∧ (l.foldl worseOf b = none → b = none ∧ l = []) :=
  foldl_choice (fun _ => rfl) (fun x d => by unfold worseOf; dsimp only; split <;> simp) l b

/-- What it finds has the highest precedence. -/
theorem rank_foldl_worseOf_le {l : List Cmd} {b : Option Cmd} {e : Cmd} (h : l.foldl worseOf b = some e) :
    (∀ x, b = some x → e.status.rank ≤ x.status.rank) ∧ ∀ f ∈ l, e.status.rank ≤ f.status.rank := by
  induction l generalizing b with
  | nil => exact ⟨fun x hx => by cases h.symm.trans hx; exact Nat.le_refl _, by simp⟩
  | cons d l ih =>
    obtain ⟨hb, hl⟩ := ih h
    have hle : e.status.rank ≤ d.status.rank ∧ ∀ x, b = some x → e.status.rank ≤ x.status.rank := by
      cases b with
      | none => exact ⟨hb d rfl, by simp⟩
      | some x =>
        by_cases hlt : d.status.rank < x.status.rank
        · have hd := hb d (if_pos hlt)
          exact ⟨hd, fun y hy => by cases hy; omega⟩
        · have hx := hb x (if_neg hlt)
          exact ⟨by omega, fun y hy => by cases hy; exact hx⟩
    exact ⟨hle.2, fun f hf => (List.mem_cons.mp hf).elim (fun e => e ▸ hle.1) (hl f)⟩

theorem worstFailed_some {l : List Cmd} {e : Cmd} (h : worstFailed l = some e) :
    e ∈ l ∧ e.stage = .failed ∧ ∀ f ∈ l, f.stage = .failed → e.status.rank ≤ f.status.rank := by
  rw [worstFailed_eq] at h
  obtain ⟨hin, hfailed⟩ := List.mem_filter.mp (((foldl_worseOf_choice _ none).1 e h).resolve_left (by simp))
  refine ⟨hin, by simpa using hfailed, fun f hf hstage => (rank_foldl_worseOf_le h).2 f ?_⟩
  exact List.mem_filter.mpr ⟨hf, by simp [hstage]⟩

theorem worstFailed_of_sound {l : List Cmd} (h : ∀ d ∈ l, d.stage ≠ .failed) : worstFailed l = none := by
  rw [worstFailed_eq, List.filter_eq_nil_iff.mpr fun d hd => by simp [h d hd]]
  rfl

theorem exists_worstFailed {l : List Cmd} {b : Cmd} (hb : b ∈ l) (hfailed : b.stage = .failed) : ∃ e, worstFailed l = some e := by
  rw [worstFailed_eq]
  refine Option.ne_none_iff_exists'.mp fun hnone => ?_
  exact List.filter_eq_nil_iff.mp ((foldl_worseOf_choice _ none).2 hnone).2 b hb (by simp [hfailed])

/-! ### What failure makes of a command (R500) -/

/-- The command as its failure leaves it. -/
def Cmd.failedWith (c : Cmd) (t : Status) (detail : Nat) : Cmd :=
  { c with stage := .failed, conds := t :: c.conds, detail := detail % 2 ^ 63, tainted := false, hold := false }

section Fail

variable {s t : State} {q : Nat} {d : Cmd}

/-- The commands after a change of those named `q`. -/
theorem State.mem_updCmd {f : Cmd → Cmd} {x : Cmd} (hx : x ∈ (s.updCmd q f).hg.cmds) :
    (x ∈ s.hg.cmds ∧ x.seq ≠ some q) ∨ ∃ y, y.seq = some q ∧ x = f y := by
  obtain ⟨y, hy, rfl⟩ := List.mem_map.mp hx
  by_cases hq : y.seq = some q
  · exact .inr ⟨y, hq, if_pos (beq_iff_eq.mpr hq)⟩
  · rw [if_neg (mt beq_iff_eq.mp hq)]
    exact .inl ⟨hy, hq⟩

/-- The command named `q` is `d`, and none of that name ends with a step any more. -/
structure State.EndedAs (s : State) (q : Nat) (d : Cmd) : Prop where
  cmd : s.cmd q = some d
  failed : ∀ x ∈ s.hg.cmds, x.seq = some q → x.stage = .failed

namespace State.EndedAs

theorem of_cmds (h : s.EndedAs q d) (e : t.hg.cmds = s.hg.cmds) : t.EndedAs q d :=
  ⟨(State.cmd_of_cmds e q).trans h.cmd, e ▸ h.failed⟩

theorem updCmd_ne (h : s.EndedAs q d) {r : Nat} {f : Cmd → Cmd} (hr : q ≠ r) (hf : ∀ c, (f c).seq = c.seq) :
    (s.updCmd r f).EndedAs q d := by
  refine ⟨(State.cmd_updCmd_ne f hr hf).trans h.cmd, fun x hx hq => ?_⟩
  rcases State.mem_updCmd hx with ⟨hin, -⟩ | ⟨y, hy, rfl⟩
  · exact h.failed x hin hq
  · exact absurd (Option.some.inj (hq.symm.trans ((hf y).trans hy))) hr

theorem timeOut (h : s.EndedAs q d) {x : Cmd} (hx : x.seq ≠ some q) : (s.timeOut x).EndedAs q d := by
  unfold State.timeOut
  split
  · exact h
  next r hr =>
    have hne : q ≠ r := fun e => hx (e ▸ hr)
    refine State.EndedAs.of_cmds ?_ (State.haltOn_cmds ..)
    exact h.updCmd_ne hne fun _ => rfl

theorem dropStep (h : s.EndedAs q d) (n : Nat) : (s.dropStep n).EndedAs q d := by
  unfold State.dropStep
  split
  · exact h
  · extract_lets s1 _ s2
    have h2 : s2.EndedAs q d := by
      refine h.of_cmds ?_
      change ((s.markStep n .incomplete).sendSummary n false true).hg.cmds = _
      rw [State.sendSummary_hg, State.markStep_cmds]
    refine List.foldlRecOn (motive := fun u : State => u.EndedAs q d) _ _ h2 fun u hu x hx => hu.timeOut fun hq => ?_
    obtain ⟨hin, hends⟩ := List.mem_filter.mp hx
    simp [Cmd.endsWithStep, h2.failed x hin hq] at hends

theorem markIncomplete (h : s.EndedAs q d) (n : Nat) : (s.markIncomplete n).EndedAs q d := by
  unfold State.markIncomplete
  split
  · exact h
  · exact ((h.dropStep n).dropStep (n + 1)).of_cmds rfl

end State.EndedAs

/-- Failure gives the command its status, and the end of its step leaves it so. -/
theorem State.cmd_failCmd {c : Cmd} (h : s.cmd q = some c) (t : Status) (detail : Nat) :
    (s.failCmd q t detail).cmd q = some (c.failedWith t detail) := by
  have hfailed : (s.updCmd q fun c => c.failedWith t detail).EndedAs q (c.failedWith t detail) := by
    refine ⟨?_, fun x hx hq => ?_⟩
    · rw [State.cmd_updCmd (fun c => c.failedWith t detail) fun _ => rfl, h]
      rfl
    · rcases State.mem_updCmd hx with ⟨-, hne⟩ | ⟨y, -, rfl⟩
      · exact absurd hq hne
      · rfl
  have hhalted := hfailed.of_cmds (State.haltOn_cmds _ c t)
  unfold State.failCmd
  simp only [h]
  split
  · exact (hhalted.markIncomplete _).cmd
  · exact hhalted.cmd

end Fail

/-! ### What becoming clear does (R131, R227, R285, R293) -/

/-- The opcodes of XCHG, RECOMP, AMVM and AMVT, whose becoming clear does more. -/
def clearsFurther : List Nat := [0x10, 0x11, 0x2A, 0x30]

section Clear

variable {s : State} {q : Nat} {c : Cmd}

/-- Nothing further happens when command `q` becomes clear: no fold waits for it, and no replay is under way. -/
structure State.ClearsAlone (s : State) (q : Nat) (c : Cmd) : Prop where
  seq : c.seq = some q
  opcode : c.opcode ∉ clearsFurther
  parent : c.parent = none
  folds : ∀ f ∈ s.mc.folds, f.seq ≠ q
  replay : s.hg.replay = none

theorem State.ClearsAlone.updCmd (h : s.ClearsAlone q c) (f : Cmd → Cmd) : (s.updCmd q f).ClearsAlone q c :=
  ⟨h.seq, h.opcode, h.parent, h.folds, h.replay⟩

theorem State.ClearsAlone.foldClear (h : s.ClearsAlone q c) (step : Nat) : (s.foldClear q step).hg = s.hg := by
  have hnone : s.mc.folds.filter (·.seq = q) = [] := List.filter_eq_nil_iff.mpr fun f hf => by simp [h.folds f hf]
  unfold State.foldClear State.foldAll
  rw [hnone]
  rfl

theorem State.replayEnd_of_none (h : s.hg.replay = none) : s.replayEnd = s := by
  unfold State.replayEnd
  simp only [h]

theorem State.ClearsAlone.onClear (h : s.ClearsAlone q c) : (s.onClear c).hg = s.hg := by
  have hfolded := h.foldClear c.step
  have hop := h.opcode
  simp only [clearsFurther, List.mem_cons, List.not_mem_nil, or_false, not_or] at hop
  obtain ⟨hamvm, hamvt, hrecomp, hxchg⟩ := hop
  unfold State.onClear
  simp only [h.seq, h.parent, hamvm, hamvt, hrecomp, hxchg, if_false, or_self]
  rw [State.replayEnd_of_none]
  · exact hfolded
  · exact (congrArg HostGate.replay hfolded).trans h.replay

/-- A command that nothing holds back becomes clear. -/
theorem State.cmd_clearCmd (halone : s.ClearsAlone q c) (hc : s.cmd q = some c) (hstage : c.stage = .delivered)
    (hchecks : c.checks = 0) (htainted : c.tainted = false)
    (hdeps : (s.dependsOn c).all (fun d => d.stage.isClear || ((c.isFenc || c.critical) && d.stage == .failed)) = true) :
    (s.clearCmd q).cmd q = some { c with stage := .clear } := by
  have hworst : (if (c.isFenc || c.critical) = true then none else worstFailed (s.dependsOn c)) = none := by
    split
    · rfl
    next hpast =>
      refine worstFailed_of_sound fun d hd hfailed => ?_
      have hclear := List.all_eq_true.mp hdeps d hd
      simp [hpast, hfailed, Stage.isClear] at hclear
  have hnone : s.mc.folds.filter (fun f => f.seq == q) = [] := List.filter_eq_nil_iff.mpr fun f hf => by simp [halone.folds f hf]
  have hcmd : ((s.updCmd q fun c => { c with stage := .clear }).onClear c).cmd q = some { c with stage := .clear } := by
    rw [State.cmd_of_cmds (congrArg HostGate.cmds (halone.updCmd _).onClear),
      State.cmd_updCmd (fun c => { c with stage := .clear }) fun _ => rfl, hc]
    rfl
  unfold State.clearCmd
  simp only [hc]
  rw [if_neg (by simp [hstage, hchecks, htainted])]
  simp only [hworst, hnone, List.map_nil, State.heldBack_nil]
  rw [if_pos ⟨hdeps, Bool.false_ne_true⟩]
  split
  · rw [State.cmd_of_cmds (congrArg HostGate.cmds (State.logRec_hg ..)), hcmd]
  · exact hcmd

/-- A command that a failed one holds back fails with the status of highest precedence. -/
theorem State.clearCmd_of_failed {e : Cmd} (hc : s.cmd q = some c) (hstage : c.stage = .delivered) (hchecks : c.checks = 0)
    (htainted : c.tainted = false) (hfenc : c.isFenc = false) (hcritical : c.critical = false)
    (hworst : worstFailed (s.dependsOn c) = some e) : s.clearCmd q = s.failCmd q e.status (e.seq.getD 0) := by
  unfold State.clearCmd
  simp only [hc]
  rw [if_neg (by simp [hstage, hchecks, htainted])]
  simp only [hfenc, hcritical, Bool.or_self, Bool.false_eq_true, if_false, hworst]

end Clear

/-- Settles O14: nothing is folded, replayed or settled when such a command becomes clear; the failed command whose status another
one takes is the first of highest precedence, and the end of its step does not change the failed command again. -/
theorem commandsBecomeClear : Obligations.CommandsBecomeClear := by
  unfold Obligations.CommandsBecomeClear
  refine ⟨?clear, ?failed⟩
  case clear =>
    intro s q c hc hstage hchecks htainted hdeps hop hparent hseq hfolds hreplay
    exact ⟨_, rfl, _, State.cmd_clearCmd ⟨hseq, hop, hparent, hfolds, hreplay⟩ hc hstage hchecks htainted hdeps, rfl⟩
  case failed =>
    intro s q c b hc hstage hchecks htainted hfenc hcritical hb hfailed
    obtain ⟨e, hworst⟩ := exists_worstFailed hb hfailed
    obtain ⟨hmem, hstands, hleast⟩ := worstFailed_some hworst
    exact ⟨_, congrArg Host.Outcome.next (State.clearCmd_of_failed hc hstage hchecks htainted hfenc hcritical hworst), _,
      State.cmd_failCmd hc _ _, rfl, e, hmem, hstands, rfl, hleast⟩

end Sys2Proof.Machine
end

section
/-!
A failed check of a tile and the replay that repairs it (R287 to R289). The error of a core touches neither the commands nor the
journal nor the count of failures in a row; the tainting that follows has no contribution to retract.
-/
namespace Sys2Proof.Machine

open Sys2Proof

/-! ### Logbooks and records within the integrity data (R308, R394) -/

section Logs

variable (s : State)

theorem State.logRec_im (u coord kind : Nat) (ring seq : Option Nat) (data : Nat) :
    ∃ l, (s.logRec u coord kind ring seq data).im = { s.im with logs := l } := by
  unfold State.logRec
  extract_lets
  split <;> exact ⟨_, rfl⟩

theorem State.triggerLog_im (u cause : Nat) : ∃ l, (s.triggerLog u cause).im = { s.im with logs := l } := by
  unfold State.triggerLog
  extract_lets
  split <;> exact ⟨_, rfl⟩

theorem State.trigger_im (cause : Nat) : ∃ l, (s.trigger cause).im = { s.im with logs := l } := by
  unfold State.trigger
  extract_lets gated units logged
  have hlogged : ∃ l, logged.im = { s.im with logs := l } := by
    refine List.foldlRecOn (motive := fun u : State => ∃ l, u.im = { s.im with logs := l }) units _ ⟨_, rfl⟩ fun v hv n _ => ?_
    obtain ⟨l, hl⟩ := hv
    obtain ⟨m, hm⟩ := v.triggerLog_im n cause
    exact ⟨m, by rw [hm, hl]⟩
  split
  · exact hlogged
  · rw [(State.arrive_frame ..).im_eq rfl]
    exact hlogged

/-- A record goes to its queue and to the Logbooks. -/
theorem State.cper_im (b : CperBody) : ∃ r w l, (s.cper b).im = { s.im with cper := r, cperWrite := w, logs := l } := by
  unfold State.cper
  extract_lets w _ recorded u
  have hrecorded : ∃ r w, recorded.im = { s.im with cper := r, cperWrite := w } := by
    unfold recorded
    split
    · exact ⟨_, _, rfl⟩
    · rw [(State.arrive_frame ..).im_eq rfl]
      exact ⟨_, _, rfl⟩
  obtain ⟨r, w, hr⟩ := hrecorded
  obtain ⟨l, hl⟩ : ∃ l, (recorded.logFor u b.coord 0x50 b.seq (b.mechanism + 256 * b.action)).im = { recorded.im with logs := l } :=
    State.logRec_im ..
  obtain ⟨m, hm⟩ := (recorded.logFor u b.coord 0x50 b.seq (b.mechanism + 256 * b.action)).trigger_im 1
  exact ⟨r, w, m, by rw [hm, hl, hr]⟩

end Logs

/-! ### The error of a core (R299 to R305) -/

/-- An error was counted: no command, no journal and no failure in a row has changed. -/
structure State.ErrorCounted (s t : State) : Prop where
  frame : Frame [.ld, .irq, .pcie, .im, .uk, .fab, .ctrs, .out] s t
  repeats : t.im.repeats = s.im.repeats

namespace State.ErrorCounted

variable {s t v : State} {u : UnitId}

theorem trans (h : s.ErrorCounted t) (k : t.ErrorCounted v) : s.ErrorCounted v :=
  ⟨h.frame.comp k.frame rfl, k.repeats.trans h.repeats⟩

theorem of_im (h : Frame [.im] s t) (hr : t.im.repeats = s.im.repeats) : s.ErrorCounted t := ⟨h.mono rfl, hr⟩

theorem bump (s : State) (off n : Nat) : s.ErrorCounted (s.bump off n) := ⟨(State.bump_frame ..).mono rfl, rfl⟩

theorem cper (s : State) (b : CperBody) : s.ErrorCounted (s.cper b) := by
  obtain ⟨r, w, l, h⟩ := s.cper_im b
  exact ⟨(State.cper_frame ..).mono rfl, by rw [h]⟩

theorem noteError (s : State) (u : UnitId) : s.ErrorCounted (s.noteError u).1 := by
  refine of_im (State.noteError_frame ..) ?_
  unfold State.noteError
  extract_lets
  split <;> rfl

theorem suspectAct (hu : u.kind = 1) : s.ErrorCounted (s.suspectAct u).1 := by
  refine ⟨(State.suspectAct_frame ..).mono rfl, ?_⟩
  unfold State.suspectAct
  rw [if_pos hu]
  split
  · rfl
  · split <;> rfl

theorem retireCore (s : State) (u : UnitId) : s.ErrorCounted (s.retireCore u).1 := by
  refine of_im (State.retireCore_frame ..) ?_
  unfold State.retireCore
  split
  · rfl
  · split <;> rfl

theorem retireUnit (hu : u.kind = 1) : s.ErrorCounted (s.retireUnit u).1 := by
  unfold State.retireUnit
  split
  · exact ⟨Frame.refl, rfl⟩
  · extract_lets s1
    have hcounted : s.ErrorCounted s1 := bump ..
    split
    · exact hcounted.trans (of_im (State.setErrors_frame ..) rfl)
    · exact hcounted.trans (retireCore ..)

theorem then_cper (h : s.ErrorCounted t) (b : CperBody) (x : Bool × Bool) : s.ErrorCounted (t.cper b, x).1 := by
  dsimp only
  exact h.trans (cper t b)

theorem countError (hu : u.kind = 1) (mech syn step : Nat) (third : Bool) (q : Option Nat) :
    s.ErrorCounted (s.countError u mech syn step third q).1 := by
  unfold State.countError
  extract_lets n _ body retired _ suspect
  have hnoted : s.ErrorCounted n.1 := noteError s u
  have hretired : s.ErrorCounted retired.1 := hnoted.trans (retireUnit hu)
  have hsuspect : s.ErrorCounted suspect.1 := hnoted.trans (suspectAct hu)
  clear_value retired suspect
  split
  · exact hnoted.then_cper ..
  split
  · exact hnoted.then_cper ..
  split
  · exact hretired.then_cper ..
  split
  · exact hsuspect.then_cper ..
  · exact hnoted.then_cper ..

end State.ErrorCounted

theorem workingCore_kind (spares : List (Nat × Nat)) (die cluster k : Nat) : (workingCore spares die cluster k).kind = 1 := by
  unfold workingCore
  extract_lets
  split <;> rfl

/-! ### The journal (R22) -/

/-- No uncorrectable codeword lies in the memory of the journal. -/
def State.JournalReadable (s : State) : Prop :=
  ∀ p ∈ s.ms.upset, decodePattern p.2 = .bad → placeOf s.ms.interleave (32 * p.1) ≠ .journal

theorem State.readJournal_of_readable {s : State} (h : s.JournalReadable) : s.readJournal = s := by
  have hnone : s.ms.upset.filter (fun p => decodePattern p.2 == .bad && placeOf s.ms.interleave (32 * p.1) == .journal) = [] := by
    refine List.filter_eq_nil_iff.mpr fun p hp hbad => ?_
    obtain ⟨hpattern, hplace⟩ := (Bool.and_eq_true ..).mp hbad
    exact h p hp (beq_iff_eq.mp hpattern) (beq_iff_eq.mp hplace)
  unfold State.readJournal
  rw [hnone]
  rfl

theorem State.unreplayable_of_steps {s t : State} (h : t.hg.steps = s.hg.steps) (c : Cmd) : t.unreplayable c = s.unreplayable c := by
  simp only [State.unreplayable, State.stepInfo_of_steps h]

/-! ### A failed check -/

section Fails

variable {s t : State} {q : Nat} {c : Cmd} {key : List Nat} {u : UnitId}

theorem State.failsOf_of_repeats (h : t.im.repeats = s.im.repeats) :
    t.failsOf q key u = s.failsOf q key u := by
  simp only [State.failsOf, h]

theorem State.failsOf_setFails (s : State) (q : Nat) (key : List Nat) (u : UnitId) (n : Nat) :
    (s.setFails q key u n).failsOf q key u = n := by
  simp [State.failsOf, State.setFails]

/-- Tainting without a contribution to retract changes commands and counters alone. -/
theorem State.taint_im (hsends : s.xe.sends = []) (q : Nat) : (s.taint q).im = s.im := by
  have hrepair := State.countRepair_frame s
  have hstart : s.countRepair.xe.sends = [] ∧ s.countRepair.im = s.im :=
    ⟨(congrArg Exchange.sends (hrepair.same .xe (by decide))).trans hsends, hrepair.im_eq rfl⟩
  refine (List.foldlRecOn (motive := fun v : State => v.xe.sends = [] ∧ v.im = s.im) _ _ hstart fun v hv r _ => ?_).2
  obtain ⟨hvsends, hvim⟩ := hv
  unfold State.taintOne
  split
  · exact ⟨hvsends, hvim⟩
  · split
    · exact ⟨hvsends, hvim⟩
    · simp [hvsends, hvim]

/-- The first or second failure in a row of a check on a core, in a step that can be replayed: the error is counted, and the command
is tainted, and marked when its core has been retired. -/
theorem State.checkFailed_of_replayable (hfailed : c.stage ≠ .failed) (hrefused : c.stage ≠ .refused)
    (hreplay : s.unreplayable c = false) (hjournal : s.JournalReadable) (hu : u.kind = 1) (hrow : s.failsOf q key u < 2)
    (mech syn ctr : Nat) : ∃ (v : State) (retired : Bool), (s.setFails q key u (s.failsOf q key u + 1)).ErrorCounted v ∧
      s.checkFailed c q key u mech syn ctr = if retired then (v.taint q).markRetired q else v.taint q := by
  unfold State.checkFailed
  extract_lets n r s1 s2 s3
  have hcounted : (s.setFails q key u n).ErrorCounted r.1 := (State.ErrorCounted.bump ..).trans (.countError hu ..)
  have hsteps : r.1.hg.steps = s.hg.steps := congrArg HostGate.steps (hcounted.frame.hg_eq rfl)
  have hms : r.1.ms = s.ms := hcounted.frame.same .ms (by decide)
  have hs1 : s1 = r.1 := State.readJournal_of_readable (by unfold State.JournalReadable; rwa [hms])
  have hs2 : s2 = r.1.taint q := (if_neg (by simp [hfailed, hrefused])).trans (congrArg (State.taint · q) hs1)
  refine ⟨r.1, r.2.1, hcounted, ?_⟩
  rw [if_neg (by rw [hs1, State.unreplayable_of_steps hsteps, hreplay]; simp), if_neg (by omega)]
  unfold s3
  rw [hs2]

theorem State.cmd_markRetired (hc : s.cmd q = some c) : (s.markRetired q).cmd q = some { c with unitRetired := true } := by
  unfold State.markRetired
  rw [State.cmd_updCmd (fun c => { c with unitRetired := true }) fun _ => rfl, hc]
  rfl

/-- The failure is one more in a row, and the command is tainted. -/
theorem State.checkFailed_taints (hc : s.cmd q = some c) (hfailed : c.stage ≠ .failed) (hrefused : c.stage ≠ .refused)
    (hparent : c.parent = none) (hreplay : s.unreplayable c = false) (hsends : s.xe.sends = []) (hjournal : s.JournalReadable)
    (hu : u.kind = 1) (hrow : s.failsOf q key u < 2) (mech syn ctr : Nat) :
    (s.checkFailed c q key u mech syn ctr).failsOf q key u = s.failsOf q key u + 1 ∧
      ∃ d, (s.checkFailed c q key u mech syn ctr).cmd q = some d ∧ d.tainted = true := by
  obtain ⟨v, retired, hv, hrun⟩ := State.checkFailed_of_replayable hfailed hrefused hreplay hjournal hu hrow mech syn ctr
  have hvsends : v.xe.sends = [] := (congrArg Exchange.sends (hv.frame.same .xe (by decide))).trans hsends
  have hvc : v.cmd q = some c := (State.cmd_of_cmds (congrArg HostGate.cmds (hv.frame.hg_eq rfl)) q).trans hc
  have hfails : (v.taint q).failsOf q key u = s.failsOf q key u + 1 := by
    rw [State.failsOf_of_repeats ((congrArg Integrity.repeats (State.taint_im hvsends q)).trans hv.repeats), State.failsOf_setFails]
  obtain ⟨d, hd, htainted⟩ := State.cmd_taint hvsends hvc hfailed hrefused hparent
  rw [hrun]
  cases retired with
  | true => exact ⟨hfails, _, State.cmd_markRetired hd, htainted⟩
  | false => exact ⟨hfails, d, hd, htainted⟩

/-- The report of a fault that the shadow confirms (R80, R287). -/
theorem State.tileChecked_failed {i : Nat} {f : CheckFault} {z : Tile} (hz : s.tile q i = some z) (hc : s.cmd q = some c)
    (hstage : z.stage = .delivered) (hf : z.faulty f = true) : s.tileChecked q i (some f) =
      (s.setTile { z with stage := .checked }).checkFailed c q [0, i] (workingCore z.spares z.die z.cluster (s.checkedCore z f))
        (f.check.val + 1) (residueSyn (z.shown f).1 (z.shown f).2) (dieCtr 0x2800300 z.die) := by
  have hfault : (some f).filter z.faulty = some f := if_pos hf
  simp [State.tileChecked, hz, hc, hstage, hfault]

end Fails

/-! ### The replay of a command (R287, R288) -/

section Replay

variable {s : State} {q : Nat} {c : Cmd}

theorem find?_filter_of_pos {α : Type} {p f : α → Bool} {l : List α} {x : α} (h : l.find? p = some x) (hx : f x = true) :
    (l.filter f).find? p = some x := by
  obtain ⟨hp, as, bs, rfl, has⟩ := List.find?_eq_some_iff_append.mp h
  rw [List.find?_filter]
  refine List.find?_eq_some_iff_append.mpr ⟨by simp [hp, hx], as, bs, rfl, fun a ha => ?_⟩
  have hnot : p a = false := by simpa using has a ha
  simp [hnot]

/-- What is dropped of an earlier run are copies that the command replayed, never the command. -/
theorem State.cmd_dropRun (hc : s.cmd q = some c) (hparent : c.parent = none) : (s.dropRun q).cmd q = some c :=
  find?_filter_of_pos (f := fun (c : Cmd) => c.parent != some q) hc (by simp [hparent])

/-- The command as it runs again (R288). -/
def State.restarted (s : State) (q : Nat) (c : Cmd) : Cmd :=
  { c with
    stage := .started, tainted := false, repaired := true, checks := 0, conds := [], ind := 0, detail := 0
    startedAt := s.now, children := [], unitRetired := c.unitRetired || s.usedRetired q }

/-- A tainted command may run again, and no tainted one accepted before it. -/
structure State.MayRepair (s : State) (q : Nat) (c : Cmd) : Prop where
  stands : s.cmd q = some c
  tainted : c.tainted = true
  journal : s.JournalReadable
  first : ∀ d ∈ s.hg.cmds, d.tainted = true → d.before c = true → s.repairReady d = false
  ready : ∀ d ∈ s.dependsOn c, d.tainted = false ∧ (d.repaired = true → d.stage.isDone = true ∨ d.stage = .failed)

theorem State.MayRepair.repairReady (h : s.MayRepair q c) : s.repairReady c = true := by
  refine List.all_eq_true.mpr fun d hd => ?_
  obtain ⟨htainted, hagain⟩ := h.ready d hd
  cases hrep : d.repaired with
  | false => simp [htainted]
  | true => simpa [htainted] using hagain hrep

/-- The replay goes on to the command itself. -/
theorem State.repairStart_of_mayRepair (h : s.MayRepair q c) : s.repairStart q =
    if c.stage = .accepted then s.updCmd q fun c => { c with tainted := false }
    else if s.unreplayable c = true then (s.recordJournal c).failCmd q .uncorrectableMemory 0
    else (s.dropRun q).updCmd q (s.restarted q) := by
  have hbehind : (s.hg.cmds.any fun d => d.tainted && d.before c && s.repairReady d) = false := by
    refine List.any_eq_false.mpr fun d hd hall => ?_
    simp only [Bool.and_eq_true] at hall
    obtain ⟨⟨htainted, hbefore⟩, hready⟩ := hall
    simp [h.first d hd htainted hbefore] at hready
  unfold State.repairStart
  simp only [State.readJournal_of_readable h.journal, h.stands, hbehind]
  rw [if_neg (by simp [h.tainted, h.repairReady])]
  rfl

end Replay

/-- Settles O34: the error of the core leaves the commands as they are, so that the tainting finds the command and the count of its
tile; a replay drops what the earlier run had under way and starts the command itself again. -/
theorem aFailedCheckTaintsItsCommand : Obligations.AFailedCheckTaintsItsCommand := by
  unfold Obligations.AFailedCheckTaintsItsCommand
  refine ⟨?fails, ?replay⟩
  case fails =>
    intro s q i f z c u _ hi hz hc hstage hfailed hrefused hparent hreplay hsends hjournal hf hu hrow
    subst hu
    have hexec := exec_tileCheckComplete_tile (q := q) hi false f.core f.check f.place f.observed s
    refine ⟨_, hexec.trans (congrArg Host.Outcome.next (State.tileChecked_failed hz hc hstage hf)), ?_⟩
    exact State.checkFailed_taints (s := s.setTile { z with stage := .checked }) hc hfailed hrefused hparent hreplay hsends hjournal
      (workingCore_kind ..) hrow _ _ _
  case replay =>
    intro s q c hc htainted hparent hjournal hfirst hready
    have hrun := State.repairStart_of_mayRepair ⟨hc, htainted, hjournal, hfirst, hready⟩
    refine ⟨fun haccepted hreplay => ?_, fun haccepted => ?_⟩
    · rw [if_neg haccepted, if_neg (by simp [hreplay])] at hrun
      refine ⟨_, congrArg Host.Outcome.next hrun, s.restarted q c, ?_, rfl, rfl, rfl, rfl, rfl, rfl, rfl⟩
      rw [State.cmd_updCmd (s.restarted q) fun _ => rfl, State.cmd_dropRun hc hparent]
      rfl
    · rw [if_pos haccepted] at hrun
      refine ⟨_, congrArg Host.Outcome.next hrun, { c with tainted := false }, ?_, haccepted, rfl⟩
      rw [State.cmd_updCmd (fun c => { c with tainted := false }) fun _ => rfl, hc]
      rfl

end Sys2Proof.Machine
end

section
/-!
What the module trusts is loaded: firmware (R405, R406), the configuration certificate (R408, R409) and the spare map (R412). A
critical command runs in the state that its master's access leaves; an accepted message changes the Trust Block alone.
-/
namespace Sys2Proof.Machine

open Sys2Proof

theorem Frame.tb_eq {l : List Comp} {s t : State} (h : Frame l s t) (hl : l.contains .tb = false) : t.tb = s.tb :=
  h.same .tb (by simpa using hl)

theorem State.owns_of_tb {s t : State} (h : t.tb = s.tb) (m : Master) : t.owns m = s.owns m := by
  simp only [State.owns, State.owner, h]

/-! ### The run of a critical command -/

section Call

variable {s u : State} {x : Crit} {k : CritCall} {op q : Nat} {c : Cmd}

/-- The call that a started ring command makes (R417). -/
def Cmd.ringCall (c : Cmd) (q : Nat) : CritCall := { m := .host, slot := c.slot, slot2 := c.slot2, extra := [], seq := some q }

theorem State.critCall_ring (h : s.runnable q op = some c) : s.critCall (.ring q) op = some (c.ringCall q) := by
  simp [State.critCall, h, Cmd.ringCall]

/-- A call with an issue sequence number is that of a started ring command. -/
theorem State.isSome_cmd_of_critCall (h : s.critCall x op = some k) (hq : k.seq = some q) : (s.cmd q).isSome := by
  cases x with
  | ring r =>
    cases hc : s.runnable r op with
    | none => simp [State.critCall, hc] at h
    | some c =>
      obtain rfl : c.ringCall r = k := Option.some.inj ((State.critCall_ring hc).symm.trans h)
      cases hq
      simp [(State.runnable_cmd hc).1]
  | mctp sl ex =>
    obtain ⟨-, rfl⟩ : _ ∧ _ = k := by simpa [State.critCall] using h
    cases hq
  | debug sl ex =>
    obtain ⟨-, rfl⟩ : _ ∧ _ = k := by simpa [State.critCall] using h
    cases hq

/-- A call that its gate lets pass runs in the state that its acceptance leaves. -/
theorem State.critRun_of_gate {open_ : CritCall → Bool} (f : State → CritCall → State) (hk : s.critCall x op = some k)
    (hu : u = if k.seq.isNone then s.reachedBy k.m else s) (hgate : u.critGate k (open_ k) = none) :
    s.critRun x op open_ f = f (u.critAccept k (open_ k)) k := by
  unfold State.critRun
  simp only [hk]
  rw [← hu, hgate]

/-- A command that needs no session is accepted without a change. -/
theorem State.critAccept_open (s : State) (k : CritCall) : s.critAccept k true = s := if_neg fun h => h.2.1 rfl

/-- A ring command was checked when it was fetched: it runs as it stands. -/
theorem State.critRun_ring (open_ : CritCall → Bool) (f : State → CritCall → State) (h : s.runnable q op = some c) :
    s.critRun (.ring q) op open_ f = f s (c.ringCall q) :=
  State.critRun_of_gate f (State.critCall_ring h) rfl rfl

theorem State.critAccept_own (s : State) (k : CritCall) (open_ : Bool) : (s.critAccept k open_).tb.own = s.tb.own := by
  unfold State.critAccept
  split
  · unfold State.authAccept
    split <;> rfl
  · rfl

/-- A refused command (R340). -/
theorem State.cmd_refuseCmd (h : s.cmd q = some c) (t : Status) :
    (s.refuseCmd q t).cmd q = some { c with stage := .refused, conds := [t] } := by
  unfold State.refuseCmd
  simp only [h]
  rw [State.cmd_of_cmds (State.haltOn_cmds ..), State.cmd_updCmd (fun c => { c with stage := .refused, conds := [t] }) fun _ => rfl, h]
  rfl

/-- The record of a message leaves the module. -/
theorem State.mem_out_critEnd (hk : k.seq = none) (t : Status) :
    OutMsg.critical k.m (critRecord t (k.u 0 1) 0) [] ∈ (s.critEnd k t 0).out := by
  have hsent : OutMsg.critical k.m (critRecord t (k.u 0 1) 0) [] ∈ (OutMsg.critical k.m (critRecord t (k.u 0 1) 0) []).sent := by
    unfold OutMsg.sent
    split <;> simp
  unfold State.critEnd
  simp only [hk]
  exact List.mem_append_right _ hsent

/-- A critical command that ends with OK is done. -/
theorem State.critDone_critEnd (h : ∀ q, k.seq = some q → (s.cmd q).isSome) : (s.critEnd k .ok 0).CritDone k := by
  unfold State.CritDone
  split
  next q hq =>
    unfold State.critEnd
    simp only [hq]
    exact State.exists_cmd_deliver (h q hq)
  next hnone => exact State.mem_out_critEnd hnone .ok

theorem State.spareMap_critEnd (s : State) (k : CritCall) : (s.critEnd k .ok 0).im.spareMap = s.im.spareMap := by
  unfold State.critEnd
  split
  next q _ =>
    dsimp only
    rcases s.deliver_cases q with h | ⟨u, c, hframe, h⟩ <;> rw [h]
    rw [State.spareMap_logRec]
    change (u.haltOn c (worst c.conds)).im.spareMap = _
    rw [(State.haltOn_frame ..).im_eq rfl, hframe.im_eq rfl]
  · rfl

end Call

/-! ### The end of a verification (R406) -/

section Verified

variable {s : State} {p : FwPending} {n : Nat}

theorem State.verifyEnd_of_good (hfw : s.tb.fw = some p) (h : p.failing = none) : s.verifyEnd =
    { s with tb := { s.tb with
      boot := 3, fw := none, lastFwld := 1, fwDigest := p.digest, svn := p.svn, fwWaiting := some p.seq } } := by
  simp only [State.verifyEnd, hfw, h]

/-- The image has failed check `n` of Table 15.4: the module waits for another one. -/
def State.imageRejected (s : State) (n : Nat) : State :=
  { s with tb := { s.tb with boot := 1, fw := none, lastFwld := if n = 1 then 6 else n } }

/-- The FWLD of a rejected image: where the image could not be read, which is check 1, it fails, and else it is refused. -/
def State.endFwld (s : State) (q n addr : Nat) : State :=
  if n = 1 then s.failCmd q .hostBusError addr else s.refuseCmd q .authFail

theorem State.verifyEnd_of_failing (hfw : s.tb.fw = some p) (h : p.failing = some n) :
    s.verifyEnd = (s.imageRejected n).endFwld p.seq n p.failAddr := by
  simp only [State.verifyEnd, hfw, h]
  rfl

theorem State.endFwld_tb (s : State) (q n addr : Nat) : (s.endFwld q n addr).tb = s.tb := by
  unfold State.endFwld
  split
  · exact (State.failCmd_frame ..).tb_eq rfl
  · exact (State.refuseCmd_frame ..).tb_eq rfl

theorem State.cmd_endFwld {q : Nat} {c : Cmd} (h : s.cmd q = some c) (n addr : Nat) :
    ∃ d, (s.endFwld q n addr).cmd q = some d ∧ d.stage = if n = 1 then .failed else .refused := by
  unfold State.endFwld
  split
  · exact State.failedCmd_failCmd h _ _
  · exact ⟨_, State.cmd_refuseCmd h _, rfl⟩

end Verified

/-! ### Certificate and spare map -/

section Load

variable {s u : State} {k : CritCall} {q a : Nat}

/-- CFGC of KIND 0 whose operands break no rule ends as its certificate's checks say (R408, R409). -/
theorem State.cfgcCert_of_fields {c : Cmd} (hboot : s.tb.boot = 1) (hcert : s.tb.cert = none) (ha : a = c.u 16 8)
    (halign : a % 64 = 0) (hrange : s.rangeBad a 1024 = false) (hlen : c.u 24 4 = 1024) (hread : s.rdFail a 1024 = none) :
    s.cfgcCert (c.ringCall q) = if certGood (s.rd a 1024) = true then
      ({ s with tb := { s.tb with cert := some (s.rd a 1024) } }).deliver q else s.refuseCmd q .authFail := by
  subst ha
  have hu (i n : Nat) : (c.ringCall q).u i n = c.u i n := rfl
  have hseq : (c.ringCall q).seq = some q := rfl
  unfold State.cfgcCert
  simp only [hu, hseq, Option.isNone_some, Bool.false_eq_true, if_false]
  rw [if_neg (by simp [hboot, hcert]), if_neg (by simp [halign, hrange]), if_neg (by simp [hlen])]
  simp only [hread]
  rfl

/-- The map of a CFGC of KIND 1 that breaks no rule is put in force and applied to the functions that it names (R412). -/
theorem State.cfgcMap_of_fields {n : Nat} {l : List (Nat × Nat)} (hn : n = k.u 24 4) (hlow : 1 ≤ n) (hhigh : n ≤ 1280)
    (hrange : k.seq.isSome = true → s.rangeBad (k.u 16 8) (8 * n) = false) (htensors : s.af.tensors = [])
    (hmap : s.im.spareMap = []) (hread : s.critReadFail k (k.u 16 8) (8 * n) = none)
    (hl : l = mapEntries n (s.critBlock k (k.u 16 8) (8 * n))) (hgood : l.all entryGood = true) (hdistinct : mapDistinct l = true) :
    s.cfgcMap k = (((l.map entryFunc).eraseDups).foldl State.reapply
      { s with im := { s.im with spareMap := l } }).critEnd k .ok 0 := by
  subst hn hl
  unfold State.cfgcMap
  extract_lets a n
  rw [if_neg (by omega), if_neg (fun h => by simp [hrange h.1, n, a] at h), if_neg (by simp [htensors, hmap])]
  simp only [show s.critReadFail k a (8 * n) = none from hread]
  rw [if_neg (not_not_intro ((Bool.and_eq_true ..).mpr ⟨hgood, hdistinct⟩))]

/-- What a message carries, and whether a ring command can read it, is the same in both states. -/
theorem State.SameAccess.critBlock {t : State} (h : s.SameAccess t) (k : CritCall) (a n : Nat) :
    t.critBlock k a n = s.critBlock k a n := by
  simp only [State.critBlock, h.data.rd]

theorem State.SameAccess.critReadFail {t : State} (h : s.SameAccess t) (k : CritCall) (a n : Nat) :
    t.critReadFail k a n = s.critReadFail k a n := by
  simp only [State.critReadFail, h.rdFail]

end Load

/-- Settles O58: a call passes its gate into the row's own function, which goes on by the fields it read; the end of the command
changes neither the Trust Block nor the spare map. -/
theorem firmwareAndCertificatesAreLoaded : Obligations.FirmwareAndCertificatesAreLoaded := by
  unfold Obligations.FirmwareAndCertificatesAreLoaded
  refine ⟨?fwld, ?message, ?verified, ?certificate, ?map⟩
  case fwld =>
    intro s q c hc hboot hhost
    have hrun : s.fwld (c.ringCall q) =
        ({ s with tb := { s.tb with boot := 2, fw := some (s.verifyImage q (c.u 16 8) (c.u 24 8)) } }).updCmd q
          fun c => { c with stage := .running } := by
      have hu (i n : Nat) : (c.ringCall q).u i n = c.u i n := rfl
      simp [State.fwld, hu, hboot, hhost, show (c.ringCall q).seq = some q from rfl]
    refine ⟨_, congrArg Host.Outcome.next ((State.critRun_ring _ _ hc).trans hrun), rfl, rfl, ?_⟩
    exact ⟨_, State.cmd_running (State.runnable_cmd hc).1, rfl⟩
  case message =>
    intro s u x k hseq hk hu hgate
    have hreached : u = s.reachedBy k.m := by simpa [hseq] using hu
    have htb : u.tb = s.tb := hreached ▸ State.reachedBy_tb s k.m
    have hrun : s.critRun x 0x63 (fun _ => true) State.fwld =
        u.critEnd k (if s.owns k.m = true then .badDescriptor else .notOwner) 0 := by
      rw [State.critRun_of_gate State.fwld hk hu hgate, State.critAccept_open]
      simp only [State.fwld, hseq, State.owns_of_tb htb]
    exact ⟨_, congrArg Host.Outcome.next hrun, ((State.critEnd_frame ..).tb_eq rfl).trans htb, State.mem_out_critEnd hseq _⟩
  case verified =>
    intro s p hfw hcmd
    obtain ⟨c, hc⟩ := Option.isSome_iff_exists.mp hcmd
    cases hfailing : p.failing with
    | none => exact ⟨_, congrArg Host.Outcome.next (State.verifyEnd_of_good hfw hfailing), rfl, rfl, rfl, rfl, rfl, rfl⟩
    | some n =>
      refine ⟨_, congrArg Host.Outcome.next (State.verifyEnd_of_failing hfw hfailing), ?_⟩
      simp only [State.endFwld_tb]
      exact ⟨rfl, rfl, rfl, State.cmd_endFwld (s := s.imageRejected n) hc n _⟩
  case certificate =>
    intro s q a c hc hkind ha hboot hcert halign hrange hlen hread
    have hrun := (State.critRun_ring (fun k => k.u 28 1 == 0) (fun s k => if k.u 28 1 = 0 then s.cfgcCert k else s) hc).trans
      ((if_pos hkind).trans (State.cfgcCert_of_fields hboot hcert ha halign hrange hlen hread))
    have hcmd := (State.runnable_cmd hc).1
    split at hrun
    next hgood =>
      refine ⟨_, _, congrArg Host.Outcome.next hrun, State.cmd_deliver hcmd, ?_⟩
      rw [if_pos hgood, (State.deliver_frame ..).tb_eq rfl]
      exact ⟨rfl, rfl⟩
    next hbad =>
      refine ⟨_, _, congrArg Host.Outcome.next hrun, State.cmd_refuseCmd hcmd _, ?_⟩
      rw [if_neg hbad, (State.refuseCmd_frame ..).tb_eq rfl]
      exact ⟨hcert, rfl, rfl⟩
  case map =>
    intro s u x k n l hk hu hgate hkind hn hlow hhigh hrange htensors hmap hread hl hgood hdistinct
    have hreach : Frame [.ld] s u := by
      rw [hu]
      exact Frame.ite (State.reachedBy_frame s k.m) Frame.refl
    have haccept := State.critAccept_frame u k false
    have hsame : u.SameAccess (u.critAccept k false) := .of_silent haccept rfl rfl rfl rfl
    have hframe : Frame [.ld, .tb] s (u.critAccept k false) := (hreach.mono rfl).comp haccept rfl
    have hload := State.cfgcMap_of_fields (s := u.critAccept k false) hn hlow hhigh (by simpa only [hsame.rangeBad] using hrange)
      (by rw [hframe.af_eq rfl, htensors]) (by rw [hframe.im_eq rfl, hmap]) (by rw [hsame.critReadFail, hread])
      (by rw [hsame.critBlock, hl]) hgood hdistinct
    have hopen : (k.u 28 1 == 0) = false := by simp [hkind]
    have hrun := State.critRun_of_gate (open_ := fun k => k.u 28 1 == 0) (fun s k => if k.u 28 1 = 1 then s.cfgcMap k else s) hk hu
      (by rw [hopen]; exact hgate)
    rw [hopen, if_pos hkind, hload] at hrun
    have happlied (v : State) : Frame [.ld, .irq, .pcie, .af, .fab, .out] v (((l.map entryFunc).eraseDups).foldl State.reapply v) :=
      Frame.foldl State.reapply_frame _ Frame.refl
    refine ⟨_, congrArg Host.Outcome.next hrun, State.critDone_critEnd fun q hq => ?_, ?_, ?_⟩
    · rw [State.cmd_of_cmds (congrArg HostGate.cmds ((happlied _).hg_eq rfl))]
      exact (State.cmd_of_cmds (congrArg HostGate.cmds (hframe.hg_eq rfl)) q).symm ▸ State.isSome_cmd_of_critCall hk hq
    · rw [State.spareMap_critEnd, (happlied _).im_eq rfl]
    · rw [(State.critEnd_frame ..).tb_eq rfl, (happlied _).tb_eq rfl]
      exact (State.critAccept_own ..).trans (congrArg Trust.own (hreach.tb_eq rfl))

end Sys2Proof.Machine
end

section
/-!
Steps and interrupts (R430 to R434, R451 to R457): a step of the queue, the arrivals of a source, and the register writes that act
on the sources of a bank.
-/
namespace Sys2Proof.Machine

open Sys2Proof

/-! ### Steps -/

/-- Settles O1: `step` takes the front command off the queue. -/
theorem stepRunsTheFrontCommand : Obligations.StepRunsTheFrontCommand := fun _ _ _ => rfl

/-- Settles O2: the step of an empty queue is `tick`, which waits for auxiliary power. -/
theorem anEmptyQueueLetsOneCyclePass : Obligations.AnEmptyQueueLetsOneCyclePass := by
  intro s hs
  refine ⟨s.tick, by rw [step, hs], fun haux => if_neg (by simp [haux]), fun haux => ⟨s.tick_frame.sameBut, ?_⟩⟩
  rintro f rfl
  rw [State.tick, if_pos haux]
  exact ⟨rfl, rfl⟩

/-! ### Tables without order -/

/-- The key that was put reads as written, in any table. -/
theorem Tab.get_put_same {α : Type} {d : Nat → α} (k : Nat) (v : α) (t : Tab α) : Tab.get d (Tab.put true k v t) k = v := by
  induction t with
  | nil => simp [Tab.put, Tab.get]
  | cons p t ih =>
    obtain ⟨j, w⟩ := p
    simp only [Tab.put]
    split
    · rename_i hlt
      simpa [Tab.get, Nat.ne_of_lt hlt] using ih
    · split <;> simp [Tab.get]

/-- Every other key reads as before, in any table. -/
theorem Tab.get_put_ne {α : Type} {d : Nat → α} {k j : Nat} (hj : j ≠ k) (v : α) (t : Tab α) :
    Tab.get d (Tab.put true k v t) j = Tab.get d t j := by
  induction t with
  | nil => simp [Tab.put, Tab.get, Ne.symm hj]
  | cons p t ih =>
    obtain ⟨i, w⟩ := p
    simp only [Tab.put]
    split
    · simp only [Tab.get, ih]
    · split
      · rename_i hik
        simp [Tab.get, hik, Ne.symm hj]
      · simp [Tab.get, Ne.symm hj]

/-- A write of a value that is not the default, in any table. -/
theorem Tab.get_set_of_ne {α : Type} [DecidableEq α] {d : Nat → α} {k : Nat} {v : α} (hv : v ≠ d k) (t : Tab α) (j : Nat) :
    Tab.get d (Tab.set d t k v) j = if j = k then v else Tab.get d t j := by
  rw [Tab.set, decide_eq_true hv]
  split
  next h => rw [h, Tab.get_put_same]
  next h => exact Tab.get_put_ne h v t

/-! ### One arrival (R452) -/

section Source

variable {s t : State} {n : Nat}

theorem State.irqCount_of_irq (h : t.irq = s.irq) (k : Nat) : t.irqCount k = s.irqCount k := by unfold State.irqCount; rw [h]

theorem State.irqOpen_of_irq (h : t.irq = s.irq) (k : Nat) : t.irqOpen k = s.irqOpen k := by unfold State.irqOpen; rw [h]

theorem Frame.irq_eq {l : List Comp} (h : Frame l s t) (hl : l.contains .irq = false) : t.irq = s.irq :=
  h.same .irq (by simpa using hl)

/-- What an arrival makes of the interrupt controller: the source's count moves up by one, or SAT is set at 255. -/
theorem State.arrive_irq (s : State) (hn : n < 213) : (s.arrive n).irq =
    if s.irqCount n = 255 then { (s.noteArrival n).irq with sat := Tab.set (fun _ => false) s.irq.sat n true }
    else { (s.noteArrival n).irq with count := Tab.set (fun _ => 0) s.irq.count n (s.irqCount n + 1) } := by
  unfold State.arrive
  rw [if_neg (Nat.not_le.mpr hn)]
  extract_lets noted c _ counted woken
  have hwoken : woken.irq = counted.irq := by
    unfold woken
    split
    · exact (State.wakeA2_frame ..).irq_eq rfl
    · rfl
  have hsent : (if c = 0 ∧ noted.irqOpen n = true then woken.sendSource n else woken).irq = woken.irq := by
    split
    · exact (State.sendSource_frame ..).irq_eq rfl
    · rfl
  rw [hsent, hwoken]
  unfold counted
  exact apply_ite State.irq _ _ _

theorem State.arrive_reserved (s : State) (hn : 213 ≤ n) : s.arrive n = s := if_pos hn

/-- The counts after an arrival at a source that receives arrivals. -/
theorem State.irqCount_arrive (s : State) (hn : n < 213) (k : Nat) : (s.arrive n).irqCount k =
    if k = n then (if s.irqCount n = 255 then 255 else s.irqCount n + 1) else s.irqCount k := by
  rw [State.irqCount, State.arrive_irq s hn]
  split
  next h =>
    split
    next hk => rw [hk]; exact h
    next => rfl
  next h => exact Tab.get_set_of_ne (Nat.succ_ne_zero _) _ _

/-- No arrival masks or unmasks a source. -/
theorem State.irqOpen_arrive (s : State) (n k : Nat) : (s.arrive n).irqOpen k = s.irqOpen k := by
  by_cases hn : n < 213
  · unfold State.irqOpen
    rw [State.arrive_irq s hn]
    split <;> rfl
  · rw [s.arrive_reserved (Nat.not_lt.mp hn)]

/-- An arrival that finds the count at 255 sets SAT. -/
theorem State.sat_arrive (hn : n < 213) (h : s.irqCount n = 255) : Tab.get (fun _ => false) (s.arrive n).irq.sat n = true := by
  rw [State.arrive_irq s hn, if_pos h]
  exact (Tab.get_set_of_ne (by decide) _ _).trans (if_pos rfl)

end Source

/-- Settles O6: an arrival changes its own source's count alone, and leaves it at 255. -/
theorem arrivalsAreCountedTo255 : Obligations.ArrivalsAreCountedTo255 := by
  intro s n hle
  refine ⟨fun hn => ⟨(s.irqCount_arrive hn n).trans (if_pos rfl), State.sat_arrive hn⟩, s.arrive_reserved, ?_, fun k hk => ?_,
    by simp [State.pendingBit]⟩
  · by_cases hn : n < 213
    · rw [s.irqCount_arrive hn, if_pos rfl]
      split <;> omega
    · rwa [s.arrive_reserved (Nat.not_lt.mp hn)]
  · by_cases hn : n < 213
    · rw [s.irqCount_arrive hn, if_neg hk]
    · rw [s.arrive_reserved (Nat.not_lt.mp hn)]

/-! ### Folds over the sources of a bank (R455) -/

/-- Each source of a list without repetition is changed once, and the others are left. -/
theorem State.foldl_each {α : Type} {f : State → Nat → State} {P : State → Prop} {val : State → Nat → α} {new : Nat → α → α}
    (hP : ∀ u n, P u → P (f u n)) (hval : ∀ u n k, P u → val (f u n) k = if k = n then new n (val u n) else val u k) :
    ∀ (l : List Nat), l.Nodup → ∀ u, P u → P (l.foldl f u) ∧ ∀ k, val (l.foldl f u) k = if k ∈ l then new k (val u k) else val u k
  | [], _, _, hu => ⟨hu, fun _ => rfl⟩
  | n :: l, hl, u, hu => by
    obtain ⟨hn, hl⟩ := List.nodup_cons.mp hl
    obtain ⟨hend, hk⟩ := State.foldl_each hP hval l hl (f u n) (hP u n hu)
    refine ⟨hend, fun k => (hk k).trans ?_⟩
    rw [hval u n k hu]
    by_cases h : k = n
    · subst h; simp [hn]
    · simp [h]

/-- What the change of one source brings about stands after the changes of all. -/
theorem State.foldl_reaches {f : State → Nat → State} {P Q : State → Prop} {n : Nat} {l : List Nat} (hn : n ∈ l)
    (hP : ∀ u k, k ≠ n → P u → P (f u k)) (hreach : ∀ u, P u → Q (f u n)) (hQ : ∀ u k, Q u → Q (f u k)) {u : State} (hu : P u) :
    Q (l.foldl f u) := by
  have hkeep (m : List Nat) (v : State) (hv : Q v) : Q (m.foldl f v) := List.foldlRecOn m f hv fun w hw k _ => hQ w k hw
  induction l generalizing u with
  | nil => cases hn
  | cons k l ih =>
    by_cases hk : k = n
    · exact hkeep l _ (hk ▸ hreach u hu)
    · exact ih ((List.mem_cons.mp hn).resolve_left (Ne.symm hk)) (hP u k hk hu)

/-- A fast slot acts on the source that it is the slot of (R455). -/
theorem State.fastSlot_of_fastSource {s : State} {i n : Nat} (h : s.fastSource i = some n) : s.fastSlot n = some i := by
  unfold State.fastSource at h
  split at h
  next hi => cases h; exact hi.2
  next => cases h

/-- Two bits of a bank act on two sources. -/
theorem State.bankSource_injective {s : State} {b : IcBank} {i j n : Nat} (hi : s.bankSource b i = some n)
    (hj : s.bankSource b j = some n) : i = j := by
  cases b with
  | normal k =>
    simp only [State.bankSource, Option.ite_none_left_eq_some, Option.some.injEq] at hi hj
    omega
  | fast => exact Option.some.inj ((State.fastSlot_of_fastSource hi).symm.trans (State.fastSlot_of_fastSource hj))

theorem State.bankSources_nodup (s : State) (b : IcBank) (v : Nat) : (s.bankSources b v).Nodup :=
  (List.nodup_range.filter _).filterMap fun _ _ _ hi hj => State.bankSource_injective hi hj

theorem State.fastSlotGo_of_regs {s t : State} (h : t.regs = s.regs) (n k : Nat) : t.fastSlotGo n k = s.fastSlotGo n k := by
  induction k with
  | zero => rfl
  | succ k ih => simp only [State.fastSlotGo, State.fld_of_regs h, ih]

theorem State.bankSources_of_regs {s t : State} (h : t.regs = s.regs) (b : IcBank) (v : Nat) : t.bankSources b v = s.bankSources b v := by
  have hone (i : Nat) : t.bankSource b i = s.bankSource b i := by
    have hslot (n : Nat) : t.fastSlot n = s.fastSlot n := State.fastSlotGo_of_regs h n 32
    cases b with
    | normal k => rw [State.bankSource, State.bankSource, hslot]
    | fast => simp only [State.bankSource, State.fastSource, hslot, State.fld_of_regs h]
  exact List.filterMap_congr fun i _ => hone i

/-- A write to a bank's register, where it lands. -/
theorem State.bankWrite_reachedBy {s : State} {m : Master} (h : s.regLands m = true) (f : State → Nat → State) (b : IcBank) (v : Nat) :
    (s.reachedBy m).bankWrite m f b v = (s.bankSources b v).foldl f (s.reachedBy m) := by
  rw [State.bankWrite, if_pos ((State.regLands_of_tb (s.reachedBy_tb m) m).trans h), State.bankSources_of_regs (s.reachedBy_regs m)]

theorem State.reachedBy_irq (s : State) (m : Master) : (s.reachedBy m).irq = s.irq := (s.reachedBy_frame m).irq_eq rfl

/-! ### What is noted of the cycle (R454) -/

/-- The cycle that the controller has noted, with its arrivals and masked sources, is the same in both states. -/
structure State.SameCycle (s t : State) : Prop where
  now : t.now = s.now
  cycle : t.irq.cycle = s.irq.cycle
  arrived : t.irq.arrived = s.irq.arrived
  masked : t.irq.masked = s.irq.masked

namespace State.SameCycle

variable {s t u : State}

theorem trans (h : s.SameCycle t) (k : t.SameCycle u) : s.SameCycle u :=
  ⟨k.now.trans h.now, k.cycle.trans h.cycle, k.arrived.trans h.arrived, k.masked.trans h.masked⟩

theorem of_irq (hnow : t.now = s.now) (h : t.irq = s.irq) : s.SameCycle t := ⟨hnow, by rw [h], by rw [h], by rw [h]⟩

theorem arrivedNow (h : s.SameCycle t) (n : Nat) : t.arrivedNow n = s.arrivedNow n := by
  simp only [State.arrivedNow, State.ofCycle, h.now, h.cycle, h.arrived]

theorem maskedNow (h : s.SameCycle t) (n : Nat) : t.maskedNow n = s.maskedNow n := by
  simp only [State.maskedNow, State.ofCycle, h.now, h.cycle, h.masked]

theorem reachedBy (s : State) (m : Master) : s.SameCycle (s.reachedBy m) := of_irq (s.now_reachedBy m) (s.reachedBy_irq m)

theorem sendSource (s : State) (n : Nat) : s.SameCycle (s.sendSource n) :=
  of_irq (s.now_sendSource n) ((s.sendSource_frame n).irq_eq rfl)

theorem clearSource (s : State) (n : Nat) : s.SameCycle (s.clearSource n) := by
  have hkeep : s.SameCycle (s.keepArrivals n) := ⟨rfl, rfl, rfl, rfl⟩
  unfold State.clearSource
  split
  · exact hkeep.trans (sendSource ..)
  · exact hkeep

theorem unmaskSource (s : State) (n : Nat) : s.SameCycle (s.unmaskSource n) := by
  unfold State.unmaskSource
  split
  · exact of_irq rfl rfl
  · extract_lets irq unmasked
    have hopen : s.SameCycle unmasked := ⟨rfl, rfl, rfl, rfl⟩
    split
    · exact hopen.trans (sendSource ..)
    · exact hopen

end State.SameCycle

/-! ### Clearing, masking and unmasking one source (R453, R454) -/

theorem State.clearSource_irq (s : State) (n : Nat) : (s.clearSource n).irq = (s.keepArrivals n).irq := by
  unfold State.clearSource
  split
  · exact (State.sendSource_frame ..).irq_eq rfl
  · rfl

theorem State.irqCount_clearSource {s : State} (hs : s.Inv) (n k : Nat) :
    (s.clearSource n).irqCount k = if k = n then min 255 (s.arrivedNow n) else s.irqCount k := by
  rw [State.irqCount_of_irq (s.clearSource_irq n)]
  exact Tab.get_set_of_rising hs.tabs.irq.1 _ _ _

theorem State.irqOpen_clearSource (s : State) (n k : Nat) : (s.clearSource n).irqOpen k = s.irqOpen k := by
  rw [State.irqOpen_of_irq (s.clearSource_irq n)]
  rfl

theorem State.irqOpen_maskSource {s : State} (hs : s.Inv) (n k : Nat) :
    (s.maskSource n).irqOpen k = if k = n then false else s.irqOpen k :=
  Tab.get_set_of_rising hs.tabs.irq.2.2 _ _ _

/-- What unmasking does to a masked source that no write of this cycle has masked. -/
theorem State.unmaskSource_irq {s : State} {n : Nat} (hmask : s.irqOpen n = false) (hnow : s.maskedNow n = false) :
    (s.unmaskSource n).irq = { s.irq with unmasked := Tab.set (fun _ => false) s.irq.unmasked n true } := by
  unfold State.unmaskSource
  rw [if_neg (by simp [hmask, hnow])]
  extract_lets irq unmasked
  split
  · exact (State.sendSource_frame ..).irq_eq rfl
  · rfl

theorem State.irqOpen_unmaskSource (s : State) (n k : Nat) :
    (s.unmaskSource n).irqOpen k = if k = n then (if s.maskedNow n = false then true else s.irqOpen n) else s.irqOpen k := by
  by_cases h : s.irqOpen n = false ∧ s.maskedNow n = false
  · rw [State.irqOpen, State.unmaskSource_irq h.1 h.2, if_pos h.2]
    exact Tab.get_set_of_ne (by decide) _ _
  · have hstays : s.irqOpen n = true ∨ s.maskedNow n = true := by
      simpa [Classical.or_iff_not_imp_left] using h
    rw [State.unmaskSource, if_pos hstays]
    split
    next hk =>
      subst hk
      split
      next hm => exact hstays.resolve_right (by simp [hm])
      next => rfl
    next => rfl

theorem State.irqCount_unmaskSource (s : State) (n k : Nat) : (s.unmaskSource n).irqCount k = s.irqCount k := by
  by_cases h : s.irqOpen n = false ∧ s.maskedNow n = false
  · rw [State.irqCount, State.unmaskSource_irq h.1 h.2]
    rfl
  · rw [State.unmaskSource, if_pos (by simpa [Classical.or_iff_not_imp_left] using h)]

/-! ### Messages (R453) -/

/-- Every vector that could go still can, and what has left the module stays sent. -/
structure State.SendsOn (s t : State) : Prop where
  go : ∀ v, s.msixGo v = true → t.msixGo v = true
  out : ∀ m ∈ s.out, m ∈ t.out

namespace State.SendsOn

variable {s t u : State}

theorem trans (h : s.SendsOn t) (k : t.SendsOn u) : s.SendsOn u := ⟨fun v hv => k.go v (h.go v hv), fun m hm => k.out m (h.out m hm)⟩

/-- A change of Lantern that leaves the power state and D3hot. -/
theorem of_lantern (hpcie : t.pcie = s.pcie) (hpwr : t.ld.pwr = s.ld.pwr) (hd3 : t.ld.d3hot = s.ld.d3hot)
    (hout : ∀ m ∈ s.out, m ∈ t.out) : s.SendsOn t :=
  ⟨fun v hv => by simpa only [State.msixGo, hpcie, hpwr, hd3] using hv, hout⟩

theorem refl : s.SendsOn s := of_lantern rfl rfl rfl fun _ hm => hm

theorem linkUse (s : State) : s.SendsOn s.linkUse := of_lantern rfl rfl rfl fun _ hm => hm

/-- In A2 no vector may go, so waking changes nothing that it needs. -/
theorem wakeA2 (s : State) (cause : Nat) : s.SendsOn (s.wakeA2 cause) := by
  refine ⟨fun v hv => ?_, fun m hm => ?_⟩
  · have hpwr : s.ld.pwr ≠ .a2 := fun h => by simp [State.msixGo, h] at hv
    rw [State.wakeA2, if_pos (.inl hpwr)]
    exact hv
  · rwa [(s.wakeA2_frame cause).same .out (by decide)]

theorem reachedBy (s : State) (m : Master) : s.SendsOn (s.reachedBy m) := by
  cases m with
  | host => exact linkUse s
  | bmc => exact wakeA2 s 4
  | debug => exact refl

theorem sendVector (s : State) (v : Nat) : s.SendsOn (s.sendVector v) := by
  unfold State.sendVector
  split
  · have hsent : s.SendsOn (s.emit (.msix v)) := of_lantern rfl rfl rfl fun m hm => List.mem_append_left _ hm
    exact hsent.trans (linkUse _)
  · exact ⟨fun _ hv => hv, fun _ hm => hm⟩

theorem sendSource (s : State) (n : Nat) : s.SendsOn (s.sendSource n) := by
  unfold State.sendSource
  split
  · exact of_lantern rfl rfl rfl fun m hm => List.mem_append_left _ hm
  · exact sendVector ..

theorem arrive (s : State) (n : Nat) : s.SendsOn (s.arrive n) := by
  unfold State.arrive
  split
  · exact refl
  · extract_lets noted c _ counted woken
    have hcounted : s.SendsOn counted := by
      unfold counted
      split <;> exact of_lantern rfl rfl rfl fun _ hm => hm
    have hwoken : s.SendsOn woken := by
      unfold woken
      split
      · exact hcounted.trans (wakeA2 ..)
      · exact hcounted
    split
    · exact hwoken.trans (sendSource ..)
    · exact hwoken

theorem unmaskSource (s : State) (n : Nat) : s.SendsOn (s.unmaskSource n) := by
  unfold State.unmaskSource
  split
  · exact refl
  · extract_lets irq unmasked
    have hopen : s.SendsOn unmasked := of_lantern rfl rfl rfl fun _ hm => hm
    split
    · exact hopen.trans (sendSource ..)
    · exact hopen

end State.SendsOn

/-- A source whose message goes to its vector sends it where the vector may go. -/
theorem State.mem_out_sendSource {s : State} {n : Nat} (hmgr : s.fld (rSrc n) 28 1 = 0) (hgo : s.msixGo (s.fld (rSrc n) 16 9) = true) :
    OutMsg.msix (s.fld (rSrc n) 16 9) ∈ (s.sendSource n).out := by
  rw [State.sendSource, if_neg (by rw [hmgr]; decide), State.sendVector, if_pos hgo]
  exact List.mem_append_right s.out (List.mem_singleton.mpr rfl)

/-- The same in a state that has come from `s` with the registers as they were. -/
theorem State.SendsOn.mem_out_sendSource {s t : State} (h : s.SendsOn t) (hregs : t.regs = s.regs) {n : Nat}
    (hmgr : s.fld (rSrc n) 28 1 = 0) (hgo : s.msixGo (s.fld (rSrc n) 16 9) = true) :
    OutMsg.msix (s.fld (rSrc n) 16 9) ∈ (t.sendSource n).out := by
  have := State.mem_out_sendSource (s := t) (n := n) ((State.fld_of_regs hregs ..).trans hmgr)
    (by rw [State.fld_of_regs hregs]; exact h.go _ hgo)
  rwa [State.fld_of_regs hregs] at this

/-- An unmasked source that becomes pending sends its message. -/
theorem State.mem_out_arrive {s : State} {n : Nat} (hn : n < 213) (hcount : s.irqCount n = 0) (hopen : s.irqOpen n = true)
    (hmgr : s.fld (rSrc n) 28 1 = 0) (hgo : s.msixGo (s.fld (rSrc n) 16 9) = true) :
    OutMsg.msix (s.fld (rSrc n) 16 9) ∈ (s.arrive n).out := by
  unfold State.arrive
  rw [if_neg (Nat.not_le.mpr hn)]
  extract_lets noted c _ counted woken
  rw [if_pos ⟨hcount, hopen⟩]
  have hcounted : s.SendsOn counted ∧ counted.regs = s.regs := by
    unfold counted
    split <;> exact ⟨.of_lantern rfl rfl rfl fun _ hm => hm, rfl⟩
  have hwoken : woken = counted.wakeA2 3 := if_pos hopen
  rw [hwoken]
  exact (hcounted.1.trans (.wakeA2 ..)).mem_out_sendSource (((State.wakeA2_frame ..).same .regs (by decide)).trans hcounted.2) hmgr hgo

/-- A pending source that is unmasked sends its message. -/
theorem State.mem_out_unmaskSource {s : State} {n : Nat} (hcount : 0 < s.irqCount n) (hmask : s.irqOpen n = false)
    (hnow : s.maskedNow n = false) (hmgr : s.fld (rSrc n) 28 1 = 0) (hgo : s.msixGo (s.fld (rSrc n) 16 9) = true) :
    OutMsg.msix (s.fld (rSrc n) 16 9) ∈ (s.unmaskSource n).out := by
  rw [State.unmaskSource, if_neg (by simp [hmask, hnow])]
  extract_lets irq unmasked
  rw [if_pos hcount]
  have hsends : s.SendsOn unmasked := .of_lantern rfl rfl rfl fun _ hm => hm
  exact hsends.mem_out_sendSource rfl hmgr hgo

/-- IC_ACK by the owner (R454): the count that it leaves. -/
theorem State.irqCount_icAck {s : State} (hs : s.Inv) {m : Master} (howns : s.owns m = true) (hlands : s.regLands m = true) (v k : Nat) :
    (s.icAck m v).irqCount k = if k = bitsOf v 0 9 then s.ackedCount (bitsOf v 0 9) (bitsOf v 16 8) else s.irqCount k := by
  rw [State.icAck, if_pos ⟨howns, hlands⟩]
  extract_lets n c irq acked
  have hacked (j : Nat) : acked.irqCount j = if j = n then c else s.irqCount j := Tab.get_set_of_rising hs.tabs.irq.1 _ _ _
  refine Eq.trans ?_ (hacked k)
  split
  · exact State.irqCount_of_irq ((State.sendSource_frame ..).irq_eq rfl) k
  · rfl

/-- Settles O50: each write is one fold over the sources that its bits name, all different. -/
theorem interruptWritesChangeTheSourcesTheyName : Obligations.InterruptWritesChangeTheSourcesTheyName := by
  have hreach {s : State} (hs : s.Inv) (m : Master) : (s.reachedBy m).Inv := (s.reachedBy_frame m).inv hs
  have hcount (s : State) (m : Master) (n : Nat) : (s.reachedBy m).irqCount n = s.irqCount n := State.irqCount_of_irq (s.reachedBy_irq m) n
  have hopen (s : State) (m : Master) (n : Nat) : (s.reachedBy m).irqOpen n = s.irqOpen n := State.irqOpen_of_irq (s.reachedBy_irq m) n
  refine ⟨?set, ?clear, ?mask, ?unmask, ?ack⟩
  case set =>
    intro s m b v hs hlands
    have hfold := State.bankWrite_reachedBy hlands State.arrive b v.toNat
    refine ⟨_, congrArg Host.Outcome.next hfold, fun n => ?_, fun n => ?_, fun n hn hlt hzero hunmasked hmgr hgo => ?_⟩
    · have hone (u : State) (n k : Nat) (_ : True) : (u.arrive n).irqCount k =
          if k = n then (if n < 213 then (if u.irqCount n = 255 then 255 else u.irqCount n + 1) else u.irqCount n) else u.irqCount k := by
        by_cases hn : n < 213
        · rw [u.irqCount_arrive hn, if_pos hn]
        · rw [u.arrive_reserved (Nat.not_lt.mp hn), if_neg hn]
          split <;> simp_all
      refine ((State.foldl_each (P := fun _ => True) (val := State.irqCount)
        (new := fun n c => if n < 213 then (if c = 255 then 255 else c + 1) else c) (fun _ _ h => h) hone _
        (s.bankSources_nodup b v.toNat) (s.reachedBy m) trivial).2 n).trans ?_
      rw [hcount]
      by_cases hn : n ∈ s.bankSources b v.toNat <;> by_cases hlt : n < 213 <;> simp [hn, hlt]
    · refine Eq.trans ?_ (hopen s m n)
      exact List.foldlRecOn (motive := fun u => u.irqOpen n = (s.reachedBy m).irqOpen n) _ State.arrive rfl
        fun u hu k _ => (u.irqOpen_arrive k n).trans hu
    · refine State.foldl_reaches (P := fun u => (s.SendsOn u ∧ u.regs = s.regs) ∧ u.irqCount n = 0 ∧ u.irqOpen n = true)
        (Q := fun u => OutMsg.msix (s.fld (rSrc n) 16 9) ∈ u.out) hn ?_ ?_ ?_
        ⟨⟨.reachedBy s m, s.reachedBy_regs m⟩, (hcount ..).trans hzero, (hopen ..).trans hunmasked⟩
      · rintro u k hk ⟨⟨hu, hregs⟩, hz, ho⟩
        refine ⟨⟨hu.trans (.arrive u k), ((u.arrive_frame k).same .regs (by decide)).trans hregs⟩, ?_, (u.irqOpen_arrive k n).trans ho⟩
        by_cases hlt : k < 213
        · rw [u.irqCount_arrive hlt, if_neg (Ne.symm hk), hz]
        · rwa [u.arrive_reserved (Nat.not_lt.mp hlt)]
      · rintro u ⟨⟨hu, hregs⟩, hz, ho⟩
        have := State.mem_out_arrive hlt hz ho ((State.fld_of_regs hregs ..).trans hmgr)
          (by rw [State.fld_of_regs hregs]; exact hu.go _ hgo)
        rwa [State.fld_of_regs hregs] at this
      · exact fun u k hu => (State.SendsOn.arrive u k).out _ hu
  case clear =>
    intro s m b v hs hlands
    have hfold := State.bankWrite_reachedBy hlands State.clearSource b v.toNat
    refine ⟨_, congrArg Host.Outcome.next hfold, fun n => ?_, fun n => ?_⟩
    · refine ((State.foldl_each (P := fun u => u.Inv ∧ s.SameCycle u) (val := State.irqCount)
        (new := fun n _ => min 255 (s.arrivedNow n)) (fun u n h => ⟨(u.clearSource_frame n).inv h.1, h.2.trans (.clearSource u n)⟩)
        (fun u n k h => ?_) _ (s.bankSources_nodup b v.toNat) (s.reachedBy m) ⟨hreach hs m, .reachedBy s m⟩).2 n).trans ?_
      · rw [State.irqCount_clearSource h.1, h.2.arrivedNow]
      · rw [hcount]
    · refine Eq.trans ?_ (hopen s m n)
      exact List.foldlRecOn (motive := fun u => u.irqOpen n = (s.reachedBy m).irqOpen n) _ State.clearSource rfl
        fun u hu k _ => (u.irqOpen_clearSource k n).trans hu
  case mask =>
    intro s m b v hs hlands
    have hfold := State.bankWrite_reachedBy hlands State.maskSource b v.toNat
    refine ⟨_, congrArg Host.Outcome.next hfold, fun n => ?_, fun n => ?_⟩
    · refine ((State.foldl_each (P := State.Inv) (val := State.irqOpen) (new := fun _ _ => false)
        (fun u n h => (u.maskSource_frame n).inv h) (fun u n k h => State.irqOpen_maskSource h n k) _
        (s.bankSources_nodup b v.toNat) (s.reachedBy m) (hreach hs m)).2 n).trans ?_
      rw [hopen]
    · refine Eq.trans ?_ (hcount s m n)
      exact List.foldlRecOn (motive := fun u => u.irqCount n = (s.reachedBy m).irqCount n) _ State.maskSource rfl
        fun u (hu : u.irqCount n = (s.reachedBy m).irqCount n) k _ => hu
  case unmask =>
    intro s m b v hs hlands
    have hfold := State.bankWrite_reachedBy hlands State.unmaskSource b v.toNat
    refine ⟨_, congrArg Host.Outcome.next hfold, fun n => ?_, fun n => ?_, fun n hn hpending hmask hnow hmgr hgo => ?_⟩
    · refine ((State.foldl_each (P := s.SameCycle) (val := State.irqOpen)
        (new := fun n o => if s.maskedNow n = false then true else o) (fun u n h => h.trans (.unmaskSource u n))
        (fun u n k h => ?_) _ (s.bankSources_nodup b v.toNat) (s.reachedBy m) (.reachedBy s m)).2 n).trans ?_
      · rw [u.irqOpen_unmaskSource, h.maskedNow]
      · rw [hopen]
        by_cases hn : n ∈ s.bankSources b v.toNat <;> simp [hn]
    · refine Eq.trans ?_ (hcount s m n)
      exact List.foldlRecOn (motive := fun u => u.irqCount n = (s.reachedBy m).irqCount n) _ State.unmaskSource rfl
        fun u hu k _ => (u.irqCount_unmaskSource k n).trans hu
    · refine State.foldl_reaches (P := fun u => (s.SendsOn u ∧ u.regs = s.regs) ∧ s.SameCycle u ∧ 0 < u.irqCount n ∧ u.irqOpen n = false)
        (Q := fun u => OutMsg.msix (s.fld (rSrc n) 16 9) ∈ u.out) hn ?_ ?_ ?_
        ⟨⟨.reachedBy s m, s.reachedBy_regs m⟩, .reachedBy s m, (hcount s m n).symm ▸ hpending, (hopen s m n).trans hmask⟩
      · rintro u k hk ⟨⟨hu, hregs⟩, hc, hp, ho⟩
        refine ⟨⟨hu.trans (.unmaskSource u k), ((u.unmaskSource_frame k).same .regs (by decide)).trans hregs⟩,
          hc.trans (.unmaskSource u k), (u.irqCount_unmaskSource k n).symm ▸ hp, ?_⟩
        rw [u.irqOpen_unmaskSource, if_neg (Ne.symm hk), ho]
      · rintro u ⟨⟨hu, hregs⟩, hc, hp, ho⟩
        have := State.mem_out_unmaskSource hp ho ((hc.maskedNow n).trans hnow) ((State.fld_of_regs hregs ..).trans hmgr)
          (by rw [State.fld_of_regs hregs]; exact hu.go _ hgo)
        rwa [State.fld_of_regs hregs] at this
      · exact fun u k hu => (State.SendsOn.unmaskSource u k).out _ hu
  case ack =>
    intro s m v hs howns hlands
    refine ⟨_, rfl, fun n => ?_⟩
    rw [State.irqCount_icAck (hreach hs m) ((State.owns_of_tb (s.reachedBy_tb m) m).trans howns)
      ((State.regLands_of_tb (s.reachedBy_tb m) m).trans hlands)]
    simp only [State.ackedCount, hcount, (State.SameCycle.reachedBy s m).arrivedNow]
    split
    next h => rw [h]
    next => rfl

end Sys2Proof.Machine
end

section
/-!
Configuration space and the MSI-X vectors (R440, R453, R487, R491): the vectors held in the pending bit array go when a write lets
them.
-/
namespace Sys2Proof.Machine

open Sys2Proof

theorem Tab.get_of_not_mem {α : Type} {d : Nat → α} {k : Nat} {t : Tab α} (h : k ∉ t.map Prod.fst) : Tab.get d t k = d k := by
  induction t with
  | nil => rfl
  | cons p t ih =>
    obtain ⟨j, v⟩ := p
    simp only [List.map_cons, List.mem_cons, not_or] at h
    rw [Tab.get, if_neg (Ne.symm h.1), ih h.2]

/-! ### Held vectors (R453) -/

/-- A vector that may go goes; what lets vectors go is as before. -/
theorem State.msixGo_flushVector (s : State) (v n : Nat) : (s.flushVector v).msixGo n = s.msixGo n := by
  unfold State.flushVector
  split <;> rfl

theorem State.out_flushVector (s : State) (v : Nat) {m : OutMsg} (h : m ∈ s.out) : m ∈ (s.flushVector v).out := by
  unfold State.flushVector
  split
  · exact List.mem_append_left _ h
  · exact h

/-- The pending bits after a vector has been looked at. -/
theorem State.pba_flushVector {s : State} (hs : s.Inv) (v n : Nat) : Tab.get (fun _ => false) (s.flushVector v).pcie.pba n =
    if n = v ∧ s.msixGo v = true then false else Tab.get (fun _ => false) s.pcie.pba n := by
  unfold State.flushVector
  split
  next h =>
    refine (Tab.get_set_of_rising hs.tabs.pcie.2.2.2.1 v n false).trans ?_
    simp [h]
  next h => simp [h]

theorem State.mem_out_flushVector {s : State} {v : Nat} (h : s.msixGo v = true) : OutMsg.msix v ∈ (s.flushVector v).out := by
  rw [State.flushVector, if_pos h]
  exact List.mem_append_right s.out (List.mem_singleton.mpr rfl)

/-- After the flush no vector that may go is held, and each that was held has sent its message. -/
theorem State.flushPba_spec {s : State} (hs : s.Inv) {n : Nat} (hgo : s.flushPba.msixGo n = true) :
    Tab.get (fun _ => false) s.flushPba.pcie.pba n = false ∧
      (Tab.get (fun _ => false) s.pcie.pba n = true → OutMsg.msix n ∈ s.flushPba.out) := by
  have hgo : s.msixGo n = true := by
    rw [← hgo]
    exact (List.foldlRecOn (motive := fun u => u.msixGo n = s.msixGo n) _ State.flushVector rfl
      fun u hu v _ => (u.msixGo_flushVector v n).trans hu).symm
  by_cases hheld : n ∈ s.pcie.pba.map Prod.fst
  · have hgone := State.foldl_reaches (f := State.flushVector) (n := n)
      (l := (s.pcie.pba.map Prod.fst).filter s.fastVector ++ (s.pcie.pba.map Prod.fst).filter fun v => !s.fastVector v)
      (P := fun u => u.Inv ∧ u.msixGo n = true)
      (Q := fun u => (u.Inv ∧ Tab.get (fun _ => false) u.pcie.pba n = false) ∧ OutMsg.msix n ∈ u.out)
      (by
        simp only [List.mem_append, List.mem_filter, hheld, true_and, Bool.not_eq_true']
        exact Bool.eq_false_or_eq_true _)
      (fun u v _ h => ⟨(u.flushVector_frame v).inv h.1, (u.msixGo_flushVector v n).trans h.2⟩)
      (fun u h => ⟨⟨(u.flushVector_frame n).inv h.1, by rw [State.pba_flushVector h.1, if_pos ⟨rfl, h.2⟩]⟩, State.mem_out_flushVector h.2⟩)
      (fun u v h => ⟨⟨(u.flushVector_frame v).inv h.1.1, by rw [State.pba_flushVector h.1.1, h.1.2, ite_self]⟩, u.out_flushVector v h.2⟩)
      ⟨hs, hgo⟩
    exact ⟨hgone.1.2, fun _ => hgone.2⟩
  · have hclear := Tab.get_of_not_mem (d := fun _ => false) hheld
    refine ⟨(List.foldlRecOn (motive := fun u => u.Inv ∧ Tab.get (fun _ => false) u.pcie.pba n = false) _ State.flushVector
      ⟨hs, hclear⟩ fun u hu v _ => ⟨(u.flushVector_frame v).inv hu.1, by rw [State.pba_flushVector hu.1, hu.2, ite_self]⟩).2, ?_⟩
    simp [hclear]

theorem State.flushPba_pcie (s : State) : ∃ p, s.flushPba.pcie = { s.pcie with pba := p } := by
  refine List.foldlRecOn (motive := fun u => ∃ p, u.pcie = { s.pcie with pba := p }) _ State.flushVector ⟨_, rfl⟩ ?_
  rintro u ⟨p, hp⟩ v -
  unfold State.flushVector
  split
  · exact ⟨Tab.set (fun _ => false) u.pcie.pba v false, by
      change ({ u.pcie with pba := Tab.set (fun _ => false) u.pcie.pba v false } : Pcie) = _
      rw [hp]⟩
  · exact ⟨p, hp⟩

/-- What a write of a mask or of the enable must show once the held vectors have been flushed. -/
theorem State.flushPba_of_pba {s t : State} (ht : t.Inv) (h : t.pcie.pba = s.pcie.pba) (n : Nat) (hgo : t.flushPba.msixGo n = true) :
    Tab.get (fun _ => false) t.flushPba.pcie.pba n = false ∧
      (Tab.get (fun _ => false) s.pcie.pba n = true → OutMsg.msix n ∈ t.flushPba.out) :=
  h ▸ State.flushPba_spec ht hgo

/-- Settles O51: a mask write is a change of one field before the held vectors are flushed, which leaves that field. -/
theorem pcieWritesTakeEffect : Obligations.PcieWritesTakeEffect := by
  refine ⟨?msix, ?config, ?address⟩
  case msix =>
    intro s w hs
    refine ⟨_, rfl, ?_⟩
    have hlink : s.linkUse.Inv := s.linkUse_frame.inv hs
    cases w with
    | enable b =>
      have hset : Frame [.pcie] s.linkUse { s.linkUse with pcie := { s.linkUse.pcie with msixEnable := b } } := Frame.upd Frame.refl
      obtain ⟨p, hp⟩ := State.flushPba_pcie { s.linkUse with pcie := { s.linkUse.pcie with msixEnable := b } }
      exact ⟨congrArg Pcie.msixEnable hp, fun _ => State.flushPba_of_pba (hset.inv hlink) rfl⟩
    | functionMask b =>
      have hset : Frame [.pcie] s.linkUse { s.linkUse with pcie := { s.linkUse.pcie with functionMask := b } } := Frame.upd Frame.refl
      obtain ⟨p, hp⟩ := State.flushPba_pcie { s.linkUse with pcie := { s.linkUse.pcie with functionMask := b } }
      exact ⟨congrArg Pcie.functionMask hp, fun _ => State.flushPba_of_pba (hset.inv hlink) rfl⟩
    | vectorMask v b =>
      have hset : Frame [.pcie] s.linkUse { s.linkUse with pcie := { s.linkUse.pcie with
          vecOpen := Tab.set (fun _ => false) s.linkUse.pcie.vecOpen v.val (!b) } } := Frame.upd Frame.refl
      obtain ⟨p, hp⟩ := State.flushPba_pcie { s.linkUse with pcie := { s.linkUse.pcie with
        vecOpen := Tab.set (fun _ => false) s.linkUse.pcie.vecOpen v.val (!b) } }
      refine ⟨?_, fun _ => State.flushPba_of_pba (hset.inv hlink) rfl⟩
      refine (congrArg (fun x : Pcie => Tab.get (fun _ => false) x.vecOpen v.val) hp).trans ?_
      exact (Tab.get_set_of_rising hs.tabs.pcie.1 v.val v.val (!b)).trans (if_pos rfl)
    | vectorEntry v a d =>
      refine ⟨⟨?_, ?_⟩, fun h => absurd rfl (h v a d)⟩
      · exact (Tab.get_set_of_rising hs.tabs.pcie.2.1 v.val v.val a).trans (if_pos rfl)
      · exact (Tab.get_set_of_rising hs.tabs.pcie.2.2.1 v.val v.val d).trans (if_pos rfl)
  case config =>
    intro s w hs hpwr
    refine ⟨_, congrArg Host.Outcome.next (if_neg hpwr), ?_⟩
    cases w with
    | bar4Size k => exact apply_ite (fun u : State => u.pcie.bar4Log2) _ _ _
    | other o v => exact (Tab.get_set_of_rising hs.tabs.pcie.2.2.2.2 o o v).trans (if_pos rfl)
    | _ => rfl
  case address =>
    intro s a st haux
    refine ⟨⟨_, congrArg Host.Outcome.next (if_pos haux), ?_⟩, ⟨_, congrArg Host.Outcome.next (if_pos haux), ?_⟩⟩
    · change (State.assigned s (.entdaa a)).or s.ld.i3cAddr = s.ld.i3cAddr.or (some a.val)
      cases h : s.ld.i3cAddr <;> simp [State.assigned, h]
    · change (State.assigned s (.setdasa st a)).or s.ld.i3cAddr = _
      rw [State.assigned]
      split <;> rfl

end Sys2Proof.Machine
end

section
/-!
Rings (R310 to R318): writes of a ring's control register, polls of the doorbell record, fetch and acceptance. What a row does to the
ring is read from the one write that it makes of it; the arrivals and messages that follow leave the Host Gate alone.
-/
namespace Sys2Proof.Machine

open Sys2Proof

/-! ### What the state of a ring depends on -/

section Same

variable {s t : State}

theorem State.ring_of_rings (h : t.hg.rings = s.hg.rings) (n : Nat) : t.ring n = s.ring n := by unfold State.ring; rw [h]

theorem State.ring_of_hg (h : t.hg = s.hg) (n : Nat) : t.ring n = s.ring n := State.ring_of_rings (congrArg HostGate.rings h) n

theorem State.inFlight_of_hg (h : t.hg = s.hg) (n : Nat) : t.inFlight n = s.inFlight n := by
  unfold State.inFlight State.ringCmds; rw [h]

theorem State.ringEnabled_of_regs (h : t.regs = s.regs) (n : Nat) : t.ringEnabled n = s.ringEnabled n := by
  unfold State.ringEnabled; rw [State.fld_of_regs h]

theorem State.ringLog2_of_regs (h : t.regs = s.regs) (n : Nat) : t.ringLog2 n = s.ringLog2 n := State.fld_of_regs h ..

theorem State.ringPlaced_of_regs (h : t.regs = s.regs) (n log2 : Nat) : t.ringPlaced n log2 = s.ringPlaced n log2 := by
  unfold State.ringPlaced; simp only [State.reg_of_regs h]

/-- The rings after one has been written. -/
theorem State.ring_setRing_of_ordered (h : s.hg.rings.Ordered) (n j : Nat) (r : Ring) :
    (s.setRing n r).ring j = if j = n then r else s.ring j :=
  Tab.get_set_of_rising h n j r

theorem State.ring_setRing_same (h : s.hg.rings.Ordered) (n : Nat) (r : Ring) : (s.setRing n r).ring n = r :=
  (State.ring_setRing_of_ordered h n n r).trans (if_pos rfl)

theorem State.ring_setRing_setReg (h : s.hg.rings.Ordered) (off v n : Nat) (r : Ring) : ((s.setReg off v).setRing n r).ring n = r :=
  State.ring_setRing_same (s := s.setReg off v) h n r

theorem State.Inv.rings (h : s.Inv) : s.hg.rings.Ordered := h.tabs.hg.1

end Same

/-! ### The control register (R310, R311, R341) -/

/-- What a write of `v` stores in HG_RING_CTRL_n: LOG2_SIZE, STOP_ON_ERROR and, with `on`, ENABLE. -/
def ringCtrl (log2 v : Nat) (on : Bool) : Nat :=
  if on then 2 ^ 31 + (log2 * 2 ^ 16 + bitsOf v 29 1 * 2 ^ 29) else log2 * 2 ^ 16 + bitsOf v 29 1 * 2 ^ 29

theorem bitsOf_one (v i : Nat) : bitsOf v i 1 = (bitAt v i).toNat := by
  rw [bitsOf, bitAt, Nat.toNat_testBit, Nat.shiftRight_eq_div_pow, pow_one]

/-- The three fields are read back. -/
theorem ringCtrl_fields {log2 : Nat} (hlog2 : log2 < 32) (v : Nat) (on : Bool) :
    bitsOf (ringCtrl log2 v on % 2 ^ 64) 31 1 = on.toNat ∧ bitsOf (ringCtrl log2 v on % 2 ^ 64) 16 5 = log2 ∧
      bitsOf (ringCtrl log2 v on % 2 ^ 64) 29 1 = bitsOf v 29 1 := by
  have hstop : bitsOf v 29 1 < 2 := bitsOf_lt v 29 1
  unfold ringCtrl
  generalize bitsOf v 29 1 = b at *
  simp only [bitsOf, Nat.shiftRight_eq_div_pow]
  cases on <;> simp only [Bool.false_eq_true, if_false, if_true, Bool.toNat_false, Bool.toNat_true] <;> omega

/-- The ring as its register says, after a write of it. -/
theorem State.ring_fields_setReg {s t : State} (hs : s.RegsOk) {n log2 v : Nat} {on : Bool} (hlog2 : log2 < 32)
    (ht : t.regs = (s.setReg (rRingCtrl n) (ringCtrl log2 v on)).regs) :
    t.ringEnabled n = on ∧ t.ringLog2 n = log2 ∧ t.ringStop n = bitAt v 29 := by
  obtain ⟨hon, hsize, hstop⟩ := ringCtrl_fields hlog2 v on
  have hreg : t.reg (rRingCtrl n) = ringCtrl log2 v on % 2 ^ 64 :=
    (State.reg_of_regs ht _).trans ((State.reg_setReg hs.1 ..).trans (if_pos rfl))
  refine ⟨?_, ?_, ?_⟩
  · rw [State.ringEnabled, State.fld, hreg, hon]; cases on <;> rfl
  · rw [State.ringLog2, State.fld, hreg, hsize]
  · rw [State.ringStop, State.fld, hreg, hstop, bitsOf_one]; cases bitAt v 29 <;> rfl

theorem State.ringLog2_lt (s : State) (n : Nat) : s.ringLog2 n < 32 := bitsOf_lt ..

/-- A ring that is not busy starts anew. -/
theorem State.ringCtrlWrite_start {s : State} {m : Master} {n v : Nat} (hm : m = .host ∨ s.owns m = true) (hlands : s.regLands m = true)
    (hon : bitAt v 31 = true) (hoff : s.ringEnabled n = false) (hidle : s.inFlight n = 0) (hdrained : (s.ring n).draining = false)
    (hplaced : s.ringPlaced n (bitsOf v 16 5) = true) :
    s.ringCtrlWrite m n v = (s.setReg (rRingCtrl n) (ringCtrl (bitsOf v 16 5) v true)).setRing n
      { Ring.initial with nextPoll := s.now + 1000, sinceId := s.hg.nextId } := by
  simp [State.ringCtrlWrite, hm, hlands, hon, hoff, hidle, hdrained, hplaced, ringCtrl]

/-- A ring that is disabled drains what is in flight; the write ends a halt with RESUME. -/
theorem State.ringCtrlWrite_stop {s : State} {m : Master} {n v : Nat} (hm : m = .host ∨ s.owns m = true) (hlands : s.regLands m = true)
    (hon : bitAt v 31 = false) : ∃ (log2 : Nat) (r : Ring), log2 < 32 ∧
      r.draining = ((s.ringEnabled n && s.inFlight n != 0) || (s.ring n).draining) ∧
      s.ringCtrlWrite m n v = (s.setReg (rRingCtrl n) (ringCtrl log2 v false)).setRing n r := by
  have hpath : ¬ (¬ (m = .host ∨ s.owns m = true) ∨ ¬ s.regLands m = true) := by simp [hm, hlands]
  rw [State.ringCtrlWrite, if_neg hpath]
  extract_lets r on busy log2 low resumed anew stopped r1
  refine ⟨log2, if bitAt v 30 ∧ r.halted then ({ r1 with halted := false, rewrite := false } : Ring) else r1, ?_, ?_, ?_⟩
  · unfold log2
    split
    · exact s.ringLog2_lt n
    · exact bitsOf_lt ..
  · split <;> rfl
  · rw [if_neg (by rw [hon]; decide)]
    rfl

/-- RESUME ends the halt of an enabled ring. -/
theorem State.ringCtrlWrite_resume {s : State} {m : Master} {n v : Nat} (hm : m = .host ∨ s.owns m = true) (hlands : s.regLands m = true)
    (hon : bitAt v 31 = true) (hresume : bitAt v 30 = true) (henabled : s.ringEnabled n = true) (hhalted : (s.ring n).halted = true) :
    s.ringCtrlWrite m n v = (s.setReg (rRingCtrl n) (ringCtrl (s.ringLog2 n) v true)).setRing n
      { s.ring n with halted := false, rewrite := false } := by
  simp [State.ringCtrlWrite, hm, hlands, hon, hresume, henabled, hhalted, ringCtrl]

/-- Settles O9: each write is one store of the control register and one of the ring. -/
theorem ringControlActs : Obligations.RingControlActs := by
  have hreach {s : State} {m : Master} (hm : m = .host ∨ s.owns m = true) : m = .host ∨ (s.reachedBy m).owns m = true :=
    hm.imp_right fun h => (State.owns_of_tb (s.reachedBy_tb m) m).trans h
  have hland {s : State} {m : Master} (h : s.regLands m = true) : (s.reachedBy m).regLands m = true :=
    (State.regLands_of_tb (s.reachedBy_tb m) m).trans h
  have hrings {s : State} (hs : s.Inv) (m : Master) : (s.reachedBy m).hg.rings.Ordered := ((s.reachedBy_frame m).inv hs).rings
  have hregs {s : State} (hs : s.Inv) (m : Master) : (s.reachedBy m).RegsOk := ((s.reachedBy_frame m).inv hs).regs
  have henabled (s : State) (m : Master) (n : Nat) : (s.reachedBy m).ringEnabled n = s.ringEnabled n :=
    State.ringEnabled_of_regs (s.reachedBy_regs m) n
  have hring (s : State) (m : Master) (n : Nat) : (s.reachedBy m).ring n = s.ring n := State.ring_of_hg (s.reachedBy_hg m) n
  have hflight (s : State) (m : Master) (n : Nat) : (s.reachedBy m).inFlight n = s.inFlight n := State.inFlight_of_hg (s.reachedBy_hg m) n
  refine ⟨?enable, ?disable, ?resume⟩
  case enable =>
    intro s m n v hs hm hlands hon hoff hidle hdrained hplaced
    have hwrite := State.ringCtrlWrite_start (s := s.reachedBy m) (n := n.val) (hreach hm) (hland hlands) hon ((henabled ..).trans hoff)
      ((hflight ..).trans hidle) ((congrArg Ring.draining (hring ..)).trans hdrained)
      ((State.ringPlaced_of_regs (s.reachedBy_regs m) ..).trans hplaced)
    obtain ⟨hstands, hsize, hstop⟩ := State.ring_fields_setReg (hregs hs m) (n := n.val) (v := v.toNat) (on := true)
      (t := (s.reachedBy m).ringCtrlWrite m n.val v.toNat) (bitsOf_lt v.toNat 16 5) (by rw [hwrite]; rfl)
    refine ⟨_, congrArg Host.Outcome.next (if_pos hon), hstands, hsize, hstop, ?_⟩
    rw [hwrite, State.ring_setRing_setReg (hrings hs m), s.now_reachedBy m, s.reachedBy_hg m]
  case disable =>
    intro s m n v hs hm hlands hon
    obtain ⟨log2, r, hlog2, hdrain, hwrite⟩ := State.ringCtrlWrite_stop (s := s.reachedBy m) (n := n.val) (hreach hm) (hland hlands) hon
    obtain ⟨hstands, -, -⟩ := State.ring_fields_setReg (hregs hs m) (n := n.val) (v := v.toNat) (on := false)
      (t := (s.reachedBy m).ringCtrlWrite m n.val v.toNat) hlog2 (by rw [hwrite]; rfl)
    refine ⟨_, congrArg Host.Outcome.next (if_neg (by rw [hon]; decide)), hstands, ?_⟩
    rw [hwrite, State.ring_setRing_setReg (hrings hs m), hdrain, henabled, hflight, hring]
  case resume =>
    intro s m n v hs hm hlands hresume hon hstands hhalted
    have hwrite := State.ringCtrlWrite_resume (s := s.reachedBy m) (n := n.val) (hreach hm) (hland hlands) hon hresume
      ((henabled ..).trans hstands) ((congrArg Ring.halted (hring ..)).trans hhalted)
    obtain ⟨hagain, -, -⟩ := State.ring_fields_setReg (hregs hs m) (n := n.val) (v := v.toNat) (on := true)
      (t := (s.reachedBy m).ringCtrlWrite m n.val v.toNat) (State.ringLog2_lt _ n.val) (by rw [hwrite]; rfl)
    refine ⟨_, congrArg Host.Outcome.next (if_pos hresume), hagain, ?_⟩
    rw [hwrite, State.ring_setRing_setReg (hrings hs m)]

/-! ### Polls (R312 to R315) -/

section Poll

variable {s : State} {n : Nat}

theorem State.goActive_hg (s : State) : s.goActive.hg = s.hg := s.goActive_frame.hg_eq rfl

/-- A record that is read, new and valid is taken into the ring. -/
theorem State.poll_takes (hrings : s.hg.rings.Ordered) (hread : s.linkUse.rdFail (s.reg (rDbAddr n)) 16 = none)
    (hfresh : (s.ring n).seqTaken ≠ some (s.rdNat (s.reg (rDbAddr n) + 8) 4))
    (hgood : s.recordBad n (s.rdNat (s.reg (rDbAddr n)) 4) (s.rdNat (s.reg (rDbAddr n) + 4) 4) = false) :
    ∃ interval next, (s.poll n).ring n = { s.ring n with
      interval := interval, nextPoll := next
      sqTail := s.rdNat (s.reg (rDbAddr n)) 4, cqHead := s.rdNat (s.reg (rDbAddr n) + 4) 4
      seqTaken := some (s.rdNat (s.reg (rDbAddr n) + 8) 4) } := by
  have hnew : ((s.ring n).seqTaken != some (s.linkUse.rdNat (s.reg (rDbAddr n) + 8) 4)) = true := bne_iff_ne.mpr hfresh
  have hvalid : s.linkUse.recordBad n (s.linkUse.rdNat (s.reg (rDbAddr n)) 4) (s.linkUse.rdNat (s.reg (rDbAddr n) + 4) 4) = false := hgood
  unfold State.poll
  extract_lets a r u tail head sq fresh quiet iv r1 r2 taken
  rw [show u.rdFail a 16 = none from hread]
  dsimp only
  have hfresh : fresh = true := hnew
  rw [if_neg (by rw [hvalid]; simp)]
  refine ⟨iv, u.now + iv, ?_⟩
  have htaken : taken.ring n = r2 := State.ring_setRing_same hrings n r2
  have hr2 : r2 = { r1 with sqTail := tail, cqHead := head, seqTaken := some sq } := if_pos hfresh
  split
  · rw [State.ring_of_hg taken.goActive_hg, htaken, hr2]
    rfl
  · rw [htaken, hr2]
    rfl

/-- The ring of a hint, before the module wakes. -/
theorem State.hint_ring (hs : s.Inv) (hn : n < 64) (h : s.ringEnabled n = true) : (s.hint.ring n).nextPoll ≤ s.now := by
  have hone (u : State) (k : Nat) : Frame [.hg] u
      (if u.ringEnabled k then u.setRing k { u.ring k with nextPoll := min (u.ring k).nextPoll u.now } else u) :=
    Frame.ite (u.setRing_frame k _) Frame.refl
  refine State.foldl_reaches (P := fun u => u.Inv ∧ u.ringEnabled n = true ∧ u.now = s.now)
    (Q := fun u => u.Inv ∧ (u.ring n).nextPoll ≤ s.now ∧ u.now = s.now) (List.mem_range.mpr hn) ?_ ?_ ?_ ⟨hs, h, rfl⟩ |>.2.1
  · rintro u k - ⟨hu, hon, hnow⟩
    exact ⟨(hone u k).inv hu, (State.ringEnabled_of_regs ((hone u k).same .regs (by decide)) n).trans hon,
      ((hone u k).now_eq rfl).trans hnow⟩
  · rintro u ⟨hu, hon, hnow⟩
    refine ⟨(hone u n).inv hu, ?_, ((hone u n).now_eq rfl).trans hnow⟩
    rw [if_pos hon, State.ring_setRing_same hu.rings]
    exact hnow ▸ Nat.min_le_right ..
  · rintro u k ⟨hu, hle, hnow⟩
    refine ⟨(hone u k).inv hu, ?_, ((hone u k).now_eq rfl).trans hnow⟩
    split
    · rw [State.ring_setRing_of_ordered hu.rings]
      split
      next hk => subst hk; exact Nat.le_trans (Nat.min_le_left ..) hle
      next => exact hle
    · exact hle

end Poll

/-- Settles O10: the poll writes one ring from the record, and a hint brings each poll to the present. -/
theorem pollTakesTheDoorbellRecord : Obligations.PollTakesTheDoorbellRecord := by
  refine ⟨?poll, ?hint⟩
  case poll =>
    rintro s n e u rfl hs henabled hawake hdue hread hfresh hgood
    obtain ⟨interval, next, hring⟩ := State.poll_takes (s := s.applyEnv e) ((s.applyEnv_frame e).inv hs).rings hread hfresh hgood
    refine ⟨_, congrArg Host.Outcome.next (if_pos ⟨henabled, hawake, hdue⟩), ?_, ?_, ?_⟩ <;> exact hring ▸ rfl
  case hint =>
    intro s off v hs hpwr
    refine ⟨s.linkUse.hint.wakeA2 1, ?_, fun n hn henabled => ?_⟩
    · rcases hpwr with h | h <;> simp only [exec, execHintWindowWrite, h]
    · rw [State.ring_of_hg ((State.wakeA2_frame ..).hg_eq rfl)]
      exact Nat.le_trans (State.hint_ring (s.linkUse_frame.inv hs) hn henabled) (Nat.le_add_right s.now 1000)

end Sys2Proof.Machine
end

section
/-!
Commands from fetch to start (R316 to R318, R323, R450): the slot that a fetch takes, acceptance, the release of a held step, the start
and its timeout.
-/
namespace Sys2Proof.Machine

open Sys2Proof

/-! ### The count of fetched slots (R316) -/

/-- The rings stay listed in order, and each has fetched as many slots as before. -/
structure State.SameFetched (s t : State) : Prop where
  rings : t.hg.rings.Ordered
  fetched : ∀ k, (t.ring k).fetched = (s.ring k).fetched

/-- Setting a ring keeps the rings listed in order. -/
theorem State.rings_setRing {s : State} (hs : s.hg.rings.Ordered) (n : Nat) (r : Ring) : (s.setRing n r).hg.rings.Ordered :=
  Tab.rising_set (d := fun _ => Ring.initial) hs n r

namespace State.SameFetched

variable {s t u : State}

theorem trans (h : s.SameFetched t) (k : t.SameFetched u) : s.SameFetched u :=
  ⟨k.rings, fun j => (k.fetched j).trans (h.fetched j)⟩

theorem of_rings (hs : s.hg.rings.Ordered) (h : t.hg.rings = s.hg.rings) : s.SameFetched t :=
  ⟨h ▸ hs, fun k => congrArg Ring.fetched (State.ring_of_rings h k)⟩

theorem of_silent {l : List Comp} (hs : s.hg.rings.Ordered) (h : Frame l s t) (hl : l.contains .hg = false) : s.SameFetched t :=
  of_rings hs (congrArg HostGate.rings (h.hg_eq hl))

theorem setRing (hs : s.hg.rings.Ordered) {n : Nat} {r : Ring} (hr : r.fetched = (s.ring n).fetched) : s.SameFetched (s.setRing n r) := by
  refine ⟨State.rings_setRing hs n r, fun k => ?_⟩
  rw [State.ring_setRing_of_ordered hs]
  split
  next hk => rw [hk, hr]
  next => rfl

theorem haltOn (hs : s.hg.rings.Ordered) (c : Cmd) (x : Status) : s.SameFetched (s.haltOn c x) := by
  unfold State.haltOn State.haltRing
  split
  · extract_lets r
    split
    · exact of_rings hs rfl
    · have hset : s.SameFetched (s.setRing c.ring { r with halted := true, haltStatus := x.code }) := setRing hs rfl
      exact hset.trans (of_silent hset.rings (State.arrive_frame ..) rfl)
  · exact of_rings hs rfl

theorem putCmd (hs : s.hg.rings.Ordered) (c : Cmd) : s.SameFetched (s.putCmd c) := by
  refine of_rings hs ?_
  unfold State.putCmd State.addCmd
  split <;> rfl

theorem turnAway (hs : s.hg.rings.Ordered) (c : Cmd) (x : Status) (detail : Nat) : s.SameFetched (s.turnAway c x detail) :=
  have hput := putCmd hs _
  hput.trans (haltOn hput.rings ..)

theorem accept (hs : s.hg.rings.Ordered) (c : Cmd) : s.SameFetched (s.accept c) := by
  unfold State.accept
  extract_lets q hg im s1 s2
  have hnext : s.SameFetched s1 := of_rings hs rfl
  have hput : s.SameFetched s2 := hnext.trans (putCmd hnext.rings _)
  split
  · exact hput
  · have hannounce (v : State) : (v.announce c).hg = v.hg := (v.announce_frame c).hg_eq rfl
    exact hput.trans (of_rings hput.rings (by rw [hannounce]; rfl))

theorem acceptIn (hs : s.hg.rings.Ordered) (c : Cmd) (n : Nat) : s.SameFetched (s.acceptIn c n) := by
  unfold State.acceptIn
  split
  · exact turnAway hs ..
  · exact accept hs c

theorem stepCheck (hs : s.hg.rings.Ordered) (c : Cmd) : s.SameFetched (s.stepCheck c) := by
  unfold State.stepCheck
  split
  · split
    · exact turnAway hs ..
    · exact accept hs c
  · split
    · exact turnAway hs ..
    · exact of_rings hs rfl
    · exact acceptIn hs ..

theorem admitCmd (hs : s.hg.rings.Ordered) (c : Cmd) : s.SameFetched (s.admitCmd c) := by
  unfold State.admitCmd
  extract_lets host away stopped checked
  split
  · have haway : s.SameFetched away := turnAway hs ..
    exact haway.trans (setRing haway.rings rfl)
  · split
    · exact turnAway hs ..
    · have hchecked : s.SameFetched checked := by
        unfold checked
        split
        · exact of_silent hs (State.authAccept_frame ..) rfl
        · exact of_rings hs rfl
      split
      · exact hchecked.trans (turnAway hchecked.rings ..)
      · exact hchecked.trans (stepCheck hchecked.rings c)

end State.SameFetched

/-- A slot whose first byte names no critical command is fetched alone (R334). -/
theorem State.slotsNeeded_of_opcode {s : State} {n : Nat} (h : ((s.rd (s.slotAddr n 0) 64).getD 0 0).toNat < 0x60) :
    s.slotsNeeded n = 1 := by
  have hbyte : s.rdNat (s.slotAddr n 0) 1 < 0x60 := h
  unfold State.slotsNeeded
  rw [decide_eq_false (Nat.not_le.mpr hbyte)]
  simp

/-- A fetch of one slot moves the ring's count on by one. -/
theorem State.fetched_fetch {s : State} (hs : s.Inv) {n : Nat} (nw : Bool) (hread : s.rdFail (s.slotAddr n 0) 64 = none)
    (hneed : s.slotsNeeded n = 1) : ((s.fetch n nw).ring n).fetched = ((s.ring n).fetched + 1) % 2 ^ 32 := by
  unfold State.fetch
  extract_lets r crit c rings hg s1 r1
  rw [hread]
  have hcrit : crit = false := by
    unfold crit
    rw [hneed]
    rfl
  have hrings : s1.hg.rings.Ordered := by
    refine Tab.rising_filter _ ?_
    unfold rings
    split
    · exact (Tab.rising_map _).trans hs.rings
    · exact hs.rings
  dsimp only
  rw [if_neg (by simp [hcrit])]
  set u := s1.setRing n { r1 with fetched := (r.fetched + if crit = true then 2 else 1) % 2 ^ 32, inRound := r1.inRound + 1 } with hu
  have hused : u.SameFetched u.goActive := .of_silent (State.rings_setRing hrings _ _) u.goActive_frame rfl
  rw [(hused.trans (.admitCmd hused.rings c)).fetched n, hu, State.ring_setRing_same hrings, hcrit]
  rfl

/-! ### Acceptance (R318, R297) -/

/-- A command that stands in the list takes its new form there. -/
theorem State.mem_putCmd (s : State) (c : Cmd) : c ∈ (s.putCmd c).hg.cmds := by
  unfold State.putCmd
  split
  next h =>
    obtain ⟨d, hd, hid⟩ := List.any_eq_true.mp h
    exact List.mem_map.mpr ⟨d, hd, if_pos (by simpa using hid)⟩
  next => exact List.mem_append_right _ (List.mem_singleton.mpr rfl)

theorem State.putCmd_nextSeq (s : State) (c : Cmd) : (s.putCmd c).hg.nextSeq = s.hg.nextSeq := by
  unfold State.putCmd State.addCmd
  split <;> rfl

/-- An accepted command takes the next issue sequence number. -/
theorem State.accept_numbers (s : State) (c : Cmd) : (s.accept c).hg.nextSeq = s.hg.nextSeq + 1 ∧
    { c with seq := some s.hg.nextSeq, stage := .accepted } ∈ (s.accept c).hg.cmds := by
  unfold State.accept
  extract_lets q hg im s1 s2
  have hput : s2.hg.nextSeq = s.hg.nextSeq + 1 := State.putCmd_nextSeq s1 _
  have hmem : { c with seq := some s.hg.nextSeq, stage := .accepted } ∈ s2.hg.cmds := State.mem_putCmd s1 _
  split
  · exact ⟨hput, hmem⟩
  · have hannounce (v : State) : (v.announce c).hg = v.hg := (v.announce_frame c).hg_eq rfl
    rw [hannounce]
    exact ⟨hput, hmem⟩

/-- A command turned away has failed with its status. -/
theorem State.turnAway_fails (s : State) (c : Cmd) {x : Status} (hx : x.fails = true) (detail : Nat) :
    (s.turnAway c x detail).hg.nextSeq = s.hg.nextSeq ∧
      { c with stage := .failed, conds := [x], detail := detail } ∈ (s.turnAway c x detail).hg.cmds := by
  have hhalt (v : State) (d : Cmd) : (v.haltOn d x).hg.nextSeq = v.hg.nextSeq := by
    unfold State.haltOn State.haltRing
    split
    · extract_lets r
      split
      · rfl
      · rw [State.arrive_hg]
        rfl
    · rfl
  unfold State.turnAway
  rw [if_pos hx, State.haltOn_cmds, hhalt]
  exact ⟨State.putCmd_nextSeq .., State.mem_putCmd ..⟩

/-- A held command whose step may run goes on to its acceptance. -/
theorem State.releaseHold_of_case {s : State} {n k : Nat} {c : Cmd}
    (hc : (s.ringCmds n).find? (fun c => c.stage == .stepHeld) = some c) (hk : c.stepOf = some k) (hcase : s.stepCase k = .accept) :
    s.releaseHold n = s.acceptIn c k := by
  simp only [State.releaseHold, hc, hk, hcase]

/-- Settles O11: the fetch takes one slot, and the release of a hold is the acceptance of the command or its turning away. -/
theorem fetchAndAcceptanceAdvance : Obligations.FetchAndAcceptanceAdvance := by
  refine ⟨?fetch, ?accept, ?limit⟩
  case fetch =>
    intro s n nw hs hturn hawake hread hop
    refine ⟨s.fetch n.val nw, ?_, State.fetched_fetch hs nw hread (State.slotsNeeded_of_opcode hop)⟩
    simp only [exec, execCommandFetch, hturn, hawake, and_self, if_true]
  case accept =>
    intro s n c k hc hk hcase hroom
    obtain ⟨hseq, hmem⟩ := s.accept_numbers c
    have hrun : s.releaseHold n.val = s.accept c := (State.releaseHold_of_case hc hk hcase).trans (if_neg (Nat.not_le.mpr hroom))
    exact ⟨_, congrArg Host.Outcome.next hrun, hseq, _, hmem, rfl, rfl, rfl⟩
  case limit =>
    intro s n c k hc hk hcase hfull
    obtain ⟨hseq, hmem⟩ := s.turnAway_fails c (x := .badDescriptor) rfl 4
    have hrun : s.releaseHold n.val = s.turnAway c .badDescriptor 4 := (State.releaseHold_of_case hc hk hcase).trans (if_pos hfull)
    exact ⟨_, congrArg Host.Outcome.next hrun, hseq, _, hmem, rfl, rfl, rfl⟩

/-! ### Start (R51, R53, R323) -/

section Start

variable {s : State} {q : Nat} {c : Cmd}

/-- What the start adds to a command of number `q`: at most the version that it reads. -/
theorem State.cmd_onStart (hc : s.cmd q = some c) (d : Cmd) :
    ∃ v, (s.onStart d).cmd q = some { c with version := v } := by
  unfold State.onStart
  split
  · exact ⟨c.version, hc⟩
  next r _ =>
  extract_lets referred versioned dies banks
  have hwant (l : List Nat) (v : State) : Frame [.ld] v (l.foldl State.wantDom v) :=
    Frame.foldl (fun u k => u.wantDom_frame k) l Frame.refl
  have hreferred : Frame [.af] s referred := Frame.foldl (fun u d => u.takeRef_frame r d) _ Frame.refl
  have hdies : Frame [.ld] versioned dies := hwant _ _
  have hbanks : Frame [.ld] dies banks := hwant _ _
  have hgate := ((hwant ((s.cmdClusters d).map fun k => 300 + k) banks).hg_eq rfl).trans ((hbanks.hg_eq rfl).trans (hdies.hg_eq rfl))
  rw [State.cmd_of_cmds (congrArg HostGate.cmds hgate)]
  have hcr : referred.cmd q = some c := (State.cmd_of_cmds (congrArg HostGate.cmds (hreferred.hg_eq rfl)) q).trans hc
  unfold versioned
  split
  next t _ =>
    by_cases hr : q = r
    · subst hr
      exact ⟨c.version.or (some (t.ver c.step)), by
        rw [State.cmd_updCmd (fun c => { c with version := c.version.or (some (t.ver c.step)) }) fun _ => rfl, hcr]; rfl⟩
    · exact ⟨c.version, by
        rw [State.cmd_updCmd_ne (fun c => { c with version := c.version.or (some (t.ver c.step)) }) hr fun _ => rfl, hcr]⟩
  next => exact ⟨c.version, hcr⟩

/-- A command that begins has started now, with the seed of its first start. -/
theorem State.cmd_begin (hc : s.cmd q = some c) : ∃ d, (s.begin c q).cmd q = some d ∧ d.stage = .started ∧ d.startedAt = s.now ∧
    d.seed = if c.seeded = true then c.seed else s.jobSeed := by
  unfold State.begin
  extract_lets r latched deps started
  have hlatched : latched.cmd q = some c := by
    refine (State.cmd_of_cmds ?_ q).trans hc
    unfold latched
    split <;> rfl
  have hstarted : started.cmd q = some { c with
      stage := .started, startedAt := s.now, deps := c.deps ++ deps, seed := if c.seeded then c.seed else s.jobSeed, seeded := true } := by
    unfold started
    rw [State.cmd_updCmd (fun c => { c with
      stage := .started, startedAt := s.now, deps := c.deps ++ deps, seed := if c.seeded then c.seed else s.jobSeed,
      seeded := true }) fun _ => rfl, hlatched]
    rfl
  obtain ⟨v, hv⟩ := State.cmd_onStart hstarted c
  exact ⟨_, (State.cmd_of_cmds (congrArg HostGate.cmds (State.logRec_hg ..)) q).trans hv, rfl, rfl, rfl⟩

/-- COMMAND_START of a command that nothing holds. -/
theorem State.startCmd_begins (hc : s.cmd q = some c) (hstage : c.stage = .accepted) (htainted : c.tainted = false)
    (hblocked : s.startBlocked c = false) (hneed : s.failedNeed c = none) (hfailed : (s.needsReady c).any s.failedKey = false)
    (hmet : (s.needsReady c).all s.keyMet = true) : s.startCmd q = s.begin c q := by
  simp [State.startCmd, hc, hstage, htainted, hblocked, hneed, hfailed, hmet]

/-- Settles O12: an unheld command begins, and one held too long fails. -/
theorem commandsStartWhenReady : Obligations.CommandsStartWhenReady := by
  refine ⟨?start, ?timeout⟩
  case start =>
    intro s q c hc hstage htainted hblocked hneed hfailed hmet
    exact ⟨_, congrArg Host.Outcome.next (State.startCmd_begins hc hstage htainted hblocked hneed hfailed hmet), State.cmd_begin hc⟩
  case timeout =>
    intro s q c since hc hstage hheld hlate hmissing
    refine ⟨s.failCmd q .notReadyTimeout 0, congrArg Host.Outcome.next ?_, State.failedCmd_failCmd hc ..⟩
    simp only [State.holdTimeout, hc, hheld]
    exact if_pos ⟨hstage, hlate, by rw [hmissing]; decide⟩

end Start

end Sys2Proof.Machine
end

section
/-!
Completion records (R317, R338): the record's bytes and their place, and a record that waits longer than GRACE_MS.
-/
namespace Sys2Proof.Machine

open Sys2Proof

theorem Frame.ms_eq {l : List Comp} {s t : State} (h : Frame l s t) (hl : l.contains .ms = false) : t.ms = s.ms :=
  h.same .ms (by simpa using hl)

/-- A record has 16 bytes (Table 11.10). -/
theorem Cmd.record_length (c : Cmd) (phase : Bool) : (c.record phase).length = 16 := by
  simp [Cmd.record, natLe_length]

/-- Bytes written to host memory go there as they are. -/
theorem State.wr_host {s : State} {a : Nat} (h : isHost a = true) (l : List Byte) : s.wr a l = s.putBytes a l := if_pos h

/-- A record that is written stands at its place; every other byte and every other ring stays. -/
theorem State.writeRecord_spec {s : State} {n a : Nat} {c : Cmd} (hs : s.Inv) (hc : s.nextRecord n = some c) (hended : c.ended = true)
    (hawake : s.hostAwake = true) (hrewrite : (s.ring n).rewrite = false) (hroom : s.recordRoom n = true) (hext : c.ext = false)
    (ha : a = s.reg (rCqBase n) + 16 * ((s.ring n).completed % s.ringSize n)) (hhost : isHost a = true) (hfail : s.rdFail a 16 = none) :
    (∀ j, (s.writeRecord n).byte j = (s.putBytes a (c.record ((s.ring n).completed / s.ringSize n % 2 == 0))).byte j) ∧
      ((s.writeRecord n).ring n).completed = ((s.ring n).completed + 1) % 2 ^ 32 := by
  unfold State.writeRecord
  rw [hc]
  dsimp -zeta only
  extract_lets r k s1 a' extFail s2 s3 s4 s5 used
  rw [if_neg (by simp [hended, hawake, r, hrewrite]), if_neg (by simp [hroom])]
  have ha' : a' = a := ha.symm
  have hext' : extFail = false := by simp [extFail, hext]
  rw [if_neg (by simp [ha', hfail, hext'])]
  have hs1 : s1 = s := if_neg (by simp [hext])
  have hs2 : s2 = s.putBytes a (c.record (r.completed / s.ringSize n % 2 == 0)) := by
    show s1.wr a' _ = _
    rw [hs1, ha', State.wr_host hhost]
  have hrings : s3.hg.rings.Ordered := by
    show s2.hg.rings.Ordered
    rw [hs2, State.putBytes_hg]
    exact hs.rings
  have hframe : Frame [.ld, .irq, .pcie, .fab, .out] s4 s5 := Frame.ite (s4.arrive_frame n) Frame.refl
  have hlast (w : State) : Frame [.im] w (w.logRec 4 0xF0000000 0x04 (some n) c.seq 0) := w.logRec_frame ..
  have hused (w : Lantern) : Frame [.ld] { s5 with ld := w } ({ s5 with ld := w } : State).linkUse := State.linkUse_frame _
  refine ⟨fun j => ?_, ?_⟩
  · rw [← hs2]
    exact congrArg (fun m : MemSys => Tab.get memDefault m.mem j)
      (((hlast _).ms_eq rfl).trans (((hused _).ms_eq rfl).trans (hframe.ms_eq rfl)))
  · have hring := State.ring_setRing_same hrings n { r with
      latch := r.latch.filter fun p => c.seq != some p.2.1
      completed := (r.completed + 1) % 2 ^ 32, overdue := r.overdue && s3.recordLate n, draining := r.draining && s3.inFlight n != 0 }
    refine congrArg Ring.completed ((State.ring_of_rings (congrArg HostGate.rings ?_) n).trans hring)
    exact ((hlast _).hg_eq rfl).trans (((hused _).hg_eq rfl).trans (hframe.hg_eq rfl))

/-- The wait for a free record is over for a command of the ring. -/
theorem State.recordLate_iff {s : State} {n : Nat} : s.recordLate n = true ↔
    ∃ c ∈ s.ringCmds n, c.recorded = false ∧ ∃ t, c.recordReady = some t ∧ t + s.graceMs * 1000000 < s.now := by
  unfold State.recordLate
  generalize s.graceMs * 1000000 = g
  simp [List.any_eq_true, Option.any_eq_true]

/-- A record that is late stays late when records that were not waiting begin to wait. -/
theorem State.recordLate_updId {s : State} {n : Nat} (h : s.recordLate n = true) (i : Nat) (w : Option Nat) :
    (s.updId i fun c => { c with recordReady := c.recordReady.or w }).recordLate n = true := by
  obtain ⟨c, hmem, hrecorded, t, hready, hlate⟩ := State.recordLate_iff.mp h
  obtain ⟨hc, hring⟩ := List.mem_filter.mp hmem
  refine State.recordLate_iff.mpr ⟨if c.id = i then { c with recordReady := c.recordReady.or w } else c,
    List.mem_filter.mpr ⟨List.mem_map.mpr ⟨c, hc, rfl⟩, ?_⟩, ?_, t, ?_, hlate⟩
  · split <;> exact hring
  · split <;> exact hrecorded
  · split
    · simp [hready]
    · exact hready

/-- The wait of the records, begun for one that is late already, leaves it late. -/
theorem State.recordLate_noteReady {s : State} {n : Nat} (h : s.recordLate n = true) (k : Nat) :
    (s.noteReady k).recordLate n = true ∧ (s.noteReady k).hg.rings = s.hg.rings := by
  unfold State.noteReady
  split
  · exact ⟨h, rfl⟩
  · generalize ((s.ringCmds k).filter fun c => c.ended && !c.recorded) = l
    generalize some s.now = w
    rename_i hroom
    clear hroom
    induction l generalizing s with
    | nil => exact ⟨h, rfl⟩
    | cons d l ih => exact ih (State.recordLate_updId h d.id w)

/-- Settles O13: the record is written to host memory alone, and a late record marks its ring. -/
theorem recordsReachTheCompletionRing : Obligations.RecordsReachTheCompletionRing := by
  refine ⟨?write, ?grace⟩
  case write =>
    intro s n c a hs hc hended hawake hrewrite hroom hext ha hhost hfail
    obtain ⟨hbytes, hcount⟩ := State.writeRecord_spec hs hc hended hawake hrewrite hroom hext ha hhost hfail
    refine ⟨_, rfl, fun i hi => (hbytes _).trans (State.byte_putBytes hs.mem hi), fun j hj => (hbytes j).trans ?_, hcount⟩
    exact State.byte_putBytes_out hs.mem (by rwa [Cmd.record_length])
  case grace =>
    intro s n c w hs hc hready hlate hoverdue
    have hrecorded : (!c.recorded) = true := List.find?_some (p := fun c : Cmd => !c.recorded) hc
    have hfirst : s.recordLate n.val = true :=
      State.recordLate_iff.mpr ⟨c, List.mem_of_find?_eq_some hc, by simpa using hrecorded, w, hready, hlate⟩
    obtain ⟨hnoted, hrings⟩ := State.recordLate_noteReady hfirst n.val
    have hring : (s.noteReady n.val).ring n.val = s.ring n.val := State.ring_of_rings hrings n.val
    have hrun : s.graceExpiry n.val =
        ((s.noteReady n.val).setRing n.val { (s.noteReady n.val).ring n.val with overdue := true }).arrive (64 + n.val) :=
      if_pos ⟨hnoted, by rw [hring, hoverdue]; decide⟩
    refine ⟨_, congrArg Host.Outcome.next hrun, ?_⟩
    rw [State.ring_of_rings (congrArg HostGate.rings (State.arrive_hg ..)), State.ring_setRing_same (hrings ▸ hs.rings)]

end Sys2Proof.Machine
end

section
/-!
WAIT and its timeouts (R326, R134).
-/
namespace Sys2Proof.Machine

open Sys2Proof

theorem State.halted_haltRing {s : State} (hs : s.hg.rings.Ordered) (n code : Nat) : ((s.haltRing n code).ring n).halted = true := by
  unfold State.haltRing
  extract_lets r
  split
  · assumption
  · rw [State.ring_of_rings (congrArg HostGate.rings (State.arrive_hg ..)), State.ring_setRing_same hs]

section Wait

variable {s : State} {q : Nat} {c : Cmd}

/-- A WAIT that is satisfied is delivered. -/
theorem State.delivered_satisfy (hc : s.cmd q = some c) (e : Nat) : ∃ d, (s.satisfy q e).cmd q = some d ∧ d.stage = .delivered :=
  ⟨_, State.cmd_deliver ((State.cmd_updCmd (fun c => { c with
    deps := if s.hg.replay.isSome || c.signalled then c.deps else c.deps ++ Tab.get (fun _ => []) s.hg.signallers e })
    fun _ => rfl).trans (congrArg (Option.map _) hc)), rfl⟩

theorem State.waiting_cmd (h : s.waiting q = some c) : s.cmd q = some c := by
  unfold State.waiting at h
  split at h
  next d hd =>
    split at h
    · cases h
      exact hd
    · cases h
  next => cases h

/-- A read that waits too long for its version fails its command (R134). -/
theorem State.versionTimeout_fails {y : Resident} (hc : s.cmd q = some c) (hy : s.readTensor q = some y) (hrun : c.stage = .running)
    (htainted : c.tainted = false) {r : Read} (hr : r ∈ s.af.reads) (hq : r.seq = q) (hlate : s.versionLate y r = true) :
    s.versionTimeout q = s.failCmd q .waitTimeout (c.version.getD 0) := by
  unfold State.versionTimeout
  rw [hc, hy]
  exact if_pos ⟨hrun, by simp [htainted], List.any_eq_true.mpr ⟨r, hr, by simp [hq, hlate]⟩⟩

/-- Settles O15: a met WAIT is delivered, an unmet one runs on, and one that is too late fails. -/
theorem waitsEndAsTheirCounterSays : Obligations.WaitsEndAsTheirCounterSays := by
  refine ⟨?met, ?unmet, ?satisfied, ?timeout, ?version⟩
  case met =>
    intro s q c hc hmet
    refine ⟨s.satisfy q (c.u 16 2), congrArg Host.Outcome.next ?_, State.delivered_satisfy (State.runnable_cmd hc).1 _⟩
    simp only [State.runWait, hc, hmet, if_true]
  case unmet =>
    intro s q c hc hmet
    refine ⟨s.updCmd q fun c => { c with stage := .running }, congrArg Host.Outcome.next ?_, { c with stage := .running }, ?_, rfl⟩
    · simp only [State.runWait, hc, hmet, Bool.false_eq_true, if_false]
    · rw [State.cmd_updCmd (fun c => { c with stage := .running }) fun _ => rfl, (State.runnable_cmd hc).1]
      rfl
  case satisfied =>
    intro s q c hc hmet
    refine ⟨s.satisfy q (c.u 16 2), ?_, State.delivered_satisfy (State.waiting_cmd hc) _⟩
    simp only [exec, execWaitSatisfied, hc, hmet, if_true]
  case timeout =>
    intro s q c hs hc hmet hlate
    obtain ⟨d, hd, hfailed⟩ := State.failedCmd_failCmd (State.waiting_cmd hc) .waitTimeout (s.event (c.u 16 2)).toNat
    have hrings := ((s.failCmd_frame q .waitTimeout (s.event (c.u 16 2)).toNat).inv hs).rings
    refine ⟨_, congrArg Host.Outcome.next ?_, ⟨d, (State.cmd_of_cmds (State.haltRing_cmds ..) q).trans hd, hfailed⟩,
      State.halted_haltRing hrings c.ring Status.waitTimeout.code⟩
    simp only [State.waitExpiry, hc]
    exact if_neg (by simp only [hmet, Bool.false_eq_true, false_or]; exact Nat.not_le.mpr hlate)
  case version =>
    intro s q c y r w hc hy hrun htainted hr hq hstage hbehind hsince hlate
    have hover : s.versionLate y r = true := by
      unfold State.versionLate
      generalize s.waitUs * 1000 = g at hlate
      simp [hstage, hbehind, hsince, hlate]
    exact ⟨_, congrArg Host.Outcome.next (State.versionTimeout_fails hc hy hrun htainted hr hq hover), State.failedCmd_failCmd hc ..⟩

end Wait

end Sys2Proof.Machine
end

section
/-!
SGNL and FENC (R298, R327, R328): what delivery leaves of the Host Gate, the events, and the whole-step replay.
-/
namespace Sys2Proof.Machine

open Sys2Proof

/-! ### What a delivery changes of the Host Gate -/

/-- The event counter that the delivery of a command raises: once, for a command of its own (R288, R325). -/
def Cmd.raises (c : Cmd) : Option Nat := if !c.signalled && c.parent.isNone then c.sig else none

/-- The state whose event counter the delivery has raised. -/
def State.raised (s : State) (q : Nat) (c : Cmd) : State := c.raises.elim s fun e => s.signal e 1 q

/-- The event counters, the journal and the newest step are as they were. -/
structure State.SameJournal (s t : State) : Prop where
  events : t.hg.events = s.hg.events
  journal : t.hg.journal = s.hg.journal
  newest : t.hg.newest = s.hg.newest

theorem State.SameJournal.trans {s t u : State} (h : s.SameJournal t) (k : t.SameJournal u) : s.SameJournal u :=
  ⟨k.events.trans h.events, k.journal.trans h.journal, k.newest.trans h.newest⟩

theorem State.sameJournal_haltOn (s : State) (c : Cmd) (x : Status) : s.SameJournal (s.haltOn c x) := by
  unfold State.haltOn State.haltRing
  split
  · extract_lets r
    split
    · exact ⟨rfl, rfl, rfl⟩
    · exact ⟨by rw [State.arrive_hg]; rfl, by rw [State.arrive_hg]; rfl, by rw [State.arrive_hg]; rfl⟩
  · exact ⟨rfl, rfl, rfl⟩

/-- A delivery changes nothing of them but the counter that it raises. -/
theorem State.sameJournal_deliver {s : State} {q : Nat} {c : Cmd} (hc : s.cmd q = some c) :
    (s.raised q c).SameJournal (s.deliver q) := by
  unfold State.deliver
  rw [hc]
  dsimp -zeta only
  extract_lets once delivered signalled _ latched halted
  have hsignalled : (s.raised q c).SameJournal signalled := by
    have hraises : c.raises = if once then c.sig else none := rfl
    unfold signalled State.raised
    rw [hraises]
    split
    · cases c.sig <;> exact ⟨rfl, rfl, rfl⟩
    · exact ⟨rfl, rfl, rfl⟩
  have hlatched : (s.raised q c).SameJournal latched := by
    unfold latched
    split
    · exact hsignalled.trans ⟨rfl, rfl, rfl⟩
    · exact hsignalled
  have hhalted := hlatched.trans (latched.sameJournal_haltOn c (worst c.conds))
  exact hhalted.trans ⟨by rw [State.logRec_hg], by rw [State.logRec_hg], by rw [State.logRec_hg]⟩

section Events

variable {s : State} {q e : Nat} {c : Cmd}

theorem State.event_signal (hs : s.hg.events.Ordered) (e j : Nat) (v : W64) (q : Nat) :
    (s.signal e v q).event j = if j = e then s.event e + v else s.event j := Tab.get_set_of_rising hs ..

theorem State.events_signal (hs : s.hg.events.Ordered) (e : Nat) (v : W64) (q : Nat) : (s.signal e v q).hg.events.Ordered :=
  Tab.rising_set (d := fun _ => 0) hs ..

/-- A delivery adds 1 to the counter that the command raises. -/
theorem State.event_deliver (hs : s.hg.events.Ordered) (hc : s.cmd q = some c) :
    (s.deliver q).event e = s.event e + if c.raises = some e then 1 else 0 := by
  have hevent : (s.deliver q).event e = (s.raised q c).event e :=
    congrArg (fun l => Tab.get (fun _ => (0 : W64)) l e) (State.sameJournal_deliver hc).events
  rw [hevent]
  unfold State.raised
  cases c.raises with
  | none => simp
  | some k =>
    show (s.signal k 1 q).event e = _
    rw [State.event_signal hs]
    by_cases hk : e = k
    · simp [hk]
    · simp [hk, Ne.symm hk]

/-- SGNL sets its counter, where bit 0 of its flags asks for it, and adds VALUE (R327). -/
def State.sgnlRaised (s : State) (q : Nat) (c : Cmd) : State :=
  let e := c.u 16 2
  let v := BitVec.ofNat 64 (c.u 24 8)
  if bitAt (c.u8 18) 0 then ({ s with hg := { s.hg with events := Tab.set (fun _ => 0) s.hg.events e v } }).signal e 0 q
  else s.signal e v q

theorem State.sgnlRaised_spec (hs : s.hg.events.Ordered) (q : Nat) (c : Cmd) :
    (s.sgnlRaised q c).event (c.u 16 2) = (if bitAt (c.u8 18) 0 then 0 else s.event (c.u 16 2)) + BitVec.ofNat 64 (c.u 24 8) ∧
      (s.sgnlRaised q c).hg.events.Ordered ∧ (s.sgnlRaised q c).hg.cmds = s.hg.cmds := by
  unfold State.sgnlRaised
  extract_lets e v
  have hset : Tab.Ordered (Tab.set (fun _ => 0) s.hg.events e v) := Tab.rising_set hs e v
  split
  · refine ⟨?_, State.events_signal hset .., rfl⟩
    rw [State.event_signal hset, if_pos rfl]
    have hfirst : ({ s with hg := { s.hg with events := Tab.set (fun _ => 0) s.hg.events e v } } : State).event e = v :=
      (Tab.get_set_of_rising hs ..).trans (if_pos rfl)
    rw [hfirst]
    simp [v]
  · refine ⟨?_, State.events_signal hs .., rfl⟩
    rw [State.event_signal hs, if_pos rfl]

/-- SGNL behind delivered commands. -/
theorem State.runSgnl_raises (hc : s.runnable q 0x09 = some c)
    (hahead : (s.ahead c).all (fun d => d.stage != .failed && (if bitAt (c.u8 18) 1 then d.stage.isClear else d.stage.isDone)) = true)
    (hreplay : s.hg.replay = none) (hsignalled : c.signalled = false) : s.runSgnl q = (s.sgnlRaised q c).deliver q := by
  have hsound : worstFailed (s.ahead c) = none := worstFailed_of_sound fun d hd => by
    have h := List.all_eq_true.mp hahead d hd
    simp only [Bool.and_eq_true, bne_iff_ne] at h
    exact h.1
  have hdone : (s.ahead c).all (fun d => if bitAt (c.u8 18) 1 then d.stage.isClear else d.stage.isDone) = true :=
    List.all_eq_true.mpr fun d hd => by
      have h := List.all_eq_true.mp hahead d hd
      rw [Bool.and_eq_true] at h
      exact h.2
  unfold State.runSgnl State.sgnlRaised
  simp -zeta only [hc]
  extract_lets l e v
  rw [show worstFailed l = none from hsound]
  dsimp only
  rw [if_neg (not_not.mpr hdone), if_neg (by simp [hreplay, hsignalled])]
  split <;> rfl

end Events

/-! ### FENC -/

theorem State.fenc_cmd {s : State} {q f : Nat} {c : Cmd} (h : s.fenc q f = some c) : s.cmd q = some c := by
  unfold State.fenc at h
  split at h
  next d hd =>
    split at h
    · cases h
      exact (State.runnable_cmd hd).1
    · cases h
  next => cases h

theorem State.fencs_cmd {s : State} {q f g : Nat} {c : Cmd} (h : (s.fenc q f).or (s.fenc q g) = some c) : s.cmd q = some c := by
  obtain h | ⟨-, h⟩ := Option.or_eq_some_iff.mp h
  · exact State.fenc_cmd h
  · exact State.fenc_cmd h

/-- What RESTART releases stays released when the FENC is delivered. -/
theorem State.fencRestart_deliver {s : State} {q : Nat} {c : Cmd} (hc : s.cmd q = some c) :
    (∃ d, (s.fencRestart.deliver q).cmd q = some d ∧ d.stage = .delivered) ∧ (s.fencRestart.deliver q).hg.journal = [] ∧
      (s.fencRestart.deliver q).hg.newest = none ∧ (s.fencRestart.deliver q).ham.entries = [] ∧
        (s.fencRestart.deliver q).xe.parts = [] := by
  have hcmds : s.fencRestart.hg.cmds = s.hg.cmds := by unfold State.fencRestart; rw [(State.applyRegion_frame _).hg_eq rfl]
  have hjournal : s.fencRestart.hg.journal = [] := by unfold State.fencRestart; rw [(State.applyRegion_frame _).hg_eq rfl]
  have hnewest : s.fencRestart.hg.newest = none := by unfold State.fencRestart; rw [(State.applyRegion_frame _).hg_eq rfl]
  have hcmd : s.fencRestart.cmd q = some c := (State.cmd_of_cmds hcmds q).trans hc
  have hdelivered := State.sameJournal_deliver hcmd
  have hraised : s.fencRestart.hg.journal = (s.fencRestart.raised q c).hg.journal ∧
      s.fencRestart.hg.newest = (s.fencRestart.raised q c).hg.newest := by
    unfold State.raised
    cases c.raises <;> exact ⟨rfl, rfl⟩
  refine ⟨⟨_, State.cmd_deliver hcmd, rfl⟩, ?_, ?_, ?_, ?_⟩
  · exact hdelivered.journal.trans (hraised.1.symm.trans hjournal)
  · exact hdelivered.newest.trans (hraised.2.symm.trans hnewest)
  · rw [(State.deliver_frame ..).ham_eq rfl]
    exact State.applyRegion_entries _
  · have hxe : (s.fencRestart.deliver q).xe = s.fencRestart.xe := (State.deliver_frame ..).same .xe (by decide)
    rw [hxe]
    have happlied : s.fencRestart.xe = _ := (State.applyRegion_frame _).same .xe (by decide)
    rw [happlied]

/-! ### The whole-step replay (R298) -/

/-- Every command with the number `i` is accepted and has yet to start. -/
def State.AcceptedNumber (s : State) (i : Nat) : Prop := ∀ d ∈ s.hg.cmds, d.seq = some i → d.stage = .accepted

theorem State.acceptedNumber_again (s : State) (i : Nat) : ((s.dropRun i).updCmd i Cmd.again).AcceptedNumber i := by
  intro d hd hseq
  obtain ⟨b, -, rfl⟩ := List.mem_map.mp hd
  split at hseq
  next h => rw [if_pos h]; rfl
  next h => exact absurd (beq_iff_eq.mpr hseq) h

theorem State.AcceptedNumber.again {s : State} {i : Nat} (h : s.AcceptedNumber i) (j : Nat) :
    ((s.dropRun j).updCmd j Cmd.again).AcceptedNumber i := by
  intro d hd hseq
  obtain ⟨b, hb, rfl⟩ := List.mem_map.mp hd
  split at hseq
  next hj => rw [if_pos hj]; rfl
  next hj =>
    rw [if_neg hj]
    exact h b (List.mem_filter.mp hb).1 hseq

/-- The commands that are to be replayed are accepted again. -/
theorem State.acceptedNumber_replayed {i : Nat} : ∀ {l : List Nat} (s : State), i ∈ l ∨ s.AcceptedNumber i →
    (l.foldl (fun (u : State) j => (u.dropRun j).updCmd j Cmd.again) s).AcceptedNumber i
  | [], _, h => h.resolve_left (by simp)
  | j :: l, s, h => by
    refine State.acceptedNumber_replayed (l := l) _ ?_
    obtain h | h := h
    · obtain rfl | h := List.mem_cons.mp h
      · exact .inr (s.acceptedNumber_again i)
      · exact .inl h
    · exact .inr (h.again j)

/-- The end of a replay leaves the marks of steps, where none of the replayed commands has ended. -/
theorem State.replayEnd_steps {s : State} {w : WholeReplay} (hw : s.hg.replay = some w)
    (h : ∀ i ∈ w.todo, ∀ d ∈ s.hg.cmds, d.seq = some i → d.stage = .accepted ∨ d.stage = .running) :
    s.replayEnd.hg.steps = s.hg.steps := by
  unfold State.replayEnd
  rw [hw]
  dsimp -zeta only
  extract_lets l t s1
  split
  next hall =>
    have hl : l = [] := by
      refine List.eq_nil_iff_forall_not_mem.mpr fun d hd => ?_
      obtain ⟨i, hi, hfound⟩ := List.mem_filterMap.mp hd
      have hseq : d.seq = some i := by simpa using List.find?_some (p := fun c : Cmd => c.seq == some i) hfound
      have hend := List.all_eq_true.mp hall d hd
      obtain hstage | hstage := h i hi d (List.mem_of_find?_eq_some hfound) hseq
      · simp [hstage, Stage.isClear] at hend
      · simp [hstage, Stage.isClear] at hend
    have ht : t.fails = false := by simp only [t, hl]; rfl
    rw [if_neg (by simp [ht]), State.deliver_steps]
    rfl
  next => rfl

theorem State.stepInfo_setStep {s : State} (hs : s.hg.steps.Ordered) (n j : Nat) (i : StepInfo) :
    (s.setStep n i).stepInfo j = if j = n then i else s.stepInfo j := Tab.get_set_of_rising hs ..

/-- A replay that can start reopens its two steps. -/
theorem State.replayStart_opens {s : State} (hs : s.Inv) {q n : Nat} (hread : s.JournalReadable)
    (hkept : (s.stepInfo n).unreplayable = false) :
    ((s.replayStart q n).stepInfo n).mark = .open ∧ ((s.replayStart q n).stepInfo (n + 1)).mark = .open := by
  unfold State.replayStart
  rw [State.readJournal_of_readable hread]
  extract_lets s' mine todo s1 open_ s2 _ _ _ s3
  rw [if_neg (by simp [s', hkept])]
  have hordered : s1.hg.steps.Ordered := by
    have h : s1.hg.steps = s.hg.steps :=
      State.foldl_steps (f := fun (u : State) i => (u.dropRun i).updCmd i Cmd.again) (fun _ _ => rfl) todo s
    rw [h]
    exact hs.tabs.hg.2.2.2.2
  have hopen : ∀ j, j = n ∨ j = n + 1 → (s2.stepInfo j).mark = .open := by
    intro j hj
    have hmark (u : State) (hu : u.hg.steps.Ordered) (k : Nat) : (open_ u k).hg.steps.Ordered ∧
        ∀ i, i = k ∨ (u.stepInfo i).mark = .open → ((open_ u k).stepInfo i).mark = .open := by
      refine ⟨Tab.rising_set (d := fun _ => StepInfo.initial) hu .., fun i hi => ?_⟩
      rw [State.stepInfo_setStep hu]
      split
      · rfl
      next h => exact hi.resolve_left h
    obtain ⟨hfirst, hopened⟩ := hmark s1 hordered n
    exact (hmark _ hfirst (n + 1)).2 j (hj.symm.imp_right fun h => hopened j (.inl h))
  have hsteps : (s3.updCmd q fun c => { c with stage := .running }).replayEnd.hg.steps = s2.hg.steps := by
    refine State.replayEnd_steps (w := { fenc := q, step := n, todo := todo }) rfl fun i hi d hd hseq => ?_
    obtain ⟨b, hb, rfl⟩ := List.mem_map.mp hd
    split at hseq
    next h => exact .inr (by rw [if_pos h])
    next h =>
      rw [if_neg h]
      exact .inl (State.acceptedNumber_replayed s' (.inl hi) b hb hseq)
  rw [State.stepInfo_of_steps hsteps, State.stepInfo_of_steps hsteps]
  exact ⟨hopen n (.inl rfl), hopen (n + 1) (.inr rfl)⟩

/-- Settles O16: SGNL moves its counter, FENC is delivered, releases, or reopens. -/
theorem signalsAndFencesAct : Obligations.SignalsAndFencesAct := by
  refine ⟨?sgnl, ?fenc, ?all, ?restart, ?replay⟩
  case sgnl =>
    intro s q c hs hc hahead hreplay hsignalled
    obtain ⟨hevent, hordered, hcmds⟩ := State.sgnlRaised_spec hs.tabs.hg.2.2.1 q c
    have hcmd : (s.sgnlRaised q c).cmd q = some c := (State.cmd_of_cmds hcmds q).trans (State.runnable_cmd hc).1
    refine ⟨_, congrArg Host.Outcome.next (State.runSgnl_raises hc hahead hreplay hsignalled), ⟨_, State.cmd_deliver hcmd, rfl⟩, ?_⟩
    rw [State.event_deliver hordered hcmd, hevent]
    cases hp : c.parent <;> simp [Cmd.raises, hsignalled, hp]
  case fenc =>
    intro s q c hc
    refine ⟨s.deliver q, ?_, _, State.cmd_deliver (State.fenc_cmd hc), rfl⟩
    simp only [exec, execFenc, hc]
  case all =>
    intro s q c hc
    refine ⟨s.deliver q, ?_, _, State.cmd_deliver (State.fenc_cmd hc), rfl⟩
    simp only [exec, execFencAll, hc]
  case restart =>
    intro s q c hc
    refine ⟨s.fencRestart.deliver q, ?_, State.fencRestart_deliver (State.fencs_cmd hc)⟩
    simp only [exec, execFencRestart, hc]
  case replay =>
    intro s q c hs hc hfirst hsecond hkept hread
    refine ⟨s.replayStart q (c.u 20 4), ?_, State.replayStart_opens hs (fun p hp hbad hplace => hread p hp hplace hbad) hkept⟩
    simp only [exec, execFencReplay, hc, hfirst, hsecond, Bool.false_eq_true, or_self, if_false]

end Sys2Proof.Machine
end

section
/-!
The Mover's regions and data (R346 to R349): the places of a region's bytes, the data of a transfer, and what writing it leaves.
-/
namespace Sys2Proof.Machine

open Sys2Proof

/-! ### The pieces of a region (R346) -/

/-- Byte `i` of the region lies at `i` from the start of its first piece, or, past its wrap, in its second. -/
inductive PiecesAre (a w n : Nat) : List (Nat × Nat) → Prop where
  | one (h : ∀ i, i < n → wrapAddr a w i = a + i) : PiecesAre a w n [(a, n)]
  | two (room base : Nat) (hroom : room < n) (hbelow : base + (n - room) ≤ a) (h : ∀ i, i < room → wrapAddr a w i = a + i)
      (hwrap : ∀ i, room ≤ i → i < n → wrapAddr a w i = base + (i - room)) : PiecesAre a w n [(a, room), (base, n - room)]

theorem piecesAre_pieces {a w n : Nat} (hn : w = 0 ∨ n ≤ 2 ^ w) : PiecesAre a w n (pieces a w n) := by
  unfold pieces
  by_cases hw : w = 0
  · rw [if_pos hw]
    exact .one fun i _ => if_pos hw
  · have hwrap (i : Nat) : wrapAddr a w i = a / 2 ^ w * 2 ^ w + (a + i) % 2 ^ w := if_neg hw
    have hlen : n ≤ 2 ^ w := hn.resolve_left hw
    have hpos : 0 < 2 ^ w := Nat.two_pow_pos w
    rw [if_neg hw]
    generalize 2 ^ w = m at *
    extract_lets room
    have hdiv : a = a / m * m + a % m := (Nat.div_add_mod' a m).symm
    have hlow : a % m < m := Nat.mod_lt _ hpos
    have hfirst (i : Nat) (hi : i < room) : wrapAddr a w i = a + i := by
      have hmod : (a + i) % m = a % m + i := by
        rw [Nat.add_mod, Nat.mod_eq_of_lt (by omega : i < m), Nat.mod_eq_of_lt (by omega)]
      rw [hwrap, hmod]
      omega
    split
    next hfits => exact .one fun i hi => hfirst i (by omega)
    next hover =>
      rw [Nat.min_eq_left (by omega)]
      refine .two room _ (by omega) (by omega) hfirst fun i hi hin => ?_
      have hmod : (a + i) % m = i - room := by
        rw [Nat.add_mod, Nat.mod_eq_of_lt (by omega : i < m), Nat.mod_eq_sub_mod (by omega), Nat.mod_eq_of_lt (by omega)]
        omega
      rw [hwrap, hmod]

/-! ### The data of a transfer (R347, R348) -/

/-- Byte `i` of what a transfer writes. -/
def State.transferByte (s : State) (k : MoverKind) (t : Transfer) (i : Nat) : Byte :=
  match k with
  | .fill => BitVec.ofNat 8 (t.src / 256 ^ (i % 8))
  | _ => s.rdByte (wrapAddr t.src t.swrap i)

section Data

variable {s u : State} {k : MoverKind} {t : Transfer}

@[simp] theorem State.transferData_length (s : State) (k : MoverKind) (t : Transfer) (lo n : Nat) :
    (s.transferData k t lo n).length = n := by
  induction n generalizing lo with
  | zero => rfl
  | succ n ih => exact congrArg (· + 1) (ih (lo + 1))

theorem State.transferData_getElem {lo n i : Nat} (hi : i < (s.transferData k t lo n).length) :
    (s.transferData k t lo n)[i] = s.transferByte k t (lo + i) := by
  induction n generalizing lo i with
  | zero => cases hi
  | succ n ih =>
    cases i with
    | zero => rfl
    | succ i =>
      have hrest : (s.transferData k t (lo + 1) n)[i]'(Nat.lt_of_succ_lt_succ hi) = s.transferByte k t (lo + 1 + i) := ih _
      rwa [Nat.add_right_comm] at hrest

theorem State.SameData.transferByte (h : s.SameData u) (k : MoverKind) (t : Transfer) (i : Nat) :
    u.transferByte k t i = s.transferByte k t i := by
  unfold State.transferByte
  rw [h.rdByte]

theorem State.SameData.transferData (h : s.SameData u) (k : MoverKind) (t : Transfer) (lo n : Nat) :
    u.transferData k t lo n = s.transferData k t lo n := by
  refine List.ext_getElem (by simp) fun i hi hj => ?_
  rw [State.transferData_getElem, State.transferData_getElem, h.transferByte]

end Data

/-! ### Writing it -/

theorem State.writePieces_cmds (s : State) (ps : List (Nat × Nat)) (l : List Byte) : (s.writePieces ps l).hg.cmds = s.hg.cmds := by
  induction ps generalizing s l with
  | nil => rfl
  | cons p ps ih => exact (ih ..).trans (State.wr_cmds ..)

/-- The bytes of a region that has been written. -/
theorem State.rdByte_writePieces {s v : State} (hs : s.Inv) {a w n : Nat} {l : List Byte} (hl : l.length = n)
    (hn : w = 0 ∨ n ≤ 2 ^ w) (hgood : ∀ p ∈ pieces a w n, v.rangeBad p.1 p.2 = false) :
    (∀ i (hi : i < l.length), (s.writePieces (pieces a w n) l).rdByte (wrapAddr a w i) = l[i]) ∧
      ∀ j, (∀ i, i < n → j ≠ wrapAddr a w i) → (s.writePieces (pieces a w n) l).rdByte j = s.rdByte j := by
  have hpieces := piecesAre_pieces (a := a) hn
  generalize pieces a w n = ps at hgood hpieces
  subst hl
  cases hpieces with
  | one h =>
    have hside (i : Nat) (hi : i < l.length) : isHost a = isHost (a + i) := (State.isHost_add (hgood _ (.head _)) hi).symm
    simp only [State.writePieces, List.take_length]
    refine ⟨fun i hi => ?_, fun j hj => ?_⟩
    · rw [h i hi]
      exact State.rdByte_wr hs hi (hside i hi)
    · refine State.rdByte_wr_out hs (Classical.not_not.mp fun hin => hj (j - a) (by omega) ?_)
      rw [h _ (by omega)]
      omega
  | two room base hroom hbelow h hwrap =>
    have hfirst (i : Nat) (hi : i < room) : isHost a = isHost (a + i) := (State.isHost_add (hgood (a, room) (.head _)) hi).symm
    have hsecond (i : Nat) (hi : i < l.length - room) : isHost base = isHost (base + i) :=
      (State.isHost_add (hgood (base, l.length - room) (.tail _ (.head _))) hi).symm
    have htake : (l.take room).length = room := by simp; omega
    have hdrop : (l.drop room).length = l.length - room := by simp
    have hwritten : (s.wr a (l.take room)).Inv := (State.wr_frame ..).inv hs
    have hwhole : (l.drop room).take (l.length - room) = l.drop room := by rw [← hdrop, List.take_length]
    simp only [State.writePieces, hwhole]
    refine ⟨fun i hi => ?_, fun j hj => ?_⟩
    · by_cases hin : i < room
      · rw [h i hin, State.rdByte_wr_out hwritten (by omega), State.rdByte_wr hs (by omega) (hfirst i hin), List.getElem_take]
      · rw [hwrap i (by omega) hi, State.rdByte_wr hwritten (by omega) (hsecond _ (by omega)), List.getElem_drop]
        congr 1
        omega
    · have hout : j < base ∨ base + (l.drop room).length ≤ j := Classical.not_not.mp fun hin =>
        hj (j - base + room) (by omega) (by rw [hwrap _ (by omega) (by omega)]; omega)
      rw [State.rdByte_wr_out hwritten hout]
      refine State.rdByte_wr_out hs (Classical.not_not.mp fun hin => hj (j - a) (by omega) ?_)
      rw [h _ (by omega)]
      omega

/-! ### Counting it (Table 12.4) -/

/-- Data and commands are as they were. -/
structure State.KeepsData (s t : State) : Prop where
  data : s.SameData t
  cmds : t.hg.cmds = s.hg.cmds

namespace State.KeepsData

variable {s t u : State}

theorem refl : s.KeepsData s := ⟨⟨rfl, rfl⟩, rfl⟩

theorem trans (h : s.KeepsData t) (k : t.KeepsData u) : s.KeepsData u := ⟨h.data.trans k.data, k.cmds.trans h.cmds⟩

theorem of_frame {l : List Comp} (h : Frame l s t) (hms : l.contains .ms = false) (hcmds : t.hg.cmds = s.hg.cmds) : s.KeepsData t :=
  ⟨h.sameData hms, hcmds⟩

theorem of_silent {l : List Comp} (h : Frame l s t) (hms : l.contains .ms = false) (hhg : l.contains .hg = false) : s.KeepsData t :=
  of_frame h hms (congrArg HostGate.cmds (h.hg_eq hhg))

theorem foldl {α : Type} {f : State → α → State} (hf : ∀ (v : State) x, v.KeepsData (f v x)) (l : List α) (s : State) :
    s.KeepsData (l.foldl f s) :=
  List.foldlRecOn (motive := fun v : State => s.KeepsData v) l f refl fun v hv x _ => hv.trans (hf v x)

theorem noteReads (s : State) (l : List (Nat × Nat)) : s.KeepsData (s.noteReads l) := ⟨State.noteReads_data .., State.noteReads_cmds ..⟩

theorem traffic (s : State) (q : Option Nat) (w : Bool) (a n : Nat) : s.KeepsData (s.traffic q w a n) :=
  of_frame (State.traffic_frame ..) rfl (State.traffic_cmds ..)

theorem bump (s : State) (off n : Nat) : s.KeepsData (s.bump off n) := ⟨⟨rfl, rfl⟩, rfl⟩

theorem setChan (s : State) (c : Nat) (h : Channel) : s.KeepsData (s.setChan c h) := ⟨⟨rfl, rfl⟩, rfl⟩

theorem logTransfer (s : State) (c : Nat) (q : Option Nat) (sts : Nat) : s.KeepsData (s.logTransfer c q sts) :=
  of_silent (State.logTransfer_frame ..) rfl rfl

theorem countMove (s : State) (k : MoverKind) (q : Option Nat) (t : Transfer) (n : Nat) : s.KeepsData (s.countMove k q t n) := by
  have hread (v : State) (p : Nat × Nat) : v.KeepsData ((v.noteReads [p]).traffic q false p.1 p.2) :=
    (noteReads v [p]).trans (traffic ..)
  have hwrite (v : State) (p : Nat × Nat) :
      v.KeepsData ((q.elim v fun i => v.noteWrite i p.1 p.2).traffic q true p.1 p.2) := by
    refine trans ?_ (traffic ..)
    cases q with
    | none => exact refl
    | some i => exact ⟨⟨rfl, rfl⟩, rfl⟩
  unfold State.countMove
  extract_lets counted
  have hcounted : s.KeepsData counted := by
    unfold counted
    split
    · exact refl
    · exact (foldl hread _ s).trans (bump ..)
  split
  · exact hcounted.trans ((foldl hread _ _).trans (bump ..))
  · exact hcounted.trans ((foldl hwrite _ _).trans (bump ..))

end State.KeepsData

end Sys2Proof.Machine
end

section
/-!
A Mover channel's turns (R342, R347 to R352): an inline transfer is taken, copied or compared, and its command ends.
-/
namespace Sys2Proof.Machine

open Sys2Proof

/-! ### The turns of a channel -/

/-- An item of MOVE, FILL or CMPR, whose transfer stands in its descriptor. -/
structure MoverItem.Inline (it : MoverItem) : Prop where
  kind : it.kind = .move ∨ it.kind = .fill ∨ it.kind = .cmpr
  list : it.listAddr = none

section Turns

variable {s t : State} {n : Nat} {it : MoverItem}

theorem State.chanRun_again (h : s.chanTurn n = .again t) (k : Nat) : s.chanRun n (k + 1) = t.chanRun n k := by
  simp only [State.chanRun, h]

theorem State.chanRun_rest (h : s.chanTurn n = .rest t) (k : Nat) : s.chanRun n (k + 1) = t := by
  simp only [State.chanRun, h]

/-- A channel without work rests. -/
theorem State.chanTurn_idle (hcurrent : (s.chan n).current = none) (hqueue : (s.chan n).queue = []) : s.chanTurn n = .rest s := by
  unfold State.chanTurn
  simp only [hcurrent, hqueue]

/-- The channel takes the one item of its queue. -/
theorem State.chanTurn_take (hcurrent : (s.chan n).current = none) (hqueue : (s.chan n).queue = [it])
    (hhalted : (s.chan n).halted = false) (hin : it.Inline) (hok : it.transfers.all (s.transferOk it.kind) = true) :
    s.chanTurn n = .again (s.setChan n { s.chan n with current := some it, queue := [] }) := by
  have hwait : s.heldBack [] = false := by simp [State.heldBack]
  have htake (count : Nat) : s.takeList it count = .inr (some it.transfers) := by
    unfold State.takeList
    rw [hin.list]
    exact congrArg Sum.inr (if_pos hok)
  unfold State.chanTurn
  obtain ⟨kind, seq, asker, listAddr, transfers, done, issued, before, failAddr, failUncorr, queuedAt⟩ := it
  obtain ⟨rfl | rfl | rfl, rfl⟩ := hin <;> simp [hcurrent, hqueue, hhalted, htake, hwait, State.noteReads]

/-- An item whose transfers have ended ends its command. -/
theorem State.chanTurn_end (hcurrent : (s.chan n).current = some it) (hin : it.Inline) (hdone : it.transfers[it.done]? = none) :
    s.chanTurn n = .again ((s.setChan n { s.chan n with current := none }).endItem it) := by
  unfold State.chanTurn
  obtain hk | hk | hk := hin.kind <;> simp only [hcurrent, hk, hdone]

/-- The last item of a channel, none of whose requests failed, is delivered, and the channel rests. -/
theorem State.chanRun_ends {q : Nat} (hs : s.Inv) (hcurrent : (s.chan n).current = some it) (hqueue : (s.chan n).queue = [])
    (hin : it.Inline) (hdone : it.transfers[it.done]? = none) (hsound : it.failAddr = none) (hseq : it.seq = some q) (k : Nat) :
    s.chanRun n (k + 2) = (s.setChan n { s.chan n with current := none }).deliver q := by
  have hend (u : State) : u.endItem it = u.deliver q := by
    unfold State.endItem
    rw [hseq]
    simp only [hsound]
  have hchan : ((s.setChan n { s.chan n with current := none }).deliver q).chan n = { s.chan n with current := none } := by
    have hmv : ((s.setChan n { s.chan n with current := none }).deliver q).mv = (s.setChan n { s.chan n with current := none }).mv :=
      (State.deliver_frame ..).same .mv (by decide)
    unfold State.chan at hmv ⊢
    rw [hmv]
    exact State.chan_setChan_same hs ..
  rw [State.chanRun_again (State.chanTurn_end hcurrent hin hdone), hend]
  exact State.chanRun_rest (State.chanTurn_idle (congrArg Channel.current hchan) ((congrArg Channel.queue hchan).trans hqueue)) k

end Turns

/-! ### An inline transfer is taken -/

namespace State.SameAccess

variable {s t : State}

theorem transferOk (h : s.SameAccess t) (k : MoverKind) (x : Transfer) : t.transferOk k x = s.transferOk k x := by
  have hbad : t.pieceBad = s.pieceBad := funext fun p => h.rangeBad p.1 p.2
  unfold State.transferOk State.destOk State.sourceOk
  rw [hbad]

theorem transferFail (h : s.SameAccess t) (k : MoverKind) (x : Transfer) : t.transferFail k x = s.transferFail k x := by
  unfold State.transferFail
  simp only [h.rdFails]

end State.SameAccess

section Start

variable {s : State} {q : Nat} {c : Cmd} {x : Transfer} {k : MoverKind}

/-- The item of an inline transfer. -/
theorem moverItem_inline (hk : k = .move ∨ k = .fill ∨ k = .cmpr) (hlist : bitAt (c.u8 17) 0 = false) (now : Nat) :
    (moverItem c k now).Inline := ⟨hk, by simp [moverItem, hlist]⟩

theorem moverItem_transfers (hlist : bitAt (c.u8 17) 0 = false) (now : Nat) :
    (moverItem c k now).transfers = [transferOf (c.slot.drop 32)] := by simp [moverItem, hlist]

/-- The state in which the command runs and its item is queued alone. -/
def State.moverQueued (s : State) (q : Nat) (c : Cmd) (k : MoverKind) : State :=
  (s.updCmd q fun c => { c with stage := .running }).setChan (c.u8 16) { s.chan (c.u8 16) with queue := [moverItem c k s.now] }

/-- The state in which the channel has taken the item. -/
def State.moverTaken (s : State) (q : Nat) (c : Cmd) (k : MoverKind) : State :=
  (s.moverQueued q c k).setChan (c.u8 16)
    { (s.moverQueued q c k).chan (c.u8 16) with current := some (moverItem c k s.now), queue := [] }

theorem State.runnable_seq {op : Nat} (hc : s.runnable q op = some c) : c.seq = some q := by
  have hfound := (State.runnable_cmd hc).1
  simpa using List.find?_some (p := fun c : Cmd => c.seq == some q) hfound

theorem State.cmd_moverTaken {op : Nat} (hc : s.runnable q op = some c) : (s.moverTaken q c k).cmd q = some { c with stage := .running } :=
  (State.cmd_updCmd (fun c => { c with stage := .running }) fun _ => rfl).trans (congrArg (Option.map _) (State.runnable_cmd hc).1)

theorem State.inv_moverQueued (hs : s.Inv) : (s.moverQueued q c k).Inv :=
  (State.setChan_frame ..).inv ((State.updCmd_frame ..).inv hs)

theorem State.chan_moverQueued (hs : s.Inv) : (s.moverQueued q c k).chan (c.u8 16) =
    { s.chan (c.u8 16) with queue := [moverItem c k s.now] } :=
  State.chan_setChan_same ((State.updCmd_frame ..).inv hs) ..

/-- Whether an access waits, fails or is refused does not depend on the commands and the channels. -/
theorem State.access_moverQueued : s.SameAccess (s.moverQueued q c k) := ⟨⟨_, _, rfl⟩, rfl, rfl, rfl⟩

theorem State.inv_moverTaken (hs : s.Inv) : (s.moverTaken q c k).Inv := (State.setChan_frame ..).inv (State.inv_moverQueued hs)

theorem State.access_moverTaken : s.SameAccess (s.moverTaken q c k) := ⟨⟨_, _, rfl⟩, rfl, rfl, rfl⟩

theorem State.chan_moverTaken (hs : s.Inv) : (s.moverTaken q c k).chan (c.u8 16) =
    { s.chan (c.u8 16) with current := some (moverItem c k s.now), queue := [] } := by
  rw [State.moverTaken, State.chan_setChan_same (State.inv_moverQueued hs), State.chan_moverQueued hs]

/-- A channel that has nothing else to do takes the transfer at once. -/
theorem State.runMover_takes {op : Nat} (hs : s.Inv) (hc : s.runnable q op = some c) (hk : k = .move ∨ k = .fill ∨ k = .cmpr)
    (hlist : bitAt (c.u8 17) 0 = false) (hcurrent : (s.chan (c.u8 16)).current = none) (hqueue : (s.chan (c.u8 16)).queue = [])
    (hhalted : (s.chan (c.u8 16)).halted = false) (hok : s.transferOk k (transferOf (c.slot.drop 32)) = true) :
    ∃ m, s.runMover q op k = (s.moverTaken q c k).chanRun (c.u8 16) (m + 3) := by
  have hchan := State.chan_moverQueued (q := q) (c := c) (k := k) hs
  have hfuel : 4 ≤ (s.moverQueued q c k).chanFuel (c.u8 16) := by
    simp only [State.chanFuel, hchan, List.map_cons, List.sum_cons, moverItem_transfers hlist, List.length_singleton]
    omega
  have hturn : (s.moverQueued q c k).chanTurn (c.u8 16) = .again (s.moverTaken q c k) := by
    refine State.chanTurn_take (by rw [hchan]; exact hcurrent) (by rw [hchan]) (by rw [hchan]; exact hhalted)
      (moverItem_inline hk hlist s.now) ?_
    rw [moverItem_transfers hlist, List.all_cons, List.all_nil, Bool.and_true, State.access_moverQueued.transferOk]
    exact hok
  have hrun : s.runMover q op k = (s.moverQueued q c k).chanGo (c.u8 16) := by
    simp only [State.runMover, hc]
    have hsame : (s.updCmd q fun c => { c with stage := .running }).chan (c.u8 16) = s.chan (c.u8 16) := rfl
    rw [hsame, hqueue]
    rfl
  obtain ⟨m, hm⟩ := Nat.exists_eq_add_of_le hfuel
  rw [hrun, State.chanGo, hm, Nat.add_comm]
  exact ⟨m, State.chanRun_again hturn (m + 3)⟩

end Start

/-! ### MOVE and FILL (R347, R348, R351) -/

/-- The state in which a transfer's bytes have been counted and written. -/
def State.copied (s : State) (k : MoverKind) (q : Option Nat) (t : Transfer) : State :=
  (s.countMove k q t t.length).writePieces (pieces t.dst t.dwrap t.length) (s.transferData k t 0 t.length)

section Copy

variable {s : State} {n q : Nat} {it : MoverItem} {x : Transfer} {k : MoverKind} {c : Cmd}

/-- A transfer into device memory has ended; one into host memory waits for its read-back. -/
theorem State.chanTurn_copy (hcurrent : (s.chan n).current = some it) (hk : it.kind = .move ∨ it.kind = .fill)
    (hlist : it.listAddr = none) (hx : it.transfers[it.done]? = some x) (hissued : it.issued = false)
    (hheld : s.heldBack (x.ranges it.kind) = false) (hsound : s.transferFail it.kind x = none) :
    (isHost x.dst = true ∧ ∃ h, s.chanTurn n = .rest ((s.copied it.kind it.seq x).setChan n h)) ∨
      (isHost x.dst = false ∧ s.chanTurn n = .again (((s.copied it.kind it.seq x).setChan n
        { s.chan n with current := some { it with done := it.done + 1 }, consec := 0 }).logTransfer n it.seq 1)) := by
  unfold State.chanTurn State.copied
  obtain ⟨kind, seq, asker, listAddr, transfers, done, issued, before, failAddr, failUncorr, queuedAt⟩ := it
  obtain rfl : listAddr = none := hlist
  obtain rfl : issued = false := hissued
  cases hdst : isHost x.dst
  · refine .inr ⟨rfl, ?_⟩
    obtain rfl | rfl := hk <;> simp_all [State.writeSts]
  · refine .inl ⟨rfl, ?_⟩
    obtain rfl | rfl := hk <;> simp_all

theorem State.copied_frame (s : State) (k : MoverKind) (r : Option Nat) (x : Transfer) :
    Frame [.ms, .hg, .ld, .irq, .pcie, .im, .fab, .ctrs, .free, .out] s (s.copied k r x) :=
  (State.countMove_frame ..).comp (State.writePieces_frame ..) rfl

theorem State.copied_cmds (s : State) (k : MoverKind) (r : Option Nat) (x : Transfer) : (s.copied k r x).hg.cmds = s.hg.cmds :=
  (State.writePieces_cmds ..).trans (State.KeepsData.countMove ..).cmds

/-- A transfer that passes its checks writes its bytes to its destination, and no others. -/
theorem State.rdByte_copied {u : State} (hu : u.Inv) (haccess : s.SameAccess u) (hok : s.transferOk k x = true)
    (r : Option Nat) : (∀ i, i < x.length → (u.copied k r x).rdByte (wrapAddr x.dst x.dwrap i) = s.transferByte k x i) ∧
      ∀ j, (∀ i, i < x.length → j ≠ wrapAddr x.dst x.dwrap i) → (u.copied k r x).rdByte j = s.rdByte j := by
  have hcounted := State.KeepsData.countMove u k r x x.length
  have hinv : (u.countMove k r x x.length).Inv := (State.countMove_frame ..).inv hu
  simp only [State.transferOk, State.destOk, Bool.and_eq_true, Bool.or_eq_true, beq_iff_eq, decide_eq_true_eq,
    Bool.not_eq_true', List.any_eq_false, Bool.not_eq_true] at hok
  obtain ⟨⟨⟨⟨⟨⟨-, -⟩, -⟩, hwrap⟩, hdest⟩, -⟩, -⟩ := hok
  have hgood : ∀ p ∈ pieces x.dst x.dwrap x.length, s.rangeBad p.1 p.2 = false := hdest
  have hlen := State.transferData_length u k x 0 x.length
  obtain ⟨hin, hout⟩ := State.rdByte_writePieces hinv hlen hwrap hgood
  refine ⟨fun i hi => (hin i (by rw [hlen]; exact hi)).trans ?_, fun j hj => ?_⟩
  · rw [State.transferData_getElem, Nat.zero_add, haccess.data.transferByte]
  · rw [State.copied, hout j hj, hcounted.data.rdByte, haccess.data.rdByte]

/-- The channel after a transfer that has been noted. -/
theorem State.chan_logTransfer {v : State} (hv : v.Inv) (n : Nat) (h : Channel) (r : Option Nat) (sts : Nat) :
    ((v.setChan n h).logTransfer n r sts).chan n = h := by
  have hmv : ((v.setChan n h).logTransfer n r sts).mv = (v.setChan n h).mv := (State.logTransfer_frame ..).same .mv (by decide)
  unfold State.chan at hmv ⊢
  rw [hmv]
  exact State.chan_setChan_same hv ..

/-- A transfer that has been noted, the last of its item, delivers the command. -/
theorem State.noted_ends {v : State} {h : Channel} (hv : v.Inv) (hcmd : v.cmd q = some c) (hcurrent : h.current = some it)
    (hqueue : h.queue = []) (hin : it.Inline) (hdone : it.transfers[it.done]? = none) (hsound : it.failAddr = none)
    (hseq : it.seq = some q) (r : Option Nat) (sts m : Nat) :
    v.SameData (((v.setChan n h).logTransfer n r sts).chanRun n (m + 2)) ∧
      (((v.setChan n h).logTransfer n r sts).chanRun n (m + 2)).mv =
        (((v.setChan n h).logTransfer n r sts).setChan n { h with current := none }).mv ∧
      ∃ d, (((v.setChan n h).logTransfer n r sts).chanRun n (m + 2)).cmd q = some d ∧ d.stage = .delivered ∧ d.conds = c.conds := by
  have hchan := State.chan_logTransfer hv n h r sts
  have hkeeps : v.KeepsData ((v.setChan n h).logTransfer n r sts) := (State.KeepsData.setChan ..).trans (.logTransfer ..)
  have hinv : ((v.setChan n h).logTransfer n r sts).Inv := (State.logTransfer_frame ..).inv ((State.setChan_frame ..).inv hv)
  generalize (v.setChan n h).logTransfer n r sts = u at *
  have hfree : u.KeepsData (u.setChan n { h with current := none }) := .setChan ..
  have hlast : (u.setChan n { h with current := none }).cmd q = some c :=
    (State.cmd_of_cmds (hkeeps.trans hfree).cmds q).trans hcmd
  rw [State.chanRun_ends hinv (by rw [hchan]; exact hcurrent) (by rw [hchan]; exact hqueue) hin hdone hsound hseq, hchan]
  refine ⟨(hkeeps.trans hfree).data.trans ((State.deliver_frame ..).sameData rfl), (State.deliver_frame ..).same .mv (by decide), ?_⟩
  exact ⟨_, State.cmd_deliver hlast, rfl, rfl⟩

/-- What MOVE and FILL of one inline transfer leave (R347, R348, R351). -/
theorem State.runMover_copies {op : Nat} (hs : s.Inv) (hc : s.runnable q op = some c) (hk : k = .move ∨ k = .fill)
    (hlist : bitAt (c.u8 17) 0 = false) (hcurrent : (s.chan (c.u8 16)).current = none) (hqueue : (s.chan (c.u8 16)).queue = [])
    (hhalted : (s.chan (c.u8 16)).halted = false) (hx : x = transferOf (c.slot.drop 32)) (hok : s.transferOk k x = true)
    (hheld : s.heldBack (x.ranges k) = false) (hsound : s.transferFail k x = none) :
    (∀ i, i < x.length → (s.runMover q op k).rdByte (wrapAddr x.dst x.dwrap i) = s.transferByte k x i) ∧
      (∀ j, (∀ i, i < x.length → j ≠ wrapAddr x.dst x.dwrap i) → (s.runMover q op k).rdByte j = s.rdByte j) ∧
      ∃ d, (s.runMover q op k).cmd q = some d ∧ d.stage = (if isHost x.dst then .running else .delivered) := by
  have hplain : k = .move ∨ k = .fill ∨ k = .cmpr := hk.imp_right .inl
  obtain ⟨m, hrun⟩ := State.runMover_takes hs hc hplain hlist hcurrent hqueue hhalted (hx ▸ hok)
  have hinv : (s.moverTaken q c k).Inv := State.inv_moverTaken hs
  have haccess : s.SameAccess (s.moverTaken q c k) := State.access_moverTaken
  have hchan : (s.moverTaken q c k).chan (c.u8 16) = { s.chan (c.u8 16) with current := some (moverItem c k s.now), queue := [] } :=
    State.chan_moverTaken hs
  have hcmd : (s.moverTaken q c k).cmd q = some { c with stage := .running } := State.cmd_moverTaken hc
  generalize s.moverTaken q c k = u at *
  have hin := moverItem_inline (c := c) hplain hlist s.now
  have htransfers := moverItem_transfers (k := k) hlist s.now
  obtain ⟨hbytes, hrest⟩ := State.rdByte_copied hinv haccess hok c.seq
  have hcopied : (u.copied k c.seq x).Inv := (State.copied_frame ..).inv hinv
  have hturn := State.chanTurn_copy (it := moverItem c k s.now) (x := x) (congrArg Channel.current hchan) hk hin.list
    (by rw [htransfers, hx]; rfl) rfl ((haccess.heldBack _).trans hheld) ((haccess.transferFail ..).trans hsound)
  have hend : ∃ t d, (s.runMover q op k) = t ∧ (u.copied k c.seq x).SameData t ∧ t.cmd q = some d ∧
      d.stage = (if isHost x.dst then .running else .delivered) := by
    obtain ⟨hhost, h, hturn⟩ | ⟨hhost, hturn⟩ := hturn
    · refine ⟨_, _, hrun.trans (State.chanRun_rest hturn _), ⟨rfl, rfl⟩, (State.cmd_of_cmds (State.copied_cmds ..) q).trans hcmd, ?_⟩
      rw [if_pos hhost]
    · obtain ⟨hdata, -, d, hd, hstage, -⟩ := State.noted_ends (n := c.u8 16) (h := { u.chan (c.u8 16) with
          current := some { moverItem c k s.now with done := 1 }, consec := 0 }) (it := { moverItem c k s.now with done := 1 })
        hcopied ((State.cmd_of_cmds (State.copied_cmds ..) q).trans hcmd) rfl (by rw [hchan]) ⟨hin.kind, hin.list⟩
        (by simp [htransfers]) rfl (State.runnable_seq hc) c.seq 1 m
      refine ⟨_, d, hrun.trans (State.chanRun_again hturn _), hdata, hd, ?_⟩
      rw [hstage, hhost]
      rfl
  obtain ⟨t, d, rfl, hdata, hd, hstage⟩ := hend
  exact ⟨fun i hi => (hdata.rdByte _).trans (hbytes i hi), fun j hj => (hdata.rdByte _).trans (hrest j hj), d, hd, hstage⟩

end Copy

/-- Settles O17: the bytes of a transfer stand in its destination. -/
theorem moveAndFillWriteTheirBytes : Obligations.MoveAndFillWriteTheirBytes := by
  refine ⟨?move, ?fill⟩
  case move =>
    intro s q c x hs hc hlist hcurrent hqueue hhalted hx hok hheld hsound
    exact ⟨_, rfl, State.runMover_copies hs hc (.inl rfl) hlist hcurrent hqueue hhalted hx hok hheld hsound⟩
  case fill =>
    intro s q c x hs hc hlist hcurrent hqueue hhalted hx hok hheld hsound
    exact ⟨_, rfl, State.runMover_copies hs hc (.inr rfl) hlist hcurrent hqueue hhalted hx hok hheld hsound⟩

end Sys2Proof.Machine
end

section
/-!
CMPR and the end of a transfer that was read back (R349, R351, R352).
-/
namespace Sys2Proof.Machine

open Sys2Proof

/-! ### The first difference (R349) -/

theorem firstDiff_none {l m : List Byte} {lo : Nat} (hlen : l.length = m.length) (h : firstDiff l m lo = none) : l = m := by
  induction l generalizing m lo with
  | nil => exact (List.length_eq_zero_iff.mp hlen.symm).symm
  | cons a l ih =>
    cases m with
    | nil => cases hlen
    | cons b m =>
      unfold firstDiff at h
      split at h
      next hab => rw [hab, ih (Nat.succ.inj hlen) h]
      next => cases h

theorem firstDiff_some {l m : List Byte} {lo k : Nat} (h : firstDiff l m lo = some k) :
    ∃ i, k = lo + i ∧ i < l.length ∧ l[i]? ≠ m[i]? ∧ ∀ j, j < i → l[j]? = m[j]? := by
  induction l generalizing m lo with
  | nil => cases h
  | cons a l ih =>
    cases m with
    | nil => cases h
    | cons b m =>
      unfold firstDiff at h
      split at h
      next hab =>
        obtain ⟨i, hk, hi, hne, hsame⟩ := ih h
        refine ⟨i + 1, by omega, Nat.succ_lt_succ hi, by simpa using hne, fun j hj => ?_⟩
        cases j with
        | zero => simp [hab]
        | succ j => simpa using hsame j (Nat.lt_of_succ_lt_succ hj)
      next hab =>
        obtain rfl := Option.some.inj h
        exact ⟨0, rfl, Nat.succ_pos _, by simpa using hab, fun j hj => absurd hj (Nat.not_lt_zero j)⟩

section Compare

variable {s : State} {n q : Nat} {it : MoverItem} {x : Transfer} {c : Cmd}

theorem State.transferData_getElem? {k : MoverKind} {m i : Nat} (hi : i < m) :
    (s.transferData k x 0 m)[i]? = some (s.transferByte k x i) := by
  rw [List.getElem?_eq_getElem (by rwa [State.transferData_length]), State.transferData_getElem, Nat.zero_add]

/-- The bytes of the destination, with which CMPR compares those of the source. -/
def Transfer.compared (x : Transfer) : Transfer := { x with src := x.dst, swrap := x.dwrap }

/-- CMPR reports the first byte that differs, or goes on to its end. -/
theorem State.chanTurn_compare (hcurrent : (s.chan n).current = some it) (hk : it.kind = .cmpr)
    (hlist : it.listAddr = none) (hdone : it.done = 0) (hx : it.transfers[it.done]? = some x) (hissued : it.issued = false)
    (hfail : it.failAddr = none) (hseq : it.seq = some q)
    (hheld : s.heldBack (x.ranges .cmpr) = false) (hsound : s.transferFail .cmpr x = none) :
    s.chanTurn n = .again (match firstDiff (s.transferData .cmpr x 0 x.length) (s.transferData .move x.compared 0 x.length) 0 with
      | none => ((s.countMove .cmpr (some q) x x.length).setChan n
          { s.chan n with current := some { it with done := it.done + 1 }, consec := 0 }).logTransfer n (some q) 1
      | some i => (((((s.countMove .cmpr (some q) x x.length).setChan n { s.chan n with current := none, consec := 0 }).logTransfer n
          (some q) 4).addCond q [.compareMismatch] 0).setDetail q i).deliver q) := by
  unfold State.chanTurn
  obtain ⟨kind, seq, asker, listAddr, transfers, done, issued, before, failAddr, failUncorr, queuedAt⟩ := it
  obtain rfl : kind = .cmpr := hk
  obtain rfl : listAddr = none := hlist
  obtain rfl : issued = false := hissued
  obtain rfl : done = 0 := hdone
  obtain rfl : failAddr = none := hfail
  obtain rfl : seq = some q := hseq
  simp only [hcurrent, hx, Option.toList_none, List.map_nil, List.nil_append, hheld, hsound, Transfer.compared, Bool.false_eq_true,
    or_self, if_false, State.writeSts, List.take_zero, List.sum_nil, Nat.zero_add, Option.getD_some]
  cases firstDiff (s.transferData .cmpr x 0 x.length)
    (s.transferData .move { x with src := x.dst, swrap := x.dwrap } 0 x.length) 0 <;> rfl

/-- LENGTH has 48 bits (Table 12.1). -/
theorem transferOf_length_lt (l : List Byte) : (transferOf l).length < 2 ^ 48 :=
  Nat.lt_of_lt_of_le (leNat_lt _) (Nat.pow_le_pow_right (n := 256) (by decide) (List.length_take_le 6 _))

/-- A difference completes the command with COMPARE_MISMATCH, and DETAIL names the byte. -/
theorem State.differs_ends {v : State} {h : Channel} (hv : v.Inv) (hcmd : v.cmd q = some c) (hcurrent : h.current = none)
    (hqueue : h.queue = []) {i : Nat} (hi : i < 2 ^ 63) {w : State}
    (hw : w = (((((v.setChan n h).logTransfer n (some q) 4).addCond q [.compareMismatch] 0).setDetail q i).deliver q)) (m : Nat) :
    v.SameData (w.chanRun n (m + 1)) ∧ ∃ d, (w.chanRun n (m + 1)).cmd q = some d ∧ d.stage = .delivered ∧
      d.conds = c.conds ++ [.compareMismatch] ∧ d.detail = i := by
  have hchan := State.chan_logTransfer hv n h (some q) 4
  have hkeeps : v.KeepsData ((v.setChan n h).logTransfer n (some q) 4) := (State.KeepsData.setChan ..).trans (.logTransfer ..)
  have hnoted := (State.cmd_of_cmds hkeeps.cmds q).trans hcmd
  generalize (v.setChan n h).logTransfer n (some q) 4 = u at *
  have hcond : (u.addCond q [.compareMismatch] 0).cmd q = some { c with conds := c.conds ++ [.compareMismatch], ind := c.ind ||| 0 } :=
    (State.cmd_updCmd (fun c => { c with conds := c.conds ++ [.compareMismatch], ind := c.ind ||| 0 }) fun _ => rfl).trans
      (congrArg (Option.map _) hnoted)
  have hdetail : ((u.addCond q [.compareMismatch] 0).setDetail q i).cmd q = some { c with
      conds := c.conds ++ [.compareMismatch], ind := c.ind ||| 0, detail := i % 2 ^ 63 } :=
    (State.cmd_updCmd (fun c => { c with detail := i % 2 ^ 63 }) fun _ => rfl).trans (congrArg (Option.map _) hcond)
  have hwchan : w.chan n = h := by
    have hmv : w.mv = u.mv := by rw [hw]; exact (State.deliver_frame ..).same .mv (by decide)
    rw [← hchan]
    exact congrArg (fun l => Tab.get (fun _ => Channel.initial) l n) hmv
  rw [State.chanRun_rest (State.chanTurn_idle (by rw [hwchan]; exact hcurrent) (by rw [hwchan]; exact hqueue)), hw]
  refine ⟨hkeeps.data.trans ?_, _, State.cmd_deliver hdetail, rfl, rfl, Nat.mod_eq_of_lt hi⟩
  exact State.SameData.trans ⟨rfl, rfl⟩ ((State.deliver_frame ..).sameData rfl)

/-- What CMPR of one inline transfer reports (R349, R352). -/
theorem State.runMover_compares (hs : s.Inv) (hc : s.runnable q 0x03 = some c) (hlist : bitAt (c.u8 17) 0 = false)
    (hcurrent : (s.chan (c.u8 16)).current = none) (hqueue : (s.chan (c.u8 16)).queue = [])
    (hhalted : (s.chan (c.u8 16)).halted = false) (hx : x = transferOf (c.slot.drop 32)) (hok : s.transferOk .cmpr x = true)
    (hheld : s.heldBack (x.ranges .cmpr) = false) (hsound : s.transferFail .cmpr x = none) :
    s.SameData (s.runMover q 0x03 .cmpr) ∧ ∃ d, (s.runMover q 0x03 .cmpr).cmd q = some d ∧ d.stage = .delivered ∧
      (((∀ i, i < x.length → s.rdByte (wrapAddr x.src x.swrap i) = s.rdByte (wrapAddr x.dst x.dwrap i)) ∧ d.conds = c.conds) ∨
        (∃ k, k < x.length ∧ s.rdByte (wrapAddr x.src x.swrap k) ≠ s.rdByte (wrapAddr x.dst x.dwrap k) ∧
          (∀ i, i < k → s.rdByte (wrapAddr x.src x.swrap i) = s.rdByte (wrapAddr x.dst x.dwrap i)) ∧
          d.conds = c.conds ++ [.compareMismatch] ∧ d.detail = k)) := by
  have hplain : MoverKind.cmpr = .move ∨ MoverKind.cmpr = .fill ∨ MoverKind.cmpr = .cmpr := .inr (.inr rfl)
  obtain ⟨m, hrun⟩ := State.runMover_takes hs hc hplain hlist hcurrent hqueue hhalted (hx ▸ hok)
  have hinv : (s.moverTaken q c .cmpr).Inv := State.inv_moverTaken hs
  have haccess : s.SameAccess (s.moverTaken q c .cmpr) := State.access_moverTaken
  have hchan := State.chan_moverTaken (q := q) (c := c) (k := .cmpr) hs
  have hcmd : (s.moverTaken q c .cmpr).cmd q = some { c with stage := .running } := State.cmd_moverTaken hc
  have hseq := State.runnable_seq hc
  have hin := moverItem_inline (c := c) hplain hlist s.now
  have htransfers := moverItem_transfers (k := .cmpr) hlist s.now
  generalize s.moverTaken q c .cmpr = u at *
  have hturn := State.chanTurn_compare (it := moverItem c .cmpr s.now) (x := x) (congrArg Channel.current hchan) rfl hin.list rfl
    (by rw [htransfers, hx]; rfl) rfl rfl hseq ((haccess.heldBack _).trans hheld) ((haccess.transferFail ..).trans hsound)
  have hcounted := State.KeepsData.countMove u .cmpr (some q) x x.length
  have hcountInv : (u.countMove .cmpr (some q) x x.length).Inv := (State.countMove_frame ..).inv hinv
  have hcountCmd := (State.cmd_of_cmds hcounted.cmds q).trans hcmd
  have hsource (i : Nat) (hi : i < x.length) : (u.transferData .cmpr x 0 x.length)[i]? = some (s.rdByte (wrapAddr x.src x.swrap i)) :=
    (State.transferData_getElem? hi).trans (congrArg some (haccess.data.rdByte _))
  have hdest (i : Nat) (hi : i < x.length) :
      (u.transferData .move x.compared 0 x.length)[i]? = some (s.rdByte (wrapAddr x.dst x.dwrap i)) :=
    (State.transferData_getElem? hi).trans (congrArg some (haccess.data.rdByte _))
  cases hdiff : firstDiff (u.transferData .cmpr x 0 x.length) (u.transferData .move x.compared 0 x.length) 0 with
  | none =>
    rw [hdiff] at hturn
    obtain ⟨hdata, -, d, hd, hstage, hconds⟩ := State.noted_ends (n := c.u8 16) (h := { u.chan (c.u8 16) with
        current := some { moverItem c .cmpr s.now with done := 1 }, consec := 0 }) (it := { moverItem c .cmpr s.now with done := 1 })
      hcountInv hcountCmd rfl (by rw [hchan]) ⟨hin.kind, hin.list⟩ (by simp [htransfers]) rfl hseq (some q) 1 m
    rw [hrun, State.chanRun_again hturn]
    refine ⟨haccess.data.trans (hcounted.data.trans hdata), d, hd, hstage, .inl ⟨fun i hi => ?_, hconds⟩⟩
    have hsame := firstDiff_none (by simp) hdiff
    exact Option.some.inj ((hsource i hi).symm.trans (hsame ▸ hdest i hi))
  | some k =>
    rw [hdiff] at hturn
    obtain ⟨i, hk, hi, hne, hbefore⟩ := firstDiff_some hdiff
    obtain rfl : k = i := hk.trans (Nat.zero_add i)
    rw [State.transferData_length] at hi
    have hlen : x.length < 2 ^ 48 := hx ▸ transferOf_length_lt _
    obtain ⟨hdata, d, hd, hstage, hconds, hdetail⟩ := State.differs_ends (n := c.u8 16) (h := { u.chan (c.u8 16) with
      current := none, consec := 0 }) (i := k) hcountInv hcountCmd rfl (by rw [hchan]) (by omega) rfl (m + 1)
    rw [hrun, State.chanRun_again hturn]
    refine ⟨haccess.data.trans (hcounted.data.trans hdata), d, hd, hstage, .inr ⟨k, hi, ?_, fun j hj => ?_, hconds, hdetail⟩⟩
    · rw [hsource k hi, hdest k hi] at hne
      exact fun h => hne (congrArg some h)
    · have h := hbefore j hj
      rwa [hsource j (hj.trans hi), hdest j (hj.trans hi), Option.some.injEq] at h

end Compare

/-! ### The read-back (R351) -/

section ReadBack

variable {s : State} {n q : Nat} {it : MoverItem} {c : Cmd}

/-- A transfer of a descriptor has no STS. -/
theorem State.writeSts_inline (u : State) (hlist : it.listAddr = none) (i v : Nat) : u.writeSts it i v = some u := by
  unfold State.writeSts
  rw [hlist]

/-- The end of a read-back that has succeeded, of the last transfer of an item. -/
theorem State.transferEnd_ends (hs : s.Inv) (hcurrent : (s.chan n).current = some it) (hqueue : (s.chan n).queue = [])
    (hissued : it.issued = true) (hin : it.Inline) (hdone : it.transfers.length = it.done + 1) (hsound : it.failAddr = none)
    (hawake : s.ld.d3hot = false) (hread : s.readBackFail it = false) (hseq : it.seq = some q) (hc : s.cmd q = some c) :
    ((s.transferEnd n).chan n).current = none ∧ s.SameData (s.transferEnd n) ∧
      ∃ d, (s.transferEnd n).cmd q = some d ∧ d.stage = .delivered := by
  have hbump : s.KeepsData (s.bump 0x0C00310) := .bump ..
  have hinv : (s.bump 0x0C00310).Inv := (State.bump_frame ..).inv hs
  set h : Channel := { s.chan n with current := some { it with done := it.done + 1, issued := false, before := [] }, consec := 0 } with hh
  have hrun : s.transferEnd n = (((s.bump 0x0C00310).setChan n h).logTransfer n it.seq 1).chanGo n := by
    simp only [State.transferEnd, hcurrent, hissued, hawake, hread, State.writeSts_inline _ hin.list, not_true, if_false,
      Bool.false_eq_true, or_self, hh]
  have hfuel : 2 ≤ (((s.bump 0x0C00310).setChan n h).logTransfer n it.seq 1).chanFuel n := by
    unfold State.chanFuel
    rw [State.chan_logTransfer hinv]
    simp only [hh, Option.elim_some]
    omega
  obtain ⟨m, hm⟩ := Nat.exists_eq_add_of_le hfuel
  obtain ⟨hdata, hmv, d, hd, hstage, -⟩ := State.noted_ends (n := n) (h := h)
    (it := { it with done := it.done + 1, issued := false, before := [] }) hinv ((State.cmd_of_cmds hbump.cmds q).trans hc) rfl hqueue ⟨hin.kind, hin.list⟩ (by simp [hdone]) hsound hseq it.seq 1 m
  rw [hrun, State.chanGo, hm, Nat.add_comm]
  refine ⟨?_, hbump.data.trans hdata, d, hd, hstage⟩
  have hlogged : (((s.bump 0x0C00310).setChan n h).logTransfer n it.seq 1).Inv :=
    (State.logTransfer_frame ..).inv ((State.setChan_frame ..).inv hinv)
  have hfree := State.chan_setChan_same hlogged n { h with current := none }
  unfold State.chan at hfree ⊢
  rw [hmv, hfree]

end ReadBack

/-- Settles O18: CMPR reports the first difference and changes no byte, and a read-back ends its command. -/
theorem compareReportsTheFirstDifference : Obligations.CompareReportsTheFirstDifference := by
  refine ⟨?compare, ?readBack⟩
  case compare =>
    intro s q c x hs hc hlist hcurrent hqueue hhalted hx hok hheld hsound
    obtain ⟨hdata, hend⟩ := State.runMover_compares hs hc hlist hcurrent hqueue hhalted hx hok hheld hsound
    exact ⟨_, rfl, hdata.rdByte, hend⟩
  case readBack =>
    intro s n it q c hs hcurrent hqueue hissued hkind hlist hdone hsound hawake hread hseq hc
    obtain ⟨hfree, hdata, hend⟩ := State.transferEnd_ends hs hcurrent hqueue hissued ⟨hkind.imp_right .inl, hlist⟩ hdone hsound
      hawake hread hseq hc
    exact ⟨_, rfl, hfree, hdata.rdByte, hend⟩

end Sys2Proof.Machine
end

section
/-!
Failures of the Mover (R353 to R359): a request that fails halts its channel and fails its command; RESTART and FLUSH end the halt.
-/
namespace Sys2Proof.Machine

open Sys2Proof

/-! ### What a failing transfer leaves alone -/

/-- Commands and the list of who wrote what are as they were. -/
structure State.KeepsWriters (s t : State) : Prop where
  cmds : t.hg.cmds = s.hg.cmds
  written : t.im.written = s.im.written

namespace State.KeepsWriters

variable {s t u : State}

theorem refl : s.KeepsWriters s := ⟨rfl, rfl⟩

theorem trans (h : s.KeepsWriters t) (k : t.KeepsWriters u) : s.KeepsWriters u := ⟨k.cmds.trans h.cmds, k.written.trans h.written⟩

theorem foldl {α : Type} {f : State → α → State} (hf : ∀ (v : State) x, v.KeepsWriters (f v x)) (l : List α) (s : State) :
    s.KeepsWriters (l.foldl f s) :=
  List.foldlRecOn (motive := fun v : State => s.KeepsWriters v) l f refl fun v hv x _ => hv.trans (hf v x)

theorem of_frame {l : List Comp} (h : Frame l s t) (hhg : l.contains .hg = false) (him : l.contains .im = false) : s.KeepsWriters t :=
  ⟨congrArg HostGate.cmds (h.hg_eq hhg), congrArg Integrity.written (h.im_eq him)⟩

theorem bump (s : State) (off n : Nat) : s.KeepsWriters (s.bump off n) := ⟨rfl, rfl⟩

theorem noteMerge (s : State) (cw : Nat) : s.KeepsWriters (s.noteMerge cw) :=
  ⟨State.noteMerge_cmds .., (State.SameLoss.noteMerge s cw).written⟩

theorem noteCw (s : State) (cw : Nat) : s.KeepsWriters (s.noteCw cw) := by
  unfold State.noteCw
  extract_lets merged
  have hmerged : s.KeepsWriters merged := noteMerge s cw
  split
  · exact hmerged
  split
  · exact hmerged.trans (bump ..)
  split
  · exact hmerged.trans (bump ..)
  · exact hmerged

theorem noteReads (s : State) (l : List (Nat × Nat)) : s.KeepsWriters (s.noteReads l) := by
  induction l generalizing s with
  | nil => exact refl
  | cons p l ih =>
    refine trans ?_ (ih _)
    split
    · exact refl
    · exact foldl noteCw _ s

theorem wr (s : State) (a : Nat) (l : List Byte) : s.KeepsWriters (s.wr a l) := by
  have hopen (v : State) (cw : Nat) :
      v.KeepsWriters (if wholeCw a l.length cw then v.setMeta cw false (v.zoneOf (cw * 32)) else v.mergeCw cw) := by
    split
    · exact ⟨rfl, rfl⟩
    · exact (noteMerge v cw).trans ((of_frame (State.settle_frame ..) rfl rfl).trans (of_frame (State.setMeta_frame ..) rfl rfl))
  unfold State.wr
  split
  · exact of_frame (State.putBytes_frame ..) rfl rfl
  · exact (foldl hopen _ s).trans (of_frame (State.putBytes_frame ..) rfl rfl)

theorem writePieces (s : State) (ps : List (Nat × Nat)) (l : List Byte) : s.KeepsWriters (s.writePieces ps l) := by
  induction ps generalizing s l with
  | nil => exact refl
  | cons p ps ih => exact (wr ..).trans (ih ..)

theorem poisonCw (s : State) (cw : Nat) : s.KeepsWriters (s.poisonCw cw) := of_frame (State.poisonCw_frame ..) rfl rfl

theorem partialMove (s : State) (k : MoverKind) (t : Transfer) (l : List (Nat × Nat)) : s.KeepsWriters (s.partialMove k t l) := by
  induction l generalizing s with
  | nil => exact refl
  | cons p l ih =>
    unfold State.partialMove
    extract_lets n d read lost written
    have hread : s.KeepsWriters read := by
      unfold read
      split
      · exact refl
      · exact (noteReads ..).trans (bump ..)
    have hwritten : read.KeepsWriters written := by
      unfold written
      split
      · refine foldl (fun v x => ?_) _ read
        split
        · exact refl
        · exact ⟨rfl, rfl⟩
      · exact (writePieces ..).trans (foldl (fun v i => poisonCw ..) _ _)
    exact ((hread.trans hwritten).trans (bump ..)).trans (ih _)

theorem writeSts {it : MoverItem} (s : State) (i v : Nat) : s.KeepsWriters ((s.writeSts it i v).getD s) := by
  unfold State.writeSts
  split
  · exact refl
  · extract_lets a
    split
    · exact refl
    · exact wr ..

/-- What a failing transfer of MOVE, FILL or CMPR leaves in memory. -/
theorem failedWrites {it : MoverItem} (hk : it.kind = .move ∨ it.kind = .fill ∨ it.kind = .cmpr) (s : State) (t : Transfer)
    (addr dir cause : Nat) (issued : List (Nat × Nat)) : s.KeepsWriters (s.failedWrites it t addr dir cause issued) := by
  have hwrite : s.KeepsWriters (if it.issued then
      (s.writePieces (pieces t.dst t.dwrap t.length) (undefBytes (s.freeBytes t.length) it.before (s.dstBytes t))).freeStep
    else
      let s1 := s.partialMove it.kind t issued
      let s2 := if cause = 5 then s1.poisonDst t addr else s1
      if dir = 1 then
        (s2.writePieces (pieces t.dst t.dwrap t.length) (undefBytes (s.freeBytes t.length) (s.dstBytes t) (s2.dstBytes t))).freeStep
      else s2) := by
    have hfree (v : State) : v.KeepsWriters v.freeStep := ⟨rfl, rfl⟩
    split
    · exact (writePieces ..).trans (hfree _)
    · extract_lets moved poisoned
      have hpoisoned : s.KeepsWriters poisoned := by
        refine (partialMove s it.kind t issued).trans ?_
        unfold poisoned
        split
        · exact of_frame (State.poisonDst_frame ..) rfl rfl
        · exact refl
      split
      · exact hpoisoned.trans ((writePieces ..).trans (hfree _))
      · exact hpoisoned
  unfold State.failedWrites
  obtain hk | hk | hk := hk
  · rw [hk] at hwrite ⊢; exact hwrite
  · rw [hk] at hwrite ⊢; exact hwrite
  · rw [hk]; exact refl

end State.KeepsWriters

/-! ### The channel halts (R356, R357) -/

section Halt

variable {s : State} {n q : Nat} {it : MoverItem} {x : Transfer} {c : Cmd}

theorem State.lostWriter_of_none (h : s.im.written = []) (a : Nat) : s.lostWriter a = none := by
  unfold State.lostWriter
  rw [h]
  rfl

/-- The command of a failed access fails, unless a command of an open step may write the lost data again (R290). -/
theorem State.failedCmd_failMem (hc : s.cmd q = some c) {f : Nat × Bool} (h : f.2 = false ∨ s.im.written = []) :
    (s.failMem q f).FailedCmd q := by
  have hnone : (if f.2 then s.lostWriter f.1 else none) = none := by
    split
    next hf => exact State.lostWriter_of_none (h.resolve_left (by simp [hf])) _
    next => rfl
  unfold State.failMem
  rw [hnone]
  dsimp only
  split
  · have hfailed := State.failedCmd_failCmd hc .uncorrectableMemory f.1
    unfold State.loseData
    extract_lets failed
    split
    · split
      · exact hfailed
      · exact hfailed.of_cmds (congrArg HostGate.cmds ((State.recordLoss_frame ..).hg_eq rfl))
    · exact hfailed
  · exact State.failedCmd_failCmd hc ..

/-- A halted channel holds the failure and no item. -/
theorem State.chan_haltChan (hs : s.Inv) (n addr cause dir reason : Nat) : ((s.haltChan n addr cause dir reason).chan n).halted = true ∧
    ((s.haltChan n addr cause dir reason).chan n).current = none ∧
      ((s.haltChan n addr cause dir reason).chan n).failAddr = BitVec.ofNat 64 addr ∧
        ((s.haltChan n addr cause dir reason).chan n).failDir = dir ∧ ((s.haltChan n addr cause dir reason).chan n).failCause = cause := by
  unfold State.haltChan
  extract_lets h
  have hchan (w : Channel) (off i : Nat) : (((s.setChan n w).bump off).arrive i).chan n = w := by
    have hmv : (((s.setChan n w).bump off).arrive i).mv = (s.setChan n w).mv :=
      ((State.arrive_frame ..).same .mv (by decide)).trans ((State.bump_frame ..).same .mv (by decide))
    exact (congrArg (fun l => Tab.get (fun _ => Channel.initial) l n) hmv).trans (State.chan_setChan_same hs n w)
  rw [hchan]
  exact ⟨rfl, rfl, rfl, rfl, rfl⟩

/-- A request of a transfer without SKIP that fails halts the channel, and the command meets the failure. -/
theorem State.requestFail_halts (hs : s.Inv) (hcurrent : (s.chan n).current = some it) (hx : it.transfers[it.done]? = some x)
    (hskip : x.skip = false) (hk : it.kind = .move ∨ it.kind = .fill ∨ it.kind = .cmpr) {addr dir cause a : Nat}
    (hback : dir = 2 → it.issued = true) (hread : dir = 0 → it.issued = false) (hfirst : it.failAddr = none)
    (huncorr : it.failUncorr = false) (hseq : it.seq = some q) (ha : a = if dir = 2 then x.readBack else addr)
    (issued : List (Nat × Nat)) :
    ∃ v h, s.KeepsWriters v ∧ v.Inv ∧
      s.requestFail n addr dir cause issued =
        (((v.setChan n h).haltChan n a cause dir 1).failMem q (a, cause == 5)).logTransfer n (some q) 3 := by
  have hend (u : State) (i : MoverItem) (hi : i.kind = it.kind) (hiseq : i.seq = some q) (hfail : i.failAddr = some a) :
      u.endItemFailed i = u.failMem q (a, i.failUncorr) := by
    unfold State.endItemFailed
    obtain hk | hk | hk := hk <;> simp only [hi, hk, hiseq, hfail, Option.getD_some]
  have hspill : (match it.kind with
      | .spill _ => true
      | .recall _ => true
      | _ => false) = false := by obtain hk | hk | hk := hk <;> rw [hk]
  subst ha
  unfold State.requestFail
  extract_lets h k _
  rw [show h.current = some it from hcurrent]
  dsimp -zeta only
  rw [if_neg (by rintro (⟨hdir, hnot⟩ | ⟨hdir, hissued⟩) <;> simp_all), hx, Option.getD_some]
  extract_lets t a read isSpill written failed skip _ noted
  have hplain : isSpill = false := hspill
  have hskip' : skip = false := by rw [show skip = (x.skip || isSpill) from rfl, hskip, hplain]; rfl
  rw [if_neg (by simp [hskip'])]
  have hinv : read.Inv := by
    unfold read
    split
    · exact (State.noteReads_frame ..).inv hs
    · exact hs
  have hreads : s.KeepsWriters read := by
    unfold read
    split
    · exact .noteReads ..
    · exact .refl
  have hnoted : noted = (written.writeSts it it.done 3).getD written := if_neg (by simp [hplain])
  refine ⟨noted, { h with current := some it, consec := k }, ?_, ?_, ?_⟩
  · rw [hnoted]
    exact hreads.trans ((State.KeepsWriters.failedWrites hk ..).trans (.writeSts ..))
  · rw [hnoted]
    exact (Frame.getD (State.failedWrites_frame ..) (fun _ h => State.writeSts_frame h) rfl).inv hinv
  · rw [hend _ failed rfl hseq (by simp [failed, hfirst, a, t])]
    simp only [failed, huncorr, Bool.false_or, hseq, hskip', Bool.false_eq_true, if_false]
    rfl

theorem State.chan_of_mv {s t : State} (h : t.mv = s.mv) (n : Nat) : t.chan n = s.chan n :=
  congrArg (fun l => Tab.get (fun _ => Channel.initial) l n) h

/-- What the halt that a failing request causes leaves (R356, R357). -/
theorem State.halted_failMem {v : State} {h : Channel} (hv : v.Inv) (hc : v.cmd q = some c) {a cause : Nat} (dir : Nat)
    (hlost : cause ≠ 5 ∨ v.im.written = []) {t : State}
    (ht : t = (((v.setChan n h).haltChan n a cause dir 1).failMem q (a, cause == 5)).logTransfer n (some q) 3) :
    (t.chan n).halted = true ∧ (t.chan n).current = none ∧ (t.chan n).failAddr = BitVec.ofNat 64 a ∧ (t.chan n).failDir = dir ∧
      (t.chan n).failCause = cause ∧ ∃ d, t.cmd q = some d ∧ d.stage = .failed := by
  have hset : (v.setChan n h).Inv := (State.setChan_frame ..).inv hv
  obtain ⟨hhalted, hcurrent, haddr, hdir, hcause⟩ := State.chan_haltChan hset n a cause dir 1
  have hhalt : (v.setChan n h).KeepsWriters ((v.setChan n h).haltChan n a cause dir 1) := .of_frame (State.haltChan_frame ..) rfl rfl
  have hkeeps : v.KeepsWriters ((v.setChan n h).haltChan n a cause dir 1) := ⟨hhalt.cmds, hhalt.written⟩
  clear hhalt
  generalize (v.setChan n h).haltChan n a cause dir 1 = u at *
  have hmv : t.mv = u.mv := by
    rw [ht]
    exact ((State.logTransfer_frame ..).same .mv (by decide)).trans ((State.failMem_frame ..).same .mv (by decide))
  have hfailed : (u.failMem q (a, cause == 5)).FailedCmd q :=
    State.failedCmd_failMem ((State.cmd_of_cmds hkeeps.cmds q).trans hc)
      (hlost.imp (fun hne => beq_eq_false_iff_ne.mpr hne) hkeeps.written.trans)
  rw [State.chan_of_mv hmv]
  refine ⟨hhalted, hcurrent, haddr, hdir, hcause, ?_⟩
  rw [ht]
  exact hfailed.of_cmds (congrArg HostGate.cmds ((State.logTransfer_frame ..).hg_eq rfl))

end Halt

/-! ### Commands that fail release what they hold, and set nothing going -/

/-- Commands may have failed and entries of the Hamper may have been released; no command runs that did not. -/
structure State.OnlyFails (s t : State) : Prop where
  running : ∀ d ∈ t.hg.cmds, d.stage = .running → d ∈ s.hg.cmds
  present : ∀ q, (s.cmd q).isSome → (t.cmd q).isSome
  failed : ∀ q, s.FailedCmd q → t.FailedCmd q
  used : t.regionUsed ≤ s.regionUsed
  high : t.ham.spillHigh = s.ham.spillHigh
  size : t.ham.size = s.ham.size
  channel : t.ham.spillChannel = s.ham.spillChannel
  mv : t.mv = s.mv

namespace State.OnlyFails

variable {s t u : State}

theorem refl : s.OnlyFails s := ⟨fun _ h _ => h, fun _ h => h, fun _ h => h, Nat.le_refl _, rfl, rfl, rfl, rfl⟩

theorem trans (h : s.OnlyFails t) (k : t.OnlyFails u) : s.OnlyFails u where
  running d hd hrun := h.running d (k.running d hd hrun) hrun
  present q hq := k.present q (h.present q hq)
  failed q hq := k.failed q (h.failed q hq)
  used := Nat.le_trans k.used h.used
  high := k.high.trans h.high
  size := k.size.trans h.size
  channel := k.channel.trans h.channel
  mv := k.mv.trans h.mv

theorem foldl {α : Type} {f : State → α → State} (hf : ∀ (v : State) x, v.OnlyFails (f v x)) (l : List α) (s : State) :
    s.OnlyFails (l.foldl f s) :=
  List.foldlRecOn (motive := fun v : State => s.OnlyFails v) l f refl fun v hv x _ => hv.trans (hf v x)

theorem of_frame {l : List Comp} (h : Frame l s t) (hcmds : t.hg.cmds = s.hg.cmds) (hham : l.contains .ham = false)
    (hmv : l.contains .mv = false) : s.OnlyFails t where
  running d hd _ := hcmds ▸ hd
  present q hq := by rwa [State.cmd_of_cmds hcmds]
  failed q hq := hq.of_cmds hcmds
  used := Nat.le_of_eq (State.regionUsed_of_ham (h.ham_eq hham))
  high := congrArg Hamper.spillHigh (h.ham_eq hham)
  size := congrArg Hamper.size (h.ham_eq hham)
  channel := congrArg Hamper.spillChannel (h.ham_eq hham)
  mv := h.same .mv (by simpa using hmv)

theorem haltOn (s : State) (c : Cmd) (x : Status) : s.OnlyFails (s.haltOn c x) :=
  of_frame (State.haltOn_frame ..) (State.haltOn_cmds ..) rfl rfl

/-- One command fails. -/
theorem updCmd (s : State) (q : Nat) {f : Cmd → Cmd} (hseq : ∀ c, (f c).seq = c.seq) (hstage : ∀ c, (f c).stage = .failed) :
    s.OnlyFails (s.updCmd q f) where
  running d hd hrun := by
    obtain ⟨b, hb, rfl⟩ := List.mem_map.mp hd
    split at hrun
    · rw [hstage] at hrun; cases hrun
    next h => rwa [if_neg h]
  present r hr := by
    by_cases h : r = q
    · rw [h, State.cmd_updCmd f hseq, Option.isSome_map, ← h]; exact hr
    · rwa [State.cmd_updCmd_ne f h hseq]
  failed r hr := hr.upd hseq hstage
  used := Nat.le_refl _
  high := rfl
  size := rfl
  channel := rfl
  mv := rfl

theorem timeOut (s : State) (c : Cmd) : s.OnlyFails (s.timeOut c) := by
  unfold State.timeOut
  split
  · exact refl
  · exact (updCmd s _ (f := fun c => { c with
      stage := .failed, conds := .waitTimeout :: c.conds, detail := c.lateDetail, tainted := false, hold := false })
      (fun _ => rfl) fun _ => rfl).trans (haltOn ..)

/-- The entries of a step are released. -/
theorem releaseStep (s : State) (n : Nat) : s.OnlyFails (s.releaseStep n) where
  running d hd _ := hd
  present q hq := hq
  failed q hq := hq
  used := by
    unfold State.regionUsed State.releaseStep
    exact List.Sublist.sum_le_sum (List.filter_sublist.map _) fun _ _ => Nat.zero_le _
  high := rfl
  size := rfl
  channel := rfl
  mv := rfl

theorem dropStep (s : State) (n : Nat) : s.OnlyFails (s.dropStep n) := by
  unfold State.dropStep
  split
  · exact refl
  · extract_lets s1 _ s2
    have hmarked : s.OnlyFails (s.markStep n .incomplete) := of_frame (State.markStep_frame ..) (State.markStep_cmds ..) rfl rfl
    have hsent (v : State) : v.OnlyFails (v.sendSummary n false true) :=
      of_frame (State.sendSummary_frame ..) (congrArg HostGate.cmds (State.sendSummary_hg ..)) rfl rfl
    have hreleased : s.OnlyFails s1 := (hmarked.trans (hsent _)).trans (releaseStep ..)
    have hdropped : s1.OnlyFails s2 := ⟨fun _ h _ => h, fun _ h => h, fun _ h => h, Nat.le_refl _, rfl, rfl, rfl, rfl⟩
    exact (hreleased.trans hdropped).trans (foldl timeOut _ s2)

theorem markIncomplete (s : State) (n : Nat) : s.OnlyFails (s.markIncomplete n) := by
  unfold State.markIncomplete
  split
  · exact refl
  · exact ((dropStep s n).trans (dropStep _ (n + 1))).trans
      ⟨fun _ h _ => h, fun _ h => h, fun _ h => h, Nat.le_refl _, rfl, rfl, rfl, rfl⟩

theorem failCmd (s : State) (q : Nat) (x : Status) (detail : Nat) : s.OnlyFails (s.failCmd q x detail) := by
  unfold State.failCmd
  split
  · exact refl
  · extract_lets failed
    have hfailed : s.OnlyFails failed := (updCmd s q (f := fun c => { c with
      stage := .failed, conds := x :: c.conds, detail := detail % 2 ^ 63, tainted := false, hold := false })
      (fun _ => rfl) fun _ => rfl).trans (haltOn ..)
    split
    · exact hfailed.trans (markIncomplete ..)
    · exact hfailed

end State.OnlyFails

/-! ### RESTART and FLUSH (R358) -/

/-- The Hamper has nothing to do on its channel: no STSH waits, and the region is below its mark (R228). -/
def State.SpillsNothing (s : State) : Prop :=
  (∀ d ∈ s.hg.cmds, d.opcode ≠ 0x28 ∨ d.stage ≠ .running) ∧ s.regionUsed * 16 ≤ s.ham.spillHigh * (s.ham.size * 2 ^ 30)

theorem State.OnlyFails.spillsNothing {s t : State} (h : s.OnlyFails t) (hs : s.SpillsNothing) : t.SpillsNothing := by
  obtain ⟨hwaits, hlow⟩ := hs
  refine ⟨fun d hd => ?_, ?_⟩
  · by_cases hrun : d.stage = .running
    · exact hwaits d (h.running d hd hrun)
    · exact .inr hrun
  · rw [h.high, h.size]
    exact Nat.le_trans (Nat.mul_le_mul_right 16 h.used) hlow

/-- Without anything to spill, a write of the control register leaves the Hamper as it is. -/
theorem State.afterCtrl_of_calm {s : State} {n : Nat} (h : s.ham.spillChannel = n → s.SpillsNothing) : s.afterCtrl n = s := by
  unfold State.afterCtrl
  split
  next hn =>
    obtain ⟨hwaits, hlow⟩ := h hn
    unfold State.spillAgain
    rw [State.wakeStash_of_none hwaits, State.spillHigh_of_low hlow]
  next => rfl

theorem State.onlyFails_spillResume (s : State) (n : Nat) : s.OnlyFails (s.spillResume n) := by
  unfold State.spillResume
  split
  · exact ⟨fun _ h _ => h, fun _ h => h, fun _ h => h, Nat.le_refl _, rfl, rfl, rfl, rfl⟩
  · exact .refl

section Control

variable {s : State} {n q : Nat} {it : MoverItem} {c : Cmd}

/-- An item of a command that FLUSH ends fails its command. -/
theorem State.flushItem_of_seq (hk : it.kind = .move ∨ it.kind = .fill ∨ it.kind = .cmpr) (hseq : it.seq = some q) (addr : Nat) :
    s.flushItem addr it = s.failCmd q .hostBusError addr := by
  unfold State.flushItem
  obtain hk | hk | hk := hk <;> simp only [hk, hseq]

theorem State.onlyFails_flushItem (hk : it.kind = .move ∨ it.kind = .fill ∨ it.kind = .cmpr) (addr : Nat) :
    s.OnlyFails (s.flushItem addr it) := by
  cases hseq : it.seq with
  | some q =>
    rw [State.flushItem_of_seq hk hseq]
    exact .failCmd ..
  | none =>
    unfold State.flushItem
    obtain hk | hk | hk := hk <;> simp only [hk, hseq] <;> exact .refl

/-- FLUSH fails every command whose item it ends. -/
theorem State.onlyFails_flush (addr : Nat) {l : List MoverItem} (hl : ∀ it ∈ l, it.kind = .move ∨ it.kind = .fill ∨ it.kind = .cmpr)
    (s : State) : s.OnlyFails (l.foldl (fun (s : State) it => s.flushItem addr it) s) ∧
      ∀ it ∈ l, ∀ q, it.seq = some q → (s.cmd q).isSome → (l.foldl (fun (s : State) it => s.flushItem addr it) s).FailedCmd q := by
  induction l generalizing s with
  | nil => exact ⟨.refl, fun it hit => absurd hit List.not_mem_nil⟩
  | cons x l ih =>
    have hx : s.OnlyFails (s.flushItem addr x) := State.onlyFails_flushItem (hl x (.head _)) addr
    obtain ⟨hrest, hfailed⟩ := ih (fun it hit => hl it (.tail _ hit)) (s.flushItem addr x)
    refine ⟨hx.trans hrest, fun it hit q hseq hq => ?_⟩
    obtain rfl | hit := List.mem_cons.mp hit
    · obtain ⟨c, hc⟩ := Option.isSome_iff_exists.mp hq
      refine hrest.failed q ?_
      rw [State.flushItem_of_seq (hl it (.head _)) hseq]
      exact State.failedCmd_failCmd hc ..
    · exact hfailed it hit q hseq (hx.present q hq)

/-- A channel whose queue FLUSH has emptied is not halted. -/
theorem State.flushChan_spec (hs : s.Inv) (hcurrent : (s.chan n).current = none)
    (hqueue : ∀ it ∈ (s.chan n).queue, (it.kind = .move ∨ it.kind = .fill ∨ it.kind = .cmpr) ∧ it.queuedAt < s.now) :
    ((s.flushChan n).chan n).halted = false ∧ ((s.flushChan n).chan n).queue = [] ∧
      (s.setChan n { s.chan n with queue := [], halted := false, consec := 0 }).OnlyFails (s.flushChan n) ∧
        ∀ it ∈ (s.chan n).queue, ∀ q, it.seq = some q → (s.cmd q).isSome → (s.flushChan n).FailedCmd q := by
  have hlate : (s.chan n).queue.filter (fun it => decide (s.now ≤ it.queuedAt)) = [] :=
    List.filter_eq_nil_iff.mpr fun it hit => by simpa using (hqueue it hit).2
  have hearly : (s.chan n).queue.filter (fun it => decide (it.queuedAt < s.now)) = (s.chan n).queue :=
    List.filter_eq_self.mpr fun it hit => decide_eq_true (hqueue it hit).2
  set u := s.setChan n { s.chan n with queue := [], halted := false, consec := 0 } with hu
  obtain ⟨hflush, hfailed⟩ := State.onlyFails_flush (s.chan n).failAddr.toNat (fun it hit => (hqueue it hit).1) u
  set v := (s.chan n).queue.foldl (fun (s' : State) it => s'.flushItem (s.chan n).failAddr.toNat it) u with hv
  have hresume : v.OnlyFails (v.spillResume n) := v.onlyFails_spillResume n
  have hchan : (v.spillResume n).chan n = { s.chan n with queue := [], halted := false, consec := 0 } :=
    (State.chan_of_mv (hflush.trans hresume).mv n).trans (State.chan_setChan_same hs ..)
  have hend : s.flushChan n = v.spillResume n := by
    unfold State.flushChan
    extract_lets h late
    rw [show h.queue.filter (fun it => decide (it.queuedAt < s.now)) = (s.chan n).queue from hearly, show late = [] from hlate]
    exact State.chanGo_of_idle (by rw [hchan]; exact hcurrent) (by rw [hchan])
  rw [hend, hchan]
  exact ⟨rfl, rfl, hflush.trans hresume, fun it hit q hseq hq => hresume.failed q (hfailed it hit q hseq hq)⟩

/-- The control register written, before what its bits do. -/
def State.ctrlStored (s : State) (m : Master) (n v : Nat) : State := (s.reachedBy m).setReg (rChCtrl n) (v % 16)

theorem State.ctrlStored_frame (s : State) (m : Master) {n : Nat} (hn : n < 64) (v : Nat) :
    Frame [.ld, .regs] s (s.ctrlStored m n v) :=
  ((State.reachedBy_frame s m).mono rfl).comp (State.setReg_frame _ _ _ (rChCtrl_ok hn v)) rfl

theorem State.onlyFails_ctrlStored (s : State) (m : Master) {n : Nat} (hn : n < 64) (v : Nat) : s.OnlyFails (s.ctrlStored m n v) :=
  .of_frame (s.ctrlStored_frame m hn v) (congrArg HostGate.cmds (State.reachedBy_hg s m)) rfl rfl

/-- The channel and the present time decide what the bits of the register do. -/
theorem State.chCtrlWrite_eq (m : Master) {n : Nat} (hn : n < 64) (v : Nat) :
    (s.reachedBy m).chCtrlWrite m n v = if ¬ s.owns m ∨ ¬ s.regLands m then s.reachedBy m
      else if ¬ (s.chan n).halted ∨ s.now ≤ (s.chan n).haltedAt then s.ctrlStored m n v
      else if bitAt v 30 then (s.ctrlStored m n v).flushChan n
      else if bitAt v 31 then
        (((s.ctrlStored m n v).setChan n { s.chan n with halted := false, consec := 0 }).spillResume n).chanGo n
      else s.ctrlStored m n v := by
  have hchan : (s.ctrlStored m n v).chan n = s.chan n := State.chan_of_mv (s.onlyFails_ctrlStored m hn v).mv n
  have hnow : (s.ctrlStored m n v).now = s.now := State.now_reachedBy s m
  unfold State.chCtrlWrite
  rw [State.owns_of_tb (State.reachedBy_tb s m), State.regLands_of_tb (State.reachedBy_tb s m)]
  change (if _ then _ else (if ¬ ((s.ctrlStored m n v).chan n).halted ∨ (s.ctrlStored m n v).now ≤ ((s.ctrlStored m n v).chan n).haltedAt
    then s.ctrlStored m n v else if bitAt v 30 then (s.ctrlStored m n v).flushChan n else if bitAt v 31 then
      (((s.ctrlStored m n v).setChan n { (s.ctrlStored m n v).chan n with halted := false, consec := 0 }).spillResume n).chanGo n
      else s.ctrlStored m n v)) = _
  rw [hchan, hnow]

/-- RESTART of a channel without work ends its halt (R358). -/
theorem State.restart_spec (hs : s.Inv) {m : Master} {n : Nat} (hn : n < 64) {v : Nat} (howns : s.owns m = true)
    (hlands : s.regLands m = true) (hhalted : (s.chan n).halted = true) (hlater : (s.chan n).haltedAt < s.now)
    (hcurrent : (s.chan n).current = none) (hqueue : (s.chan n).queue = [])
    (hcalm : s.ham.spillChannel = n → s.SpillsNothing) (hrestart : bitAt v 31 = true) (hflush : bitAt v 30 = false) :
    ((((s.reachedBy m).chCtrlWrite m n v).afterCtrl n).chan n).halted = false ∧
      (((s.reachedBy m).chCtrlWrite m n v).afterCtrl n).reg (rChCtrl n) = v % 16 := by
  have hstored := s.onlyFails_ctrlStored m hn v
  have hinv : (s.ctrlStored m n v).Inv := (s.ctrlStored_frame m hn v).inv hs
  have hreg : (s.ctrlStored m n v).reg (rChCtrl n) = v % 16 := by
    unfold State.ctrlStored
    rw [State.reg_setReg (by rw [State.reachedBy_regs]; exact hs.regs.1), if_pos rfl]
    exact Nat.mod_eq_of_lt (Nat.lt_of_lt_of_le (Nat.mod_lt _ (by decide)) (by decide))
  set h : Channel := { s.chan n with halted := false, consec := 0 } with hh
  set u := (s.ctrlStored m n v).setChan n h with hu
  have hresume : u.OnlyFails (u.spillResume n) := u.onlyFails_spillResume n
  have hchan : (u.spillResume n).chan n = h := (State.chan_of_mv hresume.mv n).trans (State.chan_setChan_same hinv ..)
  have hrun : (s.reachedBy m).chCtrlWrite m n v = u.spillResume n := by
    rw [State.chCtrlWrite_eq m hn v, if_neg (by simp [howns, hlands]), if_neg (by simp [hhalted, hlater]), if_neg (by simp [hflush]),
      if_pos hrestart]
    exact State.chanGo_of_idle ((congrArg Channel.current hchan).trans hcurrent) ((congrArg Channel.queue hchan).trans hqueue)
  have hquiet : (u.spillResume n).afterCtrl n = u.spillResume n := State.afterCtrl_of_calm fun hn' =>
    hresume.spillsNothing (hstored.spillsNothing (hcalm (hstored.channel.symm.trans (hresume.channel.symm.trans hn'))))
  rw [hrun, hquiet, hchan]
  exact ⟨rfl, (State.reg_of_regs ((State.spillResume_frame ..).same .regs (by decide)) _).trans hreg⟩

/-- FLUSH ends the halt and fails the commands of the queue (R358). -/
theorem State.flush_spec (hs : s.Inv) {m : Master} {n : Nat} (hn : n < 64) {v : Nat} (howns : s.owns m = true)
    (hlands : s.regLands m = true) (hhalted : (s.chan n).halted = true) (hlater : (s.chan n).haltedAt < s.now)
    (hcurrent : (s.chan n).current = none)
    (hqueue : ∀ it ∈ (s.chan n).queue, (it.kind = .move ∨ it.kind = .fill ∨ it.kind = .cmpr) ∧ it.queuedAt < s.now)
    (hcalm : s.ham.spillChannel = n → s.SpillsNothing) (hflush : bitAt v 30 = true) :
    ((((s.reachedBy m).chCtrlWrite m n v).afterCtrl n).chan n).halted = false ∧
      ((((s.reachedBy m).chCtrlWrite m n v).afterCtrl n).chan n).queue = [] ∧
        ∀ it ∈ (s.chan n).queue, ∀ q c, it.seq = some q → s.cmd q = some c →
          ∃ d, (((s.reachedBy m).chCtrlWrite m n v).afterCtrl n).cmd q = some d ∧ d.stage = .failed := by
  have hstored := s.onlyFails_ctrlStored m hn v
  have hinv : (s.ctrlStored m n v).Inv := (s.ctrlStored_frame m hn v).inv hs
  have hchan : (s.ctrlStored m n v).chan n = s.chan n := State.chan_of_mv hstored.mv n
  have hnow : (s.ctrlStored m n v).now = s.now := State.now_reachedBy s m
  obtain ⟨hopen, hempty, hfails, hfailed⟩ := State.flushChan_spec hinv (by rw [hchan]; exact hcurrent)
    (by rw [hchan, hnow]; exact hqueue)
  have hrun : (s.reachedBy m).chCtrlWrite m n v = (s.ctrlStored m n v).flushChan n := by
    rw [State.chCtrlWrite_eq m hn v, if_neg (by simp [howns, hlands]), if_neg (by simp [hhalted, hlater]), if_pos hflush]
  have hquiet : ((s.ctrlStored m n v).flushChan n).afterCtrl n = (s.ctrlStored m n v).flushChan n :=
    State.afterCtrl_of_calm fun hn' =>
      hfails.spillsNothing (hstored.spillsNothing (hcalm (hstored.channel.symm.trans (hfails.channel.symm.trans hn'))))
  rw [hrun, hquiet]
  refine ⟨hopen, hempty, fun it hit q c hseq hc => hfailed it (by rw [hchan]; exact hit) q hseq (hstored.present q ?_)⟩
  rw [hc]
  rfl

/-- In the cycle of the halt a write leaves the channel as it is (R358). -/
theorem State.chan_sameCycle {m : Master} {n : Nat} (hn : n < 64) (v : Nat) (hsame : s.now ≤ (s.chan n).haltedAt)
    (hother : s.ham.spillChannel ≠ n) (b : Bool) :
    (if b then ((s.reachedBy m).chCtrlWrite m n v).afterCtrl n else s.reachedBy m).chan n = s.chan n := by
  have hreached : s.OnlyFails (s.reachedBy m) :=
    .of_frame (s.reachedBy_frame m) (congrArg HostGate.cmds (State.reachedBy_hg s m)) rfl rfl
  have hwrite : s.OnlyFails ((s.reachedBy m).chCtrlWrite m n v) := by
    rw [State.chCtrlWrite_eq m hn v, if_pos (c := ¬ (s.chan n).halted ∨ s.now ≤ (s.chan n).haltedAt) (.inr hsame)]
    split
    · exact hreached
    · exact s.onlyFails_ctrlStored m hn v
  cases b
  · exact State.chan_of_mv hreached.mv n
  · rw [if_pos rfl, State.afterCtrl_of_calm fun h => absurd (hwrite.channel.symm.trans h) hother]
    exact State.chan_of_mv hwrite.mv n

end Control

/-- Settles O19: the halt, its end by RESTART or FLUSH, and the wait on a halted channel. -/
theorem moverFailuresHaltTheChannel : Obligations.MoverFailuresHaltTheChannel := by
  refine ⟨?fail, ?restart, ?flush, ?cycle, ?wait⟩
  case fail =>
    intro s n addr dir cause issued it x q c hs hcurrent hx hskip hk hback hread hfirst huncorr hlost hseq hc
    obtain ⟨v, h, hkeeps, hinv, hrun⟩ := State.requestFail_halts (addr := addr.toNat) (cause := cause.val) hs hcurrent hx hskip hk hback
      hread hfirst huncorr hseq rfl issued
    obtain ⟨hhalted, hfree, haddr, hdir, hcause, hfailed⟩ := State.halted_failMem hinv ((State.cmd_of_cmds hkeeps.cmds q).trans hc) dir.val
      (hlost.imp_right hkeeps.written.trans) hrun
    have hspill : s.spillCurrent n.val = false := by
      unfold State.spillCurrent
      rw [hcurrent]
      obtain hk | hk | hk := hk <;> simp [hk]
    refine ⟨s.requestFail n.val addr.toNat dir.val cause.val issued, ?_, hhalted, hfree, ?_, hdir, hcause, hfailed⟩
    · simp only [exec, execMoverRequestFail, hspill, Bool.false_eq_true, if_false]
    · rw [haddr]
      split
      · rfl
      · exact BitVec.eq_of_toNat_eq (by simp)
  case restart =>
    intro s m n v hs howns hlands hhalted hlater hcurrent hqueue hcalm hrestart hflush
    refine ⟨((s.reachedBy m).chCtrlWrite m n.val v.toNat).afterCtrl n.val, ?_,
      State.restart_spec hs n.isLt howns hlands hhalted hlater hcurrent hqueue hcalm hrestart hflush⟩
    simp only [exec, execMoverRestart, hrestart, if_true]
  case flush =>
    intro s m n v hs howns hlands hhalted hlater hcurrent hqueue hcalm hflush
    refine ⟨((s.reachedBy m).chCtrlWrite m n.val v.toNat).afterCtrl n.val, ?_,
      State.flush_spec hs n.isLt howns hlands hhalted hlater hcurrent hqueue hcalm hflush⟩
    simp only [exec, execMoverFlush, hflush, if_true]
  case cycle =>
    intro s m n v hs hhalted hsame hother
    exact ⟨_, _, rfl, rfl, State.chan_sameCycle n.isLt v.toNat hsame hother (bitAt v.toNat 31),
      State.chan_sameCycle n.isLt v.toNat hsame hother (bitAt v.toNat 30)⟩
  case wait =>
    intro s q n it c hs hqueued hhalted hfound hlate hc
    have hrun : s.haltedTimeout q = (s.setChan n { s.chan n with queue := (s.chan n).queue.filter fun it => it.seq != some q }).failCmd q
        .hostBusError (s.chan n).failAddr.toNat := by
      unfold State.haltedTimeout
      simp only [hqueued, hfound]
      exact if_pos ⟨hhalted, hlate⟩
    refine ⟨_, congrArg Host.Outcome.next hrun, ?_, State.failedCmd_failCmd (s := s.setChan n _) hc ..⟩
    rw [State.chan_of_mv (State.OnlyFails.failCmd ..).mv, State.chan_setChan_same hs]

end Sys2Proof.Machine
end

section
/-!
The aperture (R383): what a read answers, and which bytes a write changes.
-/
namespace Sys2Proof.Machine

open Sys2Proof

/-! ### What leaves the module is added to what has left it -/

/-- Messages are added at the end. -/
def State.Sends (s t : State) : Prop := ∃ l, t.out = s.out ++ l

namespace State.Sends

variable {s t u : State}

theorem of_out (h : t.out = s.out) : s.Sends t := ⟨[], by rw [h, List.append_nil]⟩

theorem refl : s.Sends s := of_out rfl

theorem trans (h : s.Sends t) (k : t.Sends u) : s.Sends u := by
  obtain ⟨l, hl⟩ := h
  obtain ⟨m, hm⟩ := k
  exact ⟨l ++ m, by rw [hm, hl, List.append_assoc]⟩

theorem of_frame {l : List Comp} (h : Frame l s t) (hl : l.contains .out = false) : s.Sends t :=
  of_out (h.same .out (by simpa using hl))

theorem foldl {α : Type} {f : State → α → State} (hf : ∀ (v : State) x, v.Sends (f v x)) (l : List α) (s : State) : s.Sends (l.foldl f s) :=
  List.foldlRecOn (motive := fun v : State => s.Sends v) l f refl fun v hv x _ => hv.trans (hf v x)

theorem sendSource (s : State) (n : Nat) : s.Sends (s.sendSource n) := by
  unfold State.sendSource
  split
  · exact ⟨_, rfl⟩
  · unfold State.sendVector
    split
    · exact ⟨_, rfl⟩
    · exact of_out rfl

theorem arrive (s : State) (n : Nat) : s.Sends (s.arrive n) := by
  unfold State.arrive
  split
  · exact refl
  · extract_lets noted c _ counted woken
    have hcounted : s.Sends counted := by
      unfold counted
      split <;> exact of_out rfl
    have hwoken : s.Sends woken := by
      unfold woken
      split
      · exact hcounted.trans (of_frame (State.wakeA2_frame ..) rfl)
      · exact hcounted
    split
    · exact hwoken.trans (sendSource ..)
    · exact hwoken

theorem bump (s : State) (off n : Nat) : s.Sends (s.bump off n) := of_out rfl

theorem trigger (s : State) (cause : Nat) : s.Sends (s.trigger cause) := by
  unfold State.trigger
  extract_lets gated l logged
  have hlogged : s.Sends logged := foldl (fun v u => of_frame (State.triggerLog_frame ..) rfl) _ s
  split
  · exact hlogged
  · exact hlogged.trans (arrive ..)

theorem cper (s : State) (b : CperBody) : s.Sends (s.cper b) := by
  unfold State.cper
  extract_lets w _ recorded u
  have hrecorded : s.Sends recorded := by
    unfold recorded
    split
    · exact of_out rfl
    · exact (of_out rfl : s.Sends _).trans (arrive ..)
  exact (hrecorded.trans (of_frame (State.logFor_frame ..) rfl)).trans (trigger ..)

theorem startRemap (s : State) (st pch row mech syn : Nat) : s.Sends (s.startRemap st pch row mech syn) := by
  unfold State.startRemap
  split
  · exact refl
  extract_lets
  split
  · exact cper ..
  · exact of_out rfl

theorem stackError (s : State) (cw : Nat) (bad : Bool) (syn : Nat) : s.Sends (s.stackError cw bad syn) := by
  unfold State.stackError
  split
  · exact refl
  extract_lets unit counted recorded _ targeted
  have hcounted : s.Sends counted.1 := of_frame (State.noteError_frame ..) rfl
  have hrecorded : s.Sends recorded := by
    unfold recorded
    split
    · exact hcounted
    · exact (hcounted.trans (bump _ 0x2800418 1)).trans (cper ..)
  have htargeted : s.Sends targeted := by
    unfold targeted
    split
    · exact hrecorded
    · exact hrecorded.trans (of_out rfl)
  split
  · exact htargeted.trans (startRemap ..)
  · exact htargeted

theorem noteMerge (s : State) (cw : Nat) : s.Sends (s.noteMerge cw) := by
  unfold State.noteMerge
  split
  · exact refl
  · have hcount : s.Sends (s.countCorr cw) := of_frame (State.countCorr_frame ..) rfl
    exact (hcount.trans (of_out rfl)).trans (stackError ..)
  · exact (bump s 0x1000340 1).trans (stackError ..)

theorem noteCw (s : State) (cw : Nat) : s.Sends (s.noteCw cw) := by
  unfold State.noteCw
  extract_lets merged
  have hmerged : s.Sends merged := noteMerge s cw
  split
  · exact hmerged
  split
  · exact hmerged.trans (bump ..)
  split
  · exact hmerged.trans (bump ..)
  · exact hmerged

end State.Sends

/-! ### APERTURE_READ -/

section Read

variable {s : State} {m : Master} {off n a : Nat}

theorem State.data_reachedBy (s : State) (m : Master) : s.SameData (s.reachedBy m) := (State.reachedBy_frame ..).sameData rfl

/-- What a read of the aperture finds in the codewords is noted. -/
def State.apertureNoted (s : State) (a n : Nat) : State :=
  (cwsOf a n).foldl (fun (u : State) cw => if s.poisoned cw && !s.zoneClash cw then u.noteMerge cw else u.noteCw cw) s

theorem State.data_apertureNoted (s : State) (a n : Nat) : s.SameData (s.apertureNoted a n) :=
  State.SameData.foldl (fun v cw => by split; exacts [State.noteMerge_data .., State.noteCw_data ..]) _ s

theorem State.sends_apertureNoted (s : State) (a n : Nat) : s.Sends (s.apertureNoted a n) :=
  .foldl (fun v cw => by split; exacts [.noteMerge .., .noteCw ..]) _ s

theorem State.apertureRead_served (hpath : s.aperturePath m = true) (ha : s.apertureAt m off n = some a) :
    s.apertureRead m off n = if (s.rdFail a n).isSome
      then (((s.apertureNoted a n).emit (.aperture m ((s.apertureNoted a n).freeBytes n) true)).freeStep).reachedBy m
      else ((s.apertureNoted a n).emit (.aperture m (s.rd a n) false)).reachedBy m := by
  unfold State.apertureRead
  rw [if_neg (not_not.mpr hpath), ha]
  rfl

theorem State.apertureRead_unserved (hpath : s.aperturePath m = true) (ha : s.apertureAt m off n = none) :
    s.apertureRead m off n = (s.emit (.aperture m (List.replicate n 0) false)).reachedBy m := by
  unfold State.apertureRead
  rw [if_neg (not_not.mpr hpath), ha]

theorem State.apertureRead_data (s : State) (m : Master) (off n : Nat) : s.SameData (s.apertureRead m off n) := by
  have hemit (v : State) (b : List Byte) (p : Bool) : v.SameData (v.emit (.aperture m b p)) := ⟨rfl, rfl⟩
  have hfree (v : State) : v.SameData v.freeStep := ⟨rfl, rfl⟩
  by_cases hpath : s.aperturePath m = true
  · cases ha : s.apertureAt m off n with
    | none =>
      rw [State.apertureRead_unserved hpath ha]
      exact (hemit ..).trans (State.data_reachedBy ..)
    | some a =>
      rw [State.apertureRead_served hpath ha]
      have hnoted := s.data_apertureNoted a n
      split
      · exact (hnoted.trans (hemit ..)).trans ((hfree _).trans (State.data_reachedBy ..))
      · exact (hnoted.trans (hemit ..)).trans (State.data_reachedBy ..)
  · unfold State.apertureRead
    rw [if_pos hpath]
    exact ⟨rfl, rfl⟩

end Read

/-! ### APERTURE_WRITE -/

/-- A block of the stacks outside the Hamper region. -/
def State.blockOpen (s : State) (b : Nat) : Bool :=
  match placeOf s.ms.interleave b with
  | .stack _ o => !s.inHamper o
  | _ => false

theorem State.blockOpen_iff {s : State} {b : Nat} : s.blockOpen b = true ↔
    ∃ st o, placeOf s.ms.interleave b = .stack st o ∧ s.inHamper o = false := by
  unfold State.blockOpen
  split
  next st o h => simp [h]
  next h => exact ⟨fun hopen => absurd hopen Bool.false_ne_true, fun ⟨st, o, hplace, _⟩ => absurd hplace (h st o)⟩

/-- Bit 63 is the same within a block of 4 KiB. -/
theorem isHost_block {i j : Nat} (h : i / 4096 = j / 4096) : isHost i = isHost j := by
  have hhigh : i / 2 ^ 63 = j / 2 ^ 63 := by omega
  simp only [isHost, bitsOf, Nat.shiftRight_eq_div_pow, hhigh]

theorem mem_blocksOf {a n b : Nat} : b ∈ blocksOf a n ↔ ∃ j, a ≤ j ∧ j < a + n ∧ b = j / 4096 * 4096 := by
  unfold blocksOf
  split
  next h => simp; omega
  next h =>
    simp only [List.mem_map, List.mem_range]
    constructor
    · rintro ⟨i, hi, rfl⟩
      exact ⟨max a ((a / 4096 + i) * 4096), by omega, by omega, by omega⟩
    · rintro ⟨j, hj, hjn, rfl⟩
      exact ⟨j / 4096 - a / 4096, by omega, by omega⟩

section Write

variable {s u : State} {m : Master} {off a : Nat} {l : List Byte}

/-- The part of the data that lies in block `b`. -/
def blockPart (a : Nat) (l : List Byte) (b : Nat) : List Byte := (l.drop (max a b - a)).take (b + 4096 - max a b)

/-- One block of a write to the aperture. -/
def State.writeBlock (s u : State) (a : Nat) (l : List Byte) (b : Nat) : State :=
  if s.blockOpen b then u.wr (max a b) (blockPart a l b) else u

theorem State.apertureBytes_eq (s : State) (a : Nat) (l : List Byte) :
    s.apertureBytes a l = (blocksOf a l.length).foldl (fun u b => s.writeBlock u a l b) s := by
  unfold State.apertureBytes
  congr 1
  funext u b
  unfold State.writeBlock State.blockOpen blockPart
  cases placeOf s.ms.interleave b with
  | stack st o => cases hin : s.inHamper o <;> simp [hin]
  | host => rfl
  | wstore _ => rfl
  | hub => rfl
  | journal => rfl
  | outside => rfl

/-- A byte of an open block has its new value; every byte elsewhere is as before. -/
theorem State.rdByte_writeBlock (hu : u.Inv) {b : Nat} (hb : b % 4096 = 0) :
    (s.writeBlock u a l b).Inv ∧
      (∀ i (h : i < l.length), (a + i) / 4096 * 4096 = b → s.blockOpen b = true → (s.writeBlock u a l b).rdByte (a + i) = l[i]) ∧
      ∀ j, (j < a ∨ a + l.length ≤ j ∨ j / 4096 * 4096 ≠ b ∨ s.blockOpen b = false) → (s.writeBlock u a l b).rdByte j = u.rdByte j := by
  unfold State.writeBlock
  have hlen : (blockPart a l b).length = min (b + 4096 - max a b) (l.length - (max a b - a)) := by simp [blockPart]
  cases hopen : s.blockOpen b with
  | false => exact ⟨hu, fun i h hi ho => (by cases ho), fun j _ => rfl⟩
  | true =>
    rw [if_pos rfl]
    refine ⟨(State.wr_frame ..).inv hu, fun i h hi _ => ?_, fun j hj => State.rdByte_wr_out hu ?_⟩
    · have hplace : a + i = max a b + (a + i - max a b) := by omega
      have hin : a + i - max a b < (blockPart a l b).length := by omega
      rw [hplace, State.rdByte_wr hu hin (isHost_block (by omega))]
      simp only [blockPart, List.getElem_take, List.getElem_drop]
      congr 1
      omega
    · rw [hlen]
      simp only [Bool.true_eq_false, or_false] at hj
      omega

/-- The blocks of a list are written, and no others. -/
theorem State.rdByte_writeBlocks {bs : List Nat} (hbs : ∀ b ∈ bs, b % 4096 = 0) (hu : u.Inv) :
    (∀ i (h : i < l.length), (a + i) / 4096 * 4096 ∈ bs → s.blockOpen ((a + i) / 4096 * 4096) = true →
      (bs.foldl (fun u b => s.writeBlock u a l b) u).rdByte (a + i) = l[i]) ∧
    ∀ j, (j < a ∨ a + l.length ≤ j ∨ s.blockOpen (j / 4096 * 4096) = false ∨ j / 4096 * 4096 ∉ bs) →
      (bs.foldl (fun u b => s.writeBlock u a l b) u).rdByte j = u.rdByte j := by
  induction bs generalizing u with
  | nil => exact ⟨fun i h hi => absurd hi List.not_mem_nil, fun j _ => rfl⟩
  | cons b bs ih =>
    obtain ⟨hinv, hin, hout⟩ := State.rdByte_writeBlock (s := s) (a := a) (l := l) hu (hbs b (.head _))
    obtain ⟨hrest, hkeep⟩ := ih (fun c hc => hbs c (.tail _ hc)) hinv
    refine ⟨fun i h hi hopen => ?_, fun j hj => ?_⟩
    · by_cases hlater : (a + i) / 4096 * 4096 ∈ bs
      · exact hrest i h hlater hopen
      · obtain rfl | hlate := List.mem_cons.mp hi
        · exact (hkeep _ (.inr (.inr (.inr hlater)))).trans (hin i h rfl hopen)
        · exact absurd hlate hlater
    · have hlater : j < a ∨ a + l.length ≤ j ∨ s.blockOpen (j / 4096 * 4096) = false ∨ j / 4096 * 4096 ∉ bs :=
        hj.imp_right (Or.imp_right (Or.imp_right fun h hmem => h (.tail _ hmem)))
      refine (hkeep j hlater).trans (hout j ?_)
      by_cases hb : j / 4096 * 4096 = b
      · subst hb
        obtain h | h | h | h := hj
        · exact .inl h
        · exact .inr (.inl h)
        · exact .inr (.inr (.inr h))
        · exact absurd (.head _) h
      · exact .inr (.inr (.inl hb))

/-- Which bytes a write of the aperture changes (R383). -/
theorem State.rdByte_apertureBytes (hs : s.Inv) (a : Nat) (l : List Byte) :
    (∀ i (h : i < l.length), s.blockOpen ((a + i) / 4096 * 4096) = true → (s.apertureBytes a l).rdByte (a + i) = l[i]) ∧
      ∀ j, (j < a ∨ a + l.length ≤ j ∨ s.blockOpen (j / 4096 * 4096) = false) → (s.apertureBytes a l).rdByte j = s.rdByte j := by
  have hblocks (b : Nat) (hb : b ∈ blocksOf a l.length) : b % 4096 = 0 := by
    obtain ⟨j, -, -, rfl⟩ := mem_blocksOf.mp hb
    omega
  obtain ⟨hin, hout⟩ := State.rdByte_writeBlocks (s := s) (a := a) (l := l) hblocks hs
  rw [State.apertureBytes_eq]
  exact ⟨fun i h hopen => hin i h (mem_blocksOf.mpr ⟨a + i, by omega, by omega, rfl⟩) hopen,
    fun j hj => hout j (hj.imp_right (Or.imp_right .inl))⟩

theorem State.aperturePath_of_at {n : Nat} (h : s.apertureAt m off n = some a) : s.aperturePath m = true := by
  unfold State.apertureAt at h
  extract_lets size base at h
  split at h
  next hserved => exact hserved.2.1
  next => cases h

theorem State.apertureWrite_served (ha : s.apertureAt m off l.length = some a) :
    s.apertureWrite m off l = (s.apertureBytes a l).reachedBy m := by
  unfold State.apertureWrite
  rw [if_neg (not_not.mpr (State.aperturePath_of_at ha)), ha]

theorem State.apertureWrite_unserved (ha : s.apertureAt m off l.length = none) : s.SameData (s.apertureWrite m off l) := by
  unfold State.apertureWrite
  rw [ha]
  split
  · exact ⟨rfl, rfl⟩
  · exact State.data_reachedBy ..

end Write

/-- Settles O46: reads answer the bytes and change none, writes change the open ones. -/
theorem theApertureReadsAndWritesDeviceMemory : Obligations.TheApertureReadsAndWritesDeviceMemory := by
  refine ⟨?read, ?write, ?discarded, ?barred⟩
  case read =>
    intro s m off n hm
    have hpath : s.aperturePath m = true := hm.elim (fun h => h ▸ rfl) id
    refine ⟨_, rfl, (s.apertureRead_data m off.toNat n.val).rdByte, fun ha => ?_, fun a ha => ⟨fun hread => ?_, fun hread => ?_⟩⟩
    · rw [State.apertureRead_unserved hpath ha, State.reachedBy_out]
      rfl
    · obtain ⟨l, hl⟩ := s.sends_apertureNoted a n.val
      rw [State.apertureRead_served hpath ha, if_neg (by simp [hread]), State.reachedBy_out]
      exact ⟨l, congrArg (· ++ _) hl⟩
    · obtain ⟨l, hl⟩ := s.sends_apertureNoted a n.val
      rw [State.apertureRead_served hpath ha, if_pos (Option.isSome_iff_ne_none.mpr hread), State.reachedBy_out]
      exact ⟨l, _, congrArg (· ++ _) hl, by simp [State.freeBytes]⟩
  case write =>
    intro s m off data a isOpen hs ha hopen
    obtain ⟨hin, hout⟩ := State.rdByte_apertureBytes hs a data
    have hreached (v : State) (j : Nat) : (v.reachedBy m).rdByte j = v.rdByte j := (v.data_reachedBy m).rdByte j
    refine ⟨_, congrArg Host.Outcome.next (State.apertureWrite_served ha), fun i h hi => ?_, fun j hj => ?_⟩
    · rw [hreached]
      exact hin i h (State.blockOpen_iff.mpr ((hopen _).mp hi))
    · rw [hreached]
      refine hout j (hj.elim (fun h => ?_) fun h => ?_)
      · exact (h (a, data.length) (.head _)).imp_right .inl
      · exact .inr (.inr (Bool.eq_false_iff.mpr fun hb => h ((hopen j).mpr (State.blockOpen_iff.mp hb))))
  case discarded =>
    intro s m off data ha
    exact ⟨_, rfl, (State.apertureWrite_unserved ha).rdByte⟩
  case barred =>
    intro s m off n data hm
    have hpath : s.aperturePath m = false := by
      obtain rfl | ⟨rfl, h⟩ := hm
      · rfl
      · obtain h | h | h := h <;> simp [State.aperturePath, h]
    exact ⟨congrArg Host.Outcome.next (if_pos (by simp [hpath])), congrArg Host.Outcome.next (if_pos (by simp [hpath]))⟩

end Sys2Proof.Machine
end

section
/-!
Zeroing of a stack or a store (R365, R366): its memory reads zero, the rest as before.
-/
namespace Sys2Proof.Machine

open Sys2Proof

/-! ### Places are whole blocks of 4 KiB (R363) -/

theorem bitsOf_block {i j lo : Nat} (w : Nat) (h : i / 4096 = j / 4096) (hlo : 12 ≤ lo) : bitsOf i lo w = bitsOf j lo w := by
  have hsplit (a : Nat) : a / 2 ^ lo = a / 4096 / 2 ^ (lo - 12) := by
    rw [Nat.div_div_eq_div_mul, show 4096 = 2 ^ 12 by decide, ← Nat.pow_add, Nat.add_sub_cancel' hlo]
  simp only [bitsOf, Nat.shiftRight_eq_div_pow, hsplit, h]

theorem stackOf_block {i j : Nat} (mode : Nat) (h : i / 4096 = j / 4096) : (stackOf mode i).1 = (stackOf mode j).1 := by
  unfold stackOf
  split
  · simp only [bitsOf_block (lo := 37) 2 h (by decide), bitsOf_block (lo := 12) 1 h (by decide)]
  · split
    · exact bitsOf_block 3 h (by decide)
    · exact bitsOf_block 3 h (by decide)

/-- Which memory an address names, without its offset there. -/
def Place.memory : Place → Place
  | .stack st _ => .stack st 0
  | p => p

theorem placeOf_block {i j : Nat} (mode : Nat) (h : i / 4096 = j / 4096) : (placeOf mode i).memory = (placeOf mode j).memory := by
  have hstack : i < 2 ^ 39 ↔ j < 2 ^ 39 := by omega
  have hwork : 0x80_0000_0000 ≤ i ∧ i < 0x80_4000_0000 ↔ 0x80_0000_0000 ≤ j ∧ j < 0x80_4000_0000 := by omega
  have hhub : 0x80_4000_0000 ≤ i ∧ i < 0x80_4500_0000 ↔ 0x80_4000_0000 ≤ j ∧ j < 0x80_4500_0000 := by omega
  have hjournal : 0x80_4500_0000 ≤ i ∧ i < 0x80_4800_0000 ↔ 0x80_4500_0000 ≤ j ∧ j < 0x80_4800_0000 := by omega
  unfold placeOf
  simp only [isHost_block h, hstack, hwork, hhub, hjournal]
  split
  · rfl
  split
  · simp only [Place.memory, stackOf_block mode h]
  split
  next hin =>
    have hsize : (i - 0x80_0000_0000) % 0x1000_0000 < 0xC00_0000 ↔ (j - 0x80_0000_0000) % 0x1000_0000 < 0xC00_0000 := by omega
    have hdie : (i - 0x80_0000_0000) / 0x1000_0000 = (j - 0x80_0000_0000) / 0x1000_0000 := by omega
    simp only [hsize, hdie]
  · rfl

theorem State.inStack_memory (s : State) (st a : Nat) : s.inStack st a = ((placeOf s.ms.interleave a).memory == .stack st 0) := by
  unfold State.inStack
  cases placeOf s.ms.interleave a <;> simp [Place.memory]

theorem State.inStore_memory (s : State) (k a : Nat) : s.inStore k a = match (placeOf s.ms.interleave a).memory with
    | .wstore d => d == k
    | .hub => k == 4
    | .journal => k == 4
    | _ => false := by
  unfold State.inStore
  cases placeOf s.ms.interleave a <;> rfl

/-! ### Zeroing -/

section Zero

variable {α : Type} {s : State} {f : Nat → Bool}

theorem Tab.get_filter_key (d : Nat → α) (g : Nat → Bool) (t : Tab α) (k : Nat) :
    Tab.get d (t.filter fun p => !g p.1) k = if g k then d k else Tab.get d t k := by
  induction t with
  | nil => simp [Tab.get]
  | cons p t ih =>
    by_cases hp : g p.1 = true
    · rw [List.filter_cons_of_neg (by simp [hp]), ih, Tab.get]
      split
      · rfl
      next hk =>
        rw [if_neg (fun h => hk (by rw [← h]; exact hp))]
    · rw [List.filter_cons_of_pos (by simp [hp]), Tab.get, Tab.get, ih]
      by_cases hk : p.1 = k
      · subst hk
        simp [hp]
      · simp [hk]

/-- The addresses that are zeroed are whole codewords. -/
def WholeCws (f : Nat → Bool) : Prop := ∀ j, f (32 * (j / 32)) = f j

theorem wholeCws_inStack (s : State) (st : Nat) : WholeCws (s.inStack st) := fun j => by
  rw [State.inStack_memory, State.inStack_memory, placeOf_block _ (by omega : 32 * (j / 32) / 4096 = j / 4096)]

theorem wholeCws_inStore (s : State) (k : Nat) : WholeCws (s.inStore k) := fun j => by
  rw [State.inStore_memory, State.inStore_memory, placeOf_block _ (by omega : 32 * (j / 32) / 4096 = j / 4096)]

theorem State.byte_zero (s : State) (f : Nat → Bool) (j : Nat) : (s.zero f).byte j = if f j then 0 else s.byte j :=
  Tab.get_filter_key ..

theorem State.upset_zero (s : State) (f : Nat → Bool) (cw : Nat) : (s.zero f).upset cw = if f (32 * cw) then 0 else s.upset cw :=
  Tab.get_filter_key (fun _ => 0) (fun cw => f (32 * cw)) ..

theorem State.poisoned_zero (s : State) (f : Nat → Bool) (cw : Nat) :
    (s.zero f).poisoned cw = if f (32 * cw) then false else s.poisoned cw :=
  Tab.get_filter_key (fun _ => false) (fun cw => f (32 * cw)) ..

/-- Zeroed memory reads zero and is not poisoned. -/
theorem State.zero_in (hf : WholeCws f) {j : Nat} (hj : f j = true) : (s.zero f).rdByte j = 0 ∧ (s.zero f).poisoned (j / 32) = false := by
  have hcw : f (32 * (j / 32)) = true := (hf j).trans hj
  rw [State.rdByte_clean (.inr (by rw [State.upset_zero, if_pos hcw])), State.byte_zero, if_pos hj, State.poisoned_zero, if_pos hcw]
  exact ⟨rfl, rfl⟩

/-- The rest reads as before. -/
theorem State.zero_out (hf : WholeCws f) {j : Nat} (hj : f j = false) : (s.zero f).rdByte j = s.rdByte j := by
  have hcw : f (32 * (j / 32)) = false := (hf j).trans hj
  unfold State.rdByte
  rw [State.byte_zero, State.upset_zero]
  simp [hj, hcw]

end Zero

/-! ### The bits (R449) -/

section Bits

variable {s t : State} {f : Nat → Bool} {k : Nat}

theorem State.readyKey_setReady_same (s : State) (k : Nat) : (s.setReady k).readyKey k = true := by
  unfold State.setReady
  rw [(State.BitsKept.arrive ..).readyKey]
  exact (Tab.get_set_of_ne (by decide) _ _).trans (if_pos rfl)

theorem State.failedKey_setFailed_same (s : State) (k : Nat) :
    (s.setFailed k).failedKey k = true ∧ (s.setFailed k).readyKey k = s.readyKey k := by
  unfold State.setFailed
  rw [(State.BitsKept.arrive ..).readyKey, (State.BitsKept.arrive ..).failedKey]
  exact ⟨(Tab.get_set_of_ne (by decide) _ _).trans (if_pos rfl), rfl⟩

/-- Memory that has been zeroed is ready. -/
theorem State.zeroed_ready (s : State) (hf : WholeCws f) (k : Nat) : ((s.zero f).setReady k).readyKey k = true ∧
    (∀ j, f j = true → ((s.zero f).setReady k).rdByte j = 0 ∧ ((s.zero f).setReady k).poisoned (j / 32) = false) ∧
      ∀ j, f j = false → ((s.zero f).setReady k).rdByte j = s.rdByte j := by
  have hms : ((s.zero f).setReady k).ms = (s.zero f).ms := (State.setReady_frame ..).ms_eq rfl
  have hbyte (j : Nat) : ((s.zero f).setReady k).rdByte j = (s.zero f).rdByte j := State.rdByte_of_ms hms j
  have hpoisoned (cw : Nat) : ((s.zero f).setReady k).poisoned cw = (s.zero f).poisoned cw := by unfold State.poisoned; rw [hms]
  refine ⟨State.readyKey_setReady_same .., fun j hj => ?_, fun j hj => ?_⟩
  · rw [hbyte, hpoisoned]
    exact State.zero_in hf hj
  · rw [hbyte]
    exact State.zero_out hf hj

end Bits

/-- Settles O48: zeroing empties its memory alone and sets its ready bit, or its failed bit. -/
theorem zeroedMemoryReadsZeroAndIsReady : Obligations.ZeroedMemoryReadsZeroAndIsReady := by
  refine ⟨?stack, ?store⟩
  case stack =>
    intro s st hpower hready hfailed
    have hready' : s.readyKey (30 + st.val) = false := hready
    have hfailed' : s.failedKey (30 + st.val) = false := hfailed
    exact ⟨_, congrArg Host.Outcome.next (if_neg (by simp [hpower, hready', hfailed'])),
      s.zeroed_ready (wholeCws_inStack s st.val) (30 + st.val)⟩
  case store =>
    intro s k hpower hready hfailed
    have hruns : ¬ (s.ld.pwr = .a3 ∨ s.readyKey (38 + k.val) = true ∨ s.failedKey (38 + k.val) = true) := by
      simp [hpower, hready, hfailed]
    obtain ⟨hmark, hkeep⟩ := s.failedKey_setFailed_same (38 + k.val)
    refine ⟨⟨_, congrArg Host.Outcome.next (if_neg hruns), s.zeroed_ready (wholeCws_inStore s k.val) (38 + k.val)⟩,
      ⟨_, congrArg Host.Outcome.next (if_neg hruns), hmark, hkeep.trans hready, fun j => ?_⟩⟩
    have hms : (s.setFailed (38 + k.val)).ms = s.ms := (State.setFailed_frame ..).ms_eq rfl
    exact State.rdByte_of_ms hms j

end Sys2Proof.Machine
end


section
/-!
Bring-up (R402, R406, R449, Table 16.4): what FUNCTION_READY and IDENTITY_REGENERATED set, and that the firmware's start keeps
its own ready bit while the enabled ports train.
-/
namespace Sys2Proof.Machine

open Sys2Proof

/-- A write to one key leaves every other key, in any table. -/
theorem Tab.get_set_other {α : Type} [DecidableEq α] {d : Nat → α} {k j : Nat} (hj : j ≠ k) (v : α) (t : Tab α) :
    Tab.get d (Tab.set d t k v) j = Tab.get d t j := by
  unfold Tab.set
  generalize decide (v ≠ d k) = keep
  induction t with
  | nil => cases keep <;> simp [Tab.put, Tab.get, Ne.symm hj]
  | cons p t ih =>
    obtain ⟨i, w⟩ := p
    simp only [Tab.put]
    split
    · simp only [Tab.get, ih]
    · split
      · next hik => cases keep <;> simp [Tab.get, hik, Ne.symm hj]
      · cases keep <;> simp [Tab.get, Ne.symm hj]

/-! ### The bits -/

theorem Frame.ld_eq {l : List Comp} {s t : State} (h : Frame l s t) (hl : l.contains .ld = false) : t.ld = s.ld :=
  h.same .ld (by simpa using hl)

/-- A delivery sets and clears no ready bit. -/
theorem State.BitsKept.deliver (s : State) (q : Nat) : s.BitsKept (s.deliver q) := by
  obtain h | ⟨u, c, hu, h⟩ := s.deliver_cases q
  · rw [h]
    exact ⟨rfl, rfl⟩
  · rw [h]
    have hhalt : u.BitsKept (u.haltOn c (worst c.conds)) := by
      unfold State.haltOn State.haltRing
      split
      · dsimp only
        split
        · exact ⟨rfl, rfl⟩
        · exact (State.BitsKept.of_frame (State.setRing_frame ..) rfl).trans (.arrive ..)
      · exact ⟨rfl, rfl⟩
    generalize hended : u.haltOn c (worst c.conds) = ended at hhalt ⊢
    have hnoted : ended.BitsKept { ended with im := { ended.im with lastDelivery := s.now, watchArmed := true } } := ⟨rfl, rfl⟩
    exact (((State.BitsKept.of_frame hu rfl).trans hhalt).trans hnoted).trans (.of_frame (State.logRec_frame ..) rfl)

/-- Training starts with the port's own ready bit cleared, and no other. -/
theorem State.ready_trainPort (s : State) (p : Nat) :
    (s.trainPort p).ld.ready = Tab.set (fun _ => false) s.ld.ready (18 + p) false := by
  unfold State.trainPort
  dsimp only
  split
  · rfl
  · split
    · rfl
    · split
      · exact congrArg Lantern.ready ((State.bump_frame ..).ld_eq rfl)
      · rfl

theorem State.readyKey_retrain (s : State) (p : Nat) {k : Nat} (hk : k ≠ 18 + p) : (s.retrain p).readyKey k = s.readyKey k := by
  unfold State.retrain
  rw [(State.BitsKept.portChanged ..).readyKey]
  exact (congrArg (fun t => Tab.get (fun _ => false) t k) (s.ready_trainPort p)).trans (Tab.get_set_other hk _ _)

/-! ### The host link -/

/-- A wake, a message and an arrival leave a link in L0 in L0 (R440). -/
theorem State.link_sendSource (s : State) (n : Nat) (h : s.ld.link = .l0) : (s.sendSource n).ld.link = .l0 := by
  unfold State.sendSource State.sendVector
  split
  · rwa [(State.emit_frame ..).ld_eq rfl]
  · split
    · unfold State.linkUse
      dsimp only
      rw [(State.emit_frame ..).ld_eq rfl, h]
    · exact h

theorem State.link_wakeA2 (s : State) (cause : Nat) : (s.wakeA2 cause).ld.link = s.ld.link := by
  unfold State.wakeA2
  dsimp only
  split
  · rfl
  · split <;> rfl

theorem State.link_arrive (s : State) (n : Nat) (h : s.ld.link = .l0) : (s.arrive n).ld.link = .l0 := by
  unfold State.arrive
  split
  · exact h
  · extract_lets noted c _ counted woken
    have hcounted : counted.ld.link = .l0 := by
      unfold counted
      split <;> exact h
    have hwoken : woken.ld.link = .l0 := by
      unfold woken
      split
      · exact (State.link_wakeA2 ..).trans hcounted
      · exact hcounted
    split
    · exact State.link_sendSource _ _ hwoken
    · exact hwoken

/-- The host link is up: its ready bit is set, and the notice of a trip arrives (R445, R449). -/
theorem State.hostLink_ready (s : State) {k : Nat} : let up := ({ s with ld := { s.ld with link := .l0 } }).setReady k
    let t := if s.ld.tripNotice then ({ up with ld := { up.ld with tripNotice := false } }).arrive 197 else up
    t.readyKey k = true ∧ t.ld.link = .l0 := by
  extract_lets _ up _ t
  have hup : up.readyKey k = true ∧ up.ld.link = .l0 := ⟨State.readyKey_setReady_same .., State.link_arrive _ _ rfl⟩
  unfold t
  split
  · exact ⟨((State.BitsKept.arrive ..).readyKey k).trans hup.1, State.link_arrive _ _ hup.2⟩
  · exact hup

/-! ### Firmware (R406) -/

/-- Ports that start to train leave the command table, the Trust state and the firmware's ready bit. -/
def State.SameFirmware (s t : State) : Prop := t.hg = s.hg ∧ t.tb = s.tb ∧ t.readyKey 2 = s.readyKey 2

theorem State.sameFirmware_trains (l : List Nat) (s : State) : s.SameFirmware
    (l.foldl (fun (u : State) p => if u.fld (rPortCtrl p) 31 1 = 1 then u.retrain p else u) s) := by
  induction l generalizing s with
  | nil => exact ⟨rfl, rfl, rfl⟩
  | cons p l ih =>
    have hp : s.SameFirmware (if s.fld (rPortCtrl p) 31 1 = 1 then s.retrain p else s) := by
      split
      · have h := State.retrain_frame s p
        exact ⟨h.hg_eq rfl, h.tb_eq rfl, s.readyKey_retrain p (by omega)⟩
      · exact ⟨rfl, rfl, rfl⟩
    obtain ⟨hhg, htb, hready⟩ := ih (if s.fld (rPortCtrl p) 31 1 = 1 then s.retrain p else s)
    exact ⟨hhg.trans hp.1, htb.trans hp.2.1, hready.trans hp.2.2⟩

/-- The firmware's start: its bit, and the FWLD that waits for it. -/
theorem State.firmwareUp_spec (s : State) : s.firmwareUp.readyKey 2 = true ∧ s.firmwareUp.tb.fwWaiting = none ∧
    ∀ q c, s.tb.fwWaiting = some q → s.cmd q = some c → ∃ d, s.firmwareUp.cmd q = some d ∧ d.stage = .delivered := by
  unfold State.firmwareUp
  extract_lets s1 tb s2 s3
  obtain ⟨hhg, htb, hready⟩ := State.sameFirmware_trains (List.range 12) s3
  have h2 : s2.readyKey 2 = true := State.readyKey_setReady_same s 2
  have h3 : s3.readyKey 2 = true ∧ s3.tb.fwWaiting = none := by
    unfold s3
    split
    · next q _ => exact ⟨((State.BitsKept.deliver s2 q).readyKey 2).trans h2, congrArg Trust.fwWaiting ((s2.deliver_frame q).tb_eq rfl)⟩
    · exact ⟨h2, rfl⟩
  refine ⟨hready.trans h3.1, (congrArg Trust.fwWaiting htb).trans h3.2, fun q c hq hc => ?_⟩
  have hcmd2 : s2.cmd q = some c := by
    rw [State.cmd_of_cmds (congrArg HostGate.cmds ((s.setReady_frame 2).hg_eq rfl) : s2.hg.cmds = s.hg.cmds)]
    exact hc
  have hs3 : s3 = s2.deliver q := by
    unfold s3
    rw [hq]
  rw [State.cmd_of_cmds (congrArg HostGate.cmds hhg), hs3]
  exact State.exists_cmd_deliver (by rw [hcmd2]; rfl)

/-- Settles O55: each function's end of bring-up sets its ready or its failed bit; later arrivals and trainings leave it. -/
theorem functionsComeUpInOrder : Obligations.FunctionsComeUpInOrder := by
  unfold Obligations.FunctionsComeUpInOrder
  refine ⟨fun s ok hboot hpwr => ⟨_, rfl, ?_⟩, fun s f ok hpwr hready hfailed => ⟨_, rfl, ?_⟩⟩
  · have hgo : ¬ (s.tb.boot ≠ 0 ∨ s.ld.pwr = .a3) := by simp [hboot, hpwr]
    rw [if_neg hgo]
    cases ok
    · exact ⟨congrArg Trust.boot ((State.setFailed_frame ..).tb_eq rfl), (State.failedKey_setFailed_same _ 1).1⟩
    · exact ⟨congrArg Trust.boot ((State.setReady_frame ..).tb_eq rfl), State.readyKey_setReady_same _ 1⟩
  · have hready' : s.readyKey (funcKey f) = false := hready
    unfold State.functionReady
    dsimp only
    rw [if_neg (by simp [hpwr, hready', hfailed])]
    cases f with
    | hostLink =>
      intro hok hrefclk hperst
      dsimp only
      rw [if_pos ⟨hok, hrefclk, by simp [hperst]⟩]
      exact s.hostLink_ready
    | firmware =>
      intro hok hboot
      dsimp only
      rw [if_pos ⟨hok, hboot⟩]
      exact s.firmwareUp_spec
    | exchange =>
      intro hok hfw
      dsimp only
      rw [if_pos ⟨hok, hfw⟩]
      exact State.readyKey_setReady_same ..
    | stack _ =>
      cases ok
      · exact (State.failedKey_setFailed_same ..).1
      · rfl
    | bank d b =>
      intro (hfw : s.readyKey 2 = true)
      dsimp only
      rw [if_neg (not_not.mpr hfw)]
      cases ok
      · exact (State.failedKey_setFailed_same ..).1
      · exact State.readyKey_setReady_same ..
    | cluster d c =>
      intro (hfw : s.readyKey 2 = true)
      dsimp only
      rw [if_neg (not_not.mpr hfw)]
      cases ok
      · exact (State.failedKey_setFailed_same ..).1
      · exact State.readyKey_setReady_same ..
    | trust => rfl
    | wstore _ => rfl
    | hubStore => rfl
    | port _ => rfl

end Sys2Proof.Machine
end


section
/-!
Two claims that fail: on a return to D0 in the cycle in which A2 was entered, and on PERST# over a memory table that is not
canonical.
-/
namespace Sys2Proof.Machine

open Sys2Proof

/-! ### A return to D0 in the cycle in which A2 was entered (R436, R438, R440) -/

/-- D3hot, with A2 entered from A0 in this very cycle. -/
def State.justDozed : State :=
  { State.reset with ld := { Lantern.initial with pwr := .a2, d3hot := true, entered := some (0, .a0, []) } }

/-- The wake event undoes the entry, so no wake is under way after it. -/
theorem State.d0Return_justDozed : ∃ t, execD0Return State.justDozed = .next t ∧ t.ld.waking = false := ⟨_, rfl, rfl⟩

/-- Refutes O53: its clause on the return to D0 from A2 says that a wake is then under way, but a wake event in the cycle of the
entry to A2 undoes that entry (R436), and nothing is left to wake. -/
theorem not_powerAndLinkStatesFollowTheirEvents : ¬ Obligations.PowerAndLinkStatesFollowTheirEvents := by
  unfold Obligations.PowerAndLinkStatesFollowTheirEvents
  rintro ⟨_, _, _, _, hreturn, _⟩
  obtain ⟨t, hexec, _, _, hwaking⟩ := hreturn State.justDozed rfl
  obtain ⟨u, hu, hasleep⟩ := State.d0Return_justDozed
  have htu : t = u := Host.Outcome.next.inj (hexec.symm.trans hu)
  rw [htu, hasleep] at hwaking
  exact Bool.false_ne_true (hwaking rfl)

/-! ### A memory table with two entries of one host byte (R363, R446) -/

/-- The lowest byte of host memory. -/
def hostByte : Nat := 2 ^ 63

/-- A running module in interleave mode 1, whose memory table lists one host byte twice: it reads as the first entry. -/
def State.doubleListed : State :=
  { State.reset with
    ms := { MemSys.initial with mem := [(hostByte, 1#8), (hostByte, 2#8)], interleave := 1 }
    ld := { Lantern.initial with pwr := .a0 } }

theorem State.rdByte_doubleListed : State.doubleListed.rdByte hostByte = 1#8 := by decide

/-- The reset takes mode 0 and lists the table anew, where the last entry of a key wins. -/
theorem State.perstAssert_doubleListed : ∃ t, execPerstAssert State.doubleListed = .next t ∧ t.rdByte hostByte = 2#8 :=
  ⟨_, rfl, by decide⟩

/-- Refutes O52: its clause on PERST# speaks of every state, also of one whose memory table is not canonical; there the new
interleave mode changes how a host byte reads. -/
theorem not_suppliesAndResetsReachTheirStates : ¬ Obligations.SuppliesAndResetsReachTheirStates := by
  unfold Obligations.SuppliesAndResetsReachTheirStates
  rintro ⟨_, _, _, _, hassert, _⟩
  obtain ⟨t, hexec, _, _, hreset⟩ := hassert State.doubleListed
  obtain ⟨_, _, _, _, hmem⟩ := hreset (by decide)
  obtain ⟨u, hu, htwo⟩ := State.perstAssert_doubleListed
  have htu : t = u := Host.Outcome.next.inj (hexec.symm.trans hu)
  have hkept := hmem hostByte
  rw [htu, htwo, if_pos (by decide), State.rdByte_doubleListed] at hkept
  exact absurd hkept (by decide)

end Sys2Proof.Machine
end


section
/-!
Ownership (R416 to R424): a CLAIM from its decision to the end of its response, HAND, the expiries and the loss of the
Secure state.
-/
namespace Sys2Proof.Machine

open Sys2Proof

variable {s u : State} {k : CritCall} {p : ClaimPending} {b : List Byte}

/-! ### The owner's phase -/

theorem State.setOwn_tb (s : State) (p : OwnPhase) : (s.setOwn p).tb = { s.tb with own := p } := by
  unfold State.setOwn
  dsimp only
  split
  · rfl
  · exact (State.arrive_frame ..).tb_eq rfl

theorem State.vacate_tb (s : State) : s.vacate.tb = { s.tb with session := none, own := .vacant } := State.setOwn_tb ..

/-! ### The ends of a call -/

theorem State.isSome_cmd_refuseCmd (s : State) (r : Nat) (t : Status) (q : Nat) :
    ((s.refuseCmd r t).cmd q).isSome = (s.cmd q).isSome := by
  unfold State.refuseCmd
  split
  · rfl
  · rw [State.cmd_of_cmds (State.haltOn_cmds ..)]
    exact State.isSome_cmd_updCmd q fun _ => rfl

/-- The record of a message leaves the module, with what it answers. -/
theorem State.critical_mem_out_critEnd (hk : k.seq = none) (t : Status) (response : List Byte) :
    OutMsg.critical k.m (critRecord t (k.u 0 1) 0) response ∈ (s.critEnd k t 0 response).out := by
  unfold State.critEnd State.emit
  simp only [hk]
  exact List.mem_append_right _ (by split <;> simp)

/-- A CLAIM that is refused. -/
theorem State.critRefused_critEnd (h : ∀ q, k.seq = some q → (s.cmd q).isSome) : (s.critEnd k .authFail 0).CritRefused k := by
  unfold State.CritRefused
  split
  next q hq =>
    obtain ⟨c, hc⟩ := Option.isSome_iff_exists.mp (h q hq)
    unfold State.critEnd
    simp only [hq]
    exact ⟨_, State.cmd_refuseCmd hc _, rfl, rfl⟩
  next hnone => exact State.mem_out_critEnd hnone .authFail

theorem State.critEnd_tb (s : State) (k : CritCall) (t : Status) (d : Nat) (r : List Byte) : (s.critEnd k t d r).tb = s.tb :=
  (State.critEnd_frame ..).tb_eq rfl

/-! ### The decision of a CLAIM (R418 to R420) -/

/-- What gives way leaves the Trust Block, and every command where it was. -/
theorem State.yieldClaim_spec (s : State) (m : Master) : (s.yieldClaim m).tb = s.tb ∧
    ∀ q, ((s.yieldClaim m).cmd q).isSome = (s.cmd q).isSome := by
  unfold State.yieldClaim
  split
  · next p _ =>
    refine ⟨State.critEnd_tb .., fun q => ?_⟩
    unfold State.critEnd
    split
    · exact State.isSome_cmd_refuseCmd ..
    · rfl
  · exact ⟨rfl, fun _ => rfl⟩

/-- The block of a CLAIM can be read and has its form. -/
structure State.ClaimReads (s : State) (k : CritCall) (b : List Byte) : Prop where
  fits : k.seq.isSome = true → k.u 16 8 % 64 = 0 ∧ s.rangeBad (k.u 16 8) 1024 = false
  reads : s.critReadFail k (k.u 16 8) 512 = none
  block : b = s.critBlock k (k.u 16 8) 512
  form : claimForm b = true

theorem State.claim_of_invalid (h : s.ClaimReads k b) (hvalid : s.claimValid k.m b ≠ true) : s.claim k = s.critEnd k .authFail 0 := by
  obtain ⟨hfits, hreads, rfl, hform⟩ := h
  unfold State.claim
  extract_lets a
  rw [if_neg fun h => by simpa [hfits h.1, a] using h.2]
  simp only [show s.critReadFail k a 512 = none from hreads]
  rw [if_neg (not_not_intro hform), if_pos hvalid]

/-- A valid CLAIM that wins is pending, with the response and key of R420; the owner stays until it has been written. -/
theorem State.claim_of_valid (h : s.ClaimReads k b) (hvalid : s.claimValid k.m b = true) (hwins : s.claimWins k.m = true)
    (hcmd : ∀ q, k.seq = some q → (s.cmd q).isSome) : (s.claim k).tb.own = s.tb.own ∧
      (∃ p, (s.claim k).tb.claim = some p ∧ p.master = k.m ∧ p.seq = k.seq ∧ (p.response, p.key) = claimResponse b s.tb.draws) ∧
      ∀ q, k.seq = some q → ∃ d, (s.claim k).cmd q = some d ∧ d.stage = .running := by
  obtain ⟨hfits, hreads, rfl, hform⟩ := h
  obtain ⟨htb, hcmds⟩ := s.yieldClaim_spec k.m
  unfold State.claim
  extract_lets a b s0 r _ s1
  rw [if_neg fun h => by simpa [hfits h.1, a] using h.2]
  simp only [show s.critReadFail k a 512 = none from hreads]
  rw [if_neg (not_not_intro hform), if_neg (not_not_intro hvalid), if_neg (not_not_intro hwins)]
  have hown : s0.tb.own = s.tb.own := congrArg Trust.own htb
  have hresponse : r = claimResponse b s.tb.draws := congrArg (fun t : Trust => claimResponse b t.draws) htb
  cases hseq : k.seq with
  | none => exact ⟨hown, ⟨_, rfl, rfl, hseq, hresponse⟩, fun q hq => nomatch hq⟩
  | some q =>
    refine ⟨hown, ⟨_, rfl, rfl, hseq, hresponse⟩, fun r hr => ?_⟩
    obtain rfl := Option.some.inj hr
    obtain ⟨c, hc⟩ := Option.isSome_iff_exists.mp ((hcmds q).trans (hcmd q hseq))
    exact ⟨_, State.cmd_running (s := s1) hc, rfl⟩

/-! ### A CLAIM that is held (R404, R450) -/

theorem State.claimSince_reachedBy (s : State) (n m : Master) : (s.reachedBy n).claimSince m = s.claimSince m := by
  unfold State.claimSince
  rw [State.reachedBy_tb, State.now_reachedBy]

theorem State.ready_reachedBy (s : State) (m : Master) : s.BitsKept (s.reachedBy m) := by
  cases m with
  | host => exact ⟨rfl, rfl⟩
  | bmc => exact .wakeA2 ..
  | debug => exact ⟨rfl, rfl⟩

/-! ### The end of the response (R420) -/

/-- The call that a decided CLAIM stands for. -/
def ClaimPending.call (p : ClaimPending) : CritCall := { m := p.master, slot := [0x60], slot2 := [], extra := [], seq := p.seq }

/-- The module waits for no CLAIM's response, and TB_NONCE is fresh. -/
def State.unclaimed (s : State) : State := ({ s with tb := { s.tb with claim := none } }).renewNonce

/-- The response of a ring's CLAIM stands in memory. -/
def State.respond (s : State) (p : ClaimPending) : State := if p.seq.isSome then s.wr (p.addr + 512) p.response else s

/-- The master of a CLAIM is owner: it has a session, and its lease runs from the decision. -/
def State.seat (s : State) (p : ClaimPending) : State :=
  ({ s with tb := { s.tb with
    session := some { master := p.master, key := p.key, counter := none }, leaseFrom := p.decidedAt } }).setOwn (.owned p.master)

/-- What a new owner leaves behind: no newest step, and no ring of the host that is stopped. -/
def State.reopen (s : State) (p : ClaimPending) : State :=
  let s1 := if p.master = .host then s.releaseRings else s
  { s1 with hg := { s1.hg with newest := none } }

/-- The state after the response has been written, before the command ends. -/
def State.claimed (s : State) (p : ClaimPending) : State := ((s.unclaimed.respond p).seat p).reopen p

theorem State.claimWritten_of_claim (hclaim : s.tb.claim = some p) (hread : p.seq.isSome = true → s.rdFail (p.addr + 512) 512 = none) :
    s.claimWritten true = (s.claimed p).critEnd p.call .ok 0 p.response := by
  have hfail : (if p.seq.isSome then s.rdFail (p.addr + 512) 512 else none) = none := by
    split
    · next h => exact hread h
    · rfl
  unfold State.claimWritten
  simp only [hclaim, hfail]
  rfl

theorem State.respond_spec (s : State) (p : ClaimPending) : (s.respond p).tb = s.tb ∧ (s.respond p).hg.cmds = s.hg.cmds := by
  unfold State.respond
  split
  · exact ⟨(State.wr_frame ..).tb_eq rfl, State.wr_cmds ..⟩
  · exact ⟨rfl, rfl⟩

theorem State.seat_frame (s : State) (p : ClaimPending) : Frame [.ld, .tb, .irq, .pcie, .fab, .out] s (s.seat p) := by
  unfold State.seat
  refine Frame.comp ?_ (State.setOwn_frame _ _) rfl
  exact Frame.upd Frame.refl

theorem State.reopen_spec (s : State) (p : ClaimPending) : (s.reopen p).tb = s.tb ∧ (s.reopen p).hg.cmds = s.hg.cmds ∧
    (s.reopen p).ms = s.ms := by
  unfold State.reopen
  dsimp only
  split <;> exact ⟨rfl, rfl, rfl⟩

theorem State.claimed_tb (s : State) (p : ClaimPending) : (s.claimed p).tb = { s.tb with
    claim := none, nonceDraw := s.tb.draws, draws := s.tb.draws + 1
    session := some { master := p.master, key := p.key, counter := none }, leaseFrom := p.decidedAt, own := .owned p.master } := by
  unfold State.claimed
  rw [(State.reopen_spec ..).1, State.seat, State.setOwn_tb]
  dsimp only
  rw [(State.respond_spec ..).1]
  rfl

theorem State.claimed_cmds (s : State) (p : ClaimPending) : (s.claimed p).hg.cmds = s.hg.cmds :=
  (State.reopen_spec ..).2.1.trans ((congrArg HostGate.cmds ((State.seat_frame ..).hg_eq rfl)).trans (State.respond_spec ..).2)

theorem State.rdByte_claimed (hs : s.Inv) {q i : Nat} (hq : p.seq = some q) (hi : i < p.response.length)
    (hhost : isHost (p.addr + 512 + i) = isHost (p.addr + 512)) : (s.claimed p).rdByte (p.addr + 512 + i) = p.response[i] := by
  have hfree : Frame [.tb] s s.unclaimed := Frame.upd (Frame.upd Frame.refl)
  have hms : (s.claimed p).ms = (s.unclaimed.respond p).ms :=
    (State.reopen_spec ..).2.2.trans ((State.seat_frame ..).ms_eq rfl)
  rw [State.rdByte_of_ms hms, State.respond, if_pos (by rw [hq]; rfl)]
  exact State.rdByte_wr (hfree.inv hs) hi hhost.symm

/-! ### HAND (R424) -/

/-- Acceptance moves the session's counter and the lease. -/
theorem State.critAccept_tb (s : State) (k : CritCall) (open_ : Bool) :
    ∃ session lease, (s.critAccept k open_).tb = { s.tb with session := session, leaseFrom := lease } := by
  unfold State.critAccept
  split
  · unfold State.authAccept
    split
    · exact ⟨_, _, rfl⟩
    · exact ⟨_, _, rfl⟩
  · exact ⟨_, _, rfl⟩

theorem State.hand_of_successor {m : Master} (hm : m = masterOf (k.u 16 1)) (hdebug : ¬ (m = .debug ∧ s.tb.debugUnlocked = false))
    (hhost : ¬ (m = .host ∧ s.ideLacking = true)) :
    s.hand k = (({ s with tb := { s.tb with session := none } }).setOwn (.handover m (s.now + 10000000000))).critEnd k .ok 0 := by
  subst hm
  unfold State.hand
  dsimp only
  rw [if_neg]
  rintro (h | h)
  · exact hdebug ⟨h.1, by simpa using h.2⟩
  · exact hhost h

/-- Settles O56: a CLAIM is pending from its decision to the end of its response, which makes the owner; every end of ownership
is `vacate`, and no end of a command touches the Trust Block. -/
theorem ownershipBeginsMovesAndEnds : Obligations.OwnershipBeginsMovesAndEnds := by
  unfold Obligations.OwnershipBeginsMovesAndEnds
  refine ⟨?decided, ?held, ?written, ?handed, ?lease, ?handover, ?exit, ?keys⟩
  case decided =>
    intro s u x k b hk hu hgate hready hfits hreads hb hform hwins
    have hframe : Frame [.ld] s u := by
      rw [hu]
      exact Frame.ite (State.reachedBy_frame s k.m) Frame.refl
    have htb : u.tb = s.tb := hframe.tb_eq rfl
    have hphase : u.tb.own = s.tb.own := congrArg Trust.own htb
    have hdraws : claimResponse b u.tb.draws = claimResponse b s.tb.draws := congrArg (fun t : Trust => claimResponse b t.draws) htb
    have hgo : k.seq.isSome = true ∨ u.readyKey 2 = true := by
      cases hseq : k.seq with
      | none => exact .inr (hready hseq)
      | some q => exact .inl rfl
    have hrun : s.critRun x 0x60 (fun _ => true) State.holdClaim = (u.unholdClaim k.m).claim k := by
      rw [State.critRun_of_gate State.holdClaim hk hu hgate, State.critAccept_open, State.holdClaim, if_pos hgo]
    have hunheld : Frame [.tb] u (u.unholdClaim k.m) := Frame.upd Frame.refl
    have hsame : u.SameAccess (u.unholdClaim k.m) := .of_silent hunheld rfl rfl rfl rfl
    have hclaim : (u.unholdClaim k.m).ClaimReads k b :=
      ⟨by rwa [hsame.rangeBad], by rwa [hsame.critReadFail], by rwa [hsame.critBlock], hform⟩
    have hcmd (q : Nat) (hq : k.seq = some q) : ((u.unholdClaim k.m).cmd q).isSome :=
      (State.cmd_of_cmds (congrArg HostGate.cmds (hframe.hg_eq rfl)) q).symm ▸ State.isSome_cmd_of_critCall hk hq
    refine ⟨_, congrArg Host.Outcome.next hrun, ?_⟩
    split
    next hvalid =>
      obtain ⟨hown, ⟨p, hp, hmaster, hseq, hresponse⟩, hrunning⟩ := State.claim_of_valid hclaim hvalid hwins hcmd
      refine ⟨hown.trans hphase, ⟨p, hp, hmaster, hseq, hresponse.trans hdraws⟩, hrunning⟩
    next hvalid =>
      rw [State.claim_of_invalid hclaim hvalid, State.critEnd_tb]
      refine ⟨hphase, State.critRefused_critEnd hcmd, ?_⟩
      rw [← htb]
      rfl
  case held =>
    intro s u x k hk hseq hu hgate hready
    have hu' : u = if k.seq.isNone then s.reachedBy k.m else s := by simp [hu, hseq]
    have htb : u.tb = s.tb := hu ▸ s.reachedBy_tb k.m
    have hphase : u.tb.own = s.tb.own := congrArg Trust.own htb
    have hpending : u.tb.claim = s.tb.claim := congrArg Trust.claim htb
    have hbits : s.BitsKept u := hu ▸ s.ready_reachedBy k.m
    have hsince (m : Master) : u.claimSince m = s.claimSince m := hu ▸ s.claimSince_reachedBy k.m m
    have hnow : u.now = s.now := hu ▸ s.now_reachedBy k.m
    have hhold : u.holdMs = s.holdMs := by
      unfold State.holdMs State.fld
      rw [State.reg_of_regs (hu ▸ s.reachedBy_regs k.m)]
    have hrun : s.critRun x 0x60 (fun _ => true) State.holdClaim = u.holdClaim k := by
      rw [State.critRun_of_gate State.holdClaim hk hu' hgate, State.critAccept_open]
    refine ⟨_, congrArg Host.Outcome.next hrun, ?_⟩
    have hnot : ¬ (k.seq.isSome = true ∨ u.readyKey 2 = true) := by
      rw [hseq, hbits.readyKey, hready]
      decide
    unfold State.holdClaim
    rw [if_neg hnot, hbits.failedKey, hsince, hnow, hhold]
    split
    · refine ⟨State.critical_mem_out_critEnd hseq .notReadyTimeout [], ?_⟩
      rw [State.critEnd_tb, ← htb]
      rfl
    · refine ⟨hu ▸ s.reachedBy_out k.m, ?_, List.mem_cons_self, hphase, hpending⟩
      unfold State.claimSince
      simp
  case written =>
    intro s p hs hclaim hread hcmd hhost
    have htb := (State.critEnd_tb (s.claimed p) p.call .ok 0 p.response).trans (s.claimed_tb p)
    refine ⟨_, congrArg Host.Outcome.next (State.claimWritten_of_claim hclaim hread), ?_⟩
    refine ⟨?_, by rw [htb], by rw [htb], by rw [htb], by rw [htb], fun q hq => ?_, fun hq => ?_⟩
    · unfold State.owner
      rw [htb]
    · have hend : (s.claimed p).critEnd p.call .ok 0 p.response = (s.claimed p).deliver q := by
        unfold State.critEnd
        simp only [show p.call.seq = some q from hq]
      have hcmds := State.cmd_of_cmds (s.claimed_cmds p) q
      rw [hend]
      refine ⟨State.exists_cmd_deliver (hcmds ▸ hcmd q hq), fun i hi => ?_⟩
      rw [State.rdByte_of_ms ((State.deliver_frame ..).ms_eq rfl)]
      exact State.rdByte_claimed hs hq hi (hhost i hi)
    · exact State.critical_mem_out_critEnd (k := p.call) hq .ok p.response
  case handed =>
    intro s u x k m hk hu hgate hm hdebug hhost
    have hreach : Frame [.ld] s u := by
      rw [hu]
      exact Frame.ite (State.reachedBy_frame s k.m) Frame.refl
    have hnow : (u.critAccept k false).now = s.now := by
      rw [(State.critAccept_frame ..).now_eq rfl, hu]
      split
      · exact State.now_reachedBy ..
      · rfl
    obtain ⟨session, lease, haccept⟩ := u.critAccept_tb k false
    have htb : (u.critAccept k false).tb = { s.tb with session := session, leaseFrom := lease } := by
      rw [haccept, hreach.tb_eq rfl]
    have hlacking : (u.critAccept k false).ideLacking = s.ideLacking := by
      unfold State.ideLacking State.permit
      rw [htb]
    have hrun := State.critRun_of_gate (open_ := fun _ => false) State.hand hk hu hgate
    rw [State.hand_of_successor hm (by rw [htb]; exact hdebug) (by rw [hlacking]; exact hhost), hnow] at hrun
    refine ⟨_, congrArg Host.Outcome.next hrun, State.critDone_critEnd fun q hq => ?_, ?_, ?_⟩
    · rw [State.cmd_of_cmds (congrArg HostGate.cmds ((State.setOwn_frame ..).hg_eq rfl))]
      have hcmds : (u.critAccept k false).hg.cmds = s.hg.cmds := congrArg HostGate.cmds
        (((State.critAccept_frame ..).hg_eq rfl).trans (hreach.hg_eq rfl))
      exact (State.cmd_of_cmds hcmds q).symm ▸ State.isSome_cmd_of_critCall hk hq
    · rw [State.critEnd_tb, State.setOwn_tb]
    · rw [State.critEnd_tb, State.setOwn_tb]
  case lease =>
    intro s m hown hclaim hend
    refine ⟨s.vacate, ?_, by rw [State.vacate_tb], by rw [State.vacate_tb]⟩
    change Host.Outcome.next _ = _
    simp only [hown, hclaim, hend, Option.isNone_none, and_self, if_true]
  case handover =>
    intro s m e hown hclaim hend
    refine ⟨s.vacate, ?_, by rw [State.vacate_tb], by rw [State.vacate_tb]⟩
    change Host.Outcome.next _ = _
    simp only [hown, hclaim, hend, Option.isNone_none, and_self, if_true]
  case exit =>
    intro s
    refine ⟨_, rfl, ?_, fun hactive howns => ?_⟩
    · split
      · rw [State.vacate_tb]
      · rfl
    · rw [if_pos ⟨hactive, howns⟩, State.vacate_tb]
      exact ⟨rfl, rfl⟩
  case keys =>
    intro s keys hsecured
    exact ⟨_, congrArg Host.Outcome.next (if_pos hsecured), rfl, rfl⟩

end Sys2Proof.Machine
end


section
/-!
The SPDM responder (R413, R414): a request in its place runs its row, whose answer is one message; a digest has 64 octets.
-/
namespace Sys2Proof.Machine

open Sys2Proof

/-! ### The length of a digest -/

theorem shaInit_length : shaInit.length = 8 := by
  have hsplit : primes80 = (List.range 20).filter isPrime ++ ((List.range 390).map (20 + ·)).filter isPrime := by
    unfold primes80
    rw [show 410 = 20 + 390 from rfl, List.range_add, List.filter_append]
  have hfirst : ((List.range 20).filter isPrime).length = 8 := by decide
  rw [shaInit, List.length_map, List.length_take, hsplit, List.length_append, hfirst]
  omega

theorem shaRound_length (h : List W64) (kw : W64) : (shaRound h kw).length = h.length := by
  unfold shaRound
  split <;> rfl

theorem shaRounds_length (l : List W64) (h : List W64) : (l.foldl shaRound h).length = h.length := by
  induction l generalizing h with
  | nil => rfl
  | cons kw l ih => exact (ih _).trans (shaRound_length h kw)

theorem shaBlocks_length (ks : List W64) (n : Nat) (h : List W64) (l : List Byte) : (shaBlocks ks n h l).length = h.length := by
  induction n generalizing h l with
  | zero => rfl
  | succ n ih => rw [shaBlocks, ih, shaBlock, List.length_zipWith, shaRounds_length, Nat.min_self]

theorem sha512_length (m : List Byte) : (sha512 m).length = 64 := by
  unfold sha512
  dsimp only
  rw [List.length_flatMap, List.map_congr_left (g := fun _ => 8) fun w _ => by rw [natBe, List.length_reverse, natLe_length],
    List.map_const', List.sum_replicate, shaBlocks_length, shaInit_length]
  rfl

/-! ### Connections and answers -/

section Answer

variable {s : State} {p : SpdmPath}

@[simp] theorem State.conn_setConn (s : State) (p : SpdmPath) (c : SpdmConn) : (s.setConn p c).conn p = c := by cases p <;> rfl

@[simp] theorem State.setConn_out (s : State) (p : SpdmPath) (c : SpdmConn) : (s.setConn p c).out = s.out := by cases p <;> rfl

@[simp] theorem State.setConn_draws (s : State) (p : SpdmPath) (c : SpdmConn) : (s.setConn p c).tb.draws = s.tb.draws := by
  cases p <;> rfl

@[simp] theorem State.answer_out (s : State) (p : SpdmPath) (l : List Byte) : (s.answer p l).out = s.out ++ (OutMsg.spdm p l).sent := rfl

@[simp] theorem State.answer_tb (s : State) (p : SpdmPath) (l : List Byte) : (s.answer p l).tb = s.tb := rfl

theorem State.conn_of_tb {t : State} (h : t.tb = s.tb) (p : SpdmPath) : t.conn p = s.conn p := by
  unfold State.conn
  rw [h]

@[simp] theorem State.conn_answer (s : State) (p : SpdmPath) (l : List Byte) : (s.answer p l).conn p = s.conn p := State.conn_of_tb rfl p

@[simp] theorem State.conn_freeStep (s : State) (p : SpdmPath) : s.freeStep.conn p = s.conn p := State.conn_of_tb rfl p

@[simp] theorem State.conn_drawStep (s : State) (p : SpdmPath) (n : Nat) : (s.drawStep n).conn p = s.conn p := by cases p <;> rfl

/-- The module as an SPDM request finds it: its path has been used. -/
def State.spdmAsked (s : State) (p : SpdmPath) : State :=
  s.reachedBy (match p with
    | .doe => .host
    | .mctp => .bmc)

@[simp] theorem State.spdmAsked_tb (s : State) (p : SpdmPath) : (s.spdmAsked p).tb = s.tb := State.reachedBy_tb ..

@[simp] theorem State.spdmAsked_out (s : State) (p : SpdmPath) : (s.spdmAsked p).out = s.out := State.reachedBy_out ..

theorem State.conn_spdmAsked (s : State) (p : SpdmPath) : (s.spdmAsked p).conn p = s.conn p := State.conn_of_tb (s.spdmAsked_tb p) p

/-- What is measured does not depend on the path of the request. -/
theorem State.measureBlock_spdmAsked (s : State) (p : SpdmPath) : (s.spdmAsked p).measureBlock = s.measureBlock := by
  funext i
  unfold State.measureBlock State.measured
  rw [s.spdmAsked_tb p, (State.reachedBy_frame ..).im_eq (s := s) (t := s.spdmAsked p) rfl]

/-- A request in its place runs its row. -/
theorem State.spdmRun_of_ready {r : List Byte} {code least : Nat} {early : Bool} {ready : SpdmConn → Bool}
    {f : State → SpdmConn → State} (hcode : reqByte r 1 = code) (hserves : s.spdmServes early = true)
    (hversion : reqByte r 0 = if code = 0x84 then 0x10 else 0x12) (hleast : least ≤ r.length) (hready : ready (s.conn p) = true) :
    s.spdmRun p r code early least ready f = f (s.spdmAsked p) (s.conn p) := by
  have hgo : ¬ (reqByte r 1 ≠ code ∨ ¬ s.spdmServes early = true) := by simp [hcode, hserves]
  unfold State.spdmRun
  rw [if_neg hgo]
  change (if _ then _ else if _ then _ else if ¬ ready ((s.spdmAsked p).conn p) = true then _ else f _ ((s.spdmAsked p).conn p)) = _
  rw [if_neg (not_not_intro hversion), if_neg (Nat.not_lt.mpr hleast), State.conn_spdmAsked, if_neg (not_not_intro hready)]
  rfl

/-- State 3 serves every request, state 1 those of the start. -/
theorem State.spdmServes_early (h : (s.tb.boot == 3 || s.tb.boot == 1) = true) : s.spdmServes true = true := by
  simpa [State.spdmServes] using h

theorem State.spdmServes_full (h : s.tb.boot = 3) (early : Bool) : s.spdmServes early = true := by simp [State.spdmServes, h]

end Answer

theorem spdmHead_length (version code p1 p2 : Nat) : (spdmHead version code p1 p2).length = 4 := by
  simp [spdmHead, natLe_length]

/-- The part of the chain that a request gets, by its length. -/
theorem take_min_length_sub (l : List Byte) (o m : Nat) : (l.drop o).take m = (l.drop o).take (min m (l.length - o)) := by
  rw [← List.length_drop, List.take_eq_take_iff]
  omega

theorem length_take_drop (l : List Byte) (o m : Nat) : ((l.drop o).take m).length = min m (l.length - o) := by simp

/-- Settles O59: each request in its place runs its row; the answers are read off the rows' equations. -/
theorem spdmAnswersEachRequest : Obligations.SpdmAnswersEachRequest := by
  unfold Obligations.SpdmAnswersEachRequest
  rintro s p r early rfl
  refine ⟨?version, fun hv => ⟨?capabilities, ?algorithms, ?digests, ?certificate, ?challenge, ?measurements, ?exchange, ?finish,
    ?ended⟩⟩
  case version =>
    intro hcode hv hlen hearly
    refine ⟨_, congrArg Host.Outcome.next (State.spdmRun_of_ready hcode (State.spdmServes_early hearly) hv hlen rfl), ?_⟩
    simp [SpdmConn.initial]
  case capabilities =>
    intro hcode hlen hearly hversion hcaps
    have hready : ((s.conn p).versionDone && !(s.conn p).capsDone) = true := by simp [hversion, hcaps]
    refine ⟨_, ((s.spdmAsked p).freeBytes 9).take 1, ((s.spdmAsked p).freeBytes 9).drop 1,
      congrArg Host.Outcome.next (State.spdmRun_of_ready hcode (State.spdmServes_early hearly) hv hlen hready), ?_⟩
    simp [State.freeBytes]
  case algorithms =>
    intro hcode hlen hearly hcaps halgs
    have hready : ((s.conn p).capsDone && !(s.conn p).algsDone) = true := by simp [hcaps, halgs]
    refine ⟨_, _, congrArg Host.Outcome.next (State.spdmRun_of_ready hcode (State.spdmServes_early hearly) hv hlen hready),
      by simp, by rw [State.answer_out, State.setConn_out, State.spdmAsked_out], ?_⟩
    simp [spdmHead_length, algStructs]
  case digests =>
    intro hcode hlen hearly halgs
    refine ⟨_, congrArg Host.Outcome.next (State.spdmRun_of_ready hcode (State.spdmServes_early hearly) hv hlen halgs), ?_⟩
    simp
  case certificate =>
    rintro o n rfl rfl hcode hlen hearly halgs hslot
    refine ⟨_, congrArg Host.Outcome.next (State.spdmRun_of_ready hcode (State.spdmServes_early hearly) hv hlen halgs), ?_⟩
    dsimp only
    rw [length_take_drop chain, take_min_length_sub chain]
    simp only [hslot, ne_eq, not_true_eq_false, false_or]
    split
    · rw [State.spdmError, State.answer_out, State.spdmAsked_out]
      rfl
    · rw [State.answer_out, State.setConn_out, State.spdmAsked_out]
  case challenge =>
    intro hcode hlen hboot halgs hslot
    have hnamed : ¬ (reqByte r 2 ≠ 0 ∧ reqByte r 2 ≠ 0xFF) := by omega
    refine ⟨_, _, congrArg Host.Outcome.next ((State.spdmRun_of_ready hcode (State.spdmServes_full hboot _) hv hlen halgs).trans
      (if_neg hnamed)), by rw [State.answer_out, State.freeStep_out, State.drawStep_out, State.setConn_out, State.spdmAsked_out],
      by simp [State.drawStep, State.freeStep], ?_⟩
    simp only [List.append_assoc]
    rw [← List.append_assoc (spdmHead ..)]
    exact List.take_left' (by rw [List.length_append, spdmHead_length, chainDigest, sha512_length])
  case measurements =>
    intro l hcode hlen hearly halgs hl hsigned
    have hgood : ¬ (bitAt (reqByte r 2) 0 = true ∧ (r.length < 37 ∨ reqByte r 36 % 16 ≠ 0)) := fun h => by
      have := hsigned h.1
      omega
    by_cases hsig : bitAt (reqByte r 2) 0 = true
    · refine ⟨_, ?tail, congrArg Host.Outcome.next (State.spdmRun_of_ready hcode (State.spdmServes_early hearly) hv hlen halgs), ?signed⟩
      case' signed =>
        rw [hl]
        dsimp only
        rw [if_neg hgood, if_pos hsig, State.answer_out, State.drawStep_out, State.setConn_out, State.spdmAsked_out,
          State.measureBlock_spdmAsked]
        simp only [List.append_assoc]
        rfl
    · refine ⟨_, ?rest, congrArg Host.Outcome.next (State.spdmRun_of_ready hcode (State.spdmServes_early hearly) hv hlen halgs), ?plain⟩
      case' plain =>
        rw [hl]
        dsimp only
        rw [if_neg hgood, if_neg hsig, State.answer_out, State.drawStep_out, State.setConn_out, State.spdmAsked_out,
          State.measureBlock_spdmAsked]
        simp only [List.append_assoc]
        rfl
  case exchange =>
    intro hcode hlen hboot halgs hsecured hslot hpoint
    have hready : ((s.conn p).algsDone && !(s.conn p).secured) = true := by simp [halgs, hsecured]
    have hgood : ¬ ((reqByte r 3 ≠ 0 ∧ reqByte r 3 ≠ 0xFF) ∨ (ecPoint ((r.drop 40).take 132)).isNone) := by
      rintro (h | h)
      · omega
      · rw [Option.isSome_iff_ne_none] at hpoint
        exact hpoint (Option.isNone_iff_eq_none.mp h)
    refine ⟨_, _, congrArg Host.Outcome.next ((State.spdmRun_of_ready hcode (State.spdmServes_full hboot _) hv hlen hready).trans
      (if_neg hgood)), by
        rw [State.answer_out, State.freeStep_out, State.freeStep_out, State.drawStep_out, State.setConn_out, State.spdmAsked_out],
      ?_, by simp, by simp [State.drawStep, State.freeStep]⟩
    simp only [List.append_assoc]
    exact List.take_left' (spdmHead_length ..)
  case finish =>
    rintro th c rfl rfl hcode hlen hboot hhandshake
    refine ⟨_, congrArg Host.Outcome.next (State.spdmRun_of_ready hcode (State.spdmServes_full hboot _) hv hlen hhandshake), ?_⟩
    dsimp only
    split
    · simp
    · simp [State.spdmError, eDecrypt]
  case ended =>
    intro hcode hlen hboot hsecured
    refine ⟨_, congrArg Host.Outcome.next (State.spdmRun_of_ready hcode (State.spdmServes_full hboot _) hv hlen hsecured), ?_⟩
    simp

end Sys2Proof.Machine
end


section
/-!
The Logbooks (R394 to R396): what a push, a gap record and a trigger leave of a Logbook's mode and state, and on which Logbooks a
trigger acts.
-/
namespace Sys2Proof.Machine

open Sys2Proof

/-! ### One Logbook -/

/-- The same capture goes on: records may differ, state, mode and trigger do not. -/
structure Logbook.SameCapture (l m : Logbook) : Prop where
  state : m.state = l.state
  mode : m.mode = l.mode
  triggered : m.triggered = l.triggered

/-- The Logbook captures: armed, or running after its trigger. -/
def Logbook.Live (l : Logbook) : Prop := l.state = 1 ∨ l.state = 2

theorem Logbook.SameCapture.live {l m : Logbook} (h : l.SameCapture m) : m.Live ↔ l.Live := by
  unfold Logbook.Live
  rw [h.state]

theorem Logbook.sameCapture_push (l : Logbook) (n : Nat) (r : List Byte) : l.SameCapture (l.push n r) := by
  unfold Logbook.push
  split <;> exact ⟨rfl, rfl, rfl⟩

theorem Logbook.sameCapture_pushGap (l : Logbook) (u now : Nat) : l.SameCapture (l.pushGap u now) :=
  have h := l.sameCapture_push (logSize u) (logBytes now (logCoord u) 0xFF 0xFFFF l.firstLost l.pendingLoss)
  ⟨h.state, h.mode, h.triggered⟩

theorem Logbook.sameCapture_settle (l : Logbook) (u k : Nat) : l.SameCapture (l.settle u k) := by
  unfold Logbook.settle
  split
  · have h := l.sameCapture_pushGap u (2 * (l.lossSlot + 2))
    exact ⟨h.state, h.mode, h.triggered⟩
  · exact ⟨rfl, rfl, rfl⟩

/-- A full Logbook takes no gap record. -/
theorem Logbook.settle_records_of_full {l : Logbook} {u : Nat} (h : l.full (logSize u) = true) (k : Nat) :
    (l.settle u k).records = l.records := by
  have hgap (r : List Byte) : l.push (logSize u) r = l := if_pos h
  unfold Logbook.settle Logbook.pushGap
  split
  · dsimp only
    rw [hgap]
  · rfl

theorem Logbook.full_settle {l : Logbook} {u : Nat} (h : l.full (logSize u) = true) (k : Nat) :
    (l.settle u k).full (logSize u) = true := by
  have hsame := l.sameCapture_settle u k
  unfold Logbook.full at h ⊢
  rwa [hsame.state, hsame.mode, Logbook.settle_records_of_full (show l.full (logSize u) = true from h)]

/-- Without a loss there is no gap record to make (R396). -/
theorem Logbook.settle_of_no_loss {l : Logbook} (h : l.pendingLoss = 0) (u k : Nat) : l.settle u k = l :=
  if_neg fun hgap => absurd h (Nat.ne_of_gt hgap.1)

/-! ### Triggers on the Logbooks -/

section Triggers

variable {s : State}

theorem State.Inv.logs (hs : s.Inv) : s.im.logs.Ordered :=
  have ⟨_, _, _, _, hlogs⟩ := hs.tabs.im
  hlogs

theorem State.log_setLog (h : s.im.logs.Ordered) (u j : Nat) (l : Logbook) : (s.setLog u l).log j = if j = u then l else s.log j :=
  Tab.get_set_of_rising h u j l

theorem State.logs_setLog (h : s.im.logs.Ordered) (u : Nat) (l : Logbook) : (s.setLog u l).im.logs.Ordered :=
  Tab.rising_set (d := fun _ => Logbook.initial) h u l

/-- A trigger writes one Logbook; one that captures, or was triggered before, is triggered then. -/
theorem State.triggerLog_eq (s : State) (u cause : Nat) : ∃ l : Logbook, s.triggerLog u cause = s.setLog u l ∧
    ((s.log u).Live ∨ (s.log u).triggered = true → l.triggered = true) := by
  unfold State.triggerLog
  extract_lets settled noted freezes l n kept gap first marked
  have hsettled : (s.log u).SameCapture settled := (s.log u).sameCapture_settle ..
  have hnoted : (s.log u).SameCapture noted := ⟨hsettled.state, hsettled.mode, hsettled.triggered⟩
  have hl : l.Live ↔ (s.log u).Live := by
    refine Iff.trans ?_ hnoted.live
    unfold l
    split
    · exact (noted.sameCapture_pushGap ..).live
    · exact Iff.rfl
  split
  · exact ⟨_, rfl, fun _ => rfl⟩
  · next hdead =>
    refine ⟨_, rfl, fun h => ?_⟩
    rcases h with h | h
    · exact absurd (hl.mpr h) hdead
    · exact hnoted.triggered.trans h

/-- What a run of triggers, each on the Logbook and with the cause that its item names, leaves. -/
structure State.Triggered (s t : State) (units : List Nat) : Prop where
  logs : t.im.logs.Ordered
  other : ∀ j, j ∉ units → t.log j = s.log j
  stays : ∀ j, (s.log j).triggered = true → (t.log j).triggered = true
  acts : ∀ j ∈ units, (s.log j).Live → (t.log j).triggered = true

theorem State.triggered_foldl {β : Type} (unit cause : β → Nat) (l : List β) (hs : s.im.logs.Ordered) :
    s.Triggered (l.foldl (fun v x => v.triggerLog (unit x) (cause x)) s) (l.map unit) := by
  induction l generalizing s with
  | nil => exact ⟨hs, fun _ _ => rfl, fun _ h => h, fun _ h => by cases h⟩
  | cons x l ih =>
    obtain ⟨m, hm, htriggered⟩ := s.triggerLog_eq (unit x) (cause x)
    rw [List.foldl_cons, hm]
    have hlog (j : Nat) := State.log_setLog hs (unit x) j m
    obtain ⟨hlogs, hother, hstays, hacts⟩ := ih (State.logs_setLog hs (unit x) m)
    refine ⟨hlogs, fun j hj => ?_, fun j hj => hstays j ?_, fun j hj hlive => ?_⟩
    · obtain ⟨hne, hj⟩ := not_or.mp (List.mem_cons.not.mp hj)
      rw [hother j hj, hlog, if_neg hne]
    · rw [hlog]
      split
      next h => exact htriggered (.inr (h ▸ hj))
      next => exact hj
    · by_cases hne : j = unit x
      · refine hstays j ?_
        rw [hlog, if_pos hne]
        exact htriggered (.inl (hne ▸ hlive))
      · refine hacts j ((List.mem_cons.mp hj).resolve_left hne) ?_
        rwa [hlog, if_neg hne]

theorem State.log_of_im {t : State} (h : t.im = s.im) (u : Nat) : t.log u = s.log u := by
  unfold State.log
  rw [h]

/-- A trigger acts on the five Logbooks that its cause reaches (R395). -/
theorem State.triggered_trigger (hs : s.im.logs.Ordered) (cause : Nat) : s.Triggered (s.trigger cause)
    ((List.range 5).filter fun u => !((cause == 2 || cause == 3 || cause == 5) && s.fld (rLogCfg u) 28 1 == 0)) := by
  unfold State.trigger
  extract_lets gated units marked
  obtain ⟨hlogs, hother, hstays, hacts⟩ := State.triggered_foldl (s := s) id (fun _ => cause) units hs
  rw [List.map_id] at hother hacts
  split
  · exact ⟨hlogs, hother, hstays, hacts⟩
  · have him : (marked.arrive 194).im = marked.im := (State.arrive_frame ..).im_eq rfl
    exact ⟨him ▸ hlogs, fun j hj => (State.log_of_im him j).trans (hother j hj),
      fun j hj => (State.log_of_im him j).symm ▸ hstays j hj, fun j hj hlive => (State.log_of_im him j).symm ▸ hacts j hj hlive⟩

end Triggers

end Sys2Proof.Machine
end


section
/-!
Observation (R384 to R399): SNAP, CNTR, the Postcards, the Logbooks' rows and the watchdog.
-/
namespace Sys2Proof.Machine

open Sys2Proof

/-! ### The codes that a ring has selected (R387) -/

/-- The rings stay listed in order, and each has selected the same codes, with the same counts. -/
structure State.SameSelection (s t : State) : Prop where
  rings : t.hg.rings.Ordered
  codes : ∀ k, (t.ring k).codes = (s.ring k).codes
  slots : ∀ k, (t.ring k).slots = (s.ring k).slots

namespace State.SameSelection

variable {s t u : State}

theorem trans (h : s.SameSelection t) (k : t.SameSelection u) : s.SameSelection u :=
  ⟨k.rings, fun j => (k.codes j).trans (h.codes j), fun j => (k.slots j).trans (h.slots j)⟩

theorem of_rings (hs : s.hg.rings.Ordered) (h : t.hg.rings = s.hg.rings) : s.SameSelection t :=
  ⟨h ▸ hs, fun k => congrArg Ring.codes (State.ring_of_rings h k), fun k => congrArg Ring.slots (State.ring_of_rings h k)⟩

theorem of_silent {l : List Comp} (hs : s.hg.rings.Ordered) (h : Frame l s t) (hl : l.contains .hg = false) : s.SameSelection t :=
  of_rings hs (congrArg HostGate.rings (h.hg_eq hl))

theorem setRing (hs : s.hg.rings.Ordered) {n : Nat} {r : Ring} (hcodes : r.codes = (s.ring n).codes)
    (hslots : r.slots = (s.ring n).slots) : s.SameSelection (s.setRing n r) := by
  have hring := State.ring_setRing_of_ordered hs n (r := r)
  refine ⟨State.rings_setRing hs n r, fun k => ?_, fun k => ?_⟩
  · rw [hring]
    split
    next hk => rw [hk, hcodes]
    next => rfl
  · rw [hring]
    split
    next hk => rw [hk, hslots]
    next => rfl

theorem haltOn (hs : s.hg.rings.Ordered) (c : Cmd) (x : Status) : s.SameSelection (s.haltOn c x) := by
  unfold State.haltOn State.haltRing
  split
  · extract_lets r
    split
    · exact of_rings hs rfl
    · have hset : s.SameSelection (s.setRing c.ring { r with halted := true, haltStatus := x.code }) := setRing hs rfl rfl
      exact hset.trans (of_silent hset.rings (State.arrive_frame ..) rfl)
  · exact of_rings hs rfl

theorem deliver (hs : s.hg.rings.Ordered) (q : Nat) : s.SameSelection (s.deliver q) := by
  unfold State.deliver
  split
  · exact of_rings hs rfl
  · next c _ =>
    extract_lets once delivered signalled _ latched halted
    have hsignalled : s.SameSelection signalled := by
      unfold signalled
      split
      · split <;> exact of_rings hs rfl
      · exact of_rings hs rfl
    have hlatched : s.SameSelection latched := by
      unfold latched
      split
      · exact hsignalled.trans (setRing hsignalled.rings rfl rfl)
      · exact hsignalled
    have hhalted := hlatched.trans (haltOn hlatched.rings c (worst c.conds))
    exact hhalted.trans (of_rings hhalted.rings (congrArg HostGate.rings (State.logRec_hg ..)))

end State.SameSelection

/-! ### Commands that write one destination -/

section Writes

variable {s v : State} {q a : Nat} {l : List Byte} {c : Cmd} {op : Nat}

theorem State.runnable_of_cntr (h : s.cntr q op = some c) : s.cmd q = some c :=
  (State.runnable_cmd (Option.eq_some_of_filter_eq_some h)).1

/-- A command that has written one destination, and done no more to memory or commands, is delivered. -/
theorem State.delivered_writeAll (hs : s.Inv) (hc : s.cmd q = some c) (hms : v.ms = (s.writeAll (some q) [(a, l)]).ms)
    (hcmds : v.hg.cmds = (s.writeAll (some q) [(a, l)]).hg.cmds) :
    (∀ j, outside [(a, l.length)] j → (v.deliver q).rdByte j = s.rdByte j) ∧
      (∀ i, ∀ h : i < l.length, isHost (a + i) = isHost a → (v.deliver q).rdByte (a + i) = l[i]) ∧
      ∃ d, (v.deliver q).cmd q = some d ∧ d.stage = .delivered := by
  have hbytes (j : Nat) : (v.deliver q).rdByte j = (s.writeAll (some q) [(a, l)]).rdByte j :=
    State.rdByte_of_ms (((v.deliver_frame q).ms_eq rfl).trans hms) j
  refine ⟨fun j hj => (hbytes j).trans (State.rdByte_writeAll_out hs _ hj),
    fun i hi hhost => (hbytes _).trans (State.rdByte_writeAll_single hs q hi hhost), State.exists_cmd_deliver ?_⟩
  rw [State.cmd_of_cmds (hcmds.trans (State.writeAll_cmds ..)), hc]
  rfl

end Writes

theorem entry_length (n : Nat) (l : List Byte) : (entry_ n l).length = n := by simp [entry_]

theorem flatMap_natLe_map_length (k : Nat) (f : Nat → Nat) (n : Nat) : ((List.range n).flatMap fun e => natLe k (f e)).length = n * k := by
  rw [← List.flatMap_map, flatMap_natLe_length, List.length_map, List.length_range]

/-- The image of the Logbooks: a header, and the five buffers. -/
theorem State.logImage_length (s : State) :
    (entry_ 4096 ((List.range 5).flatMap s.logHead) ++ (List.range 5).flatMap s.logBuffer).length = 4096 + 48 * 2 ^ 20 := by
  have hbuffers : ((List.range 5).flatMap s.logBuffer).length = 48 * 2 ^ 20 := by
    rw [List.length_flatMap, List.map_congr_left (g := fun u => 32 * logSize u) fun u _ =>
      show (s.logBuffer u).length = 32 * logSize u from entry_length ..]
    rfl
  rw [List.length_append, entry_length, hbuffers]

/-! ### CNTR SELECT (R387) -/

section Select

variable {s : State} {q : Nat} {c : Cmd}

/-- A code that the rings may not select. -/
def State.barredCode (s : State) (k : Nat) : Bool := !listedCode k || (classU k && !bitAt s.permit 1)

theorem State.barredCode_iff (s : State) (k : Nat) :
    s.barredCode k = true ↔ listedCode k = false ∨ (classU k = true ∧ bitAt s.permit 1 = false) := by simp [State.barredCode]

/-- The codes that a SELECT names. -/
def Cmd.codes (c : Cmd) : List Nat := (List.range 16).map fun i => c.u8 (32 + i)

/-- The first code of a SELECT that may not be selected. -/
def State.firstBarred (s : State) (c : Cmd) : Option Nat := (List.range 16).find? fun i => s.barredCode (c.codes.getD i 0)

theorem State.cntrSelect_eq (hc : s.cntr q 0 = some c) : s.cntrSelect q = (s.firstBarred c).elim
    ((s.setRing c.ring { s.ring c.ring with codes := c.codes, slots := List.replicate 16 0 }).deliver q)
    fun i => s.failCmd q .badDescriptor (32 + i) := by
  unfold State.cntrSelect
  rw [hc]
  dsimp only
  split
  next i hfind =>
    rw [show s.firstBarred c = some i from hfind]
    rfl
  next hfind =>
    rw [show s.firstBarred c = none from hfind]
    rfl

end Select

/-! ### Postcards (R398, R399) -/

section Cards

variable {s : State} {k cause : Nat}

theorem State.pcard_setCard (s : State) (k : Nat) (x : PostSlot) : (s.setCard k x).pcard k = x := by
  unfold State.setCard State.pcard
  split <;> rfl

/-- What the slots hold does not depend on the Logbooks. -/
theorem State.pcard_trigger (s : State) (cause k : Nat) : (s.trigger cause).pcard k = s.pcard k := by
  obtain ⟨l, hl⟩ := s.trigger_im cause
  unfold State.pcard
  rw [hl]

theorem State.pcard_startCard (h : (s.pcard k).busy = false) : ((s.startCard k cause).pcard k).busy = true ∧
    ((s.startCard k cause).pcard k).valid = false ∧ ((s.startCard k cause).pcard k).cause = cause ∧
    ((s.startCard k cause).pcard k).started = s.now := by
  unfold State.startCard
  dsimp only
  rw [if_neg (by simp [h]), State.pcard_trigger]
  change ((s.setCard k _).pcard k).busy = true ∧ ((s.setCard k _).pcard k).valid = false ∧ ((s.setCard k _).pcard k).cause = cause ∧
    ((s.setCard k _).pcard k).started = s.now
  rw [State.pcard_setCard]
  exact ⟨rfl, rfl, rfl, rfl⟩

theorem State.watch_trigger (s : State) (cause : Nat) : (s.trigger cause).im.watchFired = s.im.watchFired ∧
    (s.trigger cause).im.watchArmed = s.im.watchArmed := by
  obtain ⟨l, hl⟩ := s.trigger_im cause
  rw [hl]
  exact ⟨rfl, rfl⟩

/-- A capture leaves the watchdog's state. -/
theorem State.watch_startCard (s : State) (k cause : Nat) : (s.startCard k cause).im.watchFired = s.im.watchFired ∧
    (s.startCard k cause).im.watchArmed = s.im.watchArmed := by
  unfold State.startCard
  dsimp only
  split
  · exact ⟨rfl, rfl⟩
  · rw [(State.watch_trigger ..).1, (State.watch_trigger ..).2]
    unfold State.setCard
    split <;> exact ⟨rfl, rfl⟩

end Cards

/-! ### The Logbooks' rows (R394, R395) -/

section Rows

variable {s : State} {m : Master} {u v : Nat}

/-- The Logbook that a write with ARM starts. -/
def armedLog (v : Nat) : Logbook := { Logbook.initial with state := 1, mode := if bitsOf v 29 2 = 3 then 0 else bitsOf v 29 2 }

/-- The causes of the triggers that have reached Logbook `u` in this cycle. -/
def State.causesNow (s : State) (u : Nat) : List (Nat × Nat) := (s.log u).trigs.filter fun p => p.1 == s.now

theorem State.logCfgWrite_of_lands (howns : s.owns m = true) (hlands : s.regLands m = true) (harm : bitAt v 31 = true) :
    s.logCfgWrite m u v = if bitAt s.permit 2 = true then (s.causesNow u).foldl (fun (v : State) (p : Nat × Nat) => v.triggerLog u p.2)
      ((s.setReg (rLogCfg u) (v &&& 0x707F01FF)).setLog u (armedLog v)) else s.setReg (rLogCfg u) (v &&& 0x707F01FF) := by
  unfold State.logCfgWrite
  rw [if_pos ⟨howns, hlands⟩]
  simp only [harm, true_and]
  rfl

theorem State.reg_setReg_logCfg (hs : s.Inv) (v : W32) :
    (s.setReg (rLogCfg u) (v.toNat &&& 0x707F01FF)).reg (rLogCfg u) = v.toNat &&& 0x707F01FF := by
  rw [State.reg_setReg hs.regs.1, if_pos rfl]
  refine Nat.mod_eq_of_lt (Nat.lt_of_le_of_lt Nat.and_le_left ?_)
  exact Nat.lt_trans v.isLt (by decide)

/-- Arming starts an empty Logbook; the triggers of this cycle act on it. -/
theorem State.logCfgWrite_spec (hs : s.Inv) (howns : s.owns m = true) (hlands : s.regLands m = true) {v : W32}
    (harm : bitAt v.toNat 31 = true) : (s.logCfgWrite m u v.toNat).reg (rLogCfg u) = v.toNat &&& 0x707F01FF ∧
      (bitAt s.permit 2 = true → (s.causesNow u = [] → (s.logCfgWrite m u v.toNat).log u = armedLog v.toNat) ∧
        (s.causesNow u ≠ [] → ((s.logCfgWrite m u v.toNat).log u).triggered = true)) ∧
      (bitAt s.permit 2 ≠ true → (s.logCfgWrite m u v.toNat).log u = s.log u) := by
  have hlogs : (s.setReg (rLogCfg u) (v.toNat &&& 0x707F01FF)).im.logs.Ordered := hs.logs
  have harmed : ((s.setReg (rLogCfg u) (v.toNat &&& 0x707F01FF)).setLog u (armedLog v.toNat)).log u = armedLog v.toNat :=
    (State.log_setLog hlogs ..).trans (if_pos rfl)
  rw [State.logCfgWrite_of_lands howns hlands harm]
  split
  next hgranted =>
    have hframe : Frame [.im] _ ((s.causesNow u).foldl (fun (v : State) (p : Nat × Nat) => v.triggerLog u p.2)
      ((s.setReg (rLogCfg u) (v.toNat &&& 0x707F01FF)).setLog u (armedLog v.toNat))) :=
      Frame.foldl (fun (w : State) (p : Nat × Nat) => State.triggerLog_frame w u p.2) _ Frame.refl
    refine ⟨?_, fun _ => ⟨fun hnone => ?_, fun hsome => ?_⟩, fun h => absurd hgranted h⟩
    · rw [State.reg_of_regs (hframe.same .regs (by decide))]
      exact State.reg_setReg_logCfg hs v
    · rw [hnone]
      exact harmed
    · obtain ⟨-, -, -, hacts⟩ := State.triggered_foldl (fun _ => u) Prod.snd (s.causesNow u) (State.logs_setLog hlogs u (armedLog v.toNat))
      have hstate := congrArg Logbook.state harmed
      refine hacts u ?_ (.inl hstate)
      obtain ⟨p, hp⟩ := List.exists_mem_of_ne_nil _ hsome
      exact List.mem_map.mpr ⟨p, hp, rfl⟩
  next hdenied =>
    exact ⟨State.reg_setReg_logCfg hs v, fun h => absurd h hdenied, fun _ => rfl⟩

theorem State.logFull_of_full (hlive : (s.log u).Live) (hfull : (s.log u).full (logSize u) = true) :
    s.logFull u = s.setLog u { (s.log u).settle u (s.now / 2) with state := 3 } :=
  if_pos ⟨((s.log u).sameCapture_settle ..).live.mpr hlive, Logbook.full_settle hfull _⟩

end Rows

/-! ### Records (R396) -/

section Records

variable {l : Logbook} {u now : Nat} {r : List Byte}

theorem Logbook.record_of_no_loss (hloss : l.pendingLoss = 0) (hfull : l.full (logSize u) = false) : l.record u now r =
    if now / 2 + captureSlots ≤ l.nextSlot then l.lose now
    else { l.push (logSize u) r with nextSlot := l.slotAt now + 1 } := by
  unfold Logbook.record
  rw [Logbook.settle_of_no_loss hloss]
  simp [hfull, hloss]

theorem Logbook.push_of_room (hfull : l.full (logSize u) = false) : l.push (logSize u) r =
    { l with records := (r :: l.records).take (logSize u), wrptr := (l.wrptr + 1) % logSize u } := if_neg (by simp [hfull])

end Records

/-- Settles O60: the rows that write memory write one destination and deliver, the captures fill the slots, and a trigger acts on
the Logbooks that its cause reaches. -/
theorem observationCapturesAndReports : Obligations.ObservationCapturesAndReports := by
  unfold Obligations.ObservationCapturesAndReports
  refine ⟨?snap, ?select, ?dump, ?logread, ?request, ?captured, ?arm, ?manual, ?full, ?record, ?gap, ?watchdog⟩
  case snap =>
    intro s q c hs hc hheld hwrite
    have hrun : s.snap q = (((s.freeStep).writeAll (some q) [(c.u 16 8, cardImage (s.card 3 s.now) (s.privileged .host))]).trigger
        3).deliver q := by
      simp only [State.snap, hc, hheld, hwrite, Bool.false_eq_true, if_false]
    have hfree : s.freeStep.Inv := (State.freeStep_frame s).inv hs
    obtain ⟨hother, -, hdone⟩ := State.delivered_writeAll hfree (q := q) (State.runnable_cmd hc).1
      ((State.trigger_frame _ 3).ms_eq rfl) (congrArg HostGate.cmds ((State.trigger_frame _ 3).hg_eq rfl))
    rw [show (cardImage (s.card 3 s.now) (s.privileged .host)).length = 0x200000 by simp [cardImage]] at hother
    exact ⟨_, congrArg Host.Outcome.next hrun, hother, hdone⟩
  case select =>
    rintro s q c codes bad hs hc rfl hbad
    have hcmd := State.runnable_of_cntr hc
    have hbarred (i : Nat) : bad i ↔ i < 16 ∧ s.barredCode (c.codes.getD i 0) = true := by
      rw [hbad, State.barredCode_iff]
      rfl
    refine ⟨fun i hi hfirst => ?_, fun hnone => ?_⟩
    · have hfind : s.firstBarred c = some i := by
        rw [State.firstBarred, List.find?_range_eq_some]
        refine ⟨((hbarred i).mp hi).2, List.mem_range.mpr ((hbarred i).mp hi).1, fun j hj => ?_⟩
        have hgood := mt (hbarred j).mpr (hfirst j hj)
        have hi16 := ((hbarred i).mp hi).1
        simpa [show j < 16 by omega] using hgood
      have hrun : s.cntrSelect q = s.failCmd q .badDescriptor (32 + i) := by rw [State.cntrSelect_eq hc, hfind, Option.elim_some]
      refine ⟨_, congrArg Host.Outcome.next hrun, _, State.cmd_failCmd hcmd _ _, rfl, ?_⟩
      have hi16 := ((hbarred i).mp hi).1
      exact Nat.mod_eq_of_lt (by omega)
    · have hfind : s.firstBarred c = none := by
        rw [State.firstBarred, List.find?_range_eq_none]
        intro j hj
        simpa [hj] using mt (hbarred j).mpr (hnone j)
      have hrings := State.rings_setRing hs.rings c.ring { s.ring c.ring with codes := c.codes, slots := List.replicate 16 0 }
      have hkept := State.SameSelection.deliver hrings q
      have hrun := State.cntrSelect_eq hc
      rw [hfind, Option.elim_none] at hrun
      refine ⟨_, congrArg Host.Outcome.next hrun, ?_, ?_, State.exists_cmd_deliver ?_⟩
      · rw [hkept.codes, State.ring_setRing_same hs.rings]
        rfl
      · rw [hkept.slots, State.ring_setRing_same hs.rings]
      · exact (congrArg Option.isSome hcmd : _)
  case dump =>
    intro s q c hs hc hheld hwrite hhost
    have hrun : s.cntrDump q = (s.writeAll (some q) [(c.u 24 8, (List.range 256).flatMap fun e =>
        natLe 8 (if s.privileged .host then s.ctr (evtTotal e) else 0))]).deliver q := by
      simp only [State.cntrDump, hc, hheld, hwrite, Bool.false_eq_true, if_false]
    obtain ⟨hother, hbytes, hdone⟩ := State.delivered_writeAll hs (State.runnable_of_cntr hc) rfl rfl
    have hlength := flatMap_natLe_map_length 8 (fun e => if s.privileged .host then s.ctr (evtTotal e) else 0) 256
    rw [hlength] at hother
    refine ⟨_, congrArg Host.Outcome.next hrun, hother, ?_, hdone⟩
    refine List.ext_getElem ((State.rd_length ..).trans hlength.symm) fun i _ hi => ?_
    rw [State.rd_get]
    exact hbytes i hi (hhost i (hi.trans_eq hlength))
  case logread =>
    intro s q c hs hc hheld hwrite
    have hrun : s.cntrLogread q = (s.writeAll (some q) [(c.u 24 8,
        entry_ 4096 ((List.range 5).flatMap s.logHead) ++ (List.range 5).flatMap s.logBuffer)]).deliver q := by
      simp only [State.cntrLogread, hc, hheld, hwrite, Bool.false_eq_true, if_false]
    obtain ⟨hother, -, hdone⟩ := State.delivered_writeAll hs (State.runnable_of_cntr hc) rfl rfl
    rw [s.logImage_length] at hother
    exact ⟨_, congrArg Host.Outcome.next hrun, hother, hdone⟩
  case request =>
    intro s m v hreq hlands hidle
    have hslot : (s.reachedBy m).pcard 1 = s.im.slot1 := congrArg Integrity.slot1 ((State.reachedBy_frame s m).im_eq rfl)
    have hrun : (s.reachedBy m).cardRequest m v.toNat = (s.reachedBy m).startCard 1 5 :=
      if_pos ⟨hreq, (State.regLands_of_tb (s.reachedBy_tb m) m).trans hlands⟩
    obtain ⟨hbusy, hvalid, hcause, hstarted⟩ := State.pcard_startCard (cause := 5) (hslot ▸ hidle)
    exact ⟨_, congrArg Host.Outcome.next hrun, hbusy, hvalid, hcause, hstarted.trans (s.now_reachedBy m)⟩
  case captured =>
    intro s k hbusy
    refine ⟨_, congrArg Host.Outcome.next (if_neg (not_not_intro hbusy)), ?_⟩
    rw [State.pcard_setCard]
    exact ⟨rfl, rfl, rfl⟩
  case arm =>
    intro s m u v hs howns hlands harm
    have htb := s.reachedBy_tb m
    have hlog : (s.reachedBy m).log u.val = s.log u.val := State.log_of_im ((State.reachedBy_frame s m).im_eq rfl) _
    have hpermit : (s.reachedBy m).permit = s.permit := by
      unfold State.permit
      rw [htb]
    have hcauses : (s.reachedBy m).causesNow u.val = (s.log u.val).trigs.filter fun p => p.1 == s.now := by
      rw [State.causesNow, hlog, s.now_reachedBy m]
    obtain ⟨hreg, hgranted, hdenied⟩ := State.logCfgWrite_spec (u := u.val) ((State.reachedBy_frame s m).inv hs)
      ((State.owns_of_tb htb m).trans howns) ((State.regLands_of_tb htb m).trans hlands) harm
    rw [hpermit, hcauses] at hgranted
    rw [hpermit, hlog] at hdenied
    refine ⟨_, congrArg Host.Outcome.next (if_pos harm), hreg, ?_⟩
    split
    next hpermitted =>
      obtain ⟨hfresh, htriggered⟩ := hgranted hpermitted
      refine ⟨fun hnone => ?_, fun ⟨p, hp, hnow⟩ => htriggered ?_⟩
      · rw [hfresh (List.filter_eq_nil_iff.mpr fun p hp => by simpa using hnone p hp)]
        exact ⟨rfl, rfl, rfl, rfl⟩
      · exact List.ne_nil_of_mem (List.mem_filter.mpr ⟨hp, by simpa using hnow⟩)
    next hbarred => exact hdenied hbarred
  case manual =>
    intro s m v u hs howns hlands htrig hu
    have htb := s.reachedBy_tb m
    have hlog : (s.reachedBy m).log u = s.log u := State.log_of_im ((State.reachedBy_frame s m).im_eq rfl) _
    have hfld (k : Nat) : (s.reachedBy m).fld (rLogCfg k) 28 1 = s.fld (rLogCfg k) 28 1 := by
      unfold State.fld
      rw [State.reg_of_regs (s.reachedBy_regs m)]
    have hrun : (s.reachedBy m).logTrigWrite m v.toNat = (s.reachedBy m).trigger 2 :=
      if_pos ⟨(State.owns_of_tb htb m).trans howns, (State.regLands_of_tb htb m).trans hlands, htrig⟩
    obtain ⟨-, hother, -, hacts⟩ := State.triggered_trigger (s := s.reachedBy m) ((State.reachedBy_frame s m).inv hs).logs 2
    refine ⟨_, congrArg Host.Outcome.next hrun, fun hon hlive => hacts u ?_ (hlog ▸ hlive), fun hoff => (hother u ?_).trans hlog⟩
    · simp [hfld, hon, hu]
    · simp [hfld, hoff]
  case full =>
    intro s u hs hlive hfull
    refine ⟨_, congrArg Host.Outcome.next (State.logFull_of_full hlive hfull), ?_⟩
    rw [State.log_setLog hs.logs, if_pos rfl]
    exact ⟨rfl, Logbook.settle_records_of_full hfull _⟩
  case record =>
    intro l u now r hloss hfull
    rw [Logbook.record_of_no_loss hloss hfull]
    refine ⟨fun htaken => ?_, fun hfree => ?_⟩
    · rw [if_pos htaken]
      simp [Logbook.lose, hloss]
    · rw [if_neg (Nat.not_le.mpr hfree), Logbook.push_of_room hfull]
      exact ⟨rfl, rfl⟩
  case gap =>
    intro l u k hloss hlive hfull hslot
    unfold Logbook.settle Logbook.pushGap
    rw [if_pos ⟨hloss, hlive, hslot⟩, Logbook.push_of_room hfull]
    exact ⟨rfl, rfl⟩
  case watchdog =>
    intro s hwatch harmed hundelivered hlate
    let fired : State := { s with im := { s.im with watchFired := true, watchFiredAt := some s.now, watchArmed := false } }
    have hrun : s.watchdog = (if fired.im.slot0.busy then fired.trigger 4 else fired.startCard 0 4).arrive 193 :=
      if_pos ⟨hwatch, harmed, hundelivered, hlate⟩
    refine ⟨_, congrArg Host.Outcome.next hrun, ?_⟩
    rw [(State.arrive_frame ..).im_eq rfl]
    split
    next hbusy =>
      obtain ⟨hfired, hunarmed⟩ := fired.watch_trigger 4
      have hslot : (fired.trigger 4).im.slot0 = s.im.slot0 := fired.pcard_trigger 4 0
      rw [hslot]
      exact ⟨hfired, hunarmed, hbusy, fun hidle => absurd (hidle.symm.trans hbusy) Bool.false_ne_true⟩
    next hidle =>
      obtain ⟨hfired, hunarmed⟩ := fired.watch_startCard 0 4
      obtain ⟨hbusy, -, hcause, hstarted⟩ := State.pcard_startCard (s := fired) (k := 0) (cause := 4) (eq_false_of_ne_true hidle)
      exact ⟨hfired, hunarmed, hbusy, fun _ => ⟨hcause, hstarted⟩⟩

end Sys2Proof.Machine
end


section
/-!
VECT, NORM and SMAX (R57, R58, R332): a command that is computed row by row reads its operands, opens the record of its output and
puts one tensor, behind which one residue check stands.
-/
namespace Sys2Proof.Machine

open Sys2Proof

section Rows

variable {s : State} {q out : Nat} {c : Cmd} {o : Td} {ins : List Nat} {shape : State → Bool} {f : State → List (List F32)}
  {sums : State → List (List (List Val × Nat))}

/-- The state before the output tensor is put: its record is open, and the slow sums are counted. -/
def State.rowsReady (s : State) (q : Nat) (c : Cmd) (o : Td) (l : List (Nat × Nat)) (rows : List Nat) (ind : BitVec 16) : State :=
  (((s.readOperands q l).opened c.step o).noteSlow q rows).addCond q [] ind

theorem State.OnlyRings.noteSlow (s : State) (q : Nat) (rows : List Nat) : s.OnlyRings (s.noteSlow q rows) :=
  ((State.OnlyRings.of_frame (State.countOn_frame ..) rfl).trans (.of_frame (State.freeStep_frame _) rfl)).trans (.evt ..)

theorem State.rowsReady_inv (hs : s.Inv) (l : List (Nat × Nat)) (rows : List Nat) (ind : BitVec 16) : (s.rowsReady q c o l rows ind).Inv :=
  (State.addCond_frame ..).inv ((State.noteSlow_frame ..).inv ((State.opened_frame ..).inv ((State.readOperands_frame ..).inv hs)))

theorem State.rdByte_rowsReady (hs : s.Inv) {l : List (Nat × Nat)} {rows : List Nat} {ind : BitVec 16} {j : Nat}
    (hj : outside o.histRange j) : (s.rowsReady q c o l rows ind).rdByte j = s.rdByte j :=
  calc
    (s.rowsReady q c o l rows ind).rdByte j = (((s.readOperands q l).opened c.step o).noteSlow q rows).rdByte j :=
      ((State.addCond_frame ..).sameData rfl).rdByte j
    _ = ((s.readOperands q l).opened c.step o).rdByte j := ((State.noteSlow_frame ..).sameData rfl).rdByte j
    _ = (s.readOperands q l).rdByte j := State.rdByte_opened ((State.readOperands_frame ..).inv hs) hj
    _ = s.rdByte j := (State.readOperands_data ..).rdByte j

theorem State.checksOf_rowsReady (l : List (Nat × Nat)) (rows : List Nat) (ind : BitVec 16) :
    (s.rowsReady q c o l rows ind).checksOf q = s.checksOf q := by
  have hopened : ((s.readOperands q l).opened c.step o).hg.cmds = s.hg.cmds :=
    (State.opened_cmds ..).trans (State.readOperands_cmds ..)
  have hslow := (State.OnlyRings.noteSlow ((s.readOperands q l).opened c.step o) q rows).cmds
  have hadded : State.KeepsChecks q (((s.readOperands q l).opened c.step o).noteSlow q rows) (s.rowsReady q c o l rows ind) :=
    .updCmd (fun _ => rfl) fun _ => rfl
  rw [hadded.checks, State.checksOf, State.cmd_of_cmds (hslow.trans hopened), State.checksOf]

/-- A conversion into a tensor leaves one more check outstanding. -/
theorem State.checksOf_putTensor (s : State) (c : Cmd) (q : Nat) (t : Td) (r : TopRange) (vals pre : List Val) (die : Nat → Nat) :
    (s.putTensor c q t r vals pre die).checksOf q = (s.checksOf q).map (· + 1) := by
  obtain ⟨l, ind, hgate⟩ := s.putTensor_gate c q t r vals pre die
  unfold State.checksOf
  rw [State.cmd_of_cmds hgate.cmds, State.cmd_updCmd (Cmd.converted l ind) fun _ => rfl]
  cases s.cmd q <;> rfl

theorem State.rowCommand_of_operands (ho : o = s.tdAt out) (hops : s.Operands ((ins ++ [out]).map fun a => (a, 64))
    ((ins ++ [out]).all s.tdOk && shape s && (s.openOut c.step o).isSome)
    (ins.flatMap (fun a => (s.tdAt a).ranges) ++ o.histRange) o.ranges) : ∃ l rows ind r vals die,
      s.rowCommand c q ins out shape f sums = ((s.rowsReady q c o l rows ind).putTensor c q o r vals vals die).deliver q := by
  subst ho
  unfold State.rowCommand
  dsimp only
  rw [State.withOperands_of_operands hops, (State.readOperands_data ..).tdAt]
  exact ⟨_, _, _, _, _, _, rfl⟩

/-- A row command that may run writes its output and the output's record, and is delivered. -/
theorem State.rowCommand_spec (hs : s.Inv) (hc : s.cmd q = some c) (ho : o = s.tdAt out)
    (hops : s.Operands ((ins ++ [out]).map fun a => (a, 64)) ((ins ++ [out]).all s.tdOk && shape s && (s.openOut c.step o).isSome)
      (ins.flatMap (fun a => (s.tdAt a).ranges) ++ o.histRange) o.ranges) :
    (∀ j, outside (o.ranges ++ o.histRange) j → (s.rowCommand c q ins out shape f sums).rdByte j = s.rdByte j) ∧
      ∃ d, (s.rowCommand c q ins out shape f sums).cmd q = some d ∧ d.stage = .delivered ∧ d.checks = c.checks + 1 := by
  obtain ⟨l, rows, ind, r, vals, die, hrun⟩ := State.rowCommand_of_operands (f := f) (sums := sums) ho hops
  rw [hrun]
  refine ⟨fun j hj => ?_, ?_⟩
  · have hout : outside o.ranges j := fun x hx => hj x (List.mem_append_left _ hx)
    have hrec : outside o.histRange j := fun x hx => hj x (List.mem_append_right _ hx)
    exact (((State.deliver_frame ..).sameData rfl).rdByte j).trans
      ((State.rdByte_putTensor_out (State.rowsReady_inv hs l rows ind) (outside_of_lies (Td.conv_lies o r c.seed c.step vals) hout)).trans
        (State.rdByte_rowsReady hs hrec))
  · have hchecks : ((s.rowsReady q c o l rows ind).putTensor c q o r vals vals die).checksOf q = some (c.checks + 1) := by
      rw [State.checksOf_putTensor, State.checksOf_rowsReady, State.checksOf, hc]
      rfl
    obtain ⟨d, hd, hdchecks⟩ := Option.map_eq_some_iff.mp hchecks
    exact ⟨_, State.cmd_deliver hd, rfl, hdchecks⟩

end Rows

/-- Settles O20: the three commands differ in their operands and shapes; what they write and how they end is that of a row
command. -/
theorem rowCommandsDeliverAndWriteTheirTensor : Obligations.RowCommandsDeliverAndWriteTheirTensor := by
  unfold Obligations.RowCommandsDeliverAndWriteTheirTensor
  refine ⟨?vect, ?norm, ?smax⟩
  case vect =>
    rintro s q c ins o hs hc rfl rfl hops
    refine ⟨s.runVect q, rfl, ?_⟩
    unfold State.runVect
    rw [hc]
    exact State.rowCommand_spec hs (State.runnable_cmd hc).1 rfl hops
  case norm =>
    rintro s q c ins o hs hc rfl rfl hops
    have hbias : (!(c.u 32 8 != 0)) = (c.u 32 8 == 0) := Bool.not_not _
    refine ⟨s.runNorm q, rfl, ?_⟩
    unfold State.runNorm
    rw [hc]
    dsimp only
    simp only [hbias, bne_iff_ne]
    exact State.rowCommand_spec hs (State.runnable_cmd hc).1 rfl hops
  case smax =>
    rintro s q c o hs hc rfl hops
    refine ⟨s.runSmax q, rfl, ?_⟩
    unfold State.runSmax
    rw [hc]
    exact State.rowCommand_spec hs (State.runnable_cmd hc).1 rfl (by simpa using hops)

end Sys2Proof.Machine
end


section
/-!
The patrol scrub (R265, R290, R376): a state in which the scrub's repair rewrites the codeword that it has just poisoned.
-/
namespace Sys2Proof.Machine

open Sys2Proof

namespace ScrubRetracts

/-- Nothing strikes the module. -/
def still : Env := { stores := [], hostBad := [], upsets := [], lanes := [] }

/-- The module's own copy for step 6, taken into the lane of the part's one entry. -/
def copy : Copy := { rank := 0, vals := [], nf := false, at_ := 0 }

/-- The part that still collects at this module. -/
def part : Part := { newPart 6 0 0 with first := some 0, taken := [copy], seen := [0] }

/-- What XCHG 0 has sent: its copy to the module itself. -/
def sent : Sent :=
  { seq := 0, step := 6, bucket := 0, shardBase := 0, mirrorBase := 0, errmem := 0, owners := [0], nf := false, waiting := []
    cleared := false }

/-- XCHG 0, which runs. -/
def xchg : Cmd :=
  { id := 0, ring := 0, index := 0, slot := 0x30 :: List.replicate 63 0, slot2 := [], seq := some 0, stage := .running
    conds := [], ind := 0, detail := 0, seed := 0, heldSince := none, startedAt := 0, checks := 0, deps := []
    recordReady := none, recorded := false, tainted := false, unitRetired := false, repaired := false, retractions := 0
    version := none, deltas := [], signalled := false, parent := none, children := [], hold := false, seeded := false }

/-- The settings of the exchange: a group of one module, one entry, and a lane area of 1 MiB at address 0. -/
def settings : List Nat := [0x10000, 0, 0, 1, 0, 0, 0, 0, 1]

/-- The first codeword of stack 0, in the lane area, has an uncorrectable error, and XCHG 0 is noted as its last writer. -/
def state : State :=
  { State.reset with
    ms := { MemSys.initial with upset := [(0, 0x0101)] }
    hg := { HostGate.initial with cmds := [xchg], journal := [0] }
    ld := { Lantern.initial with pwr := .a0, ready := [(30, true)] }
    im := { Integrity.initial with written := [(0, 0, 48)] }
    xe := { Exchange.initial with taken := some settings, parts := [part], sends := [sent] } }

theorem state_inv : state.Inv :=
  have tabs := State.reset_inv.tabs
  have ⟨hpoison, hzone, _, hrest⟩ := tabs.ms
  have ⟨_, hlantern⟩ := tabs.ld
  have hupset : Tab.Ordered [(0, 0x0101)] := rfl
  have hready : Tab.Ordered [(30, true)] := rfl
  { mem := State.reset_inv.mem
    regs := State.reset_inv.regs
    tabs := ⟨⟨hpoison, hzone, hupset, hrest⟩, tabs.hg, tabs.mv, ⟨hready, hlantern⟩, tabs.irq, tabs.pcie, tabs.im,
      tabs.mc, tabs.af, tabs.fab, tabs.ctrs⟩ }

/-- The repair retracts the copy, and the lane is written anew: a codeword wholly written loses its poison (R371, R373). -/
theorem poisoned_after_patrol : ((state.applyEnv still).patrol 0).poisoned 0 = false := by decide +kernel

end ScrubRetracts

/-- Refutes O47: the patrol scrub poisons an uncorrectable codeword and taints the command that wrote it (R290). Where that command
is an XCHG whose own copy is retracted, the part's lanes are written again in the same change (R265), and a lane that covers the
codeword takes its poison away. -/
theorem not_scrubsCorrectAndPoison : ¬ Obligations.ScrubsCorrectAndPoison := by
  unfold Obligations.ScrubsCorrectAndPoison
  rintro ⟨hpatrol, -⟩
  obtain ⟨t, hexec, -, hvisited⟩ := hpatrol ScrubRetracts.state 0 ScrubRetracts.still ScrubRetracts.state_inv (.inl rfl)
    (by decide +kernel) (by decide +kernel)
  obtain ⟨-, hspoiled, -⟩ := hvisited 0 (by decide +kernel)
  have hpoisoned := hspoiled (by decide +kernel)
  have ht : (ScrubRetracts.state.applyEnv ScrubRetracts.still).patrol 0 = t := Host.Outcome.next.inj hexec
  rw [← ht, ScrubRetracts.poisoned_after_patrol] at hpoisoned
  cases hpoisoned

end Sys2Proof.Machine
end
